-- ==== Sys2Proof/Word.lean ====
section
/-!
DEFINITION. The word types of the model: bytes, register words, 64-bit quantities, and the little-endian reading and
writing of multi-byte fields (chapter 00, "Registers" and "Record and command layouts").
-/
namespace Sys2Proof

/-- One byte of a packet, a record or a frame. -/
abbrev Byte := BitVec 8
/-- A register is 32 bits wide (R4). -/
abbrev U32 := BitVec 32
abbrev U16 := BitVec 16
/-- A 64-bit quantity, held in a register pair (R6). -/
abbrev U64 := BitVec 64

end Sys2Proof
end

