-- ==== Sys2Proof/Syntax.lean ====
section
/-!
DEFINITION. The commands of the block: one constructor for each row of spec/opcode_table.json, and the operands that reach
the package from outside: command packets, register accesses, received frames, measured values.
-/
namespace Sys2Proof

/-- A command packet (Table 3-1) as the engine holds it, with the queue it came from. PARAM_LEN is the length of `params`. -/
structure Cmd where
  /-- Host port that sent it. -/
  port : Nat
  /-- Command queue 0 to 7 of the port; 8 stands for the boot mailbox (R356). -/
  queue : Nat := 0
  flags : U16 := 0
  seq : U32 := 0
  target : U32 := 0
  expectGen : U32 := 0
  /-- The reserved header bytes at offsets 18, 20 and 28. -/
  rsv18 : U16 := 0
  rsv20 : U32 := 0
  cookie : U32 := 0
  rsv28 : U32 := 0
  params : List Byte := []
deriving DecidableEq, Repr

/-- A posted write that a port holds in its replay buffer when it loses its link (R241): the tile whose traffic it is (8 or more for
replies, which keep their port), its address, its bytes, and whether it carries the relaxed-ordering attribute (R204). -/
structure SavedWrite where
  tile : Nat
  addr : Nat
  bytes : List Byte
  relaxed : Bool := false
deriving DecidableEq, Repr

/-- The port detectors of Table 11-9, by row, with the purpose of Table 11-8 where there is one. -/
inductive PcieError where
  | receiver | badTlp | badDllp | replayTimer | replayRollover | correctedInternal | unsupportedPosted
  | poisonedWrite | poisonedCompletion (n : Nat) | ecrc | outsideRegion | unexpectedCompletion
  | malformed | overflow | flowControl | dataLink
  /-- A double-bit error; in a buffer that holds posted writes of the device, with those that the port still holds (R235, R241). -/
  | uncorrectableInternal (posted : Option (List SavedWrite))
deriving DecidableEq, Repr

/-- What only the firmware decides about a received PTP frame (R253, R255). -/
structure PtpOutcome where
  /-- The frame is malformed in a way that its fixed fields do not show. -/
  malformed : Bool := false
  /-- Frequency adjustment that the servo's loop chooses, in 1/1,024 ppb; none to keep the present one. -/
  freqAdj : Option Int := none
deriving DecidableEq, Repr

/-- An image as the boot loader or an engine reads it: its 512-byte header (Table 18-2) and the outcomes of the checks that
depend on its bytes beyond the header and on the flash (Table 18-3, codes 0x6 and 0x8). -/
structure ImageCheck where
  header : List Byte
  payloadOk : Bool
  readOk : Bool
deriving DecidableEq, Repr

/-- An image, with the images that the payload of a golden image holds: microcode, then Alfel (Table 18-1). -/
structure Image extends ImageCheck where
  parts : List ImageCheck := []
deriving DecidableEq, Repr

/-- What the word of an uncorrectable error holds (Table 17-2): for DRAM_UE a frame of the channel's ring, a frame of a segment, a held
packet of an open block, a frame in the delivery backlog, by their places in the model's lists, or nothing in use; for SRAM_UE of a
host island the posted writes of its port (R235). -/
inductive HitItem where
  | unused
  | ring (index : Nat)
  | segment (segment index : Nat)
  | staged (block position : Nat)
  | backlog (index : Nat)
  | posted (saved : List SavedWrite)
deriving DecidableEq, Repr

/-- What comes at a detector's unit: the act of Table 17-2 at which an injection is consumed, with the real error that is found there; or,
in an SRAM, a read of the word in which an injection has put an error, with what the word holds and whether a real error is found at the
same edge, or a new write of that word. -/
inductive DetAct where
  | act (real : Option HitItem)
  | read (item : HitItem) (real : Bool)
  | overwrite
deriving DecidableEq, Repr

/-- One tile's readings of a sample period (R326): its power and its class A and exempt power in 0.1 W, its 24 sensors in
0.125 °C, the bytes of class B bursts it had waiting, and whether it receives tile 0's update. -/
structure TileSample where
  tile : Nat
  powerDw : Nat
  classADw : Nat
  temps : List Int
  waiting : Nat
  update : Bool := true
deriving DecidableEq, Repr

/-- One double word that a host writes, with its byte enables (R225). -/
structure Dw where
  value : U32
  be : BitVec 4
deriving DecidableEq, Repr

/-- A TLP at a COMPAT window (R228): its length in bytes, the value of a write (none for a read) and the byte enables. -/
structure CompatTlp where
  len : Nat
  write : Option U32
  be : BitVec 4
deriving DecidableEq, Repr

/-- A level that a ball takes, and how long it lasts, in ns (log entry 87). -/
structure BallLevel where
  high : Bool
  lasted : Nat
deriving DecidableEq, Repr

/-- What the TAP is given (R372): an instruction, SAMPLE/PRELOAD with the levels that the balls have and those that are shifted into the
boundary register, another instruction that drives the balls from that register or not, or a reset by TRST_N. -/
inductive TapInstr where
  | bypass
  | idcode
  | samplePreload (sample preload : List Bool)
  | other (drives : Bool)
  | reset
deriving DecidableEq, Repr

/-- The rows of spec/opcode_table.json. -/
inductive Instr where
  /-- R33: A host write to a register that has no row of its own is applied if directly writable, or ignored and counted in HE_IGNORED_WRITES. -/
  | registerWrite (port offset : Nat) (value : Dw)
  /-- R6: A read of a _LO register captures the whole 64-bit value for the following _HI read from the same port. -/
  | loReadCapture (port offset : Nat)
  /-- R6: A write to a _HI register commits both halves of a 64-bit pair at once. -/
  | hiWriteCommit (port offset : Nat) (value : Dw)
  /-- R34: In TEST mode the master port writes an RO configuration field, which the engine executes as the corresponding command. -/
  | testFieldWrite (port offset : Nat) (value : U32)
  /-- R225: A CONTROL TLP of unsupported shape is completed with Completer Abort if a read, or ignored and counted if a write. -/
  | controlMalformedAccess (port : Nat) (read : Bool)
  /-- R18: VBAT rises above 2.5 V and the calendar clock starts, taking the package from OFF to BACKUP. -/
  | vbatRise
  /-- R366: VBAT falls below 2.5 V while VDD_IO is out of range, calendar time is lost and the package goes to OFF. -/
  | vbatFall
  /-- R18: Main supplies come within specification with the reset ball asserted and the package enters RESET. -/
  | mainSuppliesValid
  /-- R18: A main supply leaves specification and the package goes to BACKUP or OFF. -/
  | mainSupplyLoss
  /-- R366: VDD_IO leaves its range and the always-on island moves to VBAT without losing a tick. -/
  | vddIoLoss
  /-- R348: The reset ball is asserted and a package reset destroys every handle, resets registers and takes host links down. -/
  | resetNAssert
  /-- R349: The reset ball is released, straps are sampled, package time is seeded from the calendar and BOOT starts. -/
  | resetNRelease (bootSrc : Bool) (bootPort : Nat)
  /-- R352: The ROM stage finishes reading and verifying a boot loader copy and starts it, or falls back to the ROM loader. -/
  | bootLoaderLoad (copy : Nat) (img : Image)
  /-- R355: The boot loader finishes reading both boot configuration copies and selects the current one or defaults. -/
  | bootConfigLoad (copy0 copy1 : List Byte)
  /-- R352: The boot loader finishes reading and verifying a microcode slot and sends it to every tile, or tries the next slot. -/
  | microcodeLoad (slot : Nat) (img : Image)
  /-- R352: The boot loader finishes reading and verifying an Alfel slot and starts it on engine 0, or tries the next slot. -/
  | alfelLoad (slot : Nat) (img : Image)
  /-- R352: The boot loader finishes loading the golden image, or on its failure sets STAGE 0x6 and waits for host images. -/
  | goldenLoad (outer micro alfel : ImageCheck)
  /-- R354: A tile finishes checking microcode and training its links, time lock and DRAM stack during BOOT. -/
  | tileTrained (tile : Nat)
  /-- R354: A tile not trained within 850 ms of receiving microcode ends BOOT OUT_OF_SERVICE with FAULT, or halts BOOT if it is tile 0. -/
  | tileTrainTimeout (tile : Nat)
  /-- R356: A write of GO to the boot mailbox makes the boot loader read, execute and reply to one command packet. -/
  | mailboxGo (port block : Nat) (packet : List Byte) (img : Image) (conf : List Byte)
  /-- R20: The master port asks for a mode transition, which is checked against Table 2-2 and scheduled at commit time TC. -/
  | modeSet (c : Cmd)
  /-- R18: Returns copies of PKG_MODE, PKG_TILE_SERVICE, PKG_MODE_CAUSE and the master port. -/
  | modeQuery (c : Cmd)
  /-- R21: At TC each IN_SERVICE tile applies the new mode; frames whose leader comes from TC belong to it. -/
  | modeCommit
  /-- R22: Every open frame of a drain has completed and been delivered or written, and the MODE_SET replies. -/
  | modeDrainComplete
  /-- R22: The drain limit expires and every frame still open is closed as it stands, counted in CUT_FRAMES. -/
  | modeDrainLimit
  /-- R26: The master orders a tile to drain, committing at TC and entering DRAINING. -/
  | tileQuiesce (c : Cmd)
  /-- R26: At the quiesce commit time the tile stops opening frames. -/
  | tileQuiesceCommit (tile : Nat)
  /-- R26: A draining tile's open frames have all finished and the tile enters QUIESCED. -/
  | tileDrainComplete (tile : Nat)
  /-- R26: The tile drain limit expires, open frames are closed as in R22 and the tile enters QUIESCED. -/
  | tileDrainLimit (tile : Nat)
  /-- R26: The master returns a QUIESCED tile to IN_SERVICE at a commit time. -/
  | tileResume (c : Cmd)
  /-- R27: The master orders a QUIESCED tile powered down, unless it is tile 0, holds the active engine or the master port. -/
  | tilePowerDown (c : Cmd)
  /-- R26: The tile enters OUT_OF_SERVICE, its handles are destroyed and the fabric routes around it. -/
  | tilePowerDownDone (tile : Nat)
  /-- R322: The master orders an OUT_OF_SERVICE tile powered up, given microcode and trained. -/
  | tileRejoin (c : Cmd)
  /-- R322: Power-up, microcode check and DRAM training finish and the tile enters REJOINING. -/
  | tileRejoinPrepared (tile : Nat) (img : Image) (powerUp dram : Bool)
  /-- R30: Links are trained and the tile is time-locked; it is declared IN_SERVICE in the package mode. -/
  | tileRejoinLocked (tile : Nat) (links lock : Bool)
  /-- R320: Returns the tile controller's service state, stamp, microcode and rejoin count. -/
  | tileQuery (c : Cmd)
  /-- R340: A detector fires, is counted and stamped, raises HM_ERROR, and its class action of Table 17-1 follows. -/
  | hwDetectorOccurrence (tile det unit : Nat) (act : DetAct)
  /-- R15: A Praline transfer fails its CRC and is retried on the same link in order. -/
  | fabricTransferRetry (tile unit : Nat) (passes : Bool)
  /-- R15: A link fails 16 consecutive retries, is declared down and traffic is sent the other way round. -/
  | fabricLinkDown (tile unit : Nat)
  /-- R15: A failed Praline link is restored and the ring closes again. -/
  | fabricLinkRestored (link : Nat)
  /-- R17: A codec engine's input backlog passes its high mark and following slices are written in escape form. -/
  | codecBacklogHigh (tile engine : Nat)
  /-- R17: The backlog falls below its low mark and normal coding resumes. -/
  | codecBacklogLow (tile engine : Nat)
  /-- R53: In a scheduling slot the engine takes a ready packet whose reply room is available, checks it and executes it. -/
  | commandTake (port queue : Nat) (packet : List Byte) (img : Image) (conf : List Byte) (programmed : Bool)
  /-- R37: A packet with PARAM_LEN over 4,096 bytes gets E_TOO_LONG and every slot up to the doorbell count is discarded. -/
  | commandTooLong (op len : Nat) (c : Cmd)
  /-- R9: A packet with an undefined opcode fails with E_OPCODE. -/
  | undefinedOpcode (op : Nat) (c : Cmd)
  /-- R32: The host writes a command queue doorbell with its count of slots written. -/
  | cmdQueueDoorbell (port queue : Nat) (count : U32)
  /-- R35: The host writes a reply queue doorbell with its count of slots consumed, freeing reply room. -/
  | replyQueueDoorbell (port queue : Nat) (count : U32)
  /-- R214: The host writes a buffer or management queue doorbell; a pass of the park position re-reads that descriptor. -/
  | chainQueueDoorbell (port queue : Nat) (count : U32)
  /-- R209: The host writes a completion or event queue consumed count, rejected if ahead of the written count. -/
  | cplQueueDoorbell (port queue : Nat) (count : U32)
  /-- R210: The owner writes a queue's MASK; clearing it sends pending interrupt messages within 1 µs. -/
  | dbMaskWrite (port queue : Nat) (mask : Bool)
  /-- R58: A write of OPEN to CE_BOOT_CTRL asks to open the port's bootstrap pair. -/
  | bootstrapOpen (port block : Nat)
  /-- R58: Within 100 µs the bootstrap pair opens or is refused and CE_BOOT_STATUS shows the result. -/
  | bootstrapOpened (port : Nat)
  /-- R57: Returns a copy of its parameters. -/
  | nop (c : Cmd)
  /-- R57: Returns device identity, ports, master, Alfel version, features, orphan grace and CE_CONFIG_GEN. -/
  | pkgInfo (c : Cmd)
  /-- R52: The master passes its role to another connected port. -/
  | masterSet (c : Cmd)
  /-- R52: Any port takes a vacant master role. -/
  | masterClaim (c : Cmd)
  /-- R348: The master replies OK and then resets the package. -/
  | pkgReset (c : Cmd)
  /-- R49: Returns owner, state, references, CONFIG_GEN and orphan deadline of a handle. -/
  | handleQuery (c : Cmd)
  /-- R46: Destroys an object as its own destroy command would, the only way for a faulted object. -/
  | handleDestroy (c : Cmd)
  /-- R51: Moves an orphaned handle, or every orphan of a port, to the sender. -/
  | adopt (c : Cmd)
  /-- R49: The master sets the orphan grace from 0 s to 60 s. -/
  | orphanGraceSet (c : Cmd)
  /-- R57: Lists handles of a port, all or orphaned, after a given value. -/
  | handleList (c : Cmd)
  /-- R49: At an orphan deadline every handle still orphaned is destroyed by forced destruction. -/
  | orphanDeadline
  /-- R52: The master port has not opened its bootstrap pair within the orphan grace and the role becomes vacant. -/
  | masterRoleVacant
  /-- R80: The master configures an Ethernet port's physical layer, addresses, VLAN and flags. -/
  | lanePortSet (c : Cmd)
  /-- R79: Returns a port's configuration, status, addresses and management queues. -/
  | lanePortQuery (c : Cmd)
  /-- R61: The master enables or disables a port, starting or stopping its link state machine. -/
  | laneEnable (c : Cmd)
  /-- R66: The master starts an extended-rate exchange on a port, replying when it ends. -/
  | laneErOffer (c : Cmd)
  /-- R73: The master binds or unbinds a port's management receive and transmit queues. -/
  | laneMgmtBind (c : Cmd)
  /-- R76: Sets a port's lane counters to 0. -/
  | laneCountersClear (c : Cmd)
  /-- R78: Queues an eye scan of one lane as class C work. -/
  | laneEyeScan (c : Cmd)
  /-- R78: An eye scan finishes its 2,048 cells and replies with the counts. -/
  | eyeScanComplete (lane : Nat) (cells : List Byte)
  /-- R61: Auto-negotiation completes with the configured type and the port starts training. -/
  | anComplete (lane : Nat)
  /-- R61: Auto-negotiation does not complete within 2 s and the port enters RETRY_WAIT. -/
  | anTimeout (lane : Nat)
  /-- R61: Both ends report training complete and the port starts locking. -/
  | trainingComplete (lane : Nat)
  /-- R61: The training time limit expires and the port enters RETRY_WAIT. -/
  | trainingTimeout (lane : Nat)
  /-- R61: Lock holds for 10 ms on every lane; the port is UP, UP_NS32 taken and LINK_UP raised. -/
  | linkUp (lane : Nat)
  /-- R61: No lock within 50 ms and the port enters RETRY_WAIT. -/
  | lockTimeout (lane : Nat)
  /-- R61: Lock is lost or local fault lasts 1 ms; the partial frame is dropped, LINK_DOWN raised, RETRY_WAIT entered. -/
  | linkLoss (lane : Nat) (partialFrame : Bool)
  /-- R61: After 1 s in RETRY_WAIT the port restarts as from DISABLED. -/
  | retryWaitExpiry (lane : Nat)
  /-- R61: A remote fault received while UP sets REMOTE_FAULT and the link stays UP. -/
  | remoteFaultChange (lane : Nat) (on : Bool)
  /-- R70: A received Ethernet frame is filtered, checked, counted and classified to exactly one consumer. -/
  | rxFrame (lane : Nat) (bytes : List Byte)
  /-- R75: The device transmits a frame from the management transmit queue, adding FCS, tag and padding, or refuses it. -/
  | mgmtTxFrame (lane : Nat) (bytes : List Byte)
  /-- R211: Once a management frame is received or has left, RESULT_LEN and WB are written back in one write. -/
  | mgmtWriteback
  /-- R65: An EtherType 0x88B5 frame is consumed and acted on only if it matches the exchange state, else counted in ER_IGNORED. -/
  | erFrameReceive (lane : Nat)
  /-- R66: After 100 ms UP without uncorrectable codewords a PENDING port sends OFFER and enters OFFERED. -/
  | erStabilityExpiry (lane : Nat)
  /-- R66: Every 10 ms while OFFERED another OFFER is sent. -/
  | erOfferRepeat (lane : Nat)
  /-- R66: Ten OFFERs and 10 ms more pass without answer and the exchange ends in NO_ANSWER. -/
  | erNoAnswer (lane : Nat)
  /-- R66: SWITCH is sent again 100 µs after the previous one, three times in all. -/
  | erSwitchRepeat (lane : Nat)
  /-- R66: SWITCH_DELAY after the first SWITCH the lanes retrain at 112.5 Gb/s. -/
  | erSwitchDelayExpiry (lane : Nat)
  /-- R66: 500 ms without link UP while SWITCHING; lanes revert to 106.25 Gb/s and the exchange FAILS. -/
  | erSwitchTimeout (lane : Nat)
  /-- R66: Every 10 ms while CONFIRMING another CONFIRM is sent. -/
  | erConfirmRepeat (lane : Nat)
  /-- R66: 100 ms without echo while CONFIRMING; the port reverts and the exchange FAILS. -/
  | erConfirmTimeout (lane : Nat)
  /-- R66: Three consecutive failed retrains in AGREED revert the port to standard rate and raise ER_FAILED. -/
  | erRetrainExhausted (lane : Nat)
  /-- R81: The master sets a port's GVCP local UDP port. -/
  | streamPortSet (c : Cmd)
  /-- R81: The master sets one camera source entry of a port. -/
  | streamSourceSet (c : Cmd)
  /-- R82: Creates a stream channel on the tile of its lane with creation values. -/
  | streamCreate (c : Cmd)
  /-- R107: Changes a channel's modifiable fields under the frame-leader hand-over. -/
  | streamConfig (c : Cmd)
  /-- R108: Destroys a channel, discarding open blocks and raising CHANNEL_GONE. -/
  | streamDestroy (c : Cmd)
  /-- R107: Returns a channel's layout, owner, open blocks, held packets and last block. -/
  | streamQuery (c : Cmd)
  /-- R102: The master sets one scheduled action entry of a tile. -/
  | actionSet (c : Cmd)
  /-- R102: Returns an action entry's registers. -/
  | actionQuery (c : Cmd)
  /-- R97: A claimed GVSP datagram is checked, placed in its block, held or released in order, and reveals gaps. -/
  | gvspPacket (lane : Nat)
  /-- R94: HOLDOFF_US after detection a still-missing run is requested with PACKETRESEND_CMD. -/
  | resendRequest (channel : Nat)
  /-- R94: INTERVAL_US after a request still-missing positions are requested again. -/
  | resendRepeat (channel : Nat)
  /-- R95: Retries, resend-disabled holdoff or block budget expire and a missing position is given up. -/
  | giveUpTimer (channel : Nat)
  /-- R93: No packet for QUIET_US while a block is open; missing positions up to the trailer are detected. -/
  | quietTimeout (channel : Nat)
  /-- R103: At the send instant A − LEAD_NS an ACTION_CMD is built and sent, or counted missed. -/
  | actionSend (output : Nat)
  /-- R109: The assembler takes in a leader, numbers the frame, fixes its configuration set and computes exposure start. -/
  | frameLeader (channel : Nat)
  /-- R117: When package time reaches a future mid-time M the encoder position is taken for the tag. -/
  | positionAtMidtime (channel : Nat)
  /-- R116: Every 64 ns a motion interface records its counter in the position history ring. -/
  | positionHistoryRecord (mi : Nat)
  /-- R118: With the last slice coded and decided the tag record is completed and written after the payload. -/
  | tagComplete (channel : Nat)
  /-- R125: A commit completes at the assembly-island edge, becoming the active set and raising COMMIT_APPLIED. -/
  | configCommitApplied (channel : Nat)
  /-- R123: ANCHOR_INTERVAL_MS elapses and a time anchor and position anchors are written to a queue. -/
  | timeAnchorDue (queue : Nat)
  /-- R130: Sets a channel's exposure-time mode, encoder slots and exposure values, per-frame. -/
  | faConfig (c : Cmd)
  /-- R130: Returns a channel's assembler settings and commit state. -/
  | faQuery (c : Cmd)
  /-- R127: Opens staging on a channel. -/
  | faStageBegin (c : Cmd)
  /-- R128: Rechecks and takes resources and commits the whole shadow, at once or at AT. -/
  | faStageCommit (c : Cmd)
  /-- R128: The assembly edge at or after AT (and after any table build) completes the waiting staged commit. -/
  | stageCommitAt (channel : Nat)
  /-- R127: Restores the last committed set into the shadow and ends staging. -/
  | faStageAbort (c : Cmd)
  /-- R130: The master sets ANCHOR_INTERVAL_MS. -/
  | anchorSet (c : Cmd)
  /-- R131: Sets a channel's codec mode and parameters, per-frame, with rate and table admission. -/
  | cdConfig (c : Cmd)
  /-- R156: Returns a channel's codec settings, calibrations and balance. -/
  | cdQuery (c : Cmd)
  /-- R140: Installs a calibration on a channel, per-frame. -/
  | cdCalSet (c : Cmd)
  /-- R142: Starts measuring one photon-transfer point from the next two qualifying frames. -/
  | cdCalSample (c : Cmd)
  /-- R142: The frame pair closes, MEAN and VAR are computed, the point is kept and the command replies. -/
  | calSampleDone (channel : Nat)
  /-- R143: Fits a calibration from the kept points and optionally installs it. -/
  | cdCalFit (c : Cmd)
  /-- R139: Returns entries of a NOISE level table built by R139. -/
  | cdTableRead (c : Cmd)
  /-- R153: The master sets SAMPLE_N for self-checks. -/
  | cdCheckSet (c : Cmd)
  /-- R154: Self-tests a suspect engine and returns it to use on success. -/
  | cdEngineRestore (c : Cmd) (pass : Bool)
  /-- R141: A NOISE level table build finishes and the waiting commit may complete. -/
  | levelTableBuilt (channel : Nat)
  /-- R152: A complete band enters the codec island, its slices are dealt to engines and its statistics go to the detector. -/
  | bandToCodec (channel : Nat)
  /-- R146: An engine finishes a slice, self-checks it if sampled, and the slice leaves the island. -/
  | sliceCoded (tile engine index : Nat) (matches_ : Bool)
  /-- R154: Three mismatches within 1 s take an engine out of use and reduce CD_CAPACITY. -/
  | engineSuspect (tile engine : Nat)
  /-- R158: A frame record's tag is written after its data; the ring takes room by Table 8-2 and segments collect it. -/
  | frameRecordValid (channel : Nat)
  /-- R164: An event at TRIGGER_cc triggers the ARMED segment with T, or is counted as ignored. -/
  | triggerInput (channel n : Nat)
  /-- R163: POST_WAIT_MS passes after a trigger and the segment freezes with POST_SHORT. -/
  | postWaitExpiry (segment : Nat)
  /-- R162: Sets a channel's ring target size. -/
  | fsRingSet (c : Cmd)
  /-- R178: Returns a tile's pool, ring, layer, index and segment totals. -/
  | fsQuery (c : Cmd)
  /-- R163: Creates an ARMED segment on a channel. -/
  | fsSegArm (c : Cmd)
  /-- R164: Triggers an ARMED segment at an explicit time or now. -/
  | fsTrigger (c : Cmd)
  /-- R169: Releases a segment, returning its pages or protection. -/
  | fsSegRelease (c : Cmd)
  /-- R167: Freezes every valid frame of a ring into a new FROZEN segment. -/
  | fsFreezeRing (c : Cmd)
  /-- R178: Returns a segment's state and contents. -/
  | fsSegQuery (c : Cmd)
  /-- R173: Returns directory entries of a frozen segment. -/
  | fsDirRead (c : Cmd)
  /-- R171: Starts reading out a FROZEN segment's frames into host buffers. -/
  | fsRead (c : Cmd)
  /-- R171: A readout frame's completion entry is written; after the last frame the FS_READ replies. -/
  | readoutFrameDone (segment : Nat)
  /-- R172: A readout ending early finishes its burst, abandons the frame, writes a status record and replies. -/
  | readoutEarlyEnd (segment : Nat)
  /-- R172: Aborts the readout of a named segment. -/
  | fsReadAbort (c : Cmd)
  /-- R173: Maps a FROZEN segment into the port's STORE region. -/
  | fsMap (c : Cmd)
  /-- R173: Removes a segment's mapping on the port. -/
  | fsUnmap (c : Cmd)
  /-- R173: A read TLP of the STORE region returns mapped data or zeros from an unmapped range. -/
  | storeRead (port offset len : Nat)
  /-- R227: A write of BAR Size changes the STORE size, removing mappings and invalidating COMPAT windows. -/
  | storeResize (port code : Nat)
  /-- R188: An event at ARM_cc re-arms every ONCE rule of the channel. -/
  | armInput (channel n : Nat)
  /-- R180: Sets one ROI of a channel, per-frame, allocating activity memory. -/
  | adRoiSet (c : Cmd)
  /-- R181: Returns an ROI's settings and last statistics. -/
  | adQuery (c : Cmd)
  /-- R186: Creates a rule on a channel, per-frame. -/
  | adRuleCreate (c : Cmd)
  /-- R189: Changes a rule, per-frame. -/
  | adRuleConfig (c : Cmd)
  /-- R187: Re-arms a rule. -/
  | adRuleArm (c : Cmd)
  /-- R187: Returns a rule's layout, armed state, streak and firings. -/
  | adRuleQuery (c : Cmd)
  /-- R189: Destroys a rule at once. -/
  | adRuleDestroy (c : Cmd)
  /-- R183: Creates a reference frame and takes its blocks. -/
  | adRefCreate (c : Cmd)
  /-- R185: Starts filling a reference from the next qualifying frames. -/
  | adRefCapture (c : Cmd)
  /-- R185: The reference is filled, REF_CAPTURED is raised and the command replies. -/
  | refCaptured (reference : Nat)
  /-- R194: Destroys a reference frame. -/
  | adRefDestroy (c : Cmd)
  /-- R183: Returns a reference's layout, validity and users. -/
  | adRefQuery (c : Cmd)
  /-- R196: A write of START to an idle raw channel latches its registers, checks the run and starts it. -/
  | mvStart (port chan : Nat)
  /-- R206: A write of ABORT aborts a running raw run after its current burst. -/
  | mvAbortBit (port chan : Nat)
  /-- R200: An event at GO_ccc starts an idle unpaced raw run or adds a burst credit to a paced one. -/
  | goInput (chan n : Nat)
  /-- R203: A run's last burst is issued and every write response has returned; status is written and MOVER_ENDED raised. -/
  | moverRunComplete (chan : Nat) (source : List Byte)
  /-- R206: An aborted run's responses have returned; RESIDUE is set, status written and MOVER_ABORTED raised. -/
  | moverAbortDone (chan bursts : Nat) (source : List Byte)
  /-- R205: A flush read completes or times out and the completion entry or status record is written. -/
  | flushReadDone (live : Bool) (chan : Nat) (timeout : Bool)
  /-- R212: A descriptor read completes; the queue runs on, parks at END, or stops on a bad descriptor or runaway. -/
  | descriptorRead (queue : Nat) (bytes : List Byte)
  /-- R216: A live frame takes the next buffer and reserves a completion entry at its first payload write, or is dropped. -/
  | frameDeliveryStart (channel : Nat)
  /-- R218: A frame's payload responses have returned; its tag and then its completion entry are written. -/
  | frameDeliveryComplete (channel : Nat)
  /-- R219: An entry waiting for free room in a completion or event queue is written once room frees. -/
  | pendingEntryWrite (queue : Nat)
  /-- R210: COAL_US passes since the first unsignalled entry and the queue's vector is signalled. -/
  | coalesceTimer (queue : Nat)
  /-- R208: Creates a queue of a given type on a tile. -/
  | queueCreate (c : Cmd)
  /-- R221: Changes a queue's flags, vector, coalescing and priority. -/
  | queueConfig (c : Cmd)
  /-- R221: Destroys a queue, replying after the device's last write to it. -/
  | queueDestroy (c : Cmd)
  /-- R221: Returns a queue's layout, state and counts. -/
  | queueQuery (c : Cmd)
  /-- R215: Makes a STOPPED chain queue IDLE at a position. -/
  | queueRestart (c : Cmd)
  /-- R195: Reserves a shared or steady mover channel as a raw channel. -/
  | mvReserve (c : Cmd)
  /-- R206: Releases a reservation, aborting a running run with CAUSE 7. -/
  | mvRelease (c : Cmd)
  /-- R221: Returns a reserved channel's window. -/
  | mvQuery (c : Cmd)
  /-- R206: Aborts a reserved channel's run and replies after the status record. -/
  | mvAbort (c : Cmd)
  /-- R228: A COMPAT TLP is translated through its window to CONTROL or STORE, or counted if invalid. -/
  | compatAccess (port offset : Nat) (tlp : CompatTlp)
  /-- R229: Writing COMMIT checks the staged table and copies it to the active table, or refuses it. -/
  | compatCommit (port : Nat)
  /-- R230: Unmasking a vector sends its pending message. -/
  | msixUnmask (port vector : Nat)
  /-- R231: A W1C write to HE_INTX_STATUS clears bits; when none remain Deassert_INTA is sent. -/
  | intxStatusClear (port reg : Nat) (value : U32)
  /-- R232: A non-posted request times out, is counted and reported, and acted on by purpose. -/
  | completionTimeout (port n : Nat)
  /-- R233: A completion for a timed-out request is discarded and reported as advisory. -/
  | lateCompletion (port : Nat)
  /-- R234: A port-local PCIe detector fires, sets its AER bit and takes its device action. -/
  | pcieRxError (port : Nat) (error : PcieError) (header : List Byte)
  /-- R236: Every 10 ms with PTM enabled the port starts a measurement. -/
  | ptmPeriod (port : Nat)
  /-- R236: An event at PTM_NOW starts a measurement at once. -/
  | ptmNow (port n : Nat)
  /-- R236: A PTM response arrives; P, H and D are written and SEQ incremented. -/
  | ptmDialogueDone (port : Nat) (master : U64) (propagation : Nat)
  /-- R236: A PTM response does not arrive within 10 µs and the measurement is dropped. -/
  | ptmResponseTimeout (port : Nat)
  /-- R237: A read of HE_PTM_STATUS captures the whole PTM result for the port. -/
  | ptmStatusRead (port tile : Nat)
  /-- R238: PERST# resets port p: configuration cleared, queues destroyed, handles orphaned, bootstrap closed. -/
  | perst (port : Nat)
  /-- R238: A hot reset of port p has the effects of Table 11-10. -/
  | hotReset (port : Nat)
  /-- R239: A function-level reset of port p starts and its queues and handles follow R49. -/
  | functionLevelReset (port : Nat)
  /-- R239: The function-level reset completes within 10 ms and configuration requests are served again. -/
  | flrDone (port : Nat)
  /-- R240: The port enters DL_Down; queues are held, writes saved for replay and routes move away. -/
  | portLinkDown (port : Nat) (saved : List SavedWrite)
  /-- R242: A port becomes connected or unconnected and routes are recomputed. -/
  | portConnectedChange (port : Nat)
  /-- R240: A held port not connected again by its deadline has R49 applied. -/
  | holdDeadline (port : Nat)
  /-- R243: At a producer's next boundary a flush read through the old port completes and writes move to the new route port. -/
  | routeMoveToward (port tile : Nat)
  /-- R255: Returns package time, clock state, offset, frequency and steps. -/
  | timeQuery (c : Cmd)
  /-- R248: The master sets package time by a phase step at a commit time. -/
  | timeSet (c : Cmd)
  /-- R248: In HOST mode the master changes frequency, slews or steps package time. -/
  | timeAdjust (c : Cmd)
  /-- R253: The master sets the servo mode and thresholds. -/
  | timeServoSet (c : Cmd)
  /-- R248: At the commit time a frequency change, slew or phase step is applied on every tile. -/
  | timeChangeCommit
  /-- R252: The master sets the PTP clock data set. -/
  | ptpClockSet (c : Cmd)
  /-- R258: The master sets a PTP port's transport, intervals and corrections. -/
  | ptpPortSet (c : Cmd)
  /-- R251: Returns PTP clock and port data. -/
  | ptpQuery (c : Cmd)
  /-- R253: A received PTP frame is handled by firmware, giving servo samples, or passed to the management queue in HOST mode. -/
  | ptpMessageReceive (lane : Nat) (outcome : PtpOutcome)
  /-- R255: announceReceiptTimeout expires and the clock enters HOLDOVER. -/
  | announceReceiptTimeout (lane : Nat)
  /-- R251: A PTP message interval expires and firmware sends its message. -/
  | ptpMessageTimer (lane msgType : Nat) (origin : List Byte)
  /-- R268: A read of TU_TXTS_POP by the protocol side removes and captures the head entry. -/
  | txtsPop (port tile : Nat)
  /-- R267: A read of PKG_TIME_NS or PKG_CAL_TICKS captures the whole time for the port. -/
  | pkgTimeRead (port : Nat) (calendar : Bool)
  /-- R259: Creates a scheduled output with its target and pulse train. -/
  | schedCreate (c : Cmd)
  /-- R264: Destroys a scheduled output, stopping it with its pin idle. -/
  | schedDestroy (c : Cmd)
  /-- R259: Returns a scheduled output's window. -/
  | schedQuery (c : Cmd)
  /-- R260: A pulse falls due; its event is raised and its pin edge is driven. -/
  | schedPulseDue (output : Nat)
  /-- R261: An event at SCHED_GO_n starts a new train at Te + DELAY, or is rejected late. -/
  | schedGo (output n : Nat)
  /-- R265: The master sets the calendar clock. -/
  | calSet (c : Cmd)
  /-- R265: Returns calendar time and status. -/
  | calQuery (c : Cmd)
  /-- R265: Once per second while LOCKED or set by TIME_SET the calendar is aligned to package time. -/
  | calendarAlign
  /-- R276: A router takes in an event, publishes it by group and hop count, and delivers it to task inputs and event queues. -/
  | eventIntake (tile : Nat)
  /-- R273: A route change reaches its commit time and applies on every tile. -/
  | routeCommit (route : Nat)
  /-- R278: An event at GROUP_ON_gg or GROUP_OFF_gg schedules a group change at its time plus 1 µs. -/
  | groupInput (index n : Nat)
  /-- R278: A group change reaches its commit time and applies on every tile. -/
  | groupCommit
  /-- R281: An accepted input edge of a pin raises an event stamped at the ball, or is suppressed. -/
  | pinInputEdge (pin : Nat) (level : BallLevel)
  /-- R282: An action at PIN_p performs PULSE, SET, CLEAR or TOGGLE, at once or timed. -/
  | pinAction (pin n : Nat)
  /-- R282: A timed or trimmed pin edge leaves the ball at its scheduled time. -/
  | pinEdgeDue (pin : Nat)
  /-- R282: WIDTH_NS after a leading edge the pulse ends and the pin returns to idle. -/
  | pinPulseEnd (pin : Nat)
  /-- R272: Creates a publication or subscription route. -/
  | evRouteCreate (c : Cmd)
  /-- R273: Destroys a route at its commit time. -/
  | evRouteDestroy (c : Cmd)
  /-- R274: Returns a route's layout, owner, cleared state and deliveries. -/
  | evRouteQuery (c : Cmd)
  /-- R280: The master sets a pin's mode and parameters. -/
  | evPinSet (c : Cmd)
  /-- R280: Returns a pin's window. -/
  | evPinQuery (c : Cmd)
  /-- R278: The master changes channel groups at a commit time. -/
  | evGroupSet (c : Cmd)
  /-- R278: Returns the group state and last group commit. -/
  | evStatus (c : Cmd)
  /-- R270: The master raises an event on tile 0 on a channel. -/
  | evPublish (c : Cmd)
  /-- R284: Starts pairing frames of a channel with edges of a pin. -/
  | evSkewLearn (c : Cmd)
  /-- R284: FRAMES pairs are collected, statistics and NEW_TRIM computed and optionally installed. -/
  | skewLearnDone (pin : Nat)
  /-- R289: A counted edge changes the position counter, updates speed and is tested against compare unit and table. -/
  | motionEdge (mi : Nat) (a b : BallLevel)
  /-- R293: An index edge copies the counter, raises MO_AXIS INDEX and applies INDEX_ACTION. -/
  | indexEdge (mi : Nat) (level : BallLevel)
  /-- R295: STANDSTILL_US passes since the last edge and speed reads 0 with STILL set. -/
  | standstillExpiry (mi : Nat)
  /-- R298: An event at CMP_ARM_i arms the compare unit with the last commanded target. -/
  | cmpArmInput (mi n : Nat)
  /-- R299: An event at TABLE_START_i repeats the last table start. -/
  | tableStartInput (mi n : Nat)
  /-- R292: An event at PRESET_i presets the counter to PRESET_VALUE. -/
  | presetInput (mi n : Nat)
  /-- R303: An event at LATCH_i copies the counter and time and raises MO_AXIS LATCH. -/
  | latchInput (mi n : Nat)
  /-- R304: A read of MO_POS_i captures counter, stamp, speed and status for the port. -/
  | moPosRead (port mi : Nat)
  /-- R289: The master sets a motion interface's inputs, index, filter and speed settings. -/
  | moConfig (c : Cmd)
  /-- R304: Returns an interface's settings, position, speed and status. -/
  | moQuery (c : Cmd)
  /-- R292: The master presets a position counter. -/
  | moPreset (c : Cmd)
  /-- R296: Creates the compare handle of an interface. -/
  | moCmpCreate (c : Cmd)
  /-- R298: Arms the compare unit at a position and direction. -/
  | moCmpArm (c : Cmd)
  /-- R298: Disarms the compare unit. -/
  | moCmpDisarm (c : Cmd)
  /-- R299: Loads offsets into the compare table. -/
  | moTblLoad (c : Cmd)
  /-- R299: Starts a compare table run. -/
  | moTblStart (c : Cmd)
  /-- R299: Stops a compare table run. -/
  | moTblStop (c : Cmd)
  /-- R296: Returns the compare and table registers of an interface. -/
  | moCmpQuery (c : Cmd)
  /-- R296: Destroys a compare handle, disarming the unit and stopping the table. -/
  | moCmpDestroy (c : Cmd)
  /-- R307: Every 25 µs each running engine sends a heartbeat to its peer. -/
  | heartbeatSend
  /-- R307: 100 µs without a peer heartbeat and the engine declares heartbeat loss. -/
  | heartbeatLoss
  /-- R308: Every 20 µs the owner renews the claim register. -/
  | renew
  /-- R309: An unhealthy active engine writes RESIGN and OWNER becomes none. -/
  | resign
  /-- R309: A synchronised standby claims the register after OWNER is none or heartbeat loss, repeating every 200 µs. -/
  | claim
  /-- R311: The arbiter grants an engine, moving OWNER or being refused. -/
  | grant (engine : Nat)
  /-- R316: In a planned change the owner hands the register to its peer. -/
  | handover
  /-- R310: An active engine whose last renewal is 200 µs old or failed stops issuing within 80 µs. -/
  | renewalStaleStop
  /-- R310: 80 µs after an unplanned OWNER change DUAL returns to 0. -/
  | dualWindowEnd
  /-- R314: The new engine restores the last epoch, applies the journal and re-executes or answers unresolved intents. -/
  | takeover
  /-- R315: 80 µs after its claim the new engine appends copied, journalled and new replies to each reply queue. -/
  | takeoverReplies
  /-- R314: Every 1 ms the active engine starts copying a snapshot epoch to the standby. -/
  | snapshotEpoch
  /-- R313: No standby acknowledgement within 100 µs; the active engine goes simplex or stops. -/
  | journalAckTimeout
  /-- R318: A restarting engine's start-up self-test ends; it copies, retries or becomes FAILED. -/
  | standbySelftestDone (engine : Nat) (pass : Bool)
  /-- R318: A copying engine catches up and enters STANDBY. -/
  | standbyReady (engine : Nat)
  /-- R318: The preferred engine has been healthy STANDBY for REVERT_HOLD_S and takes control back. -/
  | revertHoldExpiry
  /-- R311: A new ARB_GNT_N level stable for 10 µs grants an engine. -/
  | arbGntChange (level : Bool)
  /-- R324: A keyed write by the master port grants an engine under third-party arbitration. -/
  | ceBootArbWrite (port : Nat) (value : U32)
  /-- R325: Returns engine pair status and takeover information. -/
  | cePairQuery (c : Cmd)
  /-- R318: The master sets the revert hold and preferred engine. -/
  | cePairSet (c : Cmd)
  /-- R316: The master orders a planned change to the standby engine. -/
  | ceSwitchover (c : Cmd)
  /-- R318: The master restarts the standby from an image, replying at STANDBY or failure. -/
  | ceStandbyRestart (c : Cmd) (img : Image)
  /-- R328: Every 100 µs tiles sample power and temperature and tile 0 computes and sends credits. -/
  | governorSample (samples : List TileSample)
  /-- R334: Every 100 ms while CRITICAL the event is raised again. -/
  | criticalRepeat
  /-- R332: A class C job unadmitted for 60 s raises PG_EVENT C_STARVED. -/
  | cStarved (tile : Nat)
  /-- R331: An admitted class C quantum ends; a job whose last quantum ran leaves the queue. -/
  | classCQuantumDone (tile index : Nat)
  /-- R337: The master sets the power limit and governor settings. -/
  | pgConfig (c : Cmd)
  /-- R328: Returns the package governor registers. -/
  | pgQuery (c : Cmd)
  /-- R333: Returns a tile's governor registers. -/
  | pgTileQuery (c : Cmd)
  /-- R326: Returns a tile's 24 sensor readings and peaks. -/
  | pgSensorRead (c : Cmd)
  /-- R342: Every 100 ms tile and engine health reports are written to every enabled ring. -/
  | healthReportTimer
  /-- R344: The TEST unlock lapses at its 10 s deadline. -/
  | testUnlockExpiry
  /-- R340: Returns a detector's counts, threshold, pending injections and class. -/
  | hmQuery (c : Cmd)
  /-- R340: The master sets a detector's PER_S threshold. -/
  | hmThreshSet (c : Cmd)
  /-- R342: Sets the sender's health report ring. -/
  | hmReportSet (c : Cmd)
  /-- R344: The master unlocks TEST for 10 s. -/
  | hmTestUnlock (c : Cmd)
  /-- R344: In TEST sets the pending injection count of a detector on a tile. -/
  | hmInject (c : Cmd)
  /-- R351: Returns boot status, straps, counter and every slot's entry. -/
  | fwQuery (c : Cmd)
  /-- R358: Starts writing an image from host memory into a flash slot. -/
  | fwWrite (c : Cmd)
  /-- R358: The flash write and its verification end and the command replies. -/
  | fwWriteDone (img : Image) (conf : List Byte) (programmed : Bool)
  /-- R351: Verifies the image in a slot. -/
  | fwVerify (c : Cmd) (img : Image) (conf : List Byte)
  /-- R360: Sets the boot selection of Alfel and microcode slots. -/
  | fwSelect (c : Cmd)
  /-- R353: Raises the fused anti-rollback counter. -/
  | fwRollbackAdvance (c : Cmd) (programmed : Bool)
  /-- R357: Reads and verifies a host-pushed image during BOOT. -/
  | fwPush (c : Cmd) (img : Image) (conf : List Byte)
  /-- R357: Ends image pushing and lets the package reach READY. -/
  | fwStart (c : Cmd)
  /-- R372: A JTAG instruction is accepted or acts as BYPASS according to RESET_N. -/
  | tapInstruction (instr : TapInstr)
  /-- R26: At the commit time TC of a resume order the QUIESCED tile enters IN_SERVICE, and frames open from the first leader at or after TC. -/
  | tileResumeCommit (tile : Nat)
  /-- R314: A snapshot epoch's copy to the standby completes and becomes the last complete epoch, releasing a journal held at 8,192 entries. -/
  | snapshotEpochComplete
  /-- R247: A tile whose TIME_LOCK detector fired comes back within ±2 ns of tile 0, and TU_LOCK.LOCKED is set again. -/
  | timeLockRestored (tile : Nat) (error : Int)
  /-- R223: A host port's PCI Express link trains to DL_Active, HE_LINK_STATUS reports width and rate, and HOST_LINK_UP is raised. -/
  | portLinkUp (port : Nat) (flit : Bool) (rate width : Nat)
  /-- R224: A configuration request reaches a port: it is answered with Request Retry Status until the port is ready, and writes such as Interrupt Disable or MSI-X Enable take effect, sending Deassert_INTA where R231 says so. -/
  | configRequest (port offset : Nat) (write : Option Dw)
  /-- R291: A level change on A, B or I that is not a counted edge is repeated at OA and OB while PASS is 1, and a change of both A and B in one sample is counted as a quadrature error. -/
  | motionInputLevel (mi : Nat) (a b index : BallLevel)
deriving DecidableEq, Repr

end Sys2Proof
end

