-- ==== Sys2Proof/Decode.lean ====
section
/-!
DEFINITION. Words of the opcode table: its rows give no bits, since commands reach the block as packets, register accesses, frames
and measured values. So no word spells a command.
-/
namespace Sys2Proof

/-- The command that a word spells by the table's bits: none, because no row of the table gives bits. -/
def decodeTableWord (_nbits _w : Nat) : Option Instr := none

end Sys2Proof
end

