-- ==== Sys2Proof/Config.lean ====
section
/-!
DEFINITION. What an implementation of the package fixes and the manual leaves open. Every constant here is opaque and has
no body: no proof can see a value of it. The first argument of a free value is the model's own counter of free values.
-/
namespace Sys2Proof

/-- The NONCE that the device chooses for each extended-rate exchange (Table 4-3). Log entry 6. -/
opaque Config.freeNonce : Nat → BitVec 32

/-- The speed measured between two counted edges with one and the same time (R294 divides by their distance). Log entry 7. -/
opaque Config.freeSpeed : Nat → BitVec 32

/-- Bits [63:32] of the extended position after a preset (Table 6-4 states only bits [31:0]). Log entry 8. -/
opaque Config.freePositionHigh : Nat → BitVec 32

/-- Whether an inexact result is rounded up, where the manual names no rounding. Log entry 9. -/
opaque Config.freeRoundUp : Nat → Bool

/-- Whether a standard deviation divides by n - 1, where the manual does not say. Log entry 10. -/
opaque Config.freeSampleStd : Nat → Bool

/-- A byte of a data position whose payload is shorter than P, while it is not the last (R112 states no value). Log entry 11. -/
opaque Config.freeByte : Nat → BitVec 8

/-- Identification ([15:0]) and time to live ([23:16]) of an IPv4 header that the device builds (R94, R103). Log entry 12. -/
opaque Config.freeIpFields : Nat → BitVec 32

/-- Completion timeout in µs for a non-default Completion Timeout Value (R232 names only the ranges A to D). Log entry 15. -/
opaque Config.cplTimeoutUs : Nat → BitVec 32

/-- The fused package serial that the Device Serial Number capability shows (Table 11-4 states no number). Log entry 16. -/
opaque Config.packageSerial : BitVec 64

/-- Bursts displaced in mid-burst (R201): their number follows from beat timing. Log entry 17. -/
opaque Config.freePreempted : Nat → BitVec 32

/-- Fuses that programmed before one failed (R353). Log entry 89. -/
opaque Config.freeFuses : Nat → Nat

/-- Symbols corrected in a corrected codeword, less 1 (Table 4-12): at most 15 symbols. Log entry 18. -/
opaque Config.freeSymbols : Nat → BitVec 4

/-- LOCAL_FAULT of a lane at a time of the running clock: a level from outside (Table 4-10). Log entry 20. -/
opaque Config.localFault : Nat → Nat → Bool

/-- Whether an engine samples a slice it has just written; one of every SAMPLE_N it does (R153 does not say which). Log entry 73. -/
opaque Config.freeSampled : Nat → Bool

/-- Bytes of a mapped layer that no directory entry and no record fills: the rest of the last page of each (R173). Log entry 74. -/
opaque Config.pageByte : Nat → Nat → BitVec 8

/-- How long a tile spends in a step of its rejoin, in ns, by tile, number of rejoins before it, and step (R322 gives no time for a
step). Log entry 76. -/
opaque Config.rejoinStepNs : Nat → Nat → Nat → BitVec 32

/-- Whether a frame is being received at the moment at which a port leaves UP other than by a link loss (R62). Log entry 78. -/
opaque Config.freeCutFrame : Nat → Bool

/-- Byte of the header of a request that its row does not carry (R234). Log entry 85. -/
opaque Config.freeHeader : Nat → Nat → BitVec 8

/-- Payload of a receiver's answer to a lane margining command, by lane and command (R222, as the standard defines). Log entry 19. -/
opaque Config.marginStatus : Nat → Nat → BitVec 8

end Sys2Proof
end

