-- ==== Sys2Proof/Machine/Bytes.lean ====
section
/-!
DEFINITION. Little-endian fields of command packets, results, entries and records (chapter 00, "Record and command
layouts"), big-endian fields of Ethernet frames, bit fields of register words and the CRC-32 of records.
-/
namespace Sys2Proof.Machine

/-- The number that `n` bytes from offset `off` hold, little-endian; bytes past the end read 0. -/
def le (b : List Byte) (off n : Nat) : Nat :=
  ((b.drop off).take n).foldr (fun x acc => x.toNat + 256 * acc) 0

/-- The number that `n` bytes from offset `off` hold, big-endian (fields of Ethernet frames). -/
def be (b : List Byte) (off n : Nat) : Nat :=
  ((b.drop off).take n).foldl (fun acc x => acc * 256 + x.toNat) 0

/-- `n` bytes of a number, little-endian. -/
def leBytes : Nat → Nat → List Byte
  | 0, _ => []
  | n + 1, v => BitVec.ofNat 8 v :: leBytes n (v / 256)

/-- `n` bytes of a number, big-endian. -/
def beBytes (n v : Nat) : List Byte := (leBytes n v).reverse

/-- `n` zero bytes. -/
def zeros (n : Nat) : List Byte := List.replicate n 0

/-- The two's-complement value of the low `w` bits of a number. -/
def signed (w n : Nat) : Int := if n % 2 ^ w < 2 ^ (w - 1) then (n % 2 ^ w : Nat) else ((n % 2 ^ w : Nat) : Int) - (2 ^ w : Nat)

/-- The low `w` bits of the two's complement of an integer, as a number. -/
def unsigned (w : Nat) (i : Int) : Nat := (i % (2 ^ w : Nat)).toNat

/-- A signed integer saturated to `w` bits. -/
def satS (w : Nat) (i : Int) : Int := max (-(2 ^ (w - 1) : Nat)) (min i ((2 ^ (w - 1) : Nat) - 1))

/-- A number saturated to `w` bits. -/
def satU (w n : Nat) : Nat := min n (2 ^ w - 1)

/-- Bits [m:n] of a number (chapter 00: both ends included). -/
def bits (v m n : Nat) : Nat := v / 2 ^ n % 2 ^ (m + 1 - n)

/-- Bit n of a number. -/
def bit (v n : Nat) : Bool := v / 2 ^ n % 2 = 1

def b2n (b : Bool) : Nat := if b then 1 else 0

/-- A register word as the number of its fields. -/
def word (n : Nat) : U32 := BitVec.ofNat 32 n

/-- One step of the CRC-32 of IEEE 802.3, reflected, polynomial 0xEDB88320. -/
def crcBit (c : Nat) : Nat → Nat
  | 0 => c
  | n + 1 => crcBit (if c % 2 = 1 then (c / 2) ^^^ 0xEDB88320 else c / 2) n

/-- The CRC-32 of a run of bytes (initial value all ones, final complement). -/
def crc32 (b : List Byte) : Nat :=
  (b.foldl (fun c x => crcBit (c ^^^ x.toNat) 8) 0xFFFFFFFF) ^^^ 0xFFFFFFFF

/-- All bytes from `off`, `n` of them, are zero. -/
def isZero (b : List Byte) (off n : Nat) : Bool := le b off n = 0

end Sys2Proof.Machine
end

