-- ==== Sys2Proof/Machine/Tab.lean ====
section
/-!
DEFINITION. Tables of the machine that are sparse: lists of (number, value) with strictly rising numbers, read with a
default for a number that is not listed.
-/
namespace Sys2Proof.Machine

/-- A sparse table: numbers strictly rising. -/
abbrev Tab (α : Type) := List (Nat × α)

/-- The value listed for a number, if any. -/
def tget? {α : Type} : Tab α → Nat → Option α
  | [], _ => none
  | (j, a) :: t, k => if j = k then some a else tget? t k

/-- The value of a number, `d` when it is not listed. -/
def tget {α : Type} (d : α) (t : Tab α) (k : Nat) : α := (tget? t k).getD d

/-- Sets the value of a number and keeps the numbers rising. -/
def tput {α : Type} : Tab α → Nat → α → Tab α
  | [], k, v => [(k, v)]
  | (j, a) :: t, k, v => if k < j then (k, v) :: (j, a) :: t else if k = j then (k, v) :: t else (j, a) :: tput t k v

/-- Removes a number. -/
def tdel {α : Type} : Tab α → Nat → Tab α
  | [], _ => []
  | (j, a) :: t, k => if j = k then t else (j, a) :: tdel t k

/-- Changes the value of a number. -/
def tmod {α : Type} (d : α) (t : Tab α) (k : Nat) (f : α → α) : Tab α := tput t k (f (tget d t k))

/-- The numbers of a table strictly rise, all of them at or above `lo`. -/
def tsorted {α : Type} (lo : Nat) : Tab α → Bool
  | [] => true
  | (j, _) :: t => decide (lo ≤ j) && tsorted (j + 1) t

/-- The lowest number at or above `lo`, below `hi`, that is not in a list. -/
def lowestFree (used : List Nat) (lo : Nat) : Nat → Option Nat
  | 0 => none
  | n + 1 => if used.contains lo then lowestFree used (lo + 1) n else some lo

/-- The highest number below `hi` and at or above `hi - n` that is not in a list. -/
def highestFree (used : List Nat) (hi : Nat) : Nat → Option Nat
  | 0 => none
  | n + 1 => if hi = 0 then none else if used.contains (hi - 1) then highestFree used (hi - 1) n else some (hi - 1)

end Sys2Proof.Machine
end

