-- ==== Sys2Proof/Machine/StBase.lean ====
section
/-!
DEFINITION. The kinds of value that every block of the package shares: the part, the modes (Table 2-1), the tile service
states (Table 2-4), the status codes (Table 3-5), replies (Table 3-3), live objects (R43 to R49), commands that are taken and
not yet answered (R35, R54), events (R270), and what leaves the package.
-/
namespace Sys2Proof.Machine
open Sys2Proof

/-- The three parts (Table 0-1). -/
inductive Part where
  | fv216 | fv432 | fv864
deriving DecidableEq, Repr

/-- The package modes (Table 2-1). -/
inductive Mode where
  | off | backup | reset | boot | safe | ready | stream | record | hybrid | review | calibrate | test
deriving DecidableEq, Repr

/-- The tile service states (Table 2-4). -/
inductive Service where
  | inService | draining | quiesced | outOfService | rejoining
deriving DecidableEq, Repr

/-- The status codes: the complete list of Table 3-5 (R40). -/
inductive Status where
  | ok | eOpcode | eParam | eStaleHandle | eNotOwner | eState | eNoResource | eAlign | eTimePast | eConflict | eBusy
  | eOutcomeUnknown | eLocked | eHwFault | eTimeout | eChain | eTooLong | eVerify | eRollback | eUnsupported
deriving DecidableEq, Repr

/-- A reply as the engine writes it (Table 3-3). -/
structure Reply where
  opcode : Nat
  status : Status
  phase : Bool
  /-- ID of the engine that wrote the reply. -/
  engine : Nat
  late : Bool
  reexec : Bool
  seq : U32
  handle : Nat
  configGen : U32
  firstFrame : U64
  detail : Nat
  cookie : U32
  result : List Byte
deriving DecidableEq, Repr

/-- A live object behind a handle (R43 to R49). The slot's number is kind × 2^20 + tile × 2^17 + index. -/
structure Obj where
  /-- Owning port; for an orphan, the port it was orphaned from (R49). -/
  owner : Nat
  orphaned : Bool := false
  /-- Orphan deadline, in nanoseconds of the model's running clock. -/
  deadline : Nat := 0
  deadlineNs32 : U32 := 0
  faulted : Bool := false
  /-- CONFIG_GEN (R44). -/
  gen : U32 := 1
deriving DecidableEq, Repr

/-- A command that is taken and not yet answered: it holds its target (R54) and its reply room (R35). -/
structure Waiting where
  /-- The model's number of the wait. -/
  id : Nat
  op : Nat
  cmd : Cmd
  /-- Targets held: slot numbers of handles, or the model's numbers of tiles, lanes and package settings. -/
  keys : List Nat
  /-- Reply slots held. -/
  room : Nat
  /-- The reply queue still exists (R50). -/
  alive : Bool := true
  /-- Re-executed after a takeover (R56). -/
  reexec : Bool := false
deriving DecidableEq, Repr

/-- An event as its source raises it (R270). -/
structure Ev where
  /-- The SOURCE field of Table 13-2. -/
  source : Nat
  /-- Package time at which it arose, in ns. -/
  time : Nat
  payload : U32
  /-- Base hop count; HOPS once published. -/
  hops : Nat
  seq : U32
  overrun : Bool := false
  /-- The running clock when it was raised: events of one edge are taken in ascending source (R276). -/
  edge : Nat := 0
  /-- Channel that EV_PUBLISH names; none for an event that routes publish. -/
  publish : Option Nat := none
deriving DecidableEq, Repr

/-- What leaves the package: the model's own record of every effect outside it, in order. -/
inductive Out where
  /-- A reply written to slots of reply queue `queue` of the port's host. -/
  | reply (port queue slot : Nat) (r : Reply)
  /-- A reply placed in the boot mailbox buffer of a port (R356). -/
  | mailReply (port : Nat) (addr : Nat) (r : Reply)
  /-- A 32-byte entry written through a port to a completion or event queue (Table 10-7 to Table 10-10). -/
  | entry (via queue slot : Nat) (bytes : List Byte)
  /-- A write of bytes to memory of a port's host: `relaxed` is the relaxed-ordering attribute (R204). -/
  | write (port addr : Nat) (relaxed : Bool) (bytes : List Byte)
  /-- A read request (zero-length for a flush read) issued through a port. -/
  | read (port addr len : Nat)
  /-- An MSI-X message of a vector of a port, sent through port `via` (R230, R242). -/
  | msix (via port vector : Nat)
  | assertInta (port : Nat)
  | deassertInta (port : Nat)
  /-- The completion of a read by a host: the value returned. -/
  | completion (port : Nat) (value : Nat)
  /-- The completion of a read of a STORE region: the bytes returned. -/
  | readData (port : Nat) (bytes : List Byte)
  /-- Completer Abort (R225). -/
  | completerAbort (port : Nat)
  /-- Unsupported Request. -/
  | unsupported (port : Nat)
  /-- Request Retry Status (R224). -/
  | retry (port : Nat)
  /-- An error message to the root complex (R234): ERR_COR (0), ERR_NONFATAL (1) or ERR_FATAL (2), and the AER status bit reported, 32 and
  above for a correctable error (Table 11-9). -/
  | errMessage (port severity error : Nat)
  /-- An Ethernet frame sent on the port of a lane, without FCS. -/
  | frame (lane : Nat) (bytes : List Byte)
  /-- A pin of a tile driven to a level, at a package time in quarter nanoseconds. -/
  | pin (tile pin : Nat) (level : Bool) (quarterNs : Nat)
  /-- A pin of a tile stops driving and is high-impedance (R280), at a package time in quarter nanoseconds. -/
  | pinReleased (tile pin quarterNs : Nat)
  /-- OA and OB of a motion interface stop driving (R291). -/
  | motionReleased (mi : Nat)
  /-- OA and OB of a motion interface. -/
  | motionOut (mi : Nat) (a b : Bool)
  /-- A PTM request (R236). -/
  | ptmRequest (port : Nat)
  /-- A board-level output ball: ARB_REQ_N and the like, by number. -/
  | ball (number : Nat) (level : Bool)
  /-- The word that the TAP shifts out for the instruction accepted. -/
  | tdo (word : Nat)
  /-- The levels that SAMPLE/PRELOAD has captured in the boundary register are shifted out; the balls take the levels of the boundary
  register; they no longer do (R372). -/
  | boundaryScan (cells : List Bool)
  | boundaryDrives (cells : List Bool)
  | boundaryReleased
  /-- Bytes of the flash are read, erased or programmed (R350, R358). -/
  | flashRead (at_ len : Nat)
  | flashErase (at_ len : Nat)
  | flashProgram (at_ len : Nat)
deriving DecidableEq, Repr

end Sys2Proof.Machine
end

