-- ==== Sys2Proof/Machine/StStream.lean ====
section
/-!
DEFINITION. State of the stream receiver and of the frame assembler (chapters 05 and 06), with the per-frame settings of the
codec and of the activity detector that a configuration set holds (R111).
-/
namespace Sys2Proof.Machine
open Sys2Proof

/-- A camera source entry (Table 5-8). -/
structure Source where
  mac : Nat := 0
  ip : Nat := 0
  gvcpPort : Nat := 3956
  valid : Bool := false
deriving DecidableEq, Repr

/-- An action entry (Table 5-12). -/
structure Action where
  lane : Nat := 0
  dest : Nat := 0
  ackReq : Bool := false
  valid : Bool := false
  deviceKey : Nat := 0
  groupKey : Nat := 0
  groupMask : Nat := 0
  leadNs : Nat := 100000
  sent : U32 := 0
  missed : U32 := 0
  lastNs32 : U32 := 0
deriving DecidableEq, Repr

/-- The channel layout (Table 5-15). -/
structure Layout where
  lane : Nat := 0
  source : Nat := 0
  id64 : Bool := false
  deliver : Bool := false
  record : Bool := false
  dropIncomplete : Bool := false
  multicast : Bool := false
  chunk : Bool := false
  camSci : Nat := 0
  destUdp : Nat := 0
  groupIp : Nat := 0
  pixelFormat : Nat := 0
  width : Nat := 0
  height : Nat := 0
  partsMax : Nat := 1
  fillValue : Nat := 0
  chunkMax : Nat := 0
  peakKpx : Nat := 0
  bufQueue : Nat := 0
  cplQueue : Nat := 0
  holdoffUs : Nat := 20
  retries : Nat := 3
  intervalUs : Nat := 250
  budgetUs : Nat := 5000
  quietUs : Nat := 10000
deriving DecidableEq, Repr

/-- Codec modes (tag field CODEC_MODE). -/
inductive CodecMode where
  | off | lossless | bounded | noise | budget
deriving DecidableEq, Repr

/-- A photon-transfer calibration (R140). -/
structure Cal where
  id : Nat := 0
  offsetQ4 : Nat := 0
  kQ16 : Nat := 0
  readQ8 : Nat := 0
deriving DecidableEq, Repr

/-- The codec part of a configuration set. -/
structure CodecCfg where
  mode : CodecMode := .off
  k : Nat := 0
  q : Nat := 0
  kmin : Nat := 0
  kmax : Nat := 0
  targetBytes : Nat := 0
  cal : Option Cal := none
  prevCal : Option Cal := none
deriving DecidableEq, Repr

/-- One region of interest (chapter 09). -/
structure Roi where
  enable : Bool := false
  basis : Nat := 0
  planes : Nat := 0
  x0 : Nat := 0
  y0 : Nat := 0
  w : Nat := 0
  h : Nat := 0
  ref : Nat := 0
  /-- CONFIG_GEN of the first committed set that held the ROI as it is: it tells comparison copies apart (R182, R184). -/
  gen : U32 := 0
deriving DecidableEq, Repr

/-- A rule as configured (chapter 09, rule layout). -/
structure RuleCfg where
  roi : Nat
  /-- 0 SUM, 1 SAD, 2 MIN, 3 MAX, 4 BAND. -/
  stat : Nat
  slice : Bool
  below : Bool
  thresh : Nat
  /-- 0 ONCE, 1 EDGE, 2 EVERY. -/
  fire : Nat
  hold : Nat
  outlet : Nat
  loBin : Nat
  hiBin : Nat
  enable : Bool
deriving DecidableEq, Repr

/-- A configuration set (R111): every per-frame setting of a channel, and its CONFIG_GEN. -/
structure ChanSet where
  layout : Layout := {}
  tsMode : Nat := 0
  encEn : Nat := 0
  slotMi : Nat := 0
  exposureNs : Nat := 0
  expoOffsetNs : Int := 0
  leaderLagNs : Nat := 0
  codec : CodecCfg := {}
  /-- ROI 0 to 7. -/
  rois : Tab Roi := []
  /-- Rules, by local rule index (R189). -/
  rules : Tab RuleCfg := []
  gen : U32 := 0
deriving DecidableEq, Repr

/-- What a position of an open block is: absent positions are not listed. -/
inductive PosState where
  /-- Present, with its receive stamp (2^-16 ns), its payload, and whether a request for it had been sent. -/
  | present (stamp : Nat) (payload : List Byte) (resent : Bool)
  | givenUp (at_ : Nat)
deriving DecidableEq, Repr

/-- A gap: a missing position with its detection time (running clock), the resend settings that apply to it, the requests due so
far and whether one was sent (R93 to R96). -/
structure Gap where
  detected : Nat
  holdoff : Nat
  retries : Nat
  interval : Nat
  requests : Nat := 0
  sent : Bool := false
  /-- The outstanding run that covers it: SR_CH_RESEND_REQUESTS of the request that was sent for it last (R94). -/
  run : Option Nat := none
deriving DecidableEq, Repr

/-- The leader's fields (R87). -/
structure Leader where
  payloadType : Nat
  timestamp : Nat
  pixelFormat : Nat
  sizeX : Nat
  sizeY : Nat
  offsetX : Nat
  offsetY : Nat
  padX : Nat
  padY : Nat
  /-- Part heights of a multi-part block; one element otherwise. -/
  parts : List Nat
deriving DecidableEq, Repr

/-- An open block of a channel (R91 to R98). -/
structure Block where
  id : Nat
  positions : Tab PosState := []
  gaps : Tab Gap := []
  leader : Option Leader := none
  /-- Position of the trailer received. -/
  trailer : Option Nat := none
  /-- P (R112), once a data packet is known not to be the last. -/
  plen : Option Nat := none
  /-- Running clock at which the block budget is spent: BUDGET_US after its first gap. -/
  budgetAt : Option Nat := none
  /-- When the channel was quiet, or this block was forced or cut: it closes without a trailer (R22, R92, R93, R97). -/
  quiet : Option Nat := none
  late : Bool := false
  resent : Nat := 0
  /-- Earliest receive stamp of the block, in 2^-16 ns. -/
  first : Nat
  /-- FRAME_SEQ of the frame opened for it. -/
  frame : Option U64 := none
deriving DecidableEq, Repr

/-- A slice of pixels on its way through the codec island (R135, R152). -/
structure Slice where
  plane : Nat
  /-- Rows of original values. -/
  pixels : List (List Nat)
  /-- k that the slice was started with in BUDGET. -/
  k : Option Nat := none
  /-- Bytes written, once an engine or the input stage has written the slice; whether in escape form. -/
  written : Option (List Byte) := none
deriving DecidableEq, Repr

/-- Statistics of one ROI over some pixels (Table 9-1). -/
structure RoiStat where
  pixels : Nat := 0
  sum : Nat := 0
  min : Nat := 0
  max : Nat := 0
  /-- Counts of the 64 bins that are not 0. -/
  hist : Tab Nat := []
  sad : Nat := 0
  /-- Pixels with a valid comparison value. -/
  compared : Nat := 0
deriving DecidableEq, Repr

/-- A frame from its leader until nothing of it is left to do (R109 to R118). -/
structure Frame where
  seq : U64
  blockId : Nat
  set : ChanSet
  /-- Package mode in which it was opened (R21). -/
  mode : Mode
  leader : Leader
  /-- Package time at the frame leader and of the earliest receive stamp, in 2^-16 ns; the last stamp of a data packet used. -/
  leaderAt : Nat
  first : Nat
  last : Nat
  /-- Exposure start, in ns. -/
  expo : Int
  expoEstimated : Bool
  expoClamped : Bool
  holdover : Bool
  /-- Encoder slots: valid positions, and slots that wait for package time to reach M. -/
  positions : Tab U32 := []
  posWaiting : List Nat := []
  /-- The block closed: its counts and flags (Table 5-6). -/
  closed : Bool := false
  missing : Nat := 0
  resent : Nat := 0
  late : Bool := false
  filled : Bool := false
  truncated : Bool := false
  /-- A copy of it was cut and counted in TRUNCATED (R100). -/
  cutCounted : Bool := false
  rawBytes : Nat := 0
  chunkBytes : Nat := 0
  /-- The payload as laid out in position order (R112), once the block is closed; none for a byte that is filled. -/
  raw : List (Option Byte) := []
  /-- Dropped (R99) or abandoned: it passes through the codec island and is discarded. -/
  dropped : Bool := false
  /-- Lines handed to the codec island, as bytes and as pixel values. -/
  lines : List (List Byte) := []
  /-- Their pixel values; none for a pixel that was filled under R99 (R180). -/
  pixels : List (List (Option Nat)) := []
  /-- How much of the payload was complete in release order, and since when, in package ns, oldest first (R191). -/
  released : List (Nat × Nat) := []
  /-- 16-line bands dealt into slices, and slices that have not left the island, in order. -/
  dealt : Nat := 0
  slices : List Slice := []
  slicesLeft : Nat := 0
  escaped : Bool := false
  /-- Largest k written in a slice header that was not escaped. -/
  kWritten : Nat := 0
  /-- Frame data that has left the island. -/
  data : List Byte := []
  /-- Statistics by ROI, and whether the activity detector has decided on the frame. -/
  stats : Tab RoiStat := []
  /-- Rules that the frame has met, and the count of mode commits and returns to service before its leader (R182, R187). -/
  met : List Nat := []
  epoch : Nat := 0
  decided : Bool := false
  actRoi : Nat := 0xFF
  actEnergy : Nat := 0
  /-- What becomes of the frame. -/
  deliver : Bool
  record : Bool
  /-- The tag is complete; the record copy is written; live delivery is under way, ended or not wanted. -/
  tagged : Bool := false
  recorded : Bool := false
  delivering : Bool := false
  delivered : Bool := false
  /-- Pages of the delivery backlog that hold it (R330). -/
  backlog : Nat := 0
deriving DecidableEq, Repr

/-- The counters of Table 5-11 and Table 6-8. -/
structure ChanCounters where
  framesClosed : U64 := 0
  framesIncomplete : U64 := 0
  framesDropped : U64 := 0
  blocksLost : U64 := 0
  packetsMissing : U64 := 0
  packetsResent : U64 := 0
  resendRequests : U64 := 0
  packetsLate : U64 := 0
  packetsDuplicate : U64 := 0
  holdForced : U64 := 0
  statusNonzero : U64 := 0
  malformed : U64 := 0
  formatMismatch : U64 := 0
  truncated : U64 := 0
  staleBlock : U64 := 0
  framesTagged : U64 := 0
  framesDiscarded : U64 := 0
  expoClamped : U64 := 0
  posStale : U64 := 0
  commits : U64 := 0
deriving DecidableEq, Repr

/-- A commit on its way to the assembly island (R125): the set and the command that waits for it. -/
structure PendingCommit where
  set : ChanSet
  wait : Option Nat
  /-- AT of a staged commit, in 2^-16 ns; none for a commit at once (R128). -/
  at_ : Option Nat := none
  late : Bool := false
  /-- A level table is being built (R141). -/
  building : Bool := false
  /-- Result and HANDLE of the command, and CONFIG_GEN of its object when that is not the channel; a staged commit gives
  COMMIT_NS32. -/
  result : List Byte := []
  handle : Option Nat := none
  gen : Option U32 := none
  staged : Bool := false
deriving DecidableEq, Repr

/-- One stream channel, by tile × 64 + index. -/
structure Channel where
  live : Bool := false
  /-- The channel's current configuration, staged changes included. -/
  shadow : ChanSet := {}
  /-- The active set: the set of the last commit that completed (R125). -/
  active : ChanSet := {}
  /-- The last set sent to a commit (R127). -/
  sent : ChanSet := {}
  staging : Bool := false
  /-- Commits on their way, oldest first. -/
  commits : List PendingCommit := []
  commitNs32 : U32 := 0
  nextFrame : U64 := 0
  /-- Highest extended block ID seen (R91). -/
  newest : Option Nat := none
  lastClosed : Option Nat := none
  /-- Package time at which the last block closed, in ns. -/
  closedNs : Nat := 0
  lastOpened : Option Nat := none
  /-- The newest opened block, when it was dropped for a format mismatch (R87). -/
  mismatched : Option Nat := none
  /-- Positions that were given up in blocks that have left the receiver, by block (R95). -/
  gone : List (Nat × Tab Nat) := []
  blocks : List Block := []
  frames : List Frame := []
  /-- Running clock at the last packet. -/
  lastPacket : Nat := 0
  /-- Blocks counted in FRAMES_DROPPED under R85 that no opened block has made stale. -/
  dropped : List Nat := []
  counters : ChanCounters := {}
  incompleteAt : Option Nat := none
  clampedAt : Option Nat := none
  clampedCount : Nat := 0
  staleAt : Option Nat := none
  staleCount : Nat := 0
deriving DecidableEq, Repr

structure StreamState where
  /-- SR_GVCP_LOCAL, by lane. -/
  gvcpLocal : Tab Nat := []
  /-- Camera sources, by lane × 16 + index. -/
  sources : Tab Source := []
  /-- req_id of each port (R101). -/
  reqId : Tab Nat := []
  actions : Tab Action := []
  channels : Tab Channel := []
  /-- ANCHOR_INTERVAL_MS (R123). -/
  anchorMs : Nat := 500
deriving DecidableEq, Repr

end Sys2Proof.Machine
end

