-- ==== Sys2Proof/Machine/StActivity.lean ====
section
/-!
DEFINITION. State of the activity detector (chapter 09): comparison copies, rules, reference frames, statistics of the last frame
decided.
-/
namespace Sys2Proof.Machine
open Sys2Proof

/-- The comparison copy of a PREVIOUS ROI (R182): reduced values by line × 65,536 + column. -/
structure AdCopy where
  roi : Nat
  gen : U32
  epoch : Nat
  values : Tab Nat := []
deriving DecidableEq, Repr

/-- What a rule keeps outside the configuration set (R187), by tile × 512 + index. -/
structure RuleState where
  channel : Nat
  armed : Bool := true
  streak : Nat := 0
  /-- Running clock of the last re-arm, and whether the rule was armed before it, until the next decision (R188). -/
  rearmed : Option (Nat × Bool) := none
  fires : U32 := 0
  lastFireNs32 : U32 := 0
  lastFrame : U64 := 0
deriving DecidableEq, Repr

/-- An AD_REF_CAPTURE under way (R185). -/
structure Capture where
  wait : Nat
  frames : Nat
  from_ : U64
  /-- The frame expected next. -/
  next : U64
  got : Nat := 0
  lastSeq : U64 := 0
  sums : Tab Nat := []
  restarts : Nat := 0
  /-- FRAMES frames have been taken. -/
  full : Bool := false
deriving DecidableEq, Repr

/-- A reference frame (R183), by tile × 64 + index. -/
structure Reference where
  channel : Nat
  /-- Handle of the channel as created. -/
  handle : Nat
  x0 : Nat
  y0 : Nat
  w : Nat
  h : Nat
  planes : Nat
  values : Tab Nat := []
  valid : Bool := false
  /-- FRAMES of the last capture. -/
  frames : Nat := 0
  capture : Option Capture := none
deriving DecidableEq, Repr

/-- The detector's part of a channel. -/
structure AdChan where
  copies : List AdCopy := []
  /-- Statistics of the last frame decided, by ROI, and its number. -/
  last : Tab RoiStat := []
  lastSeq : U64 := 0
  frames : U64 := 0
  fires : U64 := 0
  excluded : U64 := 0
deriving DecidableEq, Repr

structure AdState where
  chans : Tab AdChan := []
  rules : Tab RuleState := []
  refs : Tab Reference := []
  /-- Mode commits and returns to IN_SERVICE of a tile. -/
  epoch : Tab Nat := []
  latencyPeak : Tab Nat := []
  /-- AD_RULE_SEL, by tile. -/
  ruleSel : Tab Nat := []
deriving DecidableEq, Repr

end Sys2Proof.Machine
end

