-- ==== Sys2Proof/Machine/StHost.lean ====
section
/-!
DEFINITION. State of the host ports (chapter 11): configuration space, link, connection and holding, routes, MSI-X and INTx,
COMPAT, PTM, outstanding requests, and the captures and staged halves of register pairs (R6).
-/
namespace Sys2Proof.Machine
open Sys2Proof

/-- One entry of a COMPAT table (Table 11-7). -/
structure CompatEntry where
  valid : Bool := false
  /-- SPACE: false CONTROL, true STORE. -/
  store : Bool := false
  /-- Target offset, a multiple of 4 MiB. -/
  offset : Nat := 0
deriving DecidableEq, Repr

/-- One MSI-X vector: address, data, mask and pending bit, as the standard defines (R230). -/
structure Vector where
  addr : Nat := 0
  data : Nat := 0
  masked : Bool := true
  pending : Bool := false
  /-- Port through which the pending message leaves (R230). -/
  via : Nat := 0
deriving DecidableEq, Repr

/-- Purposes of a non-posted request (R232). -/
inductive ReqPurpose where
  | descriptor (queue position : Nat)
  | command (queue : Nat)
  | rawSource (chan : Nat)
  /-- The flush read of a mover channel, or of the live delivery of a stream channel. -/
  | flush (chan : Nat)
  | flushLive (channel : Nat)
deriving DecidableEq, Repr

/-- Package time as read, kept for later reads from the same port. -/
structure TimeCap where
  sec : Nat := 0
  ns : Nat := 0
  frac : Nat := 0
deriving DecidableEq, Repr

/-- A port's PTM results (Table 11-15). -/
structure Ptm where
  enabled : Bool := false
  valid : Bool := false
  seq : U16 := 0
  pSec : Nat := 0
  pNs : Nat := 0
  pFrac : Nat := 0
  h : Nat := 0
  d : Nat := 0
  /-- Measurement in progress: its dialogue (0 the first, 1 the second), t1 in 2^-16 ns of package time, t4 - t1 of the first dialogue,
  start time, and whether PTM_NOW started it. -/
  busy : Bool := false
  second : Bool := false
  t1 : Nat := 0
  roundTrip : Nat := 0
  startedAt : Nat := 0
  byInput : Bool := false
  /-- Time of the last periodic start. -/
  lastPeriod : Nat := 0
deriving DecidableEq, Repr

/-- One host port. -/
structure Port where
  /-- Link DL_Active, with Flit mode, RATE code and WIDTH. -/
  dlActive : Bool := false
  flit : Bool := false
  rate : Nat := 0
  width : Nat := 0
  /-- D3hot power state. -/
  d3hot : Bool := false
  busMaster : Bool := false
  memSpace : Bool := false
  intDisable : Bool := false
  msixEnable : Bool := false
  functionMask : Bool := false
  relaxedEnable : Bool := true
  /-- Completion Timeout Value of Device Control 2. -/
  cplTimeoutValue : Nat := 0
  /-- BAR Size code of the Resizable BAR capability (R227). -/
  barSize : Nat := 10
  /-- AER status, mask and severity words and First Error Pointer (R234): sticky. -/
  aerCor : U32 := 0
  aerUncor : U32 := 0
  aerCorMask : U32 := 0x00006000
  aerUncorMask : U32 := 0x00400000
  aerSeverity : U32 := 0x00462010
  aerFirst : Option Nat := none
  aerHeader : List Byte := []
  /-- The header was logged in Flit mode. -/
  aerFlit : Bool := false
  /-- Error bits of Device Status, [3:0], and of the Status register, [15:8] (R224). -/
  devErrors : Nat := 0
  cfgErrors : Nat := 0
  /-- RWS fields of configuration space written by the host, by offset (R4). -/
  otherCfg : Tab U32 := []
  /-- The other RW fields of configuration space written by the host, by offset. -/
  otherRw : Tab U32 := []
  /-- Held after a link loss, with the deadline (R240). -/
  lost : Bool := false
  holdDeadline : Nat := 0
  holdDeadlineNs32 : U32 := 0
  downNs32 : U32 := 0
  /-- A function-level reset is in progress since this time (R239). -/
  flrSince : Option Nat := none
  compatStage : Tab CompatEntry := []
  compatActive : Tab CompatEntry := []
  badIndex : Nat := 0
  refused : Bool := false
  commits : U16 := 0
  intaAsserted : Bool := false
  ptm : Ptm := {}
deriving DecidableEq, Repr

/-- The counters of Table 11-14. -/
structure PortCounters where
  ignoredWrites : U64 := 0
  cplTimeouts : U64 := 0
  lateCompletions : U64 := 0
  caReturned : U64 := 0
  urReturned : U64 := 0
  linkLosses : U64 := 0
  routeMoves : U64 := 0
  replayed : U64 := 0
  compatInvalid : U64 := 0
  descRetries : U64 := 0
deriving DecidableEq, Repr

structure HostState where
  ports : Tab Port := []
  counters : Tab PortCounters := []
  /-- MSI-X vectors, by port × 2,048 + vector. -/
  vectors : Tab Vector := []
  /-- HE_INTX_STATUS words, by port × 64 + register (R231). -/
  intx : Tab U32 := []
  /-- Staged _LO halves by port × 2^27 + CONTROL offset, and captured _HI halves not yet used (R6). -/
  stagedLo : Tab U32 := []
  capturedHi : Tab U32 := []
  /-- Captures of PKG_TIME, PKG_CAL, TU_TXTS_POP, MO_POS, TU_SCHED_NEXT and HE_PTM sets: words by port × 2^27 + offset. -/
  captured : Tab U32 := []
  /-- Timed-out tags of a port: the time each is free again (R233). -/
  deadTags : Tab (List Nat) := []
  saved : Tab (List SavedWrite) := []
  savedReads : Tab (List ReqPurpose) := []
  /-- Route port of tile t for the group of port p, by p × 8 + t; absent when none (HE_ROUTE). -/
  routes : Tab Nat := []
  /-- Routes that move toward another port at the next boundary of the producers, by p × 8 + t (R243). -/
  routesDue : Tab Nat := []
  /-- Producers that have not come to their boundary since their route moved toward another port, with the old port (R243): a queue by
  its global number, a mover channel by 16,384 + tile × 512 + channel, the health reports of a tile by 20,480 + tile. -/
  behind : Tab Nat := []
  /-- Timeouts since the last COMPLETION_TIMEOUT event of a port, and its time (Table 11-12). -/
  timeoutCount : Tab Nat := []
  timeoutAt : Tab Nat := []
deriving DecidableEq, Repr

end Sys2Proof.Machine
end

