-- ==== Sys2Proof/Machine/StBoot.lean ====
section
/-!
DEFINITION. State of reset and boot (chapter 18): boot registers, boot configuration in force, flash slots, mailbox.
-/
namespace Sys2Proof.Machine
open Sys2Proof

/-- The settings of the boot configuration (Table 18-4), each at its default where no record gives it. -/
structure BootConf where
  /-- Subsystem Vendor ID and Subsystem ID; none for those of R1. -/
  subsystem : Option (Nat × Nat) := none
  /-- MAC base, octet 1 most significant. -/
  macBase : Nat := 0
  masterPort : Nat := 0
  /-- Delivery group mask of each port; a port that is not listed is a group of its own (R242). -/
  groups : Tab Nat := []
  storeCode : Nat := 10
  compatEnable : Bool := false
  compat : Tab CompatEntry := []
  arbMode : Bool := false
  arbSource : Nat := 0
  preferred : Nat := 0
  revertHoldS : Nat := 10
  clockIdentity : Nat := 0
  /-- LIMIT_W; none for the maximum of the part. -/
  limitW : Option Nat := none
  testDisabled : Bool := false
  erDisabled : Bool := false
  factory : Bool := false
  primaryB : Bool := false
  microcode1 : Bool := false
  /-- AUI equalisation entries, by lane. -/
  aui : Tab (List Byte) := []
  /-- MO_CONFIG layouts, by motion interface. -/
  motion : Tab (List Byte) := []
  /-- PER_S of detectors. -/
  thresholds : Tab Nat := []
deriving DecidableEq, Repr

/-- The entry of a flash slot as FW_QUERY reports it (Table 18-9). -/
structure SlotEntry where
  /-- 0 unchecked, 1 verified, 2 failed. -/
  state : Nat := 0
  result : Nat := 0
  version : Nat := 0
  security : Nat := 0
  mirrorFormat : Nat := 0
  mirrorOldest : Nat := 0
  payloadLen : Nat := 0
deriving DecidableEq, Repr

/-- The boot mailbox of a port (Table 18-6). -/
structure Mailbox where
  addr : Nat := 0
  state : Nat := 0
  code : Status := .ok
deriving DecidableEq, Repr

/-- What stands in the TAP's instruction register (R372). -/
inductive TapReg where
  | bypass | idcode | samplePreload | other
deriving DecidableEq, Repr

structure BootState where
  stage : Nat := 0
  image : Nat := 0
  microcode : Nat := 0
  aResult : Nat := 0
  bResult : Nat := 0
  goldenResult : Nat := 0
  m0Result : Nat := 0
  m1Result : Nat := 0
  configDefault : Bool := false
  configCopy : Nat := 0
  recordError : Bool := false
  romLoader : Bool := false
  bootSrc : Bool := false
  bootPort : Nat := 0
  /-- The anti-rollback counter: fused, kept through every reset (R353). -/
  rollback : Nat := 0
  bootMs : Nat := 0
  /-- Running clock at the release of RESET_N. -/
  releasedAt : Nat := 0
  /-- Copy 0 of the boot loader failed; the boot loader runs; the boot configuration was read, or pushed. -/
  loaderFailed : Bool := false
  loaderRuns : Bool := false
  confRead : Bool := false
  conf : BootConf := {}
  confSeq : Nat := 0
  slots : Tab SlotEntry := []
  mailbox : Tab Mailbox := []
  /-- Time at which the microcode was sent to the tiles; tiles trained. -/
  microcodeSent : Option Nat := none
  microcodeVersion : Nat := 0
  trained : Tab Bool := []
  alfelStarted : Bool := false
  alfel : SlotEntry := {}
  /-- Images pushed: microcode, Alfel. -/
  pushedMicro : Bool := false
  pushedAlfel : Bool := false
  /-- The FW_WRITE under way: slot and the command that waits. -/
  flashWrite : Option (Nat × Nat) := none
  /-- Current copy of the configuration in the flash (R355, R358). -/
  flashConf : Nat := 0
  /-- Areas of the flash, by slot × 2 + copy, whose write was interrupted, so that they fail verification; kept (R358, R359). -/
  torn : List Nat := []
  /-- What the device has written into areas of the flash, by slot × 2 + copy: an image, or a copy of the configuration; kept (R350). -/
  flashImages : Tab Image := []
  flashConfs : Tab (List Byte) := []
  /-- Bytes of the current copy of the configuration, once read or written. -/
  confBytes : List Byte := []
  /-- Bytes that the FW_WRITE under way writes. -/
  flashLen : Nat := 0
  /-- The key digest fused in the package (Table 18-3): that of the base point of P-384 as key (log entry 4). -/
  keyDigest : Nat := 0xa19d4db171b582eb8052b0cfe555e17894aa22d1c8a9770950697dd8f796d2fa4bf0a56ad80006b7ea08e1191f814b65
  /-- Instruction register and boundary register of the TAP (R372), and whether it drives the balls; kept through package resets. -/
  tap : TapReg := .idcode
  boundary : List Bool := []
  tapDrives : Bool := false
deriving DecidableEq, Repr

end Sys2Proof.Machine
end

