-- ==== Sys2Proof/Machine/StCodec.lean ====
section
/-!
DEFINITION. State of the codec (chapter 07): engines, their input buffers and counters, the balance, calibration points and
counters of each channel.
-/
namespace Sys2Proof.Machine
open Sys2Proof

/-- A slice that outlives its channel (R141): the channel's handle, the set of its frame, and the slice. -/
structure GoneSlice where
  handle : Nat
  set : ChanSet
  slice : Slice
deriving DecidableEq, Repr

/-- A slice in an engine's input buffer: channel, frame and number within the frame; or, of a channel that was destroyed, itself. -/
structure SliceRef where
  channel : Nat
  frame : U64
  number : Nat
  gone : Option GoneSlice := none
deriving DecidableEq, Repr

/-- One codec engine, by tile × 4 + engine. -/
structure CodecEngine where
  /-- Out of use after three mismatches within 1 s (R154). -/
  suspect : Bool := false
  /-- The backlog passed the high mark and has not fallen below the low mark (R17). -/
  escaping : Bool := false
  /-- Slices in the input buffer, oldest first. -/
  buffer : List SliceRef := []
  peak : Nat := 0
  /-- Of the present SAMPLE_N slices in coded or constant form: those written, and whether one of them was sampled (R153). -/
  sinceCheck : Nat := 0
  sampled : Bool := false
  /-- Running clock at the last mismatches, newest first. -/
  mismatchAt : List Nat := []
  slices : U64 := 0
  constant : U64 := 0
  escSize : U64 := 0
  escBacklog : U64 := 0
  checks : U64 := 0
  mismatches : U64 := 0
deriving DecidableEq, Repr

/-- A photon-transfer point (R142): exact sums over N pixels. -/
structure CalPoint where
  dark : Bool
  pixels : Nat
  /-- Σ(x1 + x2), Σd and Σd². -/
  sum : Nat
  diff : Int
  diffSq : Nat
deriving DecidableEq, Repr

/-- A CD_CAL_SAMPLE under way. -/
structure CalSample where
  wait : Nat
  dark : Bool
  /-- CLEAR: the points kept before go when the point is kept (R142). -/
  clear : Bool := false
  x0 : Nat
  y0 : Nat
  w : Nat
  h : Nat
  /-- FRAME_SEQ from which frames qualify. -/
  from_ : U64
  /-- The first frame of a pair: its number and its region. -/
  first : Option (U64 × List Nat) := none
  /-- The pair, once it is closed. -/
  pair : Option (List Nat × List Nat) := none
deriving DecidableEq, Repr

/-- The codec state of a channel. -/
structure CodecChan where
  bal : Int := 0
  kNow : Nat := 0
  /-- CAL_ID last assigned (R140). -/
  lastCal : Nat := 0
  points : List CalPoint := []
  sample : Option CalSample := none
  rawBytes : U64 := 0
  codedBytes : U64 := 0
  slices : U64 := 0
  slicesEscaped : U64 := 0
  escapeAt : Option Nat := none
  escapeCount : Nat := 0
  mismatchAt : Option Nat := none
  mismatchCount : Nat := 0
deriving DecidableEq, Repr

structure CodecState where
  engines : Tab CodecEngine := []
  chans : Tab CodecChan := []
  /-- SAMPLE_N (R153). -/
  sampleN : Nat := 64
deriving DecidableEq, Repr

end Sys2Proof.Machine
end

