-- ==== Sys2Proof/Machine/StEvent.lean ====
section
/-!
DEFINITION. State of the Caramel router and the trigger pins (chapter 13).
-/
namespace Sys2Proof.Machine
open Sys2Proof

/-- The two forms of a route (R272). -/
inductive RouteForm where
  /-- Source (SOURCE field of Table 13-2) to channel. -/
  | publication (source : Nat)
  /-- Channel to a task input of the route's tile. -/
  | toInput (index : Nat)
  /-- Channel to an event queue (global number). -/
  | toQueue (queue : Nat)
deriving DecidableEq, Repr

/-- A route, by tile × 4,096 + index. -/
structure Route where
  form : RouteForm
  channel : Nat
  /-- Package time in ns from which it acts (R273). -/
  from_ : Nat
  /-- Package time in ns from which it no longer acts, once destroyed. -/
  until_ : Option Nat := none
  cleared : Bool := false
  delivered : U32 := 0
  /-- Handle of the queue as created (0 for an input). -/
  queueHandle : Nat := 0
deriving DecidableEq, Repr

/-- A task input (Table 13-1): events that wait at it. -/
structure TaskInput where
  taken : U32 := 0
  coalesced : U32 := 0
  waiting : List Ev := []
deriving DecidableEq, Repr

/-- A group change that waits for its commit time (R278). -/
structure GroupCommit where
  time : Nat
  /-- By EV_GROUP_SET, not by an event. -/
  byCommand : Bool
  mask : Nat
  value : Nat
deriving DecidableEq, Repr

/-- An edge that will leave a pin: time in quarter ns, the action it performs, the width of a pulse in ns. -/
structure PinEdge where
  at_ : Nat
  /-- Due time of a comparator edge, 2^-16 ns. -/
  due : Option Nat := none
  action : Nat
  widthNs : Nat
deriving DecidableEq, Repr

/-- A trigger pin (Table 13-8), by tile × 10 + pin. -/
structure Pin where
  /-- 0 OFF, 1 INPUT, 2 EVENT_OUT, 3 COMPARATOR_OUT. -/
  mode : Nat := 0
  edge : Nat := 1
  /-- 0 PULSE, 1 SET, 2 CLEAR, 3 TOGGLE. -/
  action : Nat := 0
  timed : Bool := false
  invert : Bool := false
  driver : Option Nat := none
  filterNs : Nat := 0
  minGapNs : Nat := 1000
  widthNs : Nat := 1000
  delayNs : Nat := 1000
  trimQ2 : Int := 0
  /-- The TRIMs set so far, newest first, each with the due time (2^-16 ns) from which it applies (R283). -/
  trims : List (Nat × Int) := []
  level : Bool := false
  /-- The level that the outside last gave the ball. -/
  ball : Bool := false
  edges : U32 := 0
  suppressed : U32 := 0
  late : U32 := 0
  lastNs32 : U32 := 0
  /-- Time of the last accepted input edge, ns. -/
  lastEdge : Option Nat := none
  /-- Edges scheduled, in the order in which they were scheduled. -/
  sched : List PinEdge := []
  /-- End of the pulse that drives the pin, in quarter ns. -/
  pulseEnd : Option Nat := none
  /-- Due times of the last 64 comparator edges, without TRIM, in 2^-16 ns (R284). -/
  dueTimes : List Nat := []
deriving DecidableEq, Repr

/-- A skew learning run of a pin (R284). -/
structure SkewRun where
  wait : Nat
  channel : Nat
  frames : Nat
  install : Bool
  targetQ2 : Int
  windowNs : Nat
  /-- E − due time of each pair, in 2^-16 ns. -/
  pairs : List Int := []
  skipped : Nat := 0
deriving DecidableEq, Repr

structure EventState where
  /-- Events raised by each source since package reset, by SOURCE field and tile 0 for package and host sources. -/
  srcSeq : Tab U32 := []
  routes : Tab Route := []
  /-- Routes destroyed whose last events may still be taken in (R273), with their numbers. -/
  retired : List (Nat × Route) := []
  inputs : Tab TaskInput := []
  backlog : Tab (List Ev) := []
  backlogPeak : Tab Nat := []
  overrun : Tab U64 := []
  overrunMark : Tab Bool := []
  loopDropped : Tab U64 := []
  loopCount : Tab Nat := []
  loopAt : Tab Nat := []
  published : Tab U32 := []
  blocked : Tab U32 := []
  inputSel : Tab Nat := []
  chanSel : Tab Nat := []
  sourceSel : Tab Nat := []
  groups : U32 := 0xFFFFFFFF
  groupNs32 : U32 := 0
  groupCommits : List GroupCommit := []
  /-- Group commits applied since package reset, oldest first. -/
  groupLog : List GroupCommit := []
  pins : Tab Pin := []
  skew : Tab SkewRun := []
deriving DecidableEq, Repr

end Sys2Proof.Machine
end

