-- ==== Sys2Proof/Machine/StGov.lean ====
section
/-!
DEFINITION. State of the power and heat governor (chapter 16).
-/
namespace Sys2Proof.Machine
open Sys2Proof

/-- Class C jobs (Table 16-2). -/
inductive JobKind where
  /-- A readout in HYBRID or TEST, by its segment (tile × 16,384 + index). -/
  | readout (segment : Nat)
  | scrub
  | selfTest
  /-- An eye scan of a lane. -/
  | eye (lane : Nat)
  /-- Pairing of one frame with the edges of a pin. -/
  | skew (pin : Nat) (channel : Nat) (frame : U64)
deriving DecidableEq, Repr

structure Job where
  kind : JobKind
  /-- Quanta that have not run; 0 for a job without end. -/
  left : Nat
  endless : Bool := false
  /-- Time of the request, and since when it is skipped. -/
  since : Nat
  skipped : Option Nat := none
  admitted : Nat := 0
  /-- Time of the last admission (R332). -/
  admittedAt : Option Nat := none
  /-- A quantum runs. -/
  running : Bool := false
  starved : Bool := false
deriving DecidableEq, Repr

/-- What PG_CONFIG sets (Table 16-9). -/
structure GovConf where
  limitW : Option Nat := none
  guardPct : Nat := 3
  floorGbps : Nat := 2
  costB : Nat := 180
  ageMs : Nat := 50
  backlogPages : Nat := 16384
  /-- CEIL_C by tile. -/
  ceil : Tab Nat := []
deriving DecidableEq, Repr

/-- The governor of one tile (Table 16-6, Table 16-7). -/
structure TileGov where
  powerDw : Nat := 0
  classADw : Nat := 0
  maxQ3 : Int := 0
  hottest : Nat := 0
  /-- 0 NORMAL, 1 WARM, 2 HOT. -/
  thermal : Nat := 0
  hotSince : Option Nat := none
  temps : List Int := []
  peaks : List Int := []
  /-- Class B grant of the sample, what is left of it, and class C balance in nJ. -/
  grantB : Nat := 0
  creditB : Int := 0
  creditC : Int := 0
  /-- Credits computed in this sample, which apply at the next boundary. -/
  nextB : Nat := 0
  nextC : Nat := 0
  lastC : Nat := 0
  missed : Nat := 0
  backlog : Nat := 0
  jobs : List Job := []
  waitSamples : U64 := 0
  admitted : U64 := 0
  skips : U64 := 0
  backlogDropped : U64 := 0
  criticalSamples : U64 := 0
  sensorSel : Nat := 0
deriving DecidableEq, Repr

structure GovState where
  conf : GovConf := {}
  /-- PG_CONFIG that applies from the next sample boundary. -/
  next : Option GovConf := none
  tiles : Tab TileGov := []
  lastSample : Nat := 0
  powerDw : Nat := 0
  classADw : Nat := 0
  short : Bool := false
  critical : Bool := false
  critNs32 : U32 := 0
  /-- Consecutive samples with class A and exempt power above the target, and consecutive samples without either condition. -/
  overMs : Nat := 0
  calm : Nat := 0
  lastCritEvent : Nat := 0
  /-- Times of the last PG_EVENT, by tile × 8 + kind. -/
  eventAt : Tab Nat := []
deriving DecidableEq, Repr

end Sys2Proof.Machine
end

