-- ==== Sys2Proof/Machine/StHealth.lean ====
section
/-!
DEFINITION. State of the health monitor (chapter 17): detectors, injections, report rings, the TEST unlock.
-/
namespace Sys2Proof.Machine
open Sys2Proof

/-- One detector of a tile, by tile × 32 + ID. -/
structure Det where
  count : U64 := 0
  injected : U32 := 0
  stampNs32 : U32 := 0
  /-- Pending injections, their UNIT, VALUE and DURATION (R344). -/
  pending : Nat := 0
  unit : Nat := 0
  value : Int := 0
  duration : Nat := 0
  /-- An error stands on the tile's command path, and the next command meets it (CMD_PARITY). -/
  latent : Bool := false
  /-- Islands of the tile whose SRAM holds an injected error, once for each (R344, R345). -/
  sram : List Nat := []
  /-- PER_S, once set by a command; none for the boot configuration's. -/
  perS : Option Nat := none
  /-- Occurrences since the last HM_ERROR, whether one of them was injected, and the time of that event. -/
  since : Nat := 0
  sinceInjected : Bool := false
  eventAt : Option Nat := none
  /-- Running clock of the occurrences within the last second, newest first. -/
  recent : List Nat := []
  /-- THRESHOLD is due on the next event; the count lies above PER_S; running clock since when it lies at or below. -/
  crossed : Bool := false
  above : Bool := false
  /-- Occurrences in the present report period of the tile and of the engine. -/
  period : Nat := 0
  enginePeriod : Nat := 0
deriving DecidableEq, Repr

/-- The report ring of a port (R342). -/
structure ReportRing where
  base : Nat := 0
  slotsLog2 : Nat := 0
  enabled : Bool := false
  irqEn : Bool := false
  vector : Nat := 0
  seq : U32 := 0
deriving DecidableEq, Repr

/-- The last occurrence on a tile. -/
structure LastDet where
  det : Nat := 0xFF
  injected : Bool := false
  stampNs32 : U32 := 0
deriving DecidableEq, Repr

structure HealthState where
  dets : Tab Det := []
  last : Tab LastDet := []
  /-- The last detector that fired on a tile, of those that an engine's report counts (Table 17-3). -/
  lastEngine : Tab Nat := []
  rings : Tab ReportRing := []
  /-- Deadline of the TEST unlock: package NS32 and running clock. -/
  unlock : Option (U32 × Nat) := none
  lastReport : Nat := 0
  /-- Passes completed (tile scrubs, then engines by 8 + ID) and the duration of the last, in ms. -/
  passes : Tab U32 := []
  passMs : Tab Nat := []
  selftestOk : Tab Bool := []
  /-- Injected temperature of a tile: reading and samples left (R344). -/
  hot : Tab (Int × Nat) := []
deriving DecidableEq, Repr

end Sys2Proof.Machine
end

