-- ==== Sys2Proof/Machine/StLane.lean ====
section
/-!
DEFINITION. State of the camera lanes and Ethernet ports (chapter 04).
-/
namespace Sys2Proof.Machine
open Sys2Proof

/-- Link states (LN_STATUS.LINK_STATE). -/
inductive LinkState where
  | disabled | an | training | locking | up | retryWait | held
deriving DecidableEq, Repr

/-- States of the extended-rate exchange (Table 4-4). -/
inductive ErState where
  | disabled | pending | offered | switching | confirming | agreed | declined | noAnswer | failed
deriving DecidableEq, Repr

/-- A received frame on its way to a consumer (Table 4-7): destination address to the end of its payload, tag removed. -/
structure RxFrame where
  bytes : List Byte
  /-- Receive stamp (R249, R250), in 2^-16 ns of package time. -/
  stamp : Nat
  /-- Removed VLAN tag control information, when the frame was tagged. -/
  tci : Option Nat := none
  /-- Arrival on the running clock. -/
  at_ : Nat := 0
deriving DecidableEq, Repr

/-- The counters of Table 4-12. -/
structure LaneCounters where
  rxFrames : U64 := 0
  rxBytes : U64 := 0
  rxFcsError : U64 := 0
  rxOversize : U64 := 0
  rxRunt : U64 := 0
  rxPause : U64 := 0
  rxFiltered : U64 := 0
  ipDropped : U64 := 0
  txFrames : U64 := 0
  txBytes : U64 := 0
  txDropped : U64 := 0
  fecCorrected : U64 := 0
  fecUncorrectable : U64 := 0
  fecSymbols : U64 := 0
  arpAnswered : U64 := 0
  mgmtDelivered : U64 := 0
  mgmtDropped : U64 := 0
  linkLosses : U64 := 0
  /-- LN_ER_IGNORED: 32 bits, saturating. -/
  erIgnored : Nat := 0
deriving DecidableEq, Repr

/-- An eye scan under way (R78). -/
structure EyeScan where
  wait : Nat
  eye : Nat
  dwell : Nat
  startNs32 : U32
  /-- The last admitted quantum has run. -/
  done : Bool := false
deriving DecidableEq, Repr

/-- The extended-rate exchange of a port (R64 to R66). -/
structure Exchange where
  state : ErState := .disabled
  camRates : Nat := 0
  agreements : Nat := 0
  /-- SEQ of the frame last sent. -/
  seq : U16 := 0
  nonce : U32 := 0
  /-- OFFERs, SWITCHes or CONFIRMs sent in the present state, time of the last, and of the first SWITCH. -/
  sent : Nat := 0
  lastSent : Nat := 0
  firstSent : Nat := 0
  /-- Time at which the lanes began to retrain for the exchange. -/
  retrainAt : Nat := 0
  /-- Consecutive failed retrain attempts in AGREED. -/
  failedRetrains : Nat := 0
  /-- REVERT is sent once when the link is UP again. -/
  revertDue : Bool := false
  /-- The LANE_ER_OFFER that waits for the end. -/
  wait : Option Nat := none
deriving DecidableEq, Repr

/-- One lane; the settings of a port stand at its lowest lane (R59). -/
structure Lane where
  phy : Nat := 0
  width : Nat := 1
  fec : Nat := 0
  an : Bool := false
  erEnable : Bool := false
  gratArp : Bool := false
  vlanEn : Bool := false
  enabled : Bool := false
  primary : Bool := false
  member : Bool := false
  vlanId : Nat := 0
  link : LinkState := .held
  rate : Nat := 0
  fecLock : Bool := false
  amLock : Bool := false
  remoteFault : Bool := false
  attempts : Nat := 0
  upNs32 : U32 := 0
  /-- MAC address, octet 1 most significant. -/
  mac : Nat := 0
  ip : Nat := 0
  mask : Nat := 0
  /-- Bound management queues, 0 when none. -/
  rxq : Nat := 0
  txq : Nat := 0
  /-- The lanes of the port run at 112.5 Gb/s. -/
  fast : Bool := false
  /-- Time of entry to the link state, and of the last uncorrectable codeword. -/
  since : Nat := 0
  dirtyAt : Nat := 0
  er : Exchange := {}
  counters : LaneCounters := {}
  mgmtDropAt : Option Nat := none
  fecEventAt : Option Nat := none
  fecSince : Nat := 0
  eye : Option EyeScan := none
  /-- Frames handed on and not yet taken in: by the exchange, the time unit and the stream receiver. -/
  toExchange : List RxFrame := []
  toTime : List RxFrame := []
  toStream : List RxFrame := []
deriving DecidableEq, Repr

end Sys2Proof.Machine
end

