-- ==== Sys2Proof/Machine/StMotion.lean ====
section
/-!
DEFINITION. State of the motion interfaces (chapter 14).
-/
namespace Sys2Proof.Machine
open Sys2Proof

/-- What MO_CMP_ARM gives (R298). -/
structure CmpArm where
  position : U32
  down : Bool
  fireBehind : Bool
deriving DecidableEq, Repr

/-- What MO_TBL_START gives (R299). -/
structure TblStart where
  base : U32
  period : Nat
  entries : Nat
  down : Bool
  skipBehind : Bool
  relative : Bool
  cycles : Nat
deriving DecidableEq, Repr

/-- The compare unit (R298). -/
structure CmpUnit where
  position : U32 := 0
  /-- 0 idle, 1 armed, 2 armed and behind, 3 fired. -/
  state : Nat := 0
  down : Bool := false
  fireBehind : Bool := false
  last : U32 := 0
  /-- The last arming that a command gave. -/
  given : Option CmpArm := none
deriving DecidableEq, Repr

/-- The compare table (R299, R300). -/
structure CmpTable where
  /-- OFFSET[n]; an entry that is not listed is 0. -/
  offsets : Tab Nat := []
  base : U32 := 0
  period : Nat := 0
  entries : Nat := 0
  down : Bool := false
  skipBehind : Bool := false
  /-- 0 stopped, 1 running, 2 running and behind, 3 ended. -/
  state : Nat := 0
  entry : Nat := 0
  cycle : Nat := 0
  cycles : Nat := 0
  target : U32 := 0
  fires : U32 := 0
  given : Option TblStart := none
deriving DecidableEq, Repr

/-- One motion interface, by global number tile × 2 + i. -/
structure Axis where
  inputMode : Nat := 0
  invertDir : Bool := false
  indexEn : Bool := false
  indexPol : Bool := false
  indexAction : Nat := 0
  pass : Bool := false
  filterQ2 : Nat := 0
  avgEdges : Nat := 16
  standstillUs : Nat := 10000
  presetValue : U32 := 0
  /-- The extended position; its low 32 bits are the counter (R292, Table 6-4). -/
  ext : Int := 0
  /-- Levels at the balls, and those that the filter has accepted (R290). -/
  ballA : Bool := false
  ballB : Bool := false
  ballI : Bool := false
  levelA : Bool := false
  levelB : Bool := false
  levelI : Bool := false
  /-- Times of the counted edges since the last standstill or reversal, newest first (package time in ns, R290). -/
  times : List Nat := []
  /-- The last counted edge, if there was one, on the running clock. -/
  lastEdge : Option Nat := none
  /-- Last measured speed (R294), in 1/256 counts per second, without its sign. -/
  speed : Nat := 0
  dirDown : Bool := false
  still : Bool := true
  reversed : Bool := false
  idxArmed : Bool := false
  idxPos : U32 := 0
  idxNs32 : U32 := 0
  latchPos : U32 := 0
  latchNs32 : U32 := 0
  cmp : CmpUnit := {}
  tbl : CmpTable := {}
  edges : U64 := 0
  quadErrors : U64 := 0
  overspeed : U64 := 0
  reversals : U64 := 0
  tblSkipped : U64 := 0
  /-- Position history (R116): (time in ns of a 64 ns tick, counter), newest first. -/
  history : List (Nat × U32) := []
deriving DecidableEq, Repr

structure MotionState where
  axes : Tab Axis := []
  /-- Slot of the live compare handle of an interface (R296). -/
  handles : Tab Nat := []
  /-- Faults since the last MO_FAULT event, and its time, by interface (R290). -/
  faults : Tab Nat := []
  faultAt : Tab Nat := []
deriving DecidableEq, Repr

end Sys2Proof.Machine
end

