-- ==== Sys2Proof/Machine/StMover.lean ====
section
/-!
DEFINITION. State of the mover and of the queues (chapter 10): the queue pool (R208 to R219), the raw, delivery and readout
channels (R195 to R207), frames being delivered (R216 to R218).
-/
namespace Sys2Proof.Machine
open Sys2Proof

/-- Queue types (Table 10-4). -/
inductive QType where
  | buffer | completion | command | reply | event | management
deriving DecidableEq, Repr

/-- Queue states (Table 10-12). -/
inductive QState where
  | absent | idle | running | parked | stopped
deriving DecidableEq, Repr

/-- A descriptor that a queue engine has read and no frame has used yet (Table 10-5, Table 10-6). -/
structure Desc where
  position : Nat
  addr : Nat
  len : Nat
  cookie : Nat
deriving DecidableEq, Repr

/-- How an entry takes its place in a queue (R216, R219). -/
inductive EntryKind where
  /-- A frame completion entry uses its reservation. -/
  | frame
  /-- A mover status record, queue-stop entry or health report: outside the spare, or it waits. -/
  | record
  /-- An event entry: outside the spare, or it is dropped. -/
  | event
deriving DecidableEq, Repr

/-- What stays busy until an entry is written (R219). -/
inductive After where
  | nothing
  /-- The chain queue that stopped. -/
  | queue (q : Nat)
  /-- The raw channel whose run ended, by tile × 512 + channel. -/
  | raw (chan : Nat)
  /-- The readout of a segment (tile × 16,384 + index) that ends early. -/
  | readout (segment : Nat)
  /-- Delivery of a readout's frame, by segment. -/
  | delivered (segment : Nat)
deriving DecidableEq, Repr

/-- An entry due in a completion or event queue: its bytes 0 to 27, its tile, and what it frees. -/
structure PendEntry where
  bytes : List Byte
  tile : Nat
  kind : EntryKind
  after : After := .nothing
deriving DecidableEq, Repr

/-- One queue of the pool, by global number tile × 2,048 + local index (R208). -/
structure Queue where
  qtype : QType
  number : Nat := 0
  prio : Nat := 0
  size : Nat
  base : Nat
  strict : Bool := false
  flushRead : Bool := false
  irqEn : Bool := false
  vector : Nat := 0
  /-- Handle of the NOTIFY queue, 0 when none. -/
  notify : Nat := 0
  coalCount : Nat := 0
  coalUs : Nat := 0
  /-- MASK (R210). -/
  mask : Bool := true
  /-- Device count of Table 10-4. -/
  dev : U32 := 0
  /-- Last host count received. -/
  host : U32 := 0
  state : QState := .idle
  stopCode : Status := .ok
  stopCause : Nat := 0
  /-- The queue-stop entry waits for room (R219). -/
  stopping : Bool := false
  /-- Position of the park or stop. -/
  park : Nat := 0
  /-- Next position the queue engine reads. -/
  nextPos : Nat := 0
  /-- The parked descriptor is being read again (R214). -/
  reread : Bool := false
  /-- The last descriptor read had END clear, so the next position may be read (R212). -/
  runOn : Bool := false
  /-- Descriptors read and not yet used, in position order. -/
  ready : List Desc := []
  noBuffer : U32 := 0
  overflow : U32 := 0
  dbRejects : U32 := 0
  /-- Entries reserved by frames (R216). -/
  reserved : Nat := 0
  pendingEntries : List PendEntry := []
  /-- Entries or write-backs not yet signalled, and the time of the first of them (R210). -/
  unsignalled : Nat := 0
  unsigSince : Nat := 0
  /-- A reply message or a due message is held while MASK is 1 (R210). -/
  heldMessage : Bool := false
  /-- Event entries dropped directly before the next entry (R219). -/
  overflowMark : Bool := false
  droppedSince : Nat := 0
  lastOverflowEvent : Option Nat := none
  /-- Replies that wait while the queue is held (R240). -/
  heldReplies : List (Reply × Bool) := []
  /-- Replies written and not consumed, with the device count after each and FLAGS.IRQ (R315). -/
  sent : List (U32 × Reply × Bool) := []
  /-- ANCHOR_SEQ of the last time anchor, the running clock at which the next one is due (ANCHOR_INTERVAL_MS in force at the last
  one, or at creation, R130), and a phase step since the last (R123). -/
  anchorSeq : U32 := 0
  anchorDue : Nat := 0
  anchorStep : Bool := false
  /-- Interfaces preset since their last anchor in this queue. -/
  anchorPreset : List Nat := []
  /-- Position anchors that follow the last time anchor and are not written yet. -/
  anchorFollow : List Nat := []
  /-- A first time anchor was written. -/
  anchored : Bool := false
  /-- Buffers taken by frames or management frames and not yet given back. -/
  inUse : Nat := 0
deriving DecidableEq, Repr

/-- The settings of a raw channel (Table 10-14), as the registers hold them or as a run has latched them. -/
structure ChanRegs where
  src : Nat := 0
  dst : Nat := 0
  count : Nat := 0
  srcSpace : Nat := 0
  burst : Nat := 4
  prio : Nat := 0
  pace : Bool := false
  pack : Bool := false
  statusEn : Bool := false
  relaxed : Bool := true
  flushRead : Bool := false
  srcWidth : Nat := 7
  dstWidth : Nat := 7
  seg : Nat := 0
  fill : Nat := 0
  statusq : Nat := 0
  tag : Nat := 0
deriving DecidableEq, Repr

/-- States of a mover channel (MV_CH_STATUS). -/
inductive ChanState where
  | unassigned | idle | issuing | waiting | displaced | ending
deriving DecidableEq, Repr

/-- One mover channel, by tile × 512 + channel (R195). -/
structure Chan where
  regs : ChanRegs := {}
  run : ChanRegs := {}
  state : ChanState := .unassigned
  /-- CAUSE of the ended run whose record waits (Table 10-3). -/
  cause : Nat := 0
  /-- Commands that wait for the end of the run: MV_ABORT, and MV_RELEASE last. -/
  waits : List Nat := []
  release : Option Nat := none
  /-- Status with which a flush read after an abort lets the run end, its CAUSE and RESIDUE standing in the fields (R205, R206). -/
  flushCode : Status := .ok
  raw : Bool := false
  steady : Bool := false
  owner : Nat := 0
  code : Status := .ok
  residue : Nat := 0
  credits : Nat := 0
  moved : Nat := 0
  /-- Cause of the abort under way (Table 10-3), none while the run goes on. -/
  abort : Option Nat := none
  /-- A flush read is outstanding (R205): the status and the CAUSE its record will carry. -/
  flushing : Bool := false
  /-- Running clock at the start of the run, and whether the run was aborted at that edge: it issues nothing (R206). -/
  startedAt : Nat := 0
  stillborn : Bool := false
  /-- HOPS of the event that started a run rejected at its start (Table 13-3). -/
  endHops : Nat := 0
  /-- The port of the run was reset: no status record is written (R207). -/
  silent : Bool := false
deriving DecidableEq, Repr

/-- A live frame that is being delivered (R216 to R218). -/
structure Delivery where
  tile : Nat
  /-- Local stream channel of the tile. -/
  channel : Nat
  frame : U64
  bufQueue : Nat
  cplQueue : Nat
  desc : Desc
  /-- Bytes of the frame written: payload so far, and with its tag once that is written. -/
  bytes : Nat := 0
  tagWritten : Bool := false
  flushing : Bool := false
  /-- The segment handle of a readout; 0 for live delivery. -/
  segment : Nat := 0
deriving DecidableEq, Repr

/-- A frame waiting in the management path of a port: the buffer or frame descriptor taken and what is to be written back. -/
structure MgmtUse where
  queue : Nat
  desc : Desc
  result : Nat
  status : Status
deriving DecidableEq, Repr

structure MoverState where
  queues : Tab Queue := []
  chans : Tab Chan := []
  /-- SHARE of the reserved steady slots 3 to 15 of a tile, by tile × 16 + slot; present while in use (Table 10-2). -/
  steadyShare : Tab Nat := []
  /-- Credit of a reserved steady slot in bytes, and the running clock at which it was counted (R202). -/
  steadyCredit : Tab (Nat × Nat) := []
  /-- The normal channel of a tile that issued the last burst (R201). -/
  turn : Tab Nat := []
  bursts : Tab U64 := []
  preemptions : Tab U64 := []
  goLost : Tab Nat := []
  deliveries : List Delivery := []
  mgmt : List MgmtUse := []
  /-- Frames not delivered since the last DELIVERY_DROPPED event and its time, by global channel (Table 10-11). -/
  droppedCount : Tab Nat := []
  droppedAt : Tab Nat := []
deriving DecidableEq, Repr

end Sys2Proof.Machine
end

