-- ==== Sys2Proof/Machine/StPkg.lean ====
section
/-!
DEFINITION. State of the package and of command handling: modes and tile service states (chapter 02), the master role, the
handle table, the command queues' bootstrap blocks and the commands that are taken and unanswered (chapter 03).
-/
namespace Sys2Proof.Machine
open Sys2Proof

/-- A mode change in progress (R21, R22). -/
structure ModeChange where
  target : Mode
  /-- TC in ns of package time. -/
  tc : Nat
  /-- Drain limit in ns, counted from TC; none when the change needs no drain. -/
  drainNs : Option Nat
  committed : Bool := false
  /-- Time of the running clock at which TC was applied. -/
  committedAt : Nat := 0
  /-- Tiles that took the mode up at TC: the drain covers them (R22, R30). -/
  tiles : List Nat := []
  cut : Nat := 0
  previous : Mode
  wait : Nat
deriving DecidableEq, Repr

/-- Tile service orders under way (R26, R320). -/
inductive TileOpKind where
  | quiesce | resume | powerDown | rejoin
deriving DecidableEq, Repr

structure TileOp where
  kind : TileOpKind
  /-- Commit time in ns of package time (quiesce, resume). -/
  tc : Nat := 0
  drainNs : Nat := 0
  committed : Bool := false
  committedAt : Nat := 0
  cut : Nat := 0
  wait : Option Nat
  startedAt : Nat := 0
deriving DecidableEq, Repr

/-- The tile controller of a tile (Table 15-9). -/
structure TileCtl where
  /-- 0 none, 1 power-up, 2 microcode, 3 DRAM training, 4 Praline links, 5 time lock. -/
  step : Nat := 0
  /-- Running clock at which steps 1 to 3, or 4 and 5, began. -/
  stepAt : Nat := 0
  faultStep : Nat := 0
  stampNs32 : U32 := 0
  microcode : Nat := 0
  rejoins : U32 := 0
deriving DecidableEq, Repr

structure PkgState where
  /-- PKG_MODE (Table 2-7). -/
  mode : Mode := .boot
  target : Mode := .boot
  changing : Bool := false
  fallback : Bool := false
  modeGen : U16 := 0
  doneNs32 : U32 := 0
  /-- PKG_MODE_CAUSE: held in the always-on island (Table 2-9). -/
  cause : Nat := 0
  causePort : Nat := 0
  /-- Service states and faults; a tile of the part that is not listed is IN_SERVICE without fault. -/
  service : Tab Service := []
  fault : Tab Bool := []
  change : Option ModeChange := none
  /-- Mode that a tile runs in or has recorded (R30), when it differs from the package mode. -/
  tileMode : Tab Mode := []
  tileOps : Tab TileOp := []
  tc : Tab TileCtl := []
  /-- Praline links that are down, by link (link i joins tiles i and i + 1), and consecutive failed retries, by tile × 2 + unit
  (unit 0 toward tile + 1) (R13, R15). -/
  linkDown : Tab Bool := []
  linkRetries : Tab Nat := []
  /-- PKG_MASTER_PORT (Table 3-13). -/
  masterPort : Nat := 0
  vacant : Bool := false
  masterGen : U16 := 0
  /-- Running-clock time at which the role becomes vacant, while the wait of R52 runs. -/
  vacancyAt : Option Nat := none
  /-- RESET_N is low since this running-clock time; RESET_N was high when the supplies came, so that it must first be low for 10 µs
  (R365). -/
  lowSince : Option Nat := none
  needsLow : Bool := false
  /-- Supplies and the reset ball (chapter 19): main rails, VDD_IO, VBAT at or above 2.5 V, RESET_N released. -/
  mainOk : Bool := true
  vddIo : Bool := true
  vbat : Bool := true
  resetReleased : Bool := true
deriving DecidableEq, Repr

/-- The CE_BOOT block of a port (Table 3-15). -/
structure BootBlock where
  cqBase : Nat := 0
  rqBase : Nat := 0
  cqLog2 : Nat := 8
  rqLog2 : Nat := 8
  vector : Nat := 0
  /-- 0 closed, 1 open, 2 refused. -/
  state : Nat := 0
  code : Status := .ok
  /-- OPEN was written and takes effect (R58). -/
  opening : Bool := false
deriving DecidableEq, Repr

/-- The scheduling slot under way (R53): its time, the number (port × 8 + queue) of the queue visited last in it, and whether it has
taken a packet. -/
structure SlotVisit where
  at_ : Nat
  last : Nat
  counted : Bool := false
  /-- Higher queues with posted slots when the slot began: it visits each of them. -/
  due : List Nat := []
deriving DecidableEq, Repr

structure EngState where
  bootBlocks : Tab BootBlock := []
  slotCount : U32 := 0
  slotAt : Option SlotVisit := none
  opinfoSel : Nat := 0
  orphanGraceMs : Nat := 2000
  /-- CE_OWNER.ACTIVE. -/
  active : Nat := 0
  /-- CE_CONFIG_GEN. -/
  configGen : U32 := 1
  /-- Live objects, by slot number (kind × 2^20 + tile × 2^17 + index). -/
  objs : Tab Obj := []
  /-- Generations of slots (R45); a slot that is not listed has generation 1. -/
  gens : Tab Nat := []
  waiting : List Waiting := []
  nextWait : Nat := 1
  /-- No engine takes commands: none is active, it stopped issuing, or a change of the active engine runs (R309 to R317). -/
  stopped : Bool := false
  /-- No reply is written (R315); replies that are due, with their commands. -/
  quiet : Bool := false
  deferred : List (Cmd × Reply) := []
deriving DecidableEq, Repr

end Sys2Proof.Machine
end

