-- ==== Sys2Proof/Machine/StRedund.lean ====
section
/-!
DEFINITION. State of the pair of command engines (chapter 15): engine states, heartbeats, the claim register, mirroring, changes
of the active engine, the revert hold, arbitration.
-/
namespace Sys2Proof.Machine
open Sys2Proof

/-- Engine states (Table 15-1). -/
inductive EngineState where
  | absent | active | standby | copying | testing | failed | waiting
deriving DecidableEq, Repr

/-- One command engine. -/
structure CmdEngine where
  state : EngineState := .absent
  /-- No detector has made it unhealthy (R307). -/
  healthy : Bool := true
  /-- Cause, as ENGINE_STATE, of the last failure. -/
  cause : Nat := 0
  /-- The active engine stopped issuing (R309 to R311). -/
  halted : Bool := false
  /-- A snapshot epoch completed since it began to copy (R318). -/
  copied : Bool := false
  /-- Running clock of the last heartbeat of the peer; none while none is expected. -/
  beat : Option Nat := none
  /-- Heartbeat loss was declared at this time, and the last CLAIM was tried. -/
  lost : Option Nat := none
  lastTry : Option Nat := none
  /-- Start-up self-tests failed in a row (R318). -/
  fails : Nat := 0
  /-- The image it runs: its flash slot (0 A, 1 B; other numbers for the golden and pushed images), and that image's entry. -/
  slot : Nat := 0
  image : SlotEntry := {}
  /-- The CE_STANDBY_RESTART that waits for this engine. -/
  wait : Option Nat := none
deriving DecidableEq, Repr

/-- A change of the active engine that is not complete (R314 to R316). -/
structure EngineChange where
  /-- 0 TAKEOVER, 1 SWITCHOVER, 2 REVERT (Table 15-6). -/
  kind : Nat
  cause : Nat
  /-- Detection, and OWNER's change: running clock. -/
  detectedAt : Nat
  claimedAt : Nat
  /-- The last complete epoch is restored and the journal applied. -/
  restored : Bool := false
deriving DecidableEq, Repr

/-- A planned change that waits for HANDOVER (R316). -/
structure PlannedChange where
  kind : Nat
  target : Nat
  startedAt : Nat
  startNs32 : U32
deriving DecidableEq, Repr

/-- A journal entry: the intent of a command, with the new device count of its command queue (R313). Its result, the reply and the
slot it occupies, stands in the reply queue (`Queue.sent`, `Queue.heldReplies`) once the command no longer waits. -/
structure Intent where
  op : Nat
  cmd : Cmd
  count : U32
deriving DecidableEq, Repr

structure RedundState where
  engines : Tab CmdEngine := []
  /-- The claim register (R308); OWNER none is `none`. -/
  owner : Option Nat := some 0
  epoch : U16 := 0
  /-- Running clock of the last renewal recorded, and of the last one that its sender saw confirmed. -/
  renewedAt : Nat := 0
  /-- The last RENEW failed. -/
  renewFailed : Bool := false
  /-- Detection of the present loss of the owner by RESIGN: running clock, NS32, cause. -/
  resigned : Option (Nat × U32 × Nat) := none
  /-- End of the dual-active window. -/
  dualUntil : Option Nat := none
  dualCount : U32 := 0
  arbReq : Bool := false
  /-- Running clock of the last heartbeats sent. -/
  beatSent : Nat := 0
  /-- Level of ARB_GNT_N that is in force. -/
  gnt : Bool := true
  /-- The revert hold runs since this time, to this NS32. -/
  holdSince : Option Nat := none
  holdNs32 : U32 := 0
  holdS : Nat := 10
  preferred : Nat := 0
  /-- CE_OWNER.TAKEOVERS. -/
  takeovers : Nat := 0
  change : Option EngineChange := none
  planned : Option PlannedChange := none
  lastNs32 : U32 := 0
  durationUs : Nat := 0
  cause : Nat := 0
  reexecuted : Nat := 0
  unknown : Nat := 0
  /-- CE_SNAPSHOT; start of the epoch being copied; the journal since the start of the last complete epoch, and how many of its
  entries came since the start of the one being copied. -/
  snapshot : U32 := 0
  copyingSince : Option Nat := none
  lastStart : Nat := 0
  journal : List Intent := []
  journalNew : Nat := 0
deriving DecidableEq, Repr

end Sys2Proof.Machine
end

