-- ==== Sys2Proof/Machine/StStore.lean ====
section
/-!
DEFINITION. State of the frame store (chapter 08): rings, segments, mappings into the STORE regions, readouts.
-/
namespace Sys2Proof.Machine
open Sys2Proof

/-- A valid frame record (R158): bytes 0 to 123 of its tag, its frame data, its pages. -/
structure Rec where
  seq : U64
  pages : Nat
  tag : List Byte
  data : List Byte
  /-- E in ns. -/
  expo : Int
  post : Bool := false
  bad : Bool := false
  /-- An injected error that stands in its last page (R344): 0 none, 1 corrected, 2 uncorrectable. -/
  err : Nat := 0
  /-- A copy read out of it was cut and counted in TRUNCATED (R100). -/
  cut : Bool := false
deriving DecidableEq, Repr

/-- The ring of a stream channel, by tile × 64 + index (R160, R161), with the counters of Table 8-11. -/
structure Ring where
  /-- RING_PAGES. -/
  target : Nat := 0
  /-- Pages the ring holds. -/
  pages : Nat := 0
  /-- Valid frame records in FRAME_SEQ order. -/
  frames : List Rec := []
  short : Bool := false
  overTarget : Bool := false
  full : Bool := false
  /-- The ring is being written (R174). -/
  writing : Bool := false
  written : U64 := 0
  overwritten : U64 := 0
  dropped : U64 := 0
  ignored : U64 := 0
  latePre : U64 := 0
  lost : U64 := 0
  /-- STORE_FULL and FRAME_LOST: last time, and frames not recorded since the last STORE_FULL. -/
  fullAt : Option Nat := none
  fullCount : Nat := 0
  lostAt : Option Nat := none
deriving DecidableEq, Repr

/-- Segment states (Table 8-3). -/
inductive SegState where
  | armed | triggered | frozen | reading
deriving DecidableEq, Repr

/-- A segment, by tile × 16,384 + index. -/
structure Segment where
  /-- Channel (tile × 64 + index), and its handle when the segment was armed. -/
  channel : Nat
  chanHandle : Nat
  preN : Nat
  postM : Nat
  offsetNs : Int := 0
  postWaitMs : Nat := 0
  autoRearm : Bool := false
  state : SegState := .armed
  /-- T in 2^-16 ns, once triggered, and the running clock at the acceptance of the trigger. -/
  t : Option Int := none
  acceptedAt : Nat := 0
  /-- FRAME_SEQ of the pre set once it is closed, and of the post frames. -/
  pre : Option (List U64) := none
  post : List U64 := []
  /-- The frames of a layer, in FRAME_SEQ order, and its pages. -/
  frames : List Rec := []
  pages : Nat := 0
  cut : Bool := false
  preShort : Bool := false
  postShort : Bool := false
  frozenNs32 : U32 := 0
deriving DecidableEq, Repr

/-- A segment mapped into the STORE region of a port (R173). -/
structure Mapping where
  port : Nat
  segment : Nat
  offset : Nat
  bytes : Nat
  /-- The directory as generated when the segment was mapped. -/
  dir : List Byte
deriving DecidableEq, Repr

/-- A running FS_READ (R171, R172), by segment. -/
structure Readout where
  wait : Nat
  buf : Nat
  cpl : Nat
  /-- Local mover channel. -/
  chan : Nat
  /-- Frames of the layer from FIRST to the end that are not finished: indices, BAD ones included. -/
  left : List Nat
  sent : Nat := 0
  skipped : Nat := 0
  bytes : Nat := 0
  /-- Bytes whose admission as class C work is used up. -/
  moved : Nat := 0
  /-- ENDED of an early end that is due; the record is on its way. -/
  ending : Option Nat := none
  recording : Bool := false
deriving DecidableEq, Repr

structure StoreState where
  rings : Tab Ring := []
  segs : Tab Segment := []
  maps : List Mapping := []
  readouts : Tab Readout := []
  /-- FS_UNMAPPED_READS, by port; FS_SEG_SEL, by tile. -/
  unmapped : Tab U64 := []
  segSel : Tab Nat := []
deriving DecidableEq, Repr

end Sys2Proof.Machine
end

