-- ==== Sys2Proof/Machine/StTime.lean ====
section
/-!
DEFINITION. State of package time (chapter 12): the clock, the servo, the PTP data sets, the transmit time-stamp queues, the
scheduled outputs and the calendar.
-/
namespace Sys2Proof.Machine
open Sys2Proof

/-- Clock states (Table 12-3). -/
inductive ClockState where
  | freeRun | acquiring | locked | holdover | verifying | host
deriving DecidableEq, Repr

/-- A change of package time that waits for its commit time (R248). -/
inductive TimeChange where
  /-- A frequency adjustment in 1/1,024 ppb. -/
  | freq (adj : Int)
  /-- A slew of 2^-16 ns units. -/
  | slew (units : Int)
  /-- A phase step of 2^-16 ns units; `seeded` tells a TIME_SET. -/
  | step (units : Int) (bySet : Bool)
deriving DecidableEq, Repr

/-- The PTP clock data set (PTP_CLOCK_SET, R252). -/
structure PtpClock where
  domain : Nat := 0
  boundary : Bool := false
  priority1 : Nat := 128
  priority2 : Nat := 128
  clockClass : Nat := 248
  accuracy : Nat := 0xFE
  variance : Nat := 0xFFFF
  slaveOnly : Bool := false
  /-- clockIdentity given by PTP_CLOCK_SET; 0 for the one of R252. -/
  identity : Nat := 0
  /-- The grandmaster and the parent, while a port is a slave; the clock itself otherwise (0 before the first decision). -/
  gmIdentity : Nat := 0
  gmPriority1 : Nat := 128
  gmQuality : Nat := 0xF8FEFFFF
  gmPriority2 : Nat := 128
  gmTimeSource : Nat := 0xA0
  parentIdentity : Nat := 0
  parentPort : Nat := 0
  stepsRemoved : Nat := 0
deriving DecidableEq, Repr

/-- What an Announce says of a master: the data set that the best master clock algorithm compares (R251). -/
structure PtpMaster where
  priority1 : Nat
  /-- clockClass, clockAccuracy and offsetScaledLogVariance, as the four octets stand. -/
  quality : Nat
  priority2 : Nat
  identity : Nat
  steps : Nat
  senderIdentity : Nat
  senderPort : Nat
  timeSource : Nat
  /-- Running clock of its last two Announces, the newest first. -/
  heard : List Nat := []
deriving DecidableEq, Repr

/-- A PTP port (Table 12-8). -/
structure PtpPort where
  enabled : Bool := false
  udp : Bool := false
  p2p : Bool := false
  masterOnly : Bool := false
  /-- portState of the standard; 9 is SLAVE. -/
  portState : Nat := 0
  /-- Octets of the signed log intervals. -/
  logSync : Nat := 0
  logAnnounce : Nat := 1
  logDelay : Nat := 0
  announceTimeout : Nat := 3
  asymQ8 : Int := 0
  rxExtraQ8 : Int := 0
  txExtraQ8 : Int := 0
  meanDelayQ8 : Int := 0
  dropped : Nat := 0
  syncRx : U32 := 0
  /-- Time of the last Announce received. -/
  lastAnnounce : Nat := 0
  /-- The masters heard on the port. -/
  foreign : List PtpMaster := []
  /-- The next sequenceId, and the running clock of the last message sent, by messageType. -/
  seqs : Tab Nat := []
  sentAt : Tab Nat := []
  /-- A two-step Sync that waits for its Follow_Up: sequenceId, receive stamp, correctionField. -/
  syncHeld : Option (Nat × Nat × Int) := none
  /-- Offset of the slave from the master with the path delay in it, in 2^-16 ns, of the last Sync (R258). -/
  lag : Option Int := none
  /-- The last delay or peer delay request sent: sequenceId and transmit stamp. -/
  request : Option (Nat × Nat) := none
  /-- A two-step Pdelay_Resp that waits for its follow-up: sequenceId, receipt time at the peer, receive stamp, correctionField. -/
  respHeld : Option (Nat × Nat × Nat × Int) := none
deriving DecidableEq, Repr

/-- An entry of a transmit time-stamp queue (R254). -/
structure Txts where
  seqId : Nat
  lane : Nat
  msgType : Nat
  sec : Nat
  ns : Nat
  frac : Nat
deriving DecidableEq, Repr

/-- Targets of a scheduled output (Table 12-12). -/
inductive SchedKind where
  | eventOnly | gtio | lvds | action
deriving DecidableEq, Repr

/-- One scheduled output, by tile × 8 + index (R259 to R264). Times are in 2^-16 ns. -/
structure Sched where
  kind : SchedKind := .eventOnly
  index : Nat := 0
  periodic : Bool := false
  invert : Bool := false
  eventStart : Bool := false
  lateReject : Bool := false
  /-- 0 free, 1 waiting, 2 running, 3 ended. -/
  state : Nat := 0
  /-- DELAY with EVENT_START. -/
  delay : Nat := 0
  /-- PERIOD_NS × 2^16 + PERIOD_FRAC. -/
  period : Nat := 0
  width : Nat := 0
  count : Nat := 0
  /-- Due times of pulse 0 of the present train and of the trains that replace it, ascending (R261). -/
  trains : List Nat := []
  /-- Due time of the last pulse that fired or was merged, and of the last one whose pin edge is scheduled or whose action
  command is sent (R103, R283). -/
  firedTo : Option Nat := none
  armedTo : Option Nat := none
  /-- Due times, first and last, of pulses of the trains that a late pulse has merged or a step has rejected, ascending (R262, R263). -/
  passed : List (Nat × Nat) := []
  /-- Action times of late pulses whose action commands wait to be sent. -/
  lateSends : List Nat := []
  fired : U32 := 0
  merged : U32 := 0
  lastNs32 : U32 := 0
  rejected : U32 := 0
  /-- The pin is driven by a pulse until this due time: as events see it, and as edges are scheduled. -/
  pinUntil : Nat := 0
  edgeUntil : Nat := 0
deriving DecidableEq, Repr

structure TimeState where
  /-- Package time in units of 2^-16 ns since second 0 (TIME96 is this number taken apart, R245). -/
  now : Nat := 0
  /-- Fraction of a unit that the frequency adjustment has left, less than one unit, in units of 1/10^9 of it (see `advanceTime`). -/
  freqAcc : Int := 0
  clock : ClockState := .freeRun
  holdoverHost : Bool := false
  calSeeded : Bool := false
  setByHost : Bool := false
  slaveLane : Option Nat := none
  steps : U32 := 0
  stepNs32 : U32 := 0
  offsetNs : Int := 0
  freqAdj : Int := 0
  pathStepSize : Int := 0
  pathStepNs : Nat := 100
  consistent : Nat := 8
  stepMinNs : Nat := 10000
  lockNs : Nat := 50
  utcOffset : Int := 37
  utcValid : Bool := false
  ptpTimescale : Bool := true
  /-- Samples of the present run, in ns. -/
  run : List Int := []
  /-- The last 8 LOCKED samples. -/
  reference : List Int := []
  lockCount : Nat := 0
  verifyCount : Nat := 0
  /-- Frequency adjustments of the last 64 samples (R257). -/
  freqHistory : List Int := []
  /-- A run of ACQUIRING after HOLDOVER makes no correction before CONSISTENT samples. -/
  slewLeft : Int := 0
  changes : List (Nat × TimeChange) := []
  clockDs : PtpClock := {}
  ptpPorts : Tab PtpPort := []
  /-- TU_LOCK of a tile: locked, ERROR. -/
  locked : Tab Bool := []
  lockError : Tab Int := []
  txts : Tab (List Txts) := []
  txtsOverflow : Tab Nat := []
  txtsDropped : Tab Nat := []
  txtsEventAt : Tab Nat := []
  scheds : Tab Sched := []
deriving DecidableEq, Repr

/-- The calendar clock of the always-on island (R265): it survives a package reset. -/
structure Calendar where
  seconds : Nat := 0
  ticks : Nat := 0
  valid : Bool := false
  /-- SYNCED and SYNC_NS32 (reset by package reset), and the time of the last alignment. -/
  synced : Bool := false
  syncNs32 : U32 := 0
  alignedAt : Option Nat := none
deriving DecidableEq, Repr

end Sys2Proof.Machine
end

