-- ==== Sys2Proof/Machine/State.lean ====
section
/-!
DEFINITION. The state of the package: everything the manual gives it, one part for each chapter, and the model's own fields
(the queue of commands that wait, the running clock, the counter of free values, the record of what left the package).
-/
namespace Sys2Proof.Machine
open Sys2Proof

structure State where
  /-- Commands that wait, first in, first out. -/
  pending : List Instr
  part : Part
  /-- The model's running clock: nanoseconds since power came, never set back (log entry 2). -/
  clock : Nat
  /-- Number of the next free value (log entry 5). -/
  free : Nat
  /-- What has left the package, oldest first (log entry 3). -/
  out : List Out
  pkg : PkgState
  eng : EngState
  lanes : Tab Lane
  st : StreamState
  mv : MoverState
  host : HostState
  time : TimeState
  cal : Calendar
  ev : EventState
  boot : BootState
  mo : MotionState
  gov : GovState
  cd : CodecState
  ad : AdState
  hm : HealthState
  fs : StoreState
  rd : RedundState
deriving DecidableEq, Repr

/-- Why a command has no next state. Closed. -/
inductive Fault where
  /-- No command of this model raises it: every command of the table has a next state. Safe. -/
  | none
deriving DecidableEq, Repr

/-- Why a command is refused. Closed. -/
inductive Refusal where
  /-- Raised by `exec` for a row that has no meaning yet. Safe: the machine stops. -/
  | notModelled (mnemonic : String)
deriving DecidableEq, Repr

/-- The package right after package reset (the Reset columns of the chapters' tables): an FV-864 in BOOT. -/
def State.reset : State where
  pending := []
  part := .fv864
  clock := 0
  free := 0
  out := []
  pkg := {}
  eng := {}
  lanes := []
  st := {}
  mv := {}
  host := {}
  time := {}
  cal := {}
  ev := {}
  boot := {}
  mo := {}
  gov := {}
  cd := {}
  ad := {}
  hm := {}
  fs := {}
  rd := {}

end Sys2Proof.Machine
end

