-- ==== Sys2Proof/Machine/Ops.lean ====
section
/-!
DEFINITION. The named operations that every block shares: package time, the part's numbering, tile service, handles, events,
interrupt signalling, entries of completion and event queues, replies.
-/
namespace Sys2Proof.Machine
open Sys2Proof

/-! ### The part and its numbering (Table 0-1, R7) -/

def partTiles : Part → Nat
  | .fv216 => 2
  | .fv432 => 4
  | .fv864 => 8

def partDevice : Part → Nat
  | .fv216 => 0x0216
  | .fv432 => 0x0432
  | .fv864 => 0x0864

/-- Maximum package power (Table 0-1), in W. -/
def partPower : Part → Nat
  | .fv216 => 110
  | .fv432 => 210
  | .fv864 => 420

def tiles (s : State) : Nat := partTiles s.part

/-- The tile of the second command engine (Table 1-5). -/
def engineTile (s : State) (e : Nat) : Nat := if e = 0 then 0 else tiles s / 2

def modeCode : Mode → Nat
  | .off => 0 | .backup => 1 | .reset => 2 | .boot => 3 | .safe => 4 | .ready => 5 | .stream => 6 | .record => 7
  | .hybrid => 8 | .review => 9 | .calibrate => 10 | .test => 11

def modeOfCode : Nat → Option Mode
  | 0 => some .off | 1 => some .backup | 2 => some .reset | 3 => some .boot | 4 => some .safe | 5 => some .ready
  | 6 => some .stream | 7 => some .record | 8 => some .hybrid | 9 => some .review | 10 => some .calibrate
  | 11 => some .test | _ => none

def serviceCode : Service → Nat
  | .inService => 0 | .draining => 1 | .quiesced => 2 | .outOfService => 3 | .rejoining => 4

def statusCode : Status → Nat
  | .ok => 0x00 | .eOpcode => 0x01 | .eParam => 0x02 | .eStaleHandle => 0x03 | .eNotOwner => 0x04 | .eState => 0x05
  | .eNoResource => 0x06 | .eAlign => 0x07 | .eTimePast => 0x08 | .eConflict => 0x09 | .eBusy => 0x0A
  | .eOutcomeUnknown => 0x0B | .eLocked => 0x0C | .eHwFault => 0x0D | .eTimeout => 0x0E | .eChain => 0x0F
  | .eTooLong => 0x10 | .eVerify => 0x11 | .eRollback => 0x12 | .eUnsupported => 0x13

/-- The thirteen host errors (R10, Table 3-5). -/
def hostError : Status → Bool
  | .eOpcode | .eParam | .eStaleHandle | .eNotOwner | .eState | .eAlign | .eTimePast | .eConflict | .eLocked | .eTooLong
  | .eVerify | .eRollback | .eUnsupported => true
  | _ => false

/-! ### Package time (R245, R246) -/

/-- Package nanoseconds. -/
def ns (s : State) : Nat := s.time.now / 65536

/-- NS32 of a count of nanoseconds (R246): the fraction is dropped. -/
def ns32Of (n : Nat) : U32 := BitVec.ofNat 32 n

def ns32 (s : State) : U32 := ns32Of (ns s)

def timeSec (now : Nat) : Nat := now / 65536 / 1000000000
def timeNs (now : Nat) : Nat := now / 65536 % 1000000000
def timeFrac (now : Nat) : Nat := now % 65536

/-- The 12 bytes of a TIME96 (R245). -/
def time96 (now : Nat) : List Byte := leBytes 6 (timeSec now) ++ leBytes 4 (timeNs now) ++ leBytes 2 (timeFrac now)

/-- Extends a 32-bit value against a full value A (R124). -/
def extend32 (x : Nat) (a : Int) : Int :=
  a + (((x : Int) - a % (2 ^ 32) + 2 ^ 31) % (2 ^ 32) - 2 ^ 31)

def ms : Nat := 1000000
def us : Nat := 1000

/-! ### Tile service (Table 2-4) -/

def service (s : State) (t : Nat) : Service := tget .inService s.pkg.service t
def tileFault (s : State) (t : Nat) : Bool := tget false s.pkg.fault t

/-- The tile is on the part and IN_SERVICE, DRAINING or QUIESCED, and the package has left RESET: in OFF, BACKUP and RESET no island of
a tile runs (Table 2-1, Table 2-2). -/
def serving (s : State) (t : Nat) : Bool :=
  decide (3 ≤ modeCode s.pkg.mode) && decide (t < tiles s) &&
    (match service s t with
     | .inService | .draining | .quiesced => true
     | .outOfService | .rejoining => false)

/-- The mode that a tile runs in (R21, R30). -/
def tileMode (s : State) (t : Nat) : Mode := tget s.pkg.mode s.pkg.tileMode t

/-- Modes in which frames are opened (Table 2-1). -/
def opensFrames : Mode → Bool
  | .stream | .record | .hybrid | .calibrate | .test => true
  | _ => false

/-! ### Handles (R8, R43 to R45) -/

def slotOf (kind tile index : Nat) : Nat := kind * 2 ^ 20 + tile * 2 ^ 17 + index
def slotKind (k : Nat) : Nat := k / 2 ^ 20
def slotTile (k : Nat) : Nat := k / 2 ^ 17 % 8
def slotIndex (k : Nat) : Nat := k % 2 ^ 17

def handleKind (h : Nat) : Nat := bits h 31 28
def handleTile (h : Nat) : Nat := bits h 27 25
def handleGen (h : Nat) : Nat := bits h 24 17
def handleIndex (h : Nat) : Nat := bits h 16 0
def handleSlot (h : Nat) : Nat := slotOf (handleKind h) (handleTile h) (handleIndex h)

/-- Slots of each kind on a tile (Table 3-8). -/
def indexLimit : Nat → Nat
  | 1 => 64 | 2 => 2048 | 3 => 16384 | 4 => 4096 | 5 => 2 | 6 => 512 | 7 => 8 | 8 => 512 | 9 => 64 | _ => 0

/-- Present generation of a slot (R45). -/
def genOf (s : State) (k : Nat) : Nat := tget 1 s.eng.gens k

def makeHandle (kind tile gen index : Nat) : Nat := kind * 2 ^ 28 + tile * 2 ^ 25 + gen * 2 ^ 17 + index

/-- The handle that names a slot's object now. -/
def handleOf (s : State) (k : Nat) : Nat := makeHandle (slotKind k) (slotTile k) (genOf s k) (slotIndex k)

def obj? (s : State) (k : Nat) : Option Obj := tget? s.eng.objs k

/-- A handle names a live object: generation current, slot live, tile not OUT_OF_SERVICE (check step 7). -/
def handleLive (s : State) (h : Nat) : Bool :=
  (obj? s (handleSlot h)).isSome && decide (genOf s (handleSlot h) = handleGen h)
    && decide (service s (handleTile h) ≠ .outOfService)

/-- CONFIG_GEN after a change (R44): wraps from 0xFFFF_FFFF to 1. -/
def nextGen (g : U32) : U32 := if g = 0xFFFFFFFF then 1 else g + 1

/-- Generation after a destruction (R45): wraps from 255 to 1. -/
def nextHandleGen (g : Nat) : Nat := if g ≥ 255 then 1 else g + 1

def modEng (s : State) (f : EngState → EngState) : State := { s with eng := f s.eng }

def modObj (k : Nat) (f : Obj → Obj) (s : State) : State :=
  match obj? s k with
  | some o => modEng s fun e => { e with objs := tput e.objs k (f o) }
  | none => s

/-- An accepted command changed the object's configuration (R44). -/
def bumpObj (k : Nat) (s : State) : State := modObj k (fun o => { o with gen := nextGen o.gen }) s

/-- An accepted command changed a package-wide setting. -/
def bumpPkg (s : State) : State := modEng s fun e => { e with configGen := nextGen e.configGen }

/-- A new object in a slot, owned by a port (R44). -/
def createObj (k owner : Nat) (s : State) : State :=
  modEng s fun e => { e with objs := tput e.objs k { owner := owner } }

/-- Lowest free index of a kind on a tile, from `lo`, at most `n` slots (R44). -/
def freeIndex (s : State) (kind tile lo n : Nat) : Option Nat :=
  lowestFree ((s.eng.objs.map (·.1)).filterMap fun k =>
    if slotKind k = kind ∧ slotTile k = tile then some (slotIndex k) else none) lo n

/-! ### Events (R270, R271, R276) -/

/-- Local source `l` of tile `t` as a global source number (R7). -/
def tileSource (t l : Nat) : Nat := t * 128 + l
/-- Package source n as it is written (R271). -/
def pkgSource (n : Nat) : Nat := 0x0800 + n
/-- The EV_PUBLISH command of a port as a SOURCE field (Table 13-2). -/
def hostSource (p : Nat) : Nat := 0x0400 + p

def modEv (s : State) (f : EventState → EventState) : State := { s with ev := f s.ev }

/-- An event takes its place after those of earlier island edges, and among those of its own edge by ascending source (R276, log entry
83). -/
def insertEv (e : Ev) (b : List Ev) : List Ev :=
  let later (x : Ev) : Bool := decide (x.edge = e.edge ∧ e.source < x.source)
  b.filter (!later ·) ++ [e] ++ b.filter later

/-- Puts a raised event into the backlog of the tile that takes it in; a full backlog drops it (R276). -/
def enqueueEv (t : Nat) (e : Ev) (s : State) : State :=
  let b := tget [] s.ev.backlog t
  if b.length ≥ 4096 then
    modEv s fun v => { v with overrun := tmod 0 v.overrun t (· + 1), overrunMark := tput v.overrunMark t true }
  else
    modEv s fun v => { v with
      backlog := tput v.backlog t (insertEv e b)
      backlogPeak := tput v.backlogPeak t (max (tget 0 v.backlogPeak t) (b.length + 1)) }

/-- Raises an event: SRC_SEQ counts it, and the router of tile `t` takes it in (R270). A tile that does not serve raises
nothing. -/
def raiseEv (t source time : Nat) (payload : U32) (hops : Nat) (s : State) : State :=
  if serving s t then
    let q := tget 0 s.ev.srcSeq source + 1
    enqueueEv t { source := source, time := time, payload := payload, hops := hops, seq := q, edge := s.clock }
      (modEv s fun v => { v with srcSeq := tput v.srcSeq source q })
  else s

/-- Raises local source `l` of tile `t` now. -/
def raise (t l : Nat) (payload : Nat) (s : State) : State := raiseEv t (tileSource t l) (ns s) (word payload) 0 s

/-- HANDLE_GONE (P0): raised by the active engine, taken in by tile 0 (R46, R271). -/
def raiseGone (handle : Nat) (s : State) : State := raiseEv 0 (pkgSource 0) (ns s) (word handle) 0 s

/-- At most once per millisecond (events that say so): the last time, if any, lies a millisecond back. -/
def msPassed (s : State) (last : Option Nat) : Bool :=
  match last with
  | none => true
  | some t => decide (t + ms ≤ s.clock)

/-! ### What leaves the package -/

def emit (o : Out) (s : State) : State := { s with out := s.out ++ [o] }

/-! ### Host ports: connection and signalling (R230, R231, R240, R242) -/

def modHost (s : State) (f : HostState → HostState) : State := { s with host := f s.host }
def portOf (s : State) (p : Nat) : Port := tget {} s.host.ports p
def modPort (p : Nat) (f : Port → Port) (s : State) : State :=
  modHost s fun h => { h with ports := tput h.ports p (f (tget {} h.ports p)) }
def modPortCounters (p : Nat) (f : PortCounters → PortCounters) (s : State) : State :=
  modHost s fun h => { h with counters := tput h.counters p (f (tget {} h.counters p)) }

/-- A host write that is ignored and counted (R33). -/
def ignoreWrite (p : Nat) (s : State) : State :=
  modPortCounters p (fun c => { c with ignoredWrites := c.ignoredWrites + 1 }) s

/-- The conditions of R242. -/
def connectedPort (q : Port) : Bool := q.dlActive && !q.d3hot && q.busMaster && q.flrSince.isNone
def connected (s : State) (p : Nat) : Bool := connectedPort (portOf s p)

/-- Delivery group of a port (R242): the ports of its mask. -/
def groupMask (s : State) (p : Nat) : Nat := tget (2 ^ p) s.boot.conf.groups p

/-- Route port of a tile for the group of a port (HE_ROUTE, R242); the port itself when no route is held. -/
def routeOf (s : State) (p t : Nat) : Nat := tget p s.host.routes (p * 8 + t)

/-- The producers of R243, as `behind` numbers them. -/
def chanProducer (g : Nat) : Nat := 16384 + g
def reportProducer (t : Nat) : Nat := 20480 + t

/-- The port through which a producer of tile t writes for port p: the old one until its boundary (R243). -/
def producerRoute (s : State) (k p t : Nat) : Nat := (tget? s.host.behind k).getD (routeOf s p t)

/-- A producer is at its boundary: if its route has moved, a zero-length read through the old port completes first (R243). -/
def leaveRoute (k : Nat) (s : State) : State :=
  match tget? s.host.behind k with
  | none => s
  | some o => emit (.read o 0 0) (modHost s fun h => { h with behind := tdel h.behind k })

/-- Signals a vector of a port, by a message sent through port `via` (R230, R231); it waits as pending while that port is not connected
(R242). -/
def signalVector (via p v : Nat) (s : State) : State :=
  let q := portOf s p
  if q.msixEnable then
    let x := tget {} s.host.vectors (p * 2048 + v)
    if x.masked || q.functionMask || !connected s via then
      modHost s fun h => { h with vectors := tput h.vectors (p * 2048 + v) { x with pending := true, via := via } }
    else emit (.msix via p v) s
  else
    let k := p * 64 + v / 32
    let s := modHost s fun h => { h with intx := tput h.intx k (tget 0 h.intx k ||| BitVec.ofNat 32 (2 ^ (v % 32))) }
    if q.intDisable || q.intaAsserted then s
    else emit (.assertInta p) (modPort p (fun q => { q with intaAsserted := true }) s)

/-- A value captured for later reads from the same port (R6, R267, R304). -/
def capture (port offset value : Nat) (s : State) : State :=
  modHost s fun h => { h with captured := tput h.captured (port * 2 ^ 27 + offset) (word value) }

/-- The same for a _HI register of a captured set: the capture serves the first read of _HI after it (R6). -/
def captureHi (port offset value : Nat) (s : State) : State :=
  modHost (capture port offset value s) fun h => { h with capturedHi := tput h.capturedHi (port * 2 ^ 27 + offset) (word value) }

/-! ### Queues (R208 to R210, R219) -/

def modMv (s : State) (f : MoverState → MoverState) : State := { s with mv := f s.mv }
def queue? (s : State) (q : Nat) : Option Queue := tget? s.mv.queues q
def putQueue (q : Nat) (v : Queue) (s : State) : State := modMv s fun m => { m with queues := tput m.queues q v }
def modQueue (q : Nat) (f : Queue → Queue) (s : State) : State :=
  match queue? s q with
  | some v => putQueue q (f v) s
  | none => s

/-- The queue's slot number in the handle table; its global number is tile × 2,048 + local (R208). -/
def queueSlot (q : Nat) : Nat := slotOf 2 (q / 2048) (q % 2048)
/-- Global number of the queue a handle names. -/
def queueOfHandle (h : Nat) : Nat := handleTile h * 2048 + handleIndex h
/-- The port that owns a queue; an unowned queue belongs to the port of its tile. -/
def queueOwner (s : State) (q : Nat) : Nat := ((obj? s (queueSlot q)).map (·.owner)).getD (q / 2048)

def phaseOf (v : Queue) : Bool := v.dev.toNat / v.size % 2 = 0

/-- Entries of a completion or event queue that are free: written ones not consumed taken off (R219). -/
def freeEntries (v : Queue) : Nat := v.size - (v.dev - v.host).toNat

/-- Signals a queue that has entries to announce when its rule is met (R210): COAL_COUNT reached, or COAL_US passed. -/
def signalQueue (q : Nat) (s : State) : State :=
  match queue? s q with
  | none => s
  | some v =>
    if v.irqEn && decide (v.unsignalled > 0)
        && (decide (v.coalCount ≤ v.unsignalled) || decide (v.unsigSince + v.coalUs * us ≤ s.clock)) then
      if v.mask then s
      else signalVector (routeOf s (queueOwner s q) (q / 2048)) (queueOwner s q) v.vector (putQueue q { v with unsignalled := 0 } s)
    else s

/-- The COMMON word (Table 10-9). -/
def commonWord (v : Queue) (tile : Nat) : Nat :=
  b2n (phaseOf v) + 2 * b2n v.overflowMark + 2 ^ 8 * tile + 2 ^ 16 * (v.dev.toNat % 65536)

/-- Writes one entry, its bytes 0 to 27 given, into the next place of a queue, and announces it. An entry of steady slots 0 to 2 is
a burst of the queue's tile (R202, Table 10-2); a frame completion entry is none. -/
def putEntry (q : Nat) (tile : Nat) (body : List Byte) (s : State) : State :=
  match queue? s q with
  | none => s
  | some v =>
    let bytes := (body ++ zeros 28).take 28 ++ leBytes 4 (commonWord v tile)
    let s := leaveRoute q s
    let s := emit (.entry (routeOf s (queueOwner s q) (q / 2048)) q (v.dev.toNat % v.size) bytes) s
    let s := if body.head? = some 1 then s else modMv s fun m => { m with bursts := tmod 0 m.bursts (q / 2048) (· + 1) }
    signalQueue q (putQueue q { v with
      dev := v.dev + 1, overflowMark := false, state := .running
      unsignalled := v.unsignalled + 1
      unsigSince := if v.unsignalled = 0 then s.clock else v.unsigSince } s)

/-- Motion interfaces that enabled encoder slots of channels delivering to a queue name (R123), ascending. -/
def queueInterfaces (s : State) (q : Nat) : List Nat :=
  (List.range 16).filter fun i =>
    s.st.channels.any fun (_, c) =>
      c.live && c.active.layout.deliver && decide (c.active.layout.cplQueue ≠ 0)
        && decide (queueOfHandle c.active.layout.cplQueue = q)
        && (List.range 4).any fun n => bit c.active.encEn n && decide (c.active.slotMi / 16 ^ n % 16 = i)

/-- Spare entries of a queue (R216): 1 + A. -/
def spare (s : State) (q : Nat) : Nat := 1 + (queueInterfaces s q).length

/-! ### Commands that wait and replies (R35, R36, R50) -/

def slotsFor (n : Nat) : Nat := (32 + n + 31) / 32

/-- Global numbers of a port's command and reply queues (R31). -/
def cmdQueue (p n : Nat) : Nat := p * 2048 + n
def replyQueue (p n : Nat) : Nat := p * 2048 + 8 + n

/-- Writes a reply into the next slots of a reply queue and signals its vector for a command with FLAGS.IRQ (R35, R36, R210). -/
def putReply (p n : Nat) (r : Reply) (irq : Bool) (s : State) : State :=
  match queue? s (replyQueue p n) with
  | none => s
  | some v =>
    let r := { r with phase := phaseOf v }
    let s := emit (.reply p n (v.dev.toNat % v.size) r) s
    let s := putQueue (replyQueue p n)
      { v with
        dev := v.dev + BitVec.ofNat 32 (slotsFor r.result.length), heldMessage := v.heldMessage || (irq && v.mask), state := .running
        sent := v.sent ++ [(v.dev + BitVec.ofNat 32 (slotsFor r.result.length), r, irq)] } s
    if irq && !v.mask then signalVector p p v.vector s else s

/-- Replies that wait are written while they fit (R240, R315). -/
def flushReplies (p n : Nat) : Nat → State → State
  | 0, s => s
  | k + 1, s =>
    match queue? s (replyQueue p n) with
    | none => s
    | some v =>
      match v.heldReplies with
      | [] => s
      | (r, irq) :: rest =>
        if (v.dev - v.host).toNat + slotsFor r.result.length ≤ v.size then
          flushReplies p n k (putReply p n r irq (putQueue (replyQueue p n) { v with heldReplies := rest } s))
        else s

/-- Replies that wait in a reply queue are written unless the port is held (R240) or no engine may write replies (R315). -/
def flushQueue (p n : Nat) (s : State) : State :=
  if connected s p && !s.eng.quiet then flushReplies p n (((queue? s (replyQueue p n)).map (·.heldReplies.length)).getD 0) s else s

/-- A reply placed in the boot mailbox buffer of a port (R356): STATE becomes done. -/
def mailReply (p : Nat) (r : Reply) (s : State) : State :=
  let b := tget {} s.boot.mailbox p
  let s := emit (.mailReply p (b.addr + 4160) { r with phase := true, engine := 0 }) s
  { s with boot := { s.boot with mailbox := tput s.boot.mailbox p { b with state := 2 } } }

/-- The reply of a command, once replies may be written: to the boot mailbox (R356), or behind the replies that wait in the
reply queue paired with its command queue (R35); none is written when the queue no longer exists (R50). -/
def sendReply (c : Cmd) (r : Reply) (s : State) : State :=
  if c.queue = 8 then mailReply c.port r s
  else
    flushQueue c.port c.queue (modQueue (replyQueue c.port c.queue)
      (fun v => { v with heldReplies := v.heldReplies ++ [(r, bit c.flags.toNat 2)] }) s)

/-- The reply of a command (R35); it waits while no engine may write replies (R315). -/
def writeReply (c : Cmd) (r : Reply) (s : State) : State :=
  if s.eng.quiet then modEng s fun e => { e with deferred := e.deferred ++ [(c, r)] } else sendReply c r s

/-- What a finished command answers (Table 3-3). -/
structure Answer where
  status : Status := .ok
  detail : Nat := 0
  /-- The handle created; none echoes TARGET. -/
  handle : Option Nat := none
  /-- CONFIG_GEN of the object; none for a package-wide command. -/
  gen : Option U32 := none
  firstFrame : U64 := 0xFFFFFFFFFFFFFFFF
  result : List Byte := []
  late : Bool := false
deriving DecidableEq, Repr

/-- CONFIG_GEN that a reply reports: the object's, or CE_CONFIG_GEN. -/
def replyGen (s : State) (target : Nat) (a : Answer) : U32 :=
  match a.gen with
  | some g => g
  | none =>
    if target = 0 then s.eng.configGen
    else if genOf s (handleSlot target) = handleGen target then
      ((obj? s (handleSlot target)).map (·.gen)).getD s.eng.configGen
    else s.eng.configGen

/-- The engine that writes replies (chapter 15); engine 0 until a takeover. -/
def activeEngine (s : State) : Nat := s.eng.active

def mkReply (s : State) (op : Nat) (c : Cmd) (a : Answer) (reexec : Bool) : Reply where
  opcode := op
  status := a.status
  phase := true
  engine := activeEngine s
  late := a.late
  reexec := reexec
  seq := c.seq
  handle := a.handle.getD c.target.toNat
  configGen := replyGen s (a.handle.getD c.target.toNat) a
  firstFrame := a.firstFrame
  detail := a.detail
  cookie := c.cookie
  result := a.result

def answer (op : Nat) (c : Cmd) (a : Answer) (s : State) : State := writeReply c (mkReply s op c a false) s

/-- A command waits for its effect: it holds its targets and its reply room (R35, R54). -/
def addWait (op : Nat) (c : Cmd) (keys : List Nat) (room : Nat) (s : State) : State :=
  modEng s fun e => { e with
    waiting := e.waiting ++ [{ id := e.nextWait, op := op, cmd := c, keys := keys, room := slotsFor room }]
    nextWait := e.nextWait + 1 }

def findWait (s : State) (id : Nat) : Option Waiting := s.eng.waiting.find? (·.id = id)

/-- The command that waits under `id` ends: its reply is written unless its port was reset, and its targets are free. -/
def finish (id : Nat) (a : Answer) (s : State) : State :=
  match findWait s id with
  | none => s
  | some w =>
    let s' := modEng s fun e => { e with waiting := e.waiting.filter (·.id ≠ id) }
    if w.alive then writeReply w.cmd (mkReply s' w.op w.cmd a w.reexec) s' else s'

/-- The wait ends without a reply (R50). -/
def dropWait (id : Nat) (s : State) : State :=
  modEng s fun e => { e with waiting := e.waiting.filter (·.id ≠ id) }

/-- A target is held by a command that is taken and not answered (R54). -/
def heldKey (s : State) (k : Nat) : Bool := s.eng.waiting.any fun w => w.keys.contains k

/-- Numbers of what is held that is no handle slot: a tile, a lane, the pair, the flash, a pin, the package mode. -/
def keyTile (t : Nat) : Nat := 2 ^ 25 + t
def keyLane (l : Nat) : Nat := 2 ^ 26 + l
def keyPin (p : Nat) : Nat := 2 ^ 27 + p
def keyMode : Nat := 2 ^ 28
def keyPair : Nat := 2 ^ 28 + 1
def keyFlash : Nat := 2 ^ 28 + 2

/-- The package master port, unless the role is vacant (R48, R52). -/
def isMaster (s : State) (p : Nat) : Bool := !s.pkg.vacant && decide (s.pkg.masterPort = p)

/-! ### Task inputs (R276, R279) -/

/-- Number of task input `index` of a tile. -/
def inputKey (t index : Nat) : Nat := t * 1024 + index

/-- Of merged events, the one with the earliest NS32; on a tie the lower source (R279). -/
def earliest (a b : Ev) : Ev :=
  if b.time < a.time then b else if b.time = a.time ∧ b.source < a.source then b else a

/-- Takes in the first `n` events that wait at a task input as merged at one island edge (R279): the event that acts. None
when no event waits. -/
def takeInput (t index n : Nat) (s : State) : Option (Ev × State) :=
  let x := tget {} s.ev.inputs (inputKey t index)
  match x.waiting.take (max n 1) with
  | [] => none
  | e :: rest =>
    let y := { x with
      waiting := x.waiting.drop (max n 1)
      taken := x.taken + BitVec.ofNat 32 (rest.length + 1)
      coalesced := x.coalesced + (if rest.isEmpty then 0 else 1) }
    some (rest.foldl earliest e, modEv s fun v => { v with inputs := tput v.inputs (inputKey t index) y })

/-- How many events wait at a task input. Those that wait when a command on the same register executes act before it, as one (R55, log
entry 83). -/
def eventsWaiting (s : State) (t index : Nat) : Nat := (tget {} s.ev.inputs (inputKey t index)).waiting.length

/-- Takes one free value. -/
def useFree (s : State) : State := { s with free := s.free + 1 }

/-- A tile issues k bursts (MV_BURSTS). -/
def countBursts (t k : Nat) (s : State) : State := modMv s fun m => { m with bursts := tmod 0 m.bursts t (· + BitVec.ofNat 64 k) }

/-- A free number of times up to k, by which something displaces another in mid-burst (R201, log entry 17). -/
def freeDisplaced (s : State) (k : Nat) : Nat := (Config.freePreempted s.free).toNat % (k + 1)

/-- Bursts of a tile were displaced in mid-burst n times (MV_PREEMPTIONS). -/
def countDisplaced (t n : Nat) (s : State) : State :=
  useFree (modMv s fun m => { m with preemptions := tmod 0 m.preemptions t (· + BitVec.ofNat 64 n) })

end Sys2Proof.Machine
end

