-- ==== Sys2Proof/Machine/Detect.lean ====
section
/-!
DEFINITION. What every detector does when it fires (R338 to R340, R345), and the taking of a pending injection (R344).
-/
namespace Sys2Proof.Machine
open Sys2Proof

def detKey (t d : Nat) : Nat := t * 32 + d
def detOf (s : State) (t d : Nat) : Det := tget {} s.hm.dets (detKey t d)
def modHm (s : State) (f : HealthState → HealthState) : State := { s with hm := f s.hm }
def modDet (t d : Nat) (f : Det → Det) (s : State) : State := modHm s fun h => { h with dets := tmod {} h.dets (detKey t d) f }

/-- Class of a detector (Table 17-2). -/
def detClass (d : Nat) : Nat :=
  if [0x00, 0x02, 0x05, 0x0B, 0x0E, 0x11].contains d then 0
  else if [0x03, 0x04, 0x0C, 0x0D, 0x12].contains d then 1
  else 2

def perS (s : State) (t d : Nat) : Nat := (detOf s t d).perS.getD (tget 0 s.boot.conf.thresholds d)

/-- Occurrences in the second that ends at a time. -/
def withinSecond (at_ : Nat) (l : List Nat) : Nat := (l.filter fun n => decide (n ≤ at_) && decide (at_ < n + 1000 * ms)).length

/-- For the whole second before a time, the occurrences within a second lay at or below the limit. -/
def quietSecond (now limit : Nat) (l : List Nat) : Bool :=
  decide (withinSecond (now - 1000 * ms) l ≤ limit)
    && (l.filter fun n => decide (now < n + 1000 * ms)).all fun n => decide (withinSecond n l ≤ limit)

/-- Detectors that an engine's report counts (Table 17-3). -/
def engineDets : List Nat := [0x01, 0x07, 0x08, 0x0A]

/-- One occurrence of detector d on tile t is counted; HM_ERROR at most once per millisecond (R340, R345). -/
def detectorFires (t d : Nat) (injected : Bool) (s : State) : State :=
  let limit := perS s t d
  let s := modDet t d (fun x =>
    let recent := s.clock :: x.recent.filter fun n => decide (s.clock < n + 2000 * ms)
    let quiet := quietSecond s.clock limit x.recent
    let isOver := decide (limit ≠ 0) && decide (limit < withinSecond s.clock recent)
    { x with
      count := x.count + 1, injected := if injected then x.injected + 1 else x.injected, stampNs32 := ns32 s
      since := x.since + 1, sinceInjected := x.sinceInjected || injected, recent := recent
      crossed := x.crossed || (isOver && (!x.above || quiet)), above := isOver || (x.above && !quiet)
      period := x.period + 1, enginePeriod := x.enginePeriod + 1 }) s
  let s := modHm s fun h => { h with
    last := tput h.last t { det := d, injected := injected, stampNs32 := ns32 s }
    lastEngine := if engineDets.contains d then tput h.lastEngine t d else h.lastEngine }
  let x := detOf s t d
  if msPassed s x.eventAt then
    raise t 126 (d + 2 ^ 8 * detClass d + 2 ^ 10 * b2n x.crossed + 2 ^ 11 * b2n x.sinceInjected + 2 ^ 12 * satU 20 x.since)
      (modDet t d (fun x => { x with since := 0, sinceInjected := false, crossed := false, eventAt := some s.clock }) s)
  else s

/-- A pending injection of detector d on tile t, for unit u, can be taken. -/
def injectionDue (s : State) (t d u : Nat) : Bool := decide (0 < (detOf s t d).pending) && (detOf s t d).unit == u

/-- One pending injection is consumed: INJECTED (R344). -/
def consumeInjection (t d : Nat) (s : State) : State :=
  let n := (detOf s t d).pending - 1
  raise t 127 (d + 2 ^ 8 * n) (modDet t d (fun x => { x with pending := n }) s)

/-! ### Error reporting of a host port (R234, Table 11-9) -/

/-- Device Control of a port: the reporting enables in [3:0], Max_Read_Request_Size in [14:12]. -/
def deviceControl (q : Port) : Nat := (tget 0x2000 q.otherRw 0x68).toNat
/-- SERR# Enable of the Command register. -/
def serrEnable (q : Port) : Bool := (tget 0 q.otherRw 0x04).getLsbD 8

/-- Messages of a severity (0 correctable, 1 non-fatal, 2 fatal) leave, as the standard defines the reporting enables. -/
def reports (q : Port) (severity : Nat) (unsupported : Bool) : Bool :=
  (bit (deviceControl q) severity && (!unsupported || bit (deviceControl q) 3)) || (decide (severity ≠ 0) && serrEnable q)

/-- An error bit of Device Status is set, and bits of the Status register. -/
def markErrors (p dev cfg : Nat) (s : State) : State :=
  modPort p (fun q => { q with devErrors := q.devErrors ||| dev, cfgErrors := q.cfgErrors ||| cfg }) s

/-- A correctable error: its status bit, and its message unless it is masked. -/
def aerCorrectable (p b : Nat) (s : State) : State :=
  let q := portOf s p
  let s := modPort p (fun q => { q with aerCor := q.aerCor ||| BitVec.ofNat 32 (2 ^ b) }) (markErrors p 1 0 s)
  if q.aerCorMask.getLsbD b || !reports q 0 false then s else emit (.errMessage p 0 (32 + b)) s

/-- Bits of the Status register that an uncorrectable error sets: Signaled Target Abort, Detected Parity Error. -/
def statusBits (b : Nat) : Nat := if b = 15 then 2 ^ 11 else if b = 12 then 2 ^ 15 else 0

/-- An uncorrectable error: its status bit, the first error pointer with the header, and its message, of the severity programmed,
unless it is masked. -/
def aerUncorrectable (p b : Nat) (header : List Byte) (s : State) : State :=
  let q := portOf s p
  let severity := if q.aerSeverity.getLsbD b then 2 else 1
  let masked := q.aerUncorMask.getLsbD b
  let first := q.aerFirst.isNone && !masked
  let sends := !masked && reports q severity (b == 20)
  let s := markErrors p (2 ^ severity + (if b = 20 then 8 else 0))
    (statusBits b + (if sends && serrEnable q then 2 ^ 14 else 0)) s
  let s := modPort p (fun q => { q with
    aerUncor := q.aerUncor ||| BitVec.ofNat 32 (2 ^ b)
    aerFirst := if first then some b else q.aerFirst
    aerHeader := if first then header else q.aerHeader, aerFlit := if first then q.flit else q.aerFlit }) s
  if sends then emit (.errMessage p severity b) s else s

/-- A detector of Table 11-9 fires: its AER error, and the health monitor (R339). -/
def correctable (p b : Nat) (s : State) : State := detectorFires p 0x11 false (aerCorrectable p b s)
def nonFatal (p b : Nat) (header : List Byte) (s : State) : State := detectorFires p 0x12 false (aerUncorrectable p b header s)
def fatal (p b : Nat) (header : List Byte) (s : State) : State := detectorFires p 0x13 false (aerUncorrectable p b header s)

/-- Header of a request whose row does not carry it (log entry 85): 4 double words of free values. -/
def freeHeader (s : State) : List Byte := (List.range 16).map (Config.freeHeader s.free)

end Sys2Proof.Machine
end

