-- ==== Sys2Proof/Machine/Engine.lean ====
section
/-!
DEFINITION. How the active engine checks, executes and answers a command: the check order of Table 3-7 (R42), the DETAIL of
Table 3-6, and the result of a command.
-/
namespace Sys2Proof.Machine
open Sys2Proof

/-- A failed check: status and DETAIL. -/
structure Fail where
  status : Status
  detail : Nat := 0
deriving DecidableEq, Repr

/-- What executing a command gives. -/
inductive Res where
  /-- Done: the state after it and the answer. -/
  | done (s : State) (a : Answer)
  /-- The command is accepted and answers later (R54). -/
  | wait (s : State)
  /-- It fails at step 13 or 14. -/
  | fail (f : Fail)
deriving Repr

/-- Modes in which an opcode is accepted, as bits by mode code: "SAFE to TEST", "READY to TEST", every mode from BOOT. -/
def mSafe : Nat := 0xFF0
def mReady : Nat := 0xFE0
def mBoot : Nat := 0xFF8

/-- One opcode: its properties (CE_OPINFO) and the checks and effect that its chapter gives. -/
structure OpDef where
  code : Nat
  query : Bool := false
  idem : Bool := false
  master : Bool := false
  cond : Bool := false
  modes : Nat
  /-- Kinds of TARGET accepted; none: TARGET is 0x0000_0000. -/
  kinds : List Nat := []
  /-- TARGET may also be 0x0000_0000 (ADOPT). -/
  orZero : Bool := false
  /-- Exact parameter length, when the chapter states one. -/
  len : Option Nat := none
  /-- The parameter length fits no form of the command. -/
  lenBad : Cmd → Bool := fun _ => false
  /-- Bytes of the largest result (R35). -/
  room : Nat := 0
  /-- Allowed on a faulted object: ADOPT and HANDLE_DESTROY, the only way to destroy one (R41, Table 3-12). -/
  faultOk : Bool := false
  /-- Holds while the feature is present (check step 4). -/
  present : State → Bool := fun _ => true
  /-- Check step 8 in place of ownership of TARGET or the master role. -/
  own : Option (Cmd → State → Option Fail) := none
  /-- Check step 9: the setting is locked. -/
  locked : Cmd → State → Bool := fun _ _ => false
  /-- Check step 11: offending parameters in offset order, offsets within the parameters. -/
  bad : Cmd → State → List (Nat × Bool) := fun _ _ => []
  /-- Check step 11: alignment and scheduled times, in offset order, at the last byte offset that they relate. -/
  align : Cmd → State → List (Nat × Bool) := fun _ _ => []
  past : Cmd → State → List (Nat × Bool) := fun _ _ => []
  /-- Handles among the parameters that must name live objects which the sender owns (R47), in offset order. -/
  refs : Cmd → State → List Nat := fun _ _ => []
  /-- The ownership of those objects is checked (it is not for a test write, R34). -/
  refsOwned : Bool := true
  /-- Other conditions on what the parameters name. -/
  more : Cmd → State → Option Fail := fun _ _ => none
  /-- The tile that the parameters name (DETAIL of E_STATE). -/
  tile : Cmd → State → Option Nat := fun _ _ => none
  /-- Check step 12: E_STATE. -/
  wrong : Cmd → State → Bool := fun _ _ => false
  /-- What must not be held (R54), besides TARGET. -/
  keys : Cmd → State → List Nat := fun _ _ => []
  busy : Cmd → State → Bool := fun _ _ => false
  /-- Event actions that wait for the same register act before the command is evaluated (R55). -/
  first : Cmd → State → State := fun _ s => s
  /-- Check step 13: E_NO_RESOURCE. -/
  short : Cmd → State → Bool := fun _ _ => false
  act : Cmd → State → Res

/-- TARGET as a number. -/
def tgt (c : Cmd) : Nat := c.target.toNat
/-- The slot that TARGET names. -/
def tslot (c : Cmd) : Nat := handleSlot (tgt c)
/-- `n` bytes of the parameters from `off`. -/
def par (c : Cmd) (off n : Nat) : Nat := le c.params off n

/-- Handles that are given: 0x0000_0000 names no object (R43). -/
def namedHandles (l : List Nat) : List Nat := l.filter (· ≠ 0)

/-- The first offending field, as DETAIL of E_PARAM gives it: its offset within the packet. -/
def firstBad : List (Nat × Bool) → Option Nat
  | [] => none
  | (off, b) :: t => if b then some (32 + off) else firstBad t

/-- DETAIL of E_STALE_HANDLE (Table 3-6). -/
def staleDetail (s : State) (h : Nat) : Nat :=
  genOf s (handleSlot h) + 2 ^ 8 * b2n (service s (handleTile h) = .outOfService) + 2 ^ 9 * b2n (obj? s (handleSlot h)).isNone

def eStale (s : State) (h : Nat) : Fail := { status := .eStaleHandle, detail := staleDetail s h }

/-- E_NOT_OWNER with the owner of an object (Table 3-6). -/
def eNotOwner (s : State) (k : Nat) : Fail where
  status := .eNotOwner
  detail := match obj? s k with
    | some o => o.owner + 8 * b2n o.orphaned
    | none => 0

/-- E_NOT_OWNER of a setting that needs the master role. -/
def eNotMaster (s : State) : Fail where
  status := .eNotOwner
  detail := if s.pkg.vacant then 0x00FF else s.pkg.masterPort

/-- The sender owns a live object. -/
def owns (s : State) (p k : Nat) : Bool :=
  match obj? s k with
  | some o => !o.orphaned && decide (o.owner = p)
  | none => false

/-- E_STATE with the mode and the service state of the tile named (Table 3-6). -/
def eState (s : State) (t : Option Nat) : Fail where
  status := .eState
  detail := modeCode s.pkg.mode + (match t with | some t => 16 * (if t < tiles s then serviceCode (service s t) else 7) | none => 0)

def eParam (off : Nat) : Fail := { status := .eParam, detail := 32 + off }
def eBusy : Fail := { status := .eBusy }
def eNoResource : Fail := { status := .eNoResource }

/-- A handle among the parameters that must name a live object of a kind which the sender owns (R47). -/
def needOwned (s : State) (p h : Nat) : Option Fail :=
  if !handleLive s h then some (eStale s h)
  else if !owns s p (handleSlot h) then some (eNotOwner s (handleSlot h))
  else none

/-- The first handle among the parameters that fails. -/
def refFail (o : OpDef) (c : Cmd) (s : State) : Option Fail :=
  (o.refs c s).findSome? fun h => (needOwned s c.port h).filter fun f => o.refsOwned || f.status ≠ .eNotOwner

/-- The two failures of check step 11 that differ in status: the one at the lower offset, the first on a tie. -/
def lowerOf : Option (Nat × Status) → Option (Nat × Status) → Option (Nat × Status)
  | some a, some b => if b.1 < a.1 then some b else some a
  | some a, none => some a
  | none, b => b

/-- Check step 11 after the length: parameters in offset order, and at one offset values, alignment, scheduled time. -/
def paramFail (o : OpDef) (c : Cmd) (s : State) : Option Fail :=
  let at_ (l : List (Nat × Bool)) (x : Status) : Option (Nat × Status) := (firstBad l).map fun d => (d, x)
  (lowerOf (lowerOf (at_ (o.bad c s) .eParam) (at_ (o.align c s) .eAlign)) (at_ (o.past c s) .eTimePast)).map fun x =>
    { status := x.2, detail := if x.2 = .eParam then x.1 else 0 }

/-- Check step 2: reserved header fields and FLAGS bits zero, EXPECT_GEN zero without COND. -/
def headerBad (c : Cmd) : Option Nat :=
  if c.flags.toNat / 16 ≠ 0 then some 2
  else if !bit c.flags.toNat 0 && decide (c.expectGen ≠ 0) then some 12
  else if c.rsv18 ≠ 0 then some 18
  else if c.rsv20 ≠ 0 then some 20
  else if c.rsv28 ≠ 0 then some 28
  else none

def isCond (c : Cmd) : Bool := bit c.flags.toNat 0
/-- FLAGS.LATE_REJECT (Table 3-2). -/
def lateReject (c : Cmd) : Bool := bit c.flags.toNat 1

/-- Check step 6 on TARGET: kind accepted, tile present, index in range. -/
def targetOk (o : OpDef) (c : Cmd) (s : State) : Bool :=
  if tgt c = 0 then o.kinds.isEmpty || o.orZero
  else o.kinds.contains (handleKind (tgt c)) && decide (handleTile (tgt c) < tiles s)
    && decide (handleIndex (tgt c) < indexLimit (handleKind (tgt c)))

/-- Check step 8. -/
def ownerFail (o : OpDef) (c : Cmd) (s : State) : Option Fail :=
  match o.own with
  | some f => f c s
  | none =>
    if o.query then none
    else if o.master then (if isMaster s c.port then none else some (eNotMaster s))
    else if tgt c ≠ 0 && !owns s c.port (tslot c) then some (eNotOwner s (tslot c))
    else none

/-- The generation that EXPECT_GEN is compared with (check step 10). -/
def condGen (c : Cmd) (s : State) : U32 :=
  if tgt c = 0 then s.eng.configGen else ((obj? s (tslot c)).map (·.gen)).getD s.eng.configGen

/-- The tile named by TARGET or by the parameters. -/
def namedTile (o : OpDef) (c : Cmd) (s : State) : Option Nat :=
  if tgt c ≠ 0 then some (handleTile (tgt c)) else o.tile c s

def targetFaulted (c : Cmd) (s : State) : Bool := tgt c ≠ 0 && ((obj? s (tslot c)).map (·.faulted)).getD false

/-- Steps 2 to 13 of Table 3-7: the first failure. -/
def check (o : OpDef) (c : Cmd) (s : State) : Option Fail :=
  match headerBad c with
  | some off => some { status := .eParam, detail := off }
  | none =>
  if !o.present s then some { status := .eUnsupported }
  else if !bit o.modes (modeCode s.pkg.mode) then some (eState s (namedTile o c s))
  else if isCond c && (!o.cond || (o.orZero && decide (tgt c = 0))) then some { status := .eParam, detail := 2 }
  else if !targetOk o c s then some { status := .eParam, detail := 8 }
  else if tgt c ≠ 0 && !handleLive s (tgt c) then some (eStale s (tgt c))
  else match ownerFail o c s with
  | some f => some f
  | none =>
  if o.locked c s then some { status := .eLocked }
  else if isCond c && decide (c.expectGen ≠ condGen c s) then
    some { status := .eConflict, detail := (condGen c s).toNat % 65536 }
  else if o.len.any (· ≠ c.params.length) || o.lenBad c then some { status := .eParam, detail := 16 }
  else match ((paramFail o c s).or (refFail o c s)).or (o.more c s) with
  | some f => some f
  | none =>
  if (targetFaulted c s && !o.query && !o.faultOk) || o.wrong c s then some (eState s (namedTile o c s))
  else if !o.query && ((tgt c ≠ 0 && heldKey s (tslot c)) || (o.keys c s).any (heldKey s) || o.busy c s) then some eBusy
  else if o.short c s then some eNoResource
  else none

/-- Slots of a command queue that R37 discards: up to the doorbell count seen. -/
def discardSlots (c : Cmd) (s : State) : Nat × State :=
  match queue? s (cmdQueue c.port c.queue) with
  | none => (1, s)
  | some v =>
    let n := max 1 (v.host - v.dev).toNat
    (n, putQueue (cmdQueue c.port c.queue) { v with dev := v.dev + BitVec.ofNat 32 n } s)

/-- The reply to a packet whose PARAM_LEN exceeds 4,096 (R37). -/
def tooLong (op : Nat) (c : Cmd) (s : State) : State :=
  let (n, s) := discardSlots c s
  answer op c { status := .eTooLong, detail := (n - 1) % 65536 } s

/-- An engine, or in BOOT the boot loader, executes commands: none before BOOT, none while no engine serves (R25, R316, R317). -/
def commandsRun (s : State) : Bool := decide (3 ≤ modeCode s.pkg.mode) && !s.eng.stopped

/-- The tile whose command path a command takes (Table 17-2, CMD_PARITY). -/
def parityTile (c : Cmd) : Nat := if tgt c = 0 then 0 else handleTile (tgt c)

def parityDue (c : Cmd) (s : State) : Bool :=
  let x := detOf s (parityTile c) 0x04
  x.latent || decide (0 < x.pending)

/-- CMD_PARITY fires while a command executes: it fails with E_HW_FAULT, and its object is faulted (R41). -/
def parityFail (op : Nat) (c : Cmd) (s : State) : State :=
  let t := parityTile c
  let x := detOf s t 0x04
  let s := if x.latent then detectorFires t 0x04 false (modDet t 0x04 (fun y => { y with latent := false }) s) else s
  let s := if 0 < x.pending then detectorFires t 0x04 true (consumeInjection t 0x04 s) else s
  let s := if tgt c = 0 then s else modObj (tslot c) (fun o => { o with faulted := true, gen := nextGen o.gen }) s
  answer op c { status := .eHwFault } s

/-- Checks, executes and answers a command (R42). A command that fails leaves the device as it was (R10). -/
def runChecked (o : OpDef) (c : Cmd) (s : State) : State :=
  match check o c s with
  | some f => answer o.code c { status := f.status, detail := f.detail } s
  | none =>
    if parityDue c s then parityFail o.code c s
    else match o.act c s with
    | .done s' a => answer o.code c a s'
    | .wait s' => s'
    | .fail f => answer o.code c { status := f.status, detail := f.detail } s

/-- The state against which a command is evaluated: event actions that take effect at the same edge on its register have acted (R55). -/
def afterEvents (o : OpDef) (c : Cmd) (s : State) : State :=
  if targetOk o c s && (decide (tgt c = 0) || handleLive s (tgt c)) then o.first c s else s

/-- A command in the engine (R42, R55). -/
def runOp (o : OpDef) (c : Cmd) (s : State) : State :=
  if !commandsRun s then s
  else if c.params.length > 4096 then tooLong o.code c s
  else runChecked o c (afterEvents o c s)

/-- The answer of a command on an object: CONFIG_GEN of TARGET after it. -/
def okObj (s : State) (c : Cmd) (result : List Byte := []) : Answer where
  gen := (obj? s (tslot c)).map (·.gen)
  result := result

/-- A meaning that always has a next state. -/
abbrev Meaning := Host.Outcome State Fault Refusal

end Sys2Proof.Machine
end

