-- ==== Sys2Proof/Machine/Governor.lean ====
section
/-!
DEFINITION. The power and heat governor (chapter 16): samples and credits, class C jobs, thermal states, the CRITICAL state,
and the governor commands.
-/
namespace Sys2Proof.Machine
open Sys2Proof

def govTile (s : State) (t : Nat) : TileGov := tget {} s.gov.tiles t
def modGov (s : State) (f : GovState → GovState) : State := { s with gov := f s.gov }
def modTileGov (t : Nat) (f : TileGov → TileGov) (s : State) : State :=
  modGov s fun g => { g with tiles := tput g.tiles t (f (tget {} g.tiles t)) }

def limitW (s : State) : Nat := s.gov.conf.limitW.getD (partPower s.part)
def ceilOf (s : State) (t : Nat) : Nat := tget 100 s.gov.conf.ceil t

/-- The target, in mW (R328). -/
def targetMw (s : State) : Nat := limitW s * 10 * (100 - s.gov.conf.guardPct)

/-- Class B floor of a tile for one sample, in bytes. -/
def floorBytes (s : State) : Nat := s.gov.conf.floorGbps * 100000

/-- PG_EVENT, each kind at most once per millisecond per tile (R336). -/
def raisePg (t kind value : Nat) (s : State) : State :=
  if msPassed s (tget? s.gov.eventAt (t * 8 + kind)) then
    raise t 125 (kind + 2 ^ 4 * t + 2 ^ 16 * (value % 2 ^ 16))
      (modGov s fun g => { g with eventAt := tput g.eventAt (t * 8 + kind) s.clock })
  else s

/-! ### Class C jobs (R331) -/

/-- Cost of one quantum, in nJ (Table 16-2). -/
def quantumCost (s : State) : JobKind → Nat
  | .readout _ => 1048576 * s.gov.conf.costB / 1000
  | .scrub => 150000
  | .selfTest => 200000
  | .eye _ => 60000
  | .skew _ _ _ => 5000

def addJob (t : Nat) (k : JobKind) (quanta : Nat) (s : State) : State :=
  modTileGov t (fun g => { g with jobs := g.jobs ++ [{ kind := k, left := quanta, since := s.clock, endless := quanta = 0 }] }) s

def dropJob (t : Nat) (k : JobKind) (s : State) : State :=
  modTileGov t (fun g => { g with jobs := g.jobs.filter fun j => decide (j.kind ≠ k) }) s

def jobOf (s : State) (t : Nat) (k : JobKind) : Option Job := (govTile s t).jobs.find? fun j => decide (j.kind = k)

/-- The scheduler's walk from the oldest job: what is admitted, given the credit (nJ). `blocked` once a job skipped for AGE_MS
blocks those behind it. Gives the jobs, the credit left, and the numbers admitted and skipped. -/
def walkJobs (s : State) (blocked : Bool) (credit : Int) : List Job → List Job × Int × Nat × Nat
  | [] => ([], credit, 0, 0)
  | j :: rest =>
    let cost := quantumCost s j.kind
    if j.running then
      let (l, c, a, k) := walkJobs s blocked credit rest
      (j :: l, c, a, k)
    else if blocked || decide (credit < (cost : Int)) then
      let since := j.skipped.getD s.clock
      let aged := decide (since + s.gov.conf.ageMs * ms ≤ s.clock)
      let (l, c, a, k) := walkJobs s (blocked || aged) credit rest
      ({ j with skipped := some since } :: l, c, a, k + 1)
    else
      let (l, c, a, k) := walkJobs s blocked (credit - cost) rest
      ({ j with running := true, skipped := none, admitted := j.admitted + 1, admittedAt := some s.clock, starved := false } :: l, c, a + 1, k)

/-- Class C work is admitted on a tile: NORMAL, and the package not CRITICAL (R333, R334). -/
def admitsC (s : State) (t : Nat) : Bool := decide ((govTile s t).thermal = 0) && !s.gov.critical

def admitJobs (t : Nat) (s : State) : State :=
  let g := govTile s t
  if admitsC s t then
    let (l, c, a, k) := walkJobs s false g.creditC g.jobs
    modTileGov t (fun g => { g with
      jobs := l, creditC := c, admitted := g.admitted + BitVec.ofNat 64 a, skips := g.skips + BitVec.ofNat 64 k }) s
  else s

/-- R332: a job has waited 60 s without admission, since its request or its last quantum. -/
def execCStarved (tile : Nat) (s : State) : Meaning := .next <|
  let starved (j : Job) : Bool := !j.running && decide (j.admittedAt.getD j.since + 60000 * ms ≤ s.clock) && !j.starved
  if (govTile s tile).jobs.any starved then
    raisePg tile 7 0 (modTileGov tile (fun g => { g with jobs := g.jobs.map fun j => if starved j then { j with starved := true } else j }) s)
  else s

/-! ### Samples (R326 to R334) -/

/-- The next thermal state for a temperature: entered at a threshold, left 2 °C below it (R333). -/
def thermalNext (ceilC : Nat) (now : Nat) (q3 : Int) : Nat :=
  let hot : Int := (ceilC * 8 : Nat)
  let warm : Int := hot - 40
  if hot ≤ q3 then 2
  else if now = 2 ∧ hot - 16 < q3 then 2
  else if warm ≤ q3 then 1
  else if 1 ≤ now ∧ warm - 16 < q3 then 1
  else 0

/-- Index and value of the hottest sensor. -/
def hottestOf : List Int → Nat → Nat × Int → Nat × Int
  | [], _, b => b
  | x :: rest, i, b => hottestOf rest (i + 1) (if b.2 < x then (i, x) else b)

def maxPeaks : List Int → List Int → List Int
  | [], ts => ts
  | ps, [] => ps
  | p :: ps, t :: ts => max p t :: maxPeaks ps ts

/-- A tile's credits of the new sample: those computed in the last one (R328, R333, R334). -/
def applyCredits (t : Nat) (update : Bool) (s : State) : State :=
  let g := govTile s t
  let fl := if decide (service s t = .inService) then floorBytes s else 0
  let missed := if update then 0 else g.missed + 1
  let b0 := if update then g.nextB else if missed ≤ 1 then g.grantB else fl
  let b := if g.thermal = 2 ∨ s.gov.critical then min b0 fl else b0
  let c := if update then g.nextC else if missed ≤ 1 then g.lastC else 0
  modTileGov t (fun g => { g with
    grantB := b, creditB := min 0 g.creditB + b, missed := missed, lastC := c
    creditC := if missed ≤ 1 then min (g.creditC + c) (max (10 * c : Nat) (500000 : Nat)) else min 0 g.creditC }) s

/-- The readings of a tile with an injected temperature: its hottest sensor is held at the value (R344). -/
def heldTemps (s : State) (x : TileSample) : List Int :=
  match tget? s.hm.hot x.tile with
  | some (v, _ + 1) => x.temps.set (hottestOf x.temps 0 (0, x.temps.headD 0)).1 v
  | _ => x.temps

/-- One sample of an injected temperature has passed. -/
def coolDown (t : Nat) (s : State) : State :=
  match tget? s.hm.hot t with
  | some (v, n + 2) => modHm s fun h => { h with hot := tput h.hot t (v, n + 1) }
  | _ => modHm s fun h => { h with hot := tdel h.hot t }

/-- A junction sensor reads above 105 °C, in 0.125 °C (R374). -/
def overheated (temps : List Int) : Bool := temps.any fun q => decide (840 < q)

/-- A tile's readings of the sample, with TEMPERATURE (R374), and its thermal state for the next one. -/
def takeReadings (x : TileSample) (s : State) : State :=
  let temps := heldTemps s x
  let s := coolDown x.tile s
  let s := if overheated x.temps then detectorFires x.tile 0x10 false s else s
  let (i, q3) := hottestOf temps 0 (0, temps.headD 0)
  let old := (govTile s x.tile).thermal
  let th := thermalNext (ceilOf s x.tile) old q3
  let s := modTileGov x.tile (fun g => { g with
    powerDw := x.powerDw, classADw := x.classADw, temps := temps, peaks := maxPeaks g.peaks temps
    maxQ3 := q3, hottest := i, thermal := th
    hotSince := if th = 2 then some (g.hotSince.getD s.clock) else none }) s
  if th = old then s else raisePg x.tile (if th = 1 then 2 else if th = 2 then 3 else 4) (unsigned 16 q3) s

/-- Total of a count over the samples. -/
def total (f : TileSample → Nat) (l : List TileSample) : Nat := (l.map f).foldl (· + ·) 0

/-- Quanta of a job that are not admitted yet. The model's own choice: a job without end counts one, since R328 divides by the cost of
whole jobs (log entry 45). -/
def quantaLeft (j : Job) : Nat := if j.endless then 1 else j.left - b2n j.running

/-- Cost of the queued class C jobs of a tile, in nJ (R328). -/
def queuedCost (s : State) (t : Nat) : Nat := ((govTile s t).jobs.map fun j => quantumCost s j.kind * quantaLeft j).foldl (· + ·) 0

/-- The grants that tile 0 computes (R328): class B bytes for a tile. -/
def grantOf (s : State) (rest waitAll : Nat) (x : TileSample) : Nat :=
  let fl := if service s x.tile = .inService then floorBytes s else 0
  max fl (min x.waiting (fl + (if waitAll = 0 then 0 else rest * x.waiting / waitAll)))

def computeGrants (l : List TileSample) (s : State) : State :=
  let headroom : Int := (targetMw s : Int) - (total (·.classADw) l * 100 : Nat)
  let energy := headroom.toNat * 100
  let bytes := energy * 1000 / s.gov.conf.costB
  let floors := total (fun x => if service s x.tile = .inService then floorBytes s else 0) l
  let waitAll := total (·.waiting) l
  let grants := l.map fun x => (x.tile, grantOf s (bytes - floors) waitAll x)
  let used := total (fun x => min x.waiting (grantOf s (bytes - floors) waitAll x)) l
  let left := energy - used * s.gov.conf.costB / 1000
  let costs := total (fun x => queuedCost s x.tile) l
  grants.foldl (fun s (t, b) => modTileGov t (fun g => { g with
    nextB := b, nextC := if costs = 0 then 0 else left * queuedCost s t / costs }) s) s

/-- Package power in W for the value of an event. -/
def powerW (s : State) : Nat := s.gov.powerDw / 10

/-- Budget events (R336) and wait counters. -/
def budget (l : List TileSample) (s : State) : State :=
  let unmet (x : TileSample) : Bool := decide ((govTile s x.tile).grantB < x.waiting)
  let s' := l.foldl (fun s x => if unmet x then modTileGov x.tile (fun g => { g with waitSamples := g.waitSamples + 1 }) s else s) s
  let short := l.any unmet
  let s' := modGov s' fun g => { g with short := short }
  if short && !s.gov.short then raisePg 0 0 (powerW s') s'
  else if !short && s.gov.short then raisePg 0 1 (powerW s') s'
  else s'

/-- A tile has been HOT for 10 ms and its hottest sensor reaches CEIL_C + 3 °C. -/
def tooHot (s : State) (t : Nat) : Bool :=
  let g := govTile s t
  (g.hotSince.map fun h => decide (h + 10 * ms ≤ s.clock)).getD false && decide (((ceilOf s t + 3) * 8 : Nat) ≤ g.maxQ3)

/-- The CRITICAL state (R334). -/
def criticality (l : List TileSample) (s : State) : State :=
  let isOver := decide (targetMw s < s.gov.classADw * 100)
  let n := if isOver then s.gov.overMs + 1 else 0
  let cond := decide (10 ≤ n) || l.any fun x => tooHot s x.tile
  let calm := if cond then 0 else s.gov.calm + 1
  let s := modGov s fun g => { g with overMs := n, calm := calm }
  if cond && !s.gov.critical then
    raisePg 0 5 (powerW s) (modGov s fun g => { g with critical := true, critNs32 := ns32 s, lastCritEvent := s.clock })
  else if s.gov.critical && decide (100 ≤ calm) then
    raisePg 0 6 (powerW s) (modGov s fun g => { g with critical := false })
  else s

/-- R326 to R334: one sample period ends: the credits and thermal states of the last sample apply, jobs are admitted, and the new readings
give the next ones. A tile that is OUT_OF_SERVICE takes no reading and counts 0 W. -/
def execGovernorSample (samples : List TileSample) (s : State) : Meaning := .next <|
  if s.clock < s.gov.lastSample + 100 * us then s
  else
    let s := modGov s fun g => { g with lastSample := s.clock, conf := g.next.getD g.conf, next := none }
    let l := samples.filter fun x => decide (x.tile < tiles s) && decide (service s x.tile ≠ .outOfService)
    let s := l.foldl (fun s x => admitJobs x.tile (applyCredits x.tile x.update s)) s
    let s := l.foldl (fun s x => takeReadings x s) s
    let s := modGov s fun g => { g with powerDw := total (·.powerDw) l, classADw := total (·.classADw) l }
    let s := budget l s
    let s := criticality l s
    let s := if s.gov.critical then
        l.foldl (fun s x => modTileGov x.tile (fun g => { g with criticalSamples := g.criticalSamples + 1 }) s) s
      else s
    computeGrants l s

/-- R334: every 100 ms while CRITICAL the event is raised again. -/
def execCriticalRepeat (s : State) : Meaning := .next <|
  if s.gov.critical && decide (s.gov.lastCritEvent + 100 * ms ≤ s.clock) then
    raisePg 0 5 (powerW s) (modGov s fun g => { g with lastCritEvent := s.clock })
  else s

/-! ### Registers and commands (Table 16-5 to Table 16-9) -/

/-- Package registers of tile 0, by offset / 4. -/
def pgReg (s : State) : Nat → Nat
  | 0 => limitW s + 2 ^ 16 * s.gov.conf.guardPct
  | 1 => satU 16 s.gov.powerDw + 2 ^ 16 * satU 16 s.gov.classADw
  | 2 => b2n s.gov.short + 2 * b2n s.gov.critical
  | 3 => s.gov.conf.floorGbps + 2 ^ 16 * s.gov.conf.ageMs
  | 4 => s.gov.conf.costB
  | 5 => s.gov.critNs32.toNat
  | _ => 0

/-- Tile registers from PG_TILE_POWER, by (offset - 0x100) / 4. -/
def pgTileReg (s : State) (t : Nat) : Nat → Nat
  | 0 => satU 16 (govTile s t).powerDw + 2 ^ 16 * satU 16 (govTile s t).classADw
  | 1 => unsigned 16 (govTile s t).maxQ3 + 2 ^ 16 * (govTile s t).hottest + 2 ^ 21 * (govTile s t).thermal
  | 2 => ceilOf s t
  | 3 => satU 32 (govTile s t).grantB
  | 4 => unsigned 32 (satS 32 (govTile s t).creditC)
  | 5 => (govTile s t).backlog
  | 6 => s.gov.conf.backlogPages
  | 7 => satU 8 (govTile s t).jobs.length + 2 ^ 8 * satU 8 ((govTile s t).jobs.filter (·.running)).length
  | _ => 0

/-- `n` words of a window as bytes. -/
def windowBytes (reg : Nat → Nat) (n : Nat) : List Byte := ((List.range n).map fun i => leBytes 4 (reg i)).flatten

/-- CEIL_C bytes that are bad: outside 70 to 105 where not 0, or non-zero for an absent tile. -/
def ceilBad (s : State) (c : Cmd) : Bool :=
  (List.range 8).any fun t =>
    let v := par c (12 + t) 1
    v != 0 && (decide (tiles s ≤ t) || decide (v < 70) || decide (105 < v))

/-- The PG_CONFIG in force once all accepted ones apply. -/
def latestConf (s : State) : GovConf := s.gov.next.getD s.gov.conf

def govConfOf (c : Cmd) (s : State) : GovConf where
  limitW := some (par c 0 2)
  guardPct := par c 2 1
  floorGbps := par c 3 1
  costB := par c 4 2
  ageMs := par c 6 2
  backlogPages := par c 8 4
  ceil := (List.range (tiles s)).foldl (fun m t => if par c (12 + t) 1 = 0 then m else tput m t (par c (12 + t) 1)) (latestConf s).ceil

def opPgConfig : OpDef where
  code := 0x0D01
  idem := true
  master := true
  cond := true
  modes := mSafe
  len := some 24
  room := 8
  bad c s :=
    [(0, decide (par c 0 2 < min 150 (partPower s.part)) || decide (partPower s.part < par c 0 2)),
     (2, decide (par c 2 1 = 0) || decide (20 < par c 2 1)), (3, decide (16 < par c 3 1)),
     (4, decide (par c 4 2 < 20) || decide (1000 < par c 4 2)), (6, decide (par c 6 2 = 0) || decide (1000 < par c 6 2)),
     (8, decide (65536 < par c 8 4)), (12, ceilBad s c), (20, !isZero c.params 20 4)]
  act c s :=
    let at_ := ns s + (s.gov.lastSample + 100 * us - s.clock)
    let r : Answer := { result := leBytes 4 (at_ % 2 ^ 32) ++ zeros 4 }
    if govConfOf c s = latestConf s then .done s r
    else .done (bumpPkg (modGov s fun g => { g with next := some (govConfOf c s) })) r

def execPgConfig (c : Cmd) (s : State) : Meaning := .next (runOp opPgConfig c s)

def opPgQuery : OpDef where
  code := 0x0D02
  query := true
  idem := true
  modes := mSafe
  len := some 0
  room := 24
  act _ s := .done s { result := windowBytes (pgReg s) 6 }

def execPgQuery (c : Cmd) (s : State) : Meaning := .next (runOp opPgQuery c s)

def opPgTileQuery : OpDef where
  code := 0x0D03
  query := true
  idem := true
  modes := mSafe
  len := some 4
  room := 32
  bad c s := [(0, decide (tiles s ≤ par c 0 1)), (1, !isZero c.params 1 3)]
  act c s := .done s { result := windowBytes (pgTileReg s (par c 0 1)) 8 }

def execPgTileQuery (c : Cmd) (s : State) : Meaning := .next (runOp opPgTileQuery c s)

/-- TEMP_Q3 and PEAK_Q3 of a sensor. -/
def sensorView (s : State) (t i : Nat) : Nat :=
  unsigned 16 ((govTile s t).temps.getD i 0) + 2 ^ 16 * unsigned 16 ((govTile s t).peaks.getD i 0)

def opPgSensorRead : OpDef where
  code := 0x0D04
  query := true
  idem := true
  modes := mSafe
  len := some 4
  room := 96
  bad c s := [(0, decide (tiles s ≤ par c 0 1)), (1, !isZero c.params 1 3)]
  tile c _ := some (par c 0 1)
  wrong c s := decide (service s (par c 0 1) = .outOfService)
  act c s := .done s { result := windowBytes (sensorView s (par c 0 1)) 24 }

def execPgSensorRead (c : Cmd) (s : State) : Meaning := .next (runOp opPgSensorRead c s)

end Sys2Proof.Machine
end

