-- ==== Sys2Proof/Machine/Queues.lean ====
section
/-!
DEFINITION. The queue pool (chapter 10): entries and anchors (R123, R216, R219), doorbells and masks (R209, R210, R214),
descriptor chains (R212, R213, R215) and the queue commands (Table 10-16).
-/
namespace Sys2Proof.Machine
open Sys2Proof

/-! ### Entries and anchors -/

/-- A queue of a port that is not connected is held (R240): nothing is read from it and nothing is written to it. -/
def held (s : State) (q : Nat) : Bool := !connected s (queueOwner s q)

/-- Entries of a completion or event queue that are free and unreserved (R216). -/
def unreserved (v : Queue) : Nat := freeEntries v - v.reserved

/-- The HOLDOVER indicator (R257). -/
def inHoldover (s : State) : Bool :=
  match s.time.clock with
  | .holdover | .verifying => true
  | .host => s.time.holdoverHost
  | _ => false

/-- Bytes 0 to 27 of a time anchor (Table 6-3). -/
def timeAnchorBytes (s : State) (v : Queue) : List Byte :=
  [2, BitVec.ofNat 8 (b2n (inHoldover s) + 2 * b2n v.anchorStep), 0, 0] ++ leBytes 4 (ns32 s).toNat
    ++ leBytes 6 (timeSec s.time.now) ++ leBytes 2 (timeFrac s.time.now) ++ leBytes 4 (timeNs s.time.now)
    ++ leBytes 4 (v.anchorSeq + 1).toNat ++ zeros 4

/-- Extended position of a motion interface (R292). -/
def extPosition (s : State) (i : Nat) : Int := (tget {} s.mo.axes i).ext

/-- Bytes 0 to 27 of a position anchor (Table 6-4). -/
def positionAnchorBytes (s : State) (v : Queue) (i : Nat) : List Byte :=
  [3, BitVec.ofNat 8 i, BitVec.ofNat 8 (b2n (v.anchorPreset.contains i)), 0] ++ leBytes 4 (ns32 s).toNat
    ++ leBytes 8 (unsigned 64 (extPosition s i)) ++ zeros 12

/-- A time anchor is due before the next entry, or because ANCHOR_INTERVAL_MS has passed (R123). -/
def timeAnchorDue (s : State) (v : Queue) : Bool :=
  (!v.pendingEntries.isEmpty && (!v.anchored || v.anchorStep)) || decide (v.anchorDue ≤ s.clock)

def writeTimeAnchor (q : Nat) (v : Queue) (s : State) : State :=
  let follow := queueInterfaces s q
  modQueue q (fun v => { v with
      anchored := true, anchorSeq := v.anchorSeq + 1, anchorStep := false, anchorDue := s.clock + s.st.anchorMs * ms, anchorFollow := follow })
    (putEntry q (q / 2048) (timeAnchorBytes s v) s)

def writePositionAnchor (q : Nat) (v : Queue) (i : Nat) (s : State) : State :=
  modQueue q (fun v => { v with anchorPreset := v.anchorPreset.filter (· ≠ i), anchorFollow := v.anchorFollow.filter (· ≠ i) })
    (putEntry q (q / 2048) (positionAnchorBytes s v i) s)

/-- The position anchor due next: those that follow the last time anchor, then one of a preset before the next entry. -/
def positionDue (s : State) (q : Nat) (v : Queue) : Option Nat :=
  match v.anchorFollow with
  | i :: _ => some i
  | [] => if v.pendingEntries.isEmpty then none else v.anchorPreset.find? fun i => (queueInterfaces s q).contains i

/-- An entry may be written now (R216, R219). -/
def mayWrite (s : State) (q : Nat) (v : Queue) (e : PendEntry) : Bool :=
  match e.kind with
  | .frame => decide (0 < freeEntries v)
  | .record | .event => decide (spare s q < unreserved v)

/-- Mover channel `g` (tile × 512 + channel). -/
def chanOf (s : State) (g : Nat) : Chan := tget {} s.mv.chans g
def putChan (g : Nat) (c : Chan) (s : State) : State := modMv s fun m => { m with chans := tput m.chans g c }
def modChan (g : Nat) (f : Chan → Chan) (s : State) : State := putChan g (f (chanOf s g)) s

/-- Answers of commands that waited for the end of a run: RESIDUE (MV_ABORT). -/
def finishAll (ids : List Nat) (a : Answer) (s : State) : State := ids.foldl (fun s i => finish i a s) s

/-- The producer that a queue, a stream channel or a reservation is (R243). -/
def slotProducer (k : Nat) : Option Nat :=
  match slotKind k with
  | 2 => some (slotTile k * 2048 + slotIndex k)
  | 1 | 6 => some (chanProducer (slotTile k * 512 + slotIndex k))
  | _ => none

/-- An object is destroyed: HANDLE_GONE is raised with the old handle (R46), the generation of the slot rises by 1 (R45). -/
def dropObj (k : Nat) (s : State) : State :=
  let s := modHost s fun h => { h with behind := match slotProducer k with
    | some i => tdel h.behind i
    | none => h.behind }
  modEng (raiseGone (handleOf s k) s) fun e =>
    { e with objs := tdel e.objs k, gens := tput e.gens k (nextHandleGen (tget 1 e.gens k)) }

/-- Slots of live subscriptions of one form on a tile that are not cleared: they refer to the queue or reservation (R46, R47,
R274). -/
def routesTo (s : State) (t : Nat) (form : RouteForm) : List Nat :=
  s.ev.routes.filterMap fun (n, r) => if r.form = form ∧ n / 4096 = t ∧ !r.cleared then some (slotOf 4 (n / 4096) (n % 4096)) else none

/-- A reservation ends: its channel is unassigned, its steady share is returned, references to it are cleared (R47). -/
def freeReservation (k : Nat) (s : State) : State :=
  let t := slotTile k
  let n := slotIndex k
  let s := dropObj k s
  let s := modMv s fun m => { m with
    chans := tdel m.chans (t * 512 + n), steadyShare := tdel m.steadyShare (t * 16 + (n - 496))
    steadyCredit := tdel m.steadyCredit (t * 16 + (n - 496)) }
  modEv s fun v => { v with routes := v.routes.map fun (j, r) =>
    (j, if r.form = .toInput n ∧ j / 4096 = t then { r with cleared := true } else r) }

/-- A raw run is over (R203, R206): MOVER_ENDED or MOVER_ABORTED, the channel idles, commands that waited answer. -/
def endRaw (g : Nat) (s : State) : State :=
  let c := chanOf s g
  let t := g / 512
  let aborted := decide (c.cause ≠ 0 ∧ c.cause ≠ 5)
  let s := raiseEv t (tileSource t (if aborted then 85 else 84)) (ns s)
    (word (g % 512 + 2 ^ 16 * statusCode c.code + 2 ^ 24 * c.cause)) c.endHops s
  let s := putChan g { c with state := .idle, endHops := 0, abort := none, waits := [], release := none, flushing := false, silent := false } s
  let s := finishAll c.waits { result := leBytes 4 c.residue } s
  match c.release with
  | none => s
  | some id =>
    let k := slotOf 6 t (g % 512)
    let gen := (obj? s k).map (·.gen)
    finish id { gen := gen } (freeReservation k s)

/-! ### Readouts (R171, R172) -/

def modFs (s : State) (f : StoreState → StoreState) : State := { s with fs := f s.fs }
/-- Slot and handle of segment number k (tile × 16,384 + index). -/
def segSlot (k : Nat) : Nat := slotOf 3 (k / 16384) (k % 16384)
def segHandle (s : State) (k : Nat) : Nat := handleOf s (segSlot k)
def segNumber (h : Nat) : Nat := handleTile h * 16384 + handleIndex h

/-- Frame number i of a layer is BAD (R170). -/
def badFrame (s : State) (k i : Nat) : Bool :=
  ((tget? s.fs.segs k).bind fun g => g.frames[i]?.map (·.bad)).getD false

/-- BAD frames at the front of what is left are skipped. -/
def skipBad (s : State) (k : Nat) (r : Readout) : Readout :=
  let rest := r.left.dropWhile (badFrame s k)
  { r with left := rest, skipped := r.skipped + (r.left.length - rest.length) }

/-- The delivery that a readout has under way. -/
def readoutDelivery (s : State) (k : Nat) : Option Delivery := s.mv.deliveries.find? fun d => decide (d.segment = segHandle s k)

def dropReadoutDelivery (k : Nat) (s : State) : State :=
  modMv s fun m => { m with deliveries := m.deliveries.filter fun d => decide (d.segment ≠ segHandle s k) }

/-- CAUSE of the status record of a readout that ends early (Table 10-3). -/
def endedCause (ended : Nat) : Nat := ended + 1

/-- A readout is over (Table 8-3, Table 8-13): READ_DONE, after MOVER_ABORTED when it ended early (R206). -/
def closeReadout (k ended : Nat) (s : State) : State :=
  match tget? s.fs.readouts k with
  | none => s
  | some r =>
    let t := k / 16384
    let s := dropReadoutDelivery k s
    let s := modFs s fun f => { f with
      readouts := tdel f.readouts k
      segs := match tget? f.segs k with
        | some g => tput f.segs k { g with state := .frozen }
        | none => f.segs }
    let s := modMv s fun m => { m with chans := tdel m.chans (t * 512 + r.chan) }
    let s := modHost s fun h => { h with behind := tdel h.behind (chanProducer (t * 512 + r.chan)) }
    let s := if ended = 0 then s else raise t 85 (r.chan + 2 ^ 24 * endedCause ended) s
    let s := raise t 65 (segHandle s k % 2 ^ 25 + 2 ^ 25 * ended) (dropJob t (.readout k) s)
    finish r.wait { result := leBytes 4 r.sent ++ leBytes 4 r.skipped ++ leBytes 8 r.bytes ++ leBytes 1 ended ++ zeros 3 } s

/-- A frame takes the next buffer of a buffer queue, and a reservation in a completion queue (R216). None when it gets none. -/
def takeBuffer (s : State) (bufh cplh : Nat) : Option (Desc × State) :=
  match queue? s (queueOfHandle bufh), queue? s (queueOfHandle cplh) with
  | some b, some c =>
    match b.ready with
    | [] => none
    | d :: rest =>
      if spare s (queueOfHandle cplh) < unreserved c && !held s (queueOfHandle bufh)
          && connected s (routeOf s (queueOwner s (queueOfHandle bufh)) (queueOfHandle bufh / 2048)) then
        let s := putQueue (queueOfHandle bufh) { b with ready := rest } s
        some (d, modQueue (queueOfHandle cplh) (fun c => { c with reserved := c.reserved + 1 }) s)
      else none
  | _, _ => none

/-- A readout without a delivery under way takes a buffer for its next frame that is not BAD, if it gets one, or is over when none is left
(R170, R171). -/
def nextReadout (k : Nat) (s : State) : State :=
  match tget? s.fs.readouts k, tget? s.fs.segs k with
  | some r, some g =>
    if r.ending.isSome || (readoutDelivery s k).isSome then s
    else
      let r := skipBad s k r
      let s := modFs s fun f => { f with readouts := tput f.readouts k r }
      match r.left with
      | [] => closeReadout k 0 s
      | i :: _ =>
        match takeBuffer s r.buf r.cpl, g.frames[i]? with
        | some (d, s), some x =>
          modMv (leaveRoute (chanProducer (k / 16384 * 512 + r.chan)) s) fun m => { m with deliveries := m.deliveries ++ [{
            tile := k / 16384, channel := r.chan, frame := x.seq, bufQueue := queueOfHandle r.buf
            cplQueue := queueOfHandle r.cpl, desc := d, segment := segHandle s k }] }
        | _, _ => s
  | _, _ => s

/-- The completion entry of a readout's frame is written: it stands, and the readout goes on or ends. -/
def readoutSent (k : Nat) (s : State) : State :=
  match tget? s.fs.readouts k with
  | none => s
  | some r =>
    let n := ((readoutDelivery s k).map (·.bytes)).getD 0
    let r := { r with sent := r.sent + 1, bytes := r.bytes + n, left := r.left.drop 1 }
    nextReadout k (dropReadoutDelivery k (modFs s fun f => { f with readouts := tput f.readouts k r }))

/-- What an entry that is written lets go (R219). -/
def afterEntry (a : After) (s : State) : State :=
  match a with
  | .nothing => s
  | .queue q => modQueue q (fun v => { v with stopping := false }) s
  | .raw g => endRaw g s
  | .readout k => closeReadout k (((tget? s.fs.readouts k).bind (·.ending)).getD 0) s
  | .delivered k => readoutSent k s

/-- The bytes of an entry as written: records and frame completions carry the time at which they are written. -/
def stamped (s : State) (e : PendEntry) : List Byte :=
  match e.kind with
  | .event => e.bytes
  | .frame | .record => e.bytes.take 4 ++ leBytes 4 (ns32 s).toNat ++ e.bytes.drop 8

/-- Writes what is due in a queue, in the order of R123 and R219, until something must wait. -/
def drainQueue (q : Nat) : Nat → State → State
  | 0, s => s
  | n + 1, s =>
    match queue? s q with
    | none => s
    | some v =>
      if held s q then s
      else if timeAnchorDue s v then
        if 0 < unreserved v then drainQueue q n (writeTimeAnchor q v s) else s
      else match positionDue s q v with
        | some i => if 0 < unreserved v then drainQueue q n (writePositionAnchor q v i s) else s
        | none =>
          match v.pendingEntries with
          | [] => s
          | e :: rest =>
            if mayWrite s q v e then
              let bytes := stamped s e
              let s := modQueue q (fun v => { v with
                pendingEntries := rest, reserved := if e.kind = .frame then v.reserved - 1 else v.reserved }) s
              drainQueue q n (afterEntry e.after (putEntry q e.tile bytes s))
            else s

/-- Enough steps for all anchors and entries that may be due. -/
def drain (q : Nat) (s : State) : State :=
  match queue? s q with
  | none => s
  | some v => drainQueue q (v.pendingEntries.length + 40) s

/-- Dropped event entries of a queue are counted; QUEUE_OVERFLOW at most once per millisecond (R219, Table 10-11). -/
def countOverflow (q : Nat) (s : State) : State :=
  match queue? s q with
  | none => s
  | some v =>
    let v := { v with overflow := v.overflow + 1, overflowMark := true, droppedSince := v.droppedSince + 1 }
    if msPassed s v.lastOverflowEvent then
      raise (q / 2048) 88 (q % 2048 + 2 ^ 11 * satU 21 v.droppedSince)
        (putQueue q { v with droppedSince := 0, lastOverflowEvent := some s.clock } s)
    else putQueue q v s

/-- The last entry offered is an event entry that still waits, with no free place left outside the spare for it. -/
def dropsLast (s : State) (q : Nat) (v : Queue) : Bool :=
  match v.pendingEntries.getLast? with
  | some e => decide (e.kind = .event) && !(held s q && decide (spare s q + v.pendingEntries.length ≤ unreserved v))
  | none => false

/-- Offers an entry to a completion or event queue (R219): written now, waiting, or dropped. -/
def offerEntry (q : Nat) (e : PendEntry) (s : State) : State :=
  match queue? s q with
  | none => afterEntry e.after s
  | some v =>
    let s := drain q (putQueue q { v with pendingEntries := v.pendingEntries ++ [e] } s)
    match queue? s q with
    | none => s
    | some v =>
      if e.kind = .event && dropsLast s q v then
        countOverflow q (putQueue q { v with pendingEntries := v.pendingEntries.dropLast } s)
      else s

/-- A live queue of a type that a handle names. -/
def queueLive (s : State) (h : Nat) (ty : QType) : Bool :=
  h != 0 && handleKind h == 2 && handleLive s h && ((queue? s (queueOfHandle h)).map fun v => decide (v.qtype = ty)).getD false

/-! ### Descriptor chains -/

/-- A queue is bound as the receive queue of a lane. -/
def isReceiveQueue (s : State) (q : Nat) : Bool :=
  s.lanes.any fun (_, l) => decide (l.rxq ≠ 0) && decide (queueOfHandle l.rxq = q)

/-- What is wrong with a descriptor (R215). -/
def badDescriptor (s : State) (q : Nat) (v : Queue) (addr len : Nat) : Option Status :=
  let ranged := decide (v.qtype = .buffer) || isReceiveQueue s q
  if addr % 64 ≠ 0 then some .eAlign
  else if !ranged then none
  else if len % 64 ≠ 0 then some .eAlign
  else if len < 256 then some .eParam
  else none

/-- A chain queue stops (R215): queue-stop entry to NOTIFY, QUEUE_STOPPED. -/
def stopQueue (q : Nat) (code : Status) (cause position : Nat) (s : State) : State :=
  match queue? s q with
  | none => s
  | some v =>
    let notified := queueLive s v.notify .completion
    let s := putQueue q { v with
      state := .stopped, stopCode := code, stopCause := cause, park := position % 2 ^ 32, stopping := notified
      reread := false, runOn := false } s
    let s := raise (q / 2048) 86 (q % 2048 + 2 ^ 16 * statusCode code + 2 ^ 24 * cause) s
    if notified then
      offerEntry (queueOfHandle v.notify)
        { bytes := [6, BitVec.ofNat 8 (statusCode code), BitVec.ofNat 8 cause, 0] ++ zeros 4
            ++ leBytes 4 (handleOf s (queueSlot q)) ++ leBytes 4 position ++ zeros 12
          tile := q / 2048, kind := .record, after := .queue q } s
    else s

/-- Position x lies below the doorbell count. -/
def below (v : Queue) (x : Nat) : Bool := decide (0 < signed 32 (v.host.toNat + 2 ^ 32 - x))

/-- The queue engine may read a descriptor now, and which position (R212, R214). -/
def mayRead (s : State) (q : Nat) (v : Queue) : Option Nat :=
  if held s q then none
  else match v.qtype, v.state with
    | .buffer, .parked | .management, .parked => if v.reread then some v.park else none
    | .buffer, .running | .management, .running =>
      if v.ready.length < 16 && (below v v.nextPos || v.runOn) then some v.nextPos else none
    | _, _ => none

/-- The queue engine goes on at a position, which it must not reach when it lies SIZE or more beyond the count (R212). -/
def goOn (q x : Nat) (s : State) : State :=
  match queue? s q with
  | none => s
  | some v =>
    if (v.size : Int) ≤ signed 32 (x + 2 ^ 32 - v.host.toNat) then stopQueue q .eChain 2 x s
    else putQueue q { v with state := .running, nextPos := x % 2 ^ 32, runOn := true } s

/-- A descriptor read completes with the bytes that host memory holds at the position (R212, R214, R215). -/
def execDescriptorRead (queue : Nat) (bytes : List Byte) (s : State) : Meaning := .next <|
  match queue? s queue with
  | none => s
  | some v =>
    match mayRead s queue v with
    | none => s
    | some x =>
      let end_ := bit (le bytes 12 2) 0
      if v.state = .parked then
        if end_ then stopQueue queue .eChain 1 x s
        else goOn queue (x + 1) (putQueue queue { v with reread := false } s)
      else
        let addr := le bytes 0 8
        let len := le bytes 8 4
        match badDescriptor s queue v addr len with
        | some code => stopQueue queue code 3 x s
        | none =>
          let v := { v with
            dev := BitVec.ofNat 32 (x + 1)
            ready := v.ready ++ [{ position := x, addr := addr, len := len, cookie := le bytes 16 8 }] }
          if end_ then putQueue queue { v with state := .parked, park := x, runOn := false } s
          else goOn queue (x + 1) (putQueue queue v s)

/-! ### Doorbells and masks -/

/-- Only the owner of a live queue acts on its window (R33). -/
def ownsQueue (s : State) (p q : Nat) : Bool := (queue? s q).isSome && owns s p (queueSlot q)

/-- A doorbell of a buffer or management queue (R212, R214, R215). -/
def chainDoorbell (count : U32) (v : Queue) : Queue :=
  let v := { v with host := count }
  match v.state with
  | .idle => if below v v.nextPos then { v with state := .running } else v
  | .parked =>
    let d := (count.toNat + 2 ^ 33 - v.park - 1) % 2 ^ 32
    if 1 ≤ d ∧ d < v.size then { v with reread := true } else v
  | _ => v

/-- A consumed count that lies ahead of the written count (R209). -/
def aheadCount (v : Queue) (count : U32) : Bool := decide (0 < signed 32 (count - v.dev).toNat)

/-- Replies that a consumed count passes are no longer kept for copies (R315). -/
def consume (count : U32) (v : Queue) : Queue :=
  { v with host := count, sent := v.sent.filter fun (n, _) => decide (0 < signed 32 (n - count).toNat) }

/-- A host writes the doorbell of a queue (R32, R35, R209, R214, R219). -/
def doorbell (port q : Nat) (count : U32) (s : State) : State :=
  if !ownsQueue s port q then ignoreWrite port s
  else match queue? s q with
  | none => s
  | some v =>
    match v.qtype with
    | .buffer | .management => putQueue q (chainDoorbell count v) s
    | .command => putQueue q { v with host := count, state := .running } s
    | .reply =>
      if aheadCount v count then putQueue q { v with dbRejects := v.dbRejects + 1 } s
      else
        flushQueue port (q % 2048 - 8) (putQueue q (consume count v) s)
    | .completion | .event =>
      if aheadCount v count then putQueue q { v with dbRejects := v.dbRejects + 1 } s
      else putQueue q { v with host := count } s

def execCmdQueueDoorbell (port queue : Nat) (count : U32) (s : State) : Meaning := .next (doorbell port queue count s)
def execReplyQueueDoorbell (port queue : Nat) (count : U32) (s : State) : Meaning := .next (doorbell port queue count s)
def execChainQueueDoorbell (port queue : Nat) (count : U32) (s : State) : Meaning := .next (doorbell port queue count s)
def execCplQueueDoorbell (port queue : Nat) (count : U32) (s : State) : Meaning := .next (doorbell port queue count s)

/-- Clearing MASK sends the pending message: one for unsignalled entries, one for held reply messages (R210). A write of 0 to a MASK
that is clear changes nothing. -/
def unmaskQueue (q : Nat) (s : State) : State :=
  match queue? s q with
  | none => s
  | some v =>
    if !v.mask then s
    else if (v.irqEn && decide (v.unsignalled > 0)) || v.heldMessage then
      signalVector (if v.qtype = .reply then queueOwner s q else routeOf s (queueOwner s q) (q / 2048)) (queueOwner s q) v.vector
        (putQueue q { v with unsignalled := 0, heldMessage := false, mask := false } s)
    else putQueue q { v with mask := false } s

/-- A host writes the MASK of a queue (R210). -/
def execDbMaskWrite (port queue : Nat) (mask : Bool) (s : State) : Meaning := .next <|
  if !ownsQueue s port queue then ignoreWrite port s
  else if mask then modQueue queue (fun v => { v with mask := true }) s
  else unmaskQueue queue s

/-- Entries that wait are written once room is free (R219). -/
def execPendingEntryWrite (queue : Nat) (s : State) : Meaning := .next <|
  match queue? s queue with
  | none => s
  | some v => if v.qtype = .completion ∨ v.qtype = .event then drain queue s else s

/-- A time anchor is due on a queue (R123). -/
def execTimeAnchorDue (queue : Nat) (s : State) : Meaning := .next <|
  match queue? s queue with
  | none => s
  | some v => if v.qtype = .completion ∨ v.qtype = .event then drain queue s else s

/-- COAL_US has passed since the first unsignalled entry (R210). -/
def execCoalesceTimer (queue : Nat) (s : State) : Meaning := .next (if held s queue then s else signalQueue queue s)

/-! ### Management descriptors -/

/-- RESULT_LEN and WB of the management descriptors that were used are written back, one descriptor at a time (R211). -/
def execMgmtWriteback (s : State) : Meaning := .next <|
  match s.mv.mgmt with
  | [] => s
  | u :: rest =>
    match queue? s u.queue with
    | none => modMv s fun m => { m with mgmt := rest }
    | some v =>
      if held s u.queue then s
      else
        let s := leaveRoute u.queue (modMv s fun m => { m with mgmt := rest })
        let via := routeOf s (queueOwner s u.queue) (u.queue / 2048)
        let s := emit (.write via (v.base + u.desc.position % v.size * 32 + 24) false
          (leBytes 4 u.result ++ leBytes 4 (1 + 2 ^ 8 * statusCode u.status))) s
        signalQueue u.queue (putQueue u.queue { v with
          unsignalled := v.unsignalled + 1
          unsigSince := if v.unsignalled = 0 then s.clock else v.unsigSince
          inUse := v.inUse - 1 } s)

/-! ### Commands -/

def qtypeCode : QType → Nat
  | .buffer => 0 | .completion => 1 | .command => 2 | .reply => 3 | .event => 4 | .management => 5

def qtypeOf : Nat → QType
  | 0 => .buffer | 1 => .completion | 2 => .command | 3 => .reply | 4 => .event | _ => .management

def qstateCode : QState → Nat
  | .absent => 0 | .idle => 1 | .running => 2 | .parked => 3 | .stopped => 4

/-- FLAGS allowed for a type (create layout): STRICT and FLUSH_READ for buffer queues, IRQ_EN where R210 uses it. -/
def flagsBad (ty flags : Nat) : Bool :=
  decide (8 ≤ flags) || (decide (flags % 4 ≠ 0) && decide (ty ≠ 0)) || (bit flags 2 && !(ty == 1 || ty == 4 || ty == 5))

def vectorBad (ty v : Nat) : Bool := decide (2048 ≤ v) || (decide (v ≠ 0) && (ty == 0 || ty == 2))

/-- COAL_COUNT and COAL_US of a type. -/
def coalCountBad (ty n : Nat) : Bool := if ty == 1 || ty == 4 || ty == 5 then decide (n = 0) || decide (256 < n) else decide (n ≠ 0)
def coalUsBad (ty n : Nat) : Bool := if ty == 1 || ty == 4 || ty == 5 then decide (1000 < n) else decide (n ≠ 0)
def prioBad (ty n : Nat) : Bool := if ty = 0 then decide (7 < n) else decide (n ≠ 0)

def pow2 (n : Nat) : Bool := (List.range 17).any fun k => n == 2 ^ k

def sizeBad (ty n : Nat) : Bool := !pow2 n || decide (n < (if ty == 2 || ty == 3 then 256 else 16))

def isRing (ty : Nat) : Bool := ty == 2 || ty == 3

/-- A non-zero NOTIFY handle that names no queue slot, or a live queue that is no completion queue. -/
def notifyBad (s : State) (ty h : Nat) : Bool :=
  h != 0 && (!(ty == 0 || ty == 5) || handleKind h != 2 || decide (tiles s ≤ handleTile h) || decide (2048 ≤ handleIndex h)
    || (handleLive s h && !queueLive s h .completion))

/-- Index of the queue to create: the fixed one of a command or reply queue, the lowest free one from 16 otherwise (R208). -/
def createIndex (s : State) (c : Cmd) : Option Nat :=
  if par c 1 1 = 2 then some (par c 2 1)
  else if par c 1 1 = 3 then some (8 + par c 2 1)
  else freeIndex s 2 (par c 0 1) 16 2032

def newQueue (c : Cmd) (s : State) : Queue where
  qtype := qtypeOf (par c 1 1)
  number := par c 2 1
  prio := par c 3 1
  size := par c 4 4
  base := par c 8 8
  strict := bit (par c 16 2) 0
  flushRead := bit (par c 16 2) 1
  irqEn := bit (par c 16 2) 2
  vector := par c 18 2
  notify := par c 20 4
  coalCount := par c 24 2
  coalUs := par c 26 2
  anchorDue := s.clock + s.st.anchorMs * ms

def opQueueCreate : OpDef where
  code := 0x0801
  modes := mSafe
  len := some 32
  room := 8
  bad c s :=
    let ty := par c 1 1
    [(0, decide (tiles s ≤ par c 0 1)),
     (1, decide (5 < ty) || (isRing ty && decide (par c 0 1 ≠ c.port))),
     (2, if isRing ty then decide (par c 2 1 = 0) || decide (7 < par c 2 1) else decide (par c 2 1 ≠ 0)),
     (3, prioBad ty (par c 3 1)), (4, sizeBad ty (par c 4 4)),
     (16, flagsBad ty (par c 16 2)), (18, vectorBad ty (par c 18 2)), (20, notifyBad s ty (par c 20 4)),
     (24, coalCountBad ty (par c 24 2)), (26, coalUsBad ty (par c 26 2)), (28, !isZero c.params 28 4)]
  align c _ := [(8, decide (par c 8 8 % 64 ≠ 0))]
  refs c _ := namedHandles [par c 20 4]
  tile c _ := some (par c 0 1)
  wrong c s := !serving s (par c 0 1)
    || (par c 1 1 == 2 && (queue? s (replyQueue c.port (par c 2 1))).isNone)
  busy c s := isRing (par c 1 1) && (queue? s (c.port * 2048 + (createIndex s c).getD 0)).isSome
  short c s := (createIndex s c).isNone
  act c s :=
    let t := par c 0 1
    let k := slotOf 2 t ((createIndex s c).getD 0)
    let q := t * 2048 + (createIndex s c).getD 0
    let s := createObj k c.port (putQueue q (newQueue c s) s)
    .done s { handle := some (handleOf s k), result := leBytes 4 q ++ leBytes 4 (0x0100000 + q * 64) }

def execQueueCreate (c : Cmd) (s : State) : Meaning := .next (runOp opQueueCreate c s)

/-- Type code of the queue that TARGET names. -/
def targetType (c : Cmd) (s : State) : Nat := ((queue? s (queueOfHandle (tgt c))).map fun v => qtypeCode v.qtype).getD 0

def configQueue (c : Cmd) (v : Queue) : Queue := { v with
  strict := bit (par c 0 2) 0, flushRead := bit (par c 0 2) 1, irqEn := bit (par c 0 2) 2
  vector := par c 2 2, coalCount := par c 4 2, coalUs := par c 6 2, prio := par c 8 1 }

def opQueueConfig : OpDef where
  code := 0x0802
  idem := true
  cond := true
  modes := mSafe
  kinds := [2]
  len := some 16
  bad c s :=
    let ty := targetType c s
    [(0, flagsBad ty (par c 0 2)), (2, vectorBad ty (par c 2 2)), (4, coalCountBad ty (par c 4 2)),
     (6, coalUsBad ty (par c 6 2)), (8, prioBad ty (par c 8 1)), (9, !isZero c.params 9 7)]
  act c s :=
    let q := queueOfHandle (tgt c)
    match queue? s q with
    | none => .done s {}
    | some v =>
      if configQueue c v = v then .done s {}
      else .done (signalQueue q (bumpObj (tslot c) (putQueue q (configQueue c v) s))) {}

def execQueueConfig (c : Cmd) (s : State) : Meaning := .next (runOp opQueueConfig c s)

/-- The create layout of a queue. -/
def queueLayout (q : Nat) (v : Queue) : List Byte :=
  leBytes 1 (q / 2048) ++ leBytes 1 (qtypeCode v.qtype) ++ leBytes 1 v.number ++ leBytes 1 v.prio ++ leBytes 4 v.size
    ++ leBytes 8 v.base ++ leBytes 2 (b2n v.strict + 2 * b2n v.flushRead + 4 * b2n v.irqEn) ++ leBytes 2 v.vector
    ++ leBytes 4 v.notify ++ leBytes 2 v.coalCount ++ leBytes 2 v.coalUs ++ zeros 4

/-- The result of QUEUE_QUERY. -/
def queueView (s : State) (q : Nat) (v : Queue) : List Byte :=
  queueLayout q v ++ leBytes 1 (qstateCode v.state) ++ leBytes 1 (statusCode v.stopCode) ++ leBytes 1 (queueOwner s q)
    ++ leBytes 1 v.stopCause ++ leBytes 4 v.dev.toNat ++ leBytes 4 v.host.toNat ++ leBytes 4 v.park
    ++ leBytes 4 v.noBuffer.toNat ++ leBytes 4 v.overflow.toNat ++ leBytes 4 v.dbRejects.toNat ++ zeros 4

def opQueueQuery : OpDef where
  code := 0x0804
  query := true
  idem := true
  modes := mSafe
  kinds := [2]
  len := some 0
  room := 64
  act c s :=
    let q := queueOfHandle (tgt c)
    match queue? s q with
    | none => .done s {}
    | some v => .done s { result := queueView s q v }

def execQueueQuery (c : Cmd) (s : State) : Meaning := .next (runOp opQueueQuery c s)

/-- A STOPPED queue becomes IDLE at a position, and runs at once when the doorbell count lies beyond it (R215). -/
def restartQueue (x : Nat) (v : Queue) : Queue :=
  let v := { v with state := .idle, nextPos := x, runOn := false, reread := false, dev := BitVec.ofNat 32 x }
  if below v x then { v with state := .running } else v

def isChain (c : Cmd) (s : State) : Bool := targetType c s == 0 || targetType c s == 5

def stoppedState (c : Cmd) (s : State) : Option Queue := queue? s (queueOfHandle (tgt c))

def opQueueRestart : OpDef where
  code := 0x0805
  idem := true
  cond := true
  modes := mSafe
  kinds := [2]
  len := some 4
  more c s := if isChain c s then none else some { status := .eParam, detail := 8 }
  wrong c s := (stoppedState c s).any fun v => decide (v.state ≠ .stopped)
  busy c s := (stoppedState c s).any (·.stopping)
  act c s := .done (modQueue (queueOfHandle (tgt c)) (restartQueue (par c 0 4)) s) {}

def execQueueRestart (c : Cmd) (s : State) : Meaning := .next (runOp opQueueRestart c s)

end Sys2Proof.Machine
end

