-- ==== Sys2Proof/Machine/Lanes.lean ====
section
/-!
DEFINITION. Camera lanes and Ethernet ports (chapter 04): link bring-up, the extended-rate exchange, received and sent frames,
management queues, eye scans and the lane commands.
-/
namespace Sys2Proof.Machine
open Sys2Proof

def laneOf (s : State) (l : Nat) : Lane := tget {} s.lanes l
def putLane (l : Nat) (x : Lane) (s : State) : State := { s with lanes := tput s.lanes l x }
def modLane (l : Nat) (f : Lane → Lane) (s : State) : State := putLane l (f (laneOf s l)) s
def countLane (l : Nat) (f : LaneCounters → LaneCounters) (s : State) : State :=
  modLane l (fun x => { x with counters := f x.counters }) s
def modEr (l : Nat) (f : Exchange → Exchange) (s : State) : State := modLane l (fun x => { x with er := f x.er }) s

/-- The lanes of the port named by a lane (R59). -/
def portLanes (s : State) (l : Nat) : List Nat := (List.range (laneOf s l).width).map (l + ·)

/-- The lane that names the port which a lane belongs to. -/
def primaryOf (s : State) (l : Nat) : Nat :=
  if (laneOf s l).member then ((List.range 4).find? fun d => d ≤ l && (laneOf s (l - d)).primary && decide (d < (laneOf s (l - d)).width)).elim l (l - ·)
  else l

def isPrimary (s : State) (l : Nat) : Bool := decide (l < tiles s * 8) && (laneOf s l).primary
def isUp (s : State) (l : Nat) : Bool := decide ((laneOf s l).link = .up)

/-- Event k of a lane (R77): LINK_UP, LINK_DOWN, ER_AGREED, ER_FAILED, MGMT_DROP, FEC_UNCORRECTABLE. -/
def raiseLane (l k value : Nat) (s : State) : State := raise (l / 8) (6 * (l % 8) + k) (l + 2 ^ 8 * value) s

def phyWidth (phy : Nat) : Nat := if 4 ≤ phy ∧ phy ≤ 6 then 2 else if 7 ≤ phy ∧ phy ≤ 9 then 4 else 1
def isAui (phy : Nat) : Bool := phy == 3 || phy == 6 || phy == 9
/-- RATE code of a port while it is UP. -/
def rateCode (x : Lane) : Nat := if x.fast then 4 else if x.phy ≤ 9 then 3 else if x.phy ≤ 11 then 2 else 1
/-- Line rate per lane, kb/s. -/
def rateKbps : Nat → Nat
  | 1 => 25781250 | 2 => 53125000 | 3 => 106250000 | _ => 112500000

/-! ### Link state machine (R61, Table 4-2) -/

/-- The conditions of R61 on mode and tile. -/
def linkAllowed (s : State) (t : Nat) : Bool := serving s t && decide (5 ≤ modeCode s.pkg.mode)

/-- "As from DISABLED". -/
def startLink (s : State) (x : Lane) : Lane :=
  { x with
    since := s.clock, rate := 0, fecLock := false, amLock := false, remoteFault := false
    link := if isAui x.phy then .locking else if x.fast then .training else if x.an then .an else .training }

/-- A port whose conditions are as its lane shows starts, waits or is held. -/
def enterLink (l : Nat) (s : State) : State :=
  let x := laneOf s l
  if !linkAllowed s (l / 8) then putLane l { x with link := .held, since := s.clock, rate := 0, fecLock := false, amLock := false, remoteFault := false } s
  else if x.enabled then putLane l (startLink s x) s
  else putLane l { x with link := .disabled, since := s.clock, rate := 0, fecLock := false, amLock := false, remoteFault := false } s

/-- Locks of all lanes of a port. The model's own choice: FEC_LOCK and AM_LOCK show on every lane from UP on and not before, on a port
without FEC too; the manual does not say when they show (log entry 79). -/
def setLocks (l : Nat) (on : Bool) (s : State) : State :=
  (portLanes s l).foldl (fun s k => modLane k (fun x => { x with fecLock := on, amLock := on }) s) s

/-- A frame that is being received when a port leaves UP is dropped and counted (R62); whether one is, is free. -/
def cutReception (l : Nat) (s : State) : State :=
  if isUp s l then
    let cut := Config.freeCutFrame s.free
    useFree (if cut then countLane l (fun c => { c with rxFcsError := c.rxFcsError + 1 }) s else s)
  else s

/-- An eye scan on any lane of a port ends with E_HW_FAULT (R78). The model's own choice: a scan cut by LANE_ENABLE down, by HELD or by
a retrain of the exchange ends so too (log entry 79). -/
def failScans (l : Nat) (s : State) : State :=
  (portLanes s l).foldl (fun s k =>
    match (laneOf s k).eye with
    | some e => finish e.wait { status := .eHwFault } (dropJob (k / 8) (.eye k) (modLane k (fun x => { x with eye := none }) s))
    | none => s) s

/-- The mode or the service state of a tile changed: its lanes are held, or leave HELD (R61). -/
def refreshLanes (t : Nat) (s : State) : State :=
  (List.range 8).foldl (fun s i =>
    let l := t * 8 + i
    let x := laneOf s l
    if x.member then s
    else if linkAllowed s t then (if x.link = .held then enterLink l s else s)
    else if x.link = .held then s
    else enterLink l (setLocks l false (cutReception l (failScans l s)))) s

def failAttempt (x : Lane) : Lane := { x with
  attempts := min 255 (x.attempts + 1), link := .retryWait
  er := if x.er.state = .agreed then { x.er with failedRetrains := x.er.failedRetrains + 1 } else x.er }

/-- A step of the link state machine of an enabled port in a state. -/
def linkStep (l : Nat) (from_ : LinkState) (wait : Nat) (s : State) (f : Lane → Lane) : State :=
  let x := laneOf s l
  if x.primary && decide (x.link = from_) && decide (x.since + wait ≤ s.clock) then putLane l { f x with since := s.clock } s else s

def execAnComplete (lane : Nat) (s : State) : Meaning := .next (linkStep lane .an 0 s fun x => { x with link := .training })
def execAnTimeout (lane : Nat) (s : State) : Meaning := .next (linkStep lane .an (2000 * ms) s failAttempt)
def execTrainingComplete (lane : Nat) (s : State) : Meaning := .next (linkStep lane .training 0 s fun x => { x with link := .locking })
def execTrainingTimeout (lane : Nat) (s : State) : Meaning := .next (linkStep lane .training 0 s failAttempt)
def execLockTimeout (lane : Nat) (s : State) : Meaning := .next (linkStep lane .locking (50 * ms) s failAttempt)
def execRetryWaitExpiry (lane : Nat) (s : State) : Meaning := .next (linkStep lane .retryWait (1000 * ms) s (startLink s))

/-! ### Sent frames (R75, R254) -/

def macBytes (m : Nat) : List Byte := beBytes 6 m

/-- messageType and sequenceId of a PTP frame: layer 2, or UDP over IPv4 to port 319 or 320. -/
def ptpInfo (b : List Byte) : Option (Nat × Nat) :=
  let off := if be b 12 2 = 0x8100 then 4 else 0
  let et := be b (12 + off) 2
  let ip := 14 + off
  let ihl := be b ip 1 % 16 * 4
  if et = 0x88F7 then some (be b ip 1 % 16, be b (ip + 30) 2)
  else if et = 0x0800 ∧ be b (ip + 9) 1 = 17 ∧ (be b (ip + ihl + 2) 2 = 319 ∨ be b (ip + ihl + 2) 2 = 320) then
    some (be b (ip + ihl + 8) 1 % 16, be b (ip + ihl + 38) 2)
  else none

def ptpPort (s : State) (l : Nat) : PtpPort := tget {} s.time.ptpPorts l

/-- Fixed latencies between the package balls and the PCS boundary, receive and transmit, in tenths of a nanosecond, by the rate
and the FEC of the port (Table 12-1). -/
def fixedLatency (x : Lane) : Nat × Nat :=
  match rateCode x with
  | 4 => (1119, 403)
  | 3 => (1184, 426)
  | 2 => (2068, 715)
  | _ => if x.fec = 1 then (2412, 880) else (617, 352)

/-- Tenths of a nanosecond as units of 2^-16 ns, rounded down (log entry 86). -/
def tenths (n : Nat) : Int := (n * 65536 / 10 : Nat)

/-- Stamps of a frame whose start passes the PCS boundary now: the instant at the balls (R249) and the port's corrections (R250), here
2^-16 ns from 1/256 ns. The variable part of R249, the place in its codeword, is not in the row's instant (log entry 86). -/
def txStamp (s : State) (l : Nat) : Nat :=
  ((s.time.now : Int) + tenths (fixedLatency (laneOf s l)).2 + (ptpPort s l).txExtraQ8 * 256).toNat
def rxStamp (s : State) (l : Nat) : Nat :=
  ((s.time.now : Int) - tenths (fixedLatency (laneOf s l)).1 - (ptpPort s l).rxExtraQ8 * 256).toNat

def modTime (s : State) (f : TimeState → TimeState) : State := { s with time := f s.time }

/-- TXTS_OVERFLOW, at most once per millisecond per tile (R266). -/
def overflowTxts (t : Nat) (s : State) : State :=
  let n := tget 0 s.time.txtsDropped t + 1
  let s := modTime s fun v => { v with txtsOverflow := tmod 0 v.txtsOverflow t (fun k => satU 32 (k + 1)), txtsDropped := tput v.txtsDropped t n }
  if msPassed s (tget? s.time.txtsEventAt t) then
    raise t 103 (satU 32 n) (modTime s fun v => { v with txtsDropped := tput v.txtsDropped t 0, txtsEventAt := tput v.txtsEventAt t s.clock })
  else s

/-- An event message of a PTP-enabled port crosses the medium boundary (R254). -/
def stampTx (l : Nat) (b : List Byte) (s : State) : State :=
  match ptpInfo b with
  | some (ty, sid) =>
    if (ptpPort s l).enabled && decide (ty ≤ 3) then
      let t := l / 8
      let q := tget [] s.time.txts t
      if q.length ≥ 64 then overflowTxts t s
      else
        let now := txStamp s l
        modTime s fun v => { v with txts := tput v.txts t (q ++
          [{ seqId := sid, lane := l, msgType := ty, sec := timeSec now, ns := timeNs now, frac := timeFrac now }]) }
    else s
  | none => s

/-- A frame leaves the port, padded to 60 bytes before its FCS, and is counted. -/
def sendFrame (l : Nat) (b : List Byte) (s : State) : State :=
  let b := b ++ zeros (60 - b.length)
  emit (.frame l b) (countLane l (fun c => { c with txFrames := c.txFrames + 1, txBytes := c.txBytes + BitVec.ofNat 64 (b.length + 4) }) s)

/-! ### Management queues (R73, R74, R211) -/

/-- A frame for the host that finds no buffer (R73). -/
def mgmtDrop (l : Nat) (s : State) : State :=
  let s := countLane l (fun c => { c with mgmtDropped := c.mgmtDropped + 1 }) s
  if msPassed s (laneOf s l).mgmtDropAt then raiseLane l 4 0 (modLane l (fun x => { x with mgmtDropAt := some s.clock }) s) else s

/-- A frame goes to the management receive queue of its port with a reason (R74, Table 4-8). -/
def mgmtDeliver (l reason : Nat) (f : RxFrame) (s : State) : State :=
  let h := (laneOf s l).rxq
  let q := queueOfHandle h
  match queue? s q with
  | none => mgmtDrop l s
  | some v =>
    if !queueLive s h .management || held s q then mgmtDrop l s
    else match v.ready with
    | [] => mgmtDrop l s
    | d :: rest =>
      let cut := decide (d.len < 16 + f.bytes.length)
      let rec_ := leBytes 2 f.bytes.length ++ leBytes 1 l ++ leBytes 1 reason ++ leBytes 4 (f.stamp / 65536)
        ++ leBytes 2 (b2n f.tci.isSome + 2 * b2n cut) ++ leBytes 2 (f.tci.getD 0) ++ zeros 4 ++ f.bytes
      let data := rec_.take d.len
      let s := leaveRoute q (putQueue q { v with ready := rest, inUse := v.inUse + 1 } s)
      let s := emit (.write (routeOf s (queueOwner s q) (q / 2048)) d.addr false data) s
      let s := modMv s fun m => { m with mgmt := m.mgmt ++ [{ queue := q, desc := d, result := data.length, status := .ok }] }
      countLane l (fun c => { c with mgmtDelivered := c.mgmtDelivered + 1 }) s

/-- EtherTypes of a tag. -/
def isTagType (et : Nat) : Bool := et == 0x8100 || et == 0x88A8

/-- The tag VLAN_ID with priority 0, for an untagged frame of a port with VLAN_EN (R75). -/
def tagFrame (x : Lane) (b : List Byte) : List Byte :=
  if x.vlanEn && !isTagType (be b 12 2) then b.take 12 ++ beBytes 2 0x8100 ++ beBytes 2 x.vlanId ++ b.drop 12 else b

/-! ### Extended-rate exchange (R64 to R66) -/

/-- Payload types of Table 4-3. -/
def erOffer : Nat := 1
def erAccept : Nat := 2
def erDecline : Nat := 3
def erSwitch : Nat := 4
def erConfirm : Nat := 5
def erRevert : Nat := 6

/-- An exchange frame without FCS (R64, Table 4-3). The model's own choice: RATES is 3 in every frame of the device, and REVERT takes a
SEQ of its own; Table 4-3 says neither (log entry 80). -/
def erFrame (x : Lane) (type seq delay : Nat) : List Byte :=
  beBytes 6 0x0180C200000E ++ macBytes x.mac ++ beBytes 2 0x88B5 ++ beBytes 2 0x5EB7 ++ [1, BitVec.ofNat 8 type] ++ beBytes 2 seq
    ++ [BitVec.ofNat 8 x.width, 0] ++ beBytes 4 3 ++ beBytes 4 x.er.nonce.toNat ++ beBytes 4 delay ++ zeros 26

/-- Sends an exchange frame with the SEQ that the exchange holds. -/
def erSend (l type delay : Nat) (s : State) : State :=
  let x := laneOf s l
  if x.link = .up then sendFrame l (erFrame x type x.er.seq.toNat delay) s else s

/-- The first frame of a kind takes the next SEQ; while the port is not UP none is sent, and the first goes out when it is UP again. -/
def erFirst (l type delay : Nat) (s : State) : State :=
  if isUp s l then
    erSend l type delay (modEr l (fun e => { e with seq := e.seq + 1, sent := 1, lastSent := s.clock, firstSent := s.clock }) s)
  else modEr l (fun e => { e with sent := 0 }) s

def erStateCode : ErState → Nat
  | .disabled => 0 | .pending => 1 | .offered => 2 | .switching => 3 | .confirming => 4 | .agreed => 5
  | .declined => 6 | .noAnswer => 7 | .failed => 8

def erRuns (e : Exchange) : Bool :=
  match e.state with
  | .offered | .switching | .confirming => true
  | _ => false

/-- The exchange ends in a state; the LANE_ER_OFFER that waits is answered. -/
def erEnd (l : Nat) (st : ErState) (s : State) : State :=
  let w := (laneOf s l).er.wait
  let s := modEr l (fun e => { e with state := st, wait := none }) s
  match w with
  | some id => finish id { result := [BitVec.ofNat 8 (erStateCode st), BitVec.ofNat 8 (laneOf s l).er.camRates, 0, 0] } s
  | none => s

/-- Lanes retrain at a rate, without auto-negotiation; lanes that are held do so when the conditions of R61 return. -/
def retrain (l : Nat) (fast : Bool) (s : State) : State :=
  let s := modLane l (fun x => { x with fast := fast, er := { x.er with retrainAt := s.clock } }) s
  if (laneOf s l).link = .held then s
  else
    modLane l (fun x => { x with
      link := if isAui x.phy then .locking else .training, since := s.clock, rate := 0, remoteFault := false })
      (setLocks l false (cutReception l (failScans l s)))

/-- The exchange fails: the standard rate again, REVERT once UP, ER_FAILED (Table 4-4). -/
def erFail (l : Nat) (s : State) : State :=
  erEnd l .failed (raiseLane l 3 0 (retrain l false (modEr l (fun e => { e with revertDue := true }) s)))

/-- The one ARP request for the port's own address at link UP (R72). The model's own choice: it goes out untagged with VLAN_EN too, for R75
speaks of a tag on frames of the management transmit queue only (log entry 79). -/
def gratuitousArp (l : Nat) (x : Lane) (s : State) : State :=
  sendFrame l (beBytes 6 0xFFFFFFFFFFFF ++ macBytes x.mac ++ beBytes 2 0x0806 ++ beBytes 2 1 ++ beBytes 2 0x0800 ++ [6, 4]
    ++ beBytes 2 1 ++ macBytes x.mac ++ beBytes 4 x.ip ++ zeros 6 ++ beBytes 4 x.ip) s

/-- Lock has held for 10 ms: the port is UP (Table 4-2); a switched port goes on to CONFIRMING, a failed one sends REVERT; these frames go
before the gratuitous ARP request (Table 4-9). -/
def execLinkUp (lane : Nat) (s : State) : Meaning := .next <|
  let x := laneOf s lane
  if !(x.primary && decide (x.link = .locking) && decide (x.since + 10 * ms ≤ s.clock)) then s
  else
    let s := putLane lane { x with
      link := .up, since := s.clock, upNs32 := ns32 s, attempts := 0, rate := rateCode x
      er := { x.er with failedRetrains := 0 } } s
    let s := setLocks lane true s
    let s := { s with st := { s.st with reqId := tput s.st.reqId lane 0 } }
    let s := raiseLane lane 0 (rateCode x) s
    let s := if x.er.state = .switching ∧ x.fast then
        erFirst lane erConfirm 0 (modEr lane (fun e => { e with state := .confirming }) s)
      else if x.er.revertDue ∧ !x.fast then
        erFirst lane erRevert 0 (modEr lane (fun e => { e with revertDue := false }) s)
      else s
    if x.gratArp then gratuitousArp lane x s else s

/-- Lock is lost (Table 4-2). -/
def execLinkLoss (lane : Nat) (partialFrame : Bool) (s : State) : Meaning := .next <|
  let x := laneOf s lane
  if !(x.primary && decide (x.link = .up)) then s
  else
    let s := failScans lane s
    let s := modLane lane (fun x => { x with link := .retryWait, since := s.clock, rate := 0, remoteFault := false }) (setLocks lane false s)
    let s := (portLanes s lane).foldl (fun s k => countLane k (fun c => { c with linkLosses := c.linkLosses + 1 }) s) s
    let s := if partialFrame then countLane lane (fun c => { c with rxFcsError := c.rxFcsError + 1 }) s else s
    raiseLane lane 1 0 s

def execRemoteFaultChange (lane : Nat) (on : Bool) (s : State) : Meaning := .next <|
  if isUp s lane then modLane lane (fun x => { x with remoteFault := on }) s else s

/-- R65: the oldest exchange frame that waits is consumed. -/
def execErFrameReceive (lane : Nat) (s : State) : Meaning := .next <|
  let x := laneOf s lane
  match x.toExchange with
  | [] => s
  | f :: rest =>
    let s := modLane lane (fun x => { x with toExchange := rest }) s
    let p := f.bytes.drop 14
    let type := be p 3 1
    let ok := be p 0 2 == 0x5EB7 && be p 2 1 == 1 && be p 4 2 == x.er.seq.toNat && be p 12 4 == x.er.nonce.toNat
      && (match x.er.state with
          | .offered => type == erAccept || type == erDecline
          | .confirming => type == erConfirm
          | _ => false)
    if !ok then countLane lane (fun c => { c with erIgnored := satU 32 (c.erIgnored + 1) }) s
    else if x.er.state = .confirming then
      erEnd lane .agreed (raiseLane lane 2 0
        (modEr lane (fun e => { e with agreements := min 0xFFFF (e.agreements + 1), failedRetrains := 0 }) s))
    else
      let s := modEr lane (fun e => { e with camRates := be p 11 1 }) s
      if type = erAccept ∧ bit (be p 8 4) 1 then erFirst lane erSwitch 1000 (modEr lane (fun e => { e with state := .switching }) s)
      else erEnd lane .declined s

/-- The first OFFER is due: 100 ms UP at the standard rate without an uncorrectable codeword. -/
def offerDue (s : State) (l : Nat) : Bool :=
  let x := laneOf s l
  x.er.state = .pending && decide (x.link = .up) && !x.fast && decide (max x.since x.dirtyAt + 100 * ms ≤ s.clock)

/-- A repeat of the exchange is due: the state that repeats, how often, and after how long. -/
def erDue (s : State) (l : Nat) (st : ErState) (most wait : Nat) : Bool :=
  let e := (laneOf s l).er
  isUp s l && e.state = st && decide (e.sent < most) && (decide (e.sent = 0) || decide (e.lastSent + wait ≤ s.clock))

/-- A frame of the exchange is repeated when its time has come, or sent for the first time. The model's own choice: one that falls due while the port is not UP is
sent when it is UP again, and counts when it is sent (log entry 80). -/
def erRepeat (l : Nat) (st : ErState) (type delay most wait : Nat) (s : State) : State :=
  if erDue s l st most wait then
    if (laneOf s l).er.sent = 0 then erFirst l type delay s
    else erSend l type delay (modEr l (fun e => { e with sent := e.sent + 1, lastSent := s.clock }) s)
  else s

def execErNoAnswer (lane : Nat) (s : State) : Meaning := .next <|
  let e := (laneOf s lane).er
  if e.state = .offered && decide (10 ≤ e.sent) && decide (e.lastSent + 10 * ms ≤ s.clock) then erEnd lane .noAnswer s else s

/-- SWITCH_DELAY after the first SWITCH the lanes retrain at 112.5 Gb/s. -/
def execErSwitchDelayExpiry (lane : Nat) (s : State) : Meaning := .next <|
  let x := laneOf s lane
  if x.er.state = .switching && !x.fast && decide (0 < x.er.sent) && decide (x.er.firstSent + 1000 * us ≤ s.clock) then retrain lane true s else s

def execErSwitchTimeout (lane : Nat) (s : State) : Meaning := .next <|
  let x := laneOf s lane
  if x.er.state = .switching && x.fast && decide (x.link ≠ .up) && decide (x.er.retrainAt + 500 * ms ≤ s.clock) then erFail lane s else s

def execErConfirmTimeout (lane : Nat) (s : State) : Meaning := .next <|
  let x := laneOf s lane
  if x.er.state = .confirming && decide (x.er.firstSent + 100 * ms ≤ s.clock) then erFail lane s else s

def execErRetrainExhausted (lane : Nat) (s : State) : Meaning := .next <|
  let x := laneOf s lane
  if x.er.state = .agreed && decide (3 ≤ x.er.failedRetrains) then erFail lane s else s

/-! ### Received frames (R68 to R72) -/

/-- Distinct multicast groups that live channels of a port have joined (R84). -/
def joinedGroups (s : State) (l : Nat) : List Nat :=
  (s.st.channels.filterMap fun (_, c) =>
    if c.live && c.shadow.layout.multicast && c.shadow.layout.lane == l then some c.shadow.layout.groupIp else none).eraseDups

def groupMac (ip : Nat) : Nat := 0x01005E000000 + ip % 2 ^ 23

/-- Destination addresses that a port accepts (R68). -/
def acceptsMac (s : State) (l mac : Nat) : Bool :=
  mac == (laneOf s l).mac || mac == 0xFFFFFFFFFFFF || mac == 0x0180C200000E || mac == 0x011B19000000 || mac == 0x01005E000181
    || (joinedGroups s l).any fun g => groupMac g == mac

/-- Ones' complement sum of 16-bit big-endian words. -/
def sum16 : List Byte → Nat
  | [] => 0
  | [a] => a.toNat * 256
  | a :: b :: rest => a.toNat * 256 + b.toNat + sum16 rest

/-- The sum folded to 16 bits is all ones. -/
def sumOk (n : Nat) : Bool := n != 0 && n % 65535 == 0

/-- Fields of an IPv4 datagram. -/
structure Ip where
  ihl : Nat
  total : Nat
  proto : Nat
  src : Nat
  dst : Nat
  fragment : Bool
  sport : Nat
  dport : Nat
deriving DecidableEq, Repr

def ipOf (b : List Byte) : Ip :=
  let ihl := be b 0 1 % 16 * 4
  { ihl := ihl, total := be b 2 2, proto := be b 9 1, src := be b 12 4, dst := be b 16 4, fragment := be b 6 2 % 0x4000 != 0
    sport := be b ihl 2, dport := be b (ihl + 2) 2 }

/-- A UDP checksum that is not zero is right (R71): pseudo header and datagram. -/
def udpOk (b : List Byte) (i : Ip) : Bool :=
  let u := b.drop i.ihl
  be u 6 2 == 0 || sumOk (sum16 ((b.drop 12).take 8) + 17 + be u 4 2 + sum16 (u.take (be u 4 2)))

/-- The checks of R71. The model's own choice: a header length below five words fails too, and counts in IP_DROPPED (log entry 79). -/
def ipOk (b : List Byte) (i : Ip) : Bool :=
  be b 0 1 / 16 == 4 && decide (20 ≤ i.ihl) && sumOk (sum16 (b.take i.ihl)) && decide (i.total ≤ b.length)
    && (i.proto != 17 || i.fragment || udpOk b i)

def ptpGroup : Nat := 0xE0000181

/-- A datagram is addressed to the port (R71). -/
def addressed (s : State) (l dst : Nat) : Bool :=
  let x := laneOf s l
  dst == x.ip || dst == 0xFFFFFFFF || dst == (x.ip ||| (0xFFFFFFFF - x.mask)) || (joinedGroups s l).contains dst
    || ((ptpPort s l).enabled && (ptpPort s l).udp && dst == ptpGroup)

/-- A stream channel of the port claims a datagram (R83). -/
def claims (s : State) (l : Nat) (i : Ip) (c : Channel) : Bool :=
  let y := c.shadow.layout
  c.live && y.lane == l && (tget {} s.st.sources (l * 16 + y.source)).ip == i.src && y.destUdp == i.dport
    && (if y.multicast then y.groupIp == i.dst else (laneOf s l).ip == i.dst)

def gvcpLocal (s : State) (l : Nat) : Nat := tget 0xC000 s.st.gvcpLocal l

def toLane (l : Nat) (f : Lane → Lane) (s : State) : State := modLane l f s

/-- Classification of an IPv4 datagram (Table 4-7, orders 5 to 10). -/
def classifyIp (l : Nat) (f : RxFrame) (s : State) : State :=
  let b := f.bytes.drop 14
  let i := ipOf b
  if !ipOk b i then countLane l (fun c => { c with ipDropped := c.ipDropped + 1 }) s
  else if !addressed s l i.dst then countLane l (fun c => { c with rxFiltered := c.rxFiltered + 1 }) s
  else if 20 < i.ihl ∨ i.fragment then mgmtDeliver l 3 f s
  else if i.proto = 17 then
    if i.dport = 319 ∨ i.dport = 320 then modLane l (fun x => { x with toTime := x.toTime ++ [f] }) s
    else if s.st.channels.any fun (_, c) => claims s l i c then modLane l (fun x => { x with toStream := x.toStream ++ [f] }) s
    else if i.sport = 3956 ∨ i.dport = gvcpLocal s l then mgmtDeliver l 5 f s
    else mgmtDeliver l 4 f s
  else mgmtDeliver l 2 f s

/-- Answers an ARP request for the port's address (R72). The model's own choice: the reply goes out untagged with VLAN_EN too, for R75 speaks
of a tag on frames of the management transmit queue only (log entry 79). -/
def answerArp (l : Nat) (b : List Byte) (s : State) : State :=
  let x := laneOf s l
  let a := b.drop 14
  countLane l (fun c => { c with arpAnswered := c.arpAnswered + 1 })
    (sendFrame l ((a.drop 8).take 6 ++ macBytes x.mac ++ beBytes 2 0x0806 ++ beBytes 2 1 ++ beBytes 2 0x0800 ++ [6, 4] ++ beBytes 2 2
      ++ macBytes x.mac ++ beBytes 4 x.ip ++ (a.drop 8).take 6 ++ (a.drop 14).take 4) s)

/-- Classification of an accepted frame (Table 4-7). -/
def classify (l : Nat) (f : RxFrame) (s : State) : State :=
  let et := be f.bytes 12 2
  if et = 0x88B5 then modLane l (fun x => { x with toExchange := x.toExchange ++ [f] }) s
  else if et = 0x88F7 then modLane l (fun x => { x with toTime := x.toTime ++ [f] }) s
  else if et = 0x0806 then
    if be f.bytes 20 2 = 1 ∧ be f.bytes 38 4 = (laneOf s l).ip then answerArp l f.bytes s else mgmtDeliver l 1 f s
  else if et = 0x0800 then classifyIp l f s
  else mgmtDeliver l 6 f s

/-- The VLAN rules of R69: the frame without its tag and the tag, or none when it is filtered. -/
def removeTag (x : Lane) (b : List Byte) : Option (List Byte × Option Nat) :=
  if !isTagType (be b 12 2) then some (b, none)
  else if !x.vlanEn || be b 14 2 % 4096 != x.vlanId || isTagType (be b 16 2) then none
  else some (b.take 12 ++ b.drop 16, some (be b 14 2))

/-- R68 to R70: a frame, its FCS included, has crossed the PCS boundary of a port. -/
def execRxFrame (lane : Nat) (bytes : List Byte) (s : State) : Meaning := .next <|
  let x := laneOf s lane
  let n := bytes.length
  let body := bytes.take (n - 4)
  if !(x.primary && decide (x.link = .up)) then s
  else if n < 64 then countLane lane (fun c => { c with rxRunt := c.rxRunt + 1 }) s
  else if 9600 < n then countLane lane (fun c => { c with rxOversize := c.rxOversize + 1 }) s
  else if crc32 body ≠ le bytes (n - 4) 4 then countLane lane (fun c => { c with rxFcsError := c.rxFcsError + 1 }) s
  else if be body 12 2 = 0x8808 ∧ (be body 14 2 = 1 ∨ be body 14 2 = 0x0101) then
    countLane lane (fun c => { c with rxPause := c.rxPause + 1 }) s
  else if !acceptsMac s lane (be body 0 6) then countLane lane (fun c => { c with rxFiltered := c.rxFiltered + 1 }) s
  else match removeTag x body with
  | none => countLane lane (fun c => { c with rxFiltered := c.rxFiltered + 1 }) s
  | some (b, tci) =>
    classify lane { bytes := b, stamp := rxStamp s lane, tci := tci, at_ := s.clock }
      (countLane lane (fun c => { c with rxFrames := c.rxFrames + 1, rxBytes := c.rxBytes + BitVec.ofNat 64 n }) s)

/-- Uncorrectable codewords on a lane; FEC_UNCORRECTABLE at most once per millisecond (R76, R77). -/
def uncorrectable (l : Nat) (s : State) : State :=
  let s := modLane l (fun x => { x with
    fecSince := x.fecSince + 1, counters := { x.counters with fecUncorrectable := x.counters.fecUncorrectable + 1 } }) s
  let s := modLane (primaryOf s l) (fun x => { x with dirtyAt := s.clock }) s
  if msPassed s (laneOf s l).fecEventAt then
    raiseLane l 5 (satU 24 (laneOf s l).fecSince) (modLane l (fun x => { x with fecSince := 0, fecEventAt := some s.clock }) s)
  else s

/-! ### Registers (Table 4-10 to Table 4-12) -/

def linkCode : LinkState → Nat
  | .disabled => 0 | .an => 1 | .training => 2 | .locking => 3 | .up => 4 | .retryWait => 5 | .held => 7

/-- Link state as a lane shows it: a member shows its port's. -/
def shownLane (s : State) (l : Nat) : Lane := laneOf s (primaryOf s l)

/-- Words of Table 4-12 that are kept at the lowest lane of a port only: all but the FEC counters and LINK_LOSSES (R76). -/
def laneOnly (i : Nat) : Bool := decide (0x40 ≤ i) && !(decide (0x56 ≤ i) && decide (i ≤ 0x5B)) && !(decide (0x62 ≤ i) && decide (i ≤ 0x63))

/-- Window of a lane, by offset / 4. -/
def laneReg (s : State) (l : Nat) (i : Nat) : Nat :=
  let x := laneOf s l
  let p := shownLane s l
  let pair (v : U64) : Nat := if i % 2 = 0 then v.toNat % 2 ^ 32 else v.toNat / 2 ^ 32
  if x.member && laneOnly i then 0 else
  match i with
  | 0 => x.phy + 2 ^ 4 * x.width + 2 ^ 7 * x.fec + 2 ^ 9 * b2n x.an + 2 ^ 10 * b2n x.erEnable + 2 ^ 11 * b2n x.gratArp
      + 2 ^ 12 * b2n x.vlanEn + 2 ^ 13 * b2n x.enabled + 2 ^ 14 * b2n x.primary + 2 ^ 15 * b2n x.member + 2 ^ 16 * x.vlanId
  | 1 => linkCode p.link + 2 ^ 4 * p.rate + 2 ^ 8 * b2n x.fecLock + 2 ^ 9 * b2n x.amLock + 2 ^ 10 * b2n (Config.localFault l s.clock)
      + 2 ^ 11 * b2n p.remoteFault + 2 ^ 16 * p.attempts
  | 2 => x.upNs32.toNat
  | 3 => erStateCode x.er.state + 2 ^ 8 * x.er.camRates + 2 ^ 16 * x.er.agreements
  | 4 => x.mac % 2 ^ 32
  | 5 => x.mac / 2 ^ 32
  | 6 => x.ip
  | 7 => x.mask
  | 8 => x.rxq
  | 9 => x.txq
  | 0x40 | 0x41 => pair x.counters.rxFrames
  | 0x42 | 0x43 => pair x.counters.rxBytes
  | 0x44 | 0x45 => pair x.counters.rxFcsError
  | 0x46 | 0x47 => pair x.counters.rxOversize
  | 0x48 | 0x49 => pair x.counters.rxRunt
  | 0x4A | 0x4B => pair x.counters.rxPause
  | 0x4C | 0x4D => pair x.counters.rxFiltered
  | 0x4E | 0x4F => pair x.counters.ipDropped
  | 0x50 | 0x51 => pair x.counters.txFrames
  | 0x52 | 0x53 => pair x.counters.txBytes
  | 0x54 | 0x55 => pair x.counters.txDropped
  | 0x56 | 0x57 => pair x.counters.fecCorrected
  | 0x58 | 0x59 => pair x.counters.fecUncorrectable
  | 0x5A | 0x5B => pair x.counters.fecSymbols
  | 0x5C | 0x5D => pair x.counters.arpAnswered
  | 0x5E | 0x5F => pair x.counters.mgmtDelivered
  | 0x60 | 0x61 => pair x.counters.mgmtDropped
  | 0x62 | 0x63 => pair x.counters.linkLosses
  | 0x64 => x.counters.erIgnored
  | _ => 0

/-! ### Commands (Table 4-14) -/

/-- Modes of 0x02xx and 0x03xx (Table 2-3). -/
def laneQuery : Nat := mSafe

def laneAbsent (s : State) (l : Nat) : Bool := decide (tiles s * 8 ≤ l)

/-- A lane of a new port belongs to another port that is enabled. -/
def takesEnabled (s : State) (l w : Nat) : Bool :=
  (List.range w).any fun i =>
    let p := primaryOf s (l + i)
    p != l && (laneOf s p).primary && (laneOf s p).enabled

/-- An exchange or scan runs on a lane of a port. -/
def lanesBusy (s : State) (l w : Nat) : Bool :=
  (List.range w).any fun i => (laneOf s (l + i)).eye.isSome || erRuns (laneOf s (primaryOf s (l + i))).er

/-- The mask is a run of ones followed by zeros. -/
def maskOk (m : Nat) : Bool := (List.range 33).any fun k => m == (2 ^ 32 - 2 ^ k)

def fecOk (phy fec : Nat) : Bool := if phy ≤ 11 then fec == 2 else fec ≤ 1

/-- MAC of the parameters in wire order; all zero selects the boot configuration's base + LANE. -/
def macParam (c : Cmd) (s : State) : Nat :=
  let m := be c.params 8 6
  if m = 0 then (s.boot.conf.macBase + par c 0 1) % 2 ^ 48 else m

/-- The lane as LANE_PORT_SET sets it. -/
def portSettings (c : Cmd) (s : State) (x : Lane) : Lane := { x with
  width := par c 1 1, phy := par c 2 1, fec := par c 3 1, an := bit (par c 4 1) 0, erEnable := bit (par c 4 1) 1
  gratArp := bit (par c 4 1) 2, vlanEn := bit (par c 4 1) 3, vlanId := par c 6 2, mac := macParam c s
  ip := par c 16 4, mask := par c 20 4, primary := true, member := false }

/-- A lane returns to an unconfigured single lane; its counters stay, and with them what limits its events (R77). -/
def unconfigured (s : State) (l : Nat) (x : Lane) : Lane :=
  { counters := x.counters, link := if linkAllowed s (l / 8) then .disabled else .held, since := x.since
    fecSince := x.fecSince, fecEventAt := x.fecEventAt, mgmtDropAt := x.mgmtDropAt }

/-- Ports that overlap the new one give up all their lanes (R80). -/
def dissolve (l w : Nat) (s : State) : State :=
  (List.range w).foldl (fun s i =>
    let p := primaryOf s (l + i)
    if p = l ∧ (laneOf s l).width = w then s
    else (portLanes s p).foldl (fun s k => if k = l then s else modLane k (unconfigured s k) s) s) s

/-- The lanes behind the first become members, unless the port had them already. -/
def takeMembers (l w : Nat) (s : State) : State :=
  (List.range (w - 1)).foldl (fun s i => modLane (l + i + 1) (fun x => { unconfigured s (l + i + 1) x with member := true }) s) s

/-- LANE_PORT_SET returns the exchange to PENDING, or to DISABLED (R66). The model's own choices: a port that ran at 112.5 Gb/s retrains
at 106.25 Gb/s, the rate that PENDING speaks of, and a REVERT still due after FAILED is dropped (log entry 80). -/
def restartExchange (l : Nat) (s : State) : State :=
  let s := modLane l (fun x => { x with er := { x.er with
    state := if x.erEnable then .pending else .disabled, revertDue := false, failedRetrains := 0 } }) s
  if (laneOf s l).fast then
    if (laneOf s l).enabled then retrain l false s else modLane l (fun x => { x with fast := false }) s
  else s

def setPort (c : Cmd) (s : State) : State :=
  let l := par c 0 1
  let w := par c 1 1
  let same := (laneOf s l).primary && decide ((laneOf s l).width = w)
  let s := modLane l (portSettings c s) (dissolve l w s)
  let s := restartExchange l (if same then s else takeMembers l w s)
  if decide ((laneOf s l).link = .held) == linkAllowed s (l / 8) then enterLink l s else s

def opLanePortSet : OpDef where
  code := 0x0201
  idem := true
  master := true
  cond := true
  modes := mReady
  len := some 32
  locked c s := bit (par c 4 1) 1 && s.boot.conf.erDisabled
  bad c s :=
    let l := par c 0 1
    let w := par c 1 1
    let p := par c 2 1
    [(0, laneAbsent s l), (1, !(w == 1 || w == 2 || w == 4) || decide (l % w ≠ 0)),
     (2, decide (p = 0) || decide (13 < p) || phyWidth p != w), (3, !fecOk p (par c 3 1)),
     (4, decide (16 ≤ par c 4 1) || (bit (par c 4 1) 1 && decide (10 ≤ p))), (5, !isZero c.params 5 1),
     (6, decide (4095 < par c 6 2) || (bit (par c 4 1) 3 && (par c 6 2 == 0 || par c 6 2 == 4095))),
     (8, bit (par c 8 1) 0), (14, !isZero c.params 14 2), (20, !maskOk (par c 20 4)), (24, !isZero c.params 24 8)]
  tile c _ := some (par c 0 1 / 8)
  wrong c s :=
    let x := laneOf s (par c 0 1)
    x.primary && x.enabled && (x.phy != par c 2 1 || x.width != par c 1 1 || x.fec != par c 3 1 || x.an != bit (par c 4 1) 0)
  keys c _ := [keyLane (par c 0 1)]
  busy c s := takesEnabled s (par c 0 1) (par c 1 1) || lanesBusy s (par c 0 1) (par c 1 1)
  act c s :=
    let x := laneOf s (par c 0 1)
    if portSettings c s x = x then .done (setPort c s) {} else .done (bumpPkg (setPort c s)) {}

def execLanePortSet (c : Cmd) (s : State) : Meaning := .next (runOp opLanePortSet c s)

def opLanePortQuery : OpDef where
  code := 0x0202
  query := true
  idem := true
  modes := mSafe
  len := some 4
  room := 40
  bad c s := [(0, laneAbsent s (par c 0 1)), (1, !isZero c.params 1 3)]
  act c s :=
    let l := par c 0 1
    .done s { result := leBytes 4 (laneReg s l 0) ++ leBytes 4 (laneReg s l 1) ++ leBytes 4 (laneReg s l 3)
      ++ leBytes 4 (laneReg s l 2) ++ macBytes (laneOf s l).mac ++ zeros 2 ++ leBytes 4 (laneOf s l).ip
      ++ leBytes 4 (laneOf s l).mask ++ leBytes 4 (laneOf s l).rxq ++ leBytes 4 (laneOf s l).txq }

def execLanePortQuery (c : Cmd) (s : State) : Meaning := .next (runOp opLanePortQuery c s)

/-- LANE_ENABLE down: the transmitter is idle, a running exchange ends (Table 4-2, R66). The model's own choice: a REVERT still due after
FAILED is dropped (log entry 80). -/
def disablePort (l : Nat) (s : State) : State :=
  let x := laneOf s l
  let s := cutReception l (failScans l s)
  let s := if x.link = .up then raiseLane l 1 0 s else s
  let s := modLane l (fun x => { x with
    enabled := false, fast := false, rate := 0, remoteFault := false, since := s.clock, link := if x.link = .held then .held else .disabled
    er := { x.er with revertDue := false, failedRetrains := 0 } }) (setLocks l false s)
  erEnd l (if x.erEnable then .pending else .disabled) s

def opLaneEnable : OpDef where
  code := 0x0203
  idem := true
  master := true
  cond := true
  modes := mReady
  len := some 4
  room := 4
  bad c s := [(0, !isPrimary s (par c 0 1)), (1, decide (1 < par c 1 1)), (2, !isZero c.params 2 2)]
  tile c _ := some (par c 0 1 / 8)
  act c s :=
    let l := par c 0 1
    let up := par c 1 1 == 1
    let s' := if up == (laneOf s l).enabled then s
      else if up then bumpPkg (enterLink l (modLane l (fun x => { x with enabled := true }) s))
      else bumpPkg (disablePort l s)
    .done s' { result := [BitVec.ofNat 8 (linkCode (laneOf s' l).link), 0, 0, 0] }

def execLaneEnable (c : Cmd) (s : State) : Meaning := .next (runOp opLaneEnable c s)

def opLaneErOffer : OpDef where
  code := 0x0204
  idem := true
  master := true
  modes := mReady
  len := some 4
  room := 4
  bad c s := [(0, !isPrimary s (par c 0 1) || !(laneOf s (par c 0 1)).erEnable), (1, !isZero c.params 1 3)]
  tile c _ := some (par c 0 1 / 8)
  wrong c s := !serving s (par c 0 1 / 8) || !isUp s (par c 0 1)
  keys c _ := [keyLane (par c 0 1)]
  busy c s := lanesBusy s (par c 0 1) (laneOf s (par c 0 1)).width
  act c s :=
    let l := par c 0 1
    let e := (laneOf s l).er
    if e.state = .agreed then .done s { result := [BitVec.ofNat 8 (erStateCode e.state), BitVec.ofNat 8 e.camRates, 0, 0] }
    else .wait (modEr l (fun e => { e with state := .pending, wait := some s.eng.nextWait }) (addWait 0x0204 c [keyLane l] 4 s))

def execLaneErOffer (c : Cmd) (s : State) : Meaning := .next (runOp opLaneErOffer c s)

/-- A non-zero handle that names no management queue of a tile. -/
def mgmtBad (s : State) (t h : Nat) : Bool :=
  h != 0 && (handleKind h != 2 || handleTile h != t || decide (2048 ≤ handleIndex h)
    || (handleLive s h && !queueLive s h .management))

/-- A queue is bound to another port. -/
def boundElsewhere (s : State) (l h : Nat) : Bool :=
  h != 0 && s.lanes.any fun (k, x) => k != l && (x.rxq == h || x.txq == h)

/-- LANE_MGMT_BIND. The model's own choice: one queue may be both the receive and the transmit queue of a port, since R73 forbids only
what another port has bound (log entry 79). -/
def opLaneMgmtBind : OpDef where
  code := 0x0205
  idem := true
  master := true
  cond := true
  modes := mReady
  len := some 12
  bad c s := [(0, !isPrimary s (par c 0 1)), (1, !isZero c.params 1 3), (4, mgmtBad s (par c 0 1 / 8) (par c 4 4)),
    (8, mgmtBad s (par c 0 1 / 8) (par c 8 4))]
  refs c _ := namedHandles [par c 4 4, par c 8 4]
  tile c _ := some (par c 0 1 / 8)
  busy c s := boundElsewhere s (par c 0 1) (par c 4 4) || boundElsewhere s (par c 0 1) (par c 8 4)
  act c s :=
    let l := par c 0 1
    let x := laneOf s l
    if x.rxq = par c 4 4 ∧ x.txq = par c 8 4 then .done s {}
    else .done (bumpPkg (putLane l { x with rxq := par c 4 4, txq := par c 8 4 } s)) {}

def execLaneMgmtBind (c : Cmd) (s : State) : Meaning := .next (runOp opLaneMgmtBind c s)

/-- LANE_COUNTERS_CLEAR clears the lanes of the port that LANE names. The model's own choice: any present lane is accepted, and a member
or an unconfigured lane is cleared alone (log entry 79). -/
def opLaneCountersClear : OpDef where
  code := 0x0206
  master := true
  modes := mReady
  len := some 4
  room := 4
  bad c s := [(0, laneAbsent s (par c 0 1)), (1, !isZero c.params 1 3)]
  tile c _ := some (par c 0 1 / 8)
  wrong c s := !serving s (par c 0 1 / 8)
  act c s :=
    .done ((portLanes s (par c 0 1)).foldl (fun s k => countLane k (fun _ => {}) s) s) { result := leBytes 4 (ns32 s).toNat }

def execLaneCountersClear (c : Cmd) (s : State) : Meaning := .next (runOp opLaneCountersClear c s)

/-- Quanta of 100 µs of an eye scan: 2,048 cells of 10^DWELL_EXP bits at the lane's rate. -/
def scanQuanta (rate dwell : Nat) : Nat := (2048 * 10 ^ dwell * 10 + rateKbps rate - 1) / rateKbps rate

def opLaneEyeScan : OpDef where
  code := 0x0207
  idem := true
  master := true
  modes := mReady
  len := some 8
  room := 2064
  bad c s :=
    let l := par c 0 1
    [(0, laneAbsent s l),
     (1, decide (2 < par c 1 1) || (decide (12 ≤ (shownLane s l).phy) && par c 1 1 != 1)),
     (2, decide (par c 2 1 < 6) || decide (12 < par c 2 1)), (3, !isZero c.params 3 5)]
  tile c _ := some (par c 0 1 / 8)
  wrong c s := !serving s (par c 0 1 / 8) || decide ((shownLane s (par c 0 1)).link ≠ .up)
  busy c s := (laneOf s (par c 0 1)).eye.isSome || erRuns (shownLane s (par c 0 1)).er
  act c s :=
    let l := par c 0 1
    let s' := addWait 0x0207 c [] 2064 s
    .wait (addJob (l / 8) (.eye l) (scanQuanta (shownLane s l).rate (par c 2 1))
      (modLane l (fun x => { x with eye := some { wait := s.eng.nextWait, eye := par c 1 1, dwell := par c 2 1, startNs32 := ns32 s } }) s'))

def execLaneEyeScan (c : Cmd) (s : State) : Meaning := .next (runOp opLaneEyeScan c s)

/-- R78: the last quantum of a scan has run; the counts of its 2,048 cells are those that the sampler found. -/
def execEyeScanComplete (lane : Nat) (cells : List Byte) (s : State) : Meaning := .next <|
  match (laneOf s lane).eye with
  | none => s
  | some e =>
    if !e.done then s
    else
      let result := [BitVec.ofNat 8 lane, BitVec.ofNat 8 e.eye, BitVec.ofNat 8 e.dwell, 0] ++ leBytes 4 e.startNs32.toNat
        ++ leBytes 4 (ns32 s).toNat ++ zeros 4 ++ (cells ++ zeros 2048).take 2048
      finish e.wait { result := result } (modLane lane (fun x => { x with eye := none }) s)

end Sys2Proof.Machine
end

