-- ==== Sys2Proof/Machine/Pixels.lean ====
section
/-!
DEFINITION. Pixel formats (R88, R133; their codes and packing are those of the GenICam Pixel Format Naming Convention, log entry
13), and the layout of a frame from its data positions (R99, R100, R112, R113).
-/
namespace Sys2Proof.Machine
open Sys2Proof

/-- How pixels lie in a line. -/
inductive Pack where
  | bytes | words
  /-- Two pixels in three bytes, their low bits in the middle byte. -/
  | split
  /-- Bits of successive pixels without gaps, least significant first. -/
  | dense
deriving DecidableEq, Repr

structure PixFmt where
  bits : Nat
  pack : Pack
  bayer : Bool
deriving DecidableEq, Repr

/-- Bits that a pixel occupies in a line. -/
def PixFmt.occ (f : PixFmt) : Nat :=
  match f.pack with
  | .bytes => 8
  | .words => 16
  | .split => 12
  | .dense => f.bits

/-- The formats of Table 5-2, by PIXEL_FORMAT. -/
def pixelFormats : Tab PixFmt :=
  [(0x01080001, ⟨8, .bytes, false⟩)] ++ [0x01080008, 0x01080009, 0x0108000A, 0x0108000B].map (·, ⟨8, .bytes, true⟩)
  ++ [(0x010A0046, ⟨10, .dense, false⟩)] ++ [0x010A0052, 0x010A0054, 0x010A0056, 0x010A0058].map (·, ⟨10, .dense, true⟩)
  ++ [(0x010C0004, ⟨10, .split, false⟩), (0x010C0006, ⟨12, .split, false⟩)]
  ++ [0x010C0026, 0x010C0027, 0x010C0028, 0x010C0029].map (·, ⟨10, .split, true⟩)
  ++ [0x010C002A, 0x010C002B, 0x010C002C, 0x010C002D].map (·, ⟨12, .split, true⟩)
  ++ [(0x010C0047, ⟨12, .dense, false⟩)] ++ [0x010C0053, 0x010C0055, 0x010C0057, 0x010C0059].map (·, ⟨12, .dense, true⟩)
  ++ [(0x010E0104, ⟨14, .dense, false⟩)]
  ++ [(0x01100003, ⟨10, .words, false⟩), (0x01100005, ⟨12, .words, false⟩), (0x01100007, ⟨16, .words, false⟩)]
  ++ [0x0110000C, 0x0110000D, 0x0110000E, 0x0110000F].map (·, ⟨10, .words, true⟩)
  ++ [0x01100010, 0x01100011, 0x01100012, 0x01100013].map (·, ⟨12, .words, true⟩)
  ++ [(0x01100025, ⟨14, .words, false⟩)] ++ [0x0110002E, 0x0110002F, 0x01100030, 0x01100031].map (·, ⟨16, .words, true⟩)

def pixFmt? (code : Nat) : Option PixFmt := tget? pixelFormats code

/-- Format of a channel's frames; Mono8 for a code that no channel can hold. -/
def pixFmt (code : Nat) : PixFmt := (pixFmt? code).getD ⟨8, .bytes, false⟩

/-- Bytes of a line. -/
def lineLen (f : PixFmt) (width : Nat) : Nat := width * f.occ / 8

/-- Bytes of a line that pixel j touches: the first, and how many. -/
def pixelBytes (f : PixFmt) (j : Nat) : Nat × Nat :=
  match f.pack with
  | .bytes => (j, 1)
  | .words => (2 * j, 2)
  | .split => (j / 2 * 3 + j % 2, 2)
  | .dense => (j * f.bits / 8, (j * f.bits % 8 + f.bits + 7) / 8)

/-- Value of pixel j of a line (R133). -/
def pixelAt (f : PixFmt) (line : List Byte) (j : Nat) : Nat :=
  let (off, n) := pixelBytes f j
  let v := le line off n
  match f.pack with
  | .bytes => v
  | .words => v % 2 ^ f.bits
  | .split =>
    if j % 2 = 0 then v % 256 * 2 ^ (f.bits - 8) + v / 256 % 2 ^ (f.bits - 8)
    else v / 256 * 2 ^ (f.bits - 8) + v / 16 % 2 ^ (f.bits - 8)
  | .dense => v / 2 ^ (j * f.bits % 8) % 2 ^ f.bits

def unpackLine (f : PixFmt) (width : Nat) (line : List Byte) : List Nat := (List.range width).map (pixelAt f line)

/-- The bytes that pixel j touches, from their number v, after it is set to x. -/
def setBits (f : PixFmt) (j v x : Nat) : Nat :=
  match f.pack with
  | .bytes => x
  | .words => x
  | .split =>
    let lo := x % 2 ^ (f.bits - 8)
    let hi := x / 2 ^ (f.bits - 8)
    if j % 2 = 0 then hi + 256 * (v / 256 / 16 * 16 + lo) else v % 16 + 16 * lo + 256 * hi
  | .dense =>
    let k := 2 ^ (j * f.bits % 8)
    v - v / k % 2 ^ f.bits * k + x * k

/-- Sets pixel j of a line to a value. -/
def setPixel (f : PixFmt) (line : List Byte) (j x : Nat) : List Byte :=
  let (off, n) := pixelBytes f j
  line.take off ++ leBytes n (setBits f j (le line off n) x) ++ line.drop (off + n)

/-- A line whose missing bytes are filled: each pixel wholly or partly in them is set to FILL_VALUE, masked to the format's depth
(R99). -/
def fillLine (f : PixFmt) (width fill : Nat) (line : List (Option Byte)) : List Byte :=
  let known := line.map (·.getD 0)
  if line.all (·.isSome) then known
  else (List.range width).foldl (fun b j =>
    let (off, n) := pixelBytes f j
    if ((line.drop off).take n).any (·.isNone) then setPixel f b j (fill % 2 ^ f.bits) else b) known

/-! ### Positions (R112) -/

/-- The bytes of a position of length P: what arrived, or nothing known. -/
def fitPosition (pad : Byte) (p : Nat) (x : Option PosState) : List (Option Byte) :=
  match x with
  | some (.present _ b _) => (b.take p).map some ++ List.replicate (p - b.length) (some pad)
  | _ => List.replicate p none

/-- Data positions 1 to n of a block in position order, all resolved. -/
def layPositions (pad : Byte) (p : Nat) (t : Tab PosState) : Nat → List (Option Byte)
  | 0 => []
  | n + 1 => layPositions pad p t n ++ fitPosition pad p (tget? t (n + 1))

/-- How many data positions from 1 on are resolved. -/
def resolvedRun (t : Tab PosState) (from_ : Nat) : Nat → Nat
  | 0 => 0
  | n + 1 => if (tget? t from_).isSome then 1 + resolvedRun t (from_ + 1) n else 0

/-! ### Lines (R113) -/

/-- Lines of the parts of a block from raw line `from_`: the raw line of each image line, none for a padding line. -/
def lineMap : Nat → List Nat → List (Option Nat)
  | _, [] => []
  | from_, h :: rest =>
    (List.range h).map (fun i => some (from_ + i))
      ++ (if rest.isEmpty then [] else List.replicate ((16 - h % 16) % 16) none) ++ lineMap (from_ + h) rest

def leaderLines (l : Leader) : List (Option Nat) := lineMap 0 l.parts
/-- HEIGHT of the frame: padding lines included. -/
def frameHeight (l : Leader) : Nat := (leaderLines l).length
/-- Bytes of the image as sent: padding lines not included. -/
def imageSize (f : PixFmt) (width : Nat) (l : Leader) : Nat := lineLen f width * (l.parts.foldl (· + ·) 0)

/-- The part table of a multi-part block. -/
def partTable (l : Leader) : List Byte :=
  if l.payloadType ≠ 0x000A then []
  else ((List.range l.parts.length).map fun i =>
    let h := l.parts.getD i 0
    leBytes 2 h ++ leBytes 2 (if i + 1 = l.parts.length then 0 else (16 - h % 16) % 16)).flatten

/-- An image line from the raw payload. -/
def imageLine (f : PixFmt) (width fill : Nat) (raw : List (Option Byte)) (m : Option Nat) : List Byte :=
  let n := lineLen f width
  match m with
  | none => fillLine f width fill (List.replicate n none)
  | some r =>
    let b := (raw.drop (r * n)).take n
    fillLine f width fill (b ++ List.replicate (n - b.length) none)

end Sys2Proof.Machine
end

