-- ==== Sys2Proof/Machine/Pulses.lean ====
section
/-!
DEFINITION. Pulse trains of scheduled outputs (R260 to R262): when pulses are due, and which of them are passed.
-/
namespace Sys2Proof.Machine
open Sys2Proof

/-- Scheduled output n of tile t is number t × 8 + n. -/
def schedOf (s : State) (k : Nat) : Sched := tget {} s.time.scheds k
def putSched (k : Nat) (o : Sched) (s : State) : State := { s with time := { s.time with scheds := tput s.time.scheds k o } }
def modSched (k : Nat) (f : Sched → Sched) (s : State) : State := putSched k (f (schedOf s k)) s

/-- 1 µs in 2^-16 ns. -/
def usUnits : Nat := 65536000

/-- Number and due time of the first pulse of a train after a due time (R260). -/
def pulseAfter (o : Sched) (start : Nat) (after : Option Nat) : Nat × Nat :=
  match after with
  | none => (0, start)
  | some a => if a < start then (0, start) else ((a - start) / o.period + 1, start + ((a - start) / o.period + 1) * o.period)

/-- The first pulse of a train from one on that no late pulse has merged. -/
def skipPassed (o : Sched) (start : Nat) (x : Nat × Nat) : Nat × Nat :=
  o.passed.foldl (fun x r => if r.1 ≤ x.2 ∧ x.2 ≤ r.2 then pulseAfter o start (some r.2) else x) x

/-- Number and due time of the next pulse of an output after a due time: a train ends at COUNT or where the next one begins
(R261). -/
def nextDue (o : Sched) (after : Option Nat) : List Nat → Option (Nat × Nat)
  | [] => none
  | st :: rest =>
    let (k, d) := skipPassed o st (pulseAfter o st after)
    if (o.count = 0 || decide (k < o.count)) && (rest.head?.map fun b => decide (d < b)).getD true then some (k, d)
    else nextDue o after rest

/-- Next pulse of the output. -/
def nextPulse (o : Sched) : Option (Nat × Nat) := nextDue o o.firedTo o.trains

/-- Action time of the next action command of an output (R103): that of a late pulse, else of the next pulse that is not sent. -/
def nextSend (o : Sched) : Option Nat := o.lateSends.head?.or ((nextDue o o.armedTo o.trains).map (·.2))

/-- Lead of an output: LEAD_NS of an action entry, in 2^-16 ns. -/
def leadOf (s : State) (k : Nat) (o : Sched) : Nat :=
  if o.kind = .action then (tget {} s.st.actions (k / 8 * 16 + o.index)).leadNs * 65536 else 0

/-- How many pulses of a train from `start` are passed now (R262). -/
def passedOf (s : State) (k : Nat) (o : Sched) (start : Nat) : Nat :=
  let limit := s.time.now + usUnits + leadOf s k o
  if limit ≤ start then 0
  else
    let n := if o.period = 0 then 1 else (limit - start - 1) / o.period + 1
    if o.count = 0 then n else min n o.count

/-- Rounds 2^-16 ns to quarter nanoseconds, ties upward. -/
def quarter (t : Nat) : Nat := (t + 8192) / 16384

/-- Now, in quarter nanoseconds. -/
def nowQ (s : State) : Nat := s.time.now / 16384

end Sys2Proof.Machine
end

