-- ==== Sys2Proof/Machine/Events.lean ====
section
/-!
DEFINITION. The Caramel router and the trigger pins (chapter 13): intake, publication and delivery of events, channel groups,
pins and their skew learning, and the event commands.
-/
namespace Sys2Proof.Machine
open Sys2Proof

/-! ### Channel groups (R278) -/

/-- Order of group commits of one time: OFF, then ON, then commands. -/
def groupClass (g : GroupCommit) : Nat := if g.byCommand then 2 else if g.value = 0 then 0 else 1

/-- Puts a group change in its place by commit time. -/
def insertGroup (g : GroupCommit) : List GroupCommit → List GroupCommit
  | [] => [g]
  | h :: t =>
    if g.time < h.time ∨ (g.time = h.time ∧ groupClass g < groupClass h) then g :: h :: t else h :: insertGroup g t

def applyGroup (v : U32) (g : GroupCommit) : U32 := (v &&& ~~~(word g.mask)) ||| (word g.value &&& word g.mask)

def scheduleGroup (g : GroupCommit) (s : State) : State :=
  modEv s fun v => { v with groupCommits := insertGroup g v.groupCommits }

/-- The groups that were enabled at a time. -/
def groupsAt (s : State) (t : Nat) : U32 :=
  ((s.ev.groupLog ++ s.ev.groupCommits).filter fun g => decide (g.time ≤ t)).foldl applyGroup 0xFFFFFFFF

/-- R278: a group change reaches its commit time and applies on every tile. -/
def execGroupCommit (s : State) : Meaning := .next <|
  match s.ev.groupCommits with
  | [] => s
  | g :: rest =>
    if g.time ≤ ns s then
      modEv s fun v => { v with
        groupCommits := rest, groupLog := v.groupLog ++ [g]
        groups := applyGroup v.groups g, groupNs32 := ns32Of g.time }
    else s

/-- R278: an event at GROUP_ON_gg or GROUP_OFF_gg (inputs 672 to 735 of tile 0) schedules a change at its time plus 1 µs. -/
def execGroupInput (index n : Nat) (s : State) : Meaning := .next <|
  if 672 ≤ index ∧ index ≤ 735 ∧ serving s 0 then
    match takeInput 0 index n s with
    | none => s
    | some (e, s) =>
      let g := 2 ^ ((index - 672) % 32)
      scheduleGroup { time := e.time + 1000, byCommand := false, mask := g, value := if index < 704 then g else 0 } s
  else s

/-! ### Publication and delivery (R272 to R277) -/

/-- A route acts on an event that arose at a time (R273). -/
def actsOn (r : Route) (t : Nat) : Bool := decide (r.from_ ≤ t) && (r.until_.map fun u => decide (t < u)).getD true

/-- Routes live or not yet committed out, with their numbers (tile × 4,096 + index). -/
def allRoutes (s : State) : List (Nat × Route) := s.ev.routes ++ s.ev.retired

def countRoute (k : Nat) (r : Route) (s : State) : State :=
  if (tget? s.ev.routes k) = some r then
    modEv s fun v => { v with routes := tput v.routes k { r with delivered := r.delivered + 1 } }
  else s

/-- The 16 bytes of an event record (Table 13-2). -/
def eventRecord (e : Ev) (chan : Nat) (overrun : Bool) : List Byte :=
  leBytes 2 e.source ++ leBytes 1 chan ++ leBytes 1 (e.hops + 16 * b2n overrun) ++ leBytes 4 (e.time % 2 ^ 32)
    ++ leBytes 4 e.payload.toNat ++ leBytes 4 e.seq.toNat

/-- Tile whose router published an event: the source's tile, tile 0 for package and host sources. -/
def sourceTile (source : Nat) : Nat := if source < 1024 then source / 128 else 0

/-- Hands a published event to one subscription of its channel. A tile that does not serve takes none in (R270). -/
def deliverTo (e : Ev) (chan : Nat) (overrun : Bool) (s : State) (kr : Nat × Route) : State :=
  let (k, r) := kr
  let t := k / 4096
  if r.channel = chan && actsOn r e.time && !r.cleared && serving s t then
    match r.form with
    | .publication _ => s
    | .toInput i =>
      countRoute k r (modEv s fun v => { v with
        inputs := tmod {} v.inputs (inputKey t i) fun x => { x with waiting := x.waiting ++ [e] } })
    | .toQueue q =>
      countRoute k r (offerEntry q
        { bytes := [5] ++ zeros 7 ++ eventRecord e chan overrun ++ zeros 4, tile := sourceTile e.source, kind := .event } s)
  else s

/-- Key of a channel's counters on a tile. -/
def chanKey (t chan : Nat) : Nat := t * 256 + chan

/-- An event that may not make another hop is dropped; LOOP at most once per millisecond per channel (R277, Table 13-6). -/
def dropLoop (t chan : Nat) (e : Ev) (s : State) : State :=
  let n := tget 0 s.ev.loopCount (chanKey t chan) + 1
  let s := modEv s fun v => { v with
    loopDropped := tmod 0 v.loopDropped t (· + 1), loopCount := tput v.loopCount (chanKey t chan) n }
  if msPassed s (tget? s.ev.loopAt (chanKey t chan)) then
    raise t 117 (chan + 2 ^ 8 * (e.source % 1024) + 2 ^ 18 * satU 14 n)
      (modEv s fun v => { v with loopCount := tput v.loopCount (chanKey t chan) 0, loopAt := tput v.loopAt (chanKey t chan) s.clock })
  else s

/-- Publishes an event on a channel from the router of tile t: blocked by its group, stopped by its hop count, or delivered. -/
def publish (t chan : Nat) (e : Ev) (s : State) : State :=
  if !(groupsAt s e.time).getLsbD (chan / 8) then
    modEv s fun v => { v with blocked := tmod 0 v.blocked (chanKey t chan) (· + 1) }
  else if 8 ≤ e.hops then dropLoop t chan e s
  else
    let overrun := tget false s.ev.overrunMark t
    let s := modEv s fun v => { v with
      overrunMark := tput v.overrunMark t false, published := tmod 0 v.published (chanKey t chan) (· + 1) }
    let e := { e with hops := e.hops + 1, overrun := overrun }
    (allRoutes s).foldl (deliverTo e chan overrun) s

/-- Publishes an event through one route, if the route is a publication of its source. -/
def publishVia (t : Nat) (e : Ev) (s : State) (kr : Nat × Route) : State :=
  let (k, r) := kr
  match r.form with
  | .publication src =>
    if src = e.source && k / 4096 == t && actsOn r e.time && !r.cleared then publish t r.channel e (countRoute k r s) else s
  | _ => s

/-- R276: the router of a tile takes in the oldest event that waits. -/
def execEventIntake (tile : Nat) (s : State) : Meaning := .next <|
  match tget [] s.ev.backlog tile with
  | [] => s
  | e :: rest =>
    if serving s tile then
      let s := modEv s fun v => { v with backlog := tput v.backlog tile rest }
      match e.publish with
      | some c => publish tile c e s
      | none => (allRoutes s).foldl (publishVia tile e) s
    else s

/-- R273: after the commit time of a destruction the route goes, once no earlier event waits. -/
def execRouteCommit (route : Nat) (s : State) : Meaning := .next <|
  modEv s fun v => { v with retired := v.retired.filter fun (k, r) =>
    k ≠ route || (r.until_.map fun u => decide (ns s < u) || v.backlog.any fun (_, l) => l.any fun e => decide (e.time < u)).getD false }

/-- A route is destroyed: it still acts on events that arose before the commit time (R273). -/
def destroyRoute (k : Nat) (s : State) : State :=
  let n := slotTile k * 4096 + slotIndex k
  match tget? s.ev.routes n with
  | none => s
  | some r =>
    dropObj k (modEv s fun v => { v with
      routes := tdel v.routes n, retired := v.retired ++ [(n, { r with until_ := some (ns s + 1000) })] })

/-! ### Trigger pins (R280 to R283) -/

def pinOf (s : State) (p : Nat) : Pin := tget {} s.ev.pins p
def putPin (p : Nat) (x : Pin) (s : State) : State := modEv s fun v => { v with pins := tput v.pins p x }
def modPin (p : Nat) (f : Pin → Pin) (s : State) : State := putPin p (f (pinOf s p)) s

/-- The pin drives a new level, at a time in quarter nanoseconds. -/
def driveLevel (p : Nat) (level : Bool) (at_ : Nat) (s : State) : State :=
  let x := pinOf s p
  if x.level = level then s
  else emit (.pin (p / 10) (p % 10) level at_)
    (putPin p { x with level := level, edges := x.edges + 1, lastNs32 := ns32Of (at_ / 4) } s)

/-- Idle level of a pin: INVERT of the output that drives it (R260), or of its settings (R282). -/
def idleLevel (s : State) (p : Nat) : Bool :=
  let x := pinOf s p
  match x.driver with
  | some d => (schedOf s (p / 10 * 8 + d)).invert
  | none => x.invert

/-- An edge leaves the pin: PULSE, SET, CLEAR or TOGGLE (R282). A pulse extends a pulse that still drives the pin. The pin keeps the due
times of its last 64 comparator edges (R284). -/
def driveEdge (p : Nat) (g : PinEdge) (s : State) : State :=
  let s := modPin p (fun x => { x with dueTimes := match g.due with
    | some d => (d :: x.dueTimes).take 64
    | none => x.dueTimes }) s
  let x := pinOf s p
  let active := !idleLevel s p
  match g.action with
  | 0 => modPin p (fun x => { x with pulseEnd := some (g.at_ + g.widthNs * 4) }) (driveLevel p active g.at_ s)
  | 1 => driveLevel p active g.at_ s
  | 2 => driveLevel p (!active) g.at_ s
  | _ => driveLevel p (!x.level) g.at_ s

/-- A pin that drives returns to its idle level, without any edge to come. -/
def idlePin (p : Nat) (s : State) : State :=
  modPin p (fun x => { x with sched := [], pulseEnd := none }) (driveLevel p (idleLevel s p) (nowQ s) s)

/-- The mode of a pin drives it (Table 13-4). -/
def drives (x : Pin) : Bool := x.mode == 2 || x.mode == 3

/-- A pin stops driving and is high-impedance (R280): no edge. -/
def releasePin (p : Nat) (s : State) : State :=
  emit (.pinReleased (p / 10) (p % 10) (nowQ s)) (modPin p (fun x => { x with sched := [], pulseEnd := none, level := idleLevel s p }) s)

/-- A pin begins to drive its idle level: no edge. -/
def beginDriving (p : Nat) (s : State) : State :=
  let level := idleLevel s p
  emit (.pin (p / 10) (p % 10) level (nowQ s)) (modPin p (fun x => { x with sched := [], pulseEnd := none, level := level }) s)

/-- The pins of a tile whose modes drive them. -/
def drivenPins (s : State) (t : Nat) : List Nat := (s.ev.pins.filter fun (p, x) => decide (p / 10 = t) && drives x).map (·.1)

/-- TRIM of an edge with a due time: the newest that applies at that time (R283). -/
def trimOf (x : Pin) (due : Nat) : Int := ((x.trims.find? fun (f, _) => decide (f ≤ due)).map (·.2)).getD 0

/-- A new TRIM acts on edges due 40 µs later (R283). -/
def setTrim (now : Nat) (trim : Int) (x : Pin) : Pin :=
  if x.trimQ2 = trim then x else { x with trimQ2 := trim, trims := (now + 40 * usUnits, trim) :: x.trims }

/-- The time unit schedules comparator edges 33 µs before they are due; an edge whose trimmed time has passed leaves at once
(R283). -/
def armEdges (p : Nat) : Nat → State → State
  | 0, s => s
  | n + 1, s =>
    let x := pinOf s p
    match x.driver with
    | none => s
    | some d =>
      let k := p / 10 * 8 + d
      let o := schedOf s k
      match nextDue o o.armedTo o.trains with
      | none => s
      | some (_, due) =>
        if s.time.now + 33 * usUnits < due then s
        else if due < o.edgeUntil then armEdges p n (putSched k { o with armedTo := some due } s)
        else
          let q := (quarter due : Int) + trimOf x due
          let late := decide (q < (nowQ s : Int))
          let g : PinEdge := { at_ := if late then nowQ s else q.toNat, due := some due, action := 0, widthNs := o.width }
          let s := putSched k { o with armedTo := some due, edgeUntil := due + o.width * 65536 } s
          armEdges p n (putPin p { x with sched := x.sched ++ [g], late := if late then x.late + 1 else x.late } s)

/-- Drives the edges of a list that are due. -/
def driveDue (p : Nat) : List PinEdge → State → State
  | [], s => s
  | g :: rest, s =>
    if g.at_ ≤ nowQ s then driveDue p rest (driveEdge p g s)
    else driveDue p rest (modPin p (fun x => { x with sched := x.sched ++ [g] }) s)

/-- Edges of a pin that may leave now do so. -/
def servePin (p : Nat) (s : State) : State :=
  let s := if (pinOf s p).mode = 3 then armEdges p 64 s else s
  let l := (pinOf s p).sched
  driveDue p l (modPin p (fun x => { x with sched := [] }) s)

/-- R281: a level crosses the ball of pin `pin` (tile × 10 + pin): an edge, unless it lasts less than FILTER_NS or the level before it did,
so that nothing has changed. -/
def execPinInputEdge (pin : Nat) (level : BallLevel) (s : State) : Meaning := .next <|
  let s := modPin pin (fun x => { x with ball := level.high }) s
  let x := pinOf s pin
  if x.mode ≠ 1 || !serving s (pin / 10) || decide (level.lasted < x.filterNs) || x.level == level.high then s
  else
    let x := { x with level := level.high }
    if !(x.edge == 3 || (x.edge == 1) == level.high) then putPin pin x s
    else if (x.lastEdge.map fun t => decide (s.clock < t + x.minGapNs)).getD false then
      putPin pin { x with suppressed := x.suppressed + 1 } s
    else
      let x := { x with edges := x.edges + 1, lastNs32 := ns32 s, lastEdge := some s.clock }
      raise (pin / 10) (107 + pin % 10) (b2n level.high + 2 * b2n level.high + 2 ^ 8 * (x.edges.toNat % 2 ^ 24)) (putPin pin x s)

/-- Up to n events that wait at PIN_p act as one. -/
def takePinAction (pin n : Nat) (s : State) : State :=
  if !serving s (pin / 10) then s
  else match takeInput (pin / 10) (656 + pin % 10) n s with
  | none => s
  | some (e, s) =>
    let x := pinOf s pin
    if x.mode ≠ 2 then s
    else if x.timed then
      let q : Int := (e.time * 4 : Nat) + (x.delayNs * 4 : Nat) + trimOf x ((e.time + x.delayNs) * 65536)
      if q < (nowQ s : Int) + 200 then
        driveEdge pin { at_ := nowQ s, action := x.action, widthNs := x.widthNs } (putPin pin { x with late := x.late + 1 } s)
      else if x.action = 0 ∧ x.pulseEnd.isSome then putPin pin { x with pulseEnd := some (q.toNat + x.widthNs * 4) } s
      else putPin pin { x with sched := x.sched ++ [{ at_ := q.toNat, action := x.action, widthNs := x.widthNs }] } s
    else driveEdge pin { at_ := nowQ s, action := x.action, widthNs := x.widthNs } s

/-- R282: an action at PIN_p of pin `pin`. -/
def execPinAction (pin n : Nat) (s : State) : Meaning := .next (takePinAction pin n s)

/-- R282, R283: scheduled edges whose time has come leave the ball. -/
def execPinEdgeDue (pin : Nat) (s : State) : Meaning := .next (if serving s (pin / 10) then servePin pin s else s)

/-- R282: the pulse that drives a pin ends. -/
def execPinPulseEnd (pin : Nat) (s : State) : Meaning := .next <|
  let x := pinOf s pin
  match x.pulseEnd with
  | none => s
  | some t => if t ≤ nowQ s then driveLevel pin (idleLevel s pin) t (putPin pin { x with pulseEnd := none } s) else s

/-! ### Skew learning (R284, R285) -/

/-- The kept due time nearest to an exposure start (2^-16 ns). -/
def nearest (f : Nat) (e : Int) : List Nat → Option Int
  | [] => none
  | d :: rest =>
    match nearest f e rest with
    | none => some (e - d)
    | some x =>
      if (e - d).natAbs < x.natAbs ∨ ((e - d).natAbs = x.natAbs ∧ Config.freeRoundUp f) then some (e - d) else some x

/-- A frame of channel g closed with exposure start E (ns): every run on the channel pairs it, or skips it while class C work is
not admitted for it. -/
def pairFrame (g : Nat) (e : Int) (estimated : Bool) (admitted : Nat → Bool) (s : State) : State :=
  modEv s fun v => { v with skew := v.skew.map fun (p, r) =>
    (p, if r.channel ≠ g ∨ estimated ∨ r.frames ≤ r.pairs.length then r
        else match nearest s.free (e * 65536) (tget {} v.pins p).dueTimes with
          | some x => if admitted p && decide (x.natAbs ≤ r.windowNs * 65536) then { r with pairs := r.pairs ++ [x] }
                      else { r with skipped := r.skipped + 1 }
          | none => { r with skipped := r.skipped + 1 }) }

/-- A skew learning run ends without an installation. -/
def dropSkew (p : Nat) (a : Option Answer) (s : State) : State :=
  match tget? s.ev.skew p with
  | none => s
  | some r =>
    let s := modEv s fun v => { v with skew := tdel v.skew p }
    match a with
    | some a => finish r.wait a s
    | none => dropWait r.wait s

/-- The quotient of an integer by a positive number, rounded down or up (log entry 9). -/
def freeDiv (f : Nat) (a : Int) (b : Nat) : Int := a.fdiv b + (if a.fmod b ≠ 0 ∧ Config.freeRoundUp f then 1 else 0)

/-- Integer square root, by bits from 2^n down. -/
def isqrt (v : Nat) : Nat → Nat → Nat
  | 0, r => r
  | n + 1, r => isqrt v n (if (r + 2 ^ n) * (r + 2 ^ n) ≤ v then r + 2 ^ n else r)

/-- Rounds a / b to nearest, ties toward zero. -/
def roundTowardZero (a : Int) (b : Nat) : Int :=
  let q := (2 * a.natAbs + b - 1) / (2 * b)
  if a < 0 then -(q : Int) else q

def sumInt (l : List Int) : Int := l.foldl (· + ·) 0

/-- Standard deviation of numbers in 2^-16 ns, in 1/256 ns (log entries 9 and 10). -/
def stdQ8 (f : Nat) (l : List Int) : Nat :=
  let n := l.length
  let d := if Config.freeSampleStd f then n - 1 else n
  let ss := ((n : Int) * sumInt (l.map fun x => x * x) - sumInt l * sumInt l).toNat
  let v := ss / (n * d * 65536)
  let r := isqrt v 64 0
  r + (if r * r * (n * d * 65536) ≠ ss ∧ Config.freeRoundUp f then 1 else 0)

def trimMax : Int := 128000

/-- R284: FRAMES pairs are collected: statistics and NEW_TRIM are computed, and installed when INSTALL is 1. -/
def execSkewLearnDone (pin : Nat) (s : State) : Meaning := .next <|
  match tget? s.ev.skew pin with
  | none => s
  | some r =>
    if r.pairs.length < r.frames then s
    else
      let n := r.pairs.length
      let x := pinOf s pin
      let sum := sumInt r.pairs
      let trim := roundTowardZero ((x.trimQ2 + r.targetQ2) * ((16384 * n : Nat) : Int) - sum) (16384 * n)
      let clamped := decide (trim < -trimMax ∨ trimMax < trim)
      let trim := max (-trimMax) (min trimMax trim)
      let lo := r.pairs.foldl min (r.pairs.headD 0)
      let hi := r.pairs.foldl max (r.pairs.headD 0)
      let f := s.free
      let result := leBytes 2 n ++ leBytes 2 (satU 16 r.skipped) ++ leBytes 4 (unsigned 32 (freeDiv f sum (256 * n)))
        ++ leBytes 4 (stdQ8 f r.pairs) ++ leBytes 4 (unsigned 32 (freeDiv f lo 256)) ++ leBytes 4 (unsigned 32 (freeDiv f hi 256))
        ++ leBytes 4 (unsigned 32 x.trimQ2) ++ leBytes 4 (unsigned 32 trim) ++ leBytes 1 (b2n r.install + 2 * b2n clamped) ++ zeros 3
      let s := modEv (useFree s) fun v => { v with skew := tdel v.skew pin }
      let s := if r.install then
        bumpPkg (putPin pin (setTrim s.time.now trim x) s)
      else s
      finish r.wait { result := result } s

/-! ### Commands (Table 13-10) -/

/-- A queue of events that a handle names, on a tile. -/
def queueParamBad (s : State) (t h : Nat) : Bool :=
  handleKind h != 2 || handleTile h != t || decide (2048 ≤ handleIndex h) || (handleLive s h && !queueLive s h .event)

/-- INPUT names a task input that Table 13-1 or Table 14-3 gives. -/
def inputBad (s : State) (t i : Nat) : Bool :=
  if i ≤ 511 then !(chanOf s (t * 512 + i)).raw
  else if i ≤ 648 then false
  else if 656 ≤ i ∧ i ≤ 665 then false
  else if 672 ≤ i ∧ i ≤ 735 then t != 0
  else !(decide (768 ≤ i) && decide (i ≤ 775))

/-- The object that a subscription to an input refers to, by slot (R274); none for an input of the package. -/
def inputObject (s : State) (t i : Nat) : Option Nat :=
  if i ≤ 511 then some (slotOf 6 t i)
  else if i ≤ 575 then some (slotOf 1 t (i - 512))
  else if i ≤ 639 then some (slotOf 1 t (i - 576))
  else if i ≤ 647 then some (slotOf 7 t (i - 640))
  else if 768 ≤ i ∧ i ≤ 771 then some ((tget? s.mo.handles (t * 2 + i % 2)).getD (slotOf 5 t 2))
  else none

/-- Inputs whose subscription needs the master role (Table 13-1, Table 14-3). -/
def inputMaster (i : Nat) : Bool := (decide (656 ≤ i) && decide (i ≤ 735)) || i == 772 || i == 773

/-- Ownership that a subscription needs. -/
def inputOwner (s : State) (p t i : Nat) : Option Fail :=
  if inputMaster i then (if isMaster s p then none else some (eNotMaster s))
  else match inputObject s t i with
    | none => none
    | some k => if (obj? s k).isNone || owns s p k then none else some (eNotOwner s k)

def isQueueRoute (c : Cmd) : Bool := par c 8 2 == 0xFFFF

/-- Tile that takes the route's event in (R272). -/
def routeTile (c : Cmd) : Nat := if par c 0 1 = 0 then sourceTile (par c 4 2) else par c 6 1

def sourceBad (s : State) (x : Nat) : Bool :=
  if x < 1024 then decide (tiles s ≤ x / 128) else !(decide (0x0800 ≤ x) && decide (x ≤ 0x080F))

def routeForm (c : Cmd) : RouteForm :=
  if par c 0 1 = 0 then .publication (par c 4 2)
  else if isQueueRoute c then .toQueue (queueOfHandle (par c 12 4))
  else .toInput (par c 8 2)

def opEvRouteCreate : OpDef where
  code := 0x0A01
  modes := mReady
  len := some 16
  room := 4
  bad c s :=
    let sub := par c 0 1 == 1
    [(0, decide (1 < par c 0 1)), (2, !isZero c.params 2 2),
     (4, if sub then decide (par c 4 2 ≠ 0) else sourceBad s (par c 4 2)),
     (6, if sub then decide (tiles s ≤ par c 6 1) else decide (par c 6 1 ≠ 0)), (7, !isZero c.params 7 1),
     (8, if sub then !isQueueRoute c && inputBad s (par c 6 1) (par c 8 2) else decide (par c 8 2 ≠ 0)),
     (10, !isZero c.params 10 2),
     (12, if sub then (if isQueueRoute c then queueParamBad s (par c 6 1) (par c 12 4) else decide (par c 12 4 ≠ 0))
          else decide (par c 12 4 ≠ 0))]
  refs c _ := if par c 0 1 ≠ 0 && isQueueRoute c then [par c 12 4] else []
  more c s := if par c 0 1 = 0 || isQueueRoute c then none else inputOwner s c.port (par c 6 1) (par c 8 2)
  tile c _ := some (routeTile c)
  wrong c s := !serving s (routeTile c)
    || (par c 0 1 == 1 && !isQueueRoute c && ((inputObject s (par c 6 1) (par c 8 2)).map fun k => (obj? s k).isNone).getD false)
  busy c s := s.ev.routes.any fun (k, r) =>
    k / 4096 == routeTile c && r.form == routeForm c && r.channel == par c 1 1 && r.queueHandle == par c 12 4
  short c s := (freeIndex s 4 (routeTile c) 0 4096).isNone
  act c s :=
    let t := routeTile c
    let i := (freeIndex s 4 t 0 4096).getD 0
    let k := slotOf 4 t i
    let r : Route := { form := routeForm c, channel := par c 1 1, from_ := ns s + 1000, queueHandle := par c 12 4 }
    let s := modEv (createObj k c.port s) fun v => { v with routes := tput v.routes (t * 4096 + i) r }
    .done s { handle := some (handleOf s k), result := leBytes 4 ((ns s + 1000) % 2 ^ 32) }

def execEvRouteCreate (c : Cmd) (s : State) : Meaning := .next (runOp opEvRouteCreate c s)

def targetIdle (c : Cmd) (s : State) : Bool := !serving s (handleTile (tgt c))

/-- CONFIG_GEN of TARGET before it is destroyed. -/
def genBefore (c : Cmd) (s : State) : Option U32 := (obj? s (tslot c)).map (·.gen)

def opEvRouteDestroy : OpDef where
  code := 0x0A02
  cond := true
  modes := mReady
  kinds := [4]
  len := some 0
  room := 4
  wrong := targetIdle
  act c s := .done (destroyRoute (tslot c) s) { gen := genBefore c s, result := leBytes 4 ((ns s + 1000) % 2 ^ 32) }

def execEvRouteDestroy (c : Cmd) (s : State) : Meaning := .next (runOp opEvRouteDestroy c s)

/-- The create layout of a route (Table 13-10). -/
def routeLayout (k : Nat) (r : Route) : List Byte :=
  match r.form with
  | .publication src => [0, BitVec.ofNat 8 r.channel, 0, 0] ++ leBytes 2 src ++ zeros 10
  | .toInput i => [1, BitVec.ofNat 8 r.channel, 0, 0, 0, 0] ++ leBytes 2 (k / 4096) ++ leBytes 2 i ++ zeros 6
  | .toQueue _ => [1, BitVec.ofNat 8 r.channel, 0, 0, 0, 0] ++ leBytes 2 (k / 4096) ++ leBytes 2 0xFFFF ++ zeros 2 ++ leBytes 4 r.queueHandle

def opEvRouteQuery : OpDef where
  code := 0x0A03
  query := true
  idem := true
  modes := mSafe
  kinds := [4]
  len := some 0
  room := 24
  wrong := targetIdle
  act c s :=
    let n := handleTile (tgt c) * 4096 + handleIndex (tgt c)
    let r := tget { form := .publication 0, channel := 0, from_ := 0 } s.ev.routes n
    .done s { result := routeLayout n r ++ leBytes 1 (((obj? s (tslot c)).map (·.owner)).getD 0) ++ leBytes 1 (b2n r.cleared)
        ++ zeros 2 ++ leBytes 4 r.delivered.toNat }

def execEvRouteQuery (c : Cmd) (s : State) : Meaning := .next (runOp opEvRouteQuery c s)

/-- The pin that the first two parameter bytes name. -/
def pinParam (c : Cmd) : Nat := par c 0 1 * 10 + par c 1 1

def pinSettings (c : Cmd) (x : Pin) : Pin := { x with
  mode := par c 2 1, edge := par c 3 1, action := par c 4 1, timed := bit (par c 5 1) 0, invert := bit (par c 5 1) 1
  filterNs := par c 8 4, minGapNs := par c 12 4, widthNs := par c 16 4, delayNs := par c 20 4
  trimQ2 := signed 32 (par c 24 4) }

/-- EV_PIN_SET takes effect: a change of mode returns the pin to its idle level, releases it or begins to drive it (R280). -/
def setPin (p : Nat) (x : Pin) (s : State) : State :=
  let old := pinOf s p
  let s := putPin p (setTrim s.time.now x.trimQ2 { x with trimQ2 := old.trimQ2 }) s
  if x.mode = old.mode then s
  else if drives x then (if drives old then idlePin p s else beginDriving p s)
  else
    let s := if drives old then releasePin p s else s
    if x.mode = 1 then modPin p (fun x => { x with level := x.ball }) s else s

def trimBad (v : Nat) : Bool := decide (signed 32 v < -trimMax) || decide (trimMax < signed 32 v)

def opEvPinSet : OpDef where
  code := 0x0A10
  idem := true
  master := true
  cond := true
  modes := mReady
  len := some 32
  bad c s :=
    [(0, decide (tiles s ≤ par c 0 1)), (1, decide (9 < par c 1 1)), (2, decide (3 < par c 2 1)),
     (3, decide (par c 3 1 = 0) || decide (3 < par c 3 1)), (4, decide (3 < par c 4 1)), (5, decide (4 ≤ par c 5 1)),
     (6, !isZero c.params 6 2), (8, decide (10000 < par c 8 4)),
     (12, decide (par c 12 4 < 40) || decide (1000000000 < par c 12 4)),
     (16, decide (par c 16 4 < 4) || decide (1000000000 < par c 16 4)),
     (20, decide (par c 20 4 < 400) || decide (1000000000 < par c 20 4)),
     (24, trimBad (par c 24 4)), (28, !isZero c.params 28 4)]
  tile c _ := some (par c 0 1)
  first c s :=
    let p := pinParam c
    takePinAction p (eventsWaiting s (p / 10) (656 + p % 10)) s
  wrong c s := !serving s (par c 0 1)
  busy c s := (pinOf s (pinParam c)).driver.isSome && decide (par c 2 1 ≠ (pinOf s (pinParam c)).mode)
  act c s :=
    let p := pinParam c
    if pinSettings c (pinOf s p) = pinOf s p then .done s {} else .done (bumpPkg (setPin p (pinSettings c (pinOf s p)) s)) {}

def execEvPinSet (c : Cmd) (s : State) : Meaning := .next (runOp opEvPinSet c s)

/-- Registers of a pin window (Table 13-8), by offset / 4. -/
def pinReg (s : State) (p : Nat) : Nat → Nat
  | 0 => let x := pinOf s p
    x.mode + 8 * x.edge + 32 * x.action + 128 * b2n x.timed + 256 * b2n x.invert + 512 * b2n x.driver.isSome + 1024 * x.driver.getD 0
  | 1 => (pinOf s p).filterNs
  | 2 => (pinOf s p).minGapNs
  | 3 => (pinOf s p).widthNs
  | 4 => (pinOf s p).delayNs
  | 5 => unsigned 18 (pinOf s p).trimQ2
  | 6 => b2n (pinOf s p).level
  | 7 => (pinOf s p).edges.toNat
  | 8 => (pinOf s p).suppressed.toNat
  | 9 => (pinOf s p).late.toNat
  | 10 => (pinOf s p).lastNs32.toNat
  | _ => 0

def opEvPinQuery : OpDef where
  code := 0x0A11
  query := true
  idem := true
  modes := mSafe
  len := some 4
  room := 44
  bad c s := [(0, decide (tiles s ≤ par c 0 1)), (1, decide (9 < par c 1 1)), (2, !isZero c.params 2 2)]
  tile c _ := some (par c 0 1)
  wrong c s := !serving s (par c 0 1)
  act c s := .done s { result := windowBytes (pinReg s (pinParam c)) 11 }

def execEvPinQuery (c : Cmd) (s : State) : Meaning := .next (runOp opEvPinQuery c s)

def opEvGroupSet : OpDef where
  code := 0x0A20
  idem := true
  master := true
  cond := true
  modes := mReady
  len := some 8
  room := 4
  bad c _ := [(4, decide (word (par c 4 4) &&& ~~~(word (par c 0 4)) ≠ 0))]
  act c s :=
    if par c 0 4 = 0 then .done s { result := leBytes 4 0 }
    else .done (bumpPkg (scheduleGroup { time := ns s + 1000, byCommand := true, mask := par c 0 4, value := par c 4 4 } s))
      { result := leBytes 4 ((ns s + 1000) % 2 ^ 32) }

def execEvGroupSet (c : Cmd) (s : State) : Meaning := .next (runOp opEvGroupSet c s)

def opEvStatus : OpDef where
  code := 0x0A21
  query := true
  idem := true
  modes := mSafe
  len := some 0
  room := 8
  act _ s := .done s { result := leBytes 4 s.ev.groups.toNat ++ leBytes 4 s.ev.groupNs32.toNat }

def execEvStatus (c : Cmd) (s : State) : Meaning := .next (runOp opEvStatus c s)

/-- EV_PUBLISH of a port raises an event that tile 0 publishes on a channel (R270). -/
def raisePublish (p chan : Nat) (payload : U32) (s : State) : State :=
  if serving s 0 then
    let q := tget 0 s.ev.srcSeq (hostSource p) + 1
    enqueueEv 0 { source := hostSource p, time := ns s, payload := payload, hops := 0, seq := q, publish := some chan, edge := s.clock }
      (modEv s fun v => { v with srcSeq := tput v.srcSeq (hostSource p) q })
  else s

def opEvPublish : OpDef where
  code := 0x0A30
  master := true
  modes := mReady
  len := some 8
  room := 4
  bad c _ := [(1, !isZero c.params 1 3)]
  act c s := .done (raisePublish c.port (par c 0 1) (word (par c 4 4)) s) { result := leBytes 4 (ns32 s).toNat }

def execEvPublish (c : Cmd) (s : State) : Meaning := .next (runOp opEvPublish c s)

/-- Global number of the stream channel that a handle names. -/
def chanOfHandle (h : Nat) : Nat := handleTile h * 64 + handleIndex h
def channelOf (s : State) (g : Nat) : Channel := tget {} s.st.channels g

def opEvSkewLearn : OpDef where
  code := 0x0A40
  modes := 0xC00
  len := some 24
  room := 32
  own := some fun c s => if bit (par c 10 1) 0 && !isMaster s c.port then some (eNotMaster s) else none
  bad c s :=
    let h := par c 4 4
    [(0, decide (tiles s ≤ par c 0 1)), (1, decide (9 < par c 1 1)), (2, !isZero c.params 2 2),
     (4, decide (handleKind h ≠ 1) || decide (handleTile h ≠ par c 0 1) || decide (64 ≤ handleIndex h)),
     (8, decide (par c 8 2 < 16) || decide (4096 < par c 8 2)), (10, decide (2 ≤ par c 10 1)), (11, !isZero c.params 11 1),
     (12, trimBad (par c 12 4)), (16, decide (par c 16 4 < 100) || decide (1000000000 < par c 16 4)), (20, !isZero c.params 20 4)]
  more c s :=
    let h := par c 4 4
    if !handleLive s h then some (eStale s h)
    else if !bit (par c 10 1) 0 && !owns s c.port (handleSlot h) then some (eNotOwner s (handleSlot h))
    else none
  tile c _ := some (par c 0 1)
  wrong c s := !serving s (par c 0 1) || (pinOf s (pinParam c)).mode != 3
    || (channelOf s (chanOfHandle (par c 4 4))).active.tsMode != 0
  keys c _ := [handleSlot (par c 4 4), keyPin (pinParam c)]
  act c s :=
    let s' := ((channelOf s (chanOfHandle (par c 4 4))).frames.filter (!·.closed)).foldl (fun s f =>
      addJob (par c 0 1) (.skew (pinParam c) (chanOfHandle (par c 4 4)) f.seq) 1 s) s
    .wait (modEv (addWait 0x0A40 c [handleSlot (par c 4 4), keyPin (pinParam c)] 32 s') fun v => { v with
      skew := tput v.skew (pinParam c) {
        wait := s.eng.nextWait, channel := chanOfHandle (par c 4 4), frames := par c 8 2, install := bit (par c 10 1) 0
        targetQ2 := signed 32 (par c 12 4), windowNs := par c 16 4 } })

def execEvSkewLearn (c : Cmd) (s : State) : Meaning := .next (runOp opEvSkewLearn c s)

end Sys2Proof.Machine
end

