-- ==== Sys2Proof/Machine/Rings.lean ====
section
/-!
DEFINITION. Rings and segments of the frame store (R157 to R170, R174): pages, room for a frame, triggers, freezing, release.
-/
namespace Sys2Proof.Machine
open Sys2Proof

def chanSlot (g : Nat) : Nat := slotOf 1 (g / 64) (g % 64)
def putChannel (g : Nat) (c : Channel) (s : State) : State := { s with st := { s.st with channels := tput s.st.channels g c } }
def modChannel (g : Nat) (f : Channel → Channel) (s : State) : State := putChannel g (f (channelOf s g)) s
/-! ### Modes (R19, R21, R22, R85) -/

/-- The channel's tile opens frames: its mode does, and it is IN_SERVICE or its quiesce order has not reached TC. -/
def opening (s : State) (t : Nat) : Bool :=
  opensFrames (tileMode s t) &&
    (match service s t with
     | .inService => true
     | .draining => ((tget? s.pkg.tileOps t).map fun o => decide (o.kind = .quiesce) && !o.committed).getD false
     | _ => false)

/-- Modes in which a frame is delivered live, and recorded, by its channel's settings (R19). -/
def deliversLive (m : Mode) : Bool := opensFrames m && decide (m ≠ .record)
def recordsFrames : Mode → Bool
  | .record | .hybrid | .test => true
  | _ => false

/-! ### Pages (R157 to R162) -/

def poolTotal : Nat := 747008
def indexTotal : Nat := 4194304

def ringOf (s : State) (g : Nat) : Ring := tget {} s.fs.rings g
def modRing (g : Nat) (f : Ring → Ring) (s : State) : State := modFs s fun x => { x with rings := tmod {} x.rings g f }
def modSeg (k : Nat) (f : Segment → Segment) (s : State) : State :=
  modFs s fun x => { x with segs := match tget? x.segs k with
    | some g => tput x.segs k (f g)
    | none => x.segs }

def sumOver {α : Type} (f : α → Nat) (l : List α) : Nat := (l.map f).foldl (· + ·) 0

def tileRings (s : State) (t : Nat) : List (Nat × Ring) := s.fs.rings.filter fun (g, _) => decide (g / 64 = t)
def tileSegs (s : State) (t : Nat) : List (Nat × Segment) := s.fs.segs.filter fun (k, _) => decide (k / 16384 = t)

/-- Pages that segments of a tile hold, index entries in use, free pages. -/
def layerPages (s : State) (t : Nat) : Nat := sumOver (·.2.pages) (tileSegs s t)
def indexUsed (s : State) (t : Nat) : Nat := sumOver (·.2.frames.length) (tileRings s t) + sumOver (·.2.frames.length) (tileSegs s t)
def poolFree (s : State) (t : Nat) : Nat :=
  poolTotal - sumOver (·.2.pages) (tileRings s t) - layerPages s t - (govTile s t).backlog

def usedPages (r : Ring) : Nat := sumOver (·.pages) r.frames
def unusedPages (r : Ring) : Nat := r.pages - usedPages r

/-- Segments of a channel in any state, and its active segment (R163). -/
def chanSegs (s : State) (g : Nat) : List (Nat × Segment) :=
  s.fs.segs.filter fun (_, x) => decide (x.channel = g) && decide (x.chanHandle = handleOf s (chanSlot g))
def activeSeg (s : State) (g : Nat) : Option (Nat × Segment) :=
  (chanSegs s g).find? fun (_, x) => decide (x.state = .armed ∨ x.state = .triggered)

def lastOf {α : Type} (n : Nat) (l : List α) : List α := l.drop (l.length - n)

/-- E ≤ T (R165). -/
def isPre (t : Int) (r : Rec) : Bool := decide (r.expo * 65536 ≤ t)

/-- The pre set that a ring gives a triggered segment now (R166). -/
def preSet (x : Segment) (r : Ring) : List U64 :=
  match x.pre with
  | some l => l
  | none => (lastOf x.preN (r.frames.filter (isPre (x.t.getD 0)))).map (·.seq)

/-- FRAME_SEQ of the frames that the active segment protects (R167). -/
def protectedSeqs (s : State) (g : Nat) : List U64 :=
  let r := ringOf s g
  let newest (x : Segment) : List U64 := (lastOf (x.preN + 16) r.frames).map (·.seq)
  match activeSeg s g with
  | none => []
  | some (_, x) =>
    if x.state = .armed then newest x
    else (if x.pre.isSome then [] else newest x) ++ preSet x r ++ x.post

/-- The oldest frame that no segment protects. -/
def oldestFree (s : State) (g : Nat) : Option Rec :=
  (ringOf s g).frames.find? fun f => !(protectedSeqs s g).contains f.seq

def dropRec (g : Nat) (q : U64) (s : State) : State := modRing g (fun r => { r with frames := r.frames.filter fun f => decide (f.seq ≠ q) }) s

/-- SHORT and OVER after a change of pages. -/
def ringFlags (r : Ring) : Ring := { r with short := r.short && decide (r.pages < r.target), overTarget := decide (r.target < r.pages) }

/-- A ring takes pages from the free pool. -/
def growRing (g n : Nat) (s : State) : State := modRing g (fun r => ringFlags { r with pages := r.pages + n }) s

/-- A ring above its target gives back unused pages, then those of its oldest unprotected frames (R161, R162). -/
def trimRing (g : Nat) : Nat → State → State
  | 0, s => s
  | n + 1, s =>
    let r := ringOf s g
    if r.pages ≤ r.target then modRing g ringFlags s
    else if unusedPages r ≠ 0 then trimRing g n (modRing g (fun r => { r with pages := r.pages - min (unusedPages r) (r.pages - r.target) }) s)
    else match oldestFree s g with
      | some f => trimRing g n (dropRec g f.seq s)
      | none => modRing g ringFlags s

def trim (g : Nat) (s : State) : State := trimRing g (2 * (ringOf s g).frames.length + 3) s

/-- The ring refills toward its target from the free pool (R167, R169). -/
def refillRing (g : Nat) (s : State) : State :=
  let r := ringOf s g
  let n := min (r.target - r.pages) (poolFree s (g / 64))
  modRing g (fun r => { ringFlags { r with pages := r.pages + n } with short := decide (r.pages + n < r.target) }) s

/-- Pages that return to the pool serve rings that are SHORT, in ascending channel index (R169, R330). -/
def refillShort (t : Nat) (s : State) : State :=
  ((tileRings s t).filter fun (_, r) => r.short).foldl (fun s (g, _) => refillRing g s) s

/-! ### Segments (R163 to R169) -/

/-- Lowest free segment index of a tile (R44). -/
def freeSegment (s : State) (t : Nat) : Option Nat := freeIndex s 3 t 0 16384

/-- A segment is armed on a channel for a port: its number, when there is one free. -/
def armSegment (g : Nat) (x : Segment) (o : Obj) (s : State) : Option (Nat × State) :=
  if 256 ≤ (chanSegs s g).length then none
  else (freeSegment s (g / 64)).map fun i =>
    let k := g / 64 * 16384 + i
    let s := modEng s fun e => { e with objs := tput e.objs (segSlot k) { o with gen := 1, faulted := false } }
    (k, modFs s fun f => { f with segs := tput f.segs k x })

/-- Bytes of a tag with others in their place. -/
def patch (b : List Byte) (off : Nat) (v : List Byte) : List Byte := b.take off ++ v ++ b.drop (off + v.length)

/-- Sets FLAGS of a tag. -/
def orFlags (b : List Byte) (m : Nat) : List Byte := patch b 88 (leBytes 4 (le b 88 4 ||| m))

/-- The owner of a successor: the port of its segment; orphaned with the channel's deadline (R168, R175). -/
def successorObj (s : State) (g k : Nat) : Obj :=
  let o := (obj? s (segSlot k)).getD { owner := 0 }
  if o.orphaned then
    match obj? s (chanSlot g) with
    | some c => if c.orphaned then { o with deadline := c.deadline, deadlineNs32 := c.deadlineNs32 } else o
    | none => o
  else o

/-- A frame as a layer holds it: tag rewritten with SEGMENT and POST (R167). -/
def layerRec (handle : Nat) (post : Bool) (f : Rec) : Rec :=
  let b := patch f.tag 80 (leBytes 4 handle)
  { f with post := post, tag := if post then orFlags b 64 else b }

/-- What makes a segment freeze (Table 8-3): its post frames are complete, row 5 of Table 8-2 cuts it, or it stops waiting for more. -/
inductive FreezeBy where
  | complete | cut | ended
deriving DecidableEq, Repr

/-- A segment freezes (R167): frames and pages pass to it, the ring refills, SEG_FROZEN, and its successor is armed (R168). -/
def freezeSegment (k : Nat) (by_ : FreezeBy) (s : State) : State :=
  match tget? s.fs.segs k with
  | none => s
  | some x =>
    let g := x.channel
    let t := g / 64
    let r := ringOf s g
    let pre := (preSet x r).filter fun q => r.frames.any fun f => decide (f.seq = q)
    let post := x.post.filter fun q => r.frames.any fun f => decide (f.seq = q)
    let mine (f : Rec) : Bool := pre.contains f.seq || post.contains f.seq
    let frames := (r.frames.filter mine).map fun f => layerRec (segHandle s k) (post.contains f.seq) f
    let pages := sumOver (·.pages) frames
    let x' : Segment := { x with
      state := .frozen, pre := some pre, post := post, frames := frames, pages := pages, cut := decide (by_ = .cut)
      preShort := decide (pre.length < x.preN), postShort := decide (by_ = .ended ∨ post.length < x.postM), frozenNs32 := ns32 s }
    let s := modFs s fun f => { f with segs := tput f.segs k x' }
    let s := modRing g (fun r => { r with frames := r.frames.filter fun f => !mine f, pages := r.pages - pages }) s
    let s := refillRing g s
    let lack := (ringOf s g).target - (ringOf s g).pages
    let s := if lack = 0 then s else raise t 64 (g % 64 + 2 ^ 8 * satU 20 lack) s
    let s := trim g s
    let fresh : Segment := {
      channel := g, chanHandle := x.chanHandle, preN := x.preN, postM := x.postM, offsetNs := x.offsetNs
      postWaitMs := x.postWaitMs, autoRearm := true }
    let next := if x.autoRearm then armSegment g fresh (successorObj s g k) s else none
    let s := (next.map (·.2)).getD s
    raise t 62 (segHandle s k % 2 ^ 25 + 2 ^ 25 * b2n x'.cut + 2 ^ 26 * b2n x'.preShort + 2 ^ 27 * b2n x'.postShort
      + 2 ^ 28 * b2n next.isSome) s

/-- A triggered segment freezes once it has all its post frames and its pre set is closed (Table 8-3, R166). -/
def checkSegment (k : Nat) (s : State) : State :=
  match tget? s.fs.segs k with
  | some x => if x.state = .triggered ∧ x.pre.isSome ∧ x.postM ≤ x.post.length then freezeSegment k .complete s else s
  | none => s

/-- An ARMED segment is triggered with T in 2^-16 ns (R164, R166); `hops` of SEG_TRIGGERED (Table 13-3). A ring above its target gives
back what is no longer protected (R161). -/
def triggerSegment (k : Nat) (at_ : Int) (hops : Nat) (s : State) : State :=
  match tget? s.fs.segs k with
  | none => s
  | some x =>
    let r := ringOf s x.channel
    let after := (r.frames.filter fun f => !isPre at_ f).map (·.seq)
    let x := { x with state := .triggered, t := some at_, acceptedAt := s.clock, post := after.take x.postM }
    let x := if after.isEmpty then x else { x with pre := some (preSet x r) }
    let s := modFs s fun f => { f with segs := tput f.segs k x }
    trim x.channel (checkSegment k (raiseEv (k / 16384) (tileSource (k / 16384) 61) (ns s) (word (segHandle s k % 2 ^ 25)) hops s))

/-- A frame record that became valid is placed in the triggered segment (R165, R166). -/
def placeRec (g : Nat) (f : Rec) (s : State) : State :=
  match activeSeg s g with
  | none => s
  | some (k, x) =>
    if x.state ≠ .triggered then s
    else if isPre (x.t.getD 0) f then
      if x.pre.isSome then modRing g (fun r => { r with latePre := r.latePre + 1 }) s else s
    else
      let pre := preSet x (ringOf s g)
      checkSegment k (modSeg k (fun x => { x with
        pre := some pre, post := if x.post.length < x.postM then x.post ++ [f.seq] else x.post }) s)

/-- An overwritten frame (row 3 of Table 8-2). -/
def overwrite (g : Nat) (f : Rec) (s : State) : State :=
  modRing g (fun r => { r with overwritten := r.overwritten + 1 }) (dropRec g f.seq s)

/-- Finds room for a frame of `p` pages, down Table 8-2 (R161). -/
def ringRoom (g p : Nat) : Nat → State → Bool × State
  | 0, s => (false, s)
  | n + 1, s =>
    let t := g / 64
    let entry := decide (indexUsed s t < indexTotal)
    let r := ringOf s g
    let s := if unusedPages r < p ∧ r.pages < r.target then
        growRing g (min (p - unusedPages r) (min (r.target - r.pages) (poolFree s t))) s
      else s
    if entry && decide (p ≤ unusedPages (ringOf s g)) then (true, s)
    else match oldestFree s g with
      | some f => ringRoom g p n (overwrite g f s)
      | none =>
        let lack := p - unusedPages (ringOf s g)
        let s := if lack ≤ poolFree s t then growRing g lack s else s
        if entry && decide (p ≤ unusedPages (ringOf s g)) then (true, s)
        else match activeSeg s g with
          | none => (false, s)
          | some (k, x) =>
            if x.state = .armed then
              match (ringOf s g).frames with
              | [] => (false, s)
              | f :: _ => ringRoom g p n (overwrite g f s)
            else ringRoom g p n (freezeSegment k .cut s)

/-- STORE_FULL, at most once per millisecond per channel (R161, R177). -/
def storeFull (g : Nat) (s : State) : State :=
  let s := modRing g (fun r => { r with dropped := r.dropped + 1, full := true, fullCount := r.fullCount + 1 }) s
  let r := ringOf s g
  if msPassed s r.fullAt then
    raise (g / 64) 63 (g % 64 + 2 ^ 8 * satU 24 r.fullCount) (modRing g (fun r => { r with fullAt := some s.clock, fullCount := 0 }) s)
  else s

/-- A frame record is written to its channel's ring (R158, R160, R161). -/
def writeRec (g : Nat) (f : Rec) (s : State) : State :=
  if (ringOf s g).target = 0 then modRing g (fun r => { r with dropped := r.dropped + 1 }) s
  else
    let (ok, s) := ringRoom g f.pages (2 * (ringOf s g).frames.length + 8) s
    if ok then
      let s := modRing g (fun r => { r with frames := r.frames ++ [f], full := false, writing := true, written := r.written + 1 }) s
      trim g (placeRec g f s)
    else storeFull g (trim g s)

/-- The ring of a channel is written: in mode, tile and settings, or with frames that are still to be recorded (R160, R174). -/
def ringWrites (s : State) (g : Nat) : Bool :=
  let c := channelOf s g
  (opening s (g / 64) && recordsFrames (tileMode s (g / 64)) && c.active.layout.record)
    || c.frames.any (fun f => f.record && !f.recorded && !f.dropped)

/-- Notes whether the ring of a channel is written; at the moment it stops, its TRIGGERED segment freezes (R174). -/
def settleRing (g : Nat) (s : State) : State :=
  let now := ringWrites s g
  if now = (ringOf s g).writing then s
  else
    let s := modRing g (fun r => { r with writing := now }) s
    match activeSeg s g with
    | some (k, x) => if !now && decide (x.state = .triggered) then freezeSegment k .ended s else s
    | none => s

/-- A segment ends: protection dropped or pages to the pool, mappings removed, handle destroyed (Table 8-3, R169, R176). -/
def dropSegment (k : Nat) (s : State) : State :=
  match tget? s.fs.segs k with
  | none => s
  | some x =>
    let live := decide (x.state = .armed ∨ x.state = .triggered)
    let s := modFs s fun f => { f with segs := tdel f.segs k, maps := f.maps.filter fun m => decide (m.segment ≠ k) }
    let s := dropObj (segSlot k) s
    if live then trim x.channel s else refillShort (k / 16384) s

end Sys2Proof.Machine
end

