-- ==== Sys2Proof/Machine/Frames.lean ====
section
/-!
DEFINITION. Stream channels as the receiver and the assembler share them: events of chapters 05 and 06, configuration hand-over
(R125 to R127), the frame leader (R109 to R117), the payload of a block, and the closing of a block (R98 to R100, R110).
-/
namespace Sys2Proof.Machine
open Sys2Proof

def countChannel (g : Nat) (f : ChanCounters → ChanCounters) (s : State) : State :=
  modChannel g (fun c => { c with counters := f c.counters }) s

/-- An event of a channel: local source, count saturated at 24 bits (R105, R129). -/
def raiseChan (g l count : Nat) (s : State) : State := raise (g / 64) l (g % 64 + 2 ^ 8 * satU 24 count) s

/-! ### Configuration hand-over (R125 to R127) -/

/-- CONFIG_GEN of a channel after a command gives it a shadow set (R44, R127): it counts a set that differs. -/
def genAfter (s : State) (g : Nat) (set : ChanSet) : U32 :=
  let ch := channelOf s g
  let now := ((obj? s (chanSlot g)).map (·.gen)).getD 1
  if { set with gen := ch.shadow.gen } = ch.shadow then now else nextGen now

/-- A set as it is sent to a commit after another: an ROI that differs in a field from the earlier set's takes the set's CONFIG_GEN
(R182). -/
def alignRois (old set : ChanSet) : ChanSet :=
  { set with rois := set.rois.map fun (n, r) => (n,
      match tget? old.rois n with
      | some o => if { r with gen := o.gen } = o then o else { r with gen := set.gen }
      | none => { r with gen := set.gen }) }

/-- A command that changes a per-frame setting of a channel: the new shadow set is sent to its commit, for which the command
waits, or it is staged (R126, R127). HANDLE and CONFIG_GEN of the reply may be those of another object. -/
def perFrameOn (op : Nat) (c : Cmd) (g room : Nat) (set : ChanSet) (build : Bool) (result : List Byte) (handle : Option Nat)
    (gen : Option U32) (s : State) : Res :=
  let set := { set with gen := genAfter s g set }
  let staging := (channelOf s g).staging
  let s := modObj (chanSlot g) (fun o => { o with gen := set.gen }) s
  if staging then
    .done (modChannel g (fun ch => { ch with shadow := set }) s) { handle := handle, gen := some (gen.getD set.gen), result := result }
  else
    let set := alignRois (channelOf s g).sent set
    .wait (modChannel g (fun ch => { ch with
        shadow := set, sent := set
        commits := ch.commits ++
          [{ set := set, wait := some s.eng.nextWait, building := build, result := result, handle := handle, gen := gen }] })
      (addWait op c [] room s))

def perFrame (op : Nat) (c : Cmd) (room : Nat) (set : ChanSet) (build : Bool) (result : List Byte) (s : State) : Res :=
  perFrameOn op c (chanOfHandle (tgt c)) room set build result none none s

/-- The frame's slices have all left the codec island, or it was dropped before any was dealt (R141). -/
def leftIsland (height : Nat) (f : Frame) : Bool := f.slices.isEmpty && (f.dropped || decide (height ≤ f.lines.length))

/-- A channel command fails with E_STATE while its tile does not serve (R107, R130). -/
def chanIdle (c : Cmd) (s : State) : Bool := !serving s (handleTile (tgt c))

/-! ### The payload of a block (R98, R100, R112) -/

def isPresent : PosState → Bool
  | .present _ _ _ => true
  | .givenUp _ => false

/-- Highest position of a block that is present or given up. -/
def lastKnown (b : Block) : Nat := b.positions.foldl (fun m x => max m x.1) 0

/-- The block is an image block without chunk data. -/
def plainImage (b : Block) : Bool := (b.leader.map fun l => decide (l.payloadType = 1)).getD false

/-- Data positions present, with receive stamp and payload, in position order. -/
def dataPackets (b : Block) : List (Nat × Nat × List Byte) :=
  b.positions.filterMap fun (q, x) =>
    match x with
    | .present st d _ => if q = 0 ∨ b.trailer = some q then none else some (q, st, d)
    | .givenUp _ => none

/-- Highest data position present. -/
def topData (b : Block) : Nat := (dataPackets b).foldl (fun m x => max m x.1) 0

/-- Position of the trailer: received, or known from the leader's size fields and P (R93). -/
def trailerOf (set : ChanSet) (b : Block) : Option Nat :=
  match b.trailer with
  | some t => some t
  | none =>
    match b.leader, b.plen with
    | some l, some p =>
      if l.payloadType = 1 ∧ p ≠ 0 then
        some (max ((imageSize (pixFmt set.layout.pixelFormat) set.layout.width l + p - 1) / p) (topData b) + 1)
      else none
    | _, _ => none

/-- P once a data packet is known not to be the last: the first received of those that are (R112). -/
def findP (set : ChanSet) (b : Block) : Option Nat :=
  let d := dataPackets b
  let top := topData b
  let size := (b.leader.map (imageSize (pixFmt set.layout.pixelFormat) set.layout.width)).getD 0
  let known (q len : Nat) : Bool := decide (q < top) || (b.trailer.map fun t => decide (q + 1 < t)).getD false
    || (plainImage b && decide (b.trailer = none) && decide (q * len < size))
  let first := (d.filter fun (q, _, x) => known q x.length).foldl (fun (m : Option (Nat × Nat)) (_, st, x) =>
    match m with
    | some (st', l) => if st' ≤ st then some (st', l) else some (st, x.length)
    | none => some (st, x.length)) none
  first.map (·.2)

/-- The payload of data positions 1 to n in position order (R112). `last` is the last data position, once known. The model's own choice: a
last data position that was given up takes what the image still lacks, at most P bytes, and no chunk bytes; R99 and R112 speak of the length
it would have had, which a receiver of chunk data cannot know (log entry 90). -/
def rawPayload (f : Nat) (size : Nat) (b : Block) (last : Option Nat) (n : Nat) : List (Option Byte) :=
  match b.plen with
  | none => []
  | some p =>
    let pad := Config.freeByte f
    if n ≠ 0 ∧ last = some n then
      layPositions pad p b.positions (n - 1) ++
        (match tget? b.positions n with
         | some (.present _ d _) => (d.take p).map some
         | _ => List.replicate (min p (size - (n - 1) * p)) none)
    else layPositions pad p b.positions n

/-- Payload that the assembler has in release order, while the block is open. -/
def blockPayload (s : State) (set : ChanSet) (l : Leader) (b : Block) : List (Option Byte) :=
  let last := (trailerOf set b).map (· - 1)
  let n := resolvedRun b.positions 1 (lastKnown b)
  let n := match last with
    | some l => min n l
    | none => n
  rawPayload s.free (imageSize (pixFmt set.layout.pixelFormat) set.layout.width l) b last n

def releasedPayload (s : State) (fr : Frame) (b : Block) : List (Option Byte) := blockPayload s fr.set fr.leader b

/-- A position known to be a data position was given up: not the leader, not the trailer. -/
def dataGivenUp (set : ChanSet) (b : Block) : Bool :=
  b.positions.any fun (q, x) => !isPresent x && decide (q ≠ 0) && decide (trailerOf set b ≠ some q)

/-! ### Decisions of the activity detector (R187 to R192) -/

def modAd (s : State) (f : AdState → AdState) : State := { s with ad := f s.ad }
def adChan (s : State) (g : Nat) : AdChan := tget {} s.ad.chans g
def modAdChan (g : Nat) (f : AdChan → AdChan) (s : State) : State := modAd s fun a => { a with chans := tmod {} a.chans g f }

def enabledRois (set : ChanSet) : List (Nat × Roi) := set.rois.filter fun (_, r) => r.enable

/-- The rule fires at a decision that takes STREAK from `old` to `new` (Table 9-2). -/
def fires (c : RuleCfg) (armed : Bool) (old new : Nat) : Bool :=
  match c.fire with
  | 0 => armed && decide (old < c.hold) && decide (c.hold ≤ new)
  | 1 => decide (old < c.hold) && decide (c.hold ≤ new)
  | _ => decide (c.hold ≤ new)

/-- Latency of a decision on a slice whose last byte is byte `need` of the payload (R191). -/
def noteLatency (t : Nat) (f : Frame) (need : Nat) (s : State) : State :=
  let since := ((f.released.find? fun x => decide (need ≤ x.1)).map (·.2)).getD (ns s)
  modAd s fun a => { a with latencyPeak := tmod 0 a.latencyPeak t fun p => max p (satU 16 (ns s - since)) }

/-- A rule decides on a frame: met or not (R187, R190). A decision at the edge of a re-arm meets the armed state before it, and the
re-arm of a ONCE rule follows it (R188); commands and decisions at one running clock are at one edge (log entry 83). -/
def decideRule (g idx : Nat) (c : RuleCfg) (f : Frame) (need : Nat) (met : Bool) (s : State) : State :=
  let n := g / 64 * 512 + idx
  match tget? s.ad.rules n with
  | none => s
  | some r =>
    if r.channel ≠ g then s
    else
      let edge := decide (c.fire = 0) && (r.rearmed.map fun x => decide (x.1 = s.clock)).getD false
      let was := if edge then (r.rearmed.map (·.2)).getD r.armed else r.armed
      let new := if met then min 255 (r.streak + 1) else 0
      let r := { r with rearmed := none }
      if edge && !was then modAd s fun a => { a with rules := tput a.rules n r }
      else if met && fires c was r.streak new then
        let r := { r with
          streak := if edge then 0 else new, armed := edge || decide (c.fire ≠ 0), fires := r.fires + 1, lastFireNs32 := ns32 s, lastFrame := f.seq }
        let s := modAd s fun a => { a with rules := tput a.rules n r }
        let s := modAdChan g (fun a => { a with fires := a.fires + 1 }) s
        raise (g / 64) (67 + c.outlet) (idx + 2 ^ 16 * (f.seq.toNat % 65536)) (noteLatency (g / 64) f need s)
      else modAd s fun a => { a with rules := tput a.rules n { r with streak := new } }

/-- Frame number `seq` of a channel changes. -/
def modFrame (g : Nat) (seq : U64) (f : Frame → Frame) (s : State) : State :=
  modChannel g (fun c => { c with frames := c.frames.map fun x => if x.seq = seq then f x else x }) s

/-- The detector has decided on a frame (R192); the given rules had nothing to test in it and are not met. -/
def frameDecided (g : Nat) (f : Frame) (roi energy : Nat) (idle : Tab RuleCfg) (s : State) : State :=
  let s := modFrame g f.seq (fun y => { y with decided := true, actRoi := roi, actEnergy := energy }) s
  let s := modAdChan g (fun a => { a with last := f.stats, lastSeq := f.seq, frames := a.frames + 1 }) s
  idle.foldl (fun s (idx, c) => decideRule g idx c f 0 false s) s

/-! ### Released payload (R191) -/

/-- Package time in ns of a value of the running clock up to now. -/
def nsAt (s : State) (clock : Nat) : Nat := ns s - (s.clock - clock)

/-- What a frame's block has released when its leader is taken in: payload bytes, and for each the moment from which R191 counts, the
receive stamp of its packet, or, when an earlier position or block held it, the release of that. -/
def releasedSoFar (s : State) (c : Channel) (b : Block) (payload : Nat) : List (Nat × Nat) :=
  let p := b.plen.getD 0
  let n := resolvedRun b.positions 1 (lastKnown b)
  let moment (q : Nat) : Nat := match tget? b.positions q with
    | some (.present st _ _) => st / 65536
    | some (.givenUp t) => nsAt s t
    | none => 0
  ((List.range n).foldl (fun (m, l) i =>
    let m := max m (moment (i + 1))
    (m, l ++ [(min payload (if i + 1 = n then payload else (i + 1) * p), m)]))
    (max c.closedNs (moment 0), ([] : List (Nat × Nat)))).2

/-! ### The frame leader (R109 to R117) -/

/-- Position of an interface at a time: the history entry at the last 64 ns tick at or before it (R116). -/
def positionAt (s : State) (i : Nat) (m : Int) : Option U32 :=
  (((tget {} s.mo.axes i).history.take 262144).find? fun (t, _) => decide ((t : Int) ≤ m)).map (·.2)

/-- Stale slots of a frame are counted; POS_STALE at most once per millisecond (R117). -/
def countStale (g n : Nat) (s : State) : State :=
  if n = 0 then s
  else
    let s := modChannel g (fun c => { c with
      staleCount := c.staleCount + n, counters := { c.counters with posStale := c.counters.posStale + BitVec.ofNat 64 n } }) s
    let c := channelOf s g
    if msPassed s c.staleAt then raiseChan g 55 c.staleCount (putChannel g { c with staleCount := 0, staleAt := some s.clock } s)
    else s

/-- What becomes of an encoder slot at the frame leader: a position, a wait until M, nothing, or nothing and stale. -/
inductive SlotFate where
  | taken (p : U32) | waits | invalid | stale
deriving DecidableEq, Repr

/-- Mid-time M of a frame (R116). -/
def midTime (e : Int) (set : ChanSet) : Int := e + (set.exposureNs / 2 : Nat)

def slotMi (set : ChanSet) (n : Nat) : Nat := set.slotMi / 16 ^ n % 16

def slotFate (s : State) (set : ChanSet) (m : Int) (n : Nat) : SlotFate :=
  let i := slotMi set n
  let l : Int := ns s
  if service s (i / 2) ≠ .inService then .invalid
  else if l + 1000000000 < m then .stale
  else if l < m then .waits
  else match positionAt s i m with
    | some p => .taken p
    | none => .stale

def enabledSlots (set : ChanSet) : List Nat := (List.range 4).filter fun n => bit set.encEn n

/-- Exposure start (R114, R115): E, whether it is estimated, whether it was clamped. -/
def exposure (s : State) (set : ChanSet) (l : Leader) (firstNs : Nat) : Int × Bool × Bool :=
  let est : Int := (firstNs : Int) - set.leaderLagNs
  if set.tsMode = 1 then (est, true, false)
  else
    let e : Int := (l.timestamp : Int) + set.expoOffsetNs
    if e < (ns s : Int) - 2000000000 ∨ (firstNs : Int) < e then (est, true, true) else (e, false, false)

/-- The exposure was clamped: counted, EXPO_CLAMPED at most once per millisecond (R115). -/
def countClamped (g : Nat) (s : State) : State :=
  let s := modChannel g (fun c => { c with
    clampedCount := c.clampedCount + 1, counters := { c.counters with expoClamped := c.counters.expoClamped + 1 } }) s
  let c := channelOf s g
  if msPassed s c.clampedAt then raiseChan g 54 c.clampedCount (putChannel g { c with clampedCount := 0, clampedAt := some s.clock } s)
  else s

def modHead (g : Nat) (f : Block → Block) (s : State) : State :=
  modChannel g (fun c => { c with blocks := match c.blocks with
    | [] => []
    | b :: rest => f b :: rest }) s

def frameOf (s : State) (g : Nat) (seq : U64) : Option Frame := (channelOf s g).frames.find? fun f => decide (f.seq = seq)

/-- Skew pairing of a frame is requested for every run on its channel (R284, R331). -/
def requestSkew (g : Nat) (seq : U64) (s : State) : State :=
  (s.ev.skew.filter fun (_, r) => decide (r.channel = g)).foldl (fun s (p, _) => addJob (p / 10) (.skew p g seq) 1 s) s

/-- The frame of a block is opened (R109 to R111, R114 to R117) with the set that is active. The model's own choice: a commit and a leader
at one running clock count in the order of their rows, so a commit that comes first governs this frame (R125, log entry 83). -/
def openFrame (g : Nat) (b : Block) (l : Leader) (s : State) : State :=
  let c := channelOf s g
  let set := c.active
  let (e, est, clamped) := exposure s set l (b.first / 65536)
  let m := midTime e set
  let slots := enabledSlots set
  let mode := tileMode s (g / 64)
  let fr : Frame := {
    seq := c.nextFrame, blockId := b.id, set := set, mode := mode, leader := l, leaderAt := s.time.now, first := b.first
    last := b.first, epoch := tget 0 s.ad.epoch (g / 64), expo := e, expoEstimated := est, expoClamped := clamped, holdover := inHoldover s
    positions := slots.foldl (fun t n => match slotFate s set m n with
      | .taken p => tput t n p
      | _ => t) []
    posWaiting := slots.filter fun n => decide (slotFate s set m n = .waits)
    released := releasedSoFar s c b (blockPayload s set l b).length
    deliver := set.layout.deliver && deliversLive mode
    record := set.layout.record && recordsFrames mode }
  let stale := (slots.filter fun n => decide (slotFate s set m n = .stale)).length
  let s := putChannel g { c with nextFrame := c.nextFrame + 1, frames := c.frames ++ [fr] } s
  let s := modHead g (fun b => { b with frame := some c.nextFrame }) s
  let s := requestSkew g fr.seq s
  let s := if clamped then countClamped g s else s
  let s := countStale g stale s
  if (enabledRois set).isEmpty then frameDecided g fr 0xFF 0 (set.rules.filter fun (_, c) => c.enable) s else s

/-- Missing positions below `n` of a block. -/
def missingBelow (b : Block) (n : Nat) : List Nat := (List.range n).filter fun q => (tget? b.positions q).isNone

/-- Positions of a block that were given up, with the moment of it. -/
def givenUpList (b : Block) : Tab Nat := b.positions.filterMap fun (q, x) =>
  match x with
  | .present _ _ _ => none
  | .givenUp t => some (q, t)

/-- What a channel keeps of blocks that leave the receiver: which of their positions were given up, and when (R95). -/
def keepGone (c : Channel) (l : List Block) : List (Nat × Tab Nat) :=
  (l.filterMap fun b => if (givenUpList b).isEmpty then none else some (b.id, givenUpList b)) ++ c.gone

/-- A block leaves the receiver without a frame: counted in FRAMES_DROPPED (R85). -/
def discardHead (g : Nat) (s : State) : State :=
  modChannel g (fun c => match c.blocks with
    | [] => c
    | b :: rest => { c with
        blocks := rest, dropped := b.id :: c.dropped, gone := keepGone c [b]
        counters := { c.counters with framesDropped := c.counters.framesDropped + 1 } }) s

/-- The assembler takes in the leader of the oldest block (R109). -/
def takeLeader (g : Nat) (s : State) : State :=
  match (channelOf s g).blocks with
  | [] => s
  | b :: _ =>
    match b.frame, b.leader with
    | none, some l => if opening s (g / 64) then openFrame g b l s else discardHead g s
    | _, _ => s

/-! ### Bands (R113, R135) -/

def frameFmt (f : Frame) : PixFmt := pixFmt f.set.layout.pixelFormat

/-- Lines of a band of slices: 32 for a Bayer frame (R135). -/
def bandLines (f : Frame) : Nat := if (frameFmt f).bayer then 32 else 16
def bandCount (f : Frame) : Nat := (frameHeight f.leader + bandLines f - 1) / bandLines f

/-- Payload bytes that the lines of a frame before line n need. -/
def payloadNeed (f : Frame) (n : Nat) : Nat :=
  (((leaderLines f.leader).take n).foldl (fun m x => max m ((x.map (· + 1)).getD 0)) 0) * lineLen (frameFmt f) f.set.layout.width

/-- The payload of a frame in release order: of its closed block, or what its open block has released. -/
def framePayload (s : State) (g : Nat) (f : Frame) : List (Option Byte) :=
  if f.closed then f.raw
  else match (channelOf s g).blocks.find? fun b => decide (b.frame = some f.seq) with
  | some b => releasedPayload s f b
  | none => []

/-- Bands of a frame that are complete in release order. -/
def bandsReady (s : State) (g : Nat) (f : Frame) : Nat :=
  if f.closed then bandCount f
  else
    let n := (framePayload s g f).length
    ((List.range (bandCount f)).filter fun k => decide (payloadNeed f ((k + 1) * bandLines f) ≤ n)).length

/-- Payload bytes of a frame that are complete in release order; all of them once its block is closed. -/
def releasedBytes (s : State) (g : Nat) (f : Frame) : Nat :=
  if f.closed then payloadNeed f (frameHeight f.leader) else (framePayload s g f).length

/-- Notes the time at which more of the payload of a channel's frames became complete. -/
def noteReady (g at_ : Nat) (s : State) : State :=
  modChannel g (fun c => { c with frames := c.frames.map fun f =>
    let n := releasedBytes s g f
    if ((f.released.getLast?.map (·.1)).getD 0) < n then { f with released := f.released ++ [(n, at_)] } else f }) s

/-! ### Closing a block (R98 to R100, R110) -/

/-- FRAME_INCOMPLETE, at most once per millisecond per channel (R99). -/
def raiseIncomplete (g n : Nat) (s : State) : State :=
  if msPassed s (channelOf s g).incompleteAt then
    raiseChan g 49 n (modChannel g (fun c => { c with incompleteAt := some s.clock }) s)
  else s

/-- Frames that are dropped and have no slice left in the codec island, and frames of which nothing is left to do, go. -/
def frameDone (f : Frame) : Bool :=
  (f.dropped && f.slices.isEmpty) || (f.tagged && (f.recorded || !f.record) && (f.delivered || !f.deliver))

def sweepFrames (g : Nat) (s : State) : State :=
  settleRing g (modChannel g (fun c => { c with frames := c.frames.filter fun f => !frameDone f }) s)

/-- Pairing by every skew run on the channel as the frame closes (R284). -/
def pairClosed (g : Nat) (f : Frame) (s : State) : State :=
  let admitted (p : Nat) : Bool := (jobOf s (p / 10) (.skew p g f.seq)).all fun j => j.running
  let s := pairFrame g f.expo f.expoEstimated admitted s
  (s.ev.skew.map (·.1)).foldl (fun s p =>
    if (jobOf s (p / 10) (.skew p g f.seq)).all (·.running) then s else dropJob (p / 10) (.skew p g f.seq) s) s

/-- Backlog pages of a frame return to the pool, SHORT rings first (R330). -/
def leaveBacklog (g : Nat) (seq : U64) (s : State) : State :=
  let n := ((frameOf s g seq).map (·.backlog)).getD 0
  if n = 0 then s
  else refillShort (g / 64) (modTileGov (g / 64) (fun x => { x with backlog := x.backlog - n }) (modFrame g seq (fun f => { f with backlog := 0 }) s))

/-- The live delivery of a frame is abandoned: its reservation is returned (R218). -/
def abandonLive (g : Nat) (seq : U64) (s : State) : State :=
  let mine (d : Delivery) : Bool := d.segment = 0 && d.tile * 64 + d.channel = g && d.frame = seq
  let s := leaveBacklog g seq s
  let s := (s.mv.deliveries.filter mine).foldl (fun s d =>
    modQueue d.cplQueue (fun v => { v with reserved := v.reserved - 1 }) s) s
  modMv s fun m => { m with deliveries := m.deliveries.filter fun d => !mine d }

/-- A frame is dropped: it keeps its number, no tag is made (R99, R110). -/
def dropFrame (g : Nat) (seq : U64) (s : State) : State :=
  let s := abandonLive g seq s
  sweepFrames g (countChannel g (fun c => { c with framesDiscarded := c.framesDiscarded + 1 })
    (modFrame g seq (fun f => { f with dropped := true, closed := true }) s))

/-- What the receiver passes on with a closed block (R98, R100, R112), in its frame. The model's own choice: a block whose payload ends
before its leader's image, with no data position given up, is filled with FILL_VALUE and marked FILLED; R99 speaks of given-up positions
only (log entry 90). -/
def closedFrame (free : Nat) (b : Block) (f : Frame) : Frame :=
  let fmt := pixFmt f.set.layout.pixelFormat
  let size := imageSize fmt f.set.layout.width f.leader
  let last := match trailerOf f.set b with
    | some t => t - 1
    | none => lastKnown b
  let data := dataPackets b
  let raw := rawPayload free size b (if b.trailer.isSome ∨ plainImage b then some last else none) last
  let rawBytes := data.foldl (fun n (_, _, d) => n + d.length) 0
  let kept := raw.take (size + f.set.layout.chunkMax)
  { f with
    closed := true, missing := (givenUpList b).length, resent := b.resent, late := b.late
    raw := kept, chunkBytes := kept.length - size, rawBytes := rawBytes
    filled := (kept.take size).any (·.isNone) || decide (kept.length < size)
    truncated := f.truncated || decide (size + f.set.layout.chunkMax < max raw.length rawBytes)
    last := if b.plen.isNone then f.first else data.foldl (fun m (_, st, _) => max m st) f.first }

/-- The oldest block closes (R98, R99). The model's own choice: FRAME_INCOMPLETE is raised for a block with DROP_INCOMPLETE 1 that lacks only
its trailer too, although it is passed on (log entry 90). -/
def closeHead (g : Nat) (s : State) : State :=
  match (channelOf s g).blocks with
  | [] => s
  | b :: rest =>
    let n := (givenUpList b).length
    let s := modChannel g (fun c => { c with blocks := rest, lastClosed := some b.id, gone := keepGone c [b], closedNs := ns s }) s
    let drop (s : State) : State := raiseIncomplete g n (countChannel g (fun c => { c with framesDropped := c.framesDropped + 1 }) s)
    match b.frame.bind (frameOf s g) with
    | none => drop s
    | some f =>
      if f.set.layout.dropIncomplete && dataGivenUp f.set b then
        drop (dropFrame g f.seq (pairClosed g f s))
      else
        let f' := closedFrame s.free b f
        let s := modFrame g f.seq (fun _ => f') (pairClosed g f (if b.plen.isSome then useFree s else s))
        let s := countChannel g (fun c => { c with
          framesClosed := c.framesClosed + 1
          framesIncomplete := if n = 0 then c.framesIncomplete else c.framesIncomplete + 1
          truncated := if f'.truncated then c.truncated + 1 else c.truncated }) s
        if n = 0 then s else raiseIncomplete g n s

/-- Every position of a block from the leader to the trailer is resolved (R98), or every known gap of a block whose trailer is
never known (R93). -/
def complete (set : ChanSet) (b : Block) : Bool :=
  match trailerOf set b with
  | some t => (resolvedRun b.positions 0 (t + 1)) == t + 1
  | none => b.quiet.isSome && (resolvedRun b.positions 0 (lastKnown b + 1)) == lastKnown b + 1

/-- The configuration set that governs a block: that of its frame, or the active one before its leader is taken in. -/
def blockSet (c : Channel) (b : Block) : ChanSet :=
  ((b.frame.bind fun q => c.frames.find? fun f => decide (f.seq = q)).map (·.set)).getD c.active

/-- Where the missing positions of a block end: at its trailer if that is known, at its last packet otherwise. -/
def revealTo (c : Channel) (b : Block) : Nat :=
  match trailerOf (blockSet c b) b with
  | some t => t + 1
  | none => lastKnown b

/-- The trailer of a block that never came counts as one position missing (R93). -/
def missTrailer (g : Nat) (s : State) : State :=
  match (channelOf s g).blocks with
  | [] => s
  | b :: _ =>
    match trailerOf (blockSet (channelOf s g) b) b with
    | some _ => s
    | none =>
      countChannel g (fun c => { c with packetsMissing := c.packetsMissing + 1 })
        (modHead g (fun b => { b with trailer := some (lastKnown b + 1), positions := tput b.positions (lastKnown b + 1) (.givenUp (b.quiet.getD s.clock)) }) s)

/-- Closes the blocks that are complete, in ascending order, up to one whose leader the assembler has not taken in (R97). -/
def advance (g : Nat) : Nat → State → State
  | 0, s => s
  | n + 1, s =>
    let c := channelOf s g
    match c.blocks with
    | [] => s
    | b :: _ =>
      if b.frame.isNone && b.leader.isSome then s
      else if complete (blockSet c b) b then advance g n (closeHead g (missTrailer g s))
      else s

end Sys2Proof.Machine
end

