-- ==== Sys2Proof/Machine/Time.lean ====
section
/-!
DEFINITION. Package time and network time (chapter 12): changes of the clock at their commit times, the servo, PTP ports, the
scheduled outputs, the calendar, and the time commands.
-/
namespace Sys2Proof.Machine
open Sys2Proof

/-! ### Changes of package time (R248) -/

/-- 10 µs in 2^-16 ns: the least time from a decision to its commit. -/
def commitLead : Nat := 10 * usUnits

/-- Steps that wait change the reading of package time once they commit. -/
def pendingSteps (s : State) : Int :=
  sumInt (s.time.changes.map fun (_, c) => match c with
    | .step d _ => d
    | _ => 0)

def scheduleChange (c : TimeChange) (s : State) : State :=
  modTime s fun v => { v with changes := v.changes ++ [(v.now + commitLead, c)] }

/-- A value of package time that does not fall below second 0. -/
def shiftTime (now : Nat) (d : Int) : Nat := ((now : Int) + d).toNat

/-- Every queue shows STEP in its next time anchor (R123). -/
def markStep (s : State) : State :=
  modMv s fun m => { m with queues := m.queues.map fun (q, v) => (q, { v with anchorStep := true }) }

/-- Pulses of an output that a forward step passed: one late pulse, or none under LATE_REJECT (R262, R263). Defined below the
outputs; the step itself changes only the scale. -/
def applyStep (tc : Nat) (d : Int) (bySet : Bool) (s : State) : State :=
  let s := modTime s fun v => { v with
    now := shiftTime v.now d, steps := v.steps + 1, stepNs32 := ns32Of (shiftTime tc d / 65536)
    changes := v.changes.map fun (t, c) => (shiftTime t d, c)
    setByHost := bySet || (v.setByHost && decide (v.clock = .host)) }
  let f := s.free
  raise 0 106 (unsigned 32 (satS 32 (freeDiv f d 65536))) (markStep (useFree s))

/-! ### Scheduled outputs (R259 to R264) -/

/-- SCHED_n: pulse number, LATE and the pulses merged into it (Table 12-5). -/
def raiseSched (k pulse merged : Nat) (late : Bool) (time : Nat) (s : State) : State :=
  raiseEv (k / 8) (tileSource (k / 8) (95 + k % 8)) (time / 65536) (word (pulse % 65536 + 2 ^ 16 * b2n late + 2 ^ 17 * satU 15 merged)) 0 s

/-- The pin that an output drives. -/
def schedPin (k : Nat) (o : Sched) : Option Nat :=
  match o.kind with
  | .gtio => some (k / 8 * 10 + o.index)
  | .lvds => some (k / 8 * 10 + 8 + o.index)
  | _ => none

/-- State of an output once its pulses up to `fired` have fired. -/
def schedState (o : Sched) : Nat :=
  if (nextPulse o).isNone then (if o.eventStart then 1 else 3)
  else if o.firedTo.isSome && decide (o.trains.headD 0 ≤ o.firedTo.getD 0) then 2 else 1

def settle (o : Sched) : Sched := { o with state := schedState o }

/-- Scheduled edges of an output's pin that are due later than `last` stay, the others go. -/
def keepEdges (k : Nat) (o : Sched) (keep : Nat → Bool) (s : State) : State :=
  match schedPin k o with
  | some p => modPin p (fun x => { x with sched := x.sched.filter fun (g : PinEdge) => (g.due.map keep).getD true }) s
  | none => s

/-- The due times of comparator edges that wait at an output's pin. -/
def waitingEdges (k : Nat) (o : Sched) (s : State) : List Nat := match schedPin k o with
  | some p => (pinOf s p).sched.filterMap PinEdge.due
  | none => []

/-- The pulse of this due time has fired. -/
def hasFired (o : Sched) (due : Nat) : Bool := (o.firedTo.map fun t => decide (due ≤ t)).getD false

/-- The scheduled edges that wait drive the pin until here. -/
def edgesUntil (k : Nat) (o : Sched) (s : State) : Nat :=
  (waitingEdges k o s).foldl (fun m d => max m (d + o.width * 65536)) o.pinUntil

/-- The instant before a due time. -/
def before (due : Nat) : Option Nat := if due = 0 then none else some (due - 1)

/-- The edges that wait for pulses that have not fired are scheduled anew, as those pulses are passed or merged otherwise now. -/
def rearm (k : Nat) (s : State) : State :=
  let o := schedOf s k
  match ((waitingEdges k o s).filter fun d => !hasFired o d).min? with
  | none => s
  | some d =>
    let s := keepEdges k o (hasFired o) s
    putSched k { o with armedTo := before d, edgeUntil := edgesUntil k o s } s

/-- The late pulse that m passed pulses merge into, the last of them number n, due at `last` (R262). It leaves at once, and so does an
action command that has not been sent. -/
def fireLate (k n m last : Nat) (send : Bool) (s : State) : State :=
  let o := schedOf s k
  let until_ := s.time.now + o.width * 65536
  let o := settle { o with
    fired := o.fired + 1, merged := o.merged + BitVec.ofNat 32 m, lastNs32 := ns32Of (last / 65536)
    pinUntil := until_, edgeUntil := max until_ (edgesUntil k o s)
    lateSends := if send && decide (o.kind = .action) then o.lateSends ++ [last] else o.lateSends }
  let s := raiseSched k n m true last (putSched k o s)
  match schedPin k o with
  | some p => driveEdge p { at_ := nowQ s, due := some last, action := 0, widthNs := o.width } s
  | none => s

/-- A late start (R261, R262): the first m pulses of the train from `start`, the newest, merge into one late pulse, and what an older
train has due before `start` follows. -/
def startLate (k start m : Nat) (s : State) : State :=
  let s := rearm k s
  let last := start + (m - 1) * (schedOf s k).period
  fireLate k (m - 1) m last true (modSched k (fun o => { o with passed := o.passed ++ [(start, last)] }) s)

/-- A new train replaces the trains from its first due time (R261): edges of theirs that wait from then on do not leave. -/
def addTrain (k start : Nat) (s : State) : State :=
  let o := schedOf s k
  let s := keepEdges k o (fun d => decide (d < start) || hasFired o d) s
  let clip (t : Option Nat) : Option Nat := t.bind fun a => if a < start then some a else before start
  putSched k (settle { o with
    trains := o.trains.filter (· < start) ++ [start], firedTo := clip o.firedTo, armedTo := clip o.armedTo
    passed := (o.passed.filter fun r => decide (r.1 < start)).map fun r => (r.1, min r.2 (start - 1))
    edgeUntil := edgesUntil k o s }) s

/-- The pulses of an output after a due time that a limit of package time has reached, after those of `got`: their number, the due time
and the number of the last one. -/
def reached (o : Sched) (after : Option Nat) (limit : Nat) : Nat → Option (Nat × Nat × Nat) → Option (Nat × Nat × Nat)
  | 0, got => got
  | f + 1, got =>
    match nextDue o ((got.map (·.2.1)).or after) o.trains with
    | none => got
    | some (n, due) =>
      let last := ((o.trains ++ o.passed.map (·.1)).filter (due < ·)).foldl (fun l b => min l (b - 1)) limit
      if last < due then got
      else
        let m := if o.period = 0 then 1 else (last - due) / o.period + 1
        let m := if o.count = 0 then m else min m (o.count - n)
        reached o after limit f (some ((got.map (·.1)).getD 0 + m, due + (m - 1) * o.period, n + m - 1))

/-- The pulses that a forward step passed, by their due times; of an action entry's, those whose commands are sent by their due times
and then those whose commands are not by their send instants (log entry 87). -/
def steppedOver (s : State) (o : Sched) (lead : Nat) : Option (Nat × Nat × Nat) × Option (Nat × Nat × Nat) :=
  let fuel := o.trains.length + o.passed.length
  if o.kind = .action then
    let sent := (o.armedTo.map fun a => min a s.time.now).getD 0
    let from_ := if (o.armedTo.map (hasFired o)).getD true then o.firedTo else o.armedTo
    (if o.armedTo.isSome then reached o o.firedTo sent fuel none else none, reached o from_ (s.time.now + lead) fuel none)
  else (reached o o.firedTo s.time.now fuel none, none)

/-- The pulses are passed: the output goes on after them. -/
def passPulses (o : Sched) (x : Option (Nat × Nat × Nat) × Option (Nat × Nat × Nat)) : Sched :=
  let o' := { o with firedTo := (x.1.map (·.2.1)).or o.firedTo }
  match x.2 with
  | none => o'
  | some (_, last, _) =>
    let first := (o.armedTo.map (· + 1)).getD 0
    { o' with passed := o'.passed.filter (fun r => decide (r.1 < first)) ++ [(first, last)], armedTo := some last }

/-- A forward step makes the pulses that it stepped over passed, and the policy of the output applies to them (R263). -/
def stepOutput (s : State) (k : Nat) : State :=
  let x := steppedOver s (schedOf s k) (leadOf s k (schedOf s k))
  match (if (schedOf s k).state = 0 then none else x.2.or x.1) with
  | none => s
  | some (_, last, n) =>
    let m := (x.1.map (·.1)).getD 0 + (x.2.map (·.1)).getD 0
    let s := modSched k (fun o => passPulses o x) (rearm k s)
    if (schedOf s k).lateReject then modSched k (fun o => settle { o with rejected := o.rejected + BitVec.ofNat 32 m }) s
    else fireLate k n m last x.2.isSome s

/-- R248: at the commit time a frequency change, a slew or a phase step is applied on every tile. -/
def execTimeChangeCommit (s : State) : Meaning := .next <|
  match s.time.changes with
  | [] => s
  | (tc, c) :: rest =>
    if s.time.now < tc then s
    else
      let s := modTime s fun v => { v with changes := rest }
      match c with
      | .freq a => modTime s fun v => { v with freqAdj := a }
      | .slew u => modTime s fun v => { v with slewLeft := v.slewLeft + u }
      | .step d b =>
        let s := applyStep tc d b s
        if 0 < d then (s.time.scheds.map (·.1)).foldl stepOutput s else s

/-- R260, R262: the next pulse of an output falls due. -/
def execSchedPulseDue (output : Nat) (s : State) : Meaning := .next <|
  let o := schedOf s output
  match nextPulse o with
  | none => s
  | some (n, due) =>
    if o.state = 0 || decide (s.time.now < due) || !serving s (output / 8) then s
    else if (schedPin output o).isSome && decide (due < o.pinUntil) then
      putSched output (settle { o with firedTo := some due, merged := o.merged + 1 }) s
    else
      let o := settle { o with
        firedTo := some due, fired := o.fired + 1, lastNs32 := ns32Of (due / 65536), pinUntil := due + o.width * 65536
        trains := o.trains.drop ((o.trains.filter fun t => decide (t ≤ due)).length - 1)
        passed := o.passed.filter fun r => decide (due < r.2) || !(o.armedTo.map fun a => decide (r.2 ≤ a)).getD false }
      let s := raiseSched output n 0 false due (putSched output o s)
      match schedPin output o with
      | some p => servePin p s
      | none => s

/-- Up to n events that wait at SCHED_GO_n act as one. -/
def takeSchedGo (output n : Nat) (s : State) : State :=
  if !serving s (output / 8) then s
  else match takeInput (output / 8) (640 + output % 8) n s with
  | none => s
  | some (e, s) =>
    let o := schedOf s output
    if o.state = 0 || !o.eventStart then s
    else
      let start := (extend32 (ns32Of e.time).toNat (ns s)).toNat * 65536 + o.delay
      let m := passedOf s output o start
      if m = 0 then addTrain output start s
      else if o.lateReject then putSched output { o with rejected := o.rejected + 1 } s
      else startLate output start m (addTrain output start s)

/-- R261: an event at SCHED_GO_n starts a new train at Te + DELAY, or is dropped as late. -/
def execSchedGo (output n : Nat) (s : State) : Meaning := .next (takeSchedGo output n s)

/-- An output stops at once, with its pin idle (R264). -/
def stopSched (k : Nat) (s : State) : State :=
  let o := schedOf s k
  let s := putSched k {} s
  match schedPin k o with
  | some p => idlePin p (modPin p (fun x => { x with driver := none }) s)
  | none => s

/-! ### The servo (R255 to R257, Table 12-3) -/

def clockCode : ClockState → Nat
  | .freeRun => 0 | .acquiring => 1 | .locked => 2 | .holdover => 3 | .verifying => 4 | .host => 5

/-- A change of clock state raises CLOCK_STATE (Table 12-5). -/
def setClock (c : ClockState) (s : State) : State :=
  if s.time.clock = c then s
  else
    let s := modTime s fun v => { v with clock := c }
    raise 0 105 (clockCode c + 8 * b2n (inHoldover s) + 2 ^ 8 * s.time.slaveLane.getD 0xFF) s

/-- The frequency adjustment last decided: the newest that waits for its commit time, or the one in force. -/
def decidedFreq (s : State) : Int :=
  (s.time.changes.filterMap fun (_, c) => match c with
    | .freq a => some a
    | _ => none).getLastD s.time.freqAdj

/-- A frequency change, at its commit time (R248). -/
def setFrequency (a : Int) (s : State) : State := if decidedFreq s = a then s else scheduleChange (.freq a) s

/-- Frequency is held at the mean of the last 64 adjustments (R257). -/
def holdFrequency (s : State) : State :=
  let h := s.time.freqHistory
  if h.isEmpty then s else setFrequency (freeDiv s.free (sumInt h) h.length) (useFree s)

/-- The frequency follows the servo's loop (Alfel's own, R255); a sample for which the loop chooses nothing keeps the adjustment. -/
def followFrequency (adj : Option Int) (s : State) : State :=
  let a := adj.getD (decidedFreq s)
  setFrequency a (modTime s fun v => { v with freqHistory := (a :: v.freqHistory).take 64 })

/-- Twice the distance of a sample from another lies within PATH_STEP_NS. -/
def within (s : State) (x y : Int) : Bool := decide (2 * (x - y).natAbs ≤ s.time.pathStepNs)

/-- The run of consistent samples with a new one (R255). -/
def extendRun (s : State) (x : Int) : List Int :=
  match s.time.run with
  | [] => [x]
  | f :: rest => if within s x f then (f :: rest) ++ [x] else [x]

/-- Correction of the mean of a run: a phase step of -x when |x| ≥ STEP_MIN_NS, a slew otherwise (R255). -/
def correct (run : List Int) (s : State) : State :=
  let n := run.length
  let sum := sumInt run
  let units := -(freeDiv s.free (sum * 65536) n)
  scheduleChange (if s.time.stepMinNs * n ≤ sum.natAbs then .step units false else .slew units) (useFree s)

/-- Difference of a sample from the mean of the reference, times the number of reference samples. -/
def refDiff (s : State) (x : Int) : Int := x * s.time.reference.length - sumInt s.time.reference

/-- One offset sample (Table 12-3), with the adjustment that the loop chooses. -/
def servoSample (x : Int) (adj : Option Int) (s : State) : State :=
  let s := modTime s fun v => { v with offsetNs := x }
  match s.time.clock with
  | .acquiring =>
    let s := followFrequency adj s
    let locks := if x.natAbs ≤ s.time.lockNs then s.time.lockCount + 1 else 0
    let run := extendRun s x
    if 16 ≤ locks then setClock .locked (modTime s fun v => { v with run := [], lockCount := 0, reference := [] })
    else if s.time.consistent ≤ run.length then correct run (modTime s fun v => { v with run := [], lockCount := locks })
    else modTime s fun v => { v with run := run, lockCount := locks }
  | .locked =>
    let n := s.time.reference.length
    let d := refDiff s x
    if n ≠ 0 ∧ s.time.pathStepNs * n < d.natAbs then
      let size := freeDiv s.free d n
      let s := modTime (useFree s) fun v => { v with run := [x], verifyCount := 0, pathStepSize := size }
      let s := raise 0 104 (unsigned 32 (satS 32 size)) (holdFrequency s)
      setClock .verifying s
    else followFrequency adj (modTime s fun v => { v with reference := (x :: v.reference).take 8 })
  | .verifying =>
    let n := s.time.reference.length
    if 2 * (refDiff s x).natAbs ≤ s.time.pathStepNs * n then
      setClock .locked (followFrequency adj (modTime s fun v => { v with run := [], verifyCount := 0 }))
    else
      let run := extendRun s x
      if s.time.consistent ≤ run.length then
        setClock .acquiring (followFrequency adj (correct run (modTime s fun v => { v with run := [], verifyCount := 0, lockCount := 0 })))
      else if 4 * s.time.consistent ≤ s.time.verifyCount + 1 then
        setClock .holdover (modTime s fun v => { v with run := [], verifyCount := 0 })
      else modTime s fun v => { v with run := run, verifyCount := v.verifyCount + 1 }
  | _ => s

/-- announceReceiptTimeout, or a change of parent or grandmaster (Table 12-3). -/
def loseMaster (s : State) : State :=
  match s.time.clock with
  | .acquiring | .locked => setClock .holdover (holdFrequency s)
  | .verifying => setClock .holdover s
  | _ => s

/-! ### Reads with captures (R267, R268) -/

def timeBlock : Nat := 0x4800000
def tuBlock (t : Nat) : Nat := 0x0800000 + t * 0x0800000 + 0x480000

/-- R267: a read of PKG_TIME_NS or PKG_CAL_TICKS captures the whole time for the port. -/
def execPkgTimeRead (port : Nat) (calendar : Bool) (s : State) : Meaning := .next <|
  if calendar then
    emit (.completion port s.cal.ticks)
      (capture port (timeBlock + 0x104) (s.cal.seconds % 2 ^ 32) (captureHi port (timeBlock + 0x108) (s.cal.seconds / 2 ^ 32) s))
  else
    let now := s.time.now
    emit (.completion port (timeNs now))
      (capture port (timeBlock + 4) (timeSec now % 2 ^ 32)
        (captureHi port (timeBlock + 8) (timeSec now / 2 ^ 32 % 65536 + 2 ^ 16 * timeFrac now) s))

/-- R254, R268: a read of TU_TXTS_POP. -/
def execTxtsPop (port tile : Nat) (s : State) : Meaning := .next <|
  let reader := s.time.clock = .host && isMaster s port
  match tget [] s.time.txts tile with
  | e :: rest =>
    if reader then
      let s := modTime s fun v => { v with txts := tput v.txts tile rest }
      let b := tuBlock tile
      let s := capture port (b + 0x14) e.ns (capture port (b + 0x18) (e.sec % 2 ^ 32)
        (capture port (b + 0x1C) (e.sec / 2 ^ 32 % 65536 + 2 ^ 16 * e.frac) s))
      emit (.completion port (e.seqId + 2 ^ 16 * e.lane + 2 ^ 24 * e.msgType + 2 ^ 31)) s
    else emit (.completion port 0) s
  | [] => emit (.completion port 0) s

/-- R247: a tile is within ±2 ns of tile 0 again. -/
def execTimeLockRestored (tile : Nat) (error : Int) (s : State) : Meaning := .next <|
  if serving s tile && decide (error.natAbs ≤ 8) then
    modTime s fun v => { v with locked := tput v.locked tile true, lockError := tput v.lockError tile error }
  else s

/-! ### The calendar (R265) -/

/-- Ticks of 32.768 kHz of a time. -/
def ticksOf (now : Nat) : Nat := (timeNs now * 65536 + timeFrac now) * 32768 / 65536000000000

/-- The calendar holds package time. -/
def setCalendar (sec ticks : Nat) (s : State) : State :=
  { s with cal := { s.cal with seconds := sec % 2 ^ 48, ticks := ticks, valid := true } }

/-- R265: once per second while LOCKED or set by TIME_SET, the calendar is aligned to package time. -/
def execCalendarAlign (s : State) : Meaning := .next <|
  if (decide (s.time.clock = .locked) || s.time.setByHost) && (s.cal.alignedAt.map fun t => decide (t + 1000 * ms ≤ s.clock)).getD true then
    let s := setCalendar (timeSec s.time.now) (ticksOf s.time.now) s
    { s with cal := { s.cal with synced := true, syncNs32 := ns32 s, alignedAt := some s.clock } }
  else s

def calStatus (s : State) : Nat := b2n s.cal.valid + 2 * b2n s.cal.synced

/-! ### The tick -/

/-- The calendar clock counts at 32,768 Hz while VDD_IO or VBAT feeds it (R265, R366). -/
def calendarTick (s : State) : State :=
  let due := decide (s.clock * 32768 / 1000000000 < (s.clock + 1) * 32768 / 1000000000)
  if due && (s.pkg.vddIo || s.pkg.vbat) then
    let wrap := decide (32768 ≤ s.cal.ticks + 1)
    { s with cal := { s.cal with
        ticks := if wrap then 0 else s.cal.ticks + 1, seconds := if wrap then (s.cal.seconds + 1) % 2 ^ 48 else s.cal.seconds } }
  else s

/-- Package time advances by one nanosecond of SYSCLK, the frequency adjustment and at most 6 units of a slew (R248); it runs from
BOOT on. -/
def advanceTime (s : State) : State :=
  if modeCode s.pkg.mode < 3 then s
  else
    let v := s.time
    let acc := v.freqAcc + v.freqAdj * 64
    let slew := max (-6) (min 6 v.slewLeft)
    { s with time := { v with
        now := shiftTime v.now (65536 + acc / 1000000000 + slew), freqAcc := acc % 1000000000, slewLeft := v.slewLeft - slew } }

/-- One nanosecond of the model's running clock (log entry 2). -/
def tick (s : State) : State :=
  let s := calendarTick (advanceTime s)
  { s with clock := s.clock + 1 }

/-! ### Commands (Table 12-11) -/

/-- A TIME96 parameter in 2^-16 ns; NANOSECONDS over 999,999,999 fails (R245). -/
def timeParam (c : Cmd) (off : Nat) : Nat := (par c off 6 * 1000000000 + par c (off + 6) 4) * 65536 + par c (off + 10) 2
def timeBad (c : Cmd) (off : Nat) : Bool := decide (1000000000 ≤ par c (off + 6) 4)

def timeFlags (s : State) : Nat := b2n (inHoldover s) + 2 * b2n (decide (s.time.clock = .host)) + 4 * b2n s.time.calSeeded

def slaveDelay (s : State) : Int :=
  match s.time.slaveLane with
  | some l => (ptpPort s l).meanDelayQ8
  | none => 0

/-- The result of TIME_QUERY. -/
def timeView (s : State) : List Byte :=
  time96 s.time.now ++ [BitVec.ofNat 8 (clockCode s.time.clock), BitVec.ofNat 8 (timeFlags s),
    BitVec.ofNat 8 (s.time.slaveLane.getD 0xFF), 0] ++ leBytes 4 (unsigned 32 (satS 32 s.time.offsetNs))
    ++ leBytes 4 (unsigned 32 s.time.freqAdj) ++ leBytes 4 (unsigned 32 (satS 32 (slaveDelay s))) ++ leBytes 4 s.time.steps.toNat
    ++ leBytes 4 (unsigned 32 (satS 32 s.time.pathStepSize)) ++ zeros 4 ++ leBytes 8 s.time.clockDs.gmIdentity

def opTimeQuery : OpDef where
  code := 0x0901
  query := true
  idem := true
  modes := mSafe
  len := some 0
  room := 48
  act _ s := .done s { result := timeView s }

def execTimeQuery (c : Cmd) (s : State) : Meaning := .next (runOp opTimeQuery c s)

def opTimeSet : OpDef where
  code := 0x0902
  master := true
  cond := true
  modes := mSafe
  len := some 16
  room := 16
  bad c _ := [(6, timeBad c 0), (12, !isZero c.params 12 4)]
  wrong _ s := decide (s.time.clock ≠ .freeRun ∧ s.time.clock ≠ .host)
  act c s :=
    let d := (timeParam c 0 : Int) - ((s.time.now + commitLead : Nat) + pendingSteps s)
    let f := s.free
    .done (bumpPkg (scheduleChange (.step d true) (useFree s)))
      { result := leBytes 8 (unsigned 64 (freeDiv f d 65536)) ++ leBytes 4 (timeParam c 0 / 65536 % 2 ^ 32) ++ zeros 4 }

def execTimeSet (c : Cmd) (s : State) : Meaning := .next (runOp opTimeSet c s)

def opTimeAdjust : OpDef where
  code := 0x0903
  master := true
  cond := true
  modes := mSafe
  len := some 16
  room := 8
  bad c _ :=
    let op := par c 0 1
    let f := signed 32 (par c 4 4)
    let d := signed 64 (par c 8 8)
    [(0, decide (2 < op)), (1, decide (1 < par c 1 1)), (2, !isZero c.params 2 2),
     (4, decide (1024000000 < f.natAbs) || (op != 0 && decide (f ≠ 0))),
     (8, (op == 0 && decide (d ≠ 0)) || (op == 1 && decide (65536000000 < d.natAbs)))]
  wrong _ s := decide (s.time.clock ≠ .host)
  act c s :=
    let op := par c 0 1
    let ch : TimeChange := if op = 0 then .freq (signed 32 (par c 4 4)) else if op = 1 then .slew (signed 64 (par c 8 8))
      else .step (signed 64 (par c 8 8)) false
    let at_ := (s.time.now + commitLead) / 65536
    .done (bumpPkg (scheduleChange ch (modTime s fun v => { v with holdoverHost := bit (par c 1 1) 0 })))
      { result := leBytes 4 (at_ % 2 ^ 32) ++ zeros 4 }

def execTimeAdjust (c : Cmd) (s : State) : Meaning := .next (runOp opTimeAdjust c s)

/-- Scheduled outputs: what SCHED_CREATE gives (Table 12-12). -/
def schedKind : Nat → SchedKind
  | 1 => .gtio | 2 => .lvds | 3 => .action | _ => .eventOnly

def schedOfParams (c : Cmd) : Sched :=
  let f := par c 3 1
  { kind := schedKind (par c 1 1), index := par c 2 1, periodic := bit f 0, invert := bit f 1, eventStart := bit f 2
    lateReject := lateReject c, state := 1, delay := if bit f 2 then timeParam c 4 else 0
    period := par c 16 4 * 65536 + par c 20 2, width := par c 28 4, count := par c 24 4
    trains := if bit f 2 then [] else [timeParam c 4] }

/-- PERIOD_NS and PERIOD_FRAC: at least 100 ns, 10,000 ns for an action entry. -/
def periodBad (c : Cmd) : Bool :=
  if bit (par c 3 1) 0 then decide (par c 16 4 < (if par c 1 1 = 3 then 10000 else 100)) else par c 16 4 != 0

/-- WIDTH_NS: on pins 4 ns to 1 s, and PERIOD_NS more than WIDTH_NS + 4 ns. -/
def widthBad (c : Cmd) : Bool :=
  let w := par c 28 4
  if par c 1 1 = 1 ∨ par c 1 1 = 2 then
    decide (w < 4) || decide (1000000000 < w) || (bit (par c 3 1) 0 && decide (par c 16 4 ≤ w + 4))
  else w != 0

def kindIndexBad (c : Cmd) : Bool :=
  match par c 1 1 with
  | 0 => par c 2 1 != 0
  | 1 => decide (7 < par c 2 1)
  | 2 => decide (1 < par c 2 1)
  | _ => decide (15 < par c 2 1)

/-- The pin that the parameters name. -/
def paramPin (c : Cmd) : Option Nat := schedPin (par c 0 1 * 8) { kind := schedKind (par c 1 1), index := par c 2 1 }

/-- The output drives its pin from now on, from its own idle level (R260). -/
def takePin (k : Nat) (o : Sched) (s : State) : State :=
  match schedPin k o with
  | some p => idlePin p (modPin p (fun x => { x with driver := some (k % 8) }) s)
  | none => s

/-- Slot of a free output on the tile, 8 when there is none. -/
def freeSched (c : Cmd) (s : State) : Nat := (freeIndex s 7 (par c 0 1) 0 8).getD 8

def schedPassed (c : Cmd) (s : State) : Nat :=
  if bit (par c 3 1) 2 then 0 else passedOf s (par c 0 1 * 8) (schedOfParams c) (timeParam c 4)

def opSchedCreate : OpDef where
  code := 0x0920
  modes := mSafe
  len := some 32
  room := 16
  bad c s :=
    [(0, decide (tiles s ≤ par c 0 1)), (1, decide (3 < par c 1 1)), (2, kindIndexBad c),
     (3, decide (8 ≤ par c 3 1) || (bit (par c 3 1) 1 && !(par c 1 1 == 1 || par c 1 1 == 2))),
     (4, bit (par c 3 1) 2 && decide (60 * 1000000000 * 65536 < timeParam c 4)), (10, timeBad c 4),
     (16, periodBad c), (20, !bit (par c 3 1) 0 && par c 20 2 != 0), (22, !isZero c.params 22 2),
     (24, !bit (par c 3 1) 0 && par c 24 4 != 1), (28, widthBad c)]
  past c s := [(14, lateReject c && decide (0 < schedPassed c s))]
  tile c _ := some (par c 0 1)
  wrong c s := !serving s (par c 0 1)
    || (match paramPin c with
        | some p => (pinOf s p).mode != 3
        | none => par c 1 1 == 3 && !(tget {} s.st.actions (par c 0 1 * 16 + par c 2 1)).valid)
  busy c s := ((paramPin c).map fun p => (pinOf s p).driver.isSome).getD false
  short c s := decide (freeSched c s = 8)
  act c s :=
    let k := par c 0 1 * 8 + freeSched c s
    let o := schedOfParams c
    let slot := slotOf 7 (par c 0 1) (freeSched c s)
    let s := takePin k o (putSched k o (createObj slot c.port s))
    let m := schedPassed c s
    let first := if bit (par c 3 1) 2 then 0 else if m = 0 then timeParam c 4 / 65536 else ns s
    let s := if m = 0 then s else startLate k (timeParam c 4) m s
    .done s { handle := some (handleOf s slot), late := decide (0 < m), result := leBytes 4 (first % 2 ^ 32) ++ leBytes 4 m ++ zeros 8 }

def execSchedCreate (c : Cmd) (s : State) : Meaning := .next (runOp opSchedCreate c s)

/-- Number of the output that a handle slot names. -/
def schedNumber (slot : Nat) : Nat := slotTile slot * 8 + slotIndex slot

/-- Window of an output (Table 12-9), by offset / 4. -/
def schedReg (s : State) (k : Nat) (i : Nat) : Nat :=
  let o := schedOf s k
  let next := ((nextPulse o).map (·.2)).getD 0
  match i with
  | 0 => (match o.kind with | .eventOnly => 0 | .gtio => 1 | .lvds => 2 | .action => 3) + 4 * o.index + 64 * b2n o.periodic
      + 128 * b2n o.invert + 256 * b2n o.eventStart + 512 * b2n o.lateReject + 1024 * o.state
      + 4096 * ((obj? s (slotOf 7 (k / 8) (k % 8))).map (·.owner)).getD 0
  | 1 => timeNs next
  | 2 => timeSec next % 2 ^ 32
  | 3 => timeSec next / 2 ^ 32 % 65536 + 2 ^ 16 * timeFrac next
  | 4 => o.period / 65536
  | 5 => o.period % 65536
  | 6 => o.width
  | 7 => o.count
  | 8 => o.fired.toNat
  | 9 => o.merged.toNat
  | 10 => o.lastNs32.toNat
  | 11 => o.rejected.toNat
  | _ => 0

def opSchedQuery : OpDef where
  code := 0x0922
  query := true
  idem := true
  modes := mSafe
  kinds := [7]
  len := some 0
  room := 64
  act c s := .done s { result := windowBytes (schedReg s (schedNumber (tslot c))) 16 }

def execSchedQuery (c : Cmd) (s : State) : Meaning := .next (runOp opSchedQuery c s)

def opCalSet : OpDef where
  code := 0x0930
  master := true
  cond := true
  modes := mSafe
  len := some 16
  bad c _ :=
    let zero := par c 0 1 == 0
    [(0, decide (1 < par c 0 1)), (1, !isZero c.params 1 1), (2, decide (32767 < par c 2 2) || (zero && par c 2 2 != 0)),
     (4, zero && par c 4 6 != 0), (10, !isZero c.params 10 6)]
  act c s :=
    .done (bumpPkg (if par c 0 1 = 0 then setCalendar (timeSec s.time.now) (ticksOf s.time.now) s
      else setCalendar (par c 4 6) (par c 2 2) s)) {}

def execCalSet (c : Cmd) (s : State) : Meaning := .next (runOp opCalSet c s)

def opCalQuery : OpDef where
  code := 0x0931
  query := true
  idem := true
  modes := mSafe
  len := some 0
  room := 16
  act _ s := .done s { result := leBytes 6 s.cal.seconds ++ leBytes 2 s.cal.ticks ++ leBytes 4 (calStatus s) ++ leBytes 4 s.cal.syncNs32.toNat }

def execCalQuery (c : Cmd) (s : State) : Meaning := .next (runOp opCalQuery c s)

end Sys2Proof.Machine
end

