-- ==== Sys2Proof/Machine/Streams.lean ====
section
/-!
DEFINITION. The stream receiver (chapter 05): GVSP packets, gaps, resend requests and giving up, scheduled action commands, and
the stream commands. Packet layouts of GigE Vision that the manual does not print are those of the standard (log entry 14).
-/
namespace Sys2Proof.Machine
open Sys2Proof

/-! ### Packets -/

/-- A GVSP packet as the receiver reads it. -/
structure Gvsp where
  status : Nat
  ei : Bool
  block : Nat
  /-- 1 leader, 2 trailer, 3 generic payload. -/
  format : Nat
  pid : Nat
  body : List Byte
deriving DecidableEq, Repr

/-- The header of a GVSP packet: 8 bytes, or 20 with extended IDs. None when the packet is shorter than it (R89). -/
def parseGvsp (b : List Byte) : Option Gvsp :=
  if b.length < 8 then none
  else
    let ei := bit (be b 4 1) 7
    if ei then
      if b.length < 20 then none
      else some { status := be b 0 2, ei := true, block := be b 8 8, format := be b 4 1 % 16, pid := be b 16 4, body := b.drop 20 }
    else some { status := be b 0 2, ei := false, block := be b 2 2, format := be b 4 1 % 16, pid := be b 5 3, body := b.drop 8 }

/-- A packet is malformed for a channel by itself (R86, R89). -/
def malformed (id64 : Bool) (p : Gvsp) : Bool :=
  p.ei != id64 || !(p.format == 1 || p.format == 2 || p.format == 3) || p.block == 0
    || (if p.format = 1 then p.pid != 0 else p.pid == 0)

/-- Fields of a leader (Image, 36 bytes; multi-part, 12 bytes and 48 for each part). -/
def parseLeader (b : List Byte) : Leader :=
  let ty := be b 2 2
  let n := (b.length - 12) / 48
  if ty = 0x000A then
    { payloadType := ty, timestamp := be b 4 8, pixelFormat := be b 20 4, sizeX := be b 40 4, sizeY := be b 44 4
      offsetX := be b 48 4, offsetY := be b 52 4, padX := 0, padY := 0
      parts := (List.range n).map fun i => be b (12 + i * 48 + 32) 4 }
  else
    { payloadType := ty, timestamp := be b 4 8, pixelFormat := be b 12 4, sizeX := be b 16 4, sizeY := be b 20 4
      offsetX := be b 24 4, offsetY := be b 28 4, padX := be b 32 2, padY := be b 34 2, parts := [be b 20 4] }

/-- Every part of a multi-part leader is 2D image data of the channel's format and width, without padding. -/
def partsOk (l : Layout) (b : List Byte) : Bool :=
  let n := (b.length - 12) / 48
  (List.range n).all fun i =>
    let o := 12 + i * 48
    be b o 2 == 1 && be b (o + 8) 4 == l.pixelFormat && be b (o + 28) 4 == l.width

/-- The limits of Table 5-1. -/
def leaderOk (y : Layout) (b : List Byte) : Bool :=
  let l := parseLeader b
  if l.payloadType = 1 ∨ l.payloadType = 0x4001 then
    (l.payloadType == 1 || y.chunk) && l.pixelFormat == y.pixelFormat && l.sizeX == y.width && decide (1 ≤ l.sizeY)
      && decide (l.sizeY ≤ y.height) && l.padX == 0 && l.padY == 0
  else if l.payloadType = 0x000A then
    decide (1 ≤ l.parts.length) && decide (l.parts.length ≤ y.partsMax) && partsOk y b
      && decide ((l.parts.map fun h => (h + 15) / 16 * 16).foldl (· + ·) 0 ≤ y.height)
  else false

/-! ### Block IDs (R91) -/

/-- The extended ID of a packet; none when it belongs before wrap 0. -/
def extendId (c : Channel) (p : Gvsp) : Option Nat :=
  if c.active.layout.id64 then some p.block
  else match c.newest with
  | none => some p.block
  | some m =>
    if p.block + 32768 < m % 65536 then some ((m / 65536 + 1) * 65536 + p.block)
    else if m % 65536 + 32768 < p.block then (if m < 65536 then none else some ((m / 65536 - 1) * 65536 + p.block))
    else some (m / 65536 * 65536 + p.block)

/-- Block IDs strictly between two opened blocks (R92): without extended IDs, 0 is the ID of no block (R89). -/
def lostBetween (id64 : Bool) (a b : Nat) : Nat :=
  if id64 then b - 1 - a else (b - 1 - a) - ((b - 1) / 65536 - a / 65536)

/-! ### Gaps and giving up (R92 to R97) -/

def modBlock (g id : Nat) (f : Block → Block) (s : State) : State :=
  modChannel g (fun c => { c with blocks := c.blocks.map fun b => if b.id = id then f b else b }) s

/-- Every open block of a channel changes. -/
def modBlocks (g : Nat) (f : Channel → Block → Block) (s : State) : State :=
  modChannel g (fun c => { c with blocks := c.blocks.map (f c) }) s

def blockOf (s : State) (g id : Nat) : Option Block := (channelOf s g).blocks.find? fun b => decide (b.id = id)

/-- A missing position is given up at a time (R95). -/
def giveUp (g id q at_ : Nat) (s : State) : State :=
  countChannel g (fun c => { c with packetsMissing := c.packetsMissing + 1 })
    (modBlock g id (fun b => { b with positions := tput b.positions q (.givenUp at_), gaps := tdel b.gaps q }) s)

/-- Gaps below position n are detected at a time, with the resend settings in force (R93, R107). -/
def detect (y : Layout) (n at_ : Nat) (b : Block) : Block :=
  let new := (missingBelow b n).filter fun q => (tget? b.gaps q).isNone
  { b with
    gaps := new.foldl (fun t q => tput t q { detected := at_, holdoff := y.holdoffUs * us, retries := y.retries, interval := y.intervalUs * us }) b.gaps
    budgetAt := if new.isEmpty then b.budgetAt else some (b.budgetAt.getD (at_ + y.budgetUs * us)) }

/-- A packet of block `id` at position q reveals gaps in its block and in all earlier ones (R93). -/
def revealGaps (g id q at_ : Nat) (s : State) : State :=
  modBlocks g (fun c b =>
    if b.id < id then detect c.active.layout (revealTo c b) at_ b
    else if b.id = id then detect c.active.layout q at_ b
    else b) s

/-- Due time of the next request for a gap. -/
def requestDue (x : Gap) : Nat := x.detected + x.holdoff + x.requests * x.interval
/-- Time at which a gap is given up: retries exhausted, or resend disabled (Table 5-3). -/
def giveUpAt (x : Gap) : Nat := x.detected + x.holdoff + x.retries * x.interval

/-- No datagram that arrived before a time waits for the receiver on the channel's port. -/
def caughtUp (s : State) (g t : Nat) : Bool := (laneOf s (channelOf s g).active.layout.lane).toStream.all fun f => decide (t ≤ f.at_)

/-- The gaps of a block whose time has come now, with that time: the earlier of their own and the block's. -/
def spentGaps (s : State) (g : Nat) (b : Block) : Tab Nat :=
  b.gaps.filterMap fun (q, x) =>
    let due := min (giveUpAt x) (b.budgetAt.getD (giveUpAt x))
    if due ≤ s.clock ∧ caughtUp s g due then some (q, due) else none

/-- R95: positions whose retries, hold-off or block budget is spent are given up. -/
def execGiveUpTimer (channel : Nat) (s : State) : Meaning := .next <|
  noteReady channel (ns s) <| advance channel 8 ((channelOf s channel).blocks.foldl (fun s b => (spentGaps s channel b).foldl (fun s (q, t) => giveUp channel b.id q t s) s) s)

/-- R93: the channel has had no packet for QUIET_US while a block is open. -/
def execQuietTimeout (channel : Nat) (s : State) : Meaning := .next <|
  let c := channelOf s channel
  if c.blocks.isEmpty || decide (s.clock < c.lastPacket + c.active.layout.quietUs * us) || !caughtUp s channel s.clock then s
  else noteReady channel (ns s) <| advance channel 8 (modBlocks channel (fun c b =>
    match trailerOf (blockSet c b) b with
    | some t => detect c.active.layout (t + 1) s.clock b
    | none => { b with quiet := some s.clock }) s)

/-- Present positions of a block from a position on. -/
def presentFrom (b : Block) (n : Nat) : Nat := (b.positions.filter fun (q, x) => decide (n ≤ q) && isPresent x).length

/-- Present positions of blocks that wait behind a missing one in release order (R97). -/
def heldIn (c : Channel) : List Block → Nat
  | [] => 0
  | b :: rest =>
    if complete (blockSet c b) b then heldIn c rest
    else presentFrom b (resolvedRun b.positions 0 (lastKnown b + 1)) + (rest.map (presentFrom · 0)).foldl (· + ·) 0

def heldPackets (c : Channel) : Nat := heldIn c c.blocks

/-- The first missing position of a channel in release order: its block and the position, or none for the trailer of a block that
lacks nothing else, when its position is not known. -/
def firstMissing (c : Channel) : List Block → Option (Nat × Option Nat)
  | [] => none
  | b :: rest =>
    if complete (blockSet c b) b then firstMissing c rest else some (b.id, (missingBelow b (revealTo c b)).head?)

/-- Gives up a position, or the trailer of a block: it closes as one whose trailer is never known (R93). -/
def giveUpFirst (g at_ : Nat) (x : Nat × Option Nat) (s : State) : State :=
  match x with
  | (id, some q) => giveUp g id q at_ s
  | (id, none) => modBlock g id (fun b => { b with quiet := some at_ }) s

/-- Gives up first missing positions until fewer than 4,096 packets are held, each counted in HOLD_FORCED. -/
def shrinkHold (g at_ : Nat) : Nat → State → State
  | 0, s => s
  | n + 1, s =>
    let c := channelOf s g
    if heldPackets c < 4096 then s
    else match firstMissing c c.blocks with
    | none => s
    | some x => shrinkHold g at_ n (advance g 8 (countChannel g (fun c => { c with holdForced := c.holdForced + 1 }) (giveUpFirst g at_ x s)))

/-- A packet arrives while 4,096 packets are held (Table 5-3): HOLD_FORCED tells how many positions are given up. That further
positions follow while 4,096 packets are still held, and that a block which lacks only an unknown trailer gives that up, is the
model's reading of R97 (log entry 81). -/
def forceHold (g at_ : Nat) (s : State) : State :=
  let c := channelOf s g
  let t := shrinkHold g at_ ((c.blocks.map fun b => (missingBelow b (revealTo c b)).length + 1).foldl (· + ·) 0) s
  let n := ((channelOf t g).counters.holdForced - c.counters.holdForced).toNat
  if n = 0 then t else raiseChan g 51 n t

/-- A fifth block would open: every gap of the oldest open block is given up, and it closes (R92). -/
def forceOldest (g at_ : Nat) (s : State) : State :=
  let c := channelOf s g
  match c.blocks with
  | [] => s
  | b :: _ =>
    let n := revealTo c b
    let s := (missingBelow b n).foldl (fun s q => giveUp g b.id q at_ s) (modBlock g b.id (detect c.active.layout n at_) s)
    advance g 8 (takeLeader g (modBlock g b.id (fun b => { b with quiet := some at_ }) s))

/-- A block opens; the blocks between it and the last opened one are lost (R92). -/
def openBlock (g id stamp at_ : Nat) (s : State) : State :=
  let s := if (channelOf s g).blocks.length ≥ 4 then forceOldest g at_ s else s
  let c := channelOf s g
  let lost := match c.lastOpened with
    | some o => lostBetween c.active.layout.id64 o id
    | none => 0
  let s := putChannel g { c with
    blocks := c.blocks ++ [{ id := id, first := stamp }], lastOpened := some id, dropped := c.dropped.filter (id < ·)
    counters := { c.counters with blocksLost := c.counters.blocksLost + BitVec.ofNat 64 lost } } s
  if lost = 0 then s else raiseChan g 48 lost s

/-- A packet takes its place in its block (R90, R95), or drops its block as a format mismatch (R87). Where R90 leaves it open, a
packet with a non-zero status for a position that is no longer missing counts in STATUS_NONZERO alone, and one that is a trailer
does not make the trailer's position known: the position it names counts as any other (log entry 81). A packet for a given-up position that
was received before the moment of giving up is not late (R95); giving up is final, so it is dropped, and the model counts it nowhere, since
no counter is named for it (log entry 81). -/
def placePacket (g id : Nat) (p : Gvsp) (f : RxFrame) (s : State) : State :=
  match blockOf s g id with
  | none => s
  | some b =>
    if p.status ≠ 0 then
      let s := countChannel g (fun c => { c with statusNonzero := c.statusNonzero + 1 }) s
      if (tget? b.positions p.pid).isSome then s else giveUp g id p.pid f.at_ s
    else match tget? b.positions p.pid with
    | some (.present _ _ _) => countChannel g (fun c => { c with packetsDuplicate := c.packetsDuplicate + 1 }) s
    | some (.givenUp t) =>
      if f.at_ < t then s else countChannel g (fun c => { c with packetsLate := c.packetsLate + 1 }) (modBlock g id (fun b => { b with late := true }) s)
    | none =>
      let c := channelOf s g
      if p.format = 1 ∧ !leaderOk c.active.layout p.body then
        raiseChan g 50 1 (modChannel g (fun c => { c with
          blocks := c.blocks.filter fun b => b.id ≠ id
          mismatched := if c.lastOpened = some id then some id else c.mismatched
          gone := keepGone c (c.blocks.filter fun b => b.id = id)
          counters := { c.counters with formatMismatch := c.counters.formatMismatch + 1 } }) s)
      else
        let sent := ((tget? b.gaps p.pid).map (·.sent)).getD false
        let s := modBlock g id (fun b =>
          let b := { b with
            positions := tput b.positions p.pid (.present f.stamp (if p.format = 3 then p.body else []) sent)
            gaps := tdel b.gaps p.pid, first := min b.first f.stamp
            resent := if sent then b.resent + 1 else b.resent
            leader := if p.format = 1 then some (parseLeader p.body) else b.leader
            trailer := if p.format = 2 ∧ b.trailer.isNone then some p.pid else b.trailer }
          { b with plen := if b.plen.isSome then b.plen else findP (blockSet c b) b }) s
        if sent then countChannel g (fun c => { c with packetsResent := c.packetsResent + 1 }) s else s

/-- A data packet beyond the trailer that its open block has received (R89). -/
def beyondTrailer (c : Channel) (id : Nat) (p : Gvsp) : Bool :=
  p.format == 3 && c.blocks.any fun b => b.id == id && (b.trailer.map fun t => decide (t < p.pid)).getD false

/-- The packets of a block are stale: at or below a closed block, or not open and below an opened one (R91). -/
def staleFor (c : Channel) (id : Nat) : Bool :=
  (c.lastClosed.map fun k => decide (id ≤ k)).getD false
    || (!(c.blocks.any fun b => b.id == id) && (c.lastOpened.map fun k => decide (id < k)).getD false)

/-- The position that a packet names was given up, at or before its receipt, in a block that has left the receiver (R95). -/
def lateFor (c : Channel) (id : Nat) (p : Gvsp) (at_ : Nat) : Bool :=
  p.status == 0 && c.gone.any fun (b, l) => b == id && ((tget? l p.pid).map fun t => decide (t ≤ at_)).getD false

/-- A stale packet is dropped; one for a position that was given up is late as well (R91, R95; log entry 81). The model's own choice: a
non-zero status in a stale packet does not count in STATUS_NONZERO, and in a packet of a dropped or mismatched block it counts nowhere, where
R90 meets R91, R85 and R87 (log entry 81). -/
def dropStale (g id : Nat) (p : Gvsp) (at_ : Nat) (s : State) : State :=
  let late := lateFor (channelOf s g) id p at_
  countChannel g (fun c => { c with
    staleBlock := c.staleBlock + 1, packetsLate := if late then c.packetsLate + 1 else c.packetsLate }) s

/-- A block that does not open is dropped and counted once, however its packets mix with others (R85). -/
def dropBlock (g id : Nat) (s : State) : State :=
  modChannel g (fun c => if c.dropped.contains id then c
    else { c with dropped := id :: c.dropped, counters := { c.counters with framesDropped := c.counters.framesDropped + 1 } }) s

/-- A well-formed packet of a channel with its extended ID: stale, of a block that is dropped, or placed in its block. It reveals the
gaps before it (R93). The packets of a block that was dropped in part stay dropped when frames open again (log entry 81). -/
def receivePacket (g id : Nat) (p : Gvsp) (f : RxFrame) (s : State) : State :=
  let c := channelOf s g
  let isOpen := c.blocks.any fun b => b.id == id
  if beyondTrailer c id p then countChannel g (fun c => { c with malformed := c.malformed + 1 }) s
  else
    let s := modChannel g (fun c => { c with newest := some (max id (c.newest.getD 0)), lastPacket := f.at_ }) s
    if staleFor c id then dropStale g id p f.at_ s
    else if !isOpen && c.mismatched == some id then revealGaps g id p.pid f.at_ s
    else if !isOpen && (c.dropped.contains id || !opening s (g / 64)) then dropBlock g id (revealGaps g id p.pid f.at_ s)
    else
      let s := if isOpen then s else openBlock g id f.stamp f.at_ s
      noteReady g (f.stamp / 65536) (advance g 8 (placePacket g id p f (revealGaps g id p.pid f.at_ (forceHold g f.at_ s))))

/-- The channel of a lane that claims a datagram (R83). -/
def claimant (s : State) (l : Nat) (i : Ip) : Option Nat := (s.st.channels.find? fun (_, c) => claims s l i c).map (·.1)

/-- R83 to R97: the oldest GVSP datagram that waits at a lane is taken in by its channel. -/
def execGvspPacket (lane : Nat) (s : State) : Meaning := .next <|
  match (laneOf s lane).toStream with
  | [] => s
  | f :: rest =>
    let s := modLane lane (fun x => { x with toStream := rest }) s
    let b := f.bytes.drop 14
    let i := ipOf b
    match claimant s lane i with
    | none => s
    | some g =>
      let c := channelOf s g
      let udp := (b.take i.total).drop (i.ihl + 8)
      match parseGvsp (udp.take (be b (i.ihl + 4) 2 - 8)) with
      | none => countChannel g (fun c => { c with malformed := c.malformed + 1 }) s
      | some p =>
        if malformed c.active.layout.id64 p then countChannel g (fun c => { c with malformed := c.malformed + 1 }) s
        else match extendId c p with
        | none => modChannel g (fun c => { c with
            lastPacket := f.at_, counters := { c.counters with staleBlock := c.counters.staleBlock + 1 } }) s
        | some id => receivePacket g id p f s

/-! ### GVCP packets that the device sends (R81, R94, R101 to R104) -/

/-- The IPv4 header of a datagram that the device builds, with its checksum. Identification and time to live: log entry 12. -/
def ipHeader (free len src dst : Nat) : List Byte :=
  let f := (Config.freeIpFields free).toNat
  let h (ck : Nat) : List Byte := [0x45, 0] ++ beBytes 2 len ++ beBytes 2 (f % 65536) ++ [0, 0]
    ++ beBytes 1 (f / 65536) ++ [17] ++ beBytes 2 ck ++ beBytes 4 src ++ beBytes 4 dst
  h (65535 - (sum16 (h 0) + 65534) % 65535 - 1)

/-- The UDP header and payload, with its checksum. -/
def udpDatagram (src dst sport dport : Nat) (body : List Byte) : List Byte :=
  let n := 8 + body.length
  let head (ck : Nat) : List Byte := beBytes 2 sport ++ beBytes 2 dport ++ beBytes 2 n ++ beBytes 2 ck
  let sum := sum16 (beBytes 4 src ++ beBytes 4 dst) + 17 + n + sum16 (head 0 ++ body)
  let ck := 65535 - (sum + 65534) % 65535 - 1
  head (if ck = 0 then 65535 else ck) ++ body

/-- req_id of the next packet on a port (R101). -/
def nextReqId (s : State) (l : Nat) : Nat :=
  let n := tget 0 s.st.reqId l
  if n = 65535 then 1 else n + 1

/-- Sends a GVCP command from a port: flags, command, payload. -/
def sendGvcp (l mac dst dport flags command : Nat) (body : List Byte) (s : State) : State :=
  let x := laneOf s l
  let r := nextReqId s l
  let gvcp := [0x42, BitVec.ofNat 8 flags] ++ beBytes 2 command ++ beBytes 2 body.length ++ beBytes 2 r ++ body
  let udp := udpDatagram x.ip dst (gvcpLocal s l) dport gvcp
  let frame := beBytes 6 mac ++ macBytes x.mac ++ beBytes 2 0x0800 ++ ipHeader s.free (20 + udp.length) x.ip dst ++ udp
  sendFrame l frame { useFree s with st := { s.st with reqId := tput s.st.reqId l r } }

/-- PACKETRESEND_CMD for positions a to b of a block (R94). -/
def sendResend (g id a b : Nat) (s : State) : State :=
  let y := (channelOf s g).active.layout
  let src := tget {} s.st.sources (y.lane * 16 + y.source)
  let body := if y.id64 then beBytes 2 y.camSci ++ beBytes 2 0 ++ beBytes 4 a ++ beBytes 4 b ++ beBytes 8 id
    else beBytes 2 y.camSci ++ beBytes 2 (id % 65536) ++ beBytes 4 a ++ beBytes 4 b
  countChannel g (fun c => { c with resendRequests := c.resendRequests + 1 })
    (sendGvcp y.lane src.mac src.ip src.gvcpPort (if y.id64 then 0x10 else 0) 0x0040 body s)

/-- Contiguous runs of positions, from an ascending list. -/
def runs : List Nat → List (Nat × Nat)
  | [] => []
  | q :: rest =>
    match runs rest with
    | (a, b) :: t => if a = q + 1 then (q, b) :: t else (q, q) :: (a, b) :: t
    | [] => [(q, q)]

/-- Runs requested and unanswered on a channel, one of them left out (R94). -/
def outstandingBut (c : Channel) (r : Option Nat) : Nat :=
  ((c.blocks.map fun b => b.gaps.filterMap fun (_, x) => if x.run = r then none else x.run).flatten.eraseDups).length

/-- A gap's request is due (first or repeated). -/
def dueRequest (s : State) (first : Bool) (x : Gap) : Bool :=
  first == decide (x.requests = 0) && decide (x.requests < x.retries) && decide (requestDue x ≤ s.clock)

/-- Requests whose moment has passed, at most RETRIES. -/
def passedRequests (s : State) (x : Gap) : Nat :=
  if x.interval = 0 then x.requests + 1 else min x.retries ((s.clock - x.detected - x.holdoff) / x.interval + 1)

/-- A gap as a request for positions `r` leaves it: the run that the request repeats ends, and the positions form a new run. -/
def requested (s : State) (r : Nat × Nat) (old : Option Nat) (new : Nat) (q : Nat) (x : Gap) : Gap :=
  if r.1 ≤ q ∧ q ≤ r.2 then { x with requests := passedRequests s x, sent := true, run := some new }
  else if x.run = old then { x with run := none } else x

/-- One request for a run of gaps due at the same moment: sent while the port is UP, counted in any case (R94, R96). -/
def requestRun (g id : Nat) (s : State) (r : Nat × Nat) : State :=
  let c := channelOf s g
  let old := ((blockOf s g id).bind fun b => tget? b.gaps r.1).bind (·.run)
  if isUp s c.active.layout.lane then
    if outstandingBut c old < 256 then
      let new := c.counters.resendRequests.toNat
      sendResend g id r.1 r.2 (modBlock g id (fun b => { b with gaps := b.gaps.map fun (q, x) => (q, requested s r old new q x) }) s)
    else s
  else modBlock g id (fun b => { b with gaps := b.gaps.map fun (q, x) =>
    (q, if r.1 ≤ q ∧ q ≤ r.2 then { x with requests := passedRequests s x } else x) }) s

/-- Due times of the gaps of a block whose request is due. -/
def dueMoments (s : State) (first : Bool) (b : Block) : List Nat :=
  (b.gaps.filterMap fun (_, x) => if dueRequest s first x then some (requestDue x) else none).eraseDups

/-- Requests of a block that are due: one for each run of one moment. -/
def requestBlock (g : Nat) (first : Bool) (s : State) (b : Block) : State :=
  (dueMoments s first b).foldl (fun s t =>
    (runs (b.gaps.filterMap fun (q, x) => if dueRequest s first x && decide (requestDue x = t) then some q else none)).foldl
      (requestRun g b.id) s) s

def modAction (k : Nat) (f : Action → Action) (s : State) : State :=
  { s with st := { s.st with actions := tmod {} s.st.actions k f } }

/-- The ACTION_CMD of an entry with its action time (R103), or one missed (R104). -/
def sendAction (t index due : Nat) (s : State) : State :=
  let k := t * 16 + index
  let a := tget {} s.st.actions k
  let src := tget {} s.st.sources (a.lane * 16 + a.dest)
  let x := laneOf s a.lane
  if !a.valid || !isUp s a.lane || (a.dest ≠ 16 && !src.valid) then
    let s := modAction k (fun a => { a with missed := a.missed + 1 }) s
    raise t 52 (index + 2 ^ 8 * satU 24 (a.missed + 1).toNat) s
  else
    let time := due / 65536
    let body := beBytes 4 a.deviceKey ++ beBytes 4 a.groupKey ++ beBytes 4 a.groupMask ++ beBytes 8 (time % 2 ^ 64)
    let s := modAction k (fun a => { a with sent := a.sent + 1, lastNs32 := ns32 s }) s
    let flags := 0x80 + b2n a.ackReq
    if a.dest = 16 then sendGvcp a.lane 0xFFFFFFFFFFFF (x.ip ||| (0xFFFFFFFF - x.mask)) 3956 flags 0x0100 body s
    else sendGvcp a.lane src.mac src.ip src.gvcpPort flags 0x0100 body s

/-! ### Commands (Table 5-13 to Table 5-15) -/

def laneTile (c : Cmd) : Nat := par c 0 1 / 8

def opStreamPortSet : OpDef where
  code := 0x0301
  idem := true
  master := true
  cond := true
  modes := mReady
  len := some 4
  bad c s := [(0, !isPrimary s (par c 0 1)), (1, !isZero c.params 1 1), (2, par c 2 2 == 0 || par c 2 2 == 3956)]
  tile c _ := some (laneTile c)
  wrong c s := !serving s (laneTile c)
  act c s :=
    if gvcpLocal s (par c 0 1) = par c 2 2 then .done s {}
    else .done (bumpPkg { s with st := { s.st with gvcpLocal := tput s.st.gvcpLocal (par c 0 1) (par c 2 2) } }) {}

def execStreamPortSet (c : Cmd) (s : State) : Meaning := .next (runOp opStreamPortSet c s)

def sourceParam (c : Cmd) : Source where
  mac := be c.params 4 6
  ip := par c 12 4
  gvcpPort := par c 10 2
  valid := par c 2 1 == 1

/-- The datagrams that a channel claims: lane, source address, UDP port, destination. -/
def claimKey (ip : Nat) (y : Layout) : Nat × Nat × Nat × Nat :=
  (y.lane, ip, y.destUdp, if y.multicast then y.groupIp else 0)

def sourceIp (s : State) (y : Layout) : Nat := (tget {} s.st.sources (y.lane * 16 + y.source)).ip

/-- Live channels with their claims, given the table of source addresses. -/
def liveClaims (s : State) (ipOf : Layout → Nat) : List (Nat × Nat × Nat × Nat) :=
  s.st.channels.filterMap fun (_, c) => if c.live then some (claimKey (ipOf c.active.layout) c.active.layout) else none

def hasDup : List (Nat × Nat × Nat × Nat) → Bool
  | [] => false
  | a :: t => t.contains a || hasDup t

def usesSource (l i : Nat) (c : Channel) : Bool := c.live && c.active.layout.lane == l && c.active.layout.source == i

def opStreamSourceSet : OpDef where
  code := 0x0302
  idem := true
  master := true
  cond := true
  modes := mReady
  len := some 16
  bad c s :=
    [(0, !isPrimary s (par c 0 1)), (1, decide (15 < par c 1 1)), (2, decide (1 < par c 2 1)), (3, !isZero c.params 3 1),
     (4, bit (par c 4 1) 0), (12, par c 12 4 == 0)]
  tile c _ := some (laneTile c)
  wrong c s := !serving s (laneTile c)
  busy c s :=
    (par c 2 1 == 0 && s.st.channels.any fun (_, x) => usesSource (par c 0 1) (par c 1 1) x)
      || hasDup (liveClaims s fun y => if y.lane = par c 0 1 ∧ y.source = par c 1 1 then par c 12 4 else sourceIp s y)
  act c s :=
    let k := par c 0 1 * 16 + par c 1 1
    if tget {} s.st.sources k = sourceParam c then .done s {}
    else .done (bumpPkg { s with st := { s.st with sources := tput s.st.sources k (sourceParam c) } }) {}

def execStreamSourceSet (c : Cmd) (s : State) : Meaning := .next (runOp opStreamSourceSet c s)

/-- The channel layout of the parameters (Table 5-15). -/
def layoutParam (c : Cmd) : Layout where
  lane := par c 0 1
  source := par c 1 1
  id64 := bit (par c 2 2) 0
  deliver := bit (par c 2 2) 1
  record := bit (par c 2 2) 2
  dropIncomplete := bit (par c 2 2) 3
  multicast := bit (par c 2 2) 4
  chunk := bit (par c 2 2) 5
  camSci := par c 4 2
  destUdp := par c 6 2
  groupIp := par c 8 4
  pixelFormat := par c 12 4
  width := par c 16 2
  height := par c 18 2
  partsMax := par c 20 1
  fillValue := par c 22 2
  chunkMax := par c 24 4
  peakKpx := par c 28 4
  bufQueue := par c 32 4
  cplQueue := par c 36 4
  holdoffUs := par c 40 2
  retries := par c 42 1
  intervalUs := par c 44 4
  budgetUs := par c 48 4
  quietUs := par c 52 4

def layoutBytes (y : Layout) : List Byte :=
  leBytes 1 y.lane ++ leBytes 1 y.source
    ++ leBytes 2 (b2n y.id64 + 2 * b2n y.deliver + 4 * b2n y.record + 8 * b2n y.dropIncomplete + 16 * b2n y.multicast + 32 * b2n y.chunk)
    ++ leBytes 2 y.camSci ++ leBytes 2 y.destUdp ++ leBytes 4 y.groupIp ++ leBytes 4 y.pixelFormat ++ leBytes 2 y.width
    ++ leBytes 2 y.height ++ leBytes 1 y.partsMax ++ [0] ++ leBytes 2 y.fillValue ++ leBytes 4 y.chunkMax ++ leBytes 4 y.peakKpx
    ++ leBytes 4 y.bufQueue ++ leBytes 4 y.cplQueue ++ leBytes 2 y.holdoffUs ++ leBytes 1 y.retries ++ [0]
    ++ leBytes 4 y.intervalUs ++ leBytes 4 y.budgetUs ++ leBytes 4 y.quietUs ++ zeros 8

/-- A queue handle of a layout: zero, or naming a queue of the type. -/
def layoutQueueBad (s : State) (deliver : Bool) (ty : QType) (h : Nat) : Bool :=
  if h = 0 then false
  else !deliver || handleKind h != 2 || decide (tiles s ≤ handleTile h) || decide (2048 ≤ handleIndex h)
    || (handleLive s h && !queueLive s h ty)

def between (lo hi n : Nat) : Bool := decide (lo ≤ n) && decide (n ≤ hi)

/-- The checks of Table 5-15 on each field. -/
def layoutBad (c : Cmd) (s : State) : List (Nat × Bool) :=
  let y := layoutParam c
  let occ := (pixFmt y.pixelFormat).occ
  [(0, !isPrimary s y.lane),
   (1, decide (15 < y.source) || !(tget {} s.st.sources (y.lane * 16 + y.source)).valid),
   (2, decide (64 ≤ par c 2 2)), (4, false),
   (6, [0, 319, 320, 3956].contains y.destUdp || y.destUdp == gvcpLocal s y.lane),
   (8, if y.multicast then !between 0xE0000000 0xEFFFFFFF y.groupIp else y.groupIp != 0),
   (12, (pixFmt? y.pixelFormat).isNone), (16, y.width == 0 || decide (y.width * occ % 8 ≠ 0)), (18, y.height == 0),
   (20, !between 1 8 y.partsMax), (21, !isZero c.params 21 1),
   (24, decide (65536 < y.chunkMax) || (!y.chunk && y.chunkMax != 0)), (28, !between 1 80000000 y.peakKpx),
   (32, layoutQueueBad s y.deliver .buffer y.bufQueue), (36, layoutQueueBad s y.deliver .completion y.cplQueue),
   (40, decide (1000 < y.holdoffUs)), (42, decide (15 < y.retries)), (43, !isZero c.params 43 1),
   (44, !between 10 100000 y.intervalUs), (48, !between 100 1000000 y.budgetUs), (52, !between 1000 1000000 y.quietUs),
   (56, !isZero c.params 56 8)]

/-- The queues that a layout names are live and owned by the sender (R47). -/
def layoutQueues (c : Cmd) (_ : State) : List Nat := namedHandles [par c 32 4, par c 36 4]

/-- A 17th multicast group on the port (R84). -/
def tooManyGroups (s : State) (y : Layout) : Bool :=
  y.multicast && !(joinedGroups s y.lane).contains y.groupIp && decide (16 ≤ (joinedGroups s y.lane).length)

/-- A channel as created (R82). -/
def newChannel (y : Layout) (clock : Nat) : Channel :=
  let set : ChanSet := { layout := y, gen := 1 }
  { live := true, shadow := set, active := set, sent := set, lastPacket := clock }

/-- What a channel slot kept of the channel that used it before goes (R82, R108). -/
def clearSlot (g : Nat) (s : State) : State :=
  { s with
    cd := { s.cd with chans := tdel s.cd.chans g }, ad := { s.ad with chans := tdel s.ad.chans g }
    fs := { s.fs with rings := tdel s.fs.rings g }
    mv := { s.mv with droppedCount := tdel s.mv.droppedCount g, droppedAt := tdel s.mv.droppedAt g } }

def opStreamCreate : OpDef where
  code := 0x0310
  modes := mReady
  len := some 64
  bad := layoutBad
  refs := layoutQueues
  tile c _ := some (laneTile c)
  wrong c s := !serving s (laneTile c)
  busy c s := (liveClaims s (sourceIp s)).contains (claimKey (sourceIp s (layoutParam c)) (layoutParam c))
  short c s := (freeIndex s 1 (laneTile c) 0 64).isNone || tooManyGroups s (layoutParam c)
  act c s :=
    let t := laneTile c
    let i := (freeIndex s 1 t 0 64).getD 0
    let k := slotOf 1 t i
    let s := createObj k c.port (putChannel (t * 64 + i) (newChannel (layoutParam c) s.clock) (clearSlot (t * 64 + i) s))
    .done (settleRing (t * 64 + i) s) { handle := some (handleOf s k) }

def execStreamCreate (c : Cmd) (s : State) : Meaning := .next (runOp opStreamCreate c s)

/-- Fields that STREAM_CONFIG may not change (chapter 05, "Stream commands"). -/
def fixedBad (c : Cmd) (y : Layout) : List (Nat × Bool) :=
  let x := layoutParam c
  [(0, x.lane != y.lane), (1, x.source != y.source), (2, x.id64 != y.id64 || x.multicast != y.multicast || x.chunk != y.chunk),
   (4, x.camSci != y.camSci), (6, x.destUdp != y.destUdp), (8, x.groupIp != y.groupIp), (12, x.pixelFormat != y.pixelFormat),
   (16, x.width != y.width), (18, x.height != y.height), (20, x.partsMax != y.partsMax)]

/-- Two lists of checks in offset order. -/
def mergeBad (a b : List (Nat × Bool)) : List (Nat × Bool) :=
  a.map fun (o, v) => (o, v || b.any fun (o', v') => o' == o && v')

def targetChannel (c : Cmd) (s : State) : Channel := channelOf s (chanOfHandle (tgt c))

/-- CD_CAPACITY of a tile (Table 7-7). -/
def capacity (s : State) (t : Nat) : Nat :=
  20000000 * ((List.range 4).filter fun e => !(tget {} s.cd.engines (t * 4 + e)).suspect).length

/-- Rate that the last set sent to a commit has admitted for a channel (R16). -/
def admittedRate (c : Channel) : Nat := if c.live && decide (c.sent.codec.mode ≠ .off) then c.sent.layout.peakKpx else 0

def chanTotal (s : State) (t skip : Nat) (f : Channel → Nat) : Nat :=
  (s.st.channels.map fun (g, c) => if g / 64 = t ∧ g ≠ skip then f c else 0).foldl (· + ·) 0

/-- The rate of a set does not fit beside that of the other channels of the tile (R16). -/
def rateShort (s : State) (g : Nat) (set : ChanSet) : Bool :=
  decide (set.codec.mode ≠ .off) && decide (capacity s (g / 64) < chanTotal s (g / 64) g admittedRate + set.layout.peakKpx)

/-- STREAM_CONFIG changes the rate of a channel whose codec is not OFF. -/
def rateChanges (c : Cmd) (s : State) : Bool :=
  let x := targetChannel c s
  decide (x.shadow.codec.mode ≠ .off) && (layoutParam c).peakKpx != x.shadow.layout.peakKpx

def configSet (c : Cmd) (s : State) : ChanSet := { (targetChannel c s).shadow with layout := layoutParam c }

def opStreamConfig : OpDef where
  code := 0x0311
  idem := true
  cond := true
  modes := mReady
  kinds := [1]
  len := some 64
  bad c s := mergeBad (layoutBad c s) (fixedBad c (targetChannel c s).shadow.layout)
  refs := layoutQueues
  wrong := chanIdle
  short c s := rateChanges c s && rateShort s (chanOfHandle (tgt c)) (configSet c s)
  act c s := perFrame 0x0311 c 0 (configSet c s) false [] s

def execStreamConfig (c : Cmd) (s : State) : Meaning := .next (runOp opStreamConfig c s)

def ownerByte (c : Cmd) (s : State) : Nat := ((obj? s (tslot c)).map (·.owner)).getD 0
def orphanByte (c : Cmd) (s : State) : Nat := b2n (((obj? s (tslot c)).map (·.orphaned)).getD false)

/-- The result of STREAM_QUERY. -/
def streamView (c : Cmd) (s : State) : List Byte :=
  let x := targetChannel c s
  layoutBytes x.shadow.layout ++ leBytes 1 (ownerByte c s) ++ leBytes 1 (orphanByte c s) ++ leBytes 1 x.blocks.length ++ [0]
    ++ leBytes 2 (heldPackets x) ++ zeros 2 ++ leBytes 8 (x.lastClosed.getD 0)

def opStreamQuery : OpDef where
  code := 0x0313
  query := true
  idem := true
  modes := mSafe
  kinds := [1]
  len := some 0
  room := 80
  wrong := chanIdle
  act c s := .done s { result := streamView c s }

def execStreamQuery (c : Cmd) (s : State) : Meaning := .next (runOp opStreamQuery c s)

def actionKey (c : Cmd) : Nat := par c 0 1 * 16 + par c 1 1

def actionParam (c : Cmd) (a : Action) : Action := { a with
  lane := par c 2 1, dest := par c 3 1, valid := bit (par c 4 1) 0, ackReq := bit (par c 4 1) 1
  deviceKey := par c 8 4, groupKey := par c 12 4, groupMask := par c 16 4, leadNs := par c 20 4 }

/-- A scheduled output targets an action entry. -/
def actionUsed (s : State) (t i : Nat) : Bool :=
  s.time.scheds.any fun (k, o) => k / 8 == t && decide (o.kind = .action) && o.index == i && o.state != 0

def opActionSet : OpDef where
  code := 0x0320
  idem := true
  master := true
  cond := true
  modes := mReady
  len := some 24
  bad c s :=
    [(0, decide (tiles s ≤ par c 0 1)), (1, decide (15 < par c 1 1)),
     (2, !isPrimary s (par c 2 1) || par c 2 1 / 8 != par c 0 1), (3, decide (16 < par c 3 1)),
     (4, decide (4 ≤ par c 4 1)), (5, !isZero c.params 5 3), (20, !between 10000 1000000000 (par c 20 4))]
  tile c _ := some (par c 0 1)
  wrong c s := !serving s (par c 0 1)
  busy c s := !bit (par c 4 1) 0 && actionUsed s (par c 0 1) (par c 1 1)
  act c s :=
    let a := tget {} s.st.actions (actionKey c)
    if actionParam c a = a then .done s {} else .done (bumpPkg (modAction (actionKey c) (actionParam c) s)) {}

def execActionSet (c : Cmd) (s : State) : Meaning := .next (runOp opActionSet c s)

/-- Registers of an action entry (Table 5-12), by offset / 4. -/
def actionReg (s : State) (k : Nat) : Nat → Nat
  | 0 => let a := tget {} s.st.actions k
    a.lane + 2 ^ 8 * a.dest + 2 ^ 13 * b2n a.ackReq + 2 ^ 14 * b2n a.valid
  | 1 => (tget {} s.st.actions k).deviceKey
  | 2 => (tget {} s.st.actions k).groupKey
  | 3 => (tget {} s.st.actions k).groupMask
  | 4 => (tget {} s.st.actions k).leadNs
  | 5 => (tget {} s.st.actions k).sent.toNat
  | 6 => (tget {} s.st.actions k).missed.toNat
  | 7 => (tget {} s.st.actions k).lastNs32.toNat
  | _ => 0

def opActionQuery : OpDef where
  code := 0x0321
  query := true
  idem := true
  modes := mSafe
  len := some 4
  room := 32
  bad c s := [(0, decide (tiles s ≤ par c 0 1)), (1, decide (15 < par c 1 1)), (2, !isZero c.params 2 2)]
  act c s := .done s { result := windowBytes (actionReg s (actionKey c)) 8 }

def execActionQuery (c : Cmd) (s : State) : Meaning := .next (runOp opActionQuery c s)

end Sys2Proof.Machine
end

