-- ==== Sys2Proof/Machine/Activity.lean ====
section
/-!
DEFINITION. The activity detector (chapter 09): statistics and rules on the bands that enter the codec island, reference frames,
activity memory, and the detector commands.
-/
namespace Sys2Proof.Machine
open Sys2Proof

/-! ### Planes and slices (R134, R135) -/

def planeCount (bayer : Bool) : Nat := if bayer then 4 else 1
def planeRows (bayer : Bool) (height p : Nat) : Nat := if bayer then (if p < 2 then (height + 1) / 2 else height / 2) else height
def planeCols (bayer : Bool) (width p : Nat) : Nat := if bayer then (if p % 2 = 0 then (width + 1) / 2 else width / 2) else width

/-- Line and column in the frame of a pixel of a plane. -/
def framePixel (bayer : Bool) (p r c : Nat) : Nat × Nat := if bayer then (2 * r + p / 2, 2 * c + p % 2) else (r, c)

/-- The place of a slice: plane, first row and rows, first column and columns, in plane coordinates. -/
structure Place where
  plane : Nat
  r0 : Nat
  rows : Nat
  c0 : Nat
  cols : Nat
deriving DecidableEq, Repr

/-- The slices of band k of a frame, in the order of R135. -/
def bandPlaces (bayer : Bool) (width height k : Nat) : List Place :=
  ((List.range (planeCount bayer)).map fun p =>
    let rows := min 16 (planeRows bayer height p - 16 * k)
    let cols := planeCols bayer width p
    if rows = 0 then []
    else (List.range ((cols + 63) / 64)).map fun i => { plane := p, r0 := 16 * k, rows := rows, c0 := 64 * i, cols := min 64 (cols - 64 * i) }).flatten

/-- Frame coordinates of the pixels of a slice, row by row. -/
def placePixels (bayer : Bool) (x : Place) : List (List (Nat × Nat)) :=
  (List.range x.rows).map fun r => (List.range x.cols).map fun c => framePixel bayer x.plane (x.r0 + r) (x.c0 + c)

def frameWidth (f : Frame) : Nat := f.set.layout.width
def isBayer (f : Frame) : Bool := (frameFmt f).bayer
def placesOf (f : Frame) (k : Nat) : List Place := bandPlaces (isBayer f) (frameWidth f) (frameHeight f.leader) k

/-! ### ROIs -/

def inRoi (r : Roi) (p i j : Nat) : Bool :=
  bit r.planes p && decide (r.x0 ≤ j) && decide (j < r.x0 + r.w) && decide (r.y0 ≤ i) && decide (i < r.y0 + r.h)

/-- The pixels that an ROI shares with a slice. -/
def sharedPixels (f : Frame) (r : Roi) (x : Place) : List (Nat × Nat) :=
  ((placePixels (isBayer f) x).flatten).filter fun (i, j) => inRoi r x.plane i j

/-- A slice of the grid holds a pixel of an ROI (R180). -/
def holdsPixel (f : Frame) (r : Roi) (x : Place) : Bool :=
  bit r.planes x.plane
    && (List.range x.rows).any (fun n => let i := (framePixel (isBayer f) x.plane (x.r0 + n) 0).1; decide (r.y0 ≤ i) && decide (i < r.y0 + r.h))
    && (List.range x.cols).any (fun n => let j := (framePixel (isBayer f) x.plane 0 (x.c0 + n)).2; decide (r.x0 ≤ j) && decide (j < r.x0 + r.w))

/-- The last of an ROI's slices in the order of R135: its band and its place. -/
def lastPlace (f : Frame) (r : Roi) : Option (Nat × Place) :=
  (((List.range (bandCount f)).map fun k => ((placesOf f k).filter (holdsPixel f r)).map fun x => (k, x)).flatten).getLast?

/-- Pixels that an ROI covers. -/
def roiPixels (bayer : Bool) (x0 y0 w h planes : Nat) : Nat :=
  if bayer then
    ((List.range 4).map fun p =>
      if bit planes p then
        ((List.range h).filter fun i => (y0 + i) % 2 = p / 2).length * ((List.range w).filter fun j => (x0 + j) % 2 = p % 2).length
      else 0).foldl (· + ·) 0
  else w * h

def blocksFor (n : Nat) : Nat := (n + 65535) / 65536

/-- Blocks that the comparison copy of an ROI takes (R184). -/
def roiBlocks (y : Layout) (r : Roi) : Nat :=
  if r.basis == 1 then blocksFor (roiPixels (pixFmt y.pixelFormat).bayer r.x0 r.y0 r.w r.h r.planes) else 0

/-- Configuration sets of a channel that have committed and hold memory: active, or of a frame in the codec island. -/
def setsHeld (c : Channel) : List ChanSet :=
  c.active :: (c.frames.filter fun f => !leftIsland (frameHeight f.leader) f).map (·.set)

/-- Configuration sets of a channel that are in use: those, and what is sent to a commit. -/
def setsInUse (c : Channel) : List ChanSet := c.sent :: c.commits.map (·.set) ++ setsHeld c

/-- Copies that a channel's sets hold: ROI, its generation, its blocks. -/
def heldCopies (c : Channel) (sets : List ChanSet) : List (Nat × U32 × Nat) :=
  ((sets.map fun set => set.rois.filterMap fun (n, r) =>
    if roiBlocks c.sent.layout r = 0 then none else some (n, r.gen, roiBlocks c.sent.layout r)).flatten).eraseDups

def copyBlocks (c : Channel) (sets : List ChanSet) : Nat := ((heldCopies c sets).map (·.2.2)).foldl (· + ·) 0

def refBlocks (r : Reference) (bayer : Bool) : Nat := blocksFor (roiPixels bayer r.x0 r.y0 r.w r.h r.planes)

/-- Bayer format of a channel. -/
def chanBayer (s : State) (g : Nat) : Bool := (pixFmt (channelOf s g).active.layout.pixelFormat).bayer

/-- Blocks of a tile's activity memory that some sets of its channels and the references take: allocated at the commit (R184). -/
def activityUsed (s : State) (t : Nat) (sets : Channel → List ChanSet) : Nat :=
  (s.st.channels.map fun (g, c) => if g / 64 = t ∧ c.live then copyBlocks c (sets c) else 0).foldl (· + ·) 0
    + (s.ad.refs.map fun (k, r) => if k / 64 = t then refBlocks r (chanBayer s r.channel) else 0).foldl (· + ·) 0

/-- A new set of a channel needs more blocks than are free (R184): what waits for its commit counts as taken (log entry 49). -/
def activityShort (s : State) (g : Nat) (set : ChanSet) : Bool :=
  let c := channelOf s g
  let set := alignRois c.sent { set with gen := genAfter s g set }
  let more := copyBlocks c (set :: setsInUse c) - copyBlocks c (setsInUse c)
  decide (1024 - activityUsed s (g / 64) setsInUse < more)

/-! ### Statistics (R181 to R183) -/

/-- The statistics with one more pixel of value x, of depth b, and its comparison value. -/
def addPixel (b : Nat) (st : RoiStat) (x : Nat) (z : Option Nat) : RoiStat :=
  { pixels := st.pixels + 1, sum := st.sum + x
    min := if st.pixels = 0 then x else min st.min x, max := max st.max x
    hist := tmod 0 st.hist (x / 2 ^ (b - 6)) (· + 1)
    sad := match z with
      | some z => st.sad + (max (x / 2 ^ (b - 8)) z - min (x / 2 ^ (b - 8)) z)
      | none => st.sad
    compared := if z.isSome then st.compared + 1 else st.compared }

/-- Statistics of one ROI together with those of more of its pixels. -/
def mergeStat (a b : RoiStat) : RoiStat where
  pixels := a.pixels + b.pixels
  sum := a.sum + b.sum
  min := if a.pixels = 0 then b.min else if b.pixels = 0 then a.min else min a.min b.min
  max := max a.max b.max
  hist := b.hist.foldl (fun h (k, n) => tmod 0 h k (· + n)) a.hist
  sad := a.sad + b.sad
  compared := a.compared + b.compared

/-- The value that a frame holds at a pixel; none for a filled one. -/
def pixelOf (f : Frame) (i j : Nat) : Option Nat := (f.pixels.getD i []).getD j none

def copyKey (i j : Nat) : Nat := i * 65536 + j

/-- The comparison copy that a frame meets: a new one when none of the ROI's generation and of its epoch is held (R182). -/
def copyFor (a : AdChan) (n : Nat) (gen : U32) (epoch : Nat) : AdCopy :=
  (a.copies.find? fun x => x.roi = n && x.gen = gen && x.epoch = epoch).getD { roi := n, gen := gen, epoch := epoch }

/-- Comparison value of a pixel of ROI n. -/
def compareWith (s : State) (g n : Nat) (r : Roi) (f : Frame) (i j : Nat) : Option Nat :=
  match r.basis with
  | 1 => tget? (copyFor (adChan s g) n r.gen f.epoch).values (copyKey i j)
  | 2 => (tget? s.ad.refs (handleTile r.ref * 64 + handleIndex r.ref)).bind fun x => if x.valid then tget? x.values (copyKey i j) else none
  | _ => none

/-- Statistics of the pixels that ROI n shares with a slice. -/
def sliceStat (s : State) (g n : Nat) (r : Roi) (f : Frame) (x : Place) : RoiStat :=
  let b := (frameFmt f).bits
  (sharedPixels f r x).foldl (fun st (i, j) =>
    match pixelOf f i j with
    | none => st
    | some v => addPixel b st v (compareWith s g n r f i j)) {}

/-- The pixels of a slice overwrite the copy of ROI n (R182). -/
def overwriteCopy (g n : Nat) (r : Roi) (f : Frame) (x : Place) (s : State) : State :=
  if r.basis ≠ 1 then s
  else
    let b := (frameFmt f).bits
    let old := copyFor (adChan s g) n r.gen f.epoch
    let values := (sharedPixels f r x).foldl (fun t (i, j) =>
      match pixelOf f i j with
      | none => t
      | some v => tput t (copyKey i j) (v / 2 ^ (b - 8))) old.values
    modAdChan g (fun a => { a with copies := { old with values := values } :: a.copies.filter fun y => y.roi ≠ n }) s

/-! ### Rules (R186 to R190) -/

/-- The value of a rule's statistic, when it is valid. -/
def statValue (c : RuleCfg) (st : RoiStat) : Option Nat :=
  match c.stat with
  | 0 => some st.sum
  | 1 => if st.compared = 0 then none else some st.sad
  | 2 => if st.pixels = 0 then none else some st.min
  | 3 => if st.pixels = 0 then none else some st.max
  | _ => some ((st.hist.filter fun (k, _) => decide (c.loBin ≤ k) && decide (k ≤ c.hiBin)).map (·.2)).sum

def meets (c : RuleCfg) (st : RoiStat) : Bool :=
  match statValue c st with
  | none => false
  | some v => if c.below then decide (v < c.thresh) else decide (c.thresh < v)

/-- Payload bytes up to the last packet that carries bytes of a slice; for a Bayer frame, of its whole band (R191). -/
def sliceNeed (f : Frame) (k : Nat) (x : Place) : Nat :=
  if isBayer f then payloadNeed f ((k + 1) * bandLines f)
  else
    let (off, n) := pixelBytes (frameFmt f) (x.c0 + x.cols - 1)
    (((leaderLines f.leader).drop x.r0).take x.rows).foldl (fun m y =>
      max m ((y.map fun r => r * lineLen (frameFmt f) (frameWidth f) + off + n).getD 0)) 0

def liveRules (f : Frame) (n : Nat) : List (Nat × RuleCfg) := f.set.rules.filter fun (_, c) => c.enable && c.roi == n

/-- The rules of ROI n decide on a slice; `last` when it is the ROI's last slice. -/
def decideSlice (g n need : Nat) (share whole : RoiStat) (last : Bool) (s : State) (f : Frame) : State :=
  (liveRules f n).foldl (fun s (idx, c) =>
    let done := ((frameOf s g f.seq).map fun x => x.met.contains idx).getD false
    if c.slice then
      if done then s
      else if meets c share then
        decideRule g idx c f need true (modFrame g f.seq (fun x => { x with met := x.met ++ [idx] }) s)
      else if last then decideRule g idx c f need false s
      else s
    else if last then decideRule g idx c f need (meets c whole) s
    else s) s

/-- ROI n takes in a slice. -/
def takeSlice (g k : Nat) (f : Frame) (x : Place) (s : State) (nr : Nat × Roi) : State :=
  let (n, r) := nr
  if !holdsPixel f r x then s
  else
    let st := sliceStat s g n r f x
    let whole := mergeStat (((frameOf s g f.seq).bind fun y => tget? y.stats n).getD {}) st
    let s := modFrame g f.seq (fun y => { y with stats := tput y.stats n whole }) s
    let filled := ((sharedPixels f r x).filter fun (i, j) => (pixelOf f i j).isNone).length
    let s := modAdChan g (fun a => { a with excluded := a.excluded + BitVec.ofNat 64 filled }) (overwriteCopy g n r f x s)
    decideSlice g n (sliceNeed f k x) st whole (decide (lastPlace f r = some (k, x))) s f

/-- The strongest ROI of a frame (R192): index and energy. -/
def strongest (set : ChanSet) (stats : Tab RoiStat) : Nat × Nat :=
  let valid := (enabledRois set).filterMap fun (n, _) =>
    let st := tget {} stats n
    if st.compared = 0 then none else some (n, st.sad)
  match valid, enabledRois set with
  | v :: rest, _ =>
    let (n, e) := rest.foldl (fun b x => if b.2 < x.2 then x else b) v
    (n, satU 32 e)
  | [], (n, _) :: _ => (n, 0)
  | [], [] => (0xFF, 0)

/-- The detector decides on a frame once the last slice of its enabled ROIs has been taken in (R192); one without an enabled ROI has been
decided when it was opened. Rules on an ROI without a
slice in the frame are not met. -/
def decideFrame (g k : Nat) (f : Frame) (s : State) : State :=
  if f.decided || (enabledRois f.set).any fun (_, r) => ((lastPlace f r).map fun x => decide (k < x.1)).getD false then s
  else
    let (roi, energy) := strongest f.set f.stats
    frameDecided g f roi energy (f.set.rules.filter fun (_, c) => c.enable && ((tget? f.set.rois c.roi).bind fun r =>
      if r.enable then lastPlace f r else none).isNone) s

/-- The detector takes in band k of a frame (R179 to R192). -/
def detectBand (g k : Nat) (f : Frame) (s : State) : State :=
  let s := (placesOf f k).foldl (fun s x => (enabledRois f.set).foldl (takeSlice g k f x) s) s
  match frameOf s g f.seq with
  | none => s
  | some f => decideFrame g k f s

/-! ### Reference frames (R183, R185) -/

def modRef (k : Nat) (f : Reference → Reference) (s : State) : State :=
  match tget? s.ad.refs k with
  | none => s
  | some r => modAd s fun a => { a with refs := tput a.refs k (f r) }

/-- Pixels that a reference covers, of its planes. -/
def refPixels (bayer : Bool) (r : Reference) : List (Nat × Nat) :=
  (((List.range r.h).map fun i => (List.range r.w).map fun j => (r.y0 + i, r.x0 + j)).flatten).filter fun (i, j) =>
    bit r.planes (if bayer then 2 * (i % 2) + j % 2 else 0)

/-- No pixel of the frame inside the rectangle is filled. -/
def wholeInside (f : Frame) (r : Reference) : Bool :=
  (List.range r.h).all fun i => (List.range r.w).all fun j => (pixelOf f (r.y0 + i) (r.x0 + j)).isSome

/-- Frames of a channel that a capture counts failed: it starts over (R185). -/
def restartCapture (n : Nat) (c : Capture) : Capture :=
  if n = 0 then c else { c with got := 0, sums := [], restarts := c.restarts + n }

/-- A capture sees a frame of its channel at its tag; the frames before it that were dropped failed. -/
def captureFrame (f : Frame) (r : Reference) (c : Capture) : Capture :=
  if c.full || decide (f.seq < c.from_) then c
  else
    let c := { restartCapture (f.seq - c.next).toNat c with next := f.seq + 1 }
    if !wholeInside f r then restartCapture 1 c
    else
    let b := (frameFmt f).bits
    let sums := (refPixels (isBayer f) r).foldl (fun t (i, j) =>
      tmod 0 t (copyKey i j) (· + ((pixelOf f i j).getD 0) / 2 ^ (b - 8))) c.sums
    { c with got := c.got + 1, lastSeq := f.seq, sums := sums, full := decide (c.got + 1 = c.frames) }

/-- Captures on a channel see a frame that has passed through the codec island. -/
def captureAll (g : Nat) (f : Frame) (s : State) : State :=
  modAd s fun a => { a with refs := a.refs.map fun (k, r) =>
    (k, if r.channel = g then { r with capture := r.capture.map (captureFrame f r) } else r) }

/-- R185: the reference is filled. -/
def execRefCaptured (reference : Nat) (s : State) : Meaning := .next <|
  match tget? s.ad.refs reference with
  | none => s
  | some r =>
    match r.capture with
    | none => s
    | some c =>
      if !c.full then s
      else
        let s := modRef reference (fun r => { r with
          capture := none, valid := true, frames := c.frames, values := c.sums.map fun (k, v) => (k, v / c.frames) }) s
        let s := raise (reference / 64) 83 (reference % 64 + 2 ^ 8 * (c.lastSeq.toNat % 2 ^ 24)) s
        finish c.wait { result := leBytes 8 c.lastSeq.toNat ++ leBytes 4 c.restarts } s

/-- A capture ends without a reference, with an answer or without. -/
def dropCapture (k : Nat) (a : Option Answer) (s : State) : State :=
  match (tget? s.ad.refs k).bind (·.capture) with
  | none => s
  | some c =>
    let s := modRef k (fun r => { r with capture := none }) s
    match a with
    | some a => finish c.wait a s
    | none => dropWait c.wait s

/-- Re-arms a rule: STREAK 0, unless it is armed (R187, R188). -/
def armRule (k : Nat) (s : State) : State :=
  match tget? s.ad.rules k with
  | none => s
  | some r =>
    let was := (r.rearmed.bind fun x => if x.1 = s.clock then some x.2 else none).getD r.armed
    modAd s fun a => { a with rules := tput a.rules k { r with
      armed := true, streak := if r.armed then r.streak else 0, rearmed := some (s.clock, was) } }

/-- A rule of a channel is a ONCE rule in the active set. -/
def onceRule (s : State) (k : Nat) (r : RuleState) : Bool :=
  ((tget? (channelOf s r.channel).active.rules (k % 512)).map fun c => decide (c.fire = 0)).getD false

/-- Up to n events that wait at ARM_cc act as one. -/
def takeArm (channel n : Nat) (s : State) : State :=
  if !serving s (channel / 64) then s
  else match takeInput (channel / 64) (576 + channel % 64) n s with
  | none => s
  | some (_, s) => (s.ad.rules.filter fun (k, r) => decide (r.channel = channel) && onceRule s k r).foldl (fun s (k, _) => armRule k s) s

/-- R188: an event at ARM_cc re-arms every ONCE rule of the channel. -/
def execArmInput (channel n : Nat) (s : State) : Meaning := .next (takeArm channel n s)

/-! ### Commands (Table 9-8, Table 9-9) -/

def roiParam (c : Cmd) : Roi where
  enable := bit (par c 1 1) 0
  basis := par c 1 1 / 2 % 4
  planes := par c 2 1
  x0 := par c 4 2
  y0 := par c 6 2
  w := par c 8 2
  h := par c 10 2
  ref := par c 12 4

def planesBad (bayer : Bool) (m : Nat) : Bool := if bayer then m == 0 || decide (15 < m) else m != 1

/-- The reference that a handle names. -/
def refOf (s : State) (h : Nat) : Option Reference := tget? s.ad.refs (handleTile h * 64 + handleIndex h)

/-- A reference handle of AD_ROI_SET that is bad: not zero without BASIS 2, not of kind 0x9, of another channel, not around the ROI. -/
def roiRefBad (c : Cmd) (s : State) : Bool :=
  let r := roiParam c
  if r.basis ≠ 2 then r.ref != 0
  else handleKind r.ref != 9 || decide (tiles s ≤ handleTile r.ref) || decide (64 ≤ handleIndex r.ref)
    || (handleLive s r.ref && (match refOf s r.ref with
        | none => true
        | some x => x.channel != chanOfHandle (tgt c) || decide (r.x0 < x.x0) || decide (r.y0 < x.y0) || decide (x.x0 + x.w < r.x0 + r.w)
            || decide (x.y0 + x.h < r.y0 + r.h) || (List.range 4).any fun p => bit r.planes p && !bit x.planes p))

/-- The set with the ROI of the command. -/
def roiSet (c : Cmd) (s : State) : ChanSet :=
  let g := chanOfHandle (tgt c)
  let set := (channelOf s g).shadow
  let n := par c 0 1
  let old := tget {} set.rois n
  let new := { roiParam c with gen := old.gen }
  if new = old then set else { set with rois := tput set.rois n new }

def opAdRoiSet : OpDef where
  code := 0x0701
  idem := true
  cond := true
  modes := mReady
  kinds := [1]
  len := some 24
  room := 8
  bad c s :=
    let r := roiParam c
    let y := (targetChannel c s).shadow.layout
    [(0, decide (7 < par c 0 1)), (1, decide (8 ≤ par c 1 1) || r.basis == 3), (2, planesBad (pixFmt y.pixelFormat).bayer r.planes),
     (3, !isZero c.params 3 1), (8, r.w == 0 || decide (y.width < r.x0 + r.w)), (10, r.h == 0 || decide (y.height < r.y0 + r.h)),
     (12, roiRefBad c s), (16, !isZero c.params 16 8)]
  refs c _ := if (roiParam c).basis = 2 then [par c 12 4] else []
  wrong := chanIdle
  short c s := activityShort s (chanOfHandle (tgt c)) (roiSet c s)
  act c s :=
    let g := chanOfHandle (tgt c)
    let set := roiSet c s
    let n := roiBlocks set.layout (tget {} set.rois (par c 0 1))
    perFrame 0x0701 c 8 set false (leBytes 2 n ++ zeros 2 ++ leBytes 4 (genAfter s g set).toNat) s

def execAdRoiSet (c : Cmd) (s : State) : Meaning := .next (runOp opAdRoiSet c s)

def roiLayout (n : Nat) (r : Roi) : List Byte :=
  leBytes 1 n ++ leBytes 1 (b2n r.enable + 2 * r.basis) ++ leBytes 1 r.planes ++ [0] ++ leBytes 2 r.x0 ++ leBytes 2 r.y0
    ++ leBytes 2 r.w ++ leBytes 2 r.h ++ leBytes 4 r.ref ++ zeros 8

/-- The result of AD_QUERY: the ROI, and its statistics of the last frame decided. -/
def roiView (s : State) (g n : Nat) : List Byte :=
  let a := adChan s g
  let st := tget? a.last n
  let x := st.getD {}
  roiLayout n (tget {} (channelOf s g).shadow.rois n) ++ leBytes 8 a.lastSeq.toNat ++ leBytes 8 x.sum
    ++ leBytes 8 (if x.compared = 0 then 0 else x.sad) ++ leBytes 4 x.pixels ++ leBytes 2 x.min ++ leBytes 2 x.max
    ++ leBytes 1 (b2n st.isSome + 2 * b2n (decide (x.compared ≠ 0))) ++ zeros 7
    ++ ((List.range 64).map fun k => leBytes 4 (tget 0 x.hist k)).flatten

def opAdQuery : OpDef where
  code := 0x0702
  query := true
  idem := true
  modes := mSafe
  kinds := [1]
  len := some 4
  room := 320
  bad c _ := [(0, decide (7 < par c 0 1)), (1, !isZero c.params 1 3)]
  act c s := .done s { result := roiView s (chanOfHandle (tgt c)) (par c 0 1) }

def execAdQuery (c : Cmd) (s : State) : Meaning := .next (runOp opAdQuery c s)

def ruleParam (c : Cmd) : RuleCfg where
  roi := par c 4 1
  stat := par c 5 1
  slice := par c 6 1 == 1
  below := par c 7 1 == 1
  thresh := par c 8 8
  fire := par c 16 1
  hold := par c 17 1
  outlet := par c 18 1
  loBin := par c 19 1
  hiBin := par c 20 1
  enable := bit (par c 21 1) 0

def chanParamBad (s : State) (h : Nat) : Bool := handleKind h != 1 || decide (tiles s ≤ handleTile h) || decide (64 ≤ handleIndex h)

/-- The checks of the rule layout. -/
def ruleBad (c : Cmd) (chan : Bool) : List (Nat × Bool) :=
  let band := par c 5 1 == 4
  [(0, chan), (4, decide (7 < par c 4 1)), (5, decide (4 < par c 5 1)), (6, decide (1 < par c 6 1)), (7, decide (1 < par c 7 1)),
   (8, decide (2 ^ 48 ≤ par c 8 8)), (16, decide (2 < par c 16 1)), (17, par c 17 1 == 0 || (par c 6 1 == 1 && par c 17 1 != 1)),
   (18, decide (15 < par c 18 1)), (19, decide (63 < par c 19 1) || (!band && par c 19 1 != 0)),
   (20, decide (63 < par c 20 1) || decide (par c 20 1 < par c 19 1) || (!band && par c 20 1 != 0)),
   (21, decide (2 ≤ par c 21 1)), (22, !isZero c.params 22 10)]

def chanOfParam (c : Cmd) : Nat := chanOfHandle (par c 0 4)

/-- A new rule in the channel's shadow set. -/
def ruleSet (s : State) (g idx : Nat) (r : RuleCfg) : ChanSet :=
  let set := (channelOf s g).shadow
  { set with rules := tput set.rules idx r }

def opAdRuleCreate : OpDef where
  code := 0x0710
  modes := mReady
  len := some 32
  room := 4
  bad c s := ruleBad c (chanParamBad s (par c 0 4))
  refs c _ := [par c 0 4]
  tile c _ := some (handleTile (par c 0 4))
  wrong c s := !serving s (handleTile (par c 0 4))
  keys c _ := [handleSlot (par c 0 4)]
  short c s := (freeIndex s 8 (handleTile (par c 0 4)) 0 512).isNone
  act c s :=
    let g := chanOfParam c
    let t := g / 64
    let i := (freeIndex s 8 t 0 512).getD 0
    let k := slotOf 8 t i
    let set := ruleSet s g i (ruleParam c)
    let gen := genAfter s g set
    let s := createObj k c.port (modAd s fun a => { a with rules := tput a.rules (t * 512 + i) { channel := g } })
    perFrameOn 0x0710 c g 4 set false (leBytes 4 gen.toNat) (some (handleOf s k)) (some 1) s

def execAdRuleCreate (c : Cmd) (s : State) : Meaning := .next (runOp opAdRuleCreate c s)

def ruleNumber (h : Nat) : Nat := handleTile h * 512 + handleIndex h

/-- Channel of the rule that TARGET names. -/
def ruleChannel (c : Cmd) (s : State) : Nat := ((tget? s.ad.rules (ruleNumber (tgt c))).map (·.channel)).getD 0

/-- The events that wait at ARM_cc of the channel of TARGET act first (R55). -/
def armFirst (c : Cmd) (s : State) : State :=
  let g := ruleChannel c s
  takeArm g (eventsWaiting s (g / 64) (576 + g % 64)) s

def opAdRuleConfig : OpDef where
  code := 0x0711
  idem := true
  cond := true
  modes := mReady
  kinds := [8]
  len := some 32
  room := 4
  bad c s := ruleBad c (par c 0 4 != handleOf s (chanSlot (ruleChannel c s)))
  first := armFirst
  wrong := chanIdle
  keys c s := [chanSlot (ruleChannel c s)]
  act c s :=
    let g := ruleChannel c s
    let set := ruleSet s g (handleIndex (tgt c)) (ruleParam c)
    let changed := decide (set ≠ (channelOf s g).shadow)
    let gen := genAfter s g set
    let s := if changed then bumpObj (tslot c) s else s
    perFrameOn 0x0711 c g 4 set false (leBytes 4 gen.toNat) none (some (((obj? s (tslot c)).map (·.gen)).getD 1)) s

def execAdRuleConfig (c : Cmd) (s : State) : Meaning := .next (runOp opAdRuleConfig c s)

def opAdRuleArm : OpDef where
  code := 0x0712
  idem := true
  modes := mReady
  kinds := [8]
  len := some 0
  room := 4
  first := armFirst
  wrong := chanIdle
  act c s :=
    let k := ruleNumber (tgt c)
    let was := ((tget? s.ad.rules k).map (·.armed)).getD false
    .done (armRule k s) { result := leBytes 4 (b2n was) }

def execAdRuleArm (c : Cmd) (s : State) : Meaning := .next (runOp opAdRuleArm c s)

/-- The rule layout as configured now, staged changes included. -/
def ruleLayout (chan : Nat) (r : Option RuleCfg) : List Byte :=
  match r with
  | none => leBytes 4 chan ++ zeros 28
  | some r => leBytes 4 chan ++ leBytes 1 r.roi ++ leBytes 1 r.stat ++ leBytes 1 (b2n r.slice) ++ leBytes 1 (b2n r.below)
      ++ leBytes 8 r.thresh ++ leBytes 1 r.fire ++ leBytes 1 r.hold ++ leBytes 1 r.outlet ++ leBytes 1 r.loBin ++ leBytes 1 r.hiBin
      ++ leBytes 1 (b2n r.enable) ++ zeros 10

def ruleView (c : Cmd) (s : State) : List Byte :=
  let g := ruleChannel c s
  let r := tget { channel := g } s.ad.rules (ruleNumber (tgt c))
  ruleLayout (handleOf s (chanSlot g)) (tget? (channelOf s g).shadow.rules (handleIndex (tgt c))) ++ leBytes 1 (b2n r.armed)
    ++ leBytes 1 r.streak ++ zeros 2 ++ leBytes 4 r.fires.toNat ++ leBytes 4 r.lastFireNs32.toNat ++ zeros 4 ++ leBytes 8 r.lastFrame.toNat

def opAdRuleQuery : OpDef where
  code := 0x0713
  query := true
  idem := true
  modes := mSafe
  kinds := [8]
  len := some 0
  room := 56
  act c s := .done s { result := ruleView c s }

def execAdRuleQuery (c : Cmd) (s : State) : Meaning := .next (runOp opAdRuleQuery c s)

/-- Takes a rule out of every set of its channel. -/
def dropRuleCfg (idx : Nat) (c : Channel) : Channel :=
  let cut (x : ChanSet) : ChanSet := { x with rules := tdel x.rules idx }
  { c with
    shadow := cut c.shadow, active := cut c.active, sent := cut c.sent
    commits := c.commits.map fun p => { p with set := cut p.set }
    frames := c.frames.map fun f => { f with set := cut f.set } }

/-- A rule is destroyed at once (R189). -/
def destroyRule (k : Nat) (s : State) : State :=
  let n := slotTile k * 512 + slotIndex k
  match tget? s.ad.rules n with
  | none => s
  | some r =>
    dropObj k (modChannel r.channel (dropRuleCfg (slotIndex k)) (modAd s fun a => { a with rules := tdel a.rules n }))

def opAdRuleDestroy : OpDef where
  code := 0x0714
  cond := true
  modes := mReady
  kinds := [8]
  len := some 0
  first := armFirst
  wrong := chanIdle
  act c s := .done (destroyRule (tslot c) s) { gen := genBefore c s }

def execAdRuleDestroy (c : Cmd) (s : State) : Meaning := .next (runOp opAdRuleDestroy c s)

def refParam (c : Cmd) : Reference where
  channel := chanOfParam c
  handle := par c 0 4
  x0 := par c 4 2
  y0 := par c 6 2
  w := par c 8 2
  h := par c 10 2
  planes := par c 12 1

def opAdRefCreate : OpDef where
  code := 0x0720
  modes := mReady
  len := some 16
  room := 4
  bad c s :=
    let y := (channelOf s (chanOfParam c)).shadow.layout
    let r := refParam c
    [(0, chanParamBad s (par c 0 4)), (8, r.w == 0 || (handleLive s (par c 0 4) && decide (y.width < r.x0 + r.w))),
     (10, r.h == 0 || (handleLive s (par c 0 4) && decide (y.height < r.y0 + r.h))),
     (12, handleLive s (par c 0 4) && planesBad (pixFmt y.pixelFormat).bayer r.planes), (13, !isZero c.params 13 3)]
  refs c _ := [par c 0 4]
  tile c _ := some (handleTile (par c 0 4))
  wrong c s := !serving s (handleTile (par c 0 4))
  short c s := (freeIndex s 9 (handleTile (par c 0 4)) 0 64).isNone
    || decide (1024 - activityUsed s (handleTile (par c 0 4)) setsInUse < refBlocks (refParam c) (chanBayer s (chanOfParam c)))
  act c s :=
    let t := handleTile (par c 0 4)
    let i := (freeIndex s 9 t 0 64).getD 0
    let k := slotOf 9 t i
    let s := createObj k c.port (modAd s fun a => { a with refs := tput a.refs (t * 64 + i) (refParam c) })
    .done s { handle := some (handleOf s k), result := leBytes 2 (refBlocks (refParam c) (chanBayer s (chanOfParam c))) ++ zeros 2 }

def execAdRefCreate (c : Cmd) (s : State) : Meaning := .next (runOp opAdRefCreate c s)

def refNumber (h : Nat) : Nat := handleTile h * 64 + handleIndex h

/-- ROIs of a set that name a reference. -/
def namers (set : ChanSet) (h : Nat) (enabledOnly : Bool) : List Nat :=
  set.rois.filterMap fun (n, r) => if r.basis = 2 ∧ r.ref = h ∧ (r.enable ∨ !enabledOnly) then some n else none

def refChannel (s : State) (h : Nat) : Channel := ((refOf s h).map fun r => channelOf s r.channel).getD {}

/-- An enabled ROI of a set in use names the reference. -/
def refInUse (s : State) (h : Nat) : Bool := (setsInUse (refChannel s h)).any fun x => !(namers x h true).isEmpty

/-- The channel refers to the reference (R46, R194). -/
def refNamed (s : State) (h : Nat) : Bool :=
  ((refChannel s h).shadow :: setsInUse (refChannel s h)).any fun x => !(namers x h false).isEmpty

def opAdRefCapture : OpDef where
  code := 0x0721
  cond := true
  modes := mReady
  kinds := [9]
  len := some 4
  room := 12
  bad c _ := [(0, !([1, 2, 4, 8, 16].contains (par c 0 1))), (1, !isZero c.params 1 3)]
  wrong := chanIdle
  busy c s := refInUse s (tgt c)
  act c s :=
    let from_ := (refChannel s (tgt c)).nextFrame
    .wait (modRef (refNumber (tgt c)) (fun r => { r with capture := some { wait := s.eng.nextWait, frames := par c 0 1, from_ := from_, next := from_ } })
      (addWait 0x0721 c [tslot c] 12 s))

def execAdRefCapture (c : Cmd) (s : State) : Meaning := .next (runOp opAdRefCapture c s)

/-- A reference frame is destroyed: its blocks are free. -/
def destroyRef (k : Nat) (s : State) : State :=
  dropObj k (modAd s fun a => { a with refs := tdel a.refs (slotTile k * 64 + slotIndex k) })

def opAdRefDestroy : OpDef where
  code := 0x0722
  cond := true
  modes := mReady
  kinds := [9]
  len := some 0
  wrong := chanIdle
  busy c s := refNamed s (tgt c)
  act c s := .done (destroyRef (tslot c) s) { gen := genBefore c s }

def execAdRefDestroy (c : Cmd) (s : State) : Meaning := .next (runOp opAdRefDestroy c s)

def refView (c : Cmd) (s : State) : List Byte :=
  match refOf s (tgt c) with
  | none => []
  | some r => leBytes 4 r.handle ++ leBytes 2 r.x0 ++ leBytes 2 r.y0 ++ leBytes 2 r.w ++ leBytes 2 r.h ++ leBytes 1 r.planes ++ zeros 3
      ++ leBytes 1 (b2n r.valid) ++ leBytes 1 r.frames ++ leBytes 2 (refBlocks r (chanBayer s r.channel))
      ++ leBytes 4 (namers (refChannel s (tgt c)).shadow (tgt c) false).length

def opAdRefQuery : OpDef where
  code := 0x0723
  query := true
  idem := true
  modes := mSafe
  kinds := [9]
  len := some 0
  room := 24
  act c s := .done s { result := refView c s }

def execAdRefQuery (c : Cmd) (s : State) : Meaning := .next (runOp opAdRefQuery c s)

end Sys2Proof.Machine
end

