-- ==== Sys2Proof/Machine/Codec.lean ====
section
/-!
DEFINITION. The codec (chapter 07): cells and level tables, the slice bitstream, engines, calibration, and the codec commands.
-/
namespace Sys2Proof.Machine
open Sys2Proof

def modCd (s : State) (f : CodecState → CodecState) : State := { s with cd := f s.cd }
def codecChan (s : State) (g : Nat) : CodecChan := tget {} s.cd.chans g
def modCodecChan (g : Nat) (f : CodecChan → CodecChan) (s : State) : State := modCd s fun c => { c with chans := tmod {} c.chans g f }
def engineOf (s : State) (k : Nat) : CodecEngine := tget {} s.cd.engines k
def modEngine (k : Nat) (f : CodecEngine → CodecEngine) (s : State) : State := modCd s fun c => { c with engines := tmod {} c.engines k f }

/-! ### Cells and bounds (R137 to R139) -/

/-- D(x) (R138). -/
def boundTarget (cal : Cal) (q x : Nat) : Nat :=
  let d := 16 * x - cal.offsetQ4
  let w := cal.readQ8 * cal.readQ8 + cal.kQ16 * d / 16
  isqrt (q * q * w) 32 0 / 4096

/-- One cell of a level table: its range and its reconstruction. -/
structure Cell where
  lo : Nat
  hi : Nat
  rec_ : Nat
deriving DecidableEq, Repr

/-- The cells of a level table from level `lo` (R139). -/
def levelCells (cal : Cal) (q xmax : Nat) : Nat → Nat → List Cell
  | 0, _ => []
  | n + 1, lo =>
    if xmax < lo then []
    else
      let r := min (lo + boundTarget cal q lo) xmax
      let hi := min (r + boundTarget cal q r) xmax
      { lo := lo, hi := hi, rec_ := r } :: levelCells cal q xmax n (hi + 1)

def levelTable (cal : Cal) (q b : Nat) : List Cell := levelCells cal q (2 ^ b - 1) (2 ^ b) 0

/-- Number and contents of the cell of a level. -/
def findCell (x : Nat) : Nat → List Cell → Nat × Cell
  | n, [] => (n, { lo := x, hi := x, rec_ := x })
  | n, c :: rest => if x ≤ c.hi then (n, c) else findCell x (n + 1) rest

/-- The map of a slice: uniform cells of k, or a level table (R137, R139). -/
inductive CellMap where
  | uniform (k : Nat)
  | table (cells : List Cell)
deriving DecidableEq, Repr

def cellCount (b : Nat) : CellMap → Nat
  | .uniform k => (2 ^ b - 1) / (2 * k + 1) + 1
  | .table t => t.length

def codeOf (m : CellMap) (x : Nat) : Nat :=
  match m with
  | .uniform k => x / (2 * k + 1)
  | .table t => (findCell x 0 t).1

/-- REC[c]. -/
def recOf (b : Nat) (m : CellMap) (c : Nat) : Nat :=
  match m with
  | .uniform k => min (c * (2 * k + 1) + k) (2 ^ b - 1)
  | .table t => (t.getD c { lo := 0, hi := 0, rec_ := 0 }).rec_

/-- BT[x] of a level table. -/
def tableBound (t : List Cell) (x : Nat) : Nat := let c := (findCell x 0 t).2; max x c.rec_ - min x c.rec_

/-- Largest BT[x]: it lies at an end of a cell. -/
def tableBoundMax (t : List Cell) : Nat := t.foldl (fun m c => max m (max (c.rec_ - c.lo) (c.hi - c.rec_))) 0

/-! ### The slice bitstream (R144 to R149) -/

/-- The n bits of a number, most significant first. -/
def bitsOf : Nat → Nat → List Bool
  | 0, _ => []
  | n + 1, v => bit v n :: bitsOf n v

/-- Bytes of a sequence of bits, bit 7 of byte 0 first, given enough steps. -/
def packBits : Nat → List Bool → List Byte
  | 0, _ => []
  | n + 1, l => BitVec.ofNat 8 ((l.take 8 ++ List.replicate (8 - l.length) false).foldl (fun a b => 2 * a + b2n b) 0) :: packBits n (l.drop 8)

/-- Payload words of a number of bits. -/
def wordsFor (n : Nat) : Nat := (n + 31) / 32

/-- A payload: the bits, padded to whole words. -/
def payloadOf (l : List Bool) : List Byte := packBits (4 * wordsFor l.length) l

/-- Length in bits of a number, at least 1. -/
def bitLength (v : Nat) : Nat := max 1 (if v = 0 then 0 else Nat.log2 v + 1)

/-- The prediction of R147 from left, upper and upper-left codes. -/
def predict (l u d : Nat) : Nat := if max l u ≤ d then min l u else if d ≤ min l u then max l u else l + u - d

/-- The residual modulo M, mapped to 0 … M − 1 (R148). -/
def mapResidual (m c p : Nat) : Nat :=
  let d := (c + m - p) % m
  if d < (m + 1) / 2 then 2 * d else 2 * (m - d) - 1

/-- The Rice parameter (R149). -/
def riceParam (a n b : Nat) : Nat → Nat → Nat
  | 0, r => r
  | f + 1, r => if n * 2 ^ r < a ∧ r < b - 1 then riceParam a n b f (r + 1) else r

/-- The bits of m with parameter r. -/
def riceBits (b r m : Nat) : List Bool :=
  if m / 2 ^ r < 16 then List.replicate (m / 2 ^ r) true ++ [false] ++ bitsOf r m
  else List.replicate 16 true ++ bitsOf b m

/-- Codes of one row after the first pixel: the row above, the code to the left, A and N. -/
def codeRow (m b : Nat) (above : List Nat) : Nat → Nat → Nat → Nat → List Nat → List Bool × Nat × Nat
  | _, _, a, n, [] => ([], a, n)
  | j, left, a, n, c :: rest =>
    let p := match above with
      | [] => left
      | _ => predict left (above.getD j 0) (above.getD (j - 1) 0)
    let x := mapResidual m c p
    let out := riceBits b (riceParam a n b b 0) x
    let (a, n) := if n + 1 = 32 then ((a + x) / 2, 16) else (a + x, n + 1)
    let (more, a, n) := codeRow m b above (j + 1) c a n rest
    (out ++ more, a, n)

/-- Codes of the rows after the first. -/
def codeRows (m b : Nat) (above : List Nat) (a n : Nat) : List (List Nat) → List Bool
  | [] => []
  | row :: rest =>
    match row with
    | [] => codeRows m b above a n rest
    | c :: cs =>
      let x := mapResidual m c (above.headD 0)
      let out := riceBits b (riceParam a n b b 0) x
      let (a, n) := if n + 1 = 32 then ((a + x) / 2, 16) else (a + x, n + 1)
      let (more, a, n) := codeRow m b above 1 c a n cs
      out ++ more ++ codeRows m b row a n rest

/-- The bits of the coded form (R147 to R149). -/
def codedBits (m : Nat) (codes : List (List Nat)) : List Bool :=
  let b := bitLength (m - 1)
  match codes with
  | (c :: cs) :: rest =>
    let (more, a, n) := codeRow m b [] 1 c (max 2 ((m + 32) / 64)) 1 cs
    bitsOf b c ++ more ++ codeRows m b (c :: cs) a n rest
  | _ => []

/-- The header of Table 7-3. -/
def sliceHeader (form : Nat) (noise : Bool) (param depth plane words calId rows cols : Nat) : List Byte :=
  leBytes 1 (form + 4 * b2n noise + 8 * param) ++ leBytes 1 (depth + 32 * plane) ++ leBytes 2 words ++ leBytes 2 calId
    ++ leBytes 1 (rows - 1) ++ leBytes 1 (cols - 1)

/-- How a slice is coded: its map, the NOISE bit, k or Q − 1, and CAL_ID. -/
structure Coding where
  map : CellMap
  noise : Bool
  param : Nat
  calId : Nat
deriving DecidableEq, Repr

def sliceRows (x : List (List Nat)) : Nat := x.length
def sliceCols (x : List (List Nat)) : Nat := (x.headD []).length

/-- The escape form (R145). -/
def escapeSlice (depth plane : Nat) (x : List (List Nat)) : List Byte :=
  let l := ((x.flatten).map (bitsOf depth)).flatten
  sliceHeader 1 false 0 depth plane (wordsFor l.length) 0 (sliceRows x) (sliceCols x) ++ payloadOf l

/-- The form in which a slice is written: 0 coded, 1 escape, 2 constant (R146), with its bytes. -/
def codeSlice (depth plane : Nat) (c : Coding) (x : List (List Nat)) : Nat × List Byte :=
  let codes := x.map fun row => row.map (codeOf c.map)
  let first := (codes.headD []).headD 0
  if (codes.flatten).all (· == first) then
    (2, sliceHeader 2 c.noise c.param depth plane 1 c.calId (sliceRows x) (sliceCols x) ++ leBytes 4 first)
  else
    let l := codedBits (cellCount depth c.map) codes
    if wordsFor ((sliceRows x * sliceCols x) * depth) < wordsFor l.length then (1, escapeSlice depth plane x)
    else (0, sliceHeader 0 c.noise c.param depth plane (wordsFor l.length) c.calId (sliceRows x) (sliceCols x) ++ payloadOf l)

/-- The coding of a slice of a configuration set, with the k that BUDGET chose (R137, R139, R144). -/
def codingOf (set : ChanSet) (k : Option Nat) : Coding :=
  let y := set.codec
  match y.mode with
  | .bounded => { map := .uniform y.k, noise := false, param := y.k, calId := 0 }
  | .budget => { map := .uniform (k.getD y.kmin), noise := false, param := k.getD y.kmin, calId := 0 }
  | .noise =>
    let cal := y.cal.getD {}
    { map := .table (levelTable cal y.q (pixFmt set.layout.pixelFormat).bits), noise := true, param := y.q - 1, calId := cal.id }
  | _ => { map := .uniform 0, noise := false, param := 0, calId := 0 }

/-! ### Engines (R17, R151 to R154) -/

/-- RAW(N) for a depth (R136). -/
def rawSize (depth n : Nat) : Nat := 4 * wordsFor (n * depth)

def sliceAt (s : State) (r : SliceRef) : Option (Frame × Slice) :=
  if r.gone.isSome then none
  else (frameOf s r.channel r.frame).bind fun f =>
    if r.number < f.slicesLeft then none else (f.slices[r.number - f.slicesLeft]?).map (f, ·)

/-- What an engine codes: a slice of a frame, or one whose frame was abandoned, which is coded and discarded (R141). -/
def sliceWork (s : State) (r : SliceRef) : Option (ChanSet × Slice) :=
  match r.gone with
  | some x => some (x.set, x.slice)
  | none => (sliceAt s r).map fun (f, x) => (f.set, x)

/-- A slice in a buffer as the destruction of a channel leaves it. -/
def keepSlice (g handle : Nat) (s : State) (r : SliceRef) : Option SliceRef :=
  if r.channel = g ∧ r.gone.isNone then
    (sliceAt s r).map fun x => { r with gone := some { handle := handle, set := x.1.set, slice := x.2 } }
  else some r

/-- The slices of a channel that is destroyed stay in their engines' buffers (R141). -/
def keepSlices (g handle : Nat) (s : State) : State :=
  modCd s fun d => { d with engines := d.engines.map fun (n, e) => (n, { e with buffer := e.buffer.filterMap (keepSlice g handle s) }) }

def modSlice (r : SliceRef) (f : Slice → Slice) (s : State) : State :=
  modFrame r.channel r.frame (fun x => { x with slices := x.slices.modify (r.number - x.slicesLeft) f }) s

/-- The choice of k when a BUDGET slice starts (Table 7-5). A slice of an older set, which meets the balance of a newer one, keeps its
own limits (R131, R150; log entry 82). -/
def chooseK (y : CodecCfg) (bal : Int) (k : Nat) : Nat :=
  let t : Int := y.targetBytes
  let n := if bal < -4 * t then k + 2 else if bal < -t then k + 1 else if bal ≤ t then k else k - 1
  max y.kmin (min y.kmax n)

/-- An engine works on the 16 oldest slices of its buffer: a BUDGET slice takes its k when it starts (R151, R152). -/
def startSlices (e : Nat) (s : State) : State :=
  ((engineOf s e).buffer.take 16).foldl (fun s r =>
    match sliceAt s r with
    | none => s
    | some (f, x) =>
      if f.set.codec.mode = .budget ∧ x.k.isNone then
        let k := chooseK f.set.codec (codecChan s r.channel).bal (codecChan s r.channel).kNow
        modCodecChan r.channel (fun c => { c with kNow := k }) (modSlice r (fun x => { x with k := some k }) s)
      else s) s

/-- Slices of a channel that are written pass on in the order of R135, frame after frame (R152). -/
def passOn : List Frame → List Frame
  | [] => []
  | f :: rest =>
    let out := f.slices.takeWhile fun x => x.written.isSome
    let f := { f with
      slices := f.slices.drop out.length, slicesLeft := f.slicesLeft + out.length
      data := if f.dropped then f.data else f.data ++ (out.map fun x => x.written.getD []).flatten }
    if f.slices.isEmpty && leftIsland (frameHeight f.leader) f then f :: passOn rest else f :: rest

/-- A slice has been written: counters, balance (R151), and what can leave the island leaves it. -/
def writeSlice (r : SliceRef) (bytes : List Byte) (escape : Bool) (s : State) : State :=
  match sliceAt s r with
  | none => s
  | some (f, x) =>
    let n := sliceRows x.pixels * sliceCols x.pixels
    let y := f.set.codec
    let s := modSlice r (fun x => { x with written := some bytes }) s
    let s := modCodecChan r.channel (fun c => { c with
      rawBytes := c.rawBytes + BitVec.ofNat 64 (rawSize (frameFmt f).bits n), codedBytes := c.codedBytes + BitVec.ofNat 64 bytes.length
      slices := c.slices + 1, slicesEscaped := if escape then c.slicesEscaped + 1 else c.slicesEscaped
      bal := if y.mode = .budget then
          max (-(64 * y.targetBytes : Nat)) (min (64 * y.targetBytes : Nat) (c.bal + (y.targetBytes * n / 1024 : Nat) - (bytes.length : Nat)))
        else c.bal }) s
    let s := modFrame r.channel r.frame (fun f => { f with kWritten := if escape then f.kWritten else max f.kWritten (x.k.getD 0) }) s
    sweepFrames r.channel (modChannel r.channel (fun c => { c with frames := passOn c.frames }) s)

/-- An event of a channel's codec, at most once per millisecond per channel (R155). -/
def raiseEscape (g : Nat) (s : State) : State :=
  let s := modCodecChan g (fun c => { c with escapeCount := c.escapeCount + 1 }) s
  let c := codecChan s g
  if msPassed s c.escapeAt then
    raiseChan g 57 c.escapeCount (modCodecChan g (fun c => { c with escapeCount := 0, escapeAt := some s.clock }) s)
  else s

/-- A slice is written in escape form by the input stage (R17, R152). -/
def escapeNow (r : SliceRef) (s : State) : State :=
  match sliceAt s r with
  | none => s
  | some (f, x) =>
    raiseEscape r.channel (writeSlice r (escapeSlice (frameFmt f).bits x.plane x.pixels) true
      (modFrame r.channel r.frame (fun f => { f with escaped := true }) s))

/-- The engine in use with the fewest slices in its buffer, the lower number on a tie (R152). -/
def pickEngine (s : State) (t : Nat) : Option Nat :=
  ((List.range 4).filter fun e => !(engineOf s (t * 4 + e)).suspect).foldl (fun b e =>
    match b with
    | none => some e
    | some x => if (engineOf s (t * 4 + e)).buffer.length < (engineOf s (t * 4 + x)).buffer.length then some e else some x) none

/-- A slice is dealt to an engine (R152). -/
def dealSlice (s : State) (r : SliceRef) : State :=
  let t := r.channel / 64
  match pickEngine s t with
  | none => escapeNow r s
  | some e =>
    let k := t * 4 + e
    let x := engineOf s k
    if x.escaping ∨ 256 ≤ x.buffer.length then escapeNow r (modEngine k (fun x => { x with escBacklog := x.escBacklog + 1 }) s)
    else
      startSlices k (modEngine k (fun x => { x with buffer := x.buffer ++ [r], peak := max x.peak (x.buffer.length + 1) }) s)

/-- R17: an engine's backlog passes its high mark of 192 slices. -/
def execCodecBacklogHigh (tile engine : Nat) (s : State) : Meaning := .next <|
  let k := tile * 4 + engine
  if 192 < (engineOf s k).buffer.length then modEngine k (fun x => { x with escaping := true }) s else s

/-- R17: an engine's backlog falls below its low mark of 64 slices. -/
def execCodecBacklogLow (tile engine : Nat) (s : State) : Meaning := .next <|
  let k := tile * 4 + engine
  if (engineOf s k).buffer.length < 64 then modEngine k (fun x => { x with escaping := false }) s else s

/-- The first frame of a channel that has bands to hand to the codec island: frames before it have handed on all of theirs. -/
def nextToDeal : List Frame → Option Frame
  | [] => none
  | f :: rest => if f.dropped ∨ frameHeight f.leader ≤ f.lines.length then nextToDeal rest else some f

/-- Pixel values of a line, none for a pixel filled under R99. -/
def linePixels (fmt : PixFmt) (width : Nat) (raw : List (Option Byte)) (m : Option Nat) (line : List Byte) : List (Option Nat) :=
  let n := lineLen fmt width
  let src := match m with
    | none => line.map some
    | some r => (raw.drop (r * n)).take n
  (List.range width).map fun j =>
    let (off, k) := pixelBytes fmt j
    if ((src ++ List.replicate (n - src.length) none).drop off).take k |>.any (·.isNone) then none else some (pixelAt fmt line j)

/-- Pixel values of a slice from the lines of its frame. -/
def slicePixels (f : Frame) (x : Place) : List (List Nat) :=
  (placePixels (isBayer f) x).map fun row => row.map fun (i, j) => pixelAt (frameFmt f) (f.lines.getD i []) j

/-- The next band of a frame enters the codec island (R113, R135, R152, R179). -/
def takeBand (g : Nat) (f : Frame) (s : State) : State :=
  let k := f.dealt
  let width := frameWidth f
  let fmt := frameFmt f
  let raw := framePayload s g f
  let maps := ((leaderLines f.leader).drop (k * bandLines f)).take (bandLines f)
  let lines := maps.map (imageLine fmt width f.set.layout.fillValue raw)
  let pixels := List.zipWith (linePixels fmt width raw) maps lines
  let f := { f with dealt := k + 1, lines := f.lines ++ lines, pixels := f.pixels ++ pixels }
  let coded := decide (f.set.codec.mode ≠ .off)
  let slices := if coded then (placesOf f k).map fun x => ({ plane := x.plane, pixels := slicePixels f x } : Slice) else []
  let first := f.slicesLeft + f.slices.length
  let s := modFrame g f.seq (fun _ => { f with
    slices := f.slices ++ slices, data := if coded then f.data else f.data ++ lines.flatten }) s
  let s := detectBand g k f s
  (List.range slices.length).foldl (fun s i => dealSlice s { channel := g, frame := f.seq, number := first + i }) s

/-- R113, R152: a complete band enters the codec island. -/
def execBandToCodec (channel : Nat) (s : State) : Meaning := .next <|
  match nextToDeal (channelOf s channel).frames with
  | none => s
  | some f => if f.dealt < bandsReady s channel f then takeBand channel f s else s

/-- A self-check fails on a slice (R153). -/
def failCheck (g e : Nat) (injected : Bool) (s : State) : State :=
  let t := g / 64
  let s := modEngine (t * 4 + e) (fun x => { x with mismatches := x.mismatches + 1, mismatchAt := (s.clock :: x.mismatchAt).take 3 }) s
  let s := modCodecChan g (fun c => { c with mismatchCount := c.mismatchCount + 1 }) s
  let c := codecChan s g
  let s := if msPassed s c.mismatchAt then
      raise t 58 (g % 64 + 2 ^ 8 * e + 2 ^ 10 * satU 22 c.mismatchCount)
        (modCodecChan g (fun c => { c with mismatchCount := 0, mismatchAt := some s.clock }) s)
    else s
  detectorFires t 0x0E injected s

/-- An engine finishes a slice it works on, the `index`-th oldest; `matches_` is the outcome of the comparison if the slice is sampled.
Which of SAMPLE_N slices it is, is free; the last is when no other was, and this one when none was and the row says so, `sure`
(log entry 73). -/
def finishSlice (tile engine index : Nat) (matches_ sure : Bool) (s : State) : State :=
  let k := tile * 4 + engine
  match ((engineOf s k).buffer.take 16)[index]? with
  | none => s
  | some r =>
    let s := modEngine k (fun x => { x with buffer := x.buffer.eraseIdx index }) s
    match sliceWork s r with
    | none => startSlices k s
    | some (set, x) =>
      let depth := (pixFmt set.layout.pixelFormat).bits
      let (form, bytes) := codeSlice depth x.plane (codingOf set x.k) x.pixels
      let last := decide (s.cd.sampleN ≤ (engineOf s k).sinceCheck + 1)
      let sampled := decide (form ≠ 1) && !(engineOf s k).sampled && (last || sure || Config.freeSampled s.free)
      let injected := sampled && injectionDue s tile 0x0E engine
      let bad := sampled && (injected || !matches_)
      let s := modEngine k (fun e => { e with
        slices := e.slices + 1, constant := if form = 2 ∧ !bad then e.constant + 1 else e.constant
        escSize := if form = 1 then e.escSize + 1 else e.escSize
        sinceCheck := if form = 1 then e.sinceCheck else if last then 0 else e.sinceCheck + 1
        sampled := if form = 1 then e.sampled else !last && (e.sampled || sampled)
        checks := if sampled then e.checks + 1 else e.checks }) (useFree s)
      let s := if injected then consumeInjection tile 0x0E s else s
      let s := if bad then failCheck r.channel engine injected s else s
      startSlices k (writeSlice r (if bad then escapeSlice depth x.plane x.pixels else bytes) (bad || form == 1) s)

/-- R146, R152, R153: an engine finishes a slice; the row says how the comparison ends, if there is one. -/
def execSliceCoded (tile engine index : Nat) (matches_ : Bool) (s : State) : Meaning := .next (finishSlice tile engine index matches_ false s)

/-- Engines in use of a tile, as bits. -/
def enginesInUse (s : State) (t : Nat) : Nat :=
  (List.range 4).foldl (fun m e => m + 2 ^ e * b2n (!(engineOf s (t * 4 + e)).suspect)) 0

/-- R154: three mismatches within 1 s take an engine out of use; its slices are dealt again. -/
def execEngineSuspect (tile engine : Nat) (s : State) : Meaning := .next <|
  let k := tile * 4 + engine
  let x := engineOf s k
  if x.suspect || !(match x.mismatchAt with
      | a :: _ :: c :: _ => decide (a ≤ c + 1000 * ms)
      | _ => false) then s
  else
    let s := modEngine k (fun x => { x with suspect := true, buffer := [], mismatchAt := [] }) s
    let s := raise tile 59 (engine + 2 ^ 8 * (capacity s tile / 1000)) s
    x.buffer.foldl dealSlice s

/-! ### Level tables (R141) -/

/-- Bytes of a level table. -/
def tableBytes (set : ChanSet) : Nat := 2 ^ (pixFmt set.layout.pixelFormat).bits * 4

/-- The level tables that sets hold: calibration and Q. -/
def heldTables (sets : List ChanSet) : List (Nat × Nat) :=
  (sets.filterMap fun x => if x.codec.mode = .noise then some ((x.codec.cal.map (·.id)).getD 0, x.codec.q) else none).eraseDups

/-- Bytes of the level tables that slices of destroyed channels on a tile still need (R141). -/
def goneTables (s : State) (t : Nat) : Nat :=
  let l := (s.cd.engines.filterMap fun (k, e) => if k / 4 = t then some (e.buffer.filterMap (·.gone)) else none).flatten
  sumOver (·.2) ((l.filterMap fun x => (heldTables [x.set]).head?.map fun y => ((x.handle, y), tableBytes x.set)).eraseDups)

/-- KiB of table memory in use on a tile. -/
def tableUsed (s : State) (t : Nat) : Nat :=
  (s.st.channels.map fun (g, c) =>
    if g / 64 = t ∧ c.live then (heldTables (setsInUse c)).length * tableBytes c.active / 1024 else 0).foldl (· + ·) (goneTables s t / 1024)

/-- A set brings a level table that the last set sent to a commit does not hold. -/
def newTable (c : Channel) (set : ChanSet) : Bool :=
  decide (set.codec.mode = .noise) && heldTables [set] != heldTables [c.sent]

/-- The table of a set does not fit (R141). -/
def tableShort (s : State) (g : Nat) (set : ChanSet) : Bool :=
  let c := channelOf s g
  let more := ((heldTables (set :: setsInUse c)).length - (heldTables (setsInUse c)).length) * tableBytes set / 1024
  decide (4096 < tableUsed s (g / 64) + more)

/-- R141: the level table of the oldest commit that brings one has been built. -/
def buildFirst : List PendingCommit → List PendingCommit
  | [] => []
  | p :: rest => if p.building then { p with building := false } :: rest else p :: buildFirst rest

def execLevelTableBuilt (channel : Nat) (s : State) : Meaning := .next <|
  modChannel channel (fun c => { c with commits := buildFirst c.commits }) s

/-! ### Calibration (R140, R142, R143) -/

/-- Pixels of a region of a frame, row by row. -/
def regionPixels (f : Frame) (x0 y0 w h : Nat) : List Nat :=
  ((List.range h).map fun i => (List.range w).map fun j => (pixelOf f (y0 + i) (x0 + j)).getD 0).flatten

/-- The region lies within the lines of the frame. -/
def regionInside (f : Frame) (c : CalSample) : Bool := decide (c.y0 + c.h ≤ frameHeight f.leader)

/-- A sample sees a frame that has closed and passed through the codec island. The model's own choice: one with fewer lines than the region
needs restarts the pair, which R142 does not say (log entry 91). -/
def sampleFrame (f : Frame) (c : CalSample) : CalSample :=
  if c.pair.isSome || decide (f.seq < c.from_) then c
  else if f.dropped || f.truncated || f.missing != 0 || f.filled || !regionInside f c then { c with first := none }
  else
    let x := regionPixels f c.x0 c.y0 c.w c.h
    match c.first with
    | some (seq, y) => if f.seq = seq + 1 then { c with first := none, pair := some (y, x) } else { c with first := some (f.seq, x) }
    | none => { c with first := some (f.seq, x) }

def sampleAll (g : Nat) (f : Frame) (s : State) : State := modCodecChan g (fun c => { c with sample := c.sample.map (sampleFrame f) }) s

/-- The point of a pair (R142). -/
def pointOf (dark : Bool) (x y : List Nat) : CalPoint where
  dark := dark
  pixels := x.length
  sum := (List.zipWith (· + ·) x y).sum
  diff := sumInt (List.zipWith (fun (a b : Nat) => (a : Int) - b) x y)
  diffSq := (List.zipWith (fun (a b : Nat) => ((a : Int) - b).natAbs ^ 2) x y).sum

/-- VAR × 2N² of a point, exactly: N Σd² − (Σd)². -/
def varNum (p : CalPoint) : Nat := ((p.pixels * p.diffSq : Nat) - p.diff * p.diff).toNat

def meanQ8 (p : CalPoint) : Nat := p.sum * 256 / (2 * p.pixels)
def varQ8 (p : CalPoint) : Nat := satU 32 (varNum p * 256 / (2 * p.pixels * p.pixels))

def darkCount (l : List CalPoint) : Nat := (l.filter (·.dark)).length

/-- R142: the frame pair has closed; the point is kept. CLEAR empties the points only here, since a sample that ends in any other way
changes nothing (R10, R50; log entry 51). -/
def execCalSampleDone (channel : Nat) (s : State) : Meaning := .next <|
  match (codecChan s channel).sample with
  | none => s
  | some c =>
    match c.pair with
    | none => s
    | some (x, y) =>
      let p := pointOf c.dark x y
      let s := modCodecChan channel (fun k => { k with sample := none, points := (if c.clear then [] else k.points) ++ [p] }) s
      let l := (codecChan s channel).points
      let result := leBytes 4 (meanQ8 p) ++ leBytes 4 (varQ8 p) ++ leBytes 4 p.pixels ++ leBytes 1 l.length ++ leBytes 1 (darkCount l) ++ zeros 2
      finish c.wait { gen := (obj? s (chanSlot channel)).map (·.gen), result := result } s

/-- A sample ends without a point, with an answer or without. -/
def dropSample (g : Nat) (a : Option Answer) (s : State) : State :=
  match (codecChan s g).sample with
  | none => s
  | some c =>
    let s := modCodecChan g (fun k => { k with sample := none }) s
    match a with
    | some a => finish c.wait a s
    | none => dropWait c.wait s

/-- A fraction of integers: numerator and positive denominator. -/
structure Frac where
  num : Int
  den : Nat
deriving DecidableEq, Repr

def Frac.add (a b : Frac) : Frac := { num := a.num * b.den + b.num * a.den, den := a.den * b.den }
def Frac.sub (a b : Frac) : Frac := { num := a.num * b.den - b.num * a.den, den := a.den * b.den }
def Frac.mul (a b : Frac) : Frac := { num := a.num * b.num, den := a.den * b.den }
def Frac.sum (l : List Frac) : Frac := l.foldl Frac.add { num := 0, den := 1 }
def Frac.scale (a : Frac) (n : Nat) : Frac := { a with num := a.num * n }
/-- a / b for b above 0. -/
def Frac.div (a b : Frac) : Frac := { num := a.num * b.den, den := (a.den * b.num).toNat }
def Frac.divNat (a : Frac) (n : Nat) : Frac := { a with den := a.den * n }
def Frac.le (a b : Frac) : Bool := decide (a.num * b.den ≤ b.num * a.den)

/-- Rounded to nearest; a value halfway goes up or down (log entry 9). -/
def Frac.round (f : Nat) (a : Frac) : Int :=
  let r := 2 * a.num + a.den
  let q := r.fdiv (2 * a.den)
  if r.fmod (2 * a.den) = 0 ∧ !Config.freeRoundUp f then q - 1 else q

def meanOf (p : CalPoint) : Frac := { num := p.sum, den := 2 * p.pixels }
def varOf (p : CalPoint) : Frac := { num := varNum p, den := 2 * p.pixels * p.pixels }
def average (l : List Frac) : Frac := (Frac.sum l).divNat l.length

/-- Square root of a fraction times 256, rounded to nearest; a value halfway goes up or down (log entry 9). -/
def rootQ8 (free : Nat) (a : Frac) : Nat :=
  let v := a.num.toNat * 65536 * 4
  let q := isqrt (v / a.den) 64 0
  if q * q * a.den = v ∧ !Config.freeRoundUp free then q / 2 else (q + 1) / 2

/-- What a fit gives: the exact values and the light points. -/
structure Fit where
  offset : Frac
  read2 : Frac
  k : Frac
  light : List (Frac × Frac)
deriving DecidableEq, Repr

/-- The fit of R143; none with too few points. -/
def fitOf (l : List CalPoint) : Option Fit :=
  let dark := l.filter (·.dark)
  if dark.isEmpty then none
  else
    let offset := average (dark.map meanOf)
    let read2 := average (dark.map varOf)
    let light := (l.filter fun p => !p.dark && (offset.add { num := 16, den := 1 }).le (meanOf p)).map fun p =>
      ((meanOf p).sub offset, (varOf p).sub read2)
    if light.length < 2 then none
    else
      let sxy := Frac.sum (light.map fun (m, v) => m.mul v)
      let sxx := Frac.sum (light.map fun (m, _) => m.mul m)
      some { offset := offset, read2 := read2, k := sxy.div sxx, light := light }

/-- The calibration fields of a fit; none when a result lies outside R140. -/
def fitCal (free b : Nat) (x : Fit) : Option Cal :=
  let off := (x.offset.scale 16).round free
  let k := (x.k.scale 65536).round free
  let r := rootQ8 free x.read2
  if off < 0 ∨ ((2 ^ b - 1) * 16 : Nat) < off ∨ k < 1 ∨ 1048576 < k ∨ r < 1 ∨ 65535 < r then none
  else some { offsetQ4 := off.toNat, kQ16 := k.toNat, readQ8 := r }

/-- RESID: the root mean square of v − K × μ, × 256. Its rounding: log entry 9. -/
def residQ8 (free : Nat) (x : Fit) : Nat :=
  let d := x.light.map fun (m, v) => let e := v.sub (x.k.mul m); e.mul e
  let a := average d
  let v := a.num.toNat * 65536 / a.den
  let r := isqrt v 64 0
  r + b2n (decide (r * r * a.den ≠ a.num.toNat * 65536) && Config.freeRoundUp free)

/-- CAL_ID after another (R140). -/
def nextCalId (n : Nat) : Nat := if n ≥ 0xFFFF then 1 else n + 1

/-- A set with a new calibration: the active one becomes the previous one. -/
def withCal (set : ChanSet) (cal : Cal) : ChanSet := { set with codec := { set.codec with cal := some cal, prevCal := set.codec.cal } }

/-! ### Commands (Table 7-11, Table 7-12) -/

def modeOf : Nat → CodecMode
  | 0 => .off | 1 => .lossless | 2 => .bounded | 3 => .noise | _ => .budget
def codecCode : CodecMode → Nat
  | .off => 0 | .lossless => 1 | .bounded => 2 | .noise => 3 | .budget => 4

def chanBits (set : ChanSet) : Nat := (pixFmt set.layout.pixelFormat).bits

def codecParam (c : Cmd) (y : CodecCfg) : CodecCfg := { y with
  mode := modeOf (par c 0 1), k := par c 1 1, q := par c 2 1, kmin := par c 3 1, kmax := par c 4 1, targetBytes := par c 6 2 }

/-- LEVELS of a set (Table 7-9). -/
def levelsOf (set : ChanSet) : Nat :=
  match set.codec.mode with
  | .off => 0
  | .budget => cellCount (chanBits set) (.uniform set.codec.kmin)
  | _ => cellCount (chanBits set) (codingOf set none).map

/-- The largest bound that a set allows. -/
def boundOf (set : ChanSet) : Nat :=
  match set.codec.mode with
  | .bounded => set.codec.k
  | .noise => tableBoundMax (levelTable (set.codec.cal.getD {}) set.codec.q (chanBits set))
  | .budget => set.codec.kmax
  | _ => 0

def codecSet (c : Cmd) (s : State) : ChanSet :=
  let set := (targetChannel c s).shadow
  { set with codec := codecParam c set.codec }

def opCdConfig : OpDef where
  code := 0x0501
  idem := true
  cond := true
  modes := mReady
  kinds := [1]
  len := some 16
  room := 8
  bad c s :=
    let m := par c 0 1
    let b := chanBits (targetChannel c s).shadow
    let used (on : Bool) (lo hi v : Nat) : Bool := if on then !between lo hi v else v != 0
    [(0, decide (4 < m)), (1, used (m == 2) 1 31 (par c 1 1)), (2, used (m == 3) 1 32 (par c 2 1)),
     (3, used (m == 4) 0 31 (par c 3 1)), (4, used (m == 4) (max 1 (par c 3 1)) 31 (par c 4 1)), (5, !isZero c.params 5 1),
     (6, used (m == 4) 16 (8 + 128 * b) (par c 6 2)), (8, !isZero c.params 8 8)]
  wrong c s := chanIdle c s || (par c 0 1 == 3 && (targetChannel c s).shadow.codec.cal.isNone)
  short c s := rateShort s (chanOfHandle (tgt c)) (codecSet c s) || tableShort s (chanOfHandle (tgt c)) (codecSet c s)
  act c s :=
    let set := codecSet c s
    perFrame 0x0501 c 8 set (newTable (targetChannel c s) set) (leBytes 4 (levelsOf set) ++ leBytes 2 (boundOf set) ++ zeros 2) s

def execCdConfig (c : Cmd) (s : State) : Meaning := .next (runOp opCdConfig c s)

def codecLayout (y : CodecCfg) : List Byte :=
  leBytes 1 (codecCode y.mode) ++ leBytes 1 y.k ++ leBytes 1 y.q ++ leBytes 1 y.kmin ++ leBytes 1 y.kmax ++ [0]
    ++ leBytes 2 y.targetBytes ++ zeros 8

def calId (x : Option Cal) : Nat := (x.map (·.id)).getD 0

/-- The result of CD_QUERY. -/
def codecView (s : State) (g : Nat) : List Byte :=
  let set := (channelOf s g).shadow
  let k := codecChan s g
  let a := set.codec.cal.getD {}
  let p := set.codec.prevCal.getD {}
  codecLayout set.codec ++ leBytes 2 (calId set.codec.cal) ++ leBytes 2 (calId set.codec.prevCal) ++ leBytes 4 (levelsOf set)
    ++ leBytes 2 (boundOf set) ++ leBytes 1 k.kNow ++ leBytes 1 k.points.length ++ leBytes 4 (unsigned 32 k.bal)
    ++ leBytes 4 a.offsetQ4 ++ leBytes 4 a.kQ16 ++ leBytes 2 a.readQ8 ++ zeros 2
    ++ leBytes 4 p.offsetQ4 ++ leBytes 4 p.kQ16 ++ leBytes 2 p.readQ8 ++ zeros 2

def opCdQuery : OpDef where
  code := 0x0502
  query := true
  idem := true
  modes := mSafe
  kinds := [1]
  len := some 0
  room := 56
  act c s := .done s { result := codecView s (chanOfHandle (tgt c)) }

def execCdQuery (c : Cmd) (s : State) : Meaning := .next (runOp opCdQuery c s)

/-- A set that installs a calibration with the next CAL_ID of the channel. -/
def installSet (s : State) (g : Nat) (cal : Cal) : ChanSet :=
  withCal (channelOf s g).shadow { cal with id := nextCalId (codecChan s g).lastCal }

/-- Installs: CAL_ID is assigned when the command is accepted. -/
def assignCal (g : Nat) (s : State) : State := modCodecChan g (fun k => { k with lastCal := nextCalId k.lastCal }) s

def opCdCalSet : OpDef where
  code := 0x0510
  cond := true
  modes := mReady
  kinds := [1]
  len := some 12
  room := 4
  bad c s :=
    [(0, decide ((2 ^ chanBits (targetChannel c s).shadow - 1) * 16 < par c 0 4)), (4, !between 1 1048576 (par c 4 4)),
     (8, par c 8 2 == 0), (10, !isZero c.params 10 2)]
  wrong := chanIdle
  short c s := tableShort s (chanOfHandle (tgt c))
    (installSet s (chanOfHandle (tgt c)) { offsetQ4 := par c 0 4, kQ16 := par c 4 4, readQ8 := par c 8 2 })
  act c s :=
    let g := chanOfHandle (tgt c)
    let set := installSet s g { offsetQ4 := par c 0 4, kQ16 := par c 4 4, readQ8 := par c 8 2 }
    perFrame 0x0510 c 4 set (newTable (channelOf s g) set) (leBytes 2 (calId set.codec.cal) ++ zeros 2) (assignCal g s)

def execCdCalSet (c : Cmd) (s : State) : Meaning := .next (runOp opCdCalSet c s)

def opCdCalSample : OpDef where
  code := 0x0511
  modes := 0xC00
  kinds := [1]
  len := some 16
  room := 16
  bad c s :=
    let y := (targetChannel c s).shadow.layout
    [(0, decide (4 ≤ par c 0 1)), (1, !isZero c.params 1 1),
     (6, decide (y.width < par c 2 2 + par c 6 2)),
     (8, decide (y.height < par c 4 2 + par c 8 2) || decide (par c 6 2 * par c 8 2 < 1024)), (10, !isZero c.params 10 6)]
  wrong := chanIdle
  short c s := !bit (par c 0 1) 1 && decide (64 ≤ (codecChan s (chanOfHandle (tgt c))).points.length)
  act c s :=
    let g := chanOfHandle (tgt c)
    .wait (modCodecChan g (fun k => { k with
        sample := some { wait := s.eng.nextWait, dark := bit (par c 0 1) 0, clear := bit (par c 0 1) 1, x0 := par c 2 2, y0 := par c 4 2, w := par c 6 2, h := par c 8 2
                         from_ := (channelOf s g).nextFrame } })
      (addWait 0x0511 c [tslot c] 16 s))

def execCdCalSample (c : Cmd) (s : State) : Meaning := .next (runOp opCdCalSample c s)

/-- The calibration that CD_CAL_FIT derives, with its fit. -/
def fitResult (c : Cmd) (s : State) : Option (Fit × Cal) :=
  (fitOf (codecChan s (chanOfHandle (tgt c))).points).bind fun x =>
    (fitCal s.free (chanBits (targetChannel c s).shadow) x).map fun cal => (x, cal)

def fitView (free : Nat) (x : Fit) (cal : Cal) (id : Nat) (l : List CalPoint) : List Byte :=
  leBytes 4 cal.offsetQ4 ++ leBytes 4 cal.kQ16 ++ leBytes 2 cal.readQ8 ++ leBytes 2 id ++ leBytes 4 (residQ8 free x)
    ++ leBytes 1 l.length ++ leBytes 1 (darkCount l) ++ zeros 2

def opCdCalFit : OpDef where
  code := 0x0512
  cond := true
  modes := 0xC00
  kinds := [1]
  len := some 4
  room := 20
  bad c _ := [(0, decide (1 < par c 0 1)), (1, !isZero c.params 1 3)]
  wrong c s := chanIdle c s || (fitResult c s).isNone
  short c s := par c 0 1 == 1 && (match fitResult c s with
    | some (_, cal) => tableShort s (chanOfHandle (tgt c)) (installSet s (chanOfHandle (tgt c)) cal)
    | none => false)
  act c s :=
    let g := chanOfHandle (tgt c)
    let l := (codecChan s g).points
    match fitResult c s with
    | none => .fail (eState s (some (g / 64)))
    | some (x, cal) =>
      if par c 0 1 = 0 then .done (useFree s) { result := fitView s.free x cal 0 l }
      else
        let set := installSet s g cal
        perFrame 0x0512 c 20 set (newTable (channelOf s g) set) (fitView s.free x cal (calId set.codec.cal) l) (assignCal g (useFree s))

def execCdCalFit (c : Cmd) (s : State) : Meaning := .next (runOp opCdCalFit c s)

/-- The calibration that CAL_ID of CD_TABLE_READ names: the active one for 0. -/
def tableCal (c : Cmd) (s : State) : Option Cal :=
  let y := (targetChannel c s).active.codec
  if par c 2 2 = 0 then y.cal
  else if calId y.cal = par c 2 2 then y.cal
  else if calId y.prevCal = par c 2 2 then y.prevCal
  else none

def tableQ (c : Cmd) (s : State) : Nat := if par c 1 1 = 0 then (targetChannel c s).active.codec.q else par c 1 1

/-- TOTAL and the values of the table that CD_TABLE_READ reads. -/
def tableValues (c : Cmd) (s : State) : Nat × (Nat → Nat) :=
  let b := chanBits (targetChannel c s).active
  let t := levelTable ((tableCal c s).getD {}) (tableQ c s) b
  match par c 0 1 with
  | 0 => (2 ^ b, tableBound t)
  | 1 => (t.length, fun i => (t.getD i { lo := 0, hi := 0, rec_ := 0 }).rec_)
  | _ => (2 ^ b, fun x => (findCell x 0 t).1)

def opCdTableRead : OpDef where
  code := 0x0520
  query := true
  idem := true
  modes := mSafe
  kinds := [1]
  len := some 8
  room := 4096
  bad c s :=
    let noise := decide ((targetChannel c s).active.codec.mode = .noise)
    [(0, decide (2 < par c 0 1)), (1, decide (32 < par c 1 1) || (par c 1 1 == 0 && !noise)),
     (2, par c 2 2 != 0 && (tableCal c s).isNone),
     (4, (par c 0 1 != 1 || (tableCal c s).isSome) && decide ((tableValues c s).1 ≤ par c 4 4))]
  wrong c s := (tableCal c s).isNone
  act c s :=
    let (total, v) := tableValues c s
    let n := min 2044 (total - par c 4 4)
    .done s { result := leBytes 4 n ++ leBytes 4 total ++ ((List.range n).map fun i => leBytes 2 (v (par c 4 4 + i))).flatten }

def execCdTableRead (c : Cmd) (s : State) : Meaning := .next (runOp opCdTableRead c s)

def opCdCheckSet : OpDef where
  code := 0x0530
  idem := true
  master := true
  cond := true
  modes := mReady
  len := some 4
  room := 4
  bad c _ := [(0, !between 1 1024 (par c 0 2)), (2, !isZero c.params 2 2)]
  act c s :=
    let r : Answer := { result := leBytes 2 s.cd.sampleN ++ zeros 2 }
    if s.cd.sampleN = par c 0 2 then .done s r else .done (bumpPkg (modCd s fun x => { x with sampleN := par c 0 2 })) r

def execCdCheckSet (c : Cmd) (s : State) : Meaning := .next (runOp opCdCheckSet c s)

/-- CD_ENGINE_RESTORE; `pass` is the outcome of the engine's known-vector self-test. -/
def opCdEngineRestore (pass : Bool) : OpDef where
  code := 0x0531
  idem := true
  master := true
  modes := mReady
  len := some 4
  room := 4
  bad c s := [(0, decide (tiles s ≤ par c 0 1)), (1, decide (3 < par c 1 1)), (2, !isZero c.params 2 2)]
  tile c _ := some (par c 0 1)
  wrong c s := !serving s (par c 0 1) || !(engineOf s (par c 0 1 * 4 + par c 1 1)).suspect
  act c s :=
    if pass then
      let s := modEngine (par c 0 1 * 4 + par c 1 1) (fun x => { x with suspect := false, escaping := false }) s
      .done s { result := leBytes 4 (enginesInUse s (par c 0 1)) }
    else .fail { status := .eHwFault }

def execCdEngineRestore (c : Cmd) (pass : Bool) (s : State) : Meaning := .next (runOp (opCdEngineRestore pass) c s)

end Sys2Proof.Machine
end

