-- ==== Sys2Proof/Machine/Assembly.lean ====
section
/-!
DEFINITION. The frame assembler (chapter 06): frame leaders, encoder positions, the tag record, commits of configuration sets, and
the FA commands.
-/
namespace Sys2Proof.Machine
open Sys2Proof

/-! ### Frame leaders and positions (R109, R117) -/

/-- R109: the assembler takes in the leader of the oldest block of a channel. -/
def execFrameLeader (channel : Nat) (s : State) : Meaning := .next (noteReady channel (ns s) (advance channel 8 (takeLeader channel s)))

/-- A slot of a frame whose M has come: its position is taken; a slot without one is invalid (R117). -/
def takePosition (g : Nat) (f : Frame) (s : State) (n : Nat) : State :=
  let i := slotMi f.set n
  let s := modFrame g f.seq (fun f => { f with posWaiting := f.posWaiting.filter (· ≠ n) }) s
  if service s (i / 2) ≠ .inService then s
  else match positionAt s i (midTime f.expo f.set) with
  | some p => modFrame g f.seq (fun f => { f with positions := tput f.positions n p }) s
  | none => countStale g 1 s

/-- R117: package time has reached M of frames that wait for encoder positions. -/
def execPositionAtMidtime (channel : Nat) (s : State) : Meaning := .next <|
  ((channelOf s channel).frames.filter fun f => decide (midTime f.expo f.set ≤ (ns s : Int))).foldl (fun s f =>
    f.posWaiting.foldl (takePosition channel f) s) s

/-! ### The tag record (R118 to R121) -/

/-- Frame data as it leaves the codec island: slices or image, part table, chunk bytes (R112, R132). -/
def frameData (f : Frame) : List Byte :=
  f.data ++ partTable f.leader ++ ((f.raw.drop (f.raw.length - f.chunkBytes)).map fun x => x.getD 0)

/-- CODEC_PARAM (Table 7-1). -/
def codecParamByte (y : CodecCfg) : Nat :=
  match y.mode with
  | .bounded => y.k
  | .noise => y.q
  | .budget => y.kmax
  | _ => 0

/-- BOUND_MAX of a frame (R120). -/
def frameBound (f : Frame) : Nat := if f.set.codec.mode = .budget then f.kWritten else boundOf f.set

/-- What differs between the two tags of a frame (R119). -/
structure TagCopy where
  stored : Nat
  segment : Nat := 0
  post : Bool := false
  fromStore : Bool := false
deriving DecidableEq, Repr

def longSpan (f : Frame) : Bool := decide (2 ^ 32 ≤ f.last / 65536 - f.first / 65536)

/-- Tag FLAGS (Table 6-2). -/
def tagFlags (f : Frame) (x : TagCopy) : Nat :=
  b2n f.truncated + 2 * b2n (decide (f.missing ≠ 0)) + 4 * b2n (decide (f.resent ≠ 0)) + 8 * b2n f.late + 16 * b2n f.filled
    + 32 * b2n f.escaped + 64 * b2n x.post + 128 * b2n f.expoEstimated + 256 * b2n f.expoClamped + 512 * b2n f.holdover
    + 1024 * b2n (longSpan f) + 2048 * b2n x.fromStore + 4096 * b2n (decide (65535 < f.missing ∨ 65535 < f.resent))

/-- Bytes 0 to 123 of a tag record (Table 6-1). -/
def tagBody (handle : Nat) (f : Frame) (x : TagCopy) : List Byte :=
  let firstNs := f.first / 65536
  let lastNs := if longSpan f then firstNs + 2 ^ 32 - 1 else f.last / 65536
  leBytes 4 handle ++ leBytes 4 f.set.gen.toNat ++ leBytes 8 f.blockId ++ leBytes 8 f.seq.toNat ++ leBytes 8 f.leader.timestamp
    ++ leBytes 4 (unsigned 32 f.expo) ++ leBytes 4 firstNs ++ leBytes 4 lastNs ++ leBytes 4 (f.leaderAt / 65536)
    ++ ((List.range 4).map fun n => leBytes 4 ((tget? f.positions n).map (·.toNat) |>.getD 0)).flatten
    ++ leBytes 8 f.rawBytes ++ leBytes 8 x.stored ++ leBytes 4 x.segment ++ leBytes 4 f.actEnergy ++ leBytes 4 (tagFlags f x)
    ++ leBytes 2 (satU 16 f.missing) ++ leBytes 2 (satU 16 f.resent) ++ leBytes 4 f.set.layout.pixelFormat
    ++ leBytes 2 f.set.layout.width ++ leBytes 2 (frameHeight f.leader) ++ leBytes 2 (satU 16 f.leader.offsetX)
    ++ leBytes 2 (satU 16 f.leader.offsetY) ++ leBytes 4 f.chunkBytes ++ leBytes 1 (codecCode f.set.codec.mode)
    ++ leBytes 1 (codecParamByte f.set.codec) ++ leBytes 2 (frameBound f) ++ leBytes 1 f.actRoi
    ++ leBytes 1 (if f.leader.payloadType = 0x000A then f.leader.parts.length else 1)
    ++ leBytes 1 ((List.range 4).foldl (fun m n => m + 2 ^ n * b2n (tget? f.positions n).isSome) 0 + 16 * (f.set.encEn % 16))
    ++ [1] ++ leBytes 4 (timeSec f.leaderAt % 2 ^ 32)

/-- A tag record with its CRC (R121). -/
def withCrc (b : List Byte) : List Byte := b ++ leBytes 4 (crc32 b)
def tagRecord (handle : Nat) (f : Frame) (x : TagCopy) : List Byte := withCrc (tagBody handle f x)

/-- The tag of a frame can be completed: closed, coded, decided, positions taken (R117, R118). -/
def tagReady (f : Frame) : Bool :=
  f.closed && decide (frameHeight f.leader ≤ f.lines.length) && f.slices.isEmpty && f.decided && f.posWaiting.isEmpty

/-- R118: the tag of the oldest frame without one is completed. -/
def execTagComplete (channel : Nat) (s : State) : Meaning := .next <|
  match (channelOf s channel).frames.find? fun f => !f.dropped && !f.tagged with
  | none => s
  | some f =>
    if tagReady f then
      let s := modFrame channel f.seq (fun f => { f with tagged := true }) s
      let s := countChannel channel (fun c => { c with framesTagged := c.framesTagged + 1 }) s
      sweepFrames channel (captureAll channel f (sampleAll channel f s))
    else s

/-! ### Commits (R125 to R128) -/

/-- The codec settings of a set, without its calibrations. The model's own choice: a new calibration is no change of codec settings, so it
leaves balance and k as they are; R151 does not say (log entry 91). -/
def settingsOf (y : CodecCfg) : CodecCfg := { y with cal := none, prevCal := none }

/-- A commit completes: its set is active, COMMIT_APPLIED, and its command answers (R125, R129, R151, R155). -/
def applyCommit (g : Nat) (p : PendingCommit) (s : State) : State :=
  let c := channelOf s g
  let s := putChannel g { c with
    active := p.set, commits := c.commits.drop 1, commitNs32 := ns32 s, counters := { c.counters with commits := c.counters.commits + 1 } } s
  let s := if settingsOf p.set.codec = settingsOf c.active.codec then s
    else modCodecChan g (fun k => { k with bal := 0, kNow := p.set.codec.kmin }) s
  let s := raiseChan g 56 (c.nextFrame.toNat % 2 ^ 24) s
  let s := settleRing g s
  let s := if p.set.codec.cal = c.active.codec.cal then s else raise (g / 64) 60 (g % 64 + 2 ^ 8 * calId p.set.codec.cal) s
  match p.wait with
  | none => s
  | some id =>
    finish id {
      gen := some (p.gen.getD p.set.gen), firstFrame := c.nextFrame, handle := p.handle, late := p.late
      result := if p.staged then leBytes 4 (ns32 s).toNat else p.result } s

/-- R125: the commit on its way to the assembly island completes at this edge. -/
def execConfigCommitApplied (channel : Nat) (s : State) : Meaning := .next <|
  match (channelOf s channel).commits with
  | [] => s
  | p :: _ => if p.at_.isSome || p.building || !serving s (channel / 64) then s else applyCommit channel p s

/-- R128: the first assembly-island edge at or after AT, and after the build of a table. -/
def execStageCommitAt (channel : Nat) (s : State) : Meaning := .next <|
  match (channelOf s channel).commits with
  | [] => s
  | p :: _ =>
    match p.at_ with
    | none => s
    | some t => if s.time.now < t || p.building || !serving s (channel / 64) then s
      else applyCommit channel p (modChannel channel (fun x => { x with staging := false }) s)

/-- Staging is aborted: the shadow is the last set sent to a commit again, and CONFIG_GEN counts it (R127). -/
def abortStage (g : Nat) (s : State) : State :=
  if (channelOf s g).staging then
    let s := bumpObj (chanSlot g) s
    let gen := ((obj? s (chanSlot g)).map (·.gen)).getD 1
    modChannel g (fun c => { c with staging := false, shadow := { c.sent with gen := gen } }) s
  else s

/-! ### Commands (Table 6-9, Table 6-10) -/

def faSet (c : Cmd) (s : State) : ChanSet := { (targetChannel c s).shadow with
  tsMode := par c 0 1, encEn := par c 1 1, slotMi := par c 2 2, exposureNs := par c 4 4
  expoOffsetNs := signed 32 (par c 8 4), leaderLagNs := par c 12 4 }

def opFaConfig : OpDef where
  code := 0x0401
  idem := true
  cond := true
  modes := mReady
  kinds := [1]
  len := some 24
  bad c s :=
    [(0, decide (1 < par c 0 1)), (1, decide (15 < par c 1 1)),
     (2, (List.range 4).any fun n => bit (par c 1 1) n && decide (tiles s * 2 ≤ par c 2 2 / 16 ^ n % 16)),
     (4, decide (1000000000 < par c 4 4)), (8, decide (1000000 < (signed 32 (par c 8 4)).natAbs)),
     (12, decide (1000000000 < par c 12 4)), (16, !isZero c.params 16 8)]
  wrong := chanIdle
  act c s := perFrame 0x0401 c 0 (faSet c s) false [] s

def execFaConfig (c : Cmd) (s : State) : Meaning := .next (runOp opFaConfig c s)

def faLayout (x : ChanSet) : List Byte :=
  leBytes 1 x.tsMode ++ leBytes 1 x.encEn ++ leBytes 2 x.slotMi ++ leBytes 4 x.exposureNs ++ leBytes 4 (unsigned 32 x.expoOffsetNs)
    ++ leBytes 4 x.leaderLagNs ++ zeros 8

/-- AT of the staged commit that waits, in ns. -/
def waitingAt (c : Channel) : Option Nat := (c.commits.filterMap (·.at_)).head?.map (· / 65536)

def faView (c : Channel) : List Byte :=
  faLayout c.shadow ++ leBytes 1 (b2n c.staging) ++ leBytes 1 (b2n (waitingAt c).isSome) ++ zeros 2 ++ leBytes 4 c.active.gen.toNat
    ++ leBytes 8 c.nextFrame.toNat ++ leBytes 4 c.commitNs32.toNat ++ leBytes 4 ((waitingAt c).getD 0 % 2 ^ 32)

def opFaQuery : OpDef where
  code := 0x0402
  query := true
  idem := true
  modes := mSafe
  kinds := [1]
  len := some 0
  room := 48
  act c s := .done s { result := faView (targetChannel c s) }

def execFaQuery (c : Cmd) (s : State) : Meaning := .next (runOp opFaQuery c s)

def opFaStageBegin : OpDef where
  code := 0x0410
  idem := true
  cond := true
  modes := mReady
  kinds := [1]
  len := some 0
  wrong := chanIdle
  act c s := .done (modChannel (chanOfHandle (tgt c)) (fun x => { x with staging := true }) s) {}

def execFaStageBegin (c : Cmd) (s : State) : Meaning := .next (runOp opFaStageBegin c s)

/-- AT of FA_STAGE_COMMIT in 2^-16 ns; none for at once. -/
def stageAt (c : Cmd) : Option Nat := if isZero c.params 0 12 then none else some (timeParam c 0)
def stageLate (c : Cmd) (s : State) : Bool := ((stageAt c).map fun t => decide (t < s.time.now)).getD false

/-- Resources of the staged changes no longer fit (R127). -/
def stageShort (g : Nat) (s : State) : Bool :=
  let x := channelOf s g
  rateShort s g x.shadow || tableShort s g x.shadow || activityShort s g x.shadow

/-- FA_STAGE_COMMIT: while its commit waits for AT, the channel is held and still staging, so that an abort finds it busy (R128). -/
def opFaStageCommit : OpDef where
  code := 0x0411
  cond := true
  modes := mReady
  kinds := [1]
  len := some 16
  room := 4
  bad c s :=
    [(0, ((stageAt c).map fun t => decide (s.time.now + 60000000000 * 65536 < t)).getD false), (6, timeBad c 0),
     (12, !isZero c.params 12 4)]
  past c s := [(10, stageLate c s && lateReject c)]
  wrong c s := chanIdle c s || !(targetChannel c s).staging
  short c s := stageShort (chanOfHandle (tgt c)) s
  act c s :=
    let g := chanOfHandle (tgt c)
    let late := stageLate c s
    let at_ := if late then none else stageAt c
    let x := channelOf s g
    let set := alignRois x.sent x.shadow
    .wait (modChannel g (fun x => { x with
        staging := at_.isSome, shadow := set, sent := set
        commits := x.commits ++ [{ set := set, wait := some s.eng.nextWait, at_ := at_, late := late, building := newTable x x.shadow, staged := true }] })
      (addWait 0x0411 c (if at_.isSome then [tslot c] else []) 4 s))

def execFaStageCommit (c : Cmd) (s : State) : Meaning := .next (runOp opFaStageCommit c s)

def opFaStageAbort : OpDef where
  code := 0x0412
  cond := true
  modes := mReady
  kinds := [1]
  len := some 0
  wrong c s := chanIdle c s || !(targetChannel c s).staging
  act c s := .done (abortStage (chanOfHandle (tgt c)) s) {}

def execFaStageAbort (c : Cmd) (s : State) : Meaning := .next (runOp opFaStageAbort c s)

def opAnchorSet : OpDef where
  code := 0x0420
  idem := true
  master := true
  cond := true
  modes := mReady
  len := some 4
  room := 4
  bad c _ := [(0, !between 10 1000 (par c 0 4))]
  act c s :=
    let r : Answer := { result := leBytes 4 s.st.anchorMs }
    if s.st.anchorMs = par c 0 4 then .done s r
    else .done (bumpPkg { s with st := { s.st with anchorMs := par c 0 4 } }) r

def execAnchorSet (c : Cmd) (s : State) : Meaning := .next (runOp opAnchorSet c s)

end Sys2Proof.Machine
end

