-- ==== Sys2Proof/Machine/Store.lean ====
section
/-!
DEFINITION. The frame store (chapter 08): frame records, triggers, the store commands, readouts, mappings and direct reads.
-/
namespace Sys2Proof.Machine
open Sys2Proof

/-! ### DRAM errors (R170, R344) -/

/-- FRAME_LOST, at most once per millisecond per channel (R170, R177). -/
def raiseLost (g : Nat) (q : U64) (s : State) : State :=
  if msPassed s (ringOf s g).lostAt then
    raise (g / 64) 66 (g % 64 + 2 ^ 8 * (q.toNat % 2 ^ 24)) (modRing g (fun r => { r with lostAt := some s.clock }) s)
  else s

/-- An uncorrectable error is found in a frame of a ring: it is freed and counted. -/
def loseInRing (g : Nat) (q : U64) (injected : Bool) (s : State) : State :=
  raiseLost g q (trim g (modRing g (fun r => { r with lost := r.lost + 1 }) (dropRec g q (detectorFires (g / 64) 0x03 injected s))))

def modRec (q : U64) (f : Rec → Rec) (l : List Rec) : List Rec := l.map fun x => if x.seq = q then f x else x

/-- The record of a frame of a channel changes, in its ring or in a segment of the channel. -/
def modRecs (g : Nat) (q : U64) (f : Rec → Rec) (s : State) : State :=
  modFs (modRing g (fun r => { r with frames := modRec q f r.frames }) s) fun z => { z with segs := z.segs.map fun (k, x) =>
    (k, if x.channel = g ∧ x.chanHandle = handleOf s (chanSlot g) then { x with frames := modRec q f x.frames } else x) }

/-- An uncorrectable error is found in a frame of a segment: it stays listed, BAD. -/
def loseInSegment (k : Nat) (q : U64) (injected : Bool) (s : State) : State :=
  let g := ((tget? s.fs.segs k).map (·.channel)).getD 0
  raiseLost g q (modSeg k (fun x => { x with frames := modRec q (fun r => { r with bad := true, err := 0 }) x.frames })
    (detectorFires (k / 16384) 0x03 injected s))

/-- A read reaches the last page of a frame of a segment: an error that stands there is found. -/
def readRec (k : Nat) (s : State) (f : Rec) : State :=
  match f.err with
  | 0 => s
  | 1 => modSeg k (fun x => { x with frames := modRec f.seq (fun r => { r with err := 0 }) x.frames }) (detectorFires (k / 16384) 0x02 true s)
  | _ => loseInSegment k f.seq true s

/-- The scrubber has passed over a tile's stack: the errors that stand in it are found. -/
def scrubTile (t : Nat) (s : State) : State :=
  let s := (tileSegs s t).foldl (fun s (k, x) => x.frames.foldl (readRec k) s) s
  (tileRings s t).foldl (fun s (g, r) => r.frames.foldl (fun s f =>
    match f.err with
    | 0 => s
    | 1 => modRing g (fun r => { r with frames := modRec f.seq (fun x => { x with err := 0 }) r.frames }) (detectorFires t 0x02 true s)
    | _ => loseInRing g f.seq true s) s) s

/-- A pending injection of a DRAM error acts on the next frame record of its channel: the error placed. -/
def placeError (g : Nat) (s : State) : Nat × State :=
  if injectionDue s (g / 64) 0x03 (g % 64) then (2, consumeInjection (g / 64) 0x03 s)
  else if injectionDue s (g / 64) 0x02 (g % 64) then (1, consumeInjection (g / 64) 0x02 s)
  else (0, s)

/-! ### Records and triggers -/

/-- The record of a frame (R158). -/
def recordOf (s : State) (g : Nat) (f : Frame) : Rec :=
  let data := frameData f
  { seq := f.seq, pages := (128 + data.length + 65535) / 65536, data := data, expo := f.expo
    tag := tagBody (handleOf s (chanSlot g)) f { stored := data.length } }

/-- R158: the tag of the oldest frame that is to be recorded is written after its data; its record becomes valid. -/
def execFrameRecordValid (channel : Nat) (s : State) : Meaning := .next <|
  match (channelOf s channel).frames.find? fun f => f.record && !f.recorded && !f.dropped with
  | none => s
  | some f =>
    if f.tagged && serving s (channel / 64) then
      let (err, s) := placeError channel s
      let s := writeRec channel { recordOf s channel f with err := err } s
      sweepFrames channel (modFrame channel f.seq (fun f => { f with recorded := true }) s)
    else s

/-- Up to n events that wait at TRIGGER_cc act as one. -/
def takeTrigger (channel n : Nat) (s : State) : State :=
  if !serving s (channel / 64) then s
  else match takeInput (channel / 64) (512 + channel % 64) n s with
  | none => s
  | some (e, s) =>
    match activeSeg s channel with
    | some (k, x) =>
      if x.state = .armed then
        triggerSegment k ((extend32 (ns32Of e.time).toNat (ns s) + x.offsetNs) * 65536) e.hops s
      else modRing channel (fun r => { r with ignored := r.ignored + 1 }) s
    | none => modRing channel (fun r => { r with ignored := r.ignored + 1 }) s

/-- R164: an event at TRIGGER_cc. -/
def execTriggerInput (channel n : Nat) (s : State) : Meaning := .next (takeTrigger channel n s)

/-- R163: POST_WAIT_MS has passed after the later of T and the acceptance of the trigger. -/
def execPostWaitExpiry (segment : Nat) (s : State) : Meaning := .next <|
  match tget? s.fs.segs segment with
  | none => s
  | some x =>
    let t := x.t.getD 0
    if x.state = .triggered ∧ x.postWaitMs ≠ 0 ∧ x.acceptedAt + x.postWaitMs * ms ≤ s.clock
        ∧ t + (x.postWaitMs * ms * 65536 : Nat) ≤ (s.time.now : Int) then freezeSegment segment .ended s
    else s

/-! ### Directories and layouts (R173) -/

def segCode : SegState → Nat
  | .armed => 0 | .triggered => 1 | .frozen => 2 | .reading => 3

def isLayer (x : Segment) : Bool := decide (x.state = .frozen ∨ x.state = .reading)

def sflags (x : Segment) : Nat :=
  b2n x.cut + 2 * b2n x.preShort + 4 * b2n x.postShort + 8 * b2n x.autoRearm + 16 * b2n (x.frames.any (·.bad))

def preCount (x : Segment) : Nat := (x.pre.map (·.length)).getD 0
def dirPages (x : Segment) : Nat := ((x.frames.length + 1) * 32 + 65535) / 65536
def storedOf (f : Rec) : Nat := f.data.length

/-- Entry 0 (Table 8-4). -/
def dirHeader (s : State) (k : Nat) (x : Segment) : List Byte :=
  let t := (x.t.getD 0).toNat
  leBytes 4 (segHandle s k) ++ leBytes 4 x.frames.length ++ leBytes 4 (dirPages x) ++ leBytes 2 (satU 16 (preCount x))
    ++ leBytes 2 (satU 16 x.post.length) ++ leBytes 6 (timeSec t) ++ leBytes 2 (timeFrac t) ++ leBytes 4 (timeNs t) ++ leBytes 4 (sflags x)

/-- The entries of the frames (Table 8-5), from a page offset. -/
def dirEntries : Nat → List Rec → List (List Byte)
  | _, [] => []
  | page, f :: rest =>
    (leBytes 8 f.seq.toNat ++ leBytes 4 page ++ leBytes 2 f.pages ++ leBytes 2 (b2n f.post + 2 * b2n f.bad)
      ++ leBytes 8 (storedOf f) ++ leBytes 4 (le f.tag 32 4) ++ zeros 4) :: dirEntries (page + f.pages) rest

def directory (s : State) (k : Nat) (x : Segment) : List (List Byte) := dirHeader s k x :: dirEntries 0 x.frames

/-- Bytes filled up with zeros to n. -/
def padTo (n : Nat) (b : List Byte) : List Byte := b ++ zeros (n - b.length)

/-- Bytes in whole pages; what nothing fills of the last page is free (log entry 74). -/
def fillPages (tag n : Nat) (b : List Byte) : List Byte :=
  b ++ (List.range (n - b.length)).map fun i => Config.pageByte tag (b.length + i)

/-- The layout of a segment, with its directory: directory pages, then frame records, each in whole pages. -/
def layerBytes (dir : List Byte) (x : Segment) : List Byte :=
  let tag := x.chanHandle * 2 ^ 32 + x.frozenNs32.toNat
  fillPages (tag * 2) (dirPages x * 65536) dir
    ++ (x.frames.map fun f => fillPages ((f.seq.toNat * 2 ^ 64 + tag) * 2 + 1) (f.pages * 65536) (withCrc f.tag ++ f.data)).flatten

def layerSize (x : Segment) : Nat := (dirPages x + x.pages) * 65536

/-! ### Direct reads (R173, R227) -/

def storeSize (s : State) (p : Nat) : Nat := 2 ^ (20 + (portOf s p).barSize)

def portMaps (s : State) (p : Nat) : List Mapping := s.fs.maps.filter fun m => decide (m.port = p)

/-- Byte at an offset of a port's STORE region, when a mapping covers it. -/
def mappingAt (s : State) (p a : Nat) : Option Mapping :=
  (portMaps s p).find? fun m => decide (m.offset ≤ a) && decide (a < m.offset + m.bytes)

def storeBytes (s : State) (p offset len : Nat) : List Byte :=
  (List.range len).map fun i =>
    match mappingAt s p (offset + i) with
    | none => 0
    | some m => ((tget? s.fs.segs m.segment).bind fun x => (layerBytes m.dir x)[offset + i - m.offset]?).getD 0

/-- A direct read is charged to its class, and never held (R329). -/
def chargeRead (t len : Nat) (s : State) : State :=
  if s.pkg.mode = .review then modTileGov t (fun g => { g with creditB := g.creditB - len }) s
  else modTileGov t (fun g => { g with creditC := g.creditC - (len * s.gov.conf.costB / 1000 : Nat) }) s

/-- The frames of a mapped segment, each with the offset of its last page in the STORE region. -/
def lastPages (m : Mapping) (s : State) : List (Nat × Rec) :=
  match tget? s.fs.segs m.segment with
  | none => []
  | some x =>
    (x.frames.foldl (fun (at_, l) f => (at_ + f.pages * 65536, l ++ [(at_ + (f.pages - 1) * 65536, f)]))
      (m.offset + dirPages x * 65536, ([] : List (Nat × Rec)))).2

/-- Bytes in pieces of at most w, with the address of each. -/
def pieces (w : Nat) : Nat → Nat → List Byte → List (Nat × List Byte)
  | 0, _, _ => []
  | n + 1, addr, l => if l.isEmpty then [] else (addr, l.take w) :: pieces w n (addr + w) (l.drop w)

/-- Bytes cut at the multiples of w of their address. -/
def aligned (w addr : Nat) (l : List Byte) : List (Nat × List Byte) :=
  let n := w - addr % w
  (if l.isEmpty then [] else [(addr, l.take n)]) ++ pieces w l.length (addr + n) (l.drop n)

/-- R173, R227: a read TLP of the STORE region of a port; its completions are split at 128-byte boundaries. -/
def storeRead (port offset len : Nat) (s : State) : State :=
  let covered := (List.range len).filterMap fun i => mappingAt s port (offset + i)
  let s' := if covered.length < len then
      modFs s fun f => { f with unmapped := tmod 0 f.unmapped port (· + 1) }
    else s
  let s' := match covered with
    | [] => s'
    | m :: _ => chargeRead (m.segment / 16384) covered.length s'
  let pages := (portMaps s port).flatMap fun m => ((lastPages m s).filter fun (at_, _) =>
    decide (at_ < offset + len) && decide (offset < at_ + 65536)).map fun (_, f) => (m.segment, f)
  let s' := pages.foldl (fun s (k, f) => readRec k s f) s'
  (aligned 128 offset (storeBytes s port offset len)).foldl (fun s x => emit (.readData port x.2) s) s'

/-- Memory requests reach a port: Memory Space Enable 1 and not in D3hot (R224). -/
def memoryServed (q : Port) : Bool := q.dlActive && q.memSpace && !q.d3hot && q.flrSince.isNone

/-- Answers a request outside every enabled region with Unsupported Request, which the port reports (Table 11-9, Table 11-14). -/
def answerUnsupported (port : Nat) (header : List Byte) (s : State) : State :=
  emit (.unsupported port) (nonFatal port 20 header (modPortCounters port (fun c => { c with urReturned := c.urReturned + 1 }) s))

def unsupportedRequest (port : Nat) (s : State) : State := answerUnsupported port (freeHeader s) (useFree s)

/-- A memory request that no enabled region takes (R224, Table 11-9): a read is completed with Unsupported Request, a posted write is
discarded. Nothing comes from a port whose link is down. -/
def refuseMemory (port : Nat) (write : Bool) (s : State) : State :=
  if !(portOf s port).dlActive then s else if write then correctable port 13 s else unsupportedRequest port s

def execStoreRead (port offset len : Nat) (s : State) : Meaning := .next <|
  if !memoryServed (portOf s port) || decide (storeSize s port < offset + len) then refuseMemory port false s
  else storeRead port offset len s

/-! ### Commands (Table 8-12, Table 8-13) -/

def segOfTarget (c : Cmd) (s : State) : Option Segment := tget? s.fs.segs (segNumber (tgt c))
def segState (c : Cmd) (s : State) (l : List SegState) : Bool := ((segOfTarget c s).map fun x => l.contains x.state).getD false
/-- The tile of TARGET does not serve (R178). -/
def tileIdle (c : Cmd) (s : State) : Bool := !serving s (handleTile (tgt c))

def setRing (g pages : Nat) (s : State) : State :=
  let r := ringOf s g
  let take := (pages - r.target) - (r.pages - r.target)
  let s := modRing g (fun r => { r with target := pages, pages := r.pages + take }) s
  let s := trim g s
  modRing g (fun r => { r with short := decide (r.pages < r.target) }) s

def opFsRingSet : OpDef where
  code := 0x0601
  idem := true
  cond := true
  modes := mReady
  kinds := [1]
  len := some 4
  room := 8
  bad c _ := [(0, decide (poolTotal < par c 0 4))]
  wrong := tileIdle
  short c s :=
    let r := ringOf s (chanOfHandle (tgt c))
    decide (poolFree s (handleTile (tgt c)) < (par c 0 4 - r.target) - (r.pages - r.target))
  act c s :=
    let g := chanOfHandle (tgt c)
    let old := (ringOf s g).target
    let s' := setRing g (par c 0 4) s
    let s' := if par c 0 4 = old then s' else bumpObj (tslot c) s'
    .done s' (okObj s' c (leBytes 4 old ++ leBytes 4 (ringOf s' g).pages))

def execFsRingSet (c : Cmd) (s : State) : Meaning := .next (runOp opFsRingSet c s)

def opFsQuery : OpDef where
  code := 0x0602
  query := true
  idem := true
  modes := mSafe
  len := some 4
  room := 24
  bad c s := [(0, decide (tiles s ≤ par c 0 1)), (1, !isZero c.params 1 3)]
  tile c _ := some (par c 0 1)
  act c s :=
    let t := par c 0 1
    .done s { result := leBytes 4 poolTotal ++ leBytes 4 (poolFree s t) ++ leBytes 4 (sumOver (·.2.target) (tileRings s t))
      ++ leBytes 4 (layerPages s t) ++ leBytes 4 (indexUsed s t) ++ leBytes 4 (tileSegs s t).length }

def execFsQuery (c : Cmd) (s : State) : Meaning := .next (runOp opFsQuery c s)

/-- A handle parameter that cannot name an object of a kind on this part. -/
def kindBad (s : State) (kind h : Nat) : Bool :=
  handleKind h != kind || decide (tiles s ≤ handleTile h) || decide (indexLimit kind ≤ handleIndex h)

def opFsSegArm : OpDef where
  code := 0x0610
  modes := mReady
  len := some 24
  bad c s :=
    let off := signed 32 (par c 8 4)
    [(0, kindBad s 1 (par c 0 4)), (6, decide (par c 4 2 = 0 ∧ par c 6 2 = 0)),
     (8, decide (off < -1000000000) || decide (1000000000 < off)), (12, decide (3600000 < par c 12 4)),
     (16, decide (1 < par c 16 1)), (17, !isZero c.params 17 7)]
  refs c _ := [par c 0 4]
  first c s :=
    let g := chanOfHandle (par c 0 4)
    takeTrigger g (eventsWaiting s (g / 64) (512 + g % 64)) s
  tile c _ := some (handleTile (par c 0 4))
  wrong c s := !serving s (handleTile (par c 0 4))
  busy c s := (activeSeg s (chanOfHandle (par c 0 4))).isSome
  short c s := decide (256 ≤ (chanSegs s (chanOfHandle (par c 0 4))).length) || (freeSegment s (handleTile (par c 0 4))).isNone
  act c s :=
    let g := chanOfHandle (par c 0 4)
    match armSegment g { channel := g, chanHandle := par c 0 4, preN := par c 4 2, postM := par c 6 2
                         offsetNs := signed 32 (par c 8 4), postWaitMs := par c 12 4, autoRearm := bit (par c 16 1) 0 }
        { owner := c.port } s with
    | some (k, s) => .done s { handle := some (segHandle s k) }
    | none => .fail eNoResource

def execFsSegArm (c : Cmd) (s : State) : Meaning := .next (runOp opFsSegArm c s)

/-- The events that wait at TRIGGER_cc of the segment of TARGET act first (R55). -/
def triggerFirst (c : Cmd) (s : State) : State :=
  match tget? s.fs.segs (segNumber (tgt c)) with
  | some x => takeTrigger x.channel (eventsWaiting s (x.channel / 64) (512 + x.channel % 64)) s
  | none => s

/-- T of FS_TRIGGER in 2^-16 ns: the time given, or the time of execution (R164). -/
def triggerTime (c : Cmd) (s : State) : Nat :=
  if isZero c.params 0 12 then s.time.now else ((par c 0 6 * 1000000000 + par c 6 4) * 65536) + par c 10 2

def opFsTrigger : OpDef where
  code := 0x0611
  cond := true
  modes := mReady
  kinds := [3]
  len := some 16
  room := 4
  bad c s := [(0, decide (s.time.now + 60000 * ms * 65536 < triggerTime c s)), (6, decide (999999999 < par c 6 4)), (12, !isZero c.params 12 4)]
  first := triggerFirst
  wrong c s := tileIdle c s || !segState c s [.armed]
  act c s :=
    let t := triggerTime c s
    let gen := (obj? s (tslot c)).map (·.gen)
    .done (triggerSegment (segNumber (tgt c)) t 0 s) { gen := gen, result := leBytes 4 (t / 65536) }

def execFsTrigger (c : Cmd) (s : State) : Meaning := .next (runOp opFsTrigger c s)

/-- A segment cannot be released: it is being read, or mapped on a port (R169). -/
def segInUse (s : State) (k : Nat) : Bool :=
  ((tget? s.fs.segs k).map fun x => decide (x.state = .reading)).getD false || s.fs.maps.any fun m => decide (m.segment = k)

def opFsSegRelease : OpDef where
  code := 0x0612
  cond := true
  modes := mReady
  kinds := [3]
  len := some 0
  room := 4
  first := triggerFirst
  wrong := tileIdle
  busy c s := segInUse s (segNumber (tgt c))
  act c s :=
    let gen := (obj? s (tslot c)).map (·.gen)
    let pages := ((segOfTarget c s).map (·.pages)).getD 0
    .done (dropSegment (segNumber (tgt c)) s) { gen := gen, result := leBytes 4 pages }

def execFsSegRelease (c : Cmd) (s : State) : Meaning := .next (runOp opFsSegRelease c s)

/-- FS_FREEZE_RING. The model's own choice: N of the segment is the number of frames frozen and M is 0; the manual gives neither (log
entry 91). -/
def opFsFreezeRing : OpDef where
  code := 0x0613
  cond := true
  modes := mReady
  kinds := [1]
  len := some 0
  room := 8
  wrong c s := tileIdle c s || (ringOf s (chanOfHandle (tgt c))).frames.isEmpty
  busy c s := (activeSeg s (chanOfHandle (tgt c))).isSome
  short c s := decide (256 ≤ (chanSegs s (chanOfHandle (tgt c))).length) || (freeSegment s (handleTile (tgt c))).isNone
  act c s :=
    let g := chanOfHandle (tgt c)
    let frames := (ringOf s g).frames
    match armSegment g { channel := g, chanHandle := tgt c, preN := frames.length, postM := 0, state := .triggered
                         t := some (s.time.now : Int), acceptedAt := s.clock, pre := some (frames.map (·.seq)) }
        { owner := c.port } s with
    | some (k, s) =>
      let s := freezeSegment k .complete s
      .done s { handle := some (segHandle s k), result := leBytes 4 frames.length ++ leBytes 4 (sumOver (·.pages) frames) }
    | none => .fail eNoResource

def execFsFreezeRing (c : Cmd) (s : State) : Meaning := .next (runOp opFsFreezeRing c s)

/-- FRAME_SEQ of the frames of a segment, ascending. -/
def segSeqs (x : Segment) : List U64 := if isLayer x then x.frames.map (·.seq) else x.pre.getD [] ++ x.post

/-- The result of FS_SEG_QUERY. The model's own choice: a segment not yet frozen shows PRE_COUNT 0 while its pre set is open, the
FRAME_SEQ of the frames that it has, and PAGES 0; the manual does not say (log entry 91). -/
def segView (s : State) (k : Nat) (x : Segment) : List Byte :=
  let l := segSeqs x
  let maps := (s.fs.maps.filter fun m => decide (m.segment = k)).length
  leBytes 4 (segHandle s k) ++ leBytes 4 x.chanHandle ++ leBytes 1 (segCode x.state) ++ leBytes 1 (sflags x) ++ leBytes 1 maps ++ [0]
    ++ leBytes 2 x.preN ++ leBytes 2 x.postM ++ leBytes 2 (satU 16 (preCount x)) ++ leBytes 2 (satU 16 x.post.length)
    ++ leBytes 4 (unsigned 32 x.offsetNs) ++ (match x.t with | some t => time96 t.toNat | none => zeros 12)
    ++ leBytes 4 x.postWaitMs ++ leBytes 8 (l.headD 0).toNat ++ leBytes 8 (l.getLastD 0).toNat
    ++ leBytes 4 x.pages ++ leBytes 4 x.frozenNs32.toNat

def opFsSegQuery : OpDef where
  code := 0x0614
  query := true
  idem := true
  modes := mSafe
  kinds := [3]
  len := some 0
  room := 64
  wrong := tileIdle
  act c s :=
    match segOfTarget c s with
    | none => .done s {}
    | some x => .done s { result := segView s (segNumber (tgt c)) x }

def execFsSegQuery (c : Cmd) (s : State) : Meaning := .next (runOp opFsSegQuery c s)

def opFsDirRead : OpDef where
  code := 0x0615
  query := true
  idem := true
  modes := mSafe
  kinds := [3]
  len := some 8
  room := 4072
  bad c s := [(0, ((segOfTarget c s).map fun x => isLayer x && decide (x.frames.length + 1 ≤ par c 0 4)).getD false), (4, !isZero c.params 4 4)]
  wrong c s := tileIdle c s || !segState c s [.frozen, .reading]
  act c s :=
    match segOfTarget c s with
    | none => .done s {}
    | some x =>
      let l := ((directory s (segNumber (tgt c)) x).drop (par c 0 4)).take 127
      .done s { result := leBytes 4 l.length ++ leBytes 4 (x.frames.length + 1) ++ l.flatten }

def execFsDirRead (c : Cmd) (s : State) : Meaning := .next (runOp opFsDirRead c s)

/-- The live delivery of a channel that is under way longest. -/
def liveDelivery (s : State) (g : Nat) : Option Delivery :=
  s.mv.deliveries.find? fun d => decide (d.segment = 0) && decide (d.tile * 64 + d.channel = g)

/-! ### Readouts (R171, R172) -/

/-- Modes in which readouts run: HYBRID, REVIEW, TEST. -/
def mRead : Nat := 0xB00

/-- A queue parameter of the wrong kind or type. -/
def queueBad (s : State) (ty : QType) (h : Nat) : Bool := kindBad s 2 h || (handleLive s h && !queueLive s h ty)

/-- The highest free shared mover channel of a tile (R195). -/
def highestShared (s : State) (t : Nat) : Option Nat :=
  highestFree ((s.mv.chans.filter fun (g, _) => decide (g / 512 = t)).map fun (g, _) => g % 512) 496 432

/-- Readout is class C work in the mode (R159). -/
def readsClassC (s : State) : Bool := decide (s.pkg.mode = .hybrid ∨ s.pkg.mode = .test)

/-- Frames of a layer that a readout delivers: indices from FIRST (R171). -/
def readoutFrames (x : Segment) (first count : Nat) : List Nat :=
  let l := (List.range x.frames.length).drop first
  if count = 0 then l else l.take count

def startReadout (c : Cmd) (k chan : Nat) (x : Segment) (s : State) : State :=
  let l := readoutFrames x (par c 8 4) (par c 12 4)
  let bytes := sumOver (fun i => 128 + ((x.frames[i]?.map storedOf).getD 0)) (l.filter fun i => !badFrame s k i)
  let r : Readout := { wait := s.eng.nextWait, buf := par c 0 4, cpl := par c 4 4, chan := chan, left := l }
  let s := addWait 0x0620 c [tslot c] 20 s
  let s := modFs s fun f => { f with readouts := tput f.readouts k r, segs := tput f.segs k { x with state := .reading } }
  let s := modMv s fun m => { m with chans := tput m.chans (k / 16384 * 512 + chan) { state := .issuing, owner := c.port } }
  nextReadout k (if readsClassC s then addJob (k / 16384) (.readout k) ((bytes + 1048575) / 1048576) s else s)

def opFsRead : OpDef where
  code := 0x0620
  modes := mRead
  kinds := [3]
  len := some 24
  room := 20
  bad c s :=
    [(0, queueBad s .buffer (par c 0 4)), (4, queueBad s .completion (par c 4 4)),
     (8, ((segOfTarget c s).map fun x => isLayer x && decide (x.frames.length ≤ par c 8 4)).getD false), (16, !isZero c.params 16 8)]
  refs c _ := [par c 0 4, par c 4 4]
  wrong c s := tileIdle c s || !segState c s [.frozen, .reading]
  busy c s := segState c s [.reading]
  short c s := (highestShared s (handleTile (tgt c))).isNone
  act c s :=
    match segOfTarget c s, highestShared s (handleTile (tgt c)) with
    | some x, some n => .wait (startReadout c (segNumber (tgt c)) n x s)
    | _, _ => .fail eNoResource

def execFsRead (c : Cmd) (s : State) : Meaning := .next (runOp opFsRead c s)

/-- A tag as it leaves the store: FROM_STORE, cut copies marked (R100, R119, R171). -/
def readoutTag (f : Rec) (n : Nat) : List Byte :=
  let b := orFlags (patch f.tag 72 (leBytes 8 n)) 2048
  withCrc (if n < storedOf f then orFlags b 1 else b)

/-- The class B credit of a tile binds: the budget is short, the package CRITICAL or the tile HOT (chapter 10, R333, R334). -/
def creditBinds (s : State) (t : Nat) : Bool := s.gov.short || s.gov.critical || decide ((govTile s t).thermal = 2)

/-- The class B credit of a tile covers a burst of n bytes (R329). -/
def creditCovers (s : State) (t n : Nat) : Bool := !creditBinds s t || decide ((n : Int) ≤ (govTile s t).creditB)

/-- Work of class B is charged (R329). -/
def chargeB (t n : Nat) (s : State) : State := modTileGov t (fun g => { g with creditB := g.creditB - n }) s

/-- A readout may move its next `n` bytes: class B credit in REVIEW, admitted quanta of class C otherwise (R159, R331). -/
def readoutAllowed (s : State) (k n : Nat) : Bool :=
  let moved := ((tget? s.fs.readouts k).map (·.moved)).getD 0
  if readsClassC s then ((jobOf s (k / 16384) (.readout k)).map fun j => decide (moved + n ≤ j.admitted * 1048576)).getD true
  else creditCovers s (k / 16384) n

/-! ### Bursts (R197 to R202) -/

/-- A run is in progress, or its end is not over. -/
def running (c : Chan) : Bool := decide (c.state ≠ .idle ∧ c.state ≠ .unassigned)

/-- Byte i of a run: of host memory as read, of the layout of a segment, of the pattern (R197). -/
def runBytes (s : State) (c : Chan) (source : List Byte) (off n : Nat) : List Byte :=
  match c.run.srcSpace with
  | 0 => padTo n ((source.drop off).take n)
  | 1 =>
    match tget? s.fs.segs (segNumber c.run.seg) with
    | some x => padTo n (((layerBytes (directory s (segNumber c.run.seg) x).flatten x).drop (c.run.src + off)).take n)
    | none => zeros n
  | _ => (List.range n).map fun i => BitVec.ofNat 8 (c.run.fill / 256 ^ ((off + i) % 4))

/-- The port through which a run's traffic leaves. -/
def runVia (s : State) (g : Nat) : Nat := producerRoute s (chanProducer g) (chanOf s g).owner (g / 512)

/-- A length cut at the next 4 KiB boundary of its destination address (R199). -/
def burstLen (size dst left : Nat) : Nat := min size (min left (4096 - dst % 4096))

/-- The next burst of a run, in bytes; 0 after its last. -/
def nextBurst (c : Chan) : Nat := burstLen (2 ^ (8 + c.run.burst)) (c.run.dst + c.moved) (c.run.count - c.moved)

/-- A run has a burst allowed: one for each credit of a paced run (R200). -/
def burstAllowed (c : Chan) : Bool := decide (0 < nextBurst c) && (!c.run.pace || decide (0 < c.credits))

/-- Max_Read_Request_Size of a port, at most 4,096 bytes (R222). -/
def readLimit (q : Port) : Nat := min 4096 (2 ^ (7 + bits (deviceControl q) 14 12))

/-- The beats that carry the bytes of a burst: of 2^width bytes when the run packs (R198), else the burst is one access. -/
def beatsOf (c : Chan) (width addr : Nat) (l : List Byte) : List (Nat × List Byte) :=
  if c.run.pack then pieces (2 ^ width) l.length addr l else [(addr, l)]

/-- Reads of n bytes of host memory through a port, none longer than its limit and none across a multiple of that (R222). -/
def readRequests (via addr n : Nat) (s : State) : State :=
  (aligned (readLimit (portOf s via)) addr (zeros n)).foldl (fun s x => emit (.read via x.1 x.2.length) s) s

/-- Share of a steady slot, by tile × 16 + slot (Table 10-2). -/
def steadyShareOf (s : State) (k : Nat) : Nat := tget 0 s.mv.steadyShare k

/-- Credit of a steady channel in bytes: SHARE ÷ 1,024 of the island's 160 bytes a nanosecond, up to two of its bursts (R202). -/
def steadyCreditOf (s : State) (g : Nat) : Nat :=
  let k := g / 512 * 16 + (g % 512 - 496)
  let (n, at_) := tget (0, s.clock) s.mv.steadyCredit k
  min (2 ^ (9 + (chanOf s g).run.burst)) (n + (s.clock - at_) * 160 * steadyShareOf s k / 1024)

/-- Issues the next burst of a run, of n bytes (R197 to R200): a displaced channel goes on. -/
def issueBurst (g : Nat) (source : List Byte) (n : Nat) (s : State) : State :=
  let c := chanOf s g
  let via := runVia s g
  let data := runBytes s c source c.moved n
  let s := if c.run.srcSpace = 0 then
      (beatsOf c c.run.srcWidth (c.run.src + c.moved) data).foldl (fun s x => readRequests via x.1 x.2.length s) s
    else s
  let s := (beatsOf c c.run.dstWidth (c.run.dst + c.moved) data).foldl
    (fun s x => emit (.write via x.1 (c.run.relaxed && (portOf s via).relaxedEnable) x.2) s) s
  let s := countBursts (g / 512) 1 s
  let s := modMv s fun m =>
    if c.steady then { m with
      steadyCredit := tput m.steadyCredit (g / 512 * 16 + (g % 512 - 496)) (steadyCreditOf s g - n, s.clock) }
    else { m with turn := tput m.turn (g / 512) (g % 512) }
  chargeB (g / 512) n (modChan g (fun c => { c with
    moved := c.moved + n, credits := if c.run.pace then c.credits - 1 else c.credits
    state := if c.state = .displaced ∧ c.abort.isNone then .issuing else c.state }) s)

/-! ### Arbitration (R201, R202) -/

/-- Order of a channel of a tile among those with a burst allowed, least first: steady slots ascending, then normal channels by PRIO,
those of one PRIO in turn after the last that issued. -/
def turnKey (s : State) (t n prio : Nat) (steady : Bool) : Nat :=
  if steady then n else 512 * (8 - prio) + (n + 511 - tget 511 s.mv.turn t) % 512

/-- The credit of a raw run covers its next burst: that of its slot for a steady one (R202), class B credit for others (R329). -/
def runCovered (s : State) (g : Nat) (c : Chan) : Bool :=
  if c.steady then decide (nextBurst c ≤ steadyCreditOf s g) else creditCovers s (g / 512) (nextBurst c)

/-- A raw run of a tile may issue a burst of its own accord: one that reads host memory waits for what its read returns. -/
def mayIssue (s : State) (g : Nat) (c : Chan) : Bool :=
  c.raw && running c && decide (c.state ≠ .ending) && c.abort.isNone && burstAllowed c && decide (c.run.srcSpace ≠ 0)
    && connected s (runVia s g) && runCovered s g c

/-- The raw run of a tile that goes before a channel with the given order. -/
def runAhead (s : State) (t key : Nat) : Option Nat :=
  ((s.mv.chans.foldl (fun (best : Option (Nat × Nat)) (g, c) =>
      if g / 512 = t ∧ mayIssue s g c then
        let k := turnKey s t (g % 512) c.run.prio c.steady
        if k < (best.map (·.1)).getD key then some (k, g) else best
      else best) none)).map (·.2)

/-- Raw runs that go before channel n of a tile issue their bursts, until n is the next. -/
def yieldTo (t n prio : Nat) (steady : Bool) : Nat → State → State
  | 0, s => s
  | k + 1, s =>
    match runAhead s t (turnKey s t n prio steady) with
    | none => s
    | some g => yieldTo t n prio steady k (issueBurst g [] (nextBurst (chanOf s g)) s)

/-- More bursts than the runs of a tile have left. -/
def burstBound (s : State) (t : Nat) : Nat :=
  sumOver (fun (g, c) => if g / 512 = t then (c.run.count - c.moved) / 256 + (c.run.count - c.moved) / 4096 + 2 else 0) s.mv.chans

/-- Channel n of a tile comes to the front: the raw channel that was issuing is displaced up to k times in mid-burst (R201). -/
def displace (t n prio k : Nat) (s : State) : State :=
  let below := s.mv.chans.filter fun (g, c) =>
    decide (g / 512 = t ∧ g % 512 ≠ n) && c.raw && !c.steady && decide (c.state = .issuing ∧ c.run.prio < prio) && burstAllowed c
  match below.foldl (fun (best : Option (Nat × Chan)) x => match best with
      | none => some x
      | some y => if y.2.run.prio < x.2.run.prio then some x else best) none with
  | none => s
  | some (g, _) =>
    let d := freeDisplaced s k
    countDisplaced t d (if d = 0 then s else modChan g (fun c => { c with state := .displaced }) s)

/-! ### What a delivery writes (R217, R218) -/

/-- Bytes 0 to 27 of a frame completion entry (Table 10-8). -/
def completionEntry (st : Status) (d : Desc) (handle bytes : Nat) (seq : U64) : List Byte :=
  [1, BitVec.ofNat 8 (statusCode st)] ++ leBytes 2 d.position ++ zeros 4 ++ leBytes 8 d.cookie ++ leBytes 4 handle
    ++ leBytes 4 bytes ++ leBytes 4 seq.toNat

/-- The port through which a queue's output leaves, and whether its payload carries the relaxed-ordering attribute. -/
def viaOf (s : State) (q : Nat) : Nat := routeOf s (queueOwner s q) (q / 2048)
/-- The mover channel of a delivery, as a producer. -/
def deliveryProducer (d : Delivery) : Nat := chanProducer (d.tile * 512 + d.channel)
/-- The port through which a delivery's writes leave: the old route of a frame that a move of the route found under way (R243). -/
def deliveryVia (s : State) (d : Delivery) : Nat := producerRoute s (deliveryProducer d) (queueOwner s d.bufQueue) (d.bufQueue / 2048)
def relaxedOf (s : State) (d : Delivery) : Bool :=
  ((queue? s d.bufQueue).map fun v => !v.strict).getD false && (portOf s (deliveryVia s d)).relaxedEnable

def flushes (s : State) (q : Nat) : Bool := ((queue? s q).map (·.flushRead)).getD false

/-- Two values of one delivery, whatever has been written of it. -/
def sameDelivery (d y : Delivery) : Bool :=
  y.segment == d.segment && y.tile == d.tile && y.channel == d.channel && y.frame == d.frame

def modDelivery (d : Delivery) (f : Delivery → Delivery) (s : State) : State :=
  modMv s fun m => { m with deliveries := m.deliveries.map fun y => if sameDelivery d y then f y else y }

/-- A delivery may issue a burst of n bytes: its port is connected, its queue is not held, and its credit covers the burst (R240, R242,
R329, R331). -/
def deliveryAllowed (s : State) (d : Delivery) (n : Nat) : Bool :=
  connected s (deliveryVia s d) && !held s d.bufQueue
    && if d.segment = 0 then creditCovers s d.tile n else readoutAllowed s (segNumber d.segment) n

/-- The next burst of a delivery with so much payload, in bytes: of 4 KiB, none across a 4 KiB boundary (R199), its tag last. -/
def deliveryBurst (d : Delivery) (total : Nat) : Nat :=
  if total ≤ d.bytes then 128 else burstLen 4096 (d.desc.addr + 128 + d.bytes) (total - d.bytes)

/-- A burst of a delivery, of n bytes, is charged to its class and counted. -/
def chargeDelivery (d : Delivery) (n : Nat) (s : State) : State :=
  let k := segNumber d.segment
  let s := countBursts d.tile 1 s
  if d.segment = 0 ∨ !readsClassC s then chargeB d.tile n s
  else modFs s fun f => { f with readouts := match tget? f.readouts k with
    | some r => tput f.readouts k { r with moved := r.moved + n }
    | none => f.readouts }

/-- A delivery's channel issues the bursts of payload that it may, each after the raw runs that go before it (R201). -/
def payloadBursts (d : Delivery) (prio : Nat) : List (Nat × List Byte) → State → State
  | [], s => s
  | x :: rest, s =>
    let s := yieldTo d.tile d.channel prio false (burstBound s d.tile) s
    if deliveryAllowed s d x.2.length then
      let s := emit (.write (deliveryVia s d) x.1 (relaxedOf s d) x.2) s
      let s := modMv s fun m => { m with turn := tput m.turn d.tile d.channel }
      payloadBursts d prio rest (chargeDelivery d x.2.length (modDelivery d (fun y => { y with bytes := y.bytes + x.2.length }) s))
    else s

/-- The tag of a delivery is written once its payload is (R218). -/
def writeTag (d : Delivery) (tag data : List Byte) (s : State) : State :=
  match s.mv.deliveries.find? (sameDelivery d) with
  | none => s
  | some y =>
    if y.bytes < data.length ∨ !deliveryAllowed s d 128 then s
    else
      let s := emit (.write (deliveryVia s d) d.desc.addr false tag) s
      chargeDelivery d 128 (modDelivery d (fun y => { y with
        bytes := 128 + data.length, tagWritten := true, flushing := flushes s d.bufQueue }) s)

/-- Writes what a delivery may write now of its payload, in bursts, and then its tag (R199, R217, R218). -/
def writeDelivery (d : Delivery) (tag data : List Byte) (s : State) : State :=
  if deliveryAllowed s d (deliveryBurst d data.length) then
    let prio := ((queue? s d.bufQueue).map (·.prio)).getD 0
    let l := aligned 4096 (d.desc.addr + 128 + d.bytes) (data.drop d.bytes)
    let s := payloadBursts d prio l (displace d.tile d.channel prio l.length s)
    writeTag d tag data (if prio < 7 then countDisplaced d.tile (freeDisplaced s l.length) s else s)
  else s

/-- A copy of a recorded frame is cut by its buffer: counted once for each frame, while its channel's counters stand (R100, R108,
R171). -/
def countCut (k : Nat) (f : Rec) (s : State) : State :=
  match tget? s.fs.segs k with
  | none => s
  | some x =>
    if f.cut || bit (le f.tag 88 4) 0 then s
    else
      let s := modSeg k (fun x => { x with frames := modRec f.seq (fun r => { r with cut := true }) x.frames }) s
      if x.chanHandle = handleOf s (chanSlot x.channel) then
        countChannel x.channel (fun c => { c with truncated := c.truncated + 1 })
          (modFrame x.channel f.seq (fun f => { f with cutCounted := true }) s)
      else s

/-- A delivery is given up before its tag: its buffer and its reservation go back. -/
def giveBack (d : Delivery) (s : State) : State :=
  let s := modQueue d.bufQueue (fun v => { v with ready := d.desc :: v.ready }) s
  let s := modQueue d.cplQueue (fun v => { v with reserved := v.reserved - 1 }) s
  modMv s fun m => { m with deliveries := m.deliveries.filter fun y => !sameDelivery d y }

/-- The payload and the tag of a readout's frame are written (R171, R218, R205): its completion entry, after a flush read where one is
asked for. -/
def readoutWritten (k : Nat) (d : Delivery) (s : State) : State :=
  if d.flushing then emit (.read (deliveryVia s d) d.desc.addr 0) s
  else offerEntry d.cplQueue {
    bytes := completionEntry .ok d.desc (segHandle s k) d.bytes d.frame, tile := k / 16384, kind := .frame
    after := .delivered k } (leaveRoute (deliveryProducer d) s)

/-- The next frame of a readout is moved as far as it may be; one that is BAD by then, or is found so, is passed over (R170, R171). -/
def moveReadout (k : Nat) (s : State) : State :=
  let s := nextReadout k s
  match tget? s.fs.readouts k, tget? s.fs.segs k, readoutDelivery s k with
  | some r, some x, some d =>
    match x.frames.find? fun f => decide (f.seq = d.frame) with
    | none => s
    | some f =>
      let n := min (storedOf f) (d.desc.len - 128)
      if r.ending.isSome || d.tagWritten || !deliveryAllowed s d (deliveryBurst d n) then s
      else if f.bad ∨ 2 ≤ f.err then nextReadout k (giveBack d (readRec k s f))
      else
        let s := writeDelivery d (readoutTag f n) (f.data.take n) (readRec k s f)
        match readoutDelivery s k with
        | some d => if d.tagWritten then readoutWritten k d (if n < storedOf f then countCut k f s else s) else s
        | none => s
  | _, _, _ => s

/-- R171: the frame of a readout that is under way is moved and its completion entry written. -/
def execReadoutFrameDone (segment : Nat) (s : State) : Meaning := .next (moveReadout segment s)

/-- Frames that a readout was to deliver, BAD ones excluded (R172). -/
def readoutTotal (s : State) (k : Nat) (r : Readout) : Nat := r.sent + (r.left.filter fun i => !badFrame s k i).length

/-- A readout is to end early (R172). -/
def endReadout (k ended : Nat) (s : State) : State :=
  match tget? s.fs.readouts k with
  | none => s
  | some r => if r.ending.isSome then s else modFs s fun f => { f with readouts := tput f.readouts k { r with ending := some ended } }

/-- R172: a readout that ends early abandons its frame, writes its status record, and replies. -/
def execReadoutEarlyEnd (segment : Nat) (s : State) : Meaning := .next <|
  match tget? s.fs.readouts segment with
  | none => s
  | some r =>
    match r.ending with
    | none => s
    | some e =>
      let d := readoutDelivery s segment
      if r.recording || (d.map (·.tagWritten)).getD false then s
      else
        let s := match d with
          | some d => dropReadoutDelivery segment (modQueue d.cplQueue (fun v => { v with reserved := v.reserved - 1 }) s)
          | none => s
        if queueLive s r.cpl .completion then
          let s := modFs s fun f => { f with readouts := tput f.readouts segment { r with recording := true } }
          offerEntry (queueOfHandle r.cpl) {
            bytes := [4, 0] ++ leBytes 2 r.chan ++ zeros 4 ++ leBytes 4 (readoutTotal s segment r) ++ leBytes 4 (readoutTotal s segment r - r.sent)
              ++ leBytes 4 (segHandle s segment) ++ [BitVec.ofNat 8 (endedCause e)] ++ zeros 7
            tile := segment / 16384, kind := .record, after := .readout segment } s
        else closeReadout segment e s

def opFsReadAbort : OpDef where
  code := 0x0621
  idem := true
  modes := mReady
  len := some 4
  bad c s := [(0, kindBad s 3 (par c 0 4))]
  refs c _ := [par c 0 4]
  tile c _ := some (handleTile (par c 0 4))
  wrong c s := !serving s (handleTile (par c 0 4))
  act c s := .done (endReadout (segNumber (par c 0 4)) 1 s) {}

def execFsReadAbort (c : Cmd) (s : State) : Meaning := .next (runOp opFsReadAbort c s)

/-! ### Mappings (R173) -/

/-- The mapping of TARGET on the sending port. -/
def ownMapping (c : Cmd) (s : State) : Option Mapping :=
  (portMaps s c.port).find? fun m => decide (m.segment = segNumber (tgt c))

def allOnes : Nat := 2 ^ 64 - 1
def targetSize (c : Cmd) (s : State) : Nat := ((segOfTarget c s).map layerSize).getD 0

/-- A range of a port's STORE region overlaps a mapping. -/
def overlaps (s : State) (p off n : Nat) : Bool := (portMaps s p).any fun m => decide (m.offset < off + n) && decide (off < m.offset + m.bytes)

/-- The lowest free offset that fits: the region's start or the end of a mapping. -/
def lowestOffset (s : State) (p n : Nat) : Option Nat :=
  let at_ := 0 :: (portMaps s p).map fun m => m.offset + m.bytes
  (at_.filter fun o => decide (o + n ≤ storeSize s p) && !overlaps s p o n).min?

/-- The segment is mapped on the sending port where the command asks for it. -/
def mappedThere (c : Cmd) (s : State) : Bool :=
  ((ownMapping c s).map fun m => decide (m.offset = par c 0 8) || decide (par c 0 8 = allOnes)).getD false

def mapOffset (c : Cmd) (s : State) : Option Nat :=
  if par c 0 8 = allOnes then lowestOffset s c.port (targetSize c s) else some (par c 0 8)

def targetDir (c : Cmd) (s : State) : List Byte := ((segOfTarget c s).map fun x => (directory s (segNumber (tgt c)) x).flatten).getD []

def opFsMap : OpDef where
  code := 0x0630
  idem := true
  modes := mRead
  kinds := [3]
  len := some 8
  room := 16
  bad c s := [(0, decide (par c 0 8 ≠ allOnes) && !mappedThere c s
    && (decide (storeSize s c.port < par c 0 8 + targetSize c s) || overlaps s c.port (par c 0 8) (targetSize c s)))]
  align c _ := [(0, decide (par c 0 8 ≠ allOnes ∧ par c 0 8 % 65536 ≠ 0))]
  wrong c s := tileIdle c s || !segState c s [.frozen, .reading]
  busy c s := (ownMapping c s).isSome && !mappedThere c s
  short c s := (ownMapping c s).isNone && (decide (256 ≤ (portMaps s c.port).length) || (mapOffset c s).isNone)
  act c s :=
    match ownMapping c s with
    | some m => .done s { result := leBytes 8 m.offset ++ leBytes 8 m.bytes }
    | none =>
      let off := (mapOffset c s).getD 0
      let n := targetSize c s
      .done (modFs s fun f => { f with maps := f.maps ++ [{ port := c.port, segment := segNumber (tgt c), offset := off, bytes := n, dir := targetDir c s }] })
        { result := leBytes 8 off ++ leBytes 8 n }

def execFsMap (c : Cmd) (s : State) : Meaning := .next (runOp opFsMap c s)

def opFsUnmap : OpDef where
  code := 0x0631
  idem := true
  modes := mReady
  kinds := [3]
  len := some 0
  wrong := tileIdle
  act c s := .done (modFs s fun f => { f with maps := f.maps.filter fun m => !(decide (m.port = c.port) && decide (m.segment = segNumber (tgt c))) }) {}

def execFsUnmap (c : Cmd) (s : State) : Meaning := .next (runOp opFsUnmap c s)

end Sys2Proof.Machine
end

