-- ==== Sys2Proof/Machine/Mover.lean ====
section
/-!
DEFINITION. The mover (chapter 10): raw runs (R195 to R207), their commands, and the live delivery of frames (R216 to R218, R330).
-/
namespace Sys2Proof.Machine
open Sys2Proof

/-! ### Channels and their registers (Table 10-14) -/

def chanStateCode : ChanState → Nat
  | .unassigned => 0 | .idle => 1 | .issuing => 2 | .waiting => 3 | .displaced => 4 | .ending => 5

/-- MV_CH_CFG. -/
def chanCfg (r : ChanRegs) : Nat :=
  r.srcSpace + 4 * r.burst + 32 * r.prio + 2 ^ 8 * b2n r.pace + 2 ^ 9 * b2n r.pack + 2 ^ 10 * b2n r.statusEn + 2 ^ 11 * b2n r.relaxed
    + 2 ^ 12 * b2n r.flushRead + 2 ^ 13 * r.srcWidth + 2 ^ 16 * r.dstWidth

/-- State of the delivery channel of a stream channel (R195): unassigned without a live stream channel, idle without a delivery,
then waiting for its producer until the frame is whole, and ending once its tag is written. -/
def deliveryState (s : State) (g : Nat) : ChanState :=
  if !(channelOf s g).live then .unassigned
  else match liveDelivery s g with
  | none => .idle
  | some d =>
    if d.tagWritten then .ending
    else match frameOf s g d.frame with
    | none => .waiting
    | some f =>
      if f.tagged && deliveryAllowed s d (deliveryBurst d (min (frameData f).length (d.desc.len - 128))) then .issuing else .waiting

/-- The readout that runs on a mover channel, with its segment. -/
def readoutOn (s : State) (g : Nat) : Option (Nat × Readout) :=
  s.fs.readouts.find? fun (k, r) => decide (k / 16384 = g / 512) && decide (r.chan = g % 512)

/-- State of a readout's channel (R200): waiting without a buffer or credit for its next burst, ending once its tag is written or it
ends early. -/
def readoutState (s : State) (k : Nat) (r : Readout) : ChanState :=
  if r.ending.isSome then .ending
  else match readoutDelivery s k with
  | none => .waiting
  | some d =>
    if d.tagWritten then .ending
    else
      let total := (((tget? s.fs.segs k).bind fun x => x.frames.find? fun f => decide (f.seq = d.frame)).map storedOf).getD 0
      if deliveryAllowed s d (deliveryBurst d (min total (d.desc.len - 128))) then .issuing else .waiting

/-- What a channel's window shows: of a delivery channel (R195) or a readout's channel its state, the PRIO of its buffer queue (R201)
and its bytes. -/
def shownChan (s : State) (g : Nat) : Chan :=
  if g % 512 < 64 then
    let ch := g / 512 * 64 + g % 512
    let q := queueOfHandle (channelOf s ch).active.layout.bufQueue
    { regs := { prio := if (channelOf s ch).live then ((queue? s q).map (·.prio)).getD 0 else 0 }
      state := deliveryState s ch, moved := ((liveDelivery s ch).map (·.bytes)).getD 0 }
  else match readoutOn s g with
  | none => chanOf s g
  | some (k, r) => { chanOf s g with
      regs := { prio := ((queue? s (queueOfHandle r.buf)).map (·.prio)).getD 0 }
      state := readoutState s k r, moved := (r.bytes + ((readoutDelivery s k).map (·.bytes)).getD 0) % 2 ^ 32 }

/-- The window of a channel, by word. -/
def chanReg (s : State) (g : Nat) (i : Nat) : Nat :=
  let c := shownChan s g
  match i with
  | 0 => c.regs.src % 2 ^ 32
  | 1 => c.regs.src / 2 ^ 32
  | 2 => c.regs.dst % 2 ^ 32
  | 3 => c.regs.dst / 2 ^ 32
  | 4 => c.regs.count
  | 5 => chanCfg c.regs
  | 7 => chanStateCode c.state + 8 * b2n c.raw + 16 * b2n c.steady + 32 * (if c.raw then c.owner else 0) + 2 ^ 8 * statusCode c.code
  | 8 => c.residue
  | 9 => c.regs.seg
  | 10 => c.regs.fill
  | 11 => c.regs.statusq
  | 12 => c.regs.tag
  | 13 => c.credits
  | 14 => c.moved
  | _ => 0

/-- A host write of a word of a window (R196). -/
def setChanReg (i v : Nat) (hi : Nat) (r : ChanRegs) : ChanRegs :=
  match i with
  | 1 => { r with src := v * 2 ^ 32 + hi }
  | 3 => { r with dst := v * 2 ^ 32 + hi }
  | 4 => { r with count := v }
  | 5 => { r with
      srcSpace := v % 4, burst := bits v 4 2, prio := bits v 7 5, pace := bit v 8, pack := bit v 9, statusEn := bit v 10
      relaxed := bit v 11, flushRead := bit v 12, srcWidth := bits v 15 13, dstWidth := bits v 18 16 }
  | 9 => { r with seg := v }
  | 10 => { r with fill := v }
  | 11 => { r with statusq := v }
  | 12 => { r with tag := v }
  | _ => r

def chanObjSlot (g : Nat) : Nat := slotOf 6 (g / 512) (g % 512)
/-- The port owns the reservation of a raw channel. -/
def ownsChan (s : State) (p g : Nat) : Bool := (chanOf s g).raw && owns s p (chanObjSlot g)

/-! ### Raw runs (R196 to R203) -/

/-- What is wrong with a handle of a run: STATUSQ, or SEG. -/
def statusqFail (s : State) (c : Chan) (h : Nat) : Option Status :=
  if kindBad s 2 h then some .eParam
  else if !handleLive s h then some .eStaleHandle
  else if !queueLive s h .completion then some .eParam
  else if !owns s c.owner (handleSlot h) then some .eNotOwner
  else none

def segFail (s : State) (c : Chan) (r : ChanRegs) : Option Status :=
  if kindBad s 3 r.seg then some .eParam
  else if !handleLive s r.seg then some .eStaleHandle
  else if !owns s c.owner (handleSlot r.seg) then some .eNotOwner
  else match tget? s.fs.segs (segNumber r.seg) with
  | none => some .eStaleHandle
  | some x => if !isLayer x then some .eState else if layerSize x < r.src + r.count then some .eParam else none

/-- Table 10-1. -/
def startFail (s : State) (c : Chan) (r : ChanRegs) : Option Status :=
  if r.pack && !(s.pkg.mode == .boot || s.pkg.mode == .safe || s.pkg.mode == .test) then some .eState
  else if r.count = 0 ∨ 0xFFFFFFC0 < r.count then some .eParam
  else if 2 < r.srcSpace ∨ 4 < r.burst ∨ 7 < r.srcWidth ∨ 7 < r.dstWidth then some .eParam
  else match (if r.statusEn then statusqFail s c r.statusq else none) with
  | some f => some f
  | none =>
    match (if r.srcSpace = 1 then segFail s c r else none) with
    | some f => some f
    | none => if !r.pack && (r.src % 64 != 0 || r.dst % 64 != 0 || r.count % 64 != 0) then some .eAlign else none

/-- Bytes 0 to 27 of a status record of a raw run (Table 10-3). -/
def statusRecord (s : State) (g : Nat) (c : Chan) : List Byte :=
  [4, BitVec.ofNat 8 (statusCode c.code)] ++ leBytes 2 (g % 512) ++ zeros 4 ++ leBytes 4 c.run.count ++ leBytes 4 c.residue
    ++ leBytes 4 (handleOf s (chanObjSlot g)) ++ [BitVec.ofNat 8 c.cause, 0, 0, 0] ++ leBytes 4 c.run.tag

/-- A run is over: its status record, where it writes one, comes before everything else (R203, R206). -/
def closeRun (g : Nat) (st : Status) (cause residue : Nat) (s : State) : State :=
  let c := chanOf s g
  let c := { c with state := .ending, code := st, cause := cause, residue := residue, abort := none, flushing := false }
  let s := leaveRoute (chanProducer g) (putChan g c s)
  if c.run.statusEn && !c.silent && queueLive s c.run.statusq .completion then
    offerEntry (queueOfHandle c.run.statusq) { bytes := statusRecord s g c, tile := g / 512, kind := .record, after := .raw g } s
  else endRaw g s

/-- A rejected start (R196): nothing moves, CAUSE 5, MOVER_ENDED, with the HOPS of the event that started it (Table 13-3). -/
def rejectRun (g : Nat) (st : Status) (hops : Nat) (s : State) : State :=
  closeRun g st 5 (chanOf s g).run.count (modChan g (fun c => { c with endHops := hops }) s)

/-- A run begins: the registers are latched and checked (R196). -/
def startRun (g hops : Nat) (s : State) : State :=
  let c := chanOf s g
  let c := { c with
    run := c.regs, startedAt := s.clock, stillborn := false, state := if c.regs.pace then .waiting else .issuing, moved := 0, credits := 0, code := .ok, cause := 0, residue := 0
    abort := none, flushing := false, silent := false }
  let s := leaveRoute (chanProducer g) (putChan g c s)
  match startFail s c c.regs with
  | some st => rejectRun g st hops s
  | none => if c.regs.pace || c.steady then s else displace (g / 512) (g % 512) c.regs.prio 1 s

/-- Takes every event that a counting input merges (R279): how many. -/
def takeCounted (t index n : Nat) (s : State) : Nat × State :=
  let x := tget {} s.ev.inputs (inputKey t index)
  let k := (x.waiting.take (max n 1)).length
  let y := { x with waiting := x.waiting.drop k, taken := x.taken + BitVec.ofNat 32 k }
  (k, modEv s fun v => { v with inputs := tput v.inputs (inputKey t index) y })

/-- Up to n events that wait at GO_ccc act. -/
def takeGo (chan n : Nat) (s : State) : State :=
  let c := chanOf s chan
  let t := chan / 512
  if !serving s t then s
  else if c.raw && !running c && c.regs.pace then (takeCounted t (chan % 512) n s).2
  else if running c && c.run.pace && c.raw then
    let (k, s) := takeCounted t (chan % 512) n s
    let held := c.credits + k
    let s := modChan chan (fun c => { c with credits := min held 65535, state := if c.state = .waiting ∧ 0 < held then .issuing else c.state }) s
    let s := if c.state = .waiting ∧ 0 < held ∧ !c.steady then displace t (chan % 512) c.run.prio 1 s else s
    if held ≤ 65535 then s else modMv s fun m => { m with goLost := tmod 0 m.goLost t fun x => satU 32 (x + (held - 65535)) }
  else match takeInput t (chan % 512) n s with
  | none => s
  | some (e, s) => if c.raw && decide (c.state = .idle) && !c.regs.pace then startRun chan e.hops s else s

/-- R196, R200: an event at GO_ccc starts an unpaced run, or is a burst credit of a paced one; while PACE is 1 the input counts (Table
13-1), and without a run its events credit nothing. -/
def execGoInput (chan n : Nat) (s : State) : Meaning := .next (takeGo chan n s)

/-- The GO events that wait at a channel act before a write of its START or ABORT (R55). -/
def goFirst (g : Nat) (s : State) : State := takeGo g (eventsWaiting s (g / 512) (g % 512)) s

/-- R196: a write of START to a raw channel. -/
def writeStart (port g : Nat) (s : State) : State :=
  if !ownsChan s port g then ignoreWrite port s
  else
    let s := goFirst g s
    if running (chanOf s g) then s else startRun g 0 s

def execMvStart (port chan : Nat) (s : State) : Meaning := .next (writeStart port chan s)

/-- A run is aborted with a CAUSE of Table 10-3; one whose last burst is over ends as it was going to (R206). A channel displaced in
mid-burst stays so until it has finished that burst; a run that started at this very edge, one value of the running clock (log entry 83),
issues nothing. -/
def abortRun (g cause : Nat) (s : State) : State :=
  let c := chanOf s g
  if running c && c.abort.isNone && decide (c.state ≠ .ending) then
    putChan g { c with
      abort := some cause, stillborn := decide (c.startedAt = s.clock ∧ c.moved = 0)
      state := if c.state = .displaced then .displaced else .ending } s
  else s

def writeAbort (port g : Nat) (s : State) : State :=
  if !ownsChan s port g then ignoreWrite port s else abortRun g 1 (goFirst g s)

/-- R206: a write of ABORT. -/
def execMvAbortBit (port chan : Nat) (s : State) : Meaning := .next (writeAbort port chan s)

/-! ### Bursts (R197 to R200) -/

/-- The raw runs that go before a run issue their bursts (R201, R202). -/
def yieldRun (g : Nat) (s : State) : State :=
  let c := chanOf s g
  yieldTo (g / 512) (g % 512) c.run.prio c.steady (burstBound s (g / 512)) s

/-- The bursts that a run may issue now and its credit covers, each after the raw runs that go before it (R199 to R202, R329). -/
def issueAll (g : Nat) (source : List Byte) : Nat → State → State
  | 0, s => s
  | k + 1, s =>
    if burstAllowed (chanOf s g) && runCovered s g (chanOf s g) then
      let s := yieldRun g s
      if runCovered s g (chanOf s g) then issueAll g source k (issueBurst g source (nextBurst (chanOf s g)) s) else s
    else s

/-- The responses of a run's bursts have returned: the flush read, when bytes were written, or the end (R203, R205, R206). -/
def runDone (g : Nat) (st : Status) (cause : Nat) (s : State) : State :=
  let c := chanOf s g
  if c.run.flushRead && decide (0 < c.moved) && connected s (runVia s g) then
    emit (.read (runVia s g) (c.run.dst + c.moved - 1) 0)
      (putChan g { c with flushing := true, state := .ending, residue := c.run.count - c.moved, abort := none, cause := cause, flushCode := st } s)
  else closeRun g st cause (c.run.count - c.moved) s

/-- R203: the bursts that a raw run may issue are issued, `source` being what its reads of host memory return; after the last
response the run is complete. -/
def execMoverRunComplete (chan : Nat) (source : List Byte) (s : State) : Meaning := .next <|
  let c := chanOf s chan
  if !c.raw || !running c || decide (c.state = .ending) || c.abort.isSome || !connected s (runVia s chan) then s
  else
    let s := issueAll chan source (burstBound s (chan / 512)) s
    let c := chanOf s chan
    if c.run.count ≤ c.moved then runDone chan .ok 0 s
    else putChan chan { c with state := .waiting } s

/-- R206: an aborted run has issued `bursts` bursts, the one in progress included, and their responses have returned. A channel that
was displaced in mid-burst has finished that burst. While its port is not connected a burst in progress or a flush read waits (R242),
unless the port was reset (R207). -/
def execMoverAbortDone (chan bursts : Nat) (source : List Byte) (s : State) : Meaning := .next <|
  let c := chanOf s chan
  match c.abort with
  | none => s
  | some cause =>
    let most := if c.stillborn then 0 else if c.run.pace then min bursts (min c.credits 1) else bursts
    let mid := decide (c.state = .displaced) && burstAllowed c
    if connected s (runVia s chan) then
      let s := if mid then issueBurst chan source (nextBurst c) (yieldRun chan s) else s
      runDone chan c.code cause (issueAll chan source (most - b2n mid) s)
    else if !c.silent && (mid || (c.run.flushRead && decide (0 < c.moved))) then s
    else runDone chan c.code cause s

/-! ### Live delivery (R216 to R218, R330) -/

/-- DELIVERY_DROPPED, at most once per millisecond per channel (Table 10-11). -/
def raiseDropped (g : Nat) (s : State) : State :=
  let s := modMv s fun m => { m with droppedCount := tmod 0 m.droppedCount g (· + 1) }
  if msPassed s (tget? s.mv.droppedAt g) then
    raise (g / 64) 87 (g % 64 + 2 ^ 8 * satU 24 (tget 0 s.mv.droppedCount g))
      (modMv s fun m => { m with droppedCount := tput m.droppedCount g 0, droppedAt := tput m.droppedAt g s.clock })
  else s

/-- A frame is not delivered; its recording is not affected. -/
def undelivered (g : Nat) (f : Frame) (s : State) : State :=
  sweepFrames g (modFrame g f.seq (fun f => { f with delivered := true }) (leaveBacklog g f.seq s))

/-- A frame that gets no buffer, reservation or backlog page (R216, R330). -/
def noBuffer (g : Nat) (f : Frame) (s : State) : State :=
  let s := modQueue (queueOfHandle f.set.layout.bufQueue) (fun v => { v with noBuffer := v.noBuffer + 1 }) s
  raiseDropped g (undelivered g f s)

/-- Pages of the backlog that a frame needs. -/
def backlogNeed (f : Frame) : Nat := (128 + (frameData f).length + 65535) / 65536

/-- A frame whose delivery waits for credit goes to the backlog, with the pages that it lacks there, or is not delivered (R330): the
buffer of a delivery under way goes back. -/
def enterBacklog (g : Nat) (s : State) (f : Frame) : State :=
  let t := g / 64
  let n := backlogNeed f - f.backlog
  if n = 0 then s
  else if (tileRings s t).all (fun (_, r) => decide (r.target ≤ r.pages)) && decide ((govTile s t).backlog + n ≤ s.gov.conf.backlogPages)
      && decide (n ≤ poolFree s t) then
    modTileGov t (fun x => { x with backlog := x.backlog + n }) (modFrame g f.seq (fun f => { f with backlog := f.backlog + n }) s)
  else
    let s := modTileGov t (fun x => { x with backlogDropped := x.backlogDropped + 1 }) s
    noBuffer g f (match s.mv.deliveries.find? fun d => decide (d.segment = 0 ∧ d.tile * 64 + d.channel = g ∧ d.frame = f.seq) with
      | some d => giveBack d s
      | none => s)

/-- A frame has payload that waits to be delivered. -/
def awaitsDelivery (f : Frame) : Bool := f.deliver && !f.dropped && !f.delivered && (f.tagged || !f.data.isEmpty)

/-- Credit does not cover the next burst of a channel: every frame of it that waits is held in the backlog, oldest first (R330). -/
def holdFrames (g : Nat) (s : State) : State := ((channelOf s g).frames.filter awaitsDelivery).foldl (enterBacklog g) s

/-- The first burst of a frame: of 4 KiB at most, its tag when it has no data. -/
def firstBurst (f : Frame) : Nat := if (frameData f).isEmpty then 128 else min 4096 (frameData f).length

/-- R216: the oldest frame of a channel that is to be delivered live makes its first payload write. -/
def execFrameDeliveryStart (channel : Nat) (s : State) : Meaning := .next <|
  match (channelOf s channel).frames.find? fun f => f.deliver && !f.dropped && !f.delivering && !f.delivered with
  | none => s
  | some f =>
    let y := f.set.layout
    if (f.data.isEmpty && !f.tagged) || !serving s (channel / 64) then s
    else if !queueLive s y.bufQueue .buffer || !queueLive s y.cplQueue .completion then undelivered channel f s
    else if !creditCovers s (channel / 64) (firstBurst f) then holdFrames channel s
    else match takeBuffer s y.bufQueue y.cplQueue with
    | none => noBuffer channel f s
    | some (d, s) =>
      modFrame channel f.seq (fun f => { f with delivering := true })
        (modMv (leaveRoute (chanProducer (channel / 64 * 512 + channel % 64)) s) fun m => { m with deliveries := m.deliveries ++ [{
          tile := channel / 64, channel := channel % 64, frame := f.seq, bufQueue := queueOfHandle y.bufQueue
          cplQueue := queueOfHandle y.cplQueue, desc := d }] })

/-- The completion entry of a live frame (R218, Table 10-8). -/
def completeLive (g : Nat) (d : Delivery) (st : Status) (s : State) : State :=
  let entry : PendEntry := {
    bytes := completionEntry st d.desc (handleOf s (chanSlot g)) d.bytes d.frame, tile := d.tile, kind := .frame }
  let s := modMv s fun m => { m with deliveries := m.deliveries.filter fun x => !sameDelivery d x }
  let s := leaveBacklog g d.frame (modFrame g d.frame (fun f => { f with delivered := true }) s)
  sweepFrames g (offerEntry d.cplQueue entry (leaveRoute (deliveryProducer d) s))

/-- A live frame is cut by its buffer: it is marked TRUNCATED, in its recorded tag too, and counted unless a copy of it was before (R100,
R119). In a frozen layer R119 goes before the text of chapter 08 that a layer never changes (log entry 53). -/
def markCut (g : Nat) (f : Frame) (s : State) : State :=
  if f.truncated then s
  else
    let s := modRecs g f.seq (fun x => { x with tag := orFlags x.tag 1, cut := true })
      (modFrame g f.seq (fun f => { f with truncated := true, cutCounted := true }) s)
    if f.cutCounted then s else countChannel g (fun c => { c with truncated := c.truncated + 1 }) s

/-- R218: the frame of a channel that is delivered is written as far as credit allows; once all of its payload is, its tag and its
completion entry are written. What credit does not cover waits in the backlog (R329, R330). -/
def execFrameDeliveryComplete (channel : Nat) (s : State) : Meaning := .next <|
  match liveDelivery s channel with
  | none => s
  | some d =>
    match frameOf s channel d.frame with
    | none => s
    | some f =>
      if !f.tagged || d.tagWritten then s
      else
        let data := frameData f
        let n := min data.length (d.desc.len - 128)
        let cut := decide (n < data.length)
        let tag := tagRecord (handleOf s (chanSlot channel)) { f with truncated := f.truncated || cut } { stored := n }
        let s := writeDelivery d tag (data.take n) s
        match liveDelivery s channel with
        | none => s
        | some d =>
          if !d.tagWritten then
            if creditCovers s d.tile (deliveryBurst d n) then s else holdFrames channel s
          else
            let s := if cut then markCut channel f s else s
            if d.flushing then emit (.read (deliveryVia s d) d.desc.addr 0) s else completeLive channel d .ok s

/-! ### Flush reads (R205) -/

def flushStatus (timeout : Bool) : Status := if timeout then .eTimeout else .ok

/-- Status with which a run ends after its flush read: a timeout shows in a run that was going to end with OK. -/
def flushedCode (c : Chan) (timeout : Bool) : Status := if c.flushCode = .ok then flushStatus timeout else c.flushCode

/-- The flush read of a readout on a mover channel is over: its completion entry is written. -/
def flushReadout (g : Nat) (timeout : Bool) (s : State) : State :=
  match readoutOn s g with
  | none => s
  | some (k, _) =>
    match readoutDelivery s k with
    | none => s
    | some d =>
      if d.flushing then
        let s := modDelivery d (fun y => { y with flushing := false }) s
        offerEntry d.cplQueue {
          bytes := completionEntry (flushStatus timeout) d.desc (segHandle s k) d.bytes d.frame, tile := k / 16384, kind := .frame
          after := .delivered k } (leaveRoute (deliveryProducer d) s)
      else s

/-- R205: a flush read completes or times out: of the live frame of stream channel `chan`, or of mover channel `chan`. -/
def flushDone (live : Bool) (chan : Nat) (timeout : Bool) (s : State) : State :=
  if live then
    match liveDelivery s chan with
    | some d => if d.flushing then completeLive chan d (flushStatus timeout) s else s
    | none => s
  else if (chanOf s chan).raw then
    let c := chanOf s chan
    if c.flushing then closeRun chan (flushedCode c timeout) c.cause c.residue s else s
  else flushReadout chan timeout s

def execFlushReadDone (live : Bool) (chan : Nat) (timeout : Bool) (s : State) : Meaning := .next (flushDone live chan timeout s)

/-! ### Commands (Table 10-15, Table 10-16) -/

/-- Steady share in use on a tile (MV_STEADY_SUM). -/
def steadySum (s : State) (t : Nat) : Nat :=
  32 + sumOver (·.2) (s.mv.steadyShare.filter fun (k, _) => decide (k / 16 = t))

/-- The channel that a reservation takes (R195). -/
def reserveIndex (s : State) (t : Nat) (steady : Bool) : Option Nat :=
  let used := (s.mv.chans.filter fun (g, _) => decide (g / 512 = t)).map fun (g, _) => g % 512
  if steady then lowestFree used 499 13 else lowestFree used 64 432

def opMvReserve : OpDef where
  code := 0x0810
  modes := mSafe
  len := some 8
  room := 4
  bad c s :=
    let steady := bit (par c 1 1) 0
    [(0, decide (tiles s ≤ par c 0 1)), (1, decide (1 < par c 1 1)),
     (2, if steady then !(decide (1 ≤ par c 2 2) && decide (par c 2 2 ≤ 224)) else decide (par c 2 2 ≠ 0)), (4, !isZero c.params 4 4)]
  tile c _ := some (par c 0 1)
  wrong c s := !serving s (par c 0 1)
  short c s :=
    let steady := bit (par c 1 1) 0
    (reserveIndex s (par c 0 1) steady).isNone || (steady && decide (256 < steadySum s (par c 0 1) + par c 2 2))
  act c s :=
    let t := par c 0 1
    let steady := bit (par c 1 1) 0
    let n := (reserveIndex s t steady).getD 0
    let s := putChan (t * 512 + n) { state := .idle, raw := true, steady := steady, owner := c.port } s
    let s := if steady then modMv s fun m => { m with
        steadyShare := tput m.steadyShare (t * 16 + (n - 496)) (par c 2 2), steadyCredit := tput m.steadyCredit (t * 16 + (n - 496)) (0, s.clock) }
      else s
    let s := createObj (slotOf 6 t n) c.port s
    .done s { handle := some (handleOf s (slotOf 6 t n)), result := leBytes 2 n ++ zeros 2 }

def execMvReserve (c : Cmd) (s : State) : Meaning := .next (runOp opMvReserve c s)

def targetChan (c : Cmd) : Nat := handleTile (tgt c) * 512 + handleIndex (tgt c)

/-- Releases a reservation: at once, or after its run is aborted (R206). -/
def releaseChan (op : Nat) (c : Cmd) (g : Nat) (s : State) : Res :=
  if running (chanOf s g) then
    let id := s.eng.nextWait
    let s := addWait op c [tslot c] 0 s
    .wait (modChan g (fun x => { x with release := some id }) (abortRun g 7 s))
  else
    let gen := (obj? s (tslot c)).map (·.gen)
    .done (freeReservation (chanObjSlot g) s) { gen := gen }

def opMvRelease : OpDef where
  code := 0x0811
  cond := true
  modes := mSafe
  kinds := [6]
  len := some 0
  first c s := goFirst (targetChan c) s
  wrong := tileIdle
  busy c s := !(routesTo s (slotTile (tslot c)) (.toInput (slotIndex (tslot c)))).isEmpty
  act c s := releaseChan 0x0811 c (targetChan c) s

def execMvRelease (c : Cmd) (s : State) : Meaning := .next (runOp opMvRelease c s)

def opMvQuery : OpDef where
  code := 0x0812
  query := true
  idem := true
  modes := mSafe
  kinds := [6]
  len := some 0
  room := 64
  act c s := .done s { result := windowBytes (chanReg s (targetChan c)) 16 }

def execMvQuery (c : Cmd) (s : State) : Meaning := .next (runOp opMvQuery c s)

def opMvAbort : OpDef where
  code := 0x0813
  idem := true
  modes := mSafe
  kinds := [6]
  len := some 0
  room := 4
  first c s := goFirst (targetChan c) s
  act c s :=
    let g := targetChan c
    if running (chanOf s g) then
      let id := s.eng.nextWait
      let s := addWait 0x0813 c [tslot c] 4 s
      .wait (modChan g (fun x => { x with waits := x.waits ++ [id] }) (abortRun g 2 s))
    else .done s { result := leBytes 4 0 }

def execMvAbort (c : Cmd) (s : State) : Meaning := .next (runOp opMvAbort c s)

end Sys2Proof.Machine
end

