-- ==== Sys2Proof/Machine/Host.lean ====
section
/-!
DEFINITION. The host ports (chapter 11): links, holding and replay, routes, COMPAT, MSI-X and INTx, completion timeouts, AER, PTM.
-/
namespace Sys2Proof.Machine
open Sys2Proof

/-! ### Hops and routes (R13, R15, R242, R243) -/

/-- Link l of the fabric exists and is up; link l joins tiles l and l + 1, the last one the last tile and tile 0. -/
def linkOk (s : State) (l : Nat) : Bool := (decide (l + 1 < tiles s) || decide (2 < tiles s ∧ l + 1 = tiles s)) && !tget false s.pkg.linkDown l

/-- Hops from a to b going up; none when a link or a tile on the way is out. -/
def hopsUp (s : State) (b : Nat) : Nat → Nat → Option Nat
  | 0, a => if a = b then some 0 else none
  | n + 1, a =>
    if a = b then some 0
    else
      let next := (a + 1) % tiles s
      if linkOk s a && (decide (next = b) || serving s next) then (hopsUp s b n next).map (· + 1) else none

def hopsDown (s : State) (b : Nat) : Nat → Nat → Option Nat
  | 0, a => if a = b then some 0 else none
  | n + 1, a =>
    if a = b then some 0
    else
      let next := (a + tiles s - 1) % tiles s
      if linkOk s next && (decide (next = b) || serving s next) then (hopsDown s b n next).map (· + 1) else none

/-- Fewest hops from a tile to another over the fabric as it stands. -/
def hops (s : State) (a b : Nat) : Option Nat :=
  match hopsUp s b 8 a, hopsDown s b 8 a with
  | some x, some y => some (min x y)
  | some x, none => some x
  | none, y => y

def groupPorts (s : State) (p : Nat) : List Nat := (List.range (tiles s)).filter fun q => bit (groupMask s p) q

/-- The connected member of a group with the fewest hops from tile t; on a tie the lower port (R242). -/
def bestRoute (s : State) (p t : Nat) : Option Nat :=
  let l := (groupPorts s p).filterMap fun q => if connected s q then (hops s t q).map fun h => (h, q) else none
  (l.foldl (fun (b : Option (Nat × Nat)) x => match b with
    | none => some x
    | some y => if x.1 < y.1 then some x else b) none).map (·.2)

/-- Replays the saved writes of port p for tile t through a port, in order (R241). -/
def replaySaved (p : Nat) (mine : SavedWrite → Bool) (via : Nat) (s : State) : State :=
  let l := tget [] s.host.saved p
  let s := modHost s fun h => { h with saved := tput h.saved p (l.filter fun w => !mine w) }
  let s := (l.filter mine).foldl (fun s w => emit (.write via w.addr w.relaxed w.bytes) s) s
  modPortCounters via (fun c => { c with replayed := c.replayed + BitVec.ofNat 64 (l.filter mine).length }) s

/-- The owner and the tile of a request's traffic; command queues keep their own port (R242). -/
def requestOf (s : State) : ReqPurpose → Option (Nat × Nat)
  | .descriptor q _ => some (queueOwner s q, q / 2048)
  | .command _ => none
  | .rawSource g => some ((chanOf s g).owner, g / 512)
  | .flush g =>
    if (chanOf s g).raw then some ((chanOf s g).owner, g / 512)
    else (s.mv.deliveries.find? fun d => decide (d.segment ≠ 0 ∧ d.tile * 512 + d.channel = g)).map fun d => (queueOwner s d.bufQueue, d.tile)
  | .flushLive g => (liveDelivery s g).map fun d => (queueOwner s d.bufQueue, d.tile)

/-- Address and length of a request, as it is issued again (R241). -/
def requestRead (s : State) : ReqPurpose → Nat × Nat
  | .descriptor q x => ((queue? s q).map fun v => (v.base + x % v.size * 32, 32)).getD (0, 0)
  | .command q => ((queue? s q).map fun v => (v.base + v.dev.toNat % v.size * 32, 32)).getD (0, 0)
  | .rawSource g => ((chanOf s g).run.src + (chanOf s g).moved, nextBurst (chanOf s g))
  | .flush g =>
    if (chanOf s g).raw then ((chanOf s g).run.dst + (chanOf s g).moved - 1, 0)
    else (((s.mv.deliveries.find? fun d => decide (d.segment ≠ 0 ∧ d.tile * 512 + d.channel = g)).map (·.desc.addr)).getD 0, 0)
  | .flushLive g => (((liveDelivery s g).map (·.desc.addr)).getD 0, 0)

/-- Issues saved requests of port p again through a port (R241). -/
def reissueSaved (p : Nat) (mine : ReqPurpose → Bool) (via : Nat) (s : State) : State :=
  let l := tget [] s.host.savedReads p
  let s := modHost s fun h => { h with savedReads := tput h.savedReads p (l.filter fun r => !mine r) }
  let s := (l.filter mine).foldl (fun s r =>
    let (addr, n) := requestRead s r
    if n = 0 then emit (.read via addr 0) s else readRequests via addr n s) s
  modPortCounters via (fun c => { c with replayed := c.replayed + BitVec.ofNat 64 (l.filter mine).length }) s

/-- The traffic of tile t for the group of p goes on through port b: what the group's lost ports saved of it comes first (R241). -/
def replayMoved (p t b : Nat) (s : State) : State :=
  (groupPorts s p).foldl (fun s c =>
    if c = b ∨ connected s c then s
    else
      reissueSaved c (fun r => (requestOf s r).any fun (o, u) => decide (u = t ∧ bit (groupMask s p) o)) b
        (replaySaved c (fun w => decide (w.tile = t)) b s)) s

/-- Producers that still leave through port p, which is no longer connected, go on through the new route (R243). -/
def unpin (p : Nat) (s : State) : State := modHost s fun h => { h with behind := h.behind.filter fun (_, o) => decide (o ≠ p) }

/-- The producers of tile t that write to the host of port p (R243): queues of records, the delivery channels of stream channels, raw
channels, readouts, and the health reports. -/
def producersOf (s : State) (p t : Nat) : List Nat :=
  let mine (q : Nat) : Bool := decide (q / 2048 = t) && decide (queueOwner s q = p)
  (s.mv.queues.filterMap fun (q, v) => if mine q && (v.qtype == .completion || v.qtype == .event || v.qtype == .management) then some q else none)
    ++ (s.st.channels.filterMap fun (g, c) =>
      if c.live && decide (g / 64 = t) && mine (queueOfHandle c.active.layout.bufQueue) then some (chanProducer (t * 512 + g % 64)) else none)
    ++ (s.mv.deliveries.filterMap fun d => if mine d.bufQueue then some (deliveryProducer d) else none)
    ++ (s.mv.chans.filterMap fun (g, c) => if c.raw && decide (g / 512 = t) && c.owner == p then some (chanProducer g) else none)
    ++ (s.fs.readouts.filterMap fun (k, r) =>
      if decide (k / 16384 = t) && mine (queueOfHandle r.buf) then some (chanProducer (t * 512 + r.chan)) else none)
    ++ (if p = t then [reportProducer t] else [])

/-- A route of tile t for port p moves from port `old` to port q: each producer keeps the old port until its next boundary, a frame, a run
or an entry (R243). One that has not left an earlier port stays with that, unless the route is back there. -/
def pin (p t old q : Nat) (s : State) : State :=
  let next (b : Tab Nat) (k : Nat) : Tab Nat :=
    match tget? b k with
    | some o => if o = q then tdel b k else b
    | none => tput b k old
  modHost s fun h => { h with behind := (producersOf s p t).foldl next h.behind }

/-- Number of a route port in an event: 0xF for none. -/
def routeNumber (r : Option Nat) : Nat := r.getD 15

/-- A route of tile t for the group of p moves (R243): ROUTE_MOVED once per tile and group. -/
def moveRoute (p t : Nat) (away : Bool) (r : Option Nat) (s : State) : State :=
  let s := modHost s fun h => { h with
    routes := match r with
      | some q => tput h.routes (p * 8 + t) q
      | none => tdel h.routes (p * 8 + t)
    routesDue := tdel h.routesDue (p * 8 + t) }
  if (groupPorts s p).head? = some p then
    let q := r.getD p
    raise q 91 (t + 8 * b2n away + 2 ^ 4 * routeNumber r + 2 ^ 8 * groupMask s p)
      (modPortCounters q (fun c => { c with routeMoves := c.routeMoves + 1 }) s)
  else s

/-- The routes of tile t for the group of port p are computed again (R243). A route that stays may take over producers that were still behind
it on a port now lost: what that port saved comes first too. -/
def rerouteOne (s : State) (pt : Nat × Nat) : State :=
  let (p, t) := pt
  let cur := tget? s.host.routes (p * 8 + t)
  let best := if serving s t then bestRoute s p t else none
  if best = cur then
    let s := modHost s fun h => { h with routesDue := tdel h.routesDue (p * 8 + t) }
    match best with
    | some b => replayMoved p t b s
    | none => s
  else match cur, best with
  | some c, some b =>
    if connected s c then modHost s fun h => { h with routesDue := tput h.routesDue (p * 8 + t) b }
    else
      replayMoved p t b (moveRoute p t true best s)
  | some _, none => moveRoute p t true none s
  | none, some b => replayMoved p t b (moveRoute p t false best s)
  | none, none => s

def reroute (s : State) : State :=
  ((List.range (tiles s)).flatMap fun p => (List.range (tiles s)).map fun t => (p, t)).foldl rerouteOne s

/-- R243: a route moves toward another port. Each producer of the tile leaves through the old port until its next boundary, where its
zero-length read through that port completes before its next write. -/
def execRouteMoveToward (port tile : Nat) (s : State) : Meaning := .next <|
  match tget? s.host.routesDue (port * 8 + tile) with
  | none => s
  | some q =>
    moveRoute port tile false (some q) (pin port tile (routeOf s port tile) q s)

/-- Sends the pending message of a vector when nothing masks it: through the port of the entries it announces, or, when that is not
connected, through the route of its own tile; with no connected port of the group it waits (R230, R242, log entry 85). -/
def sendPending (p v : Nat) (s : State) : State :=
  let x := tget {} s.host.vectors (p * 2048 + v)
  let q := portOf s p
  match (if connected s x.via then some x.via else bestRoute s p p) with
  | none => s
  | some via =>
    if x.pending && !x.masked && !q.functionMask && q.msixEnable then
      emit (.msix via p v) (modHost s fun h => { h with vectors := tput h.vectors (p * 2048 + v) { x with pending := false } })
    else s

/-- Sends every pending message that nothing holds any more. -/
def sendAllPending (p : Nat) (s : State) : State :=
  ((s.host.vectors.filter fun (k, x) => decide (k / 2048 = p) && x.pending).map (·.1)).foldl (fun s k => sendPending p (k % 2048) s) s

/-! ### Held queues resume (R240, R241) -/

/-- Global numbers of the queues that a port owns. -/
def portQueues (s : State) (p : Nat) : List Nat := (s.mv.queues.map (·.1)).filter fun q => decide (queueOwner s q = p)

/-- A queue that was held goes on: replies that waited, entries that wait. -/
def resumeQueue (p : Nat) (s : State) (q : Nat) : State :=
  match queue? s q with
  | none => s
  | some v =>
    match v.qtype with
    | .reply => flushQueue p (q % 2048 - 8) s
    | .completion | .event => signalQueue q (drain q s)
    | _ => s

/-- A port is connected: what was saved is sent again, then its queues resume (R240, R241). -/
def resumePort (p : Nat) (s : State) : State :=
  let s := modPort p (fun q => { q with lost := false, holdDeadline := 0, holdDeadlineNs32 := 0 }) s
  let s := if s.pkg.masterPort = p ∧ (tget {} s.eng.bootBlocks p).state = 1 then { s with pkg := { s.pkg with vacancyAt := none } } else s
  let s := reissueSaved p (fun _ => true) p (replaySaved p (fun _ => true) p s)
  (portQueues s p).foldl (resumeQueue p) s

/-- The connected state of a port may have changed: routes are computed again, a connected port resumes, and messages of its group that
waited go out (R242, R243). -/
def portChange (p : Nat) (s : State) : State :=
  let s := reroute (if connected s p then s else unpin p s)
  (groupPorts s p).foldl (fun s o => sendAllPending o s) (if connected s p then resumePort p s else s)

def execPortConnectedChange (port : Nat) (s : State) : Meaning := .next (if port < tiles s then portChange port s else s)

/-! ### Configuration registers (R224, R238) -/

/-- Entry n of the boot configuration's COMPAT table, for every port. -/
def compatBoot (s : State) : Tab CompatEntry := s.boot.conf.compat

/-- Every mapping of a port goes (R173). -/
def dropMaps (p : Nat) (s : State) : State := modFs s fun f => { f with maps := f.maps.filter fun m => decide (m.port ≠ p) }

/-- Effects of Table 11-10 on the configuration registers of a port: `sticky` when sticky and RWS fields are cleared too. -/
def resetConfig (p : Nat) (sticky : Bool) (s : State) : State :=
  let fresh : Port := {}
  let boot := compatBoot s
  let code := s.boot.conf.storeCode
  let s := modPort p (fun q =>
    let q := { q with
      d3hot := false, busMaster := false, memSpace := false, intDisable := false, msixEnable := false, functionMask := false
      relaxedEnable := true, cplTimeoutValue := 0, barSize := code, compatStage := boot, compatActive := boot
      badIndex := 0, refused := false, commits := 0, intaAsserted := false, otherRw := [], devErrors := 0, cfgErrors := 0
      ptm := { q.ptm with enabled := false, busy := false } }
    if sticky then { q with
      aerCor := 0, aerUncor := 0, aerCorMask := fresh.aerCorMask, aerUncorMask := fresh.aerUncorMask, aerSeverity := fresh.aerSeverity
      aerFirst := none, aerHeader := [], aerFlit := false, otherCfg := [] }
    else q) s
  let s := modHost s fun h => { h with vectors := h.vectors.filter fun (k, _) => decide (k / 2048 ≠ p) }
  dropMaps p s

/-! ### Requests outstanding (R232) -/

def purposesOf (s : State) (p : Nat) (kv : Nat × Queue) : List ReqPurpose :=
  let (q, v) := kv
  match v.qtype with
  | .command => if v.host = v.dev ∨ queueOwner s q ≠ p then [] else [.command q]
  | _ => match mayRead s q v with
    | some x => if viaOf s q = p then [.descriptor q x] else []
    | none => []

/-- Non-posted requests that want to leave through a port (R242): descriptor and command-queue reads, then raw source reads, then
flush reads. -/
def requestsDue (s : State) (p : Nat) : List ReqPurpose :=
  (s.mv.queues.flatMap (purposesOf s p))
    ++ (s.mv.chans.filterMap fun (g, c) =>
      if c.raw && decide (runVia s g = p) && decide (c.run.srcSpace = 0) && decide (c.state = .issuing) then some (.rawSource g) else none)
    ++ (s.mv.chans.filterMap fun (g, c) => if c.raw && decide (runVia s g = p) && c.flushing then some (.flush g) else none)
    ++ (s.mv.deliveries.filterMap fun d =>
      if d.flushing && decide (deliveryVia s d = p) then
        some (if d.segment = 0 then .flushLive (d.tile * 64 + d.channel) else .flush (d.tile * 512 + d.channel))
      else none)

/-- Tags of a port that a timed-out request still bars (R233). -/
def tagsBarred (s : State) (p : Nat) : Nat := ((tget [] s.host.deadTags p).filter fun x => decide (s.clock < x)).length

/-- Non-posted requests of a port that wait for a completion: as many as its 768 tags allow (R222, R233). -/
def requestsOut (s : State) (p : Nat) : List ReqPurpose := (requestsDue s p).take (768 - tagsBarred s p)

/-- Completion timeout in force, in µs (HE_CPL_TIMEOUT). -/
def cplTimeoutUs (q : Port) : Nat := if q.cplTimeoutValue = 0 then 50000 else (Config.cplTimeoutUs q.cplTimeoutValue).toNat

/-- Effect of a lost or poisoned completion, by purpose (Table 11-8). -/
def lostCompletion (p : Nat) (r : ReqPurpose) (s : State) : State :=
  match r with
  | .descriptor _ _ | .command _ => modPortCounters p (fun c => { c with descRetries := c.descRetries + 1 }) s
  | .rawSource g => abortRun g 6 (modChan g (fun c => { c with code := .eTimeout }) s)
  | .flush g => flushDone false g true s
  | .flushLive g => flushDone true g true s

def purposeCode : ReqPurpose → Nat
  | .descriptor _ _ | .command _ => 0
  | .rawSource _ => 1
  | .flush _ | .flushLive _ => 2

/-- A request of a port times out (R232, R233): none when the error is injected while none is outstanding. -/
def timeoutRequest (p : Nat) (r : Option ReqPurpose) (s : State) : State :=
  let until_ := s.clock + 2 * cplTimeoutUs (portOf s p) * us
  let s := modPortCounters p (fun c => { c with cplTimeouts := c.cplTimeouts + 1 }) s
  let s := modHost s fun h => { h with
    deadTags := tput h.deadTags p ((tget [] h.deadTags p).filter (fun x => decide (s.clock < x)) ++ [until_])
    timeoutCount := tmod 0 h.timeoutCount p (· + 1) }
  let s := aerUncorrectable p 14 [] s
  let s := if msPassed s (tget? s.host.timeoutAt p) then
      raise p 92 ((r.map purposeCode).getD 0 + 4 * satU 30 (tget 0 s.host.timeoutCount p))
        (modHost s fun h => { h with timeoutCount := tput h.timeoutCount p 0, timeoutAt := tput h.timeoutAt p s.clock })
    else s
  match r with
  | some r => lostCompletion p r s
  | none => s

/-- R232: the n-th outstanding request of a port times out. -/
def execCompletionTimeout (port n : Nat) (s : State) : Meaning := .next <|
  match (requestsOut s port)[n]? with
  | none => s
  | some r => timeoutRequest port (some r) (detectorFires port 0x12 false s)

/-- R233: a completion arrives after its request timed out. -/
def execLateCompletion (port : Nat) (s : State) : Meaning := .next <|
  if port < tiles s then
    correctable port 13 (modPortCounters port (fun c => { c with lateCompletions := c.lateCompletions + 1 }) s)
  else s

/-! ### Link loss and link up (R223, R235, R240, R241) -/

/-- The first writes that fit a number of bytes. -/
def within128k : Nat → List SavedWrite → List SavedWrite
  | _, [] => []
  | n, w :: rest => if w.bytes.length ≤ n then w :: within128k (n - w.bytes.length) rest else []

/-- The wait for the master port begins, unless it runs (R52). -/
def startVacancy (p : Nat) (s : State) : State :=
  if s.pkg.mode ≠ .boot ∧ s.pkg.masterPort = p ∧ !s.pkg.vacant ∧ s.pkg.vacancyAt.isNone then
    { s with pkg := { s.pkg with vacancyAt := some (s.clock + s.eng.orphanGraceMs * ms) } }
  else s

/-- A port enters DL_Down without PERST# or hot reset (R240, R241). A second loss before it is connected again keeps the deadline of the
first. -/
def linkLoss (p : Nat) (saved : List SavedWrite) (s : State) : State :=
  if !(portOf s p).dlActive then s
  else
    let reads := requestsOut s p
    let at_ := s.clock + s.eng.orphanGraceMs * ms
    let s := modPort p (fun q => { q with
      dlActive := false, flit := false, rate := 0, width := 0, lost := true, downNs32 := ns32 s
      holdDeadline := if q.lost then q.holdDeadline else at_
      holdDeadlineNs32 := if q.lost then q.holdDeadlineNs32 else ns32Of (ns s + s.eng.orphanGraceMs * ms) }) s
    let s := modPortCounters p (fun c => { c with linkLosses := c.linkLosses + 1 }) s
    let s := modHost s fun h => { h with
      saved := tput h.saved p (within128k 131072 (tget [] h.saved p ++ saved)), savedReads := tput h.savedReads p (tget [] h.savedReads p ++ reads) }
    let s := resetConfig p false s
    portChange p (startVacancy p (raise p 90 1 s))

/-- R240: the port enters DL_Down; `saved` are the posted writes of its replay buffer. -/
def execPortLinkDown (port : Nat) (saved : List SavedWrite) (s : State) : Meaning := .next (linkLoss port saved s)

/-- R223: the port's link trains to DL_Active. -/
def execPortLinkUp (port : Nat) (flit : Bool) (rate width : Nat) (s : State) : Meaning := .next <|
  if !decide (port < tiles s) || !serving s port || decide (modeCode s.pkg.mode < 3) || (portOf s port).dlActive || !between 1 6 rate
      || !([1, 4, 8, 16].contains width) || (rate == 6 && !flit) then s
  else
    let s := modPort port (fun q => { q with dlActive := true, flit := flit, rate := rate, width := width }) s
    portChange port (raise port 89 (rate + 2 ^ 4 * width + 2 ^ 9 * b2n flit) s)

/-- R234: a port-local detector fires. -/
def execPcieRxError (port : Nat) (error : PcieError) (header : List Byte) (s : State) : Meaning := .next <|
  if !decide (port < tiles s) then s
  else match error with
  | .receiver => correctable port 0 s
  | .badTlp => correctable port 6 s
  | .badDllp => correctable port 7 s
  | .replayRollover => correctable port 8 s
  | .replayTimer => correctable port 12 s
  | .unsupportedPosted => correctable port 13 (markErrors port 8 0 s)
  | .correctedInternal => correctable port 14 s
  | .poisonedWrite => nonFatal port 12 header s
  | .poisonedCompletion n =>
    let s' := nonFatal port 12 header s
    match (requestsOut s port)[n]? with
    | some r => lostCompletion port r s'
    | none => s'
  | .ecrc => if (tget 0 (portOf s port).otherCfg 0x118).getLsbD 8 then nonFatal port 19 header s else s
  | .outsideRegion => answerUnsupported port header s
  | .unexpectedCompletion => nonFatal port 16 header s
  | .dataLink => fatal port 4 header s
  | .flowControl => fatal port 13 header s
  | .overflow => fatal port 17 header s
  | .malformed => fatal port 18 header s
  | .uncorrectableInternal posted =>
    let s := fatal port 22 header s
    match posted with
    | some l => linkLoss port l s
    | none => s

/-- A CONTROL request of a shape that is not supported (R225). -/
def badShape (port : Nat) (read : Bool) (s : State) : State :=
  if read then
    emit (.completerAbort port)
      (nonFatal port 15 (freeHeader s) (modPortCounters port (fun c => { c with caReturned := c.caReturned + 1 }) (useFree s)))
  else ignoreWrite port s

/-- R225: a CONTROL request of a shape that is not supported. -/
def execControlMalformedAccess (port : Nat) (read : Bool) (s : State) : Meaning := .next <|
  if !decide (port < tiles s) then s
  else if !memoryServed (portOf s port) then refuseMemory port (!read) s
  else badShape port read s

/-! ### STORE size and COMPAT (R227 to R229) -/

/-- A STORE entry no longer fits the STORE region. -/
def invalidate (size : Nat) (e : CompatEntry) : CompatEntry :=
  if e.store && decide (size < e.offset + 0x400000) then { e with valid := false } else e

/-- R227: a write of BAR Size. -/
def resizeStore (port code : Nat) (s : State) : State :=
  if (portOf s port).memSpace || !between 10 19 code then ignoreWrite port s
  else if (portOf s port).barSize = code then s
  else
    let size := 2 ^ (20 + code)
    dropMaps port (modPort port (fun q => { q with
      barSize := code
      compatStage := q.compatStage.map fun (n, e) => (n, invalidate size e)
      compatActive := q.compatActive.map fun (n, e) => (n, invalidate size e) }) s)

def execStoreResize (port code : Nat) (s : State) : Meaning := .next (if port < tiles s then resizeStore port code s else s)

/-- A valid COMPAT entry lies inside its space, for a size of STORE (R229). -/
def entryFits (size : Nat) (e : CompatEntry) : Bool := !e.valid || decide (e.offset + 0x400000 ≤ if e.store then size else 0x8000000)

/-- A staged entry passes the check of R229. -/
def compatFits (s : State) (p : Nat) (e : CompatEntry) : Bool := entryFits (storeSize s p) e

/-- R229: COMMIT is written. -/
def commitCompat (p : Nat) (s : State) : State :=
  let q := portOf s p
  match (List.range 64).find? fun n => !compatFits s p (tget {} q.compatStage n) with
  | some n => modPort p (fun q => { q with refused := true, badIndex := n }) s
  | none => modPort p (fun q => { q with refused := false, compatActive := q.compatStage, commits := q.commits + 1 }) s

def execCompatCommit (port : Nat) (s : State) : Meaning := .next <|
  if port < tiles s ∧ s.boot.conf.compatEnable then commitCompat port s else s

/-! ### Interrupts (R226, R230, R231) -/

/-- R230: the host unmasks a vector of its port. -/
def unmaskVector (p v : Nat) (s : State) : State :=
  sendPending p v (modHost s fun h => { h with vectors := tmod {} h.vectors (p * 2048 + v) fun x => { x with masked := false } })

def execMsixUnmask (port vector : Nat) (s : State) : Meaning := .next (if port < tiles s ∧ vector < 2048 then unmaskVector port vector s else s)

/-- INTA is taken back when it is asserted. -/
def deassertInta (p : Nat) (s : State) : State :=
  if (portOf s p).intaAsserted then emit (.deassertInta p) (modPort p (fun q => { q with intaAsserted := false }) s) else s

def intxPending (s : State) (p : Nat) : Bool := s.host.intx.any fun (k, w) => decide (k / 64 = p) && decide (w ≠ 0)

/-- R231: the host clears bits of an HE_INTX_STATUS register. -/
def clearIntx (p reg : Nat) (value : U32) (s : State) : State :=
  let s := modHost s fun h => { h with intx := tmod 0 h.intx (p * 64 + reg) fun w => w &&& ~~~value }
  if intxPending s p then s else deassertInta p s

def execIntxStatusClear (port reg : Nat) (value : U32) (s : State) : Meaning := .next (if port < tiles s ∧ reg < 64 then clearIntx port reg value s else s)

/-! ### Precision Time Measurement (R236, R237) -/

def modPtm (p : Nat) (f : Ptm → Ptm) (s : State) : State := modPort p (fun q => { q with ptm := f q.ptm }) s

/-- A dialogue of a measurement starts: t1 is taken as the request leaves. -/
def startDialogue (p : Nat) (second : Bool) (s : State) : State :=
  emit (.ptmRequest p) (modPtm p (fun x => { x with busy := true, second := second, t1 := s.time.now, startedAt := s.clock }) s)

/-- A measurement starts with its first dialogue. -/
def startPtm (p : Nat) (byInput : Bool) (s : State) : State := startDialogue p false (modPtm p (fun x => { x with byInput := byInput }) s)

def ptmRuns (s : State) (p : Nat) : Bool := decide (p < tiles s) && (portOf s p).ptm.enabled && (portOf s p).dlActive

/-- R236: 10 ms have passed since the last periodic measurement. -/
def execPtmPeriod (port : Nat) (s : State) : Meaning := .next <|
  let x := (portOf s port).ptm
  if ptmRuns s port && !x.busy && decide (x.lastPeriod + 10 * ms ≤ s.clock) then
    startPtm port false (modPtm port (fun x => { x with lastPeriod := s.clock }) s)
  else s

/-- R236: an event at PTM_NOW. -/
def execPtmNow (port n : Nat) (s : State) : Meaning := .next <|
  if !serving s port then s
  else match takeInput port 648 n s with
  | none => s
  | some (_, s) => if ptmRuns s port then startPtm port true s else s

/-- The link delay of a dialogue, in ns: half of what t4 - t1 leaves beyond the responder's own t3 - t2, as the standard defines. -/
def linkDelay (roundTrip propagation : Nat) : Nat := (roundTrip / 65536 - propagation) / 2

/-- R236: the response of a dialogue arrives. After the first, the second begins; the second brings the Master Time H and the
responder's t3 - t2 of the first, `propagation`, and D is that of the first dialogue. -/
def execPtmDialogueDone (port : Nat) (master : U64) (propagation : Nat) (s : State) : Meaning := .next <|
  let x := (portOf s port).ptm
  if !ptmRuns s port || !x.busy || decide (x.startedAt + 10 * us < s.clock) then s
  else if !x.second then startDialogue port true (modPtm port (fun y => { y with roundTrip := s.time.now - x.t1 }) s)
  else
    let d := linkDelay x.roundTrip propagation
    let p := x.t1 + d * 65536
    let s := modPtm port (fun x => { x with
      busy := false, valid := true, seq := x.seq + 1, pSec := timeSec p, pNs := timeNs p, pFrac := timeFrac p
      h := master.toNat, d := d }) s
    if x.byInput then raise port 94 (x.seq + 1).toNat s else s

/-- R236: no response within 10 µs. -/
def execPtmResponseTimeout (port : Nat) (s : State) : Meaning := .next <|
  let x := (portOf s port).ptm
  if x.busy && decide (x.startedAt + 10 * us ≤ s.clock) then modPtm port (fun x => { x with busy := false }) s else s

def heBlock (t : Nat) : Nat := 0x0800000 + t * 0x0800000 + 0x400000

/-- HE_PTM of a port, by word from 0x200 (Table 11-15). -/
def ptmReg (s : State) (t i : Nat) : Nat :=
  let x := (portOf s t).ptm
  match i with
  | 0 => b2n x.enabled + 2 * b2n x.valid + 2 ^ 16 * x.seq.toNat
  | 1 => x.pNs
  | 2 => x.pSec % 2 ^ 32
  | 3 => x.pSec / 2 ^ 32 + 2 ^ 16 * x.pFrac
  | 4 => x.h % 2 ^ 32
  | 5 => x.h / 2 ^ 32
  | _ => x.d

/-- R237: a read of HE_PTM_STATUS captures the whole result for the port that reads. -/
def readPtm (port tile : Nat) (s : State) : State :=
  let s := [1, 2, 3, 4, 5, 6].foldl (fun s i => capture port (heBlock tile + 0x200 + 4 * i) (ptmReg s tile i) s) s
  emit (.completion port (ptmReg s tile 0)) s

def execPtmStatusRead (port tile : Nat) (s : State) : Meaning := .next (if tile < tiles s then readPtm port tile s else s)

end Sys2Proof.Machine
end

