-- ==== Sys2Proof/Machine/Crypto.lean ====
section
/-!
DEFINITION. SHA-384 and the verification of ECDSA signatures over P-384 (R351), as FIPS 180-4 and FIPS 186-5 define them (log entry 92).
-/
namespace Sys2Proof.Machine
open Sys2Proof

/-! ### SHA-384 -/

def rotr64 (n x : Nat) : Nat := x >>> n ||| x <<< (64 - n) % 2 ^ 64

/-- The first 64 bits of the fractional parts of the cube roots of the first 80 primes. -/
def shaConstants : List Nat :=
  [0x428a2f98d728ae22, 0x7137449123ef65cd, 0xb5c0fbcfec4d3b2f, 0xe9b5dba58189dbbc, 0x3956c25bf348b538,
   0x59f111f1b605d019, 0x923f82a4af194f9b, 0xab1c5ed5da6d8118, 0xd807aa98a3030242, 0x12835b0145706fbe,
   0x243185be4ee4b28c, 0x550c7dc3d5ffb4e2, 0x72be5d74f27b896f, 0x80deb1fe3b1696b1, 0x9bdc06a725c71235,
   0xc19bf174cf692694, 0xe49b69c19ef14ad2, 0xefbe4786384f25e3, 0x0fc19dc68b8cd5b5, 0x240ca1cc77ac9c65,
   0x2de92c6f592b0275, 0x4a7484aa6ea6e483, 0x5cb0a9dcbd41fbd4, 0x76f988da831153b5, 0x983e5152ee66dfab,
   0xa831c66d2db43210, 0xb00327c898fb213f, 0xbf597fc7beef0ee4, 0xc6e00bf33da88fc2, 0xd5a79147930aa725,
   0x06ca6351e003826f, 0x142929670a0e6e70, 0x27b70a8546d22ffc, 0x2e1b21385c26c926, 0x4d2c6dfc5ac42aed,
   0x53380d139d95b3df, 0x650a73548baf63de, 0x766a0abb3c77b2a8, 0x81c2c92e47edaee6, 0x92722c851482353b]
  ++ [0xa2bfe8a14cf10364, 0xa81a664bbc423001, 0xc24b8b70d0f89791, 0xc76c51a30654be30, 0xd192e819d6ef5218,
   0xd69906245565a910, 0xf40e35855771202a, 0x106aa07032bbd1b8, 0x19a4c116b8d2d0c8, 0x1e376c085141ab53,
   0x2748774cdf8eeb99, 0x34b0bcb5e19b48a8, 0x391c0cb3c5c95a63, 0x4ed8aa4ae3418acb, 0x5b9cca4f7763e373,
   0x682e6ff3d6b2b8a3, 0x748f82ee5defb2fc, 0x78a5636f43172f60, 0x84c87814a1f0ab72, 0x8cc702081a6439ec,
   0x90befffa23631e28, 0xa4506cebde82bde9, 0xbef9a3f7b2c67915, 0xc67178f2e372532b, 0xca273eceea26619c,
   0xd186b8c721c0c207, 0xeada7dd6cde0eb1e, 0xf57d4f7fee6ed178, 0x06f067aa72176fba, 0x0a637dc5a2c898a6,
   0x113f9804bef90dae, 0x1b710b35131c471b, 0x28db77f523047d84, 0x32caab7b40c72493, 0x3c9ebe0a15c9bebc,
   0x431d67c49c100d4c, 0x4cc5d4becb3e42b6, 0x597f299cfc657e2a, 0x5fcb6fab3ad6faec, 0x6c44198c4a475817]

/-- The first 64 bits of the fractional parts of the square roots of the ninth to sixteenth primes. -/
def shaInitial : List Nat :=
  [0xcbbb9d5dc1059ed8, 0x629a292a367cd507, 0x9159015a3070dd17, 0x152fecd8f70e5939, 0x67332667ffc00b31,
   0x8eb44a8768581511, 0xdb0c2e0d64f98fa7, 0x47b5481dbefa4fa4]

/-- The message schedule, newest word first, n words on. -/
def shaSchedule : Nat → List Nat → List Nat
  | 0, w => w
  | n + 1, w =>
    let x := w.getD 14 0
    let y := w.getD 1 0
    let s0 := rotr64 1 x ^^^ rotr64 8 x ^^^ x >>> 7
    let s1 := rotr64 19 y ^^^ rotr64 61 y ^^^ y >>> 6
    shaSchedule n ((s1 + w.getD 6 0 + s0 + w.getD 15 0) % 2 ^ 64 :: w)

/-- One round: the eight working variables, the constant and the word of the schedule. -/
def shaRound (v : List Nat) (kw : Nat × Nat) : List Nat :=
  match v with
  | [a, b, c, d, e, f, g, h] =>
    let s1 := rotr64 14 e ^^^ rotr64 18 e ^^^ rotr64 41 e
    let s0 := rotr64 28 a ^^^ rotr64 34 a ^^^ rotr64 39 a
    let ch := (e &&& f) ^^^ ((2 ^ 64 - 1 - e) &&& g)
    let maj := (a &&& b) ^^^ (a &&& c) ^^^ (b &&& c)
    let t := h + s1 + ch + kw.1 + kw.2
    [(t + s0 + maj) % 2 ^ 64, a, b, c, (d + t) % 2 ^ 64, e, f, g]
  | _ => v

/-- The sixteen words of a block, big-endian. -/
def shaWords (b : List Byte) : List Nat := (List.range 16).map fun i => be b (8 * i) 8

def shaBlock (v : List Nat) (b : List Byte) : List Nat :=
  let w := (shaSchedule 64 (shaWords b).reverse).reverse
  List.zipWith (fun x y => (x + y) % 2 ^ 64) v ((shaConstants.zip w).foldl shaRound v)

/-- The padding of a message: a one bit, zeros, and its length in bits in 16 bytes. -/
def shaPad (b : List Byte) : List Byte :=
  b ++ [0x80] ++ zeros ((239 - b.length % 128) % 128) ++ (leBytes 16 (8 * b.length)).reverse

def shaBlocks : Nat → List Nat → List Byte → List Nat
  | 0, v, _ => v
  | n + 1, v, b => shaBlocks n (shaBlock v (b.take 128)) (b.drop 128)

/-- SHA-384 of a message, as a number of 384 bits. -/
def sha384 (b : List Byte) : Nat :=
  let p := shaPad b
  ((shaBlocks (p.length / 128) shaInitial p).take 6).foldl (fun n x => n * 2 ^ 64 + x) 0

/-! ### P-384 -/

def p384 : Nat := 2 ^ 384 - 2 ^ 128 - 2 ^ 96 + 2 ^ 32 - 1
/-- Order of the base point. -/
def n384 : Nat := 0xffffffffffffffffffffffffffffffffffffffffffffffffc7634d81f4372ddf581a0db248b0a77aecec196accc52973
def b384 : Nat := 0xb3312fa7e23ee7e4988e056be3f82d19181d9c6efe8141120314088f5013875ac656398d8a2ed19d2a85c8edd3ec2aef

/-- A point in Jacobian coordinates; z = 0 at infinity. -/
structure Point where
  x : Nat
  y : Nat
  z : Nat
deriving DecidableEq, Repr

def base384 : Point where
  x := 0xaa87ca22be8b05378eb1c71ef320ad746e1d3b628ba79b9859f741e082542a385502f25dbf55296c3a545e3872760ab7
  y := 0x3617de4a96262c6f5d9e98bf9292dc29f8f41dbd289a147ce9da3113b5f0b8c00a60b1ce1d7e819d7a431d7c90ea0e5f
  z := 1

/-- Difference modulo a prime. -/
def subMod (m a b : Nat) : Nat := (a + (m - b % m)) % m

/-- The bits of a number below 2^384, most significant first. -/
def bits384 (n : Nat) : List Bool := (List.range 384).map fun i => n.testBit (383 - i)

/-- Power modulo m, by the exponent's bits. -/
def powMod (m b : Nat) (e : Nat) : Nat := (bits384 e).foldl (fun r d => if d then r * r % m * b % m else r * r % m) 1

/-- Inverse modulo a prime (Fermat). -/
def invMod (m a : Nat) : Nat := powMod m a (m - 2)

/-- Twice a point of P-384, whose coefficient a is −3. -/
def dbl384 (u : Point) : Point :=
  let d := u.z * u.z % p384
  let g := u.y * u.y % p384
  let b := u.x * g % p384
  let a := 3 * subMod p384 u.x d * (u.x + d) % p384
  let x := subMod p384 (a * a) (8 * b)
  { x := x, y := subMod p384 (a * subMod p384 (4 * b) x) (8 * g * g), z := 2 * u.y * u.z % p384 }

/-- Sum of two points. -/
def add384 (u v : Point) : Point :=
  if u.z = 0 then v
  else if v.z = 0 then u
  else
    let zu := u.z * u.z % p384
    let zv := v.z * v.z % p384
    let xu := u.x * zv % p384
    let xv := v.x * zu % p384
    let yu := u.y * zv * v.z % p384
    let yv := v.y * zu * u.z % p384
    let h := subMod p384 xv xu
    let r := subMod p384 yv yu
    if h = 0 then (if r = 0 then dbl384 u else { x := 1, y := 1, z := 0 })
    else
      let hh := h * h % p384
      let hhh := hh * h % p384
      let w := xu * hh % p384
      let x := subMod p384 (r * r) (hhh + 2 * w)
      { x := x, y := subMod p384 (r * subMod p384 w x) (yu * hhh), z := h * u.z * v.z % p384 }

/-- j times u plus k times v. -/
def mulAdd384 (j k : Nat) (u v : Point) : Point :=
  let both := add384 u v
  ((bits384 j).zip (bits384 k)).foldl (fun r d =>
    let r := dbl384 r
    match d with
    | (true, true) => add384 r both
    | (true, false) => add384 r u
    | (false, true) => add384 r v
    | (false, false) => r) { x := 1, y := 1, z := 0 }

/-- A public key is a point of the curve. -/
def onCurve384 (x y : Nat) : Bool :=
  decide (x < p384) && decide (y < p384) && decide (y * y % p384 = (x * x * x + (p384 - 3) * x + b384) % p384)

/-- The ECDSA signature (r, s) over a message verifies with the public key (x, y). -/
def ecdsaVerifies (x y r s : Nat) (message : List Byte) : Bool :=
  let e := sha384 message
  let w := invMod n384 s
  let u := mulAdd384 (e * w % n384) (r * w % n384) base384 { x := x, y := y, z := 1 }
  decide (0 < r) && decide (r < n384) && decide (0 < s) && decide (s < n384) && onCurve384 x y && decide (u.z ≠ 0)
    && decide (u.x * invMod p384 (u.z * u.z) % p384 % n384 = r)

end Sys2Proof.Machine
end

