-- ==== Sys2Proof/Machine/Images.lean ====
section
/-!
DEFINITION. Images: the header of Table 18-2, the checks of Table 18-3 (R351), the entries of FW_QUERY.
-/
namespace Sys2Proof.Machine
open Sys2Proof

def partBit : Part → Nat
  | .fv216 => 0
  | .fv432 => 1
  | .fv864 => 2

/-- Bytes of a flash slot (Table 18-1). -/
def slotBytes : Nat → Nat
  | 0 | 1 => 32 * 2 ^ 20
  | 2 | 3 => 16 * 2 ^ 20
  | 4 => 40 * 2 ^ 20
  | 5 => 2 ^ 20
  | _ => 2 ^ 16

/-- KIND that fits a flash slot (Table 18-2). -/
def slotKindOf : Nat → Nat
  | 0 | 1 => 2
  | 2 | 3 => 3
  | 4 => 4
  | _ => 1

/-- The reserved bytes of a header are zero; the mirror formats are 0 but for Alfel images. -/
def headerZero (b : List Byte) : Bool :=
  isZero b 6 2 && isZero b 13 1 && isZero b 20 4 && isZero b 272 240 && decide (le b 14 2 < 8)
    && (decide (le b 4 1 = 2) || isZero b 16 4)

/-- SHA-384 of a header's PUBLIC_KEY. -/
def keyDigestOf (header : List Byte) : Nat := sha384 ((header.drop 80).take 96)

/-- A header's SIGNATURE verifies with its PUBLIC_KEY over bytes 0 to 175. -/
def signatureOk (header : List Byte) : Bool :=
  ecdsaVerifies (be header 80 48) (be header 128 48) (be header 176 48) (be header 224 48) (header.take 176)

/-- Result code of an image: 0x1 verified, or the first check of Table 18-3 that fails (R351). -/
def imageResult (s : State) (kind size : Nat) (img : ImageCheck) : Nat :=
  let b := img.header
  if le b 0 4 ≠ 0x5EB71A6E ∨ le b 5 1 ≠ 1 ∨ headerZero b = false then 2
  else if le b 4 1 ≠ kind ∨ bit (le b 14 2) (partBit s.part) = false ∨ size < le b 24 8 + 512 then 3
  else if keyDigestOf b ≠ s.boot.keyDigest then 4
  else if signatureOk b = false then 5
  else if img.payloadOk = false then 6
  else if le b 12 1 < s.boot.rollback then 7
  else if img.readOk = false then 8
  else 1

/-- R351: the result of a golden image: its own header, then the images in its payload. -/
def goldenResult (s : State) (outer : ImageCheck) (parts : List ImageCheck) : Nat :=
  let o := imageResult s 4 (slotBytes 4) outer
  match parts with
  | [micro, alfel] =>
    let m := imageResult s 3 (slotBytes 4) micro
    if o ≠ 1 then o else if m ≠ 1 then m else imageResult s 2 (slotBytes 4) alfel
  | _ => if o ≠ 1 then o else 3

/-- What a read of an area of the flash gives: the image that the device has written there, else the one that the row reads. -/
def areaImage (s : State) (slot copy : Nat) (img : Image) : Image :=
  match tget? s.boot.flashImages (slot * 2 + copy) with
  | none => img
  | some x => { x with
      readOk := img.readOk
      parts := x.parts.zipIdx.map fun (p, i) => { p with readOk := (img.parts[i]?.map (·.readOk)).getD true } }

/-- The same for a copy of the boot configuration. -/
def areaConf (s : State) (copy : Nat) (b : List Byte) : List Byte := tget b s.boot.flashConfs copy

/-- Offset of an area of the flash (Table 18-1). -/
def areaOffset (slot copy : Nat) : Nat :=
  match slot with
  | 0 => 0x3000000
  | 1 => 0x5000000
  | 2 => 0x1000000
  | 3 => 0x2000000
  | 4 => 0x7000000
  | 5 => copy * 0x100000
  | _ => 0x200000 + copy * 0x10000

/-- An area of the flash is read. -/
def readArea (slot copy len : Nat) (s : State) : State := emit (.flashRead (areaOffset slot copy) (min len (slotBytes slot))) s

/-- An image in the flash is read: its header and payload. -/
def readImage (slot copy : Nat) (img : Image) (s : State) : State := readArea slot copy (512 + le img.header 24 8) s

/-- Bytes of a block that the flash erases or programs at once (R359). -/
def flashBlock : Nat := 0x10000

/-- The erasure of an area for `len` bytes begins: the header sector goes first (R358). -/
def eraseHeader (slot copy : Nat) (s : State) : State := emit (.flashErase (areaOffset slot copy) flashBlock) s

/-- `len` bytes are programmed into an area whose header sector is erased, the header sector last, and read again (R358). -/
def programArea (slot copy len : Nat) (s : State) : State :=
  let at_ := areaOffset slot copy
  let rest := len - flashBlock
  let s := if rest = 0 then s else
    emit (.flashProgram (at_ + flashBlock) rest) (emit (.flashErase (at_ + flashBlock) ((rest + flashBlock - 1) / flashBlock * flashBlock)) s)
  readArea slot copy len (emit (.flashProgram at_ (min len flashBlock)) s)

/-- Result of the image in an area of the flash: one whose write was interrupted fails verification (R358, R359). -/
def flashResult (s : State) (slot copy : Nat) (img : Image) : Nat :=
  let img := areaImage s slot copy img
  if s.boot.torn.contains (slot * 2 + copy) || (s.boot.flashWrite.map (·.1) == some slot && decide (slot < 5)) then 2
  else if slot = 4 then goldenResult s img.toImageCheck img.parts
  else imageResult s (slotKindOf slot) (slotBytes slot) img.toImageCheck

/-- The entry that FW_QUERY gives for an image. -/
def imageEntry (result : Nat) (img : ImageCheck) : SlotEntry where
  state := if result = 1 then 1 else 2
  result := result
  version := le img.header 8 4
  security := le img.header 12 1
  mirrorFormat := le img.header 16 2
  mirrorOldest := le img.header 18 2
  payloadLen := le img.header 24 8

/-- The status of a command that finds a failure (R351). -/
def imageStatus (result : Nat) : Status := if result = 7 then .eRollback else .eVerify

/-- The 16 bytes of a slot's entry (Table 18-9). -/
def entryBytes (e : SlotEntry) : List Byte :=
  leBytes 1 e.state ++ leBytes 1 e.result ++ zeros 2 ++ leBytes 4 e.version ++ leBytes 1 e.security ++ zeros 1
    ++ leBytes 2 e.mirrorFormat ++ leBytes 4 e.payloadLen

def modBoot (s : State) (f : BootState → BootState) : State := { s with boot := f s.boot }
def slotOfFlash (s : State) (n : Nat) : SlotEntry := tget {} s.boot.slots n

/-- PKG_BOOT_STATUS reports the result code of a slot (R351, Table 18-7). -/
def noteResult (n result : Nat) (b : BootState) : BootState :=
  match n with
  | 0 => { b with aResult := result }
  | 1 => { b with bResult := result }
  | 2 => { b with m0Result := result }
  | 3 => { b with m1Result := result }
  | 4 => { b with goldenResult := result }
  | _ => b

/-- The check of a slot's contents ends: FW_QUERY and PKG_BOOT_STATUS report it. -/
def setSlot (n : Nat) (e : SlotEntry) (s : State) : State :=
  modBoot s fun b => { noteResult n e.result b with slots := tput b.slots n e }

end Sys2Proof.Machine
end

