-- ==== Sys2Proof/Machine/Redundancy.lean ====
section
/-!
DEFINITION. The pair of command engines (chapter 15): heartbeats, the claim register, arbitration, snapshots, recovery and revert,
and the pair commands.
-/
namespace Sys2Proof.Machine
open Sys2Proof

def engOf (s : State) (e : Nat) : CmdEngine := tget {} s.rd.engines e
def modRd (s : State) (f : RedundState → RedundState) : State := { s with rd := f s.rd }
def modCe (e : Nat) (f : CmdEngine → CmdEngine) (s : State) : State := modRd s fun r => { r with engines := tmod {} r.engines e f }
def peer (e : Nat) : Nat := 1 - e

/-- Third-party arbitration (R307), and the balls as its arbiter. -/
def arbMode (s : State) : Bool := s.boot.conf.arbMode
def arbBalls (s : State) : Bool := arbMode s && decide (s.boot.conf.arbSource = 1)

/-- ENGINE_STATE, raised by engine e on its tile (Table 15-6). -/
def raiseEngine (e kind cause : Nat) (s : State) : State :=
  raise (engineTile s e) 123 (kind + 2 ^ 4 * e + 2 ^ 8 * cause + 2 ^ 16 * (s.rd.takeovers % 65536)) s

/-- The active engine, while it issues. -/
def activeRuns (s : State) : Bool :=
  let x := engOf s s.eng.active
  decide (x.state = .active) && !x.halted

/-- An engine sends heartbeats: it runs, and has not stopped issuing. -/
def engineRuns (s : State) (e : Nat) : Bool :=
  let x := engOf s e
  x.healthy && !x.halted && serving s (engineTile s e)
    && (match x.state with
        | .active | .standby | .copying | .waiting => true
        | _ => false)

/-- The servo holds frequency when the engine that runs it stops, and keeps its state (R306). -/
def holdServo (s : State) : State :=
  if !s.eng.stopped && (s.time.clock == .acquiring || s.time.clock == .locked) then holdFrequency s else s

/-- An engine that stops issuing: no command is taken and no reply is written until another takes over. -/
def silence (s : State) : State := modEng (holdServo s) fun e => { e with stopped := true, quiet := true }

/-- No engine serves any more: one that copied from it has nothing to copy and waits (R317). A CE_STANDBY_RESTART that waits for it
stays unanswered: no engine writes a reply. -/
def strand (e : Nat) (s : State) : State :=
  modCe (peer e) (fun x => if x.state = .copying then { x with state := .waiting, copied := false } else x) s

def haltEngine (e : Nat) (s : State) : State := strand e (silence (modCe e (fun x => { x with halted := true }) s))

/-! ### Arbitration requests (R311) -/

def requestArb (e cause : Nat) (s : State) : State :=
  if !arbMode s then s
  else
    let s' := raiseEngine e 7 cause (modRd s fun r => { r with arbReq := true })
    if arbBalls s && !s.rd.arbReq then emit (.ball 0 false) s' else s'

/-- ARB_REQ_N returns high when the owner is healthy and the heartbeat is present. -/
def clearArb (s : State) : State :=
  let ok := (s.rd.owner.map fun e => engineRuns s e).getD false && (List.range 2).all fun e => (engOf s e).lost.isNone
  if s.rd.arbReq && ok then
    let s' := modRd s fun r => { r with arbReq := false }
    if arbBalls s then emit (.ball 0 true) s' else s'
  else s

/-! ### Leaving and entering states (R318, R321) -/

/-- The command that restarted an engine ends. -/
def endRestart (e : Nat) (a : Answer) (s : State) : State :=
  match (engOf s e).wait with
  | none => s
  | some id => finish id a (modCe e (fun x => { x with wait := none }) s)

/-- Blocks of 100 µs of a self-test pass (R343). -/
def selfTestBlocks : Nat := 3000

/-- An engine enters STANDBY: its continuous self-test is queued (R343). -/
def enterStandby (e : Nat) (s : State) : State :=
  addJob (engineTile s e) .selfTest selfTestBlocks (modCe e (fun x => { x with state := .standby }) s)

/-- An engine leaves STANDBY other than by taking over: STANDBY_LOST, the revert hold ends. -/
def loseStandby (e cause : Nat) (s : State) : State :=
  if (engOf s e).state = .standby then
    let by_ := if serving s (engineTile s e) then e else peer e
    raiseEngine by_ 4 cause (modRd (dropJob (engineTile s e) .selfTest s) fun r => { r with holdSince := none, holdNs32 := 0 })
  else s

/-- An engine restarts from the image it last ran: TESTING (R318); ABSENT while its tile is out. -/
def restartEngine (e : Nat) (s : State) : State :=
  let up := serving s (engineTile s e) && decide (4 < modeCode s.pkg.mode)
  let s := modCe e (fun x => { x with
    state := if up then .testing else .absent, healthy := true, halted := false, copied := false, fails := 0
    beat := none, lost := none, lastTry := none }) s
  modHm s fun h => { h with passes := tput h.passes (8 + e) 0 }

/-- An engine becomes unhealthy (R307, R309, R311, R318). -/
def engineFails (e cause : Nat) (s : State) : State :=
  match (engOf s e).state with
  | .absent | .failed => s
  | .active => requestArb e cause (haltEngine e (modCe e (fun x => { x with healthy := false, cause := cause }) s))
  | .standby => restartEngine e (requestArb e cause (loseStandby e cause (modCe e (fun x => { x with cause := cause }) s)))
  | _ => restartEngine e (requestArb e cause (modCe e (fun x => { x with cause := cause }) s))

/-- The active engine goes on without a standby: SIMPLEX (R313). -/
def goSimplex (cause : Nat) (s : State) : State := if activeRuns s then raiseEngine s.eng.active 9 cause s else s

/-- The tile of an engine enters OUT_OF_SERVICE (R321). -/
def engineTileOut (e : Nat) (s : State) : State :=
  let old := (engOf s e).state
  let s := if old = .standby then goSimplex 7 (loseStandby e 7 s) else s
  let s := modCe e (fun x => { x with state := .absent, cause := 7, beat := none, lost := none, lastTry := none, copied := false }) s
  let s := endRestart e { status := .eState, detail := modeCode s.pkg.mode } s
  if old = .active then strand e (silence s) else s

/-- An image accepts the mirror format of the active engine (R319). -/
def mirrorFits (s : State) (e : Nat) : Bool :=
  let x := (engOf s e).image
  let f := (engOf s s.eng.active).image.mirrorFormat
  decide (x.mirrorOldest ≤ f) && decide (f ≤ x.mirrorFormat)

/-- A healthy engine that is not synchronised: it copies from the active engine, or waits (R317, R318, R319). -/
def seekCopy (e : Nat) (s : State) : State :=
  if activeRuns s && mirrorFits s e then modCe e (fun x => { x with state := .copying, copied := false }) s
  else
    let s' := modCe e (fun x => { x with state := .waiting }) s
    if activeRuns s then endRestart e { status := .eState, detail := modeCode s.pkg.mode } s' else s'

/-- The tile of an engine returns to IN_SERVICE: the engine starts from the image that the active engine runs (R321). -/
def engineTileBack (e : Nat) (s : State) : State :=
  if (engOf s e).state = .absent then
    let a := engOf s s.eng.active
    restartEngine e (modCe e (fun x => { x with slot := a.slot, image := a.image, cause := 7 }) s)
  else s

/-- The revert hold starts while the preferred engine is in STANDBY (R318). -/
def startHold (s : State) : State :=
  let e := s.rd.preferred
  if (engOf s e).state = .standby && !arbMode s then
    modRd s fun r => { r with holdSince := some s.clock, holdNs32 := ns32Of (ns s + r.holdS * 1000 * ms) }
  else modRd s fun r => { r with holdSince := none, holdNs32 := 0 }

/-! ### Heartbeats and the claim register (R307 to R311) -/

/-- R307: every 25 µs each running engine sends a heartbeat to its peer, while both run. -/
def execHeartbeatSend (s : State) : Meaning := .next <|
  if s.clock < s.rd.beatSent + 25 * us then s
  else
    let both := engineRuns s 0 && engineRuns s 1
    let hear (e : Nat) (s : State) : State :=
      modCe e (fun x => { x with beat := some s.clock, lost := none, lastTry := none }) s
    let s := modRd s fun r => { r with beatSent := s.clock }
    if both then clearArb (hear 1 (hear 0 s)) else s

/-- An engine has heard no heartbeat of its peer for 100 µs. -/
def beatMissed (s : State) (e : Nat) : Bool :=
  engineRuns s e && (engOf s e).lost.isNone && ((engOf s e).beat.map fun b => decide (b + 100 * us ≤ s.clock)).getD false

/-- R307: an engine declares heartbeat loss. -/
def execHeartbeatLoss (s : State) : Meaning := .next <|
  (List.range 2).foldl (fun s e =>
    if beatMissed s e then requestArb e 4 (modCe e (fun x => { x with lost := some s.clock }) s) else s) s

/-- R308: the owner renews, every 20 µs; a renewal of an engine that is not the owner fails. -/
def execRenew (s : State) : Meaning := .next <|
  if !activeRuns s || decide (s.clock < s.rd.renewedAt + 20 * us) then s
  else if s.rd.owner = some s.eng.active then modRd s fun r => { r with renewedAt := s.clock, renewFailed := false }
  else modRd s fun r => { r with renewFailed := true }

/-- R309: an unhealthy active engine writes RESIGN, and restarts. -/
def execResign (s : State) : Meaning := .next <|
  let e := s.eng.active
  let x := engOf s e
  if x.state = .active ∧ x.healthy = false ∧ s.rd.owner = some e ∧ arbMode s = false then
    let s := modRd s fun r => { r with owner := none, epoch := r.epoch + 1, resigned := some (s.clock, ns32 s, x.cause) }
    restartEngine e (strand e (raiseEngine e 3 x.cause s))
  else s

/-- OWNER becomes engine e, which is to serve commands (R310, R316). -/
def takeOwner (e kind cause detectedAt : Nat) (detectedNs32 : U32) (dual : Bool) (s : State) : State :=
  let old := s.eng.active
  let s := modRd s fun r => { r with
    owner := some e, epoch := r.epoch + 1, renewedAt := s.clock, renewFailed := false, resigned := none
    dualUntil := if dual then some (s.clock + 80 * us) else none
    dualCount := if dual && decide (r.dualCount ≠ 0xFFFFFFFF) then r.dualCount + 1 else r.dualCount
    takeovers := min 65535 (r.takeovers + 1), planned := none, lastNs32 := detectedNs32, cause := cause
    holdSince := none, holdNs32 := 0, copyingSince := none
    change := some { kind := kind, cause := cause, detectedAt := detectedAt, claimedAt := s.clock } }
  let s := silence (modEng (modCe e (fun x => { x with state := .active, halted := false }) s) fun g => { g with active := e })
  let s := dropJob (engineTile s e) .selfTest s
  let s := if old = e then s
    else if (engOf s old).state = .active then
      if kind = 0 then restartEngine old s else startHold (enterStandby old s)
    else if (engOf s old).state = .waiting then seekCopy old s
    else s
  if dual then raiseEngine e 6 cause s else s

/-- The last renewal is 200 µs old. -/
def claimOpen (s : State) : Bool := s.rd.owner.isNone || decide (s.rd.renewedAt + 200 * us ≤ s.clock)

/-- A standby tries CLAIM: OWNER is none, or 200 µs passed since its heartbeat loss or its last try (R309). -/
def claimDue (s : State) (e : Nat) : Bool :=
  let x := engOf s e
  decide (x.state = .standby) && x.healthy && !arbMode s
    && (s.rd.owner.isNone || (x.lost.map fun d => decide ((x.lastTry.getD d) + 200 * us ≤ s.clock)).getD false)

/-- R308, R309: the standby's CLAIM. -/
def execClaim (s : State) : Meaning := .next <|
  match (List.range 2).find? (claimDue s) with
  | none => s
  | some e =>
    if claimOpen s then
      let lost := (engOf s e).lost.getD s.clock
      let (at_, n, cause) := s.rd.resigned.getD (lost, ns32Of (ns s - (s.clock - lost)), 4)
      takeOwner e 0 cause at_ n s.rd.owner.isSome s
    else modCe e (fun x => { x with lastTry := some s.clock }) s

/-- One change of OWNER with DUAL set: its 80 µs, its count and DUAL_ACTIVE (R310). -/
def dualChange (e cause : Nat) (s : State) : State :=
  raiseEngine e 6 cause (modRd s fun r => { r with
    epoch := r.epoch + 1, dualUntil := some (s.clock + 80 * us)
    dualCount := if r.dualCount ≠ 0xFFFFFFFF then r.dualCount + 1 else r.dualCount })

/-- The arbiter grants an engine (R311): a standby takes over; another engine refuses, and OWNER returns to the previous owner, two
changes of OWNER unless it is the owner that is named. -/
def grant (e : Nat) (s : State) : State :=
  if !arbMode s || decide (1 < e) then s
  else if (engOf s e).state = .standby then takeOwner e 0 5 s.clock (ns32 s) true s
  else
    let s := raiseEngine e 8 5 s
    match s.rd.owner with
    | some o => if o = e then s else dualChange o 5 (dualChange e 5 s)
    | none => s

/-- R311: the home node receives a GRANT that names an engine. -/
def execGrant (engine : Nat) (s : State) : Meaning := .next (grant engine s)

/-- R311: a level of ARB_GNT_N has been stable for 10 µs; the ball is ignored unless the arbiter is the balls. -/
def execArbGntChange (level : Bool) (s : State) : Meaning := .next <|
  if !arbBalls s || s.rd.gnt == level then s
  else grant (if level then 0 else 1) (modRd s fun r => { r with gnt := level })

/-- R324: a write of CE_BOOT_ARB of a port. -/
def execCeBootArbWrite (port : Nat) (value : U32) (s : State) : Meaning := .next <|
  if isMaster s port && arbMode s && decide (s.boot.conf.arbSource = 0) && decide (value.toNat / 65536 = 0x5EB7) then
    grant (value.toNat % 2) s
  else ignoreWrite port s

/-- R310: an active engine stops issuing when its last confirmed renewal is 200 µs old, or a renewal failed. -/
def execRenewalStaleStop (s : State) : Meaning := .next <|
  if activeRuns s && (s.rd.renewFailed || decide (s.rd.renewedAt + 200 * us ≤ s.clock)) then haltEngine s.eng.active s else s

/-- R310: the dual-active window ends. -/
def execDualWindowEnd (s : State) : Meaning := .next <|
  match s.rd.dualUntil with
  | some t => if t ≤ s.clock then modRd s fun r => { r with dualUntil := none } else s
  | none => s

/-! ### Mirroring (R312 to R316) -/

/-- The engine that copies or stands by, if any. -/
def mirrored (s : State) : Bool :=
  match (engOf s (peer s.eng.active)).state with
  | .standby | .copying => true
  | _ => false

/-- The intent of a command is journalled before it executes (R313). -/
def journalOne (x : Intent) (s : State) : State :=
  if mirrored s then modRd s fun r => { r with journal := r.journal ++ [x], journalNew := r.journalNew + 1 } else s

/-- The journal takes no further command (R324). -/
def journalFull (s : State) : Bool := mirrored s && decide (8192 ≤ s.rd.journal.length)

/-- R314: every 1 ms the active engine starts a snapshot epoch. -/
def execSnapshotEpoch (s : State) : Meaning := .next <|
  if activeRuns s && !s.eng.stopped && mirrored s && s.rd.copyingSince.isNone && decide (s.rd.lastStart + ms ≤ s.clock) then
    modRd s fun r => { r with copyingSince := some s.clock, lastStart := s.clock, journalNew := 0 }
  else s

/-- An epoch completes (R314, R318). -/
def completeEpoch (s : State) : State :=
  let s := modRd s fun r => { r with
    snapshot := r.snapshot + 1, copyingSince := none, journal := r.journal.drop (r.journal.length - r.journalNew) }
  modCe (peer s.eng.active) (fun x => { x with copied := x.copied || decide (x.state = .copying) }) s

/-- R314: the copy of the epoch is complete. -/
def execSnapshotEpochComplete (s : State) : Meaning := .next <|
  if s.rd.copyingSince.isSome && mirrored s then completeEpoch s else s

/-- R313: the standby acknowledges nothing for 100 µs. -/
def execJournalAckTimeout (s : State) : Meaning := .next <|
  let a := s.eng.active
  if !activeRuns s || !mirrored s then s
  else if s.rd.owner = some a then
    let s := loseStandby (peer a) 6 (raiseEngine a 9 6 s)
    modCe (peer a) (fun x => { x with state := .copying, copied := false, cause := 6 })
      (modRd s fun r => { r with copyingSince := none })
  else haltEngine a s

/-- The command that ordered a planned change, if one waits. -/
def switchWaits (s : State) : List Nat := (s.eng.waiting.filter fun w => decide (w.op = 0x0C03)).map (·.id)

/-- Commands whose result depends on state that is not mirrored (R312): a planned change waits until they have ended, since it answers
no command with E_OUTCOME_UNKNOWN (R316). -/
def unmirroredRuns (s : State) : Bool := s.eng.waiting.any fun w => w.op == 0x0A40

/-- R316: the owner completes a snapshot epoch and hands over; a change whose target is lost is given up. -/
def execHandover (s : State) : Meaning := .next <|
  match s.rd.planned with
  | none => s
  | some p =>
    if (engOf s p.target).state = .standby then
      if activeRuns s && !unmirroredRuns s then
        let s := modRd s fun r => { r with snapshot := r.snapshot + 1, copyingSince := none, journal := [], journalNew := 0 }
        takeOwner p.target p.kind 0 p.startedAt p.startNs32 false (if p.kind = 1 then bumpPkg s else s)
      else s
    else
      let s := modRd s fun r => { r with planned := none }
      let s := if activeRuns s then modEng s fun e => { e with stopped := false } else s
      (switchWaits s).foldl (fun s id => finish id { status := .eState, detail := modeCode s.pkg.mode } s) s

/-- A planned change begins: the active engine takes no further command (R316). -/
def planChange (kind target : Nat) (s : State) : State :=
  modEng (modRd (holdServo s) fun r => { r with planned := some { kind := kind, target := target, startedAt := s.clock, startNs32 := ns32 s } })
    fun e => { e with stopped := true }

/-! ### Recovery and revert (R318) -/

/-- R318: the start-up self-test of a restarting engine ends. -/
def execStandbySelftestDone (engine : Nat) (pass : Bool) (s : State) : Meaning := .next <|
  let x := engOf s engine
  if x.state ≠ .testing then s
  else if pass then seekCopy engine (modCe engine (fun x => { x with fails := 0 }) s)
  else
  let s := requestArb engine 3 s
  if x.fails < 2 then modCe engine (fun x => { x with fails := x.fails + 1 }) s
  else endRestart engine { status := .eHwFault } (modCe engine (fun x => { x with state := .failed, fails := 3 }) s)

/-- R318: a copying engine has caught up. -/
def execStandbyReady (engine : Nat) (s : State) : Meaning := .next <|
  let x := engOf s engine
  if x.state ≠ .copying ∨ x.copied = false ∨ activeRuns s = false then s
  else
    let s := enterStandby engine s
    let s := raiseEngine engine 5 x.cause s
    let s := if s.rd.preferred = engine then startHold s else s
    endRestart engine { result := leBytes 4 x.image.version ++ [2, 0, 0, 0] } s

/-- R318: the preferred engine has been a healthy standby for REVERT_HOLD_S. -/
def execRevertHoldExpiry (s : State) : Meaning := .next <|
  match s.rd.holdSince with
  | none => s
  | some h =>
    if h + s.rd.holdS * 1000 * ms ≤ s.clock ∧ activeRuns s ∧ s.rd.planned.isNone ∧ s.rd.change.isNone
        ∧ (engOf s s.rd.preferred).state = .standby ∧ s.eng.active ≠ s.rd.preferred then
      planChange 2 s.rd.preferred s
    else s

/-! ### Registers and commands (Table 15-7, Table 15-10, Table 15-11) -/

def engineCode : EngineState → Nat
  | .absent => 0 | .active => 1 | .standby => 2 | .copying => 3 | .testing => 4 | .failed => 5 | .waiting => 6

/-- STATE of an engine: under third-party arbitration an engine that stopped serving and has no grant shows WAITING (Table 15-1). -/
def engineShown (s : State) (e : Nat) : Nat :=
  let x := engOf s e
  if arbMode s && decide (x.state = .active) && x.halted then 6 else engineCode x.state

/-- CE_OWNER (Table 3-14). -/
def ceOwner (s : State) : Nat :=
  s.eng.active + 2 * b2n (decide ((engOf s (peer s.eng.active)).state = .standby) && (engOf s (peer s.eng.active)).healthy)
    + 4 * b2n s.rd.dualUntil.isSome + 8 * b2n (arbMode s) + 2 ^ 16 * s.rd.takeovers

def versionOf (s : State) (e : Nat) : Nat := if (engOf s e).state = .absent then 0 else (engOf s e).image.version

/-- CE_PAIR_STATUS and the registers after it, by word. -/
def pairReg (s : State) : Nat → Nat
  | 0 => engineShown s 0 + 2 ^ 4 * engineShown s 1 + 2 ^ 8 * b2n s.rd.arbReq
      + 2 ^ 9 * b2n s.rd.holdSince.isSome
      + 2 ^ 10 * b2n (activeRuns s && decide ((engOf s (peer s.eng.active)).state ≠ .standby))
  | 1 => s.rd.holdS + 2 ^ 12 * s.rd.preferred + 2 ^ 13 * s.boot.conf.arbSource
  | 2 => s.rd.owner.getD 3 + 2 ^ 16 * s.rd.epoch.toNat
  | 3 => s.rd.holdNs32.toNat
  | 4 => s.rd.lastNs32.toNat
  | 5 => satU 16 s.rd.durationUs + 2 ^ 16 * s.rd.cause
  | 6 => satU 16 s.rd.reexecuted + 2 ^ 16 * satU 16 s.rd.unknown
  | 7 => s.rd.snapshot.toNat
  | 8 => s.rd.journal.length
  | 9 => s.rd.dualCount.toNat
  | 10 => versionOf s 0
  | 11 => versionOf s 1
  | _ => 0

def opCePairQuery : OpDef where
  code := 0x0C01
  query := true
  idem := true
  modes := mSafe
  len := some 0
  room := 48
  act _ s := .done s {
    result := leBytes 4 (ceOwner s) ++ ([0, 1, 2, 10, 11, 3, 4, 5, 6, 7, 8].map fun i => leBytes 4 (pairReg s i)).flatten }

def execCePairQuery (c : Cmd) (s : State) : Meaning := .next (runOp opCePairQuery c s)

def opCePairSet : OpDef where
  code := 0x0C02
  idem := true
  master := true
  cond := true
  modes := mReady
  len := some 4
  room := 4
  bad c _ := [(0, decide (par c 0 2 = 0) || decide (3600 < par c 0 2)), (2, decide (1 < par c 2 1)), (3, !isZero c.params 3 1)]
  act c s :=
    let r := leBytes 2 s.rd.holdS ++ leBytes 1 s.rd.preferred ++ [0]
    if s.rd.holdS = par c 0 2 ∧ s.rd.preferred = par c 2 1 then .done s { result := r }
    else
      let since := s.rd.holdSince
      let same := decide (s.rd.preferred = par c 2 1)
      let s := startHold (bumpPkg (modRd s fun d => { d with holdS := par c 0 2, preferred := par c 2 1 }))
      let back := s.clock - (since.getD s.clock)
      let s := if same && since.isSome then
          modRd s fun d => { d with holdSince := since, holdNs32 := ns32Of (ns s + d.holdS * 1000 * ms - back) }
        else s
      .done s { result := r }

def execCePairSet (c : Cmd) (s : State) : Meaning := .next (runOp opCePairSet c s)

/-- A change of the active engine is under way, or ordered. -/
def pairBusy (s : State) : Bool := s.rd.planned.isSome || s.rd.change.isSome

/-- CE_SWITCHOVER. CE_CONFIG_GEN counts the change at HANDOVER: a change whose target is lost ends with E_STATE and changes nothing
(R10, R325). -/
def opCeSwitchover : OpDef where
  code := 0x0C03
  idem := true
  master := true
  cond := true
  modes := mReady
  len := some 4
  room := 4
  bad c _ := [(0, decide (1 < par c 0 1)), (1, !isZero c.params 1 3)]
  wrong c s := decide (par c 0 1 ≠ s.eng.active) && (arbMode s || decide ((engOf s (par c 0 1)).state ≠ .standby))
  keys c s := if par c 0 1 = s.eng.active then [] else [keyPair]
  busy c s := decide (par c 0 1 ≠ s.eng.active) && pairBusy s
  act c s :=
    if par c 0 1 = s.eng.active then .done s { result := zeros 4 }
    else .wait (planChange 1 (par c 0 1) (addWait 0x0C03 c [keyPair] 4 s))

def execCeSwitchover (c : Cmd) (s : State) : Meaning := .next (runOp opCeSwitchover c s)

/-- The engine that CE_STANDBY_RESTART restarts. -/
def otherEngine (s : State) : CmdEngine := engOf s (peer s.eng.active)

def opCeStandbyRestart (img : Image) : OpDef where
  code := 0x0C04
  master := true
  modes := mReady
  len := some 4
  room := 8
  bad c _ := [(0, decide (2 < par c 0 1)), (1, !isZero c.params 1 3)]
  wrong _ s := decide ((otherEngine s).state = .absent)
  keys _ _ := [keyPair]
  busy _ s := pairBusy s || decide ((otherEngine s).state = .testing) || decide ((otherEngine s).state = .copying)
  act c s :=
    let e := peer s.eng.active
    let a := engOf s s.eng.active
    let slot := if par c 0 1 = 2 then a.slot else par c 0 1
    let result := if par c 0 1 = 2 then 1 else flashResult s slot 0 img
    let img := areaImage s slot 0 img
    let entry := if par c 0 1 = 2 then a.image else imageEntry result img.toImageCheck
    if result ≠ 1 then .fail { status := imageStatus result }
    else
      let s := if par c 0 1 = 2 then s else readImage slot 0 img s
      let s := loseStandby e 0 (addWait 0x0C04 c [keyPair] 8 (bumpPkg s))
      let s := modCe e (fun x => { x with slot := slot, image := entry, cause := 0, wait := some (s.eng.nextWait - 1) }) s
      .wait (restartEngine e s)

def execCeStandbyRestart (c : Cmd) (img : Image) (s : State) : Meaning := .next (runOp (opCeStandbyRestart img) c s)

end Sys2Proof.Machine
end

