-- ==== Sys2Proof/Machine/Health.lean ====
section
/-!
DEFINITION. The health monitor (chapter 17): class C quanta of scrubber and self-test, health reports, and the health commands.
-/
namespace Sys2Proof.Machine
open Sys2Proof

/-! ### Class C quanta (R331, R343) -/

/-- Quanta of a scrub pass: 12 MiB each, over 48 GiB of pages (Table 16-2, R157). -/
def scrubQuanta : Nat := 4096

/-- A tile's scrubber begins a pass. -/
def startScrub (t : Nat) (s : State) : State := addJob t .scrub scrubQuanta (dropJob t .scrub s)

/-- The engine whose self-test runs on a tile. -/
def engineOnTile (s : State) (t : Nat) : Option Nat := (List.range 2).find? fun e => decide (engineTile s e = t)

/-- A pass of unit u (a tile, or 8 + engine) is complete. -/
def passDone (u since : Nat) (s : State) : State :=
  modHm s fun h => { h with passes := tmod 0 h.passes u (· + 1), passMs := tput h.passMs u ((s.clock - since) / ms) }

/-- A block of the standby's self-test fails: the detector fires, and the engine restarts (R318, R343). -/
def selfTestFails (t e : Nat) (injected : Bool) (s : State) : State :=
  let s := modHm s fun h => { h with selftestOk := tput h.selftestOk e false }
  engineFails e 3 (detectorFires t 0x0A injected s)

/-- A block of the standby's self-test ends. -/
def selfTestBlock (t : Nat) (last : Bool) (since : Nat) (s : State) : State :=
  match engineOnTile s t with
  | none => s
  | some e =>
    if 0 < (detOf s t 0x0A).pending then selfTestFails t e true (consumeInjection t 0x0A s)
    else if last then
      let s := passDone (8 + e) since (modHm s fun h => { h with selftestOk := tput h.selftestOk e true })
      addJob t .selfTest selfTestBlocks s
    else s

/-- R331: an admitted quantum runs to its end. -/
def execClassCQuantumDone (tile index : Nat) (s : State) : Meaning := .next <|
  match (govTile s tile).jobs[index]? with
  | none => s
  | some j =>
    if !j.running then s
    else
      let last := !j.endless && decide (j.left ≤ 1)
      let s := modTileGov tile (fun g => { g with
        jobs := if last then g.jobs.eraseIdx index else g.jobs.set index { j with running := false, left := j.left - 1 } }) s
      match j.kind with
      | .eye l =>
        if last then
          { s with lanes := tmod {} s.lanes l fun x => { x with eye := x.eye.map fun e => { e with done := true } } }
        else s
      | .scrub => if last then startScrub tile (scrubTile tile (passDone tile j.since s)) else s
      | .selfTest => selfTestBlock tile last j.since s
      | _ => s

/-! ### Reports (R342, Table 17-3) -/

def tileDets : List Nat := List.range 20

/-- Occurrences of a class in the period. -/
def classCount (s : State) (t cls : Nat) (dets : List Nat) (f : Det → Nat) : Nat :=
  sumOver (fun d => f (detOf s t d)) (dets.filter fun d => decide (detClass d = cls))

def detMask (s : State) (t : Nat) (dets : List Nat) (f : Det → Nat) : Nat :=
  sumOver (fun d => if f (detOf s t d) = 0 then 0 else 2 ^ d) dets

/-- Bytes 12 to 47 of a report. -/
def reportCounts (s : State) (t pass last : Nat) (dets : List Nat) (f : Det → Nat) : List Byte :=
  leBytes 4 (satU 32 (classCount s t 0 dets f)) ++ leBytes 4 (satU 32 (classCount s t 1 dets f))
    ++ leBytes 4 (satU 32 (classCount s t 2 dets f)) ++ leBytes 2 last
    ++ leBytes 2 (unsigned 16 (govTile s t).maxQ3) ++ leBytes 2 (satU 16 (govTile s t).powerDw) ++ zeros 2
    ++ leBytes 4 (tget 0 s.hm.passes pass).toNat ++ leBytes 4 (satU 32 (tget 0 s.hm.passMs pass)) ++ leBytes 8 (detMask s t dets f)

/-- The 64 bytes of a report. -/
def reportBytes (s : State) (kind unit state flags seq : Nat) (counts : List Byte) : List Byte :=
  let b := leBytes 1 kind ++ leBytes 1 unit ++ leBytes 1 state ++ leBytes 1 flags ++ leBytes 4 (ns32 s).toNat
    ++ leBytes 4 seq ++ counts ++ zeros 12
  b ++ leBytes 4 (crc32 b)

def reportFlags (s : State) (uncorrectable : Nat) (selftest : Bool) : Nat :=
  b2n (decide (uncorrectable = 0)) + 2 * b2n selftest + 4 * b2n (decide (s.pkg.mode = .test)) + 8 * b2n s.gov.critical

def tileReport (s : State) (t seq : Nat) : List Byte :=
  reportBytes s 1 t (serviceCode (service s t)) (reportFlags s (classCount s t 2 tileDets (·.period)) false) seq
    (reportCounts s t t (let d := (tget {} s.hm.last t).det; if d = 0xFF then 0xFFFF else d) tileDets (·.period))

def engineReport (s : State) (e seq : Nat) : List Byte :=
  let t := engineTile s e
  reportBytes s 2 e (engineCode (engOf s e).state)
    (reportFlags s (classCount s t 2 engineDets (·.enginePeriod)) (tget false s.hm.selftestOk e)) seq
    (reportCounts s t (8 + e) (tget 0xFFFF s.hm.lastEngine t) engineDets (·.enginePeriod))

/-- Writes one report into the ring of a port, through steady slot 2 of the port's tile (Table 10-2). -/
def writeReport (p : Nat) (bytes : Nat → List Byte) (s : State) : State :=
  let r := tget {} s.hm.rings p
  let at_ := r.base + 64 * (r.seq.toNat % 2 ^ r.slotsLog2)
  let s := leaveRoute (reportProducer p) s
  let s := countBursts p 1 (emit (.write (routeOf s p p) at_ false (bytes r.seq.toNat)) s)
  modHm s fun h => { h with rings := tput h.rings p { r with seq := r.seq + 1 } }

/-- The reports of one batch, to one ring. -/
def writeBatch (s : State) (p : Nat) : State :=
  let r := tget {} s.hm.rings p
  if r.enabled && connected s p then
    let s := ((List.range (tiles s)).filter (serving s)).foldl (fun s t => writeReport p (tileReport s t) s) s
    let s := ((List.range 2).filter fun e => decide ((engOf s e).state ≠ .absent)).foldl (fun s e => writeReport p (engineReport s e) s) s
    if r.irqEn then signalVector (routeOf s p p) p r.vector s else s
  else s

/-- The period of every unit that was reported begins again. -/
def newPeriod (s : State) : State :=
  modHm s fun h => { h with
    lastReport := s.clock
    dets := h.dets.map fun (k, x) =>
      (k, if serving s (k / 32) then { x with period := 0, enginePeriod := 0 } else x) }

/-- R342: every 100 ms. -/
def execHealthReportTimer (s : State) : Meaning := .next <|
  if s.clock < s.hm.lastReport + 100 * ms then s
  else newPeriod ((List.range (tiles s)).foldl writeBatch s)

/-! ### The TEST unlock (R344) -/

/-- The TEST unlock is in force: its deadline has not passed. -/
def unlocked (s : State) : Bool := (s.hm.unlock.map fun u => decide (s.clock < u.2)).getD false

/-- R344: the unlock lapses at its deadline. -/
def execTestUnlockExpiry (s : State) : Meaning := .next <|
  match s.hm.unlock with
  | some (_, t) => if t ≤ s.clock then modHm s fun h => { h with unlock := none } else s
  | none => s

/-- Pending injections of some tiles are discarded (R345). -/
def discardInjections (which : Nat → Bool) (s : State) : State :=
  modHm s fun h => { h with dets := h.dets.map fun (k, x) => (k, if which (k / 32) then { x with pending := 0 } else x) }

/-! ### Commands (Table 17-7, Table 17-8) -/

/-- A detector that a tile does not have (R339). -/
def detAbsent (s : State) (t d : Nat) : Bool := decide (0x13 < d) || ([0x07, 0x08, 0x0A].contains d && (engineOnTile s t).isNone)

def opHmQuery : OpDef where
  code := 0x0E01
  query := true
  idem := true
  modes := mSafe
  len := some 4
  room := 24
  bad c s := [(0, decide (tiles s ≤ par c 0 1)), (1, detAbsent s (par c 0 1) (par c 1 1)), (2, !isZero c.params 2 2)]
  tile c _ := some (par c 0 1)
  wrong c s := decide (service s (par c 0 1) = .outOfService)
  act c s :=
    let t := par c 0 1
    let d := par c 1 1
    let x := detOf s t d
    .done s { result := leBytes 8 x.count.toNat ++ leBytes 4 x.injected.toNat ++ leBytes 2 (perS s t d) ++ leBytes 2 x.pending
      ++ leBytes 4 x.stampNs32.toNat ++ leBytes 1 (detClass d) ++ zeros 3 }

def execHmQuery (c : Cmd) (s : State) : Meaning := .next (runOp opHmQuery c s)

/-- Tiles that a TILE parameter names: one, or every one for 0xFF. -/
def namedTiles (s : State) (t : Nat) : List Nat := if t = 0xFF then List.range (tiles s) else [t]

def opHmThreshSet : OpDef where
  code := 0x0E02
  idem := true
  master := true
  cond := true
  modes := mReady
  len := some 8
  room := 4
  bad c s :=
    [(0, decide (par c 0 1 ≠ 0xFF ∧ tiles s ≤ par c 0 1)),
     (1, if par c 0 1 = 0xFF then decide (0x13 < par c 1 1) else detAbsent s (par c 0 1) (par c 1 1)), (4, !isZero c.params 4 4)]
  act c s :=
    let l := (namedTiles s (par c 0 1)).filter fun t => !detAbsent s t (par c 1 1)
    let old := (l.head?.map fun t => perS s t (par c 1 1)).getD 0
    let same := l.all fun t => decide (perS s t (par c 1 1) = par c 2 2)
    let s' := l.foldl (fun s t => modDet t (par c 1 1) (fun x => { x with perS := some (par c 2 2) }) s) s
    .done (if same then s else bumpPkg s') { result := leBytes 2 old ++ zeros 2 }

def execHmThreshSet (c : Cmd) (s : State) : Meaning := .next (runOp opHmThreshSet c s)

/-- log2 of a power of two from 16 to 4,096. -/
def slotsLog2 (n : Nat) : Nat := ((List.range 13).find? fun k => decide (4 ≤ k ∧ n = 2 ^ k)).getD 0

def opHmReportSet : OpDef where
  code := 0x0E03
  idem := true
  modes := mReady
  len := some 16
  room := 4
  bad c _ := [(8, decide (slotsLog2 (par c 8 2) = 0)), (10, decide (3 < par c 10 1)), (11, !isZero c.params 11 1),
    (12, decide (2047 < par c 12 2)), (14, !isZero c.params 14 2)]
  align c _ := [(0, decide (par c 0 8 % 64 ≠ 0))]
  act c s :=
    let r := tget {} s.hm.rings c.port
    .done (modHm s fun h => { h with rings := tput h.rings c.port { r with
        base := par c 0 8, slotsLog2 := slotsLog2 (par c 8 2), enabled := bit (par c 10 1) 0, irqEn := bit (par c 10 1) 1
        vector := par c 12 2 } })
      { result := leBytes 4 r.seq.toNat }

def execHmReportSet (c : Cmd) (s : State) : Meaning := .next (runOp opHmReportSet c s)

/-- A tile is DRAINING or REJOINING. -/
def tileChanging (s : State) : Bool :=
  (List.range (tiles s)).any fun t => decide (service s t = .draining) || decide (service s t = .rejoining)

def opHmTestUnlock : OpDef where
  code := 0x0E10
  master := true
  modes := 0x20
  len := some 4
  room := 4
  bad c _ := [(0, decide (par c 0 4 ≠ 0x7E575EB7))]
  locked _ s := s.boot.conf.testDisabled
  wrong _ s := tileChanging s
  act _ s :=
    let n := ns32Of (ns s + 10000 * ms)
    .done (modHm s fun h => { h with unlock := some (n, s.clock + 10000 * ms) }) { result := leBytes 4 n.toNat }

def execHmTestUnlock (c : Cmd) (s : State) : Meaning := .next (runOp opHmTestUnlock c s)

/-- Units of a detector (Table 17-2, R344): how many there are. -/
def unitCount (s : State) (t d : Nat) : Nat :=
  if d ≤ 0x01 then (if (engineOnTile s t).isSome then 13 else 12)
  else if d ≤ 0x03 then 64
  else if d = 0x05 ∨ d = 0x06 then 2
  else if d = 0x0B ∨ d = 0x0C then 8
  else if d = 0x0E then 4
  else 1

/-- The link of a tile: unit 0 toward tile + 1, unit 1 toward tile − 1; none where the part has none. -/
def linkNumber (s : State) (t u : Nat) : Option Nat :=
  let l := if u = 0 then t else (t + tiles s - 1) % tiles s
  if t < tiles s ∧ u < 2 ∧ (2 < tiles s ∨ l = 0) then some l else none

/-- Tiles that would lose their path to tile 0 with a link down (R15). -/
def isolatedBy (s : State) (t u : Nat) : List Nat :=
  match linkNumber s t u with
  | none => []
  | some l =>
    let s' := { s with pkg := { s.pkg with linkDown := tput s.pkg.linkDown l true } }
    (List.range (tiles s)).filter fun x => serving s x && (hops s' x 0).isNone

/-- The detector would make an engine unhealthy, or take a tile out of service. -/
def hitsEngine (d unit : Nat) : Bool := d == 0x07 || d == 0x08 || (d == 0x01 && unit == 12)
def hitsTile (d unit : Nat) : Bool := d == 0x09 || (d == 0x01 && unit != 12 && unit != 9)

/-- Tiles that the detector would take out: its own, or those that the link isolates. -/
def tilesHit (s : State) (t d unit : Nat) : List Nat :=
  if hitsTile d unit then [t] else if d = 0x06 then isolatedBy s t unit else []

/-- R345: what an injection may not do. -/
def injectWrong (s : State) (t d unit : Nat) : Bool :=
  let out := tilesHit s t d unit
  let at_ := engineTile s s.eng.active
  decide (service s t ≠ .inService) || out.contains 0 || (decide (d = 0x06) && decide (s.part = .fv216))
    || ((out.contains at_ || (hitsEngine d unit && decide (t = at_))) && decide ((otherEngine s).state ≠ .standby))
    || out.contains s.pkg.masterPort

def opHmInject : OpDef where
  code := 0x0E11
  idem := true
  master := true
  cond := true
  modes := 0x800
  len := some 16
  room := 4
  bad c s :=
    let temp := decide (par c 1 1 = 0x10)
    [(0, decide (tiles s ≤ par c 0 1)), (1, detAbsent s (par c 0 1) (par c 1 1)), (2, decide (1000 < par c 2 2)),
     (4, decide (unitCount s (par c 0 1) (par c 1 1) ≤ par c 4 1)), (5, !isZero c.params 5 3),
     (8, !temp && decide (par c 8 2 ≠ 0)),
     (10, if temp then decide (par c 10 2 = 0) || decide (10000 < par c 10 2) else decide (par c 10 2 ≠ 0)), (12, !isZero c.params 12 4)]
  tile c _ := some (par c 0 1)
  wrong c s := injectWrong s (par c 0 1) (par c 1 1) (par c 4 1)
  act c s :=
    .done (modDet (par c 0 1) (par c 1 1) (fun x => { x with
        pending := par c 2 2, unit := par c 4 1, value := signed 16 (par c 8 2), duration := par c 10 2 }) s)
      { result := leBytes 2 (par c 2 2) ++ zeros 2 }

def execHmInject (c : Cmd) (s : State) : Meaning := .next (runOp opHmInject c s)

/-! ### Registers (Table 17-5, Table 17-6) -/

/-- HM registers of tile t, by block offset / 4. -/
def hmReg (s : State) (t i : Nat) : Nat :=
  let l := tget {} s.hm.last t
  let r := tget {} s.hm.rings t
  match i with
  | 0 => l.det + 2 ^ 8 * (if l.det = 0xFF then 0 else detClass l.det) + 2 ^ 10 * b2n l.injected
  | 1 => l.stampNs32.toNat
  | 2 => if t = 0 then b2n s.boot.conf.testDisabled + 2 * b2n (unlocked s) else 0
  | 3 => if t = 0 ∧ unlocked s then (s.hm.unlock.map fun u => u.1.toNat).getD 0 else 0
  | 4 => r.base % 2 ^ 32
  | 5 => r.base / 2 ^ 32
  | 6 => r.slotsLog2 + 2 ^ 4 * b2n r.enabled + 2 ^ 5 * b2n r.irqEn + 2 ^ 16 * r.vector
  | 7 => r.seq.toNat
  | _ => 0

/-- Registers of a detector window. -/
def detReg (s : State) (t d i : Nat) : Nat :=
  let x := detOf s t d
  match i with
  | 0 => x.count.toNat % 2 ^ 32
  | 1 => x.count.toNat / 2 ^ 32
  | 2 => x.injected.toNat
  | 3 => perS s t d
  | 4 => x.pending + 2 ^ 16 * x.unit
  | 5 => x.stampNs32.toNat
  | _ => 0

end Sys2Proof.Machine
end

