-- ==== Sys2Proof/Machine/Motion.lean ====
section
/-!
DEFINITION. The motion interfaces (chapter 14): counting, speed, index, presets, the compare unit and the compare table, their
task inputs and commands.
-/
namespace Sys2Proof.Machine
open Sys2Proof

def axis (s : State) (i : Nat) : Axis := tget {} s.mo.axes i
def putAxis (i : Nat) (a : Axis) (s : State) : State := { s with mo := { s.mo with axes := tput s.mo.axes i a } }
def modAxis (i : Nat) (f : Axis → Axis) (s : State) : State := putAxis i (f (axis s i)) s

/-- The position counter (R292). -/
def counter (a : Axis) : U32 := BitVec.ofInt 32 a.ext

/-- Compare handle slot of an interface (R296). The handle's index is chosen by R44; `cmpSlot` gives its slot. -/
def cmpSlot? (s : State) (i : Nat) : Option Nat := tget? s.mo.handles i

/-! ### Counting (Table 14-1) -/

/-- The count that a sample gives: old levels (a0, b0), new levels (a1, b1). -/
def sampleCount (mode : Nat) (a0 b0 a1 b1 : Bool) : Int :=
  match mode with
  | 1 => if !a0 && a1 then (if b1 then 1 else -1) else 0
  | 2 => (if !a0 && a1 then 1 else 0) - (if !b0 && b1 then 1 else 0)
  | 3 => if a0 != a1 && b0 == b1 && !b1 then (if a1 then 1 else -1) else 0
  | 4 => if a0 != a1 && b0 != b1 then 0
         else if a0 != a1 then (if a1 != b1 then 1 else -1)
         else if b0 != b1 then (if a1 == b1 then 1 else -1)
         else 0
  | _ => 0

/-- Both inputs of a quadrature mode change in one sample (R290). -/
def quadError (mode : Nat) (a0 b0 a1 b1 : Bool) : Bool := (mode == 3 || mode == 4) && a0 != a1 && b0 != b1

/-! ### Events of an interface (Table 14-2) -/

def raiseMotion (i local_ : Nat) (payload hops : Nat) (s : State) : State :=
  raiseEv (i / 2) (tileSource (i / 2) local_) (ns s) (word payload) hops s

/-- MO_CMP. -/
def raiseCmp (i : Nat) (entry : Nat) (table late last : Bool) (cycle hops : Nat) (s : State) : State :=
  raiseMotion i (118 + i % 2)
    (entry + 2 ^ 10 * b2n table + 2 ^ 11 * b2n late + 2 ^ 12 * b2n last + 2 ^ 13 * (cycle % 2 ^ 19)) hops s

/-- MO_AXIS: 0 CMP_BEHIND, 1 TBL_BEHIND, 2 INDEX, 3 LATCH. -/
def raiseAxis (i kind : Nat) (position : U32) (hops : Nat) (s : State) : State :=
  raiseMotion i (120 + i % 2) (kind + 2 ^ 8 * (position.toNat % 2 ^ 24)) hops s

/-- MO_FAULT, at most once per millisecond (R290). -/
def raiseMoFault (i : Nat) (overspeed : Bool) (s : State) : State :=
  let n := tget 0 s.mo.faults i + 1
  if msPassed s (tget? s.mo.faultAt i) then
    raiseMotion i 122 (i % 2 + 2 * b2n overspeed + 2 ^ 8 * satU 24 n) 0
      { s with mo := { s.mo with faults := tput s.mo.faults i 0, faultAt := tput s.mo.faultAt i s.clock } }
  else { s with mo := { s.mo with faults := tput s.mo.faults i n } }

/-! ### Compare unit and table (R297 to R300) -/

/-- A target lies ahead of a position (R297). -/
def aheadOf (x p : U32) (down : Bool) : Bool :=
  if down then decide (signed 32 (x - p).toNat < 0) else decide (0 < signed 32 (x - p).toNat)

/-- Arms the unit (R298). -/
def armUnit (i : Nat) (g : CmpArm) (hops : Nat) (s : State) : State :=
  let a := axis s i
  let u := { a.cmp with position := g.position, down := g.down, fireBehind := g.fireBehind }
  if aheadOf g.position (counter a) g.down then putAxis i { a with cmp := { u with state := 1 } } s
  else
    let s := raiseAxis i 0 g.position hops s
    if g.fireBehind then
      raiseCmp i 0x3FF false true false 0 hops (putAxis i { a with cmp := { u with state := 3, last := ns32 s } } s)
    else putAxis i { a with cmp := { u with state := 2 } } s

/-- A preset tests an armed unit again (R298). -/
def retestUnit (i hops : Nat) (s : State) : State :=
  let u := (axis s i).cmp
  if u.state = 1 ∨ u.state = 2 then armUnit i { position := u.position, down := u.down, fireBehind := u.fireBehind } hops s
  else s

/-- The target of an entry in a cycle (R299). -/
def tblTarget (t : CmpTable) (entry cycle : Nat) : U32 :=
  let g := BitVec.ofNat 32 (tget 0 t.offsets entry + cycle * t.period)
  if t.down then t.base - g else t.base + g

/-- Entry and cycle after one step, none when the run ends (R299). -/
def tblNext (t : CmpTable) : Option (Nat × Nat) :=
  if t.entry + 1 < t.entries then some (t.entry + 1, t.cycle)
  else if t.period = 0 ∨ (t.cycles ≠ 0 ∧ t.cycles ≤ t.cycle + 1) then none
  else some (0, t.cycle + 1)

/-- First entry from `k`, of `n` entries left, for which `p` holds. -/
def findEntry (p : Nat → Bool) (k : Nat) : Nat → Option Nat
  | 0 => none
  | n + 1 => if p k then some k else findEntry p (k + 1) n

/-- The first target ahead from the present one, and how many are passed (R300): entry, cycle and count; none when the run
ends while skipping, with the count. -/
def tblSkip (t : CmpTable) (p : U32) : Option (Nat × Nat) × Nat :=
  if t.period = 0 then
    match findEntry (fun k => aheadOf (tblTarget t k 0) p t.down) t.entry (t.entries - t.entry) with
    | some k => (some (k, 0), k - t.entry)
    | none => (none, t.entries - t.entry)
  else
    -- the distance by which the present target is behind, in counts of travel
    let d := if t.down then t.target - p else p - t.target
    let g := tget 0 t.offsets t.entry + t.cycle * t.period + d.toNat
    let (k, c) := match findEntry (fun k => decide (g % t.period < tget 0 t.offsets k)) 0 t.entries with
      | some k => (k, g / t.period)
      | none => (0, g / t.period + 1)
    if t.cycles ≠ 0 ∧ t.cycles ≤ c then (none, t.cycles * t.entries - (t.cycle * t.entries + t.entry))
    else (some (k, c), c * t.entries + k - (t.cycle * t.entries + t.entry))

/-- Tests the present target of the table at a start or after a preset (R300). -/
def testTable (i hops : Nat) (s : State) : State :=
  let a := axis s i
  let t := a.tbl
  if aheadOf t.target (counter a) t.down then putAxis i { a with tbl := { t with state := 1 } } s
  else
    let s := raiseAxis i 1 t.target hops s
    if t.skipBehind then
      let (next, n) := tblSkip t (counter a)
      let a := { a with tblSkipped := a.tblSkipped + BitVec.ofNat 64 n }
      match next with
      | some (k, c) => putAxis i { a with tbl := { t with entry := k, cycle := c, target := tblTarget t k c, state := 1 } } s
      | none => putAxis i { a with tbl := { t with state := 3 } } s
    else putAxis i { a with tbl := { t with state := 2 } } s

def tblRuns (t : CmpTable) : Bool := t.state == 1 || t.state == 2

/-- Starts a run (R299). -/
def startTable (i : Nat) (g : TblStart) (hops : Nat) (s : State) : State :=
  let a := axis s i
  let t := { a.tbl with
    base := if g.relative then g.base + counter a else g.base
    period := g.period, entries := g.entries, down := g.down, skipBehind := g.skipBehind, cycles := g.cycles
    entry := 0, cycle := 0, fires := 0, given := some g, state := 1 }
  testTable i hops (putAxis i { a with tbl := { t with target := tblTarget t 0 0 } } s)

/-- A counted edge that takes the counter to `p` is tested against the armed unit (R297, R298). -/
def crossUnit (i : Nat) (up : Bool) (s : State) : State :=
  let a := axis s i
  let u := a.cmp
  if u.state = 1 ∨ u.state = 2 then
    if counter a = u.position ∧ u.down = !up then
      raiseCmp i 0x3FF false false false 0 0 (putAxis i { a with cmp := { u with state := 3, last := ns32 s } } s)
    else putAxis i { a with cmp := { u with state := if aheadOf u.position (counter a) u.down then 1 else 2 } } s
  else s

/-- … and against the running table (R299). -/
def crossTable (i : Nat) (up : Bool) (s : State) : State :=
  let a := axis s i
  let t := a.tbl
  if tblRuns t then
    if counter a = t.target ∧ t.down = !up then
      match tblNext t with
      | some (k, c) =>
        raiseCmp i t.entry true false false t.cycle 0
          (putAxis i { a with tbl := { t with entry := k, cycle := c, target := tblTarget t k c, fires := t.fires + 1, state := 1 } } s)
      | none => raiseCmp i t.entry true false true t.cycle 0 (putAxis i { a with tbl := { t with fires := t.fires + 1, state := 3 } } s)
    else putAxis i { a with tbl := { t with state := if aheadOf t.target (counter a) t.down then 1 else 2 } } s
  else s

/-! ### Presets (R292) and anchors that follow them (R123) -/

/-- Completion and event queues owe a position anchor of the interface before their next entry (R123). -/
def oweAnchors (i : Nat) (s : State) : State :=
  modMv s fun m => { m with queues := m.queues.map fun (q, v) =>
    (q, if v.qtype = .completion ∨ v.qtype = .event then { v with anchorPreset := (v.anchorPreset.filter (· ≠ i)) ++ [i] } else v) }

/-- Sets the counter to a value (R292), then tests the unit and the table again (R298, R300). Bits [63:32] of the extended
position are a free value (log entry 8). -/
def preset (i : Nat) (value : U32) (hops : Nat) (s : State) : State :=
  let high := signed 32 (Config.freePositionHigh s.free).toNat
  let s := oweAnchors i (modAxis i (fun a => { a with ext := (value.toNat : Int) + high * 2 ^ 32 }) (useFree s))
  let s := retestUnit i hops s
  if tblRuns (axis s i).tbl then testTable i hops s else s

/-! ### Speed (R294, R295) -/

/-- Speed at a counted edge from the package times of the edges, newest first, without sign; a free value where no time lies between them
(log entry 7). -/
def edgeSpeed (free : Nat) (avg : Nat) (times : List Nat) : Nat :=
  let n := min avg (times.length - 1)
  if n = 0 then 0
  else
    let dt := times.headD 0 - times.getD n 0
    if dt = 0 then (Config.freeSpeed free).toNat else n * 256 * 1000000000 / dt

/-- STILL as it reads now (R295). -/
def stillNow (s : State) (a : Axis) : Bool :=
  a.still || (match a.lastEdge with | some t => decide (t + a.standstillUs * us ≤ s.clock) | none => true)

/-- The reported speed (R295), signed: now and the last edge in package time. Where a step has set package time before the last edge, the
bound is a free value (log entry 7). -/
def reportedSpeed (s : State) (a : Axis) : Int :=
  if stillNow s a then 0
  else
    let last := a.times.headD 0
    let m := if ns s = last then a.speed
      else min a.speed (if ns s < last then (Config.freeSpeed s.free).toNat else 256 * 1000000000 / (ns s - last))
    if a.dirDown then -(m : Int) else m

/-- A counted edge: counter, speed, direction (R289, R294, R295), then the crossings (R301). -/
def countEdge (i : Nat) (count : Int) (s : State) : State :=
  let a := axis s i
  let up := decide (0 < count) != a.invertDir
  let reversal := a.dirDown == up
  let fast := match a.lastEdge with | some t => decide (s.clock < t + 20) | none => false
  let times := if reversal || stillNow s a then [ns s] else (ns s :: a.times).take 257
  let a' := { a with
    ext := a.ext + (if up then 1 else -1)
    edges := a.edges + 1
    overspeed := a.overspeed + (if fast then 1 else 0)
    times := times
    lastEdge := some s.clock
    speed := edgeSpeed s.free a.avgEdges times
    dirDown := !up
    still := false
    reversed := reversal
    reversals := a.reversals + (if reversal then 1 else 0) }
  let s := putAxis i a' (useFree s)
  let s := if fast then raiseMoFault i true s else s
  crossTable i up (crossUnit i up s)

/-- OA and OB drive (R291): they are high-impedance while PASS is 0, before the boot configuration is applied, while the tile is out of
service and from RESET. -/
def outputsDrive (s : State) (i : Nat) : Bool := (axis s i).pass && serving s (i / 2) && decide (4 ≤ modeCode s.pkg.mode)

/-- OA and OB repeat the levels of A and B at the balls (R291). -/
def passThrough (i : Nat) (s : State) : State :=
  if outputsDrive s i then emit (.motionOut i (axis s i).ballA (axis s i).ballB) s else s

/-- OA and OB begin to drive, or become high-impedance, when a change of settings says so. -/
def changeOutputs (i : Nat) (was : Bool) (s : State) : State :=
  if outputsDrive s i == was then s else if was then emit (.motionReleased i) s else passThrough i s

/-- The outputs of a tile's interfaces become high-impedance. -/
def releaseOutputs (t : Nat) (s : State) : State :=
  [t * 2, t * 2 + 1].foldl (fun s i => if outputsDrive s i then emit (.motionReleased i) s else s) s

/-- Interfaces count from the end of BOOT while their tile serves (R292). -/
def counts (s : State) (i : Nat) : Bool := serving s (i / 2) && decide (4 ≤ modeCode s.pkg.mode)

/-- A level that lasts `lasted` ns is accepted (R290, log entry 87). -/
def accepted (a : Axis) (lasted : Nat) : Bool := decide (2 * a.filterQ2 ≤ lasted)

/-- The level behind the filter when a ball takes level l: l once it is accepted, till then the level before it. -/
def filtered (a : Axis) (before : Bool) (l : BallLevel) : Bool := if accepted a l.lasted then l.high else before

/-- New levels cross the balls A and B: they are repeated; those accepted may be a quadrature error or a count. The count carries the
time of the crossing. -/
def sampleAB (i : Nat) (la lb : BallLevel) (s : State) : State :=
  let a := axis s i
  let a1 := filtered a a.levelA la
  let b1 := filtered a a.levelB lb
  let s := passThrough i (modAxis i (fun a => { a with ballA := la.high, ballB := lb.high }) s)
  let s := modAxis i (fun a => { a with levelA := a1, levelB := b1 }) s
  if !counts s i then s
  else if quadError a.inputMode a.levelA a.levelB a1 b1 then
    raiseMoFault i false (modAxis i (fun a => { a with quadErrors := a.quadErrors + 1 }) s)
  else
    let n := sampleCount a.inputMode a.levelA a.levelB a1 b1
    if n = 0 then s else countEdge i n s

/-- R289: a counted edge of A or B. A sample that counts nothing leaves the counter as it is. -/
def execMotionEdge (mi : Nat) (a b : BallLevel) (s : State) : Meaning := .next (sampleAB mi a b s)

/-- A new level of I crosses the ball: accepted, and of the polarity INDEX_POL, it copies the counter and the time, raises INDEX and
applies INDEX_ACTION (R293). -/
def sampleIndex (i : Nat) (level : BallLevel) (s : State) : State :=
  let a := axis s i
  let s := modAxis i (fun a => { a with ballI := level.high }) s
  if !accepted a level.lasted then s
  else
    let s := modAxis i (fun a => { a with levelI := level.high }) s
    if !counts s i || !a.indexEn || a.levelI == level.high || level.high == a.indexPol then s
    else
      let s := raiseAxis i 2 (counter a) 0 (modAxis i (fun a => { a with idxPos := counter a, idxNs32 := ns32 s }) s)
      if a.indexAction = 2 then preset i a.presetValue 0 s
      else if a.indexAction = 1 && a.idxArmed then modAxis i (fun a => { a with idxArmed := false }) (preset i a.presetValue 0 s)
      else s

/-- R291, R290: levels that are no counted edge are repeated at OA and OB; a change of both A and B in one sample of a quadrature
mode is counted as an error. An index edge among them acts after the count (R293). -/
def execMotionInputLevel (mi : Nat) (a b i : BallLevel) (s : State) : Meaning :=
  .next (sampleIndex mi i (sampleAB mi a b s))

/-- R293: an edge of I. -/
def execIndexEdge (mi : Nat) (level : BallLevel) (s : State) : Meaning := .next (sampleIndex mi level s)

/-- R295: STANDSTILL_US has passed since the last edge: the speed reads 0 and STILL is set. -/
def execStandstillExpiry (mi : Nat) (s : State) : Meaning :=
  let a := axis s mi
  match a.lastEdge with
  | none => .next s
  | some t =>
    if t + a.standstillUs * us ≤ s.clock then .next (putAxis mi { a with still := true, speed := 0, times := [] } s) else .next s

/-- R116: every 64 ns an interface records its counter in a ring of 262,144 entries. -/
def execPositionHistoryRecord (mi : Nat) (s : State) : Meaning :=
  let a := axis s mi
  let t := ns s / 64 * 64
  if counts s mi && decide ((a.history.head?.map (·.1)) ≠ some t) then
    .next (putAxis mi { a with history := ((t, counter a) :: a.history).take 262144 } s)
  else .next s

/-- The counter at the last 64 ns tick at or before a time; none when the history does not reach back to it (R116, R117). -/
def historyAt (a : Axis) (m : Nat) : Option U32 := (a.history.find? fun e => decide (e.1 ≤ m)).map (·.2)

/-! ### Task inputs (Table 14-3) -/

def motionInput (mi base n : Nat) (s : State) (act : Ev → State → State) : State :=
  if serving s (mi / 2) then
    match takeInput (mi / 2) (base + mi % 2) n s with
    | none => s
    | some (e, s) => act e s
  else s

/-- Events that wait at CMP_ARM_i arm the unit with the last POSITION and flags that a command gave (R298, R303). -/
def takeCmpArm (mi n : Nat) (s : State) : State :=
  motionInput mi 768 n s fun e s =>
    match (axis s mi).cmp.given, cmpSlot? s mi with
    | some g, some _ => armUnit mi g e.hops s
    | _, _ => s

/-- R298, R303: an event at CMP_ARM_i. -/
def execCmpArmInput (mi n : Nat) (s : State) : Meaning := .next (takeCmpArm mi n s)

/-- Events that wait at TABLE_START_i repeat the last MO_TBL_START (R299, R303). -/
def takeTableStart (mi n : Nat) (s : State) : State :=
  motionInput mi 770 n s fun e s =>
    match (axis s mi).tbl.given, cmpSlot? s mi with
    | some g, some _ => startTable mi g e.hops s
    | _, _ => s

/-- R299, R303: an event at TABLE_START_i. -/
def execTableStartInput (mi n : Nat) (s : State) : Meaning := .next (takeTableStart mi n s)

/-- Events that wait at PRESET_i preset the counter to PRESET_VALUE (R292). -/
def takePreset (mi n : Nat) (s : State) : State := motionInput mi 772 n s fun e s => preset mi (axis s mi).presetValue e.hops s

/-- R292: an event at PRESET_i. -/
def execPresetInput (mi n : Nat) (s : State) : Meaning := .next (takePreset mi n s)

/-- R303: an event at LATCH_i copies the counter and its time and raises MO_AXIS with kind LATCH. -/
def execLatchInput (mi n : Nat) (s : State) : Meaning :=
  .next (motionInput mi 774 n s fun e s =>
    raiseAxis mi 3 (counter (axis s mi)) e.hops
      (modAxis mi (fun a => { a with latchPos := counter a, latchNs32 := ns32 s }) s))

/-- The presets, arms and starts that wait at an interface act before a command on it (R55, R301). -/
def inputsFirst (mi : Nat) (s : State) : State :=
  let n (base : Nat) : Nat := eventsWaiting s (mi / 2) (base + mi % 2)
  takeTableStart mi (n 770) (takeCmpArm mi (n 768) (takePreset mi (n 772) s))

/-! ### Registers (Table 14-5) -/

/-- Index input level, B and A in MO_STATUS, with DIR, STILL, REVERSED and IDX_ARMED. -/
def axisStatus (s : State) (a : Axis) : Nat :=
  b2n a.dirDown + 2 * b2n (stillNow s a) + 4 * b2n a.reversed + 8 * b2n a.idxArmed + 16 * b2n a.ballA + 32 * b2n a.ballB
    + 64 * b2n a.ballI

def moBlock (i : Nat) : Nat := 0x0800000 + i / 2 * 0x0800000 + 0x580000 + 0x1000 + i % 2 * 0x100

/-- R304: a read of MO_POS_i captures the counter, its stamp, the speed and the status for the reading port. -/
def execMoPosRead (port mi : Nat) (s : State) : Meaning :=
  let a := axis s mi
  let b := moBlock mi
  let v := unsigned 64 (reportedSpeed s a)
  let s' := capture port (b + 0x18) (ns32 s).toNat s
  let s' := capture port (b + 0x1C) v s'
  let s' := capture port (b + 0x20) (v / 2 ^ 32) s'
  let s' := capture port (b + 0x24) (axisStatus s a) s'
  .next (emit (.completion port (counter a).toNat) (capture port (b + 0x14) (counter a).toNat s'))

/-- Bytes 0 to 23 of the MO_CONFIG layout. -/
def axisLayout (i : Nat) (a : Axis) : List Byte :=
  leBytes 1 i ++ leBytes 1 a.inputMode
    ++ leBytes 1 (b2n a.invertDir + 2 * b2n a.indexEn + 4 * b2n a.indexPol + 8 * b2n a.pass)
    ++ leBytes 1 a.indexAction ++ leBytes 2 a.filterQ2 ++ leBytes 2 a.avgEdges ++ leBytes 4 a.standstillUs
    ++ leBytes 4 a.presetValue.toNat ++ zeros 8

/-- Offsets 0x40 to 0x6F of the interface window. -/
def cmpWindow (s : State) (i : Nat) : List Byte :=
  let a := axis s i
  let u := a.cmp
  let t := a.tbl
  let k := cmpSlot? s i
  let live := k.isSome
  let owner := ((k.bind (obj? s)).map (·.owner)).getD 0
  leBytes 4 u.position.toNat ++ leBytes 4 (u.state + 4 * b2n u.down + 8 * b2n u.fireBehind + 16 * b2n live + 32 * owner)
    ++ leBytes 4 u.last.toNat ++ leBytes 4 ((k.map (handleOf s)).getD 0)
    ++ leBytes 4 t.base.toNat ++ leBytes 4 t.period
    ++ leBytes 4 (t.entries + 2 ^ 11 * b2n t.down + 2 ^ 12 * b2n t.skipBehind + 2 ^ 13 * t.state)
    ++ leBytes 4 t.entry ++ leBytes 4 t.cycle ++ leBytes 4 t.cycles ++ leBytes 4 t.target.toNat ++ leBytes 4 t.fires.toNat

/-! ### Commands (Table 14-7, Table 14-8) -/

def noAxis (s : State) (i : Nat) : Bool := decide (tiles s * 2 ≤ i)

def isPow2 (n : Nat) : Bool := decide (n ≠ 0) && decide (2 ^ Nat.log2 n = n)

/-- Checks of a MO_CONFIG layout, by offset (also of the boot configuration, R355). -/
def axisBad (s : State) (p : List Byte) : List (Nat × Bool) :=
  [(0, noAxis s (le p 0 1)), (1, decide (4 < le p 1 1)), (2, decide (16 ≤ le p 2 1)), (3, decide (2 < le p 3 1)),
   (4, decide (1000 < le p 4 2)), (6, !isPow2 (le p 6 2) || decide (256 < le p 6 2)),
   (8, decide (le p 8 4 < 1000) || decide (1000000 < le p 8 4))]

/-- The settings of a MO_CONFIG layout taken over (R289: the counter stands). -/
def axisSet (p : List Byte) (a : Axis) : Axis :=
  { a with
    inputMode := le p 1 1, invertDir := bit (le p 2 1) 0, indexEn := bit (le p 2 1) 1, indexPol := bit (le p 2 1) 2
    pass := bit (le p 2 1) 3, indexAction := le p 3 1, filterQ2 := le p 4 2, avgEdges := le p 6 2
    standstillUs := le p 8 4, presetValue := word (le p 12 4), idxArmed := decide (le p 3 1 = 1) }

def moTile (c : Cmd) (_ : State) : Option Nat := some (par c 0 1 / 2)
def moIdle (c : Cmd) (s : State) : Bool := !serving s (par c 0 1 / 2)

def opMoConfig : OpDef where
  code := 0x0B01
  idem := true
  master := true
  cond := true
  modes := mReady
  len := some 24
  bad c s := axisBad s c.params ++ [(16, !isZero c.params 16 8)]
  tile := moTile
  first c s := inputsFirst (par c 0 1) s
  wrong := moIdle
  busy c s :=
    let a := axis s (par c 0 1)
    (decide (par c 1 1 ≠ a.inputMode) || bit (par c 2 1) 0 != a.invertDir)
      && (a.cmp.state == 1 || a.cmp.state == 2 || tblRuns a.tbl)
  act c s :=
    let a := axis s (par c 0 1)
    let i := par c 0 1
    let s' := changeOutputs i (outputsDrive s i) (modAxis i (axisSet c.params) s)
    .done (if { axisSet c.params a with idxArmed := a.idxArmed } = a then s' else bumpPkg s') {}

def execMoConfig (c : Cmd) (s : State) : Meaning := .next (runOp opMoConfig c s)

def opMoQuery : OpDef where
  code := 0x0B02
  query := true
  idem := true
  modes := mSafe
  len := some 4
  room := 48
  bad c s := [(0, noAxis s (par c 0 1)), (1, !isZero c.params 1 3)]
  tile := moTile
  wrong := moIdle
  act c s :=
    let a := axis s (par c 0 1)
    .done s { result := axisLayout (par c 0 1) a ++ leBytes 4 (counter a).toNat ++ leBytes 4 (ns32 s).toNat
        ++ leBytes 8 (unsigned 64 (reportedSpeed s a)) ++ leBytes 4 (axisStatus s a) ++ zeros 4 }

def execMoQuery (c : Cmd) (s : State) : Meaning := .next (runOp opMoQuery c s)

def opMoPreset : OpDef where
  code := 0x0B03
  master := true
  cond := true
  modes := mReady
  len := some 8
  room := 8
  bad c s := [(0, noAxis s (par c 0 1)), (1, !isZero c.params 1 3)]
  tile := moTile
  first c s := inputsFirst (par c 0 1) s
  wrong := moIdle
  act c s :=
    let i := par c 0 1
    .done (bumpPkg (preset i (word (par c 4 4)) 0 s))
      { result := leBytes 4 (counter (axis s i)).toNat ++ leBytes 4 (ns32 s).toNat }

def execMoPreset (c : Cmd) (s : State) : Meaning := .next (runOp opMoPreset c s)

/-- Slots of compare handles that are taken on a tile. -/
def opMoCmpCreate : OpDef where
  code := 0x0B10
  modes := mReady
  len := some 4
  bad c s := [(0, noAxis s (par c 0 1)), (1, !isZero c.params 1 3)]
  tile := moTile
  wrong := moIdle
  busy c s := (cmpSlot? s (par c 0 1)).isSome
  short c s := (freeIndex s 5 (par c 0 1 / 2) 0 2).isNone
  act c s :=
    let i := par c 0 1
    let k := slotOf 5 (i / 2) ((freeIndex s 5 (i / 2) 0 2).getD 0)
    let s := createObj k c.port s
    .done { s with mo := { s.mo with handles := tput s.mo.handles i k } } { handle := some (handleOf s k) }

def execMoCmpCreate (c : Cmd) (s : State) : Meaning := .next (runOp opMoCmpCreate c s)

/-- The interface whose compare unit a handle slot gives. -/
def cmpAxis (s : State) (k : Nat) : Nat := ((s.mo.handles.find? (·.2 = k)).map (·.1)).getD 0

def cmpOff (c : Cmd) (s : State) : Bool :=
  !serving s (handleTile (tgt c)) || (axis s (cmpAxis s (tslot c))).inputMode == 0

def cmpIdle (c : Cmd) (s : State) : Bool := !serving s (handleTile (tgt c))

def opMoCmpArm : OpDef where
  code := 0x0B11
  cond := true
  modes := mReady
  kinds := [5]
  len := some 8
  room := 8
  bad c _ := [(4, decide (4 ≤ par c 4 1)), (5, !isZero c.params 5 3)]
  first c s := inputsFirst (cmpAxis s (tslot c)) s
  wrong := cmpOff
  act c s :=
    let i := cmpAxis s (tslot c)
    let g : CmpArm := { position := word (par c 0 4), down := bit (par c 4 1) 0, fireBehind := bit (par c 4 1) 1 }
    let s := armUnit i g 0 (modAxis i (fun a => { a with cmp := { a.cmp with given := some g } }) s)
    let s := bumpObj (tslot c) s
    .done s { result := leBytes 1 (axis s i).cmp.state ++ zeros 3 ++ leBytes 4 (counter (axis s i)).toNat }

def execMoCmpArm (c : Cmd) (s : State) : Meaning := .next (runOp opMoCmpArm c s)

def opMoCmpDisarm : OpDef where
  code := 0x0B12
  idem := true
  cond := true
  modes := mReady
  kinds := [5]
  len := some 0
  first c s := inputsFirst (cmpAxis s (tslot c)) s
  wrong := cmpIdle
  act c s :=
    let i := cmpAxis s (tslot c)
    let u := (axis s i).cmp
    if u.state = 1 ∨ u.state = 2 then
      .done (bumpObj (tslot c) (modAxis i (fun a => { a with cmp := { a.cmp with state := 0 } }) s)) {}
    else .done s {}

def execMoCmpDisarm (c : Cmd) (s : State) : Meaning := .next (runOp opMoCmpDisarm c s)

/-- Offsets of a MO_TBL_LOAD put into the table from entry `first`. -/
def loadOffsets (p : List Byte) (first : Nat) : Nat → Tab Nat → Tab Nat
  | 0, t => t
  | n + 1, t => loadOffsets p first n (tput t (first + n) (le p (8 + 4 * n) 4))

def opMoTblLoad : OpDef where
  code := 0x0B13
  idem := true
  cond := true
  modes := mReady
  kinds := [5]
  lenBad c := decide (c.params.length ≠ 8 + 4 * par c 2 2)
  bad c _ :=
    [(2, decide (par c 2 2 = 0) || decide (1022 < par c 2 2) || decide (1024 < par c 0 2 + par c 2 2)),
     (4, !isZero c.params 4 4)]
  first c s := inputsFirst (cmpAxis s (tslot c)) s
  wrong := cmpIdle
  busy c s := tblRuns (axis s (cmpAxis s (tslot c))).tbl
  act c s :=
    let i := cmpAxis s (tslot c)
    let old := (axis s i).tbl.offsets
    let new := loadOffsets c.params (par c 0 2) (par c 2 2) old
    let s' := modAxis i (fun a => { a with tbl := { a.tbl with offsets := new } }) s
    .done (if new = old then s' else bumpObj (tslot c) s') {}

def execMoTblLoad (c : Cmd) (s : State) : Meaning := .next (runOp opMoTblLoad c s)

/-- OFFSET[0] to OFFSET[n - 1] rise strictly (R299). -/
def offsetsRise (t : CmpTable) : Nat → Bool
  | 0 => true
  | 1 => true
  | n + 2 => decide (tget 0 t.offsets n < tget 0 t.offsets (n + 1)) && offsetsRise t (n + 1)

def tblStartOf (c : Cmd) : TblStart where
  base := word (par c 0 4)
  period := par c 4 4
  entries := par c 8 2
  down := bit (par c 10 1) 0
  skipBehind := bit (par c 10 1) 1
  relative := bit (par c 10 1) 2
  cycles := par c 12 4

def opMoTblStart : OpDef where
  code := 0x0B14
  cond := true
  modes := mReady
  kinds := [5]
  len := some 24
  room := 12
  bad c s :=
    let t := (axis s (cmpAxis s (tslot c))).tbl
    let n := par c 8 2
    [(4, decide (2 ^ 31 ≤ par c 4 4)),
     (8, decide (n = 0) || decide (1024 < n) || !offsetsRise t n
        || (decide (par c 4 4 ≠ 0) && decide (par c 4 4 ≤ tget 0 t.offsets (n - 1)))),
     (10, decide (8 ≤ par c 10 1)), (11, !isZero c.params 11 1),
     (12, decide (par c 4 4 = 0) && decide (par c 12 4 ≠ 0)), (16, !isZero c.params 16 8)]
  first c s := inputsFirst (cmpAxis s (tslot c)) s
  wrong := cmpOff
  act c s :=
    let i := cmpAxis s (tslot c)
    let before := (axis s i).tblSkipped
    let s := bumpObj (tslot c) (startTable i (tblStartOf c) 0 s)
    let a := axis s i
    .done s { result := leBytes 4 a.tbl.target.toNat ++ leBytes 4 (a.tblSkipped - before).toNat ++ leBytes 1 a.tbl.state ++ zeros 3 }

def execMoTblStart (c : Cmd) (s : State) : Meaning := .next (runOp opMoTblStart c s)

def opMoTblStop : OpDef where
  code := 0x0B15
  idem := true
  cond := true
  modes := mReady
  kinds := [5]
  len := some 0
  room := 8
  first c s := inputsFirst (cmpAxis s (tslot c)) s
  wrong := cmpIdle
  act c s :=
    let i := cmpAxis s (tslot c)
    let t := (axis s i).tbl
    let r : Answer := { result := leBytes 4 t.fires.toNat ++ leBytes 4 t.cycle }
    if tblRuns t then .done (bumpObj (tslot c) (modAxis i (fun a => { a with tbl := { a.tbl with state := 0 } }) s)) r
    else .done s r

def execMoTblStop (c : Cmd) (s : State) : Meaning := .next (runOp opMoTblStop c s)

def opMoCmpQuery : OpDef where
  code := 0x0B16
  query := true
  idem := true
  modes := mSafe
  kinds := [5]
  len := some 0
  room := 48
  wrong := cmpIdle
  act c s := .done s { result := cmpWindow s (cmpAxis s (tslot c)) }

def execMoCmpQuery (c : Cmd) (s : State) : Meaning := .next (runOp opMoCmpQuery c s)

/-- R296: destruction by any means disarms the unit and stops the table. -/
def clearCompare (k : Nat) (s : State) : State :=
  let i := cmpAxis s k
  let s := modAxis i (fun a => { a with
    cmp := { a.cmp with state := 0, given := none }
    tbl := { a.tbl with state := 0, given := none } }) s
  { s with mo := { s.mo with handles := tdel s.mo.handles i } }

end Sys2Proof.Machine
end

