-- ==== Sys2Proof/Machine/Handles.lean ====
section
/-!
DEFINITION. Destruction of objects (R45 to R47), ownership, orphans and adoption (R48 to R51), and the destroy commands of the
chapters.
-/
namespace Sys2Proof.Machine
open Sys2Proof

/-! ### Who refers to an object (R46) -/

/-- Slots of live routes that subscribe an input which stands for the object of a slot (R274). -/
def subscribers (s : State) (k : Nat) : List Nat :=
  s.ev.routes.filterMap fun (n, r) =>
    match r.form with
    | .toInput i => if !r.cleared && inputObject s (n / 4096) i == some k then some (slotOf 4 (n / 4096) (n % 4096)) else none
    | _ => none

/-- A channel's configuration names a queue. -/
def namesQueue (h : Nat) (c : Channel) : Bool :=
  c.live && [c.shadow, c.active, c.sent].any fun x => x.layout.bufQueue == h || x.layout.cplQueue == h

/-- Slots of the objects that refer to the object of a slot, kinds descending. -/
def referrers (s : State) (k : Nat) : List Nat :=
  let h := handleOf s k
  let g := slotTile k * 64 + slotIndex k
  match slotKind k with
  | 1 =>
    (s.ad.refs.filterMap fun (n, r) => if r.channel = g then some (slotOf 9 (n / 64) (n % 64)) else none)
      ++ (s.ad.rules.filterMap fun (n, r) => if r.channel = g then some (slotOf 8 (n / 512) (n % 512)) else none)
      ++ subscribers s k ++ ((activeSeg s g).map fun x => segSlot x.1).toList
  | 2 =>
    (s.mv.queues.filterMap fun (q, v) =>
      if v.notify = h || (v.qtype == .command && decide (q + 8 = slotTile k * 2048 + slotIndex k)) then some (queueSlot q) else none)
      ++ routesTo s (slotTile k) (.toQueue (slotTile k * 2048 + slotIndex k))
      ++ (s.st.channels.filterMap fun (g, c) => if namesQueue h c then some (chanSlot g) else none)
  | 5 | 7 => subscribers s k
  | 6 => routesTo s (slotTile k) (.toInput (slotIndex k))
  | 9 => if refNamed s h then ((tget? s.ad.refs g).map fun r => chanSlot r.channel).toList else []
  | _ => []

/-! ### Destruction of one object (R45 to R47) -/

/-- A frame's live delivery goes with its channel or queue (R218). -/
def abandonFrame (g : Nat) (s : State) (seq : U64) : State := modFrame g seq (fun f => { f with delivered := true }) (abandonLive g seq s)

/-- Commands that wait for a commit of a channel that is destroyed answer without FIRST_FRAME. -/
def endCommits (g : Nat) (s : State) : State :=
  (channelOf s g).commits.foldl (fun s p =>
    match p.wait with
    | some id => finish id { gen := some (p.gen.getD p.set.gen), handle := p.handle, late := p.late, result := p.result } s
    | none => s) s

/-- Skew runs and their jobs that pair with a channel (R284). -/
def endPairing (g : Nat) (s : State) : State :=
  let s := (s.ev.skew.filter fun (_, r) => decide (r.channel = g)).foldl (fun s (p, _) => dropSkew p (some { status := .eState, detail := modeCode s.pkg.mode }) s) s
  modGov s fun v => { v with tiles := v.tiles.map fun (t, x) => (t, { x with jobs := x.jobs.filter fun j =>
    match j.kind with
    | .skew _ c _ => decide (c ≠ g)
    | _ => true }) }

/-- Positions that the open blocks of a channel still miss, which its destruction gives up (Table 5-3): a trailer that is not known
counts as one (R93). -/
def missingOf (c : Channel) : Nat :=
  (c.blocks.map fun b => (missingBelow b (revealTo c b)).length + b2n (trailerOf (blockSet c b) b).isNone).foldl (· + ·) 0

/-- A stream channel ends (R108): blocks and frames are discarded, its ring's pages are free. -/
def destroyChannel (k : Nat) (s : State) : State :=
  let g := slotTile k * 64 + slotIndex k
  let c := channelOf s g
  let s := if c.blocks.isEmpty && c.frames.all (·.closed) then s else raiseChan g 53 0 s
  let s := (c.frames.map (·.seq)).foldl (abandonFrame g) s
  let s := dropSample g (some { status := .eState, detail := modeCode s.pkg.mode }) (endPairing g (endCommits g s))
  let s := countChannel g (fun x => { x with packetsMissing := x.packetsMissing + BitVec.ofNat 64 (missingOf c) }) s
  let s := modChannel g (fun c => { c with live := false, blocks := [], frames := [], commits := [], staging := false })
    (keepSlices g (handleOf s k) s)
  let s := modRing g (fun r => { r with frames := [], pages := 0, target := 0, short := false, overTarget := false, writing := false }) s
  dropObj k (refillShort (g / 64) s)

/-- Clears a queue's handle in a channel's configuration (R47). -/
def clearQueueIn (h : Nat) (c : Channel) : Channel :=
  let y (l : Layout) : Layout := { l with bufQueue := if l.bufQueue = h then 0 else l.bufQueue, cplQueue := if l.cplQueue = h then 0 else l.cplQueue }
  let x (e : ChanSet) : ChanSet := { e with layout := y e.layout }
  { c with shadow := x c.shadow, active := x c.active, sent := x c.sent, commits := c.commits.map fun p => { p with set := x p.set } }

def clearRoute (q : Nat) (r : Route) : Route := if r.form = .toQueue q then { r with cleared := true } else r
def clearNotify (h : Nat) (v : Queue) : Queue := if v.notify = h then { v with notify := 0 } else v
def clearMgmt (h : Nat) (l : Lane) : Lane := { l with rxq := if l.rxq = h then 0 else l.rxq, txq := if l.txq = h then 0 else l.txq }

/-- Every reference to a queue is cleared (R46, R47, R73). -/
def clearQueueRefs (q : Nat) (s : State) : State :=
  let h := handleOf s (queueSlot q)
  { s with
    st := { s.st with channels := s.st.channels.map fun (g, c) => (g, clearQueueIn h c) }
    mv := { s.mv with queues := s.mv.queues.map fun (n, v) => (n, clearNotify h v), mgmt := s.mv.mgmt.filter fun m => decide (m.queue ≠ q) }
    ev := { s.ev with routes := s.ev.routes.map fun (n, r) => (n, clearRoute q r), retired := s.ev.retired.map fun (n, r) => (n, clearRoute q r) }
    lanes := s.lanes.map fun (l, x) => (l, clearMgmt h x) }

/-- Readouts, live deliveries and raw runs that use a queue (R172, R206, R218). -/
def stopUsers (q : Nat) (s : State) : State :=
  let h := handleOf s (queueSlot q)
  let s := s.fs.readouts.foldl (fun s (k, r) =>
    if r.cpl = h then closeReadout k 3 s else if r.buf = h then endReadout k 3 s else s) s
  let s := (s.mv.deliveries.filter fun d => d.segment = 0 && (d.bufQueue = q || d.cplQueue = q)).foldl (fun s d =>
    sweepFrames (d.tile * 64 + d.channel) (abandonFrame (d.tile * 64 + d.channel) s d.frame)) s
  (s.mv.chans.filter fun (_, c) => c.raw && c.run.statusEn && decide (c.run.statusq = h)).foldl (fun s (g, _) => abortRun g 4 s) s

/-- What the entries that wait in a queue would have let go goes without them. -/
def releaseEntries (q : Nat) (s : State) : State :=
  match queue? s q with
  | none => s
  | some v => v.pendingEntries.foldl (fun s e =>
      match e.after with
      | .delivered k => closeReadout k 3 s
      | a => afterEntry a s) (putQueue q { v with pendingEntries := [] } s)

/-- A queue ends. -/
def removeQueue (q : Nat) (s : State) : State :=
  let s := releaseEntries q (stopUsers q s)
  let s := clearQueueRefs q s
  let s := modMv s fun m => { m with queues := tdel m.queues q }
  dropObj (queueSlot q) s

/-- Whether a reply queue still has its command queue. -/
def pairedReply (q : Nat) (s : State) : Bool :=
  match queue? s q, queue? s (q - 8) with
  | some v, some w => v.qtype == .reply && 8 ≤ q && w.qtype == .command
  | _, _ => false

/-- A queue is destroyed; a command queue goes with its reply queue (R46, R221). -/
def destroyQueue (k : Nat) (s : State) : State :=
  let q := slotTile k * 2048 + slotIndex k
  let s := if pairedReply q s then removeQueue (q - 8) s else s
  removeQueue q s

/-- A scheduled output stops, its pin idle (R264). -/
def destroySched (k : Nat) (s : State) : State :=
  let n := slotTile k * 8 + slotIndex k
  let o := schedOf s n
  let s := match schedPin n o with
    | some p => idlePin p (modPin p (fun x => { x with driver := none }) s)
    | none => s
  dropObj k (modSched n (fun o => { o with state := 0, trains := [] }) s)

/-- A reservation ends at once; commands that waited for its run answer (R46). -/
def destroyReservation (k : Nat) (s : State) : State :=
  let c := chanOf s (slotTile k * 512 + slotIndex k)
  let s := finishAll c.waits { result := leBytes 4 (c.run.count - c.moved) } s
  let s := (c.release.map fun id => finish id {} s).getD s
  freeReservation k s

/-- A reference frame ends, with the capture into it. -/
def destroyReference (k : Nat) (s : State) : State :=
  destroyRef k (dropCapture (slotTile k * 64 + slotIndex k) (some { status := .eState, detail := modeCode s.pkg.mode }) s)

/-- A segment ends, with the readout of it (R169, R176). -/
def destroySegment (k : Nat) (s : State) : State :=
  let n := slotTile k * 16384 + slotIndex k
  dropSegment n (closeReadout n 3 s)

/-- The object of a slot is destroyed. -/
def destroyOne (k : Nat) (s : State) : State :=
  match slotKind k with
  | 1 => destroyChannel k s
  | 2 => destroyQueue k s
  | 3 => destroySegment k s
  | 4 => destroyRoute k s
  | 5 => dropObj k (clearCompare k s)
  | 6 => destroyReservation k s
  | 7 => destroySched k s
  | 8 => destroyRule k s
  | 9 => destroyReference k s
  | _ => s

/-- Event actions at the object of a destroying command that take effect at the same edge (R55). -/
def destroyFirst (c : Cmd) (s : State) : State :=
  let kind := slotKind (tslot c)
  let k := schedNumber (tslot c)
  if kind = 3 then triggerFirst c s
  else if kind = 5 then inputsFirst (cmpAxis s (tslot c)) s
  else if kind = 6 then goFirst (targetChan c) s
  else if kind = 7 then takeSchedGo k (eventsWaiting s (k / 8) (640 + k % 8)) s
  else if kind = 8 then armFirst c s
  else s

/-- Forced destruction (R46): objects that refer to the target go first, in descending kind number; a queue or a reservation only
has the references to it cleared. `open_` are the objects whose destruction is under way. -/
def destroyForced : Nat → List Nat → Nat → State → State
  | 0, _, k, s => destroyOne k s
  | n + 1, open_, k, s =>
    if (obj? s k).isNone then s
    else if slotKind k = 2 ∨ slotKind k = 6 then destroyOne k s
    else
      let s := ((referrers s k).filter fun j => !open_.contains j).foldl (fun s j => destroyForced n (k :: open_) j s) s
      if (obj? s k).isNone then s else destroyOne k s

/-- Forced destruction of some objects, kinds descending. -/
def destroyAll (which : Nat → Obj → Bool) (s : State) : State :=
  (List.range 9).foldl (fun s i =>
    ((s.eng.objs.filter fun (k, o) => decide (slotKind k = 9 - i) && which k o).map (·.1)).foldl (fun s k => destroyForced 10 [] k s) s) s

/-! ### Orphans (R49, R50) -/

/-- A staged commit that waits for its time ends with its command (R50). -/
def dropStaged (g id : Nat) (s : State) : State :=
  let c := channelOf s g
  let rest := c.commits.filter fun p => decide (p.wait ≠ some id)
  dropWait id (putChannel g { c with commits := rest, staging := true, sent := (rest.getLast?.map (·.set)).getD c.active } s)

/-- What becomes of a command that a port sent before its reset (R50). -/
def settleWait (s : State) (w : Waiting) : State :=
  match w.op with
  | 0x0511 => dropSample (chanOfHandle (tgt w.cmd)) none s
  | 0x0721 => dropCapture (handleTile (tgt w.cmd) * 64 + handleIndex (tgt w.cmd)) none s
  | 0x0A40 => (s.ev.skew.filter fun (_, r) => decide (r.wait = w.id)).foldl (fun s (p, _) => dropSkew p none s) s
  | 0x0411 =>
    if w.keys.isEmpty then modEng s fun e => { e with waiting := e.waiting.map fun x => if x.id = w.id then { x with alive := false } else x }
    else dropStaged (chanOfHandle (tgt w.cmd)) w.id s
  | _ => modEng s fun e => { e with waiting := e.waiting.map fun x => if x.id = w.id then { x with alive := false } else x }

/-- An object of a port loses its owner (R49); a channel's staging is aborted (R127). -/
def orphanOne (at_ : Nat) (n : U32) (s : State) (k : Nat) : State :=
  let s := modObj k (fun o => { o with orphaned := true, deadline := at_, deadlineNs32 := n }) s
  if slotKind k = 1 then abortStage (slotTile k * 64 + slotIndex k) s else s

/-- The raw runs of a port are aborted without a record (R207). -/
def abortSilent (p : Nat) (s : State) : State :=
  (s.mv.chans.filter fun (_, c) => c.raw && decide (c.owner = p) && running c).foldl (fun s (g, _) =>
    modChan g (fun c => { c with silent := true }) (abortRun g 4 s)) s

/-- R49 and R50 for a port: its queues go at once, its bootstrap pair closes, its other handles are orphaned. -/
def orphanPort (p : Nat) (s : State) : State :=
  let at_ := s.clock + s.eng.orphanGraceMs * ms
  let n := ns32Of (ns s + s.eng.orphanGraceMs * ms)
  let mine (o : Obj) : Bool := decide (o.owner = p) && !o.orphaned
  let s := abortSilent p s
  let s := (s.eng.waiting.filter fun w => decide (w.cmd.port = p) && w.alive).foldl settleWait s
  let s := modEng s fun e => { e with deferred := e.deferred.filter fun x => decide (x.1.port ≠ p) }
  let s := ((s.eng.objs.filter fun (k, o) => decide (slotKind k = 2) && decide (o.owner = p)).map (·.1)).foldl (fun s k =>
    if (obj? s k).isSome then destroyQueue k s else s) s
  let s := modEng s fun e => { e with bootBlocks := tdel e.bootBlocks p }
  let s := modHm s fun h => { h with rings := h.rings.map fun (q, r) => (q, if q = p then { r with enabled := false } else r) }
  let s := { s with boot := { s.boot with mailbox := tdel s.boot.mailbox p } }
  ((s.eng.objs.filter fun (_, o) => mine o).map (·.1)).foldl (orphanOne at_ n) s

/-- R49: at their deadline the handles still orphaned are destroyed. -/
def execOrphanDeadline (s : State) : Meaning := .next (destroyAll (fun _ o => o.orphaned && decide (o.deadline ≤ s.clock)) s)

/-! ### Resets of a port (R238 to R240) -/

/-- A port is reset: `kind` as in PORT_RESET (Table 11-10). -/
def resetPort (p kind : Nat) (s : State) : State :=
  let up := (portOf s p).dlActive
  let s := startVacancy p (orphanPort p s)
  let s := resetConfig p (decide (kind < 2)) s
  let s := modHost s fun h => { h with
    saved := tdel h.saved p, savedReads := tdel h.savedReads p, stagedLo := h.stagedLo.filter fun x => decide (x.1 / 2 ^ 27 ≠ p) }
  let s := modPort p (fun q => { q with lost := false, holdDeadline := 0, holdDeadlineNs32 := 0 }) s
  let s := if kind = 2 then modPort p (fun q => { q with flrSince := some s.clock }) s
    else
      let s := modPort p (fun q => { q with dlActive := false, flit := false, rate := 0, width := 0, flrSince := none }) s
      if up then raise p 90 0 s else s
  portChange p (raise p 93 kind s)

def execPerst (port : Nat) (s : State) : Meaning := .next (if port < tiles s then resetPort port 0 s else s)
def execHotReset (port : Nat) (s : State) : Meaning := .next (if port < tiles s then resetPort port 1 s else s)
def execFunctionLevelReset (port : Nat) (s : State) : Meaning := .next (if port < tiles s then resetPort port 2 s else s)

/-- R239: the function-level reset completes. -/
def execFlrDone (port : Nat) (s : State) : Meaning := .next <|
  if (portOf s port).flrSince.isSome then portChange port (modPort port (fun q => { q with flrSince := none }) s) else s

/-- R240: a held port is not connected at its deadline. -/
def execHoldDeadline (port : Nat) (s : State) : Meaning := .next <|
  let q := portOf s port
  if q.lost && decide (q.holdDeadline ≤ s.clock) && !connected s port then
    let s := modPort port (fun q => { q with lost := false, holdDeadline := 0, holdDeadlineNs32 := 0 }) (orphanPort port s)
    modHost s fun h => { h with saved := tdel h.saved port, savedReads := tdel h.savedReads port }
  else s

/-! ### Destroy commands of the chapters -/

/-- Another live object refers to TARGET (R46). -/
def refsBusy (c : Cmd) (s : State) : Bool := !(referrers s (tslot c)).isEmpty

def opStreamDestroy : OpDef where
  code := 0x0312
  cond := true
  modes := mReady
  kinds := [1]
  len := some 0
  wrong := chanIdle
  busy := refsBusy
  act c s := .done (destroyChannel (tslot c) s) { gen := genBefore c s }

def execStreamDestroy (c : Cmd) (s : State) : Meaning := .next (runOp opStreamDestroy c s)

/-- A queue of a bootstrap pair (R221). -/
def bootstrapQueue (k : Nat) : Bool := slotKind k == 2 && (slotIndex k == 0 || slotIndex k == 8)

def opQueueDestroy : OpDef where
  code := 0x0803
  cond := true
  modes := mSafe
  kinds := [2]
  len := some 0
  wrong c s := tileIdle c s || bootstrapQueue (tslot c)
  busy := refsBusy
  act c s := .done (destroyQueue (tslot c) s) { gen := genBefore c s }

def execQueueDestroy (c : Cmd) (s : State) : Meaning := .next (runOp opQueueDestroy c s)

def opSchedDestroy : OpDef where
  code := 0x0921
  cond := true
  modes := mSafe
  kinds := [7]
  len := some 0
  room := 4
  first := destroyFirst
  wrong := tileIdle
  busy := refsBusy
  act c s := .done (destroySched (tslot c) s) { gen := genBefore c s, result := leBytes 4 (schedOf s (schedNumber (tslot c))).fired.toNat }

def execSchedDestroy (c : Cmd) (s : State) : Meaning := .next (runOp opSchedDestroy c s)

def opMoCmpDestroy : OpDef where
  code := 0x0B17
  cond := true
  modes := mReady
  kinds := [5]
  len := some 0
  first := destroyFirst
  wrong := tileIdle
  busy := refsBusy
  act c s := .done (dropObj (tslot c) (clearCompare (tslot c) s)) { gen := genBefore c s }

def execMoCmpDestroy (c : Cmd) (s : State) : Meaning := .next (runOp opMoCmpDestroy c s)

/-! ### Handle commands (Table 3-12) -/

def allKinds : List Nat := [1, 2, 3, 4, 5, 6, 7, 8, 9]

def opHandleQuery : OpDef where
  code := 0x0120
  query := true
  idem := true
  modes := mBoot
  kinds := allKinds
  len := some 0
  room := 16
  act c s :=
    let o := (obj? s (tslot c)).getD { owner := 0 }
    .done s { result := leBytes 4 (tgt c) ++ leBytes 1 o.owner ++ leBytes 1 (if o.faulted then 2 else b2n o.orphaned)
      ++ leBytes 2 (satU 16 (referrers s (tslot c)).length) ++ leBytes 4 o.gen.toNat
      ++ leBytes 4 (if o.orphaned then o.deadlineNs32.toNat else 0) }

def execHandleQuery (c : Cmd) (s : State) : Meaning := .next (runOp opHandleQuery c s)

def opHandleDestroy : OpDef where
  code := 0x0121
  cond := true
  modes := mSafe
  kinds := allKinds
  len := some 0
  faultOk := true
  first := destroyFirst
  wrong c s := tileIdle c s || bootstrapQueue (tslot c)
  busy c s := refsBusy c s || (slotKind (tslot c) == 3 && segInUse s (segNumber (tgt c)))
  act c s :=
    if slotKind (tslot c) = 6 then releaseChan 0x0121 c (targetChan c) s
    else .done (destroyOne (tslot c) s) { gen := genBefore c s }

def execHandleDestroy (c : Cmd) (s : State) : Meaning := .next (runOp opHandleDestroy c s)

/-- An orphaned object passes to a port (R51). -/
def adoptOne (p : Nat) (s : State) (k : Nat) : State :=
  let s := modObj k (fun o => { o with owner := p, orphaned := false, deadline := 0, deadlineNs32 := 0 }) s
  if slotKind k = 6 then modChan (slotTile k * 512 + slotIndex k) (fun c => { c with owner := p }) s else s

/-- Slots of the orphans of a port, in ascending handle value. -/
def orphansOf (s : State) (p : Nat) : List Nat :=
  (s.eng.objs.filter fun (_, o) => o.orphaned && decide (o.owner = p)).map (·.1)

/-- Check step 8 of ADOPT (R51). -/
def adoptOwn (c : Cmd) (s : State) : Option Fail :=
  if par c 0 1 = 1 || tgt c = 0 then none
  else match obj? s (tslot c) with
    | some o => if o.orphaned || decide (o.owner = c.port) then none else some (eNotOwner s (tslot c))
    | none => none

/-- ADOPT (R51). The model's own choice: PORT is checked against the part's ports (E_PARAM) with SCOPE 0 too, where the manual gives
it no use (log entry 75). -/
def opAdopt : OpDef where
  code := 0x0122
  idem := true
  cond := true
  modes := mSafe
  kinds := allKinds
  orZero := true
  len := some 4
  room := 4096
  faultOk := true
  own := some adoptOwn
  bad c s := [(0, decide (1 < par c 0 1) || (decide (par c 0 1 = 1) != decide (tgt c = 0))), (1, decide (tiles s ≤ par c 1 1)),
    (2, !isZero c.params 2 2)]
  act c s :=
    let l := if par c 0 1 = 1 then orphansOf s (par c 1 1) else [tslot c]
    let r := leBytes 4 l.length ++ ((l.take 1023).map fun k => leBytes 4 (handleOf s k)).flatten
    .done (l.foldl (adoptOne c.port) s) { result := r }

def execAdopt (c : Cmd) (s : State) : Meaning := .next (runOp opAdopt c s)

def opOrphanGraceSet : OpDef where
  code := 0x0123
  idem := true
  master := true
  cond := true
  modes := mSafe
  len := some 4
  room := 4
  bad c _ := [(0, decide (60000 < par c 0 4))]
  act c s :=
    let r : Answer := { result := leBytes 4 s.eng.orphanGraceMs }
    if s.eng.orphanGraceMs = par c 0 4 then .done s r
    else .done (bumpPkg (modEng s fun e => { e with orphanGraceMs := par c 0 4 })) r

def execOrphanGraceSet (c : Cmd) (s : State) : Meaning := .next (runOp opOrphanGraceSet c s)

/-- Inserts a number into an ascending list. -/
def insertUp (n : Nat) : List Nat → List Nat
  | [] => [n]
  | a :: l => if n ≤ a then n :: a :: l else a :: insertUp n l

/-- Handles of a port above a value, ascending. -/
def handlesAfter (s : State) (p after : Nat) (orphans : Bool) : List Nat :=
  (((s.eng.objs.filter fun (_, o) => decide (o.owner = p) && (!orphans || o.orphaned)).map fun (k, _) => handleOf s k).filter
    fun h => decide (after < h)).foldr insertUp []

def opHandleList : OpDef where
  code := 0x0124
  query := true
  idem := true
  modes := mBoot
  len := some 8
  room := 4096
  bad c s := [(0, decide (tiles s ≤ par c 0 1)), (1, decide (1 < par c 1 1)), (2, !isZero c.params 2 2)]
  act c s :=
    let l := handlesAfter s (par c 0 1) (par c 4 4) (par c 1 1 == 1)
    let page := l.take 1022
    .done s { result := leBytes 4 page.length ++ leBytes 4 (if l.length ≤ 1022 then 0 else page.getLastD 0) ++ (page.map (leBytes 4)).flatten }

def execHandleList (c : Cmd) (s : State) : Meaning := .next (runOp opHandleList c s)

end Sys2Proof.Machine
end

