-- ==== Sys2Proof/Machine/Reset.lean ====
section
/-!
DEFINITION. Package reset (R23, R28, R348) and the entry to BOOT at the release of RESET_N (R265, R349).
-/
namespace Sys2Proof.Machine
open Sys2Proof

def modPkg (s : State) (f : PkgState → PkgState) : State := { s with pkg := f s.pkg }

/-- The calendar as package time, in 2^-16 ns (R265). -/
def calendarTime (s : State) : Nat := s.cal.seconds * 65536000000000 + s.cal.ticks * 2000000000

/-- Pins and motion outputs that drive stop driving at a reset (R280, R291). -/
def released (s : State) : List Out :=
  (s.ev.pins.filterMap fun (p, x) =>
      if serving s (p / 10) && (x.mode == 2 || x.mode == 3) then some (.pinReleased (p / 10) (p % 10) (s.time.now / 16384)) else none)
    ++ (s.mo.axes.filterMap fun (i, a) => if serving s (i / 2) && a.pass && decide (4 ≤ modeCode s.pkg.mode) then some (.motionReleased i) else none)

/-- The copy of a slot that is in use: of the boot loader the one that ran, of the configuration the current one (R352, R355). -/
def usedCopy (s : State) (slot : Nat) : Nat := if slot = 5 then b2n s.boot.loaderFailed else if slot = 6 then s.boot.flashConf else 0

/-- The copy of a slot that a write goes to: of a two-copy slot, the one that is not current (R358). -/
def writtenCopy (s : State) (slot : Nat) : Nat := if slot = 5 ∨ slot = 6 then 1 - usedCopy s slot else 0

/-- The area of the flash that a write of a slot goes to. -/
def writtenArea (s : State) (slot : Nat) : Nat := slot * 2 + writtenCopy s slot

/-- Areas of the flash that a reset leaves failing verification: with them the one that an FW_WRITE was writing (R359). -/
def tornAt (s : State) : List Nat :=
  match s.boot.flashWrite with
  | some (slot, _) => writtenArea s slot :: s.boot.torn
  | none => s.boot.torn

/-- Every register at its reset value, every handle and every stored frame gone (R348), in a mode, with the cause that the
always-on island holds. Fuses, flash, straps, supplies, the calendar and the TAP stand; so do the model's own fields. -/
def resetState (m : Mode) (cause port : Nat) (s : State) : State :=
  { State.reset with
    pending := s.pending, part := s.part, clock := s.clock, free := s.free, out := s.out ++ released s
    pkg := { ({} : PkgState) with
      mode := m, target := m, cause := cause, causePort := port
      mainOk := s.pkg.mainOk, vddIo := s.pkg.vddIo, vbat := s.pkg.vbat, resetReleased := s.pkg.resetReleased
      lowSince := s.pkg.lowSince, needsLow := s.pkg.needsLow }
    cal := { s.cal with synced := false, syncNs32 := 0, alignedAt := none }
    boot := { ({} : BootState) with
      rollback := s.boot.rollback, bootSrc := s.boot.bootSrc, bootPort := s.boot.bootPort, torn := tornAt s
      flashConf := s.boot.flashConf, confSeq := s.boot.confSeq, flashImages := s.boot.flashImages, flashConfs := s.boot.flashConfs
      keyDigest := s.boot.keyDigest, tap := s.boot.tap, boundary := s.boot.boundary, tapDrives := s.boot.tapDrives } }

/-- The boot master port in effect (R349). -/
def bootMaster (s : State) : Nat := if s.boot.bootPort < tiles s then s.boot.bootPort else 0

/-- The package enters BOOT: package time is seeded from the calendar; with BOOT_SRC 1 the ROM loader waits for host images at once
(R265, R349, R357). -/
def enterBoot (s : State) : State :=
  { s with
    pkg := { s.pkg with mode := .boot, target := .boot, masterPort := bootMaster s }
    time := if s.cal.valid then { s.time with now := calendarTime s, calSeeded := true } else s.time
    boot := { s.boot with releasedAt := s.clock, stage := if s.boot.bootSrc then 6 else 0, romLoader := s.boot.bootSrc } }

/-- A package reset while RESET_N is released: RESET, and BOOT at once. -/
def packageReset (cause port : Nat) (s : State) : State := enterBoot (resetState .reset cause port s)

end Sys2Proof.Machine
end

