-- ==== Sys2Proof/Machine/Modes.lean ====
section
/-!
DEFINITION. Package modes (R18 to R24, R30): MODE_SET, its commit time, drains, and what a mode leaves behind.
-/
namespace Sys2Proof.Machine
open Sys2Proof

/-! ### Tables (Table 2-1, Table 2-2, Table 2-7, Table 2-10) -/

/-- Modes with readout from the store (Table 2-1). -/
def readsStore : Mode → Bool
  | .hybrid | .review | .test => true
  | _ => false

/-- Modes that MODE_SET may ask for in a mode (Table 2-2), by code. -/
def nextModes : Mode → List Nat
  | .ready => [6, 7, 8, 9, 10, 11]
  | .stream => [7, 8, 5, 9]
  | .record => [6, 8, 5, 9]
  | .hybrid => [6, 7, 5, 9]
  | .review => [5, 8, 6, 7]
  | .calibrate | .test => [5]
  | _ => []

/-- PKG_MODE (Table 2-7). -/
def pkgMode (s : State) : Nat :=
  modeCode s.pkg.mode + 2 ^ 4 * modeCode s.pkg.target + 2 ^ 8 * b2n s.pkg.changing + 2 ^ 9 * b2n s.pkg.fallback
    + 2 ^ 16 * s.pkg.modeGen.toNat

/-- PKG_TILE_SERVICE (Table 2-10). -/
def pkgTiles (s : State) : Nat :=
  sumOver (fun t => 16 ^ t * (if t < tiles s then serviceCode (service s t) + 8 * b2n (tileFault s t) else 7)) (List.range 8)

/-- PKG_MODE_CAUSE (Table 2-9). -/
def pkgCause (s : State) : Nat := s.pkg.cause + 2 ^ 8 * s.pkg.causePort

/-! ### Closing what is open (R22) -/

/-- Channels of the tiles that a drain covers. -/
def tileChannels (s : State) (which : Nat → Bool) : List Nat :=
  (s.st.channels.filter fun (g, c) => c.live && which (g / 64)).map (·.1)

/-- A completion entry of a live frame of the tile is still to be written. -/
def entryWaits (s : State) (which : Nat → Bool) : Bool :=
  s.mv.queues.any fun (_, v) => v.pendingEntries.any fun e => decide (e.kind = .frame) && decide (e.after = .nothing) && which e.tile

/-- Every open frame of the tiles has been delivered or written, completion records included (R22). -/
def drained (s : State) (which : Nat → Bool) : Bool :=
  (tileChannels s which).all (fun g => (channelOf s g).frames.isEmpty) && !entryWaits s which

/-- Blocks of a channel up to the last one that has a frame. -/
def framedBlocks (l : List Block) : List Block := (l.reverse.dropWhile fun b => b.frame.isNone).reverse

/-- The frames of a channel that are open are closed as they stand: every position still missing is given up. Gives their number. -/
def cutChannel (g : Nat) (s : State) : Nat × State :=
  let c := channelOf s g
  let l := framedBlocks c.blocks
  let n := (l.filter fun b => b.frame.isSome).length
  let s := l.foldl (fun s b =>
    let upto := match trailerOf (blockSet c b) b with
      | some t => t + 1
      | none => lastKnown b + 1
    (missingBelow b upto).foldl (fun s q => giveUp g b.id q s.clock s) (modBlock g b.id (fun b => { b with quiet := some s.clock }) s)) s
  (n, noteReady g (ns s) (advance g 8 s))

/-- The open frames of some tiles are closed at the drain limit: their number. -/
def cutFrames (which : Nat → Bool) (s : State) : Nat × State :=
  (tileChannels s which).foldl (fun (n, s) g => ((cutChannel g s).1 + n, (cutChannel g s).2)) (0, s)

/-! ### The commit (R21, R22, R30) -/

/-- Tiles that take up a mode at TC. -/
def inService (s : State) (t : Nat) : Bool := decide (t < tiles s) && decide (service s t = .inService)

def partTileList (s : State) : List Nat := List.range (tiles s)

/-- A tile begins to run in a mode again: comparison copies and rules see a new run (R182, R187). -/
def newEpoch (t : Nat) (s : State) : State := modAd s fun a => { a with epoch := tmod 0 a.epoch t (· + 1) }

/-- A tile that is DRAINING or QUIESCED keeps the mode it has until it returns (R30). -/
def keepMode (s : State) (t : Nat) : State :=
  if (service s t = .draining ∨ service s t = .quiesced) ∧ (tget? s.pkg.tileMode t).isNone then
    modPkg s fun p => { p with tileMode := tput p.tileMode t p.mode }
  else s

def eStateNow (s : State) : Answer := { status := .eState, detail := modeCode s.pkg.mode }

/-- Readouts at a mode commit: aborted with residue, or moved to the other class of work (Table 2-2). -/
def moveReadouts (old new : Mode) (s : State) : State :=
  s.fs.readouts.foldl (fun s (k, r) =>
    if !readsStore new then endReadout k 2 s
    else if old = .hybrid ∧ new = .review then dropJob (k / 16384) (.readout k) s
    else if old = .review ∧ new = .hybrid then
      let bytes := sumOver (fun i =>
        128 + ((((tget? s.fs.segs k).bind fun x => x.frames[i]?).map storedOf).getD 0)) (r.left.filter fun i => !badFrame s k i)
      addJob (k / 16384) (.readout k) ((bytes + 1048575) / 1048576)
        (modFs s fun f => { f with readouts := tput f.readouts k { r with moved := 0 } })
    else s) s

/-- Unfinished calibration jobs abort (Table 2-2). -/
def dropCalibration (s : State) : State :=
  let s := (s.cd.chans.map (·.1)).foldl (fun s g => dropSample g (some (eStateNow s)) s) s
  (s.ev.skew.map (·.1)).foldl (fun s p => dropSkew p (some (eStateNow s)) s) s

/-- Reference captures of the tiles end: no frame is opened any more. -/
def dropCaptures (which : Nat → Bool) (s : State) : State :=
  ((s.ad.refs.map (·.1)).filter fun k => which (k / 64)).foldl (fun s k => dropCapture k (some (eStateNow s)) s) s

/-- Leaving TEST: every injection point is disarmed, PACK runs end (Table 2-2, R344, R345). -/
def leaveTest (s : State) : State :=
  let s := modHm (discardInjections (fun _ => true) s) fun h => { h with unlock := none }
  (s.mv.chans.filter fun (_, c) => c.raw && c.run.pack && running c).foldl (fun s (g, _) => abortRun g 3 s) s

/-- The mode change ends: PKG_MODE, PKG_MODE_STAMP, the reply (R20 to R24). -/
def endChange (m : ModeChange) (s : State) : State :=
  let s := modPkg s fun p => { p with
    change := none, changing := false, target := p.mode, modeGen := p.modeGen + 1, doneNs32 := ns32 s }
  finish m.wait {
    result := leBytes 1 (modeCode m.previous) ++ leBytes 1 (modeCode m.target) ++ leBytes 2 s.pkg.modeGen.toNat
      ++ leBytes 4 (ns32Of m.tc).toNat ++ leBytes 4 s.pkg.doneNs32.toNat ++ leBytes 4 m.cut } s

def settleRings (which : Nat → Bool) (s : State) : State := (tileChannels s which).foldl (fun s g => settleRing g s) s

/-- Every tile in IN_SERVICE applies the mode. -/
def applyMode (m : ModeChange) (s : State) : State :=
  let old := s.pkg.mode
  let new := m.target
  let port := ((findWait s m.wait).map (·.cmd.port)).getD 0
  let s := (partTileList s).foldl keepMode s
  let s := ((partTileList s).filter (inService s)).foldl (fun s t => newEpoch t s) s
  let s := modPkg s fun p => { p with mode := new, cause := 0, causePort := port }
  let s := moveReadouts old new s
  let s := if old = .calibrate ∨ old = .test then dropCalibration s else s
  let s := if opensFrames new then s else dropCaptures (fun _ => true) s
  let s := if readsStore new then s else modFs s fun f => { f with maps := [] }
  let s := if old = .test then leaveTest s else s
  let s := settleRings (inService s) s
  let s := (partTileList s).foldl (fun s t => refreshLanes t s) s
  let m' : ModeChange := { m with committed := true, committedAt := s.clock, tiles := (partTileList s).filter (inService s) }
  if m.drainNs.isNone then endChange m' s else modPkg s fun p => { p with change := some m' }

/-- R21: TC is reached. -/
def execModeCommit (s : State) : Meaning := .next <|
  match s.pkg.change with
  | some m => if m.committed || decide (ns s < m.tc) then s else applyMode m s
  | none => s

/-- R22: nothing of the old mode is left to do. -/
def execModeDrainComplete (s : State) : Meaning := .next <|
  match s.pkg.change with
  | some m => if m.committed && drained s m.tiles.contains then endChange m s else s
  | none => s

/-- R22: the drain limit passes: open frames are closed as they stand. -/
def execModeDrainLimit (s : State) : Meaning := .next <|
  match s.pkg.change with
  | some m =>
    if m.committed && (m.drainNs.map fun n => decide (m.committedAt + n ≤ s.clock)).getD false then
      let (n, s) := cutFrames m.tiles.contains s
      modPkg s fun p => { p with change := some { m with cut := m.cut + n, drainNs := none } }
    else s
  | none => s

/-! ### Commands (Table 2-11) -/

/-- Drain limit in ns: 0 selects 1,000 ms (Table 2-12). -/
def drainLimit (v : Nat) : Nat := (if v = 0 then 1000 else v) * ms

/-- A transition or precondition that Table 2-2 does not allow (R20, R30). -/
def modeWrong (c : Cmd) (s : State) : Bool :=
  let t := par c 0 1
  decide (t ≠ modeCode s.pkg.mode)
    && (!(nextModes s.pkg.mode).contains t || (decide (10 ≤ t) && tileChanging s) || (decide (t = 11) && !unlocked s))

def opModeSet : OpDef where
  code := 0x0110
  idem := true
  master := true
  cond := true
  modes := mSafe
  len := some 8
  room := 16
  bad c _ := [(0, decide (par c 0 1 < 5) || decide (11 < par c 0 1)), (1, !isZero c.params 1 3), (4, decide (60000 < par c 4 4))]
  wrong := modeWrong
  keys _ _ := [keyMode]
  busy _ s := s.pkg.changing
  act c s :=
    let old := s.pkg.mode
    let new := (modeOfCode (par c 0 1)).getD old
    if new = old then
      .done s { result := leBytes 1 (modeCode old) ++ leBytes 1 (modeCode old) ++ leBytes 2 s.pkg.modeGen.toNat ++ zeros 4
        ++ leBytes 4 s.pkg.doneNs32.toNat ++ zeros 4 }
    else
      let m : ModeChange := {
        target := new, tc := ns s + 100000, previous := old, wait := s.eng.nextWait
        drainNs := if opensFrames old && !opensFrames new then some (drainLimit (par c 4 4)) else none }
      .wait (modPkg (addWait 0x0110 c [keyMode] 16 (bumpPkg s)) fun p => { p with target := new, changing := true, change := some m })

def execModeSet (c : Cmd) (s : State) : Meaning := .next (runOp opModeSet c s)

def opModeQuery : OpDef where
  code := 0x0111
  query := true
  idem := true
  modes := mBoot
  len := some 0
  room := 16
  act _ s := .done s {
    result := leBytes 4 (pkgMode s) ++ leBytes 4 (pkgTiles s) ++ leBytes 4 (pkgCause s) ++ leBytes 1 s.pkg.masterPort ++ zeros 3 }

def execModeQuery (c : Cmd) (s : State) : Meaning := .next (runOp opModeQuery c s)

end Sys2Proof.Machine
end

