-- ==== Sys2Proof/Machine/BootEnd.lean ====
section
/-!
DEFINITION. The end of BOOT (R29, R354): what READY or SAFE starts with. A tile that goes out of service can end BOOT too.
-/
namespace Sys2Proof.Machine
open Sys2Proof

def inBoot (s : State) : Bool := decide (s.pkg.mode = .boot)

/-- The engines at the end of BOOT (R311, R354). -/
def startEngines (s : State) : State :=
  let x : CmdEngine := { slot := s.boot.image, image := s.boot.alfel }
  let s := modRd s fun r => { r with
    owner := some 0, renewedAt := s.clock, beatSent := s.clock, lastStart := s.clock
    holdS := s.boot.conf.revertHoldS, preferred := s.boot.conf.preferred }
  restartEngine 1 (modCe 1 (fun _ => x) (modCe 0 (fun _ => { x with state := .active }) s))

/-- Settings of the boot configuration that other chapters hold (R288, R328). -/
def applyConf (s : State) : State :=
  let s := modGov s fun g => { g with conf := { g.conf with limitW := s.boot.conf.limitW }, lastSample := s.clock }
  let s := modHm s fun h => { h with lastReport := s.clock }
  s.boot.conf.motion.foldl (fun s (i, p) => passThrough i (modAxis i (axisSet p) s)) s

/-- BOOT ends in READY, or with the golden image in SAFE. -/
def endBoot (s : State) : State :=
  let safe := decide (s.boot.image = 2)
  let m : Mode := if safe then .safe else .ready
  let s := modPkg s fun p => { p with
    mode := m, target := m, fallback := safe, cause := if safe then 2 else 1, causePort := 0
    masterPort := s.boot.conf.masterPort, vacant := false, vacancyAt := some (s.clock + s.eng.orphanGraceMs * ms) }
  let s := modBoot s fun b => { b with stage := 5, bootMs := (s.clock - b.releasedAt) / ms }
  let s := startEngines (applyConf s)
  let s := ((partTileList s).filter (inService s)).foldl (fun s t => startScrub t s) s
  let s := (partTileList s).foldl (fun s t => refreshLanes t s) s
  (partTileList s).foldl (fun s p => portChange p s) s

def isTrained (s : State) (t : Nat) : Bool := tget false s.boot.trained t

/-- BOOT ends once Alfel runs on engine 0, tile 0 is trained, and every other tile is trained or out (R354). -/
def maybeEndBoot (s : State) : State :=
  if inBoot s && s.boot.alfelStarted && decide (s.boot.stage ≠ 7) && isTrained s 0
      && (partTileList s).all fun t => isTrained s t || decide (service s t = .outOfService) then endBoot s
  else s

end Sys2Proof.Machine
end

