-- ==== Sys2Proof/Machine/Service.lean ====
section
/-!
DEFINITION. Tile service (R26 to R30, R320 to R322), the Praline fabric (R13, R15) and what follows when a detector fires
(Table 17-1, Table 17-2).
-/
namespace Sys2Proof.Machine
open Sys2Proof

def ctlOf (s : State) (t : Nat) : TileCtl := tget {} s.pkg.tc t
def modCtl (t : Nat) (f : TileCtl → TileCtl) (s : State) : State := modPkg s fun p => { p with tc := tmod {} p.tc t f }

/-- A tile enters a service state: its stamp, and TILE_SERVICE on tile 0 (R323, Table 15-6). -/
def enterService (t : Nat) (st : Service) (s : State) : State :=
  let s := modPkg s fun p => { p with service := tput p.service t st }
  let s := modCtl t (fun c => { c with stampNs32 := ns32 s }) s
  raise 0 124 (t + 8 * serviceCode st + 64 * b2n (tileFault s t) + 256 * (ctlOf s t).faultStep) s

/-! ### A tile goes out (Table 2-4, Table 2-5, R15, R28, R321) -/

/-- Pins, inputs, event backlog and time-stamp queue of a tile that goes out. -/
def clearTileEvents (t : Nat) (s : State) : State :=
  let s := ((s.ev.skew.map (·.1)).filter fun p => decide (p / 10 = t)).foldl (fun s p => dropSkew p (some (eStateNow s)) s) s
  let s := (drivenPins s t).foldl (fun s p => releasePin p s) s
  modEv s fun v => { v with
    inputs := v.inputs.map fun (i, x) => (i, if i / 1024 = t then { x with waiting := [] } else x)
    backlog := tdel v.backlog t, retired := v.retired.filter fun (k, _) => decide (k / 4096 ≠ t) }

/-- Governor, codec engines, lanes' receive queues, time lock and detectors of a tile that goes out. -/
def clearTileIslands (t : Nat) (s : State) : State :=
  let s := modTileGov t (fun g => { g with jobs := [], backlog := 0, grantB := 0, creditB := 0, creditC := 0, nextB := 0, nextC := 0 }) s
  let s := modCd s fun d => { d with engines := d.engines.map fun (k, e) => (k, if k / 4 = t then { e with buffer := [], escaping := false } else e) }
  let s := { s with lanes := s.lanes.map fun (l, x) => (l, if l / 8 = t then { x with toExchange := [], toTime := [], toStream := [] } else x) }
  let s := modTime s fun v => { v with locked := tput v.locked t false, txts := tdel v.txts t }
  let s := discardInjections (· == t) s
  modHm s fun h => { h with
    dets := h.dets.map fun (k, x) => (k, if k / 32 = t then { x with latent := false, sram := [] } else x)
    hot := tdel h.hot t }

/-- The tile's service command ends when the tile goes out by fault. -/
def endTileOp (t : Nat) (s : State) : State :=
  match tget? s.pkg.tileOps t with
  | none => s
  | some o =>
    let s := modPkg s fun p => { p with tileOps := tdel p.tileOps t }
    match o.wait with
    | some id => finish id { status := .eHwFault } s
    | none => s

/-- The host port of a tile that goes out: its link goes down. -/
def portOut (t : Nat) (s : State) : State :=
  let s := modEng s fun e => { e with bootBlocks := tdel e.bootBlocks t }
  if (portOf s t).dlActive then linkLoss t [] s else reroute (startVacancy t s)

/-- A tile other than tile 0 enters OUT_OF_SERVICE. -/
def tileOut (t : Nat) (fault : Bool) (s : State) : State :=
  let s := modPkg (releaseOutputs t s) fun p => { p with fault := tput p.fault t fault, tileMode := tdel p.tileMode t }
  let s := enterService t .outOfService s
  let s := destroyAll (fun k _ => decide (slotTile k = t)) s
  let s := modFs s fun f => { f with rings := f.rings.filter fun (g, _) => decide (g / 64 ≠ t) }
  let s := modCtl t (fun c => { c with microcode := 0 }) (refreshLanes t (clearTileIslands t (clearTileEvents t s)))
  let s := ((engineOnTile s t).map fun e => engineTileOut e s).getD s
  portOut t (if fault then endTileOp t s else s)

/-- Tiles with no fabric path to tile 0 go out with FAULT (Table 2-5). -/
def isolate : Nat → State → State
  | 0, s => s
  | n + 1, s =>
    match (partTileList s).find? fun t => decide (t ≠ 0) && serving s t && (hops s t 0).isNone with
    | some t => isolate n (tileOut t true s)
    | none => s

/-- Tiles without a path go out; in BOOT the package no longer waits for them (R29). -/
def dropIsolated (s : State) : State := maybeEndBoot (isolate 8 s)

/-- A tile goes out; tile 0 takes the package with it (R28). -/
def tileGone (t : Nat) (fault : Bool) (s : State) : State :=
  if t = 0 then packageReset 6 0 s else dropIsolated (tileOut t fault s)

/-! ### Quiesce and resume (R26, R30) -/

def tileOp (s : State) (t : Nat) : Option TileOp := tget? s.pkg.tileOps t
def putTileOp (t : Nat) (o : TileOp) (s : State) : State := modPkg s fun p => { p with tileOps := tput p.tileOps t o }
/-- The tile's order is complete. -/
def endOrder (t : Nat) (s : State) : State := modPkg s fun p => { p with tileOps := tdel p.tileOps t }

/-- The command of an order is answered. -/
def replyOrder (o : TileOp) (result : List Byte) (s : State) : State :=
  match o.wait with
  | some id => finish id { result := result } s
  | none => s

/-- R26: at the commit time of a quiesce order the tile stops opening frames. -/
def execTileQuiesceCommit (tile : Nat) (s : State) : Meaning := .next <|
  match tileOp s tile with
  | some o =>
    if o.kind = .quiesce ∧ o.committed = false ∧ o.tc ≤ ns s then
      settleRings (· == tile) (putTileOp tile { o with committed := true, committedAt := s.clock } s)
    else s
  | none => s

/-- A draining tile becomes QUIESCED, and its order is answered. -/
def quiesced (t : Nat) (o : TileOp) (s : State) : State :=
  let s := endOrder t (enterService t .quiesced s)
  replyOrder o (leBytes 1 0 ++ leBytes 1 2 ++ zeros 2 ++ leBytes 4 (ns32Of o.tc).toNat ++ leBytes 4 (ns32 s).toNat ++ leBytes 4 o.cut) s

/-- R26: nothing is left to do on a draining tile. -/
def execTileDrainComplete (tile : Nat) (s : State) : Meaning := .next <|
  match tileOp s tile with
  | some o => if o.kind = .quiesce ∧ o.committed ∧ drained s (· == tile) then quiesced tile o s else s
  | none => s

/-- R26: the drain limit of a tile passes. -/
def execTileDrainLimit (tile : Nat) (s : State) : Meaning := .next <|
  match tileOp s tile with
  | some o =>
    if o.kind = .quiesce ∧ o.committed ∧ o.committedAt + o.drainNs ≤ s.clock then
      let (n, s) := cutFrames (· == tile) s
      quiesced tile { o with cut := o.cut + n } s
    else s
  | none => s

/-- A tile runs in the package mode again. -/
def backInService (t : Nat) (s : State) : State :=
  let s := modPkg s fun p => { p with tileMode := tdel p.tileMode t }
  let out := !serving s t
  let s := reroute (refreshLanes t (settleRings (· == t) (enterService t .inService (newEpoch t s))))
  if out then passThrough (t * 2 + 1) (passThrough (t * 2) ((drivenPins s t).foldl (fun s p => beginDriving p s) s)) else s

/-- R26: at the commit time of a resume order the tile is IN_SERVICE. -/
def execTileResumeCommit (tile : Nat) (s : State) : Meaning := .next <|
  match tileOp s tile with
  | some o =>
    if o.kind = .resume ∧ o.tc ≤ ns s then
      replyOrder o (leBytes 1 2 ++ leBytes 1 0 ++ zeros 2 ++ leBytes 4 (ns32Of o.tc).toNat) (backInService tile (endOrder tile s))
    else s
  | none => s

/-- R26: the tile is down. -/
def execTilePowerDownDone (tile : Nat) (s : State) : Meaning := .next <|
  match tileOp s tile with
  | some o =>
    if o.kind = .powerDown then
      let s := tileGone tile false (endOrder tile s)
      replyOrder o (leBytes 4 (ns32 s).toNat) s
    else s
  | none => s

/-! ### Rejoin (R322, Table 2-5) -/

/-- A step of a rejoin fails. -/
def rejoinFails (t step : Nat) (s : State) : State :=
  let s := modCtl t (fun c => { c with step := 0, faultStep := step, microcode := 0 }) s
  let s := modPkg s fun p => { p with fault := tput p.fault t true }
  endTileOp t (enterService t .outOfService s)

/-- R322: power-up, the load and check of the selected microcode, and DRAM training have ended. -/
def execTileRejoinPrepared (tile : Nat) (img : Image) (powerUp dram : Bool) (s : State) : Meaning := .next <|
  match tileOp s tile with
  | some o =>
    if o.kind = .rejoin ∧ service s tile = .outOfService then
      let slot := if s.boot.conf.microcode1 then 3 else 2
      let result := flashResult s slot 0 img
      let img := areaImage s slot 0 img
      let s := if powerUp then readImage slot 0 img s else s
      if powerUp = false then rejoinFails tile 1 s
      else if result ≠ 1 then rejoinFails tile 2 (setSlot slot (imageEntry result img.toImageCheck) s)
      else if dram = false then rejoinFails tile 3 (setSlot slot (imageEntry result img.toImageCheck) s)
      else
        let s := modPkg (setSlot slot (imageEntry result img.toImageCheck) s) fun p => { p with fault := tput p.fault tile false }
        let s := modCtl tile (fun c => { c with
          step := 4, stepAt := s.clock, faultStep := 0, microcode := le img.header 8 4
          rejoins := if c.rejoins = 0xFFFFFFFF then c.rejoins else c.rejoins + 1 }) s
        enterService tile .rejoining s
    else s
  | none => s

/-- Links of the fabric at a tile. -/
def tileLinks (s : State) (t : Nat) : List Nat := [t, (t + tiles s - 1) % tiles s]

/-- Motion interfaces of a tile start at zero (R292). -/
def zeroMotion (t : Nat) (s : State) : State :=
  [2 * t, 2 * t + 1].foldl (fun s i => oweAnchors i (modAxis i (fun a => { a with ext := 0, history := [] }) s)) s

/-- R30, R322: links are trained, the tile is time-locked and IN_SERVICE. -/
def execTileRejoinLocked (tile : Nat) (links lock : Bool) (s : State) : Meaning := .next <|
  match tileOp s tile with
  | some o =>
    if o.kind = .rejoin ∧ service s tile = .rejoining then
      if links = false then rejoinFails tile 4 s
      else if lock = false then rejoinFails tile 5 s
      else
        let s := modPkg (endOrder tile s) fun p => { p with
          linkDown := (tileLinks s tile).foldl (fun d l => tput d l false) p.linkDown
          linkRetries := p.linkRetries.filter fun (k, _) => decide (k / 2 ≠ tile) }
        let s := modTime s fun v => { v with locked := tput v.locked tile true }
        let s := modCtl tile (fun c => { c with step := 0 }) (zeroMotion tile s)
        let s := startScrub tile (backInService tile s)
        let s := ((engineOnTile s tile).map fun e => engineTileBack e s).getD s
        replyOrder o (leBytes 4 (ns32 s).toNat ++ leBytes 4 (ctlOf s tile).microcode) s
    else s
  | none => s

/-! ### Commands (Table 15-10, Table 15-11) -/

/-- Modes of the tile orders: READY to REVIEW. -/
def mTile : Nat := 0x3E0

/-- STEP of a rejoin under way: power-up, microcode and DRAM training follow one another until the tile is prepared, Praline links and
time lock until it is locked; how long each takes is free (log entry 76). -/
def stepNow (s : State) (t : Nat) : Nat :=
  let x := ctlOf s t
  let long (k : Nat) : Nat := (Config.rejoinStepNs t x.rejoins.toNat k).toNat
  match x.step with
  | 1 => if s.clock < x.stepAt + long 1 then 1 else if s.clock < x.stepAt + long 1 + long 2 then 2 else 3
  | 4 => if s.clock < x.stepAt + long 4 then 4 else 5
  | n => n

/-- TC_SERVICE (Table 15-9). -/
def tcReg (s : State) (t : Nat) : Nat → Nat
  | 0 => (if t < tiles s then serviceCode (service s t) + 8 * b2n (tileFault s t) else 7) + 2 ^ 4 * stepNow s t
      + 2 ^ 8 * (ctlOf s t).faultStep
  | 1 => (ctlOf s t).stampNs32.toNat
  | 2 => (ctlOf s t).microcode
  | 3 => (ctlOf s t).rejoins.toNat
  | _ => 0

/-- TILE, and the reserved bytes behind it. -/
def tileParam (c : Cmd) (s : State) : List (Nat × Bool) := [(0, decide (tiles s ≤ par c 0 1)), (1, !isZero c.params 1 3)]
def namedService (c : Cmd) (s : State) : Service := service s (par c 0 1)
/-- A tile command is in progress (R320). -/
def tileBusy (c : Cmd) (s : State) : Bool := (tileOp s (par c 0 1)).isSome

/-- An order is accepted: it holds its tile and waits. -/
def order (op room : Nat) (c : Cmd) (o : TileOp) (s : State) : State :=
  putTileOp (par c 0 1) { o with wait := some s.eng.nextWait, startedAt := s.clock } (addWait op c [keyTile (par c 0 1)] room (bumpPkg s))

def opTileQuiesce : OpDef where
  code := 0x0C10
  idem := true
  master := true
  cond := true
  modes := mTile
  len := some 8
  room := 16
  bad c s := tileParam c s ++ [(4, decide (60000 < par c 4 4))]
  tile c _ := some (par c 0 1)
  wrong c s := decide (namedService c s ≠ .inService) && decide (namedService c s ≠ .quiesced)
  keys c _ := [keyTile (par c 0 1)]
  busy := tileBusy
  act c s :=
    let t := par c 0 1
    if service s t = .quiesced then
      .done s { result := leBytes 1 2 ++ leBytes 1 2 ++ zeros 6 ++ leBytes 4 (ctlOf s t).stampNs32.toNat ++ zeros 4 }
    else
      let s := order 0x0C10 16 c { kind := .quiesce, tc := ns s + 100000, drainNs := drainLimit (par c 4 4), wait := none } s
      let s := enterService t .draining s
      .wait (reroute (dropCaptures (· == t) (discardInjections (· == t) s)))

def execTileQuiesce (c : Cmd) (s : State) : Meaning := .next (runOp opTileQuiesce c s)

def opTileResume : OpDef where
  code := 0x0C11
  idem := true
  master := true
  cond := true
  modes := mTile
  len := some 4
  room := 8
  bad := tileParam
  tile c _ := some (par c 0 1)
  wrong c s := decide (namedService c s ≠ .inService) && decide (namedService c s ≠ .quiesced)
  keys c _ := [keyTile (par c 0 1)]
  busy := tileBusy
  act c s :=
    if namedService c s = .inService then .done s { result := zeros 8 }
    else .wait (order 0x0C11 8 c { kind := .resume, tc := ns s + 100000, wait := none } s)

def execTileResume (c : Cmd) (s : State) : Meaning := .next (runOp opTileResume c s)

/-- R27: tiles that may not be powered down. -/
def needed (c : Cmd) (s : State) : Bool :=
  let t := par c 0 1
  decide (t = 0) || decide (t = engineTile s s.eng.active) || decide (t = s.pkg.masterPort)

def opTilePowerDown : OpDef where
  code := 0x0C12
  idem := true
  master := true
  cond := true
  modes := mTile
  len := some 4
  room := 4
  bad := tileParam
  tile c _ := some (par c 0 1)
  wrong c s := decide (namedService c s ≠ .outOfService) && (decide (namedService c s ≠ .quiesced) || needed c s)
  keys c _ := [keyTile (par c 0 1)]
  busy := tileBusy
  act c s :=
    if namedService c s = .outOfService then .done s { result := leBytes 4 (ctlOf s (par c 0 1)).stampNs32.toNat }
    else .wait (order 0x0C12 4 c { kind := .powerDown, wait := none } s)

def execTilePowerDown (c : Cmd) (s : State) : Meaning := .next (runOp opTilePowerDown c s)

def opTileRejoin : OpDef where
  code := 0x0C13
  idem := true
  master := true
  cond := true
  modes := mTile
  len := some 4
  room := 8
  bad := tileParam
  tile c _ := some (par c 0 1)
  wrong c s := decide (namedService c s = .draining) || decide (namedService c s = .quiesced)
  keys c _ := [keyTile (par c 0 1)]
  busy := tileBusy
  act c s :=
    let t := par c 0 1
    if service s t = .inService then .done s { result := leBytes 4 (ctlOf s t).stampNs32.toNat ++ leBytes 4 (ctlOf s t).microcode }
    else .wait (modCtl t (fun x => { x with step := 1, stepAt := s.clock }) (order 0x0C13 8 c { kind := .rejoin, wait := none } s))

def execTileRejoin (c : Cmd) (s : State) : Meaning := .next (runOp opTileRejoin c s)

def opTileQuery : OpDef where
  code := 0x0C14
  query := true
  idem := true
  modes := mSafe
  len := some 4
  room := 16
  bad := tileParam
  tile c _ := some (par c 0 1)
  act c s := .done s { result := windowBytes (tcReg s (par c 0 1)) 4 }

def execTileQuery (c : Cmd) (s : State) : Meaning := .next (runOp opTileQuery c s)

/-! ### The fabric (R13, R15) -/

/-- A transfer fails its check, and is retried (R15). -/
def retryTransfer (t u : Nat) (injected : Bool) (s : State) : State :=
  let s := detectorFires t 0x05 injected s
  modPkg s fun p => { p with linkRetries := tmod 0 p.linkRetries (t * 2 + u) (· + 1) }

/-- A link is declared down: traffic goes the other way round, isolated tiles go out (R15). -/
def linkFails (t u : Nat) (injected : Bool) (s : State) : State :=
  match linkNumber s t u with
  | none => s
  | some l =>
    let s := detectorFires t 0x06 injected s
    let s := modPkg s fun p => { p with linkDown := tput p.linkDown l true }
    reroute (dropIsolated s)

/-- R15: a transfer on a link failed its check and is sent again; `passes` when the retry passes. -/
def execFabricTransferRetry (tile unit : Nat) (passes : Bool) (s : State) : Meaning := .next <|
  if serving s tile && (linkNumber s tile unit).isSome then
    let s := retryTransfer tile unit false s
    if passes then modPkg s fun p => { p with linkRetries := tput p.linkRetries (tile * 2 + unit) 0 } else s
  else s

/-- R15: 16 retries in a row have failed on a link. -/
def execFabricLinkDown (tile unit : Nat) (s : State) : Meaning := .next <|
  if serving s tile && decide (16 ≤ tget 0 s.pkg.linkRetries (tile * 2 + unit))
      && ((linkNumber s tile unit).map fun l => !tget false s.pkg.linkDown l).getD false then
    linkFails tile unit false s
  else s

/-- R15: a link is restored. -/
def execFabricLinkRestored (link : Nat) (s : State) : Meaning := .next <|
  if tget false s.pkg.linkDown link then
    reroute (modPkg s fun p => { p with
      linkDown := tput p.linkDown link false
      linkRetries := p.linkRetries.filter fun (k, _) => decide (linkNumber s (k / 2) (k % 2) ≠ some link) })
  else s

/-! ### Detectors (R338, R339, R344, R345) -/

/-- Detectors whose injections are consumed by the rows at which they act. -/
def ownRow (d : Nat) : Bool := [0x02, 0x03, 0x04, 0x0A, 0x0E].contains d

/-- A held packet is lost in its staging page: discarded, and its position given up (Table 5-3). -/
def loseStaged (g id q : Nat) (s : State) : State :=
  match blockOf s g id with
  | none => s
  | some b =>
    if ((tget? b.positions q).map isPresent).getD false then
      let drop (b : Block) : Block := { b with leader := if q = 0 ∧ b.frame.isNone then none else b.leader }
      noteReady g (ns s) (advance g 8 (giveUp g id q s.clock (modBlock g id drop s)))
    else s

/-- An uncorrectable DRAM error is found in what the word of a tile's stack holds (Table 17-2, R95, R170): `g` is the channel. -/
def loseItem (g : Nat) (x : HitItem) (inj : Bool) (s : State) : State :=
  let fired := detectorFires (g / 64) 0x03 inj s
  match x with
  | .unused | .posted _ => fired
  | .ring i => ((ringOf s g).frames[i]?.map fun f => loseInRing g f.seq inj s).getD fired
  | .segment k i =>
    if k / 16384 = g / 64 then (((tget? s.fs.segs k).bind (·.frames[i]?)).map fun f => loseInSegment k f.seq inj s).getD fired
    else fired
  | .staged id q => loseStaged g id q fired
  | .backlog i =>
    match (channelOf s g).frames[i]? with
    | some f => if f.backlog ≠ 0 ∧ f.delivering = false then raiseDropped g (undelivered g f fired) else fired
    | none => fired

/-- An injected temperature reading (R344). -/
def heatSensor (t : Nat) (s : State) : State :=
  modHm s fun h => { h with hot := tput h.hot t ((detOf s t 0x10).value, (detOf s t 0x10).duration) }

/-- A double-bit error in a buffer of a tile's host island (R235): with posted writes of the device in it, the link goes down. -/
def loseHostBuffer (t : Nat) (x : HitItem) (s : State) : State :=
  match x with
  | .posted l => linkLoss t l s
  | _ => s

/-- A detector fires, and the action of its class follows (Table 17-1, Table 17-2). -/
def detectorEffect (t d u : Nat) (inj : Bool) (item : HitItem) (s : State) : State :=
  let fired := detectorFires t d inj s
  match d with
  | 0x00 => if u = 9 then aerCorrectable t 14 fired else fired
  | 0x01 =>
    if u = 12 then ((engineOnTile s t).map fun e => engineFails e 1 fired).getD fired
    else if u = 9 then loseHostBuffer t item (aerUncorrectable t 22 [] fired)
    else tileGone t true fired
  | 0x03 => loseItem (t * 64 + u) item inj s
  | 0x04 => modDet t 0x04 (fun x => { x with latent := true }) s
  | 0x05 => retryTransfer t u inj s
  | 0x06 => linkFails t u inj (if inj then (List.range 16).foldl (fun s _ => retryTransfer t u true s) s else s)
  | 0x07 => ((engineOnTile s t).map fun e => engineFails e 1 fired).getD fired
  | 0x08 => ((engineOnTile s t).map fun e => engineFails e 2 fired).getD fired
  | 0x09 => tileGone t true fired
  | 0x0A => ((engineOnTile s t).map fun e => if (engOf s e).state = .standby then selfTestFails t e inj s else fired).getD fired
  | 0x0B =>
    let n := BitVec.ofNat 64 (1 + (Config.freeSymbols s.free).toNat % 15)
    useFree (countLane (t * 8 + u) (fun c => { c with fecCorrected := c.fecCorrected + 1, fecSymbols := c.fecSymbols + n }) fired)
  | 0x0C => uncorrectable (t * 8 + u) fired
  | 0x0D => modTime fired fun v => { v with locked := tput v.locked t false }
  | 0x0E => finishSlice t u 0 false true s
  | 0x10 => if inj then heatSensor t fired else if overheated (govTile s t).temps && (tget? s.hm.hot t).isNone then fired else s
  | 0x11 => aerCorrectable t 0 fired
  | 0x12 => timeoutRequest t (requestsOut s t).head? fired
  | 0x13 => aerUncorrectable t 18 (freeHeader fired) (useFree fired)
  | _ => fired

/-- A real error occurs; where an injected one at the same edge has taken the tile out, it is still counted (R345). -/
def realOccurs (t d u : Nat) (item : HitItem) (s : State) : State :=
  if serving s t then detectorEffect t d u false item s else detectorFires t d false s

/-- An injection of a detector is consumed at its act: an SRAM holds the error from now on, another detector sees it at once (R344). -/
def injectedOccurs (t d u : Nat) (s : State) : State :=
  let s := consumeInjection t d s
  if d ≤ 0x01 then modDet t d (fun x => { x with sram := u :: x.sram }) s else detectorEffect t d u true .unused s

/-- R340: the act of a detector's unit comes, at which a pending injection is consumed and real errors occur; in an SRAM, the error that
an injection put there is read or overwritten. -/
def execHwDetectorOccurrence (tile det unit : Nat) (act : DetAct) (s : State) : Meaning := .next <|
  if !serving s tile || detAbsent s tile det || decide (unitCount s tile det ≤ unit)
      || ((det == 0x05 || det == 0x06) && (linkNumber s tile unit).isNone) then s
  else
    let held := (detOf s tile det).sram.contains unit
    let cleared := modDet tile det (fun x => { x with sram := x.sram.erase unit }) s
    match act with
    | .act real =>
      let s := if injectionDue s tile det unit && !ownRow det then injectedOccurs tile det unit s else s
      match real with
      | some item => realOccurs tile det unit item s
      | none => s
    | .read item real =>
      let s := if held then detectorEffect tile det unit true item cleared else s
      if real then realOccurs tile det unit item s else s
    | .overwrite => if held then cleared else s

end Sys2Proof.Machine
end

