-- ==== Sys2Proof/Machine/Boot.lean ====
section
/-!
DEFINITION. Boot (chapter 18): the boot configuration (R355), the images and the boot sequence (R352 to R354, R357), and the
firmware commands (R358 to R360).
-/
namespace Sys2Proof.Machine
open Sys2Proof

/-! ### The boot configuration (R355, Table 18-4) -/

/-- Delivery-group record (R242). -/
def groupsOk (s : State) (v : List Byte) : Bool :=
  (List.range 8).all fun p =>
    let m := le v p 1
    if p < tiles s then
      bit m p && decide (m < 2 ^ tiles s) && (List.range (tiles s)).all fun q => !bit m q || decide (le v q 1 = m)
    else decide (m = 0)

/-- A COMPAT entry in the staged form (Table 11-7). -/
def compatEntry (v : List Byte) (off : Nat) : CompatEntry where
  valid := bit (le v off 4) 0
  store := bit (le v off 4) 1
  offset := le v off 8 / 0x400000 * 0x400000

/-- Chunks of n bytes. -/
def chunks (n : Nat) : Nat → List Byte → List (List Byte)
  | 0, _ => []
  | k + 1, b => if b.isEmpty then [] else b.take n :: chunks n k (b.drop n)

def entriesOf (n : Nat) (v : List Byte) : List (List Byte) := chunks n v.length v

/-- Lowest LIMIT_W (R337). -/
def limitMin (s : State) : Nat := min 150 (partPower s.part)

/-- The COMPAT entries of a record, which R229 must admit for a size of STORE. -/
def compatOf (v : List Byte) : Tab CompatEntry := (List.range 64).foldl (fun t i => tput t i (compatEntry v (4 + 8 * i))) []

def compatOk (storeCode : Nat) (t : Tab CompatEntry) : Bool := t.all fun (_, e) => entryFits (2 ^ (20 + storeCode)) e

/-- One record applied: none when its length or a value is out of range; an unknown tag changes nothing. `store` is the BAR Size code that
the configuration gives STORE, to which the entries of COMPAT must fit. -/
def record (s : State) (store tag : Nat) (v : List Byte) (x : BootConf) : Option BootConf :=
  let n := v.length
  match tag with
  | 0x0001 => if n = 4 then some { x with subsystem := some (le v 0 2, le v 2 2) } else none
  | 0x0002 => if n = 6 then some { x with macBase := be v 0 6 } else none
  | 0x0003 => if n = 1 ∧ le v 0 1 < tiles s then some { x with masterPort := le v 0 1 } else none
  | 0x0004 => if n = 8 ∧ groupsOk s v then
      some { x with groups := (List.range (tiles s)).foldl (fun t p => tput t p (le v p 1)) [] } else none
  | 0x0005 => if n = 1 ∧ 10 ≤ le v 0 1 ∧ le v 0 1 ≤ 19 then some { x with storeCode := le v 0 1 } else none
  | 0x0006 => if n = 516 ∧ compatOk store (compatOf v) then some { x with compatEnable := bit (le v 0 4) 0, compat := compatOf v } else none
  | 0x0007 => if n = 8 ∧ le v 0 1 < 2 ∧ le v 1 1 < 2 ∧ le v 2 1 < 2 ∧ 0 < le v 4 2 ∧ le v 4 2 ≤ 3600 then some { x with
      arbMode := le v 0 1 = 1, arbSource := le v 1 1, preferred := le v 2 1, revertHoldS := le v 4 2 } else none
  | 0x0008 => if n = 8 then some { x with clockIdentity := be v 0 8 } else none
  | 0x0009 => if n = 4 ∧ limitMin s ≤ le v 0 2 ∧ le v 0 2 ≤ partPower s.part then some { x with limitW := some (le v 0 2) } else none
  | 0x000A => if n = 4 then some { x with
      testDisabled := bit (le v 0 4) 0, erDisabled := bit (le v 0 4) 1, factory := bit (le v 0 4) 2 } else none
  | 0x000B => if n = 4 ∧ le v 0 1 < 2 ∧ le v 1 1 < 2 then some { x with
      primaryB := le v 0 1 = 1, microcode1 := le v 1 1 = 1 } else none
  | 0x000C => if n % 8 = 0 ∧ (entriesOf 8 v).all (fun e => decide (le e 0 1 < 8 * tiles s)) then
      some { x with aui := (entriesOf 8 v).foldl (fun t e => tput t (le e 0 1) (e.drop 1)) [] } else none
  | 0x000D => if n % 16 = 0 ∧ (entriesOf 16 v).all (fun e => (firstBad (axisBad s e)).isNone) then
      some { x with motion := (entriesOf 16 v).foldl (fun t e => tput t (le e 0 1) e) [] } else none
  | 0x000E => if n % 4 = 0 ∧ (entriesOf 4 v).all (fun e => decide (le e 0 1 ≤ 0x13)) then
      some { x with thresholds := (entriesOf 4 v).foldl (fun t e => tput t (le e 0 1) (le e 2 2)) [] } else none
  | _ => some x

/-- The setting of a record at its default. -/
def unset (tag : Nat) (x : BootConf) : BootConf :=
  let d : BootConf := {}
  match tag with
  | 0x0001 => { x with subsystem := d.subsystem }
  | 0x0002 => { x with macBase := d.macBase }
  | 0x0003 => { x with masterPort := d.masterPort }
  | 0x0004 => { x with groups := d.groups }
  | 0x0005 => { x with storeCode := d.storeCode }
  | 0x0006 => { x with compatEnable := d.compatEnable, compat := d.compat }
  | 0x0007 => { x with arbMode := d.arbMode, arbSource := d.arbSource, preferred := d.preferred, revertHoldS := d.revertHoldS }
  | 0x0008 => { x with clockIdentity := d.clockIdentity }
  | 0x0009 => { x with limitW := d.limitW }
  | 0x000A => { x with testDisabled := d.testDisabled, erDisabled := d.erDisabled, factory := d.factory }
  | 0x000B => { x with primaryB := d.primaryB, microcode1 := d.microcode1 }
  | 0x000C => { x with aui := d.aui }
  | 0x000D => { x with motion := d.motion }
  | 0x000E => { x with thresholds := d.thresholds }
  | _ => x

/-- The records of a configuration: the settings, and whether one was skipped as out of range. -/
def records (s : State) (store : Nat) : Nat → List Byte → BootConf → Bool → BootConf × Bool
  | 0, _, x, e => (x, e)
  | k + 1, b, x, e =>
    if b.length < 4 then (x, e || !b.isEmpty)
    else
      let n := le b 2 2
      let v := (b.drop 4).take n
      let rest := b.drop (4 + (n + 3) / 4 * 4)
      if v.length < n then (unset (le b 0 2) x, true)
      else match record s store (le b 0 2) v x with
        | some y => records s store k rest y e
        | none => records s store k rest (unset (le b 0 2) x) true

def confLen (b : List Byte) : Nat := le b 4 4
def confSeqOf (b : List Byte) : Nat := le b 8 4

/-- Outcome of the check of a configuration copy: 1 passed; otherwise the nearest code of Table 18-3 (MAGIC 2, LENGTH 3, CRC 6). -/
def confResult (b : List Byte) : Nat :=
  if le b 0 4 ≠ 0x5EB70C0F then 2
  else if confLen b < 16 ∨ 65536 < confLen b ∨ b.length < confLen b then 3
  else if crc32 ((b.take (confLen b)).drop 16) ≠ le b 12 4 then 6
  else 1

/-- The entry of slot 6 (Table 18-9). -/
def confEntry (result : Nat) (seq len : Nat) : SlotEntry where
  state := if result = 1 then 1 else 2
  result := result
  version := seq
  payloadLen := len

/-- The records of a configuration. -/
def confRecords (b : List Byte) : List Byte := (b.take (confLen b)).drop 16

/-- The settings that a configuration gives, and whether a record was skipped. -/
def confOf (s : State) (b : List Byte) : BootConf × Bool :=
  records s (records s 19 b.length (confRecords b) {} false).1.storeCode b.length (confRecords b) {} false

/-- The configuration is in force: every port takes its size of STORE and its COMPAT tables. -/
def installConf (x : BootConf) (error : Bool) (s : State) : State :=
  let s := modBoot s fun b => { b with conf := x, recordError := error, confRead := true }
  (partTileList s).foldl (fun s p => modPort p (fun q => { q with
    barSize := x.storeCode, compatStage := x.compat, compatActive := x.compat }) s) s

/-- Outcome of the check of a copy of the configuration in the flash; one whose write was interrupted does not pass (R358). -/
def copyResult (s : State) (copy : Nat) (b : List Byte) : Nat := if s.boot.torn.contains (12 + copy) then 2 else confResult b

def copyPasses (s : State) (copy : Nat) (b : List Byte) : Bool := decide (copyResult s copy b = 1)

/-- R355: both copies are read. -/
def loadConf (a b : List Byte) (s : State) : State :=
  let pa := copyPasses s 0 a
  let pb := copyPasses s 1 b
  let newer := decide (0 < signed 32 (confSeqOf b + 2 ^ 32 - confSeqOf a))
  let useB := pb && (!pa || newer)
  let x := if useB then b else a
  let s := setSlot 6 (confEntry (copyResult s (b2n useB) x) (confSeqOf x) (confLen x)) s
  if pa || pb then
    installConf (confOf s x).1 (confOf s x).2 (modBoot s fun d => { d with configCopy := b2n useB, flashConf := b2n useB, confSeq := confSeqOf x, confBytes := x.take (confLen x) })
  else installConf {} false (modBoot s fun d => { d with configDefault := true })

/-- R355: the boot loader has read both copies of the boot configuration. -/
def execBootConfigLoad (copy0 copy1 : List Byte) (s : State) : Meaning := .next <|
  if inBoot s && !s.boot.confRead && (s.boot.stage == 1 || (s.boot.stage == 6 && s.boot.bootSrc)) then
    let s := loadConf (areaConf s 0 copy0) (areaConf s 1 copy1) (readArea 6 1 flashBlock (readArea 6 0 flashBlock s))
    if s.boot.stage = 1 then modBoot s fun b => { b with stage := 2 } else s
  else s

/-! ### Images in flash boot (R352) -/

/-- The boot loader starts: the copy that passed, or the one in ROM. -/
def startLoader (rom : Bool) (s : State) : State := modBoot s fun b => { b with stage := 1, loaderRuns := true, romLoader := rom }

/-- R352: the ROM stage has read a copy of the boot loader. -/
def execBootLoaderLoad (copy : Nat) (img : Image) (s : State) : Meaning := .next <|
  if inBoot s && s.boot.stage == 0 && copy == b2n s.boot.loaderFailed then
    let result := flashResult s 5 copy img
    let img := areaImage s 5 copy img
    let s := setSlot 5 (imageEntry result img.toImageCheck) (readImage 5 copy img s)
    if result = 1 then startLoader false s
    else if copy = 0 then modBoot s fun b => { b with loaderFailed := true }
    else startLoader true s
  else s

/-- The microcode is sent to every tile, and training starts (R354). -/
def sendMicrocode (which version : Nat) (s : State) : State :=
  modBoot s fun b => { b with microcode := which, microcodeVersion := version, microcodeSent := some s.clock, trained := [] }

/-- The selected one of two slots while it is not tried, then the other. -/
def nextSlot (second : Bool) (r0 r1 : Nat) : Option Nat :=
  let sel := b2n second
  let tried (i : Nat) : Bool := decide ((if i = 0 then r0 else r1) ≠ 0)
  if !tried sel then some sel else if !tried (1 - sel) then some (1 - sel) else none

/-- R352: the boot loader has read a microcode slot. -/
def execMicrocodeLoad (slot : Nat) (img : Image) (s : State) : Meaning := .next <|
  let b := s.boot
  if inBoot s && b.stage == 2 && (nextSlot b.conf.microcode1 b.m0Result b.m1Result).map (2 + ·) == some slot then
    let result := flashResult s slot 0 img
    let img := areaImage s slot 0 img
    let s := setSlot slot (imageEntry result img.toImageCheck) (readImage slot 0 img s)
    if result = 1 then modBoot (sendMicrocode (slot - 2) (le img.header 8 4) s) fun b => { b with stage := 3 } else s
  else s

/-- Alfel starts on engine 0. -/
def startAlfel (which : Nat) (e : SlotEntry) (s : State) : State :=
  maybeEndBoot (modBoot s fun b => { b with image := which, alfel := e, alfelStarted := true, stage := 4 })

/-- R352: the boot loader has read an Alfel slot. -/
def execAlfelLoad (slot : Nat) (img : Image) (s : State) : Meaning := .next <|
  let b := s.boot
  if inBoot s && b.stage == 3 && nextSlot b.conf.primaryB b.aResult b.bResult == some slot then
    let result := flashResult s slot 0 img
    let img := areaImage s slot 0 img
    let s := setSlot slot (imageEntry result img.toImageCheck) (readImage slot 0 img s)
    if result = 1 then startAlfel slot (imageEntry result img.toImageCheck) s else s
  else s

/-- Both slots of a kind have failed, so that the golden image is due. -/
def goldenDue (s : State) : Bool :=
  let b := s.boot
  inBoot s && ((b.stage == 2 && (nextSlot false b.m0Result b.m1Result).isNone)
    || (b.stage == 3 && (nextSlot false b.aResult b.bResult).isNone))

/-- R352: the boot loader has read the golden image. -/
def execGoldenLoad (outer micro alfel : ImageCheck) (s : State) : Meaning := .next <|
  if goldenDue s then
    let img : Image := { outer with parts := [micro, alfel] }
    let result := flashResult s 4 0 img
    let img := areaImage s 4 0 img
    let s := setSlot 4 (imageEntry result img.toImageCheck) (readImage 4 0 img s)
    match (if result = 1 then img.parts else []) with
    | [m, a] => startAlfel 2 (imageEntry 1 a) (sendMicrocode 2 (le m.header 8 4) s)
    | _ => modBoot s fun b => { b with stage := 6 }
  else s

/-- R354: a tile has checked its microcode and trained. -/
def execTileTrained (tile : Nat) (s : State) : Meaning := .next <|
  let due := (s.boot.microcodeSent.map fun t => decide (s.clock < t + 850 * ms)).getD false
  if inBoot s && due && serving s tile && !isTrained s tile && decide (s.boot.stage ≠ 7) then
    let s := modBoot s fun b => { b with trained := tput b.trained tile true }
    let s := modTime s fun v => { v with locked := tput v.locked tile true }
    maybeEndBoot (modCtl tile (fun c => { c with microcode := s.boot.microcodeVersion }) s)
  else s

/-- R29, R354: a tile is not trained 850 ms after it received the microcode. -/
def execTileTrainTimeout (tile : Nat) (s : State) : Meaning := .next <|
  let due := (s.boot.microcodeSent.map fun t => decide (t + 850 * ms ≤ s.clock)).getD false
  if inBoot s && due && serving s tile && !isTrained s tile then
    if tile = 0 then modBoot s fun b => { b with stage := 7 }
    else dropIsolated (enterService tile .outOfService (modPkg s fun p => { p with fault := tput p.fault tile true }))
  else s

/-! ### Registers (Table 18-7) -/

/-- The boot registers from 0x120, by word. -/
def bootReg (s : State) : Nat → Nat
  | 0 =>
    let b := s.boot
    b.stage + 2 ^ 4 * b.image + 2 ^ 6 * b.microcode + 2 ^ 8 * b.aResult + 2 ^ 12 * b.bResult + 2 ^ 16 * b.goldenResult
      + 2 ^ 20 * b.m0Result + 2 ^ 24 * b.m1Result + 2 ^ 28 * b2n b.configDefault + 2 ^ 29 * b.configCopy
      + 2 ^ 30 * b2n b.recordError + 2 ^ 31 * b2n b.romLoader
  | 1 => b2n s.boot.bootSrc + 2 * s.boot.bootPort + 2 ^ 4 * bootMaster s
  | 2 => s.boot.rollback
  | 3 => b2n s.boot.conf.primaryB + 2 * b2n s.boot.conf.microcode1
  | 4 => s.boot.bootMs % 65536
  | _ => 0

/-! ### Firmware commands (Table 18-8, Table 18-9) -/

def opFwQuery : OpDef where
  code := 0x0F01
  query := true
  idem := true
  modes := mBoot
  len := some 0
  room := 128
  act _ s := .done s {
    result := leBytes 4 (bootReg s 0) ++ leBytes 4 (bootReg s 1) ++ leBytes 1 s.boot.rollback
      ++ leBytes 1 (b2n s.boot.conf.primaryB) ++ leBytes 1 (b2n s.boot.conf.microcode1) ++ zeros 1 ++ leBytes 4 s.boot.bootMs
      ++ (List.range 7).flatMap fun n => entryBytes (slotOfFlash s n) }

def execFwQuery (c : Cmd) (s : State) : Meaning := .next (runOp opFwQuery c s)

/-- The slot that the selection names for the tiles' microcode. -/
def selectedMicro (s : State) : Nat := 2 + b2n s.boot.conf.microcode1
def selectedAlfel (s : State) : Nat := b2n s.boot.conf.primaryB

/-- R358: slots that a running package needs. -/
def slotInUse (s : State) (n : Nat) : Bool :=
  decide (n = selectedMicro s)
    || (decide (n < 2) && (List.range 2).any fun e => decide ((engOf s e).state ≠ .absent) && decide ((engOf s e).slot = n))

def opFwWrite : OpDef where
  code := 0x0F02
  idem := true
  master := true
  modes := mSafe
  len := some 24
  room := 16
  locked c s := (par c 0 1 == 4 || par c 0 1 == 5) && !s.boot.conf.factory
  bad c _ := [(0, decide (6 < par c 0 1)), (1, !isZero c.params 1 3),
    (4, decide (par c 4 4 = 0) || decide (slotBytes (par c 0 1) < par c 4 4)), (16, !isZero c.params 16 8)]
  align c _ := [(8, decide (par c 8 8 % 64 ≠ 0))]
  keys _ _ := [keyFlash]
  busy c s := s.boot.flashWrite.isSome || slotInUse s (par c 0 1)
  act c s :=
    let s := modBoot s fun b => { b with flashWrite := some (par c 0 1, s.eng.nextWait), flashLen := par c 4 4 }
    .wait (eraseHeader (par c 0 1) (writtenCopy s (par c 0 1)) (readRequests c.port (par c 8 8) (par c 4 4) (addWait 0x0F02 c [keyFlash] 16 s)))

def execFwWrite (c : Cmd) (s : State) : Meaning := .next (runOp opFwWrite c s)

/-- The entry of a slot as the check of one of its copies leaves it, with the result code: what the device has written there, else what the
row reads. -/
def checkSlot (s : State) (slot copy : Nat) (img : Image) (conf : List Byte) : Nat × SlotEntry :=
  if slot = 6 then
    let b := areaConf s copy conf
    (copyResult s copy b, confEntry (copyResult s copy b) (confSeqOf b) (confLen b))
  else
    let r := flashResult s slot copy img
    (r, imageEntry r (areaImage s slot copy img).toImageCheck)

/-- The next SEQ of the boot configuration (R358). -/
def nextSeq (s : State) : Nat := (s.boot.confSeq + 1) % 2 ^ 32

/-- A configuration with its SEQ. -/
def withSeq (seq : Nat) (b : List Byte) : List Byte := b.take 8 ++ leBytes 4 seq ++ b.drop 12

/-- An area of the flash is written whole. -/
def mendArea (area : Nat) (s : State) : State := modBoot s fun b => { b with torn := b.torn.filter fun a => decide (a ≠ area) }

/-- What has been programmed stands in an area: an image, or a copy of the configuration. -/
def storeImage (slot copy : Nat) (img : Image) (s : State) : State :=
  modBoot (mendArea (slot * 2 + copy) s) fun b => { b with flashImages := tput b.flashImages (slot * 2 + copy) img }
def storeConf (copy : Nat) (conf : List Byte) (s : State) : State :=
  modBoot (mendArea (12 + copy) s) fun b => { b with flashConfs := tput b.flashConfs copy conf }

/-- A copy of the configuration that the device has written is the current one (R355). -/
def takeCopy (copy seq : Nat) (b : List Byte) (s : State) : State :=
  bumpPkg (modBoot s fun x => { x with confSeq := seq, flashConf := copy, confBytes := b.take (confLen b) })

/-- R358: the write and its verification have ended; `programmed` unless the flash failed to program. -/
def execFwWriteDone (img : Image) (conf : List Byte) (programmed : Bool) (s : State) : Meaning := .next <|
  match s.boot.flashWrite with
  | none => s
  | some (slot, id) =>
    let s := modBoot s fun b => { b with flashWrite := none }
    let copy := writtenCopy s slot
    if !programmed then
      let area := slot * 2 + copy
      let s := modBoot s fun b => { b with torn := area :: b.torn.filter fun a => decide (a ≠ area) }
      finish id { status := .eHwFault } (setSlot slot { state := 2, result := 2 } s)
    else
      let seq := nextSeq s
      let s := programArea slot copy s.boot.flashLen s
      let s := if slot = 6 then storeConf copy (withSeq seq conf) s else storeImage slot copy img s
      let (r, e) := checkSlot s slot copy img conf
      let s := setSlot slot e s
      if r = 1 then
        let s := if slot = 6 then takeCopy copy seq (areaConf s copy conf) s else s
        finish id { result := entryBytes e } s
      else finish id { status := imageStatus r } s

/-- FW_VERIFY of a two-copy slot checks the copy that is in use. A check that fails leaves the slot's entry as it was: E_VERIFY and E_ROLLBACK change nothing (R10). -/
def opFwVerify (img : Image) (conf : List Byte) : OpDef where
  code := 0x0F03
  idem := true
  master := true
  modes := mSafe
  len := some 4
  room := 16
  bad c _ := [(0, decide (6 < par c 0 1)), (1, !isZero c.params 1 3)]
  keys _ _ := [keyFlash]
  busy _ s := s.boot.flashWrite.isSome
  act c s :=
    let copy := usedCopy s (par c 0 1)
    let (r, e) := checkSlot s (par c 0 1) copy img conf
    let s := readArea (par c 0 1) copy (if par c 0 1 = 6 then e.payloadLen else 512 + e.payloadLen) s
    if r = 1 then .done (setSlot (par c 0 1) e s) { result := entryBytes e } else .fail { status := imageStatus r }

def execFwVerify (c : Cmd) (img : Image) (conf : List Byte) (s : State) : Meaning := .next (runOp (opFwVerify img conf) c s)

/-- A slot is verified; one that is being written, or whose write was interrupted, is not (R358). -/
def verified (s : State) (n : Nat) : Bool :=
  decide ((slotOfFlash s n).state = 1) && !s.boot.torn.contains (n * 2) && s.boot.flashWrite.map (·.1) != some n

/-- Records of a configuration without its boot selection. -/
def dropSelection : Nat → List Byte → List Byte
  | 0, b => b
  | k + 1, b =>
    let n := 4 + (le b 2 2 + 3) / 4 * 4
    if b.length < 4 then b
    else if le b 0 2 = 0x000B then dropSelection k (b.drop n)
    else b.take n ++ dropSelection k (b.drop n)

/-- A configuration with the records of another, but for its own boot selection and SEQ (R360). -/
def selectConf (b : List Byte) (seq primary microcode : Nat) : List Byte :=
  let body := leBytes 2 0x000B ++ leBytes 2 4 ++ leBytes 1 primary ++ leBytes 1 microcode ++ zeros 2
    ++ dropSelection b.length (confRecords b)
  leBytes 4 0x5EB70C0F ++ leBytes 4 (16 + body.length) ++ leBytes 4 seq ++ leBytes 4 (crc32 body) ++ body

/-- FW_SELECT writes a copy of the configuration with the new selection; the next boot reads it. -/
def opFwSelect : OpDef where
  code := 0x0F04
  idem := true
  master := true
  cond := true
  modes := mSafe
  len := some 4
  room := 4
  bad c _ := [(0, decide (1 < par c 0 1)), (1, decide (1 < par c 1 1)), (2, !isZero c.params 2 2)]
  wrong c s := !verified s (par c 0 1) || !verified s (2 + par c 1 1)
  keys _ _ := [keyFlash]
  busy _ s := s.boot.flashWrite.isSome
  act c s :=
    let seq := nextSeq s
    let copy := writtenCopy s 6
    let b := selectConf s.boot.confBytes seq (par c 0 1) (par c 1 1)
    let s := programArea 6 copy b.length (eraseHeader 6 copy s)
    let s := setSlot 6 (confEntry 1 seq b.length) (takeCopy copy seq b (storeConf copy b s))
    .done (modBoot s fun x => { x with conf := { x.conf with primaryB := par c 0 1 = 1, microcode1 := par c 1 1 = 1 } })
      { result := leBytes 4 seq }

def execFwSelect (c : Cmd) (s : State) : Meaning := .next (runOp opFwSelect c s)

/-- The slots that must carry a security version (FW_ROLLBACK_ADVANCE). -/
def tooOld (s : State) (v : Nat) : Bool :=
  [4, selectedAlfel s, selectedMicro s].any fun n => !verified s n || decide ((slotOfFlash s n).security < v)

/-- FW_ROLLBACK_ADVANCE. Each step is one fuse: where one fails, the counter reads the last step that completed, a free one (R353, log
entry 89). -/
def opFwRollbackAdvance (programmed : Bool) : OpDef where
  code := 0x0F05
  idem := true
  master := true
  modes := 0x20
  len := some 8
  room := 4
  bad c s := [(0, decide (63 < par c 0 1) || decide (par c 0 1 < s.boot.rollback)), (1, !isZero c.params 1 3),
    (4, decide (par c 4 4 ≠ 0x5EB7))]
  wrong c s := decide (par c 0 1 ≠ s.boot.rollback) && tooOld s (par c 0 1)
  act c s :=
    if par c 0 1 ≠ s.boot.rollback ∧ programmed = false then
      .done (useFree (modBoot s fun b => { b with rollback := b.rollback + Config.freeFuses s.free % (par c 0 1 - b.rollback) }))
        { status := .eHwFault }
    else .done (modBoot s fun b => { b with rollback := par c 0 1 }) { result := leBytes 1 (par c 0 1) ++ zeros 3 }

def execFwRollbackAdvance (c : Cmd) (programmed : Bool) (s : State) : Meaning := .next (runOp (opFwRollbackAdvance programmed) c s)

/-- Bytes that a pushed KIND may have: those of its slot. -/
def pushBytes (kind : Nat) : Nat := if kind = 2 then slotBytes 0 else if kind = 3 then slotBytes 2 else slotBytes 6

def opFwPush (img : Image) (conf : List Byte) : OpDef where
  code := 0x0F10
  idem := true
  master := true
  modes := 0x8
  len := some 24
  room := 16
  bad c _ := [(0, !([2, 3, 5].contains (par c 0 1))), (1, !isZero c.params 1 3),
    (4, decide (par c 4 4 = 0) || decide (pushBytes (par c 0 1) < par c 4 4)), (16, !isZero c.params 16 8)]
  align c _ := [(8, decide (par c 8 8 % 64 ≠ 0))]
  wrong _ s := decide (s.boot.stage ≠ 6)
  act c s :=
    let s := readRequests c.port (par c 8 8) (par c 4 4) s
    let r := if par c 0 1 = 5 then confResult conf else imageResult s (par c 0 1) (pushBytes (par c 0 1)) img.toImageCheck
    let e := if par c 0 1 = 5 then confEntry r (confSeqOf conf) (confLen conf) else imageEntry r img.toImageCheck
    if r ≠ 1 then .done s { status := imageStatus r }
    else
      let s := if par c 0 1 = 2 then modBoot s fun b => { b with pushedAlfel := true, alfel := e }
        else if par c 0 1 = 3 then modBoot (sendMicrocode 3 e.version s) fun b => { b with pushedMicro := true }
        else installConf (confOf s conf).1 (confOf s conf).2 (modBoot s fun b => { b with configDefault := false })
      .done s { result := entryBytes e }

def execFwPush (c : Cmd) (img : Image) (conf : List Byte) (s : State) : Meaning := .next (runOp (opFwPush img conf) c s)

def opFwStart : OpDef where
  code := 0x0F11
  master := true
  modes := 0x8
  len := some 0
  wrong _ s := decide (s.boot.stage ≠ 6) || !s.boot.pushedMicro || !s.boot.pushedAlfel
  act _ s := .done (startAlfel 3 s.boot.alfel s) {}

def execFwStart (c : Cmd) (s : State) : Meaning := .next (runOp opFwStart c s)

end Sys2Proof.Machine
end

