-- ==== Sys2Proof/Machine/Package.lean ====
section
/-!
DEFINITION. Bootstrap pairs (R31, R58), the master role (R48, R52) and the package commands (Table 3-12).
-/
namespace Sys2Proof.Machine
open Sys2Proof

/-! ### Bootstrap pairs (R31, R58, Table 3-15) -/

def blockOfPort (s : State) (p : Nat) : BootBlock := tget {} s.eng.bootBlocks p
def modBlockOf (p : Nat) (f : BootBlock → BootBlock) (s : State) : State :=
  modEng s fun e => { e with bootBlocks := tmod {} e.bootBlocks p f }

/-- OPEN is written to the CE_BOOT_CTRL of a block: only that of the writing port acts (R33). -/
def writeOpen (port block : Nat) (s : State) : State :=
  if port = block then modBlockOf port (fun b => { b with opening := true }) s else ignoreWrite port s

def execBootstrapOpen (port block : Nat) (s : State) : Meaning := .next (if port < tiles s then writeOpen port block s else s)

/-- A queue of a bootstrap pair, at its start. -/
def bootQueue (ty : QType) (base log2 vector : Nat) : Queue := { qtype := ty, size := 2 ^ log2, base := base, vector := vector }

/-- The pair opens with the values of its block (R31). -/
def openPair (p : Nat) (s : State) : State :=
  let b := blockOfPort s p
  let s := createObj (queueSlot (cmdQueue p 0)) p (putQueue (cmdQueue p 0) (bootQueue .command b.cqBase b.cqLog2 0) s)
  let s := createObj (queueSlot (replyQueue p 0)) p (putQueue (replyQueue p 0) (bootQueue .reply b.rqBase b.rqLog2 b.vector) s)
  let s := modBlockOf p (fun b => { b with state := 1, code := .ok }) s
  if s.pkg.masterPort = p then modPkg s fun k => { k with vacancyAt := none } else s

def badLog2 (n : Nat) : Bool := decide (n < 8) || decide (16 < n)

/-- R58: OPEN takes effect: the pair opens, or is refused. The model's own choices (log entry 77): of several refusals the mode comes
first, then an open pair, then the sizes; OPEN of an open pair leaves STATE at open, with CODE E_BUSY. -/
def execBootstrapOpened (port : Nat) (s : State) : Meaning := .next <|
  let b := blockOfPort s port
  if !b.opening then s
  else
    let s := modBlockOf port (fun b => { b with opening := false }) s
    if modeCode s.pkg.mode < 4 then modBlockOf port (fun b => { b with state := 2, code := .eState }) s
    else if b.state = 1 then modBlockOf port (fun b => { b with code := .eBusy }) s
    else if badLog2 b.cqLog2 || badLog2 b.rqLog2 then modBlockOf port (fun b => { b with state := 2, code := .eParam }) s
    else openPair port s

/-! ### The master role (R48, R52) -/

/-- R52: the master port has not opened its pair within the orphan grace. -/
def execMasterRoleVacant (s : State) : Meaning := .next <|
  match s.pkg.vacancyAt with
  | some t =>
    if t ≤ s.clock then modPkg s fun p => { p with vacant := true, vacancyAt := none, masterGen := p.masterGen + 1 } else s
  | none => s

/-- PKG_MASTER_PORT (Table 3-13). -/
def masterReg (s : State) : Nat := s.pkg.masterPort + 8 * b2n s.pkg.vacant + 2 ^ 16 * s.pkg.masterGen.toNat

/-- A port takes the role; nothing changes when it holds it. -/
def takeRole (p : Nat) (s : State) : State × Answer :=
  let old := s.pkg.masterPort
  let s' := if old = p ∧ s.pkg.vacant = false then s
    else bumpPkg (modPkg s fun k => { k with masterPort := p, vacant := false, vacancyAt := none, masterGen := k.masterGen + 1 })
  (s', { result := leBytes 1 old ++ leBytes 1 p ++ leBytes 2 s'.pkg.masterGen.toNat })

def opMasterSet : OpDef where
  code := 0x0102
  idem := true
  master := true
  cond := true
  modes := mSafe
  len := some 4
  room := 4
  bad c s := [(0, decide (tiles s ≤ par c 0 1) || !connected s (par c 0 1)), (1, !isZero c.params 1 3)]
  act c s := .done (takeRole (par c 0 1) s).1 (takeRole (par c 0 1) s).2

def execMasterSet (c : Cmd) (s : State) : Meaning := .next (runOp opMasterSet c s)

def opMasterClaim : OpDef where
  code := 0x0103
  idem := true
  modes := mSafe
  len := some 0
  room := 4
  wrong c s := !s.pkg.vacant && decide (s.pkg.masterPort ≠ c.port)
  act c s := .done (takeRole c.port s).1 (takeRole c.port s).2

def execMasterClaim (c : Cmd) (s : State) : Meaning := .next (runOp opMasterClaim c s)

/-! ### NOP, PKG_INFO, PKG_RESET (Table 3-12) -/

def opNop : OpDef where
  code := 0x0100
  query := true
  idem := true
  modes := mBoot
  room := 4096
  act c s := .done s { result := c.params }

def execNop (c : Cmd) (s : State) : Meaning := .next (runOp opNop c s)

/-- PORTS_UP: bit p is set while port p is connected. -/
def portsUp (s : State) : Nat := sumOver (fun p => 2 ^ p * b2n (connected s p)) (partTileList s)

/-- Revision ID of stepping B0 (R2). -/
def revision : Nat := 0x10

def opPkgInfo : OpDef where
  code := 0x0101
  query := true
  idem := true
  modes := mBoot
  len := some 0
  room := 24
  act _ s := .done s {
    result := leBytes 2 (partDevice s.part) ++ leBytes 1 revision ++ leBytes 1 (tiles s) ++ leBytes 1 (portsUp s)
      ++ leBytes 1 s.pkg.masterPort ++ zeros 2 ++ leBytes 4 (versionOf s s.eng.active)
      ++ leBytes 4 (b2n s.boot.conf.compatEnable + 2 * b2n (arbMode s)) ++ leBytes 4 s.eng.orphanGraceMs
      ++ leBytes 4 s.eng.configGen.toNat }

def execPkgInfo (c : Cmd) (s : State) : Meaning := .next (runOp opPkgInfo c s)

/-- PKG_RESET replies OK, and then the package is reset. -/
def opPkgReset : OpDef where
  code := 0x0104
  master := true
  modes := mSafe
  len := some 4
  bad c _ := [(0, decide (par c 0 4 ≠ 0x5EB7))]
  act c s := .wait (packageReset 4 c.port (answer 0x0104 c {} s))

def execPkgReset (c : Cmd) (s : State) : Meaning := .next (runOp opPkgReset c s)

end Sys2Proof.Machine
end

