-- ==== Sys2Proof/Machine/Ptp.lean ====
section
/-!
DEFINITION. The package as a PTP clock (R251 to R258): the messages of the firmware, the best master clock algorithm, the offset and
delay formulas of the standard, and the PTP commands. Formats, comparison and states are those of IEEE 1588 (log entry 86).
-/
namespace Sys2Proof.Machine
open Sys2Proof

def modPtp (l : Nat) (f : PtpPort → PtpPort) (s : State) : State :=
  modTime s fun v => { v with ptpPorts := tmod {} v.ptpPorts l f }

/-- The firmware runs the protocol: FIRMWARE mode, and an engine to run it (R253, R306). -/
def firmwareRuns (s : State) : Bool := decide (s.time.clock ≠ .host) && !s.eng.stopped

/-- The clockIdentity in force (R252). -/
def clockIdentity (s : State) : Nat :=
  let m := s.boot.conf.macBase
  if s.time.clockDs.identity ≠ 0 then s.time.clockDs.identity
  else if s.boot.conf.clockIdentity ≠ 0 then s.boot.conf.clockIdentity
  else m / 2 ^ 24 * 2 ^ 40 + 0xFFFE * 2 ^ 24 + m % 2 ^ 24

/-- sourcePortIdentity of a port: clockIdentity and portNumber n + 1 (R252). -/
def portIdentity (s : State) (l : Nat) : List Byte := beBytes 8 (clockIdentity s) ++ beBytes 2 (l + 1)

/-! ### portState: 4 LISTENING, 6 MASTER, 7 PASSIVE, 8 UNCALIBRATED, 9 SLAVE -/

def listening : Nat := 4
def masterState : Nat := 6
def passive : Nat := 7
def uncalibrated : Nat := 8
def slaveState : Nat := 9

/-- A port takes a portState; entry to SLAVE starts sampling (Table 12-3). -/
def setPortState (l st : Nat) (s : State) : State :=
  let old := (ptpPort s l).portState
  let s := modPtp l (fun p => { p with portState := st }) s
  if st = slaveState ∧ old ≠ slaveState then
    let s := modTime s fun v => { v with slaveLane := some l }
    match s.time.clock with
    | .freeRun | .holdover => setClock .acquiring (modTime s fun v => { v with run := [], lockCount := 0 })
    | _ => s
  else if st ≠ slaveState ∧ s.time.slaveLane = some l then modTime s fun v => { v with slaveLane := none }
  else s

/-- State of a port that hears no master: a masterOnly port is MASTER, a slaveOnly clock listens. -/
def startState (p : PtpPort) : Nat := if p.masterOnly then masterState else listening

/-- The protocol starts again on every enabled port. -/
def restartPorts (s : State) : State :=
  modTime s fun v => { v with
    slaveLane := none
    ptpPorts := v.ptpPorts.map fun (l, p) => (l, if p.enabled then
      { p with portState := startState p, foreign := [], lastAnnounce := s.clock, syncHeld := none, lag := none, request := none, respHeld := none }
    else p) }

/-! ### The best master clock algorithm (R251) -/

/-- The clock's own data set. -/
def ownMaster (s : State) : PtpMaster :=
  let d := s.time.clockDs
  { priority1 := d.priority1, quality := d.clockClass * 2 ^ 24 + d.accuracy * 2 ^ 16 + d.variance, priority2 := d.priority2
    identity := clockIdentity s, steps := 0, senderIdentity := clockIdentity s, senderPort := 0, timeSource := 0xA0 }

/-- Lexicographic order of two lists of attributes. -/
def listLess : List Nat → List Nat → Bool
  | a :: x, b :: y => decide (a < b) || (a == b && listLess x y)
  | _, _ => false

/-- One master is better than another, or better by topology: default data set comparison. Each is heard on a port of the clock, which
decides last. -/
def masterBetter : Nat × PtpMaster → Nat × PtpMaster → Bool
  | (la, a), (lb, b) =>
    if a.identity = b.identity then
      listLess [a.steps, a.senderIdentity, a.senderPort, la] [b.steps, b.senderIdentity, b.senderPort, lb]
    else listLess [a.priority1, a.quality, a.priority2, a.identity] [b.priority1, b.quality, b.priority2, b.identity]

/-- A master that is better is so by topology only: one grandmaster, and as many steps, or one step fewer than a master whose sender
has a lower identity than the receiver, this clock. -/
def betterByTopology (me : Nat) (a b : PtpMaster) : Bool :=
  a.identity == b.identity && (a.steps == b.steps || (a.steps + 1 == b.steps && decide (b.senderIdentity < me)))

/-- A master is qualified: its last two Announces came within four intervals (log entry 86). -/
def qualified (now interval : Nat) (m : PtpMaster) : Bool :=
  decide (m.steps < 255) && (m.heard[1]?.map fun t => decide (now ≤ t + 4 * interval)).getD false

/-- A master was heard within four intervals. -/
def fresh (now interval : Nat) (m : PtpMaster) : Bool := (m.heard.head?.map fun t => decide (now ≤ t + 4 * interval)).getD false

/-- 2^log seconds in nanoseconds, for a signed octet. -/
def logInterval (octet : Nat) : Nat :=
  let e := signed 8 octet
  if e < 0 then 1000000000 / 2 ^ e.natAbs else 1000000000 * 2 ^ e.toNat

def bestOf (ms : List (Nat × PtpMaster)) : Option (Nat × PtpMaster) :=
  ms.foldl (fun best m => match best with
    | some b => if masterBetter m b then some m else best
    | none => some m) none

/-- The best master heard on a port, with the port. -/
def portBest (s : State) (l : Nat) (p : PtpPort) : Option (Nat × PtpMaster) :=
  if p.enabled && !p.masterOnly then bestOf ((p.foreign.filter (qualified s.clock (logInterval p.logAnnounce))).map fun m => (l, m))
  else none

/-- The best master of all ports, with its port. -/
def clockBest (s : State) : Option (Nat × PtpMaster) := bestOf (s.time.ptpPorts.filterMap fun (l, p) => portBest s l p)

/-- A port is a slave, or about to be. -/
def followsMaster (p : PtpPort) : Bool := p.portState == slaveState || p.portState == uncalibrated

/-- State that the algorithm recommends for a port. A MASTER or a SLAVE to be needs no time of its own (log entry 86). -/
def recommended (s : State) (l : Nat) (p : PtpPort) : Nat :=
  let own := (l, ownMaster s)
  let here := portBest s l p
  match clockBest s with
  | none => p.portState
  | some (bestLane, best) =>
    if s.time.clockDs.slaveOnly then
      if l = bestLane then (if p.portState = slaveState then slaveState else uncalibrated) else startState p
    else if s.time.clockDs.clockClass < 128 then
      match here with
      | none => p.portState
      | some m => if masterBetter own m then masterState else passive
    else if masterBetter own (bestLane, best) then (if here.isNone ∧ p.portState = listening then listening else masterState)
    else if l = bestLane then (if p.portState = slaveState then slaveState else uncalibrated)
    else match here with
      | none => if p.portState = listening then listening else masterState
      | some (_, m) => if betterByTopology (clockIdentity s) best m then passive else masterState

/-- A new parent: its data set is kept. -/
def adoptParent (m : PtpMaster) (s : State) : State :=
  modTime s fun v => { v with clockDs := { v.clockDs with
    gmIdentity := m.identity, gmPriority1 := m.priority1, gmQuality := m.quality, gmPriority2 := m.priority2
    gmTimeSource := m.timeSource, parentIdentity := m.senderIdentity, parentPort := m.senderPort
    stepsRemoved := if m.senderPort = 0 then 0 else m.steps + 1 } }

/-- The protocol's own state is lost with the engine that ran it: settings and the servo remain (R312, Table 15-4). -/
def forgetProtocol (s : State) : State :=
  if s.time.clock = .host then s
  else
    adoptParent (ownMaster s) (modTime (restartPorts s) fun v => { v with
      ptpPorts := v.ptpPorts.map fun (l, p) => (l, { p with meanDelayQ8 := 0, seqs := [], sentAt := [] }) })

/-- A master other than the present parent or grandmaster. -/
def newMaster (s : State) (m : PtpMaster) : Bool :=
  let d := s.time.clockDs
  decide (d.gmIdentity ≠ m.identity ∨ d.parentIdentity ≠ m.senderIdentity ∨ d.parentPort ≠ m.senderPort)

/-- The state decision on every enabled port. A change of parent or grandmaster makes the slave port uncalibrated again. -/
def decideStates (s : State) : State :=
  let plan := (s.time.ptpPorts.filter (·.2.enabled)).map fun (l, p) => (l, recommended s l p)
  let chosen := (clockBest s).filter fun (l, _) => plan.any fun (k, st) => k == l && decide (uncalibrated ≤ st)
  let s := match chosen with
    | some (l, m) =>
      let changed := newMaster s m
      let s := adoptParent m s
      if changed ∧ (ptpPort s l).portState = slaveState then setPortState l uncalibrated (loseMaster s) else s
    | none => if plan.any fun (_, st) => st == masterState then adoptParent (ownMaster s) s else s
  plan.foldl (fun s (l, st) =>
    if (ptpPort s l).portState = st ∨ ((ptpPort s l).portState = uncalibrated ∧ st = slaveState) then s
    else
      let lost := (ptpPort s l).portState = slaveState
      let s := modPtp l (fun p => { p with syncHeld := none, lag := none }) (setPortState l st s)
      if lost then loseMaster s else s) s

/-! ### Messages (R251, R253) -/

/-- SECONDS and NANOSECONDS of a time; the fraction goes with the correctionField. -/
def ptpStamp (t : Nat) : List Byte := beBytes 6 (timeSec t) ++ beBytes 4 (timeNs t)

/-- The group and the UDP port of a message, or the layer 2 groups (Table 12-2). -/
def ptpFrame (s : State) (l ty : Nat) (msg : List Byte) : List Byte :=
  let x := laneOf s l
  if (ptpPort s l).udp then
    let port := if ty ≤ 3 then 319 else 320
    let udp := udpDatagram x.ip ptpGroup port port msg
    beBytes 6 0x01005E000181 ++ macBytes x.mac ++ beBytes 2 0x0800 ++ ipHeader s.free (20 + udp.length) x.ip ptpGroup ++ udp
  else
    beBytes 6 (if ty = 2 ∨ ty = 3 ∨ ty = 10 then 0x0180C200000E else 0x011B19000000) ++ macBytes x.mac ++ beBytes 2 0x88F7 ++ msg

/-- controlField of a messageType. -/
def ptpControl : Nat → Nat
  | 0 => 0 | 1 => 1 | 8 => 2 | 9 => 3 | _ => 5

/-- logMessageInterval of a messageType. -/
def ptpLogInterval (p : PtpPort) : Nat → Nat
  | 0 | 8 => p.logSync | 11 => p.logAnnounce | 9 => p.logDelay | _ => 0x7F

/-- A message: the common header and a body. `flags` is the flagField, `corr` the correctionField in 2^-16 ns. -/
def ptpMessage (s : State) (l ty flags seq : Nat) (corr : Int) (body : List Byte) : List Byte :=
  beBytes 1 ty ++ [0x12] ++ beBytes 2 (34 + body.length) ++ beBytes 1 s.time.clockDs.domain ++ [0] ++ beBytes 2 flags
    ++ beBytes 8 (unsigned 64 corr) ++ zeros 4 ++ portIdentity s l ++ beBytes 2 seq ++ beBytes 1 (ptpControl ty)
    ++ beBytes 1 (ptpLogInterval (ptpPort s l) ty) ++ body

/-- Sends a message. The transmit stamp of an event message enters the queue, which the firmware reads at once (R254). -/
def sendPtp (l ty flags seq : Nat) (corr : Int) (body : List Byte) (s : State) : State :=
  let b := ptpFrame s l ty (ptpMessage s l ty flags seq corr body)
  let drain (s : State) : State := modTime s fun v => { v with txts := tput v.txts (l / 8) [] }
  drain (stampTx l b (sendFrame l b (drain (useFree s))))

/-- twoStepFlag. -/
def twoStep : Nat := 0x0200

/-- The originTimestamp of a message that needs none: the standard leaves it to the sender (zero or an estimate), so it is the row's. -/
def originStamp (origin : List Byte) : List Byte := (origin ++ zeros 10).take 10

/-- Body of an Announce: the UTC offset as PTP_CLOCK_SET gives it (R246), and the grandmaster. -/
def announceBody (origin : List Byte) (s : State) : List Byte :=
  let d := s.time.clockDs
  let slave := s.time.ptpPorts.any fun (_, p) => p.enabled && followsMaster p
  let gm : PtpMaster := if slave then
    { priority1 := d.gmPriority1, quality := d.gmQuality, priority2 := d.gmPriority2, identity := d.gmIdentity, steps := d.stepsRemoved
      senderIdentity := 0, senderPort := 0, timeSource := d.gmTimeSource } else ownMaster s
  originStamp origin ++ beBytes 2 (unsigned 16 s.time.utcOffset) ++ zeros 1 ++ beBytes 1 gm.priority1 ++ beBytes 4 gm.quality
    ++ beBytes 1 gm.priority2 ++ beBytes 8 gm.identity ++ beBytes 2 gm.steps ++ beBytes 1 gm.timeSource

/-- Announce flags: currentUtcOffsetValid and ptpTimescale. -/
def announceFlags (s : State) : Nat := 4 * b2n s.time.utcValid + 8 * b2n s.time.ptpTimescale

/-- A port may send a message of a type in its state (Table 12-2). -/
def mayTransmit (p : PtpPort) : Nat → Bool
  | 0 | 11 => p.portState == masterState
  | 1 => !p.p2p && followsMaster p
  | 2 => p.p2p && decide (listening ≤ p.portState)
  | _ => false

/-- The interval of a message has passed since the last one; a Delay_Req may follow each Sync (Table 12-4). -/
def intervalPassed (s : State) (p : PtpPort) (ty : Nat) : Bool :=
  let i := match ty with
    | 0 => logInterval p.logSync
    | 11 => logInterval p.logAnnounce
    | 2 => logInterval p.logDelay
    | _ => 0
  match tget? p.sentAt ty with
  | some t => decide (t + i ≤ s.clock)
  | none => true

/-! ### Received messages (R251, R253) -/

/-- The message of a PTP frame: after the Ethernet header, or after IPv4 and UDP headers. -/
def ptpBytes (f : RxFrame) : List Byte := if be f.bytes 12 2 = 0x88F7 then f.bytes.drop 14 else f.bytes.drop 42

/-- The shortest message of a type. -/
def ptpLeast : Nat → Nat
  | 0 | 1 | 8 => 44 | 2 | 3 | 9 | 10 => 54 | 11 => 64 | _ => 34

/-- A message that is too short for its type or its own length, or of another version. -/
def ptpMalformed (m : List Byte) : Bool :=
  decide (m.length < ptpLeast (be m 0 1 % 16)) || decide (be m 2 2 < ptpLeast (be m 0 1 % 16)) || decide (m.length < be m 2 2)
    || be m 1 1 % 16 != 2

/-- A time in a message, in 2^-16 ns. -/
def ptpTime (m : List Byte) (off : Nat) : Int := ((be m off 6 * 1000000000 + be m (off + 6) 4) * 65536 : Nat)

/-- correctionField, in 2^-16 ns. -/
def ptpCorrection (m : List Byte) : Int := signed 64 (be m 8 8)

/-- The mean path delay measured: a sum of two delays in 2^-16 ns, as 1/256 ns. -/
def setDelay (l : Nat) (sum : Int) (s : State) : State :=
  modPtp l (fun p => { p with meanDelayQ8 := freeDiv s.free sum 512 }) (useFree s)

/-- The lag of a Sync gives an offset sample on the SLAVE port: the mean path delay and ASYM are taken off (R258). The first one from a
new master ends UNCALIBRATED. -/
def takeLag (l : Nat) (lag : Int) (o : PtpOutcome) (s : State) : State :=
  let p := ptpPort s l
  let s := modPtp l (fun p => { p with lag := some lag, syncHeld := none }) s
  if p.portState = slaveState then
    servoSample (freeDiv s.free (lag - (p.meanDelayQ8 + p.asymQ8) * 256) 65536) o.freqAdj (useFree s)
  else if p.portState = uncalibrated then setPortState l slaveState s
  else s

/-- The sender of a message is the parent of the clock. -/
def fromParent (s : State) (m : List Byte) : Bool :=
  be m 20 8 == s.time.clockDs.parentIdentity && be m 28 2 == s.time.clockDs.parentPort

def takeSync (l : Nat) (f : RxFrame) (m : List Byte) (o : PtpOutcome) (s : State) : State :=
  let s := modPtp l (fun p => { p with syncRx := p.syncRx + 1 }) s
  if !(followsMaster (ptpPort s l) && fromParent s m) then s
  else if bit (be m 6 2) 9 then modPtp l (fun p => { p with syncHeld := some (be m 30 2, f.stamp, ptpCorrection m) }) s
  else takeLag l (f.stamp - ptpTime m 34 - ptpCorrection m) o s

def takeFollowUp (l : Nat) (m : List Byte) (o : PtpOutcome) (s : State) : State :=
  match (ptpPort s l).syncHeld with
  | some (seq, t2, corr) =>
    if followsMaster (ptpPort s l) && fromParent s m && seq == be m 30 2 then
      takeLag l (t2 - ptpTime m 34 - corr - ptpCorrection m) o s
    else s
  | none => s

/-- A response to the port's own last request. -/
def answersUs (s : State) (l : Nat) (m : List Byte) : Bool :=
  be m 44 8 == clockIdentity s && be m 52 2 == l + 1 && (ptpPort s l).request.any fun (seq, _) => seq == be m 30 2

def takeDelayResp (l : Nat) (m : List Byte) (s : State) : State :=
  let p := ptpPort s l
  match p.request, p.lag with
  | some (_, t3), some lag =>
    if !p.p2p && followsMaster p && fromParent s m && answersUs s l m then
      modPtp l (fun p => { p with request := none })
        (setDelay l (lag - p.asymQ8 * 256 + ptpTime m 34 - t3 - ptpCorrection m) s)
    else s
  | _, _ => s

def takePdelayResp (l : Nat) (f : RxFrame) (m : List Byte) (s : State) : State :=
  let p := ptpPort s l
  match p.request with
  | some (seq, t1) =>
    if !(p.p2p && answersUs s l m) then s
    else if bit (be m 6 2) 9 then
      modPtp l (fun p => { p with respHeld := some (seq, (ptpTime m 34).toNat, f.stamp, ptpCorrection m + p.asymQ8 * 256) }) s
    else modPtp l (fun p => { p with request := none }) (setDelay l (f.stamp - t1 - (ptpCorrection m + p.asymQ8 * 256)) s)
  | none => s

def takePdelayFollowUp (l : Nat) (m : List Byte) (s : State) : State :=
  let p := ptpPort s l
  match p.request, p.respHeld with
  | some (_, t1), some (seq, t2, t4, corr) =>
    if p.p2p && answersUs s l m && seq == be m 30 2 then
      modPtp l (fun p => { p with request := none, respHeld := none })
        (setDelay l ((t4 : Int) - t1 - (ptpTime m 34 - t2) - corr - ptpCorrection m) s)
    else s
  | _, _ => s

/-- An Announce: the sender becomes, or stays, a master heard on the port, and the states are decided anew. -/
def takeAnnounce (l : Nat) (m : List Byte) (s : State) : State :=
  let p := ptpPort s l
  if p.masterOnly ∨ be m 20 8 = clockIdentity s then s
  else
    let mine (x : PtpMaster) : Bool := x.senderIdentity == be m 20 8 && x.senderPort == be m 28 2
    let heard := ((p.foreign.find? mine).map (·.heard)).getD []
    let x : PtpMaster := { priority1 := be m 47 1, quality := be m 48 4, priority2 := be m 52 1, identity := be m 53 8, steps := be m 61 2
                           senderIdentity := be m 20 8, senderPort := be m 28 2, timeSource := be m 63 1, heard := (s.clock :: heard).take 2 }
    let last := if followsMaster p && !fromParent s m then p.lastAnnounce else s.clock
    decideStates (modPtp l (fun p => { p with
      lastAnnounce := last, foreign := x :: (p.foreign.filter fun y => !mine y).filter (fresh s.clock (logInterval p.logAnnounce)) }) s)

/-- Answers a Delay_Req (R251). -/
def answerDelay (l : Nat) (f : RxFrame) (m : List Byte) (s : State) : State :=
  let p := ptpPort s l
  if p.p2p || p.portState != masterState || !isUp s l then s
  else sendPtp l 9 0 (be m 30 2) (ptpCorrection m - timeFrac f.stamp) (ptpStamp f.stamp ++ (m.drop 20).take 10) s

/-- Answers a Pdelay_Req with Pdelay_Resp and its follow-up (R251). -/
def answerPdelay (l : Nat) (f : RxFrame) (m : List Byte) (s : State) : State :=
  let p := ptpPort s l
  if !p.p2p || decide (p.portState < listening) || !isUp s l then s
  else
    let who := (m.drop 20).take 10
    let t := txStamp s l
    sendPtp l 10 0 (be m 30 2) (ptpCorrection m + timeFrac t) (ptpStamp t ++ who)
      (sendPtp l 3 twoStep (be m 30 2) (-(timeFrac f.stamp : Int)) (ptpStamp f.stamp ++ who) s)

/-- A message carries the sdoId of Table 12-2's one domain, 0 (log entry 86). -/
def ourSdo (m : List Byte) : Bool := decide (be m 0 1 < 16) && be m 5 1 == 0

/-- The firmware takes a message in. One of another domain or another transport is no message of the port, and management messages are
ignored (Table 12-2). -/
def firmware (l : Nat) (f : RxFrame) (o : PtpOutcome) (s : State) : State :=
  let m := ptpBytes f
  if !ourSdo m ∨ be m 4 1 ≠ s.time.clockDs.domain ∨ (be f.bytes 12 2 ≠ 0x88F7) ≠ ((ptpPort s l).udp = true) then s
  else match be m 0 1 % 16 with
  | 0 => takeSync l f m o s
  | 1 => answerDelay l f m s
  | 2 => answerPdelay l f m s
  | 3 => takePdelayResp l f m s
  | 8 => takeFollowUp l m o s
  | 9 => takeDelayResp l m s
  | 10 => takePdelayFollowUp l m s
  | 11 => takeAnnounce l m s
  | _ => s

def dropPtp (l : Nat) (s : State) : State := modPtp l (fun p => { p with dropped := satU 32 (p.dropped + 1) }) s

/-- R253: the oldest PTP frame of a port is taken in. While no engine runs, frames wait and the servo keeps its state (R306). -/
def execPtpMessageReceive (lane : Nat) (outcome : PtpOutcome) (s : State) : Meaning := .next <|
  match (laneOf s lane).toTime with
  | [] => s
  | f :: rest =>
    if s.time.clock ≠ .host ∧ s.eng.stopped then s
    else
      let s := modLane lane (fun x => { x with toTime := rest }) s
      if !(ptpPort s lane).enabled || outcome.malformed || ptpMalformed (ptpBytes f) then dropPtp lane s
      else if s.time.clock = .host then mgmtDeliver lane (if be f.bytes 12 2 = 0x0800 then 4 else 6) f s
      else firmware lane f outcome s

/-- R255: no Announce for announceReceiptTimeout intervals on a port that waits for them. -/
def execAnnounceReceiptTimeout (lane : Nat) (s : State) : Meaning := .next <|
  let p := ptpPort s lane
  if p.enabled && firmwareRuns s && (followsMaster p || p.portState == listening || p.portState == passive)
      && decide (p.lastAnnounce + p.announceTimeout * logInterval p.logAnnounce ≤ s.clock) then
    let s := if p.portState = slaveState ∨ s.time.slaveLane = none then loseMaster s else s
    let st := if s.time.clockDs.slaveOnly then listening else masterState
    decideStates (modPtp lane (fun p => { p with foreign := [], lastAnnounce := s.clock, syncHeld := none, lag := none })
      (setPortState lane st s))
  else s

/-! ### Commands (Table 12-11) -/

/-- A change of servo mode (R253): to HOST, or to FREE_RUN. The protocol stops, or starts, on every port. -/
def setServo (host : Bool) (s : State) : State :=
  if host == decide (s.time.clock = .host) then s else setClock (if host then .host else .freeRun) (restartPorts s)

def opTimeServoSet : OpDef where
  code := 0x0904
  idem := true
  master := true
  cond := true
  modes := mSafe
  len := some 16
  room := 4
  bad c _ :=
    [(0, decide (1 < par c 0 1)), (1, decide (par c 1 1 < 2) || decide (64 < par c 1 1)), (2, decide (par c 2 2 < 10)),
     (4, decide (par c 4 4 < 100) || decide (1000000000 < par c 4 4)), (8, decide (par c 8 2 < 5) || decide (10000 < par c 8 2)),
     (10, !isZero c.params 10 6)]
  act c s :=
    let prev := b2n (decide (s.time.clock = .host))
    let v := s.time
    let same := prev == par c 0 1 && v.consistent == par c 1 1 && v.pathStepNs == par c 2 2 && v.stepMinNs == par c 4 4 && v.lockNs == par c 8 2
    let s' := setServo (par c 0 1 == 1) (modTime s fun v => { v with
      consistent := par c 1 1, pathStepNs := par c 2 2, stepMinNs := par c 4 4, lockNs := par c 8 2 })
    .done (if same then s' else bumpPkg s') { result := [BitVec.ofNat 8 prev, 0, 0, 0] }

def execTimeServoSet (c : Cmd) (s : State) : Meaning := .next (runOp opTimeServoSet c s)

/-- PTP ports that are enabled, other than a lane. -/
def otherPtp (s : State) (l : Nat) : Nat := (s.time.ptpPorts.filter fun (k, p) => k ≠ l && p.enabled).length

def clockDsOf (c : Cmd) (d : PtpClock) : PtpClock := { d with
  domain := par c 0 1, boundary := par c 1 1 == 1, priority1 := par c 2 1, priority2 := par c 3 1, clockClass := par c 4 1
  accuracy := par c 5 1, variance := par c 6 2, slaveOnly := bit (par c 8 1) 0, identity := par c 12 8 }

def opPtpClockSet : OpDef where
  code := 0x0910
  idem := true
  master := true
  cond := true
  modes := mSafe
  len := some 32
  bad c _ :=
    [(0, decide (127 < par c 0 1)), (1, decide (1 < par c 1 1)), (8, decide (8 ≤ par c 8 1)), (9, !isZero c.params 9 1),
     (12, decide (par c 12 8 = 2 ^ 64 - 1)), (20, !isZero c.params 20 12)]
  wrong c s := par c 1 1 == 0 && decide (1 < otherPtp s 1000)
  act c s :=
    let s' := modTime s fun v => { v with
      clockDs := clockDsOf c v.clockDs, utcValid := bit (par c 8 1) 1, ptpTimescale := bit (par c 8 1) 2
      utcOffset := signed 16 (par c 10 2) }
    .done (if s'.time = s.time then s' else bumpPkg s') {}

def execPtpClockSet (c : Cmd) (s : State) : Meaning := .next (runOp opPtpClockSet c s)

/-- The settings of PTP_PORT_SET. -/
def ptpSettings (c : Cmd) (p : PtpPort) : PtpPort :=
  let f := par c 1 1
  { p with
    enabled := bit f 0, udp := bit f 1, p2p := bit f 2, masterOnly := bit f 3, logSync := par c 2 1, logAnnounce := par c 3 1
    logDelay := par c 4 1, announceTimeout := par c 5 1, asymQ8 := signed 32 (par c 8 4), rxExtraQ8 := signed 32 (par c 12 4)
    txExtraQ8 := signed 32 (par c 16 4) }

/-- A port with new settings: it starts when it is enabled, and starts again when its transport, its delay mechanism or MASTER_ONLY
changes. -/
def ptpPortOf (c : Cmd) (now : Nat) (p : PtpPort) : PtpPort :=
  let q := ptpSettings c p
  if !q.enabled then { q with portState := 0 }
  else if p.enabled && p.udp == q.udp && p.p2p == q.p2p && p.masterOnly == q.masterOnly then q
  else { q with
    portState := startState q, foreign := [], lastAnnounce := now, syncHeld := none, lag := none, request := none, respHeld := none }

/-- Outside a range of signed octets. -/
def octetBad (v : Nat) (lo hi : Int) : Bool := decide (signed 8 v < lo) || decide (hi < signed 8 v)
/-- Outside ±1,000,000 ns in 1/256 ns (R250, R258). -/
def extraBad (v : Nat) : Bool := decide (256000000 < (signed 32 v).natAbs)

def opPtpPortSet : OpDef where
  code := 0x0911
  idem := true
  master := true
  cond := true
  modes := mSafe
  len := some 24
  bad c s :=
    [(0, !isPrimary s (par c 0 1)), (1, decide (16 ≤ par c 1 1) || (bit (par c 1 1) 1 && bit (par c 1 1) 2)),
     (2, octetBad (par c 2 1) (-7) 1), (3, octetBad (par c 3 1) (-3) 3), (4, octetBad (par c 4 1) (-7) 5),
     (5, decide (par c 5 1 < 2) || decide (10 < par c 5 1)), (6, !isZero c.params 6 2), (8, extraBad (par c 8 4)),
     (12, extraBad (par c 12 4)), (16, extraBad (par c 16 4)), (20, !isZero c.params 20 4)]
  tile c _ := some (par c 0 1 / 8)
  wrong c s := !serving s (par c 0 1 / 8)
    || (bit (par c 1 1) 0 && !s.time.clockDs.boundary && decide (0 < otherPtp s (par c 0 1)))
  act c s :=
    let l := par c 0 1
    let p := ptpPort s l
    let q := ptpPortOf c s.clock p
    if ptpSettings c p = p then .done s {}
    else
      let s' := modPtp l (fun _ => q) s
      let s' := if s.time.slaveLane = some l ∧ q.portState ≠ slaveState then loseMaster (modTime s' fun v => { v with slaveLane := none }) else s'
      .done (bumpPkg s') {}

def execPtpPortSet (c : Cmd) (s : State) : Meaning := .next (runOp opPtpPortSet c s)

/-- The PTP_CLOCK_SET layout. -/
def clockLayout (s : State) : List Byte :=
  let d := s.time.clockDs
  leBytes 1 d.domain ++ leBytes 1 (b2n d.boundary) ++ leBytes 1 d.priority1 ++ leBytes 1 d.priority2 ++ leBytes 1 d.clockClass
    ++ leBytes 1 d.accuracy ++ leBytes 2 d.variance
    ++ leBytes 1 (b2n d.slaveOnly + 2 * b2n s.time.utcValid + 4 * b2n s.time.ptpTimescale) ++ zeros 1
    ++ leBytes 2 (unsigned 16 s.time.utcOffset) ++ leBytes 8 (clockIdentity s) ++ zeros 12

def opPtpQuery : OpDef where
  code := 0x0912
  query := true
  idem := true
  modes := mSafe
  len := some 4
  room := 64
  bad c s := [(0, par c 0 1 != 0xFF && !isPrimary s (par c 0 1)), (1, !isZero c.params 1 3)]
  act c s :=
    let d := s.time.clockDs
    let p := ptpPort s (par c 0 1)
    let ports := if par c 0 1 = 0xFF then zeros 32
      else leBytes 1 p.portState ++ zeros 3 ++ leBytes 4 (unsigned 32 (satS 32 p.meanDelayQ8)) ++ leBytes 8 d.parentIdentity ++ leBytes 2 d.parentPort
        ++ leBytes 2 d.stepsRemoved ++ leBytes 4 p.syncRx.toNat ++ leBytes 4 p.dropped ++ zeros 4
    .done s { result := clockLayout s ++ ports }

def execPtpQuery (c : Cmd) (s : State) : Meaning := .next (runOp opPtpQuery c s)

end Sys2Proof.Machine
end

