-- ==== Sys2Proof/Machine/OpTable.lean ====
section
/-!
DEFINITION. Every opcode of the package (Table 0-4), as CE_OPINFO shows it (R57) and as a command queue takes it.
-/
namespace Sys2Proof.Machine
open Sys2Proof

/-- Package and modes (range 0x01xx). -/
def packageOps : List OpDef :=
  [opNop, opPkgInfo, opMasterSet, opMasterClaim, opPkgReset, opModeSet, opModeQuery, opHandleQuery,
   opHandleDestroy, opAdopt, opOrphanGraceSet, opHandleList]

/-- Lanes (range 0x02xx). -/
def laneOps : List OpDef :=
  [opLanePortSet, opLanePortQuery, opLaneEnable, opLaneErOffer, opLaneMgmtBind, opLaneCountersClear,
   opLaneEyeScan]

/-- Stream receiver (range 0x03xx). -/
def streamOps : List OpDef :=
  [opStreamPortSet, opStreamSourceSet, opStreamCreate, opStreamConfig, opStreamDestroy, opStreamQuery,
   opActionSet, opActionQuery]

/-- Frame assembly and tags (range 0x04xx). -/
def assemblyOps : List OpDef :=
  [opFaConfig, opFaQuery, opFaStageBegin, opFaStageCommit, opFaStageAbort, opAnchorSet]

/-- Codec (range 0x05xx). -/
def codecOps (programmed : Bool) : List OpDef :=
  [opCdConfig, opCdQuery, opCdCalSet, opCdCalSample, opCdCalFit, opCdTableRead, opCdCheckSet,
   opCdEngineRestore programmed]

/-- Frame store (range 0x06xx). -/
def storeOps : List OpDef :=
  [opFsRingSet, opFsQuery, opFsSegArm, opFsTrigger, opFsSegRelease, opFsFreezeRing, opFsSegQuery,
   opFsDirRead, opFsRead, opFsReadAbort, opFsMap, opFsUnmap]

/-- Activity detector (range 0x07xx). -/
def activityOps : List OpDef :=
  [opAdRoiSet, opAdQuery, opAdRuleCreate, opAdRuleConfig, opAdRuleArm, opAdRuleQuery, opAdRuleDestroy,
   opAdRefCreate, opAdRefCapture, opAdRefDestroy, opAdRefQuery]

/-- Mover and queues (range 0x08xx). -/
def moverOps : List OpDef :=
  [opQueueCreate, opQueueConfig, opQueueDestroy, opQueueQuery, opQueueRestart, opMvReserve,
   opMvRelease, opMvQuery, opMvAbort]

/-- Time (range 0x09xx). -/
def timeOps : List OpDef :=
  [opTimeQuery, opTimeSet, opTimeAdjust, opTimeServoSet, opPtpClockSet, opPtpPortSet, opPtpQuery,
   opSchedCreate, opSchedDestroy, opSchedQuery, opCalSet, opCalQuery]

/-- Events and triggers (range 0x0Axx). -/
def eventOps : List OpDef :=
  [opEvRouteCreate, opEvRouteDestroy, opEvRouteQuery, opEvPinSet, opEvPinQuery, opEvGroupSet,
   opEvStatus, opEvPublish, opEvSkewLearn]

/-- Motion (range 0x0Bxx). -/
def motionOps : List OpDef :=
  [opMoConfig, opMoQuery, opMoPreset, opMoCmpCreate, opMoCmpArm, opMoCmpDisarm, opMoTblLoad,
   opMoTblStart, opMoTblStop, opMoCmpQuery, opMoCmpDestroy]

/-- Redundancy and tile service (range 0x0Cxx). -/
def redundancyOps (img : Image) : List OpDef :=
  [opCePairQuery, opCePairSet, opCeSwitchover, opCeStandbyRestart img, opTileQuiesce, opTileResume,
   opTilePowerDown, opTileRejoin, opTileQuery]

/-- Power governor (range 0x0Dxx). -/
def governorOps : List OpDef :=
  [opPgConfig, opPgQuery, opPgTileQuery, opPgSensorRead]

/-- Health and test (range 0x0Exx). -/
def healthOps : List OpDef :=
  [opHmQuery, opHmThreshSet, opHmReportSet, opHmTestUnlock, opHmInject]

/-- Boot and firmware (range 0x0Fxx). -/
def bootOps (img : Image) (conf : List Byte) (programmed : Bool) : List OpDef :=
  [opFwQuery, opFwWrite, opFwVerify img conf, opFwSelect, opFwRollbackAdvance programmed,
   opFwPush img conf, opFwStart]

/-- Every defined opcode; the arguments are what reaches the engine from outside while it executes: an image or configuration that
it reads, and whether a fuse, or a self-test, passes. -/
def opTable (img : Image) (conf : List Byte) (programmed : Bool) : List OpDef :=
  packageOps ++ laneOps ++ streamOps ++ assemblyOps ++ codecOps programmed ++ storeOps
    ++ activityOps ++ moverOps ++ timeOps ++ eventOps ++ motionOps ++ redundancyOps img
    ++ governorOps ++ healthOps ++ bootOps img conf programmed

def findOp (img : Image) (conf : List Byte) (programmed : Bool) (op : Nat) : Option OpDef :=
  (opTable img conf programmed).find? fun o => decide (o.code = op)

/-- Properties of an opcode, whatever reaches the engine. -/
def opOf (op : Nat) : Option OpDef := findOp { header := [], payloadOk := false, readOk := false } [] false op

/-- An opcode is idempotent if it is a query or marked so (R57). -/
def isIdempotent (op : Nat) : Bool := ((opOf op).map fun o => o.query || o.idem).getD false

/-- CE_OPINFO (Table 3-14). -/
def opInfo (s : State) (op : Nat) : Nat :=
  match opOf op with
  | none => 0
  | some o => 1 + 2 * b2n o.query + 4 * b2n (o.query || o.idem) + 8 * b2n o.master + 16 * b2n o.cond + 32 * b2n (o.present s)
      + 2 ^ 16 * o.modes

end Sys2Proof.Machine
end

