-- ==== Sys2Proof/Machine/RegData.lean ====
section
/-!
DEFINITION. The registers of the data path as a host reads them: LN (Table 4-10 to 4-12), SR (Table 5-8 to 5-12), FA (Table 6-6 to
6-8), CD (Table 7-7 to 7-10), FS (Table 8-9 to 8-11), AD (Table 9-5 to 9-7). Each function takes a word: the block offset / 4.
-/
namespace Sys2Proof.Machine
open Sys2Proof

/-- A half of a 64-bit value: word 0 _LO, word 1 _HI. -/
def half (v w : Nat) : Nat := if w = 0 then v % 2 ^ 32 else v / 2 ^ 32 % 2 ^ 32

/-- Word i of a run of 64-bit counters. -/
def counterReg (l : List Nat) (i : Nat) : Nat := half (l.getD (i / 2) 0) (i % 2)

/-- The live handle in a slot; 0 when none. -/
def liveHandle (s : State) (k : Nat) : Nat := if (obj? s k).isSome then handleOf s k else 0

/-- Octets 3 to 6, then octets 1 and 2, of a MAC address. -/
def macReg (mac w : Nat) : Nat := half mac w

/-! ### SR (chapter 05) -/

/-- Window of a port, from word 0 (Table 5-8). -/
def srPortReg (s : State) (lane w : Nat) : Nat :=
  if w = 0 then tget 0xC000 s.st.gvcpLocal lane
  else if w < 0x40 then 0
  else
    let x := tget {} s.st.sources (lane * 16 + (w - 0x40) / 4)
    match w % 4 with
    | 0 => macReg x.mac 0
    | 1 => macReg x.mac 1
    | 2 => x.ip
    | _ => x.gvcpPort + 2 ^ 16 * b2n x.valid

/-- SR_CH_CFG: the channel's configuration, staged changes included. -/
def srCfg (s : State) (g : Nat) : Nat :=
  let c := channelOf s g
  let y := c.shadow.layout
  let o := obj? s (chanSlot g)
  y.lane + 2 ^ 8 * y.source + 2 ^ 12 * b2n y.id64 + 2 ^ 13 * b2n y.deliver + 2 ^ 14 * b2n y.record + 2 ^ 15 * b2n y.dropIncomplete
    + 2 ^ 16 * b2n y.multicast + 2 ^ 17 * b2n y.chunk + 2 ^ 18 * (y.partsMax - 1) + 2 ^ 21 * b2n c.live
    + 2 ^ 22 * ((o.map (·.owner)).getD 0) + 2 ^ 25 * b2n ((o.map (·.orphaned)).getD false)

/-- SR_CH counters (Table 5-11). -/
def srCounters (c : ChanCounters) : List Nat :=
  [c.framesClosed, c.framesIncomplete, c.framesDropped, c.blocksLost, c.packetsMissing, c.packetsResent, c.resendRequests,
   c.packetsLate, c.packetsDuplicate, c.holdForced, c.statusNonzero, c.malformed, c.formatMismatch, c.truncated,
   c.staleBlock].map (·.toNat)

/-- Window of a channel (Table 5-9 to Table 5-11). -/
def srChanReg (s : State) (g w : Nat) : Nat :=
  let c := channelOf s g
  let y := c.shadow.layout
  match w with
  | 0 => srCfg s g
  | 1 => y.destUdp + 2 ^ 16 * y.camSci
  | 2 => y.groupIp
  | 3 => y.pixelFormat
  | 4 => y.width + 2 ^ 16 * y.height
  | 5 => y.fillValue
  | 6 => y.chunkMax
  | 7 => y.peakKpx
  | 8 => y.holdoffUs + 2 ^ 16 * y.retries
  | 9 => y.intervalUs
  | 10 => y.budgetUs
  | 11 => y.quietUs
  | 12 => c.blocks.length + 2 ^ 16 * heldPackets c
  | 13 => half (c.lastClosed.getD 0) 0
  | 14 => half (c.lastClosed.getD 0) 1
  | _ => if w < 16 then 0 else counterReg (srCounters c.counters) (w - 16)

def srReg (s : State) (t w : Nat) : Nat :=
  if w < 0x400 then srPortReg s (t * 8 + w / 0x80) (w % 0x80)
  else if w < 0x1000 then 0
  else if w < 0x2000 then srChanReg s (t * 64 + (w - 0x1000) / 0x40) (w % 0x40)
  else if w < 0x2080 then actionReg s (t * 16 + (w - 0x2000) / 8) (w % 8)
  else 0

/-! ### FA (chapter 06) -/

def faChanReg (s : State) (g w : Nat) : Nat :=
  let c := channelOf s g
  let x := c.shadow
  let at_ := (c.commits.filterMap (·.at_)).head?.map (· / 65536)
  match w with
  | 0 => x.tsMode + 2 ^ 4 * x.encEn + 2 ^ 8 * b2n c.staging + 2 ^ 9 * b2n at_.isSome
  | 1 => x.slotMi
  | 2 => x.exposureNs
  | 3 => unsigned 32 x.expoOffsetNs
  | 4 => x.leaderLagNs
  | 5 => c.active.gen.toNat
  | 6 => ((obj? s (chanSlot g)).map (·.gen.toNat)).getD 0
  | 7 => half c.nextFrame.toNat 0
  | 8 => half c.nextFrame.toNat 1
  | 9 => c.commitNs32.toNat
  | 10 => at_.getD 0 % 2 ^ 32
  | _ =>
    if w < 16 then 0
    else counterReg ([c.counters.framesTagged, c.counters.framesDiscarded, c.counters.expoClamped, c.counters.posStale,
      c.counters.commits].map (·.toNat)) (w - 16)

def faReg (s : State) (t w : Nat) : Nat :=
  if w = 0 then s.st.anchorMs
  else if w < 0x400 then 0
  else if w < 0x1400 then faChanReg s (t * 64 + (w - 0x400) / 0x40) (w % 0x40)
  else 0

/-! ### CD (chapter 07) -/

/-- CD_CH_MODE: active set. -/
def cdMode (x : ChanSet) : Nat :=
  codecCode x.codec.mode + 2 ^ 3 * x.codec.k + 2 ^ 8 * x.codec.q + 2 ^ 16 * x.codec.kmin + 2 ^ 21 * x.codec.kmax

def cdChanReg (s : State) (g w : Nat) : Nat :=
  let x := (channelOf s g).active
  let k := codecChan s g
  let a := x.codec.cal.getD {}
  match w with
  | 0 => cdMode x
  | 1 => x.codec.targetBytes
  | 2 => calId x.codec.cal + 2 ^ 16 * calId x.codec.prevCal
  | 3 => a.offsetQ4
  | 4 => a.kQ16
  | 5 => a.readQ8
  | 6 => levelsOf x
  | 7 => boundOf x
  | 8 => unsigned 32 k.bal
  | 9 => k.kNow
  | 10 => k.points.length + 2 ^ 8 * darkCount k.points
  | _ => if w < 16 then 0 else counterReg ([k.rawBytes, k.codedBytes, k.slices, k.slicesEscaped].map (·.toNat)) (w - 16)

/-- CD_ENGINE_BACKLOG of an engine. -/
def cdBacklog (x : CodecEngine) : Nat := x.buffer.length + 2 ^ 16 * x.peak

def cdEngineCounters (x : CodecEngine) : List Nat :=
  [x.slices, x.constant, x.escSize, x.escBacklog, x.checks, x.mismatches].map (·.toNat)

def cdReg (s : State) (t w : Nat) : Nat :=
  if w < 0x40 then
    match w with
    | 0 => enginesInUse s t + 16 * (15 - enginesInUse s t)
    | 1 => capacity s t
    | 2 => chanTotal s t (64 * 8) admittedRate
    | 3 => tableUsed s t
    | 4 => s.cd.sampleN
    | 8 | 9 | 10 | 11 => cdBacklog (engineOf s (t * 4 + (w - 8)))
    | _ => 0
  else if w < 0x80 then counterReg (cdEngineCounters (engineOf s (t * 4 + (w - 0x40) / 16))) (w % 16)
  else if w < 0x400 then 0
  else if w < 0xC00 then cdChanReg s (t * 64 + (w - 0x400) / 0x20) (w % 0x20)
  else 0

/-! ### FS (chapter 08) -/

def fsChanReg (s : State) (g w : Nat) : Nat :=
  let r := ringOf s g
  let oldest := ((r.frames.head?).map (·.seq.toNat)).getD 0
  let newest := ((r.frames.getLast?).map (·.seq.toNat)).getD 0
  match w with
  | 0 => r.target
  | 1 => r.pages + 2 ^ 20 * b2n r.short + 2 ^ 21 * b2n r.overTarget + 2 ^ 22 * b2n r.full
  | 2 => r.frames.length
  | 3 => half oldest 0
  | 4 => half oldest 1
  | 5 => half newest 0
  | 6 => half newest 1
  | 7 => ((activeSeg s g).map fun x => segHandle s x.1).getD 0
  | 8 => (chanSegs s g).length
  | _ =>
    if w < 16 then 0
    else counterReg ([r.written, r.overwritten, r.dropped, r.ignored, r.latePre, r.lost].map (·.toNat)) (w - 16)

/-- The view of the segment slot selected by FS_SEG_SEL. -/
def fsView (s : State) (t w : Nat) : Nat :=
  let k := t * 16384 + tget 0 s.fs.segSel t
  match tget? s.fs.segs k, w with
  | _, 0 => tget 0 s.fs.segSel t
  | some _, 1 => segHandle s k
  | some x, 2 => segCode x.state + 2 ^ 8 * sflags x
  | none, 2 => 7
  | some x, 3 => x.pages
  | _, _ => 0

def fsReg (s : State) (t w : Nat) : Nat :=
  if w < 8 then
    match w with
    | 0 => poolTotal
    | 1 => poolFree s t
    | 2 => layerPages s t
    | 3 => indexUsed s t
    | 4 => (tileSegs s t).length
    | 5 => (portMaps s t).length
    | _ => half (tget 0 s.fs.unmapped t).toNat (w - 6)
  else if w < 0x40 then 0
  else if w < 0x44 then fsView s t (w - 0x40)
  else if w < 0x400 then 0
  else if w < 0xC00 then fsChanReg s (t * 64 + (w - 0x400) / 0x20) (w % 0x20)
  else 0

/-! ### AD (chapter 09) -/

/-- A PREVIOUS ROI of the active set has a valid copy (R182). -/
def copyValid (s : State) (g n : Nat) (r : Roi) : Bool :=
  decide (r.basis = 1) && (adChan s g).copies.any fun x =>
    decide (x.roi = n) && decide (x.gen = r.gen) && decide (x.epoch = tget 0 s.ad.epoch (g / 64)) && !x.values.isEmpty

def adRoiReg (s : State) (g n w : Nat) : Nat :=
  let r := tget {} (channelOf s g).active.rois n
  let st := tget {} (adChan s g).last n
  match w with
  | 0 => r.x0 + 2 ^ 16 * r.y0
  | 1 => r.w + 2 ^ 16 * r.h
  | 2 => b2n r.enable + 2 * r.basis + 8 * b2n (copyValid s g n r) + 16 * r.planes
  | 3 => if r.basis = 2 then r.ref else 0
  | 4 => half st.sum 0
  | 5 => half st.sum 1
  | 6 => if st.compared = 0 then 0 else half st.sad 0
  | _ => if st.compared = 0 then 0 else half st.sad 1

def adChanReg (s : State) (g w : Nat) : Nat :=
  let a := adChan s g
  if w < 0x40 then adRoiReg s g (w / 8) (w % 8)
  else if w < 0x42 then half a.lastSeq.toNat (w - 0x40)
  else if w = 0x42 then if (channelOf s g).live then copyBlocks (channelOf s g) (setsHeld (channelOf s g)) else 0
  else if w < 0x50 then 0
  else counterReg ([a.frames, a.fires, a.excluded].map (·.toNat)) (w - 0x50)

/-- The view of the rule slot selected by AD_RULE_SEL. -/
def adView (s : State) (t w : Nat) : Nat :=
  let n := tget 0 s.ad.ruleSel t
  match tget? s.ad.rules (t * 512 + n), w with
  | _, 0 => n
  | some _, 1 => liveHandle s (slotOf 8 t n)
  | some r, 2 =>
    b2n r.armed + 2 * b2n (((tget? (channelOf s r.channel).active.rules n).map (·.enable)).getD false) + 2 ^ 8 * r.streak
  | some r, 3 => r.fires.toNat
  | _, _ => 0

def adReg (s : State) (t w : Nat) : Nat :=
  if w < 5 then
    match w with
    | 0 => 1024
    | 1 => 1024 - activityUsed s t setsHeld
    | 2 => (s.ad.rules.filter fun x => decide (x.1 / 512 = t)).length
    | 3 => (s.ad.refs.filter fun x => decide (x.1 / 64 = t)).length
    | _ => satU 16 (tget 0 s.ad.latencyPeak t)
  else if w < 0x40 then 0
  else if w < 0x44 then adView s t (w - 0x40)
  else if w < 0x400 then 0
  else if w < 0x2400 then adChanReg s (t * 64 + (w - 0x400) / 0x80) (w % 0x80)
  else 0

/-- LN: windows of the local lanes. -/
def lnReg (s : State) (t w : Nat) : Nat := if w < 0x2000 then laneReg s (t * 8 + w / 0x400) (w % 0x400) else 0

end Sys2Proof.Machine
end

