-- ==== Sys2Proof/Machine/RegControl.lean ====
section
/-!
DEFINITION. The other registers as a host reads them: MV (Table 10-12 to 10-14), HE (Table 11-13 to 11-16), TU and package time
(Table 12-6 to 12-9), EV (Table 13-7, 13-8), MO (Table 14-5, 14-6), PG (Table 16-5 to 16-7), HM (Table 17-5, 17-6), CE (Table 3-14,
3-15, 15-7, 18-6), PKG (Table 2-7 to 2-10, 3-13, 18-7). Each function takes a word: the block offset / 4.
-/
namespace Sys2Proof.Machine
open Sys2Proof

/-! ### MV (chapter 10) -/

/-- MV_STEADY of a slot: slots 0 to 2 belong to the device with shares 8, 16 and 8. -/
def steadyReg (s : State) (t slot : Nat) : Nat :=
  if slot < 3 then [8, 16, 8].getD slot 0 + 2 ^ 9 + 2 ^ 10
  else match tget? s.mv.steadyShare (t * 16 + slot) with
  | some n => n + 2 ^ 9
  | none => 0

/-- Free shared channels of a tile: 64 to 495, less those in use. -/
def freeChannels (s : State) (t : Nat) : Nat :=
  432 - (s.mv.chans.filter fun x => decide (x.1 / 512 = t) && between 64 495 (x.1 % 512) && decide (x.2.state ≠ .unassigned)).length

def mvReg (s : State) (t w : Nat) : Nat :=
  if w = 0 then steadySum s t
  else if w = 1 then freeChannels s t
  else if 0x40 ≤ w ∧ w < 0x50 then steadyReg s t (w - 0x40)
  else if w = 0x80 ∨ w = 0x81 then half (tget 0 s.mv.bursts t).toNat (w - 0x80)
  else if w = 0x82 ∨ w = 0x83 then half (tget 0 s.mv.preemptions t).toNat (w - 0x82)
  else if w = 0x84 then satU 32 (tget 0 s.mv.goLost t)
  else if 0x400 ≤ w ∧ w < 0x2400 then chanReg s (t * 512 + (w - 0x400) / 16) (w % 16)
  else 0

/-- Doorbell window of a queue (Table 10-12). -/
def doorbellReg (s : State) (q w : Nat) : Nat :=
  match queue? s q with
  | none => if w = 1 then 1 else 0
  | some v =>
    match w with
    | 1 => b2n v.mask
    | 2 => v.dev.toNat
    | 3 => qstateCode v.state + 2 ^ 8 * statusCode v.stopCode + 2 ^ 16 * v.stopCause
    | 4 => v.host.toNat
    | 5 => v.park
    | _ => 0

/-! ### HE (chapter 11) -/

/-- Queues of a port are held (R240). -/
def portHeld (q : Port) : Bool := q.lost || (q.dlActive && (!q.busMaster || q.d3hot))

/-- Route port of tile t for the group of port p; 0xF when none. -/
def shownRoute (s : State) (p t : Nat) : Nat := if t < tiles s then (tget? s.host.routes (p * 8 + t)).getD 15 else 15

def hePortReg (s : State) (p : Nat) : Nat → Nat
  | 0 => let q := portOf s p
    b2n q.dlActive + 2 * b2n q.busMaster + 4 * b2n (connected s p) + 8 * b2n (portHeld q) + 16 * b2n q.flit + 2 ^ 8 * q.rate
      + 2 ^ 12 * q.width + 2 ^ 17 * (if q.d3hot then 3 else 0)
  | 1 => (portOf s p).downNs32.toNat
  | 2 => (portOf s p).holdDeadlineNs32.toNat
  | 3 => groupMask s p
  | 4 => (List.range 8).foldl (fun n t => n + 16 ^ t * shownRoute s p t) 0
  | 5 => cplTimeoutUs (portOf s p)
  | 6 => b2n s.boot.conf.compatEnable
  | _ => 0

def portCounterList (c : PortCounters) : List Nat :=
  [c.ignoredWrites, c.cplTimeouts, c.lateCompletions, c.caReturned, c.urReturned, c.linkLosses, c.routeMoves, c.replayed,
   c.compatInvalid, c.descRetries].map (·.toNat)

/-- A word of the MSI-X table (R230). -/
def msixReg (s : State) (p i : Nat) : Nat :=
  let v := tget {} s.host.vectors (p * 2048 + i / 4)
  match i % 4 with
  | 0 => half v.addr 0
  | 1 => half v.addr 1
  | 2 => v.data
  | _ => b2n v.masked

/-- A word of the pending-bit array. -/
def pbaReg (s : State) (p i : Nat) : Nat :=
  (List.range 32).foldl (fun n k => n + 2 ^ k * b2n (tget {} s.host.vectors (p * 2048 + i * 32 + k)).pending) 0

def heReg (s : State) (p w : Nat) : Nat :=
  if w < 7 then hePortReg s p w
  else if 0x40 ≤ w ∧ w < 0x54 then counterReg (portCounterList (tget {} s.host.counters p)) (w - 0x40)
  else if 0x80 ≤ w ∧ w < 0x87 then ptmReg s p (w - 0x80)
  else if 0xC0 ≤ w ∧ w < 0x100 then (tget 0 s.host.intx (p * 64 + (w - 0xC0))).toNat
  else if 0x2000 ≤ w ∧ w < 0x4000 then msixReg s p (w - 0x2000)
  else if 0x4000 ≤ w ∧ w < 0x4040 then pbaReg s p (w - 0x4000)
  else 0

/-! ### TU and package time (chapter 12) -/

def ptpPortReg (s : State) (l : Nat) : Nat → Nat
  | 0 => let p := ptpPort s l
    b2n p.enabled + 2 * b2n p.udp + 4 * b2n p.p2p + 8 * b2n p.masterOnly + 2 ^ 8 * (if p.enabled then p.portState else 0)
  | 1 => let p := ptpPort s l
    p.logSync + 2 ^ 8 * p.logAnnounce + 2 ^ 16 * p.logDelay + 2 ^ 24 * p.announceTimeout
  | 2 => unsigned 32 (ptpPort s l).asymQ8
  | 3 => unsigned 32 (ptpPort s l).rxExtraQ8
  | 4 => unsigned 32 (ptpPort s l).txExtraQ8
  | 5 => unsigned 32 (satS 32 (ptpPort s l).meanDelayQ8)
  | 6 => satU 32 (ptpPort s l).dropped
  | _ => 0

def tuReg (s : State) (t w : Nat) : Nat :=
  if w = 0 then b2n (tget false s.time.locked t) + 2 ^ 8 * unsigned 8 (satS 8 (tget 0 s.time.lockError t))
  else if w = 1 then (tget [] s.time.txts t).length
  else if w = 2 then satU 32 (tget 0 s.time.txtsOverflow t)
  else if 0x400 ≤ w ∧ w < 0x480 then ptpPortReg s (t * 8 + (w - 0x400) / 16) (w % 16)
  else if 0x800 ≤ w ∧ w < 0x880 then schedReg s (t * 8 + (w - 0x800) / 16) (w % 16)
  else 0

/-- PKG_TIME_STATE. -/
def timeState (s : State) : Nat :=
  clockCode s.time.clock + 8 * b2n (inHoldover s) + 16 * b2n (decide (s.time.clock = .host)) + 32 * b2n s.time.calSeeded
    + 2 ^ 8 * s.time.slaveLane.getD 0xFF + 2 ^ 16 * (s.time.steps.toNat % 65536)

/-- Package time registers, from 0x480_0000. -/
def timeReg (s : State) : Nat → Nat
  | 0 => timeNs s.time.now
  | 1 => timeSec s.time.now % 2 ^ 32
  | 2 => timeSec s.time.now / 2 ^ 32 % 65536 + 2 ^ 16 * timeFrac s.time.now
  | 3 => timeState s
  | 4 => unsigned 32 (satS 32 s.time.offsetNs)
  | 5 => unsigned 32 s.time.freqAdj
  | 6 => s.time.stepNs32.toNat
  | 7 => unsigned 32 (satS 32 s.time.pathStepSize)
  | 8 => s.time.pathStepNs + 2 ^ 16 * s.time.consistent
  | 9 => s.time.stepMinNs
  | 10 => s.time.lockNs
  | 11 => unsigned 16 s.time.utcOffset + 2 ^ 16 * b2n s.time.utcValid + 2 ^ 17 * b2n s.time.ptpTimescale
  | 0x40 => s.cal.ticks
  | 0x41 => s.cal.seconds % 2 ^ 32
  | 0x42 => s.cal.seconds / 2 ^ 32
  | 0x43 => b2n s.cal.valid + 2 * b2n s.cal.synced
  | 0x44 => s.cal.syncNs32.toNat
  | _ => 0

/-! ### EV (chapter 13) -/

/-- Subscriptions of a tile to one of its task inputs. -/
def inputSubs (s : State) (t i : Nat) : Nat :=
  (s.ev.routes.filter fun x => decide (x.1 / 4096 = t) && decide (x.2.form = .toInput i) && !x.2.cleared).length

/-- A task input counts every event: GO of a raw channel with PACE 1 (Table 13-1). -/
def inputCounts (s : State) (t i : Nat) : Bool :=
  decide (i < 512) && (chanOf s (t * 512 + i)).raw && (chanOf s (t * 512 + i)).regs.pace

/-- The SOURCE field that EV_SOURCE_SEL selects; none where the view shows 0. -/
def selectedSource (t n : Nat) : Option Nat :=
  if n < 128 then some (tileSource t n)
  else if t ≠ 0 then none
  else if n < 144 then some (pkgSource (n - 128))
  else if n < 152 then some (hostSource (n - 144))
  else none

def evReg (s : State) (t w : Nat) : Nat :=
  let i := tget 0 s.ev.inputSel t
  let c := t * 256 + tget 0 s.ev.chanSel t
  let x := tget {} s.ev.inputs (inputKey t i)
  match w with
  | 0 => s.ev.groups.toNat
  | 1 => s.ev.groupNs32.toNat
  | 2 => (s.ev.routes.filter fun r => decide (r.1 / 4096 = t)).length
  | 3 => (tget [] s.ev.backlog t).length + 2 ^ 16 * tget 0 s.ev.backlogPeak t
  | 4 => half (tget 0 s.ev.overrun t).toNat 0
  | 5 => half (tget 0 s.ev.overrun t).toNat 1
  | 6 => half (tget 0 s.ev.loopDropped t).toNat 0
  | 7 => half (tget 0 s.ev.loopDropped t).toNat 1
  | 0x40 => i
  | 0x41 => inputSubs s t i + 2 ^ 13 * b2n (inputCounts s t i)
  | 0x42 => x.taken.toNat
  | 0x43 => x.coalesced.toNat
  | 0x44 => tget 0 s.ev.chanSel t
  | 0x45 => (tget 0 s.ev.published c).toNat
  | 0x46 => (tget 0 s.ev.blocked c).toNat
  | 0x48 => tget 0 s.ev.sourceSel t
  | 0x49 => ((selectedSource t (tget 0 s.ev.sourceSel t)).map fun n => (tget 0 s.ev.srcSeq n).toNat).getD 0
  | _ => if 0x400 ≤ w ∧ w < 0x4A0 then pinReg s (t * 10 + (w - 0x400) / 16) (w % 16) else 0

/-! ### MO (chapter 14) -/

def axisReg (s : State) (i w : Nat) : Nat :=
  let a := axis s i
  let v := unsigned 64 (reportedSpeed s a)
  match w with
  | 0 => a.inputMode + 8 * b2n a.invertDir + 16 * b2n a.indexEn + 32 * b2n a.indexPol + 64 * a.indexAction + 256 * b2n a.pass
  | 1 => a.filterQ2
  | 2 => a.avgEdges
  | 3 => a.standstillUs
  | 4 => a.presetValue.toNat
  | 5 => (counter a).toNat
  | 6 => 0
  | 7 => half v 0
  | 8 => half v 1
  | 9 => axisStatus s a
  | 10 => a.idxPos.toNat
  | 11 => a.idxNs32.toNat
  | 12 => a.latchPos.toNat
  | 13 => a.latchNs32.toNat
  | _ =>
    if w < 16 then 0
    else if w < 28 then le (cmpWindow s i) ((w - 16) * 4) 4
    else if w < 32 then 0
    else counterReg ([a.edges, a.quadErrors, a.overspeed, a.reversals, a.tblSkipped].map (·.toNat)) (w - 32)

def moReg (s : State) (t w : Nat) : Nat :=
  if 0x400 ≤ w ∧ w < 0x480 then axisReg s (t * 2 + (w - 0x400) / 64) (w % 64)
  else if 0x1000 ≤ w ∧ w < 0x1800 then tget 0 (axis s (t * 2 + (w - 0x1000) / 1024)).tbl.offsets (w % 1024)
  else 0

/-! ### PG and HM (chapters 16 and 17) -/

def pgCounters (g : TileGov) : List Nat :=
  [g.waitSamples, g.admitted, g.skips, g.backlogDropped, g.criticalSamples].map (·.toNat)

def pgBlockReg (s : State) (t w : Nat) : Nat :=
  if w < 0x40 then (if t = 0 then pgReg s w else 0)
  else if w < 0x48 then pgTileReg s t (w - 0x40)
  else if w = 0x80 then (govTile s t).sensorSel
  else if w = 0x81 then sensorView s t (govTile s t).sensorSel
  else if 0xC0 ≤ w ∧ w < 0xCA then counterReg (pgCounters (govTile s t)) (w - 0xC0)
  else 0

def hmBlockReg (s : State) (t w : Nat) : Nat :=
  if w < 8 then hmReg s t w
  else if 0x400 ≤ w ∧ w < 0x4A0 then detReg s t ((w - 0x400) / 8) (w % 8)
  else 0

/-! ### A tile block -/

/-- Registers of the tile block of tile t, by byte offset in it (Table 11-5). -/
def tileReg (s : State) (t off : Nat) : Nat :=
  let w := off % 0x80000 / 4
  match off / 0x80000 with
  | 0 => lnReg s t w
  | 2 => srReg s t w
  | 3 => faReg s t w
  | 4 => cdReg s t w
  | 5 => fsReg s t w
  | 6 => adReg s t w
  | 7 => mvReg s t w
  | 8 => heReg s t w
  | 9 => tuReg s t w
  | 10 => evReg s t w
  | 11 => moReg s t w
  | 13 => pgBlockReg s t w
  | 14 => hmBlockReg s t w
  | 15 => tcReg s t w
  | _ => 0

/-! ### CE (chapters 03, 15, 18) -/

/-- CE_BOOT block of a port, by word. CE_BOOT_CTRL and CE_BOOT_MBX_GO are W1S bits that act and read back 0 once taken. -/
def bootBlockReg (s : State) (p : Nat) : Nat → Nat
  | 0 => half (blockOfPort s p).cqBase 0
  | 1 => half (blockOfPort s p).cqBase 1
  | 2 => half (blockOfPort s p).rqBase 0
  | 3 => half (blockOfPort s p).rqBase 1
  | 4 => let b := blockOfPort s p
    b.cqLog2 + 2 ^ 8 * b.rqLog2 + 2 ^ 16 * b.vector
  | 5 => b2n (blockOfPort s p).opening
  | 6 => (blockOfPort s p).state + 2 ^ 8 * statusCode (blockOfPort s p).code
  | 9 => half (tget {} s.boot.mailbox p).addr 0
  | 10 => half (tget {} s.boot.mailbox p).addr 1
  | 12 => let b := tget {} s.boot.mailbox p
    b.state + 2 ^ 8 * statusCode b.code
  | _ => 0

/-- CE registers, by byte offset from 0x020_0000. -/
def ceReg (s : State) (off : Nat) : Nat :=
  if off < 0x100 then
    match off / 4 with
    | 0 => ceOwner s
    | 1 => s.eng.slotCount.toNat
    | 4 => s.eng.opinfoSel
    | 5 => opInfo s s.eng.opinfoSel
    | 6 => s.eng.orphanGraceMs
    | 7 => s.eng.configGen.toNat
    | _ => 0
  else if off < 0x300 then
    if (off - 0x100) / 0x40 < tiles s then bootBlockReg s ((off - 0x100) / 0x40) (off % 0x40 / 4) else 0
  else if 0x400 ≤ off ∧ off < 0x430 then pairReg s ((off - 0x400) / 4)
  else 0

/-- PKG registers (Table 11-6, Table 2-7 to 2-10, Table 3-13, Table 18-7). -/
def pkgReg (s : State) (off : Nat) : Nat :=
  match off / 4 with
  | 0 => 0x5EB70F1E
  | 0x40 => pkgMode s
  | 0x41 => s.pkg.doneNs32.toNat
  | 0x42 => pkgCause s
  | 0x43 => pkgTiles s
  | 0x44 => masterReg s
  | n => if 0x48 ≤ n then bootReg s (n - 0x48) else 0

/-- Present value of the CONTROL register at an offset; a reserved range reads 0 (R225, Table 11-5). -/
def regValue (s : State) (offset : Nat) : Nat :=
  let off := offset / 4 * 4
  if off < 0x100000 then pkgReg s off
  else if off < 0x200000 then (if (off - 0x100000) / 64 / 2048 < tiles s then doorbellReg s ((off - 0x100000) / 64) (off % 64 / 4) else 0)
  else if off < 0x400000 then ceReg s (off - 0x200000)
  else if off < 0x800000 then 0
  else if off < 0x4800000 then
    (if (off - 0x800000) / 0x800000 < tiles s then tileReg s ((off - 0x800000) / 0x800000) (off % 0x800000) else 0)
  else if off < 0x5000000 then timeReg s ((off - 0x4800000) / 4)
  else 0

end Sys2Proof.Machine
end

