-- ==== Sys2Proof/Machine/Takeover.lean ====
section
/-!
DEFINITION. What a new active engine does with the commands that the old one had taken (R56, R312, R314 to R316).
-/
namespace Sys2Proof.Machine
open Sys2Proof

/-- Commands that wait and are executed again: idempotent, except the command that ordered a planned change. -/
def executedAgain (kind : Nat) (w : Waiting) : Bool := isIdempotent w.op && !(decide (w.op = 0x0C03) && decide (kind ≠ 0))

/-- Replies that are due and whose command is executed again, with RFLAGS.REEXEC. -/
def reexecReply (x : Cmd × Reply) : Cmd × Reply := (x.1, { x.2 with reexec := x.2.reexec || isIdempotent x.2.opcode })

/-- The answer E_OUTCOME_UNKNOWN (R56). -/
def unknownOutcome : Answer := { status := .eOutcomeUnknown }

/-- Learning runs are not mirrored: they end with E_OUTCOME_UNKNOWN (R312). CD_CAL_SAMPLE has an interim result, and waits on for its
frames (R313, R314). -/
def endUnmirrored (s : State) : State :=
  (s.ev.skew.map (·.1)).foldl (fun s p => dropSkew p (some unknownOutcome) s) s

/-- Commands that `endUnmirrored` ends. -/
def unmirroredCount (s : State) : Nat := s.ev.skew.length

/-- Calibration points that wait for a fit are lost (R312). -/
def losePoints (s : State) : State :=
  { s with cd := { s.cd with chans := s.cd.chans.map fun x => (x.1, { x.2 with points := [] }) } }

/-- A write of a flash slot starts again from the beginning of its image (R359). -/
def rewriteFlash (s : State) : State :=
  (s.eng.waiting.filter fun w => w.op == 0x0F02).foldl (fun s w =>
    eraseHeader (par w.cmd 0 1) (writtenCopy s (par w.cmd 0 1)) (readRequests w.cmd.port (par w.cmd 8 8) (par w.cmd 4 4) s)) s

/-- Marks what the new engine executes again, and counts it: each joins the work in progress (R24, R320, R359). -/
def reexecute (kind : Nat) (s : State) : State :=
  let s := rewriteFlash s
  let n := (s.eng.waiting.filter (executedAgain kind)).length + (s.eng.deferred.filter fun x => isIdempotent x.2.opcode).length
  let s := modEng s fun e => { e with
    waiting := e.waiting.map fun w => { w with reexec := w.reexec || executedAgain kind w }
    deferred := e.deferred.map reexecReply }
  modRd s fun r => { r with reexecuted := n }

/-- A change that has not restored the last epoch yet. -/
def changeToRestore (s : State) : Option EngineChange := s.rd.change.filter fun c => !c.restored

/-- R314: the new engine restores the last complete epoch, applies the journal and settles the intents without a result. -/
def execTakeover (s : State) : Meaning := .next <|
  match changeToRestore s with
  | none => s
  | some c =>
    let n := if c.kind = 0 then unmirroredCount s else 0
    let s := reexecute c.kind s
    let s := forgetProtocol (losePoints (if c.kind = 0 then endUnmirrored s else s))
    modRd s fun r => { r with unknown := n, change := some { c with restored := true } }

/-- A reply as engine `e` writes it. -/
def byEngine (e : Nat) (x : Reply × Bool) : Reply × Bool := ({ x.1 with engine := e }, x.2)

/-- Due replies of one reply queue. -/
def deferredOf (s : State) (p n : Nat) : List (Reply × Bool) :=
  (s.eng.deferred.filter fun x => decide (x.1.port = p) && decide (x.1.queue = n)).map fun x => (x.2, bit x.1.flags.toNat 2)

/-- What the new engine appends to a reply queue: copies of the replies not consumed, replies not yet written, its answers (R315). -/
def appendReplies (p n : Nat) (s : State) : State :=
  modQueue (replyQueue p n) (fun v => { v with
    heldReplies := ((v.sent.map (·.2)) ++ v.heldReplies ++ deferredOf s p n).map (byEngine s.eng.active) }) s

/-- The command that ordered a planned change answers (Table 15-11). -/
def endSwitchover (kind : Nat) (s : State) : State :=
  let result := leBytes 4 (if kind = 0 then 0 else s.rd.durationUs)
  (switchWaits s).foldl (fun s id => finish id { result := result } s) s

/-- A change whose new engine may write replies: 80 µs after its claim (R315). -/
def changeToEnd (s : State) : Option EngineChange :=
  s.rd.change.filter fun c => c.restored && decide (c.claimedAt + 80 * us ≤ s.clock)

/-- Reply queues: port and number of each. -/
def replyQueues : List (Nat × Nat) := (List.range 8).flatMap fun p => (List.range 8).map fun n => (p, n)

/-- R315: the new engine appends to each reply queue, and reads command queues again (R316). -/
def execTakeoverReplies (s : State) : Meaning := .next <|
  match changeToEnd s with
  | none => s
  | some c =>
    let s := replyQueues.foldl (fun s q => appendReplies q.1 q.2 s) s
    let s := modEng s fun e => { e with stopped := false, quiet := false, deferred := [] }
    let s := replyQueues.foldl (fun s q => flushQueue q.1 q.2 s) s
    let s := modRd s fun r => { r with durationUs := (s.clock - c.detectedAt) / 1000, change := none }
    endSwitchover c.kind (raiseEngine s.eng.active c.kind c.cause s)

end Sys2Proof.Machine
end

