-- ==== Sys2Proof/Machine/TestField.lean ====
section
/-!
DEFINITION. Writes of fields whose access code is RO, in TEST mode (R34): the command that a register's fields stand for, with every
other parameter taken from the present settings.
-/
namespace Sys2Proof.Machine
open Sys2Proof

/-- The command that a write is treated as: opcode, TARGET, parameters. -/
structure TestCmd where
  op : Nat
  target : Nat := 0
  params : List Byte
deriving DecidableEq, Repr

/-- `n` bytes of a value put into a layout at an offset. -/
def setBytes (off n v : Nat) (b : List Byte) : List Byte := patch b off (leBytes n v)

/-! ### LN, SR, FA (chapters 04 to 06) -/

/-- LN_CFG: LANE_PORT_SET. -/
def testLane (s : State) (l v : Nat) : TestCmd :=
  let x := laneOf s l
  { op := 0x0201
    params := leBytes 1 l ++ leBytes 1 (bits v 6 4) ++ leBytes 1 (bits v 3 0) ++ leBytes 1 (bits v 8 7) ++ leBytes 1 (bits v 12 9)
      ++ [0] ++ leBytes 2 (bits v 27 16) ++ macBytes x.mac ++ zeros 2 ++ leBytes 4 x.ip ++ leBytes 4 x.mask ++ zeros 8 }

/-- SR_SOURCE_CFG: STREAM_SOURCE_SET. -/
def testSource (s : State) (l n v : Nat) : TestCmd :=
  let x := tget {} s.st.sources (l * 16 + n)
  { op := 0x0302
    params := leBytes 1 l ++ leBytes 1 n ++ leBytes 1 (bits v 16 16) ++ [0] ++ macBytes x.mac ++ leBytes 2 (v % 65536) ++ leBytes 4 x.ip }

/-- The channel layout with a word of SR_CH written. -/
def testLayout (y : List Byte) (w v : Nat) : Option (List Byte) :=
  match w with
  | 0 => some (setBytes 0 1 (bits v 7 0) (setBytes 1 1 (bits v 11 8) (setBytes 2 2 (bits v 17 12) (setBytes 20 1 (bits v 20 18 + 1) y))))
  | 1 => some (setBytes 6 2 (bits v 15 0) (setBytes 4 2 (bits v 31 16) y))
  | 2 => some (setBytes 8 4 v y)
  | 3 => some (setBytes 12 4 v y)
  | 4 => some (setBytes 16 4 v y)
  | 5 => some (setBytes 22 2 (bits v 15 0) y)
  | 6 => some (setBytes 24 4 v y)
  | 7 => some (setBytes 28 4 v y)
  | 8 => some (setBytes 40 2 (bits v 15 0) (setBytes 42 1 (bits v 19 16) y))
  | 9 => some (setBytes 44 4 v y)
  | 10 => some (setBytes 48 4 v y)
  | 11 => some (setBytes 52 4 v y)
  | _ => none

/-- SR_ACTION: ACTION_SET. -/
def testAction (s : State) (k w v : Nat) : Option TestCmd :=
  let a := tget {} s.st.actions k
  let y := leBytes 1 (k / 16) ++ leBytes 1 (k % 16) ++ leBytes 1 a.lane ++ leBytes 1 a.dest ++ leBytes 1 (b2n a.valid + 2 * b2n a.ackReq)
    ++ zeros 3 ++ leBytes 4 a.deviceKey ++ leBytes 4 a.groupKey ++ leBytes 4 a.groupMask ++ leBytes 4 a.leadNs
  let y' := match w with
    | 0 => some (setBytes 2 1 (bits v 7 0) (setBytes 3 1 (bits v 12 8) (setBytes 4 1 (bits v 14 14 + 2 * bits v 13 13) y)))
    | 1 => some (setBytes 8 4 v y)
    | 2 => some (setBytes 12 4 v y)
    | 3 => some (setBytes 16 4 v y)
    | 4 => some (setBytes 20 4 v y)
    | _ => none
  y'.map fun p => { op := 0x0320, params := p }

/-- Handle of a live stream channel. -/
def chanHandle (s : State) (g : Nat) : Nat := liveHandle s (chanSlot g)

def testSr (s : State) (t w v : Nat) : Option TestCmd :=
  if w < 0x400 then
    if 0x40 ≤ w % 0x80 ∧ w % 4 = 3 then some (testSource s (t * 8 + w / 0x80) ((w % 0x80 - 0x40) / 4) v) else none
  else if w < 0x1000 then none
  else if w < 0x2000 then
    let g := t * 64 + (w - 0x1000) / 0x40
    (testLayout (layoutBytes (channelOf s g).shadow.layout) (w % 0x40) v).map fun p => { op := 0x0311, target := chanHandle s g, params := p }
  else if w < 0x2080 then testAction s (t * 16 + (w - 0x2000) / 8) (w % 8) v
  else none

def testFa (s : State) (t w v : Nat) : Option TestCmd :=
  if w = 0 then some { op := 0x0420, params := leBytes 4 (bits v 10 0) }
  else if 0x400 ≤ w ∧ w < 0x1400 then
    let g := t * 64 + (w - 0x400) / 0x40
    let y := faLayout (channelOf s g).shadow
    let y' := match w % 0x40 with
      | 0 => some (setBytes 0 1 (bits v 1 0) (setBytes 1 1 (bits v 7 4) y))
      | 1 => some (setBytes 2 2 (bits v 15 0) y)
      | 2 => some (setBytes 4 4 v y)
      | 3 => some (setBytes 8 4 v y)
      | 4 => some (setBytes 12 4 v y)
      | _ => none
    y'.map fun p => { op := 0x0401, target := chanHandle s g, params := p }
  else none

/-! ### CD, FS, AD (chapters 07 to 09) -/

def testCd (s : State) (t w v : Nat) : Option TestCmd :=
  if w = 4 then some { op := 0x0530, params := leBytes 2 (bits v 10 0) ++ zeros 2 }
  else if 0x400 ≤ w ∧ w < 0xC00 then
    let g := t * 64 + (w - 0x400) / 0x20
    let y := codecLayout (channelOf s g).shadow.codec
    let a := (channelOf s g).shadow.codec.cal.getD {}
    let z := leBytes 4 a.offsetQ4 ++ leBytes 4 a.kQ16 ++ leBytes 2 a.readQ8 ++ zeros 2
    let h := chanHandle s g
    match w % 0x20 with
    | 0 => some { op := 0x0501, target := h, params := setBytes 0 1 (bits v 2 0) (setBytes 1 1 (bits v 7 3) (setBytes 2 1 (bits v 13 8)
        (setBytes 3 1 (bits v 20 16) (setBytes 4 1 (bits v 25 21) y)))) }
    | 1 => some { op := 0x0501, target := h, params := setBytes 6 2 (bits v 11 0) y }
    | 3 => some { op := 0x0510, target := h, params := setBytes 0 4 (bits v 19 0) z }
    | 4 => some { op := 0x0510, target := h, params := setBytes 4 4 (bits v 20 0) z }
    | 5 => some { op := 0x0510, target := h, params := setBytes 8 2 (bits v 15 0) z }
    | _ => none
  else none

def testFs (s : State) (t w v : Nat) : Option TestCmd :=
  if 0x400 ≤ w ∧ w < 0xC00 ∧ w % 0x20 = 0 then
    some { op := 0x0601, target := chanHandle s (t * 64 + (w - 0x400) / 0x20), params := leBytes 4 (bits v 19 0) }
  else none

def testAd (s : State) (t w v : Nat) : Option TestCmd :=
  if w = 0x42 then
    let n := tget 0 s.ad.ruleSel t
    (tget? s.ad.rules (t * 512 + n)).map fun r =>
      { op := 0x0711, target := liveHandle s (slotOf 8 t n)
        params := setBytes 21 1 (bits v 1 1) (ruleLayout (chanHandle s r.channel) (tget? (channelOf s r.channel).shadow.rules n)) }
  else if 0x400 ≤ w ∧ w < 0x2400 ∧ w % 0x80 < 0x40 then
    let g := t * 64 + (w - 0x400) / 0x80
    let n := w % 0x80 / 8
    let y := roiLayout n (tget {} (channelOf s g).shadow.rois n)
    let y' := match w % 8 with
      | 0 => some (setBytes 4 4 v y)
      | 1 => some (setBytes 8 4 v y)
      | 2 => some (setBytes 1 1 (bits v 2 0) (setBytes 2 1 (bits v 7 4) y))
      | _ => none
    y'.map fun p => { op := 0x0701, target := chanHandle s g, params := p }
  else none

/-! ### TU and package time, EV, MO (chapters 12 to 14) -/

def testTu (s : State) (t w v : Nat) : Option TestCmd :=
  if 0x400 ≤ w ∧ w < 0x480 then
    let l := t * 8 + (w - 0x400) / 16
    let p := ptpPort s l
    let y := leBytes 1 l ++ leBytes 1 (b2n p.enabled + 2 * b2n p.udp + 4 * b2n p.p2p + 8 * b2n p.masterOnly) ++ leBytes 1 p.logSync
      ++ leBytes 1 p.logAnnounce ++ leBytes 1 p.logDelay ++ leBytes 1 p.announceTimeout ++ zeros 2 ++ leBytes 4 (unsigned 32 p.asymQ8)
      ++ leBytes 4 (unsigned 32 p.rxExtraQ8) ++ leBytes 4 (unsigned 32 p.txExtraQ8) ++ zeros 4
    let y' := match w % 16 with
      | 0 => some (setBytes 1 1 (b2n p.enabled + 2 * bits v 3 1) y)
      | 1 => some (setBytes 2 4 v y)
      | 2 => some (setBytes 8 4 v y)
      | 3 => some (setBytes 12 4 v y)
      | 4 => some (setBytes 16 4 v y)
      | _ => none
    y'.map fun p => { op := 0x0911, params := p }
  else none

def testTime (s : State) (w v : Nat) : Option TestCmd :=
  let x := s.time
  let y := leBytes 1 (b2n (decide (x.clock = .host))) ++ leBytes 1 x.consistent ++ leBytes 2 x.pathStepNs ++ leBytes 4 x.stepMinNs
    ++ leBytes 2 x.lockNs ++ zeros 6
  match w with
  | 5 => some { op := 0x0903, params := [0, BitVec.ofNat 8 (b2n x.holdoverHost), 0, 0] ++ leBytes 4 v ++ zeros 8 }
  | 8 => some { op := 0x0904, params := setBytes 2 2 (bits v 15 0) (setBytes 1 1 (bits v 23 16) y) }
  | 9 => some { op := 0x0904, params := setBytes 4 4 v y }
  | 10 => some { op := 0x0904, params := setBytes 8 2 (bits v 15 0) y }
  | 11 => some {
      op := 0x0910
      params := setBytes 8 1 (b2n x.clockDs.slaveOnly + 2 * bits v 17 16)
        (setBytes 10 2 (bits v 15 0) (setBytes 12 8 x.clockDs.identity (clockLayout s))) }
  | 0x40 => some { op := 0x0930, params := [1, 0] ++ leBytes 2 (bits v 14 0) ++ leBytes 6 s.cal.seconds ++ zeros 6 }
  | _ => none

def testEv (s : State) (t w v : Nat) : Option TestCmd :=
  if 0x400 ≤ w ∧ w < 0x4A0 then
    let n := (w - 0x400) / 16
    let x := pinOf s (t * 10 + n)
    let y := leBytes 1 t ++ leBytes 1 n ++ leBytes 1 x.mode ++ leBytes 1 x.edge ++ leBytes 1 x.action
      ++ leBytes 1 (b2n x.timed + 2 * b2n x.invert) ++ zeros 2 ++ leBytes 4 x.filterNs ++ leBytes 4 x.minGapNs ++ leBytes 4 x.widthNs
      ++ leBytes 4 x.delayNs ++ leBytes 4 (unsigned 32 x.trimQ2) ++ zeros 4
    let y' := match w % 16 with
      | 0 => some (setBytes 2 1 (bits v 2 0) (setBytes 3 1 (bits v 4 3) (setBytes 4 1 (bits v 6 5) (setBytes 5 1 (bits v 8 7) y))))
      | 1 => some (setBytes 8 4 (bits v 13 0) y)
      | 2 => some (setBytes 12 4 v y)
      | 3 => some (setBytes 16 4 v y)
      | 4 => some (setBytes 20 4 v y)
      | 5 => some (setBytes 24 4 (unsigned 32 (signed 18 (bits v 17 0))) y)
      | _ => none
    y'.map fun p => { op := 0x0A10, params := p }
  else none

/-- MO_CMP and MO_TBL of an interface with a live compare handle: MO_CMP_ARM, MO_TBL_START. -/
def testCompare (s : State) (i w v : Nat) : Option TestCmd :=
  let u := (axis s i).cmp
  let x := (axis s i).tbl
  let y := leBytes 4 u.position.toNat ++ leBytes 1 (b2n u.down + 2 * b2n u.fireBehind) ++ zeros 3
  let z := leBytes 4 x.base.toNat ++ leBytes 4 x.period ++ leBytes 2 x.entries ++ leBytes 1 (b2n x.down + 2 * b2n x.skipBehind) ++ [0]
    ++ leBytes 4 x.cycles ++ zeros 8
  match cmpSlot? s i with
  | none => none
  | some k =>
    let h := handleOf s k
    match w with
    | 16 => some { op := 0x0B11, target := h, params := setBytes 0 4 v y }
    | 17 => some { op := 0x0B11, target := h, params := setBytes 4 1 (bits v 3 2) y }
    | 20 => some { op := 0x0B14, target := h, params := setBytes 0 4 v z }
    | 21 => some { op := 0x0B14, target := h, params := setBytes 4 4 v z }
    | 22 => some { op := 0x0B14, target := h, params := setBytes 8 2 (bits v 10 0) (setBytes 10 1 (bits v 12 11) z) }
    | 25 => some { op := 0x0B14, target := h, params := setBytes 12 4 v z }
    | _ => none

def testMo (s : State) (t w v : Nat) : Option TestCmd :=
  if 0x400 ≤ w ∧ w < 0x480 then
    let i := t * 2 + (w - 0x400) / 64
    let y := axisLayout i (axis s i)
    let set (p : List Byte) : Option TestCmd := some { op := 0x0B01, params := p }
    match w % 64 with
    | 0 => set (setBytes 1 1 (bits v 2 0) (setBytes 2 1 (bits v 5 3 + 8 * bits v 8 8) (setBytes 3 1 (bits v 7 6) y)))
    | 1 => set (setBytes 4 2 (bits v 9 0) y)
    | 2 => set (setBytes 6 2 (bits v 8 0) y)
    | 3 => set (setBytes 8 4 (bits v 19 0) y)
    | n => testCompare s i n v
  else none

/-! ### PG and HM (chapters 16 and 17) -/

/-- PG_CONFIG with the present settings. -/
def pgLayout (s : State) : List Byte :=
  let c := s.gov.conf
  leBytes 2 (limitW s) ++ leBytes 1 c.guardPct ++ leBytes 1 c.floorGbps ++ leBytes 2 c.costB ++ leBytes 2 c.ageMs
    ++ leBytes 4 c.backlogPages ++ zeros 8 ++ zeros 4

def testPg (s : State) (t w v : Nat) : Option TestCmd :=
  let y := pgLayout s
  let set (p : List Byte) : Option TestCmd := some { op := 0x0D01, params := p }
  if w = 0x42 then set (setBytes (12 + t) 1 (bits v 6 0) y)
  else if t ≠ 0 then none
  else match w with
  | 0 => set (setBytes 0 2 (bits v 9 0) (setBytes 2 1 (bits v 20 16) y))
  | 3 => set (setBytes 3 1 (bits v 4 0) (setBytes 6 2 (bits v 25 16) y))
  | 4 => set (setBytes 4 2 (bits v 9 0) y)
  | _ => none

def testHm (s : State) (t w v : Nat) : Option TestCmd :=
  if w = 6 then
    let r := tget {} s.hm.rings t
    some { op := 0x0E03, params := leBytes 8 r.base ++ leBytes 2 (2 ^ r.slotsLog2) ++ leBytes 1 (b2n r.enabled + 2 * bits v 5 5) ++ [0]
      ++ leBytes 2 (bits v 26 16) ++ zeros 2 }
  else if 0x400 ≤ w ∧ w < 0x4A0 then
    let d := (w - 0x400) / 8
    let x := detOf s t d
    match w % 8 with
    | 3 => some { op := 0x0E02, params := leBytes 1 t ++ leBytes 1 d ++ leBytes 2 (bits v 15 0) ++ zeros 4 }
    | 4 => some { op := 0x0E11, params := leBytes 1 t ++ leBytes 1 d ++ leBytes 2 x.pending ++ leBytes 1 (bits v 23 16) ++ zeros 3
        ++ leBytes 2 (unsigned 16 x.value) ++ leBytes 2 x.duration ++ zeros 4 }
    | _ => none
  else none

/-! ### The register map -/

def testTile (s : State) (t off v : Nat) : Option TestCmd :=
  let w := off % 0x80000 / 4
  match off / 0x80000 with
  | 0 => if w < 0x2000 ∧ w % 0x400 = 0 then some (testLane s (t * 8 + w / 0x400) v) else none
  | 2 => testSr s t w v
  | 3 => testFa s t w v
  | 4 => testCd s t w v
  | 5 => testFs s t w v
  | 6 => testAd s t w v
  | 9 => testTu s t w v
  | 10 => testEv s t w v
  | 11 => testMo s t w v
  | 13 => testPg s t w v
  | 14 => testHm s t w v
  | _ => none

/-- The command that a write of a CONTROL register stands for (R34); none for a register without such a field. -/
def testCommand (s : State) (offset v : Nat) : Option TestCmd :=
  let off := offset / 4 * 4
  if off = 0x100 then some { op := 0x0110, params := leBytes 1 (bits v 7 4) ++ zeros 7 }
  else if off = 0x110 then some { op := 0x0102, params := leBytes 1 (bits v 2 0) ++ zeros 3 }
  else if off = 0x12C then some { op := 0x0F04, params := leBytes 1 (bits v 0 0) ++ leBytes 1 (bits v 1 1) ++ zeros 2 }
  else if off = 0x200018 then some { op := 0x0123, params := leBytes 4 v }
  else if off = 0x200404 then some { op := 0x0C02, params := leBytes 2 (bits v 11 0) ++ leBytes 1 (bits v 12 12) ++ [0] }
  else if 0x800000 ≤ off ∧ off < 0x4800000 then
    if (off - 0x800000) / 0x800000 < tiles s then testTile s ((off - 0x800000) / 0x800000) (off % 0x800000) v else none
  else if 0x4800000 ≤ off ∧ off < 0x5000000 then testTime s ((off - 0x4800000) / 4) v
  else none

/-- Port whose command the write is: that of the report ring for HM_RPT_CFG, the writing port otherwise. -/
def testPort (port offset : Nat) (x : TestCmd) : Nat := if x.op = 0x0E03 then (offset - 0x800000) / 0x800000 else port

/-- Commands that a test write started answer nobody. -/
def muteFrom (id : Nat) (s : State) : State :=
  modEng s fun e => { e with waiting := e.waiting.map fun w => if id ≤ w.id then { w with alive := false } else w }

/-- Checks and executes a test write like its command, without the check of ownership and without a reply; none when the command
would refuse the value. -/
def runTest (port offset : Nat) (x : TestCmd) (s : State) : Option State :=
  (opOf x.op).bind fun o =>
    let o := { o with own := some fun _ _ => none, refsOwned := false }
    let c : Cmd := {
      port := testPort port offset x, queue := 0, seq := 0, target := BitVec.ofNat 32 x.target, flags := 0, expectGen := 0, cookie := 0
      params := x.params }
    let s := afterEvents o c s
    let x : Intent := { op := x.op, cmd := c, count := 0 }
    if (check o c s).isSome then none
    else match o.act c s with
    | .done s' _ => some (journalOne x s')
    | .wait s' => some (journalOne x (muteFrom s.eng.nextWait s'))
    | .fail _ => none

/-- R34: a write of a field whose access code is RO: executed in TEST mode for the master port, ignored and counted otherwise. -/
def writeTest (port offset : Nat) (value : U32) (s : State) : State :=
  if s.pkg.mode = .test && isMaster s port && commandsRun s then
    match (testCommand s offset value.toNat).bind fun x => runTest port offset x s with
    | some s' => s'
    | none => ignoreWrite port s
  else ignoreWrite port s

def execTestFieldWrite (port offset : Nat) (value : U32) (s : State) : Meaning := .next <|
  if !decide (port < tiles s) then s
  else if memoryServed (portOf s port) then writeTest port offset value s
  else refuseMemory port true s

end Sys2Proof.Machine
end

