-- ==== Sys2Proof/Machine/Registers.lean ====
section
/-!
DEFINITION. Accesses of a host to CONTROL: register pairs (R6), reads with captures (R237, R254, R267, R268, R304), the writes that
are accepted directly (R33, R226), and COMPAT accesses (R228).
-/
namespace Sys2Proof.Machine
open Sys2Proof

/-! ### Register pairs (R6) -/

/-- Word w lies in lo .. hi - 1 and on an even place from lo. -/
def evenIn (lo hi w : Nat) : Bool := decide (lo ≤ w ∧ w < hi) && decide (w % 2 = lo % 2)

/-- Words of a tile block that are _LO registers. -/
def tileLo (block w : Nat) : Bool :=
  match block with
  | 0 => decide (w < 0x2000) && (decide (w % 0x400 = 4) || evenIn 0x40 0x63 (w % 0x400))
  | 2 =>
    if w < 0x400 then decide (0x40 ≤ w % 0x80) && decide (w % 4 = 0)
    else decide (0x1000 ≤ w ∧ w < 0x2000) && (decide (w % 0x40 = 13) || evenIn 16 46 (w % 0x40))
  | 3 => decide (0x400 ≤ w ∧ w < 0x1400) && (decide (w % 0x40 = 7) || evenIn 16 26 (w % 0x40))
  | 4 =>
    if w < 0x80 then decide (0x40 ≤ w) && evenIn 0 12 (w % 16)
    else decide (0x400 ≤ w ∧ w < 0xC00) && evenIn 16 24 (w % 0x20)
  | 5 => w == 6 || (decide (0x400 ≤ w ∧ w < 0xC00) && (w % 0x20 == 3 || w % 0x20 == 5 || evenIn 16 28 (w % 0x20)))
  | 6 =>
    decide (0x400 ≤ w ∧ w < 0x2400) && (if w % 0x80 < 0x40 then w % 8 == 4 || w % 8 == 6
      else w % 0x80 == 0x40 || evenIn 0x50 0x56 (w % 0x80))
  | 7 => w == 0x80 || w == 0x82 || (decide (0x400 ≤ w ∧ w < 0x2400) && (w % 16 == 0 || w % 16 == 2))
  | 8 => evenIn 0x40 0x54 w || w == 0x82 || w == 0x84
  | 9 => w == 6 || (decide (0x800 ≤ w ∧ w < 0x880) && decide (w % 16 = 2))
  | 10 => w == 4 || w == 6
  | 11 => decide (0x400 ≤ w ∧ w < 0x480) && (w % 64 == 7 || evenIn 32 42 (w % 64))
  | 13 => evenIn 0xC0 0xCA w
  | 14 => w == 4 || (decide (0x400 ≤ w ∧ w < 0x4A0) && decide (w % 8 = 0))
  | _ => false

/-- A CONTROL offset holds the _LO register of a pair. -/
def isLo (s : State) (offset : Nat) : Bool :=
  if 0x200100 ≤ offset ∧ offset < 0x200300 then
    decide ((offset - 0x200100) / 0x40 < tiles s)
      && ((offset % 0x40 / 4 == 0) || (offset % 0x40 / 4 == 2) || (offset % 0x40 / 4 == 9))
  else if 0x800000 ≤ offset ∧ offset < 0x4800000 then
    decide ((offset - 0x800000) / 0x800000 < tiles s)
      && tileLo ((offset - 0x800000) % 0x800000 / 0x80000) (offset % 0x80000 / 4)
  else offset == timeBlock + 4 || offset == timeBlock + 0x104

/-- Key of a CONTROL offset as a port sees it. -/
def portKey (port offset : Nat) : Nat := port * 2 ^ 27 + offset

/-! ### Reads -/

/-- A _HI register of the time block, whose captures serve one read (R6, R267). -/
def timeHi (offset : Nat) : Bool := offset == timeBlock + 8 || offset == timeBlock + 0x108

/-- A read of a register of a captured set: "the next reads" of R267 end with this one, and its _LO captures the pair (R6). The sets of
R237, R268 and R304 serve every later read, of _HI registers too, until the next capture. -/
def readCaptured (port offset : Nat) (v : U32) (s : State) : State :=
  let hi := (tget? s.host.captured (portKey port (offset + 4))).getD (word (regValue s (offset + 4)))
  emit (.completion port v.toNat) (if timeHi (offset + 4) then modHost s fun h => { h with
    captured := tdel h.captured (portKey port offset), capturedHi := tput h.capturedHi (portKey port (offset + 4)) hi } else s)

/-- A read of a plain register: a captured set wins (R237, R267, R268, R304); a _LO register captures its pair; the first read of _HI
after a capture uses it up (R6). -/
def readPlain (port offset : Nat) (s : State) : State :=
  match if timeHi offset then none else tget? s.host.captured (portKey port offset) with
  | some v => readCaptured port offset v s
  | none =>
    if isLo s offset then
      let v := regValue s offset
      emit (.completion port v) (modHost s fun h => { h with
        capturedHi := tput h.capturedHi (portKey port (offset + 4)) (word (regValue s (offset + 4))) })
    else match tget? s.host.capturedHi (portKey port offset) with
    | some v => emit (.completion port v.toNat) (modHost s fun h => { h with capturedHi := tdel h.capturedHi (portKey port offset) })
    | none => emit (.completion port (regValue s offset)) s

/-- A read of TU_SCHED_NEXT_NS captures the whole time of the next pulse (R268). -/
def readSchedNext (port offset : Nat) (s : State) : State :=
  emit (.completion port (regValue s offset))
    (capture port (offset + 4) (regValue s (offset + 4)) (capture port (offset + 8) (regValue s (offset + 8)) s))

/-- The state that a meaning leaves. -/
def stateAfter (m : Meaning) (s : State) : State :=
  match m with
  | .next t => t
  | _ => s

/-- A read in a tile block. -/
def readTile (port t off offset : Nat) (s : State) : State :=
  let w := off % 0x80000 / 4
  match off / 0x80000 with
  | 8 => if w = 0x80 then readPtm port t s else readPlain port offset s
  | 9 =>
    if w = 4 then stateAfter (execTxtsPop port t s) s
    else if 0x800 ≤ w ∧ w < 0x880 ∧ w % 16 = 1 then readSchedNext port offset s
    else readPlain port offset s
  | 11 => if 0x400 ≤ w ∧ w < 0x480 ∧ w % 64 = 5 then stateAfter (execMoPosRead port (t * 2 + (w - 0x400) / 64) s) s
    else readPlain port offset s
  | _ => readPlain port offset s

/-- A read of one double word of CONTROL (R225). -/
def readControl (port offset : Nat) (s : State) : State :=
  let offset := offset / 4 * 4
  if offset = timeBlock then stateAfter (execPkgTimeRead port false s) s
  else if offset = timeBlock + 0x100 then stateAfter (execPkgTimeRead port true s) s
  else if 0x800000 ≤ offset ∧ offset < 0x4800000 then
    if (offset - 0x800000) / 0x800000 < tiles s then readTile port ((offset - 0x800000) / 0x800000) (offset % 0x800000) offset s
    else readPlain port offset s
  else readPlain port offset s

/-- R6, R225: a host reads a register. -/
def execLoReadCapture (port offset : Nat) (s : State) : Meaning := .next <|
  if !decide (port < tiles s) then s
  else if !memoryServed (portOf s port) || decide (0x8000000 ≤ offset) then refuseMemory port false s
  else readControl port offset s

/-! ### Writes accepted directly (R33, R226) -/

/-- The _LO half that a port has written last and not committed; the present low half when none. -/
def stagedOf (s : State) (port offset : Nat) : Nat := ((tget? s.host.stagedLo (portKey port offset)).map (·.toNat)).getD (regValue s offset)

def stageLo (port offset : Nat) (value : U32) (s : State) : State :=
  modHost s fun h => { h with stagedLo := tput h.stagedLo (portKey port offset) value }

/-- The 64-bit value that a write of _HI at an offset commits. -/
def commitValue (s : State) (port offset : Nat) (value : U32) : Nat := value.toNat * 2 ^ 32 + stagedOf s port (offset - 4)

/-- The _LO half that was staged is used up. -/
def unstage (port offset : Nat) (s : State) : State :=
  modHost s fun h => { h with stagedLo := tdel h.stagedLo (portKey port (offset - 4)) }

def maskBase (v : Nat) : Nat := v / 64 * 64

/-- A GO that reads nothing (R356): another port than the boot master port, outside BOOT, no Bus Master Enable, or busy. -/
def goRefusal (s : State) (port : Nat) : Option Status :=
  if s.pkg.mode ≠ .boot ∨ port ≠ bootMaster s ∨ (portOf s port).busMaster = false then some .eState
  else if (tget {} s.boot.mailbox port).state = 1 then some .eBusy
  else none

def refuseGo (port : Nat) (code : Status) (s : State) : State :=
  { s with boot := { s.boot with mailbox := tmod {} s.boot.mailbox port fun b => { b with code := code } } }

/-- A write of word w of the writing port's own CE_BOOT block (Table 3-15, Table 18-6). -/
def writeBootBlock (port w offset : Nat) (value : U32) (s : State) : State :=
  let open_ := decide ((blockOfPort s port).state = 1)
  let v := value.toNat
  match w with
  | 0 | 2 => if open_ then ignoreWrite port s else stageLo port offset value s
  | 1 =>
    if open_ then ignoreWrite port s
    else
      let x := maskBase (commitValue s port offset value)
      unstage port offset (modBlockOf port (fun b => { b with cqBase := x }) s)
  | 3 =>
    if open_ then ignoreWrite port s
    else
      let x := maskBase (commitValue s port offset value)
      unstage port offset (modBlockOf port (fun b => { b with rqBase := x }) s)
  | 4 =>
    if open_ then ignoreWrite port s
    else modBlockOf port (fun b => { b with cqLog2 := bits v 4 0, rqLog2 := bits v 12 8, vector := bits v 26 16 }) s
  | 5 => if bit v 0 then writeOpen port port s else s
  | 8 => stateAfter (execCeBootArbWrite port value s) s
  | 9 => stageLo port offset value s
  | 10 =>
    let x := maskBase (commitValue s port offset value)
    unstage port offset { s with boot := { s.boot with mailbox := tmod {} s.boot.mailbox port fun b => { b with addr := x } } }
  | 11 =>
    if bit v 0 then (match goRefusal s port with
      | some code => refuseGo port code s
      | none => s)
    else s
  | _ => ignoreWrite port s

/-- A write of a word of the MSI-X table of the writing port (R226, R230). -/
def writeMsix (port i : Nat) (value : U32) (s : State) : State :=
  let k := port * 2048 + i / 4
  let put (f : Vector → Vector) : State := modHost s fun h => { h with vectors := tmod {} h.vectors k f }
  let v := value.toNat
  match i % 4 with
  | 0 => put fun x => { x with addr := x.addr / 2 ^ 32 * 2 ^ 32 + v / 4 * 4 }
  | 1 => put fun x => { x with addr := v * 2 ^ 32 + x.addr % 2 ^ 32 }
  | 2 => put fun x => { x with data := v }
  | _ => if bit v 0 then put fun x => { x with masked := true } else unmaskVector port (i / 4) s

/-- A write of the HE block of the writing port. -/
def writeHe (port w : Nat) (value : U32) (s : State) : State :=
  if 0xC0 ≤ w ∧ w < 0x100 then clearIntx port (w - 0xC0) value s
  else if 0x2000 ≤ w ∧ w < 0x4000 then writeMsix port (w - 0x2000) value s
  else ignoreWrite port s

/-- A write of a word of a mover channel's window (R196, Table 10-14). -/
def writeChan (port g w offset : Nat) (value : U32) (s : State) : State :=
  if !ownsChan s port g then ignoreWrite port s
  else match w with
  | 0 | 2 => stageLo port offset value s
  | 1 | 3 =>
    let lo := stagedOf s port (offset - 4)
    unstage port offset (modChan g (fun c => { c with regs := setChanReg w value.toNat lo c.regs }) s)
  | 6 =>
    if bit value.toNat 1 then writeAbort port g s else if bit value.toNat 0 then writeStart port g s else s
  | _ =>
    if w = 4 ∨ w = 5 ∨ (9 ≤ w ∧ w ≤ 12) then
      modChan g (fun c => { c with regs := setChanReg w value.toNat 0 c.regs }) s
    else ignoreWrite port s

/-- A diagnostic register of a tile (R33): the state with the selection; none where the word is no such register. -/
def writeSelector (t block w v : Nat) (s : State) : Option State :=
  match block, w with
  | 5, 0x40 => some (modFs s fun f => { f with segSel := tput f.segSel t (v % 2 ^ 14) })
  | 6, 0x40 => some { s with ad := { s.ad with ruleSel := tput s.ad.ruleSel t (v % 2 ^ 9) } }
  | 10, 0x40 => some (modEv s fun e => { e with inputSel := tput e.inputSel t (v % 2 ^ 10) })
  | 10, 0x44 => some (modEv s fun e => { e with chanSel := tput e.chanSel t (v % 2 ^ 8) })
  | 10, 0x48 => some (modEv s fun e => { e with sourceSel := tput e.sourceSel t (v % 2 ^ 8) })
  | 13, 0x80 => some (modTileGov t (fun g => { g with sensorSel := v % 2 ^ 5 }) s)
  | _, _ => none

/-- A write in a tile block. -/
def writeTile (port t off offset : Nat) (value : U32) (s : State) : State :=
  let w := off % 0x80000 / 4
  let block := off / 0x80000
  match writeSelector t block w value.toNat s with
  | some s' => s'
  | none =>
    if block = 8 ∧ t = port then writeHe port w value s
    else if block = 7 ∧ 0x400 ≤ w ∧ w < 0x2400 then writeChan port (t * 512 + (w - 0x400) / 16) (w % 16) offset value s
    else writeTest port offset value s

/-- A write of a doorbell window (Table 10-12). -/
def writeDoorbell (port q w : Nat) (value : U32) (s : State) : State :=
  match w with
  | 0 => doorbell port q value s
  | 1 => stateAfter (execDbMaskWrite port q (bit value.toNat 0) s) s
  | _ => ignoreWrite port s

/-- A write of one double word of CONTROL (R33, R225). -/
def writeControl (port offset : Nat) (value : U32) (s : State) : State :=
  let offset := offset / 4 * 4
  if 0x100000 ≤ offset ∧ offset < 0x200000 then
    if (offset - 0x100000) / 64 / 2048 < tiles s then writeDoorbell port ((offset - 0x100000) / 64) (offset % 64 / 4) value s
    else ignoreWrite port s
  else if offset = 0x200010 then modEng s fun e => { e with opinfoSel := value.toNat % 65536 }
  else if 0x200100 ≤ offset ∧ offset < 0x200300 then
    if (offset - 0x200100) / 0x40 = port then writeBootBlock port (offset % 0x40 / 4) offset value s else ignoreWrite port s
  else if 0x800000 ≤ offset ∧ offset < 0x4800000 then
    if (offset - 0x800000) / 0x800000 < tiles s then
      writeTile port ((offset - 0x800000) / 0x800000) (offset % 0x800000) offset value s
    else ignoreWrite port s
  else if 0x8000000 ≤ offset then ignoreWrite port s
  else writeTest port offset value s

/-- Contiguous byte enables (R225). -/
def contiguous (be : BitVec 4) : Bool := [0, 1, 2, 3, 4, 6, 7, 8, 12, 14, 15].contains be.toNat

/-- The bits that byte enables name. -/
def enabledBits (be : BitVec 4) : U32 :=
  (List.range 4).foldl (fun m i => if be.getLsbD i then m ||| BitVec.ofNat 32 (0xFF * 2 ^ (8 * i)) else m) 0

/-- Bytes that a write does not enable: those staged of a _LO register, and those held; 0 in a register whose bits act by writing 1
(HE_INTX_STATUS). -/
def keptValue (s : State) (port offset : Nat) : U32 :=
  let offset := offset / 4 * 4
  let w := offset % 0x80000 / 4
  if 0x800000 ≤ offset ∧ offset < 0x4800000 ∧ offset % 0x800000 / 0x80000 = 8 ∧ 0xC0 ≤ w ∧ w < 0x100 then 0
  else word (stagedOf s port offset)

/-- A write of one double word of CONTROL with byte enables (R225). -/
def writeBytes (port offset : Nat) (value : U32) (be : BitVec 4) (s : State) : State :=
  if !contiguous be then badShape port false s
  else if be = 0 then s
  else if be = 0xF then writeControl port offset value s
  else
    let m := enabledBits be
    writeControl port offset ((value &&& m) ||| (keptValue s port offset &&& ~~~m)) s

/-- R33, R225: a host writes a register. -/
def writeRegister (port offset : Nat) (value : Dw) (s : State) : State :=
  if !decide (port < tiles s) then s
  else if memoryServed (portOf s port) then writeBytes port offset value.value value.be s
  else refuseMemory port true s

def execRegisterWrite (port offset : Nat) (value : Dw) (s : State) : Meaning := .next (writeRegister port offset value s)

/-- R6: a host writes a _HI register. -/
def execHiWriteCommit (port offset : Nat) (value : Dw) (s : State) : Meaning := .next (writeRegister port offset value s)

/-! ### COMPAT (R228) -/

def countInvalid (port : Nat) (s : State) : State := modPortCounters port (fun c => { c with compatInvalid := c.compatInvalid + 1 }) s

/-- A read of CONTROL of len bytes (R225): one double word, or an aligned pair. -/
def readShape (port target len : Nat) (s : State) : State :=
  if len = 4 then readControl port target s
  else if len = 8 ∧ target % 8 = 0 then readControl port (target + 4) (readControl port target s)
  else badShape port true s

/-- A COMPAT access: a write is one of one double word with byte enables (a longer write is a row for each double word of a pair, R225). -/
def compatAccess (port offset : Nat) (tlp : CompatTlp) (s : State) : State :=
  let e := tget {} (portOf s port).compatActive (offset / 0x400000)
  let target := e.offset + offset % 0x400000
  match e.valid, e.store, tlp.write with
  | false, _, some _ => countInvalid port s
  | false, _, none => emit (if tlp.len = 4 then .completion port 0 else .readData port (zeros tlp.len)) (countInvalid port s)
  | true, false, some v => if tlp.len = 4 then writeBytes port target v tlp.be s else badShape port false s
  | true, false, none => readShape port target tlp.len s
  | true, true, some _ => ignoreWrite port s
  | true, true, none => storeRead port target tlp.len s

def execCompatAccess (port offset : Nat) (tlp : CompatTlp) (s : State) : Meaning := .next <|
  if !decide (port < tiles s) || decide (0x10000000 ≤ offset) then s
  else if !memoryServed (portOf s port) || !s.boot.conf.compatEnable then refuseMemory port tlp.write.isSome s
  else compatAccess port offset tlp s

end Sys2Proof.Machine
end

