-- ==== Sys2Proof/Machine/ConfigSpace.lean ====
section
/-!
DEFINITION. Configuration space of a host port: identification (R1, R2), base address registers (Table 11-3), capabilities (Table
11-4, Table 11-7), and configuration requests (R224). The layouts inside the standard's own structures are PCI Express's (PRESUMED,
log entry 19).
-/
namespace Sys2Proof.Machine
open Sys2Proof

/-! ### Plain fields -/

/-- Bits of a configuration register that the host writes freely and that act on nothing in the model. -/
def cfgMask (s : State) (p : Nat) : Nat → Nat
  | 0x04 => 0x140
  | 0x0C => 0xFF
  | 0x10 => 0xF8000000
  | 0x14 => 0xFFFFFFFF
  | 0x18 => if storeSize s p = 2 ^ 30 then 0xC0000000 else if storeSize s p = 2 ^ 31 then 0x80000000 else 0
  | 0x1C => if storeSize s p ≤ 2 ^ 32 then 0xFFFFFFFF else 2 ^ 32 - storeSize s p / 2 ^ 32
  | 0x20 => if s.boot.conf.compatEnable then 0xF0000000 else 0
  | 0x3C => 0xFF
  | 0x68 => 0x71EF
  | 0x70 => 0xC8
  | 0x88 => 0x1000
  | 0x2F8 => 0xFF00
  | off => if 0x2A8 ≤ off ∧ off < 0x2E8 then 0xFF7F else 0

/-- Bits that are written freely and keep their value through resets other than PERST# and hot reset. -/
def stickyMask : Nat → Nat
  | 0x90 => 0xF
  | 0x118 => 0x140
  | _ => 0

/-- Value of the plain fields before the host writes them. -/
def cfgInitial : Nat → U32
  | 0x68 => 0x2000
  | 0x90 => 6
  | off => if 0x2A8 ≤ off ∧ off < 0x2E8 then 0x9C38 else 0

def plainCfg (s : State) (p off : Nat) : Nat :=
  (tget (cfgInitial off) (portOf s p).otherRw off &&& BitVec.ofNat 32 (cfgMask s p off)).toNat
    + (tget (cfgInitial off) (portOf s p).otherCfg off &&& BitVec.ofNat 32 (stickyMask off)).toNat

/-! ### Reads -/

/-- Header of an extended capability: ID, version, next pointer. -/
def extHeader (id version next : Nat) : Nat := id + 2 ^ 16 * version + 2 ^ 20 * next

/-- The type 0 header (R1, R2, Table 11-3). -/
def headerReg (s : State) (p off : Nat) : Nat :=
  let q := portOf s p
  match off with
  | 0x00 => 0xD5E7 + 2 ^ 16 * partDevice s.part
  | 0x04 => 2 * b2n q.memSpace + 4 * b2n q.busMaster + 2 ^ 10 * b2n q.intDisable + 2 ^ 19 * b2n (intxPending s p) + 2 ^ 20
    + 2 ^ 16 * q.cfgErrors
  | 0x08 => revision + 2 ^ 8 * 0x118000
  | 0x10 => 4
  | 0x18 => 0xC
  | 0x2C => match s.boot.conf.subsystem with
    | some (v, d) => v + 2 ^ 16 * d
    | none => 0xD5E7 + 2 ^ 16 * partDevice s.part
  | 0x34 => 0x40
  | 0x3C => 0x100
  | _ => 0

/-- Power Management, MSI-X and PCI Express capabilities. -/
def capReg (s : State) (p off : Nat) : Nat :=
  let q := portOf s p
  match off with
  | 0x40 => 0x01 + 2 ^ 8 * 0x50 + 2 ^ 16 * 3
  | 0x44 => (if q.d3hot then 3 else 0) + 8
  | 0x50 => 0x11 + 2 ^ 8 * 0x60 + 2 ^ 16 * 0x7FF + 2 ^ 30 * b2n q.functionMask + 2 ^ 31 * b2n q.msixEnable
  | 0x54 => 0x0C08000 + p * 0x0800000
  | 0x58 => 0x0C10000 + p * 0x0800000
  | 0x60 => 0x10 + 2 ^ 16 * 2 + 2 ^ 31
  | 0x64 => 2 + 2 ^ 5 + 2 ^ 15 + 2 ^ 28
  | 0x68 => 2 ^ 4 * b2n q.relaxedEnable + 2 ^ 16 * q.devErrors + 2 ^ 21 * b2n (!(requestsOut s p).isEmpty)
  | 0x6C => 6 + 2 ^ 4 * 16
  | 0x70 => 2 ^ 16 * q.rate + 2 ^ 20 * q.width
  | 0x84 => 0xF + 2 ^ 17
  | 0x88 => q.cplTimeoutValue
  | 0x8C => 0x7E
  | 0x90 => 2 ^ 26 * b2n q.flit + (if 3 ≤ q.rate then 0x1E0000 else 0)
  | _ => 0

/-- Advanced Error Reporting (R234): a header logged in Flit mode shows so, with its size, and goes on after the fourth double word. -/
def aerReg (q : Port) (off : Nat) : Nat :=
  match off with
  | 0x100 => extHeader 0x0001 2 0x180
  | 0x104 => q.aerUncor.toNat
  | 0x108 => q.aerUncorMask.toNat
  | 0x10C => q.aerSeverity.toNat
  | 0x110 => q.aerCor.toNat
  | 0x114 => q.aerCorMask.toNat
  | 0x118 =>
    q.aerFirst.getD 0 + 2 ^ 5 + 2 ^ 7 + (if q.aerFlit then 2 ^ 18 + 2 ^ 19 * ((q.aerHeader.length + 3) / 4 % 32) else 0)
  | _ =>
    if 0x11C ≤ off ∧ off < 0x12C then be q.aerHeader (off - 0x11C) 4
    else if 0x138 ≤ off ∧ off < 0x160 ∧ q.aerFlit then be q.aerHeader (off - 0x138 + 16) 4
    else 0

/-- A lane's Margining control and status: the command comes back with the receiver's payload (log entry 19). -/
def marginReg (q : Port) (off : Nat) : Nat :=
  let control := (tget (cfgInitial off) q.otherRw off).toNat % 2 ^ 16
  if q.rate < 4 then 0
  else 2 ^ 16 * (control % 128 + 2 ^ 8 * (if bits control 5 3 = 7 then control / 256 else (Config.marginStatus (off / 4) control).toNat))

/-- Equalization of a link is complete, with its three phases. -/
def equalized (q : Port) (rate : Nat) : Nat := if rate ≤ q.rate then 0xF else 0

/-- The other extended capabilities (Table 11-4). -/
def extReg (s : State) (p off : Nat) : Nat :=
  let q := portOf s p
  match off with
  | 0x180 => extHeader 0x0003 1 0x190
  | 0x184 => Config.packageSerial.toNat % 2 ^ 32
  | 0x188 => Config.packageSerial.toNat / 2 ^ 32
  | 0x190 => extHeader 0x0019 1 0x1D0
  | 0x1D0 => extHeader 0x0025 1 0x1E0
  | 0x1D4 => 1 + 2 ^ 31
  | 0x1E0 => extHeader 0x0026 1 0x220
  | 0x1EC => equalized q 4
  | 0x220 => extHeader 0x002A 1 0x260
  | 0x22C => equalized q 5
  | 0x260 => extHeader 0x0031 1 0x2A0
  | 0x26C => equalized q 6
  | 0x2A0 => extHeader 0x0027 1 0x2F0
  | 0x2A4 => if 4 ≤ q.rate then 2 ^ 16 else 0
  | 0x2F0 => extHeader 0x001F 1 0x300
  | 0x2F4 => 1 + 2 ^ 8
  | 0x2F8 => b2n q.ptm.enabled
  | 0x300 => extHeader 0x0015 1 (if s.boot.conf.compatEnable then 0x340 else 0)
  | 0x304 => 0x00FFC000
  | 0x308 => 2 + 2 ^ 5 + 2 ^ 8 * q.barSize
  | _ => if 0x2A8 ≤ off ∧ off < 0x2E8 then marginReg q off else 0

/-- A half of an entry of a COMPAT table. -/
def entryReg (e : CompatEntry) (hi : Nat) : Nat :=
  if hi = 0 then b2n e.valid + 2 * b2n e.store + e.offset % 2 ^ 32 / 0x400000 * 0x400000 else e.offset / 2 ^ 32

/-- The COMPAT capability, by offset from 0x340 (Table 11-7). -/
def compatReg (s : State) (p off : Nat) : Nat :=
  let q := portOf s p
  match off with
  | 0x00 => 0x00010023
  | 0x04 => 0xD5E7 + 2 ^ 16 + 2 ^ 20 * 0x420
  | 0x08 => 1
  | 0x0C => 4 * q.badIndex + 2 ^ 8 * b2n q.refused + 2 ^ 16 * q.commits.toNat
  | _ =>
    if 0x20 ≤ off ∧ off < 0x220 then entryReg (tget {} q.compatStage ((off - 0x20) / 8)) (off / 4 % 2)
    else if 0x220 ≤ off ∧ off < 0x420 then entryReg (tget {} q.compatActive ((off - 0x220) / 8)) (off / 4 % 2)
    else 0

/-- Present value of a double word of configuration space. -/
def cfgValue (s : State) (p off : Nat) : Nat :=
  let fixed :=
    if off < 0x40 then headerReg s p off
    else if off < 0x100 then capReg s p off
    else if off < 0x180 then aerReg (portOf s p) off
    else if off < 0x340 then extReg s p off
    else if off < 0x760 ∧ s.boot.conf.compatEnable then compatReg s p (off - 0x340)
    else 0
  fixed + plainCfg s p off

/-! ### Writes -/

/-- Implemented bits of the AER error registers: the errors that Table 11-9 reports; the others are reserved (R5). -/
def aerUncorBits : U32 := 0x005FF010
def aerCorBits : U32 := 0x000071C1

/-- The connected state of the port may have changed. -/
def afterLinkBits (p : Nat) (old s : State) : State := if connected old p = connected s p then s else portChange p s

/-- Plain fields take the value written. -/
def writePlain (p off : Nat) (value : U32) (s : State) : State :=
  if cfgMask s p off ≠ 0 then modPort p (fun q => { q with otherRw := tput q.otherRw off value }) s
  else if stickyMask off ≠ 0 then modPort p (fun q => { q with otherCfg := tput q.otherCfg off value }) s
  else s

/-- Bits that are cleared by writing 1 to them. -/
def clearOnes (x v : Nat) : Nat := x ^^^ (x &&& v)

/-- Command register: Memory Space Enable, Bus Master Enable, Interrupt Disable (R231). -/
def writeCommand (p v : Nat) (s : State) : State :=
  let s' := modPort p (fun q => { q with
    memSpace := bit v 1, busMaster := bit v 2, intDisable := bit v 10, cfgErrors := clearOnes q.cfgErrors (v / 2 ^ 16) }) s
  let s' := if bit v 10 then deassertInta p s' else s'
  afterLinkBits p s s'

/-- Power state of the function: D0 or D3hot; a write of another state changes nothing. -/
def writePower (p v : Nat) (s : State) : State :=
  if v % 4 = 0 ∨ v % 4 = 3 then afterLinkBits p s (modPort p (fun q => { q with d3hot := decide (v % 4 = 3) }) s) else s

/-- MSI-X Enable and Function Mask (R230, R231). -/
def writeMsixControl (p v : Nat) (s : State) : State :=
  let s := modPort p (fun q => { q with functionMask := bit v 30, msixEnable := bit v 31 }) s
  sendAllPending p (if bit v 31 then deassertInta p s else s)

/-- Device Control: Enable Relaxed Ordering, and the function-level reset (R239). -/
def writeDevice (p v : Nat) (s : State) : State :=
  let s := modPort p (fun q => { q with relaxedEnable := bit v 4, devErrors := clearOnes q.devErrors (v / 2 ^ 16 % 16) }) s
  if bit v 15 then resetPort p 2 s else s

/-- Status bits of AER are cleared by 1s; the First Error Pointer is free again once its bit is clear. -/
def clearUncor (p : Nat) (value : U32) (s : State) : State :=
  modPort p (fun q => { q with
    aerUncor := q.aerUncor &&& ~~~value
    aerFirst := q.aerFirst.filter fun b => !value.getLsbD b }) s

/-- Key of a configuration offset among the halves of pairs: above the keys of every port's CONTROL. -/
def cfgKey (p off : Nat) : Nat := portKey (8 + p) off

/-- A staged COMPAT entry: the _LO half waits for its _HI half (R6). -/
def writeStage (p off : Nat) (value : U32) (s : State) : State :=
  let n := (off - 0x20) / 8
  let key := cfgKey p off
  if off / 4 % 2 = 0 then modHost s fun h => { h with stagedLo := tput h.stagedLo key value }
  else
    let e := tget {} (portOf s p).compatStage n
    let lo := ((tget? s.host.stagedLo (key - 4)).map (·.toNat)).getD (entryReg e 0)
    let e : CompatEntry := {
      valid := bit lo 0, store := bit lo 1, offset := value.toNat * 2 ^ 32 + lo / 0x400000 * 0x400000 }
    modHost (modPort p (fun q => { q with compatStage := tput q.compatStage n e }) s) fun h => { h with
      stagedLo := tdel h.stagedLo (key - 4) }

def writeCompat (p off : Nat) (value : U32) (s : State) : State :=
  if off = 0x0C then (if bit value.toNat 0 then commitCompat p s else s)
  else if 0x20 ≤ off ∧ off < 0x220 then writeStage p off value s
  else s

/-- A configuration write takes effect. -/
def writeCfg (p off : Nat) (value : U32) (s : State) : State :=
  let v := value.toNat
  let s := writePlain p off value s
  match off with
  | 0x04 => writeCommand p v s
  | 0x44 => writePower p v s
  | 0x50 => writeMsixControl p v s
  | 0x68 => writeDevice p v s
  | 0x88 => modPort p (fun q => { q with cplTimeoutValue := v % 16 }) s
  | 0x104 => clearUncor p value s
  | 0x108 => modPort p (fun q => { q with aerUncorMask := value &&& aerUncorBits }) s
  | 0x10C => modPort p (fun q => { q with aerSeverity := value &&& aerUncorBits }) s
  | 0x110 => modPort p (fun q => { q with aerCor := q.aerCor &&& ~~~value }) s
  | 0x114 => modPort p (fun q => { q with aerCorMask := value &&& aerCorBits }) s
  | 0x2F8 => modPtm p (fun x => { x with enabled := bit v 0 }) s
  | 0x308 => resizeStore p (bits v 13 8) s
  | _ => if 0x340 ≤ off ∧ off < 0x760 ∧ s.boot.conf.compatEnable then writeCompat p (off - 0x340) value s else s

/-- Bits of a register that act by writing 1: bytes that are not enabled hold 0 there. -/
def onesMask : Nat → U32
  | 0x04 => 0xFFFF0000
  | 0x68 => 0xFFFF8000
  | 0x104 | 0x110 => 0xFFFFFFFF
  | 0x34C => 1
  | _ => 0

/-- A configuration write with byte enables: the other bytes keep what they hold. -/
def writeCfgBytes (p off : Nat) (value : U32) (be : BitVec 4) (s : State) : State :=
  if be = 0 then s
  else
    let m := enabledBits be
    writeCfg p off ((value &&& m) ||| (word (cfgValue s p off) &&& ~~~m &&& ~~~onesMask off)) s

/-! ### Configuration requests (R224, R239) -/

/-- The port answers configuration requests (R224): not during a function-level reset (R239). -/
def cfgReady (s : State) (p : Nat) : Bool :=
  (portOf s p).flrSince.isNone
    && (decide (4 ≤ modeCode s.pkg.mode)
        || (s.pkg.mode = .boot && decide (p = bootMaster s) && (s.boot.loaderRuns || s.boot.romLoader)))

/-- The first read of a _HI register after a read of its _LO uses the capture (R6): the COMPAT tables are pairs. -/
def readCfg (p off : Nat) (s : State) : State :=
  let key := cfgKey p off
  let pair := decide (0x360 ≤ off ∧ off < 0x760) && s.boot.conf.compatEnable
  if pair && decide (off / 4 % 2 = 0) then
    emit (.completion p (cfgValue s p off)) (modHost s fun h => { h with
      capturedHi := tput h.capturedHi (key + 4) (word (cfgValue s p (off + 4))) })
  else match if pair then tget? s.host.capturedHi key else none with
  | some v => emit (.completion p v.toNat) (modHost s fun h => { h with capturedHi := tdel h.capturedHi key })
  | none => emit (.completion p (cfgValue s p off)) s

/-- R224: a configuration request reaches a port: `write` is the value of a write, none for a read. -/
def execConfigRequest (port offset : Nat) (write : Option Dw) (s : State) : Meaning := .next <|
  let off := offset / 4 * 4
  if !decide (port < tiles s) || !(portOf s port).dlActive || decide (4096 ≤ offset) then s
  else if !cfgReady s port then emit (.retry port) s
  else match write with
  | some v => writeCfgBytes port off v.value v.be s
  | none => readCfg port off s

end Sys2Proof.Machine
end

