-- ==== Sys2Proof/Machine/CommandTake.lean ====
section
/-!
DEFINITION. How packets reach the engine: taking a packet from a command queue in a scheduling slot (R32, R35, R53, R56, R313), the
packets that are refused before any opcode runs (R9, R37), and the boot mailbox (R356).
-/
namespace Sys2Proof.Machine
open Sys2Proof

/-! ### Packets (Table 3-1) -/

def packetOp (b : List Byte) : Nat := le b 0 2
def packetLen (b : List Byte) : Nat := le b 16 2

/-- The command in a packet; parameters that the bytes do not reach are padding zeros. -/
def parsePacket (port queue : Nat) (b : List Byte) : Cmd where
  port := port
  queue := queue
  flags := BitVec.ofNat 16 (le b 2 2)
  seq := BitVec.ofNat 32 (le b 4 4)
  target := BitVec.ofNat 32 (le b 8 4)
  expectGen := BitVec.ofNat 32 (le b 12 4)
  rsv18 := BitVec.ofNat 16 (le b 18 2)
  rsv20 := BitVec.ofNat 32 (le b 20 4)
  cookie := BitVec.ofNat 32 (le b 24 4)
  rsv28 := BitVec.ofNat 32 (le b 28 4)
  params := ((b.drop 32).take (packetLen b)) ++ zeros (packetLen b - (b.drop 32).length)

/-! ### Refusals before an opcode runs -/

/-- A packet with an undefined opcode: the checks of Table 3-7 up to step 3. -/
def undefinedReply (op : Nat) (c : Cmd) (s : State) : State :=
  if c.params.length > 4096 then tooLong op c s
  else match headerBad c with
  | some off => answer op c { status := .eParam, detail := off } s
  | none => answer op c { status := .eOpcode } s

/-- R9: a packet with an undefined opcode. -/
def execUndefinedOpcode (op : Nat) (c : Cmd) (s : State) : Meaning := .next <|
  if commandsRun s && (opOf op).isNone then undefinedReply op c s else s

/-- R37: a packet that declares `len` parameter bytes. -/
def execCommandTooLong (op len : Nat) (c : Cmd) (s : State) : Meaning := .next <|
  if commandsRun s && decide (4096 < len) then tooLong op c s else s

/-- Runs the command of a packet, whatever its opcode. -/
def runPacket (op len : Nat) (c : Cmd) (img : Image) (conf : List Byte) (programmed : Bool) (s : State) : State :=
  if 4096 < len then tooLong op c s
  else match findOp img conf programmed op with
  | some o => runOp o c s
  | none => undefinedReply op c s

/-! ### Taking a packet -/

/-- Slots of a reply queue held for commands taken from its command queue and not answered (R35). -/
def heldRoom (s : State) (p n : Nat) : Nat :=
  ((s.eng.waiting.filter fun w => w.alive && decide (w.cmd.port = p) && decide (w.cmd.queue = n)).map (·.room)).foldl (· + ·) 0

/-- Slots of replies that wait to be written. -/
def dueRoom (v : Queue) : Nat := (v.heldReplies.map fun x => slotsFor x.1.result.length).foldl (· + ·) 0

/-- Free slots of a reply queue as the engine counts them (R35). -/
def freeSlots (s : State) (p n : Nat) : Nat :=
  match queue? s (replyQueue p n) with
  | some v => v.size - ((v.dev - v.host).toNat + dueRoom v + heldRoom s p n)
  | none => 0

/-- Every command taken earlier from a port has replied (FLAGS.BARRIER); those from before a reset of the port do not count. -/
def allReplied (s : State) (p : Nat) : Bool :=
  s.eng.waiting.all (fun w => !w.alive || decide (w.cmd.port ≠ p)) && s.eng.deferred.all fun x => decide (x.1.port ≠ p)

/-- Slots of the command queue that the packet takes in the ring; a packet that is too long needs only its first. -/
def packetSlots (b : List Byte) : Nat := if 4096 < packetLen b then 1 else slotsFor (packetLen b)

/-- The engine takes the packet (R32, R35, R240, R313): its slots are posted, its reply room is free, its barrier is met. -/
def mayTake (s : State) (p n : Nat) (v : Queue) (b : List Byte) : Bool :=
  commandsRun s && connected s p && v.qtype = .command && decide (packetSlots b ≤ (v.host - v.dev).toNat)
    && decide (slotsFor (((opOf (packetOp b)).map (·.room)).getD 0) ≤ freeSlots s p n)
    && (!bit (le b 2 2) 3 || allReplied s p) && !journalFull s

/-- Command queue number k of a connected port holds posted slots that no slot has taken. -/
def posted (s : State) (k : Nat) : Bool :=
  connected s (k / 8) && (queue? s (cmdQueue (k / 8) (k % 8))).any fun v => v.qtype = .command && decide (v.host ≠ v.dev)

/-- Queues that the slot under way has still to visit. -/
def slotOwes (s : State) : List Nat :=
  match s.eng.slotAt with
  | some v => v.due.filter fun j => decide (v.last < j) && posted s j
  | none => []

/-- The slot under way, when it may still visit queue k: slots visit in ascending order. A slot that owes no visit ends with its clock. -/
def sameSlot (k : Nat) (s : State) : Option SlotVisit :=
  s.eng.slotAt.filter fun v => decide (v.last < k) && (decide (v.at_ = s.clock) || !(slotOwes s).isEmpty)

/-- The slot has visited every lower queue with posted slots; a new slot begins when the one under way owes no visit (R53). -/
def slotReaches (k : Nat) (s : State) : Bool :=
  match sameSlot k s with
  | some v => (List.range k).all fun j => decide (j ≤ v.last) || !posted s j
  | none => (slotOwes s).isEmpty && (List.range k).all fun j => !posted s j

/-- The slot visits a queue; it is counted when it takes its first packet (CE_SLOT_COUNT). -/
def visitQueue (k : Nat) (taken : Bool) (s : State) : State :=
  let slot := (sameSlot k s).getD { at_ := s.clock, last := k, due := (List.range 64).filter fun j => decide (k < j) && posted s j }
  modEng s fun e => { e with
    slotCount := if taken && !slot.counted then e.slotCount + 1 else e.slotCount
    slotAt := some { slot with at_ := s.clock, last := k, counted := slot.counted || taken } }

/-- R53: a scheduling slot visits command queue `queue` of a port, whose bytes at the head are `packet`, once it has visited the
lower queues with posted slots, and the engine takes the packet when it is ready; an image or boot configuration that the command
makes it read, and whether a fuse or a self-test passes, come with it. -/
def execCommandTake (port queue : Nat) (packet : List Byte) (img : Image) (conf : List Byte) (programmed : Bool) (s : State) : Meaning :=
  .next <|
    if 7 < queue || !commandsRun s || !slotReaches (port * 8 + queue) s then s
    else match queue? s (cmdQueue port queue) with
    | none => s
    | some v =>
      if mayTake s port queue v packet then
        let c := parsePacket port queue packet
        let len := packetLen packet
        let s := journalOne { op := packetOp packet, cmd := c, count := v.dev + BitVec.ofNat 32 (packetSlots packet) }
          (visitQueue (port * 8 + queue) true s)
        if 4096 < len then tooLong (packetOp packet) c s
        else
          runPacket (packetOp packet) len c img conf programmed
            (putQueue (cmdQueue port queue) { v with dev := v.dev + BitVec.ofNat 32 (slotsFor len) } s)
      else visitQueue (port * 8 + queue) false s

/-! ### The boot mailbox (R356) -/

/-- R356: a write of GO in the mailbox of a CE_BOOT block; `packet` is what the boot loader reads at the address. -/
def execMailboxGo (port block : Nat) (packet : List Byte) (img : Image) (conf : List Byte) (s : State) : Meaning := .next <|
  if !decide (port < tiles s) then s
  else if !memoryServed (portOf s port) then refuseMemory port true s
  else if port ≠ block then ignoreWrite port s
  else match goRefusal s port with
  | some code => refuseGo port code s
  | none =>
    let s := { s with boot := { s.boot with mailbox := tmod {} s.boot.mailbox port fun b => { b with state := 1, code := .ok } } }
    runPacket (packetOp packet) (packetLen packet) (parsePacket port 8 packet) img conf true s

end Sys2Proof.Machine
end

