-- ==== Sys2Proof/Machine/Supply.lean ====
section
/-!
DEFINITION. Supplies, the reset ball and the TAP (R18, R348, R349, R364 to R366, R372).
-/
namespace Sys2Proof.Machine
open Sys2Proof

/-- The calendar and the Held fields are lost exactly when VDD_IO is out of range and VBAT is below 2.5 V together (R366). -/
def islandPower (s : State) : State :=
  if s.pkg.vddIo || s.pkg.vbat then s
  else { s with cal := {}, pkg := { s.pkg with cause := 0, causePort := 0 } }

/-- Modes of a package whose main supplies are valid: RESET to TEST. -/
def powered (s : State) : Bool := decide (2 ≤ modeCode s.pkg.mode)

/-- The main supplies are lost: BACKUP while VBAT holds, OFF otherwise (Table 2-2). -/
def powerLost (s : State) : State :=
  let m : Mode := if s.pkg.vbat then .backup else .off
  if powered s then resetState m s.pkg.cause s.pkg.causePort s else modPkg s fun p => { p with mode := m, target := m }

/-- R18: VBAT rises above 2.5 V. -/
def execVbatRise (s : State) : Meaning := .next <|
  let s := modPkg s fun p => { p with vbat := true }
  if s.pkg.mode = .off then modPkg s fun p => { p with mode := .backup, target := .backup } else s

/-- Table 2-2, R366: VBAT falls below 2.5 V: BACKUP passes to OFF; the island's contents go with it unless VDD_IO holds them. -/
def execVbatFall (s : State) : Meaning := .next <|
  islandPower (if s.pkg.mode = .backup then modPkg s fun p => { p with vbat := false, mode := .off, target := .off }
    else modPkg s fun p => { p with vbat := false })

/-- R18: the main supplies come within specification. -/
def execMainSuppliesValid (s : State) : Meaning := .next <|
  let s := modPkg s fun p => { p with mainOk := true, vddIo := true }
  if powered s then s
  else
    let s := modPkg s fun p => { p with needsLow := p.resetReleased }
    resetState .reset 5 0 { s with boot := { s.boot with tap := .idcode, boundary := [], tapDrives := false } }

/-- R18: a main supply other than VDD_IO leaves its specification. -/
def execMainSupplyLoss (s : State) : Meaning := .next <|
  if s.pkg.mainOk then powerLost (modPkg s fun p => { p with mainOk := false }) else s

/-- R366: VDD_IO leaves its range. -/
def execVddIoLoss (s : State) : Meaning := .next <|
  islandPower (powerLost (modPkg s fun p => { p with mainOk := false, vddIo := false }))

/-- R348: RESET_N falls. R365 lets a pulse shorter than 10 µs be ignored: the model never ignores one (log entry 65). -/
def execResetNAssert (s : State) : Meaning := .next <|
  let s := modPkg s fun p => { p with resetReleased := false, lowSince := if p.resetReleased then some s.clock else p.lowSince }
  if powered s then resetState .reset 3 0 s else s

/-- A new instruction takes the TAP: what drove the balls no longer does (R372). -/
def setTap (r : TapReg) (s : State) : State :=
  let s := if s.boot.tapDrives then emit .boundaryReleased s else s
  { s with boot := { s.boot with tap := r, tapDrives := false } }

/-- RESET_N has been low for 10 µs, or need not have been (R365). -/
def lowLongEnough (s : State) : Bool :=
  !s.pkg.needsLow || (s.pkg.lowSince.map fun t => decide (t + 10 * us ≤ s.clock)).getD false

/-- R349, R365: RESET_N rises; BOOT_SRC and BOOT_PORT are its straps. -/
def execResetNRelease (bootSrc : Bool) (bootPort : Nat) (s : State) : Meaning := .next <|
  if s.pkg.resetReleased then s
  else
    let leaves := lowLongEnough s
    let s := modPkg s fun p => { p with resetReleased := true, needsLow := !leaves }
    let s := if s.boot.tap = .other then setTap .bypass s else s
    if s.pkg.mode = .reset ∧ s.pkg.mainOk ∧ leaves then
      enterBoot { s with boot := { s.boot with bootSrc := bootSrc, bootPort := bootPort % 8 } }
    else s

/-- IDCODE of the part, stepping B0 (R372). -/
def idcode (s : State) : Nat :=
  match s.part with
  | .fv216 => 0x102165E7
  | .fv432 => 0x104325E7
  | .fv864 => 0x108645E7

/-- R372: a TAP instruction; while RESET_N is high, all but three act as BYPASS. The cells of the boundary register are the row's: the manual
does not list them (log entry 69). -/
def execTapInstruction (instr : TapInstr) (s : State) : Meaning := .next <|
  match instr with
  | .bypass => setTap .bypass s
  | .idcode => emit (.tdo (idcode s)) (setTap .idcode s)
  | .samplePreload sample preload =>
    let s := setTap .samplePreload s
    emit (.boundaryScan sample) { s with boot := { s.boot with boundary := preload } }
  | .other drives =>
    if s.pkg.resetReleased then setTap .bypass s
    else
      let s := setTap .other s
      if drives then emit (.boundaryDrives s.boot.boundary) { s with boot := { s.boot with tapDrives := true } } else s
  | .reset => setTap .idcode s

end Sys2Proof.Machine
end

