-- ==== Sys2Proof/Machine/Transmit.lean ====
section
/-!
DEFINITION. Transmit arbitration on a port (Table 4-9), one whole frame at a time, and the producers whose frames wait for it. Frames
that answer a received frame leave with it.
-/
namespace Sys2Proof.Machine
open Sys2Proof

/-- An action command of a port waits: the send instant of an entry of the port has come (R103). -/
def actionDue (s : State) (l : Nat) : Bool :=
  s.time.scheds.any fun (k, o) =>
    let a := tget {} s.st.actions (k / 8 * 16 + o.index)
    o.kind == .action && o.state != 0 && serving s (k / 8) && a.valid && a.lane == l
      && ((nextSend o).map fun due => decide (due ≤ s.time.now + leadOf s k o)).getD false

/-- A resend request of a port waits (R94). -/
def resendDue (s : State) (l : Nat) : Bool :=
  isUp s l && s.st.channels.any fun (g, c) =>
    c.live && c.active.layout.lane == l && caughtUp s g s.clock && c.blocks.any fun b => b.gaps.any fun (_, x) =>
      (dueRequest s true x || dueRequest s false x) && decide (outstandingBut c x.run < 256)

/-- A PTP message of a port waits for its interval no more (R251). A Delay_Req has no moment of its own. -/
def ptpDue (s : State) (l ty : Nat) : Bool :=
  let p := ptpPort s l
  p.enabled && firmwareRuns s && isUp s l && mayTransmit p ty && intervalPassed s p ty

/-- A frame of a priority of Table 4-9 waits on a port. -/
def frameDue (s : State) (l : Nat) : Nat → Bool
  | 1 => ptpDue s l 0 || ptpDue s l 2
  | 2 => offerDue s l || erDue s l .offered 10 (10 * ms) || erDue s l .switching 3 (100 * us) || erDue s l .confirming 10 (10 * ms)
  | 4 => actionDue s l
  | 5 => resendDue s l || ptpDue s l 11
  | _ => false

/-- A producer of a priority lets another go first. -/
def yields (s : State) (l priority : Nat) : Bool := (List.range priority).any (frameDue s l)

/-- R75, R211: the next frame of a port's management transmit queue, as host memory holds it, is sent or refused, once no producer of Table
4-9 goes before it. The model's own
choice: the limit of 9,596 bytes is tested on the frame as written, before a tag is inserted (log entry 79). -/
def execMgmtTxFrame (lane : Nat) (bytes : List Byte) (s : State) : Meaning := .next <|
  let x := laneOf s lane
  let q := queueOfHandle x.txq
  match queue? s q with
  | none => s
  | some v =>
    if !queueLive s x.txq .management || held s q || !isUp s lane || yields s lane 6 then s
    else match v.ready with
    | [] => s
    | d :: rest =>
      let bad := decide (d.len < 14) || decide (9596 < d.len)
      let b := tagFrame x ((bytes ++ zeros d.len).take d.len)
      let s := putQueue q { v with ready := rest, inUse := v.inUse + 1 } s
      let s := if bad then countLane lane (fun c => { c with txDropped := c.txDropped + 1 }) s
        else
          let s := sendFrame lane b s
          if s.time.clock = .host then stampTx lane b s else s
      modMv s fun m => { m with mgmt := m.mgmt ++
        [{ queue := q, desc := d, result := if bad then 0 else d.len, status := if bad then .eParam else .ok }] }

/-- 100 ms UP at the standard rate without an uncorrectable codeword: OFFER with a new NONCE (log entry 6). -/
def execErStabilityExpiry (lane : Nat) (s : State) : Meaning := .next <|
  if offerDue s lane && !yields s lane 2 then
    erFirst lane erOffer 0 (modEr lane (fun e => { e with state := .offered, nonce := Config.freeNonce s.free }) (useFree s))
  else s

/-- R66: a repeat of the OFFER is due. -/
def execErOfferRepeat (lane : Nat) (s : State) : Meaning := .next (if yields s lane 2 then s else erRepeat lane .offered erOffer 0 10 (10 * ms) s)

/-- R66: a repeat of the SWITCH is due. -/
def execErSwitchRepeat (lane : Nat) (s : State) : Meaning := .next (if yields s lane 2 then s else erRepeat lane .switching erSwitch 1000 3 (100 * us) s)

/-- R66: a repeat of the CONFIRM is due. -/
def execErConfirmRepeat (lane : Nat) (s : State) : Meaning := .next (if yields s lane 2 then s else erRepeat lane .confirming erConfirm 0 10 (10 * ms) s)

/-- R94: HOLDOFF_US after its detection, each gap that is still missing is requested. -/
def execResendRequest (channel : Nat) (s : State) : Meaning := .next <|
  if caughtUp s channel s.clock && !yields s (channelOf s channel).active.layout.lane 5 then (channelOf s channel).blocks.foldl (requestBlock channel true) s else s

/-- R94: INTERVAL_US after a request, positions that are still missing are requested again. -/
def execResendRepeat (channel : Nat) (s : State) : Meaning := .next <|
  if caughtUp s channel s.clock && !yields s (channelOf s channel).active.layout.lane 5 then (channelOf s channel).blocks.foldl (requestBlock channel false) s else s

/-- The command of an output for an action time is sent. -/
def sendDone (o : Sched) (due : Nat) : Sched := match o.lateSends with
  | [] => { o with armedTo := some due }
  | _ :: rest => { o with lateSends := rest }

/-- R103: the send instant A − LEAD_NS of the next pulse of an output that targets an action entry has come. -/
def execActionSend (output : Nat) (s : State) : Meaning := .next <|
  let o := schedOf s output
  match nextSend o with
  | none => s
  | some due =>
    if o.kind ≠ .action || o.state = 0 || !serving s (output / 8) || decide (s.time.now + leadOf s output o < due)
        || yields s (tget {} s.st.actions (output / 8 * 16 + o.index)).lane 4 then s
    else sendAction (output / 8) o.index due (putSched output (sendDone o due) s)

/-- R251, R253: a PTP interval of a port expires and the firmware sends its message: Sync with its Follow_Up, Delay_Req, Pdelay_Req or
Announce. -/
def execPtpMessageTimer (lane msgType : Nat) (origin : List Byte) (s : State) : Meaning := .next <|
  let p := ptpPort s lane
  if p.enabled && firmwareRuns s && isUp s lane && mayTransmit p msgType && intervalPassed s p msgType
      && !yields s lane (if msgType = 11 then 5 else 1) then
    let seq := tget 0 p.seqs msgType
    let t := txStamp s lane
    let s := modPtp lane (fun p => { p with
      seqs := tput p.seqs msgType ((seq + 1) % 65536), sentAt := tput p.sentAt msgType s.clock }) s
    match msgType with
    | 0 => sendPtp lane 8 0 seq (timeFrac t) (ptpStamp t) (sendPtp lane 0 twoStep seq 0 (originStamp origin) s)
    | 11 => sendPtp lane 11 (announceFlags s) seq 0 (announceBody origin s) s
    | _ =>
      let s := modPtp lane (fun p => { p with request := some (seq, t), respHeld := none }) s
      sendPtp lane msgType 0 seq (-(p.asymQ8 * 256)) (originStamp origin ++ if msgType = 2 then zeros 10 else []) s
  else s

end Sys2Proof.Machine
end

