-- ==== Sys2Proof/Machine/Dispatch.lean ====
section
/-!
DEFINITION. What each command does: one arm for each row of spec/opcode_table.json.
-/
namespace Sys2Proof.Machine
open Sys2Proof

def exec (i : Instr) (s : State) : Host.Outcome State Fault Refusal :=
  match i with
  | .registerWrite port offset value => Sys2Proof.Machine.execRegisterWrite port offset value s
  | .loReadCapture port offset => Sys2Proof.Machine.execLoReadCapture port offset s
  | .hiWriteCommit port offset value => Sys2Proof.Machine.execHiWriteCommit port offset value s
  | .testFieldWrite port offset value => Sys2Proof.Machine.execTestFieldWrite port offset value s
  | .controlMalformedAccess port read => Sys2Proof.Machine.execControlMalformedAccess port read s
  | .vbatRise => Sys2Proof.Machine.execVbatRise s
  | .vbatFall => Sys2Proof.Machine.execVbatFall s
  | .mainSuppliesValid => Sys2Proof.Machine.execMainSuppliesValid s
  | .mainSupplyLoss => Sys2Proof.Machine.execMainSupplyLoss s
  | .vddIoLoss => Sys2Proof.Machine.execVddIoLoss s
  | .resetNAssert => Sys2Proof.Machine.execResetNAssert s
  | .resetNRelease bootSrc bootPort => Sys2Proof.Machine.execResetNRelease bootSrc bootPort s
  | .bootLoaderLoad copy img => Sys2Proof.Machine.execBootLoaderLoad copy img s
  | .bootConfigLoad copy0 copy1 => Sys2Proof.Machine.execBootConfigLoad copy0 copy1 s
  | .microcodeLoad slot img => Sys2Proof.Machine.execMicrocodeLoad slot img s
  | .alfelLoad slot img => Sys2Proof.Machine.execAlfelLoad slot img s
  | .goldenLoad outer micro alfel => Sys2Proof.Machine.execGoldenLoad outer micro alfel s
  | .tileTrained tile => Sys2Proof.Machine.execTileTrained tile s
  | .tileTrainTimeout tile => Sys2Proof.Machine.execTileTrainTimeout tile s
  | .mailboxGo port block packet img conf => Sys2Proof.Machine.execMailboxGo port block packet img conf s
  | .modeSet c => Sys2Proof.Machine.execModeSet c s
  | .modeQuery c => Sys2Proof.Machine.execModeQuery c s
  | .modeCommit => Sys2Proof.Machine.execModeCommit s
  | .modeDrainComplete => Sys2Proof.Machine.execModeDrainComplete s
  | .modeDrainLimit => Sys2Proof.Machine.execModeDrainLimit s
  | .tileQuiesce c => Sys2Proof.Machine.execTileQuiesce c s
  | .tileQuiesceCommit tile => Sys2Proof.Machine.execTileQuiesceCommit tile s
  | .tileDrainComplete tile => Sys2Proof.Machine.execTileDrainComplete tile s
  | .tileDrainLimit tile => Sys2Proof.Machine.execTileDrainLimit tile s
  | .tileResume c => Sys2Proof.Machine.execTileResume c s
  | .tilePowerDown c => Sys2Proof.Machine.execTilePowerDown c s
  | .tilePowerDownDone tile => Sys2Proof.Machine.execTilePowerDownDone tile s
  | .tileRejoin c => Sys2Proof.Machine.execTileRejoin c s
  | .tileRejoinPrepared tile img powerUp dram => Sys2Proof.Machine.execTileRejoinPrepared tile img powerUp dram s
  | .tileRejoinLocked tile links lock => Sys2Proof.Machine.execTileRejoinLocked tile links lock s
  | .tileQuery c => Sys2Proof.Machine.execTileQuery c s
  | .hwDetectorOccurrence tile det unit real => Sys2Proof.Machine.execHwDetectorOccurrence tile det unit real s
  | .fabricTransferRetry tile unit passes => Sys2Proof.Machine.execFabricTransferRetry tile unit passes s
  | .fabricLinkDown tile unit => Sys2Proof.Machine.execFabricLinkDown tile unit s
  | .fabricLinkRestored link => Sys2Proof.Machine.execFabricLinkRestored link s
  | .codecBacklogHigh tile engine => Sys2Proof.Machine.execCodecBacklogHigh tile engine s
  | .codecBacklogLow tile engine => Sys2Proof.Machine.execCodecBacklogLow tile engine s
  | .commandTake port queue packet img conf programmed => Sys2Proof.Machine.execCommandTake port queue packet img conf programmed s
  | .commandTooLong op len c => Sys2Proof.Machine.execCommandTooLong op len c s
  | .undefinedOpcode op c => Sys2Proof.Machine.execUndefinedOpcode op c s
  | .cmdQueueDoorbell port queue count => Sys2Proof.Machine.execCmdQueueDoorbell port queue count s
  | .replyQueueDoorbell port queue count => Sys2Proof.Machine.execReplyQueueDoorbell port queue count s
  | .chainQueueDoorbell port queue count => Sys2Proof.Machine.execChainQueueDoorbell port queue count s
  | .cplQueueDoorbell port queue count => Sys2Proof.Machine.execCplQueueDoorbell port queue count s
  | .dbMaskWrite port queue mask => Sys2Proof.Machine.execDbMaskWrite port queue mask s
  | .bootstrapOpen port block => Sys2Proof.Machine.execBootstrapOpen port block s
  | .bootstrapOpened port => Sys2Proof.Machine.execBootstrapOpened port s
  | .nop c => Sys2Proof.Machine.execNop c s
  | .pkgInfo c => Sys2Proof.Machine.execPkgInfo c s
  | .masterSet c => Sys2Proof.Machine.execMasterSet c s
  | .masterClaim c => Sys2Proof.Machine.execMasterClaim c s
  | .pkgReset c => Sys2Proof.Machine.execPkgReset c s
  | .handleQuery c => Sys2Proof.Machine.execHandleQuery c s
  | .handleDestroy c => Sys2Proof.Machine.execHandleDestroy c s
  | .adopt c => Sys2Proof.Machine.execAdopt c s
  | .orphanGraceSet c => Sys2Proof.Machine.execOrphanGraceSet c s
  | .handleList c => Sys2Proof.Machine.execHandleList c s
  | .orphanDeadline => Sys2Proof.Machine.execOrphanDeadline s
  | .masterRoleVacant => Sys2Proof.Machine.execMasterRoleVacant s
  | .lanePortSet c => Sys2Proof.Machine.execLanePortSet c s
  | .lanePortQuery c => Sys2Proof.Machine.execLanePortQuery c s
  | .laneEnable c => Sys2Proof.Machine.execLaneEnable c s
  | .laneErOffer c => Sys2Proof.Machine.execLaneErOffer c s
  | .laneMgmtBind c => Sys2Proof.Machine.execLaneMgmtBind c s
  | .laneCountersClear c => Sys2Proof.Machine.execLaneCountersClear c s
  | .laneEyeScan c => Sys2Proof.Machine.execLaneEyeScan c s
  | .eyeScanComplete lane cells => Sys2Proof.Machine.execEyeScanComplete lane cells s
  | .anComplete lane => Sys2Proof.Machine.execAnComplete lane s
  | .anTimeout lane => Sys2Proof.Machine.execAnTimeout lane s
  | .trainingComplete lane => Sys2Proof.Machine.execTrainingComplete lane s
  | .trainingTimeout lane => Sys2Proof.Machine.execTrainingTimeout lane s
  | .linkUp lane => Sys2Proof.Machine.execLinkUp lane s
  | .lockTimeout lane => Sys2Proof.Machine.execLockTimeout lane s
  | .linkLoss lane partialFrame => Sys2Proof.Machine.execLinkLoss lane partialFrame s
  | .retryWaitExpiry lane => Sys2Proof.Machine.execRetryWaitExpiry lane s
  | .remoteFaultChange lane on => Sys2Proof.Machine.execRemoteFaultChange lane on s
  | .rxFrame lane bytes => Sys2Proof.Machine.execRxFrame lane bytes s
  | .mgmtTxFrame lane bytes => Sys2Proof.Machine.execMgmtTxFrame lane bytes s
  | .mgmtWriteback => Sys2Proof.Machine.execMgmtWriteback s
  | .erFrameReceive lane => Sys2Proof.Machine.execErFrameReceive lane s
  | .erStabilityExpiry lane => Sys2Proof.Machine.execErStabilityExpiry lane s
  | .erOfferRepeat lane => Sys2Proof.Machine.execErOfferRepeat lane s
  | .erNoAnswer lane => Sys2Proof.Machine.execErNoAnswer lane s
  | .erSwitchRepeat lane => Sys2Proof.Machine.execErSwitchRepeat lane s
  | .erSwitchDelayExpiry lane => Sys2Proof.Machine.execErSwitchDelayExpiry lane s
  | .erSwitchTimeout lane => Sys2Proof.Machine.execErSwitchTimeout lane s
  | .erConfirmRepeat lane => Sys2Proof.Machine.execErConfirmRepeat lane s
  | .erConfirmTimeout lane => Sys2Proof.Machine.execErConfirmTimeout lane s
  | .erRetrainExhausted lane => Sys2Proof.Machine.execErRetrainExhausted lane s
  | .streamPortSet c => Sys2Proof.Machine.execStreamPortSet c s
  | .streamSourceSet c => Sys2Proof.Machine.execStreamSourceSet c s
  | .streamCreate c => Sys2Proof.Machine.execStreamCreate c s
  | .streamConfig c => Sys2Proof.Machine.execStreamConfig c s
  | .streamDestroy c => Sys2Proof.Machine.execStreamDestroy c s
  | .streamQuery c => Sys2Proof.Machine.execStreamQuery c s
  | .actionSet c => Sys2Proof.Machine.execActionSet c s
  | .actionQuery c => Sys2Proof.Machine.execActionQuery c s
  | .gvspPacket lane => Sys2Proof.Machine.execGvspPacket lane s
  | .resendRequest channel => Sys2Proof.Machine.execResendRequest channel s
  | .resendRepeat channel => Sys2Proof.Machine.execResendRepeat channel s
  | .giveUpTimer channel => Sys2Proof.Machine.execGiveUpTimer channel s
  | .quietTimeout channel => Sys2Proof.Machine.execQuietTimeout channel s
  | .actionSend output => Sys2Proof.Machine.execActionSend output s
  | .frameLeader channel => Sys2Proof.Machine.execFrameLeader channel s
  | .positionAtMidtime channel => Sys2Proof.Machine.execPositionAtMidtime channel s
  | .positionHistoryRecord mi => Sys2Proof.Machine.execPositionHistoryRecord mi s
  | .tagComplete channel => Sys2Proof.Machine.execTagComplete channel s
  | .configCommitApplied channel => Sys2Proof.Machine.execConfigCommitApplied channel s
  | .timeAnchorDue queue => Sys2Proof.Machine.execTimeAnchorDue queue s
  | .faConfig c => Sys2Proof.Machine.execFaConfig c s
  | .faQuery c => Sys2Proof.Machine.execFaQuery c s
  | .faStageBegin c => Sys2Proof.Machine.execFaStageBegin c s
  | .faStageCommit c => Sys2Proof.Machine.execFaStageCommit c s
  | .stageCommitAt channel => Sys2Proof.Machine.execStageCommitAt channel s
  | .faStageAbort c => Sys2Proof.Machine.execFaStageAbort c s
  | .anchorSet c => Sys2Proof.Machine.execAnchorSet c s
  | .cdConfig c => Sys2Proof.Machine.execCdConfig c s
  | .cdQuery c => Sys2Proof.Machine.execCdQuery c s
  | .cdCalSet c => Sys2Proof.Machine.execCdCalSet c s
  | .cdCalSample c => Sys2Proof.Machine.execCdCalSample c s
  | .calSampleDone channel => Sys2Proof.Machine.execCalSampleDone channel s
  | .cdCalFit c => Sys2Proof.Machine.execCdCalFit c s
  | .cdTableRead c => Sys2Proof.Machine.execCdTableRead c s
  | .cdCheckSet c => Sys2Proof.Machine.execCdCheckSet c s
  | .cdEngineRestore c pass => Sys2Proof.Machine.execCdEngineRestore c pass s
  | .levelTableBuilt channel => Sys2Proof.Machine.execLevelTableBuilt channel s
  | .bandToCodec channel => Sys2Proof.Machine.execBandToCodec channel s
  | .sliceCoded tile engine index matches_ => Sys2Proof.Machine.execSliceCoded tile engine index matches_ s
  | .engineSuspect tile engine => Sys2Proof.Machine.execEngineSuspect tile engine s
  | .frameRecordValid channel => Sys2Proof.Machine.execFrameRecordValid channel s
  | .triggerInput channel n => Sys2Proof.Machine.execTriggerInput channel n s
  | .postWaitExpiry segment => Sys2Proof.Machine.execPostWaitExpiry segment s
  | .fsRingSet c => Sys2Proof.Machine.execFsRingSet c s
  | .fsQuery c => Sys2Proof.Machine.execFsQuery c s
  | .fsSegArm c => Sys2Proof.Machine.execFsSegArm c s
  | .fsTrigger c => Sys2Proof.Machine.execFsTrigger c s
  | .fsSegRelease c => Sys2Proof.Machine.execFsSegRelease c s
  | .fsFreezeRing c => Sys2Proof.Machine.execFsFreezeRing c s
  | .fsSegQuery c => Sys2Proof.Machine.execFsSegQuery c s
  | .fsDirRead c => Sys2Proof.Machine.execFsDirRead c s
  | .fsRead c => Sys2Proof.Machine.execFsRead c s
  | .readoutFrameDone segment => Sys2Proof.Machine.execReadoutFrameDone segment s
  | .readoutEarlyEnd segment => Sys2Proof.Machine.execReadoutEarlyEnd segment s
  | .fsReadAbort c => Sys2Proof.Machine.execFsReadAbort c s
  | .fsMap c => Sys2Proof.Machine.execFsMap c s
  | .fsUnmap c => Sys2Proof.Machine.execFsUnmap c s
  | .storeRead port offset len => Sys2Proof.Machine.execStoreRead port offset len s
  | .storeResize port code => Sys2Proof.Machine.execStoreResize port code s
  | .armInput channel n => Sys2Proof.Machine.execArmInput channel n s
  | .adRoiSet c => Sys2Proof.Machine.execAdRoiSet c s
  | .adQuery c => Sys2Proof.Machine.execAdQuery c s
  | .adRuleCreate c => Sys2Proof.Machine.execAdRuleCreate c s
  | .adRuleConfig c => Sys2Proof.Machine.execAdRuleConfig c s
  | .adRuleArm c => Sys2Proof.Machine.execAdRuleArm c s
  | .adRuleQuery c => Sys2Proof.Machine.execAdRuleQuery c s
  | .adRuleDestroy c => Sys2Proof.Machine.execAdRuleDestroy c s
  | .adRefCreate c => Sys2Proof.Machine.execAdRefCreate c s
  | .adRefCapture c => Sys2Proof.Machine.execAdRefCapture c s
  | .refCaptured reference => Sys2Proof.Machine.execRefCaptured reference s
  | .adRefDestroy c => Sys2Proof.Machine.execAdRefDestroy c s
  | .adRefQuery c => Sys2Proof.Machine.execAdRefQuery c s
  | .mvStart port chan => Sys2Proof.Machine.execMvStart port chan s
  | .mvAbortBit port chan => Sys2Proof.Machine.execMvAbortBit port chan s
  | .goInput chan n => Sys2Proof.Machine.execGoInput chan n s
  | .moverRunComplete chan source => Sys2Proof.Machine.execMoverRunComplete chan source s
  | .moverAbortDone chan bursts source => Sys2Proof.Machine.execMoverAbortDone chan bursts source s
  | .flushReadDone live chan timeout => Sys2Proof.Machine.execFlushReadDone live chan timeout s
  | .descriptorRead queue bytes => Sys2Proof.Machine.execDescriptorRead queue bytes s
  | .frameDeliveryStart channel => Sys2Proof.Machine.execFrameDeliveryStart channel s
  | .frameDeliveryComplete channel => Sys2Proof.Machine.execFrameDeliveryComplete channel s
  | .pendingEntryWrite queue => Sys2Proof.Machine.execPendingEntryWrite queue s
  | .coalesceTimer queue => Sys2Proof.Machine.execCoalesceTimer queue s
  | .queueCreate c => Sys2Proof.Machine.execQueueCreate c s
  | .queueConfig c => Sys2Proof.Machine.execQueueConfig c s
  | .queueDestroy c => Sys2Proof.Machine.execQueueDestroy c s
  | .queueQuery c => Sys2Proof.Machine.execQueueQuery c s
  | .queueRestart c => Sys2Proof.Machine.execQueueRestart c s
  | .mvReserve c => Sys2Proof.Machine.execMvReserve c s
  | .mvRelease c => Sys2Proof.Machine.execMvRelease c s
  | .mvQuery c => Sys2Proof.Machine.execMvQuery c s
  | .mvAbort c => Sys2Proof.Machine.execMvAbort c s
  | .compatAccess port offset tlp => Sys2Proof.Machine.execCompatAccess port offset tlp s
  | .compatCommit port => Sys2Proof.Machine.execCompatCommit port s
  | .msixUnmask port vector => Sys2Proof.Machine.execMsixUnmask port vector s
  | .intxStatusClear port reg value => Sys2Proof.Machine.execIntxStatusClear port reg value s
  | .completionTimeout port n => Sys2Proof.Machine.execCompletionTimeout port n s
  | .lateCompletion port => Sys2Proof.Machine.execLateCompletion port s
  | .pcieRxError port error header => Sys2Proof.Machine.execPcieRxError port error header s
  | .ptmPeriod port => Sys2Proof.Machine.execPtmPeriod port s
  | .ptmNow port n => Sys2Proof.Machine.execPtmNow port n s
  | .ptmDialogueDone port master propagation => Sys2Proof.Machine.execPtmDialogueDone port master propagation s
  | .ptmResponseTimeout port => Sys2Proof.Machine.execPtmResponseTimeout port s
  | .ptmStatusRead port tile => Sys2Proof.Machine.execPtmStatusRead port tile s
  | .perst port => Sys2Proof.Machine.execPerst port s
  | .hotReset port => Sys2Proof.Machine.execHotReset port s
  | .functionLevelReset port => Sys2Proof.Machine.execFunctionLevelReset port s
  | .flrDone port => Sys2Proof.Machine.execFlrDone port s
  | .portLinkDown port saved => Sys2Proof.Machine.execPortLinkDown port saved s
  | .portConnectedChange port => Sys2Proof.Machine.execPortConnectedChange port s
  | .holdDeadline port => Sys2Proof.Machine.execHoldDeadline port s
  | .routeMoveToward port tile => Sys2Proof.Machine.execRouteMoveToward port tile s
  | .timeQuery c => Sys2Proof.Machine.execTimeQuery c s
  | .timeSet c => Sys2Proof.Machine.execTimeSet c s
  | .timeAdjust c => Sys2Proof.Machine.execTimeAdjust c s
  | .timeServoSet c => Sys2Proof.Machine.execTimeServoSet c s
  | .timeChangeCommit => Sys2Proof.Machine.execTimeChangeCommit s
  | .ptpClockSet c => Sys2Proof.Machine.execPtpClockSet c s
  | .ptpPortSet c => Sys2Proof.Machine.execPtpPortSet c s
  | .ptpQuery c => Sys2Proof.Machine.execPtpQuery c s
  | .ptpMessageReceive lane outcome => Sys2Proof.Machine.execPtpMessageReceive lane outcome s
  | .announceReceiptTimeout lane => Sys2Proof.Machine.execAnnounceReceiptTimeout lane s
  | .ptpMessageTimer lane msgType origin => Sys2Proof.Machine.execPtpMessageTimer lane msgType origin s
  | .txtsPop port tile => Sys2Proof.Machine.execTxtsPop port tile s
  | .pkgTimeRead port calendar => Sys2Proof.Machine.execPkgTimeRead port calendar s
  | .schedCreate c => Sys2Proof.Machine.execSchedCreate c s
  | .schedDestroy c => Sys2Proof.Machine.execSchedDestroy c s
  | .schedQuery c => Sys2Proof.Machine.execSchedQuery c s
  | .schedPulseDue output => Sys2Proof.Machine.execSchedPulseDue output s
  | .schedGo output n => Sys2Proof.Machine.execSchedGo output n s
  | .calSet c => Sys2Proof.Machine.execCalSet c s
  | .calQuery c => Sys2Proof.Machine.execCalQuery c s
  | .calendarAlign => Sys2Proof.Machine.execCalendarAlign s
  | .eventIntake tile => Sys2Proof.Machine.execEventIntake tile s
  | .routeCommit route => Sys2Proof.Machine.execRouteCommit route s
  | .groupInput index n => Sys2Proof.Machine.execGroupInput index n s
  | .groupCommit => Sys2Proof.Machine.execGroupCommit s
  | .pinInputEdge pin level => Sys2Proof.Machine.execPinInputEdge pin level s
  | .pinAction pin n => Sys2Proof.Machine.execPinAction pin n s
  | .pinEdgeDue pin => Sys2Proof.Machine.execPinEdgeDue pin s
  | .pinPulseEnd pin => Sys2Proof.Machine.execPinPulseEnd pin s
  | .evRouteCreate c => Sys2Proof.Machine.execEvRouteCreate c s
  | .evRouteDestroy c => Sys2Proof.Machine.execEvRouteDestroy c s
  | .evRouteQuery c => Sys2Proof.Machine.execEvRouteQuery c s
  | .evPinSet c => Sys2Proof.Machine.execEvPinSet c s
  | .evPinQuery c => Sys2Proof.Machine.execEvPinQuery c s
  | .evGroupSet c => Sys2Proof.Machine.execEvGroupSet c s
  | .evStatus c => Sys2Proof.Machine.execEvStatus c s
  | .evPublish c => Sys2Proof.Machine.execEvPublish c s
  | .evSkewLearn c => Sys2Proof.Machine.execEvSkewLearn c s
  | .skewLearnDone pin => Sys2Proof.Machine.execSkewLearnDone pin s
  | .motionEdge mi a b => Sys2Proof.Machine.execMotionEdge mi a b s
  | .indexEdge mi level => Sys2Proof.Machine.execIndexEdge mi level s
  | .standstillExpiry mi => Sys2Proof.Machine.execStandstillExpiry mi s
  | .cmpArmInput mi n => Sys2Proof.Machine.execCmpArmInput mi n s
  | .tableStartInput mi n => Sys2Proof.Machine.execTableStartInput mi n s
  | .presetInput mi n => Sys2Proof.Machine.execPresetInput mi n s
  | .latchInput mi n => Sys2Proof.Machine.execLatchInput mi n s
  | .moPosRead port mi => Sys2Proof.Machine.execMoPosRead port mi s
  | .moConfig c => Sys2Proof.Machine.execMoConfig c s
  | .moQuery c => Sys2Proof.Machine.execMoQuery c s
  | .moPreset c => Sys2Proof.Machine.execMoPreset c s
  | .moCmpCreate c => Sys2Proof.Machine.execMoCmpCreate c s
  | .moCmpArm c => Sys2Proof.Machine.execMoCmpArm c s
  | .moCmpDisarm c => Sys2Proof.Machine.execMoCmpDisarm c s
  | .moTblLoad c => Sys2Proof.Machine.execMoTblLoad c s
  | .moTblStart c => Sys2Proof.Machine.execMoTblStart c s
  | .moTblStop c => Sys2Proof.Machine.execMoTblStop c s
  | .moCmpQuery c => Sys2Proof.Machine.execMoCmpQuery c s
  | .moCmpDestroy c => Sys2Proof.Machine.execMoCmpDestroy c s
  | .heartbeatSend => Sys2Proof.Machine.execHeartbeatSend s
  | .heartbeatLoss => Sys2Proof.Machine.execHeartbeatLoss s
  | .renew => Sys2Proof.Machine.execRenew s
  | .resign => Sys2Proof.Machine.execResign s
  | .claim => Sys2Proof.Machine.execClaim s
  | .grant engine => Sys2Proof.Machine.execGrant engine s
  | .handover => Sys2Proof.Machine.execHandover s
  | .renewalStaleStop => Sys2Proof.Machine.execRenewalStaleStop s
  | .dualWindowEnd => Sys2Proof.Machine.execDualWindowEnd s
  | .takeover => Sys2Proof.Machine.execTakeover s
  | .takeoverReplies => Sys2Proof.Machine.execTakeoverReplies s
  | .snapshotEpoch => Sys2Proof.Machine.execSnapshotEpoch s
  | .journalAckTimeout => Sys2Proof.Machine.execJournalAckTimeout s
  | .standbySelftestDone engine pass => Sys2Proof.Machine.execStandbySelftestDone engine pass s
  | .standbyReady engine => Sys2Proof.Machine.execStandbyReady engine s
  | .revertHoldExpiry => Sys2Proof.Machine.execRevertHoldExpiry s
  | .arbGntChange level => Sys2Proof.Machine.execArbGntChange level s
  | .ceBootArbWrite port value => Sys2Proof.Machine.execCeBootArbWrite port value s
  | .cePairQuery c => Sys2Proof.Machine.execCePairQuery c s
  | .cePairSet c => Sys2Proof.Machine.execCePairSet c s
  | .ceSwitchover c => Sys2Proof.Machine.execCeSwitchover c s
  | .ceStandbyRestart c img => Sys2Proof.Machine.execCeStandbyRestart c img s
  | .governorSample samples => Sys2Proof.Machine.execGovernorSample samples s
  | .criticalRepeat => Sys2Proof.Machine.execCriticalRepeat s
  | .cStarved tile => Sys2Proof.Machine.execCStarved tile s
  | .classCQuantumDone tile index => Sys2Proof.Machine.execClassCQuantumDone tile index s
  | .pgConfig c => Sys2Proof.Machine.execPgConfig c s
  | .pgQuery c => Sys2Proof.Machine.execPgQuery c s
  | .pgTileQuery c => Sys2Proof.Machine.execPgTileQuery c s
  | .pgSensorRead c => Sys2Proof.Machine.execPgSensorRead c s
  | .healthReportTimer => Sys2Proof.Machine.execHealthReportTimer s
  | .testUnlockExpiry => Sys2Proof.Machine.execTestUnlockExpiry s
  | .hmQuery c => Sys2Proof.Machine.execHmQuery c s
  | .hmThreshSet c => Sys2Proof.Machine.execHmThreshSet c s
  | .hmReportSet c => Sys2Proof.Machine.execHmReportSet c s
  | .hmTestUnlock c => Sys2Proof.Machine.execHmTestUnlock c s
  | .hmInject c => Sys2Proof.Machine.execHmInject c s
  | .fwQuery c => Sys2Proof.Machine.execFwQuery c s
  | .fwWrite c => Sys2Proof.Machine.execFwWrite c s
  | .fwWriteDone img conf programmed => Sys2Proof.Machine.execFwWriteDone img conf programmed s
  | .fwVerify c img conf => Sys2Proof.Machine.execFwVerify c img conf s
  | .fwSelect c => Sys2Proof.Machine.execFwSelect c s
  | .fwRollbackAdvance c programmed => Sys2Proof.Machine.execFwRollbackAdvance c programmed s
  | .fwPush c img conf => Sys2Proof.Machine.execFwPush c img conf s
  | .fwStart c => Sys2Proof.Machine.execFwStart c s
  | .tapInstruction instr => Sys2Proof.Machine.execTapInstruction instr s
  | .tileResumeCommit tile => Sys2Proof.Machine.execTileResumeCommit tile s
  | .snapshotEpochComplete => Sys2Proof.Machine.execSnapshotEpochComplete s
  | .timeLockRestored tile error => Sys2Proof.Machine.execTimeLockRestored tile error s
  | .portLinkUp port flit rate width => Sys2Proof.Machine.execPortLinkUp port flit rate width s
  | .configRequest port offset write => Sys2Proof.Machine.execConfigRequest port offset write s
  | .motionInputLevel mi a b index => Sys2Proof.Machine.execMotionInputLevel mi a b index s

end Sys2Proof.Machine
end

