-- ==== Sys2Proof/Safety.lean ====
section
/-!
DEFINITION. The terms that the claims about the machine are stated in: when a command has a next state, when an opcode is accepted,
how it answers, and the invariant of handles and generations.
-/
namespace Sys2Proof.Machine
open Sys2Proof

/-- The command has a next state, and it satisfies P. -/
def Runs (i : Instr) (s : State) (P : State → Prop) : Prop := ∃ t, exec i s = .next t ∧ P t

/-- The opcode and the packet of a command that a command queue carries (the opcode rows of the table); none for the other rows. -/
def opRow : Instr → Option (OpDef × Cmd)
  | .modeSet c => some (opModeSet, c)
  | .modeQuery c => some (opModeQuery, c)
  | .tileQuiesce c => some (opTileQuiesce, c)
  | .tileResume c => some (opTileResume, c)
  | .tilePowerDown c => some (opTilePowerDown, c)
  | .tileRejoin c => some (opTileRejoin, c)
  | .tileQuery c => some (opTileQuery, c)
  | .nop c => some (opNop, c)
  | .pkgInfo c => some (opPkgInfo, c)
  | .masterSet c => some (opMasterSet, c)
  | .masterClaim c => some (opMasterClaim, c)
  | .pkgReset c => some (opPkgReset, c)
  | .handleQuery c => some (opHandleQuery, c)
  | .handleDestroy c => some (opHandleDestroy, c)
  | .adopt c => some (opAdopt, c)
  | .orphanGraceSet c => some (opOrphanGraceSet, c)
  | .handleList c => some (opHandleList, c)
  | .lanePortSet c => some (opLanePortSet, c)
  | .lanePortQuery c => some (opLanePortQuery, c)
  | .laneEnable c => some (opLaneEnable, c)
  | .laneErOffer c => some (opLaneErOffer, c)
  | .laneMgmtBind c => some (opLaneMgmtBind, c)
  | .laneCountersClear c => some (opLaneCountersClear, c)
  | .laneEyeScan c => some (opLaneEyeScan, c)
  | .streamPortSet c => some (opStreamPortSet, c)
  | .streamSourceSet c => some (opStreamSourceSet, c)
  | .streamCreate c => some (opStreamCreate, c)
  | .streamConfig c => some (opStreamConfig, c)
  | .streamDestroy c => some (opStreamDestroy, c)
  | .streamQuery c => some (opStreamQuery, c)
  | .actionSet c => some (opActionSet, c)
  | .actionQuery c => some (opActionQuery, c)
  | .faConfig c => some (opFaConfig, c)
  | .faQuery c => some (opFaQuery, c)
  | .faStageBegin c => some (opFaStageBegin, c)
  | .faStageCommit c => some (opFaStageCommit, c)
  | .faStageAbort c => some (opFaStageAbort, c)
  | .anchorSet c => some (opAnchorSet, c)
  | .cdConfig c => some (opCdConfig, c)
  | .cdQuery c => some (opCdQuery, c)
  | .cdCalSet c => some (opCdCalSet, c)
  | .cdCalSample c => some (opCdCalSample, c)
  | .cdCalFit c => some (opCdCalFit, c)
  | .cdTableRead c => some (opCdTableRead, c)
  | .cdCheckSet c => some (opCdCheckSet, c)
  | .cdEngineRestore c pass => some ((opCdEngineRestore pass), c)
  | .fsRingSet c => some (opFsRingSet, c)
  | .fsQuery c => some (opFsQuery, c)
  | .fsSegArm c => some (opFsSegArm, c)
  | .fsTrigger c => some (opFsTrigger, c)
  | .fsSegRelease c => some (opFsSegRelease, c)
  | .fsFreezeRing c => some (opFsFreezeRing, c)
  | .fsSegQuery c => some (opFsSegQuery, c)
  | .fsDirRead c => some (opFsDirRead, c)
  | .fsRead c => some (opFsRead, c)
  | .fsReadAbort c => some (opFsReadAbort, c)
  | .fsMap c => some (opFsMap, c)
  | .fsUnmap c => some (opFsUnmap, c)
  | .adRoiSet c => some (opAdRoiSet, c)
  | .adQuery c => some (opAdQuery, c)
  | .adRuleCreate c => some (opAdRuleCreate, c)
  | .adRuleConfig c => some (opAdRuleConfig, c)
  | .adRuleArm c => some (opAdRuleArm, c)
  | .adRuleQuery c => some (opAdRuleQuery, c)
  | .adRuleDestroy c => some (opAdRuleDestroy, c)
  | .adRefCreate c => some (opAdRefCreate, c)
  | .adRefCapture c => some (opAdRefCapture, c)
  | .adRefDestroy c => some (opAdRefDestroy, c)
  | .adRefQuery c => some (opAdRefQuery, c)
  | .queueCreate c => some (opQueueCreate, c)
  | .queueConfig c => some (opQueueConfig, c)
  | .queueDestroy c => some (opQueueDestroy, c)
  | .queueQuery c => some (opQueueQuery, c)
  | .queueRestart c => some (opQueueRestart, c)
  | .mvReserve c => some (opMvReserve, c)
  | .mvRelease c => some (opMvRelease, c)
  | .mvQuery c => some (opMvQuery, c)
  | .mvAbort c => some (opMvAbort, c)
  | .timeQuery c => some (opTimeQuery, c)
  | .timeSet c => some (opTimeSet, c)
  | .timeAdjust c => some (opTimeAdjust, c)
  | .timeServoSet c => some (opTimeServoSet, c)
  | .ptpClockSet c => some (opPtpClockSet, c)
  | .ptpPortSet c => some (opPtpPortSet, c)
  | .ptpQuery c => some (opPtpQuery, c)
  | .schedCreate c => some (opSchedCreate, c)
  | .schedDestroy c => some (opSchedDestroy, c)
  | .schedQuery c => some (opSchedQuery, c)
  | .calSet c => some (opCalSet, c)
  | .calQuery c => some (opCalQuery, c)
  | .evRouteCreate c => some (opEvRouteCreate, c)
  | .evRouteDestroy c => some (opEvRouteDestroy, c)
  | .evRouteQuery c => some (opEvRouteQuery, c)
  | .evPinSet c => some (opEvPinSet, c)
  | .evPinQuery c => some (opEvPinQuery, c)
  | .evGroupSet c => some (opEvGroupSet, c)
  | .evStatus c => some (opEvStatus, c)
  | .evPublish c => some (opEvPublish, c)
  | .evSkewLearn c => some (opEvSkewLearn, c)
  | .moConfig c => some (opMoConfig, c)
  | .moQuery c => some (opMoQuery, c)
  | .moPreset c => some (opMoPreset, c)
  | .moCmpCreate c => some (opMoCmpCreate, c)
  | .moCmpArm c => some (opMoCmpArm, c)
  | .moCmpDisarm c => some (opMoCmpDisarm, c)
  | .moTblLoad c => some (opMoTblLoad, c)
  | .moTblStart c => some (opMoTblStart, c)
  | .moTblStop c => some (opMoTblStop, c)
  | .moCmpQuery c => some (opMoCmpQuery, c)
  | .moCmpDestroy c => some (opMoCmpDestroy, c)
  | .cePairQuery c => some (opCePairQuery, c)
  | .cePairSet c => some (opCePairSet, c)
  | .ceSwitchover c => some (opCeSwitchover, c)
  | .ceStandbyRestart c img => some ((opCeStandbyRestart img), c)
  | .pgConfig c => some (opPgConfig, c)
  | .pgQuery c => some (opPgQuery, c)
  | .pgTileQuery c => some (opPgTileQuery, c)
  | .pgSensorRead c => some (opPgSensorRead, c)
  | .hmQuery c => some (opHmQuery, c)
  | .hmThreshSet c => some (opHmThreshSet, c)
  | .hmReportSet c => some (opHmReportSet, c)
  | .hmTestUnlock c => some (opHmTestUnlock, c)
  | .hmInject c => some (opHmInject, c)
  | .fwQuery c => some (opFwQuery, c)
  | .fwWrite c => some (opFwWrite, c)
  | .fwVerify c img conf => some ((opFwVerify img conf), c)
  | .fwSelect c => some (opFwSelect, c)
  | .fwRollbackAdvance c programmed => some ((opFwRollbackAdvance programmed), c)
  | .fwPush c img conf => some ((opFwPush img conf), c)
  | .fwStart c => some (opFwStart, c)
  | _ => none

/-- A packet that passes: an engine or the boot loader serves, PARAM_LEN is at most 4,096 (R37), no event action that takes effect at
the same edge waits for the command's register (R55), every check of Table 3-7 passes (R42), and no parity occurrence is due on the
command path (Table 17-2). -/
def Accepted (o : OpDef) (c : Cmd) (s : State) : Prop :=
  commandsRun s = true ∧ c.params.length ≤ 4096 ∧ o.first c s = s ∧ check o c s = none ∧ parityDue c s = false

/-- The command is carried out and answers OK: its effect makes t of s, its reply carries a, and nothing follows but the reply. -/
def Answers (i : Instr) (op : Nat) (c : Cmd) (s : State) (P : Answer → State → Prop) : Prop :=
  ∃ a t, a.status = .ok ∧ P a t ∧ exec i s = .next (answer op c a t)

/-- The parts of the state that commands may change: one for each block of the package, and two single registers of weight, the
package mode and the fused anti-rollback counter. -/
inductive Comp where
  | free | out | pkg | eng | lanes | st | mv | host | time | cal | ev | boot | mo | gov | cd | ad | hm | fs | rd | mode | service | links | fuse
deriving DecidableEq, Repr

/-- A part of the state is the same in both. -/
def sameComp (s t : State) : Comp → Prop
  | .free => t.free = s.free
  | .out => t.out = s.out
  | .pkg => t.pkg = s.pkg
  | .eng => t.eng = s.eng
  | .lanes => t.lanes = s.lanes
  | .st => t.st = s.st
  | .mv => t.mv = s.mv
  | .host => t.host = s.host
  | .time => t.time = s.time
  | .cal => t.cal = s.cal
  | .ev => t.ev = s.ev
  | .boot => t.boot = s.boot
  | .mo => t.mo = s.mo
  | .gov => t.gov = s.gov
  | .cd => t.cd = s.cd
  | .ad => t.ad = s.ad
  | .hm => t.hm = s.hm
  | .fs => t.fs = s.fs
  | .rd => t.rd = s.rd
  | .mode => t.pkg.mode = s.pkg.mode
  | .service => t.pkg.service = s.pkg.service
  | .links => t.pkg.linkDown = s.pkg.linkDown
  | .fuse => t.boot.rollback = s.boot.rollback

/-- The queue, the part and the running clock stand, and so does every part of the state that is not listed. -/
def SameOutside (C : List Comp) (s t : State) : Prop :=
  t.pending = s.pending ∧ t.part = s.part ∧ t.clock = s.clock ∧ ∀ c : Comp, c ∉ C → sameComp s t c

/-- Parts that running an opcode may change whatever it does: the reply and its signalling, and a parity occurrence on the command
path (R35, R41). -/
def replyParts : List Comp := [.out, .eng, .mv, .host, .ev, .boot, .hm]

/-- Every part but the fuses. -/
def everyPart : List Comp :=
  [.free, .out, .pkg, .eng, .lanes, .st, .mv, .host, .time, .cal, .ev, .boot, .mo, .gov, .cd, .ad, .hm, .fs, .rd, .mode, .service, .links]

/-- The parts of the state that a command may change: no chapter gives it an effect on any other. -/
def mayChange : Instr → List Comp
  | .registerWrite _ _ _ => .fuse :: everyPart
  | .loReadCapture _ _ => [.free, .out, .host, .time, .ev, .hm]
  | .hiWriteCommit _ _ _ => .fuse :: everyPart
  | .testFieldWrite _ _ _ => .fuse :: everyPart
  | .controlMalformedAccess _ _ => [.free, .out, .host, .ev, .hm]
  | .vbatRise => [.pkg, .mode]
  | .vbatFall => [.pkg, .cal, .mode]
  | .mainSuppliesValid => everyPart
  | .mainSupplyLoss => everyPart
  | .vddIoLoss => everyPart
  | .resetNAssert => everyPart
  | .resetNRelease _ _ => [.out, .pkg, .time, .boot, .mode]
  | .bootLoaderLoad _ _ => [.out, .boot]
  | .bootConfigLoad _ _ => [.out, .host, .boot]
  | .microcodeLoad _ _ => [.out, .boot]
  | .alfelLoad _ _ => .free :: .pkg :: .lanes :: .mo :: .gov :: .fs :: .rd :: .mode :: replyParts
  | .goldenLoad _ _ _ => .free :: .pkg :: .lanes :: .mo :: .gov :: .fs :: .rd :: .mode :: replyParts
  | .tileTrained _ => .free :: .pkg :: .lanes :: .time :: .mo :: .gov :: .fs :: .rd :: .mode :: replyParts
  | .tileTrainTimeout _ => .free :: .pkg :: .lanes :: .st :: .time :: .mo :: .gov :: .cd :: .ad :: .fs :: .rd :: .mode :: .service :: replyParts
  | .mailboxGo _ _ _ _ _ => .fuse :: everyPart
  | .modeSet _ => .pkg :: replyParts
  | .modeQuery _ => replyParts
  | .modeCommit => .free :: .pkg :: .lanes :: .gov :: .cd :: .ad :: .fs :: .mode :: .service :: replyParts
  | .modeDrainComplete => [.out, .pkg, .eng, .mv, .host, .boot]
  | .modeDrainLimit => [.free, .pkg, .eng, .st, .mv, .ev, .gov, .fs]
  | .tileQuiesce _ => .pkg :: .ad :: .service :: replyParts
  | .tileQuiesceCommit _ => [.pkg, .eng, .ev, .fs]
  | .tileDrainComplete _ => [.out, .pkg, .eng, .mv, .host, .ev, .boot, .service]
  | .tileDrainLimit _ => [.free, .out, .pkg, .eng, .st, .mv, .host, .ev, .boot, .gov, .fs, .service]
  | .tileResume _ => .pkg :: .service :: replyParts
  | .tilePowerDown _ => .pkg :: .service :: replyParts
  | .tilePowerDownDone _ => everyPart
  | .tileRejoin _ => .pkg :: .service :: replyParts
  | .tileRejoinPrepared _ _ _ _ => [.out, .pkg, .eng, .mv, .host, .ev, .boot, .service]
  | .tileRejoinLocked _ _ _ => .free :: .pkg :: .lanes :: .time :: .mo :: .gov :: .ad :: .fs :: .rd :: .service :: .links :: replyParts
  | .tileQuery _ => replyParts
  | .hwDetectorOccurrence _ _ _ _ => everyPart
  | .fabricTransferRetry _ _ _ => [.pkg, .ev, .hm]
  | .fabricLinkDown _ _ => .free :: .pkg :: .lanes :: .st :: .time :: .mo :: .gov :: .cd :: .ad :: .fs :: .rd :: .mode :: .service :: .links :: replyParts
  | .fabricLinkRestored _ => [.out, .pkg, .host, .ev, .links]
  | .codecBacklogHigh _ _ => [.cd]
  | .codecBacklogLow _ _ => [.cd]
  | .commandTake _ _ _ _ _ _ => .fuse :: everyPart
  | .commandTooLong _ _ _ => [.out, .eng, .mv, .host, .boot]
  | .undefinedOpcode _ _ => [.out, .eng, .mv, .host, .boot]
  | .cmdQueueDoorbell _ _ _ => [.out, .mv, .host]
  | .replyQueueDoorbell _ _ _ => [.out, .mv, .host]
  | .chainQueueDoorbell _ _ _ => [.out, .mv, .host]
  | .cplQueueDoorbell _ _ _ => [.out, .mv, .host]
  | .dbMaskWrite _ _ _ => [.out, .mv, .host]
  | .bootstrapOpen _ _ => [.eng, .host]
  | .bootstrapOpened _ => [.pkg, .eng, .mv]
  | .nop _ => replyParts
  | .pkgInfo _ => replyParts
  | .masterSet _ => .pkg :: replyParts
  | .masterClaim _ => .pkg :: replyParts
  | .pkgReset _ => everyPart
  | .handleQuery _ => replyParts
  | .handleDestroy _ => .free :: .lanes :: .st :: .time :: .mo :: .gov :: .cd :: .ad :: .fs :: replyParts
  | .adopt _ => replyParts
  | .orphanGraceSet _ => replyParts
  | .handleList _ => replyParts
  | .orphanDeadline => [.out, .eng, .lanes, .st, .mv, .host, .time, .ev, .boot, .mo, .gov, .cd, .ad, .fs]
  | .masterRoleVacant => [.pkg]
  | .lanePortSet _ => .free :: .lanes :: .gov :: replyParts
  | .lanePortQuery _ => replyParts
  | .laneEnable _ => .free :: .lanes :: .gov :: replyParts
  | .laneErOffer _ => .lanes :: replyParts
  | .laneMgmtBind _ => .lanes :: replyParts
  | .laneCountersClear _ => .lanes :: replyParts
  | .laneEyeScan _ => .lanes :: .gov :: replyParts
  | .eyeScanComplete _ _ => [.out, .eng, .lanes, .mv, .host, .boot]
  | .anComplete _ => [.lanes]
  | .anTimeout _ => [.lanes]
  | .trainingComplete _ => [.lanes]
  | .trainingTimeout _ => [.lanes]
  | .linkUp _ => [.out, .lanes, .st, .ev]
  | .lockTimeout _ => [.lanes]
  | .linkLoss _ _ => [.out, .eng, .lanes, .mv, .host, .ev, .boot, .gov]
  | .retryWaitExpiry _ => [.lanes]
  | .remoteFaultChange _ _ => [.lanes]
  | .rxFrame _ _ => [.out, .lanes, .mv, .host, .ev]
  | .mgmtTxFrame _ _ => [.out, .lanes, .mv, .time, .ev]
  | .mgmtWriteback => [.out, .mv, .host]
  | .erFrameReceive _ => [.out, .eng, .lanes, .mv, .host, .ev, .boot]
  | .erStabilityExpiry _ => [.free, .out, .lanes]
  | .erOfferRepeat _ => [.out, .lanes]
  | .erNoAnswer _ => [.out, .eng, .lanes, .mv, .host, .boot]
  | .erSwitchRepeat _ => [.out, .lanes]
  | .erSwitchDelayExpiry _ => [.free, .out, .eng, .lanes, .mv, .host, .boot, .gov]
  | .erSwitchTimeout _ => [.free, .out, .eng, .lanes, .mv, .host, .ev, .boot, .gov]
  | .erConfirmRepeat _ => [.out, .lanes]
  | .erConfirmTimeout _ => [.free, .out, .eng, .lanes, .mv, .host, .ev, .boot, .gov]
  | .erRetrainExhausted _ => [.free, .out, .eng, .lanes, .mv, .host, .ev, .boot, .gov]
  | .streamPortSet _ => .st :: replyParts
  | .streamSourceSet _ => .st :: replyParts
  | .streamCreate _ => .st :: .cd :: .ad :: .fs :: replyParts
  | .streamConfig _ => .st :: replyParts
  | .streamDestroy _ => .st :: .gov :: .cd :: .fs :: replyParts
  | .streamQuery _ => replyParts
  | .actionSet _ => .st :: replyParts
  | .actionQuery _ => replyParts
  | .gvspPacket _ => [.free, .eng, .lanes, .st, .mv, .ev, .gov, .ad, .fs]
  | .resendRequest _ => [.free, .out, .lanes, .st]
  | .resendRepeat _ => [.free, .out, .lanes, .st]
  | .giveUpTimer _ => [.free, .eng, .st, .mv, .ev, .gov, .fs]
  | .quietTimeout _ => [.free, .eng, .st, .mv, .ev, .gov, .fs]
  | .actionSend _ => [.free, .out, .lanes, .st, .time, .ev]
  | .frameLeader _ => [.free, .eng, .st, .mv, .ev, .gov, .ad, .fs]
  | .positionAtMidtime _ => [.st, .ev]
  | .positionHistoryRecord _ => [.mo]
  | .tagComplete _ => [.eng, .st, .host, .ev, .cd, .ad, .fs]
  | .configCommitApplied _ => [.out, .eng, .st, .mv, .host, .ev, .boot, .cd, .fs]
  | .timeAnchorDue _ => [.out, .eng, .mv, .host, .ev, .boot, .gov, .fs]
  | .faConfig _ => .st :: replyParts
  | .faQuery _ => replyParts
  | .faStageBegin _ => .st :: replyParts
  | .faStageCommit _ => .st :: replyParts
  | .stageCommitAt _ => [.out, .eng, .st, .mv, .host, .ev, .boot, .cd, .fs]
  | .faStageAbort _ => .st :: replyParts
  | .anchorSet _ => .st :: replyParts
  | .cdConfig _ => .st :: replyParts
  | .cdQuery _ => replyParts
  | .cdCalSet _ => .st :: .cd :: replyParts
  | .cdCalSample _ => .cd :: replyParts
  | .calSampleDone _ => [.out, .eng, .mv, .host, .boot, .cd]
  | .cdCalFit _ => .free :: .st :: .cd :: replyParts
  | .cdTableRead _ => replyParts
  | .cdCheckSet _ => .cd :: replyParts
  | .cdEngineRestore _ _ => .cd :: replyParts
  | .levelTableBuilt _ => [.st]
  | .bandToCodec _ => [.eng, .st, .ev, .gov, .cd, .ad, .fs]
  | .sliceCoded _ _ _ _ => [.free, .eng, .st, .ev, .gov, .cd, .hm, .fs]
  | .engineSuspect _ _ => [.eng, .st, .ev, .gov, .cd, .fs]
  | .frameRecordValid _ => [.eng, .st, .ev, .hm, .fs]
  | .triggerInput _ _ => [.eng, .ev, .fs]
  | .postWaitExpiry _ => [.eng, .ev, .fs]
  | .fsRingSet _ => .fs :: replyParts
  | .fsQuery _ => replyParts
  | .fsSegArm _ => .fs :: replyParts
  | .fsTrigger _ => .fs :: replyParts
  | .fsSegRelease _ => .fs :: replyParts
  | .fsFreezeRing _ => .fs :: replyParts
  | .fsSegQuery _ => replyParts
  | .fsDirRead _ => replyParts
  | .fsRead _ => .gov :: .fs :: replyParts
  | .readoutFrameDone _ => .free :: .st :: .gov :: .fs :: replyParts
  | .readoutEarlyEnd _ => [.out, .eng, .mv, .host, .ev, .boot, .gov, .fs]
  | .fsReadAbort _ => .fs :: replyParts
  | .fsMap _ => .fs :: replyParts
  | .fsUnmap _ => .fs :: replyParts
  | .storeRead _ _ _ => [.free, .out, .host, .ev, .gov, .hm, .fs]
  | .storeResize _ _ => [.host, .fs]
  | .armInput _ _ => [.ev, .ad]
  | .adRoiSet _ => .st :: replyParts
  | .adQuery _ => replyParts
  | .adRuleCreate _ => .st :: .ad :: replyParts
  | .adRuleConfig _ => .st :: .ad :: replyParts
  | .adRuleArm _ => .ad :: replyParts
  | .adRuleQuery _ => replyParts
  | .adRuleDestroy _ => .st :: .ad :: replyParts
  | .adRefCreate _ => .ad :: replyParts
  | .adRefCapture _ => .ad :: replyParts
  | .refCaptured _ => [.out, .eng, .mv, .host, .ev, .boot, .ad]
  | .adRefDestroy _ => .ad :: replyParts
  | .adRefQuery _ => replyParts
  | .mvStart _ _ => [.free, .out, .eng, .mv, .host, .ev, .boot, .gov, .fs]
  | .mvAbortBit _ _ => [.free, .out, .eng, .mv, .host, .ev, .boot, .gov, .fs]
  | .goInput _ _ => [.free, .out, .eng, .mv, .host, .ev, .boot, .gov, .fs]
  | .moverRunComplete _ _ => [.out, .eng, .mv, .host, .ev, .boot, .gov, .fs]
  | .moverAbortDone _ _ _ => [.out, .eng, .mv, .host, .ev, .boot, .gov, .fs]
  | .flushReadDone _ _ _ => [.out, .eng, .st, .mv, .host, .ev, .boot, .gov, .fs]
  | .descriptorRead _ _ => [.out, .eng, .mv, .host, .ev, .boot, .gov, .fs]
  | .frameDeliveryStart _ => [.out, .eng, .st, .mv, .host, .ev, .gov, .fs]
  | .frameDeliveryComplete _ => [.free, .out, .eng, .st, .mv, .host, .ev, .boot, .gov, .fs]
  | .pendingEntryWrite _ => [.out, .eng, .mv, .host, .ev, .boot, .gov, .fs]
  | .coalesceTimer _ => [.out, .mv, .host]
  | .queueCreate _ => replyParts
  | .queueConfig _ => replyParts
  | .queueDestroy _ => .lanes :: .st :: .gov :: .fs :: replyParts
  | .queueQuery _ => replyParts
  | .queueRestart _ => replyParts
  | .mvReserve _ => replyParts
  | .mvRelease _ => .free :: .gov :: .fs :: replyParts
  | .mvQuery _ => replyParts
  | .mvAbort _ => .free :: .gov :: .fs :: replyParts
  | .compatAccess _ _ _ => .fuse :: everyPart
  | .compatCommit _ => [.host]
  | .msixUnmask _ _ => [.out, .host]
  | .intxStatusClear _ _ _ => [.out, .host]
  | .completionTimeout _ _ => .st :: .gov :: .fs :: replyParts
  | .lateCompletion _ => [.out, .host, .ev, .hm]
  | .pcieRxError _ _ _ => .pkg :: .st :: .gov :: .fs :: replyParts
  | .ptmPeriod _ => [.out, .host]
  | .ptmNow _ _ => [.out, .host, .ev]
  | .ptmDialogueDone _ _ _ => [.out, .host, .ev]
  | .ptmResponseTimeout _ => [.host]
  | .ptmStatusRead _ _ => [.out, .host]
  | .perst _ => .pkg :: .lanes :: .st :: .gov :: .cd :: .ad :: .fs :: replyParts
  | .hotReset _ => .pkg :: .lanes :: .st :: .gov :: .cd :: .ad :: .fs :: replyParts
  | .functionLevelReset _ => .pkg :: .lanes :: .st :: .gov :: .cd :: .ad :: .fs :: replyParts
  | .flrDone _ => [.out, .pkg, .eng, .mv, .host, .ev, .boot, .gov, .fs]
  | .portLinkDown _ _ => [.out, .pkg, .eng, .mv, .host, .ev, .boot, .gov, .fs]
  | .portConnectedChange _ => [.out, .pkg, .eng, .mv, .host, .ev, .boot, .gov, .fs]
  | .holdDeadline _ => .lanes :: .st :: .gov :: .cd :: .ad :: .fs :: replyParts
  | .routeMoveToward _ _ => [.host, .ev]
  | .timeQuery _ => replyParts
  | .timeSet _ => .free :: .time :: replyParts
  | .timeAdjust _ => .time :: replyParts
  | .timeServoSet _ => .time :: replyParts
  | .timeChangeCommit => [.free, .out, .mv, .host, .time, .ev]
  | .ptpClockSet _ => .time :: replyParts
  | .ptpPortSet _ => .free :: .time :: replyParts
  | .ptpQuery _ => replyParts
  | .ptpMessageReceive _ _ => [.free, .out, .eng, .lanes, .mv, .host, .time, .ev, .boot, .gov, .fs]
  | .announceReceiptTimeout _ => [.free, .time, .ev]
  | .ptpMessageTimer _ _ _ => [.free, .out, .eng, .lanes, .mv, .host, .time, .ev, .boot, .gov, .fs]
  | .txtsPop _ _ => [.out, .host, .time]
  | .pkgTimeRead _ _ => [.out, .host]
  | .schedCreate _ => .time :: replyParts
  | .schedDestroy _ => .free :: .time :: .mo :: .gov :: .ad :: .fs :: replyParts
  | .schedQuery _ => replyParts
  | .schedPulseDue _ => [.out, .host, .time, .ev]
  | .schedGo _ _ => [.out, .host, .time, .ev]
  | .calSet _ => .cal :: replyParts
  | .calQuery _ => replyParts
  | .calendarAlign => [.cal]
  | .eventIntake _ => [.out, .eng, .mv, .host, .ev, .boot, .gov, .fs]
  | .routeCommit _ => [.ev]
  | .groupInput _ _ => [.ev]
  | .groupCommit => [.ev]
  | .pinInputEdge _ _ => [.host, .ev]
  | .pinAction _ _ => [.out, .host, .ev]
  | .pinEdgeDue _ => [.out, .host, .time, .ev]
  | .pinPulseEnd _ => [.out, .host, .ev]
  | .evRouteCreate _ => replyParts
  | .evRouteDestroy _ => replyParts
  | .evRouteQuery _ => replyParts
  | .evPinSet _ => replyParts
  | .evPinQuery _ => replyParts
  | .evGroupSet _ => replyParts
  | .evStatus _ => replyParts
  | .evPublish _ => .gov :: .fs :: replyParts
  | .evSkewLearn _ => .gov :: replyParts
  | .skewLearnDone _ => [.free, .out, .eng, .mv, .host, .ev, .boot, .fs]
  | .motionEdge _ _ _ => [.free, .out, .ev, .mo]
  | .indexEdge _ _ => [.free, .mv, .ev, .mo]
  | .standstillExpiry _ => [.mo]
  | .cmpArmInput _ _ => [.ev, .mo]
  | .tableStartInput _ _ => [.ev, .mo]
  | .presetInput _ _ => [.free, .mv, .ev, .mo]
  | .latchInput _ _ => [.ev, .mo]
  | .moPosRead _ _ => [.out, .host]
  | .moConfig _ => .free :: .mo :: replyParts
  | .moQuery _ => replyParts
  | .moPreset _ => .free :: .mo :: replyParts
  | .moCmpCreate _ => .mo :: replyParts
  | .moCmpArm _ => .free :: .mo :: replyParts
  | .moCmpDisarm _ => .free :: .mo :: replyParts
  | .moTblLoad _ => .free :: .mo :: replyParts
  | .moTblStart _ => .free :: .mo :: replyParts
  | .moTblStop _ => .free :: .mo :: replyParts
  | .moCmpQuery _ => replyParts
  | .moCmpDestroy _ => .free :: .time :: .mo :: .gov :: .ad :: .fs :: replyParts
  | .heartbeatSend => [.out, .rd]
  | .heartbeatLoss => [.out, .ev, .rd]
  | .renew => [.rd]
  | .resign => [.ev, .hm, .rd]
  | .claim => .free :: .time :: .gov :: .rd :: replyParts
  | .grant _ => .free :: .time :: .gov :: .rd :: replyParts
  | .handover => .free :: .time :: .gov :: .rd :: replyParts
  | .renewalStaleStop => [.free, .eng, .time, .rd]
  | .dualWindowEnd => [.rd]
  | .takeover => [.out, .eng, .mv, .host, .time, .ev, .boot, .cd, .rd]
  | .takeoverReplies => [.out, .eng, .mv, .host, .ev, .boot, .rd]
  | .snapshotEpoch => [.rd]
  | .journalAckTimeout => [.free, .eng, .time, .ev, .gov, .rd]
  | .standbySelftestDone _ _ => [.out, .eng, .mv, .host, .ev, .boot, .rd]
  | .standbyReady _ => [.out, .eng, .mv, .host, .ev, .boot, .gov, .rd]
  | .revertHoldExpiry => [.free, .eng, .time, .rd]
  | .arbGntChange _ => .free :: .time :: .gov :: .rd :: replyParts
  | .ceBootArbWrite _ _ => .free :: .time :: .gov :: .rd :: replyParts
  | .cePairQuery _ => replyParts
  | .cePairSet _ => .rd :: replyParts
  | .ceSwitchover _ => .free :: .time :: .rd :: replyParts
  | .ceStandbyRestart _ _ => .gov :: .rd :: replyParts
  | .governorSample _ => [.ev, .gov, .hm]
  | .criticalRepeat => [.ev, .gov]
  | .cStarved _ => [.ev, .gov]
  | .classCQuantumDone _ _ => [.free, .out, .eng, .lanes, .time, .ev, .gov, .hm, .fs, .rd]
  | .pgConfig _ => .gov :: replyParts
  | .pgQuery _ => replyParts
  | .pgTileQuery _ => replyParts
  | .pgSensorRead _ => replyParts
  | .healthReportTimer => [.out, .mv, .host, .hm]
  | .testUnlockExpiry => [.hm]
  | .hmQuery _ => replyParts
  | .hmThreshSet _ => replyParts
  | .hmReportSet _ => replyParts
  | .hmTestUnlock _ => replyParts
  | .hmInject _ => replyParts
  | .fwQuery _ => replyParts
  | .fwWrite _ => replyParts
  | .fwWriteDone _ _ _ => [.out, .eng, .mv, .host, .boot]
  | .fwVerify _ _ _ => replyParts
  | .fwSelect _ => replyParts
  | .fwRollbackAdvance _ _ => .free :: .fuse :: replyParts
  | .fwPush _ _ _ => replyParts
  | .fwStart _ => .free :: .pkg :: .lanes :: .mo :: .gov :: .fs :: .rd :: .mode :: replyParts
  | .tapInstruction _ => [.out, .boot]
  | .tileResumeCommit _ => [.free, .out, .pkg, .eng, .lanes, .mv, .host, .ev, .boot, .gov, .ad, .fs, .service]
  | .snapshotEpochComplete => [.rd]
  | .timeLockRestored _ _ => [.time]
  | .portLinkUp _ _ _ _ => [.out, .pkg, .eng, .mv, .host, .ev, .boot, .gov, .fs]
  | .configRequest _ _ _ => .pkg :: .lanes :: .st :: .gov :: .cd :: .ad :: .fs :: replyParts
  | .motionInputLevel _ _ _ _ => [.free, .out, .mv, .ev, .mo]

/-- What R44 and R45 say of generations, and the canonical form of the two tables: no generation is 0 or above 255, no CONFIG_GEN
is 0, and the tables of slots strictly rise. -/
structure GenerationsOk (e : EngState) : Prop where
  slots : ∀ x ∈ e.gens, 1 ≤ x.2 ∧ x.2 ≤ 255
  objects : ∀ x ∈ e.objs, x.2.gen ≠ 0
  package : e.configGen ≠ 0
  slotsRise : tsorted 0 e.gens = true
  objectsRise : tsorted 0 e.objs = true

/-- What Table 2-7 says of PKG_MODE: CHANGING is set exactly while a change is in progress, and TARGET equals MODE otherwise. -/
structure PkgOk (p : PkgState) : Prop where
  changing : p.changing = p.change.isSome
  target : p.changing = false → p.target = p.mode

/-- A command that gives channel g a new shadow set (R44, R126, R127): while the channel is staging it answers at once and the set
stays staged; otherwise the set goes to a commit, for which the command waits. The active set changes in neither case. -/
def PerFrame (i : Instr) (op : Nat) (c : Cmd) (s : State) (g : Nat) (set : ChanSet) : Prop :=
  ((channelOf s g).staging = true → Answers i op c s fun _ t =>
      channelOf t g = { channelOf s g with shadow := { set with gen := genAfter s g set } })
  ∧ ((channelOf s g).staging = false → Runs i s fun t => ∃ p, p.set = alignRois (channelOf s g).sent { set with gen := genAfter s g set }
      ∧ p.wait = some s.eng.nextWait
      ∧ p.at_ = none ∧ channelOf t g = { channelOf s g with shadow := p.set, sent := p.set, commits := (channelOf s g).commits ++ [p] })

/-- The GVSP packet in a received datagram (R83, R89). -/
def gvspOf (f : RxFrame) : Option Gvsp :=
  let b := f.bytes.drop 14
  parseGvsp (((b.take (ipOf b).total).drop ((ipOf b).ihl + 8)).take (be b ((ipOf b).ihl + 4) 2 - 8))

/-- The error message that an error of AER status bit b of a port sends: unless it is masked or not enabled, of the severity programmed
(R234, log entry 19). -/
def errorMessages (q : Port) (p b : Nat) : List Out :=
  let severity := if q.aerSeverity.getLsbD b then 2 else 1
  if !q.aerUncorMask.getLsbD b && reports q severity (b == 20) then [.errMessage p severity b] else []

/-- The state in which the packet at the head of a command queue runs: its slot is visited, its intent is in the journal, and the queue
stands behind it (R37, R53, R313). -/
def taken (p n : Nat) (packet : List Byte) (v : Queue) (s : State) : State :=
  putQueue (cmdQueue p n) { v with dev := v.dev + BitVec.ofNat 32 (slotsFor (packetLen packet)) }
    (journalOne { op := packetOp packet, cmd := parsePacket p n packet, count := v.dev + BitVec.ofNat 32 (packetSlots packet) }
      (visitQueue (p * 8 + n) true s))

/-- A rule was armed before the re-arms of this edge of the clock (R188). -/
def armedBefore (s : State) (r : RuleState) : Bool := (r.rearmed.bind fun x => if x.1 = s.clock then some x.2 else none).getD r.armed

/-- Frame f is the next frame of channel g to be recorded, its tag is complete, its tile serves, and no DRAM error waits to be injected into
its pages (R158, R160). -/
def Recordable (s : State) (g : Nat) (f : Frame) : Prop :=
  (channelOf s g).frames.find? (fun f => f.record && !f.recorded && !f.dropped) = some f ∧ f.tagged = true ∧ serving s (g / 64) = true
    ∧ injectionDue s (g / 64) 0x03 (g % 64) = false ∧ injectionDue s (g / 64) 0x02 (g % 64) = false

/-- A frame of a port as it leaves, padded to 60 bytes before its FCS (R75). -/
def padded (l : Nat) (b : List Byte) : Out := .frame l (b ++ zeros (60 - b.length))

/-- When a TIMED action that an event brings leaves its pin, in quarter nanoseconds: Te + DELAY_NS + TRIM (R282, R283). -/
def timedAt (s : State) (p : Nat) (e : Ev) : Int :=
  (e.time * 4 : Nat) + ((pinOf s p).delayNs * 4 : Nat) + trimOf (pinOf s p) ((e.time + (pinOf s p).delayNs) * 65536)

/-- Due time of the first pulse of the train that an event starts, in 2^-16 ns (R261). -/
def trainStart (s : State) (k : Nat) (e : Ev) : Nat := (extend32 (ns32Of e.time).toNat (ns s)).toNat * 65536 + (schedOf s k).delay

/-- The detectors of a port that report a correctable error, with the bit of the AER status each one sets (Table 11-9, log entry 19). -/
def correctableErrors : List (PcieError × Nat) :=
  [(.receiver, 0), (.badTlp, 6), (.badDllp, 7), (.replayRollover, 8), (.replayTimer, 12), (.unsupportedPosted, 13), (.correctedInternal, 14)]

/-- The detectors of a port that report a non-fatal (0x12) or fatal (0x13) error without another effect, with their AER bit. -/
def uncorrectableErrors : List (PcieError × Nat × Nat) :=
  [(.poisonedWrite, 0x12, 12), (.ecrc, 0x12, 19), (.unexpectedCompletion, 0x12, 16), (.dataLink, 0x13, 4), (.flowControl, 0x13, 13),
   (.overflow, 0x13, 17), (.malformed, 0x13, 18), (.uncorrectableInternal none, 0x13, 22)]

end Sys2Proof.Machine
end

