-- ==== Sys2Proof/Certificates/Slice0/Obligations.lean ====
section
/-!
DEFINITION. The statements for the provers. Each says, in the terms of Safety.lean, what commands of the block do; a docstring names
the rules of the spec that its clauses come from (it claims those clauses, not every sentence of the rules), and the assumption log
where a clause rests on a choice of the model.
-/
open Sys2Proof Sys2Proof.Machine

/-! ### The block as a whole -/

/-- A step with a command at the front of the queue is that command's effect, with the queue's rest in place. -/
def Obligations.StepRunsFrontCommand : Prop :=
  ∀ (c : Instr) (rest : List Instr) (s : State), step { s with pending := c :: rest } = exec c { s with pending := rest }

/-- The model's own rule for an empty queue (log entry 2): the running clock and package time advance, and nothing else of the
package moves but the calendar and the slew in progress. -/
def Obligations.EmptyQueueLetsTimePass : Prop :=
  ∀ s : State, s.pending = [] → ∃ t, step s = .next t ∧ t.clock = s.clock + 1
    ∧ t = { s with clock := s.clock + 1, time := t.time, cal := t.cal }

/-! ### Package commands and bootstrap pairs -/

/-- Table 3-12: NOP echoes its parameters, PKG_INFO and MODE_QUERY answer and change nothing, MASTER_SET and MASTER_CLAIM move the
master role and count it, PKG_RESET answers and then resets the package with cause 4. -/
def Obligations.PackageCommandsComplete : Prop :=
  (∀ c s, Accepted opNop c s → Answers (.nop c) 0x0100 c s fun a t => a.result = c.params ∧ t = s)
  ∧ (∀ c s, Accepted opPkgInfo c s → Answers (.pkgInfo c) 0x0101 c s fun a t =>
      t = s ∧ a.result.length = 24 ∧ le a.result 0 2 = partDevice s.part ∧ le a.result 2 1 = 0x10 ∧ le a.result 3 1 = tiles s
        ∧ le a.result 20 4 = s.eng.configGen.toNat)
  ∧ (∀ c s, Accepted opModeQuery c s → Answers (.modeQuery c) 0x0111 c s fun a t => t = s ∧ a.result.length = 16
        ∧ le a.result 0 4 = pkgMode s % 2 ^ 32)
  ∧ (∀ c s, Accepted opMasterSet c s → Answers (.masterSet c) 0x0102 c s fun a t =>
      t.pkg.masterPort = par c 0 1 ∧ t.pkg.vacant = false ∧ le a.result 0 1 = s.pkg.masterPort % 256
        ∧ (s.pkg.masterPort = par c 0 1 ∧ s.pkg.vacant = false → t = s)
        ∧ (¬(s.pkg.masterPort = par c 0 1 ∧ s.pkg.vacant = false) →
            t = { s with
              pkg := { s.pkg with
                masterPort := par c 0 1, vacant := false, vacancyAt := none, masterGen := s.pkg.masterGen + 1 }
              eng := { s.eng with configGen := nextGen s.eng.configGen } }))
  ∧ (∀ c s, Accepted opMasterClaim c s → Answers (.masterClaim c) 0x0103 c s fun _ t =>
      t.pkg.masterPort = c.port ∧ t.pkg.vacant = false ∧ t = { s with pkg := t.pkg, eng := t.eng }
        ∧ t.eng = { s.eng with configGen := t.eng.configGen })
  ∧ (∀ c s, Accepted opPkgReset c s → Runs (.pkgReset c) s fun t =>
      t.pkg.mode = .boot ∧ t.pkg.cause = 4 ∧ t.pkg.causePort = c.port ∧ t.eng = {} ∧ t.fs = {} ∧ t.mv = {} ∧ t.lanes = []
        ∧ t.out = (answer 0x0104 c {} s).out ++ released (answer 0x0104 c {} s))

/-- R31, R33, R52, R58: OPEN acts through the block of the writing port only; in SAFE and the modes after it the bootstrap pair opens with
the values of its block, an open pair answers E_BUSY and bad sizes E_PARAM; in the modes before SAFE OPEN answers E_STATE; a vacancy that is
due empties the role. That the mode is judged first, then an open pair, then the sizes, and that an open pair keeps STATE 1, is the model's
choice (assumption log 77): Table 3-15 names the codes and no order. -/
def Obligations.BootstrapPairsOpen : Prop :=
  (∀ p (s : State), p < tiles s → Runs (.bootstrapOpen p p) s fun t => (blockOfPort t p).opening = true ∧ t = { s with eng := t.eng })
  ∧ (∀ p b (s : State), p < tiles s → p ≠ b → Runs (.bootstrapOpen p b) s fun t => t = ignoreWrite p s)
  ∧ (∀ p (s : State), (blockOfPort s p).opening = true → 4 ≤ modeCode s.pkg.mode → (blockOfPort s p).state ≠ 1 →
      badLog2 (blockOfPort s p).cqLog2 = false → badLog2 (blockOfPort s p).rqLog2 = false →
      Runs (.bootstrapOpened p) s fun t =>
        (∃ q, queue? t (cmdQueue p 0) = some q ∧ q.qtype = .command ∧ q.size = 2 ^ (blockOfPort s p).cqLog2 ∧ q.base = (blockOfPort s p).cqBase)
        ∧ (∃ q, queue? t (replyQueue p 0) = some q ∧ q.qtype = .reply ∧ q.size = 2 ^ (blockOfPort s p).rqLog2
            ∧ q.base = (blockOfPort s p).rqBase ∧ q.vector = (blockOfPort s p).vector)
        ∧ (blockOfPort t p).state = 1 ∧ (blockOfPort t p).opening = false
        ∧ t = { s with eng := t.eng, mv := t.mv, pkg := t.pkg })
  ∧ (∀ p (s : State), (blockOfPort s p).opening = true → modeCode s.pkg.mode < 4 →
      Runs (.bootstrapOpened p) s fun t => (blockOfPort t p).state = 2 ∧ (blockOfPort t p).code = .eState ∧ t = { s with eng := t.eng })
  ∧ (∀ p (s : State), (blockOfPort s p).opening = true → 4 ≤ modeCode s.pkg.mode → (blockOfPort s p).state = 1 →
      Runs (.bootstrapOpened p) s fun t => (blockOfPort t p).state = 1 ∧ (blockOfPort t p).code = .eBusy
        ∧ (blockOfPort t p).opening = false ∧ t = { s with eng := t.eng })
  ∧ (∀ p (s : State), (blockOfPort s p).opening = true → 4 ≤ modeCode s.pkg.mode → (blockOfPort s p).state ≠ 1 →
      badLog2 (blockOfPort s p).cqLog2 = true ∨ badLog2 (blockOfPort s p).rqLog2 = true → Runs (.bootstrapOpened p) s fun t =>
        (blockOfPort t p).state = 2 ∧ (blockOfPort t p).code = .eParam ∧ (blockOfPort t p).opening = false ∧ t = { s with eng := t.eng })
  ∧ (∀ (s : State) n, s.pkg.vacancyAt = some n → n ≤ s.clock → Runs .masterRoleVacant s fun t =>
      t = { s with pkg := { s.pkg with vacant := true, vacancyAt := none, masterGen := s.pkg.masterGen + 1 } })

/-! ### Commands and replies -/

/-- R10, R42, R55: event actions that take effect at the same edge on the command's register act first; an opcode that then fails a check
answers the status and DETAIL of the first check that fails, and the package is otherwise as it was, for every opcode of the table. -/
def Obligations.RefusedCommandChangesNothing : Prop :=
  (∀ (i : Instr) (s : State) (o : OpDef) (c : Cmd), opRow i = some (o, c) → commandsRun s = true → c.params.length ≤ 4096 →
    exec i s = .next (runChecked o c (afterEvents o c s)))
  ∧ (∀ (i : Instr) (s : State) (o : OpDef) (c : Cmd) (f : Fail), opRow i = some (o, c) → commandsRun s = true →
      c.params.length ≤ 4096 → check o c (afterEvents o c s) = some f →
      exec i s = .next (answer o.code c { status := f.status, detail := f.detail } (afterEvents o c s)))

/-- R37: a packet that declares more than 4,096 parameter bytes answers E_TOO_LONG, whatever the opcode, after the slots posted
behind it are discarded. -/
def Obligations.TooLongPacketIsDiscarded : Prop :=
  (∀ (i : Instr) (s : State) (o : OpDef) (c : Cmd), opRow i = some (o, c) → commandsRun s = true → 4096 < c.params.length →
    exec i s = .next (answer o.code c { status := .eTooLong, detail := ((discardSlots c s).1 - 1) % 65536 } (discardSlots c s).2))
  ∧ (∀ op len c s, commandsRun s = true → 4096 < len → Runs (.commandTooLong op len c) s fun t =>
      t = answer op c { status := .eTooLong, detail := ((discardSlots c s).1 - 1) % 65536 } (discardSlots c s).2)
  ∧ (∀ (c : Cmd) (s : State) v, queue? s (cmdQueue c.port c.queue) = some v →
      (discardSlots c s).1 = max 1 (v.host - v.dev).toNat
        ∧ queue? (discardSlots c s).2 (cmdQueue c.port c.queue)
            = some { v with dev := v.dev + BitVec.ofNat 32 (max 1 (v.host - v.dev).toNat) }
        ∧ (discardSlots c s).2 = { s with mv := (discardSlots c s).2.mv })

/-- R9: every defined opcode lies in one of the fifteen ranges of Table 0-4; an opcode that is not defined answers E_OPCODE once its
header and length pass (Table 3-7 checks them first), and nothing else happens. -/
def Obligations.UndefinedOpcodeAnswersEOpcode : Prop :=
  (∀ op o, opOf op = some o → o.code = op ∧ 1 ≤ op / 256 ∧ op / 256 ≤ 15)
  ∧ (∀ op, op / 256 = 0 ∨ 15 < op / 256 → opOf op = none)
  ∧ (∀ op c s, commandsRun s = true → opOf op = none → c.params.length ≤ 4096 → headerBad c = none →
    Runs (.undefinedOpcode op c) s fun t => t = answer op c { status := .eOpcode } s)
  ∧ (∀ op c s off, commandsRun s = true → opOf op = none → c.params.length ≤ 4096 → headerBad c = some off →
    Runs (.undefinedOpcode op c) s fun t => t = answer op c { status := .eParam, detail := off } s)

/-- R35, R36: with its reply queue connected, empty of waiting replies and with room, a command's reply is written at once into the
queue's next slots, with the fields of Table 3-3, and the device count passes them. -/
def Obligations.ReplyIsWrittenToItsQueue : Prop :=
  ∀ (op : Nat) (c : Cmd) (a : Answer) (s : State) (v : Queue), c.queue < 8 → s.eng.quiet = false → connected s c.port = true →
    queue? s (replyQueue c.port c.queue) = some v → v.heldReplies = [] →
    (v.dev - v.host).toNat + slotsFor a.result.length ≤ v.size → bit c.flags.toNat 2 = false →
    (answer op c a s).out = s.out ++ [.reply c.port c.queue (v.dev.toNat % v.size)
        { opcode := op, status := a.status, phase := phaseOf v, engine := s.eng.active, late := a.late, reexec := false
          seq := c.seq, handle := a.handle.getD c.target.toNat, configGen := replyGen s (a.handle.getD c.target.toNat) a
          firstFrame := a.firstFrame, detail := a.detail, cookie := c.cookie, result := a.result }]
    ∧ ∃ w, queue? (answer op c a s) (replyQueue c.port c.queue) = some w
        ∧ w.dev = v.dev + BitVec.ofNat 32 (slotsFor a.result.length) ∧ w.heldReplies = [] ∧ w.host = v.host ∧ w.size = v.size

/-- R35, R210, R240, R315: a reply touches the reply queue of its command, the signalling of that port and the replies that wait; every other
queue and everything else of the package stays. -/
def Obligations.ReplyTouchesOnlyItsPath : Prop :=
  ∀ (op : Nat) (c : Cmd) (a : Answer) (s : State),
    (answer op c a s) = { s with
        eng := { s.eng with deferred := (answer op c a s).eng.deferred }
        mv := { s.mv with queues := (answer op c a s).mv.queues }
        host := { s.host with
          vectors := (answer op c a s).host.vectors, intx := (answer op c a s).host.intx, ports := (answer op c a s).host.ports }
        boot := { s.boot with mailbox := (answer op c a s).boot.mailbox }
        out := (answer op c a s).out }
    ∧ (∀ q, q ≠ replyQueue c.port c.queue → queue? (answer op c a s) q = queue? s q)
    ∧ s.out <+: (answer op c a s).out

/-- R315: while no engine may write replies (a change of the active engine runs), a reply waits and nothing is written. -/
def Obligations.QuietEngineHoldsReplies : Prop :=
  ∀ (op : Nat) (c : Cmd) (a : Answer) (s : State), s.eng.quiet = true →
    answer op c a s = { s with eng := { s.eng with deferred := s.eng.deferred ++ [(c, mkReply s op c a false)] } }

/-! ### What every command keeps -/

/-- The frame of every command: the queue behind it, the part and the running clock stand, and so does every part of the state that
`mayChange` does not list for it. -/
def Obligations.CommandsChangeOnlyTheirParts : Prop :=
  ∀ (i : Instr) (s t : State), exec i s = .next t → SameOutside (mayChange i) s t

/-- No command takes back what has left the package: a reply, an entry, a message or a frame once sent stays sent. -/
def Obligations.OutputIsOnlyAppended : Prop :=
  ∀ (i : Instr) (s t : State), exec i s = .next t → s.out <+: t.out

/-- R353: the anti-rollback counter is fused: no command, no reset and no loss of supply lowers it. -/
def Obligations.RollbackCounterNeverFalls : Prop :=
  ∀ s t : State, step s = .next t → s.boot.rollback ≤ t.boot.rollback

/-- R44, R45: no step makes a handle generation 0 or above 255, nor any CONFIG_GEN 0, and the tables of slots stay in canonical form:
every state that has the invariant keeps it, whatever command is in front. -/
def Obligations.StepsKeepGenerations : Prop :=
  ∀ s t : State, GenerationsOk s.eng → step s = .next t → GenerationsOk t.eng

/-- The invariant of handles and generations holds right after reset. -/
def Obligations.ResetHasGenerations : Prop := GenerationsOk State.reset.eng

/-- R8: the four fields of a handle lie where the rule puts them, and together they are the whole handle. In every state that has the
invariant of generations, no live handle has generation 0 (R45), so handle 0x0000_0000 names no object. -/
def Obligations.HandlesReadAsTheirFields : Prop :=
  (∀ kind tile gen index, kind < 2 ^ 4 → tile < 2 ^ 3 → gen < 2 ^ 8 → index < 2 ^ 17 →
      handleKind (makeHandle kind tile gen index) = kind ∧ handleTile (makeHandle kind tile gen index) = tile
        ∧ handleGen (makeHandle kind tile gen index) = gen ∧ handleIndex (makeHandle kind tile gen index) = index
        ∧ makeHandle kind tile gen index < 2 ^ 32)
  ∧ (∀ h, h < 2 ^ 32 → makeHandle (handleKind h) (handleTile h) (handleGen h) (handleIndex h) = h
      ∧ handleKind h = h / 2 ^ 28 ∧ handleTile h = h / 2 ^ 25 % 2 ^ 3 ∧ handleGen h = h / 2 ^ 17 % 2 ^ 8 ∧ handleIndex h = h % 2 ^ 17)
  ∧ (∀ (s : State) (h : Nat), GenerationsOk s.eng → handleLive s h = true → 1 ≤ handleGen h ∧ handleGen h ≤ 255 ∧ h ≠ 0)

/-- R20, R23, Table 2-7: CHANGING is set exactly while a mode change is in progress, and TARGET equals MODE otherwise: every step keeps
this. -/
def Obligations.StepsKeepModeFields : Prop :=
  ∀ s t : State, PkgOk s.pkg → step s = .next t → PkgOk t.pkg

/-- Right after reset no mode change is in progress, and TARGET equals MODE. -/
def Obligations.ResetHasModeFields : Prop := PkgOk State.reset.pkg

/-! ### Package modes and tile service -/

/-- R20, R21, R23: MODE_SET of another mode starts a change: TC lies 100 µs ahead, PKG_MODE shows it, the command waits and holds the
mode; MODE_SET of the present mode answers at once and changes nothing. -/
def Obligations.ModeSetStartsAChange : Prop :=
  (∀ c s, Accepted opModeSet c s → par c 0 1 = modeCode s.pkg.mode → Answers (.modeSet c) 0x0110 c s fun a t =>
      t = s ∧ le a.result 0 1 = modeCode s.pkg.mode ∧ le a.result 1 1 = modeCode s.pkg.mode)
  ∧ (∀ c s m, Accepted opModeSet c s → modeOfCode (par c 0 1) = some m → m ≠ s.pkg.mode → Runs (.modeSet c) s fun t =>
      t = { s with pkg := t.pkg, eng := t.eng } ∧ t.pkg.mode = s.pkg.mode ∧ t.pkg.target = m ∧ t.pkg.changing = true
        ∧ (∃ x, t.pkg.change = some x ∧ x.target = m ∧ x.tc = ns s + 100000 ∧ x.committed = false ∧ x.previous = s.pkg.mode
            ∧ x.wait = s.eng.nextWait)
        ∧ t.eng.configGen = nextGen s.eng.configGen
        ∧ ∃ w, t.eng.waiting = s.eng.waiting ++ [w] ∧ w.id = s.eng.nextWait ∧ w.cmd = c ∧ keyMode ∈ w.keys)

/-- R21, R22: at TC the package is in the new mode, with cause 0; when nothing is left of the old one, or with no drain at all, the
change ends, is counted and stamped; at the drain limit what is open is cut and counted. -/
def Obligations.ModeChangesCommitAndEnd : Prop :=
  (∀ s m, s.pkg.change = some m → m.committed = false → m.tc ≤ ns s → Runs .modeCommit s fun t => t.pkg.mode = m.target)
  ∧ (∀ s m, s.pkg.change = some m → m.committed = false → m.tc ≤ ns s → m.drainNs = none → Runs .modeCommit s fun t =>
      t.pkg.mode = m.target ∧ t.pkg.target = m.target ∧ t.pkg.changing = false ∧ t.pkg.change = none ∧ t.pkg.cause = 0)
  ∧ (∀ s m, s.pkg.change = some m → ns s < m.tc → Runs .modeCommit s fun t => t = s)
  ∧ (∀ s m, s.pkg.change = some m → m.committed = true → drained s m.tiles.contains = true → Runs .modeDrainComplete s fun t =>
      t.pkg = { s.pkg with change := none, changing := false, target := s.pkg.mode, modeGen := s.pkg.modeGen + 1, doneNs32 := ns32 s })
  ∧ (∀ s m n, s.pkg.change = some m → m.committed = true → m.drainNs = some n → m.committedAt + n ≤ s.clock →
      Runs .modeDrainLimit s fun t =>
        t.pkg = { s.pkg with change := some { m with cut := m.cut + (cutFrames m.tiles.contains s).1, drainNs := none } })

/-- R26, R30: quiesce and resume orders run their course: accepted, they hold their tile until TC; a drained tile is QUIESCED; a resumed
tile is IN_SERVICE; a tile that is already there answers at once. That TC lies 100 µs ahead is the model's choice (assumption log 63): R26
gives no distance. -/
def Obligations.TilesQuiesceAndResume : Prop :=
  (∀ c s, Accepted opTileQuiesce c s → service s (par c 0 1) = .quiesced → Answers (.tileQuiesce c) 0x0C10 c s fun _ t => t = s)
  ∧ (∀ c s, Accepted opTileQuiesce c s → service s (par c 0 1) ≠ .quiesced → Runs (.tileQuiesce c) s fun t =>
      service t (par c 0 1) = .draining
        ∧ ∃ o, tileOp t (par c 0 1) = some o ∧ o.kind = .quiesce ∧ o.tc = ns s + 100000 ∧ o.committed = false ∧ o.wait = some s.eng.nextWait)
  ∧ (∀ p s o, tileOp s p = some o → o.kind = .quiesce → o.committed = false → o.tc ≤ ns s → Runs (.tileQuiesceCommit p) s fun t =>
      tileOp t p = some { o with committed := true, committedAt := s.clock } ∧ service t p = service s p)
  ∧ (∀ p s o, tsorted 0 s.pkg.tileOps = true → tileOp s p = some o → o.kind = .quiesce → o.committed = true →
      drained s (· == p) = true → Runs (.tileDrainComplete p) s fun t => service t p = .quiesced ∧ tileOp t p = none)
  ∧ (∀ p s o, tsorted 0 s.pkg.tileOps = true → tileOp s p = some o → o.kind = .quiesce → o.committed = true →
      o.committedAt + o.drainNs ≤ s.clock → Runs (.tileDrainLimit p) s fun t => service t p = .quiesced ∧ tileOp t p = none)
  ∧ (∀ c s, Accepted opTileResume c s → service s (par c 0 1) = .inService → Answers (.tileResume c) 0x0C11 c s fun a t =>
      t = s ∧ a.result = zeros 8)
  ∧ (∀ c s, Accepted opTileResume c s → service s (par c 0 1) ≠ .inService → Runs (.tileResume c) s fun t =>
      ∃ o, tileOp t (par c 0 1) = some o ∧ o.kind = .resume ∧ o.tc = ns s + 100000 ∧ o.wait = some s.eng.nextWait)
  ∧ (∀ p s o, tileOp s p = some o → o.kind = .resume → o.tc ≤ ns s → Runs (.tileResumeCommit p) s fun t => service t p = .inService)

/-- R27, R30, R321, R322: power-down and rejoin orders with the tile's service state and fault flag at their end, the tiles that R27 keeps
from being powered down, the failures of a rejoin by step, and TILE_QUERY. -/
def Obligations.TilesPowerDownAndRejoin : Prop :=
  (∀ c s, Accepted opTilePowerDown c s → service s (par c 0 1) = .outOfService → Answers (.tilePowerDown c) 0x0C12 c s fun _ t => t = s)
  ∧ (∀ c s, Accepted opTilePowerDown c s → service s (par c 0 1) ≠ .outOfService → Runs (.tilePowerDown c) s fun t =>
      service t (par c 0 1) = .quiesced
        ∧ ∃ o, tileOp t (par c 0 1) = some o ∧ o.kind = .powerDown ∧ o.wait = some s.eng.nextWait)
  ∧ (∀ p s o, p ≠ 0 → tileOp s p = some o → o.kind = .powerDown → Runs (.tilePowerDownDone p) s fun t =>
      service t p = .outOfService ∧ tileFault t p = false
        ∧ t = replyOrder o (leBytes 4 (ns32 (tileGone p false (endOrder p s))).toNat) (tileGone p false (endOrder p s)))
  ∧ (∀ c s, Accepted { opTilePowerDown with wrong := fun _ _ => false } c s → service s (par c 0 1) ≠ .outOfService →
      service s (par c 0 1) ≠ .quiesced ∨ par c 0 1 = 0 ∨ par c 0 1 = engineTile s s.eng.active ∨ par c 0 1 = s.pkg.masterPort →
      Runs (.tilePowerDown c) s fun t => ∃ d, t = answer 0x0C12 c { status := .eState, detail := d } s)
  ∧ (∀ c s, Accepted opTileRejoin c s → service s (par c 0 1) = .inService → Answers (.tileRejoin c) 0x0C13 c s fun _ t => t = s)
  ∧ (∀ c s, Accepted opTileRejoin c s → service s (par c 0 1) ≠ .inService → Runs (.tileRejoin c) s fun t =>
      (ctlOf t (par c 0 1)).step = 1 ∧ ∃ o, tileOp t (par c 0 1) = some o ∧ o.kind = .rejoin ∧ o.wait = some s.eng.nextWait)
  ∧ (∀ p img dram s o, tileOp s p = some o → o.kind = .rejoin → service s p = .outOfService →
      Runs (.tileRejoinPrepared p img false dram) s fun t => service t p = .outOfService ∧ tileFault t p = true)
  ∧ (∀ p img s o, tileOp s p = some o → o.kind = .rejoin → service s p = .outOfService →
      flashResult s (if s.boot.conf.microcode1 then 3 else 2) 0 img = 1 →
      Runs (.tileRejoinPrepared p img true true) s fun t => service t p = .rejoining ∧ tileFault t p = false)
  ∧ (∀ p lock s o, tileOp s p = some o → o.kind = .rejoin → service s p = .rejoining →
      Runs (.tileRejoinLocked p false lock) s fun t => service t p = .outOfService ∧ tileFault t p = true)
  ∧ (∀ p s o, tileOp s p = some o → o.kind = .rejoin → service s p = .rejoining →
      Runs (.tileRejoinLocked p true true) s fun t =>
        service t p = .inService ∧ tget false t.time.locked p = true ∧ (ctlOf t p).step = 0
          ∧ ∀ l ∈ tileLinks s p, tget false t.pkg.linkDown l = false)
  ∧ (∀ c s, Accepted opTileQuery c s → Answers (.tileQuery c) 0x0C14 c s fun a t =>
      t = s ∧ a.result = windowBytes (tcReg s (par c 0 1)) 4)

/-- R15: a failed transfer is counted against its link until one passes; 16 failures in a row take the link down; a link restored
carries traffic again. -/
def Obligations.FabricLinksFailAndReturn : Prop :=
  (∀ p u (s : State), serving s p = true → (linkNumber s p u).isSome = true → Runs (.fabricTransferRetry p u false) s fun t =>
      tget 0 t.pkg.linkRetries (p * 2 + u) = tget 0 s.pkg.linkRetries (p * 2 + u) + 1)
  ∧ (∀ p u (s : State), serving s p = true → (linkNumber s p u).isSome = true → Runs (.fabricTransferRetry p u true) s fun t =>
      tget 0 t.pkg.linkRetries (p * 2 + u) = 0)
  ∧ (∀ p u l (s : State), serving s p = true → 16 ≤ tget 0 s.pkg.linkRetries (p * 2 + u) → linkNumber s p u = some l →
      tget false s.pkg.linkDown l = false → Runs (.fabricLinkDown p u) s fun t => tget false t.pkg.linkDown l = true)
  ∧ (∀ l (s : State), tget false s.pkg.linkDown l = true → Runs (.fabricLinkRestored l) s fun t => tget false t.pkg.linkDown l = false)

/-! ### Supplies, reset and boot -/

/-- R18, R366: what the supplies do to the package, each event with the whole state it leaves where the package was not powered, and
what it clears where it was: VBAT alone moves OFF and BACKUP; the main supplies bring RESET with cause 5; their loss leads to BACKUP, or
to OFF without VBAT; the calendar and the Held fields are lost exactly when VDD_IO and VBAT are both gone. -/
def Obligations.SuppliesMoveThePackage : Prop :=
  (∀ s : State, s.pkg.mode = .off → Runs .vbatRise s fun t =>
      t = { s with pkg := { s.pkg with vbat := true, mode := .backup, target := .backup } })
  ∧ (∀ s : State, s.pkg.mode ≠ .off → Runs .vbatRise s fun t => t = { s with pkg := { s.pkg with vbat := true } })
  ∧ (∀ s : State, s.pkg.vddIo = true → s.pkg.mode = .backup → Runs .vbatFall s fun t =>
      t = { s with pkg := { s.pkg with vbat := false, mode := .off, target := .off } })
  ∧ (∀ s : State, s.pkg.vddIo = true → s.pkg.mode ≠ .backup → Runs .vbatFall s fun t => t = { s with pkg := { s.pkg with vbat := false } })
  ∧ (∀ s : State, s.pkg.vddIo = false → s.pkg.mode = .backup → Runs .vbatFall s fun t =>
      t = { s with cal := {}, pkg := { s.pkg with vbat := false, mode := .off, target := .off, cause := 0, causePort := 0 } })
  ∧ (∀ s : State, s.pkg.vddIo = false → s.pkg.mode ≠ .backup → Runs .vbatFall s fun t =>
      t = { s with cal := {}, pkg := { s.pkg with vbat := false, cause := 0, causePort := 0 } })
  ∧ (∀ s : State, modeCode s.pkg.mode < 2 → Runs .mainSuppliesValid s fun t =>
      t.pkg.mode = .reset ∧ t.pkg.target = .reset ∧ t.pkg.cause = 5 ∧ t.pkg.mainOk = true ∧ t.pkg.vddIo = true ∧ t.pkg.vbat = s.pkg.vbat
        ∧ t.eng = {} ∧ t.lanes = [] ∧ t.st = {} ∧ t.mv = {} ∧ t.host = {} ∧ t.fs = {} ∧ t.boot.rollback = s.boot.rollback
        ∧ t.cal.seconds = s.cal.seconds ∧ t.cal.valid = s.cal.valid)
  ∧ (∀ s : State, 2 ≤ modeCode s.pkg.mode → Runs .mainSuppliesValid s fun t =>
      t = { s with pkg := { s.pkg with mainOk := true, vddIo := true } })
  ∧ (∀ s : State, s.pkg.mainOk = true → modeCode s.pkg.mode < 2 → Runs .mainSupplyLoss s fun t =>
      t = { s with pkg := { s.pkg with
        mainOk := false, mode := if s.pkg.vbat then .backup else .off, target := if s.pkg.vbat then .backup else .off } })
  ∧ (∀ s : State, s.pkg.mainOk = true → 2 ≤ modeCode s.pkg.mode → Runs .mainSupplyLoss s fun t =>
      t.pkg.mode = (if s.pkg.vbat then .backup else .off) ∧ t.pkg.target = t.pkg.mode ∧ t.pkg.mainOk = false ∧ t.pkg.vddIo = s.pkg.vddIo
        ∧ t.pkg.cause = s.pkg.cause ∧ t.pkg.causePort = s.pkg.causePort ∧ t.boot.rollback = s.boot.rollback
        ∧ t.cal.seconds = s.cal.seconds ∧ t.cal.valid = s.cal.valid
        ∧ t.eng = {} ∧ t.lanes = [] ∧ t.st = {} ∧ t.mv = {} ∧ t.host = {} ∧ t.fs = {})
  ∧ (∀ s : State, s.pkg.mainOk = false → Runs .mainSupplyLoss s fun t => t = s)
  ∧ (∀ s : State, s.pkg.vbat = false → Runs .vddIoLoss s fun t =>
      t.pkg.mode = .off ∧ t.pkg.target = .off ∧ t.pkg.mainOk = false ∧ t.pkg.vddIo = false ∧ t.cal = {} ∧ t.pkg.cause = 0
        ∧ t.pkg.causePort = 0 ∧ t.boot.rollback = s.boot.rollback)
  ∧ (∀ s : State, s.pkg.vbat = true → Runs .vddIoLoss s fun t =>
      t.pkg.mode = .backup ∧ t.pkg.target = .backup ∧ t.pkg.mainOk = false ∧ t.pkg.vddIo = false ∧ t.cal.seconds = s.cal.seconds
        ∧ t.cal.valid = s.cal.valid ∧ t.pkg.cause = s.pkg.cause ∧ t.pkg.causePort = s.pkg.causePort ∧ t.boot.rollback = s.boot.rollback)
  ∧ (∀ s : State, 2 ≤ modeCode s.pkg.mode → Runs .vddIoLoss s fun t =>
      t.eng = {} ∧ t.lanes = [] ∧ t.st = {} ∧ t.mv = {} ∧ t.host = {} ∧ t.fs = {})

/-- R23, R265, R348, R349, R365, R372: the reset ball clears every register, handle and frame but keeps fuses and the calendar, with cause
3; its release enters BOOT, seeds package time from a valid calendar, and takes the straps, but after a supply entry with the ball high only
a low level of 10 µs leaves RESET; the TAP shows the part's IDCODE, samples and preloads the boundary register, and drives the balls from it
only while RESET_N is low. That driving stops when another instruction comes is the model's choice (assumption log 69). -/
def Obligations.ResetBallAndTap : Prop :=
  (∀ s : State, 2 ≤ modeCode s.pkg.mode → Runs .resetNAssert s fun t =>
      t.pkg.mode = .reset ∧ t.pkg.cause = 3 ∧ t.pkg.changing = false ∧ t.pkg.resetReleased = false ∧ t.eng = {} ∧ t.lanes = [] ∧ t.st = {}
        ∧ t.mv = {} ∧ t.host = {} ∧ t.ev = {} ∧ t.mo = {} ∧ t.cd = {} ∧ t.ad = {} ∧ t.hm = {} ∧ t.fs = {} ∧ t.rd = {}
        ∧ t.boot.rollback = s.boot.rollback ∧ t.cal.seconds = s.cal.seconds ∧ t.cal.valid = s.cal.valid)
  ∧ (∀ (s : State) src p, s.pkg.resetReleased = false → s.pkg.mode = .reset → s.pkg.mainOk = true →
      s.pkg.needsLow = false ∨ (∃ n, s.pkg.lowSince = some n ∧ n + 10000 ≤ s.clock) → Runs (.resetNRelease src p) s fun t =>
      t.pkg.mode = .boot ∧ t.pkg.resetReleased = true ∧ t.boot.bootSrc = src ∧ t.boot.bootPort = p % 8
        ∧ t.boot.stage = (if src then 6 else 0) ∧ t.boot.releasedAt = s.clock
        ∧ t.pkg.masterPort = (if p % 8 < tiles s then p % 8 else 0)
        ∧ (s.cal.valid = true → t.time.now = calendarTime s ∧ t.time.calSeeded = true) ∧ (s.cal.valid = false → t.time = s.time))
  ∧ (∀ (s : State) src p, s.pkg.resetReleased = false → s.pkg.needsLow = true → (∀ n, s.pkg.lowSince = some n → s.clock < n + 10000) →
      s.boot.tap ≠ .other → Runs (.resetNRelease src p) s fun t => t = { s with pkg := { s.pkg with resetReleased := true, needsLow := true } })
  ∧ (∀ (s : State), modeCode s.pkg.mode < 2 → Runs .mainSuppliesValid s fun t => t.pkg.needsLow = s.pkg.resetReleased)
  ∧ (∀ (s : State) src p, s.pkg.resetReleased = true → Runs (.resetNRelease src p) s fun t => t = s)
  ∧ (∀ s : State, s.boot.tapDrives = false → Runs (.tapInstruction .idcode) s fun t =>
      t = { s with boot := { s.boot with tap := .idcode }, out := s.out ++ [.tdo (idcode s)] })
  ∧ (∀ (s : State) sample preload, s.boot.tapDrives = false → Runs (.tapInstruction (.samplePreload sample preload)) s fun t =>
      t = { s with boot := { s.boot with tap := .samplePreload, boundary := preload }, out := s.out ++ [.boundaryScan sample] })
  ∧ (∀ (s : State) drives, s.boot.tapDrives = false → s.pkg.resetReleased = true → Runs (.tapInstruction (.other drives)) s fun t =>
      t = { s with boot := { s.boot with tap := .bypass } })
  ∧ (∀ s : State, s.boot.tapDrives = false → s.pkg.resetReleased = false → Runs (.tapInstruction (.other true)) s fun t =>
      t = { s with boot := { s.boot with tap := .other, tapDrives := true }, out := s.out ++ [.boundaryDrives s.boot.boundary] })
  ∧ (∀ (s : State) r, s.boot.tapDrives = true → r = .bypass ∨ r = .reset → Runs (.tapInstruction r) s fun t =>
      t.boot.tapDrives = false ∧ t.out = s.out ++ [.boundaryReleased])

/-- R352, R355: the boot loader, the boot configuration and the microcode are tried in their order, with their stages and results. -/
def Obligations.BootLoadsLoaderAndMicrocode : Prop :=
  (∀ copy img s, inBoot s = true → s.boot.stage = 0 → copy = b2n s.boot.loaderFailed → flashResult s 5 copy img = 1 →
      Runs (.bootLoaderLoad copy img) s fun t => t.boot.stage = 1 ∧ t.boot.romLoader = false ∧ (slotOfFlash t 5).state = 1)
  ∧ (∀ img s, inBoot s = true → s.boot.stage = 0 → s.boot.loaderFailed = false → flashResult s 5 0 img ≠ 1 →
      Runs (.bootLoaderLoad 0 img) s fun t => t.boot.stage = 0 ∧ t.boot.loaderFailed = true ∧ (slotOfFlash t 5).state = 2)
  ∧ (∀ img s, inBoot s = true → s.boot.stage = 0 → s.boot.loaderFailed = true → flashResult s 5 1 img ≠ 1 →
      Runs (.bootLoaderLoad 1 img) s fun t => t.boot.stage = 1 ∧ t.boot.romLoader = true)
  ∧ (∀ a b s, inBoot s = true → s.boot.confRead = false → s.boot.stage = 1 → Runs (.bootConfigLoad a b) s fun t =>
      t.boot.stage = 2 ∧ t.boot.confRead = true
        ∧ (copyPasses s 0 (areaConf s 0 a) = false → copyPasses s 1 (areaConf s 1 b) = false → t.boot.conf = {} ∧ t.boot.configDefault = true)
        ∧ (copyPasses s 0 (areaConf s 0 a) = true → copyPasses s 1 (areaConf s 1 b) = false →
            t.boot.configCopy = 0 ∧ t.boot.confSeq = confSeqOf (areaConf s 0 a))
        ∧ (copyPasses s 0 (areaConf s 0 a) = false → copyPasses s 1 (areaConf s 1 b) = true →
            t.boot.configCopy = 1 ∧ t.boot.confSeq = confSeqOf (areaConf s 1 b)))
  ∧ (∀ slot img s, inBoot s = true → s.boot.stage = 2 →
      (nextSlot s.boot.conf.microcode1 s.boot.m0Result s.boot.m1Result).map (2 + ·) = some slot →
      flashResult s slot 0 img = 1 → Runs (.microcodeLoad slot img) s fun t =>
        t.boot.stage = 3 ∧ t.boot.microcode = slot - 2 ∧ t.boot.microcodeVersion = le (areaImage s slot 0 img).header 8 4
          ∧ t.boot.microcodeSent = some s.clock)
  ∧ (∀ slot img s, inBoot s = true → s.boot.stage = 2 →
      (nextSlot s.boot.conf.microcode1 s.boot.m0Result s.boot.m1Result).map (2 + ·) = some slot →
      flashResult s slot 0 img ≠ 1 → Runs (.microcodeLoad slot img) s fun t =>
        t.boot.stage = 2 ∧ (if slot = 2 then t.boot.m0Result else t.boot.m1Result) = flashResult s slot 0 img)

/-- R29, R352, R354: Alfel starts from the image that passes, the golden image after both have failed; BOOT ends in READY (SAFE with the
golden image) when tile 0 is trained and every other tile is trained or out; a tile that fails to train goes out, tile 0 stops the boot. -/
def Obligations.BootStartsAlfelAndEnds : Prop :=
  (∀ slot img s, inBoot s = true → s.boot.stage = 3 → nextSlot s.boot.conf.primaryB s.boot.aResult s.boot.bResult = some slot →
      isTrained s 0 = false → flashResult s slot 0 img = 1 → Runs (.alfelLoad slot img) s fun t =>
        t.boot.stage = 4 ∧ t.boot.image = slot ∧ t.boot.alfelStarted = true)
  ∧ (∀ slot img s, inBoot s = true → s.boot.stage = 3 → nextSlot s.boot.conf.primaryB s.boot.aResult s.boot.bResult = some slot →
      flashResult s slot 0 img ≠ 1 → Runs (.alfelLoad slot img) s fun t =>
        t.boot.stage = 3 ∧ (if slot = 0 then t.boot.aResult else t.boot.bResult) = flashResult s slot 0 img)
  ∧ (∀ o m a s, goldenDue s = true → flashResult s 4 0 { o with parts := [m, a] } = 1 → Runs (.goldenLoad o m a) s fun t =>
      t.boot.stage = 4 ∧ t.boot.image = 2 ∧ t.boot.microcode = 2 ∧ t.boot.goldenResult = 1)
  ∧ (∀ o m a s, goldenDue s = true → flashResult s 4 0 { o with parts := [m, a] } ≠ 1 → Runs (.goldenLoad o m a) s fun t =>
      t.boot.stage = 6 ∧ t.boot.goldenResult = flashResult s 4 0 { o with parts := [m, a] })
  ∧ (∀ p n s, inBoot s = true → s.boot.microcodeSent = some n → s.clock < n + 850 * ms → serving s p = true → isTrained s p = false →
      s.boot.stage ≠ 7 → s.boot.alfelStarted = false → Runs (.tileTrained p) s fun t =>
        isTrained t p = true ∧ tget false t.time.locked p = true ∧ t.pkg.mode = .boot)
  ∧ (∀ n s, inBoot s = true → s.boot.microcodeSent = some n → s.clock < n + 850 * ms → serving s 0 = true → isTrained s 0 = false →
      s.boot.stage ≠ 7 → s.boot.alfelStarted = true → (∀ p, p ≠ 0 → p < tiles s → isTrained s p = true ∨ service s p = .outOfService) →
      Runs (.tileTrained 0) s fun t => t.pkg.mode = (if s.boot.image = 2 then .safe else .ready))
  ∧ (∀ n s, inBoot s = true → s.boot.microcodeSent = some n → n + 850 * ms ≤ s.clock → serving s 0 = true → isTrained s 0 = false →
      Runs (.tileTrainTimeout 0) s fun t => t = { s with boot := { s.boot with stage := 7 } })
  ∧ (∀ p n s, p ≠ 0 → inBoot s = true → s.boot.microcodeSent = some n → n + 850 * ms ≤ s.clock → serving s p = true →
      isTrained s p = false → Runs (.tileTrainTimeout p) s fun t => service t p = .outOfService)

/-- R350, R353, R358 to R360, R10: the firmware commands: FW_QUERY reports, FW_WRITE reads the image from the host and waits, its end leaves
the slot's entry as the check of the area just written found it, FW_VERIFY checks the area in use again and a check that fails changes
nothing, FW_SELECT writes a new configuration copy, FW_ROLLBACK_ADVANCE changes what it names, and no area reaches the board area. The
model's choices here: a failed program leaves STATE 2 with RESULT 2 and a torn area, and FW_VERIFY that fails leaves the entry (assumption
log 67); the number of fuses blown by a failed FW_ROLLBACK_ADVANCE is free (assumption log 89). -/
def Obligations.FirmwareCommandsComplete : Prop :=
  (∀ c s, Accepted opFwQuery c s → Answers (.fwQuery c) 0x0F01 c s fun a t =>
      t = s ∧ le a.result 0 4 = bootReg s 0 % 2 ^ 32 ∧ le a.result 8 1 = s.boot.rollback % 256)
  ∧ (∀ c s, Accepted opFwWrite c s → Runs (.fwWrite c) s fun t =>
      t.boot = { s.boot with flashWrite := some (par c 0 1, s.eng.nextWait), flashLen := par c 4 4 }
        ∧ t.out = (eraseHeader (par c 0 1) (writtenCopy s (par c 0 1)) (readRequests c.port (par c 8 8) (par c 4 4) s)).out
        ∧ (∃ w, t.eng.waiting = s.eng.waiting ++ [w] ∧ w.cmd = c ∧ keyFlash ∈ w.keys))
  ∧ (∀ img conf s slot id, s.boot.flashWrite = some (slot, id) → Runs (.fwWriteDone img conf false) s fun t =>
      t.boot.flashWrite = none ∧ (slotOfFlash t slot).state = 2 ∧ (slotOfFlash t slot).result = 2 ∧ writtenArea s slot ∈ t.boot.torn)
  ∧ (∀ img conf s slot id, s.boot.flashWrite = some (slot, id) → Runs (.fwWriteDone img conf true) s fun t =>
      t.boot.flashWrite = none ∧ (writtenArea s slot ∉ t.boot.torn)
        ∧ Out.flashProgram (areaOffset slot (writtenCopy s slot)) (min s.boot.flashLen flashBlock) ∈ t.out
        ∧ (slot ≠ 6 → slotOfFlash t slot = (checkSlot (storeImage slot (writtenCopy s slot) img { s with boot := { s.boot with
            flashWrite := none } }) slot (writtenCopy s slot) img conf).2)
        ∧ (slot = 6 → slotOfFlash t slot = (checkSlot (storeConf (writtenCopy s slot) (withSeq (nextSeq s) conf) { s with boot := { s.boot with
            flashWrite := none } }) slot (writtenCopy s slot) img conf).2
          ∧ (confResult (withSeq (nextSeq s) conf) = 1 → t.boot.confSeq = nextSeq s ∧ t.boot.flashConf = writtenCopy s slot)))
  ∧ (∀ c img conf s, Accepted (opFwVerify img conf) c s → (checkSlot s (par c 0 1) (usedCopy s (par c 0 1)) img conf).1 = 1 →
      Answers (.fwVerify c img conf) 0x0F03 c s fun a t =>
        t = { s with boot := t.boot, out := t.out }
          ∧ t.boot = (setSlot (par c 0 1) (checkSlot s (par c 0 1) (usedCopy s (par c 0 1)) img conf).2 s).boot
          ∧ a.result = entryBytes (checkSlot s (par c 0 1) (usedCopy s (par c 0 1)) img conf).2)
  ∧ (∀ c img conf s, Accepted (opFwVerify img conf) c s → (checkSlot s (par c 0 1) (usedCopy s (par c 0 1)) img conf).1 ≠ 1 →
      Runs (.fwVerify c img conf) s fun t => t = answer 0x0F03 c
        { status := imageStatus (checkSlot s (par c 0 1) (usedCopy s (par c 0 1)) img conf).1 } s)
  ∧ (∀ c s, Accepted opFwSelect c s → Answers (.fwSelect c) 0x0F04 c s fun a t =>
      t = { s with boot := t.boot, eng := t.eng, out := t.out } ∧ t.boot.conf.primaryB = decide (par c 0 1 = 1)
        ∧ t.boot.conf.microcode1 = decide (par c 1 1 = 1) ∧ t.boot.confSeq = (s.boot.confSeq + 1) % 2 ^ 32
        ∧ t.boot.flashConf = writtenCopy s 6
        ∧ areaConf t (writtenCopy s 6) [] = selectConf s.boot.confBytes (nextSeq s) (par c 0 1) (par c 1 1)
        ∧ a.result = leBytes 4 ((s.boot.confSeq + 1) % 2 ^ 32) ∧ t.eng.configGen = nextGen s.eng.configGen)
  ∧ (∀ c ok s, Accepted (opFwRollbackAdvance ok) c s → (par c 0 1 = s.boot.rollback ∨ ok = true) →
      Answers (.fwRollbackAdvance c ok) 0x0F05 c s fun a t =>
        t = { s with boot := { s.boot with rollback := par c 0 1 } } ∧ le a.result 0 1 = par c 0 1 % 256 ∧ s.boot.rollback ≤ par c 0 1)
  ∧ (∀ c s, Accepted (opFwRollbackAdvance false) c s → par c 0 1 ≠ s.boot.rollback →
      Runs (.fwRollbackAdvance c false) s fun t => ∃ k, s.boot.rollback ≤ k ∧ k < par c 0 1
        ∧ t = answer 0x0F05 c { status := .eHwFault } { s with free := s.free + 1, boot := { s.boot with rollback := k } })
  ∧ (∀ slot copy, slot ≤ 6 → copy ≤ 1 → areaOffset slot copy + slotBytes slot ≤ 0x9800000)

/-- R356, R357: host boot: the mailbox runs the packet whose address it holds, for the port that owns the block; FW_PUSH reads and takes
an image, or a configuration for this boot, that passes its checks and refuses one that does not; FW_START starts the pushed Alfel. -/
def Obligations.HostBootTakesImages : Prop :=
  (∀ p packet img conf s, p < tiles s → memoryServed (portOf s p) = true → goRefusal s p = none →
      Runs (.mailboxGo p p packet img conf) s fun t => t = runPacket (packetOp packet) (packetLen packet) (parsePacket p 8 packet) img conf true
        { s with boot := { s.boot with mailbox := tmod {} s.boot.mailbox p fun b => { b with state := 1, code := .ok } } })
  ∧ (∀ p packet img conf s code, p < tiles s → memoryServed (portOf s p) = true → goRefusal s p = some code →
      Runs (.mailboxGo p p packet img conf) s fun t => t = refuseGo p code s)
  ∧ (∀ p b packet img conf s, p < tiles s → memoryServed (portOf s p) = true → p ≠ b →
      Runs (.mailboxGo p b packet img conf) s fun t => t = ignoreWrite p s)
  ∧ (∀ c img conf s, Accepted (opFwPush img conf) c s → par c 0 1 = 2 → imageResult s 2 (pushBytes 2) img.toImageCheck = 1 →
      Answers (.fwPush c img conf) 0x0F10 c s fun a t =>
        t.boot = { s.boot with pushedAlfel := true, alfel := imageEntry 1 img.toImageCheck }
            ∧ a.result = entryBytes (imageEntry 1 img.toImageCheck))
  ∧ (∀ c img conf s, Accepted (opFwPush img conf) c s → par c 0 1 = 3 → imageResult s 3 (pushBytes 3) img.toImageCheck = 1 →
      Answers (.fwPush c img conf) 0x0F10 c s fun _ t =>
        t.boot.pushedMicro = true ∧ t.boot.microcode = 3 ∧ t.boot.microcodeSent = some s.clock)
  ∧ (∀ c img conf s, Accepted (opFwPush img conf) c s → par c 0 1 ≠ 5 → imageResult s (par c 0 1) (pushBytes (par c 0 1)) img.toImageCheck ≠ 1 →
      Runs (.fwPush c img conf) s fun t => t = answer 0x0F10 c
        { status := imageStatus (imageResult s (par c 0 1) (pushBytes (par c 0 1)) img.toImageCheck) } (readRequests c.port (par c 8 8) (par c 4 4) s))
  ∧ (∀ c img conf s, Accepted (opFwPush img conf) c s → par c 0 1 = 5 → confResult conf = 1 →
      Answers (.fwPush c img conf) 0x0F10 c s fun a t => t.boot.conf = (confOf s conf).1 ∧ t.boot.recordError = (confOf s conf).2
        ∧ t.boot.configDefault = false ∧ t.boot.confRead = true ∧ t.boot.flashConfs = s.boot.flashConfs ∧ t.boot.confSeq = s.boot.confSeq
        ∧ a.result = entryBytes (confEntry 1 (confSeqOf conf) (confLen conf)))
  ∧ (∀ c img conf s, Accepted (opFwPush img conf) c s → par c 0 1 = 5 → confResult conf ≠ 1 →
      Runs (.fwPush c img conf) s fun t => t = answer 0x0F10 c { status := imageStatus (confResult conf) }
        (readRequests c.port (par c 8 8) (par c 4 4) s))
  ∧ (∀ c s, Accepted opFwStart c s → isTrained s 0 = false → Answers (.fwStart c) 0x0F11 c s fun _ t =>
      t = { s with boot := { s.boot with image := 3, alfel := s.boot.alfel, alfelStarted := true, stage := 4 } })

/-! ### Host accesses, commands and handles -/

/-- R6, R33, R34, R57, R225, R228: a read of a _LO register captures its pair; a _HI write commits the 64-bit value whose low half was
staged; reserved parts of CONTROL ignore and count writes, as do writes with byte enables that are not contiguous; a COMPAT access of a valid
entry is the CONTROL or STORE access it stands for. That a write with some byte enables keeps the other bytes as they read is the model's
choice (assumption log 85). -/
def Obligations.HostAccessesReachRegisters : Prop :=
  (∀ p v s, p < tiles s → memoryServed (portOf s p) = true → Runs (.registerWrite p 0x200010 ⟨v, 15⟩) s fun t =>
      t = { s with eng := { s.eng with opinfoSel := v.toNat % 65536 } })
  ∧ (∀ p off v s, p < tiles s → memoryServed (portOf s p) = true → 0x8000000 ≤ off → Runs (.registerWrite p off ⟨v, 15⟩) s fun t =>
      t = ignoreWrite p s)
  ∧ (∀ p off v s, p < tiles s → memoryServed (portOf s p) = true → Runs (.registerWrite p off ⟨v, 0⟩) s (· = s)
      ∧ Runs (.hiWriteCommit p off ⟨v, 0⟩) s (· = s))
  ∧ (∀ p off v be s, p < tiles s → memoryServed (portOf s p) = true → contiguous be = false →
      Runs (.registerWrite p off ⟨v, be⟩) s (· = ignoreWrite p s) ∧ Runs (.hiWriteCommit p off ⟨v, be⟩) s (· = ignoreWrite p s))
  ∧ (∀ p v be s, p < tiles s → memoryServed (portOf s p) = true → contiguous be = true → be ≠ 0 → be ≠ 15 →
      tget? s.host.stagedLo (portKey p 0x200010) = none → Runs (.registerWrite p 0x200010 ⟨v, be⟩) s fun t =>
        t = { s with eng := { s.eng with opinfoSel := (v &&& enabledBits be ||| word s.eng.opinfoSel &&& ~~~enabledBits be).toNat % 65536 } })
  ∧ (∀ p v s, p < tiles s → memoryServed (portOf s p) = true → (blockOfPort s p).state ≠ 1 →
      Runs (.registerWrite p (0x200100 + 0x40 * p) ⟨v, 15⟩) s fun t =>
        t = { s with host := { s.host with stagedLo := tput s.host.stagedLo (portKey p (0x200100 + 0x40 * p)) v } })
  ∧ (∀ p hi lo s, p < tiles s → memoryServed (portOf s p) = true → (blockOfPort s p).state ≠ 1 →
      tget? s.host.stagedLo (portKey p (0x200100 + 0x40 * p)) = some lo → Runs (.hiWriteCommit p (0x200104 + 0x40 * p) ⟨hi, 15⟩) s fun t =>
        blockOfPort t p = { blockOfPort s p with cqBase := (hi.toNat * 2 ^ 32 + lo.toNat) / 64 * 64 }
          ∧ t.host.stagedLo = tdel s.host.stagedLo (portKey p (0x200100 + 0x40 * p)))
  ∧ (∀ p off s, p < tiles s → memoryServed (portOf s p) = true → off % 4 = 0 → off < 0x4800000 → isLo s off = true →
      tget? s.host.captured (portKey p off) = none → Runs (.loReadCapture p off) s fun t =>
        t = { s with
          out := s.out ++ [.completion p (regValue s off)]
          host := { s.host with capturedHi := tput s.host.capturedHi (portKey p (off + 4)) (word (regValue s (off + 4))) } })
  ∧ (∀ p off v s, p < tiles s → memoryServed (portOf s p) = true → off % 4 = 0 → off < 0x800000 → isLo s off = false →
      tget? s.host.captured (portKey p off) = none → tget? s.host.capturedHi (portKey p off) = some v →
      Runs (.loReadCapture p off) s fun t =>
        t = { s with out := s.out ++ [.completion p v.toNat], host := { s.host with capturedHi := tdel s.host.capturedHi (portKey p off) } })
  ∧ (∀ p (v : U32) s, p < tiles s → memoryServed (portOf s p) = true → s.pkg.mode = .test → isMaster s p = true → commandsRun s = true →
      v.toNat ≤ 60000 → Runs (.testFieldWrite p 0x200018 v) s fun t => t.eng.orphanGraceMs = v.toNat ∧ t.out = s.out)
  ∧ (∀ p v s, p < tiles s → memoryServed (portOf s p) = true → s.pkg.mode ≠ .test → Runs (.testFieldWrite p 0x200018 v) s fun t =>
      t = ignoreWrite p s)
  ∧ (∀ p s, p < tiles s → memoryServed (portOf s p) = true → Runs (.controlMalformedAccess p false) s fun t => t = ignoreWrite p s)
  ∧ (∀ p s, p < tiles s → memoryServed (portOf s p) = true → Runs (.controlMalformedAccess p true) s fun t =>
      t.out = s.out ++ errorMessages (portOf s p) p 15 ++ [.completerAbort p]
        ∧ (portOf t p).aerUncor = (portOf s p).aerUncor ||| 0x8000 ∧ (detOf t p 0x12).count = (detOf s p 0x12).count + 1
        ∧ (tget {} t.host.counters p).caReturned = (tget {} s.host.counters p).caReturned + 1)
  ∧ (∀ p off w be s, p < tiles s → off < 0x10000000 → memoryServed (portOf s p) = true → s.boot.conf.compatEnable = true →
      (tget {} (portOf s p).compatActive (off / 0x400000)).valid = true → (tget {} (portOf s p).compatActive (off / 0x400000)).store = false →
      Runs (.compatAccess p off ⟨4, some w, be⟩) s fun t =>
        exec (.registerWrite p ((tget {} (portOf s p).compatActive (off / 0x400000)).offset + off % 0x400000) ⟨w, be⟩) s = .next t)
  ∧ (∀ p off n w be s, p < tiles s → off < 0x10000000 → memoryServed (portOf s p) = true → s.boot.conf.compatEnable = true →
      (tget {} (portOf s p).compatActive (off / 0x400000)).valid = false → Runs (.compatAccess p off ⟨n, w, be⟩) s fun t =>
        t = (if w.isSome then countInvalid p s
          else emit (if n = 4 then .completion p 0 else .readData p (zeros n)) (countInvalid p s)))
  ∧ (∀ p off n be s, p < tiles s → off < 0x10000000 → memoryServed (portOf s p) = true → s.boot.conf.compatEnable = true →
      (tget {} (portOf s p).compatActive (off / 0x400000)).valid = true → (tget {} (portOf s p).compatActive (off / 0x400000)).store = true →
      Runs (.compatAccess p off ⟨n, none, be⟩) s fun t =>
        t = storeRead p ((tget {} (portOf s p).compatActive (off / 0x400000)).offset + off % 0x400000) n s)
  ∧ (∀ p off n w be s, p < tiles s → off < 0x10000000 → memoryServed (portOf s p) = true → s.boot.conf.compatEnable = true →
      (tget {} (portOf s p).compatActive (off / 0x400000)).valid = true → (tget {} (portOf s p).compatActive (off / 0x400000)).store = true →
      Runs (.compatAccess p off ⟨n, some w, be⟩) s fun t => t = ignoreWrite p s)

/-- R9, R32, R35, R37, R53, R56, R209, R210, R214, R313: a slot visit takes the lower ports and queues first; the engine takes the
packet at the head of a command queue and runs its opcode; a doorbell of each type of queue, written by its owner, moves that
queue's count; a host write to a queue of another port is ignored. Which queues a slot still reaches, that COMMAND_TAKE of another one changes
nothing, and when CE_SLOT_COUNT counts are the model's choice (assumption log 31). -/
def Obligations.QueuesCarryCommands : Prop :=
  (∀ p n packet img conf ok s v o, n ≤ 7 → slotReaches (p * 8 + n) s = true → queue? s (cmdQueue p n) = some v →
      mayTake s p n v packet = true →
      packetLen packet ≤ 4096 → findOp img conf ok (packetOp packet) = some o → Runs (.commandTake p n packet img conf ok) s fun t =>
        t = runOp o (parsePacket p n packet) (taken p n packet v s))
  ∧ (∀ p n packet img conf ok s v, n ≤ 7 → slotReaches (p * 8 + n) s = true → queue? s (cmdQueue p n) = some v →
      mayTake s p n v packet = true →
      packetLen packet ≤ 4096 → findOp img conf ok (packetOp packet) = none → headerBad (parsePacket p n packet) = none →
      Runs (.commandTake p n packet img conf ok) s fun t => t = answer (packetOp packet) (parsePacket p n packet) { status := .eOpcode }
        (taken p n packet v s))
  ∧ (∀ p n packet img conf ok s, commandsRun s = false ∨ slotReaches (p * 8 + n) s = false →
      Runs (.commandTake p n packet img conf ok) s fun t => t = s)
  ∧ (∀ p q n s v, ownsQueue s p q = true → queue? s q = some v → v.qtype = .command → Runs (.cmdQueueDoorbell p q n) s fun t =>
      t = putQueue q { v with host := n, state := .running } s)
  ∧ (∀ p q n s v, ownsQueue s p q = true → queue? s q = some v → v.qtype = .reply → (n - v.dev).toInt ≤ 0 →
      Runs (.replyQueueDoorbell p q n) s fun t => t = flushQueue p (q % 2048 - 8) (putQueue q (consume n v) s))
  ∧ (∀ p q n s v, ownsQueue s p q = true → queue? s q = some v → v.qtype = .reply → 0 < (n - v.dev).toInt →
      Runs (.replyQueueDoorbell p q n) s fun t => t = putQueue q { v with dbRejects := v.dbRejects + 1 } s)
  ∧ (∀ p q n s v, ownsQueue s p q = true → queue? s q = some v → v.qtype = .completion ∨ v.qtype = .event → (n - v.dev).toInt ≤ 0 →
      Runs (.cplQueueDoorbell p q n) s fun t => t = putQueue q { v with host := n } s)
  ∧ (∀ p q n s v, ownsQueue s p q = true → queue? s q = some v → v.qtype = .completion ∨ v.qtype = .event → 0 < (n - v.dev).toInt →
      Runs (.cplQueueDoorbell p q n) s fun t => t = putQueue q { v with dbRejects := v.dbRejects + 1 } s)
  ∧ (∀ p q n s v, ownsQueue s p q = true → queue? s q = some v → v.qtype = .buffer ∨ v.qtype = .management →
      Runs (.chainQueueDoorbell p q n) s fun t => t.mv.queues = tput s.mv.queues q (chainDoorbell n v)
        ∧ (chainDoorbell n v).host = n ∧ t = { s with mv := t.mv })
  ∧ (∀ p q n s, ownsQueue s p q = false → Runs (.cmdQueueDoorbell p q n) s (· = ignoreWrite p s)
      ∧ Runs (.replyQueueDoorbell p q n) s (· = ignoreWrite p s) ∧ Runs (.chainQueueDoorbell p q n) s (· = ignoreWrite p s)
      ∧ Runs (.cplQueueDoorbell p q n) s (· = ignoreWrite p s) ∧ Runs (.dbMaskWrite p q true) s (· = ignoreWrite p s))
  ∧ (∀ p q s v, ownsQueue s p q = true → queue? s q = some v → Runs (.dbMaskWrite p q true) s fun t =>
      t = putQueue q { v with mask := true } s)
  ∧ (∀ p q s v, ownsQueue s p q = true → queue? s q = some v → v.mask = false → Runs (.dbMaskWrite p q false) s fun t =>
      t = s)
  ∧ (∀ p q s v, ownsQueue s p q = true → queue? s q = some v → v.mask = true → v.heldMessage = false →
      v.irqEn = false ∨ v.unsignalled = 0 → Runs (.dbMaskWrite p q false) s fun t => t = putQueue q { v with mask := false } s)
  ∧ (∀ p q s v, ownsQueue s p q = true → queue? s q = some v → v.mask = true → v.heldMessage = true →
      v.qtype = .reply →
      Runs (.dbMaskWrite p q false) s fun t =>
        t = signalVector (queueOwner s q) (queueOwner s q) v.vector
          (putQueue q { v with unsignalled := 0, heldMessage := false, mask := false } s))

/-- R43, R45 to R51: a destruction raises the slot's generation and removes the object; HANDLE_QUERY, HANDLE_LIST, HANDLE_DESTROY, ADOPT and
ORPHAN_GRACE_SET do what they say; at their deadline only handles still orphaned are destroyed. That HANDLE_LIST's COUNT is the number
listed is the model's choice (assumption log 62). -/
def Obligations.HandlesAreKept : Prop :=
  (∀ k s, tsorted 0 s.eng.objs = true → obj? (dropObj k s) k = none ∧ genOf (dropObj k s) k = (if genOf s k ≥ 255 then 1 else genOf s k + 1)
      ∧ ∀ j, j ≠ k → obj? (dropObj k s) j = obj? s j ∧ genOf (dropObj k s) j = genOf s j)
  ∧ (∀ c s o, Accepted opHandleQuery c s → obj? s (tslot c) = some o → Answers (.handleQuery c) 0x0120 c s fun a t =>
      t = s ∧ le a.result 0 4 = tgt c % 2 ^ 32 ∧ le a.result 4 1 = o.owner % 256 ∧ le a.result 8 4 = o.gen.toNat)
  ∧ (∀ c s, Accepted opHandleDestroy c s → slotKind (tslot c) ≠ 6 → Answers (.handleDestroy c) 0x0121 c s fun a t =>
      t = destroyOne (tslot c) s ∧ a.gen = (obj? s (tslot c)).map (·.gen))
  ∧ (∀ c s, Accepted opHandleDestroy c s → slotKind (tslot c) = 6 → running (chanOf s (targetChan c)) = false →
      Answers (.handleDestroy c) 0x0121 c s fun _ t => t = freeReservation (chanObjSlot (targetChan c)) s)
  ∧ (∀ c s o, Accepted opAdopt c s → par c 0 1 = 0 → obj? s (tslot c) = some o → slotKind (tslot c) ≠ 6 →
      Answers (.adopt c) 0x0122 c s fun a t =>
        t = { s with eng := { s.eng with
            objs := tput s.eng.objs (tslot c) { o with owner := c.port, orphaned := false, deadline := 0, deadlineNs32 := 0 } } }
          ∧ a.result = leBytes 4 1 ++ leBytes 4 (handleOf s (tslot c)))
  ∧ (∀ c s, Accepted opAdopt c s → par c 0 1 = 1 → Answers (.adopt c) 0x0122 c s fun a t =>
      t = (orphansOf s (par c 1 1)).foldl (adoptOne c.port) s ∧ le a.result 0 4 = (orphansOf s (par c 1 1)).length % 2 ^ 32)
  ∧ (∀ c s, Accepted opOrphanGraceSet c s → Answers (.orphanGraceSet c) 0x0123 c s fun a t =>
      t.eng.orphanGraceMs = par c 0 4 ∧ t = { s with eng := t.eng } ∧ a.result = leBytes 4 s.eng.orphanGraceMs
        ∧ t.eng.configGen = (if s.eng.orphanGraceMs = par c 0 4 then s.eng.configGen else nextGen s.eng.configGen))
  ∧ (∀ c s, Accepted opHandleList c s → Answers (.handleList c) 0x0124 c s fun a t =>
      t = s ∧ le a.result 0 4 = min 1022 (handlesAfter s (par c 0 1) (par c 4 4) (par c 1 1 == 1)).length)
  ∧ (∀ s, (∀ k o, (k, o) ∈ s.eng.objs → o.orphaned = false ∨ s.clock < o.deadline) → Runs .orphanDeadline s fun t => t = s)
  ∧ (∀ s, Runs .orphanDeadline s fun t => t = destroyAll (fun _ o => o.orphaned && decide (o.deadline ≤ s.clock)) s)

/-! ### Host ports -/

/-- R1, R173, R224, R227, R229, R230, R231: configuration requests, the size of STORE, COMPAT commits, STORE reads, the unmasking of a
vector and the clearing of INTx status. -/
def Obligations.HostSettingsTakeEffect : Prop :=
  (∀ p s, p < tiles s → s.boot.conf.compatEnable = true → (∀ n, n < 64 → compatFits s p (tget {} (portOf s p).compatStage n) = true) →
      Runs (.compatCommit p) s fun t => portOf t p = { portOf s p with
        refused := false, compatActive := (portOf s p).compatStage, commits := (portOf s p).commits + 1 })
  ∧ (∀ p n s, p < tiles s → s.boot.conf.compatEnable = true → n < 64 → compatFits s p (tget {} (portOf s p).compatStage n) = false →
      (∀ m, m < n → compatFits s p (tget {} (portOf s p).compatStage m) = true) →
      Runs (.compatCommit p) s fun t => portOf t p = { portOf s p with refused := true, badIndex := n })
  ∧ (∀ p code s, p < tiles s → (portOf s p).memSpace = false → 10 ≤ code → code ≤ 19 → Runs (.storeResize p code) s fun t =>
      (portOf t p).barSize = code ∧ ((portOf s p).barSize ≠ code → ∀ m ∈ t.fs.maps, m.port ≠ p)
        ∧ ((portOf s p).barSize = code → t = s))
  ∧ (∀ p code s, p < tiles s → (portOf s p).memSpace = true → Runs (.storeResize p code) s fun t => t = ignoreWrite p s)
  ∧ (∀ p off n s, memoryServed (portOf s p) = true → off + n ≤ storeSize s p → 0 < n → (∀ m ∈ s.fs.maps, m.port ≠ p) →
      Runs (.storeRead p off n) s fun t => t = (aligned 128 off (zeros n)).foldl (fun s x => emit (.readData p x.2) s)
        { s with fs := { s.fs with unmapped := tmod 0 s.fs.unmapped p (· + 1) } })
  ∧ (∀ p off n s, memoryServed (portOf s p) = false ∨ storeSize s p < off + n → Runs (.storeRead p off n) s fun t =>
      t = if (portOf s p).dlActive then unsupportedRequest p s else s)
  ∧ (∀ p s, p < tiles s → (portOf s p).dlActive = true → cfgReady s p = true → Runs (.configRequest p 0 none) s fun t =>
      t = { s with out := s.out ++ [.completion p (0xD5E7 + 65536 * partDevice s.part)] })
  ∧ (∀ p off w s, p < tiles s → off < 4096 → (portOf s p).dlActive = true → cfgReady s p = false → Runs (.configRequest p off w) s fun t =>
      t = { s with out := s.out ++ [.retry p] })
  ∧ (∀ p v s, p < tiles s → (portOf s p).dlActive = true → cfgReady s p = true → Runs (.configRequest p 4 (some ⟨v, 15⟩)) s fun t =>
      (portOf t p).memSpace = bit v.toNat 1 ∧ (portOf t p).busMaster = bit v.toNat 2 ∧ (portOf t p).intDisable = bit v.toNat 10)
  ∧ (∀ p off v s, p < tiles s → cfgReady s p = true → Runs (.configRequest p off (some ⟨v, 0⟩)) s fun t => t = s)
  ∧ (∀ p v s, p < tiles s → v < 2048 → (portOf s p).msixEnable = true → (portOf s p).functionMask = false →
      (tget {} s.host.vectors (p * 2048 + v)).pending = true → connected s (tget {} s.host.vectors (p * 2048 + v)).via = true →
      Runs (.msixUnmask p v) s fun t =>
        t.out = s.out ++ [.msix (tget {} s.host.vectors (p * 2048 + v)).via p v]
          ∧ tget {} t.host.vectors (p * 2048 + v) = { tget {} s.host.vectors (p * 2048 + v) with masked := false, pending := false })
  ∧ (∀ p v s, p < tiles s → v < 2048 → connected s (tget {} s.host.vectors (p * 2048 + v)).via = false → bestRoute s p p = none →
      Runs (.msixUnmask p v) s fun t => t.out = s.out
        ∧ tget {} t.host.vectors (p * 2048 + v) = { tget {} s.host.vectors (p * 2048 + v) with masked := false })
  ∧ (∀ p v s, p < tiles s → v < 2048 → (tget {} s.host.vectors (p * 2048 + v)).pending = false → Runs (.msixUnmask p v) s fun t =>
      t.out = s.out ∧ tget {} t.host.vectors (p * 2048 + v) = { tget {} s.host.vectors (p * 2048 + v) with masked := false })
  ∧ (∀ p r v s, p < tiles s → r < 64 → Runs (.intxStatusClear p r v) s fun t =>
      tget 0 t.host.intx (p * 64 + r) = tget 0 s.host.intx (p * 64 + r) &&& ~~~v
        ∧ (intxPending t p = false → (portOf t p).intaAsserted = false)
        ∧ ((portOf s p).intaAsserted = false → t.out = s.out))

/-- R223, R235, R238 to R243: links of host ports train, fail and are held; the three resets; a held port that is not connected at its
deadline is given up; a route moves to its new port, each producer leaving the old one with a zero-length read of its own. That a second loss
while the port is held keeps the first deadline is the model's choice (assumption log 56), as is that ROUTE_MOVED and the new route come before
the producers' own boundaries (assumption log 85). -/
def Obligations.HostLinksFailAndReturn : Prop :=
  (∀ p flit rate width s, p < tiles s → serving s p = true → 3 ≤ modeCode s.pkg.mode → (portOf s p).dlActive = false → 1 ≤ rate → rate ≤ 6 →
      width ∈ [1, 4, 8, 16] → (rate = 6 → flit = true) → Runs (.portLinkUp p flit rate width) s fun t =>
        (portOf t p).dlActive = true ∧ (portOf t p).flit = flit ∧ (portOf t p).rate = rate ∧ (portOf t p).width = width)
  ∧ (∀ p saved s, p < tiles s → (portOf s p).dlActive = true → Runs (.portLinkDown p saved) s fun t =>
      (portOf t p).dlActive = false ∧ (portOf t p).lost = true 
        ∧ (portOf t p).holdDeadline = (if (portOf s p).lost then (portOf s p).holdDeadline else s.clock + s.eng.orphanGraceMs * ms)
        ∧ (portOf t p).busMaster = false ∧ (portOf t p).memSpace = false
        ∧ (tget {} t.host.counters p).linkLosses = (tget {} s.host.counters p).linkLosses + 1
        ∧ t.eng.objs = s.eng.objs)
  ∧ (∀ p saved s, p < tiles s → (portOf s p).dlActive = true → (∀ c, c ≠ p → connected s c = false) →
      Runs (.portLinkDown p saved) s fun t => tget [] t.host.savedReads p = tget [] s.host.savedReads p ++ requestsOut s p
        ∧ tget [] t.host.saved p = within128k 131072 (tget [] s.host.saved p ++ saved))
  ∧ (∀ p saved s, (portOf s p).dlActive = false → Runs (.portLinkDown p saved) s fun t => t = s)
  ∧ (∀ p s, p < tiles s → connected s p = false → Runs (.portConnectedChange p) s fun t => t.eng = s.eng
      ∧ t = (groupPorts (reroute (unpin p s)) p).foldl (fun s o => sendAllPending o s) (reroute (unpin p s)))
  ∧ (∀ p s, p < tiles s → connected s p = true → Runs (.portConnectedChange p) s fun t =>
      (portOf t p).lost = false ∧ tget [] t.host.saved p = [] ∧ tget [] t.host.savedReads p = [])
  ∧ (∀ p s, (portOf s p).lost = true → (portOf s p).holdDeadline ≤ s.clock → connected s p = false → tsorted 0 s.host.saved = true →
      Runs (.holdDeadline p) s fun t => (portOf t p).lost = false ∧ tget? t.host.saved p = none)
  ∧ (∀ p s, s.clock < (portOf s p).holdDeadline → Runs (.holdDeadline p) s fun t => t = s)
  ∧ (∀ p s, p < tiles s → Runs (.perst p) s fun t => (portOf t p).dlActive = false ∧ (portOf t p).busMaster = false
      ∧ (portOf t p).lost = false ∧ (portOf t p).aerCor = 0 ∧ (portOf t p).aerUncor = 0 ∧ (portOf t p).barSize = s.boot.conf.storeCode)
  ∧ (∀ p s, p < tiles s → Runs (.hotReset p) s fun t => (portOf t p).dlActive = false ∧ (portOf t p).busMaster = false
      ∧ (portOf t p).lost = false ∧ (portOf t p).aerCor = 0 ∧ (portOf t p).aerUncor = 0 ∧ (portOf t p).barSize = s.boot.conf.storeCode)
  ∧ (∀ p s, p < tiles s → Runs (.functionLevelReset p) s fun t => (portOf t p).dlActive = (portOf s p).dlActive
      ∧ (portOf t p).flrSince = some s.clock ∧ (portOf t p).busMaster = false ∧ (portOf t p).aerCor = (portOf s p).aerCor
      ∧ (portOf t p).aerUncor = (portOf s p).aerUncor)
  ∧ (∀ p s, (portOf s p).flrSince.isSome = true → Runs (.flrDone p) s fun t => (portOf t p).flrSince = none
      ∧ (portOf t p).dlActive = (portOf s p).dlActive)
  ∧ (∀ p t₀ q s, tget? s.host.routesDue (p * 8 + t₀) = some q → Runs (.routeMoveToward p t₀) s fun t =>
      routeOf t p t₀ = q ∧ t.out = s.out ∧ (routeOf s p t₀ ≠ q → ∀ k ∈ producersOf s p t₀, tget? s.host.behind k = none →
        tget? t.host.behind k = some (routeOf s p t₀) ∧ (leaveRoute k t).out = s.out ++ [.read (routeOf s p t₀) 0 0]))

/-- R232 to R234, R236, R237: timeouts and late completions, the errors of a port and their detectors, and Precision Time Measurement.
The AER bit numbers are PCI Express's (PRESUMED, assumption log 19). That a measurement is two PTM_DIALOGUE_DONE commands, and that D is half of
the first dialogue's round trip less the responder's time, is the model's choice (assumption log 56). -/
def Obligations.HostErrorsAndTimeMeasurement : Prop :=
  (∀ p n q s, (requestsOut s p)[n]? = some (.command q) → Runs (.completionTimeout p n) s fun t =>
      (tget {} t.host.counters p).cplTimeouts = (tget {} s.host.counters p).cplTimeouts + 1
        ∧ (tget {} t.host.counters p).descRetries = (tget {} s.host.counters p).descRetries + 1
        ∧ (detOf t p 0x12).count = (detOf s p 0x12).count + 1 ∧ t.mv = s.mv)
  ∧ (∀ p s, p < tiles s → Runs (.lateCompletion p) s fun t =>
      (tget {} t.host.counters p).lateCompletions = (tget {} s.host.counters p).lateCompletions + 1
        ∧ (portOf t p).aerCor = (portOf s p).aerCor ||| BitVec.ofNat 32 (2 ^ 13))
  ∧ (∀ p e b h s, p < tiles s → (e, b) ∈ correctableErrors → Runs (.pcieRxError p e h) s fun t =>
      (portOf t p).aerCor = (portOf s p).aerCor ||| BitVec.ofNat 32 (2 ^ b) ∧ (detOf t p 0x11).count = (detOf s p 0x11).count + 1
        ∧ t.out = s.out ++ (if (portOf s p).aerCorMask.getLsbD b || !reports (portOf s p) 0 false then [] else [.errMessage p 0 (32 + b)]))
  ∧ (∀ p e d b h s, p < tiles s → (e, d, b) ∈ uncorrectableErrors →
      (e = .ecrc → (tget 0 (portOf s p).otherCfg 0x118).getLsbD 8 = true) → Runs (.pcieRxError p e h) s fun t =>
      (portOf t p).aerUncor = (portOf s p).aerUncor ||| BitVec.ofNat 32 (2 ^ b) ∧ (detOf t p d).count = (detOf s p d).count + 1
        ∧ t.out = s.out ++ errorMessages (portOf s p) p b)
  ∧ (∀ p h s, (tget 0 (portOf s p).otherCfg 0x118).getLsbD 8 = false → Runs (.pcieRxError p .ecrc h) s fun t => t = s)
  ∧ (∀ p s, ptmRuns s p = true → (portOf s p).ptm.busy = false → (portOf s p).ptm.lastPeriod + 10 * ms ≤ s.clock → Runs (.ptmPeriod p) s fun t =>
      (portOf t p).ptm = { (portOf s p).ptm with
        lastPeriod := s.clock, busy := true, second := false, t1 := s.time.now, startedAt := s.clock, byInput := false }
            ∧ t.out = s.out ++ [.ptmRequest p])
  ∧ (∀ p n e u s, serving s p = true → ptmRuns s p = true → takeInput p 648 n s = some (e, u) → Runs (.ptmNow p n) s fun t =>
      (portOf t p).ptm = { (portOf s p).ptm with
        busy := true, second := false, t1 := s.time.now, startedAt := s.clock, byInput := true } ∧ t.ev = u.ev)
  ∧ (∀ p h k s, ptmRuns s p = true → (portOf s p).ptm.busy = true → (portOf s p).ptm.second = false →
      s.clock ≤ (portOf s p).ptm.startedAt + 10 * us → Runs (.ptmDialogueDone p h k) s fun t =>
        (portOf t p).ptm = { (portOf s p).ptm with
          roundTrip := s.time.now - (portOf s p).ptm.t1, second := true, t1 := s.time.now, startedAt := s.clock }
        ∧ t.out = s.out ++ [.ptmRequest p])
  ∧ (∀ p h k d s, ptmRuns s p = true → (portOf s p).ptm.busy = true → (portOf s p).ptm.second = true →
      linkDelay (portOf s p).ptm.roundTrip k = d → s.clock ≤ (portOf s p).ptm.startedAt + 10 * us →
      Runs (.ptmDialogueDone p h k) s fun t => (portOf t p).ptm.busy = false ∧ (portOf t p).ptm.valid = true
        ∧ (portOf t p).ptm.seq = (portOf s p).ptm.seq + 1 ∧ (portOf t p).ptm.h = h.toNat ∧ (portOf t p).ptm.d = d
        ∧ (portOf t p).ptm.pNs = timeNs ((portOf s p).ptm.t1 + d * 65536) ∧ (portOf t p).ptm.pSec = timeSec ((portOf s p).ptm.t1 + d * 65536))
  ∧ (∀ p s, (portOf s p).ptm.busy = true → (portOf s p).ptm.startedAt + 10 * us ≤ s.clock → Runs (.ptmResponseTimeout p) s fun t =>
      portOf t p = { portOf s p with ptm := { (portOf s p).ptm with busy := false } })
  ∧ (∀ p q s, q < tiles s → Runs (.ptmStatusRead p q) s fun t => t.out = s.out ++ [.completion p (ptmReg s q 0)]
      ∧ tget? t.host.captured (portKey p (heBlock q + 0x204)) = some (word (portOf s q).ptm.pNs))

/-! ### Queues and the mover -/

/-- R208, R210 to R215, R219, R123: the queue commands; descriptor reads that park, run on or stop a chain queue; entries, anchors and
messages when they are due. That QUEUE_DESTROY answers at once is the model's choice (assumption log 35), and so is that QUEUE_RESTART sets
the device count to POSITION (assumption log 37). -/
def Obligations.QueuesServeTheirOwners : Prop :=
  (∀ c s, Accepted opQueueCreate c s → ∃ i, createIndex s c = some i ∧ Answers (.queueCreate c) 0x0801 c s fun a t =>
      queue? t (par c 0 1 * 2048 + i) = some (newQueue c s) ∧ obj? t (slotOf 2 (par c 0 1) i) = some { owner := c.port }
        ∧ a.handle = some (handleOf s (slotOf 2 (par c 0 1) i))
        ∧ a.result = leBytes 4 (par c 0 1 * 2048 + i) ++ leBytes 4 (0x0100000 + (par c 0 1 * 2048 + i) * 64))
  ∧ (∀ c s v, Accepted opQueueConfig c s → queue? s (queueOfHandle (tgt c)) = some v → Answers (.queueConfig c) 0x0802 c s fun _ t =>
      ∃ w, queue? t (queueOfHandle (tgt c)) = some w ∧ w.vector = par c 2 2 ∧ w.coalCount = par c 4 2 ∧ w.coalUs = par c 6 2
        ∧ w.prio = par c 8 1 ∧ w.irqEn = bit (par c 0 2) 2 ∧ w.base = v.base ∧ w.dev = v.dev)
  ∧ (∀ c s, Accepted opQueueDestroy c s → Answers (.queueDestroy c) 0x0803 c s fun a t =>
      t = destroyQueue (tslot c) s ∧ a.gen = (obj? s (tslot c)).map (·.gen))
  ∧ (∀ c s v, Accepted opQueueQuery c s → queue? s (queueOfHandle (tgt c)) = some v → Answers (.queueQuery c) 0x0804 c s fun a t =>
      t = s ∧ a.result = queueView s (queueOfHandle (tgt c)) v)
  ∧ (∀ c s v, Accepted opQueueRestart c s → queue? s (queueOfHandle (tgt c)) = some v → Answers (.queueRestart c) 0x0805 c s fun _ t =>
      t = putQueue (queueOfHandle (tgt c)) (restartQueue (par c 0 4) v) s)
  ∧ (∀ q b s v x, queue? s q = some v → mayRead s q v = some x → v.state ≠ .parked →
      badDescriptor s q v (le b 0 8) (le b 8 4) = none → bit (le b 12 2) 0 = true → Runs (.descriptorRead q b) s fun t =>
        t = putQueue q { v with
          dev := BitVec.ofNat 32 (x + 1), state := .parked, park := x, runOn := false
          ready := v.ready ++ [{ position := x, addr := le b 0 8, len := le b 8 4, cookie := le b 16 8 }] } s)
  ∧ (∀ q b s v x, queue? s q = some v → mayRead s q v = some x → v.state ≠ .parked →
      badDescriptor s q v (le b 0 8) (le b 8 4) = none → bit (le b 12 2) 0 = false →
      signed 32 (x + 1 + 2 ^ 32 - v.host.toNat) < v.size → Runs (.descriptorRead q b) s fun t =>
        ∃ w, queue? t q = some w ∧ w.state = .running ∧ w.nextPos = (x + 1) % 2 ^ 32 ∧ w.dev = BitVec.ofNat 32 (x + 1)
          ∧ w.ready = v.ready ++ [{ position := x, addr := le b 0 8, len := le b 8 4, cookie := le b 16 8 }])
  ∧ (∀ q b s v x code, queue? s q = some v → mayRead s q v = some x → v.state ≠ .parked →
      badDescriptor s q v (le b 0 8) (le b 8 4) = some code → queueLive s v.notify .completion = false → Runs (.descriptorRead q b) s fun t =>
        queue? t q = some { v with
          state := .stopped, stopCode := code, stopCause := 3, park := x % 2 ^ 32, stopping := false, reread := false, runOn := false })
  ∧ (∀ q s v, queue? s q = some v → held s q = false → v.irqEn = true → 0 < v.unsignalled → v.unsigSince + v.coalUs * us ≤ s.clock →
      v.mask = false → Runs (.coalesceTimer q) s fun t => t = signalVector (routeOf s (queueOwner s q) (q / 2048)) (queueOwner s q) v.vector
        (putQueue q { v with unsignalled := 0 } s))
  ∧ (∀ q s, held s q = true → Runs (.coalesceTimer q) s fun t => t = s)
  ∧ (∀ q s v e, queue? s q = some v → v.qtype = .completion ∨ v.qtype = .event → held s q = false → timeAnchorDue s v = false →
      positionDue s q v = none → v.pendingEntries = [e] → e.kind = .event → e.after = .nothing → spare s q < unreserved v →
      Runs (.pendingEntryWrite q) s fun t => t = putEntry q e.tile e.bytes (putQueue q { v with pendingEntries := [] } s))
  ∧ (∀ q s v, queue? s q = some v → v.qtype = .completion ∨ v.qtype = .event → held s q = false → v.anchorDue ≤ s.clock → 0 < unreserved v →
    queueInterfaces s q = [] → v.pendingEntries = [] →
      Runs (.timeAnchorDue q) s fun t => ∃ w, queue? t q = some w ∧ w.anchorSeq = v.anchorSeq + 1 ∧ w.anchorDue = s.clock + s.st.anchorMs * ms
        ∧ w.anchored = true ∧ w.dev = v.dev + 1)
  ∧ (∀ s u rest v, s.mv.mgmt = u :: rest → queue? s u.queue = some v → held s u.queue = false → Runs .mgmtWriteback s fun t =>
      t.mv.mgmt = rest ∧ ∃ w, queue? t u.queue = some w ∧ w.inUse = v.inUse - 1)

/-- R195 to R207, R216: reservations, starts, credits, completion and abort of raw mover runs, and live deliveries. That a start
clears the credits and that a rejected run has RESIDUE = COUNT is the model's choice (assumption log 54). -/
def Obligations.MoverRunsAndReservations : Prop :=
  (∀ c s, Accepted opMvReserve c s → ∃ n, reserveIndex s (par c 0 1) (bit (par c 1 1) 0) = some n ∧
      Answers (.mvReserve c) 0x0810 c s fun a t =>
        chanOf t (par c 0 1 * 512 + n) = { state := .idle, raw := true, steady := bit (par c 1 1) 0, owner := c.port }
          ∧ obj? t (slotOf 6 (par c 0 1) n) = some { owner := c.port } ∧ a.handle = some (handleOf s (slotOf 6 (par c 0 1) n))
          ∧ a.result = leBytes 2 n ++ zeros 2)
  ∧ (∀ c s, Accepted opMvRelease c s → running (chanOf s (targetChan c)) = false → Answers (.mvRelease c) 0x0811 c s fun _ t =>
      t = freeReservation (chanObjSlot (targetChan c)) s)
  ∧ (∀ c s, Accepted opMvRelease c s → running (chanOf s (targetChan c)) = true → Runs (.mvRelease c) s fun t =>
      (chanOf t (targetChan c)).release = some s.eng.nextWait ∧ heldKey t (tslot c) = true)
  ∧ (∀ c s, Accepted opMvQuery c s → Answers (.mvQuery c) 0x0812 c s fun a t =>
      t = s ∧ a.result = windowBytes (chanReg s (targetChan c)) 16)
  ∧ (∀ c s, Accepted opMvAbort c s → running (chanOf s (targetChan c)) = false → Answers (.mvAbort c) 0x0813 c s fun a t =>
      t = s ∧ a.result = leBytes 4 0)
  ∧ (∀ c s, Accepted opMvAbort c s → running (chanOf s (targetChan c)) = true → Runs (.mvAbort c) s fun t =>
      (chanOf t (targetChan c)).waits = (chanOf s (targetChan c)).waits ++ [s.eng.nextWait]
        ∧ ((chanOf s (targetChan c)).abort = none → (chanOf s (targetChan c)).state ≠ .displaced → (chanOf t (targetChan c)).state = .ending))
  ∧ (∀ p g s, ownsChan s p g = true → goFirst g s = s → running (chanOf s g) = false →
      startFail s (chanOf s g) (chanOf s g).regs = none → Runs (.mvStart p g) s fun t =>
        chanOf t g = { chanOf s g with
          run := (chanOf s g).regs, startedAt := s.clock, stillborn := false, state := if (chanOf s g).regs.pace then .waiting else .issuing, moved := 0, credits := 0
          code := .ok, cause := 0, residue := 0, abort := none, flushing := false, silent := false }
        ∧ t = { s with mv := t.mv, host := t.host, out := t.out }
        ∧ ((chanOf s g).regs.pace = true ∨ (chanOf s g).steady = true → t = leaveRoute (chanProducer g) (putChan g (chanOf t g) s)))
  ∧ (∀ p g s st, ownsChan s p g = true → goFirst g s = s → running (chanOf s g) = false → startFail s (chanOf s g) (chanOf s g).regs = some st →
      (chanOf s g).regs.statusEn = false → (chanOf s g).release = none → Runs (.mvStart p g) s fun t =>
        (chanOf t g).state = .idle ∧ (chanOf t g).code = st ∧ (chanOf t g).cause = 5 ∧ (chanOf t g).residue = (chanOf s g).regs.count)
  ∧ (∀ p g s, ownsChan s p g = false → Runs (.mvStart p g) s (· = ignoreWrite p s) ∧ Runs (.mvAbortBit p g) s (· = ignoreWrite p s))
  ∧ (∀ p g s, ownsChan s p g = true → goFirst g s = s → running (chanOf s g) = true → (chanOf s g).abort = none →
      (chanOf s g).state ≠ .ending → Runs (.mvAbortBit p g) s fun t => t = putChan g { chanOf s g with
        abort := some 1, state := if (chanOf s g).state = .displaced then .displaced else .ending } s)
  ∧ (∀ g n s e u, serving s (g / 512) = true → (chanOf s g).state = .idle → (chanOf s g).raw = true → (chanOf s g).regs.pace = false →
      takeInput (g / 512) (g % 512) n s = some (e, u) → startFail s (chanOf s g) (chanOf s g).regs = none → Runs (.goInput g n) s fun t =>
        (chanOf t g).state = .issuing ∧ (chanOf t g).run = (chanOf s g).regs ∧ t.ev = u.ev)
  ∧ (∀ g n s, serving s (g / 512) = true → (chanOf s g).state = .waiting → (chanOf s g).raw = true → (chanOf s g).run.pace = true →
      (tget {} s.ev.inputs (inputKey (g / 512) (g % 512))).waiting ≠ [] → Runs (.goInput g n) s fun t =>
        (chanOf t g).state = .issuing ∧ (chanOf t g).credits = min 65535 ((chanOf s g).credits
          + ((tget {} s.ev.inputs (inputKey (g / 512) (g % 512))).waiting.take (max n 1)).length))
  ∧ (∀ g src s, (chanOf s g).raw = true → (chanOf s g).state = .issuing → connected s (runVia s g) = true → (chanOf s g).run.pace = false →
      runCovered s g (chanOf s g) = true → tget? s.host.behind (chanProducer g) = none →
          nextBurst (chanOf s g) = (chanOf s g).run.count - (chanOf s g).moved →
      runAhead s (g / 512) (turnKey s (g / 512) (g % 512) (chanOf s g).run.prio (chanOf s g).steady) = none →
      (chanOf s g).abort = none → (chanOf s g).run.pack = false →
      (chanOf s g).moved < (chanOf s g).run.count → (chanOf s g).run.srcSpace = 2 → (chanOf s g).run.flushRead = false →
      (chanOf s g).run.statusEn = false → (chanOf s g).release = none → (chanOf s g).waits = [] → Runs (.moverRunComplete g src) s fun t =>
        (chanOf t g).state = .idle ∧ (chanOf t g).moved = (chanOf s g).run.count ∧ (chanOf t g).code = .ok ∧ (chanOf t g).residue = 0
          ∧ t.out = s.out ++ [.write (runVia s g) ((chanOf s g).run.dst + (chanOf s g).moved)
            ((chanOf s g).run.relaxed && (portOf s (runVia s g)).relaxedEnable)
            (runBytes s (chanOf s g) src (chanOf s g).moved ((chanOf s g).run.count - (chanOf s g).moved))])
  ∧ (∀ g src s cause, (chanOf s g).abort = some cause → (chanOf s g).run.statusEn = false → (chanOf s g).release = none →
      (chanOf s g).state ≠ .displaced → (chanOf s g).run.flushRead = false ∨ (chanOf s g).moved = 0 →
      Runs (.moverAbortDone g 0 src) s fun t => (chanOf t g).state = .idle ∧ (chanOf t g).cause = cause
        ∧ (chanOf t g).residue = (chanOf s g).run.count - (chanOf s g).moved)
  ∧ (∀ g b s, (chanOf s g).raw = true → (chanOf s g).flushing = true → (chanOf s g).run.statusEn = false → (chanOf s g).release = none →
      Runs (.flushReadDone false g b) s fun t => (chanOf t g).state = .idle ∧ (chanOf t g).code = flushedCode (chanOf s g) b
        ∧ ((chanOf s g).flushCode = .ok → flushedCode (chanOf s g) b = if b then .eTimeout else .ok)
        ∧ (chanOf t g).cause = (chanOf s g).cause ∧ (chanOf t g).residue = (chanOf s g).residue)
  ∧ (∀ g f d u s, (channelOf s g).frames.find? (fun f => f.deliver && !f.dropped && !f.delivering && !f.delivered) = some f →
      f.tagged = true → serving s (g / 64) = true → queueLive s f.set.layout.bufQueue .buffer = true →
      queueLive s f.set.layout.cplQueue .completion = true → creditCovers s (g / 64) (firstBurst f) = true →
      takeBuffer s f.set.layout.bufQueue f.set.layout.cplQueue = some (d, u) → Runs (.frameDeliveryStart g) s fun t =>
        t.mv.deliveries = s.mv.deliveries ++ [{
          tile := g / 64, channel := g % 64, frame := f.seq, bufQueue := queueOfHandle f.set.layout.bufQueue
          cplQueue := queueOfHandle f.set.layout.cplQueue, desc := d }])
  ∧ (∀ g f d s, liveDelivery s g = some d → frameOf s g d.frame = some f → f.tagged = true → d.tagWritten = false →
    (frameData f).length ≤ d.desc.len - 128 →
      Runs (.frameDeliveryComplete g) s fun t => ∃ l, t.out = (writeDelivery d
        (tagRecord (handleOf s (chanSlot g)) f { stored := (frameData f).length }) (frameData f) s).out ++ l)
  ∧ (∀ d tag data s, s.mv.deliveries.find? (sameDelivery d) = some d → d.bytes = 0 → d.segment = 0 → held s d.bufQueue = false →
      connected s (deliveryVia s d) = true → creditBinds s d.tile = false → (∀ g c, (g, c) ∈ s.mv.chans → c.raw = false) →
          (writeDelivery d tag data s).out = s.out
      ++ (aligned 4096 (d.desc.addr + 128) data).map (fun x => .write (deliveryVia s d) x.1 (relaxedOf s d) x.2)
      ++ [.write (deliveryVia s d) d.desc.addr false tag])

/-! ### Lanes -/

/-- R59, R66, R73, R76, R78, R80: the lane commands: LANE_PORT_SET sets a port and its member lanes (a
port whose shape stays keeps those it has), LANE_ENABLE starts and stops it,
LANE_ER_OFFER and LANE_EYE_SCAN wait for their ends, the others answer at once. -/
def Obligations.LaneCommandsComplete : Prop :=
  (∀ c s, Accepted opLanePortSet c s → Answers (.lanePortSet c) 0x0201 c s fun _ t =>
      (laneOf t (par c 0 1)).width = par c 1 1 ∧ (laneOf t (par c 0 1)).phy = par c 2 1 ∧ (laneOf t (par c 0 1)).fec = par c 3 1
        ∧ (laneOf t (par c 0 1)).vlanId = par c 6 2 ∧ (laneOf t (par c 0 1)).ip = par c 16 4 ∧ (laneOf t (par c 0 1)).mask = par c 20 4
        ∧ (laneOf t (par c 0 1)).primary = true ∧ (laneOf t (par c 0 1)).member = false
        ∧ (((laneOf s (par c 0 1)).primary = true → (laneOf s (par c 0 1)).width = par c 1 1 → ∀ j, j < par c 1 1 →
              primaryOf s (par c 0 1 + j) = par c 0 1 ∧ (0 < j → (laneOf s (par c 0 1 + j)).member = true
                  ∧ (laneOf s (par c 0 1 + j)).primary = false))
          → ∀ i, 0 < i → i < par c 1 1 → (laneOf t (par c 0 1 + i)).member = true ∧ (laneOf t (par c 0 1 + i)).primary = false))
  ∧ (∀ c s, Accepted opLanePortQuery c s → Answers (.lanePortQuery c) 0x0202 c s fun a t =>
      t = s ∧ le a.result 0 4 = laneReg s (par c 0 1) 0 % 2 ^ 32 ∧ le a.result 4 4 = laneReg s (par c 0 1) 1 % 2 ^ 32)
  ∧ (∀ c s, Accepted opLaneEnable c s → par c 1 1 = 1 → (laneOf s (par c 0 1)).enabled = false → linkAllowed s (par c 0 1 / 8) = true →
      Answers (.laneEnable c) 0x0203 c s fun _ t =>
        laneOf t (par c 0 1) = startLink s { laneOf s (par c 0 1) with enabled := true } ∧ t.eng.configGen = nextGen s.eng.configGen)
  ∧ (∀ c s, Accepted opLaneEnable c s → par c 1 1 = 0 → (laneOf s (par c 0 1)).enabled = true → Answers (.laneEnable c) 0x0203 c s fun _ t =>
      (laneOf t (par c 0 1)).enabled = false ∧ (laneOf t (par c 0 1)).fast = false ∧ (laneOf t (par c 0 1)).rate = 0
        ∧ (laneOf t (par c 0 1)).link = (if (laneOf s (par c 0 1)).link = .held then .held else .disabled))
  ∧ (∀ c s, Accepted opLaneEnable c s → (par c 1 1 = 1 ↔ (laneOf s (par c 0 1)).enabled = true) → Answers (.laneEnable c) 0x0203 c s fun a t =>
      t = s ∧ le a.result 0 1 = linkCode (laneOf s (par c 0 1)).link)
  ∧ (∀ c s, Accepted opLaneErOffer c s → (laneOf s (par c 0 1)).er.state = .agreed → Answers (.laneErOffer c) 0x0204 c s fun a t =>
      t = s ∧ le a.result 0 1 = 5)
  ∧ (∀ c s, Accepted opLaneErOffer c s → (laneOf s (par c 0 1)).er.state ≠ .agreed → Runs (.laneErOffer c) s fun t =>
      (laneOf t (par c 0 1)).er = { (laneOf s (par c 0 1)).er with state := .pending, wait := some s.eng.nextWait }
        ∧ heldKey t (keyLane (par c 0 1)) = true)
  ∧ (∀ c s, Accepted opLaneMgmtBind c s → Answers (.laneMgmtBind c) 0x0205 c s fun _ t =>
      (laneOf t (par c 0 1)).rxq = par c 4 4 ∧ (laneOf t (par c 0 1)).txq = par c 8 4 ∧ t = { s with lanes := t.lanes, eng := t.eng })
  ∧ (∀ c s, Accepted opLaneCountersClear c s → Answers (.laneCountersClear c) 0x0206 c s fun a t =>
      (∀ k ∈ portLanes s (par c 0 1), laneOf t k = { laneOf s k with counters := {} })
        ∧ (∀ k, k ∉ portLanes s (par c 0 1) → laneOf t k = laneOf s k) ∧ a.result = leBytes 4 (ns32 s).toNat)
  ∧ (∀ c s, Accepted opLaneEyeScan c s → Runs (.laneEyeScan c) s fun t =>
      (laneOf t (par c 0 1)).eye = some { wait := s.eng.nextWait, eye := par c 1 1, dwell := par c 2 1, startNs32 := ns32 s }
        ∧ t.out = s.out)
  ∧ (∀ l cells s e, (laneOf s l).eye = some e → e.done = true → Runs (.eyeScanComplete l cells) s fun t =>
      (laneOf t l).eye = none ∧ (findWait s e.wait = none → t.out = s.out))

/-- R61, R68 to R70, R73, R75, Table 4-2: the link state machine of a port steps at its times; a port that is UP counts and classifies
the frames it receives and sends those of its management queue. -/
def Obligations.LinksComeUpAndCarryFrames : Prop :=
  (∀ l s, (laneOf s l).primary = true → (laneOf s l).link = .an → (laneOf s l).since ≤ s.clock →
      Runs (.anComplete l) s fun t =>
      t = putLane l { laneOf s l with link := .training, since := s.clock } s)
  ∧ (∀ l s, (laneOf s l).primary = true → (laneOf s l).link = .an → (laneOf s l).since + 2000 * ms ≤ s.clock → Runs (.anTimeout l) s fun t =>
      (laneOf t l).link = .retryWait ∧ (laneOf t l).attempts = min 255 ((laneOf s l).attempts + 1) ∧ (laneOf t l).since = s.clock)
  ∧ (∀ l s, s.clock < (laneOf s l).since + 2000 * ms → Runs (.anTimeout l) s fun t => t = s)
  ∧ (∀ l s, (laneOf s l).primary = true → (laneOf s l).link = .training → (laneOf s l).since ≤ s.clock →
      Runs (.trainingComplete l) s fun t =>
      t = putLane l { laneOf s l with link := .locking, since := s.clock } s)
  ∧ (∀ l s, (laneOf s l).primary = true → (laneOf s l).link = .training → (laneOf s l).since ≤ s.clock →
      Runs (.trainingTimeout l) s fun t =>
      (laneOf t l).link = .retryWait ∧ (laneOf t l).attempts = min 255 ((laneOf s l).attempts + 1))
  ∧ (∀ l s, (laneOf s l).primary = true → (laneOf s l).link = .locking → (laneOf s l).since + 50 * ms ≤ s.clock → Runs (.lockTimeout l) s fun t =>
      (laneOf t l).link = .retryWait ∧ (laneOf t l).attempts = min 255 ((laneOf s l).attempts + 1))
  ∧ (∀ l s, (laneOf s l).primary = true → (laneOf s l).link = .locking → (laneOf s l).since + 10 * ms ≤ s.clock → Runs (.linkUp l) s fun t =>
      (laneOf t l).link = .up ∧ (laneOf t l).rate = rateCode (laneOf s l) ∧ (laneOf t l).attempts = 0 ∧ (laneOf t l).since = s.clock)
  ∧ (∀ l s, (laneOf s l).primary = true → (laneOf s l).link = .up → Runs (.linkLoss l false) s fun t =>
      (laneOf t l).link = .retryWait ∧ (laneOf t l).rate = 0
        ∧ ∀ k ∈ portLanes s l, (laneOf t k).counters.linkLosses = (laneOf s k).counters.linkLosses + 1)
  ∧ (∀ l s, (laneOf s l).primary = true → (laneOf s l).link = .retryWait → (laneOf s l).since + 1000 * ms ≤ s.clock →
      Runs (.retryWaitExpiry l) s fun t => t = putLane l (startLink s (laneOf s l)) s)
  ∧ (∀ l on s, (laneOf s l).link = .up → Runs (.remoteFaultChange l on) s fun t => t = putLane l { laneOf s l with remoteFault := on } s)
  ∧ (∀ l b s, (laneOf s l).primary = true → (laneOf s l).link = .up → b.length < 64 → Runs (.rxFrame l b) s fun t =>
      t = countLane l (fun c => { c with rxRunt := c.rxRunt + 1 }) s)
  ∧ (∀ l b s, (laneOf s l).primary = true → (laneOf s l).link = .up → 9600 < b.length → Runs (.rxFrame l b) s fun t =>
      t = countLane l (fun c => { c with rxOversize := c.rxOversize + 1 }) s)
  ∧ (∀ l b s, (laneOf s l).primary = true → (laneOf s l).link = .up → 64 ≤ b.length → b.length ≤ 9600 →
      crc32 (b.take (b.length - 4)) = le b (b.length - 4) 4 → be b 12 2 = 0x88F7 → acceptsMac s l (be b 0 6) = true →
      Runs (.rxFrame l b) s fun t => (laneOf t l).counters.rxFrames = (laneOf s l).counters.rxFrames + 1
        ∧ (laneOf t l).counters.rxBytes = (laneOf s l).counters.rxBytes + BitVec.ofNat 64 b.length
        ∧ (laneOf t l).toTime = (laneOf s l).toTime ++ [{ bytes := b.take (b.length - 4), stamp := rxStamp s l, at_ := s.clock }])
  ∧ (∀ l b s v d rest, queue? s (queueOfHandle (laneOf s l).txq) = some v → queueLive s (laneOf s l).txq .management = true →
      held s (queueOfHandle (laneOf s l).txq) = false → (laneOf s l).link = .up → yields s l 6 = false →
      v.ready = d :: rest → 14 ≤ d.len → d.len ≤ 9596 →
      Runs (.mgmtTxFrame l b) s fun t =>
        t.mv.mgmt = s.mv.mgmt ++ [{ queue := queueOfHandle (laneOf s l).txq, desc := d, result := d.len, status := .ok }]
          ∧ (laneOf t l).counters.txFrames = (laneOf s l).counters.txFrames + 1)

/-- R64 to R66, Table 4-4: the extended-rate exchange of a port from its first OFFER to AGREED, DECLINED, NO_ANSWER or FAILED. The NONCE
is a free value (log entry 6). -/
def Obligations.ExtendedRateExchange : Prop :=
  (∀ l s, (laneOf s l).er.state = .pending → (laneOf s l).link = .up → (laneOf s l).fast = false → yields s l 2 = false →
      max (laneOf s l).since (laneOf s l).dirtyAt + 100 * ms ≤ s.clock → Runs (.erStabilityExpiry l) s fun t =>
        (laneOf t l).er = { (laneOf s l).er with
          state := .offered, nonce := Config.freeNonce s.free, seq := (laneOf s l).er.seq + 1, sent := 1, lastSent := s.clock, firstSent := s.clock }
          ∧ t.free = s.free + 1)
  ∧ (∀ l s, (laneOf s l).link = .up → yields s l 2 = false → (laneOf s l).er.state = .offered → (laneOf s l).er.sent < 10 →
      (laneOf s l).er.lastSent + 10 * ms ≤ s.clock → Runs (.erOfferRepeat l) s fun t =>
        (laneOf t l).er = { (laneOf s l).er with sent := (laneOf s l).er.sent + 1, lastSent := s.clock })
  ∧ (∀ l s, (laneOf s l).link = .up → yields s l 2 = false → (laneOf s l).er.state = .switching → (laneOf s l).er.sent < 3 →
      (laneOf s l).er.lastSent + 100 * us ≤ s.clock → Runs (.erSwitchRepeat l) s fun t =>
        (laneOf t l).er = { (laneOf s l).er with sent := (laneOf s l).er.sent + 1, lastSent := s.clock })
  ∧ (∀ l s, (laneOf s l).link = .up → yields s l 2 = false → (laneOf s l).er.state = .confirming → (laneOf s l).er.sent < 10 →
      (laneOf s l).er.lastSent + 10 * ms ≤ s.clock → Runs (.erConfirmRepeat l) s fun t =>
        (laneOf t l).er = { (laneOf s l).er with sent := (laneOf s l).er.sent + 1, lastSent := s.clock })
  ∧ (∀ l s, (laneOf s l).er.state = .offered → 10 ≤ (laneOf s l).er.sent → (laneOf s l).er.lastSent + 10 * ms ≤ s.clock →
      Runs (.erNoAnswer l) s fun t => (laneOf t l).er.state = .noAnswer ∧ (laneOf t l).er.wait = none)
  ∧ (∀ l s f rest, (laneOf s l).toExchange = f :: rest → (laneOf s l).er.state = .offered → be f.bytes 14 2 = 0x5EB7 → be f.bytes 16 1 = 1 →
      be f.bytes 17 1 = 2 → be f.bytes 18 2 = (laneOf s l).er.seq.toNat → be f.bytes 26 4 = (laneOf s l).er.nonce.toNat →
      bit (be f.bytes 22 4) 1 = true → Runs (.erFrameReceive l) s fun t =>
        (laneOf t l).er.state = .switching ∧ (laneOf t l).er.camRates = be f.bytes 25 1 ∧ (laneOf t l).toExchange = rest)
  ∧ (∀ l s f rest, (laneOf s l).toExchange = f :: rest → (laneOf s l).er.state = .confirming → be f.bytes 14 2 = 0x5EB7 →
      be f.bytes 16 1 = 1 → be f.bytes 17 1 = 5 → be f.bytes 18 2 = (laneOf s l).er.seq.toNat →
      be f.bytes 26 4 = (laneOf s l).er.nonce.toNat → Runs (.erFrameReceive l) s fun t =>
        (laneOf t l).er.state = .agreed ∧ (laneOf t l).er.agreements = min 0xFFFF ((laneOf s l).er.agreements + 1))
  ∧ (∀ l s f rest, (laneOf s l).toExchange = f :: rest → be f.bytes 14 2 ≠ 0x5EB7 → Runs (.erFrameReceive l) s fun t =>
      laneOf t l = { laneOf s l with
        toExchange := rest
        counters := { (laneOf s l).counters with erIgnored := satU 32 ((laneOf s l).counters.erIgnored + 1) } })
  ∧ (∀ l s, (laneOf s l).er.state = .switching → (laneOf s l).fast = false → 0 < (laneOf s l).er.sent →
    (laneOf s l).er.firstSent + 1000 * us ≤ s.clock →
      Runs (.erSwitchDelayExpiry l) s fun t => (laneOf t l).fast = true ∧ (laneOf t l).er.retrainAt = s.clock
        ∧ (laneOf t l).link = (if (laneOf s l).link = .held then .held else if isAui (laneOf s l).phy then .locking else .training))
  ∧ (∀ l s, (laneOf s l).er.state = .switching → (laneOf s l).fast = true → (laneOf s l).link ≠ .up →
      (laneOf s l).er.retrainAt + 500 * ms ≤ s.clock → Runs (.erSwitchTimeout l) s fun t =>
        (laneOf t l).er.state = .failed ∧ (laneOf t l).fast = false ∧ (laneOf t l).er.revertDue = true)
  ∧ (∀ l s, (laneOf s l).er.state = .confirming → (laneOf s l).er.firstSent + 100 * ms ≤ s.clock → Runs (.erConfirmTimeout l) s fun t =>
      (laneOf t l).er.state = .failed ∧ (laneOf t l).fast = false ∧ (laneOf t l).er.revertDue = true)
  ∧ (∀ l s, (laneOf s l).er.state = .agreed → 3 ≤ (laneOf s l).er.failedRetrains → Runs (.erRetrainExhausted l) s fun t =>
      (laneOf t l).er.state = .failed ∧ (laneOf t l).fast = false ∧ (laneOf t l).er.revertDue = true)

/-! ### Streams -/

/-- R81, R82, R103, R107, R108, Table 5-15: the stream commands. -/
def Obligations.StreamCommandsComplete : Prop :=
  (∀ c s, Accepted opStreamPortSet c s → Answers (.streamPortSet c) 0x0301 c s fun _ t =>
      gvcpLocal t (par c 0 1) = par c 2 2 ∧ t = { s with st := t.st, eng := t.eng } ∧ t.st.channels = s.st.channels)
  ∧ (∀ c s, Accepted opStreamSourceSet c s → Answers (.streamSourceSet c) 0x0302 c s fun _ t =>
      tget {} t.st.sources (par c 0 1 * 16 + par c 1 1)
          = { mac := be c.params 4 6, ip := par c 12 4, gvcpPort := par c 10 2, valid := par c 2 1 == 1 }
        ∧ t = { s with st := t.st, eng := t.eng } ∧ t.st.channels = s.st.channels)
  ∧ (∀ c s, Accepted opStreamCreate c s → ∃ i, freeIndex s 1 (par c 0 1 / 8) 0 64 = some i ∧ Answers (.streamCreate c) 0x0310 c s fun a t =>
      a.handle = some (handleOf s (slotOf 1 (par c 0 1 / 8) i)) ∧ obj? t (slotOf 1 (par c 0 1 / 8) i) = some { owner := c.port }
        ∧ channelOf t (par c 0 1 / 8 * 64 + i) = {
            live := true, shadow := { layout := layoutParam c, gen := 1 }, active := { layout := layoutParam c, gen := 1 }
            sent := { layout := layoutParam c, gen := 1 }, lastPacket := s.clock })
  ∧ (∀ c s, Accepted opStreamConfig c s → PerFrame (.streamConfig c) 0x0311 c s (chanOfHandle (tgt c))
      { (channelOf s (chanOfHandle (tgt c))).shadow with layout := layoutParam c })
  ∧ (∀ c s, Accepted opStreamDestroy c s → Answers (.streamDestroy c) 0x0312 c s fun a t =>
      t = destroyChannel (tslot c) s ∧ a.gen = (obj? s (tslot c)).map (·.gen)
        ∧ (channelOf t (slotTile (tslot c) * 64 + slotIndex (tslot c))).live = false
        ∧ (channelOf t (slotTile (tslot c) * 64 + slotIndex (tslot c))).blocks = [])
  ∧ (∀ c s, Accepted opStreamQuery c s → Answers (.streamQuery c) 0x0313 c s fun a t =>
      t = s ∧ a.result.take 64 = layoutBytes (channelOf s (chanOfHandle (tgt c))).shadow.layout)
  ∧ (∀ c s, Accepted opActionSet c s → Answers (.actionSet c) 0x0320 c s fun _ t =>
      tget {} t.st.actions (par c 0 1 * 16 + par c 1 1) = { tget {} s.st.actions (par c 0 1 * 16 + par c 1 1) with
        lane := par c 2 1, dest := par c 3 1, valid := bit (par c 4 1) 0, ackReq := bit (par c 4 1) 1, deviceKey := par c 8 4
        groupKey := par c 12 4, groupMask := par c 16 4, leadNs := par c 20 4 })
  ∧ (∀ c s, Accepted opActionQuery c s → Answers (.actionQuery c) 0x0321 c s fun a t =>
      t = s ∧ a.result = windowBytes (actionReg s (par c 0 1 * 16 + par c 1 1)) 8)

/-- R83 to R97, R101 to R104: a datagram is taken in by the channel that claims it; a leader opens its block, a present position counts
as a duplicate; gaps are requested, requested again and given up at their times; an action command leaves at its send instant. -/
def Obligations.PacketsAndGaps : Prop :=
  (∀ l s, (laneOf s l).toStream = [] → Runs (.gvspPacket l) s fun t => t = s)
  ∧ (∀ l s f rest g, (laneOf s l).toStream = f :: rest → claimant s l (ipOf (f.bytes.drop 14)) = some g → gvspOf f = none →
      Runs (.gvspPacket l) s fun t => (laneOf t l).toStream = rest
        ∧ (channelOf t g).counters.malformed = (channelOf s g).counters.malformed + 1)
  ∧ (∀ l s f rest g p id, (laneOf s l).toStream = f :: rest → claimant s l (ipOf (f.bytes.drop 14)) = some g → gvspOf f = some p →
      malformed (channelOf s g).active.layout.id64 p = false → extendId (channelOf s g) p = some id → (channelOf s g).blocks = [] →
      (channelOf s g).mismatched ≠ some id → (channelOf s g).dropped.contains id = false →
      (∀ k, (channelOf s g).lastClosed = some k → k < id) → (∀ k, (channelOf s g).lastOpened = some k → k < id) →
      opening s (g / 64) = true → p.format = 1 → p.status = 0 →
      leaderOk (channelOf s g).active.layout p.body = true → Runs (.gvspPacket l) s fun t =>
        (laneOf t l).toStream = rest ∧ (channelOf t g).lastOpened = some id ∧ ∃ b, (channelOf t g).blocks = [b] ∧ b.id = id
          ∧ b.leader = some (parseLeader p.body) ∧ b.frame = none ∧ tget? b.positions 0 = some (.present f.stamp [] false))
  ∧ (∀ l s f rest g p id b x y z, (laneOf s l).toStream = f :: rest → claimant s l (ipOf (f.bytes.drop 14)) = some g → gvspOf f = some p →
      malformed (channelOf s g).active.layout.id64 p = false → extendId (channelOf s g) p = some id → b ∈ (channelOf s g).blocks →
      blockOf s g id = some b → b.trailer = none → (∀ k, (channelOf s g).lastClosed = some k → k < id) →
      heldPackets (channelOf s g) < 4096 → p.status = 0 → tget? b.positions p.pid = some (.present x y z) → Runs (.gvspPacket l) s fun t =>
        (channelOf t g).counters.packetsDuplicate = (channelOf s g).counters.packetsDuplicate + 1)
  ∧ (∀ g s b q x, (channelOf s g).blocks = [b] → b.gaps = [(q, x)] → dueRequest s true x = true → caughtUp s g s.clock = true →
      yields s (channelOf s g).active.layout.lane 5 = false → isUp s (channelOf s g).active.layout.lane = true →
          Runs (.resendRequest g) s fun t =>
        (channelOf t g).counters.resendRequests = (channelOf s g).counters.resendRequests + 1
          ∧ (channelOf t g).blocks = [{ b with gaps := [(q, { x with
              requests := passedRequests s x, sent := true, run := some (channelOf s g).counters.resendRequests.toNat })] }])
  ∧ (∀ g s b q x, (channelOf s g).blocks = [b] → b.gaps = [(q, x)] → dueRequest s false x = true → caughtUp s g s.clock = true →
      yields s (channelOf s g).active.layout.lane 5 = false → isUp s (channelOf s g).active.layout.lane = true → Runs (.resendRepeat g) s fun t =>
        (channelOf t g).counters.resendRequests = (channelOf s g).counters.resendRequests + 1
          ∧ (channelOf t g).blocks = [{ b with gaps := [(q, { x with
              requests := passedRequests s x, sent := true, run := some (channelOf s g).counters.resendRequests.toNat })] }])
  ∧ (∀ g s b q at_, (channelOf s g).blocks = [b] → spentGaps s g b = [(q, at_)] → Runs (.giveUpTimer g) s fun t =>
      (channelOf t g).lastClosed = some b.id ∨ ∃ d, (channelOf t g).blocks = [d] ∧ d.id = b.id ∧ tget? d.positions q = some (.givenUp at_))
  ∧ (∀ g s b, (channelOf s g).blocks = [b] → trailerOf (blockSet (channelOf s g) b) b = none → caughtUp s g s.clock = true →
      (channelOf s g).lastPacket + (channelOf s g).active.layout.quietUs * us ≤ s.clock → Runs (.quietTimeout g) s fun t =>
        (channelOf t g).lastClosed = some b.id ∨ ∃ d, (channelOf t g).blocks = [d] ∧ d.id = b.id ∧ d.quiet.isSome = true)
  ∧ (∀ n s due, nextSend (schedOf s n) = some due → (schedOf s n).kind = .action →
      (schedOf s n).state ≠ 0 → serving s (n / 8) = true → due ≤ s.time.now + leadOf s n (schedOf s n) →
      yields s (tget {} s.st.actions (n / 8 * 16 + (schedOf s n).index)).lane 4 = false →
      (tget {} s.st.actions (n / 8 * 16 + (schedOf s n).index)).valid = true →
      (tget {} s.st.actions (n / 8 * 16 + (schedOf s n).index)).dest = 16 ∨ (tget {} s.st.sources ((tget {} s.st.actions (n / 8 * 16
        + (schedOf s n).index)).lane * 16 + (tget {} s.st.actions (n / 8 * 16 + (schedOf s n).index)).dest)).valid = true →
      isUp s (tget {} s.st.actions (n / 8 * 16 + (schedOf s n).index)).lane = true → Runs (.actionSend n) s fun t =>
        (tget {} t.st.actions (n / 8 * 16 + (schedOf s n).index)).sent = (tget {} s.st.actions (n / 8 * 16 + (schedOf s n).index)).sent + 1
          ∧ ((schedOf s n).lateSends = [] → (schedOf t n).armedTo = some due) ∧ (schedOf t n).lateSends = (schedOf s n).lateSends.tail
          ∧ t.out.length = s.out.length + 1)
  ∧ (∀ n s due, nextSend (schedOf s n) = some due → (schedOf s n).kind = .action →
      (schedOf s n).state ≠ 0 → serving s (n / 8) = true → due ≤ s.time.now + leadOf s n (schedOf s n) →
      yields s (tget {} s.st.actions (n / 8 * 16 + (schedOf s n).index)).lane 4 = false →
      (tget {} s.st.actions (n / 8 * 16 + (schedOf s n).index)).valid = false
        ∨ isUp s (tget {} s.st.actions (n / 8 * 16 + (schedOf s n).index)).lane = false
        ∨ ((tget {} s.st.actions (n / 8 * 16 + (schedOf s n).index)).dest ≠ 16 ∧ (tget {} s.st.sources ((tget {} s.st.actions (n / 8 * 16
          + (schedOf s n).index)).lane * 16 + (tget {} s.st.actions (n / 8 * 16 + (schedOf s n).index)).dest)).valid = false) →
      Runs (.actionSend n) s fun t =>
        (tget {} t.st.actions (n / 8 * 16 + (schedOf s n).index)).missed = (tget {} s.st.actions (n / 8 * 16 + (schedOf s n).index)).missed + 1
          ∧ t.out = s.out)

/-! ### Frame assembly -/

/-- R109, R116 to R118, R125, R128: a frame takes its number at its leader, its encoder positions at mid-time, its tag when everything
that the tag says is known; a commit makes its set the active one. -/
def Obligations.FramesAndCommitsComplete : Prop :=
  (∀ g s b l rest, (channelOf s g).blocks = b :: rest → b.frame = none → b.leader = some l → opening s (g / 64) = true →
      Runs (.frameLeader g) s fun t => (channelOf t g).nextFrame = (channelOf s g).nextFrame + 1)
  ∧ (∀ g s b l, (channelOf s g).blocks = [b] → b.frame = none → b.leader = some l → opening s (g / 64) = false →
      Runs (.frameLeader g) s fun t => (channelOf t g).blocks = [] ∧ (channelOf t g).nextFrame = (channelOf s g).nextFrame
        ∧ (channelOf t g).counters.framesDropped = (channelOf s g).counters.framesDropped + 1)
  ∧ (∀ g s, (channelOf s g).blocks = [] → (channelOf s g).frames = [] → Runs (.frameLeader g) s fun t => channelOf t g = channelOf s g)
  ∧ (∀ g s f n p, (channelOf s g).frames = [f] → f.posWaiting = [n] → midTime f.expo f.set ≤ (ns s : Int) →
      service s (slotMi f.set n / 2) = .inService → positionAt s (slotMi f.set n) (midTime f.expo f.set) = some p →
      Runs (.positionAtMidtime g) s fun t => (channelOf t g).frames = [{ f with posWaiting := [], positions := tput f.positions n p }])
  ∧ (∀ g s f n, (channelOf s g).frames = [f] → f.posWaiting = [n] → midTime f.expo f.set ≤ (ns s : Int) →
      service s (slotMi f.set n / 2) = .inService → positionAt s (slotMi f.set n) (midTime f.expo f.set) = none →
      Runs (.positionAtMidtime g) s fun t => (channelOf t g).frames = [{ f with posWaiting := [] }]
        ∧ (channelOf t g).counters.posStale = (channelOf s g).counters.posStale + 1)
  ∧ (∀ g s f, (channelOf s g).frames.find? (fun f => !f.dropped && !f.tagged) = some f → tagReady f = true → Runs (.tagComplete g) s fun t =>
      (channelOf t g).counters.framesTagged = (channelOf s g).counters.framesTagged + 1)
  ∧ (∀ g s f, (channelOf s g).frames.find? (fun f => !f.dropped && !f.tagged) = some f → tagReady f = false → Runs (.tagComplete g) s fun t =>
      t = s)
  ∧ (∀ g s p rest, (channelOf s g).commits = p :: rest → p.at_ = none → p.building = false → serving s (g / 64) = true →
      Runs (.configCommitApplied g) s fun t => (channelOf t g).active = p.set ∧ (channelOf t g).commits = rest
        ∧ (channelOf t g).commitNs32 = ns32 s ∧ (channelOf t g).counters.commits = (channelOf s g).counters.commits + 1
        ∧ (channelOf t g).shadow = (channelOf s g).shadow)
  ∧ (∀ g s p rest a, (channelOf s g).commits = p :: rest → p.at_ = some a → p.building = false → serving s (g / 64) = true → a ≤ s.time.now →
      Runs (.stageCommitAt g) s fun t => (channelOf t g).active = p.set ∧ (channelOf t g).commits = rest ∧ (channelOf t g).staging = false)
  ∧ (∀ g s p rest a, (channelOf s g).commits = p :: rest → p.at_ = some a → s.time.now < a → Runs (.stageCommitAt g) s fun t => t = s)

/-- R111, R123, R126 to R128: FA_CONFIG, the staging commands and ANCHOR_SET. That a channel stays STAGING while a timed commit waits is the
model's choice (assumption log 34). -/
def Obligations.AssemblyCommandsComplete : Prop :=
  (∀ c s, Accepted opFaConfig c s → PerFrame (.faConfig c) 0x0401 c s (chanOfHandle (tgt c))
      { (channelOf s (chanOfHandle (tgt c))).shadow with
        tsMode := par c 0 1, encEn := par c 1 1, slotMi := par c 2 2, exposureNs := par c 4 4
        expoOffsetNs := signed 32 (par c 8 4), leaderLagNs := par c 12 4 })
  ∧ (∀ c s, Accepted opFaQuery c s → Answers (.faQuery c) 0x0402 c s fun a t =>
      t = s ∧ a.result = faView (channelOf s (chanOfHandle (tgt c))))
  ∧ (∀ c s, Accepted opFaStageBegin c s → Answers (.faStageBegin c) 0x0410 c s fun _ t =>
      t = putChannel (chanOfHandle (tgt c)) { channelOf s (chanOfHandle (tgt c)) with staging := true } s)
  ∧ (∀ c s, Accepted opFaStageCommit c s → stageAt c = none → Runs (.faStageCommit c) s fun t =>
      (channelOf t (chanOfHandle (tgt c))).staging = false
        ∧ (channelOf t (chanOfHandle (tgt c))).sent
          = alignRois (channelOf s (chanOfHandle (tgt c))).sent (channelOf s (chanOfHandle (tgt c))).shadow
        ∧ ∃ p, (channelOf t (chanOfHandle (tgt c))).commits = (channelOf s (chanOfHandle (tgt c))).commits ++ [p] ∧ p.at_ = none
          ∧ p.set = alignRois (channelOf s (chanOfHandle (tgt c))).sent (channelOf s (chanOfHandle (tgt c))).shadow
            ∧ p.wait = some s.eng.nextWait)
  ∧ (∀ c s a, Accepted opFaStageCommit c s → stageAt c = some a → s.time.now ≤ a → Runs (.faStageCommit c) s fun t =>
      (channelOf t (chanOfHandle (tgt c))).staging = true ∧ heldKey t (tslot c) = true
        ∧ ∃ p, (channelOf t (chanOfHandle (tgt c))).commits = (channelOf s (chanOfHandle (tgt c))).commits ++ [p] ∧ p.at_ = some a
          ∧ p.set = alignRois (channelOf s (chanOfHandle (tgt c))).sent (channelOf s (chanOfHandle (tgt c))).shadow
            ∧ p.wait = some s.eng.nextWait)
  ∧ (∀ c s o, Accepted opFaStageAbort c s → obj? s (chanSlot (chanOfHandle (tgt c))) = some o → Answers (.faStageAbort c) 0x0412 c s fun _ t =>
      channelOf t (chanOfHandle (tgt c)) = { channelOf s (chanOfHandle (tgt c)) with
          staging := false, shadow := { (channelOf s (chanOfHandle (tgt c))).sent with gen := nextGen o.gen } }
        ∧ obj? t (chanSlot (chanOfHandle (tgt c))) = some { o with gen := nextGen o.gen })
  ∧ (∀ c s, Accepted opAnchorSet c s → Answers (.anchorSet c) 0x0420 c s fun a t =>
      t.st = { s.st with anchorMs := par c 0 4 } ∧ a.result = leBytes 4 s.st.anchorMs
        ∧ t.eng.configGen = (if s.st.anchorMs = par c 0 4 then s.eng.configGen else nextGen s.eng.configGen))

/-! ### The codec -/

/-- R137 to R144, R153, R154, Table 7-11: the codec commands. The values where the source says only 'rounded to nearest' are free
(log entry 9), and CD_CAL_FIT takes its free number from the state. -/
def Obligations.CodecCommandsComplete : Prop :=
  (∀ c s, Accepted opCdConfig c s → PerFrame (.cdConfig c) 0x0501 c s (chanOfHandle (tgt c))
      { (channelOf s (chanOfHandle (tgt c))).shadow with codec := { (channelOf s (chanOfHandle (tgt c))).shadow.codec with
        mode := modeOf (par c 0 1), k := par c 1 1, q := par c 2 1, kmin := par c 3 1, kmax := par c 4 1, targetBytes := par c 6 2 } })
  ∧ (∀ c s, Accepted opCdQuery c s → Answers (.cdQuery c) 0x0502 c s fun a t =>
      t = s ∧ a.result = codecView s (chanOfHandle (tgt c)))
  ∧ (∀ c s, Accepted opCdCalSet c s → PerFrame (.cdCalSet c) 0x0510 c s (chanOfHandle (tgt c))
      (withCal (channelOf s (chanOfHandle (tgt c))).shadow {
        offsetQ4 := par c 0 4, kQ16 := par c 4 4, readQ8 := par c 8 2, id := nextCalId (codecChan s (chanOfHandle (tgt c))).lastCal }))
  ∧ (∀ c s, Accepted opCdCalSample c s → Runs (.cdCalSample c) s fun t =>
      (codecChan t (chanOfHandle (tgt c))).points = (codecChan s (chanOfHandle (tgt c))).points
        ∧ (codecChan t (chanOfHandle (tgt c))).sample = some {
            wait := s.eng.nextWait, dark := bit (par c 0 1) 0, clear := bit (par c 0 1) 1, x0 := par c 2 2, y0 := par c 4 2, w := par c 6 2, h := par c 8 2
            from_ := (channelOf s (chanOfHandle (tgt c))).nextFrame })
  ∧ (∀ c s, Accepted opCdCalFit c s → ∃ x cal, fitResult c s = some (x, cal)
      ∧ (par c 0 1 = 0 → Answers (.cdCalFit c) 0x0512 c s fun a t => t = useFree s
          ∧ a.result = fitView s.free x cal 0 (codecChan s (chanOfHandle (tgt c))).points)
      ∧ (par c 0 1 ≠ 0 → PerFrame (.cdCalFit c) 0x0512 c s (chanOfHandle (tgt c)) (withCal (channelOf s (chanOfHandle (tgt c))).shadow
          { cal with id := nextCalId (codecChan s (chanOfHandle (tgt c))).lastCal })))
  ∧ (∀ c s, Accepted opCdTableRead c s → Answers (.cdTableRead c) 0x0520 c s fun a t => t = s ∧ a.result.take 8
      = leBytes 4 (min 2044 ((tableValues c s).1 - par c 4 4)) ++ leBytes 4 (tableValues c s).1)
  ∧ (∀ c s, Accepted opCdCheckSet c s → Answers (.cdCheckSet c) 0x0530 c s fun a t =>
      t.cd = { s.cd with sampleN := par c 0 2 } ∧ a.result = leBytes 2 s.cd.sampleN ++ zeros 2
        ∧ t.eng.configGen = (if s.cd.sampleN = par c 0 2 then s.eng.configGen else nextGen s.eng.configGen))
  ∧ (∀ c s, Accepted (opCdEngineRestore true) c s → Answers (.cdEngineRestore c true) 0x0531 c s fun a t =>
      (engineOf t (par c 0 1 * 4 + par c 1 1)).suspect = false ∧ (engineOf t (par c 0 1 * 4 + par c 1 1)).escaping = false
        ∧ a.result = leBytes 4 (enginesInUse t (par c 0 1)) ∧ t = { s with cd := t.cd })
  ∧ (∀ c s, Accepted (opCdEngineRestore false) c s →
      Runs (.cdEngineRestore c false) s fun t => t = answer 0x0531 c { status := .eHwFault } s)

/-- R17, R113, R135, R141, R142, R152 to R154: a band passes the codec island, raw or dealt as slices to the engines with the fewest slices; an engine finishes a slice in the form that R144 to R146
give it, or in escape form when its check fails; an engine's backlog and its mismatches change how slices are written. Which slice of SAMPLE_N
is checked is the model's choice (log entry 73); the clauses hold for either answer. -/
def Obligations.SlicesPassTheCodec : Prop :=
  (∀ g s, nextToDeal (channelOf s g).frames = none → Runs (.bandToCodec g) s fun t => t = s)
  ∧ (∀ g s f, nextToDeal (channelOf s g).frames = some f → bandsReady s g f ≤ f.dealt → Runs (.bandToCodec g) s fun t => t = s)
  ∧ (∀ g s f, (channelOf s g).frames = [f] → f.dropped = false → f.lines.length < frameHeight f.leader → f.dealt < bandsReady s g f →
      f.set.codec.mode = .off → f.set.rois = [] → Runs (.bandToCodec g) s fun t =>
        ∃ f' l, (channelOf t g).frames = [f'] ∧ f'.seq = f.seq ∧ f'.dealt = f.dealt + 1 ∧ f'.lines = f.lines ++ l
          ∧ f'.data = f.data ++ l.flatten ∧ f'.slices = f.slices)
  ∧ (∀ g s f, (channelOf s g).frames = [f] → f.dropped = false → f.lines.length < frameHeight f.leader → f.dealt < bandsReady s g f →
      f.set.codec.mode ≠ .off → f.set.rois = [] → (∀ e, e < 4 → (engineOf s (g / 64 * 4 + e)).suspect = false
        ∧ (engineOf s (g / 64 * 4 + e)).escaping = false ∧ (engineOf s (g / 64 * 4 + e)).buffer.length + (placesOf f f.dealt).length ≤ 256) →
      Runs (.bandToCodec g) s fun t => ∃ f', (channelOf t g).frames = [f'] ∧ f'.seq = f.seq ∧ f'.dealt = f.dealt + 1 ∧ f'.data = f.data
        ∧ f'.slices.length = f.slices.length + (placesOf f f.dealt).length
        ∧ ∀ i, i < (placesOf f f.dealt).length → ∃ e, e < 4 ∧ ∃ r ∈ (engineOf t (g / 64 * 4 + e)).buffer,
            r.channel = g ∧ r.frame = f.seq ∧ r.number = f.slicesLeft + f.slices.length + i)
  ∧ (∀ s tile e, pickEngine s tile = some e → e < 4 ∧ (engineOf s (tile * 4 + e)).suspect = false
      ∧ ∀ e', e' < 4 → (engineOf s (tile * 4 + e')).suspect = false →
        (engineOf s (tile * 4 + e)).buffer.length < (engineOf s (tile * 4 + e')).buffer.length
          ∨ ((engineOf s (tile * 4 + e)).buffer.length = (engineOf s (tile * 4 + e')).buffer.length ∧ e ≤ e'))
  ∧ (∀ tile e n m s r f x, ((engineOf s (tile * 4 + e)).buffer.take 16)[n]? = some r → sliceAt s r = some (f, x) →
      (engineOf s (tile * 4 + e)).sampled = true → Runs (.sliceCoded tile e n m) s fun t =>
        (engineOf t (tile * 4 + e)).buffer = (engineOf s (tile * 4 + e)).buffer.eraseIdx n
          ∧ (engineOf t (tile * 4 + e)).slices = (engineOf s (tile * 4 + e)).slices + 1
          ∧ (engineOf t (tile * 4 + e)).checks = (engineOf s (tile * 4 + e)).checks
          ∧ (codecChan t r.channel).slices = (codecChan s r.channel).slices + 1
          ∧ (codecChan t r.channel).codedBytes = (codecChan s r.channel).codedBytes
              + BitVec.ofNat 64 (codeSlice (frameFmt f).bits x.plane (codingOf f.set x.k) x.pixels).2.length)
  ∧ (∀ tile e n s r f x, ((engineOf s (tile * 4 + e)).buffer.take 16)[n]? = some r → sliceAt s r = some (f, x) →
      (engineOf s (tile * 4 + e)).sampled = false → s.cd.sampleN ≤ (engineOf s (tile * 4 + e)).sinceCheck + 1 →
          (codeSlice (frameFmt f).bits x.plane (codingOf f.set x.k) x.pixels).1 ≠ 1 →
      injectionDue s tile 0x0E e = false → r.channel / 64 = tile → Runs (.sliceCoded tile e n false) s fun t =>
        (engineOf t (tile * 4 + e)).checks = (engineOf s (tile * 4 + e)).checks + 1
          ∧ (engineOf t (tile * 4 + e)).sinceCheck = 0
          ∧ (engineOf t (tile * 4 + e)).mismatches = (engineOf s (tile * 4 + e)).mismatches + 1
          ∧ (codecChan t r.channel).slicesEscaped = (codecChan s r.channel).slicesEscaped + 1
          ∧ (codecChan t r.channel).codedBytes = (codecChan s r.channel).codedBytes
              + BitVec.ofNat 64 (escapeSlice (frameFmt f).bits x.plane x.pixels).length)
  ∧ (∀ tile e s a b c, (engineOf s (tile * 4 + e)).suspect = false → (engineOf s (tile * 4 + e)).mismatchAt = [a, b, c] →
      a ≤ c + 1000 * ms → Runs (.engineSuspect tile e) s fun t =>
        (engineOf t (tile * 4 + e)).suspect = true ∧ (engineOf t (tile * 4 + e)).buffer = [])
  ∧ (∀ tile e s, 192 < (engineOf s (tile * 4 + e)).buffer.length → Runs (.codecBacklogHigh tile e) s fun t =>
      engineOf t (tile * 4 + e) = { engineOf s (tile * 4 + e) with escaping := true })
  ∧ (∀ tile e s, (engineOf s (tile * 4 + e)).buffer.length ≤ 192 → Runs (.codecBacklogHigh tile e) s fun t => t = s)
  ∧ (∀ tile e s, (engineOf s (tile * 4 + e)).buffer.length < 64 → Runs (.codecBacklogLow tile e) s fun t =>
      engineOf t (tile * 4 + e) = { engineOf s (tile * 4 + e) with escaping := false })
  ∧ (∀ tile e s, 64 ≤ (engineOf s (tile * 4 + e)).buffer.length → Runs (.codecBacklogLow tile e) s fun t => t = s)
  ∧ (∀ g s p rest, (channelOf s g).commits = p :: rest → p.building = true → Runs (.levelTableBuilt g) s fun t =>
      (channelOf t g).commits = { p with building := false } :: rest)
  ∧ (∀ g s k x y, (codecChan s g).sample = some k → k.pair = some (x, y) → Runs (.calSampleDone g) s fun t =>
      (codecChan t g).sample = none ∧ (codecChan t g).points = (if k.clear then [] else (codecChan s g).points) ++ [pointOf k.dark x y])

/-! ### The frame store -/

/-- R160 to R169, R175, Table 8-12: the commands of rings and segments. -/
def Obligations.RingAndSegmentCommands : Prop :=
  (∀ c s, Accepted opFsRingSet c s → Answers (.fsRingSet c) 0x0601 c s fun a t =>
      (ringOf t (chanOfHandle (tgt c))).target = par c 0 4 ∧ (ringOf t (chanOfHandle (tgt c))).frames.length ≤
        (ringOf s (chanOfHandle (tgt c))).frames.length ∧ a.result = leBytes 4 (ringOf s (chanOfHandle (tgt c))).target
          ++ leBytes 4 (ringOf t (chanOfHandle (tgt c))).pages)
  ∧ (∀ c s, Accepted opFsQuery c s → Answers (.fsQuery c) 0x0602 c s fun a t => t = s ∧ a.result =
      leBytes 4 747008 ++ leBytes 4 (poolFree s (par c 0 1)) ++ leBytes 4 (sumOver (·.2.target) (tileRings s (par c 0 1)))
        ++ leBytes 4 (layerPages s (par c 0 1)) ++ leBytes 4 (indexUsed s (par c 0 1)) ++ leBytes 4 (tileSegs s (par c 0 1)).length)
  ∧ (∀ c s, Accepted opFsSegArm c s → ∃ i, freeSegment s (handleTile (par c 0 4)) = some i
      ∧ Answers (.fsSegArm c) 0x0610 c s fun a t =>
        a.handle = some (segHandle s (handleTile (par c 0 4) * 16384 + i))
          ∧ obj? t (segSlot (handleTile (par c 0 4) * 16384 + i)) = some { owner := c.port }
          ∧ tget? t.fs.segs (handleTile (par c 0 4) * 16384 + i) = some {
              channel := chanOfHandle (par c 0 4), chanHandle := par c 0 4, preN := par c 4 2, postM := par c 6 2
              offsetNs := signed 32 (par c 8 4), postWaitMs := par c 12 4, autoRearm := bit (par c 16 1) 0 })
  ∧ (∀ c s x, Accepted opFsTrigger c s → segOfTarget c s = some x → Answers (.fsTrigger c) 0x0611 c s fun a t =>
      a.result = leBytes 4 (triggerTime c s / 65536) ∧ ∃ y, tget? t.fs.segs (segNumber (tgt c)) = some y
        ∧ y.t = some (triggerTime c s : Int) ∧ y.acceptedAt = s.clock ∧ (y.state = .triggered ∨ y.state = .frozen))
  ∧ (∀ c s x, Accepted opFsSegRelease c s → segOfTarget c s = some x → Answers (.fsSegRelease c) 0x0612 c s fun a t =>
      t.fs.segs = tdel s.fs.segs (segNumber (tgt c)) ∧ a.result = leBytes 4 x.pages
        ∧ t.fs.maps = s.fs.maps.filter fun m => decide (m.segment ≠ segNumber (tgt c)))
  ∧ (∀ c s, Accepted opFsFreezeRing c s → ∃ i, freeSegment s (chanOfHandle (tgt c) / 64) = some i
      ∧ Answers (.fsFreezeRing c) 0x0613 c s fun a t => a.handle = some (segHandle s (chanOfHandle (tgt c) / 64 * 16384 + i))
        ∧ (ringOf t (chanOfHandle (tgt c))).frames = [] ∧ ∃ y, tget? t.fs.segs (chanOfHandle (tgt c) / 64 * 16384 + i) = some y
          ∧ y.state = .frozen ∧ y.t = some (s.time.now : Int) ∧ y.post = []
          ∧ y.frames.map (·.seq) = (ringOf s (chanOfHandle (tgt c))).frames.map (·.seq))
  ∧ (∀ c s x, Accepted opFsSegQuery c s → segOfTarget c s = some x → Answers (.fsSegQuery c) 0x0614 c s fun a t =>
      t = s ∧ a.result = segView s (segNumber (tgt c)) x)
  ∧ (∀ c s x, Accepted opFsDirRead c s → segOfTarget c s = some x → Answers (.fsDirRead c) 0x0615 c s fun a t =>
      t = s ∧ a.result = leBytes 4 (((directory s (segNumber (tgt c)) x).drop (par c 0 4)).take 127).length ++ leBytes 4 (x.frames.length + 1)
        ++ (((directory s (segNumber (tgt c)) x).drop (par c 0 4)).take 127).flatten)

/-- R158, R161, R163 to R167: a frame record becomes valid in its ring, with room from each row of Table 8-2 in its order; a trigger and the wait for post frames move a segment on. -/
def Obligations.RecordsAndTriggers : Prop :=
  (∀ g s f, Recordable s g f →
      (ringOf s g).target ≠ 0 → (ringOf s g).pages ≤ (ringOf s g).target → (recordOf s g f).pages ≤ unusedPages (ringOf s g) →
      indexUsed s (g / 64) < indexTotal → activeSeg s g = none → Runs (.frameRecordValid g) s fun t =>
        (ringOf t g).frames = (ringOf s g).frames ++ [recordOf s g f] ∧ (ringOf t g).written = (ringOf s g).written + 1
          ∧ (ringOf t g).pages = (ringOf s g).pages)
  ∧ (∀ g s f, Recordable s g f → indexUsed s (g / 64) < indexTotal → activeSeg s g = none → usedPages (ringOf s g) ≤ (ringOf s g).pages →
      unusedPages (ringOf s g) < (recordOf s g f).pages →
      (ringOf s g).pages + ((recordOf s g f).pages - unusedPages (ringOf s g)) ≤ (ringOf s g).target →
      (recordOf s g f).pages - unusedPages (ringOf s g) ≤ poolFree s (g / 64) → Runs (.frameRecordValid g) s fun t =>
        (ringOf t g).frames = (ringOf s g).frames ++ [recordOf s g f] ∧ (ringOf t g).written = (ringOf s g).written + 1
          ∧ (ringOf t g).pages = (ringOf s g).pages + ((recordOf s g f).pages - unusedPages (ringOf s g)))
  ∧ (∀ g s f x rest, Recordable s g f → indexUsed s (g / 64) < indexTotal → activeSeg s g = none → (ringOf s g).pages = (ringOf s g).target →
      (ringOf s g).target ≠ 0 → (ringOf s g).frames = x :: rest → (∀ y ∈ rest, y.seq ≠ x.seq) → usedPages (ringOf s g) ≤ (ringOf s g).pages →
      unusedPages (ringOf s g) < (recordOf s g f).pages → (recordOf s g f).pages ≤ unusedPages (ringOf s g) + x.pages →
      Runs (.frameRecordValid g) s fun t => (ringOf t g).frames = rest ++ [recordOf s g f]
        ∧ (ringOf t g).overwritten = (ringOf s g).overwritten + 1 ∧ (ringOf t g).pages = (ringOf s g).pages)
  ∧ (∀ g s f k x, Recordable s g f → indexUsed s (g / 64) < indexTotal → activeSeg s g = some (k, x) → x.state = .armed →
      (ringOf s g).pages = (ringOf s g).target → (ringOf s g).target ≠ 0 → oldestFree s g = none →
      usedPages (ringOf s g) ≤ (ringOf s g).pages → unusedPages (ringOf s g) < (recordOf s g f).pages →
      (recordOf s g f).pages - unusedPages (ringOf s g) ≤ poolFree s (g / 64) → Runs (.frameRecordValid g) s fun t =>
        (ringOf t g).frames.getLast? = some (recordOf s g f) ∧ (ringOf t g).written = (ringOf s g).written + 1
          ∧ (ringOf t g).overwritten = (ringOf s g).overwritten)
  ∧ (∀ g s f k x y rest, Recordable s g f → indexUsed s (g / 64) < indexTotal → activeSeg s g = some (k, x) → x.state = .armed →
      (ringOf s g).pages = (ringOf s g).target → (ringOf s g).target ≠ 0 → oldestFree s g = none → (ringOf s g).frames = y :: rest →
      (∀ z ∈ rest, z.seq ≠ y.seq) → usedPages (ringOf s g) ≤ (ringOf s g).pages → unusedPages (ringOf s g) < (recordOf s g f).pages →
      poolFree s (g / 64) < (recordOf s g f).pages - unusedPages (ringOf s g) → (recordOf s g f).pages ≤ unusedPages (ringOf s g) + y.pages →
      Runs (.frameRecordValid g) s fun t => (ringOf t g).frames = rest ++ [recordOf s g f]
        ∧ (ringOf t g).overwritten = (ringOf s g).overwritten + 1 ∧ (ringOf t g).pages = (ringOf s g).pages)
  ∧ (∀ g s f, Recordable s g f → activeSeg s g = none → (ringOf s g).pages = (ringOf s g).target → (ringOf s g).target ≠ 0 →
      (ringOf s g).frames = [] → (ringOf s g).pages < (recordOf s g f).pages →
      poolFree s (g / 64) < (recordOf s g f).pages - (ringOf s g).pages → Runs (.frameRecordValid g) s fun t =>
        (ringOf t g).frames = [] ∧ (ringOf t g).dropped = (ringOf s g).dropped + 1 ∧ (ringOf t g).full = true)
  ∧ (∀ g s f, Recordable s g f → (ringOf s g).target = 0 → activeSeg s g = none → Runs (.frameRecordValid g) s fun t =>
        (ringOf t g).dropped = (ringOf s g).dropped + 1 ∧ (ringOf t g).frames = (ringOf s g).frames)
  ∧ (∀ g s f, (channelOf s g).frames.find? (fun f => f.record && !f.recorded && !f.dropped) = some f → f.tagged = false →
      Runs (.frameRecordValid g) s fun t => t = s)
  ∧ (∀ g n s e s', serving s (g / 64) = true → takeInput (g / 64) (512 + g % 64) n s = some (e, s') → activeSeg s g = none →
      Runs (.triggerInput g n) s fun t => (ringOf t g).ignored = (ringOf s g).ignored + 1)
  ∧ (∀ g n s e s' k x, serving s (g / 64) = true → takeInput (g / 64) (512 + g % 64) n s = some (e, s') → activeSeg s g = some (k, x) →
      x.state = .armed → k < 131072 → tget? s.fs.segs k = some x → (obj? s (segSlot k)).isSome = true → Runs (.triggerInput g n) s fun t =>
        ∃ y, tget? t.fs.segs k = some y ∧ y.t = some ((extend32 (ns32Of e.time).toNat (ns s) + x.offsetNs) * 65536)
          ∧ (y.state = .triggered ∨ y.state = .frozen))
  ∧ (∀ k s x, tget? s.fs.segs k = some x → x.state = .triggered → k < 131072 →
      (obj? s (segSlot k)).isSome = true → x.postWaitMs ≠ 0 →
      x.acceptedAt + x.postWaitMs * ms ≤ s.clock → x.t.getD 0 + (x.postWaitMs * ms * 65536 : Nat) ≤ (s.time.now : Int) →
      Runs (.postWaitExpiry k) s fun t => ∃ y, tget? t.fs.segs k = some y ∧ y.state = .frozen ∧ y.cut = false)
  ∧ (∀ k s x, tget? s.fs.segs k = some x → x.postWaitMs = 0 → Runs (.postWaitExpiry k) s fun t => t = s)

/-- R159, R170 to R173, Table 8-13: readouts and mappings. That FS_MAP of a mapped segment answers the mapping it has, whatever offset the
sender gives, is the model's choice (assumption log 53). -/
def Obligations.ReadoutsAndMappings : Prop :=
  (∀ c s x, Accepted opFsRead c s → segOfTarget c s = some x →
      ((readoutFrames x (par c 8 4) (par c 12 4)).filter fun i => !badFrame s (segNumber (tgt c)) i) ≠ [] →
      Runs (.fsRead c) s fun t => (∃ y, tget? t.fs.segs (segNumber (tgt c)) = some y ∧ y = { x with state := .reading })
        ∧ ∃ r, tget? t.fs.readouts (segNumber (tgt c)) = some r ∧ r.wait = s.eng.nextWait ∧ r.sent = 0 ∧ r.ending = none
          ∧ r.buf = par c 0 4 ∧ r.cpl = par c 4 4
          ∧ readoutTotal t (segNumber (tgt c)) r = ((readoutFrames x (par c 8 4) (par c 12 4)).filter fun i => !badFrame s (segNumber (tgt c)) i).length)
  ∧ (∀ k s r x d f, tget? s.fs.readouts k = some r → tget? s.fs.segs k = some x →
      readoutDelivery s k = some d → x.frames.find? (fun f => decide (f.seq = d.frame)) = some f → r.ending = none → d.tagWritten = false →
      f.bad = false → f.err = 0 →
      Runs (.readoutFrameDone k) s fun t => ∃ l, t.out = (writeDelivery d (readoutTag f (min (storedOf f) (d.desc.len - 128)))
        (f.data.take (min (storedOf f) (d.desc.len - 128))) s).out ++ l)
  ∧ (∀ k s r e x, tget? s.fs.readouts k = some r → r.ending = some e → r.recording = false → readoutDelivery s k = none →
      queueLive s r.cpl .completion = false → tget? s.fs.segs k = some x → Runs (.readoutEarlyEnd k) s fun t =>
        t.fs.readouts = tdel s.fs.readouts k ∧ tget? t.fs.segs k = some { x with state := .frozen })
  ∧ (∀ k s r, tget? s.fs.readouts k = some r → r.ending = none → Runs (.readoutEarlyEnd k) s fun t => t = s)
  ∧ (∀ c s r, Accepted opFsReadAbort c s → tget? s.fs.readouts (segNumber (par c 0 4)) = some r → r.ending = none →
      Answers (.fsReadAbort c) 0x0621 c s fun _ t =>
        tget? t.fs.readouts (segNumber (par c 0 4)) = some { r with ending := some 1 } ∧ t.fs.segs = s.fs.segs)
  ∧ (∀ c s, Accepted opFsReadAbort c s → tget? s.fs.readouts (segNumber (par c 0 4)) = none →
      Answers (.fsReadAbort c) 0x0621 c s fun _ t => t = s)
  ∧ (∀ c s, Accepted opFsMap c s → ownMapping c s = none → ∃ off, mapOffset c s = some off ∧ Answers (.fsMap c) 0x0630 c s fun a t =>
      t.fs.maps = s.fs.maps ++ [{ port := c.port, segment := segNumber (tgt c), offset := off, bytes := targetSize c s, dir := targetDir c s }]
        ∧ a.result = leBytes 8 off ++ leBytes 8 (targetSize c s))
  ∧ (∀ c s m, Accepted opFsMap c s → ownMapping c s = some m → Answers (.fsMap c) 0x0630 c s fun a t =>
      t = s ∧ a.result = leBytes 8 m.offset ++ leBytes 8 m.bytes)
  ∧ (∀ c s, Accepted opFsUnmap c s → Answers (.fsUnmap c) 0x0631 c s fun _ t => t.fs.segs = s.fs.segs ∧ ∀ m,
      m ∈ t.fs.maps ↔ m ∈ s.fs.maps ∧ ¬(m.port = c.port ∧ m.segment = segNumber (tgt c)))

/-! ### The activity detector -/

/-- R180 to R194, Table 9-8, Table 9-9: the commands of the detector, an event at ARM_cc, and a reference frame that is filled. -/
def Obligations.DetectorCommandsComplete : Prop :=
  (∀ c s, Accepted opAdRoiSet c s → PerFrame (.adRoiSet c) 0x0701 c s (chanOfHandle (tgt c)) (roiSet c s)
      ∧ ∃ gen, tget {} (roiSet c s).rois (par c 0 1) = {
        enable := bit (par c 1 1) 0, basis := par c 1 1 / 2 % 4, planes := par c 2 1, x0 := par c 4 2, y0 := par c 6 2
        w := par c 8 2, h := par c 10 2, ref := par c 12 4, gen := gen })
  ∧ (∀ c s, Accepted opAdQuery c s → Answers (.adQuery c) 0x0702 c s fun a t =>
      t = s ∧ a.result = roiView s (chanOfHandle (tgt c)) (par c 0 1))
  ∧ (∀ c s, Accepted opAdRuleCreate c s → ∃ i, freeIndex s 8 (chanOfParam c / 64) 0 512 = some i
      ∧ PerFrame (.adRuleCreate c) 0x0710 c s (chanOfParam c) { (channelOf s (chanOfParam c)).shadow with
          rules := tput (channelOf s (chanOfParam c)).shadow.rules i (ruleParam c) }
      ∧ Runs (.adRuleCreate c) s fun t => tget? t.ad.rules (chanOfParam c / 64 * 512 + i) = some { channel := chanOfParam c }
          ∧ obj? t (slotOf 8 (chanOfParam c / 64) i) = some { owner := c.port })
  ∧ (∀ c s, Accepted opAdRuleConfig c s → PerFrame (.adRuleConfig c) 0x0711 c s (ruleChannel c s)
      { (channelOf s (ruleChannel c s)).shadow with
        rules := tput (channelOf s (ruleChannel c s)).shadow.rules (handleIndex (tgt c)) (ruleParam c) })
  ∧ (∀ c s r, Accepted opAdRuleArm c s → tget? s.ad.rules (ruleNumber (tgt c)) = some r → Answers (.adRuleArm c) 0x0712 c s fun a t =>
      tget? t.ad.rules (ruleNumber (tgt c)) = some { r with
          armed := true, streak := if r.armed then r.streak else 0, rearmed := some (s.clock, armedBefore s r) }
        ∧ a.result = leBytes 4 (b2n r.armed) ∧ t = { s with ad := t.ad })
  ∧ (∀ c s, Accepted opAdRuleQuery c s → Answers (.adRuleQuery c) 0x0713 c s fun a t => t = s ∧ a.result = ruleView c s)
  ∧ (∀ c s, Accepted opAdRuleDestroy c s → Answers (.adRuleDestroy c) 0x0714 c s fun a t =>
      t = destroyRule (tslot c) s ∧ a.gen = (obj? s (tslot c)).map (·.gen) ∧ ∀ r, tget? s.ad.rules (ruleNumber (tgt c)) = some r →
        t.ad.rules = tdel s.ad.rules (ruleNumber (tgt c)) ∧ t.eng.objs = tdel s.eng.objs (tslot c))
  ∧ (∀ c s, Accepted opAdRefCreate c s → ∃ i, freeIndex s 9 (handleTile (par c 0 4)) 0 64 = some i
      ∧ Answers (.adRefCreate c) 0x0720 c s fun a t => a.handle = some (handleOf s (slotOf 9 (handleTile (par c 0 4)) i))
        ∧ obj? t (slotOf 9 (handleTile (par c 0 4)) i) = some { owner := c.port }
        ∧ tget? t.ad.refs (handleTile (par c 0 4) * 64 + i) = some {
            channel := chanOfHandle (par c 0 4), handle := par c 0 4, x0 := par c 4 2, y0 := par c 6 2, w := par c 8 2, h := par c 10 2
            planes := par c 12 1 })
  ∧ (∀ c s r, Accepted opAdRefCapture c s → refOf s (tgt c) = some r → Runs (.adRefCapture c) s fun t =>
      refOf t (tgt c) = some { r with capture := some {
          wait := s.eng.nextWait, frames := par c 0 1, from_ := (channelOf s r.channel).nextFrame, next := (channelOf s r.channel).nextFrame } }
        ∧ heldKey t (tslot c) = true)
  ∧ (∀ c s, Accepted opAdRefDestroy c s → Answers (.adRefDestroy c) 0x0722 c s fun a t =>
      t.ad.refs = tdel s.ad.refs (slotTile (tslot c) * 64 + slotIndex (tslot c)) ∧ t.eng.objs = tdel s.eng.objs (tslot c)
        ∧ a.gen = (obj? s (tslot c)).map (·.gen))
  ∧ (∀ c s, Accepted opAdRefQuery c s → Answers (.adRefQuery c) 0x0723 c s fun a t => t = s ∧ a.result = refView c s)
  ∧ (∀ g n s e s' k r, serving s (g / 64) = true → takeInput (g / 64) (576 + g % 64) n s = some (e, s') → tget? s.ad.rules k = some r →
      r.channel = g → onceRule s k r = true → Runs (.armInput g n) s fun t => t.ev = s'.ev
        ∧ tget? t.ad.rules k = some { r with
            armed := true, streak := if r.armed then r.streak else 0, rearmed := some (s.clock, armedBefore s r) })
  ∧ (∀ g n s e s' k r, serving s (g / 64) = true → takeInput (g / 64) (576 + g % 64) n s = some (e, s') → tsorted 0 s.ad.rules = true →
      tget? s.ad.rules k = some r → r.channel ≠ g ∨ onceRule s k r = false → Runs (.armInput g n) s fun t =>
        tget? t.ad.rules k = some r)
  ∧ (∀ g n s, serving s (g / 64) = false ∨ takeInput (g / 64) (576 + g % 64) n s = none → Runs (.armInput g n) s fun t => t = s)
  ∧ (∀ k s r p, tget? s.ad.refs k = some r → r.capture = some p → p.full = true → Runs (.refCaptured k) s fun t =>
      tget? t.ad.refs k = some { r with capture := none, valid := true, frames := p.frames, values := p.sums.map fun (i, v) => (i, v / p.frames) })
  ∧ (∀ k s r p, tget? s.ad.refs k = some r → r.capture = some p → p.full = false → Runs (.refCaptured k) s fun t => t = s)

/-! ### Time -/

/-- R245 to R248, R253, R265, R267, Table 12-11: package time is read, set, adjusted and steered, and a change applies at its commit
time; the calendar is set and aligned. Where the source gives no rounding of DELTA, it is free (assumption log 9). That the commit time lies
exactly 10 µs ahead (`commitLead`) is the model's choice (assumption log 44): R248 says at least. -/
def Obligations.PackageTimeCommands : Prop :=
  (∀ c s, Accepted opTimeQuery c s → Answers (.timeQuery c) 0x0901 c s fun a t => t = s ∧ a.result.take 12 = time96 s.time.now)
  ∧ (∀ c s, Accepted opTimeSet c s → Answers (.timeSet c) 0x0902 c s fun a t =>
      t.time = { s.time with changes := s.time.changes ++
          [(s.time.now + commitLead, .step ((timeParam c 0 : Int) - ((s.time.now + commitLead : Nat) + pendingSteps s)) true)] }
        ∧ t.eng.configGen = nextGen s.eng.configGen ∧ a.result.drop 8 = leBytes 4 (timeParam c 0 / 65536 % 2 ^ 32) ++ zeros 4)
  ∧ (∀ c s, Accepted opTimeAdjust c s → Answers (.timeAdjust c) 0x0903 c s fun a t =>
      t.time = { s.time with
          holdoverHost := bit (par c 1 1) 0
          changes := s.time.changes ++ [(s.time.now + commitLead,
            if par c 0 1 = 0 then .freq (signed 32 (par c 4 4)) else if par c 0 1 = 1 then .slew (signed 64 (par c 8 8))
            else .step (signed 64 (par c 8 8)) false)] }
        ∧ t.eng.configGen = nextGen s.eng.configGen ∧ a.result = leBytes 4 ((s.time.now + commitLead) / 65536 % 2 ^ 32) ++ zeros 4)
  ∧ (∀ c s, Accepted opTimeServoSet c s → (par c 0 1 = 1 ↔ s.time.clock = .host) → Answers (.timeServoSet c) 0x0904 c s fun _ t =>
      t.time = { s.time with consistent := par c 1 1, pathStepNs := par c 2 2, stepMinNs := par c 4 4, lockNs := par c 8 2 })
  ∧ (∀ c s, Accepted opTimeServoSet c s → ¬(par c 0 1 = 1 ↔ s.time.clock = .host) → Answers (.timeServoSet c) 0x0904 c s fun a t =>
      t.time.clock = (if par c 0 1 = 1 then .host else .freeRun) ∧ t.time.slaveLane = none ∧ t.time.consistent = par c 1 1
        ∧ t.time.pathStepNs = par c 2 2 ∧ t.time.stepMinNs = par c 4 4 ∧ t.time.lockNs = par c 8 2 ∧ t.time.now = s.time.now
        ∧ (∀ l p, (l, p) ∈ t.time.ptpPorts → p.enabled = true → p.portState = startState p)
        ∧ a.result = leBytes 4 (if par c 0 1 = 1 then 0 else 1))
  ∧ (∀ s tc a rest, s.time.changes = (tc, .freq a) :: rest → tc ≤ s.time.now → Runs .timeChangeCommit s fun t =>
      t = { s with time := { s.time with changes := rest, freqAdj := a } })
  ∧ (∀ s tc u rest, s.time.changes = (tc, .slew u) :: rest → tc ≤ s.time.now → Runs .timeChangeCommit s fun t =>
      t = { s with time := { s.time with changes := rest, slewLeft := s.time.slewLeft + u } })
  ∧ (∀ s tc d b rest, s.time.changes = (tc, .step d b) :: rest → tc ≤ s.time.now → Runs .timeChangeCommit s fun t =>
      t.time.now = shiftTime s.time.now d ∧ t.time.steps = s.time.steps + 1 ∧ t.time.stepNs32 = ns32Of (shiftTime tc d / 65536)
        ∧ t.time.changes = rest.map fun (t, c) => (shiftTime t d, c))
  ∧ (∀ s tc x rest, s.time.changes = (tc, x) :: rest → s.time.now < tc → Runs .timeChangeCommit s fun t => t = s)
  ∧ (∀ p s, Runs (.pkgTimeRead p false) s fun t => t.out = s.out ++ [.completion p (timeNs s.time.now)] ∧ t.time = s.time
      ∧ tget? t.host.captured (p * 2 ^ 27 + 0x4800004) = some (word (timeSec s.time.now % 2 ^ 32))
      ∧ tget? t.host.captured (p * 2 ^ 27 + 0x4800008) = some (word (timeSec s.time.now / 2 ^ 32 % 65536 + 2 ^ 16 * timeFrac s.time.now)))
  ∧ (∀ p s, Runs (.pkgTimeRead p true) s fun t => t.out = s.out ++ [.completion p s.cal.ticks] ∧ t.cal = s.cal
      ∧ tget? t.host.captured (p * 2 ^ 27 + 0x4800104) = some (word (s.cal.seconds % 2 ^ 32))
      ∧ tget? t.host.captured (p * 2 ^ 27 + 0x4800108) = some (word (s.cal.seconds / 2 ^ 32)))
  ∧ (∀ tile s e, serving s tile = true → Int.natAbs e ≤ 8 → Runs (.timeLockRestored tile e) s fun t =>
      tget? t.time.locked tile = some true ∧ tget? t.time.lockError tile = some e)
  ∧ (∀ c s, Accepted opCalSet c s → par c 0 1 = 0 → Answers (.calSet c) 0x0930 c s fun _ t =>
      t.cal = { s.cal with seconds := timeSec s.time.now % 2 ^ 48, ticks := ticksOf s.time.now, valid := true })
  ∧ (∀ c s, Accepted opCalSet c s → par c 0 1 ≠ 0 → Answers (.calSet c) 0x0930 c s fun _ t =>
      t.cal = { s.cal with seconds := par c 4 6 % 2 ^ 48, ticks := par c 2 2, valid := true })
  ∧ (∀ c s, Accepted opCalQuery c s → Answers (.calQuery c) 0x0931 c s fun a t => t = s ∧ a.result =
      leBytes 6 s.cal.seconds ++ leBytes 2 s.cal.ticks ++ leBytes 4 (b2n s.cal.valid + 2 * b2n s.cal.synced) ++ leBytes 4 s.cal.syncNs32.toNat)
  ∧ (∀ s, s.time.clock = .locked ∨ s.time.setByHost = true → (∀ a, s.cal.alignedAt = some a → a + 1000 * ms ≤ s.clock) →
      Runs .calendarAlign s fun t => t = { s with cal := {
        seconds := timeSec s.time.now % 2 ^ 48, ticks := ticksOf s.time.now, valid := true, synced := true, syncNs32 := ns32 s
        alignedAt := some s.clock } })

/-- R251 to R255, R268, Table 12-3: PTP settings; a message is taken in, sent at its interval or missed; time stamps of sent
messages are read. The contents, flags and intervals of messages and the port states are IEEE 1588's, which the spec names and does not print
(PRESUMED, assumption log 86 and 21); that a message waits while a frame of higher priority is due is the model's choice (assumption log 88). -/
def Obligations.NetworkTimeCommands : Prop :=
  (∀ c s, Accepted opPtpClockSet c s → Answers (.ptpClockSet c) 0x0910 c s fun _ t =>
      t.time = { s.time with
        clockDs := { s.time.clockDs with
          domain := par c 0 1, boundary := par c 1 1 == 1, priority1 := par c 2 1, priority2 := par c 3 1, clockClass := par c 4 1
          accuracy := par c 5 1, variance := par c 6 2, slaveOnly := bit (par c 8 1) 0, identity := par c 12 8 }
        utcValid := bit (par c 8 1) 1, ptpTimescale := bit (par c 8 1) 2, utcOffset := signed 16 (par c 10 2) })
  ∧ (∀ c s, Accepted opPtpPortSet c s → Answers (.ptpPortSet c) 0x0911 c s fun _ t =>
      ptpPort t (par c 0 1) = ptpPortOf c s.clock (ptpPort s (par c 0 1))
        ∧ (s.time.slaveLane = some (par c 0 1) → (ptpPort s (par c 0 1)).enabled = true → bit (par c 1 1) 0 = false →
            t.time.slaveLane = none))
  ∧ (∀ c s, Accepted opPtpQuery c s → Answers (.ptpQuery c) 0x0912 c s fun a t =>
      t = s ∧ a.result.take 32 = clockLayout s ∧ (par c 0 1 = 0xFF → a.result.drop 32 = zeros 32))
  ∧ (∀ l o s, (laneOf s l).toTime = [] → Runs (.ptpMessageReceive l o) s fun t => t = s)
  ∧ (∀ l o s, s.time.clock ≠ .host → s.eng.stopped = true → Runs (.ptpMessageReceive l o) s fun t => t = s)
  ∧ (∀ l o s f rest, (laneOf s l).toTime = f :: rest → s.time.clock = .host ∨ s.eng.stopped = false →
      (ptpPort s l).enabled = false ∨ o.malformed = true ∨ ptpMalformed (ptpBytes f) = true →
      Runs (.ptpMessageReceive l o) s fun t => (laneOf t l).toTime = rest ∧ (ptpPort t l).dropped = satU 32 ((ptpPort s l).dropped + 1)
        ∧ t.time.clock = s.time.clock)
  ∧ (∀ l o s f rest m, (laneOf s l).toTime = f :: rest → m = ptpBytes f → (ptpPort s l).enabled = true → o.malformed = false →
      ptpMalformed m = false → firmwareRuns s = true → be m 4 1 = s.time.clockDs.domain →
      (be f.bytes 12 2 = 0x88F7 ↔ (ptpPort s l).udp = false) → be m 0 1 % 16 = 0 → bit (be m 6 2) 9 = false →
      ourSdo m = true → (ptpPort s l).portState = slaveState → fromParent s m = true → Runs (.ptpMessageReceive l o) s fun t =>
        (laneOf t l).toTime = rest ∧ (ptpPort t l).syncRx = (ptpPort s l).syncRx + 1
          ∧ t.time.offsetNs = freeDiv s.free
            (f.stamp - ptpTime m 34 - ptpCorrection m - ((ptpPort s l).meanDelayQ8 + (ptpPort s l).asymQ8) * 256) 65536)
  ∧ (∀ l s, (ptpPort s l).enabled = true → firmwareRuns s = true → (ptpPort s l).portState = slaveState → s.time.slaveLane = some l →
      (ptpPort s l).lastAnnounce + (ptpPort s l).announceTimeout * logInterval (ptpPort s l).logAnnounce ≤ s.clock →
      Runs (.announceReceiptTimeout l) s fun t => t.time.slaveLane = none
        ∧ (s.time.clock = .locked ∨ s.time.clock = .acquiring ∨ s.time.clock = .verifying → t.time.clock = .holdover))
  ∧ (∀ l o s, (ptpPort s l).enabled = true → firmwareRuns s = true → isUp s l = true → mayTransmit (ptpPort s l) 11 = true →
      intervalPassed s (ptpPort s l) 11 = true → yields s l 5 = false → Runs (.ptpMessageTimer l 11 o) s fun t =>
        t.out = s.out ++ [padded l (ptpFrame s l 11
            (ptpMessage s l 11 (announceFlags s) (tget 0 (ptpPort s l).seqs 11) 0 (announceBody o s)))]
          ∧ tget? (ptpPort t l).sentAt 11 = some s.clock)
  ∧ (∀ l o s, (ptpPort s l).enabled = true → firmwareRuns s = true → isUp s l = true → mayTransmit (ptpPort s l) 0 = true →
      intervalPassed s (ptpPort s l) 0 = true → Runs (.ptpMessageTimer l 0 o) s fun t =>
        t.out = s.out ++ [padded l (ptpFrame s l 0 (ptpMessage s l 0 twoStep (tget 0 (ptpPort s l).seqs 0) 0 (originStamp o))),
          padded l (ptpFrame (useFree s) l 8 (ptpMessage s l 8 0 (tget 0 (ptpPort s l).seqs 0) (timeFrac (txStamp s l))
            (ptpStamp (txStamp s l))))]
          ∧ tget? (ptpPort t l).sentAt 0 = some s.clock)
  ∧ (∀ l ty o s, ty = 1 ∨ ty = 2 → (ptpPort s l).enabled = true → firmwareRuns s = true → isUp s l = true →
      mayTransmit (ptpPort s l) ty = true → intervalPassed s (ptpPort s l) ty = true → Runs (.ptpMessageTimer l ty o) s fun t =>
        t.out = s.out ++ [padded l (ptpFrame s l ty (ptpMessage s l ty 0 (tget 0 (ptpPort s l).seqs ty) (-((ptpPort s l).asymQ8 * 256))
            (originStamp o ++ if ty = 2 then zeros 10 else [])))]
          ∧ (ptpPort t l).request = some (tget 0 (ptpPort s l).seqs ty, txStamp s l))
  ∧ (∀ l ty o s, firmwareRuns s = false ∨ mayTransmit (ptpPort s l) ty = false ∨ intervalPassed s (ptpPort s l) ty = false →
      Runs (.ptpMessageTimer l ty o) s fun t => t = s)
  ∧ (∀ p tile s e rest, s.time.clock = .host → isMaster s p = true → tget [] s.time.txts tile = e :: rest →
      Runs (.txtsPop p tile) s fun t => tget [] t.time.txts tile = rest
        ∧ t.out = s.out ++ [.completion p (e.seqId + 2 ^ 16 * e.lane + 2 ^ 24 * e.msgType + 2 ^ 31)])
  ∧ (∀ p tile s, s.time.clock ≠ .host ∨ isMaster s p = false ∨ tget [] s.time.txts tile = [] →
      Runs (.txtsPop p tile) s fun t => t.out = s.out ++ [.completion p 0] ∧ t.time = s.time)

/-- R259 to R264, Table 12-12: a scheduled output is created, fires when its pulse falls due, starts anew on an event, and is
destroyed. -/
def Obligations.ScheduledOutputsFire : Prop :=
  (∀ c s, Accepted opSchedCreate c s → ∃ i, freeIndex s 7 (par c 0 1) 0 8 = some i ∧ Answers (.schedCreate c) 0x0920 c s fun a t =>
      a.handle = some (handleOf s (slotOf 7 (par c 0 1) i)) ∧ obj? t (slotOf 7 (par c 0 1) i) = some { owner := c.port }
        ∧ (schedPassed c s = 0 → a.late = false ∧ schedOf t (par c 0 1 * 8 + i) = schedOfParams c)
        ∧ (schedPassed c s ≠ 0 → a.late = true ∧ (schedOf t (par c 0 1 * 8 + i)).fired = 1
            ∧ (schedOf t (par c 0 1 * 8 + i)).merged = BitVec.ofNat 32 (schedPassed c s)))
  ∧ (∀ c s, Accepted opSchedDestroy c s → Answers (.schedDestroy c) 0x0921 c s fun a t =>
      (schedOf t (schedNumber (tslot c))).state = 0 ∧ (schedOf t (schedNumber (tslot c))).trains = []
        ∧ t.eng.objs = tdel s.eng.objs (tslot c) ∧ a.result = leBytes 4 (schedOf s (schedNumber (tslot c))).fired.toNat)
  ∧ (∀ c s, Accepted opSchedQuery c s → Answers (.schedQuery c) 0x0922 c s fun a t =>
      t = s ∧ a.result = windowBytes (schedReg s (schedNumber (tslot c))) 16)
  ∧ (∀ k s n due, nextPulse (schedOf s k) = some (n, due) → (schedOf s k).state ≠ 0 → due ≤ s.time.now → serving s (k / 8) = true →
      schedPin k (schedOf s k) = none ∨ (schedOf s k).pinUntil ≤ due → Runs (.schedPulseDue k) s fun t =>
        (schedOf t k).fired = (schedOf s k).fired + 1 ∧ (schedOf t k).firedTo = some due ∧ (schedOf t k).lastNs32 = ns32Of (due / 65536)
          ∧ tget 0 t.ev.srcSeq (tileSource (k / 8) (95 + k % 8)) = tget 0 s.ev.srcSeq (tileSource (k / 8) (95 + k % 8)) + 1)
  ∧ (∀ k s n due, nextPulse (schedOf s k) = some (n, due) → s.time.now < due → Runs (.schedPulseDue k) s fun t => t = s)
  ∧ (∀ k n s e s', serving s (k / 8) = true → takeInput (k / 8) (640 + k % 8) n s = some (e, s') → (schedOf s k).state ≠ 0 →
      (schedOf s k).eventStart = true → passedOf s k (schedOf s k) (trainStart s k e) = 0 → Runs (.schedGo k n) s fun t =>
        (schedOf t k).trains = (schedOf s k).trains.filter (· < trainStart s k e) ++ [trainStart s k e])
  ∧ (∀ k n s e s', serving s (k / 8) = true → takeInput (k / 8) (640 + k % 8) n s = some (e, s') → (schedOf s k).state ≠ 0 →
      (schedOf s k).eventStart = true → passedOf s k (schedOf s k) (trainStart s k e) ≠ 0 →
      (schedOf s k).lateReject = true → Runs (.schedGo k n) s fun t =>
        schedOf t k = { schedOf s k with rejected := (schedOf s k).rejected + 1 })
  ∧ (∀ k n s e s', serving s (k / 8) = true → takeInput (k / 8) (640 + k % 8) n s = some (e, s') → (schedOf s k).state ≠ 0 →
      (schedOf s k).eventStart = true → passedOf s k (schedOf s k) (trainStart s k e) ≠ 0 →
      (schedOf s k).lateReject = false → Runs (.schedGo k n) s fun t => (schedOf t k).fired = (schedOf s k).fired + 1
        ∧ (schedOf t k).merged = (schedOf s k).merged + BitVec.ofNat 32 (passedOf s k (schedOf s k) (trainStart s k e))
        ∧ (schedOf t k).rejected = (schedOf s k).rejected)

/-! ### Events and trigger pins -/

/-- R270 to R279: an event is taken in, published, blocked, dropped in a loop, or delivered to a task input; routes and channel groups
change at their commit times. That the group mask is asked before the limit of hops is the model's choice (assumption log 40). -/
def Obligations.EventsAreRouted : Prop :=
  (∀ t s, tget [] s.ev.backlog t = [] ∨ serving s t = false → Runs (.eventIntake t) s fun u => u = s)
  ∧ (∀ t s e rest k r, tget [] s.ev.backlog t = e :: rest → serving s t = true → e.publish = none → s.ev.routes = [(k, r)] → s.ev.retired = [] →
      r.form = .publication e.source → k / 4096 = t → actsOn r e.time = true → r.cleared = false → e.hops < 8 →
      (groupsAt s e.time).getLsbD (r.channel / 8) = true → Runs (.eventIntake t) s fun u => tget [] u.ev.backlog t = rest
        ∧ tget 0 u.ev.published (chanKey t r.channel) = tget 0 s.ev.published (chanKey t r.channel) + 1
        ∧ u.ev.routes = [(k, { r with delivered := r.delivered + 1 })])
  ∧ (∀ t s e rest c k r i, tget [] s.ev.backlog t = e :: rest → serving s t = true → e.publish = some c → s.ev.routes = [(k, r)] →
      s.ev.retired = [] → r.form = .toInput i → r.channel = c → actsOn r e.time = true → r.cleared = false → serving s (k / 4096) = true →
      e.hops < 8 → (groupsAt s e.time).getLsbD (c / 8) = true → Runs (.eventIntake t) s fun u =>
        (tget {} u.ev.inputs (inputKey (k / 4096) i)).waiting = (tget {} s.ev.inputs (inputKey (k / 4096) i)).waiting ++
          [{ e with hops := e.hops + 1, overrun := tget false s.ev.overrunMark t }])
  ∧ (∀ t s e rest c, tget [] s.ev.backlog t = e :: rest → serving s t = true → e.publish = some c →
      (groupsAt s e.time).getLsbD (c / 8) = false → Runs (.eventIntake t) s fun u => u = { s with ev := { s.ev with
        backlog := tput s.ev.backlog t rest, blocked := tmod 0 s.ev.blocked (chanKey t c) (· + 1) } })
  ∧ (∀ t s e rest c, tget [] s.ev.backlog t = e :: rest → serving s t = true → e.publish = some c → 8 ≤ e.hops →
      (groupsAt s e.time).getLsbD (c / 8) = true → Runs (.eventIntake t) s fun u =>
        tget 0 u.ev.loopDropped t = tget 0 s.ev.loopDropped t + 1 ∧ u.ev.inputs = s.ev.inputs ∧ u.mv = s.mv)
  ∧ (∀ n s k r c, s.ev.retired = [(k, r)] → r.until_ = some c → Runs (.routeCommit n) s fun t =>
      (n = k → c ≤ ns s → s.ev.backlog = [] → t.ev.retired = []) ∧ (ns s < c → t.ev.retired = s.ev.retired)
        ∧ (n ≠ k → t.ev.retired = s.ev.retired))
  ∧ (∀ i n s e s', 672 ≤ i → i ≤ 735 → serving s 0 = true → takeInput 0 i n s = some (e, s') → Runs (.groupInput i n) s fun t =>
      t.ev.groupCommits = insertGroup { time := e.time + 1000, byCommand := false, mask := 2 ^ ((i - 672) % 32)
                                        value := if i < 704 then 2 ^ ((i - 672) % 32) else 0 } s.ev.groupCommits)
  ∧ (∀ s g rest, s.ev.groupCommits = g :: rest → g.time ≤ ns s → Runs .groupCommit s fun t =>
      t.ev.groups = ((s.ev.groups &&& ~~~(word g.mask)) ||| (word g.value &&& word g.mask)) ∧ t.ev.groupNs32 = ns32Of g.time
        ∧ t.ev.groupCommits = rest)
  ∧ (∀ s g rest, s.ev.groupCommits = g :: rest → ns s < g.time → Runs .groupCommit s fun t => t = s)

/-- R280 to R283: edges cross the pins. That SET and a pulse drive the active level with INVERT applied is the model's choice (assumption log
41), and so is that an input edge comes with the time for which its level lasts (assumption log 87). -/
def Obligations.PinsDriveAndSense : Prop :=
  (∀ p rising k s, (pinOf s p).mode = 1 → serving s (p / 10) = true → (pinOf s p).filterNs ≤ k →
      (pinOf s p).edge = 3 ∨ (pinOf s p).edge = (if rising then 1 else 2) →
      (pinOf s p).level ≠ rising → (pinOf s p).lastEdge = none → Runs (.pinInputEdge p ⟨rising, k⟩) s fun t => pinOf t p = { pinOf s p with
        ball := rising, level := rising, edges := (pinOf s p).edges + 1, lastNs32 := ns32 s, lastEdge := some s.clock }
          ∧ tget 0 t.ev.srcSeq (tileSource (p / 10) (107 + p % 10)) = tget 0 s.ev.srcSeq (tileSource (p / 10) (107 + p % 10)) + 1)
  ∧ (∀ p rising k s a, (pinOf s p).mode = 1 → serving s (p / 10) = true → (pinOf s p).filterNs ≤ k →
    (pinOf s p).edge = 3 ∨ (pinOf s p).edge = (if rising then 1 else 2) →
      (pinOf s p).level ≠ rising → (pinOf s p).lastEdge = some a → s.clock < a + (pinOf s p).minGapNs →
          Runs (.pinInputEdge p ⟨rising, k⟩) s fun t =>
        pinOf t p = { pinOf s p with ball := rising, level := rising, suppressed := (pinOf s p).suppressed + 1 } ∧ t.ev.srcSeq = s.ev.srcSeq)
  ∧ (∀ p rising k s, (pinOf s p).mode ≠ 1 ∨ serving s (p / 10) = false ∨ k < (pinOf s p).filterNs ∨ (pinOf s p).level = rising →
      Runs (.pinInputEdge p ⟨rising, k⟩) s fun t => pinOf t p = { pinOf s p with ball := rising }
        ∧ t = { s with ev := { s.ev with pins := t.ev.pins } })
  ∧ (∀ p n s e s', serving s (p / 10) = true → takeInput (p / 10) (656 + p % 10) n s = some (e, s') → (pinOf s p).mode = 2 →
      (pinOf s p).driver = none → (pinOf s p).timed = false → Runs (.pinAction p n) s fun t =>
        ((pinOf s p).action = 0 → (pinOf t p).level = !(pinOf s p).invert ∧ (pinOf t p).pulseEnd = some (nowQ s + (pinOf s p).widthNs * 4))
          ∧ ((pinOf s p).action = 1 → (pinOf t p).level = !(pinOf s p).invert)
          ∧ ((pinOf s p).action = 2 → (pinOf t p).level = (pinOf s p).invert)
          ∧ ((pinOf s p).action = 3 → (pinOf t p).level = !(pinOf s p).level))
  ∧ (∀ p n s e s', serving s (p / 10) = true → takeInput (p / 10) (656 + p % 10) n s = some (e, s') → (pinOf s p).mode = 2 →
      (pinOf s p).timed = true → (nowQ s : Int) + 200 ≤ timedAt s p e → Runs (.pinAction p n) s fun t =>
        ((pinOf s p).action ≠ 0 ∨ (pinOf s p).pulseEnd = none → pinOf t p = { pinOf s p with sched := (pinOf s p).sched ++
          [{ at_ := (timedAt s p e).toNat, action := (pinOf s p).action, widthNs := (pinOf s p).widthNs }] })
        ∧ ((pinOf s p).action = 0 → (pinOf s p).pulseEnd.isSome = true → pinOf t p = { pinOf s p with
            pulseEnd := some ((timedAt s p e).toNat + (pinOf s p).widthNs * 4) }))
  ∧ (∀ p s g, serving s (p / 10) = true → (pinOf s p).mode = 2 → (pinOf s p).driver = none → (pinOf s p).sched = [g] →
    Runs (.pinEdgeDue p) s fun t =>
      (g.at_ ≤ nowQ s → (pinOf t p).sched = [] ∧ (g.action = 1 → (pinOf t p).level = !(pinOf s p).invert))
        ∧ (nowQ s < g.at_ → pinOf t p = pinOf s p))
  ∧ (∀ p s e, (pinOf s p).pulseEnd = some e → Runs (.pinPulseEnd p) s fun t =>
      (e ≤ nowQ s → (pinOf t p).level = idleLevel s p ∧ (pinOf t p).pulseEnd = none) ∧ (nowQ s < e → t = s))
  ∧ (∀ p s r, tget? s.ev.skew p = some r → r.frames ≤ r.pairs.length → Runs (.skewLearnDone p) s fun t =>
      t.ev.skew = tdel s.ev.skew p ∧ (r.install = false → t.ev.pins = s.ev.pins) ∧ (r.install = true →
        -128000 ≤ (pinOf t p).trimQ2 ∧ (pinOf t p).trimQ2 ≤ 128000 ∧ ((pinOf t p).trimQ2 ≠ (pinOf s p).trimQ2 → ∀ due,
          (s.time.now + 40 * usUnits ≤ due → trimOf (pinOf t p) due = (pinOf t p).trimQ2)
            ∧ (due < s.time.now + 40 * usUnits → trimOf (pinOf t p) due = trimOf (pinOf s p) due))))
  ∧ (∀ p s r, tget? s.ev.skew p = some r → r.pairs.length < r.frames → Runs (.skewLearnDone p) s fun t => t = s)

/-- R272 to R274, R278, R282 to R284, Table 13-10: the commands of the router and the pins. -/
def Obligations.EventCommandsComplete : Prop :=
  (∀ c s, Accepted opEvRouteCreate c s → ∃ i, freeIndex s 4 (routeTile c) 0 4096 = some i ∧ Answers (.evRouteCreate c) 0x0A01 c s fun a t =>
      a.handle = some (handleOf s (slotOf 4 (routeTile c) i)) ∧ obj? t (slotOf 4 (routeTile c) i) = some { owner := c.port }
        ∧ tget? t.ev.routes (routeTile c * 4096 + i) = some {
            form := routeForm c, channel := par c 1 1, from_ := ns s + 1000, queueHandle := par c 12 4 }
        ∧ a.result = leBytes 4 ((ns s + 1000) % 2 ^ 32))
  ∧ (∀ c s r, Accepted opEvRouteDestroy c s → tget? s.ev.routes (slotTile (tslot c) * 4096 + slotIndex (tslot c)) = some r →
      Answers (.evRouteDestroy c) 0x0A02 c s fun a t => t.eng.objs = tdel s.eng.objs (tslot c)
        ∧ t.ev.routes = tdel s.ev.routes (slotTile (tslot c) * 4096 + slotIndex (tslot c))
        ∧ t.ev.retired = s.ev.retired ++ [(slotTile (tslot c) * 4096 + slotIndex (tslot c), { r with until_ := some (ns s + 1000) })]
        ∧ a.result = leBytes 4 ((ns s + 1000) % 2 ^ 32))
  ∧ (∀ c s, Accepted opEvRouteQuery c s → Answers (.evRouteQuery c) 0x0A03 c s fun a t => t = s ∧
      ∀ r, tget? s.ev.routes (handleTile (tgt c) * 4096 + handleIndex (tgt c)) = some r → a.result =
        routeLayout (handleTile (tgt c) * 4096 + handleIndex (tgt c)) r ++ leBytes 1 (((obj? s (tslot c)).map (·.owner)).getD 0)
          ++ leBytes 1 (b2n r.cleared) ++ zeros 2 ++ leBytes 4 r.delivered.toNat)
  ∧ (∀ c s, Accepted opEvPinSet c s → Answers (.evPinSet c) 0x0A10 c s fun _ t =>
      pinSettings c (pinOf t (pinParam c)) = pinOf t (pinParam c) ∧ (par c 2 1 ≠ (pinOf s (pinParam c)).mode →
        (drives (pinOf t (pinParam c)) = true → (pinOf t (pinParam c)).level = bit (par c 5 1) 1 ∧ (pinOf t (pinParam c)).sched = [])
          ∧ (par c 2 1 = 1 → (pinOf t (pinParam c)).level = (pinOf s (pinParam c)).ball)))
  ∧ (∀ c s, Accepted opEvPinQuery c s → Answers (.evPinQuery c) 0x0A11 c s fun a t =>
      t = s ∧ a.result = windowBytes (pinReg s (pinParam c)) 11)
  ∧ (∀ c s, Accepted opEvGroupSet c s → par c 0 4 = 0 → Answers (.evGroupSet c) 0x0A20 c s fun a t => t = s ∧ a.result = leBytes 4 0)
  ∧ (∀ c s, Accepted opEvGroupSet c s → par c 0 4 ≠ 0 → Answers (.evGroupSet c) 0x0A20 c s fun a t =>
      t.ev.groupCommits = insertGroup { time := ns s + 1000, byCommand := true, mask := par c 0 4, value := par c 4 4 } s.ev.groupCommits
        ∧ t.eng.configGen = nextGen s.eng.configGen ∧ a.result = leBytes 4 ((ns s + 1000) % 2 ^ 32))
  ∧ (∀ c s, Accepted opEvStatus c s → Answers (.evStatus c) 0x0A21 c s fun a t =>
      t = s ∧ a.result = leBytes 4 s.ev.groups.toNat ++ leBytes 4 s.ev.groupNs32.toNat)
  ∧ (∀ c s, Accepted opEvPublish c s → serving s 0 = true → (tget [] s.ev.backlog 0).length < 4096 → Answers (.evPublish c) 0x0A30 c s fun a t =>
      a.result = leBytes 4 (ns32 s).toNat ∧ tget [] t.ev.backlog 0 = insertEv {
          source := hostSource c.port, time := ns s, payload := word (par c 4 4), hops := 0, edge := s.clock
          seq := tget 0 s.ev.srcSeq (hostSource c.port) + 1, publish := some (par c 0 1) } (tget [] s.ev.backlog 0))
  ∧ (∀ c s, Accepted opEvPublish c s → serving s 0 = false → Answers (.evPublish c) 0x0A30 c s fun _ t => t = s)
  ∧ (∀ c s, Accepted opEvSkewLearn c s → Runs (.evSkewLearn c) s fun t => tget? t.ev.skew (pinParam c) = some {
      wait := s.eng.nextWait, channel := chanOfHandle (par c 4 4), frames := par c 8 2, install := bit (par c 10 1) 0
      targetQ2 := signed 32 (par c 12 4), windowNs := par c 16 4 })

/-! ### The motion interfaces -/

/-- R289 to R305, Table 14-7, Table 14-8: counted edges, index and presets, compare unit and table, latch and the motion commands. Where
the source leaves bits [63:32] of a preset position open, they are free (log entry 8). -/
def Obligations.MotionCountsAndCompares : Prop :=
  (∀ i a b s x, x = axis s i → counts s i = true →
      quadError x.inputMode x.levelA x.levelB (filtered x x.levelA a) (filtered x x.levelB b) = false →
      sampleCount x.inputMode x.levelA x.levelB (filtered x x.levelA a) (filtered x x.levelB b) ≠ 0 → Runs (.motionEdge i a b) s fun t =>
        (axis t i).edges = x.edges + 1 ∧ (axis t i).levelA = filtered x x.levelA a ∧ (axis t i).levelB = filtered x x.levelB b
          ∧ (axis t i).ext = x.ext + (if decide (0 < sampleCount x.inputMode x.levelA x.levelB (filtered x x.levelA a) (filtered x x.levelB b))
            != x.invertDir then 1 else -1))
  ∧ (∀ i a b s x, x = axis s i → counts s i = true →
    quadError x.inputMode x.levelA x.levelB (filtered x x.levelA a) (filtered x x.levelB b) = true →
      Runs (.motionEdge i a b) s fun t => (axis t i).ext = x.ext ∧ (axis t i).quadErrors = x.quadErrors + 1)
  ∧ (∀ i a b s x, x = axis s i → counts s i = false → Runs (.motionEdge i a b) s fun t =>
      axis t i = { x with ballA := a.high, ballB := b.high, levelA := filtered x x.levelA a, levelB := filtered x x.levelB b })
  ∧ (∀ i (a : BallLevel) (b : BallLevel) s, accepted (axis s i) a.lasted = false → accepted (axis s i) b.lasted = false →
    Runs (.motionEdge i a b) s fun t =>
      axis t i = { axis s i with ballA := a.high, ballB := b.high }
        ∧ t.out = s.out ++ (if outputsDrive s i then [.motionOut i a.high b.high] else []))
  ∧ (∀ i (a : BallLevel) (b : BallLevel) (l : BallLevel) s x, x = axis s i → accepted x l.lasted = true → x.indexEn = false ∨ x.levelI = l.high →
      sampleCount x.inputMode x.levelA x.levelB (filtered x x.levelA a) (filtered x x.levelB b) = 0 → Runs (.motionInputLevel i a b l) s fun t =>
        (axis t i).ext = x.ext ∧ (axis t i).levelA = filtered x x.levelA a ∧ (axis t i).levelB = filtered x x.levelB b
          ∧ (axis t i).levelI = l.high)
  ∧ (∀ i (a : BallLevel) (b : BallLevel) (l : BallLevel) s x, x = axis s i → accepted x a.lasted = false → accepted x b.lasted = false →
    accepted x l.lasted = false →
      Runs (.motionInputLevel i a b l) s fun t => axis t i = { x with ballA := a.high, ballB := b.high, ballI := l.high })
  ∧ (∀ i (l : BallLevel) s, accepted (axis s i) l.lasted = false → Runs (.indexEdge i l) s fun t => axis t i = { axis s i with ballI := l.high })
  ∧ (∀ i (l : BallLevel) s, counts s i = true → accepted (axis s i) l.lasted = true → (axis s i).indexEn = true → (axis s i).levelI ≠ l.high →
      (axis s i).indexPol ≠ l.high → Runs (.indexEdge i l) s fun t => (axis t i).idxPos = counter (axis s i) ∧ (axis t i).idxNs32 = ns32 s
        ∧ ((axis s i).indexAction = 0 → (axis t i).ext = (axis s i).ext)
        ∧ ((axis s i).indexAction = 2 → counter (axis t i) = (axis s i).presetValue)
        ∧ ((axis s i).indexAction = 1 → (axis s i).idxArmed = true →
          counter (axis t i) = (axis s i).presetValue ∧ (axis t i).idxArmed = false))
  ∧ (∀ i s e, (axis s i).lastEdge = some e → e + (axis s i).standstillUs * us ≤ s.clock → Runs (.standstillExpiry i) s fun t =>
      axis t i = { axis s i with still := true, speed := 0, times := [] })
  ∧ (∀ i n s e s' g k, serving s (i / 2) = true → takeInput (i / 2) (768 + i % 2) n s = some (e, s') → (axis s i).cmp.given = some g →
      cmpSlot? s i = some k → Runs (.cmpArmInput i n) s fun t => (axis t i).cmp.position = g.position ∧ (axis t i).cmp.state =
        (if aheadOf g.position (counter (axis s i)) g.down then 1 else if g.fireBehind then 3 else 2))
  ∧ (∀ i n s e s' g k, serving s (i / 2) = true → takeInput (i / 2) (770 + i % 2) n s = some (e, s') → (axis s i).tbl.given = some g →
      cmpSlot? s i = some k → Runs (.tableStartInput i n) s fun t => (axis t i).tbl.given = some g ∧ (axis t i).tbl.fires = 0
        ∧ (axis t i).tbl.base = (if g.relative then g.base + counter (axis s i) else g.base) ∧ (axis t i).tbl.entries = g.entries)
  ∧ (∀ i n s e s', serving s (i / 2) = true → takeInput (i / 2) (772 + i % 2) n s = some (e, s') → Runs (.presetInput i n) s fun t =>
      counter (axis t i) = (axis s i).presetValue)
  ∧ (∀ i n s e s', serving s (i / 2) = true → takeInput (i / 2) (774 + i % 2) n s = some (e, s') → Runs (.latchInput i n) s fun t =>
      axis t i = { axis s i with latchPos := counter (axis s i), latchNs32 := ns32 s })
  ∧ (∀ p i s, Runs (.moPosRead p i) s fun t => t.out = s.out ++ [.completion p (counter (axis s i)).toNat] ∧ t.mo = s.mo
      ∧ tget? t.host.captured (p * 2 ^ 27 + (moBlock i + 0x18)) = some (word (ns32 s).toNat)
      ∧ tget? t.host.captured (p * 2 ^ 27 + (moBlock i + 0x1C)) = some (word (unsigned 64 (reportedSpeed s (axis s i))))
      ∧ tget? t.host.captured (p * 2 ^ 27 + (moBlock i + 0x24)) = some (word (axisStatus s (axis s i))))
  ∧ (∀ i s, counts s i = true → (∀ x, (axis s i).history.head? = some x → x.1 ≠ ns s / 64 * 64) → Runs (.positionHistoryRecord i) s fun t =>
      axis t i = { axis s i with history := ((ns s / 64 * 64, counter (axis s i)) :: (axis s i).history).take 262144 })
  ∧ (∀ c s, Accepted opMoConfig c s → Answers (.moConfig c) 0x0B01 c s fun _ t =>
      axis t (par c 0 1) = { axis s (par c 0 1) with
        inputMode := par c 1 1, invertDir := bit (par c 2 1) 0, indexEn := bit (par c 2 1) 1, indexPol := bit (par c 2 1) 2
        pass := bit (par c 2 1) 3, indexAction := par c 3 1, filterQ2 := par c 4 2, avgEdges := par c 6 2
        standstillUs := par c 8 4, presetValue := word (par c 12 4), idxArmed := decide (par c 3 1 = 1) })
  ∧ (∀ c s, Accepted opMoQuery c s → Answers (.moQuery c) 0x0B02 c s fun a t => t = s ∧ a.result = axisLayout (par c 0 1) (axis s (par c 0 1))
      ++ leBytes 4 (counter (axis s (par c 0 1))).toNat ++ leBytes 4 (ns32 s).toNat
      ++ leBytes 8 (unsigned 64 (reportedSpeed s (axis s (par c 0 1)))) ++ leBytes 4 (axisStatus s (axis s (par c 0 1))) ++ zeros 4)
  ∧ (∀ c s, Accepted opMoPreset c s → Answers (.moPreset c) 0x0B03 c s fun a t => counter (axis t (par c 0 1)) = word (par c 4 4)
      ∧ t.eng.configGen = nextGen s.eng.configGen ∧ a.result = leBytes 4 (counter (axis s (par c 0 1))).toNat ++ leBytes 4 (ns32 s).toNat)
  ∧ (∀ c s, Accepted opMoCmpCreate c s → ∃ n, freeIndex s 5 (par c 0 1 / 2) 0 2 = some n ∧ Answers (.moCmpCreate c) 0x0B10 c s fun a t =>
      a.handle = some (handleOf s (slotOf 5 (par c 0 1 / 2) n)) ∧ obj? t (slotOf 5 (par c 0 1 / 2) n) = some { owner := c.port }
        ∧ cmpSlot? t (par c 0 1) = some (slotOf 5 (par c 0 1 / 2) n) ∧ t.mo.axes = s.mo.axes)
  ∧ (∀ c s, Accepted opMoCmpArm c s → Answers (.moCmpArm c) 0x0B11 c s fun a t =>
      (axis t (cmpAxis s (tslot c))).cmp.position = word (par c 0 4)
        ∧ (axis t (cmpAxis s (tslot c))).cmp.state = (if aheadOf (word (par c 0 4)) (counter (axis s (cmpAxis s (tslot c)))) (bit (par c 4 1) 0)
            then 1 else if bit (par c 4 1) 1 then 3 else 2)
        ∧ a.result = leBytes 1 (axis t (cmpAxis s (tslot c))).cmp.state ++ zeros 3 ++ leBytes 4 (counter (axis s (cmpAxis s (tslot c)))).toNat)
  ∧ (∀ c s, Accepted opMoCmpDisarm c s → Answers (.moCmpDisarm c) 0x0B12 c s fun _ t =>
      (axis t (cmpAxis s (tslot c))).cmp.state = (if (axis s (cmpAxis s (tslot c))).cmp.state = 1 ∨ (axis s (cmpAxis s (tslot c))).cmp.state = 2
        then 0 else (axis s (cmpAxis s (tslot c))).cmp.state) ∧ (axis t (cmpAxis s (tslot c))).ext = (axis s (cmpAxis s (tslot c))).ext)
  ∧ (∀ c s, Accepted opMoTblLoad c s → Answers (.moTblLoad c) 0x0B13 c s fun _ t => ∀ n,
      tget 0 (axis t (cmpAxis s (tslot c))).tbl.offsets n = (if par c 0 2 ≤ n ∧ n < par c 0 2 + par c 2 2 then par c (8 + 4 * (n - par c 0 2)) 4
        else tget 0 (axis s (cmpAxis s (tslot c))).tbl.offsets n))
  ∧ (∀ c s, Accepted opMoTblStart c s → Answers (.moTblStart c) 0x0B14 c s fun a t =>
      (axis t (cmpAxis s (tslot c))).tbl.given = some (tblStartOf c) ∧ (axis t (cmpAxis s (tslot c))).tbl.fires = 0
        ∧ (axis t (cmpAxis s (tslot c))).tbl.entries = par c 8 2 ∧ (axis t (cmpAxis s (tslot c))).tbl.base = (if bit (par c 10 1) 2
            then word (par c 0 4) + counter (axis s (cmpAxis s (tslot c))) else word (par c 0 4))
        ∧ a.result.take 4 = leBytes 4 (axis t (cmpAxis s (tslot c))).tbl.target.toNat)
  ∧ (∀ c s, Accepted opMoTblStop c s → Answers (.moTblStop c) 0x0B15 c s fun a t => tblRuns (axis t (cmpAxis s (tslot c))).tbl = false
      ∧ a.result = leBytes 4 (axis s (cmpAxis s (tslot c))).tbl.fires.toNat ++ leBytes 4 (axis s (cmpAxis s (tslot c))).tbl.cycle)
  ∧ (∀ c s, Accepted opMoCmpQuery c s → Answers (.moCmpQuery c) 0x0B16 c s fun a t => t = s ∧ a.result = cmpWindow s (cmpAxis s (tslot c)))
  ∧ (∀ c s, Accepted opMoCmpDestroy c s → Answers (.moCmpDestroy c) 0x0B17 c s fun a t => t.eng.objs = tdel s.eng.objs (tslot c)
      ∧ t.mo.handles = tdel s.mo.handles (cmpAxis s (tslot c)) ∧ (axis t (cmpAxis s (tslot c))).cmp.state = 0
      ∧ (axis t (cmpAxis s (tslot c))).tbl.state = 0 ∧ a.gen = (obj? s (tslot c)).map (·.gen))

/-! ### The pair of command engines -/

/-- R307 to R311, R324: heartbeats and their loss, renewals, RESIGN and CLAIM, and what an arbiter's grant does. -/
def Obligations.EnginesKeepOneOwner : Prop :=
  (∀ s, s.rd.beatSent + 25 * us ≤ s.clock → engineRuns s 0 = true → engineRuns s 1 = true → Runs .heartbeatSend s fun t =>
      t.rd.beatSent = s.clock ∧ (engOf t 0).beat = some s.clock ∧ (engOf t 1).beat = some s.clock ∧ (engOf t 0).lost = none
        ∧ (engOf t 1).lost = none)
  ∧ (∀ s, s.clock < s.rd.beatSent + 25 * us → Runs .heartbeatSend s fun t => t = s)
  ∧ (∀ s e, e < 2 → beatMissed s e = true → Runs .heartbeatLoss s fun t => (engOf t e).lost = some s.clock)
  ∧ (∀ s, beatMissed s 0 = false → beatMissed s 1 = false → Runs .heartbeatLoss s fun t => t = s)
  ∧ (∀ s, activeRuns s = true → s.rd.renewedAt + 20 * us ≤ s.clock → Runs .renew s fun t =>
      (s.rd.owner = some s.eng.active → t.rd.renewedAt = s.clock ∧ t.rd.renewFailed = false)
        ∧ (s.rd.owner ≠ some s.eng.active → t.rd.renewFailed = true ∧ t.rd.renewedAt = s.rd.renewedAt))
  ∧ (∀ s, (engOf s s.eng.active).state = .active → (engOf s s.eng.active).healthy = false → s.rd.owner = some s.eng.active →
      arbMode s = false → Runs .resign s fun t => t.rd.owner = none ∧ t.rd.epoch = s.rd.epoch + 1
        ∧ t.rd.resigned = some (s.clock, ns32 s, (engOf s s.eng.active).cause) ∧ (engOf t s.eng.active).state ≠ .active)
  ∧ (∀ s e, (List.range 2).find? (claimDue s) = some e → claimOpen s = true → Runs .claim s fun t =>
      t.rd.owner = some e ∧ t.eng.active = e ∧ (engOf t e).state = .active ∧ t.rd.epoch = s.rd.epoch + 1 ∧ t.eng.quiet = true
        ∧ ∃ x, t.rd.change = some x ∧ x.kind = 0 ∧ x.claimedAt = s.clock ∧ x.restored = false)
  ∧ (∀ s e, (List.range 2).find? (claimDue s) = some e → claimOpen s = false → Runs .claim s fun t =>
      t.rd.owner = s.rd.owner ∧ t.eng = s.eng ∧ (engOf t e).lastTry = some s.clock)
  ∧ (∀ s, (List.range 2).find? (claimDue s) = none → Runs .claim s fun t => t = s)
  ∧ (∀ s e, arbMode s = true → e ≤ 1 → (engOf s e).state = .standby → Runs (.grant e) s fun t =>
      t.rd.owner = some e ∧ t.eng.active = e ∧ (engOf t e).state = .active ∧ t.rd.dualUntil = some (s.clock + 80 * us))
  ∧ (∀ s e, arbMode s = false ∨ 1 < e → Runs (.grant e) s fun t => t = s)
  ∧ (∀ s e, arbMode s = true → e ≤ 1 → (engOf s e).state ≠ .standby → s.rd.owner = some e → Runs (.grant e) s fun t =>
      t = raiseEngine e 8 5 s)
  ∧ (∀ s e o, arbMode s = true → e ≤ 1 → (engOf s e).state ≠ .standby → s.rd.owner = some o → o ≠ e → Runs (.grant e) s fun t =>
      t.rd.owner = some o ∧ t.rd.epoch = s.rd.epoch + 2 ∧ t.rd.dualUntil = some (s.clock + 80 * us) ∧ t.eng = s.eng
        ∧ t.rd.engines = s.rd.engines)
  ∧ (∀ s l, arbBalls s = true → s.rd.gnt ≠ l → (engOf s (if l then 0 else 1)).state = .standby →
      Runs (.arbGntChange l) s fun t => t.rd.gnt = l ∧ t.rd.owner = some (if l then 0 else 1))
  ∧ (∀ s l, arbBalls s = false ∨ s.rd.gnt = l → Runs (.arbGntChange l) s fun t => t = s)
  ∧ (∀ s p v, isMaster s p = true → arbMode s = true → s.boot.conf.arbSource = 0 → BitVec.toNat v / 65536 = 0x5EB7 →
      (engOf s (BitVec.toNat v % 2)).state = .standby → Runs (.ceBootArbWrite p v) s fun t =>
        t.rd.owner = some (BitVec.toNat v % 2) ∧ t.eng.active = BitVec.toNat v % 2)
  ∧ (∀ s p v, isMaster s p = false ∨ arbMode s = false ∨ s.boot.conf.arbSource ≠ 0 ∨ BitVec.toNat v / 65536 ≠ 0x5EB7 →
      Runs (.ceBootArbWrite p v) s fun t => t.rd = s.rd
        ∧ (tget {} t.host.counters p).ignoredWrites = (tget {} s.host.counters p).ignoredWrites + 1)
  ∧ (∀ s, activeRuns s = true → s.rd.renewFailed = true ∨ s.rd.renewedAt + 200 * us ≤ s.clock → Runs .renewalStaleStop s fun t =>
      t.eng.stopped = true ∧ t.eng.quiet = true ∧ (engOf t s.eng.active).halted = true)
  ∧ (∀ s d, s.rd.dualUntil = some d → Runs .dualWindowEnd s fun t => (d ≤ s.clock → t.rd.dualUntil = none) ∧ (s.clock < d → t = s))

/-- R312 to R318, R325: snapshots and the journal, planned changes, takeover, restart and revert, and the pair commands.
That a HANDOVER whose target is not STANDBY drops the planned change is the model's choice (assumption log 59). -/
def Obligations.EnginesChangeAndRecover : Prop :=
  (∀ s, activeRuns s = true → s.eng.stopped = false → mirrored s = true → s.rd.copyingSince = none → s.rd.lastStart + ms ≤ s.clock →
      Runs .snapshotEpoch s fun t => t.rd.copyingSince = some s.clock ∧ t.rd.lastStart = s.clock ∧ t.rd.journalNew = 0)
  ∧ (∀ s x, s.rd.copyingSince = some x → mirrored s = true → Runs .snapshotEpochComplete s fun t => t.rd.snapshot = s.rd.snapshot + 1
      ∧ t.rd.copyingSince = none ∧ t.rd.journal = s.rd.journal.drop (s.rd.journal.length - s.rd.journalNew)
      ∧ ((engOf s (peer s.eng.active)).state = .copying → (engOf t (peer s.eng.active)).copied = true))
  ∧ (∀ s, activeRuns s = true → mirrored s = true → Runs .journalAckTimeout s fun t =>
      (s.rd.owner = some s.eng.active → (engOf t (peer s.eng.active)).state = .copying ∧ (engOf t (peer s.eng.active)).copied = false)
        ∧ (s.rd.owner ≠ some s.eng.active → (engOf t s.eng.active).halted = true ∧ t.eng.stopped = true))
  ∧ (∀ s p, s.rd.planned = some p → (engOf s p.target).state = .standby → activeRuns s = true →
      unmirroredRuns s = false → Runs .handover s fun t =>
      t.rd.owner = some p.target ∧ t.eng.active = p.target ∧ t.rd.planned = none ∧ t.rd.snapshot = s.rd.snapshot + 1)
  ∧ (∀ s p, s.rd.planned = some p → (engOf s p.target).state = .standby → activeRuns s = false ∨ unmirroredRuns s = true →
      Runs .handover s fun t => t = s)
  ∧ (∀ s p, s.rd.planned = some p → (engOf s p.target).state ≠ .standby → Runs .handover s fun t =>
      t.rd.planned = none ∧ t.rd.owner = s.rd.owner ∧ t.eng.active = s.eng.active)
  ∧ (∀ s c, changeToRestore s = some c → Runs .takeover s fun t => t.rd.change = some { c with restored := true }
      ∧ t.rd.unknown = (if c.kind = 0 then unmirroredCount s else 0))
  ∧ (∀ s c, changeToEnd s = some c → Runs .takeoverReplies s fun t => t.rd.change = none ∧ t.eng.stopped = false ∧ t.eng.quiet = false
      ∧ t.rd.durationUs = (s.clock - c.detectedAt) / 1000)
  ∧ (∀ s, changeToEnd s = none → Runs .takeoverReplies s fun t => t = s)
  ∧ (∀ s e, (engOf s e).state = .testing → Runs (.standbySelftestDone e true) s fun t =>
      (engOf t e).state = (if activeRuns s && mirrorFits s e then .copying else .waiting))
  ∧ (∀ s e, (engOf s e).state = .testing → (engOf s e).fails < 2 → Runs (.standbySelftestDone e false) s fun t =>
      (engOf t e).fails = (engOf s e).fails + 1 ∧ (engOf t e).state = .testing)
  ∧ (∀ s e, (engOf s e).state = .testing → 2 ≤ (engOf s e).fails → Runs (.standbySelftestDone e false) s fun t =>
      (engOf t e).state = .failed)
  ∧ (∀ s e, (engOf s e).state = .copying → (engOf s e).copied = true → activeRuns s = true → Runs (.standbyReady e) s fun t =>
      (engOf t e).state = .standby ∧ (engOf t e).wait = none)
  ∧ (∀ s h, s.rd.holdSince = some h → h + s.rd.holdS * 1000 * ms ≤ s.clock → activeRuns s = true → s.rd.planned = none →
      s.rd.change = none → (engOf s s.rd.preferred).state = .standby → s.eng.active ≠ s.rd.preferred → Runs .revertHoldExpiry s fun t =>
        t.rd.planned = some { kind := 2, target := s.rd.preferred, startedAt := s.clock, startNs32 := ns32 s } ∧ t.eng.stopped = true)
  ∧ (∀ c s, Accepted opCePairQuery c s → Answers (.cePairQuery c) 0x0C01 c s fun a t =>
      t = s ∧ a.result.take 8 = leBytes 4 (ceOwner s) ++ leBytes 4 (pairReg s 0))
  ∧ (∀ c s, Accepted opCePairSet c s → Answers (.cePairSet c) 0x0C02 c s fun a t =>
      t.rd.holdS = par c 0 2 ∧ t.rd.preferred = par c 2 1 ∧ a.result = leBytes 2 s.rd.holdS ++ leBytes 1 s.rd.preferred ++ [0])
  ∧ (∀ c s, Accepted opCeSwitchover c s → par c 0 1 = s.eng.active → Answers (.ceSwitchover c) 0x0C03 c s fun a t =>
      t = s ∧ a.result = zeros 4)
  ∧ (∀ c s, Accepted opCeSwitchover c s → par c 0 1 ≠ s.eng.active → Runs (.ceSwitchover c) s fun t => t.eng.stopped = true
      ∧ t.rd.planned = some { kind := 1, target := par c 0 1, startedAt := s.clock, startNs32 := ns32 s } ∧ heldKey t keyPair = true)
  ∧ (∀ c img s, Accepted (opCeStandbyRestart img) c s → par c 0 1 = 2 → Runs (.ceStandbyRestart c img) s fun t =>
      (engOf t (peer s.eng.active)).wait = some s.eng.nextWait ∧ (engOf t (peer s.eng.active)).slot = (engOf s s.eng.active).slot
        ∧ (engOf t (peer s.eng.active)).image = (engOf s s.eng.active).image ∧ (engOf t (peer s.eng.active)).fails = 0)
  ∧ (∀ c img s, Accepted (opCeStandbyRestart img) c s → par c 0 1 ≠ 2 → flashResult s (par c 0 1) 0 img = 1 →
      Runs (.ceStandbyRestart c img) s fun t => (engOf t (peer s.eng.active)).wait = some s.eng.nextWait
        ∧ (engOf t (peer s.eng.active)).slot = par c 0 1 ∧ (engOf t (peer s.eng.active)).fails = 0
        ∧ (engOf t (peer s.eng.active)).image = imageEntry 1 (areaImage s (par c 0 1) 0 img).toImageCheck)
  ∧ (∀ c img s, Accepted (opCeStandbyRestart img) c s → par c 0 1 ≠ 2 → flashResult s (par c 0 1) 0 img ≠ 1 →
      Runs (.ceStandbyRestart c img) s fun t => t = answer 0x0C04 c { status := imageStatus (flashResult s (par c 0 1) 0 img) } s)

/-! ### Power, heat and health -/

/-- R326 to R345, Tables 16-5 to 16-9, 17-3, 17-7 and 17-8: samples of the governor and class C quanta, reports, the TEST unlock, a
detector that fires, and the commands of both. That HM_REPORT_SET keeps RING_SEQ is the model's choice (assumption log 61), and so are the
sample at which TEMPERATURE fires and the rows at which an injected SRAM error is placed and found (assumption log 93). -/
def Obligations.GovernorAndHealthComplete : Prop :=
  (∀ s x, s.gov.lastSample + 100 * us ≤ s.clock → s.gov.next = none → x.tile < tiles s → service s x.tile ≠ .outOfService
      → tget? s.hm.hot x.tile = none →
      Runs (.governorSample [x]) s fun t => t.gov.lastSample = s.clock ∧ t.gov.powerDw = x.powerDw ∧ t.gov.classADw = x.classADw
        ∧ (govTile t x.tile).powerDw = x.powerDw ∧ (govTile t x.tile).temps = x.temps ∧ (govTile t x.tile).thermal
          = thermalNext (ceilOf s x.tile) (govTile s x.tile).thermal (hottestOf x.temps 0 (0, x.temps.headD 0)).2
        ∧ (detOf t x.tile 0x10).count = (detOf s x.tile 0x10).count + (if overheated x.temps then 1 else 0))
  ∧ (∀ s l, s.clock < s.gov.lastSample + 100 * us → Runs (.governorSample l) s fun t => t = s)
  ∧ (∀ s, s.gov.critical = true → s.gov.lastCritEvent + 100 * ms ≤ s.clock → Runs .criticalRepeat s fun t =>
      t.gov.lastCritEvent = s.clock ∧ t.gov.critical = true)
  ∧ (∀ s, s.gov.critical = false → Runs .criticalRepeat s fun t => t = s)
  ∧ (∀ s k j, (govTile s k).jobs = [j] → j.running = false → j.starved = false → j.admittedAt.getD j.since + 60000 * ms ≤ s.clock →
    Runs (.cStarved k) s fun t =>
      (govTile t k).jobs = [{ j with starved := true }])
  ∧ (∀ s k, (govTile s k).jobs = [] → Runs (.cStarved k) s fun t => t = s)
  ∧ (∀ s k n j, (govTile s k).jobs[n]? = some j → j.running = true → 2 ≤ j.left → j.kind ≠ .selfTest → Runs (.classCQuantumDone k n) s fun t =>
      (govTile t k).jobs = (govTile s k).jobs.set n { j with running := false, left := j.left - 1 })
  ∧ (∀ s k n j l, (govTile s k).jobs[n]? = some j → j.running = true → j.left = 1 → j.endless = false → j.kind = .eye l →
      Runs (.classCQuantumDone k n) s fun t => (govTile t k).jobs = (govTile s k).jobs.eraseIdx n
        ∧ (laneOf t l).eye = (laneOf s l).eye.map fun e => { e with done := true })
  ∧ (∀ s k n j, (govTile s k).jobs[n]? = some j → j.running = false → Runs (.classCQuantumDone k n) s fun t => t = s)
  ∧ (∀ c s, Accepted opPgConfig c s → Answers (.pgConfig c) 0x0D01 c s fun a t => latestConf t = govConfOf c s ∧ t.gov.conf = s.gov.conf
      ∧ a.result = leBytes 4 ((ns s + (s.gov.lastSample + 100 * us - s.clock)) % 2 ^ 32) ++ zeros 4)
  ∧ (∀ c s, Accepted opPgQuery c s → Answers (.pgQuery c) 0x0D02 c s fun a t => t = s ∧ a.result = windowBytes (pgReg s) 6)
  ∧ (∀ c s, Accepted opPgTileQuery c s → Answers (.pgTileQuery c) 0x0D03 c s fun a t =>
      t = s ∧ a.result = windowBytes (pgTileReg s (par c 0 1)) 8)
  ∧ (∀ c s, Accepted opPgSensorRead c s → Answers (.pgSensorRead c) 0x0D04 c s fun a t =>
      t = s ∧ a.result = windowBytes (sensorView s (par c 0 1)) 24)
  ∧ (∀ s, s.hm.lastReport + 100 * ms ≤ s.clock → Runs .healthReportTimer s fun t => t.hm.lastReport = s.clock
      ∧ (∀ k d, d < 32 → serving s k = true → (detOf t k d).period = 0) ∧ ∀ p, p < tiles s → (tget {} s.hm.rings p).enabled = true →
        connected s p = true → (tget {} t.hm.rings p).seq = (tget {} s.hm.rings p).seq +
          BitVec.ofNat 32 (((List.range (tiles s)).filter (serving s)).length
            + ((List.range 2).filter fun e => decide ((engOf s e).state ≠ .absent)).length))
  ∧ (∀ s, s.clock < s.hm.lastReport + 100 * ms → Runs .healthReportTimer s fun t => t = s)
  ∧ (∀ s u d, s.hm.unlock = some (u, d) → Runs .testUnlockExpiry s fun t => (d ≤ s.clock → t.hm.unlock = none) ∧ (s.clock < d → t = s))
  ∧ (∀ c s, Accepted opHmQuery c s → Answers (.hmQuery c) 0x0E01 c s fun a t => t = s ∧ a.result.take 12
      = leBytes 8 (detOf s (par c 0 1) (par c 1 1)).count.toNat ++ leBytes 4 (detOf s (par c 0 1) (par c 1 1)).injected.toNat)
  ∧ (∀ c s, Accepted opHmThreshSet c s → Answers (.hmThreshSet c) 0x0E02 c s fun _ t => ∀ k ∈ namedTiles s (par c 0 1),
      detAbsent s k (par c 1 1) = false → perS t k (par c 1 1) = par c 2 2)
  ∧ (∀ c s, Accepted opHmReportSet c s → Answers (.hmReportSet c) 0x0E03 c s fun a t =>
      tget {} t.hm.rings c.port = { tget {} s.hm.rings c.port with
          base := par c 0 8, slotsLog2 := slotsLog2 (par c 8 2), enabled := bit (par c 10 1) 0, irqEn := bit (par c 10 1) 1
          vector := par c 12 2 }
        ∧ a.result = leBytes 4 (tget {} s.hm.rings c.port).seq.toNat)
  ∧ (∀ c s, Accepted opHmTestUnlock c s → Answers (.hmTestUnlock c) 0x0E10 c s fun a t =>
      t.hm.unlock = some (ns32Of (ns s + 10000 * ms), s.clock + 10000 * ms) ∧ a.result = leBytes 4 (ns32Of (ns s + 10000 * ms)).toNat)
  ∧ (∀ c s, Accepted opHmInject c s → Answers (.hmInject c) 0x0E11 c s fun a t =>
      detOf t (par c 0 1) (par c 1 1) = { detOf s (par c 0 1) (par c 1 1) with
          pending := par c 2 2, unit := par c 4 1, value := signed 16 (par c 8 2), duration := par c 10 2 }
        ∧ a.result = leBytes 2 (par c 2 2) ++ zeros 2)
  ∧ (∀ s k d u x, serving s k = true → d = 0x02 ∨ d = 0x0F → u < unitCount s k d → injectionDue s k d u = false →
      Runs (.hwDetectorOccurrence k d u (.act (some x))) s fun t => (detOf t k d).count = (detOf s k d).count + 1
        ∧ (detOf t k d).stampNs32 = ns32 s ∧ tget? t.hm.last k = some { det := d, stampNs32 := ns32 s })
  ∧ (∀ s k u x, serving s k = true → u = 0 → injectionDue s k 0x0D u = false → Runs (.hwDetectorOccurrence k 0x0D u (.act (some x))) s fun t =>
      (detOf t k 0x0D).count = (detOf s k 0x0D).count + 1 ∧ tget? t.time.locked k = some false)
  ∧ (∀ s k u, serving s k = true → u < unitCount s k 0x00 → u ≠ 9 → injectionDue s k 0x00 u = true →
      Runs (.hwDetectorOccurrence k 0x00 u (.act none)) s fun t => u ∈ (detOf t k 0x00).sram ∧ (detOf t k 0x00).count = (detOf s k 0x00).count)
  ∧ (∀ s k u x, serving s k = true → u < unitCount s k 0x00 → u ≠ 9 → u ∈ (detOf s k 0x00).sram →
      Runs (.hwDetectorOccurrence k 0x00 u (.read x false)) s fun t => (detOf t k 0x00).sram = (detOf s k 0x00).sram.erase u
        ∧ (detOf t k 0x00).count = (detOf s k 0x00).count + 1)
  ∧ (∀ s k d u r, serving s k = false → Runs (.hwDetectorOccurrence k d u r) s fun t => t = s)
end

