-- ==== Sys2Proof/Laws/Bytes.lean ====
section
/-!
SUPPORT. Little-endian fields of a run of bytes: what is written at an offset is what is read there.
-/
namespace Sys2Proof.Machine
open Sys2Proof

@[simp] theorem leBytes_length (n v : Nat) : (leBytes n v).length = n := by
  induction n generalizing v with
  | zero => rfl
  | succ n ih => simp [leBytes, ih]

@[simp] theorem zeros_length (n : Nat) : (zeros n).length = n := by simp [zeros]

/-- A field behind a prefix of known length. -/
theorem le_append_right (a b : List Byte) (off n : Nat) (h : a.length ≤ off) : le (a ++ b) off n = le b (off - a.length) n := by
  unfold le
  rw [List.drop_append, List.drop_eq_nil_of_le h, List.nil_append]

/-- A field within a prefix. -/
theorem le_append_left (a b : List Byte) (off n : Nat) (h : off + n ≤ a.length) : le (a ++ b) off n = le a off n := by
  unfold le
  rw [List.drop_append_of_le_length (by omega), List.take_append_of_le_length (by simp; omega)]

theorem le_leBytes (n v : Nat) : le (leBytes n v) 0 n = v % 256 ^ n := by
  induction n generalizing v with
  | zero => simp [le, leBytes, Nat.mod_one]
  | succ n ih =>
    have h : le (leBytes (n + 1) v) 0 (n + 1) = v % 256 + 256 * le (leBytes n (v / 256)) 0 n := by
      simp [le, leBytes, BitVec.toNat_ofNat]
    rw [h, ih, Nat.pow_succ, Nat.mul_comm (256 ^ n) 256, Nat.mod_mul]

/-- The field just written in front. -/
theorem le_leBytes_append (n v : Nat) (r : List Byte) : le (leBytes n v ++ r) 0 n = v % 256 ^ n := by
  rw [le_append_left _ _ _ _ (by simp), le_leBytes]

/-- A field past the one in front. -/
theorem le_skip (n v k m : Nat) (r : List Byte) (h : n ≤ k) : le (leBytes n v ++ r) k m = le r (k - n) m := by
  rw [le_append_right _ _ _ _ (by simpa using h), leBytes_length]

end Sys2Proof.Machine
end

