-- ==== Sys2Proof/Laws/Commands.lean ====
section
/-!
SUPPORT. What running an opcode can do, once for all of them: the refusals, the answers and the waits of `runOp`.
-/
namespace Sys2Proof.Machine
open Sys2Proof

theorem afterEvents_same {o : OpDef} {c : Cmd} {s : State} (h : o.first c s = s) : afterEvents o c s = s := by
  simp [afterEvents, h]

/-- Every opcode row is run by the one checked path. -/
theorem exec_opRow (i : Instr) (s : State) (o : OpDef) (c : Cmd) (h : opRow i = some (o, c)) : exec i s = .next (runOp o c s) := by
  cases i <;> first
    | (simp only [opRow, Option.some.injEq, Prod.mk.injEq] at h; obtain ⟨rfl, rfl⟩ := h; rfl)
    | (simp [opRow] at h)

theorem runOp_notServed {o : OpDef} {c : Cmd} {s : State} (h : commandsRun s = false) : runOp o c s = s := by
  simp [runOp, h]

theorem runOp_tooLong {o : OpDef} {c : Cmd} {s : State} (h : commandsRun s = true) (hl : 4096 < c.params.length) :
    runOp o c s = tooLong o.code c s := by
  simp [runOp, h, hl]

theorem runOp_refused {o : OpDef} {c : Cmd} {s : State} {f : Fail} (h : commandsRun s = true) (hl : c.params.length ≤ 4096)
    (he : afterEvents o c s = s) (hc : check o c s = some f) :
    runOp o c s = answer o.code c { status := f.status, detail := f.detail } s := by
  simp [runOp, runChecked, h, Nat.not_lt.mpr hl, he, hc]

theorem runOp_done {o : OpDef} {c : Cmd} {s t : State} {a : Answer} (h : Accepted o c s) (ha : o.act c s = .done t a) :
    runOp o c s = answer o.code c a t := by
  obtain ⟨h1, h2, h3, h4⟩ := h
  simp [runOp, runChecked, h1, Nat.not_lt.mpr h2, afterEvents_same h3, h4, ha]

theorem runOp_wait {o : OpDef} {c : Cmd} {s t : State} (h : Accepted o c s) (ha : o.act c s = .wait t) : runOp o c s = t := by
  obtain ⟨h1, h2, h3, h4⟩ := h
  simp [runOp, runChecked, h1, Nat.not_lt.mpr h2, afterEvents_same h3, h4, ha]

theorem runOp_fail {o : OpDef} {c : Cmd} {s : State} {f : Fail} (h : Accepted o c s) (ha : o.act c s = .fail f) :
    runOp o c s = answer o.code c { status := f.status, detail := f.detail } s := by
  obtain ⟨h1, h2, h3, h4⟩ := h
  simp [runOp, runChecked, h1, Nat.not_lt.mpr h2, afterEvents_same h3, h4, ha]

/-- An opcode whose effect is done at once answers with it. -/
theorem answers_of_done {i : Instr} {o : OpDef} {c : Cmd} {s t : State} {a : Answer} {P : Answer → State → Prop}
    (hi : opRow i = some (o, c)) (h : Accepted o c s) (ha : o.act c s = .done t a) (hs : a.status = .ok) (hp : P a t) :
    Answers i o.code c s P :=
  ⟨a, t, hs, hp, by rw [exec_opRow i s o c hi, runOp_done h ha]⟩

/-- An opcode that waits leaves the state with its wait in it. -/
theorem runs_of_wait {i : Instr} {o : OpDef} {c : Cmd} {s t : State} {P : State → Prop}
    (hi : opRow i = some (o, c)) (h : Accepted o c s) (ha : o.act c s = .wait t) (hp : P t) : Runs i s P :=
  ⟨t, by rw [exec_opRow i s o c hi, runOp_wait h ha], hp⟩

/-- An answer of an opcode that is done, and says what P says. -/
def AnswersIn (P : Answer → State → Prop) : Res → Prop
  | .done t a => a.status = .ok ∧ P a t
  | _ => False

/-- An opcode waits in a state of which P holds. -/
def WaitsIn (P : State → Prop) : Res → Prop
  | .wait t => P t
  | _ => False

theorem answers_of_act {i : Instr} {o : OpDef} {c : Cmd} {s : State} {P : Answer → State → Prop}
    (hi : opRow i = some (o, c)) (h : Accepted o c s) (ha : AnswersIn P (o.act c s)) : Answers i o.code c s P := by
  cases e : o.act c s with
  | done t a => rw [e] at ha; exact answers_of_done hi h e ha.1 ha.2
  | wait t => rw [e] at ha; exact ha.elim
  | fail f => rw [e] at ha; exact ha.elim

theorem runs_of_act {i : Instr} {o : OpDef} {c : Cmd} {s : State} {P : State → Prop}
    (hi : opRow i = some (o, c)) (h : Accepted o c s) (ha : WaitsIn P (o.act c s)) : Runs i s P := by
  cases e : o.act c s with
  | wait t => rw [e] at ha; exact runs_of_wait hi h e ha
  | done t a => rw [e] at ha; exact ha.elim
  | fail f => rw [e] at ha; exact ha.elim

end Sys2Proof.Machine
end

