-- ==== Sys2Proof/Laws/Tab.lean ====
section
/-!
SUPPORT. Sparse tables: reading after writing and removing, and the rise of their numbers.
-/
namespace Sys2Proof.Machine

variable {α : Type}

@[simp] theorem tget?_nil (k : Nat) : tget? ([] : Tab α) k = none := rfl
@[simp] theorem tget_nil (d : α) (k : Nat) : tget d [] k = d := rfl

@[simp] theorem tget?_tput_same (t : Tab α) (k : Nat) (v : α) : tget? (tput t k v) k = some v := by
  induction t with
  | nil => simp [tput, tget?]
  | cons x t ih =>
    obtain ⟨j, a⟩ := x
    by_cases h : k < j
    · simp [tput, tget?, h]
    · by_cases h' : k = j
      · simp [tput, tget?, h']
      · simp [tput, tget?, h, h', Ne.symm h', ih]

theorem tget?_tput_other (t : Tab α) {k i : Nat} (v : α) (h : i ≠ k) : tget? (tput t k v) i = tget? t i := by
  induction t with
  | nil => simp [tput, tget?, h.symm]
  | cons x t ih =>
    obtain ⟨j, a⟩ := x
    by_cases h1 : k < j
    · simp [tput, tget?, h1, h.symm]
    · by_cases h2 : k = j
      · subst h2; simp [tput, tget?, h.symm]
      · simp [tput, tget?, h1, h2, ih]

@[simp] theorem tget_tput_same (d : α) (t : Tab α) (k : Nat) (v : α) : tget d (tput t k v) k = v := by simp [tget]

theorem tget_tput_other (d : α) (t : Tab α) {k i : Nat} (v : α) (h : i ≠ k) : tget d (tput t k v) i = tget d t i := by
  simp [tget, tget?_tput_other t v h]

@[simp] theorem tget_tmod_same (d : α) (t : Tab α) (k : Nat) (f : α → α) : tget d (tmod d t k f) k = f (tget d t k) := by
  simp [tmod]

theorem tget_tmod_other (d e : α) (t : Tab α) {k i : Nat} (f : α → α) (h : i ≠ k) : tget e (tmod d t k f) i = tget e t i := by
  simp [tmod, tget_tput_other e t _ h]

theorem tsorted_mono {lo lo' : Nat} (t : Tab α) (h : lo' ≤ lo) (ht : tsorted lo t = true) : tsorted lo' t = true := by
  cases t with
  | nil => rfl
  | cons x t => simp only [tsorted, Bool.and_eq_true, decide_eq_true_eq] at ht ⊢; exact ⟨by omega, ht.2⟩

theorem tsorted_tput {lo : Nat} (t : Tab α) (k : Nat) (v : α) (hk : lo ≤ k) (ht : tsorted lo t = true) :
    tsorted lo (tput t k v) = true := by
  induction t generalizing lo with
  | nil => simp [tput, tsorted, hk]
  | cons x t ih =>
    obtain ⟨j, a⟩ := x
    simp only [tsorted, Bool.and_eq_true, decide_eq_true_eq] at ht
    by_cases h1 : k < j
    · simp only [tput, h1, if_true, tsorted, Bool.and_eq_true, decide_eq_true_eq]
      exact ⟨hk, by omega, ht.2⟩
    · by_cases h2 : k = j
      · subst h2; simp only [tput, Nat.lt_irrefl, if_false, if_true, tsorted, Bool.and_eq_true, decide_eq_true_eq]; exact ht
      · simp only [tput, h1, h2, if_false, tsorted, Bool.and_eq_true, decide_eq_true_eq]
        exact ⟨ht.1, ih (by omega) ht.2⟩

theorem tsorted_tdel {lo : Nat} (t : Tab α) (k : Nat) (ht : tsorted lo t = true) : tsorted lo (tdel t k) = true := by
  induction t generalizing lo with
  | nil => rfl
  | cons x t ih =>
    obtain ⟨j, a⟩ := x
    simp only [tsorted, Bool.and_eq_true, decide_eq_true_eq] at ht
    by_cases h : j = k
    · simp only [tdel, h, if_true]; exact tsorted_mono t (by omega) (h ▸ ht.2)
    · simp only [tdel, h, if_false, tsorted, Bool.and_eq_true, decide_eq_true_eq]; exact ⟨ht.1, ih ht.2⟩

/-- A number below the least of a table is not listed. -/
theorem tget?_below {lo k : Nat} (t : Tab α) (h : k < lo) (ht : tsorted lo t = true) : tget? t k = none := by
  induction t generalizing lo with
  | nil => rfl
  | cons x t ih =>
    obtain ⟨j, a⟩ := x
    simp only [tsorted, Bool.and_eq_true, decide_eq_true_eq] at ht
    have hj : j ≠ k := by omega
    simp only [tget?, hj, if_false]
    exact ih (by omega) ht.2

/-- A number that is removed from a table in canonical form is not listed any more. -/
theorem tget?_tdel_same {lo : Nat} (t : Tab α) (k : Nat) (ht : tsorted lo t = true) : tget? (tdel t k) k = none := by
  induction t generalizing lo with
  | nil => rfl
  | cons x t ih =>
    obtain ⟨j, a⟩ := x
    simp only [tsorted, Bool.and_eq_true, decide_eq_true_eq] at ht
    by_cases h : j = k
    · simp only [tdel, h, if_true]
      exact tget?_below t (by omega) (h ▸ ht.2)
    · simp only [tdel, h, if_false, tget?]
      exact ih ht.2

theorem tget?_tdel_other (t : Tab α) {k i : Nat} (h : i ≠ k) : tget? (tdel t k) i = tget? t i := by
  induction t with
  | nil => rfl
  | cons x t ih =>
    obtain ⟨j, a⟩ := x
    by_cases h1 : j = k
    · have : j ≠ i := by omega
      simp [tdel, tget?, h1, h.symm]
    · simp [tdel, tget?, h1, ih]

/-- An entry of a table after a write is the entry written, or one that was there. -/
theorem mem_tput {t : Tab α} {k : Nat} {v : α} {x : Nat × α} (h : x ∈ tput t k v) : x = (k, v) ∨ x ∈ t := by
  induction t with
  | nil => simpa [tput] using h
  | cons y t ih =>
    obtain ⟨j, a⟩ := y
    by_cases h1 : k < j
    · simpa [tput, h1] using h
    · by_cases h2 : k = j
      · simp only [tput, Nat.lt_irrefl, h2, if_false, if_true, List.mem_cons] at h ⊢
        exact h.imp id Or.inr
      · simp only [tput, h1, h2, if_false, List.mem_cons] at h ⊢
        rcases h with h | h
        · exact .inr (.inl h)
        · exact (ih h).imp id Or.inr

theorem mem_tdel {t : Tab α} {k : Nat} {x : Nat × α} (h : x ∈ tdel t k) : x ∈ t := by
  induction t with
  | nil => simp [tdel] at h
  | cons y t ih =>
    obtain ⟨j, a⟩ := y
    by_cases h1 : j = k
    · simp only [tdel, h1, if_true] at h; exact List.mem_cons_of_mem _ h
    · simp only [tdel, h1, if_false, List.mem_cons] at h ⊢; exact h.imp id ih

/-- What a table lists for a number is one of its entries. -/
theorem mem_of_tget? {t : Tab α} {k : Nat} {v : α} (h : tget? t k = some v) : (k, v) ∈ t := by
  induction t with
  | nil => simp at h
  | cons y t ih =>
    obtain ⟨j, a⟩ := y
    by_cases h1 : j = k
    · simp only [tget?, h1, if_true, Option.some.injEq] at h; simp [h1, h]
    · simp only [tget?, h1, if_false] at h; exact List.mem_cons_of_mem _ (ih h)

end Sys2Proof.Machine
end

