-- ==== Sys2Proof/Laws/Replies.lean ====
section
/-!
SUPPORT. What signalling a vector and writing replies can touch, once for each operation.
-/
namespace Sys2Proof.Machine
open Sys2Proof

/-- What signalling and replies may touch. -/
def OnPath (q : Nat) (s t : State) : Prop :=
  t = { s with
        mv := { s.mv with queues := t.mv.queues }
        host := { s.host with vectors := t.host.vectors, intx := t.host.intx, ports := t.host.ports }
        boot := { s.boot with mailbox := t.boot.mailbox }
        out := t.out }
  ∧ (∀ k, k ≠ q → queue? t k = queue? s k) ∧ s.out <+: t.out

theorem OnPath.refl (q : Nat) (s : State) : OnPath q s s := ⟨rfl, fun _ _ => rfl, List.prefix_refl _⟩
theorem OnPath.trans {q : Nat} {s t u : State} (h : OnPath q s t) (g : OnPath q t u) : OnPath q s u := by
  obtain ⟨h1, h2, h3⟩ := h
  obtain ⟨g1, g2, g3⟩ := g
  refine ⟨?_, fun k hk => (g2 k hk).trans (h2 k hk), h3.trans g3⟩
  rw [g1, h1]
theorem onPath_emit (q : Nat) (o : Out) (s : State) : OnPath q s (emit o s) :=
  ⟨rfl, fun _ _ => rfl, List.prefix_append _ _⟩
theorem onPath_putQueue (q : Nat) (v : Queue) (s : State) : OnPath q s (putQueue q v s) :=
  ⟨rfl, fun k hk => by simp [queue?, putQueue, modMv, tget?_tput_other _ _ hk], List.prefix_refl _⟩
theorem onPath_modQueue (q : Nat) (f : Queue → Queue) (s : State) : OnPath q s (modQueue q f s) := by
  unfold modQueue; cases queue? s q with
  | none => exact .refl _ _
  | some v => exact onPath_putQueue _ _ _
theorem onPath_modPort (q p : Nat) (f : Port → Port) (s : State) : OnPath q s (modPort p f s) :=
  ⟨rfl, fun _ _ => rfl, List.prefix_refl _⟩
theorem onPath_vectors (q : Nat) (s : State) (x) : OnPath q s (modHost s fun h => { h with vectors := x }) :=
  ⟨rfl, fun _ _ => rfl, List.prefix_refl _⟩
theorem onPath_intx (q : Nat) (s : State) (f : HostState → Tab U32) : OnPath q s (modHost s fun h => { h with intx := f h }) :=
  ⟨rfl, fun _ _ => rfl, List.prefix_refl _⟩
theorem onPath_signalVector (q via p v : Nat) (s : State) : OnPath q s (signalVector via p v s) := by
  unfold signalVector
  dsimp only
  split
  · split
    · exact ⟨rfl, fun _ _ => rfl, List.prefix_refl _⟩
    · exact onPath_emit _ _ _
  · split
    · exact onPath_intx _ _ _
    · exact (onPath_intx _ _ _).trans ((onPath_modPort _ _ _ _).trans (onPath_emit _ _ _))
theorem onPath_putReply (p n : Nat) (r : Reply) (irq : Bool) (s : State) : OnPath (replyQueue p n) s (putReply p n r irq s) := by
  unfold putReply
  cases h : queue? s (replyQueue p n) with
  | none => exact .refl _ _
  | some v =>
    dsimp only
    split
    · exact (onPath_emit _ _ _).trans ((onPath_putQueue _ _ _).trans (onPath_signalVector _ _ _ _ _))
    · exact (onPath_emit _ _ _).trans (onPath_putQueue _ _ _)
theorem onPath_flushReplies (p n k : Nat) (s : State) : OnPath (replyQueue p n) s (flushReplies p n k s) := by
  induction k generalizing s with
  | zero => exact .refl _ _
  | succ k ih =>
    unfold flushReplies
    cases h : queue? s (replyQueue p n) with
    | none => exact .refl _ _
    | some v =>
      dsimp only
      split
      · exact .refl _ _
      · split
        · exact ((onPath_putQueue _ _ _).trans (onPath_putReply _ _ _ _ _)).trans (ih _)
        · exact .refl _ _
theorem onPath_flushQueue (p n : Nat) (s : State) : OnPath (replyQueue p n) s (flushQueue p n s) := by
  unfold flushQueue; split
  · exact onPath_flushReplies _ _ _ _
  · exact .refl _ _
theorem onPath_sendReply (c : Cmd) (r : Reply) (s : State) : OnPath (replyQueue c.port c.queue) s (sendReply c r s) := by
  unfold sendReply
  split
  · exact ⟨rfl, fun _ _ => rfl, List.prefix_append _ _⟩
  · exact (onPath_modQueue _ _ _).trans (onPath_flushQueue _ _ _)

end Sys2Proof.Machine
end

