-- ==== Sys2Proof/Laws/State.lean ====
section
/-!
SUPPORT. What each update of one part of the state leaves in every field: one lemma for each field and update.
-/
namespace Sys2Proof.Machine
open Sys2Proof

@[simp] theorem modPkg_pending (s : State) (f : PkgState → PkgState) : (modPkg s f).pending = s.pending := rfl
@[simp] theorem modPkg_part (s : State) (f : PkgState → PkgState) : (modPkg s f).part = s.part := rfl
@[simp] theorem modPkg_clock (s : State) (f : PkgState → PkgState) : (modPkg s f).clock = s.clock := rfl
@[simp] theorem modPkg_free (s : State) (f : PkgState → PkgState) : (modPkg s f).free = s.free := rfl
@[simp] theorem modPkg_out (s : State) (f : PkgState → PkgState) : (modPkg s f).out = s.out := rfl
@[simp] theorem modPkg_pkg (s : State) (f : PkgState → PkgState) : (modPkg s f).pkg = f s.pkg := rfl
@[simp] theorem modPkg_eng (s : State) (f : PkgState → PkgState) : (modPkg s f).eng = s.eng := rfl
@[simp] theorem modPkg_lanes (s : State) (f : PkgState → PkgState) : (modPkg s f).lanes = s.lanes := rfl
@[simp] theorem modPkg_st (s : State) (f : PkgState → PkgState) : (modPkg s f).st = s.st := rfl
@[simp] theorem modPkg_mv (s : State) (f : PkgState → PkgState) : (modPkg s f).mv = s.mv := rfl
@[simp] theorem modPkg_host (s : State) (f : PkgState → PkgState) : (modPkg s f).host = s.host := rfl
@[simp] theorem modPkg_time (s : State) (f : PkgState → PkgState) : (modPkg s f).time = s.time := rfl
@[simp] theorem modPkg_cal (s : State) (f : PkgState → PkgState) : (modPkg s f).cal = s.cal := rfl
@[simp] theorem modPkg_ev (s : State) (f : PkgState → PkgState) : (modPkg s f).ev = s.ev := rfl
@[simp] theorem modPkg_boot (s : State) (f : PkgState → PkgState) : (modPkg s f).boot = s.boot := rfl
@[simp] theorem modPkg_mo (s : State) (f : PkgState → PkgState) : (modPkg s f).mo = s.mo := rfl
@[simp] theorem modPkg_gov (s : State) (f : PkgState → PkgState) : (modPkg s f).gov = s.gov := rfl
@[simp] theorem modPkg_cd (s : State) (f : PkgState → PkgState) : (modPkg s f).cd = s.cd := rfl
@[simp] theorem modPkg_ad (s : State) (f : PkgState → PkgState) : (modPkg s f).ad = s.ad := rfl
@[simp] theorem modPkg_hm (s : State) (f : PkgState → PkgState) : (modPkg s f).hm = s.hm := rfl
@[simp] theorem modPkg_fs (s : State) (f : PkgState → PkgState) : (modPkg s f).fs = s.fs := rfl
@[simp] theorem modPkg_rd (s : State) (f : PkgState → PkgState) : (modPkg s f).rd = s.rd := rfl

@[simp] theorem modEng_pending (s : State) (f : EngState → EngState) : (modEng s f).pending = s.pending := rfl
@[simp] theorem modEng_part (s : State) (f : EngState → EngState) : (modEng s f).part = s.part := rfl
@[simp] theorem modEng_clock (s : State) (f : EngState → EngState) : (modEng s f).clock = s.clock := rfl
@[simp] theorem modEng_free (s : State) (f : EngState → EngState) : (modEng s f).free = s.free := rfl
@[simp] theorem modEng_out (s : State) (f : EngState → EngState) : (modEng s f).out = s.out := rfl
@[simp] theorem modEng_pkg (s : State) (f : EngState → EngState) : (modEng s f).pkg = s.pkg := rfl
@[simp] theorem modEng_eng (s : State) (f : EngState → EngState) : (modEng s f).eng = f s.eng := rfl
@[simp] theorem modEng_lanes (s : State) (f : EngState → EngState) : (modEng s f).lanes = s.lanes := rfl
@[simp] theorem modEng_st (s : State) (f : EngState → EngState) : (modEng s f).st = s.st := rfl
@[simp] theorem modEng_mv (s : State) (f : EngState → EngState) : (modEng s f).mv = s.mv := rfl
@[simp] theorem modEng_host (s : State) (f : EngState → EngState) : (modEng s f).host = s.host := rfl
@[simp] theorem modEng_time (s : State) (f : EngState → EngState) : (modEng s f).time = s.time := rfl
@[simp] theorem modEng_cal (s : State) (f : EngState → EngState) : (modEng s f).cal = s.cal := rfl
@[simp] theorem modEng_ev (s : State) (f : EngState → EngState) : (modEng s f).ev = s.ev := rfl
@[simp] theorem modEng_boot (s : State) (f : EngState → EngState) : (modEng s f).boot = s.boot := rfl
@[simp] theorem modEng_mo (s : State) (f : EngState → EngState) : (modEng s f).mo = s.mo := rfl
@[simp] theorem modEng_gov (s : State) (f : EngState → EngState) : (modEng s f).gov = s.gov := rfl
@[simp] theorem modEng_cd (s : State) (f : EngState → EngState) : (modEng s f).cd = s.cd := rfl
@[simp] theorem modEng_ad (s : State) (f : EngState → EngState) : (modEng s f).ad = s.ad := rfl
@[simp] theorem modEng_hm (s : State) (f : EngState → EngState) : (modEng s f).hm = s.hm := rfl
@[simp] theorem modEng_fs (s : State) (f : EngState → EngState) : (modEng s f).fs = s.fs := rfl
@[simp] theorem modEng_rd (s : State) (f : EngState → EngState) : (modEng s f).rd = s.rd := rfl

@[simp] theorem modMv_pending (s : State) (f : MoverState → MoverState) : (modMv s f).pending = s.pending := rfl
@[simp] theorem modMv_part (s : State) (f : MoverState → MoverState) : (modMv s f).part = s.part := rfl
@[simp] theorem modMv_clock (s : State) (f : MoverState → MoverState) : (modMv s f).clock = s.clock := rfl
@[simp] theorem modMv_free (s : State) (f : MoverState → MoverState) : (modMv s f).free = s.free := rfl
@[simp] theorem modMv_out (s : State) (f : MoverState → MoverState) : (modMv s f).out = s.out := rfl
@[simp] theorem modMv_pkg (s : State) (f : MoverState → MoverState) : (modMv s f).pkg = s.pkg := rfl
@[simp] theorem modMv_eng (s : State) (f : MoverState → MoverState) : (modMv s f).eng = s.eng := rfl
@[simp] theorem modMv_lanes (s : State) (f : MoverState → MoverState) : (modMv s f).lanes = s.lanes := rfl
@[simp] theorem modMv_st (s : State) (f : MoverState → MoverState) : (modMv s f).st = s.st := rfl
@[simp] theorem modMv_mv (s : State) (f : MoverState → MoverState) : (modMv s f).mv = f s.mv := rfl
@[simp] theorem modMv_host (s : State) (f : MoverState → MoverState) : (modMv s f).host = s.host := rfl
@[simp] theorem modMv_time (s : State) (f : MoverState → MoverState) : (modMv s f).time = s.time := rfl
@[simp] theorem modMv_cal (s : State) (f : MoverState → MoverState) : (modMv s f).cal = s.cal := rfl
@[simp] theorem modMv_ev (s : State) (f : MoverState → MoverState) : (modMv s f).ev = s.ev := rfl
@[simp] theorem modMv_boot (s : State) (f : MoverState → MoverState) : (modMv s f).boot = s.boot := rfl
@[simp] theorem modMv_mo (s : State) (f : MoverState → MoverState) : (modMv s f).mo = s.mo := rfl
@[simp] theorem modMv_gov (s : State) (f : MoverState → MoverState) : (modMv s f).gov = s.gov := rfl
@[simp] theorem modMv_cd (s : State) (f : MoverState → MoverState) : (modMv s f).cd = s.cd := rfl
@[simp] theorem modMv_ad (s : State) (f : MoverState → MoverState) : (modMv s f).ad = s.ad := rfl
@[simp] theorem modMv_hm (s : State) (f : MoverState → MoverState) : (modMv s f).hm = s.hm := rfl
@[simp] theorem modMv_fs (s : State) (f : MoverState → MoverState) : (modMv s f).fs = s.fs := rfl
@[simp] theorem modMv_rd (s : State) (f : MoverState → MoverState) : (modMv s f).rd = s.rd := rfl

@[simp] theorem modHost_pending (s : State) (f : HostState → HostState) : (modHost s f).pending = s.pending := rfl
@[simp] theorem modHost_part (s : State) (f : HostState → HostState) : (modHost s f).part = s.part := rfl
@[simp] theorem modHost_clock (s : State) (f : HostState → HostState) : (modHost s f).clock = s.clock := rfl
@[simp] theorem modHost_free (s : State) (f : HostState → HostState) : (modHost s f).free = s.free := rfl
@[simp] theorem modHost_out (s : State) (f : HostState → HostState) : (modHost s f).out = s.out := rfl
@[simp] theorem modHost_pkg (s : State) (f : HostState → HostState) : (modHost s f).pkg = s.pkg := rfl
@[simp] theorem modHost_eng (s : State) (f : HostState → HostState) : (modHost s f).eng = s.eng := rfl
@[simp] theorem modHost_lanes (s : State) (f : HostState → HostState) : (modHost s f).lanes = s.lanes := rfl
@[simp] theorem modHost_st (s : State) (f : HostState → HostState) : (modHost s f).st = s.st := rfl
@[simp] theorem modHost_mv (s : State) (f : HostState → HostState) : (modHost s f).mv = s.mv := rfl
@[simp] theorem modHost_host (s : State) (f : HostState → HostState) : (modHost s f).host = f s.host := rfl
@[simp] theorem modHost_time (s : State) (f : HostState → HostState) : (modHost s f).time = s.time := rfl
@[simp] theorem modHost_cal (s : State) (f : HostState → HostState) : (modHost s f).cal = s.cal := rfl
@[simp] theorem modHost_ev (s : State) (f : HostState → HostState) : (modHost s f).ev = s.ev := rfl
@[simp] theorem modHost_boot (s : State) (f : HostState → HostState) : (modHost s f).boot = s.boot := rfl
@[simp] theorem modHost_mo (s : State) (f : HostState → HostState) : (modHost s f).mo = s.mo := rfl
@[simp] theorem modHost_gov (s : State) (f : HostState → HostState) : (modHost s f).gov = s.gov := rfl
@[simp] theorem modHost_cd (s : State) (f : HostState → HostState) : (modHost s f).cd = s.cd := rfl
@[simp] theorem modHost_ad (s : State) (f : HostState → HostState) : (modHost s f).ad = s.ad := rfl
@[simp] theorem modHost_hm (s : State) (f : HostState → HostState) : (modHost s f).hm = s.hm := rfl
@[simp] theorem modHost_fs (s : State) (f : HostState → HostState) : (modHost s f).fs = s.fs := rfl
@[simp] theorem modHost_rd (s : State) (f : HostState → HostState) : (modHost s f).rd = s.rd := rfl

@[simp] theorem modTime_pending (s : State) (f : TimeState → TimeState) : (modTime s f).pending = s.pending := rfl
@[simp] theorem modTime_part (s : State) (f : TimeState → TimeState) : (modTime s f).part = s.part := rfl
@[simp] theorem modTime_clock (s : State) (f : TimeState → TimeState) : (modTime s f).clock = s.clock := rfl
@[simp] theorem modTime_free (s : State) (f : TimeState → TimeState) : (modTime s f).free = s.free := rfl
@[simp] theorem modTime_out (s : State) (f : TimeState → TimeState) : (modTime s f).out = s.out := rfl
@[simp] theorem modTime_pkg (s : State) (f : TimeState → TimeState) : (modTime s f).pkg = s.pkg := rfl
@[simp] theorem modTime_eng (s : State) (f : TimeState → TimeState) : (modTime s f).eng = s.eng := rfl
@[simp] theorem modTime_lanes (s : State) (f : TimeState → TimeState) : (modTime s f).lanes = s.lanes := rfl
@[simp] theorem modTime_st (s : State) (f : TimeState → TimeState) : (modTime s f).st = s.st := rfl
@[simp] theorem modTime_mv (s : State) (f : TimeState → TimeState) : (modTime s f).mv = s.mv := rfl
@[simp] theorem modTime_host (s : State) (f : TimeState → TimeState) : (modTime s f).host = s.host := rfl
@[simp] theorem modTime_time (s : State) (f : TimeState → TimeState) : (modTime s f).time = f s.time := rfl
@[simp] theorem modTime_cal (s : State) (f : TimeState → TimeState) : (modTime s f).cal = s.cal := rfl
@[simp] theorem modTime_ev (s : State) (f : TimeState → TimeState) : (modTime s f).ev = s.ev := rfl
@[simp] theorem modTime_boot (s : State) (f : TimeState → TimeState) : (modTime s f).boot = s.boot := rfl
@[simp] theorem modTime_mo (s : State) (f : TimeState → TimeState) : (modTime s f).mo = s.mo := rfl
@[simp] theorem modTime_gov (s : State) (f : TimeState → TimeState) : (modTime s f).gov = s.gov := rfl
@[simp] theorem modTime_cd (s : State) (f : TimeState → TimeState) : (modTime s f).cd = s.cd := rfl
@[simp] theorem modTime_ad (s : State) (f : TimeState → TimeState) : (modTime s f).ad = s.ad := rfl
@[simp] theorem modTime_hm (s : State) (f : TimeState → TimeState) : (modTime s f).hm = s.hm := rfl
@[simp] theorem modTime_fs (s : State) (f : TimeState → TimeState) : (modTime s f).fs = s.fs := rfl
@[simp] theorem modTime_rd (s : State) (f : TimeState → TimeState) : (modTime s f).rd = s.rd := rfl

@[simp] theorem modEv_pending (s : State) (f : EventState → EventState) : (modEv s f).pending = s.pending := rfl
@[simp] theorem modEv_part (s : State) (f : EventState → EventState) : (modEv s f).part = s.part := rfl
@[simp] theorem modEv_clock (s : State) (f : EventState → EventState) : (modEv s f).clock = s.clock := rfl
@[simp] theorem modEv_free (s : State) (f : EventState → EventState) : (modEv s f).free = s.free := rfl
@[simp] theorem modEv_out (s : State) (f : EventState → EventState) : (modEv s f).out = s.out := rfl
@[simp] theorem modEv_pkg (s : State) (f : EventState → EventState) : (modEv s f).pkg = s.pkg := rfl
@[simp] theorem modEv_eng (s : State) (f : EventState → EventState) : (modEv s f).eng = s.eng := rfl
@[simp] theorem modEv_lanes (s : State) (f : EventState → EventState) : (modEv s f).lanes = s.lanes := rfl
@[simp] theorem modEv_st (s : State) (f : EventState → EventState) : (modEv s f).st = s.st := rfl
@[simp] theorem modEv_mv (s : State) (f : EventState → EventState) : (modEv s f).mv = s.mv := rfl
@[simp] theorem modEv_host (s : State) (f : EventState → EventState) : (modEv s f).host = s.host := rfl
@[simp] theorem modEv_time (s : State) (f : EventState → EventState) : (modEv s f).time = s.time := rfl
@[simp] theorem modEv_cal (s : State) (f : EventState → EventState) : (modEv s f).cal = s.cal := rfl
@[simp] theorem modEv_ev (s : State) (f : EventState → EventState) : (modEv s f).ev = f s.ev := rfl
@[simp] theorem modEv_boot (s : State) (f : EventState → EventState) : (modEv s f).boot = s.boot := rfl
@[simp] theorem modEv_mo (s : State) (f : EventState → EventState) : (modEv s f).mo = s.mo := rfl
@[simp] theorem modEv_gov (s : State) (f : EventState → EventState) : (modEv s f).gov = s.gov := rfl
@[simp] theorem modEv_cd (s : State) (f : EventState → EventState) : (modEv s f).cd = s.cd := rfl
@[simp] theorem modEv_ad (s : State) (f : EventState → EventState) : (modEv s f).ad = s.ad := rfl
@[simp] theorem modEv_hm (s : State) (f : EventState → EventState) : (modEv s f).hm = s.hm := rfl
@[simp] theorem modEv_fs (s : State) (f : EventState → EventState) : (modEv s f).fs = s.fs := rfl
@[simp] theorem modEv_rd (s : State) (f : EventState → EventState) : (modEv s f).rd = s.rd := rfl

@[simp] theorem modBoot_pending (s : State) (f : BootState → BootState) : (modBoot s f).pending = s.pending := rfl
@[simp] theorem modBoot_part (s : State) (f : BootState → BootState) : (modBoot s f).part = s.part := rfl
@[simp] theorem modBoot_clock (s : State) (f : BootState → BootState) : (modBoot s f).clock = s.clock := rfl
@[simp] theorem modBoot_free (s : State) (f : BootState → BootState) : (modBoot s f).free = s.free := rfl
@[simp] theorem modBoot_out (s : State) (f : BootState → BootState) : (modBoot s f).out = s.out := rfl
@[simp] theorem modBoot_pkg (s : State) (f : BootState → BootState) : (modBoot s f).pkg = s.pkg := rfl
@[simp] theorem modBoot_eng (s : State) (f : BootState → BootState) : (modBoot s f).eng = s.eng := rfl
@[simp] theorem modBoot_lanes (s : State) (f : BootState → BootState) : (modBoot s f).lanes = s.lanes := rfl
@[simp] theorem modBoot_st (s : State) (f : BootState → BootState) : (modBoot s f).st = s.st := rfl
@[simp] theorem modBoot_mv (s : State) (f : BootState → BootState) : (modBoot s f).mv = s.mv := rfl
@[simp] theorem modBoot_host (s : State) (f : BootState → BootState) : (modBoot s f).host = s.host := rfl
@[simp] theorem modBoot_time (s : State) (f : BootState → BootState) : (modBoot s f).time = s.time := rfl
@[simp] theorem modBoot_cal (s : State) (f : BootState → BootState) : (modBoot s f).cal = s.cal := rfl
@[simp] theorem modBoot_ev (s : State) (f : BootState → BootState) : (modBoot s f).ev = s.ev := rfl
@[simp] theorem modBoot_boot (s : State) (f : BootState → BootState) : (modBoot s f).boot = f s.boot := rfl
@[simp] theorem modBoot_mo (s : State) (f : BootState → BootState) : (modBoot s f).mo = s.mo := rfl
@[simp] theorem modBoot_gov (s : State) (f : BootState → BootState) : (modBoot s f).gov = s.gov := rfl
@[simp] theorem modBoot_cd (s : State) (f : BootState → BootState) : (modBoot s f).cd = s.cd := rfl
@[simp] theorem modBoot_ad (s : State) (f : BootState → BootState) : (modBoot s f).ad = s.ad := rfl
@[simp] theorem modBoot_hm (s : State) (f : BootState → BootState) : (modBoot s f).hm = s.hm := rfl
@[simp] theorem modBoot_fs (s : State) (f : BootState → BootState) : (modBoot s f).fs = s.fs := rfl
@[simp] theorem modBoot_rd (s : State) (f : BootState → BootState) : (modBoot s f).rd = s.rd := rfl

@[simp] theorem modGov_pending (s : State) (f : GovState → GovState) : (modGov s f).pending = s.pending := rfl
@[simp] theorem modGov_part (s : State) (f : GovState → GovState) : (modGov s f).part = s.part := rfl
@[simp] theorem modGov_clock (s : State) (f : GovState → GovState) : (modGov s f).clock = s.clock := rfl
@[simp] theorem modGov_free (s : State) (f : GovState → GovState) : (modGov s f).free = s.free := rfl
@[simp] theorem modGov_out (s : State) (f : GovState → GovState) : (modGov s f).out = s.out := rfl
@[simp] theorem modGov_pkg (s : State) (f : GovState → GovState) : (modGov s f).pkg = s.pkg := rfl
@[simp] theorem modGov_eng (s : State) (f : GovState → GovState) : (modGov s f).eng = s.eng := rfl
@[simp] theorem modGov_lanes (s : State) (f : GovState → GovState) : (modGov s f).lanes = s.lanes := rfl
@[simp] theorem modGov_st (s : State) (f : GovState → GovState) : (modGov s f).st = s.st := rfl
@[simp] theorem modGov_mv (s : State) (f : GovState → GovState) : (modGov s f).mv = s.mv := rfl
@[simp] theorem modGov_host (s : State) (f : GovState → GovState) : (modGov s f).host = s.host := rfl
@[simp] theorem modGov_time (s : State) (f : GovState → GovState) : (modGov s f).time = s.time := rfl
@[simp] theorem modGov_cal (s : State) (f : GovState → GovState) : (modGov s f).cal = s.cal := rfl
@[simp] theorem modGov_ev (s : State) (f : GovState → GovState) : (modGov s f).ev = s.ev := rfl
@[simp] theorem modGov_boot (s : State) (f : GovState → GovState) : (modGov s f).boot = s.boot := rfl
@[simp] theorem modGov_mo (s : State) (f : GovState → GovState) : (modGov s f).mo = s.mo := rfl
@[simp] theorem modGov_gov (s : State) (f : GovState → GovState) : (modGov s f).gov = f s.gov := rfl
@[simp] theorem modGov_cd (s : State) (f : GovState → GovState) : (modGov s f).cd = s.cd := rfl
@[simp] theorem modGov_ad (s : State) (f : GovState → GovState) : (modGov s f).ad = s.ad := rfl
@[simp] theorem modGov_hm (s : State) (f : GovState → GovState) : (modGov s f).hm = s.hm := rfl
@[simp] theorem modGov_fs (s : State) (f : GovState → GovState) : (modGov s f).fs = s.fs := rfl
@[simp] theorem modGov_rd (s : State) (f : GovState → GovState) : (modGov s f).rd = s.rd := rfl

@[simp] theorem modCd_pending (s : State) (f : CodecState → CodecState) : (modCd s f).pending = s.pending := rfl
@[simp] theorem modCd_part (s : State) (f : CodecState → CodecState) : (modCd s f).part = s.part := rfl
@[simp] theorem modCd_clock (s : State) (f : CodecState → CodecState) : (modCd s f).clock = s.clock := rfl
@[simp] theorem modCd_free (s : State) (f : CodecState → CodecState) : (modCd s f).free = s.free := rfl
@[simp] theorem modCd_out (s : State) (f : CodecState → CodecState) : (modCd s f).out = s.out := rfl
@[simp] theorem modCd_pkg (s : State) (f : CodecState → CodecState) : (modCd s f).pkg = s.pkg := rfl
@[simp] theorem modCd_eng (s : State) (f : CodecState → CodecState) : (modCd s f).eng = s.eng := rfl
@[simp] theorem modCd_lanes (s : State) (f : CodecState → CodecState) : (modCd s f).lanes = s.lanes := rfl
@[simp] theorem modCd_st (s : State) (f : CodecState → CodecState) : (modCd s f).st = s.st := rfl
@[simp] theorem modCd_mv (s : State) (f : CodecState → CodecState) : (modCd s f).mv = s.mv := rfl
@[simp] theorem modCd_host (s : State) (f : CodecState → CodecState) : (modCd s f).host = s.host := rfl
@[simp] theorem modCd_time (s : State) (f : CodecState → CodecState) : (modCd s f).time = s.time := rfl
@[simp] theorem modCd_cal (s : State) (f : CodecState → CodecState) : (modCd s f).cal = s.cal := rfl
@[simp] theorem modCd_ev (s : State) (f : CodecState → CodecState) : (modCd s f).ev = s.ev := rfl
@[simp] theorem modCd_boot (s : State) (f : CodecState → CodecState) : (modCd s f).boot = s.boot := rfl
@[simp] theorem modCd_mo (s : State) (f : CodecState → CodecState) : (modCd s f).mo = s.mo := rfl
@[simp] theorem modCd_gov (s : State) (f : CodecState → CodecState) : (modCd s f).gov = s.gov := rfl
@[simp] theorem modCd_cd (s : State) (f : CodecState → CodecState) : (modCd s f).cd = f s.cd := rfl
@[simp] theorem modCd_ad (s : State) (f : CodecState → CodecState) : (modCd s f).ad = s.ad := rfl
@[simp] theorem modCd_hm (s : State) (f : CodecState → CodecState) : (modCd s f).hm = s.hm := rfl
@[simp] theorem modCd_fs (s : State) (f : CodecState → CodecState) : (modCd s f).fs = s.fs := rfl
@[simp] theorem modCd_rd (s : State) (f : CodecState → CodecState) : (modCd s f).rd = s.rd := rfl

@[simp] theorem modAd_pending (s : State) (f : AdState → AdState) : (modAd s f).pending = s.pending := rfl
@[simp] theorem modAd_part (s : State) (f : AdState → AdState) : (modAd s f).part = s.part := rfl
@[simp] theorem modAd_clock (s : State) (f : AdState → AdState) : (modAd s f).clock = s.clock := rfl
@[simp] theorem modAd_free (s : State) (f : AdState → AdState) : (modAd s f).free = s.free := rfl
@[simp] theorem modAd_out (s : State) (f : AdState → AdState) : (modAd s f).out = s.out := rfl
@[simp] theorem modAd_pkg (s : State) (f : AdState → AdState) : (modAd s f).pkg = s.pkg := rfl
@[simp] theorem modAd_eng (s : State) (f : AdState → AdState) : (modAd s f).eng = s.eng := rfl
@[simp] theorem modAd_lanes (s : State) (f : AdState → AdState) : (modAd s f).lanes = s.lanes := rfl
@[simp] theorem modAd_st (s : State) (f : AdState → AdState) : (modAd s f).st = s.st := rfl
@[simp] theorem modAd_mv (s : State) (f : AdState → AdState) : (modAd s f).mv = s.mv := rfl
@[simp] theorem modAd_host (s : State) (f : AdState → AdState) : (modAd s f).host = s.host := rfl
@[simp] theorem modAd_time (s : State) (f : AdState → AdState) : (modAd s f).time = s.time := rfl
@[simp] theorem modAd_cal (s : State) (f : AdState → AdState) : (modAd s f).cal = s.cal := rfl
@[simp] theorem modAd_ev (s : State) (f : AdState → AdState) : (modAd s f).ev = s.ev := rfl
@[simp] theorem modAd_boot (s : State) (f : AdState → AdState) : (modAd s f).boot = s.boot := rfl
@[simp] theorem modAd_mo (s : State) (f : AdState → AdState) : (modAd s f).mo = s.mo := rfl
@[simp] theorem modAd_gov (s : State) (f : AdState → AdState) : (modAd s f).gov = s.gov := rfl
@[simp] theorem modAd_cd (s : State) (f : AdState → AdState) : (modAd s f).cd = s.cd := rfl
@[simp] theorem modAd_ad (s : State) (f : AdState → AdState) : (modAd s f).ad = f s.ad := rfl
@[simp] theorem modAd_hm (s : State) (f : AdState → AdState) : (modAd s f).hm = s.hm := rfl
@[simp] theorem modAd_fs (s : State) (f : AdState → AdState) : (modAd s f).fs = s.fs := rfl
@[simp] theorem modAd_rd (s : State) (f : AdState → AdState) : (modAd s f).rd = s.rd := rfl

@[simp] theorem modHm_pending (s : State) (f : HealthState → HealthState) : (modHm s f).pending = s.pending := rfl
@[simp] theorem modHm_part (s : State) (f : HealthState → HealthState) : (modHm s f).part = s.part := rfl
@[simp] theorem modHm_clock (s : State) (f : HealthState → HealthState) : (modHm s f).clock = s.clock := rfl
@[simp] theorem modHm_free (s : State) (f : HealthState → HealthState) : (modHm s f).free = s.free := rfl
@[simp] theorem modHm_out (s : State) (f : HealthState → HealthState) : (modHm s f).out = s.out := rfl
@[simp] theorem modHm_pkg (s : State) (f : HealthState → HealthState) : (modHm s f).pkg = s.pkg := rfl
@[simp] theorem modHm_eng (s : State) (f : HealthState → HealthState) : (modHm s f).eng = s.eng := rfl
@[simp] theorem modHm_lanes (s : State) (f : HealthState → HealthState) : (modHm s f).lanes = s.lanes := rfl
@[simp] theorem modHm_st (s : State) (f : HealthState → HealthState) : (modHm s f).st = s.st := rfl
@[simp] theorem modHm_mv (s : State) (f : HealthState → HealthState) : (modHm s f).mv = s.mv := rfl
@[simp] theorem modHm_host (s : State) (f : HealthState → HealthState) : (modHm s f).host = s.host := rfl
@[simp] theorem modHm_time (s : State) (f : HealthState → HealthState) : (modHm s f).time = s.time := rfl
@[simp] theorem modHm_cal (s : State) (f : HealthState → HealthState) : (modHm s f).cal = s.cal := rfl
@[simp] theorem modHm_ev (s : State) (f : HealthState → HealthState) : (modHm s f).ev = s.ev := rfl
@[simp] theorem modHm_boot (s : State) (f : HealthState → HealthState) : (modHm s f).boot = s.boot := rfl
@[simp] theorem modHm_mo (s : State) (f : HealthState → HealthState) : (modHm s f).mo = s.mo := rfl
@[simp] theorem modHm_gov (s : State) (f : HealthState → HealthState) : (modHm s f).gov = s.gov := rfl
@[simp] theorem modHm_cd (s : State) (f : HealthState → HealthState) : (modHm s f).cd = s.cd := rfl
@[simp] theorem modHm_ad (s : State) (f : HealthState → HealthState) : (modHm s f).ad = s.ad := rfl
@[simp] theorem modHm_hm (s : State) (f : HealthState → HealthState) : (modHm s f).hm = f s.hm := rfl
@[simp] theorem modHm_fs (s : State) (f : HealthState → HealthState) : (modHm s f).fs = s.fs := rfl
@[simp] theorem modHm_rd (s : State) (f : HealthState → HealthState) : (modHm s f).rd = s.rd := rfl

@[simp] theorem modFs_pending (s : State) (f : StoreState → StoreState) : (modFs s f).pending = s.pending := rfl
@[simp] theorem modFs_part (s : State) (f : StoreState → StoreState) : (modFs s f).part = s.part := rfl
@[simp] theorem modFs_clock (s : State) (f : StoreState → StoreState) : (modFs s f).clock = s.clock := rfl
@[simp] theorem modFs_free (s : State) (f : StoreState → StoreState) : (modFs s f).free = s.free := rfl
@[simp] theorem modFs_out (s : State) (f : StoreState → StoreState) : (modFs s f).out = s.out := rfl
@[simp] theorem modFs_pkg (s : State) (f : StoreState → StoreState) : (modFs s f).pkg = s.pkg := rfl
@[simp] theorem modFs_eng (s : State) (f : StoreState → StoreState) : (modFs s f).eng = s.eng := rfl
@[simp] theorem modFs_lanes (s : State) (f : StoreState → StoreState) : (modFs s f).lanes = s.lanes := rfl
@[simp] theorem modFs_st (s : State) (f : StoreState → StoreState) : (modFs s f).st = s.st := rfl
@[simp] theorem modFs_mv (s : State) (f : StoreState → StoreState) : (modFs s f).mv = s.mv := rfl
@[simp] theorem modFs_host (s : State) (f : StoreState → StoreState) : (modFs s f).host = s.host := rfl
@[simp] theorem modFs_time (s : State) (f : StoreState → StoreState) : (modFs s f).time = s.time := rfl
@[simp] theorem modFs_cal (s : State) (f : StoreState → StoreState) : (modFs s f).cal = s.cal := rfl
@[simp] theorem modFs_ev (s : State) (f : StoreState → StoreState) : (modFs s f).ev = s.ev := rfl
@[simp] theorem modFs_boot (s : State) (f : StoreState → StoreState) : (modFs s f).boot = s.boot := rfl
@[simp] theorem modFs_mo (s : State) (f : StoreState → StoreState) : (modFs s f).mo = s.mo := rfl
@[simp] theorem modFs_gov (s : State) (f : StoreState → StoreState) : (modFs s f).gov = s.gov := rfl
@[simp] theorem modFs_cd (s : State) (f : StoreState → StoreState) : (modFs s f).cd = s.cd := rfl
@[simp] theorem modFs_ad (s : State) (f : StoreState → StoreState) : (modFs s f).ad = s.ad := rfl
@[simp] theorem modFs_hm (s : State) (f : StoreState → StoreState) : (modFs s f).hm = s.hm := rfl
@[simp] theorem modFs_fs (s : State) (f : StoreState → StoreState) : (modFs s f).fs = f s.fs := rfl
@[simp] theorem modFs_rd (s : State) (f : StoreState → StoreState) : (modFs s f).rd = s.rd := rfl

@[simp] theorem modRd_pending (s : State) (f : RedundState → RedundState) : (modRd s f).pending = s.pending := rfl
@[simp] theorem modRd_part (s : State) (f : RedundState → RedundState) : (modRd s f).part = s.part := rfl
@[simp] theorem modRd_clock (s : State) (f : RedundState → RedundState) : (modRd s f).clock = s.clock := rfl
@[simp] theorem modRd_free (s : State) (f : RedundState → RedundState) : (modRd s f).free = s.free := rfl
@[simp] theorem modRd_out (s : State) (f : RedundState → RedundState) : (modRd s f).out = s.out := rfl
@[simp] theorem modRd_pkg (s : State) (f : RedundState → RedundState) : (modRd s f).pkg = s.pkg := rfl
@[simp] theorem modRd_eng (s : State) (f : RedundState → RedundState) : (modRd s f).eng = s.eng := rfl
@[simp] theorem modRd_lanes (s : State) (f : RedundState → RedundState) : (modRd s f).lanes = s.lanes := rfl
@[simp] theorem modRd_st (s : State) (f : RedundState → RedundState) : (modRd s f).st = s.st := rfl
@[simp] theorem modRd_mv (s : State) (f : RedundState → RedundState) : (modRd s f).mv = s.mv := rfl
@[simp] theorem modRd_host (s : State) (f : RedundState → RedundState) : (modRd s f).host = s.host := rfl
@[simp] theorem modRd_time (s : State) (f : RedundState → RedundState) : (modRd s f).time = s.time := rfl
@[simp] theorem modRd_cal (s : State) (f : RedundState → RedundState) : (modRd s f).cal = s.cal := rfl
@[simp] theorem modRd_ev (s : State) (f : RedundState → RedundState) : (modRd s f).ev = s.ev := rfl
@[simp] theorem modRd_boot (s : State) (f : RedundState → RedundState) : (modRd s f).boot = s.boot := rfl
@[simp] theorem modRd_mo (s : State) (f : RedundState → RedundState) : (modRd s f).mo = s.mo := rfl
@[simp] theorem modRd_gov (s : State) (f : RedundState → RedundState) : (modRd s f).gov = s.gov := rfl
@[simp] theorem modRd_cd (s : State) (f : RedundState → RedundState) : (modRd s f).cd = s.cd := rfl
@[simp] theorem modRd_ad (s : State) (f : RedundState → RedundState) : (modRd s f).ad = s.ad := rfl
@[simp] theorem modRd_hm (s : State) (f : RedundState → RedundState) : (modRd s f).hm = s.hm := rfl
@[simp] theorem modRd_fs (s : State) (f : RedundState → RedundState) : (modRd s f).fs = s.fs := rfl
@[simp] theorem modRd_rd (s : State) (f : RedundState → RedundState) : (modRd s f).rd = f s.rd := rfl

@[simp] theorem putLane_pending (l : Nat) (x : Lane) (s : State) : (putLane l x s).pending = s.pending := rfl
@[simp] theorem putLane_part (l : Nat) (x : Lane) (s : State) : (putLane l x s).part = s.part := rfl
@[simp] theorem putLane_clock (l : Nat) (x : Lane) (s : State) : (putLane l x s).clock = s.clock := rfl
@[simp] theorem putLane_free (l : Nat) (x : Lane) (s : State) : (putLane l x s).free = s.free := rfl
@[simp] theorem putLane_out (l : Nat) (x : Lane) (s : State) : (putLane l x s).out = s.out := rfl
@[simp] theorem putLane_pkg (l : Nat) (x : Lane) (s : State) : (putLane l x s).pkg = s.pkg := rfl
@[simp] theorem putLane_eng (l : Nat) (x : Lane) (s : State) : (putLane l x s).eng = s.eng := rfl
@[simp] theorem putLane_lanes (l : Nat) (x : Lane) (s : State) : (putLane l x s).lanes = tput s.lanes l x := rfl
@[simp] theorem putLane_st (l : Nat) (x : Lane) (s : State) : (putLane l x s).st = s.st := rfl
@[simp] theorem putLane_mv (l : Nat) (x : Lane) (s : State) : (putLane l x s).mv = s.mv := rfl
@[simp] theorem putLane_host (l : Nat) (x : Lane) (s : State) : (putLane l x s).host = s.host := rfl
@[simp] theorem putLane_time (l : Nat) (x : Lane) (s : State) : (putLane l x s).time = s.time := rfl
@[simp] theorem putLane_cal (l : Nat) (x : Lane) (s : State) : (putLane l x s).cal = s.cal := rfl
@[simp] theorem putLane_ev (l : Nat) (x : Lane) (s : State) : (putLane l x s).ev = s.ev := rfl
@[simp] theorem putLane_boot (l : Nat) (x : Lane) (s : State) : (putLane l x s).boot = s.boot := rfl
@[simp] theorem putLane_mo (l : Nat) (x : Lane) (s : State) : (putLane l x s).mo = s.mo := rfl
@[simp] theorem putLane_gov (l : Nat) (x : Lane) (s : State) : (putLane l x s).gov = s.gov := rfl
@[simp] theorem putLane_cd (l : Nat) (x : Lane) (s : State) : (putLane l x s).cd = s.cd := rfl
@[simp] theorem putLane_ad (l : Nat) (x : Lane) (s : State) : (putLane l x s).ad = s.ad := rfl
@[simp] theorem putLane_hm (l : Nat) (x : Lane) (s : State) : (putLane l x s).hm = s.hm := rfl
@[simp] theorem putLane_fs (l : Nat) (x : Lane) (s : State) : (putLane l x s).fs = s.fs := rfl
@[simp] theorem putLane_rd (l : Nat) (x : Lane) (s : State) : (putLane l x s).rd = s.rd := rfl

@[simp] theorem putChannel_pending (g : Nat) (c : Channel) (s : State) : (putChannel g c s).pending = s.pending := rfl
@[simp] theorem putChannel_part (g : Nat) (c : Channel) (s : State) : (putChannel g c s).part = s.part := rfl
@[simp] theorem putChannel_clock (g : Nat) (c : Channel) (s : State) : (putChannel g c s).clock = s.clock := rfl
@[simp] theorem putChannel_free (g : Nat) (c : Channel) (s : State) : (putChannel g c s).free = s.free := rfl
@[simp] theorem putChannel_out (g : Nat) (c : Channel) (s : State) : (putChannel g c s).out = s.out := rfl
@[simp] theorem putChannel_pkg (g : Nat) (c : Channel) (s : State) : (putChannel g c s).pkg = s.pkg := rfl
@[simp] theorem putChannel_eng (g : Nat) (c : Channel) (s : State) : (putChannel g c s).eng = s.eng := rfl
@[simp] theorem putChannel_lanes (g : Nat) (c : Channel) (s : State) : (putChannel g c s).lanes = s.lanes := rfl
@[simp] theorem putChannel_st (g : Nat) (c : Channel) (s : State) : (putChannel g c s).st = { s.st with channels := tput s.st.channels g c } := rfl
@[simp] theorem putChannel_mv (g : Nat) (c : Channel) (s : State) : (putChannel g c s).mv = s.mv := rfl
@[simp] theorem putChannel_host (g : Nat) (c : Channel) (s : State) : (putChannel g c s).host = s.host := rfl
@[simp] theorem putChannel_time (g : Nat) (c : Channel) (s : State) : (putChannel g c s).time = s.time := rfl
@[simp] theorem putChannel_cal (g : Nat) (c : Channel) (s : State) : (putChannel g c s).cal = s.cal := rfl
@[simp] theorem putChannel_ev (g : Nat) (c : Channel) (s : State) : (putChannel g c s).ev = s.ev := rfl
@[simp] theorem putChannel_boot (g : Nat) (c : Channel) (s : State) : (putChannel g c s).boot = s.boot := rfl
@[simp] theorem putChannel_mo (g : Nat) (c : Channel) (s : State) : (putChannel g c s).mo = s.mo := rfl
@[simp] theorem putChannel_gov (g : Nat) (c : Channel) (s : State) : (putChannel g c s).gov = s.gov := rfl
@[simp] theorem putChannel_cd (g : Nat) (c : Channel) (s : State) : (putChannel g c s).cd = s.cd := rfl
@[simp] theorem putChannel_ad (g : Nat) (c : Channel) (s : State) : (putChannel g c s).ad = s.ad := rfl
@[simp] theorem putChannel_hm (g : Nat) (c : Channel) (s : State) : (putChannel g c s).hm = s.hm := rfl
@[simp] theorem putChannel_fs (g : Nat) (c : Channel) (s : State) : (putChannel g c s).fs = s.fs := rfl
@[simp] theorem putChannel_rd (g : Nat) (c : Channel) (s : State) : (putChannel g c s).rd = s.rd := rfl

@[simp] theorem putAxis_pending (i : Nat) (a : Axis) (s : State) : (putAxis i a s).pending = s.pending := rfl
@[simp] theorem putAxis_part (i : Nat) (a : Axis) (s : State) : (putAxis i a s).part = s.part := rfl
@[simp] theorem putAxis_clock (i : Nat) (a : Axis) (s : State) : (putAxis i a s).clock = s.clock := rfl
@[simp] theorem putAxis_free (i : Nat) (a : Axis) (s : State) : (putAxis i a s).free = s.free := rfl
@[simp] theorem putAxis_out (i : Nat) (a : Axis) (s : State) : (putAxis i a s).out = s.out := rfl
@[simp] theorem putAxis_pkg (i : Nat) (a : Axis) (s : State) : (putAxis i a s).pkg = s.pkg := rfl
@[simp] theorem putAxis_eng (i : Nat) (a : Axis) (s : State) : (putAxis i a s).eng = s.eng := rfl
@[simp] theorem putAxis_lanes (i : Nat) (a : Axis) (s : State) : (putAxis i a s).lanes = s.lanes := rfl
@[simp] theorem putAxis_st (i : Nat) (a : Axis) (s : State) : (putAxis i a s).st = s.st := rfl
@[simp] theorem putAxis_mv (i : Nat) (a : Axis) (s : State) : (putAxis i a s).mv = s.mv := rfl
@[simp] theorem putAxis_host (i : Nat) (a : Axis) (s : State) : (putAxis i a s).host = s.host := rfl
@[simp] theorem putAxis_time (i : Nat) (a : Axis) (s : State) : (putAxis i a s).time = s.time := rfl
@[simp] theorem putAxis_cal (i : Nat) (a : Axis) (s : State) : (putAxis i a s).cal = s.cal := rfl
@[simp] theorem putAxis_ev (i : Nat) (a : Axis) (s : State) : (putAxis i a s).ev = s.ev := rfl
@[simp] theorem putAxis_boot (i : Nat) (a : Axis) (s : State) : (putAxis i a s).boot = s.boot := rfl
@[simp] theorem putAxis_mo (i : Nat) (a : Axis) (s : State) : (putAxis i a s).mo = { s.mo with axes := tput s.mo.axes i a } := rfl
@[simp] theorem putAxis_gov (i : Nat) (a : Axis) (s : State) : (putAxis i a s).gov = s.gov := rfl
@[simp] theorem putAxis_cd (i : Nat) (a : Axis) (s : State) : (putAxis i a s).cd = s.cd := rfl
@[simp] theorem putAxis_ad (i : Nat) (a : Axis) (s : State) : (putAxis i a s).ad = s.ad := rfl
@[simp] theorem putAxis_hm (i : Nat) (a : Axis) (s : State) : (putAxis i a s).hm = s.hm := rfl
@[simp] theorem putAxis_fs (i : Nat) (a : Axis) (s : State) : (putAxis i a s).fs = s.fs := rfl
@[simp] theorem putAxis_rd (i : Nat) (a : Axis) (s : State) : (putAxis i a s).rd = s.rd := rfl

@[simp] theorem emit_pending (o : Out) (s : State) : (emit o s).pending = s.pending := rfl
@[simp] theorem emit_part (o : Out) (s : State) : (emit o s).part = s.part := rfl
@[simp] theorem emit_clock (o : Out) (s : State) : (emit o s).clock = s.clock := rfl
@[simp] theorem emit_free (o : Out) (s : State) : (emit o s).free = s.free := rfl
@[simp] theorem emit_out (o : Out) (s : State) : (emit o s).out = s.out ++ [o] := rfl
@[simp] theorem emit_pkg (o : Out) (s : State) : (emit o s).pkg = s.pkg := rfl
@[simp] theorem emit_eng (o : Out) (s : State) : (emit o s).eng = s.eng := rfl
@[simp] theorem emit_lanes (o : Out) (s : State) : (emit o s).lanes = s.lanes := rfl
@[simp] theorem emit_st (o : Out) (s : State) : (emit o s).st = s.st := rfl
@[simp] theorem emit_mv (o : Out) (s : State) : (emit o s).mv = s.mv := rfl
@[simp] theorem emit_host (o : Out) (s : State) : (emit o s).host = s.host := rfl
@[simp] theorem emit_time (o : Out) (s : State) : (emit o s).time = s.time := rfl
@[simp] theorem emit_cal (o : Out) (s : State) : (emit o s).cal = s.cal := rfl
@[simp] theorem emit_ev (o : Out) (s : State) : (emit o s).ev = s.ev := rfl
@[simp] theorem emit_boot (o : Out) (s : State) : (emit o s).boot = s.boot := rfl
@[simp] theorem emit_mo (o : Out) (s : State) : (emit o s).mo = s.mo := rfl
@[simp] theorem emit_gov (o : Out) (s : State) : (emit o s).gov = s.gov := rfl
@[simp] theorem emit_cd (o : Out) (s : State) : (emit o s).cd = s.cd := rfl
@[simp] theorem emit_ad (o : Out) (s : State) : (emit o s).ad = s.ad := rfl
@[simp] theorem emit_hm (o : Out) (s : State) : (emit o s).hm = s.hm := rfl
@[simp] theorem emit_fs (o : Out) (s : State) : (emit o s).fs = s.fs := rfl
@[simp] theorem emit_rd (o : Out) (s : State) : (emit o s).rd = s.rd := rfl

@[simp] theorem useFree_pending (s : State) : (useFree s).pending = s.pending := rfl
@[simp] theorem useFree_part (s : State) : (useFree s).part = s.part := rfl
@[simp] theorem useFree_clock (s : State) : (useFree s).clock = s.clock := rfl
@[simp] theorem useFree_free (s : State) : (useFree s).free = s.free + 1 := rfl
@[simp] theorem useFree_out (s : State) : (useFree s).out = s.out := rfl
@[simp] theorem useFree_pkg (s : State) : (useFree s).pkg = s.pkg := rfl
@[simp] theorem useFree_eng (s : State) : (useFree s).eng = s.eng := rfl
@[simp] theorem useFree_lanes (s : State) : (useFree s).lanes = s.lanes := rfl
@[simp] theorem useFree_st (s : State) : (useFree s).st = s.st := rfl
@[simp] theorem useFree_mv (s : State) : (useFree s).mv = s.mv := rfl
@[simp] theorem useFree_host (s : State) : (useFree s).host = s.host := rfl
@[simp] theorem useFree_time (s : State) : (useFree s).time = s.time := rfl
@[simp] theorem useFree_cal (s : State) : (useFree s).cal = s.cal := rfl
@[simp] theorem useFree_ev (s : State) : (useFree s).ev = s.ev := rfl
@[simp] theorem useFree_boot (s : State) : (useFree s).boot = s.boot := rfl
@[simp] theorem useFree_mo (s : State) : (useFree s).mo = s.mo := rfl
@[simp] theorem useFree_gov (s : State) : (useFree s).gov = s.gov := rfl
@[simp] theorem useFree_cd (s : State) : (useFree s).cd = s.cd := rfl
@[simp] theorem useFree_ad (s : State) : (useFree s).ad = s.ad := rfl
@[simp] theorem useFree_hm (s : State) : (useFree s).hm = s.hm := rfl
@[simp] theorem useFree_fs (s : State) : (useFree s).fs = s.fs := rfl
@[simp] theorem useFree_rd (s : State) : (useFree s).rd = s.rd := rfl

end Sys2Proof.Machine
end

