-- ==== Sys2Proof/Laws/Within.lean ====
section
/-!
SUPPORT. What every operation of the machine keeps, as one relation between a state and a later one: the queue, the part and the
running clock stand, what has left the package stands, fuses never fall, generations stay within R44 and R45, and the parts of the
state outside a list are the same.
-/
namespace Sys2Proof.Machine
open Sys2Proof

/-- t may follow s by the effect of commands that change only the parts of the state in C. -/
structure Within (C : List Comp) (s t : State) : Prop where
  pending : t.pending = s.pending
  part : t.part = s.part
  clock : t.clock = s.clock
  added : s.out <+: t.out
  rollback : s.boot.rollback ≤ t.boot.rollback
  gens : GenerationsOk s.eng → GenerationsOk t.eng
  modes : PkgOk s.pkg → PkgOk t.pkg
  same : ∀ c : Comp, c ∉ C → sameComp s t c

/-- The parts in L are among those of C. -/
def covers (C L : List Comp) : Bool := L.all fun c => C.contains c

theorem covers_trans {C L M : List Comp} (h : covers L M = true) (hc : covers C L = true) : covers C M = true := by
  simp only [covers, List.all_eq_true, List.contains_iff_mem] at *
  exact fun c m => hc c (h c m)

theorem covers_mem {C L : List Comp} {c : Comp} (hc : covers C L = true) (h : L.contains c = true) : c ∈ C := by
  simp only [covers, List.all_eq_true, List.contains_iff_mem] at *
  exact hc c h

theorem sameComp_rfl (s : State) (c : Comp) : sameComp s s c := by cases c <;> rfl

theorem sameComp_trans {s t u : State} {c : Comp} (h : sameComp s t c) (g : sameComp t u c) : sameComp s u c := by
  cases c <;> exact Eq.trans g h

theorem Within.refl (C : List Comp) (s : State) : Within C s s :=
  ⟨rfl, rfl, rfl, List.prefix_refl _, Nat.le_refl _, id, id, fun c _ => sameComp_rfl s c⟩

theorem Within.trans {C : List Comp} {s t u : State} (h : Within C s t) (g : Within C t u) : Within C s u :=
  ⟨g.pending.trans h.pending, g.part.trans h.part, g.clock.trans h.clock, h.added.trans g.added,
    Nat.le_trans h.rollback g.rollback, g.gens ∘ h.gens, g.modes ∘ h.modes, fun c m => sameComp_trans (h.same c m) (g.same c m)⟩

/-- The outcome of a command, and the answer of an opcode, follow a state. -/
def WithinO (C : List Comp) (s : State) : Host.Outcome State Fault Refusal → Prop
  | .next t => Within C s t
  | _ => True

def WithinR (C : List Comp) (s : State) : Res → Prop
  | .done t _ => Within C s t
  | .wait t => Within C s t
  | .fail _ => True

theorem withinO_next (C : List Comp) (s t : State) : WithinO C s (.next t) = Within C s t := rfl
theorem withinR_done (C : List Comp) (s t : State) (a : Answer) : WithinR C s (.done t a) = Within C s t := rfl
theorem withinR_wait (C : List Comp) (s t : State) : WithinR C s (.wait t) = Within C s t := rfl
theorem withinR_fail (C : List Comp) (s : State) (f : Fail) : WithinR C s (.fail f) = True := rfl

/-- Generations stand where only other fields of the engine change. -/
theorem GenerationsOk.of_eq {e f : EngState} (h : GenerationsOk e) (h1 : f.gens = e.gens) (h2 : f.objs = e.objs)
    (h3 : f.configGen = e.configGen) : GenerationsOk f := by
  obtain ⟨a, b, c, d, g⟩ := h
  exact ⟨h1 ▸ a, h2 ▸ b, h3 ▸ c, h1 ▸ d, h2 ▸ g⟩

/-- The package's mode fields stand where only its other fields change. -/
theorem PkgOk.of_eq {p q : PkgState} (h : PkgOk p) (h1 : q.change = p.change) (h2 : q.changing = p.changing) (h3 : q.mode = p.mode)
    (h4 : q.target = p.target) : PkgOk q := by
  obtain ⟨a, b⟩ := h
  exact ⟨by rw [h1, h2]; exact a, by rw [h2, h3, h4]; exact b⟩

/-- MODE and TARGET are set together. -/
theorem PkgOk.both {p q : PkgState} (h : PkgOk p) (h1 : q.change = p.change) (h2 : q.changing = p.changing) (h3 : q.target = q.mode) :
    PkgOk q := by
  obtain ⟨a, b⟩ := h
  exact ⟨by rw [h1, h2]; exact a, fun _ => h3⟩

/-- A change is in progress. -/
theorem PkgOk.started {p : PkgState} (h1 : p.change.isSome = true) (h2 : p.changing = true) : PkgOk p :=
  ⟨by rw [h1, h2], fun e => by rw [h2] at e; cases e⟩

/-- No change in progress: MODE and TARGET agree. -/
theorem PkgOk.settled {p : PkgState} (h1 : p.change = none) (h2 : p.changing = false) (h3 : p.target = p.mode) : PkgOk p :=
  ⟨by rw [h1, h2]; rfl, fun _ => h3⟩

/-- The engine as it leaves reset. -/
theorem generationsOk_reset : GenerationsOk {} where
  slots := fun _ h => nomatch h
  objects := fun _ h => nomatch h
  package := by decide
  slotsRise := rfl
  objectsRise := rfl

/-- An update of fields in C. -/
theorem Within.upd {C : List Comp} {s₀ x : State} {free out pkg eng lanes st mv host time cal ev boot mo gov cd ad hm fs rd} (h : Within C s₀ x)
    (ho : x.out <+: out) (hb : x.boot.rollback ≤ boot.rollback) (he : GenerationsOk x.eng → GenerationsOk eng)
    (hk : PkgOk x.pkg → PkgOk pkg)
    (h_free : free = x.free ∨ Comp.free ∈ C)
    (h_out : out = x.out ∨ Comp.out ∈ C)
    (h_pkg : pkg = x.pkg ∨ Comp.pkg ∈ C)
    (h_eng : eng = x.eng ∨ Comp.eng ∈ C)
    (h_lanes : lanes = x.lanes ∨ Comp.lanes ∈ C)
    (h_st : st = x.st ∨ Comp.st ∈ C)
    (h_mv : mv = x.mv ∨ Comp.mv ∈ C)
    (h_host : host = x.host ∨ Comp.host ∈ C)
    (h_time : time = x.time ∨ Comp.time ∈ C)
    (h_cal : cal = x.cal ∨ Comp.cal ∈ C)
    (h_ev : ev = x.ev ∨ Comp.ev ∈ C)
    (h_boot : boot = x.boot ∨ Comp.boot ∈ C)
    (h_mo : mo = x.mo ∨ Comp.mo ∈ C)
    (h_gov : gov = x.gov ∨ Comp.gov ∈ C)
    (h_cd : cd = x.cd ∨ Comp.cd ∈ C)
    (h_ad : ad = x.ad ∨ Comp.ad ∈ C)
    (h_hm : hm = x.hm ∨ Comp.hm ∈ C)
    (h_fs : fs = x.fs ∨ Comp.fs ∈ C)
    (h_rd : rd = x.rd ∨ Comp.rd ∈ C)
    (h_mode : pkg.mode = x.pkg.mode ∨ Comp.mode ∈ C)
    (h_service : pkg.service = x.pkg.service ∨ Comp.service ∈ C) (h_links : pkg.linkDown = x.pkg.linkDown ∨ Comp.links ∈ C)
    (h_fuse : boot.rollback = x.boot.rollback ∨ Comp.fuse ∈ C) :
    Within C s₀ ⟨x.pending, x.part, x.clock, free, out, pkg, eng, lanes, st, mv, host, time, cal, ev, boot, mo, gov, cd, ad, hm, fs, rd⟩ :=
  ⟨h.pending, h.part, h.clock, h.added.trans ho, Nat.le_trans h.rollback hb, he ∘ h.gens, hk ∘ h.modes, fun c m => by
    refine sameComp_trans (h.same c m) ?_
    cases c
    · exact h_free.resolve_right m
    · exact h_out.resolve_right m
    · exact h_pkg.resolve_right m
    · exact h_eng.resolve_right m
    · exact h_lanes.resolve_right m
    · exact h_st.resolve_right m
    · exact h_mv.resolve_right m
    · exact h_host.resolve_right m
    · exact h_time.resolve_right m
    · exact h_cal.resolve_right m
    · exact h_ev.resolve_right m
    · exact h_boot.resolve_right m
    · exact h_mo.resolve_right m
    · exact h_gov.resolve_right m
    · exact h_cd.resolve_right m
    · exact h_ad.resolve_right m
    · exact h_hm.resolve_right m
    · exact h_fs.resolve_right m
    · exact h_rd.resolve_right m
    · exact h_mode.resolve_right m
    · exact h_service.resolve_right m
    · exact h_links.resolve_right m
    · exact h_fuse.resolve_right m⟩

theorem foldl_within {C : List Comp} {α : Type} {s₀ : State} (f : State → α → State) (l : List α) {s : State} (h : Within C s₀ s)
    (hf : ∀ t x, Within C s₀ t → Within C s₀ (f t x)) : Within C s₀ (l.foldl f s) := by
  induction l generalizing s with
  | nil => exact h
  | cons x l ih => exact ih (hf s x h)

theorem foldl_snd_within {C : List Comp} {α β : Type} {s₀ : State} (f : β × State → α → β × State) (l : List α) {p : β × State}
    (h : Within C s₀ p.2) (hf : ∀ p x, Within C s₀ p.2 → Within C s₀ (f p x).2) : Within C s₀ (l.foldl f p).2 := by
  induction l generalizing p with
  | nil => exact h
  | cons x l ih => exact ih (hf p x h)

theorem getD_map_within {C : List Comp} {α : Type} {s₀ s : State} (o : Option α) (f : α → State) (h : Within C s₀ s)
    (hf : ∀ x, Within C s₀ (f x)) : Within C s₀ ((o.map f).getD s) := by
  cases o with
  | none => exact h
  | some x => exact hf x

theorem modEng_within {C : List Comp} {s₀ s : State} (f : EngState → EngState) (h : Within C s₀ s) (hc : covers C [.eng] = true)
    (hf : ∀ e, GenerationsOk e → GenerationsOk (f e)) : Within C s₀ (modEng s f) :=
  ⟨h.pending, h.part, h.clock, h.added, h.rollback, fun g => hf _ (h.gens g), h.modes, fun c m => by
    refine sameComp_trans (h.same c m) ?_
    cases c <;> first | rfl | exact absurd (covers_mem hc rfl) m⟩

theorem nextGen_ne_zero (g : U32) : nextGen g ≠ 0 := by
  unfold nextGen
  split
  · decide
  · rename_i hg
    intro h
    exact hg (by bv_omega)

theorem nextHandleGen_range (g : Nat) : 1 ≤ nextHandleGen g ∧ nextHandleGen g ≤ 255 := by
  unfold nextHandleGen; split <;> omega

/-- An object's entry changes, its CONFIG_GEN not to 0. -/
theorem GenerationsOk.putObj {e : EngState} (h : GenerationsOk e) (k : Nat) (o : Obj) (ho : o.gen ≠ 0) :
    GenerationsOk { e with objs := tput e.objs k o } where
  slots := h.slots
  objects := fun x hx => by
    rcases mem_tput hx with rfl | hx
    · exact ho
    · exact h.objects x hx
  package := h.package
  slotsRise := h.slotsRise
  objectsRise := tsorted_tput _ _ _ (Nat.zero_le _) h.objectsRise

theorem modObj_within_of {C : List Comp} {s₀ s : State} (k : Nat) (f : Obj → Obj) (h : Within C s₀ s) (hc : covers C [.eng] = true)
    (hf : GenerationsOk s.eng → ∀ o, o.gen ≠ 0 → (f o).gen ≠ 0) : Within C s₀ (modObj k f s) := by
  unfold modObj
  cases ho : obj? s k with
  | none => exact h
  | some o =>
    refine h.trans ⟨rfl, rfl, rfl, List.prefix_refl _, Nat.le_refl _, fun g => ?_, id, fun c m => ?_⟩
    · exact g.putObj k _ (hf g o (g.objects _ (mem_of_tget? ho)))
    · cases c <;> first | rfl | exact absurd (covers_mem hc rfl) m

theorem modObj_within {C : List Comp} {s₀ s : State} (k : Nat) (f : Obj → Obj) (h : Within C s₀ s) (hc : covers C [.eng] = true)
    (hf : ∀ o, o.gen ≠ 0 → (f o).gen ≠ 0) : Within C s₀ (modObj k f s) := modObj_within_of k f h hc fun _ => hf

theorem bumpObj_within {C : List Comp} {s₀ s : State} (k : Nat) (h : Within C s₀ s) (hc : covers C [.eng] = true) :
    Within C s₀ (bumpObj k s) := modObj_within k _ h hc fun _ _ => nextGen_ne_zero _

theorem bumpPkg_within {C : List Comp} {s₀ s : State} (h : Within C s₀ s) (hc : covers C [.eng] = true) : Within C s₀ (bumpPkg s) :=
  modEng_within _ h hc fun _ g => ⟨g.slots, g.objects, nextGen_ne_zero _, g.slotsRise, g.objectsRise⟩

theorem createObj_within {C : List Comp} {s₀ s : State} (k owner : Nat) (h : Within C s₀ s) (hc : covers C [.eng] = true) :
    Within C s₀ (createObj k owner s) :=
  modEng_within _ h hc fun _ g => g.putObj k _ (show (1 : U32) ≠ 0 by decide)

end Sys2Proof.Machine
end

