-- ==== Sys2Proof/Laws/WithinOps.lean ====
section
/-!
SUPPORT. The operations of Ops: each keeps what `Within` says.
-/
namespace Sys2Proof.Machine
open Sys2Proof
set_option Elab.async false
set_option linter.all false

theorem modEv_within {C : List Comp} {s₀ : State} (f : EventState → EventState) {s : State} (h : Within C s₀ s) (hc : covers C [.ev] = true) : Within C s₀ (modEv s f) := by
  unfold modEv
  try dsimp only
  repeat' first
    | with_reducible assumption
    | exact covers_trans (by decide) hc
    | with_reducible apply Within.upd
    | exact .inr (covers_mem hc (by decide))
    | with_reducible exact .inl rfl
    | with_reducible exact List.prefix_refl _
    | with_reducible exact Nat.le_refl _
    | with_reducible exact id


theorem enqueueEv_within {C : List Comp} {s₀ : State} (t : Nat) (e : Ev) {s : State} (h : Within C s₀ s) (hc : covers C [.ev] = true) : Within C s₀ (enqueueEv t e s) := by
  unfold enqueueEv
  try dsimp only
  repeat' first
    | with_reducible assumption
    | exact covers_trans (by decide) hc
    | with_reducible apply modEv_within
    | split
    | with_reducible apply Within.upd
    | exact .inr (covers_mem hc (by decide))
    | with_reducible exact .inl rfl
    | with_reducible exact List.prefix_refl _
    | with_reducible exact Nat.le_refl _
    | with_reducible exact id
    | with_reducible exact fun g => g.of_eq rfl rfl rfl
    | dsimp only


theorem raiseEv_within {C : List Comp} {s₀ : State} (t source time : Nat) (payload : U32) (hops : Nat) {s : State} (h : Within C s₀ s) (hc : covers C [.ev] = true) : Within C s₀ (raiseEv t source time payload hops s) := by
  unfold raiseEv
  try dsimp only
  repeat' first
    | with_reducible assumption
    | exact covers_trans (by decide) hc
    | with_reducible apply enqueueEv_within
    | with_reducible apply modEv_within
    | split
    | with_reducible apply Within.upd
    | exact .inr (covers_mem hc (by decide))
    | with_reducible exact .inl rfl
    | with_reducible exact List.prefix_refl _
    | with_reducible exact Nat.le_refl _
    | with_reducible exact id
    | dsimp only


theorem raise_within {C : List Comp} {s₀ : State} (t l : Nat) (payload : Nat) {s : State} (h : Within C s₀ s) (hc : covers C [.ev] = true) : Within C s₀ (raise t l payload s) := by
  unfold raise
  try dsimp only
  repeat' first
    | with_reducible assumption
    | exact covers_trans (by decide) hc
    | with_reducible apply raiseEv_within


theorem raiseGone_within {C : List Comp} {s₀ : State} (handle : Nat) {s : State} (h : Within C s₀ s) (hc : covers C [.ev] = true) : Within C s₀ (raiseGone handle s) := by
  unfold raiseGone
  try dsimp only
  repeat' first
    | with_reducible assumption
    | exact covers_trans (by decide) hc
    | with_reducible apply raiseEv_within


theorem emit_within {C : List Comp} {s₀ : State} (o : Out) {s : State} (h : Within C s₀ s) (hc : covers C [.out] = true) : Within C s₀ (emit o s) := by
  unfold emit
  try dsimp only
  repeat' first
    | with_reducible assumption
    | exact covers_trans (by decide) hc
    | with_reducible apply Within.upd
    | exact .inr (covers_mem hc (by decide))
    | with_reducible exact .inl rfl
    | with_reducible exact List.prefix_refl _
    | exact List.prefix_append _ _
    | with_reducible exact Nat.le_refl _
    | with_reducible exact id


theorem modHost_within {C : List Comp} {s₀ : State} (f : HostState → HostState) {s : State} (h : Within C s₀ s) (hc : covers C [.host] = true) : Within C s₀ (modHost s f) := by
  unfold modHost
  try dsimp only
  repeat' first
    | with_reducible assumption
    | exact covers_trans (by decide) hc
    | with_reducible apply Within.upd
    | exact .inr (covers_mem hc (by decide))
    | with_reducible exact .inl rfl
    | with_reducible exact List.prefix_refl _
    | with_reducible exact Nat.le_refl _
    | with_reducible exact id


theorem modPort_within {C : List Comp} {s₀ : State} (p : Nat) (f : Port → Port) {s : State} (h : Within C s₀ s) (hc : covers C [.host] = true) : Within C s₀ (modPort p f s) := by
  unfold modPort
  try dsimp only
  repeat' first
    | with_reducible assumption
    | exact covers_trans (by decide) hc
    | with_reducible apply modHost_within
    | with_reducible apply Within.upd
    | exact .inr (covers_mem hc (by decide))
    | with_reducible exact .inl rfl
    | with_reducible exact List.prefix_refl _
    | with_reducible exact Nat.le_refl _
    | with_reducible exact id
    | dsimp only


theorem modPortCounters_within {C : List Comp} {s₀ : State} (p : Nat) (f : PortCounters → PortCounters) {s : State} (h : Within C s₀ s) (hc : covers C [.host] = true) : Within C s₀ (modPortCounters p f s) := by
  unfold modPortCounters
  try dsimp only
  repeat' first
    | with_reducible assumption
    | exact covers_trans (by decide) hc
    | with_reducible apply modHost_within
    | with_reducible apply Within.upd
    | exact .inr (covers_mem hc (by decide))
    | with_reducible exact .inl rfl
    | with_reducible exact List.prefix_refl _
    | with_reducible exact Nat.le_refl _
    | with_reducible exact id
    | dsimp only


theorem ignoreWrite_within {C : List Comp} {s₀ : State} (p : Nat) {s : State} (h : Within C s₀ s) (hc : covers C [.host] = true) : Within C s₀ (ignoreWrite p s) := by
  unfold ignoreWrite
  try dsimp only
  repeat' first
    | with_reducible assumption
    | exact covers_trans (by decide) hc
    | with_reducible apply modPortCounters_within
    | with_reducible apply Within.upd
    | exact .inr (covers_mem hc (by decide))
    | with_reducible exact .inl rfl
    | with_reducible exact List.prefix_refl _
    | with_reducible exact Nat.le_refl _
    | with_reducible exact id
    | dsimp only


theorem leaveRoute_within {C : List Comp} {s₀ : State} (k : Nat) {s : State} (h : Within C s₀ s) (hc : covers C [.out, .host] = true) : Within C s₀ (leaveRoute k s) := by
  unfold leaveRoute
  try dsimp only
  repeat' first
    | with_reducible assumption
    | exact covers_trans (by decide) hc
    | with_reducible apply emit_within
    | with_reducible apply modHost_within
    | split
    | with_reducible apply Within.upd
    | exact .inr (covers_mem hc (by decide))
    | with_reducible exact .inl rfl
    | with_reducible exact List.prefix_refl _
    | with_reducible exact Nat.le_refl _
    | with_reducible exact id
    | dsimp only


theorem signalVector_within {C : List Comp} {s₀ : State} (via p v : Nat) {s : State} (h : Within C s₀ s) (hc : covers C [.out, .host] = true) : Within C s₀ (signalVector via p v s) := by
  unfold signalVector
  try dsimp only
  repeat' first
    | with_reducible assumption
    | exact covers_trans (by decide) hc
    | with_reducible apply modHost_within
    | with_reducible apply emit_within
    | with_reducible apply modPort_within
    | split
    | with_reducible apply Within.upd
    | exact .inr (covers_mem hc (by decide))
    | with_reducible exact .inl rfl
    | with_reducible exact List.prefix_refl _
    | with_reducible exact Nat.le_refl _
    | with_reducible exact id
    | dsimp only


theorem capture_within {C : List Comp} {s₀ : State} (port offset value : Nat) {s : State} (h : Within C s₀ s) (hc : covers C [.host] = true) : Within C s₀ (capture port offset value s) := by
  unfold capture
  try dsimp only
  repeat' first
    | with_reducible assumption
    | exact covers_trans (by decide) hc
    | with_reducible apply modHost_within
    | with_reducible apply Within.upd
    | exact .inr (covers_mem hc (by decide))
    | with_reducible exact .inl rfl
    | with_reducible exact List.prefix_refl _
    | with_reducible exact Nat.le_refl _
    | with_reducible exact id
    | dsimp only


theorem captureHi_within {C : List Comp} {s₀ : State} (port offset value : Nat) {s : State} (h : Within C s₀ s) (hc : covers C [.host] = true) : Within C s₀ (captureHi port offset value s) := by
  unfold captureHi
  try dsimp only
  repeat' first
    | with_reducible assumption
    | exact covers_trans (by decide) hc
    | with_reducible apply modHost_within
    | with_reducible apply capture_within
    | with_reducible apply Within.upd
    | exact .inr (covers_mem hc (by decide))
    | with_reducible exact .inl rfl
    | with_reducible exact List.prefix_refl _
    | with_reducible exact Nat.le_refl _
    | with_reducible exact id
    | dsimp only


theorem modMv_within {C : List Comp} {s₀ : State} (f : MoverState → MoverState) {s : State} (h : Within C s₀ s) (hc : covers C [.mv] = true) : Within C s₀ (modMv s f) := by
  unfold modMv
  try dsimp only
  repeat' first
    | with_reducible assumption
    | exact covers_trans (by decide) hc
    | with_reducible apply Within.upd
    | exact .inr (covers_mem hc (by decide))
    | with_reducible exact .inl rfl
    | with_reducible exact List.prefix_refl _
    | with_reducible exact Nat.le_refl _
    | with_reducible exact id


theorem putQueue_within {C : List Comp} {s₀ : State} (q : Nat) (v : Queue) {s : State} (h : Within C s₀ s) (hc : covers C [.mv] = true) : Within C s₀ (putQueue q v s) := by
  unfold putQueue
  try dsimp only
  repeat' first
    | with_reducible assumption
    | exact covers_trans (by decide) hc
    | with_reducible apply modMv_within
    | with_reducible apply Within.upd
    | exact .inr (covers_mem hc (by decide))
    | with_reducible exact .inl rfl
    | with_reducible exact List.prefix_refl _
    | with_reducible exact Nat.le_refl _
    | with_reducible exact id
    | dsimp only


theorem modQueue_within {C : List Comp} {s₀ : State} (q : Nat) (f : Queue → Queue) {s : State} (h : Within C s₀ s) (hc : covers C [.mv] = true) : Within C s₀ (modQueue q f s) := by
  unfold modQueue
  try dsimp only
  repeat' first
    | with_reducible assumption
    | exact covers_trans (by decide) hc
    | with_reducible apply putQueue_within
    | split
    | with_reducible apply Within.upd
    | exact .inr (covers_mem hc (by decide))
    | with_reducible exact .inl rfl
    | with_reducible exact List.prefix_refl _
    | with_reducible exact Nat.le_refl _
    | with_reducible exact id


theorem signalQueue_within {C : List Comp} {s₀ : State} (q : Nat) {s : State} (h : Within C s₀ s) (hc : covers C [.out, .mv, .host] = true) : Within C s₀ (signalQueue q s) := by
  unfold signalQueue
  try dsimp only
  repeat' first
    | with_reducible assumption
    | exact covers_trans (by decide) hc
    | with_reducible apply signalVector_within
    | with_reducible apply putQueue_within
    | split
    | with_reducible apply Within.upd
    | exact .inr (covers_mem hc (by decide))
    | with_reducible exact .inl rfl
    | with_reducible exact List.prefix_refl _
    | exact List.prefix_append _ _
    | with_reducible exact Nat.le_refl _
    | with_reducible exact id


theorem putEntry_within {C : List Comp} {s₀ : State} (q : Nat) (tile : Nat) (body : List Byte) {s : State} (h : Within C s₀ s) (hc : covers C [.out, .mv, .host] = true) : Within C s₀ (putEntry q tile body s) := by
  unfold putEntry
  try dsimp only
  repeat' first
    | with_reducible assumption
    | exact covers_trans (by decide) hc
    | with_reducible apply leaveRoute_within
    | with_reducible apply emit_within
    | with_reducible apply modMv_within
    | with_reducible apply signalQueue_within
    | with_reducible apply putQueue_within
    | split
    | with_reducible apply Within.upd
    | exact .inr (covers_mem hc (by decide))
    | with_reducible exact .inl rfl
    | with_reducible exact List.prefix_refl _
    | exact List.prefix_append _ _
    | with_reducible exact Nat.le_refl _
    | with_reducible exact id
    | dsimp only


theorem putReply_within {C : List Comp} {s₀ : State} (p n : Nat) (r : Reply) (irq : Bool) {s : State} (h : Within C s₀ s) (hc : covers C [.out, .mv, .host] = true) : Within C s₀ (putReply p n r irq s) := by
  unfold putReply
  try dsimp only
  repeat' first
    | with_reducible assumption
    | exact covers_trans (by decide) hc
    | with_reducible apply emit_within
    | with_reducible apply putQueue_within
    | with_reducible apply signalVector_within
    | split
    | with_reducible apply Within.upd
    | exact .inr (covers_mem hc (by decide))
    | with_reducible exact .inl rfl
    | with_reducible exact List.prefix_refl _
    | with_reducible exact Nat.le_refl _
    | with_reducible exact id
    | with_reducible exact fun g => g.of_eq rfl rfl rfl
    | dsimp only


theorem flushReplies_within {C : List Comp} {s₀ : State} (p n : Nat) (n₀ : Nat) {s : State} (h : Within C s₀ s) (hc : covers C [.out, .mv, .host] = true) : Within C s₀ (flushReplies p n n₀ s) := by
  induction n₀ generalizing s with
  | zero => exact h
  | succ n₀ ih =>
    unfold flushReplies
    try dsimp only
    repeat' first
      | with_reducible assumption
      | with_reducible apply ih
      | exact covers_trans (by decide) hc
      | with_reducible apply putReply_within
      | with_reducible apply putQueue_within
      | split
      | with_reducible apply Within.upd
      | exact .inr (covers_mem hc (by decide))
      | with_reducible exact .inl rfl
      | with_reducible exact List.prefix_refl _
      | with_reducible exact Nat.le_refl _
      | with_reducible exact id
      | with_reducible exact fun g => g.of_eq rfl rfl rfl


theorem flushQueue_within {C : List Comp} {s₀ : State} (p n : Nat) {s : State} (h : Within C s₀ s) (hc : covers C [.out, .mv, .host] = true) : Within C s₀ (flushQueue p n s) := by
  unfold flushQueue
  try dsimp only
  repeat' first
    | with_reducible assumption
    | exact covers_trans (by decide) hc
    | with_reducible apply flushReplies_within
    | (with_reducible apply getD_map_within; rotate_left; intro _)
    | split


theorem mailReply_within {C : List Comp} {s₀ : State} (p : Nat) (r : Reply) {s : State} (h : Within C s₀ s) (hc : covers C [.out, .boot] = true) : Within C s₀ (mailReply p r s) := by
  unfold mailReply
  try dsimp only
  repeat' first
    | with_reducible assumption
    | exact covers_trans (by decide) hc
    | with_reducible apply emit_within
    | with_reducible apply Within.upd
    | exact .inr (covers_mem hc (by decide))
    | with_reducible exact .inl rfl
    | with_reducible exact List.prefix_refl _
    | with_reducible exact Nat.le_refl _
    | with_reducible exact id
    | with_reducible exact fun g => g.of_eq rfl rfl rfl
    | dsimp only


theorem sendReply_within {C : List Comp} {s₀ : State} (c : Cmd) (r : Reply) {s : State} (h : Within C s₀ s) (hc : covers C [.out, .mv, .host, .boot] = true) : Within C s₀ (sendReply c r s) := by
  unfold sendReply
  try dsimp only
  repeat' first
    | with_reducible assumption
    | exact covers_trans (by decide) hc
    | with_reducible apply mailReply_within
    | with_reducible apply flushQueue_within
    | with_reducible apply modQueue_within
    | split
    | with_reducible apply Within.upd
    | exact .inr (covers_mem hc (by decide))
    | with_reducible exact .inl rfl
    | with_reducible exact List.prefix_refl _
    | with_reducible exact Nat.le_refl _
    | with_reducible exact id
    | dsimp only


theorem writeReply_within {C : List Comp} {s₀ : State} (c : Cmd) (r : Reply) {s : State} (h : Within C s₀ s) (hc : covers C [.out, .eng, .mv, .host, .boot] = true) : Within C s₀ (writeReply c r s) := by
  unfold writeReply
  try dsimp only
  repeat' first
    | with_reducible assumption
    | exact covers_trans (by decide) hc
    | with_reducible apply modEng_within
    | with_reducible apply sendReply_within
    | split
    | with_reducible apply Within.upd
    | exact .inr (covers_mem hc (by decide))
    | with_reducible exact .inl rfl
    | with_reducible exact List.prefix_refl _
    | with_reducible exact Nat.le_refl _
    | with_reducible exact id
    | with_reducible exact fun g => g.of_eq rfl rfl rfl
    | with_reducible exact fun _ g => g.of_eq rfl rfl rfl
    | dsimp only


theorem answer_within {C : List Comp} {s₀ : State} (op : Nat) (c : Cmd) (a : Answer) {s : State} (h : Within C s₀ s) (hc : covers C [.out, .eng, .mv, .host, .boot] = true) : Within C s₀ (answer op c a s) := by
  unfold answer
  try dsimp only
  repeat' first
    | with_reducible assumption
    | exact covers_trans (by decide) hc
    | with_reducible apply writeReply_within


theorem addWait_within {C : List Comp} {s₀ : State} (op : Nat) (c : Cmd) (keys : List Nat) (room : Nat) {s : State} (h : Within C s₀ s) (hc : covers C [.eng] = true) : Within C s₀ (addWait op c keys room s) := by
  unfold addWait
  try dsimp only
  repeat' first
    | with_reducible assumption
    | exact covers_trans (by decide) hc
    | with_reducible apply modEng_within
    | with_reducible apply Within.upd
    | exact .inr (covers_mem hc (by decide))
    | with_reducible exact .inl rfl
    | with_reducible exact List.prefix_refl _
    | with_reducible exact Nat.le_refl _
    | with_reducible exact id
    | with_reducible exact fun _ g => g.of_eq rfl rfl rfl
    | dsimp only


theorem finish_within {C : List Comp} {s₀ : State} (id : Nat) (a : Answer) {s : State} (h : Within C s₀ s) (hc : covers C [.out, .eng, .mv, .host, .boot] = true) : Within C s₀ (finish id a s) := by
  unfold finish
  try dsimp only
  repeat' first
    | with_reducible assumption
    | exact covers_trans (by decide) hc
    | with_reducible apply modEng_within
    | with_reducible apply writeReply_within
    | split
    | with_reducible apply Within.upd
    | exact .inr (covers_mem hc (by decide))
    | with_reducible exact .inl rfl
    | with_reducible exact List.prefix_refl _
    | with_reducible exact Nat.le_refl _
    | with_reducible exact id
    | with_reducible exact fun _ g => g.of_eq rfl rfl rfl
    | dsimp only


theorem dropWait_within {C : List Comp} {s₀ : State} (id : Nat) {s : State} (h : Within C s₀ s) (hc : covers C [.eng] = true) : Within C s₀ (dropWait id s) := by
  unfold dropWait
  try dsimp only
  repeat' first
    | with_reducible assumption
    | exact covers_trans (by decide) hc
    | with_reducible apply modEng_within
    | with_reducible apply Within.upd
    | exact .inr (covers_mem hc (by decide))
    | with_reducible exact .inl rfl
    | with_reducible exact List.prefix_refl _
    | with_reducible exact Nat.le_refl _
    | with_reducible exact id
    | with_reducible exact fun _ g => g.of_eq rfl rfl rfl
    | dsimp only


theorem takeInput_within {C : List Comp} {s₀ : State} {t index n : Nat} {s : State} {x₁} {t₁ : State} (h : Within C s₀ s) (hc : covers C [.ev] = true) (e : takeInput t index n s = some (x₁, t₁)) : Within C s₀ t₁ := by
  unfold takeInput at e
  try dsimp only at e
  repeat' split at e
  all_goals cases e
  repeat' first
    | with_reducible assumption
    | exact covers_trans (by decide) hc
    | with_reducible apply modEv_within
    | (with_reducible apply foldl_within; rotate_left; (intro _ _ _; try dsimp only))
    | split
    | with_reducible apply Within.upd
    | exact .inr (covers_mem hc (by decide))
    | with_reducible exact .inl rfl
    | with_reducible exact List.prefix_refl _
    | with_reducible exact Nat.le_refl _
    | with_reducible exact id
    | with_reducible exact fun g => g.of_eq rfl rfl rfl
    | dsimp only


theorem useFree_within {C : List Comp} {s₀ : State}  {s : State} (h : Within C s₀ s) (hc : covers C [.free] = true) : Within C s₀ (useFree s) := by
  unfold useFree
  try dsimp only
  repeat' first
    | with_reducible assumption
    | exact covers_trans (by decide) hc
    | with_reducible apply Within.upd
    | exact .inr (covers_mem hc (by decide))
    | with_reducible exact .inl rfl
    | with_reducible exact List.prefix_refl _
    | with_reducible exact Nat.le_refl _
    | with_reducible exact id


theorem countBursts_within {C : List Comp} {s₀ : State} (t k : Nat) {s : State} (h : Within C s₀ s) (hc : covers C [.mv] = true) : Within C s₀ (countBursts t k s) := by
  unfold countBursts
  try dsimp only
  repeat' first
    | with_reducible assumption
    | exact covers_trans (by decide) hc
    | with_reducible apply modMv_within
    | with_reducible apply Within.upd
    | exact .inr (covers_mem hc (by decide))
    | with_reducible exact .inl rfl
    | with_reducible exact List.prefix_refl _
    | with_reducible exact Nat.le_refl _
    | with_reducible exact id
    | dsimp only


theorem countDisplaced_within {C : List Comp} {s₀ : State} (t n : Nat) {s : State} (h : Within C s₀ s) (hc : covers C [.free, .mv] = true) : Within C s₀ (countDisplaced t n s) := by
  unfold countDisplaced
  try dsimp only
  repeat' first
    | with_reducible assumption
    | exact covers_trans (by decide) hc
    | with_reducible apply useFree_within
    | with_reducible apply modMv_within
    | with_reducible apply Within.upd
    | exact .inr (covers_mem hc (by decide))
    | with_reducible exact .inl rfl
    | with_reducible exact List.prefix_refl _
    | with_reducible exact Nat.le_refl _
    | with_reducible exact id
    | dsimp only


end Sys2Proof.Machine
end

