-- ==== Sys2Proof/Laws/WithinDetect.lean ====
section
/-!
SUPPORT. The operations of Detect: each keeps what `Within` says.
-/
namespace Sys2Proof.Machine
open Sys2Proof
set_option Elab.async false
set_option linter.all false

theorem modHm_within {C : List Comp} {s₀ : State} (f : HealthState → HealthState) {s : State} (h : Within C s₀ s) (hc : covers C [.hm] = true) : Within C s₀ (modHm s f) := by
  unfold modHm
  try dsimp only
  repeat' first
    | with_reducible assumption
    | exact covers_trans (by decide) hc
    | with_reducible apply Within.upd
    | exact .inr (covers_mem hc (by decide))
    | with_reducible exact .inl rfl
    | with_reducible exact List.prefix_refl _
    | with_reducible exact Nat.le_refl _
    | with_reducible exact id


theorem modDet_within {C : List Comp} {s₀ : State} (t d : Nat) (f : Det → Det) {s : State} (h : Within C s₀ s) (hc : covers C [.hm] = true) : Within C s₀ (modDet t d f s) := by
  unfold modDet
  try dsimp only
  repeat' first
    | with_reducible assumption
    | exact covers_trans (by decide) hc
    | with_reducible apply modHm_within
    | with_reducible apply Within.upd
    | exact .inr (covers_mem hc (by decide))
    | with_reducible exact .inl rfl
    | with_reducible exact List.prefix_refl _
    | with_reducible exact Nat.le_refl _
    | with_reducible exact id
    | dsimp only


theorem detectorFires_within {C : List Comp} {s₀ : State} (t d : Nat) (injected : Bool) {s : State} (h : Within C s₀ s) (hc : covers C [.ev, .hm] = true) : Within C s₀ (detectorFires t d injected s) := by
  unfold detectorFires
  try dsimp only
  repeat' first
    | with_reducible assumption
    | exact covers_trans (by decide) hc
    | with_reducible apply modDet_within
    | with_reducible apply modHm_within
    | with_reducible apply raise_within
    | split
    | with_reducible apply Within.upd
    | exact .inr (covers_mem hc (by decide))
    | with_reducible exact .inl rfl
    | with_reducible exact List.prefix_refl _
    | with_reducible exact Nat.le_refl _
    | with_reducible exact id
    | with_reducible exact fun g => g.of_eq rfl rfl rfl
    | dsimp only


theorem consumeInjection_within {C : List Comp} {s₀ : State} (t d : Nat) {s : State} (h : Within C s₀ s) (hc : covers C [.ev, .hm] = true) : Within C s₀ (consumeInjection t d s) := by
  unfold consumeInjection
  try dsimp only
  repeat' first
    | with_reducible assumption
    | exact covers_trans (by decide) hc
    | with_reducible apply raise_within
    | with_reducible apply modDet_within
    | with_reducible apply Within.upd
    | exact .inr (covers_mem hc (by decide))
    | with_reducible exact .inl rfl
    | with_reducible exact List.prefix_refl _
    | with_reducible exact Nat.le_refl _
    | with_reducible exact id
    | dsimp only


theorem markErrors_within {C : List Comp} {s₀ : State} (p dev cfg : Nat) {s : State} (h : Within C s₀ s) (hc : covers C [.host] = true) : Within C s₀ (markErrors p dev cfg s) := by
  unfold markErrors
  try dsimp only
  repeat' first
    | with_reducible assumption
    | exact covers_trans (by decide) hc
    | with_reducible apply modPort_within
    | split
    | with_reducible apply Within.upd
    | exact .inr (covers_mem hc (by decide))
    | with_reducible exact .inl rfl
    | with_reducible exact List.prefix_refl _
    | with_reducible exact Nat.le_refl _
    | with_reducible exact id
    | dsimp only


theorem aerCorrectable_within {C : List Comp} {s₀ : State} (p b : Nat) {s : State} (h : Within C s₀ s) (hc : covers C [.out, .host] = true) : Within C s₀ (aerCorrectable p b s) := by
  unfold aerCorrectable
  try dsimp only
  repeat' first
    | with_reducible assumption
    | exact covers_trans (by decide) hc
    | with_reducible apply modPort_within
    | with_reducible apply markErrors_within
    | with_reducible apply emit_within
    | split
    | with_reducible apply Within.upd
    | exact .inr (covers_mem hc (by decide))
    | with_reducible exact .inl rfl
    | with_reducible exact List.prefix_refl _
    | with_reducible exact Nat.le_refl _
    | with_reducible exact id
    | dsimp only


theorem aerUncorrectable_within {C : List Comp} {s₀ : State} (p b : Nat) (header : List Byte) {s : State} (h : Within C s₀ s) (hc : covers C [.out, .host] = true) : Within C s₀ (aerUncorrectable p b header s) := by
  unfold aerUncorrectable
  try dsimp only
  repeat' first
    | with_reducible assumption
    | exact covers_trans (by decide) hc
    | with_reducible apply markErrors_within
    | with_reducible apply modPort_within
    | with_reducible apply emit_within
    | split
    | with_reducible apply Within.upd
    | exact .inr (covers_mem hc (by decide))
    | with_reducible exact .inl rfl
    | with_reducible exact List.prefix_refl _
    | with_reducible exact Nat.le_refl _
    | with_reducible exact id
    | dsimp only


theorem correctable_within {C : List Comp} {s₀ : State} (p b : Nat) {s : State} (h : Within C s₀ s) (hc : covers C [.out, .host, .ev, .hm] = true) : Within C s₀ (correctable p b s) := by
  unfold correctable
  try dsimp only
  repeat' first
    | with_reducible assumption
    | exact covers_trans (by decide) hc
    | with_reducible apply detectorFires_within
    | with_reducible apply aerCorrectable_within


theorem nonFatal_within {C : List Comp} {s₀ : State} (p b : Nat) (header : List Byte) {s : State} (h : Within C s₀ s) (hc : covers C [.out, .host, .ev, .hm] = true) : Within C s₀ (nonFatal p b header s) := by
  unfold nonFatal
  try dsimp only
  repeat' first
    | with_reducible assumption
    | exact covers_trans (by decide) hc
    | with_reducible apply detectorFires_within
    | with_reducible apply aerUncorrectable_within


theorem fatal_within {C : List Comp} {s₀ : State} (p b : Nat) (header : List Byte) {s : State} (h : Within C s₀ s) (hc : covers C [.out, .host, .ev, .hm] = true) : Within C s₀ (fatal p b header s) := by
  unfold fatal
  try dsimp only
  repeat' first
    | with_reducible assumption
    | exact covers_trans (by decide) hc
    | with_reducible apply detectorFires_within
    | with_reducible apply aerUncorrectable_within


end Sys2Proof.Machine
end

