-- ==== Sys2Proof/Laws/WithinEngine.lean ====
section
/-!
SUPPORT. The operations of Engine: each keeps what `Within` says.
-/
namespace Sys2Proof.Machine
open Sys2Proof
set_option Elab.async false
set_option linter.all false

theorem discardSlots_within {C : List Comp} {s₀ : State} (c : Cmd) {s : State} (h : Within C s₀ s) (hc : covers C [.mv] = true) : Within C s₀ (discardSlots c s).2 := by
  unfold discardSlots
  try dsimp only
  repeat' first
    | with_reducible assumption
    | exact covers_trans (by decide) hc
    | with_reducible apply putQueue_within
    | split
    | with_reducible apply Within.upd
    | exact .inr (covers_mem hc (by decide))
    | with_reducible exact .inl rfl
    | with_reducible exact List.prefix_refl _
    | with_reducible exact Nat.le_refl _
    | with_reducible exact id
    | dsimp only

theorem discardSlots_within_eq {C : List Comp} {s₀ : State} {c : Cmd} {s : State} {x₁} {t₁ : State} (h : Within C s₀ s) (hc : covers C [.mv] = true) (e : discardSlots c s = (x₁, t₁)) : Within C s₀ t₁ := by
  have := discardSlots_within c h hc
  rw [e] at this
  exact this

theorem tooLong_within {C : List Comp} {s₀ : State} (op : Nat) (c : Cmd) {s : State} (h : Within C s₀ s) (hc : covers C [.out, .eng, .mv, .host, .boot] = true) : Within C s₀ (tooLong op c s) := by
  unfold tooLong
  try dsimp only
  repeat' first
    | with_reducible assumption
    | exact covers_trans (by decide) hc
    | with_reducible apply discardSlots_within
    | with_reducible refine discardSlots_within_eq ?_ ?_ (by assumption)
    | with_reducible apply answer_within
    | split
    | dsimp only


theorem parityFail_within {C : List Comp} {s₀ : State} (op : Nat) (c : Cmd) {s : State} (h : Within C s₀ s) (hc : covers C [.out, .eng, .mv, .host, .ev, .boot, .hm] = true) : Within C s₀ (parityFail op c s) := by
  unfold parityFail
  try dsimp only
  repeat' first
    | with_reducible assumption
    | exact covers_trans (by decide) hc
    | with_reducible apply detectorFires_within
    | with_reducible apply modDet_within
    | with_reducible apply consumeInjection_within
    | with_reducible apply modObj_within
    | with_reducible apply answer_within
    | split
    | with_reducible apply Within.upd
    | exact .inr (covers_mem hc (by decide))
    | with_reducible exact .inl rfl
    | with_reducible exact List.prefix_refl _
    | with_reducible exact Nat.le_refl _
    | with_reducible exact id
    | exact fun _ g => g
    | exact fun _ _ => nextGen_ne_zero _
    | dsimp only


theorem runChecked_within {C : List Comp} {s₀ : State} (o : OpDef) (c : Cmd) {s : State} (h : Within C s₀ s)
    (hc : covers C [.out, .eng, .mv, .host, .ev, .boot, .hm] = true) (ha : check o c s = none → WithinR C s₀ (o.act c s)) : Within C s₀ (runChecked o c s) := by
  have sub {M : List Comp} (h : covers [.out, .eng, .mv, .host, .ev, .boot, .hm] M = true) : covers C M = true := covers_trans h hc
  unfold runChecked
  split
  · exact answer_within _ _ _ h (sub rfl)
  · rename_i hk
    split
    · exact parityFail_within _ _ h (sub rfl)
    · have hr := ha hk
      split <;> rename_i e <;> rw [e] at hr
      · exact answer_within _ _ _ hr (sub rfl)
      · exact hr
      · exact answer_within _ _ _ h (sub rfl)


theorem afterEvents_within {C : List Comp} {s₀ : State} (o : OpDef) (c : Cmd) {s : State} (h : Within C s₀ s)
    (hf : Within C s₀ (o.first c s)) : Within C s₀ (afterEvents o c s) := by
  unfold afterEvents
  split
  · exact hf
  · exact h


theorem runOp_within_of {C : List Comp} {s₀ : State} {o : OpDef} (c : Cmd) {s : State} (hf : Within C s₀ (o.first c s))
    (ha : ∀ {t : State}, Within C s₀ t → check o c t = none → WithinR C s₀ (o.act c t)) (h : Within C s₀ s)
    (hc : covers C [.out, .eng, .mv, .host, .ev, .boot, .hm] = true) : Within C s₀ (runOp o c s) := by
  unfold runOp
  split
  · exact h
  · split
    · exact tooLong_within _ _ h (covers_trans (by decide) hc)
    · have hk := afterEvents_within o c h hf
      exact runChecked_within o c hk hc (ha hk)

theorem runOp_within {C : List Comp} {s₀ : State} {o : OpDef} (c : Cmd) {s : State} (hf : Within C s₀ s → Within C s₀ (o.first c s))
    (ha : ∀ {t : State}, Within C s₀ t → WithinR C s₀ (o.act c t)) (h : Within C s₀ s) (hc : covers C [.out, .eng, .mv, .host, .ev, .boot, .hm] = true) :
    Within C s₀ (runOp o c s) :=
  runOp_within_of c (hf h) (fun ht _ => ha ht) h hc

/-- The lower of two failures, the first of which there is, is one. -/
theorem lowerOf_some (a : Nat × Status) (b : Option (Nat × Status)) : ∃ x, lowerOf (some a) b = some x := by
  cases b with
  | none => exact ⟨a, rfl⟩
  | some b =>
    dsimp only [lowerOf]
    split
    · exact ⟨b, rfl⟩
    · exact ⟨a, rfl⟩

/-- A command whose parameters pass has no offending value among them. -/
theorem paramFail_none_bad {o : OpDef} {c : Cmd} {s : State} (h : paramFail o c s = none) : firstBad (o.bad c s) = none := by
  cases hb : firstBad (o.bad c s) with
  | none => rfl
  | some d =>
    unfold paramFail at h
    obtain ⟨x, hx⟩ := lowerOf_some (d, Status.eParam) ((firstBad (o.align c s)).map fun d => (d, Status.eAlign))
    obtain ⟨y, hy⟩ := lowerOf_some x ((firstBad (o.past c s)).map fun d => (d, Status.eTimePast))
    simp [hb, hx, hy] at h

/-- A command that passes its checks has no offending parameter. -/
theorem check_none_bad {o : OpDef} {c : Cmd} {s : State} (h : check o c s = none) : firstBad (o.bad c s) = none := by
  apply paramFail_none_bad
  unfold check at h
  cases hb : paramFail o c s with
  | none => rfl
  | some d =>
    exfalso
    rw [hb] at h
    dsimp only [Option.or] at h
    iterate 10
      split at h
      · cases h
    cases h


end Sys2Proof.Machine
end

