-- ==== Sys2Proof/Laws/WithinGovernor.lean ====
section
/-!
SUPPORT. The operations of Governor: each keeps what `Within` says.
-/
namespace Sys2Proof.Machine
open Sys2Proof
set_option Elab.async false
set_option linter.all false

theorem modGov_within {C : List Comp} {s₀ : State} (f : GovState → GovState) {s : State} (h : Within C s₀ s) (hc : covers C [.gov] = true) : Within C s₀ (modGov s f) := by
  unfold modGov
  try dsimp only
  repeat' first
    | with_reducible assumption
    | exact covers_trans (by decide) hc
    | with_reducible apply Within.upd
    | exact .inr (covers_mem hc (by decide))
    | with_reducible exact .inl rfl
    | with_reducible exact List.prefix_refl _
    | with_reducible exact Nat.le_refl _
    | with_reducible exact id


theorem modTileGov_within {C : List Comp} {s₀ : State} (t : Nat) (f : TileGov → TileGov) {s : State} (h : Within C s₀ s) (hc : covers C [.gov] = true) : Within C s₀ (modTileGov t f s) := by
  unfold modTileGov
  try dsimp only
  repeat' first
    | with_reducible assumption
    | exact covers_trans (by decide) hc
    | with_reducible apply modGov_within
    | with_reducible apply Within.upd
    | exact .inr (covers_mem hc (by decide))
    | with_reducible exact .inl rfl
    | with_reducible exact List.prefix_refl _
    | with_reducible exact Nat.le_refl _
    | with_reducible exact id
    | dsimp only


theorem raisePg_within {C : List Comp} {s₀ : State} (t kind value : Nat) {s : State} (h : Within C s₀ s) (hc : covers C [.ev, .gov] = true) : Within C s₀ (raisePg t kind value s) := by
  unfold raisePg
  try dsimp only
  repeat' first
    | with_reducible assumption
    | exact covers_trans (by decide) hc
    | with_reducible apply raise_within
    | with_reducible apply modGov_within
    | split
    | with_reducible apply Within.upd
    | exact .inr (covers_mem hc (by decide))
    | with_reducible exact .inl rfl
    | with_reducible exact List.prefix_refl _
    | with_reducible exact Nat.le_refl _
    | with_reducible exact id
    | dsimp only


theorem addJob_within {C : List Comp} {s₀ : State} (t : Nat) (k : JobKind) (quanta : Nat) {s : State} (h : Within C s₀ s) (hc : covers C [.gov] = true) : Within C s₀ (addJob t k quanta s) := by
  unfold addJob
  try dsimp only
  repeat' first
    | with_reducible assumption
    | exact covers_trans (by decide) hc
    | with_reducible apply modTileGov_within
    | with_reducible apply Within.upd
    | exact .inr (covers_mem hc (by decide))
    | with_reducible exact .inl rfl
    | with_reducible exact List.prefix_refl _
    | with_reducible exact Nat.le_refl _
    | with_reducible exact id
    | dsimp only


theorem dropJob_within {C : List Comp} {s₀ : State} (t : Nat) (k : JobKind) {s : State} (h : Within C s₀ s) (hc : covers C [.gov] = true) : Within C s₀ (dropJob t k s) := by
  unfold dropJob
  try dsimp only
  repeat' first
    | with_reducible assumption
    | exact covers_trans (by decide) hc
    | with_reducible apply modTileGov_within
    | with_reducible apply Within.upd
    | exact .inr (covers_mem hc (by decide))
    | with_reducible exact .inl rfl
    | with_reducible exact List.prefix_refl _
    | with_reducible exact Nat.le_refl _
    | with_reducible exact id
    | dsimp only


theorem admitJobs_within {C : List Comp} {s₀ : State} (t : Nat) {s : State} (h : Within C s₀ s) (hc : covers C [.gov] = true) : Within C s₀ (admitJobs t s) := by
  unfold admitJobs
  try dsimp only
  repeat' first
    | with_reducible assumption
    | exact covers_trans (by decide) hc
    | with_reducible apply modTileGov_within
    | split
    | with_reducible apply Within.upd
    | exact .inr (covers_mem hc (by decide))
    | with_reducible exact .inl rfl
    | with_reducible exact List.prefix_refl _
    | with_reducible exact Nat.le_refl _
    | with_reducible exact id
    | dsimp only


theorem execCStarved_within {C : List Comp} {s₀ : State} (tile : Nat) {s : State} (h : Within C s₀ s) (hc : covers C [.ev, .gov] = true) : WithinO C s₀ (execCStarved tile s) := by
  unfold execCStarved
  try dsimp only
  repeat' first
    | dsimp only [withinO_next]
    | (with_reducible show WithinO _ _ _; split)
  repeat' first
    | with_reducible assumption
    | exact covers_trans (by decide) hc
    | with_reducible apply raisePg_within
    | with_reducible apply modTileGov_within
    | (with_reducible apply getD_map_within; rotate_left; intro _)
    | split
    | with_reducible apply Within.upd
    | exact .inr (covers_mem hc (by decide))
    | with_reducible exact .inl rfl
    | with_reducible exact List.prefix_refl _
    | with_reducible exact Nat.le_refl _
    | with_reducible exact id
    | dsimp only


theorem applyCredits_within {C : List Comp} {s₀ : State} (t : Nat) (update : Bool) {s : State} (h : Within C s₀ s) (hc : covers C [.gov] = true) : Within C s₀ (applyCredits t update s) := by
  unfold applyCredits
  try dsimp only
  repeat' first
    | with_reducible assumption
    | exact covers_trans (by decide) hc
    | with_reducible apply modTileGov_within
    | split
    | with_reducible apply Within.upd
    | exact .inr (covers_mem hc (by decide))
    | with_reducible exact .inl rfl
    | with_reducible exact List.prefix_refl _
    | with_reducible exact Nat.le_refl _
    | with_reducible exact id
    | dsimp only


theorem coolDown_within {C : List Comp} {s₀ : State} (t : Nat) {s : State} (h : Within C s₀ s) (hc : covers C [.hm] = true) : Within C s₀ (coolDown t s) := by
  unfold coolDown
  try dsimp only
  repeat' first
    | with_reducible assumption
    | exact covers_trans (by decide) hc
    | with_reducible apply modHm_within
    | split
    | with_reducible apply Within.upd
    | exact .inr (covers_mem hc (by decide))
    | with_reducible exact .inl rfl
    | with_reducible exact List.prefix_refl _
    | with_reducible exact Nat.le_refl _
    | with_reducible exact id
    | dsimp only


theorem takeReadings_within {C : List Comp} {s₀ : State} (x : TileSample) {s : State} (h : Within C s₀ s) (hc : covers C [.ev, .gov, .hm] = true) : Within C s₀ (takeReadings x s) := by
  unfold takeReadings
  try dsimp only
  repeat' first
    | with_reducible assumption
    | exact covers_trans (by decide) hc
    | with_reducible apply coolDown_within
    | with_reducible apply detectorFires_within
    | with_reducible apply modTileGov_within
    | with_reducible apply raisePg_within
    | (with_reducible apply getD_map_within; rotate_left; intro _)
    | split
    | with_reducible apply Within.upd
    | exact .inr (covers_mem hc (by decide))
    | with_reducible exact .inl rfl
    | with_reducible exact List.prefix_refl _
    | with_reducible exact Nat.le_refl _
    | with_reducible exact id
    | dsimp only


theorem computeGrants_within {C : List Comp} {s₀ : State} (l : List TileSample) {s : State} (h : Within C s₀ s) (hc : covers C [.gov] = true) : Within C s₀ (computeGrants l s) := by
  unfold computeGrants
  try dsimp only
  repeat' first
    | with_reducible assumption
    | exact covers_trans (by decide) hc
    | with_reducible apply modTileGov_within
    | (with_reducible apply foldl_within; rotate_left; (intro _ _ _; try dsimp only))
    | split
    | with_reducible apply Within.upd
    | exact .inr (covers_mem hc (by decide))
    | with_reducible exact .inl rfl
    | with_reducible exact List.prefix_refl _
    | with_reducible exact Nat.le_refl _
    | with_reducible exact id
    | dsimp only


theorem budget_within {C : List Comp} {s₀ : State} (l : List TileSample) {s : State} (h : Within C s₀ s) (hc : covers C [.ev, .gov] = true) : Within C s₀ (budget l s) := by
  unfold budget
  try dsimp only
  repeat' first
    | with_reducible assumption
    | exact covers_trans (by decide) hc
    | with_reducible apply modTileGov_within
    | with_reducible apply modGov_within
    | with_reducible apply raisePg_within
    | (with_reducible apply foldl_within; rotate_left; (intro _ _ _; try dsimp only))
    | split
    | with_reducible apply Within.upd
    | exact .inr (covers_mem hc (by decide))
    | with_reducible exact .inl rfl
    | with_reducible exact List.prefix_refl _
    | with_reducible exact Nat.le_refl _
    | with_reducible exact id
    | dsimp only


theorem criticality_within {C : List Comp} {s₀ : State} (l : List TileSample) {s : State} (h : Within C s₀ s) (hc : covers C [.ev, .gov] = true) : Within C s₀ (criticality l s) := by
  unfold criticality
  try dsimp only
  repeat' first
    | with_reducible assumption
    | exact covers_trans (by decide) hc
    | with_reducible apply modGov_within
    | with_reducible apply raisePg_within
    | split
    | with_reducible apply Within.upd
    | exact .inr (covers_mem hc (by decide))
    | with_reducible exact .inl rfl
    | with_reducible exact List.prefix_refl _
    | with_reducible exact Nat.le_refl _
    | with_reducible exact id
    | dsimp only


theorem execGovernorSample_within {C : List Comp} {s₀ : State} (samples : List TileSample) {s : State} (h : Within C s₀ s) (hc : covers C [.ev, .gov, .hm] = true) : WithinO C s₀ (execGovernorSample samples s) := by
  unfold execGovernorSample
  try dsimp only
  repeat' first
    | dsimp only [withinO_next]
    | (with_reducible show WithinO _ _ _; split)
  repeat' first
    | with_reducible assumption
    | exact covers_trans (by decide) hc
    | with_reducible apply modGov_within
    | with_reducible apply admitJobs_within
    | with_reducible apply applyCredits_within
    | with_reducible apply takeReadings_within
    | with_reducible apply budget_within
    | with_reducible apply criticality_within
    | with_reducible apply modTileGov_within
    | with_reducible apply computeGrants_within
    | (with_reducible apply foldl_within; rotate_left; (intro _ _ _; try dsimp only))
    | (with_reducible apply getD_map_within; rotate_left; intro _)
    | split
    | with_reducible apply Within.upd
    | exact .inr (covers_mem hc (by decide))
    | with_reducible exact .inl rfl
    | with_reducible exact List.prefix_refl _
    | exact List.prefix_append _ _
    | with_reducible exact Nat.le_refl _
    | with_reducible exact id
    | dsimp only


theorem execCriticalRepeat_within {C : List Comp} {s₀ : State}  {s : State} (h : Within C s₀ s) (hc : covers C [.ev, .gov] = true) : WithinO C s₀ (execCriticalRepeat s) := by
  unfold execCriticalRepeat
  try dsimp only
  repeat' first
    | dsimp only [withinO_next]
    | (with_reducible show WithinO _ _ _; split)
  repeat' first
    | with_reducible assumption
    | exact covers_trans (by decide) hc
    | with_reducible apply raisePg_within
    | with_reducible apply modGov_within
    | split
    | with_reducible apply Within.upd
    | exact .inr (covers_mem hc (by decide))
    | with_reducible exact .inl rfl
    | with_reducible exact List.prefix_refl _
    | with_reducible exact Nat.le_refl _
    | with_reducible exact id
    | dsimp only


theorem opPgConfig_within {C : List Comp} {s₀ : State}  (c : Cmd) {s : State} (h : Within C s₀ s) (hc : covers C [.eng, .gov] = true) : WithinR C s₀ ((opPgConfig).act c s) := by
  dsimp only [opPgConfig]
  repeat' first
    | dsimp only [withinR_done, withinR_wait, withinR_fail]
    | (with_reducible show WithinR _ _ _; split)
  repeat' first
    | with_reducible assumption
    | exact covers_trans (by decide) hc
    | with_reducible apply bumpPkg_within
    | with_reducible apply modGov_within
    | split
    | with_reducible apply Within.upd
    | exact .inr (covers_mem hc (by decide))
    | with_reducible exact .inl rfl
    | with_reducible exact List.prefix_refl _
    | with_reducible exact Nat.le_refl _
    | with_reducible exact id
    | dsimp only


theorem execPgConfig_within {C : List Comp} {s₀ : State} (c : Cmd) {s : State} (h : Within C s₀ s) (hc : covers C [.out, .eng, .mv, .host, .ev, .boot, .gov, .hm] = true) : WithinO C s₀ (execPgConfig c s) :=
  runOp_within c (fun h => h) (fun h => opPgConfig_within c h (covers_trans (by decide) hc)) h (covers_trans (by decide) hc)

theorem opPgQuery_within {C : List Comp} {s₀ : State}  (c : Cmd) {s : State} (h : Within C s₀ s) (_hc : covers C [] = true) : WithinR C s₀ ((opPgQuery).act c s) := by
  dsimp only [opPgQuery]
  repeat' first
    | dsimp only [withinR_done, withinR_wait, withinR_fail]
    | (with_reducible show WithinR _ _ _; split)
  repeat' first
    | with_reducible assumption


theorem execPgQuery_within {C : List Comp} {s₀ : State} (c : Cmd) {s : State} (h : Within C s₀ s) (hc : covers C [.out, .eng, .mv, .host, .ev, .boot, .hm] = true) : WithinO C s₀ (execPgQuery c s) :=
  runOp_within c (fun h => h) (fun h => opPgQuery_within c h (covers_trans (by decide) hc)) h (covers_trans (by decide) hc)

theorem opPgTileQuery_within {C : List Comp} {s₀ : State}  (c : Cmd) {s : State} (h : Within C s₀ s) (_hc : covers C [] = true) : WithinR C s₀ ((opPgTileQuery).act c s) := by
  dsimp only [opPgTileQuery]
  repeat' first
    | dsimp only [withinR_done, withinR_wait, withinR_fail]
    | (with_reducible show WithinR _ _ _; split)
  repeat' first
    | with_reducible assumption


theorem execPgTileQuery_within {C : List Comp} {s₀ : State} (c : Cmd) {s : State} (h : Within C s₀ s) (hc : covers C [.out, .eng, .mv, .host, .ev, .boot, .hm] = true) : WithinO C s₀ (execPgTileQuery c s) :=
  runOp_within c (fun h => h) (fun h => opPgTileQuery_within c h (covers_trans (by decide) hc)) h (covers_trans (by decide) hc)

theorem opPgSensorRead_within {C : List Comp} {s₀ : State}  (c : Cmd) {s : State} (h : Within C s₀ s) (_hc : covers C [] = true) : WithinR C s₀ ((opPgSensorRead).act c s) := by
  dsimp only [opPgSensorRead]
  repeat' first
    | dsimp only [withinR_done, withinR_wait, withinR_fail]
    | (with_reducible show WithinR _ _ _; split)
  repeat' first
    | with_reducible assumption


theorem execPgSensorRead_within {C : List Comp} {s₀ : State} (c : Cmd) {s : State} (h : Within C s₀ s) (hc : covers C [.out, .eng, .mv, .host, .ev, .boot, .hm] = true) : WithinO C s₀ (execPgSensorRead c s) :=
  runOp_within c (fun h => h) (fun h => opPgSensorRead_within c h (covers_trans (by decide) hc)) h (covers_trans (by decide) hc)

end Sys2Proof.Machine
end

