-- ==== Sys2Proof/Laws/WithinQueues.lean ====
section
/-!
SUPPORT. The operations of Queues: each keeps what `Within` says.
-/
namespace Sys2Proof.Machine
open Sys2Proof
set_option Elab.async false
set_option linter.all false

theorem writeTimeAnchor_within {C : List Comp} {s₀ : State} (q : Nat) (v : Queue) {s : State} (h : Within C s₀ s) (hc : covers C [.out, .mv, .host] = true) : Within C s₀ (writeTimeAnchor q v s) := by
  unfold writeTimeAnchor
  try dsimp only
  repeat' first
    | with_reducible assumption
    | exact covers_trans (by decide) hc
    | with_reducible apply modQueue_within
    | with_reducible apply putEntry_within
    | with_reducible apply Within.upd
    | exact .inr (covers_mem hc (by decide))
    | with_reducible exact .inl rfl
    | with_reducible exact List.prefix_refl _
    | with_reducible exact Nat.le_refl _
    | with_reducible exact id
    | dsimp only


theorem writePositionAnchor_within {C : List Comp} {s₀ : State} (q : Nat) (v : Queue) (i : Nat) {s : State} (h : Within C s₀ s) (hc : covers C [.out, .mv, .host] = true) : Within C s₀ (writePositionAnchor q v i s) := by
  unfold writePositionAnchor
  try dsimp only
  repeat' first
    | with_reducible assumption
    | exact covers_trans (by decide) hc
    | with_reducible apply modQueue_within
    | with_reducible apply putEntry_within
    | with_reducible apply Within.upd
    | exact .inr (covers_mem hc (by decide))
    | with_reducible exact .inl rfl
    | with_reducible exact List.prefix_refl _
    | with_reducible exact Nat.le_refl _
    | with_reducible exact id
    | dsimp only


theorem putChan_within {C : List Comp} {s₀ : State} (g : Nat) (c : Chan) {s : State} (h : Within C s₀ s) (hc : covers C [.mv] = true) : Within C s₀ (putChan g c s) := by
  unfold putChan
  try dsimp only
  repeat' first
    | with_reducible assumption
    | exact covers_trans (by decide) hc
    | with_reducible apply modMv_within
    | with_reducible apply Within.upd
    | exact .inr (covers_mem hc (by decide))
    | with_reducible exact .inl rfl
    | with_reducible exact List.prefix_refl _
    | with_reducible exact Nat.le_refl _
    | with_reducible exact id
    | dsimp only


theorem modChan_within {C : List Comp} {s₀ : State} (g : Nat) (f : Chan → Chan) {s : State} (h : Within C s₀ s) (hc : covers C [.mv] = true) : Within C s₀ (modChan g f s) := by
  unfold modChan
  try dsimp only
  repeat' first
    | with_reducible assumption
    | exact covers_trans (by decide) hc
    | with_reducible apply putChan_within
    | with_reducible apply Within.upd
    | exact .inr (covers_mem hc (by decide))
    | with_reducible exact .inl rfl
    | with_reducible exact List.prefix_refl _
    | with_reducible exact Nat.le_refl _
    | with_reducible exact id


theorem finishAll_within {C : List Comp} {s₀ : State} (ids : List Nat) (a : Answer) {s : State} (h : Within C s₀ s) (hc : covers C [.out, .eng, .mv, .host, .boot] = true) : Within C s₀ (finishAll ids a s) := by
  unfold finishAll
  try dsimp only
  repeat' first
    | with_reducible assumption
    | exact covers_trans (by decide) hc
    | with_reducible apply finish_within
    | (with_reducible apply foldl_within; rotate_left; (intro _ _ _; try dsimp only))
    | dsimp only


theorem dropObj_within {C : List Comp} {s₀ : State} (k : Nat) {s : State} (h : Within C s₀ s) (hc : covers C [.eng, .host, .ev] = true) : Within C s₀ (dropObj k s) := by
  have sub {M : List Comp} (h : covers [.eng, .host, .ev] M = true) : covers C M = true := covers_trans h hc
  unfold dropObj
  refine modEng_within _ (raiseGone_within _ (modHost_within _ h (sub rfl)) (sub rfl)) (sub rfl) fun e g =>
    ⟨fun x hx => ?_, fun x hx => g.objects x (mem_tdel hx), g.package, ?_, ?_⟩
  · rcases mem_tput hx with rfl | hx
    · exact nextHandleGen_range _
    · exact g.slots x hx
  · exact tsorted_tput _ _ _ (Nat.zero_le _) g.slotsRise
  · exact tsorted_tdel _ _ g.objectsRise


theorem freeReservation_within {C : List Comp} {s₀ : State} (k : Nat) {s : State} (h : Within C s₀ s) (hc : covers C [.eng, .mv, .host, .ev] = true) : Within C s₀ (freeReservation k s) := by
  unfold freeReservation
  try dsimp only
  repeat' first
    | with_reducible assumption
    | exact covers_trans (by decide) hc
    | with_reducible apply dropObj_within
    | with_reducible apply modMv_within
    | with_reducible apply modEv_within
    | split
    | with_reducible apply Within.upd
    | exact .inr (covers_mem hc (by decide))
    | with_reducible exact .inl rfl
    | with_reducible exact List.prefix_refl _
    | exact List.prefix_append _ _
    | with_reducible exact Nat.le_refl _
    | with_reducible exact id
    | dsimp only


theorem endRaw_within {C : List Comp} {s₀ : State} (g : Nat) {s : State} (h : Within C s₀ s) (hc : covers C [.out, .eng, .mv, .host, .ev, .boot] = true) : Within C s₀ (endRaw g s) := by
  unfold endRaw
  try dsimp only
  repeat' first
    | with_reducible assumption
    | exact covers_trans (by decide) hc
    | with_reducible apply raiseEv_within
    | with_reducible apply putChan_within
    | with_reducible apply finishAll_within
    | with_reducible apply finish_within
    | with_reducible apply freeReservation_within
    | split
    | with_reducible apply Within.upd
    | exact .inr (covers_mem hc (by decide))
    | with_reducible exact .inl rfl
    | with_reducible exact List.prefix_refl _
    | with_reducible exact Nat.le_refl _
    | with_reducible exact id
    | dsimp only


theorem modFs_within {C : List Comp} {s₀ : State} (f : StoreState → StoreState) {s : State} (h : Within C s₀ s) (hc : covers C [.fs] = true) : Within C s₀ (modFs s f) := by
  unfold modFs
  try dsimp only
  repeat' first
    | with_reducible assumption
    | exact covers_trans (by decide) hc
    | with_reducible apply Within.upd
    | exact .inr (covers_mem hc (by decide))
    | with_reducible exact .inl rfl
    | with_reducible exact List.prefix_refl _
    | with_reducible exact Nat.le_refl _
    | with_reducible exact id


theorem dropReadoutDelivery_within {C : List Comp} {s₀ : State} (k : Nat) {s : State} (h : Within C s₀ s) (hc : covers C [.mv] = true) : Within C s₀ (dropReadoutDelivery k s) := by
  unfold dropReadoutDelivery
  try dsimp only
  repeat' first
    | with_reducible assumption
    | exact covers_trans (by decide) hc
    | with_reducible apply modMv_within
    | with_reducible apply Within.upd
    | exact .inr (covers_mem hc (by decide))
    | with_reducible exact .inl rfl
    | with_reducible exact List.prefix_refl _
    | with_reducible exact Nat.le_refl _
    | with_reducible exact id
    | dsimp only


theorem closeReadout_within {C : List Comp} {s₀ : State} (k ended : Nat) {s : State} (h : Within C s₀ s) (hc : covers C [.out, .eng, .mv, .host, .ev, .boot, .gov, .fs] = true) : Within C s₀ (closeReadout k ended s) := by
  unfold closeReadout
  try dsimp only
  repeat' first
    | with_reducible assumption
    | exact covers_trans (by decide) hc
    | with_reducible apply dropReadoutDelivery_within
    | with_reducible apply modFs_within
    | with_reducible apply modMv_within
    | with_reducible apply modHost_within
    | with_reducible apply raise_within
    | with_reducible apply dropJob_within
    | with_reducible apply finish_within
    | split
    | with_reducible apply Within.upd
    | exact .inr (covers_mem hc (by decide))
    | with_reducible exact .inl rfl
    | with_reducible exact List.prefix_refl _
    | exact List.prefix_append _ _
    | with_reducible exact Nat.le_refl _
    | with_reducible exact id
    | dsimp only


theorem takeBuffer_within {C : List Comp} {s₀ : State} {bufh cplh : Nat} {s : State} {x₁} {t₁ : State} (h : Within C s₀ s) (hc : covers C [.mv] = true) (e : takeBuffer s bufh cplh = some (x₁, t₁)) : Within C s₀ t₁ := by
  unfold takeBuffer at e
  try dsimp only at e
  repeat' split at e
  all_goals cases e
  repeat' first
    | with_reducible assumption
    | exact covers_trans (by decide) hc
    | with_reducible apply putQueue_within
    | with_reducible apply modQueue_within
    | split
    | with_reducible apply Within.upd
    | exact .inr (covers_mem hc (by decide))
    | with_reducible exact .inl rfl
    | with_reducible exact List.prefix_refl _
    | exact List.prefix_append _ _
    | with_reducible exact Nat.le_refl _
    | with_reducible exact id
    | dsimp only


theorem nextReadout_within {C : List Comp} {s₀ : State} (k : Nat) {s : State} (h : Within C s₀ s) (hc : covers C [.out, .eng, .mv, .host, .ev, .boot, .gov, .fs] = true) : Within C s₀ (nextReadout k s) := by
  unfold nextReadout
  try dsimp only
  repeat' first
    | with_reducible assumption
    | exact covers_trans (by decide) hc
    | with_reducible apply modFs_within
    | with_reducible apply closeReadout_within
    | with_reducible refine takeBuffer_within ?_ ?_ (by assumption)
    | with_reducible apply modMv_within
    | with_reducible apply leaveRoute_within
    | split
    | with_reducible apply Within.upd
    | exact .inr (covers_mem hc (by decide))
    | with_reducible exact .inl rfl
    | with_reducible exact List.prefix_refl _
    | exact List.prefix_append _ _
    | with_reducible exact Nat.le_refl _
    | with_reducible exact id
    | dsimp only


theorem readoutSent_within {C : List Comp} {s₀ : State} (k : Nat) {s : State} (h : Within C s₀ s) (hc : covers C [.out, .eng, .mv, .host, .ev, .boot, .gov, .fs] = true) : Within C s₀ (readoutSent k s) := by
  unfold readoutSent
  try dsimp only
  repeat' first
    | with_reducible assumption
    | exact covers_trans (by decide) hc
    | with_reducible apply nextReadout_within
    | with_reducible apply dropReadoutDelivery_within
    | with_reducible apply modFs_within
    | (with_reducible apply getD_map_within; rotate_left; intro _)
    | split
    | with_reducible apply Within.upd
    | exact .inr (covers_mem hc (by decide))
    | with_reducible exact .inl rfl
    | with_reducible exact List.prefix_refl _
    | exact List.prefix_append _ _
    | with_reducible exact Nat.le_refl _
    | with_reducible exact id
    | dsimp only


theorem afterEntry_within {C : List Comp} {s₀ : State} (a : After) {s : State} (h : Within C s₀ s) (hc : covers C [.out, .eng, .mv, .host, .ev, .boot, .gov, .fs] = true) : Within C s₀ (afterEntry a s) := by
  unfold afterEntry
  try dsimp only
  repeat' first
    | with_reducible assumption
    | exact covers_trans (by decide) hc
    | with_reducible apply modQueue_within
    | with_reducible apply endRaw_within
    | with_reducible apply closeReadout_within
    | with_reducible apply readoutSent_within
    | (with_reducible apply getD_map_within; rotate_left; intro _)
    | split
    | with_reducible apply Within.upd
    | exact .inr (covers_mem hc (by decide))
    | with_reducible exact .inl rfl
    | with_reducible exact List.prefix_refl _
    | exact List.prefix_append _ _
    | with_reducible exact Nat.le_refl _
    | with_reducible exact id
    | dsimp only


theorem drainQueue_within {C : List Comp} {s₀ : State} (q : Nat) (n₀ : Nat) {s : State} (h : Within C s₀ s) (hc : covers C [.out, .eng, .mv, .host, .ev, .boot, .gov, .fs] = true) : Within C s₀ (drainQueue q n₀ s) := by
  induction n₀ generalizing s with
  | zero => exact h
  | succ n₀ ih =>
    unfold drainQueue
    try dsimp only
    repeat' first
      | with_reducible assumption
      | with_reducible apply ih
      | exact covers_trans (by decide) hc
      | with_reducible apply writeTimeAnchor_within
      | with_reducible apply writePositionAnchor_within
      | with_reducible apply modQueue_within
      | with_reducible apply afterEntry_within
      | with_reducible apply putEntry_within
      | split
      | with_reducible apply Within.upd
      | exact .inr (covers_mem hc (by decide))
      | with_reducible exact .inl rfl
      | with_reducible exact List.prefix_refl _
      | with_reducible exact Nat.le_refl _
      | with_reducible exact id
      | dsimp only


theorem drain_within {C : List Comp} {s₀ : State} (q : Nat) {s : State} (h : Within C s₀ s) (hc : covers C [.out, .eng, .mv, .host, .ev, .boot, .gov, .fs] = true) : Within C s₀ (drain q s) := by
  unfold drain
  try dsimp only
  repeat' first
    | with_reducible assumption
    | exact covers_trans (by decide) hc
    | with_reducible apply drainQueue_within
    | split


theorem countOverflow_within {C : List Comp} {s₀ : State} (q : Nat) {s : State} (h : Within C s₀ s) (hc : covers C [.mv, .ev] = true) : Within C s₀ (countOverflow q s) := by
  unfold countOverflow
  try dsimp only
  repeat' first
    | with_reducible assumption
    | exact covers_trans (by decide) hc
    | with_reducible apply raise_within
    | with_reducible apply putQueue_within
    | split
    | with_reducible apply Within.upd
    | exact .inr (covers_mem hc (by decide))
    | with_reducible exact .inl rfl
    | with_reducible exact List.prefix_refl _
    | with_reducible exact Nat.le_refl _
    | with_reducible exact id
    | dsimp only


theorem offerEntry_within {C : List Comp} {s₀ : State} (q : Nat) (e : PendEntry) {s : State} (h : Within C s₀ s) (hc : covers C [.out, .eng, .mv, .host, .ev, .boot, .gov, .fs] = true) : Within C s₀ (offerEntry q e s) := by
  unfold offerEntry
  try dsimp only
  repeat' first
    | with_reducible assumption
    | exact covers_trans (by decide) hc
    | with_reducible apply afterEntry_within
    | with_reducible apply drain_within
    | with_reducible apply putQueue_within
    | with_reducible apply countOverflow_within
    | split
    | with_reducible apply Within.upd
    | exact .inr (covers_mem hc (by decide))
    | with_reducible exact .inl rfl
    | with_reducible exact List.prefix_refl _
    | with_reducible exact Nat.le_refl _
    | with_reducible exact id
    | dsimp only


theorem stopQueue_within {C : List Comp} {s₀ : State} (q : Nat) (code : Status) (cause position : Nat) {s : State} (h : Within C s₀ s) (hc : covers C [.out, .eng, .mv, .host, .ev, .boot, .gov, .fs] = true) : Within C s₀ (stopQueue q code cause position s) := by
  unfold stopQueue
  try dsimp only
  repeat' first
    | with_reducible assumption
    | exact covers_trans (by decide) hc
    | with_reducible apply putQueue_within
    | with_reducible apply raise_within
    | with_reducible apply offerEntry_within
    | split
    | with_reducible apply Within.upd
    | exact .inr (covers_mem hc (by decide))
    | with_reducible exact .inl rfl
    | with_reducible exact List.prefix_refl _
    | with_reducible exact Nat.le_refl _
    | with_reducible exact id
    | dsimp only


theorem goOn_within {C : List Comp} {s₀ : State} (q x : Nat) {s : State} (h : Within C s₀ s) (hc : covers C [.out, .eng, .mv, .host, .ev, .boot, .gov, .fs] = true) : Within C s₀ (goOn q x s) := by
  unfold goOn
  try dsimp only
  repeat' first
    | with_reducible assumption
    | exact covers_trans (by decide) hc
    | with_reducible apply stopQueue_within
    | with_reducible apply putQueue_within
    | split
    | with_reducible apply Within.upd
    | exact .inr (covers_mem hc (by decide))
    | with_reducible exact .inl rfl
    | with_reducible exact List.prefix_refl _
    | with_reducible exact Nat.le_refl _
    | with_reducible exact id


theorem execDescriptorRead_within {C : List Comp} {s₀ : State} (queue : Nat) (bytes : List Byte) {s : State} (h : Within C s₀ s) (hc : covers C [.out, .eng, .mv, .host, .ev, .boot, .gov, .fs] = true) : WithinO C s₀ (execDescriptorRead queue bytes s) := by
  unfold execDescriptorRead
  try dsimp only
  repeat' first
    | dsimp only [withinO_next]
    | (with_reducible show WithinO _ _ _; split)
  repeat' first
    | with_reducible assumption
    | exact covers_trans (by decide) hc
    | with_reducible apply stopQueue_within
    | with_reducible apply goOn_within
    | with_reducible apply putQueue_within
    | split
    | with_reducible apply Within.upd
    | exact .inr (covers_mem hc (by decide))
    | with_reducible exact .inl rfl
    | with_reducible exact List.prefix_refl _
    | with_reducible exact Nat.le_refl _
    | with_reducible exact id
    | dsimp only


theorem doorbell_within {C : List Comp} {s₀ : State} (port q : Nat) (count : U32) {s : State} (h : Within C s₀ s) (hc : covers C [.out, .mv, .host] = true) : Within C s₀ (doorbell port q count s) := by
  unfold doorbell
  try dsimp only
  repeat' first
    | with_reducible assumption
    | exact covers_trans (by decide) hc
    | with_reducible apply ignoreWrite_within
    | with_reducible apply putQueue_within
    | with_reducible apply flushQueue_within
    | split
    | with_reducible apply Within.upd
    | exact .inr (covers_mem hc (by decide))
    | with_reducible exact .inl rfl
    | with_reducible exact List.prefix_refl _
    | with_reducible exact Nat.le_refl _
    | with_reducible exact id
    | dsimp only


theorem execCmdQueueDoorbell_within {C : List Comp} {s₀ : State} (port queue : Nat) (count : U32) {s : State} (h : Within C s₀ s) (hc : covers C [.out, .mv, .host] = true) : WithinO C s₀ (execCmdQueueDoorbell port queue count s) := by
  unfold execCmdQueueDoorbell
  try dsimp only
  repeat' first
    | dsimp only [withinO_next]
    | (with_reducible show WithinO _ _ _; split)
  repeat' first
    | with_reducible assumption
    | exact covers_trans (by decide) hc
    | with_reducible apply doorbell_within


theorem execReplyQueueDoorbell_within {C : List Comp} {s₀ : State} (port queue : Nat) (count : U32) {s : State} (h : Within C s₀ s) (hc : covers C [.out, .mv, .host] = true) : WithinO C s₀ (execReplyQueueDoorbell port queue count s) := by
  unfold execReplyQueueDoorbell
  try dsimp only
  repeat' first
    | dsimp only [withinO_next]
    | (with_reducible show WithinO _ _ _; split)
  repeat' first
    | with_reducible assumption
    | exact covers_trans (by decide) hc
    | with_reducible apply doorbell_within


theorem execChainQueueDoorbell_within {C : List Comp} {s₀ : State} (port queue : Nat) (count : U32) {s : State} (h : Within C s₀ s) (hc : covers C [.out, .mv, .host] = true) : WithinO C s₀ (execChainQueueDoorbell port queue count s) := by
  unfold execChainQueueDoorbell
  try dsimp only
  repeat' first
    | dsimp only [withinO_next]
    | (with_reducible show WithinO _ _ _; split)
  repeat' first
    | with_reducible assumption
    | exact covers_trans (by decide) hc
    | with_reducible apply doorbell_within


theorem execCplQueueDoorbell_within {C : List Comp} {s₀ : State} (port queue : Nat) (count : U32) {s : State} (h : Within C s₀ s) (hc : covers C [.out, .mv, .host] = true) : WithinO C s₀ (execCplQueueDoorbell port queue count s) := by
  unfold execCplQueueDoorbell
  try dsimp only
  repeat' first
    | dsimp only [withinO_next]
    | (with_reducible show WithinO _ _ _; split)
  repeat' first
    | with_reducible assumption
    | exact covers_trans (by decide) hc
    | with_reducible apply doorbell_within


theorem unmaskQueue_within {C : List Comp} {s₀ : State} (q : Nat) {s : State} (h : Within C s₀ s) (hc : covers C [.out, .mv, .host] = true) : Within C s₀ (unmaskQueue q s) := by
  unfold unmaskQueue
  try dsimp only
  repeat' first
    | with_reducible assumption
    | exact covers_trans (by decide) hc
    | with_reducible apply signalVector_within
    | with_reducible apply putQueue_within
    | split
    | with_reducible apply Within.upd
    | exact .inr (covers_mem hc (by decide))
    | with_reducible exact .inl rfl
    | with_reducible exact List.prefix_refl _
    | exact List.prefix_append _ _
    | with_reducible exact Nat.le_refl _
    | with_reducible exact id


theorem execDbMaskWrite_within {C : List Comp} {s₀ : State} (port queue : Nat) (mask : Bool) {s : State} (h : Within C s₀ s) (hc : covers C [.out, .mv, .host] = true) : WithinO C s₀ (execDbMaskWrite port queue mask s) := by
  unfold execDbMaskWrite
  try dsimp only
  repeat' first
    | dsimp only [withinO_next]
    | (with_reducible show WithinO _ _ _; split)
  repeat' first
    | with_reducible assumption
    | exact covers_trans (by decide) hc
    | with_reducible apply ignoreWrite_within
    | with_reducible apply modQueue_within
    | with_reducible apply unmaskQueue_within
    | split
    | with_reducible apply Within.upd
    | exact .inr (covers_mem hc (by decide))
    | with_reducible exact .inl rfl
    | with_reducible exact List.prefix_refl _
    | with_reducible exact Nat.le_refl _
    | with_reducible exact id
    | dsimp only


theorem execPendingEntryWrite_within {C : List Comp} {s₀ : State} (queue : Nat) {s : State} (h : Within C s₀ s) (hc : covers C [.out, .eng, .mv, .host, .ev, .boot, .gov, .fs] = true) : WithinO C s₀ (execPendingEntryWrite queue s) := by
  unfold execPendingEntryWrite
  try dsimp only
  repeat' first
    | dsimp only [withinO_next]
    | (with_reducible show WithinO _ _ _; split)
  repeat' first
    | with_reducible assumption
    | exact covers_trans (by decide) hc
    | with_reducible apply drain_within
    | split
    | dsimp only


theorem execTimeAnchorDue_within {C : List Comp} {s₀ : State} (queue : Nat) {s : State} (h : Within C s₀ s) (hc : covers C [.out, .eng, .mv, .host, .ev, .boot, .gov, .fs] = true) : WithinO C s₀ (execTimeAnchorDue queue s) := by
  unfold execTimeAnchorDue
  try dsimp only
  repeat' first
    | dsimp only [withinO_next]
    | (with_reducible show WithinO _ _ _; split)
  repeat' first
    | with_reducible assumption
    | exact covers_trans (by decide) hc
    | with_reducible apply drain_within
    | split
    | dsimp only


theorem execCoalesceTimer_within {C : List Comp} {s₀ : State} (queue : Nat) {s : State} (h : Within C s₀ s) (hc : covers C [.out, .mv, .host] = true) : WithinO C s₀ (execCoalesceTimer queue s) := by
  unfold execCoalesceTimer
  try dsimp only
  repeat' first
    | dsimp only [withinO_next]
    | (with_reducible show WithinO _ _ _; split)
  repeat' first
    | with_reducible assumption
    | exact covers_trans (by decide) hc
    | with_reducible apply signalQueue_within
    | split


theorem execMgmtWriteback_within {C : List Comp} {s₀ : State}  {s : State} (h : Within C s₀ s) (hc : covers C [.out, .mv, .host] = true) : WithinO C s₀ (execMgmtWriteback s) := by
  unfold execMgmtWriteback
  try dsimp only
  repeat' first
    | dsimp only [withinO_next]
    | (with_reducible show WithinO _ _ _; split)
  repeat' first
    | with_reducible assumption
    | exact covers_trans (by decide) hc
    | with_reducible apply modMv_within
    | with_reducible apply leaveRoute_within
    | with_reducible apply emit_within
    | with_reducible apply signalQueue_within
    | with_reducible apply putQueue_within
    | split
    | with_reducible apply Within.upd
    | exact .inr (covers_mem hc (by decide))
    | with_reducible exact .inl rfl
    | with_reducible exact List.prefix_refl _
    | exact List.prefix_append _ _
    | with_reducible exact Nat.le_refl _
    | with_reducible exact id
    | dsimp only


theorem opQueueCreate_within {C : List Comp} {s₀ : State}  (c : Cmd) {s : State} (h : Within C s₀ s) (hc : covers C [.eng, .mv] = true) : WithinR C s₀ ((opQueueCreate).act c s) := by
  dsimp only [opQueueCreate]
  repeat' first
    | dsimp only [withinR_done, withinR_wait, withinR_fail]
    | (with_reducible show WithinR _ _ _; split)
  repeat' first
    | with_reducible assumption
    | exact covers_trans (by decide) hc
    | with_reducible apply createObj_within
    | with_reducible apply putQueue_within
    | (with_reducible apply getD_map_within; rotate_left; intro _)
    | split
    | dsimp only


theorem execQueueCreate_within {C : List Comp} {s₀ : State} (c : Cmd) {s : State} (h : Within C s₀ s) (hc : covers C [.out, .eng, .mv, .host, .ev, .boot, .hm] = true) : WithinO C s₀ (execQueueCreate c s) :=
  runOp_within c (fun h => h) (fun h => opQueueCreate_within c h (covers_trans (by decide) hc)) h (covers_trans (by decide) hc)

theorem opQueueConfig_within {C : List Comp} {s₀ : State}  (c : Cmd) {s : State} (h : Within C s₀ s) (hc : covers C [.out, .eng, .mv, .host] = true) : WithinR C s₀ ((opQueueConfig).act c s) := by
  dsimp only [opQueueConfig]
  repeat' first
    | dsimp only [withinR_done, withinR_wait, withinR_fail]
    | (with_reducible show WithinR _ _ _; split)
  repeat' first
    | with_reducible assumption
    | exact covers_trans (by decide) hc
    | with_reducible apply signalQueue_within
    | with_reducible apply bumpObj_within
    | with_reducible apply putQueue_within
    | split
    | with_reducible apply Within.upd
    | exact .inr (covers_mem hc (by decide))
    | with_reducible exact .inl rfl
    | with_reducible exact List.prefix_refl _
    | with_reducible exact Nat.le_refl _
    | with_reducible exact id
    | dsimp only


theorem execQueueConfig_within {C : List Comp} {s₀ : State} (c : Cmd) {s : State} (h : Within C s₀ s) (hc : covers C [.out, .eng, .mv, .host, .ev, .boot, .hm] = true) : WithinO C s₀ (execQueueConfig c s) :=
  runOp_within c (fun h => h) (fun h => opQueueConfig_within c h (covers_trans (by decide) hc)) h (covers_trans (by decide) hc)

theorem opQueueQuery_within {C : List Comp} {s₀ : State}  (c : Cmd) {s : State} (h : Within C s₀ s) (_hc : covers C [] = true) : WithinR C s₀ ((opQueueQuery).act c s) := by
  dsimp only [opQueueQuery]
  repeat' first
    | dsimp only [withinR_done, withinR_wait, withinR_fail]
    | (with_reducible show WithinR _ _ _; split)
  repeat' first
    | with_reducible assumption
    | split
    | with_reducible apply Within.upd
    | with_reducible exact .inl rfl
    | with_reducible exact List.prefix_refl _
    | with_reducible exact Nat.le_refl _
    | with_reducible exact id
    | dsimp only


theorem execQueueQuery_within {C : List Comp} {s₀ : State} (c : Cmd) {s : State} (h : Within C s₀ s) (hc : covers C [.out, .eng, .mv, .host, .ev, .boot, .hm] = true) : WithinO C s₀ (execQueueQuery c s) :=
  runOp_within c (fun h => h) (fun h => opQueueQuery_within c h (covers_trans (by decide) hc)) h (covers_trans (by decide) hc)

theorem opQueueRestart_within {C : List Comp} {s₀ : State}  (c : Cmd) {s : State} (h : Within C s₀ s) (hc : covers C [.mv] = true) : WithinR C s₀ ((opQueueRestart).act c s) := by
  dsimp only [opQueueRestart]
  repeat' first
    | dsimp only [withinR_done, withinR_wait, withinR_fail]
    | (with_reducible show WithinR _ _ _; split)
  repeat' first
    | with_reducible assumption
    | exact covers_trans (by decide) hc
    | with_reducible apply modQueue_within
    | split
    | dsimp only


theorem execQueueRestart_within {C : List Comp} {s₀ : State} (c : Cmd) {s : State} (h : Within C s₀ s) (hc : covers C [.out, .eng, .mv, .host, .ev, .boot, .hm] = true) : WithinO C s₀ (execQueueRestart c s) :=
  runOp_within c (fun h => h) (fun h => opQueueRestart_within c h (covers_trans (by decide) hc)) h (covers_trans (by decide) hc)

end Sys2Proof.Machine
end

