-- ==== Sys2Proof/Laws/WithinPulses.lean ====
section
/-!
SUPPORT. The operations of Pulses: each keeps what `Within` says.
-/
namespace Sys2Proof.Machine
open Sys2Proof
set_option Elab.async false
set_option linter.all false

theorem putSched_within {C : List Comp} {s₀ : State} (k : Nat) (o : Sched) {s : State} (h : Within C s₀ s) (hc : covers C [.time] = true) : Within C s₀ (putSched k o s) := by
  unfold putSched
  try dsimp only
  repeat' first
    | with_reducible assumption
    | exact covers_trans (by decide) hc
    | with_reducible apply Within.upd
    | exact .inr (covers_mem hc (by decide))
    | with_reducible exact .inl rfl
    | with_reducible exact List.prefix_refl _
    | with_reducible exact Nat.le_refl _
    | with_reducible exact id


theorem modSched_within {C : List Comp} {s₀ : State} (k : Nat) (f : Sched → Sched) {s : State} (h : Within C s₀ s) (hc : covers C [.time] = true) : Within C s₀ (modSched k f s) := by
  unfold modSched
  try dsimp only
  repeat' first
    | with_reducible assumption
    | exact covers_trans (by decide) hc
    | with_reducible apply putSched_within
    | with_reducible apply Within.upd
    | exact .inr (covers_mem hc (by decide))
    | with_reducible exact .inl rfl
    | with_reducible exact List.prefix_refl _
    | with_reducible exact Nat.le_refl _
    | with_reducible exact id


end Sys2Proof.Machine
end

