-- ==== Sys2Proof/Laws/WithinEvents.lean ====
section
/-!
SUPPORT. The operations of Events: each keeps what `Within` says.
-/
namespace Sys2Proof.Machine
open Sys2Proof
set_option Elab.async false
set_option linter.all false

theorem scheduleGroup_within {C : List Comp} {s₀ : State} (g : GroupCommit) {s : State} (h : Within C s₀ s) (hc : covers C [.ev] = true) : Within C s₀ (scheduleGroup g s) := by
  unfold scheduleGroup
  try dsimp only
  repeat' first
    | with_reducible assumption
    | exact covers_trans (by decide) hc
    | with_reducible apply modEv_within
    | with_reducible apply Within.upd
    | exact .inr (covers_mem hc (by decide))
    | with_reducible exact .inl rfl
    | with_reducible exact List.prefix_refl _
    | with_reducible exact Nat.le_refl _
    | with_reducible exact id
    | dsimp only


theorem execGroupCommit_within {C : List Comp} {s₀ : State}  {s : State} (h : Within C s₀ s) (hc : covers C [.ev] = true) : WithinO C s₀ (execGroupCommit s) := by
  unfold execGroupCommit
  try dsimp only
  repeat' first
    | dsimp only [withinO_next]
    | (with_reducible show WithinO _ _ _; split)
  repeat' first
    | with_reducible assumption
    | exact covers_trans (by decide) hc
    | with_reducible apply modEv_within
    | split
    | with_reducible apply Within.upd
    | exact .inr (covers_mem hc (by decide))
    | with_reducible exact .inl rfl
    | with_reducible exact List.prefix_refl _
    | with_reducible exact Nat.le_refl _
    | with_reducible exact id
    | dsimp only


theorem execGroupInput_within {C : List Comp} {s₀ : State} (index n : Nat) {s : State} (h : Within C s₀ s) (hc : covers C [.ev] = true) : WithinO C s₀ (execGroupInput index n s) := by
  unfold execGroupInput
  try dsimp only
  repeat' first
    | dsimp only [withinO_next]
    | (with_reducible show WithinO _ _ _; split)
  repeat' first
    | with_reducible assumption
    | exact covers_trans (by decide) hc
    | with_reducible refine takeInput_within ?_ ?_ (by assumption)
    | with_reducible apply scheduleGroup_within
    | split
    | with_reducible apply Within.upd
    | exact .inr (covers_mem hc (by decide))
    | with_reducible exact .inl rfl
    | with_reducible exact List.prefix_refl _
    | with_reducible exact Nat.le_refl _
    | with_reducible exact id
    | dsimp only


theorem countRoute_within {C : List Comp} {s₀ : State} (k : Nat) (r : Route) {s : State} (h : Within C s₀ s) (hc : covers C [.ev] = true) : Within C s₀ (countRoute k r s) := by
  unfold countRoute
  try dsimp only
  repeat' first
    | with_reducible assumption
    | exact covers_trans (by decide) hc
    | with_reducible apply modEv_within
    | split
    | with_reducible apply Within.upd
    | exact .inr (covers_mem hc (by decide))
    | with_reducible exact .inl rfl
    | with_reducible exact List.prefix_refl _
    | exact List.prefix_append _ _
    | with_reducible exact Nat.le_refl _
    | with_reducible exact id
    | dsimp only


theorem deliverTo_within {C : List Comp} {s₀ : State} (e : Ev) (chan : Nat) (overrun : Bool) (kr : Nat × Route) {s : State} (h : Within C s₀ s) (hc : covers C [.out, .eng, .mv, .host, .ev, .boot, .gov, .fs] = true) : Within C s₀ (deliverTo e chan overrun s kr) := by
  unfold deliverTo
  try dsimp only
  repeat' first
    | with_reducible assumption
    | exact covers_trans (by decide) hc
    | with_reducible apply countRoute_within
    | with_reducible apply modEv_within
    | with_reducible apply offerEntry_within
    | split
    | with_reducible apply Within.upd
    | exact .inr (covers_mem hc (by decide))
    | with_reducible exact .inl rfl
    | with_reducible exact List.prefix_refl _
    | exact List.prefix_append _ _
    | with_reducible exact Nat.le_refl _
    | with_reducible exact id
    | dsimp only


theorem dropLoop_within {C : List Comp} {s₀ : State} (t chan : Nat) (e : Ev) {s : State} (h : Within C s₀ s) (hc : covers C [.ev] = true) : Within C s₀ (dropLoop t chan e s) := by
  unfold dropLoop
  try dsimp only
  repeat' first
    | with_reducible assumption
    | exact covers_trans (by decide) hc
    | with_reducible apply modEv_within
    | with_reducible apply raise_within
    | split
    | with_reducible apply Within.upd
    | exact .inr (covers_mem hc (by decide))
    | with_reducible exact .inl rfl
    | with_reducible exact List.prefix_refl _
    | with_reducible exact Nat.le_refl _
    | with_reducible exact id
    | dsimp only


theorem publish_within {C : List Comp} {s₀ : State} (t chan : Nat) (e : Ev) {s : State} (h : Within C s₀ s) (hc : covers C [.out, .eng, .mv, .host, .ev, .boot, .gov, .fs] = true) : Within C s₀ (publish t chan e s) := by
  unfold publish
  try dsimp only
  repeat' first
    | with_reducible assumption
    | exact covers_trans (by decide) hc
    | with_reducible apply modEv_within
    | with_reducible apply dropLoop_within
    | with_reducible apply deliverTo_within
    | (with_reducible apply foldl_within; rotate_left; (intro _ _ _; try dsimp only))
    | split
    | with_reducible apply Within.upd
    | exact .inr (covers_mem hc (by decide))
    | with_reducible exact .inl rfl
    | with_reducible exact List.prefix_refl _
    | exact List.prefix_append _ _
    | with_reducible exact Nat.le_refl _
    | with_reducible exact id
    | dsimp only


theorem publishVia_within {C : List Comp} {s₀ : State} (t : Nat) (e : Ev) (kr : Nat × Route) {s : State} (h : Within C s₀ s) (hc : covers C [.out, .eng, .mv, .host, .ev, .boot, .gov, .fs] = true) : Within C s₀ (publishVia t e s kr) := by
  unfold publishVia
  try dsimp only
  repeat' first
    | with_reducible assumption
    | exact covers_trans (by decide) hc
    | with_reducible apply publish_within
    | with_reducible apply countRoute_within
    | split
    | dsimp only


theorem execEventIntake_within {C : List Comp} {s₀ : State} (tile : Nat) {s : State} (h : Within C s₀ s) (hc : covers C [.out, .eng, .mv, .host, .ev, .boot, .gov, .fs] = true) : WithinO C s₀ (execEventIntake tile s) := by
  unfold execEventIntake
  try dsimp only
  repeat' first
    | dsimp only [withinO_next]
    | (with_reducible show WithinO _ _ _; split)
  repeat' first
    | with_reducible assumption
    | exact covers_trans (by decide) hc
    | with_reducible apply modEv_within
    | with_reducible apply publish_within
    | with_reducible apply publishVia_within
    | (with_reducible apply foldl_within; rotate_left; (intro _ _ _; try dsimp only))
    | split
    | with_reducible apply Within.upd
    | exact .inr (covers_mem hc (by decide))
    | with_reducible exact .inl rfl
    | with_reducible exact List.prefix_refl _
    | exact List.prefix_append _ _
    | with_reducible exact Nat.le_refl _
    | with_reducible exact id
    | dsimp only


theorem execRouteCommit_within {C : List Comp} {s₀ : State} (route : Nat) {s : State} (h : Within C s₀ s) (hc : covers C [.ev] = true) : WithinO C s₀ (execRouteCommit route s) := by
  unfold execRouteCommit
  try dsimp only
  repeat' first
    | dsimp only [withinO_next]
    | (with_reducible show WithinO _ _ _; split)
  repeat' first
    | with_reducible assumption
    | exact covers_trans (by decide) hc
    | with_reducible apply modEv_within
    | (with_reducible apply getD_map_within; rotate_left; intro _)
    | split
    | with_reducible apply Within.upd
    | exact .inr (covers_mem hc (by decide))
    | with_reducible exact .inl rfl
    | with_reducible exact List.prefix_refl _
    | exact List.prefix_append _ _
    | with_reducible exact Nat.le_refl _
    | with_reducible exact id
    | dsimp only


theorem destroyRoute_within {C : List Comp} {s₀ : State} (k : Nat) {s : State} (h : Within C s₀ s) (hc : covers C [.eng, .host, .ev] = true) : Within C s₀ (destroyRoute k s) := by
  unfold destroyRoute
  try dsimp only
  repeat' first
    | with_reducible assumption
    | exact covers_trans (by decide) hc
    | with_reducible apply dropObj_within
    | with_reducible apply modEv_within
    | split
    | with_reducible apply Within.upd
    | exact .inr (covers_mem hc (by decide))
    | with_reducible exact .inl rfl
    | with_reducible exact List.prefix_refl _
    | exact List.prefix_append _ _
    | with_reducible exact Nat.le_refl _
    | with_reducible exact id
    | dsimp only


theorem putPin_within {C : List Comp} {s₀ : State} (p : Nat) (x : Pin) {s : State} (h : Within C s₀ s) (hc : covers C [.ev] = true) : Within C s₀ (putPin p x s) := by
  unfold putPin
  try dsimp only
  repeat' first
    | with_reducible assumption
    | exact covers_trans (by decide) hc
    | with_reducible apply modEv_within
    | with_reducible apply Within.upd
    | exact .inr (covers_mem hc (by decide))
    | with_reducible exact .inl rfl
    | with_reducible exact List.prefix_refl _
    | with_reducible exact Nat.le_refl _
    | with_reducible exact id
    | dsimp only


theorem modPin_within {C : List Comp} {s₀ : State} (p : Nat) (f : Pin → Pin) {s : State} (h : Within C s₀ s) (hc : covers C [.ev] = true) : Within C s₀ (modPin p f s) := by
  unfold modPin
  try dsimp only
  repeat' first
    | with_reducible assumption
    | exact covers_trans (by decide) hc
    | with_reducible apply putPin_within
    | with_reducible apply Within.upd
    | exact .inr (covers_mem hc (by decide))
    | with_reducible exact .inl rfl
    | with_reducible exact List.prefix_refl _
    | with_reducible exact Nat.le_refl _
    | with_reducible exact id


theorem driveLevel_within {C : List Comp} {s₀ : State} (p : Nat) (level : Bool) (at_ : Nat) {s : State} (h : Within C s₀ s) (hc : covers C [.out, .host, .ev] = true) : Within C s₀ (driveLevel p level at_ s) := by
  unfold driveLevel
  try dsimp only
  repeat' first
    | with_reducible assumption
    | exact covers_trans (by decide) hc
    | with_reducible apply emit_within
    | with_reducible apply pin_within
    | with_reducible apply putPin_within
    | split
    | with_reducible apply Within.upd
    | exact .inr (covers_mem hc (by decide))
    | with_reducible exact .inl rfl
    | with_reducible exact List.prefix_refl _
    | with_reducible exact Nat.le_refl _
    | with_reducible exact id
    | dsimp only


theorem driveEdge_within {C : List Comp} {s₀ : State} (p : Nat) (g : PinEdge) {s : State} (h : Within C s₀ s) (hc : covers C [.out, .host, .ev] = true) : Within C s₀ (driveEdge p g s) := by
  unfold driveEdge
  try dsimp only
  repeat' first
    | with_reducible assumption
    | exact covers_trans (by decide) hc
    | with_reducible apply modPin_within
    | with_reducible apply driveLevel_within
    | split
    | with_reducible apply Within.upd
    | exact .inr (covers_mem hc (by decide))
    | with_reducible exact .inl rfl
    | with_reducible exact List.prefix_refl _
    | with_reducible exact Nat.le_refl _
    | with_reducible exact id
    | dsimp only


theorem idlePin_within {C : List Comp} {s₀ : State} (p : Nat) {s : State} (h : Within C s₀ s) (hc : covers C [.out, .host, .ev] = true) : Within C s₀ (idlePin p s) := by
  unfold idlePin
  try dsimp only
  repeat' first
    | with_reducible assumption
    | exact covers_trans (by decide) hc
    | with_reducible apply modPin_within
    | with_reducible apply driveLevel_within
    | with_reducible apply Within.upd
    | exact .inr (covers_mem hc (by decide))
    | with_reducible exact .inl rfl
    | with_reducible exact List.prefix_refl _
    | with_reducible exact Nat.le_refl _
    | with_reducible exact id
    | dsimp only


theorem releasePin_within {C : List Comp} {s₀ : State} (p : Nat) {s : State} (h : Within C s₀ s) (hc : covers C [.out, .ev] = true) : Within C s₀ (releasePin p s) := by
  unfold releasePin
  try dsimp only
  repeat' first
    | with_reducible assumption
    | exact covers_trans (by decide) hc
    | with_reducible apply emit_within
    | with_reducible apply modPin_within
    | with_reducible apply Within.upd
    | exact .inr (covers_mem hc (by decide))
    | with_reducible exact .inl rfl
    | with_reducible exact List.prefix_refl _
    | with_reducible exact Nat.le_refl _
    | with_reducible exact id
    | dsimp only


theorem beginDriving_within {C : List Comp} {s₀ : State} (p : Nat) {s : State} (h : Within C s₀ s) (hc : covers C [.out, .host, .ev] = true) : Within C s₀ (beginDriving p s) := by
  unfold beginDriving
  try dsimp only
  repeat' first
    | with_reducible assumption
    | exact covers_trans (by decide) hc
    | with_reducible apply emit_within
    | with_reducible apply pin_within
    | with_reducible apply modPin_within
    | with_reducible apply Within.upd
    | exact .inr (covers_mem hc (by decide))
    | with_reducible exact .inl rfl
    | with_reducible exact List.prefix_refl _
    | with_reducible exact Nat.le_refl _
    | with_reducible exact id
    | dsimp only


theorem armEdges_within {C : List Comp} {s₀ : State} (p : Nat) (n₀ : Nat) {s : State} (h : Within C s₀ s) (hc : covers C [.time, .ev] = true) : Within C s₀ (armEdges p n₀ s) := by
  induction n₀ generalizing s with
  | zero => exact h
  | succ n₀ ih =>
    unfold armEdges
    try dsimp only
    repeat' first
      | with_reducible assumption
      | with_reducible apply ih
      | exact covers_trans (by decide) hc
      | with_reducible apply putSched_within
      | with_reducible apply putPin_within
      | split
      | with_reducible apply Within.upd
      | exact .inr (covers_mem hc (by decide))
      | with_reducible exact .inl rfl
      | with_reducible exact List.prefix_refl _
      | with_reducible exact Nat.le_refl _
      | with_reducible exact id
      | dsimp only


theorem driveDue_within {C : List Comp} {s₀ : State} (p : Nat) (l : List PinEdge) {s : State} (h : Within C s₀ s) (hc : covers C [.out, .host, .ev] = true) :
    Within C s₀ (driveDue p l s) := by
  have sub {M : List Comp} (h : covers [.out, .host, .ev] M = true) : covers C M = true := covers_trans h hc
  induction l generalizing s with
  | nil => exact h
  | cons g l ih =>
    unfold driveDue
    split
    · exact ih (driveEdge_within _ _ h (sub rfl))
    · exact ih (modPin_within _ _ h (sub rfl))


theorem servePin_within {C : List Comp} {s₀ : State} (p : Nat) {s : State} (h : Within C s₀ s) (hc : covers C [.out, .host, .time, .ev] = true) : Within C s₀ (servePin p s) := by
  unfold servePin
  try dsimp only
  repeat' first
    | with_reducible assumption
    | exact covers_trans (by decide) hc
    | with_reducible apply armEdges_within
    | with_reducible apply driveDue_within
    | with_reducible apply modPin_within
    | split
    | with_reducible apply Within.upd
    | exact .inr (covers_mem hc (by decide))
    | with_reducible exact .inl rfl
    | with_reducible exact List.prefix_refl _
    | with_reducible exact Nat.le_refl _
    | with_reducible exact id
    | dsimp only


theorem execPinInputEdge_within {C : List Comp} {s₀ : State} (pin : Nat) (level : BallLevel) {s : State} (h : Within C s₀ s) (hc : covers C [.host, .ev] = true) : WithinO C s₀ (execPinInputEdge pin level s) := by
  unfold execPinInputEdge
  try dsimp only
  repeat' first
    | dsimp only [withinO_next]
    | (with_reducible show WithinO _ _ _; split)
  repeat' first
    | with_reducible assumption
    | exact covers_trans (by decide) hc
    | with_reducible apply modPin_within
    | with_reducible apply pin_within
    | with_reducible apply putPin_within
    | with_reducible apply raise_within
    | (with_reducible apply getD_map_within; rotate_left; intro _)
    | split
    | with_reducible apply Within.upd
    | exact .inr (covers_mem hc (by decide))
    | with_reducible exact .inl rfl
    | with_reducible exact List.prefix_refl _
    | with_reducible exact Nat.le_refl _
    | with_reducible exact id
    | dsimp only


theorem takePinAction_within {C : List Comp} {s₀ : State} (pin n : Nat) {s : State} (h : Within C s₀ s) (hc : covers C [.out, .host, .ev] = true) : Within C s₀ (takePinAction pin n s) := by
  unfold takePinAction
  try dsimp only
  repeat' first
    | with_reducible assumption
    | exact covers_trans (by decide) hc
    | with_reducible apply pin_within
    | with_reducible refine takeInput_within ?_ ?_ (by assumption)
    | with_reducible apply driveEdge_within
    | with_reducible apply putPin_within
    | split
    | with_reducible apply Within.upd
    | exact .inr (covers_mem hc (by decide))
    | with_reducible exact .inl rfl
    | with_reducible exact List.prefix_refl _
    | with_reducible exact Nat.le_refl _
    | with_reducible exact id
    | dsimp only


theorem execPinAction_within {C : List Comp} {s₀ : State} (pin n : Nat) {s : State} (h : Within C s₀ s) (hc : covers C [.out, .host, .ev] = true) : WithinO C s₀ (execPinAction pin n s) := by
  unfold execPinAction
  try dsimp only
  repeat' first
    | dsimp only [withinO_next]
    | (with_reducible show WithinO _ _ _; split)
  repeat' first
    | with_reducible assumption
    | exact covers_trans (by decide) hc
    | with_reducible apply takePinAction_within
    | with_reducible apply pin_within


theorem execPinEdgeDue_within {C : List Comp} {s₀ : State} (pin : Nat) {s : State} (h : Within C s₀ s) (hc : covers C [.out, .host, .time, .ev] = true) : WithinO C s₀ (execPinEdgeDue pin s) := by
  unfold execPinEdgeDue
  try dsimp only
  repeat' first
    | dsimp only [withinO_next]
    | (with_reducible show WithinO _ _ _; split)
  repeat' first
    | with_reducible assumption
    | exact covers_trans (by decide) hc
    | with_reducible apply pin_within
    | with_reducible apply servePin_within
    | split


theorem execPinPulseEnd_within {C : List Comp} {s₀ : State} (pin : Nat) {s : State} (h : Within C s₀ s) (hc : covers C [.out, .host, .ev] = true) : WithinO C s₀ (execPinPulseEnd pin s) := by
  unfold execPinPulseEnd
  try dsimp only
  repeat' first
    | dsimp only [withinO_next]
    | (with_reducible show WithinO _ _ _; split)
  repeat' first
    | with_reducible assumption
    | exact covers_trans (by decide) hc
    | with_reducible apply pin_within
    | with_reducible apply driveLevel_within
    | with_reducible apply putPin_within
    | split
    | with_reducible apply Within.upd
    | exact .inr (covers_mem hc (by decide))
    | with_reducible exact .inl rfl
    | with_reducible exact List.prefix_refl _
    | with_reducible exact Nat.le_refl _
    | with_reducible exact id
    | dsimp only


theorem pairFrame_within {C : List Comp} {s₀ : State} (g : Nat) (e : Int) (estimated : Bool) (admitted : Nat → Bool) {s : State} (h : Within C s₀ s) (hc : covers C [.ev] = true) : Within C s₀ (pairFrame g e estimated admitted s) := by
  unfold pairFrame
  try dsimp only
  repeat' first
    | with_reducible assumption
    | exact covers_trans (by decide) hc
    | with_reducible apply modEv_within
    | split
    | with_reducible apply Within.upd
    | exact .inr (covers_mem hc (by decide))
    | with_reducible exact .inl rfl
    | with_reducible exact List.prefix_refl _
    | with_reducible exact Nat.le_refl _
    | with_reducible exact id
    | with_reducible exact fun g => g.of_eq rfl rfl rfl
    | dsimp only


theorem dropSkew_within {C : List Comp} {s₀ : State} (p : Nat) (a : Option Answer) {s : State} (h : Within C s₀ s) (hc : covers C [.out, .eng, .mv, .host, .ev, .boot] = true) : Within C s₀ (dropSkew p a s) := by
  unfold dropSkew
  try dsimp only
  repeat' first
    | with_reducible assumption
    | exact covers_trans (by decide) hc
    | with_reducible apply modEv_within
    | with_reducible apply finish_within
    | with_reducible apply dropWait_within
    | split
    | with_reducible apply Within.upd
    | exact .inr (covers_mem hc (by decide))
    | with_reducible exact .inl rfl
    | with_reducible exact List.prefix_refl _
    | with_reducible exact Nat.le_refl _
    | with_reducible exact id
    | dsimp only


theorem execSkewLearnDone_within {C : List Comp} {s₀ : State} (pin : Nat) {s : State} (h : Within C s₀ s) (hc : covers C [.free, .out, .eng, .mv, .host, .ev, .boot, .fs] = true) : WithinO C s₀ (execSkewLearnDone pin s) := by
  unfold execSkewLearnDone
  try dsimp only
  repeat' first
    | dsimp only [withinO_next]
    | (with_reducible show WithinO _ _ _; split)
  repeat' first
    | with_reducible assumption
    | exact covers_trans (by decide) hc
    | with_reducible apply pin_within
    | with_reducible apply trim_within
    | with_reducible apply modEv_within
    | with_reducible apply useFree_within
    | with_reducible apply bumpPkg_within
    | with_reducible apply putPin_within
    | with_reducible apply finish_within
    | (with_reducible apply foldl_within; rotate_left; (intro _ _ _; try dsimp only))
    | split
    | with_reducible apply Within.upd
    | exact .inr (covers_mem hc (by decide))
    | with_reducible exact .inl rfl
    | with_reducible exact List.prefix_refl _
    | with_reducible exact Nat.le_refl _
    | with_reducible exact id
    | with_reducible exact fun g => g.of_eq rfl rfl rfl
    | dsimp only


theorem opEvRouteCreate_within {C : List Comp} {s₀ : State}  (c : Cmd) {s : State} (h : Within C s₀ s) (hc : covers C [.eng, .ev] = true) : WithinR C s₀ ((opEvRouteCreate).act c s) := by
  dsimp only [opEvRouteCreate]
  repeat' first
    | dsimp only [withinR_done, withinR_wait, withinR_fail]
    | (with_reducible show WithinR _ _ _; split)
  repeat' first
    | with_reducible assumption
    | exact covers_trans (by decide) hc
    | with_reducible apply modEv_within
    | with_reducible apply createObj_within
    | (with_reducible apply getD_map_within; rotate_left; intro _)
    | split
    | with_reducible apply Within.upd
    | exact .inr (covers_mem hc (by decide))
    | with_reducible exact .inl rfl
    | with_reducible exact List.prefix_refl _
    | exact List.prefix_append _ _
    | with_reducible exact Nat.le_refl _
    | with_reducible exact id
    | dsimp only


theorem execEvRouteCreate_within {C : List Comp} {s₀ : State} (c : Cmd) {s : State} (h : Within C s₀ s) (hc : covers C [.out, .eng, .mv, .host, .ev, .boot, .hm] = true) : WithinO C s₀ (execEvRouteCreate c s) :=
  runOp_within c (fun h => h) (fun h => opEvRouteCreate_within c h (covers_trans (by decide) hc)) h (covers_trans (by decide) hc)

theorem opEvRouteDestroy_within {C : List Comp} {s₀ : State}  (c : Cmd) {s : State} (h : Within C s₀ s) (hc : covers C [.eng, .host, .ev] = true) : WithinR C s₀ ((opEvRouteDestroy).act c s) := by
  dsimp only [opEvRouteDestroy]
  repeat' first
    | dsimp only [withinR_done, withinR_wait, withinR_fail]
    | (with_reducible show WithinR _ _ _; split)
  repeat' first
    | with_reducible assumption
    | exact covers_trans (by decide) hc
    | with_reducible apply destroyRoute_within


theorem execEvRouteDestroy_within {C : List Comp} {s₀ : State} (c : Cmd) {s : State} (h : Within C s₀ s) (hc : covers C [.out, .eng, .mv, .host, .ev, .boot, .hm] = true) : WithinO C s₀ (execEvRouteDestroy c s) :=
  runOp_within c (fun h => h) (fun h => opEvRouteDestroy_within c h (covers_trans (by decide) hc)) h (covers_trans (by decide) hc)

theorem opEvRouteQuery_within {C : List Comp} {s₀ : State}  (c : Cmd) {s : State} (h : Within C s₀ s) (_hc : covers C [] = true) : WithinR C s₀ ((opEvRouteQuery).act c s) := by
  dsimp only [opEvRouteQuery]
  repeat' first
    | dsimp only [withinR_done, withinR_wait, withinR_fail]
    | (with_reducible show WithinR _ _ _; split)
  repeat' first
    | with_reducible assumption
    | (with_reducible apply getD_map_within; rotate_left; intro _)
    | dsimp only


theorem execEvRouteQuery_within {C : List Comp} {s₀ : State} (c : Cmd) {s : State} (h : Within C s₀ s) (hc : covers C [.out, .eng, .mv, .host, .ev, .boot, .hm] = true) : WithinO C s₀ (execEvRouteQuery c s) :=
  runOp_within c (fun h => h) (fun h => opEvRouteQuery_within c h (covers_trans (by decide) hc)) h (covers_trans (by decide) hc)

theorem setPin_within {C : List Comp} {s₀ : State} (p : Nat) (x : Pin) {s : State} (h : Within C s₀ s) (hc : covers C [.out, .host, .ev] = true) : Within C s₀ (setPin p x s) := by
  unfold setPin
  try dsimp only
  repeat' first
    | with_reducible assumption
    | exact covers_trans (by decide) hc
    | with_reducible apply putPin_within
    | with_reducible apply idlePin_within
    | with_reducible apply beginDriving_within
    | with_reducible apply releasePin_within
    | with_reducible apply modPin_within
    | split
    | with_reducible apply Within.upd
    | exact .inr (covers_mem hc (by decide))
    | with_reducible exact .inl rfl
    | with_reducible exact List.prefix_refl _
    | with_reducible exact Nat.le_refl _
    | with_reducible exact id
    | dsimp only


theorem opEvPinSet_first_within {C : List Comp} {s₀ : State}  (c : Cmd) {s : State} (h : Within C s₀ s) (hc : covers C [.out, .eng, .host, .ev] = true) : Within C s₀ ((opEvPinSet).first c s) := by
  dsimp only [opEvPinSet]
  repeat' first
    | with_reducible assumption
    | exact covers_trans (by decide) hc
    | with_reducible apply takePinAction_within
    | with_reducible apply bumpPkg_within
    | with_reducible apply setPin_within
    | split
    | dsimp only


theorem opEvPinSet_within {C : List Comp} {s₀ : State}  (c : Cmd) {s : State} (h : Within C s₀ s) (hc : covers C [.out, .eng, .host, .ev] = true) : WithinR C s₀ ((opEvPinSet).act c s) := by
  dsimp only [opEvPinSet]
  repeat' first
    | dsimp only [withinR_done, withinR_wait, withinR_fail]
    | (with_reducible show WithinR _ _ _; split)
  repeat' first
    | with_reducible assumption
    | exact covers_trans (by decide) hc
    | with_reducible apply takePinAction_within
    | with_reducible apply bumpPkg_within
    | with_reducible apply setPin_within
    | split
    | dsimp only


theorem execEvPinSet_within {C : List Comp} {s₀ : State} (c : Cmd) {s : State} (h : Within C s₀ s) (hc : covers C [.out, .eng, .mv, .host, .ev, .boot, .hm] = true) : WithinO C s₀ (execEvPinSet c s) :=
  runOp_within c (fun h => opEvPinSet_first_within c h (covers_trans (by decide) hc)) (fun h => opEvPinSet_within c h (covers_trans (by decide) hc)) h (covers_trans (by decide) hc)

theorem opEvPinQuery_within {C : List Comp} {s₀ : State}  (c : Cmd) {s : State} (h : Within C s₀ s) (_hc : covers C [] = true) : WithinR C s₀ ((opEvPinQuery).act c s) := by
  dsimp only [opEvPinQuery]
  repeat' first
    | dsimp only [withinR_done, withinR_wait, withinR_fail]
    | (with_reducible show WithinR _ _ _; split)
  repeat' first
    | with_reducible assumption


theorem execEvPinQuery_within {C : List Comp} {s₀ : State} (c : Cmd) {s : State} (h : Within C s₀ s) (hc : covers C [.out, .eng, .mv, .host, .ev, .boot, .hm] = true) : WithinO C s₀ (execEvPinQuery c s) :=
  runOp_within c (fun h => h) (fun h => opEvPinQuery_within c h (covers_trans (by decide) hc)) h (covers_trans (by decide) hc)

theorem opEvGroupSet_within {C : List Comp} {s₀ : State}  (c : Cmd) {s : State} (h : Within C s₀ s) (hc : covers C [.eng, .ev] = true) : WithinR C s₀ ((opEvGroupSet).act c s) := by
  dsimp only [opEvGroupSet]
  repeat' first
    | dsimp only [withinR_done, withinR_wait, withinR_fail]
    | (with_reducible show WithinR _ _ _; split)
  repeat' first
    | with_reducible assumption
    | exact covers_trans (by decide) hc
    | with_reducible apply bumpPkg_within
    | with_reducible apply scheduleGroup_within
    | split


theorem execEvGroupSet_within {C : List Comp} {s₀ : State} (c : Cmd) {s : State} (h : Within C s₀ s) (hc : covers C [.out, .eng, .mv, .host, .ev, .boot, .hm] = true) : WithinO C s₀ (execEvGroupSet c s) :=
  runOp_within c (fun h => h) (fun h => opEvGroupSet_within c h (covers_trans (by decide) hc)) h (covers_trans (by decide) hc)

theorem opEvStatus_within {C : List Comp} {s₀ : State}  (c : Cmd) {s : State} (h : Within C s₀ s) (_hc : covers C [] = true) : WithinR C s₀ ((opEvStatus).act c s) := by
  dsimp only [opEvStatus]
  repeat' first
    | dsimp only [withinR_done, withinR_wait, withinR_fail]
    | (with_reducible show WithinR _ _ _; split)
  repeat' first
    | with_reducible assumption


theorem execEvStatus_within {C : List Comp} {s₀ : State} (c : Cmd) {s : State} (h : Within C s₀ s) (hc : covers C [.out, .eng, .mv, .host, .ev, .boot, .hm] = true) : WithinO C s₀ (execEvStatus c s) :=
  runOp_within c (fun h => h) (fun h => opEvStatus_within c h (covers_trans (by decide) hc)) h (covers_trans (by decide) hc)

theorem raisePublish_within {C : List Comp} {s₀ : State} (p chan : Nat) (payload : U32) {s : State} (h : Within C s₀ s) (hc : covers C [.out, .eng, .mv, .host, .ev, .boot, .gov, .fs] = true) : Within C s₀ (raisePublish p chan payload s) := by
  unfold raisePublish
  try dsimp only
  repeat' first
    | with_reducible assumption
    | exact covers_trans (by decide) hc
    | with_reducible apply enqueueEv_within
    | with_reducible apply publish_within
    | with_reducible apply modEv_within
    | split
    | with_reducible apply Within.upd
    | exact .inr (covers_mem hc (by decide))
    | with_reducible exact .inl rfl
    | with_reducible exact List.prefix_refl _
    | with_reducible exact Nat.le_refl _
    | with_reducible exact id
    | dsimp only


theorem opEvPublish_within {C : List Comp} {s₀ : State}  (c : Cmd) {s : State} (h : Within C s₀ s) (hc : covers C [.out, .eng, .mv, .host, .ev, .boot, .gov, .fs] = true) : WithinR C s₀ ((opEvPublish).act c s) := by
  dsimp only [opEvPublish]
  repeat' first
    | dsimp only [withinR_done, withinR_wait, withinR_fail]
    | (with_reducible show WithinR _ _ _; split)
  repeat' first
    | with_reducible assumption
    | exact covers_trans (by decide) hc
    | with_reducible apply raisePublish_within


theorem execEvPublish_within {C : List Comp} {s₀ : State} (c : Cmd) {s : State} (h : Within C s₀ s) (hc : covers C [.out, .eng, .mv, .host, .ev, .boot, .gov, .hm, .fs] = true) : WithinO C s₀ (execEvPublish c s) :=
  runOp_within c (fun h => h) (fun h => opEvPublish_within c h (covers_trans (by decide) hc)) h (covers_trans (by decide) hc)

theorem opEvSkewLearn_within {C : List Comp} {s₀ : State}  (c : Cmd) {s : State} (h : Within C s₀ s) (hc : covers C [.eng, .ev, .gov] = true) : WithinR C s₀ ((opEvSkewLearn).act c s) := by
  dsimp only [opEvSkewLearn]
  repeat' first
    | dsimp only [withinR_done, withinR_wait, withinR_fail]
    | (with_reducible show WithinR _ _ _; split)
  repeat' first
    | with_reducible assumption
    | exact covers_trans (by decide) hc
    | with_reducible apply addJob_within
    | with_reducible apply modEv_within
    | with_reducible apply addWait_within
    | (with_reducible apply foldl_within; rotate_left; (intro _ _ _; try dsimp only))
    | split
    | with_reducible apply Within.upd
    | exact .inr (covers_mem hc (by decide))
    | with_reducible exact .inl rfl
    | with_reducible exact List.prefix_refl _
    | with_reducible exact Nat.le_refl _
    | with_reducible exact id
    | with_reducible exact fun g => g.of_eq rfl rfl rfl
    | dsimp only


theorem execEvSkewLearn_within {C : List Comp} {s₀ : State} (c : Cmd) {s : State} (h : Within C s₀ s) (hc : covers C [.out, .eng, .mv, .host, .ev, .boot, .gov, .hm] = true) : WithinO C s₀ (execEvSkewLearn c s) :=
  runOp_within c (fun h => h) (fun h => opEvSkewLearn_within c h (covers_trans (by decide) hc)) h (covers_trans (by decide) hc)

end Sys2Proof.Machine
end

