-- ==== Sys2Proof/Laws/WithinRings.lean ====
section
/-!
SUPPORT. The operations of Rings: each keeps what `Within` says.
-/
namespace Sys2Proof.Machine
open Sys2Proof
set_option Elab.async false
set_option linter.all false

theorem putChannel_within {C : List Comp} {s₀ : State} (g : Nat) (c : Channel) {s : State} (h : Within C s₀ s) (hc : covers C [.st] = true) : Within C s₀ (putChannel g c s) := by
  unfold putChannel
  try dsimp only
  repeat' first
    | with_reducible assumption
    | exact covers_trans (by decide) hc
    | with_reducible apply Within.upd
    | exact .inr (covers_mem hc (by decide))
    | with_reducible exact .inl rfl
    | with_reducible exact List.prefix_refl _
    | with_reducible exact Nat.le_refl _
    | with_reducible exact id


theorem modChannel_within {C : List Comp} {s₀ : State} (g : Nat) (f : Channel → Channel) {s : State} (h : Within C s₀ s) (hc : covers C [.st] = true) : Within C s₀ (modChannel g f s) := by
  unfold modChannel
  try dsimp only
  repeat' first
    | with_reducible assumption
    | exact covers_trans (by decide) hc
    | with_reducible apply putChannel_within
    | with_reducible apply Within.upd
    | exact .inr (covers_mem hc (by decide))
    | with_reducible exact .inl rfl
    | with_reducible exact List.prefix_refl _
    | with_reducible exact Nat.le_refl _
    | with_reducible exact id


theorem modRing_within {C : List Comp} {s₀ : State} (g : Nat) (f : Ring → Ring) {s : State} (h : Within C s₀ s) (hc : covers C [.fs] = true) : Within C s₀ (modRing g f s) := by
  unfold modRing
  try dsimp only
  repeat' first
    | with_reducible assumption
    | exact covers_trans (by decide) hc
    | with_reducible apply modFs_within
    | with_reducible apply Within.upd
    | exact .inr (covers_mem hc (by decide))
    | with_reducible exact .inl rfl
    | with_reducible exact List.prefix_refl _
    | with_reducible exact Nat.le_refl _
    | with_reducible exact id
    | dsimp only


theorem modSeg_within {C : List Comp} {s₀ : State} (k : Nat) (f : Segment → Segment) {s : State} (h : Within C s₀ s) (hc : covers C [.fs] = true) : Within C s₀ (modSeg k f s) := by
  unfold modSeg
  try dsimp only
  repeat' first
    | with_reducible assumption
    | exact covers_trans (by decide) hc
    | with_reducible apply modFs_within
    | split
    | with_reducible apply Within.upd
    | exact .inr (covers_mem hc (by decide))
    | with_reducible exact .inl rfl
    | with_reducible exact List.prefix_refl _
    | with_reducible exact Nat.le_refl _
    | with_reducible exact id
    | dsimp only


theorem dropRec_within {C : List Comp} {s₀ : State} (g : Nat) (q : U64) {s : State} (h : Within C s₀ s) (hc : covers C [.fs] = true) : Within C s₀ (dropRec g q s) := by
  unfold dropRec
  try dsimp only
  repeat' first
    | with_reducible assumption
    | exact covers_trans (by decide) hc
    | with_reducible apply modRing_within
    | with_reducible apply Within.upd
    | exact .inr (covers_mem hc (by decide))
    | with_reducible exact .inl rfl
    | with_reducible exact List.prefix_refl _
    | with_reducible exact Nat.le_refl _
    | with_reducible exact id
    | dsimp only


theorem growRing_within {C : List Comp} {s₀ : State} (g n : Nat) {s : State} (h : Within C s₀ s) (hc : covers C [.fs] = true) : Within C s₀ (growRing g n s) := by
  unfold growRing
  try dsimp only
  repeat' first
    | with_reducible assumption
    | exact covers_trans (by decide) hc
    | with_reducible apply modRing_within
    | with_reducible apply Within.upd
    | exact .inr (covers_mem hc (by decide))
    | with_reducible exact .inl rfl
    | with_reducible exact List.prefix_refl _
    | with_reducible exact Nat.le_refl _
    | with_reducible exact id
    | dsimp only


theorem trimRing_within {C : List Comp} {s₀ : State} (g : Nat) (n₀ : Nat) {s : State} (h : Within C s₀ s) (hc : covers C [.fs] = true) : Within C s₀ (trimRing g n₀ s) := by
  induction n₀ generalizing s with
  | zero => exact h
  | succ n₀ ih =>
    unfold trimRing
    try dsimp only
    repeat' first
      | with_reducible assumption
      | with_reducible apply ih
      | exact covers_trans (by decide) hc
      | with_reducible apply modRing_within
      | with_reducible apply dropRec_within
      | split
      | with_reducible apply Within.upd
      | exact .inr (covers_mem hc (by decide))
      | with_reducible exact .inl rfl
      | with_reducible exact List.prefix_refl _
      | with_reducible exact Nat.le_refl _
      | with_reducible exact id
      | dsimp only


theorem trim_within {C : List Comp} {s₀ : State} (g : Nat) {s : State} (h : Within C s₀ s) (hc : covers C [.fs] = true) : Within C s₀ (trim g s) := by
  unfold trim
  try dsimp only
  repeat' first
    | with_reducible assumption
    | exact covers_trans (by decide) hc
    | with_reducible apply trimRing_within


theorem refillRing_within {C : List Comp} {s₀ : State} (g : Nat) {s : State} (h : Within C s₀ s) (hc : covers C [.fs] = true) : Within C s₀ (refillRing g s) := by
  unfold refillRing
  try dsimp only
  repeat' first
    | with_reducible assumption
    | exact covers_trans (by decide) hc
    | with_reducible apply modRing_within
    | with_reducible apply Within.upd
    | exact .inr (covers_mem hc (by decide))
    | with_reducible exact .inl rfl
    | with_reducible exact List.prefix_refl _
    | with_reducible exact Nat.le_refl _
    | with_reducible exact id
    | dsimp only


theorem refillShort_within {C : List Comp} {s₀ : State} (t : Nat) {s : State} (h : Within C s₀ s) (hc : covers C [.fs] = true) : Within C s₀ (refillShort t s) := by
  unfold refillShort
  try dsimp only
  repeat' first
    | with_reducible assumption
    | exact covers_trans (by decide) hc
    | with_reducible apply refillRing_within
    | (with_reducible apply foldl_within; rotate_left; (intro _ _ _; try dsimp only))
    | dsimp only


theorem armSegment_within {C : List Comp} {s₀ : State} {g : Nat} {x : Segment} {o : Obj} {s : State} {x₁} {t₁ : State} (h : Within C s₀ s)
    (hc : covers C [.eng, .fs] = true) (e : armSegment g x o s = some (x₁, t₁)) : Within C s₀ t₁ := by
  have sub {M : List Comp} (h : covers [.eng, .fs] M = true) : covers C M = true := covers_trans h hc
  unfold armSegment at e
  split at e
  · exact absurd e (by simp)
  · obtain ⟨i, -, hi⟩ := Option.map_eq_some_iff.mp e
    cases hi
    exact modFs_within _ (modEng_within _ h (sub rfl) fun _ g => g.putObj _ _ (show (1 : U32) ≠ 0 by decide)) (sub rfl)


theorem freezeSegment_within {C : List Comp} {s₀ : State} (k : Nat) (by_ : FreezeBy) {s : State} (h : Within C s₀ s) (hc : covers C [.eng, .ev, .fs] = true) :
    Within C s₀ (freezeSegment k by_ s) := by
  have sub {M : List Comp} (h : covers [.eng, .ev, .fs] M = true) : covers C M = true := covers_trans h hc
  unfold freezeSegment
  split
  · exact h
  · extract_lets
    rename_i s₁ s₂ s₃ lack s₄ s₅ fresh next s₆
    have h₅ : Within C s₀ s₅ := by
      refine trim_within _ ?_ (sub rfl)
      have h₃ : Within C s₀ s₃ := refillRing_within _ (modRing_within _ _ (modFs_within _ h (sub rfl)) (sub rfl)) (sub rfl)
      show Within C s₀ (if lack = 0 then s₃ else _)
      split
      · exact h₃
      · exact raise_within _ _ _ h₃ (sub rfl)
    refine raise_within _ _ _ ?_ (sub rfl)
    show Within C s₀ ((next.map (·.2)).getD s₅)
    rcases hn : next with _ | ⟨i, t⟩
    · exact h₅
    · dsimp only [next] at hn
      split at hn
      · exact armSegment_within h₅ (sub rfl) hn
      · cases hn


theorem checkSegment_within {C : List Comp} {s₀ : State} (k : Nat) {s : State} (h : Within C s₀ s) (hc : covers C [.eng, .ev, .fs] = true) : Within C s₀ (checkSegment k s) := by
  unfold checkSegment
  try dsimp only
  repeat' first
    | with_reducible assumption
    | exact covers_trans (by decide) hc
    | with_reducible apply freezeSegment_within
    | split
    | dsimp only


theorem triggerSegment_within {C : List Comp} {s₀ : State} (k : Nat) (at_ : Int) (hops : Nat) {s : State} (h : Within C s₀ s) (hc : covers C [.eng, .ev, .fs] = true) : Within C s₀ (triggerSegment k at_ hops s) := by
  unfold triggerSegment
  try dsimp only
  repeat' first
    | with_reducible assumption
    | exact covers_trans (by decide) hc
    | with_reducible apply modFs_within
    | with_reducible apply trim_within
    | with_reducible apply checkSegment_within
    | with_reducible apply raiseEv_within
    | split
    | with_reducible apply Within.upd
    | exact .inr (covers_mem hc (by decide))
    | with_reducible exact .inl rfl
    | with_reducible exact List.prefix_refl _
    | with_reducible exact Nat.le_refl _
    | with_reducible exact id
    | dsimp only


theorem placeRec_within {C : List Comp} {s₀ : State} (g : Nat) (f : Rec) {s : State} (h : Within C s₀ s) (hc : covers C [.eng, .ev, .fs] = true) : Within C s₀ (placeRec g f s) := by
  unfold placeRec
  try dsimp only
  repeat' first
    | with_reducible assumption
    | exact covers_trans (by decide) hc
    | with_reducible apply modRing_within
    | with_reducible apply checkSegment_within
    | with_reducible apply modSeg_within
    | (with_reducible apply getD_map_within; rotate_left; intro _)
    | split
    | with_reducible apply Within.upd
    | exact .inr (covers_mem hc (by decide))
    | with_reducible exact .inl rfl
    | with_reducible exact List.prefix_refl _
    | with_reducible exact Nat.le_refl _
    | with_reducible exact id
    | with_reducible exact fun g => g.of_eq rfl rfl rfl
    | dsimp only


theorem overwrite_within {C : List Comp} {s₀ : State} (g : Nat) (f : Rec) {s : State} (h : Within C s₀ s) (hc : covers C [.fs] = true) : Within C s₀ (overwrite g f s) := by
  unfold overwrite
  try dsimp only
  repeat' first
    | with_reducible assumption
    | exact covers_trans (by decide) hc
    | with_reducible apply modRing_within
    | with_reducible apply dropRec_within
    | with_reducible apply Within.upd
    | exact .inr (covers_mem hc (by decide))
    | with_reducible exact .inl rfl
    | with_reducible exact List.prefix_refl _
    | with_reducible exact Nat.le_refl _
    | with_reducible exact id
    | dsimp only


theorem ringRoom_within {C : List Comp} {s₀ : State} (g p n : Nat) {s : State} (h : Within C s₀ s) (hc : covers C [.eng, .ev, .fs] = true) :
    Within C s₀ (ringRoom g p n s).2 := by
  induction n generalizing s with
  | zero => exact h
  | succ n ih =>
    unfold ringRoom
    dsimp only
    repeat' first
      | with_reducible assumption
      | exact covers_trans (by decide) hc
      | with_reducible apply ih
      | with_reducible apply overwrite_within
      | with_reducible apply growRing_within
      | with_reducible apply freezeSegment_within
      | split
theorem ringRoom_within_eq {C : List Comp} {s₀ : State} {g p n : Nat} {s : State} {x₁} {t₁ : State} (h : Within C s₀ s) (hc : covers C [.eng, .ev, .fs] = true)
    (e : ringRoom g p n s = (x₁, t₁)) : Within C s₀ t₁ := by
  have := ringRoom_within g p n h hc
  rw [e] at this
  exact this


theorem storeFull_within {C : List Comp} {s₀ : State} (g : Nat) {s : State} (h : Within C s₀ s) (hc : covers C [.ev, .fs] = true) : Within C s₀ (storeFull g s) := by
  unfold storeFull
  try dsimp only
  repeat' first
    | with_reducible assumption
    | exact covers_trans (by decide) hc
    | with_reducible apply modRing_within
    | with_reducible apply raise_within
    | split
    | with_reducible apply Within.upd
    | exact .inr (covers_mem hc (by decide))
    | with_reducible exact .inl rfl
    | with_reducible exact List.prefix_refl _
    | with_reducible exact Nat.le_refl _
    | with_reducible exact id
    | dsimp only


theorem writeRec_within {C : List Comp} {s₀ : State} (g : Nat) (f : Rec) {s : State} (h : Within C s₀ s) (hc : covers C [.eng, .ev, .fs] = true) : Within C s₀ (writeRec g f s) := by
  unfold writeRec
  try dsimp only
  repeat' first
    | with_reducible assumption
    | exact covers_trans (by decide) hc
    | with_reducible apply modRing_within
    | with_reducible apply ringRoom_within
    | with_reducible refine ringRoom_within_eq ?_ ?_ (by assumption)
    | with_reducible apply trim_within
    | with_reducible apply placeRec_within
    | with_reducible apply storeFull_within
    | split
    | with_reducible apply Within.upd
    | exact .inr (covers_mem hc (by decide))
    | with_reducible exact .inl rfl
    | with_reducible exact List.prefix_refl _
    | with_reducible exact Nat.le_refl _
    | with_reducible exact id
    | with_reducible exact fun g => g.of_eq rfl rfl rfl
    | dsimp only


theorem settleRing_within {C : List Comp} {s₀ : State} (g : Nat) {s : State} (h : Within C s₀ s) (hc : covers C [.eng, .ev, .fs] = true) : Within C s₀ (settleRing g s) := by
  unfold settleRing
  try dsimp only
  repeat' first
    | with_reducible assumption
    | exact covers_trans (by decide) hc
    | with_reducible apply modRing_within
    | with_reducible apply freezeSegment_within
    | split
    | with_reducible apply Within.upd
    | exact .inr (covers_mem hc (by decide))
    | with_reducible exact .inl rfl
    | with_reducible exact List.prefix_refl _
    | with_reducible exact Nat.le_refl _
    | with_reducible exact id
    | dsimp only


theorem dropSegment_within {C : List Comp} {s₀ : State} (k : Nat) {s : State} (h : Within C s₀ s) (hc : covers C [.eng, .host, .ev, .fs] = true) : Within C s₀ (dropSegment k s) := by
  unfold dropSegment
  try dsimp only
  repeat' first
    | with_reducible assumption
    | exact covers_trans (by decide) hc
    | with_reducible apply modFs_within
    | with_reducible apply dropObj_within
    | with_reducible apply trim_within
    | with_reducible apply refillShort_within
    | split
    | with_reducible apply Within.upd
    | exact .inr (covers_mem hc (by decide))
    | with_reducible exact .inl rfl
    | with_reducible exact List.prefix_refl _
    | with_reducible exact Nat.le_refl _
    | with_reducible exact id
    | dsimp only


end Sys2Proof.Machine
end

