-- ==== Sys2Proof/Laws/WithinLanes.lean ====
section
/-!
SUPPORT. The operations of Lanes: each keeps what `Within` says.
-/
namespace Sys2Proof.Machine
open Sys2Proof
set_option Elab.async false
set_option linter.all false

theorem putLane_within {C : List Comp} {s₀ : State} (l : Nat) (x : Lane) {s : State} (h : Within C s₀ s) (hc : covers C [.lanes] = true) : Within C s₀ (putLane l x s) := by
  unfold putLane
  try dsimp only
  repeat' first
    | with_reducible assumption
    | exact covers_trans (by decide) hc
    | with_reducible apply Within.upd
    | exact .inr (covers_mem hc (by decide))
    | with_reducible exact .inl rfl
    | with_reducible exact List.prefix_refl _
    | with_reducible exact Nat.le_refl _
    | with_reducible exact id


theorem modLane_within {C : List Comp} {s₀ : State} (l : Nat) (f : Lane → Lane) {s : State} (h : Within C s₀ s) (hc : covers C [.lanes] = true) : Within C s₀ (modLane l f s) := by
  unfold modLane
  try dsimp only
  repeat' first
    | with_reducible assumption
    | exact covers_trans (by decide) hc
    | with_reducible apply putLane_within
    | with_reducible apply Within.upd
    | exact .inr (covers_mem hc (by decide))
    | with_reducible exact .inl rfl
    | with_reducible exact List.prefix_refl _
    | with_reducible exact Nat.le_refl _
    | with_reducible exact id


theorem countLane_within {C : List Comp} {s₀ : State} (l : Nat) (f : LaneCounters → LaneCounters) {s : State} (h : Within C s₀ s) (hc : covers C [.lanes] = true) : Within C s₀ (countLane l f s) := by
  unfold countLane
  try dsimp only
  repeat' first
    | with_reducible assumption
    | exact covers_trans (by decide) hc
    | with_reducible apply modLane_within
    | with_reducible apply Within.upd
    | exact .inr (covers_mem hc (by decide))
    | with_reducible exact .inl rfl
    | with_reducible exact List.prefix_refl _
    | with_reducible exact Nat.le_refl _
    | with_reducible exact id
    | dsimp only


theorem modEr_within {C : List Comp} {s₀ : State} (l : Nat) (f : Exchange → Exchange) {s : State} (h : Within C s₀ s) (hc : covers C [.lanes] = true) : Within C s₀ (modEr l f s) := by
  unfold modEr
  try dsimp only
  repeat' first
    | with_reducible assumption
    | exact covers_trans (by decide) hc
    | with_reducible apply modLane_within
    | with_reducible apply Within.upd
    | exact .inr (covers_mem hc (by decide))
    | with_reducible exact .inl rfl
    | with_reducible exact List.prefix_refl _
    | with_reducible exact Nat.le_refl _
    | with_reducible exact id
    | dsimp only


theorem raiseLane_within {C : List Comp} {s₀ : State} (l k value : Nat) {s : State} (h : Within C s₀ s) (hc : covers C [.ev] = true) : Within C s₀ (raiseLane l k value s) := by
  unfold raiseLane
  try dsimp only
  repeat' first
    | with_reducible assumption
    | exact covers_trans (by decide) hc
    | with_reducible apply raise_within


theorem enterLink_within {C : List Comp} {s₀ : State} (l : Nat) {s : State} (h : Within C s₀ s) (hc : covers C [.lanes] = true) : Within C s₀ (enterLink l s) := by
  unfold enterLink
  try dsimp only
  repeat' first
    | with_reducible assumption
    | exact covers_trans (by decide) hc
    | with_reducible apply putLane_within
    | split
    | with_reducible apply Within.upd
    | exact .inr (covers_mem hc (by decide))
    | with_reducible exact .inl rfl
    | with_reducible exact List.prefix_refl _
    | with_reducible exact Nat.le_refl _
    | with_reducible exact id
    | dsimp only


theorem setLocks_within {C : List Comp} {s₀ : State} (l : Nat) (on : Bool) {s : State} (h : Within C s₀ s) (hc : covers C [.lanes] = true) : Within C s₀ (setLocks l on s) := by
  unfold setLocks
  try dsimp only
  repeat' first
    | with_reducible assumption
    | exact covers_trans (by decide) hc
    | with_reducible apply modLane_within
    | (with_reducible apply foldl_within; rotate_left; (intro _ _ _; try dsimp only))
    | with_reducible apply Within.upd
    | exact .inr (covers_mem hc (by decide))
    | with_reducible exact .inl rfl
    | with_reducible exact List.prefix_refl _
    | with_reducible exact Nat.le_refl _
    | with_reducible exact id
    | dsimp only


theorem cutReception_within {C : List Comp} {s₀ : State} (l : Nat) {s : State} (h : Within C s₀ s) (hc : covers C [.free, .lanes] = true) : Within C s₀ (cutReception l s) := by
  unfold cutReception
  try dsimp only
  repeat' first
    | with_reducible assumption
    | exact covers_trans (by decide) hc
    | with_reducible apply useFree_within
    | with_reducible apply countLane_within
    | split
    | with_reducible apply Within.upd
    | exact .inr (covers_mem hc (by decide))
    | with_reducible exact .inl rfl
    | with_reducible exact List.prefix_refl _
    | with_reducible exact Nat.le_refl _
    | with_reducible exact id
    | dsimp only


theorem failScans_within {C : List Comp} {s₀ : State} (l : Nat) {s : State} (h : Within C s₀ s) (hc : covers C [.out, .eng, .lanes, .mv, .host, .boot, .gov] = true) : Within C s₀ (failScans l s) := by
  unfold failScans
  try dsimp only
  repeat' first
    | with_reducible assumption
    | exact covers_trans (by decide) hc
    | with_reducible apply finish_within
    | with_reducible apply dropJob_within
    | with_reducible apply modLane_within
    | (with_reducible apply foldl_within; rotate_left; (intro _ _ _; try dsimp only))
    | split
    | with_reducible apply Within.upd
    | exact .inr (covers_mem hc (by decide))
    | with_reducible exact .inl rfl
    | with_reducible exact List.prefix_refl _
    | with_reducible exact Nat.le_refl _
    | with_reducible exact id
    | dsimp only


theorem refreshLanes_within {C : List Comp} {s₀ : State} (t : Nat) {s : State} (h : Within C s₀ s) (hc : covers C [.free, .out, .eng, .lanes, .mv, .host, .boot, .gov] = true) : Within C s₀ (refreshLanes t s) := by
  unfold refreshLanes
  try dsimp only
  repeat' first
    | with_reducible assumption
    | exact covers_trans (by decide) hc
    | with_reducible apply enterLink_within
    | with_reducible apply setLocks_within
    | with_reducible apply cutReception_within
    | with_reducible apply failScans_within
    | (with_reducible apply foldl_within; rotate_left; (intro _ _ _; try dsimp only))
    | split
    | dsimp only


theorem linkStep_within {C : List Comp} {s₀ : State} (l : Nat) (from_ : LinkState) (wait : Nat) (f : Lane → Lane) {s : State} (h : Within C s₀ s) (hc : covers C [.lanes] = true) : Within C s₀ (linkStep l from_ wait s f) := by
  unfold linkStep
  try dsimp only
  repeat' first
    | with_reducible assumption
    | exact covers_trans (by decide) hc
    | with_reducible apply putLane_within
    | split
    | with_reducible apply Within.upd
    | exact .inr (covers_mem hc (by decide))
    | with_reducible exact .inl rfl
    | with_reducible exact List.prefix_refl _
    | with_reducible exact Nat.le_refl _
    | with_reducible exact id
    | dsimp only


theorem execAnComplete_within {C : List Comp} {s₀ : State} (lane : Nat) {s : State} (h : Within C s₀ s) (hc : covers C [.lanes] = true) : WithinO C s₀ (execAnComplete lane s) := by
  unfold execAnComplete
  try dsimp only
  repeat' first
    | dsimp only [withinO_next]
    | (with_reducible show WithinO _ _ _; split)
  repeat' first
    | with_reducible assumption
    | exact covers_trans (by decide) hc
    | with_reducible apply linkStep_within
    | with_reducible apply Within.upd
    | exact .inr (covers_mem hc (by decide))
    | with_reducible exact .inl rfl
    | with_reducible exact List.prefix_refl _
    | with_reducible exact Nat.le_refl _
    | with_reducible exact id
    | dsimp only


theorem execAnTimeout_within {C : List Comp} {s₀ : State} (lane : Nat) {s : State} (h : Within C s₀ s) (hc : covers C [.lanes] = true) : WithinO C s₀ (execAnTimeout lane s) := by
  unfold execAnTimeout
  try dsimp only
  repeat' first
    | dsimp only [withinO_next]
    | (with_reducible show WithinO _ _ _; split)
  repeat' first
    | with_reducible assumption
    | exact covers_trans (by decide) hc
    | with_reducible apply linkStep_within


theorem execTrainingComplete_within {C : List Comp} {s₀ : State} (lane : Nat) {s : State} (h : Within C s₀ s) (hc : covers C [.lanes] = true) : WithinO C s₀ (execTrainingComplete lane s) := by
  unfold execTrainingComplete
  try dsimp only
  repeat' first
    | dsimp only [withinO_next]
    | (with_reducible show WithinO _ _ _; split)
  repeat' first
    | with_reducible assumption
    | exact covers_trans (by decide) hc
    | with_reducible apply linkStep_within
    | with_reducible apply Within.upd
    | exact .inr (covers_mem hc (by decide))
    | with_reducible exact .inl rfl
    | with_reducible exact List.prefix_refl _
    | with_reducible exact Nat.le_refl _
    | with_reducible exact id
    | dsimp only


theorem execTrainingTimeout_within {C : List Comp} {s₀ : State} (lane : Nat) {s : State} (h : Within C s₀ s) (hc : covers C [.lanes] = true) : WithinO C s₀ (execTrainingTimeout lane s) := by
  unfold execTrainingTimeout
  try dsimp only
  repeat' first
    | dsimp only [withinO_next]
    | (with_reducible show WithinO _ _ _; split)
  repeat' first
    | with_reducible assumption
    | exact covers_trans (by decide) hc
    | with_reducible apply linkStep_within


theorem execLockTimeout_within {C : List Comp} {s₀ : State} (lane : Nat) {s : State} (h : Within C s₀ s) (hc : covers C [.lanes] = true) : WithinO C s₀ (execLockTimeout lane s) := by
  unfold execLockTimeout
  try dsimp only
  repeat' first
    | dsimp only [withinO_next]
    | (with_reducible show WithinO _ _ _; split)
  repeat' first
    | with_reducible assumption
    | exact covers_trans (by decide) hc
    | with_reducible apply linkStep_within


theorem execRetryWaitExpiry_within {C : List Comp} {s₀ : State} (lane : Nat) {s : State} (h : Within C s₀ s) (hc : covers C [.lanes] = true) : WithinO C s₀ (execRetryWaitExpiry lane s) := by
  unfold execRetryWaitExpiry
  try dsimp only
  repeat' first
    | dsimp only [withinO_next]
    | (with_reducible show WithinO _ _ _; split)
  repeat' first
    | with_reducible assumption
    | exact covers_trans (by decide) hc
    | with_reducible apply linkStep_within


theorem modTime_within {C : List Comp} {s₀ : State} (f : TimeState → TimeState) {s : State} (h : Within C s₀ s) (hc : covers C [.time] = true) : Within C s₀ (modTime s f) := by
  unfold modTime
  try dsimp only
  repeat' first
    | with_reducible assumption
    | exact covers_trans (by decide) hc
    | with_reducible apply Within.upd
    | exact .inr (covers_mem hc (by decide))
    | with_reducible exact .inl rfl
    | with_reducible exact List.prefix_refl _
    | with_reducible exact Nat.le_refl _
    | with_reducible exact id


theorem overflowTxts_within {C : List Comp} {s₀ : State} (t : Nat) {s : State} (h : Within C s₀ s) (hc : covers C [.time, .ev] = true) : Within C s₀ (overflowTxts t s) := by
  unfold overflowTxts
  try dsimp only
  repeat' first
    | with_reducible assumption
    | exact covers_trans (by decide) hc
    | with_reducible apply modTime_within
    | with_reducible apply raise_within
    | split
    | with_reducible apply Within.upd
    | exact .inr (covers_mem hc (by decide))
    | with_reducible exact .inl rfl
    | with_reducible exact List.prefix_refl _
    | with_reducible exact Nat.le_refl _
    | with_reducible exact id
    | dsimp only


theorem stampTx_within {C : List Comp} {s₀ : State} (l : Nat) (b : List Byte) {s : State} (h : Within C s₀ s) (hc : covers C [.time, .ev] = true) : Within C s₀ (stampTx l b s) := by
  unfold stampTx
  try dsimp only
  repeat' first
    | with_reducible assumption
    | exact covers_trans (by decide) hc
    | with_reducible apply overflowTxts_within
    | with_reducible apply modTime_within
    | split
    | with_reducible apply Within.upd
    | exact .inr (covers_mem hc (by decide))
    | with_reducible exact .inl rfl
    | with_reducible exact List.prefix_refl _
    | with_reducible exact Nat.le_refl _
    | with_reducible exact id
    | with_reducible exact fun g => g.of_eq rfl rfl rfl
    | dsimp only


theorem sendFrame_within {C : List Comp} {s₀ : State} (l : Nat) (b : List Byte) {s : State} (h : Within C s₀ s) (hc : covers C [.out, .lanes] = true) : Within C s₀ (sendFrame l b s) := by
  unfold sendFrame
  try dsimp only
  repeat' first
    | with_reducible assumption
    | exact covers_trans (by decide) hc
    | with_reducible apply emit_within
    | with_reducible apply countLane_within
    | with_reducible apply Within.upd
    | exact .inr (covers_mem hc (by decide))
    | with_reducible exact .inl rfl
    | with_reducible exact List.prefix_refl _
    | with_reducible exact Nat.le_refl _
    | with_reducible exact id
    | with_reducible exact fun g => g.of_eq rfl rfl rfl
    | dsimp only


theorem mgmtDrop_within {C : List Comp} {s₀ : State} (l : Nat) {s : State} (h : Within C s₀ s) (hc : covers C [.lanes, .ev] = true) : Within C s₀ (mgmtDrop l s) := by
  unfold mgmtDrop
  try dsimp only
  repeat' first
    | with_reducible assumption
    | exact covers_trans (by decide) hc
    | with_reducible apply countLane_within
    | with_reducible apply raiseLane_within
    | with_reducible apply modLane_within
    | split
    | with_reducible apply Within.upd
    | exact .inr (covers_mem hc (by decide))
    | with_reducible exact .inl rfl
    | with_reducible exact List.prefix_refl _
    | with_reducible exact Nat.le_refl _
    | with_reducible exact id
    | dsimp only


theorem mgmtDeliver_within {C : List Comp} {s₀ : State} (l reason : Nat) (f : RxFrame) {s : State} (h : Within C s₀ s) (hc : covers C [.out, .lanes, .mv, .host, .ev] = true) : Within C s₀ (mgmtDeliver l reason f s) := by
  unfold mgmtDeliver
  try dsimp only
  repeat' first
    | with_reducible assumption
    | exact covers_trans (by decide) hc
    | with_reducible apply mgmtDrop_within
    | with_reducible apply leaveRoute_within
    | with_reducible apply putQueue_within
    | with_reducible apply emit_within
    | with_reducible apply modMv_within
    | with_reducible apply countLane_within
    | (with_reducible apply getD_map_within; rotate_left; intro _)
    | split
    | with_reducible apply Within.upd
    | exact .inr (covers_mem hc (by decide))
    | with_reducible exact .inl rfl
    | with_reducible exact List.prefix_refl _
    | exact List.prefix_append _ _
    | with_reducible exact Nat.le_refl _
    | with_reducible exact id
    | with_reducible exact fun g => g.of_eq rfl rfl rfl
    | dsimp only


theorem erSend_within {C : List Comp} {s₀ : State} (l type delay : Nat) {s : State} (h : Within C s₀ s) (hc : covers C [.out, .lanes] = true) : Within C s₀ (erSend l type delay s) := by
  unfold erSend
  try dsimp only
  repeat' first
    | with_reducible assumption
    | exact covers_trans (by decide) hc
    | with_reducible apply sendFrame_within
    | split
    | dsimp only


theorem erFirst_within {C : List Comp} {s₀ : State} (l type delay : Nat) {s : State} (h : Within C s₀ s) (hc : covers C [.out, .lanes] = true) : Within C s₀ (erFirst l type delay s) := by
  unfold erFirst
  try dsimp only
  repeat' first
    | with_reducible assumption
    | exact covers_trans (by decide) hc
    | with_reducible apply erSend_within
    | with_reducible apply modEr_within
    | split
    | with_reducible apply Within.upd
    | exact .inr (covers_mem hc (by decide))
    | with_reducible exact .inl rfl
    | with_reducible exact List.prefix_refl _
    | with_reducible exact Nat.le_refl _
    | with_reducible exact id
    | dsimp only


theorem erEnd_within {C : List Comp} {s₀ : State} (l : Nat) (st : ErState) {s : State} (h : Within C s₀ s) (hc : covers C [.out, .eng, .lanes, .mv, .host, .boot] = true) : Within C s₀ (erEnd l st s) := by
  unfold erEnd
  try dsimp only
  repeat' first
    | with_reducible assumption
    | exact covers_trans (by decide) hc
    | with_reducible apply modEr_within
    | with_reducible apply finish_within
    | split
    | with_reducible apply Within.upd
    | exact .inr (covers_mem hc (by decide))
    | with_reducible exact .inl rfl
    | with_reducible exact List.prefix_refl _
    | with_reducible exact Nat.le_refl _
    | with_reducible exact id
    | dsimp only


theorem retrain_within {C : List Comp} {s₀ : State} (l : Nat) (fast : Bool) {s : State} (h : Within C s₀ s) (hc : covers C [.free, .out, .eng, .lanes, .mv, .host, .boot, .gov] = true) : Within C s₀ (retrain l fast s) := by
  unfold retrain
  try dsimp only
  repeat' first
    | with_reducible assumption
    | exact covers_trans (by decide) hc
    | with_reducible apply modLane_within
    | with_reducible apply setLocks_within
    | with_reducible apply cutReception_within
    | with_reducible apply failScans_within
    | split
    | with_reducible apply Within.upd
    | exact .inr (covers_mem hc (by decide))
    | with_reducible exact .inl rfl
    | with_reducible exact List.prefix_refl _
    | with_reducible exact Nat.le_refl _
    | with_reducible exact id
    | dsimp only


theorem erFail_within {C : List Comp} {s₀ : State} (l : Nat) {s : State} (h : Within C s₀ s) (hc : covers C [.free, .out, .eng, .lanes, .mv, .host, .ev, .boot, .gov] = true) : Within C s₀ (erFail l s) := by
  unfold erFail
  try dsimp only
  repeat' first
    | with_reducible assumption
    | exact covers_trans (by decide) hc
    | with_reducible apply erEnd_within
    | with_reducible apply raiseLane_within
    | with_reducible apply retrain_within
    | with_reducible apply modEr_within
    | with_reducible apply Within.upd
    | exact .inr (covers_mem hc (by decide))
    | with_reducible exact .inl rfl
    | with_reducible exact List.prefix_refl _
    | with_reducible exact Nat.le_refl _
    | with_reducible exact id
    | dsimp only


theorem gratuitousArp_within {C : List Comp} {s₀ : State} (l : Nat) (x : Lane) {s : State} (h : Within C s₀ s) (hc : covers C [.out, .lanes] = true) : Within C s₀ (gratuitousArp l x s) := by
  unfold gratuitousArp
  try dsimp only
  repeat' first
    | with_reducible assumption
    | exact covers_trans (by decide) hc
    | with_reducible apply sendFrame_within


theorem execLinkUp_within {C : List Comp} {s₀ : State} (lane : Nat) {s : State} (h : Within C s₀ s) (hc : covers C [.out, .lanes, .st, .ev] = true) : WithinO C s₀ (execLinkUp lane s) := by
  unfold execLinkUp
  try dsimp only
  repeat' first
    | dsimp only [withinO_next]
    | (with_reducible show WithinO _ _ _; split)
  repeat' first
    | with_reducible assumption
    | exact covers_trans (by decide) hc
    | with_reducible apply putLane_within
    | with_reducible apply setLocks_within
    | with_reducible apply raiseLane_within
    | with_reducible apply erFirst_within
    | with_reducible apply modEr_within
    | with_reducible apply gratuitousArp_within
    | split
    | with_reducible apply Within.upd
    | exact .inr (covers_mem hc (by decide))
    | with_reducible exact .inl rfl
    | with_reducible exact List.prefix_refl _
    | with_reducible exact Nat.le_refl _
    | with_reducible exact id
    | dsimp only


theorem execLinkLoss_within {C : List Comp} {s₀ : State} (lane : Nat) (partialFrame : Bool) {s : State} (h : Within C s₀ s) (hc : covers C [.out, .eng, .lanes, .mv, .host, .ev, .boot, .gov] = true) : WithinO C s₀ (execLinkLoss lane partialFrame s) := by
  unfold execLinkLoss
  try dsimp only
  repeat' first
    | dsimp only [withinO_next]
    | (with_reducible show WithinO _ _ _; split)
  repeat' first
    | with_reducible assumption
    | exact covers_trans (by decide) hc
    | with_reducible apply failScans_within
    | with_reducible apply modLane_within
    | with_reducible apply setLocks_within
    | with_reducible apply countLane_within
    | with_reducible apply raiseLane_within
    | (with_reducible apply foldl_within; rotate_left; (intro _ _ _; try dsimp only))
    | split
    | with_reducible apply Within.upd
    | exact .inr (covers_mem hc (by decide))
    | with_reducible exact .inl rfl
    | with_reducible exact List.prefix_refl _
    | with_reducible exact Nat.le_refl _
    | with_reducible exact id
    | dsimp only


theorem execRemoteFaultChange_within {C : List Comp} {s₀ : State} (lane : Nat) (on : Bool) {s : State} (h : Within C s₀ s) (hc : covers C [.lanes] = true) : WithinO C s₀ (execRemoteFaultChange lane on s) := by
  unfold execRemoteFaultChange
  try dsimp only
  repeat' first
    | dsimp only [withinO_next]
    | (with_reducible show WithinO _ _ _; split)
  repeat' first
    | with_reducible assumption
    | exact covers_trans (by decide) hc
    | with_reducible apply modLane_within
    | split
    | with_reducible apply Within.upd
    | exact .inr (covers_mem hc (by decide))
    | with_reducible exact .inl rfl
    | with_reducible exact List.prefix_refl _
    | with_reducible exact Nat.le_refl _
    | with_reducible exact id
    | dsimp only


theorem execErFrameReceive_within {C : List Comp} {s₀ : State} (lane : Nat) {s : State} (h : Within C s₀ s) (hc : covers C [.out, .eng, .lanes, .mv, .host, .ev, .boot] = true) : WithinO C s₀ (execErFrameReceive lane s) := by
  unfold execErFrameReceive
  try dsimp only
  repeat' first
    | dsimp only [withinO_next]
    | (with_reducible show WithinO _ _ _; split)
  repeat' first
    | with_reducible assumption
    | exact covers_trans (by decide) hc
    | with_reducible apply modLane_within
    | with_reducible apply countLane_within
    | with_reducible apply erEnd_within
    | with_reducible apply raiseLane_within
    | with_reducible apply modEr_within
    | with_reducible apply erFirst_within
    | split
    | with_reducible apply Within.upd
    | exact .inr (covers_mem hc (by decide))
    | with_reducible exact .inl rfl
    | with_reducible exact List.prefix_refl _
    | with_reducible exact Nat.le_refl _
    | with_reducible exact id
    | dsimp only


theorem erRepeat_within {C : List Comp} {s₀ : State} (l : Nat) (st : ErState) (type delay most wait : Nat) {s : State} (h : Within C s₀ s) (hc : covers C [.out, .lanes] = true) : Within C s₀ (erRepeat l st type delay most wait s) := by
  unfold erRepeat
  try dsimp only
  repeat' first
    | with_reducible assumption
    | exact covers_trans (by decide) hc
    | with_reducible apply erFirst_within
    | with_reducible apply erSend_within
    | with_reducible apply modEr_within
    | split
    | with_reducible apply Within.upd
    | exact .inr (covers_mem hc (by decide))
    | with_reducible exact .inl rfl
    | with_reducible exact List.prefix_refl _
    | with_reducible exact Nat.le_refl _
    | with_reducible exact id
    | dsimp only


theorem execErNoAnswer_within {C : List Comp} {s₀ : State} (lane : Nat) {s : State} (h : Within C s₀ s) (hc : covers C [.out, .eng, .lanes, .mv, .host, .boot] = true) : WithinO C s₀ (execErNoAnswer lane s) := by
  unfold execErNoAnswer
  try dsimp only
  repeat' first
    | dsimp only [withinO_next]
    | (with_reducible show WithinO _ _ _; split)
  repeat' first
    | with_reducible assumption
    | exact covers_trans (by decide) hc
    | with_reducible apply erEnd_within
    | split
    | dsimp only


theorem execErSwitchDelayExpiry_within {C : List Comp} {s₀ : State} (lane : Nat) {s : State} (h : Within C s₀ s) (hc : covers C [.free, .out, .eng, .lanes, .mv, .host, .boot, .gov] = true) : WithinO C s₀ (execErSwitchDelayExpiry lane s) := by
  unfold execErSwitchDelayExpiry
  try dsimp only
  repeat' first
    | dsimp only [withinO_next]
    | (with_reducible show WithinO _ _ _; split)
  repeat' first
    | with_reducible assumption
    | exact covers_trans (by decide) hc
    | with_reducible apply retrain_within
    | split
    | dsimp only


theorem execErSwitchTimeout_within {C : List Comp} {s₀ : State} (lane : Nat) {s : State} (h : Within C s₀ s) (hc : covers C [.free, .out, .eng, .lanes, .mv, .host, .ev, .boot, .gov] = true) : WithinO C s₀ (execErSwitchTimeout lane s) := by
  unfold execErSwitchTimeout
  try dsimp only
  repeat' first
    | dsimp only [withinO_next]
    | (with_reducible show WithinO _ _ _; split)
  repeat' first
    | with_reducible assumption
    | exact covers_trans (by decide) hc
    | with_reducible apply erFail_within
    | split
    | dsimp only


theorem execErConfirmTimeout_within {C : List Comp} {s₀ : State} (lane : Nat) {s : State} (h : Within C s₀ s) (hc : covers C [.free, .out, .eng, .lanes, .mv, .host, .ev, .boot, .gov] = true) : WithinO C s₀ (execErConfirmTimeout lane s) := by
  unfold execErConfirmTimeout
  try dsimp only
  repeat' first
    | dsimp only [withinO_next]
    | (with_reducible show WithinO _ _ _; split)
  repeat' first
    | with_reducible assumption
    | exact covers_trans (by decide) hc
    | with_reducible apply erFail_within
    | split
    | dsimp only


theorem execErRetrainExhausted_within {C : List Comp} {s₀ : State} (lane : Nat) {s : State} (h : Within C s₀ s) (hc : covers C [.free, .out, .eng, .lanes, .mv, .host, .ev, .boot, .gov] = true) : WithinO C s₀ (execErRetrainExhausted lane s) := by
  unfold execErRetrainExhausted
  try dsimp only
  repeat' first
    | dsimp only [withinO_next]
    | (with_reducible show WithinO _ _ _; split)
  repeat' first
    | with_reducible assumption
    | exact covers_trans (by decide) hc
    | with_reducible apply erFail_within
    | split
    | dsimp only


theorem toLane_within {C : List Comp} {s₀ : State} (l : Nat) (f : Lane → Lane) {s : State} (h : Within C s₀ s) (hc : covers C [.lanes] = true) : Within C s₀ (toLane l f s) := by
  unfold toLane
  try dsimp only
  repeat' first
    | with_reducible assumption
    | exact covers_trans (by decide) hc
    | with_reducible apply modLane_within


theorem classifyIp_within {C : List Comp} {s₀ : State} (l : Nat) (f : RxFrame) {s : State} (h : Within C s₀ s) (hc : covers C [.out, .lanes, .mv, .host, .ev] = true) : Within C s₀ (classifyIp l f s) := by
  unfold classifyIp
  try dsimp only
  repeat' first
    | with_reducible assumption
    | exact covers_trans (by decide) hc
    | with_reducible apply countLane_within
    | with_reducible apply mgmtDeliver_within
    | with_reducible apply modLane_within
    | split
    | with_reducible apply Within.upd
    | exact .inr (covers_mem hc (by decide))
    | with_reducible exact .inl rfl
    | with_reducible exact List.prefix_refl _
    | with_reducible exact Nat.le_refl _
    | with_reducible exact id
    | dsimp only


theorem answerArp_within {C : List Comp} {s₀ : State} (l : Nat) (b : List Byte) {s : State} (h : Within C s₀ s) (hc : covers C [.out, .lanes] = true) : Within C s₀ (answerArp l b s) := by
  unfold answerArp
  try dsimp only
  repeat' first
    | with_reducible assumption
    | exact covers_trans (by decide) hc
    | with_reducible apply countLane_within
    | with_reducible apply sendFrame_within
    | with_reducible apply Within.upd
    | exact .inr (covers_mem hc (by decide))
    | with_reducible exact .inl rfl
    | with_reducible exact List.prefix_refl _
    | with_reducible exact Nat.le_refl _
    | with_reducible exact id
    | dsimp only


theorem classify_within {C : List Comp} {s₀ : State} (l : Nat) (f : RxFrame) {s : State} (h : Within C s₀ s) (hc : covers C [.out, .lanes, .mv, .host, .ev] = true) : Within C s₀ (classify l f s) := by
  unfold classify
  try dsimp only
  repeat' first
    | with_reducible assumption
    | exact covers_trans (by decide) hc
    | with_reducible apply modLane_within
    | with_reducible apply answerArp_within
    | with_reducible apply mgmtDeliver_within
    | with_reducible apply classifyIp_within
    | split
    | with_reducible apply Within.upd
    | exact .inr (covers_mem hc (by decide))
    | with_reducible exact .inl rfl
    | with_reducible exact List.prefix_refl _
    | with_reducible exact Nat.le_refl _
    | with_reducible exact id
    | dsimp only


theorem execRxFrame_within {C : List Comp} {s₀ : State} (lane : Nat) (bytes : List Byte) {s : State} (h : Within C s₀ s) (hc : covers C [.out, .lanes, .mv, .host, .ev] = true) : WithinO C s₀ (execRxFrame lane bytes s) := by
  unfold execRxFrame
  try dsimp only
  repeat' first
    | dsimp only [withinO_next]
    | (with_reducible show WithinO _ _ _; split)
  repeat' first
    | with_reducible assumption
    | exact covers_trans (by decide) hc
    | with_reducible apply countLane_within
    | with_reducible apply classify_within
    | split
    | with_reducible apply Within.upd
    | exact .inr (covers_mem hc (by decide))
    | with_reducible exact .inl rfl
    | with_reducible exact List.prefix_refl _
    | with_reducible exact Nat.le_refl _
    | with_reducible exact id
    | with_reducible exact fun g => g.of_eq rfl rfl rfl
    | dsimp only


theorem uncorrectable_within {C : List Comp} {s₀ : State} (l : Nat) {s : State} (h : Within C s₀ s) (hc : covers C [.lanes, .ev] = true) : Within C s₀ (uncorrectable l s) := by
  unfold uncorrectable
  try dsimp only
  repeat' first
    | with_reducible assumption
    | exact covers_trans (by decide) hc
    | with_reducible apply modLane_within
    | with_reducible apply raiseLane_within
    | split
    | with_reducible apply Within.upd
    | exact .inr (covers_mem hc (by decide))
    | with_reducible exact .inl rfl
    | with_reducible exact List.prefix_refl _
    | with_reducible exact Nat.le_refl _
    | with_reducible exact id
    | dsimp only


theorem dissolve_within {C : List Comp} {s₀ : State} (l w : Nat) {s : State} (h : Within C s₀ s) (hc : covers C [.lanes] = true) : Within C s₀ (dissolve l w s) := by
  unfold dissolve
  try dsimp only
  repeat' first
    | with_reducible assumption
    | exact covers_trans (by decide) hc
    | with_reducible apply modLane_within
    | (with_reducible apply foldl_within; rotate_left; (intro _ _ _; try dsimp only))
    | split
    | dsimp only


theorem takeMembers_within {C : List Comp} {s₀ : State} (l w : Nat) {s : State} (h : Within C s₀ s) (hc : covers C [.lanes] = true) : Within C s₀ (takeMembers l w s) := by
  unfold takeMembers
  try dsimp only
  repeat' first
    | with_reducible assumption
    | exact covers_trans (by decide) hc
    | with_reducible apply modLane_within
    | (with_reducible apply foldl_within; rotate_left; (intro _ _ _; try dsimp only))
    | with_reducible apply Within.upd
    | exact .inr (covers_mem hc (by decide))
    | with_reducible exact .inl rfl
    | with_reducible exact List.prefix_refl _
    | with_reducible exact Nat.le_refl _
    | with_reducible exact id
    | dsimp only


theorem restartExchange_within {C : List Comp} {s₀ : State} (l : Nat) {s : State} (h : Within C s₀ s) (hc : covers C [.free, .out, .eng, .lanes, .mv, .host, .boot, .gov] = true) : Within C s₀ (restartExchange l s) := by
  unfold restartExchange
  try dsimp only
  repeat' first
    | with_reducible assumption
    | exact covers_trans (by decide) hc
    | with_reducible apply modLane_within
    | with_reducible apply retrain_within
    | split
    | with_reducible apply Within.upd
    | exact .inr (covers_mem hc (by decide))
    | with_reducible exact .inl rfl
    | with_reducible exact List.prefix_refl _
    | with_reducible exact Nat.le_refl _
    | with_reducible exact id
    | dsimp only


theorem setPort_within {C : List Comp} {s₀ : State} (c : Cmd) {s : State} (h : Within C s₀ s) (hc : covers C [.free, .out, .eng, .lanes, .mv, .host, .boot, .gov] = true) : Within C s₀ (setPort c s) := by
  unfold setPort
  try dsimp only
  repeat' first
    | with_reducible assumption
    | exact covers_trans (by decide) hc
    | with_reducible apply modLane_within
    | with_reducible apply dissolve_within
    | with_reducible apply restartExchange_within
    | with_reducible apply takeMembers_within
    | with_reducible apply enterLink_within
    | split
    | dsimp only


theorem opLanePortSet_within {C : List Comp} {s₀ : State}  (c : Cmd) {s : State} (h : Within C s₀ s) (hc : covers C [.free, .out, .eng, .lanes, .mv, .host, .boot, .gov] = true) : WithinR C s₀ ((opLanePortSet).act c s) := by
  dsimp only [opLanePortSet]
  repeat' first
    | dsimp only [withinR_done, withinR_wait, withinR_fail]
    | (with_reducible show WithinR _ _ _; split)
  repeat' first
    | with_reducible assumption
    | exact covers_trans (by decide) hc
    | with_reducible apply setPort_within
    | with_reducible apply bumpPkg_within
    | split
    | dsimp only


theorem execLanePortSet_within {C : List Comp} {s₀ : State} (c : Cmd) {s : State} (h : Within C s₀ s) (hc : covers C [.free, .out, .eng, .lanes, .mv, .host, .ev, .boot, .gov, .hm] = true) : WithinO C s₀ (execLanePortSet c s) :=
  runOp_within c (fun h => h) (fun h => opLanePortSet_within c h (covers_trans (by decide) hc)) h (covers_trans (by decide) hc)

theorem opLanePortQuery_within {C : List Comp} {s₀ : State}  (c : Cmd) {s : State} (h : Within C s₀ s) (_hc : covers C [] = true) : WithinR C s₀ ((opLanePortQuery).act c s) := by
  dsimp only [opLanePortQuery]
  repeat' first
    | dsimp only [withinR_done, withinR_wait, withinR_fail]
    | (with_reducible show WithinR _ _ _; split)
  repeat' first
    | with_reducible assumption
    | dsimp only


theorem execLanePortQuery_within {C : List Comp} {s₀ : State} (c : Cmd) {s : State} (h : Within C s₀ s) (hc : covers C [.out, .eng, .mv, .host, .ev, .boot, .hm] = true) : WithinO C s₀ (execLanePortQuery c s) :=
  runOp_within c (fun h => h) (fun h => opLanePortQuery_within c h (covers_trans (by decide) hc)) h (covers_trans (by decide) hc)

theorem disablePort_within {C : List Comp} {s₀ : State} (l : Nat) {s : State} (h : Within C s₀ s) (hc : covers C [.free, .out, .eng, .lanes, .mv, .host, .ev, .boot, .gov] = true) : Within C s₀ (disablePort l s) := by
  unfold disablePort
  try dsimp only
  repeat' first
    | with_reducible assumption
    | exact covers_trans (by decide) hc
    | with_reducible apply cutReception_within
    | with_reducible apply failScans_within
    | with_reducible apply raiseLane_within
    | with_reducible apply modLane_within
    | with_reducible apply setLocks_within
    | with_reducible apply erEnd_within
    | split
    | with_reducible apply Within.upd
    | exact .inr (covers_mem hc (by decide))
    | with_reducible exact .inl rfl
    | with_reducible exact List.prefix_refl _
    | with_reducible exact Nat.le_refl _
    | with_reducible exact id
    | dsimp only


theorem opLaneEnable_within {C : List Comp} {s₀ : State}  (c : Cmd) {s : State} (h : Within C s₀ s) (hc : covers C [.free, .out, .eng, .lanes, .mv, .host, .ev, .boot, .gov] = true) : WithinR C s₀ ((opLaneEnable).act c s) := by
  dsimp only [opLaneEnable]
  repeat' first
    | dsimp only [withinR_done, withinR_wait, withinR_fail]
    | (with_reducible show WithinR _ _ _; split)
  repeat' first
    | with_reducible assumption
    | exact covers_trans (by decide) hc
    | with_reducible apply bumpPkg_within
    | with_reducible apply enterLink_within
    | with_reducible apply modLane_within
    | with_reducible apply disablePort_within
    | split
    | with_reducible apply Within.upd
    | exact .inr (covers_mem hc (by decide))
    | with_reducible exact .inl rfl
    | with_reducible exact List.prefix_refl _
    | with_reducible exact Nat.le_refl _
    | with_reducible exact id
    | dsimp only


theorem execLaneEnable_within {C : List Comp} {s₀ : State} (c : Cmd) {s : State} (h : Within C s₀ s) (hc : covers C [.free, .out, .eng, .lanes, .mv, .host, .ev, .boot, .gov, .hm] = true) : WithinO C s₀ (execLaneEnable c s) :=
  runOp_within c (fun h => h) (fun h => opLaneEnable_within c h (covers_trans (by decide) hc)) h (covers_trans (by decide) hc)

theorem opLaneErOffer_within {C : List Comp} {s₀ : State}  (c : Cmd) {s : State} (h : Within C s₀ s) (hc : covers C [.eng, .lanes] = true) : WithinR C s₀ ((opLaneErOffer).act c s) := by
  dsimp only [opLaneErOffer]
  repeat' first
    | dsimp only [withinR_done, withinR_wait, withinR_fail]
    | (with_reducible show WithinR _ _ _; split)
  repeat' first
    | with_reducible assumption
    | exact covers_trans (by decide) hc
    | with_reducible apply modEr_within
    | with_reducible apply addWait_within
    | split
    | with_reducible apply Within.upd
    | exact .inr (covers_mem hc (by decide))
    | with_reducible exact .inl rfl
    | with_reducible exact List.prefix_refl _
    | with_reducible exact Nat.le_refl _
    | with_reducible exact id
    | with_reducible exact fun g => g.of_eq rfl rfl rfl
    | dsimp only


theorem execLaneErOffer_within {C : List Comp} {s₀ : State} (c : Cmd) {s : State} (h : Within C s₀ s) (hc : covers C [.out, .eng, .lanes, .mv, .host, .ev, .boot, .hm] = true) : WithinO C s₀ (execLaneErOffer c s) :=
  runOp_within c (fun h => h) (fun h => opLaneErOffer_within c h (covers_trans (by decide) hc)) h (covers_trans (by decide) hc)

theorem opLaneMgmtBind_within {C : List Comp} {s₀ : State}  (c : Cmd) {s : State} (h : Within C s₀ s) (hc : covers C [.eng, .lanes] = true) : WithinR C s₀ ((opLaneMgmtBind).act c s) := by
  dsimp only [opLaneMgmtBind]
  repeat' first
    | dsimp only [withinR_done, withinR_wait, withinR_fail]
    | (with_reducible show WithinR _ _ _; split)
  repeat' first
    | with_reducible assumption
    | exact covers_trans (by decide) hc
    | with_reducible apply bumpPkg_within
    | with_reducible apply putLane_within
    | split
    | with_reducible apply Within.upd
    | exact .inr (covers_mem hc (by decide))
    | with_reducible exact .inl rfl
    | with_reducible exact List.prefix_refl _
    | with_reducible exact Nat.le_refl _
    | with_reducible exact id
    | dsimp only


theorem execLaneMgmtBind_within {C : List Comp} {s₀ : State} (c : Cmd) {s : State} (h : Within C s₀ s) (hc : covers C [.out, .eng, .lanes, .mv, .host, .ev, .boot, .hm] = true) : WithinO C s₀ (execLaneMgmtBind c s) :=
  runOp_within c (fun h => h) (fun h => opLaneMgmtBind_within c h (covers_trans (by decide) hc)) h (covers_trans (by decide) hc)

theorem opLaneCountersClear_within {C : List Comp} {s₀ : State}  (c : Cmd) {s : State} (h : Within C s₀ s) (hc : covers C [.lanes] = true) : WithinR C s₀ ((opLaneCountersClear).act c s) := by
  dsimp only [opLaneCountersClear]
  repeat' first
    | dsimp only [withinR_done, withinR_wait, withinR_fail]
    | (with_reducible show WithinR _ _ _; split)
  repeat' first
    | with_reducible assumption
    | exact covers_trans (by decide) hc
    | with_reducible apply countLane_within
    | (with_reducible apply foldl_within; rotate_left; (intro _ _ _; try dsimp only))
    | dsimp only


theorem execLaneCountersClear_within {C : List Comp} {s₀ : State} (c : Cmd) {s : State} (h : Within C s₀ s) (hc : covers C [.out, .eng, .lanes, .mv, .host, .ev, .boot, .hm] = true) : WithinO C s₀ (execLaneCountersClear c s) :=
  runOp_within c (fun h => h) (fun h => opLaneCountersClear_within c h (covers_trans (by decide) hc)) h (covers_trans (by decide) hc)

theorem opLaneEyeScan_within {C : List Comp} {s₀ : State}  (c : Cmd) {s : State} (h : Within C s₀ s) (hc : covers C [.eng, .lanes, .gov] = true) : WithinR C s₀ ((opLaneEyeScan).act c s) := by
  dsimp only [opLaneEyeScan]
  repeat' first
    | dsimp only [withinR_done, withinR_wait, withinR_fail]
    | (with_reducible show WithinR _ _ _; split)
  repeat' first
    | with_reducible assumption
    | exact covers_trans (by decide) hc
    | with_reducible apply addWait_within
    | with_reducible apply addJob_within
    | with_reducible apply modLane_within
    | split
    | with_reducible apply Within.upd
    | exact .inr (covers_mem hc (by decide))
    | with_reducible exact .inl rfl
    | with_reducible exact List.prefix_refl _
    | with_reducible exact Nat.le_refl _
    | with_reducible exact id
    | with_reducible exact fun g => g.of_eq rfl rfl rfl
    | dsimp only


theorem execLaneEyeScan_within {C : List Comp} {s₀ : State} (c : Cmd) {s : State} (h : Within C s₀ s) (hc : covers C [.out, .eng, .lanes, .mv, .host, .ev, .boot, .gov, .hm] = true) : WithinO C s₀ (execLaneEyeScan c s) :=
  runOp_within c (fun h => h) (fun h => opLaneEyeScan_within c h (covers_trans (by decide) hc)) h (covers_trans (by decide) hc)

theorem execEyeScanComplete_within {C : List Comp} {s₀ : State} (lane : Nat) (cells : List Byte) {s : State} (h : Within C s₀ s) (hc : covers C [.out, .eng, .lanes, .mv, .host, .boot] = true) : WithinO C s₀ (execEyeScanComplete lane cells s) := by
  unfold execEyeScanComplete
  try dsimp only
  repeat' first
    | dsimp only [withinO_next]
    | (with_reducible show WithinO _ _ _; split)
  repeat' first
    | with_reducible assumption
    | exact covers_trans (by decide) hc
    | with_reducible apply finish_within
    | with_reducible apply modLane_within
    | split
    | with_reducible apply Within.upd
    | exact .inr (covers_mem hc (by decide))
    | with_reducible exact .inl rfl
    | with_reducible exact List.prefix_refl _
    | with_reducible exact Nat.le_refl _
    | with_reducible exact id
    | dsimp only


end Sys2Proof.Machine
end

