-- ==== Sys2Proof/Laws/WithinFrames.lean ====
section
/-!
SUPPORT. The operations of Frames: each keeps what `Within` says.
-/
namespace Sys2Proof.Machine
open Sys2Proof
set_option Elab.async false
set_option linter.all false

theorem countChannel_within {C : List Comp} {s₀ : State} (g : Nat) (f : ChanCounters → ChanCounters) {s : State} (h : Within C s₀ s) (hc : covers C [.st] = true) : Within C s₀ (countChannel g f s) := by
  unfold countChannel
  try dsimp only
  repeat' first
    | with_reducible assumption
    | exact covers_trans (by decide) hc
    | with_reducible apply modChannel_within
    | with_reducible apply Within.upd
    | exact .inr (covers_mem hc (by decide))
    | with_reducible exact .inl rfl
    | with_reducible exact List.prefix_refl _
    | with_reducible exact Nat.le_refl _
    | with_reducible exact id
    | dsimp only


theorem raiseChan_within {C : List Comp} {s₀ : State} (g l count : Nat) {s : State} (h : Within C s₀ s) (hc : covers C [.ev] = true) : Within C s₀ (raiseChan g l count s) := by
  unfold raiseChan
  try dsimp only
  repeat' first
    | with_reducible assumption
    | exact covers_trans (by decide) hc
    | with_reducible apply raise_within


theorem genAfter_ne_zero {s : State} (h : GenerationsOk s.eng) (g : Nat) (set : ChanSet) : genAfter s g set ≠ 0 := by
  unfold genAfter
  dsimp only
  split
  · rcases ho : obj? s (chanSlot g) with _ | o
    · exact show (1 : U32) ≠ 0 by decide
    · exact h.objects _ (mem_of_tget? ho)
  · exact nextGen_ne_zero _

theorem perFrameOn_within {C : List Comp} {s₀ : State} (op : Nat) (c : Cmd) (g room : Nat) (set : ChanSet) (build : Bool) (result : List Byte)
    (handle : Option Nat) (gen : Option U32) {s : State} (h : Within C s₀ s) (hc : covers C [.eng, .st] = true) :
    WithinR C s₀ (perFrameOn op c g room set build result handle gen s) := by
  have sub {M : List Comp} (h : covers [.eng, .st] M = true) : covers C M = true := covers_trans h hc
  unfold perFrameOn
  dsimp only
  have h1 := modObj_within_of (chanSlot g) (fun o => { o with gen := genAfter s g set }) h (sub rfl)
    fun hg _ _ => genAfter_ne_zero hg g set
  split
  · exact modChannel_within _ _ h1 (sub rfl)
  · exact modChannel_within _ _ (addWait_within _ _ _ _ h1 (sub rfl)) (sub rfl)


theorem perFrame_within {C : List Comp} {s₀ : State} (op : Nat) (c : Cmd) (room : Nat) (set : ChanSet) (build : Bool) (result : List Byte) {s : State} (h : Within C s₀ s) (hc : covers C [.eng, .st] = true) : WithinR C s₀ (perFrame op c room set build result s) := by
  unfold perFrame
  try dsimp only
  repeat' first
    | dsimp only [withinR_done, withinR_wait, withinR_fail]
    | (with_reducible show WithinR _ _ _; split)
  repeat' first
    | with_reducible assumption
    | exact covers_trans (by decide) hc
    | with_reducible apply perFrameOn_within


theorem modAd_within {C : List Comp} {s₀ : State} (f : AdState → AdState) {s : State} (h : Within C s₀ s) (hc : covers C [.ad] = true) : Within C s₀ (modAd s f) := by
  unfold modAd
  try dsimp only
  repeat' first
    | with_reducible assumption
    | exact covers_trans (by decide) hc
    | with_reducible apply Within.upd
    | exact .inr (covers_mem hc (by decide))
    | with_reducible exact .inl rfl
    | with_reducible exact List.prefix_refl _
    | with_reducible exact Nat.le_refl _
    | with_reducible exact id


theorem modAdChan_within {C : List Comp} {s₀ : State} (g : Nat) (f : AdChan → AdChan) {s : State} (h : Within C s₀ s) (hc : covers C [.ad] = true) : Within C s₀ (modAdChan g f s) := by
  unfold modAdChan
  try dsimp only
  repeat' first
    | with_reducible assumption
    | exact covers_trans (by decide) hc
    | with_reducible apply modAd_within
    | with_reducible apply Within.upd
    | exact .inr (covers_mem hc (by decide))
    | with_reducible exact .inl rfl
    | with_reducible exact List.prefix_refl _
    | with_reducible exact Nat.le_refl _
    | with_reducible exact id
    | dsimp only


theorem noteLatency_within {C : List Comp} {s₀ : State} (t : Nat) (f : Frame) (need : Nat) {s : State} (h : Within C s₀ s) (hc : covers C [.ad] = true) : Within C s₀ (noteLatency t f need s) := by
  unfold noteLatency
  try dsimp only
  repeat' first
    | with_reducible assumption
    | exact covers_trans (by decide) hc
    | with_reducible apply modAd_within
    | (with_reducible apply getD_map_within; rotate_left; intro _)
    | with_reducible apply Within.upd
    | exact .inr (covers_mem hc (by decide))
    | with_reducible exact .inl rfl
    | with_reducible exact List.prefix_refl _
    | with_reducible exact Nat.le_refl _
    | with_reducible exact id
    | dsimp only


theorem decideRule_within {C : List Comp} {s₀ : State} (g idx : Nat) (c : RuleCfg) (f : Frame) (need : Nat) (met : Bool) {s : State} (h : Within C s₀ s) (hc : covers C [.ev, .ad] = true) : Within C s₀ (decideRule g idx c f need met s) := by
  unfold decideRule
  try dsimp only
  repeat' first
    | with_reducible assumption
    | exact covers_trans (by decide) hc
    | with_reducible apply modAd_within
    | with_reducible apply modAdChan_within
    | with_reducible apply raise_within
    | with_reducible apply noteLatency_within
    | (with_reducible apply getD_map_within; rotate_left; intro _)
    | split
    | with_reducible apply Within.upd
    | exact .inr (covers_mem hc (by decide))
    | with_reducible exact .inl rfl
    | with_reducible exact List.prefix_refl _
    | exact List.prefix_append _ _
    | with_reducible exact Nat.le_refl _
    | with_reducible exact id
    | dsimp only


theorem modFrame_within {C : List Comp} {s₀ : State} (g : Nat) (seq : U64) (f : Frame → Frame) {s : State} (h : Within C s₀ s) (hc : covers C [.st] = true) : Within C s₀ (modFrame g seq f s) := by
  unfold modFrame
  try dsimp only
  repeat' first
    | with_reducible assumption
    | exact covers_trans (by decide) hc
    | with_reducible apply modChannel_within
    | split
    | with_reducible apply Within.upd
    | exact .inr (covers_mem hc (by decide))
    | with_reducible exact .inl rfl
    | with_reducible exact List.prefix_refl _
    | with_reducible exact Nat.le_refl _
    | with_reducible exact id
    | dsimp only


theorem frameDecided_within {C : List Comp} {s₀ : State} (g : Nat) (f : Frame) (roi energy : Nat) (idle : Tab RuleCfg) {s : State} (h : Within C s₀ s) (hc : covers C [.st, .ev, .ad] = true) : Within C s₀ (frameDecided g f roi energy idle s) := by
  unfold frameDecided
  try dsimp only
  repeat' first
    | with_reducible assumption
    | exact covers_trans (by decide) hc
    | with_reducible apply modFrame_within
    | with_reducible apply modAdChan_within
    | with_reducible apply decideRule_within
    | (with_reducible apply foldl_within; rotate_left; (intro _ _ _; try dsimp only))
    | with_reducible apply Within.upd
    | exact .inr (covers_mem hc (by decide))
    | with_reducible exact .inl rfl
    | with_reducible exact List.prefix_refl _
    | with_reducible exact Nat.le_refl _
    | with_reducible exact id
    | dsimp only


theorem countStale_within {C : List Comp} {s₀ : State} (g n : Nat) {s : State} (h : Within C s₀ s) (hc : covers C [.st, .ev] = true) : Within C s₀ (countStale g n s) := by
  unfold countStale
  try dsimp only
  repeat' first
    | with_reducible assumption
    | exact covers_trans (by decide) hc
    | with_reducible apply modChannel_within
    | with_reducible apply raiseChan_within
    | with_reducible apply putChannel_within
    | split
    | with_reducible apply Within.upd
    | exact .inr (covers_mem hc (by decide))
    | with_reducible exact .inl rfl
    | with_reducible exact List.prefix_refl _
    | with_reducible exact Nat.le_refl _
    | with_reducible exact id
    | dsimp only


theorem countClamped_within {C : List Comp} {s₀ : State} (g : Nat) {s : State} (h : Within C s₀ s) (hc : covers C [.st, .ev] = true) : Within C s₀ (countClamped g s) := by
  unfold countClamped
  try dsimp only
  repeat' first
    | with_reducible assumption
    | exact covers_trans (by decide) hc
    | with_reducible apply modChannel_within
    | with_reducible apply raiseChan_within
    | with_reducible apply putChannel_within
    | split
    | with_reducible apply Within.upd
    | exact .inr (covers_mem hc (by decide))
    | with_reducible exact .inl rfl
    | with_reducible exact List.prefix_refl _
    | with_reducible exact Nat.le_refl _
    | with_reducible exact id
    | dsimp only


theorem modHead_within {C : List Comp} {s₀ : State} (g : Nat) (f : Block → Block) {s : State} (h : Within C s₀ s) (hc : covers C [.st] = true) : Within C s₀ (modHead g f s) := by
  unfold modHead
  try dsimp only
  repeat' first
    | with_reducible assumption
    | exact covers_trans (by decide) hc
    | with_reducible apply modChannel_within
    | split
    | with_reducible apply Within.upd
    | exact .inr (covers_mem hc (by decide))
    | with_reducible exact .inl rfl
    | with_reducible exact List.prefix_refl _
    | with_reducible exact Nat.le_refl _
    | with_reducible exact id
    | dsimp only


theorem requestSkew_within {C : List Comp} {s₀ : State} (g : Nat) (seq : U64) {s : State} (h : Within C s₀ s) (hc : covers C [.gov] = true) : Within C s₀ (requestSkew g seq s) := by
  unfold requestSkew
  try dsimp only
  repeat' first
    | with_reducible assumption
    | exact covers_trans (by decide) hc
    | with_reducible apply addJob_within
    | (with_reducible apply foldl_within; rotate_left; (intro _ _ _; try dsimp only))
    | dsimp only


theorem openFrame_within {C : List Comp} {s₀ : State} (g : Nat) (b : Block) (l : Leader) {s : State} (h : Within C s₀ s) (hc : covers C [.st, .ev, .gov, .ad] = true) : Within C s₀ (openFrame g b l s) := by
  unfold openFrame
  try dsimp only
  repeat' first
    | with_reducible assumption
    | exact covers_trans (by decide) hc
    | with_reducible apply putChannel_within
    | with_reducible apply modHead_within
    | with_reducible apply requestSkew_within
    | with_reducible apply countClamped_within
    | with_reducible apply countStale_within
    | with_reducible apply frameDecided_within
    | (with_reducible apply foldl_within; rotate_left; (intro _ _ _; try dsimp only))
    | split
    | with_reducible apply Within.upd
    | exact .inr (covers_mem hc (by decide))
    | with_reducible exact .inl rfl
    | with_reducible exact List.prefix_refl _
    | exact List.prefix_append _ _
    | with_reducible exact Nat.le_refl _
    | with_reducible exact id
    | with_reducible exact fun g => g.of_eq rfl rfl rfl
    | dsimp only


theorem discardHead_within {C : List Comp} {s₀ : State} (g : Nat) {s : State} (h : Within C s₀ s) (hc : covers C [.st] = true) : Within C s₀ (discardHead g s) := by
  unfold discardHead
  try dsimp only
  repeat' first
    | with_reducible assumption
    | exact covers_trans (by decide) hc
    | with_reducible apply modChannel_within
    | split
    | with_reducible apply Within.upd
    | exact .inr (covers_mem hc (by decide))
    | with_reducible exact .inl rfl
    | with_reducible exact List.prefix_refl _
    | with_reducible exact Nat.le_refl _
    | with_reducible exact id
    | dsimp only


theorem takeLeader_within {C : List Comp} {s₀ : State} (g : Nat) {s : State} (h : Within C s₀ s) (hc : covers C [.st, .ev, .gov, .ad] = true) : Within C s₀ (takeLeader g s) := by
  unfold takeLeader
  try dsimp only
  repeat' first
    | with_reducible assumption
    | exact covers_trans (by decide) hc
    | with_reducible apply openFrame_within
    | with_reducible apply discardHead_within
    | split


theorem noteReady_within {C : List Comp} {s₀ : State} (g at_ : Nat) {s : State} (h : Within C s₀ s) (hc : covers C [.st] = true) : Within C s₀ (noteReady g at_ s) := by
  unfold noteReady
  try dsimp only
  repeat' first
    | with_reducible assumption
    | exact covers_trans (by decide) hc
    | with_reducible apply modChannel_within
    | (with_reducible apply getD_map_within; rotate_left; intro _)
    | split
    | with_reducible apply Within.upd
    | exact .inr (covers_mem hc (by decide))
    | with_reducible exact .inl rfl
    | with_reducible exact List.prefix_refl _
    | with_reducible exact Nat.le_refl _
    | with_reducible exact id
    | dsimp only


theorem raiseIncomplete_within {C : List Comp} {s₀ : State} (g n : Nat) {s : State} (h : Within C s₀ s) (hc : covers C [.st, .ev] = true) : Within C s₀ (raiseIncomplete g n s) := by
  unfold raiseIncomplete
  try dsimp only
  repeat' first
    | with_reducible assumption
    | exact covers_trans (by decide) hc
    | with_reducible apply raiseChan_within
    | with_reducible apply modChannel_within
    | split
    | with_reducible apply Within.upd
    | exact .inr (covers_mem hc (by decide))
    | with_reducible exact .inl rfl
    | with_reducible exact List.prefix_refl _
    | with_reducible exact Nat.le_refl _
    | with_reducible exact id
    | dsimp only


theorem sweepFrames_within {C : List Comp} {s₀ : State} (g : Nat) {s : State} (h : Within C s₀ s) (hc : covers C [.eng, .st, .ev, .fs] = true) : Within C s₀ (sweepFrames g s) := by
  unfold sweepFrames
  try dsimp only
  repeat' first
    | with_reducible assumption
    | exact covers_trans (by decide) hc
    | with_reducible apply settleRing_within
    | with_reducible apply modChannel_within
    | with_reducible apply Within.upd
    | exact .inr (covers_mem hc (by decide))
    | with_reducible exact .inl rfl
    | with_reducible exact List.prefix_refl _
    | with_reducible exact Nat.le_refl _
    | with_reducible exact id
    | dsimp only


theorem pairClosed_within {C : List Comp} {s₀ : State} (g : Nat) (f : Frame) {s : State} (h : Within C s₀ s) (hc : covers C [.ev, .gov] = true) : Within C s₀ (pairClosed g f s) := by
  unfold pairClosed
  try dsimp only
  repeat' first
    | with_reducible assumption
    | exact covers_trans (by decide) hc
    | with_reducible apply pairFrame_within
    | with_reducible apply dropJob_within
    | (with_reducible apply foldl_within; rotate_left; (intro _ _ _; try dsimp only))
    | split
    | dsimp only


theorem leaveBacklog_within {C : List Comp} {s₀ : State} (g : Nat) (seq : U64) {s : State} (h : Within C s₀ s) (hc : covers C [.st, .gov, .fs] = true) : Within C s₀ (leaveBacklog g seq s) := by
  unfold leaveBacklog
  try dsimp only
  repeat' first
    | with_reducible assumption
    | exact covers_trans (by decide) hc
    | with_reducible apply refillShort_within
    | with_reducible apply modTileGov_within
    | with_reducible apply modFrame_within
    | (with_reducible apply getD_map_within; rotate_left; intro _)
    | split
    | with_reducible apply Within.upd
    | exact .inr (covers_mem hc (by decide))
    | with_reducible exact .inl rfl
    | with_reducible exact List.prefix_refl _
    | with_reducible exact Nat.le_refl _
    | with_reducible exact id
    | dsimp only


theorem abandonLive_within {C : List Comp} {s₀ : State} (g : Nat) (seq : U64) {s : State} (h : Within C s₀ s) (hc : covers C [.st, .mv, .gov, .fs] = true) : Within C s₀ (abandonLive g seq s) := by
  unfold abandonLive
  try dsimp only
  repeat' first
    | with_reducible assumption
    | exact covers_trans (by decide) hc
    | with_reducible apply leaveBacklog_within
    | with_reducible apply modQueue_within
    | with_reducible apply modMv_within
    | (with_reducible apply foldl_within; rotate_left; (intro _ _ _; try dsimp only))
    | with_reducible apply Within.upd
    | exact .inr (covers_mem hc (by decide))
    | with_reducible exact .inl rfl
    | with_reducible exact List.prefix_refl _
    | with_reducible exact Nat.le_refl _
    | with_reducible exact id
    | dsimp only


theorem dropFrame_within {C : List Comp} {s₀ : State} (g : Nat) (seq : U64) {s : State} (h : Within C s₀ s) (hc : covers C [.eng, .st, .mv, .ev, .gov, .fs] = true) : Within C s₀ (dropFrame g seq s) := by
  unfold dropFrame
  try dsimp only
  repeat' first
    | with_reducible assumption
    | exact covers_trans (by decide) hc
    | with_reducible apply abandonLive_within
    | with_reducible apply sweepFrames_within
    | with_reducible apply countChannel_within
    | with_reducible apply modFrame_within
    | with_reducible apply Within.upd
    | exact .inr (covers_mem hc (by decide))
    | with_reducible exact .inl rfl
    | with_reducible exact List.prefix_refl _
    | with_reducible exact Nat.le_refl _
    | with_reducible exact id
    | dsimp only


theorem closeHead_within {C : List Comp} {s₀ : State} (g : Nat) {s : State} (h : Within C s₀ s) (hc : covers C [.free, .eng, .st, .mv, .ev, .gov, .fs] = true) : Within C s₀ (closeHead g s) := by
  unfold closeHead
  try dsimp only
  repeat' first
    | with_reducible assumption
    | exact covers_trans (by decide) hc
    | with_reducible apply modChannel_within
    | with_reducible apply raiseIncomplete_within
    | with_reducible apply countChannel_within
    | with_reducible apply dropFrame_within
    | with_reducible apply pairClosed_within
    | with_reducible apply modFrame_within
    | with_reducible apply useFree_within
    | split
    | with_reducible apply Within.upd
    | exact .inr (covers_mem hc (by decide))
    | with_reducible exact .inl rfl
    | with_reducible exact List.prefix_refl _
    | exact List.prefix_append _ _
    | with_reducible exact Nat.le_refl _
    | with_reducible exact id
    | with_reducible exact fun g => g.of_eq rfl rfl rfl
    | dsimp only


theorem missTrailer_within {C : List Comp} {s₀ : State} (g : Nat) {s : State} (h : Within C s₀ s) (hc : covers C [.st] = true) : Within C s₀ (missTrailer g s) := by
  unfold missTrailer
  try dsimp only
  repeat' first
    | with_reducible assumption
    | exact covers_trans (by decide) hc
    | with_reducible apply countChannel_within
    | with_reducible apply modHead_within
    | (with_reducible apply getD_map_within; rotate_left; intro _)
    | split
    | with_reducible apply Within.upd
    | exact .inr (covers_mem hc (by decide))
    | with_reducible exact .inl rfl
    | with_reducible exact List.prefix_refl _
    | with_reducible exact Nat.le_refl _
    | with_reducible exact id
    | dsimp only


theorem advance_within {C : List Comp} {s₀ : State} (g : Nat) (n₀ : Nat) {s : State} (h : Within C s₀ s) (hc : covers C [.free, .eng, .st, .mv, .ev, .gov, .fs] = true) : Within C s₀ (advance g n₀ s) := by
  induction n₀ generalizing s with
  | zero => exact h
  | succ n₀ ih =>
    unfold advance
    try dsimp only
    repeat' first
      | with_reducible assumption
      | with_reducible apply ih
      | exact covers_trans (by decide) hc
      | with_reducible apply closeHead_within
      | with_reducible apply missTrailer_within
      | split
      | dsimp only


end Sys2Proof.Machine
end

