-- ==== Sys2Proof/Laws/WithinTime.lean ====
section
/-!
SUPPORT. The operations of Time: each keeps what `Within` says.
-/
namespace Sys2Proof.Machine
open Sys2Proof
set_option Elab.async false
set_option linter.all false

theorem scheduleChange_within {C : List Comp} {s₀ : State} (c : TimeChange) {s : State} (h : Within C s₀ s) (hc : covers C [.time] = true) : Within C s₀ (scheduleChange c s) := by
  unfold scheduleChange
  try dsimp only
  repeat' first
    | with_reducible assumption
    | exact covers_trans (by decide) hc
    | with_reducible apply modTime_within
    | with_reducible apply Within.upd
    | exact .inr (covers_mem hc (by decide))
    | with_reducible exact .inl rfl
    | with_reducible exact List.prefix_refl _
    | with_reducible exact Nat.le_refl _
    | with_reducible exact id
    | dsimp only


theorem markStep_within {C : List Comp} {s₀ : State}  {s : State} (h : Within C s₀ s) (hc : covers C [.mv] = true) : Within C s₀ (markStep s) := by
  unfold markStep
  try dsimp only
  repeat' first
    | with_reducible assumption
    | exact covers_trans (by decide) hc
    | with_reducible apply modMv_within
    | with_reducible apply Within.upd
    | exact .inr (covers_mem hc (by decide))
    | with_reducible exact .inl rfl
    | with_reducible exact List.prefix_refl _
    | with_reducible exact Nat.le_refl _
    | with_reducible exact id
    | dsimp only


theorem applyStep_within {C : List Comp} {s₀ : State} (tc : Nat) (d : Int) (bySet : Bool) {s : State} (h : Within C s₀ s) (hc : covers C [.free, .mv, .time, .ev] = true) : Within C s₀ (applyStep tc d bySet s) := by
  unfold applyStep
  try dsimp only
  repeat' first
    | with_reducible assumption
    | exact covers_trans (by decide) hc
    | with_reducible apply modTime_within
    | with_reducible apply raise_within
    | with_reducible apply markStep_within
    | with_reducible apply useFree_within
    | split
    | with_reducible apply Within.upd
    | exact .inr (covers_mem hc (by decide))
    | with_reducible exact .inl rfl
    | with_reducible exact List.prefix_refl _
    | with_reducible exact Nat.le_refl _
    | with_reducible exact id
    | dsimp only


theorem raiseSched_within {C : List Comp} {s₀ : State} (k pulse merged : Nat) (late : Bool) (time : Nat) {s : State} (h : Within C s₀ s) (hc : covers C [.ev] = true) : Within C s₀ (raiseSched k pulse merged late time s) := by
  unfold raiseSched
  try dsimp only
  repeat' first
    | with_reducible assumption
    | exact covers_trans (by decide) hc
    | with_reducible apply raiseEv_within


theorem keepEdges_within {C : List Comp} {s₀ : State} (k : Nat) (o : Sched) (keep : Nat → Bool) {s : State} (h : Within C s₀ s) (hc : covers C [.ev] = true) : Within C s₀ (keepEdges k o keep s) := by
  unfold keepEdges
  try dsimp only
  repeat' first
    | with_reducible assumption
    | exact covers_trans (by decide) hc
    | with_reducible apply modPin_within
    | (with_reducible apply getD_map_within; rotate_left; intro _)
    | split
    | with_reducible apply Within.upd
    | exact .inr (covers_mem hc (by decide))
    | with_reducible exact .inl rfl
    | with_reducible exact List.prefix_refl _
    | with_reducible exact Nat.le_refl _
    | with_reducible exact id
    | dsimp only


theorem rearm_within {C : List Comp} {s₀ : State} (k : Nat) {s : State} (h : Within C s₀ s) (hc : covers C [.time, .ev] = true) : Within C s₀ (rearm k s) := by
  unfold rearm
  try dsimp only
  repeat' first
    | with_reducible assumption
    | exact covers_trans (by decide) hc
    | with_reducible apply keepEdges_within
    | with_reducible apply putSched_within
    | split
    | with_reducible apply Within.upd
    | exact .inr (covers_mem hc (by decide))
    | with_reducible exact .inl rfl
    | with_reducible exact List.prefix_refl _
    | with_reducible exact Nat.le_refl _
    | with_reducible exact id
    | dsimp only


theorem fireLate_within {C : List Comp} {s₀ : State} (k n m last : Nat) (send : Bool) {s : State} (h : Within C s₀ s) (hc : covers C [.out, .host, .time, .ev] = true) : Within C s₀ (fireLate k n m last send s) := by
  unfold fireLate
  try dsimp only
  repeat' first
    | with_reducible assumption
    | exact covers_trans (by decide) hc
    | with_reducible apply raiseSched_within
    | with_reducible apply putSched_within
    | with_reducible apply driveEdge_within
    | split
    | with_reducible apply Within.upd
    | exact .inr (covers_mem hc (by decide))
    | with_reducible exact .inl rfl
    | with_reducible exact List.prefix_refl _
    | with_reducible exact Nat.le_refl _
    | with_reducible exact id
    | dsimp only


theorem startLate_within {C : List Comp} {s₀ : State} (k start m : Nat) {s : State} (h : Within C s₀ s) (hc : covers C [.out, .host, .time, .ev] = true) : Within C s₀ (startLate k start m s) := by
  unfold startLate
  try dsimp only
  repeat' first
    | with_reducible assumption
    | exact covers_trans (by decide) hc
    | with_reducible apply rearm_within
    | with_reducible apply fireLate_within
    | with_reducible apply modSched_within
    | with_reducible apply Within.upd
    | exact .inr (covers_mem hc (by decide))
    | with_reducible exact .inl rfl
    | with_reducible exact List.prefix_refl _
    | with_reducible exact Nat.le_refl _
    | with_reducible exact id
    | dsimp only


theorem addTrain_within {C : List Comp} {s₀ : State} (k start : Nat) {s : State} (h : Within C s₀ s) (hc : covers C [.time, .ev] = true) : Within C s₀ (addTrain k start s) := by
  unfold addTrain
  try dsimp only
  repeat' first
    | with_reducible assumption
    | exact covers_trans (by decide) hc
    | with_reducible apply keepEdges_within
    | with_reducible apply putSched_within
    | split
    | with_reducible apply Within.upd
    | exact .inr (covers_mem hc (by decide))
    | with_reducible exact .inl rfl
    | with_reducible exact List.prefix_refl _
    | with_reducible exact Nat.le_refl _
    | with_reducible exact id
    | dsimp only


theorem stepOutput_within {C : List Comp} {s₀ : State} (k : Nat) {s : State} (h : Within C s₀ s) (hc : covers C [.out, .host, .time, .ev] = true) : Within C s₀ (stepOutput s k) := by
  unfold stepOutput
  try dsimp only
  repeat' first
    | with_reducible assumption
    | exact covers_trans (by decide) hc
    | with_reducible apply modSched_within
    | with_reducible apply rearm_within
    | with_reducible apply fireLate_within
    | (with_reducible apply getD_map_within; rotate_left; intro _)
    | split
    | with_reducible apply Within.upd
    | exact .inr (covers_mem hc (by decide))
    | with_reducible exact .inl rfl
    | with_reducible exact List.prefix_refl _
    | with_reducible exact Nat.le_refl _
    | with_reducible exact id
    | dsimp only


theorem execTimeChangeCommit_within {C : List Comp} {s₀ : State}  {s : State} (h : Within C s₀ s) (hc : covers C [.free, .out, .mv, .host, .time, .ev] = true) : WithinO C s₀ (execTimeChangeCommit s) := by
  unfold execTimeChangeCommit
  try dsimp only
  repeat' first
    | dsimp only [withinO_next]
    | (with_reducible show WithinO _ _ _; split)
  repeat' first
    | with_reducible assumption
    | exact covers_trans (by decide) hc
    | with_reducible apply modTime_within
    | with_reducible apply applyStep_within
    | with_reducible apply stepOutput_within
    | (with_reducible apply foldl_within; rotate_left; (intro _ _ _; try dsimp only))
    | split
    | with_reducible apply Within.upd
    | exact .inr (covers_mem hc (by decide))
    | with_reducible exact .inl rfl
    | with_reducible exact List.prefix_refl _
    | with_reducible exact Nat.le_refl _
    | with_reducible exact id
    | dsimp only


theorem execSchedPulseDue_within {C : List Comp} {s₀ : State} (output : Nat) {s : State} (h : Within C s₀ s) (hc : covers C [.out, .host, .time, .ev] = true) : WithinO C s₀ (execSchedPulseDue output s) := by
  unfold execSchedPulseDue
  try dsimp only
  repeat' first
    | dsimp only [withinO_next]
    | (with_reducible show WithinO _ _ _; split)
  repeat' first
    | with_reducible assumption
    | exact covers_trans (by decide) hc
    | with_reducible apply putSched_within
    | with_reducible apply raiseSched_within
    | with_reducible apply servePin_within
    | (with_reducible apply getD_map_within; rotate_left; intro _)
    | split
    | with_reducible apply Within.upd
    | exact .inr (covers_mem hc (by decide))
    | with_reducible exact .inl rfl
    | with_reducible exact List.prefix_refl _
    | exact List.prefix_append _ _
    | with_reducible exact Nat.le_refl _
    | with_reducible exact id
    | with_reducible exact fun g => g.of_eq rfl rfl rfl
    | dsimp only


theorem takeSchedGo_within {C : List Comp} {s₀ : State} (output n : Nat) {s : State} (h : Within C s₀ s) (hc : covers C [.out, .host, .time, .ev] = true) : Within C s₀ (takeSchedGo output n s) := by
  unfold takeSchedGo
  try dsimp only
  repeat' first
    | with_reducible assumption
    | exact covers_trans (by decide) hc
    | with_reducible refine takeInput_within ?_ ?_ (by assumption)
    | with_reducible apply addTrain_within
    | with_reducible apply putSched_within
    | with_reducible apply startLate_within
    | split
    | with_reducible apply Within.upd
    | exact .inr (covers_mem hc (by decide))
    | with_reducible exact .inl rfl
    | with_reducible exact List.prefix_refl _
    | exact List.prefix_append _ _
    | with_reducible exact Nat.le_refl _
    | with_reducible exact id
    | dsimp only


theorem execSchedGo_within {C : List Comp} {s₀ : State} (output n : Nat) {s : State} (h : Within C s₀ s) (hc : covers C [.out, .host, .time, .ev] = true) : WithinO C s₀ (execSchedGo output n s) := by
  unfold execSchedGo
  try dsimp only
  repeat' first
    | dsimp only [withinO_next]
    | (with_reducible show WithinO _ _ _; split)
  repeat' first
    | with_reducible assumption
    | exact covers_trans (by decide) hc
    | with_reducible apply takeSchedGo_within


theorem stopSched_within {C : List Comp} {s₀ : State} (k : Nat) {s : State} (h : Within C s₀ s) (hc : covers C [.out, .host, .time, .ev] = true) : Within C s₀ (stopSched k s) := by
  unfold stopSched
  try dsimp only
  repeat' first
    | with_reducible assumption
    | exact covers_trans (by decide) hc
    | with_reducible apply putSched_within
    | with_reducible apply idlePin_within
    | with_reducible apply modPin_within
    | split
    | with_reducible apply Within.upd
    | exact .inr (covers_mem hc (by decide))
    | with_reducible exact .inl rfl
    | with_reducible exact List.prefix_refl _
    | with_reducible exact Nat.le_refl _
    | with_reducible exact id
    | dsimp only


theorem setClock_within {C : List Comp} {s₀ : State} (c : ClockState) {s : State} (h : Within C s₀ s) (hc : covers C [.time, .ev] = true) : Within C s₀ (setClock c s) := by
  unfold setClock
  try dsimp only
  repeat' first
    | with_reducible assumption
    | exact covers_trans (by decide) hc
    | with_reducible apply modTime_within
    | with_reducible apply raise_within
    | (with_reducible apply getD_map_within; rotate_left; intro _)
    | split
    | with_reducible apply Within.upd
    | exact .inr (covers_mem hc (by decide))
    | with_reducible exact .inl rfl
    | with_reducible exact List.prefix_refl _
    | with_reducible exact Nat.le_refl _
    | with_reducible exact id
    | dsimp only


theorem setFrequency_within {C : List Comp} {s₀ : State} (a : Int) {s : State} (h : Within C s₀ s) (hc : covers C [.time] = true) : Within C s₀ (setFrequency a s) := by
  unfold setFrequency
  try dsimp only
  repeat' first
    | with_reducible assumption
    | exact covers_trans (by decide) hc
    | with_reducible apply scheduleChange_within
    | split


theorem holdFrequency_within {C : List Comp} {s₀ : State}  {s : State} (h : Within C s₀ s) (hc : covers C [.free, .time] = true) : Within C s₀ (holdFrequency s) := by
  unfold holdFrequency
  try dsimp only
  repeat' first
    | with_reducible assumption
    | exact covers_trans (by decide) hc
    | with_reducible apply setFrequency_within
    | with_reducible apply useFree_within
    | split
    | dsimp only


theorem followFrequency_within {C : List Comp} {s₀ : State} (adj : Option Int) {s : State} (h : Within C s₀ s) (hc : covers C [.time] = true) : Within C s₀ (followFrequency adj s) := by
  unfold followFrequency
  try dsimp only
  repeat' first
    | with_reducible assumption
    | exact covers_trans (by decide) hc
    | with_reducible apply setFrequency_within
    | with_reducible apply modTime_within
    | (with_reducible apply getD_map_within; rotate_left; intro _)
    | with_reducible apply Within.upd
    | exact .inr (covers_mem hc (by decide))
    | with_reducible exact .inl rfl
    | with_reducible exact List.prefix_refl _
    | with_reducible exact Nat.le_refl _
    | with_reducible exact id
    | dsimp only


theorem correct_within {C : List Comp} {s₀ : State} (run : List Int) {s : State} (h : Within C s₀ s) (hc : covers C [.free, .time] = true) : Within C s₀ (correct run s) := by
  unfold correct
  try dsimp only
  repeat' first
    | with_reducible assumption
    | exact covers_trans (by decide) hc
    | with_reducible apply scheduleChange_within
    | with_reducible apply useFree_within
    | split
    | dsimp only


theorem servoSample_within {C : List Comp} {s₀ : State} (x : Int) (adj : Option Int) {s : State} (h : Within C s₀ s) (hc : covers C [.free, .time, .ev] = true) : Within C s₀ (servoSample x adj s) := by
  unfold servoSample
  try dsimp only
  repeat' first
    | with_reducible assumption
    | exact covers_trans (by decide) hc
    | with_reducible apply modTime_within
    | with_reducible apply followFrequency_within
    | with_reducible apply setClock_within
    | with_reducible apply correct_within
    | with_reducible apply useFree_within
    | with_reducible apply raise_within
    | with_reducible apply holdFrequency_within
    | split
    | with_reducible apply Within.upd
    | exact .inr (covers_mem hc (by decide))
    | with_reducible exact .inl rfl
    | with_reducible exact List.prefix_refl _
    | with_reducible exact Nat.le_refl _
    | with_reducible exact id
    | with_reducible exact fun g => g.of_eq rfl rfl rfl
    | dsimp only


theorem loseMaster_within {C : List Comp} {s₀ : State}  {s : State} (h : Within C s₀ s) (hc : covers C [.free, .time, .ev] = true) : Within C s₀ (loseMaster s) := by
  unfold loseMaster
  try dsimp only
  repeat' first
    | with_reducible assumption
    | exact covers_trans (by decide) hc
    | with_reducible apply setClock_within
    | with_reducible apply holdFrequency_within
    | split


theorem execPkgTimeRead_within {C : List Comp} {s₀ : State} (port : Nat) (calendar : Bool) {s : State} (h : Within C s₀ s) (hc : covers C [.out, .host] = true) : WithinO C s₀ (execPkgTimeRead port calendar s) := by
  unfold execPkgTimeRead
  try dsimp only
  repeat' first
    | dsimp only [withinO_next]
    | (with_reducible show WithinO _ _ _; split)
  repeat' first
    | with_reducible assumption
    | exact covers_trans (by decide) hc
    | with_reducible apply emit_within
    | with_reducible apply capture_within
    | with_reducible apply captureHi_within
    | split
    | dsimp only


theorem execTxtsPop_within {C : List Comp} {s₀ : State} (port tile : Nat) {s : State} (h : Within C s₀ s) (hc : covers C [.out, .host, .time] = true) : WithinO C s₀ (execTxtsPop port tile s) := by
  unfold execTxtsPop
  try dsimp only
  repeat' first
    | dsimp only [withinO_next]
    | (with_reducible show WithinO _ _ _; split)
  repeat' first
    | with_reducible assumption
    | exact covers_trans (by decide) hc
    | with_reducible apply modTime_within
    | with_reducible apply capture_within
    | with_reducible apply emit_within
    | split
    | with_reducible apply Within.upd
    | exact .inr (covers_mem hc (by decide))
    | with_reducible exact .inl rfl
    | with_reducible exact List.prefix_refl _
    | with_reducible exact Nat.le_refl _
    | with_reducible exact id
    | dsimp only


theorem execTimeLockRestored_within {C : List Comp} {s₀ : State} (tile : Nat) (error : Int) {s : State} (h : Within C s₀ s) (hc : covers C [.time] = true) : WithinO C s₀ (execTimeLockRestored tile error s) := by
  unfold execTimeLockRestored
  try dsimp only
  repeat' first
    | dsimp only [withinO_next]
    | (with_reducible show WithinO _ _ _; split)
  repeat' first
    | with_reducible assumption
    | exact covers_trans (by decide) hc
    | with_reducible apply modTime_within
    | split
    | with_reducible apply Within.upd
    | exact .inr (covers_mem hc (by decide))
    | with_reducible exact .inl rfl
    | with_reducible exact List.prefix_refl _
    | with_reducible exact Nat.le_refl _
    | with_reducible exact id
    | dsimp only


theorem setCalendar_within {C : List Comp} {s₀ : State} (sec ticks : Nat) {s : State} (h : Within C s₀ s) (hc : covers C [.cal] = true) : Within C s₀ (setCalendar sec ticks s) := by
  unfold setCalendar
  try dsimp only
  repeat' first
    | with_reducible assumption
    | exact covers_trans (by decide) hc
    | with_reducible apply Within.upd
    | exact .inr (covers_mem hc (by decide))
    | with_reducible exact .inl rfl
    | with_reducible exact List.prefix_refl _
    | with_reducible exact Nat.le_refl _
    | with_reducible exact id


theorem execCalendarAlign_within {C : List Comp} {s₀ : State}  {s : State} (h : Within C s₀ s) (hc : covers C [.cal] = true) : WithinO C s₀ (execCalendarAlign s) := by
  unfold execCalendarAlign
  try dsimp only
  repeat' first
    | dsimp only [withinO_next]
    | (with_reducible show WithinO _ _ _; split)
  repeat' first
    | with_reducible assumption
    | exact covers_trans (by decide) hc
    | with_reducible apply setCalendar_within
    | (with_reducible apply getD_map_within; rotate_left; intro _)
    | split
    | with_reducible apply Within.upd
    | exact .inr (covers_mem hc (by decide))
    | with_reducible exact .inl rfl
    | with_reducible exact List.prefix_refl _
    | with_reducible exact Nat.le_refl _
    | with_reducible exact id
    | dsimp only


theorem calendarTick_within {C : List Comp} {s₀ : State}  {s : State} (h : Within C s₀ s) (hc : covers C [.cal] = true) : Within C s₀ (calendarTick s) := by
  unfold calendarTick
  try dsimp only
  repeat' first
    | with_reducible assumption
    | exact covers_trans (by decide) hc
    | split
    | with_reducible apply Within.upd
    | exact .inr (covers_mem hc (by decide))
    | with_reducible exact .inl rfl
    | with_reducible exact List.prefix_refl _
    | with_reducible exact Nat.le_refl _
    | with_reducible exact id
    | with_reducible exact fun k => k.of_eq rfl rfl rfl rfl
    | with_reducible exact fun k => k.both rfl rfl rfl
    | exact fun _ => PkgOk.started rfl rfl
    | dsimp only


theorem advanceTime_within {C : List Comp} {s₀ : State}  {s : State} (h : Within C s₀ s) (hc : covers C [.time] = true) : Within C s₀ (advanceTime s) := by
  unfold advanceTime
  try dsimp only
  repeat' first
    | with_reducible assumption
    | exact covers_trans (by decide) hc
    | split
    | with_reducible apply Within.upd
    | exact .inr (covers_mem hc (by decide))
    | with_reducible exact .inl rfl
    | with_reducible exact List.prefix_refl _
    | with_reducible exact Nat.le_refl _
    | with_reducible exact id
    | with_reducible exact fun k => k.of_eq rfl rfl rfl rfl
    | with_reducible exact fun k => k.both rfl rfl rfl
    | exact fun _ => PkgOk.started rfl rfl
    | dsimp only


theorem opTimeQuery_within {C : List Comp} {s₀ : State}  (c : Cmd) {s : State} (h : Within C s₀ s) (_hc : covers C [] = true) : WithinR C s₀ ((opTimeQuery).act c s) := by
  dsimp only [opTimeQuery]
  repeat' first
    | dsimp only [withinR_done, withinR_wait, withinR_fail]
    | (with_reducible show WithinR _ _ _; split)
  repeat' first
    | with_reducible assumption


theorem execTimeQuery_within {C : List Comp} {s₀ : State} (c : Cmd) {s : State} (h : Within C s₀ s) (hc : covers C [.out, .eng, .mv, .host, .ev, .boot, .hm] = true) : WithinO C s₀ (execTimeQuery c s) :=
  runOp_within c (fun h => h) (fun h => opTimeQuery_within c h (covers_trans (by decide) hc)) h (covers_trans (by decide) hc)

theorem opTimeSet_within {C : List Comp} {s₀ : State}  (c : Cmd) {s : State} (h : Within C s₀ s) (hc : covers C [.free, .eng, .time] = true) : WithinR C s₀ ((opTimeSet).act c s) := by
  dsimp only [opTimeSet]
  repeat' first
    | dsimp only [withinR_done, withinR_wait, withinR_fail]
    | (with_reducible show WithinR _ _ _; split)
  repeat' first
    | with_reducible assumption
    | exact covers_trans (by decide) hc
    | with_reducible apply bumpPkg_within
    | with_reducible apply scheduleChange_within
    | with_reducible apply useFree_within
    | dsimp only


theorem execTimeSet_within {C : List Comp} {s₀ : State} (c : Cmd) {s : State} (h : Within C s₀ s) (hc : covers C [.free, .out, .eng, .mv, .host, .time, .ev, .boot, .hm] = true) : WithinO C s₀ (execTimeSet c s) :=
  runOp_within c (fun h => h) (fun h => opTimeSet_within c h (covers_trans (by decide) hc)) h (covers_trans (by decide) hc)

theorem opTimeAdjust_within {C : List Comp} {s₀ : State}  (c : Cmd) {s : State} (h : Within C s₀ s) (hc : covers C [.eng, .time] = true) : WithinR C s₀ ((opTimeAdjust).act c s) := by
  dsimp only [opTimeAdjust]
  repeat' first
    | dsimp only [withinR_done, withinR_wait, withinR_fail]
    | (with_reducible show WithinR _ _ _; split)
  repeat' first
    | with_reducible assumption
    | exact covers_trans (by decide) hc
    | with_reducible apply bumpPkg_within
    | with_reducible apply scheduleChange_within
    | with_reducible apply modTime_within
    | split
    | with_reducible apply Within.upd
    | exact .inr (covers_mem hc (by decide))
    | with_reducible exact .inl rfl
    | with_reducible exact List.prefix_refl _
    | with_reducible exact Nat.le_refl _
    | with_reducible exact id
    | dsimp only


theorem execTimeAdjust_within {C : List Comp} {s₀ : State} (c : Cmd) {s : State} (h : Within C s₀ s) (hc : covers C [.out, .eng, .mv, .host, .time, .ev, .boot, .hm] = true) : WithinO C s₀ (execTimeAdjust c s) :=
  runOp_within c (fun h => h) (fun h => opTimeAdjust_within c h (covers_trans (by decide) hc)) h (covers_trans (by decide) hc)

theorem takePin_within {C : List Comp} {s₀ : State} (k : Nat) (o : Sched) {s : State} (h : Within C s₀ s) (hc : covers C [.out, .host, .ev] = true) : Within C s₀ (takePin k o s) := by
  unfold takePin
  try dsimp only
  repeat' first
    | with_reducible assumption
    | exact covers_trans (by decide) hc
    | with_reducible apply idlePin_within
    | with_reducible apply modPin_within
    | split
    | with_reducible apply Within.upd
    | exact .inr (covers_mem hc (by decide))
    | with_reducible exact .inl rfl
    | with_reducible exact List.prefix_refl _
    | with_reducible exact Nat.le_refl _
    | with_reducible exact id
    | dsimp only


theorem opSchedCreate_within {C : List Comp} {s₀ : State}  (c : Cmd) {s : State} (h : Within C s₀ s) (hc : covers C [.out, .eng, .host, .time, .ev] = true) : WithinR C s₀ ((opSchedCreate).act c s) := by
  dsimp only [opSchedCreate]
  repeat' first
    | dsimp only [withinR_done, withinR_wait, withinR_fail]
    | (with_reducible show WithinR _ _ _; split)
  repeat' first
    | with_reducible assumption
    | exact covers_trans (by decide) hc
    | with_reducible apply takePin_within
    | with_reducible apply putSched_within
    | with_reducible apply createObj_within
    | with_reducible apply startLate_within
    | (with_reducible apply getD_map_within; rotate_left; intro _)
    | split
    | with_reducible apply Within.upd
    | exact .inr (covers_mem hc (by decide))
    | with_reducible exact .inl rfl
    | with_reducible exact List.prefix_refl _
    | with_reducible exact Nat.le_refl _
    | with_reducible exact id
    | dsimp only


theorem execSchedCreate_within {C : List Comp} {s₀ : State} (c : Cmd) {s : State} (h : Within C s₀ s) (hc : covers C [.out, .eng, .mv, .host, .time, .ev, .boot, .hm] = true) : WithinO C s₀ (execSchedCreate c s) :=
  runOp_within c (fun h => h) (fun h => opSchedCreate_within c h (covers_trans (by decide) hc)) h (covers_trans (by decide) hc)

theorem opSchedQuery_within {C : List Comp} {s₀ : State}  (c : Cmd) {s : State} (h : Within C s₀ s) (_hc : covers C [] = true) : WithinR C s₀ ((opSchedQuery).act c s) := by
  dsimp only [opSchedQuery]
  repeat' first
    | dsimp only [withinR_done, withinR_wait, withinR_fail]
    | (with_reducible show WithinR _ _ _; split)
  repeat' first
    | with_reducible assumption


theorem execSchedQuery_within {C : List Comp} {s₀ : State} (c : Cmd) {s : State} (h : Within C s₀ s) (hc : covers C [.out, .eng, .mv, .host, .ev, .boot, .hm] = true) : WithinO C s₀ (execSchedQuery c s) :=
  runOp_within c (fun h => h) (fun h => opSchedQuery_within c h (covers_trans (by decide) hc)) h (covers_trans (by decide) hc)

theorem opCalSet_within {C : List Comp} {s₀ : State}  (c : Cmd) {s : State} (h : Within C s₀ s) (hc : covers C [.eng, .cal] = true) : WithinR C s₀ ((opCalSet).act c s) := by
  dsimp only [opCalSet]
  repeat' first
    | dsimp only [withinR_done, withinR_wait, withinR_fail]
    | (with_reducible show WithinR _ _ _; split)
  repeat' first
    | with_reducible assumption
    | exact covers_trans (by decide) hc
    | with_reducible apply bumpPkg_within
    | with_reducible apply setCalendar_within
    | split
    | dsimp only


theorem execCalSet_within {C : List Comp} {s₀ : State} (c : Cmd) {s : State} (h : Within C s₀ s) (hc : covers C [.out, .eng, .mv, .host, .cal, .ev, .boot, .hm] = true) : WithinO C s₀ (execCalSet c s) :=
  runOp_within c (fun h => h) (fun h => opCalSet_within c h (covers_trans (by decide) hc)) h (covers_trans (by decide) hc)

theorem opCalQuery_within {C : List Comp} {s₀ : State}  (c : Cmd) {s : State} (h : Within C s₀ s) (_hc : covers C [] = true) : WithinR C s₀ ((opCalQuery).act c s) := by
  dsimp only [opCalQuery]
  repeat' first
    | dsimp only [withinR_done, withinR_wait, withinR_fail]
    | (with_reducible show WithinR _ _ _; split)
  repeat' first
    | with_reducible assumption


theorem execCalQuery_within {C : List Comp} {s₀ : State} (c : Cmd) {s : State} (h : Within C s₀ s) (hc : covers C [.out, .eng, .mv, .host, .ev, .boot, .hm] = true) : WithinO C s₀ (execCalQuery c s) :=
  runOp_within c (fun h => h) (fun h => opCalQuery_within c h (covers_trans (by decide) hc)) h (covers_trans (by decide) hc)

end Sys2Proof.Machine
end

