-- ==== Sys2Proof/Laws/WithinStreams.lean ====
section
/-!
SUPPORT. The operations of Streams: each keeps what `Within` says.
-/
namespace Sys2Proof.Machine
open Sys2Proof
set_option Elab.async false
set_option linter.all false

theorem modBlock_within {C : List Comp} {s₀ : State} (g id : Nat) (f : Block → Block) {s : State} (h : Within C s₀ s) (hc : covers C [.st] = true) : Within C s₀ (modBlock g id f s) := by
  unfold modBlock
  try dsimp only
  repeat' first
    | with_reducible assumption
    | exact covers_trans (by decide) hc
    | with_reducible apply modChannel_within
    | split
    | with_reducible apply Within.upd
    | exact .inr (covers_mem hc (by decide))
    | with_reducible exact .inl rfl
    | with_reducible exact List.prefix_refl _
    | with_reducible exact Nat.le_refl _
    | with_reducible exact id
    | dsimp only


theorem modBlocks_within {C : List Comp} {s₀ : State} (g : Nat) (f : Channel → Block → Block) {s : State} (h : Within C s₀ s) (hc : covers C [.st] = true) : Within C s₀ (modBlocks g f s) := by
  unfold modBlocks
  try dsimp only
  repeat' first
    | with_reducible assumption
    | exact covers_trans (by decide) hc
    | with_reducible apply modChannel_within
    | with_reducible apply Within.upd
    | exact .inr (covers_mem hc (by decide))
    | with_reducible exact .inl rfl
    | with_reducible exact List.prefix_refl _
    | with_reducible exact Nat.le_refl _
    | with_reducible exact id
    | dsimp only


theorem giveUp_within {C : List Comp} {s₀ : State} (g id q at_ : Nat) {s : State} (h : Within C s₀ s) (hc : covers C [.st] = true) : Within C s₀ (giveUp g id q at_ s) := by
  unfold giveUp
  try dsimp only
  repeat' first
    | with_reducible assumption
    | exact covers_trans (by decide) hc
    | with_reducible apply countChannel_within
    | with_reducible apply modBlock_within
    | with_reducible apply Within.upd
    | exact .inr (covers_mem hc (by decide))
    | with_reducible exact .inl rfl
    | with_reducible exact List.prefix_refl _
    | with_reducible exact Nat.le_refl _
    | with_reducible exact id
    | dsimp only


theorem revealGaps_within {C : List Comp} {s₀ : State} (g id q at_ : Nat) {s : State} (h : Within C s₀ s) (hc : covers C [.st] = true) : Within C s₀ (revealGaps g id q at_ s) := by
  unfold revealGaps
  try dsimp only
  repeat' first
    | with_reducible assumption
    | exact covers_trans (by decide) hc
    | with_reducible apply modBlocks_within
    | split
    | dsimp only


theorem execGiveUpTimer_within {C : List Comp} {s₀ : State} (channel : Nat) {s : State} (h : Within C s₀ s) (hc : covers C [.free, .eng, .st, .mv, .ev, .gov, .fs] = true) : WithinO C s₀ (execGiveUpTimer channel s) := by
  unfold execGiveUpTimer
  try dsimp only
  repeat' first
    | dsimp only [withinO_next]
    | (with_reducible show WithinO _ _ _; split)
  repeat' first
    | with_reducible assumption
    | exact covers_trans (by decide) hc
    | with_reducible apply noteReady_within
    | with_reducible apply advance_within
    | with_reducible apply giveUp_within
    | (with_reducible apply foldl_within; rotate_left; (intro _ _ _; try dsimp only))
    | split
    | dsimp only


theorem execQuietTimeout_within {C : List Comp} {s₀ : State} (channel : Nat) {s : State} (h : Within C s₀ s) (hc : covers C [.free, .eng, .st, .mv, .ev, .gov, .fs] = true) : WithinO C s₀ (execQuietTimeout channel s) := by
  unfold execQuietTimeout
  try dsimp only
  repeat' first
    | dsimp only [withinO_next]
    | (with_reducible show WithinO _ _ _; split)
  repeat' first
    | with_reducible assumption
    | exact covers_trans (by decide) hc
    | with_reducible apply noteReady_within
    | with_reducible apply advance_within
    | with_reducible apply modBlocks_within
    | split
    | with_reducible apply Within.upd
    | exact .inr (covers_mem hc (by decide))
    | with_reducible exact .inl rfl
    | with_reducible exact List.prefix_refl _
    | exact List.prefix_append _ _
    | with_reducible exact Nat.le_refl _
    | with_reducible exact id
    | dsimp only


theorem giveUpFirst_within {C : List Comp} {s₀ : State} (g at_ : Nat) (x : Nat × Option Nat) {s : State} (h : Within C s₀ s) (hc : covers C [.st] = true) : Within C s₀ (giveUpFirst g at_ x s) := by
  unfold giveUpFirst
  try dsimp only
  repeat' first
    | with_reducible assumption
    | exact covers_trans (by decide) hc
    | with_reducible apply giveUp_within
    | with_reducible apply modBlock_within
    | split
    | with_reducible apply Within.upd
    | exact .inr (covers_mem hc (by decide))
    | with_reducible exact .inl rfl
    | with_reducible exact List.prefix_refl _
    | with_reducible exact Nat.le_refl _
    | with_reducible exact id
    | dsimp only


theorem shrinkHold_within {C : List Comp} {s₀ : State} (g at_ : Nat) (n₀ : Nat) {s : State} (h : Within C s₀ s) (hc : covers C [.free, .eng, .st, .mv, .ev, .gov, .fs] = true) : Within C s₀ (shrinkHold g at_ n₀ s) := by
  induction n₀ generalizing s with
  | zero => exact h
  | succ n₀ ih =>
    unfold shrinkHold
    try dsimp only
    repeat' first
      | with_reducible assumption
      | with_reducible apply ih
      | exact covers_trans (by decide) hc
      | with_reducible apply advance_within
      | with_reducible apply countChannel_within
      | with_reducible apply giveUpFirst_within
      | split
      | with_reducible apply Within.upd
      | exact .inr (covers_mem hc (by decide))
      | with_reducible exact .inl rfl
      | with_reducible exact List.prefix_refl _
      | with_reducible exact Nat.le_refl _
      | with_reducible exact id
      | dsimp only


theorem forceHold_within {C : List Comp} {s₀ : State} (g at_ : Nat) {s : State} (h : Within C s₀ s) (hc : covers C [.free, .eng, .st, .mv, .ev, .gov, .fs] = true) : Within C s₀ (forceHold g at_ s) := by
  unfold forceHold
  try dsimp only
  repeat' first
    | with_reducible assumption
    | exact covers_trans (by decide) hc
    | with_reducible apply shrinkHold_within
    | with_reducible apply raiseChan_within
    | (with_reducible apply foldl_within; rotate_left; (intro _ _ _; try dsimp only))
    | split
    | dsimp only


theorem forceOldest_within {C : List Comp} {s₀ : State} (g at_ : Nat) {s : State} (h : Within C s₀ s) (hc : covers C [.free, .eng, .st, .mv, .ev, .gov, .ad, .fs] = true) : Within C s₀ (forceOldest g at_ s) := by
  unfold forceOldest
  try dsimp only
  repeat' first
    | with_reducible assumption
    | exact covers_trans (by decide) hc
    | with_reducible apply giveUp_within
    | with_reducible apply modBlock_within
    | with_reducible apply advance_within
    | with_reducible apply takeLeader_within
    | (with_reducible apply foldl_within; rotate_left; (intro _ _ _; try dsimp only))
    | split
    | with_reducible apply Within.upd
    | exact .inr (covers_mem hc (by decide))
    | with_reducible exact .inl rfl
    | with_reducible exact List.prefix_refl _
    | exact List.prefix_append _ _
    | with_reducible exact Nat.le_refl _
    | with_reducible exact id
    | dsimp only


theorem openBlock_within {C : List Comp} {s₀ : State} (g id stamp at_ : Nat) {s : State} (h : Within C s₀ s) (hc : covers C [.free, .eng, .st, .mv, .ev, .gov, .ad, .fs] = true) : Within C s₀ (openBlock g id stamp at_ s) := by
  unfold openBlock
  try dsimp only
  repeat' first
    | with_reducible assumption
    | exact covers_trans (by decide) hc
    | with_reducible apply forceOldest_within
    | with_reducible apply putChannel_within
    | with_reducible apply raiseChan_within
    | split
    | with_reducible apply Within.upd
    | exact .inr (covers_mem hc (by decide))
    | with_reducible exact .inl rfl
    | with_reducible exact List.prefix_refl _
    | exact List.prefix_append _ _
    | with_reducible exact Nat.le_refl _
    | with_reducible exact id
    | with_reducible exact fun g => g.of_eq rfl rfl rfl
    | dsimp only


theorem placePacket_within {C : List Comp} {s₀ : State} (g id : Nat) (p : Gvsp) (f : RxFrame) {s : State} (h : Within C s₀ s) (hc : covers C [.st, .ev] = true) : Within C s₀ (placePacket g id p f s) := by
  unfold placePacket
  try dsimp only
  repeat' first
    | with_reducible assumption
    | exact covers_trans (by decide) hc
    | with_reducible apply countChannel_within
    | with_reducible apply giveUp_within
    | with_reducible apply modBlock_within
    | with_reducible apply raiseChan_within
    | with_reducible apply modChannel_within
    | (with_reducible apply getD_map_within; rotate_left; intro _)
    | split
    | with_reducible apply Within.upd
    | exact .inr (covers_mem hc (by decide))
    | with_reducible exact .inl rfl
    | with_reducible exact List.prefix_refl _
    | exact List.prefix_append _ _
    | with_reducible exact Nat.le_refl _
    | with_reducible exact id
    | dsimp only


theorem dropStale_within {C : List Comp} {s₀ : State} (g id : Nat) (p : Gvsp) (at_ : Nat) {s : State} (h : Within C s₀ s) (hc : covers C [.st] = true) : Within C s₀ (dropStale g id p at_ s) := by
  unfold dropStale
  try dsimp only
  repeat' first
    | with_reducible assumption
    | exact covers_trans (by decide) hc
    | with_reducible apply countChannel_within
    | split
    | with_reducible apply Within.upd
    | exact .inr (covers_mem hc (by decide))
    | with_reducible exact .inl rfl
    | with_reducible exact List.prefix_refl _
    | with_reducible exact Nat.le_refl _
    | with_reducible exact id
    | dsimp only


theorem dropBlock_within {C : List Comp} {s₀ : State} (g id : Nat) {s : State} (h : Within C s₀ s) (hc : covers C [.st] = true) : Within C s₀ (dropBlock g id s) := by
  unfold dropBlock
  try dsimp only
  repeat' first
    | with_reducible assumption
    | exact covers_trans (by decide) hc
    | with_reducible apply modChannel_within
    | split
    | with_reducible apply Within.upd
    | exact .inr (covers_mem hc (by decide))
    | with_reducible exact .inl rfl
    | with_reducible exact List.prefix_refl _
    | with_reducible exact Nat.le_refl _
    | with_reducible exact id
    | dsimp only


theorem receivePacket_within {C : List Comp} {s₀ : State} (g id : Nat) (p : Gvsp) (f : RxFrame) {s : State} (h : Within C s₀ s) (hc : covers C [.free, .eng, .st, .mv, .ev, .gov, .ad, .fs] = true) : Within C s₀ (receivePacket g id p f s) := by
  unfold receivePacket
  try dsimp only
  repeat' first
    | with_reducible assumption
    | exact covers_trans (by decide) hc
    | with_reducible apply countChannel_within
    | with_reducible apply modChannel_within
    | with_reducible apply dropStale_within
    | with_reducible apply revealGaps_within
    | with_reducible apply dropBlock_within
    | with_reducible apply openBlock_within
    | with_reducible apply noteReady_within
    | with_reducible apply advance_within
    | with_reducible apply placePacket_within
    | with_reducible apply forceHold_within
    | (with_reducible apply getD_map_within; rotate_left; intro _)
    | split
    | with_reducible apply Within.upd
    | exact .inr (covers_mem hc (by decide))
    | with_reducible exact .inl rfl
    | with_reducible exact List.prefix_refl _
    | with_reducible exact Nat.le_refl _
    | with_reducible exact id
    | dsimp only


theorem execGvspPacket_within {C : List Comp} {s₀ : State} (lane : Nat) {s : State} (h : Within C s₀ s) (hc : covers C [.free, .eng, .lanes, .st, .mv, .ev, .gov, .ad, .fs] = true) : WithinO C s₀ (execGvspPacket lane s) := by
  unfold execGvspPacket
  try dsimp only
  repeat' first
    | dsimp only [withinO_next]
    | (with_reducible show WithinO _ _ _; split)
  repeat' first
    | with_reducible assumption
    | exact covers_trans (by decide) hc
    | with_reducible apply modLane_within
    | with_reducible apply countChannel_within
    | with_reducible apply modChannel_within
    | with_reducible apply receivePacket_within
    | split
    | with_reducible apply Within.upd
    | exact .inr (covers_mem hc (by decide))
    | with_reducible exact .inl rfl
    | with_reducible exact List.prefix_refl _
    | exact List.prefix_append _ _
    | with_reducible exact Nat.le_refl _
    | with_reducible exact id
    | dsimp only


theorem sendGvcp_within {C : List Comp} {s₀ : State} (l mac dst dport flags command : Nat) (body : List Byte) {s : State} (h : Within C s₀ s) (hc : covers C [.free, .out, .lanes, .st] = true) : Within C s₀ (sendGvcp l mac dst dport flags command body s) := by
  unfold sendGvcp
  try dsimp only
  repeat' first
    | with_reducible assumption
    | exact covers_trans (by decide) hc
    | with_reducible apply sendFrame_within
    | with_reducible apply useFree_within
    | with_reducible apply Within.upd
    | exact .inr (covers_mem hc (by decide))
    | with_reducible exact .inl rfl
    | with_reducible exact List.prefix_refl _
    | with_reducible exact Nat.le_refl _
    | with_reducible exact id
    | with_reducible exact fun g => g.of_eq rfl rfl rfl
    | dsimp only


theorem sendResend_within {C : List Comp} {s₀ : State} (g id a b : Nat) {s : State} (h : Within C s₀ s) (hc : covers C [.free, .out, .lanes, .st] = true) : Within C s₀ (sendResend g id a b s) := by
  unfold sendResend
  try dsimp only
  repeat' first
    | with_reducible assumption
    | exact covers_trans (by decide) hc
    | with_reducible apply countChannel_within
    | with_reducible apply sendGvcp_within
    | split
    | with_reducible apply Within.upd
    | exact .inr (covers_mem hc (by decide))
    | with_reducible exact .inl rfl
    | with_reducible exact List.prefix_refl _
    | exact List.prefix_append _ _
    | with_reducible exact Nat.le_refl _
    | with_reducible exact id
    | dsimp only


theorem requestRun_within {C : List Comp} {s₀ : State} (g id : Nat) (r : Nat × Nat) {s : State} (h : Within C s₀ s) (hc : covers C [.free, .out, .lanes, .st] = true) : Within C s₀ (requestRun g id s r) := by
  unfold requestRun
  try dsimp only
  repeat' first
    | with_reducible assumption
    | exact covers_trans (by decide) hc
    | with_reducible apply sendResend_within
    | with_reducible apply modBlock_within
    | split
    | with_reducible apply Within.upd
    | exact .inr (covers_mem hc (by decide))
    | with_reducible exact .inl rfl
    | with_reducible exact List.prefix_refl _
    | exact List.prefix_append _ _
    | with_reducible exact Nat.le_refl _
    | with_reducible exact id
    | dsimp only


theorem requestBlock_within {C : List Comp} {s₀ : State} (g : Nat) (first : Bool) (b : Block) {s : State} (h : Within C s₀ s) (hc : covers C [.free, .out, .lanes, .st] = true) : Within C s₀ (requestBlock g first s b) := by
  unfold requestBlock
  try dsimp only
  repeat' first
    | with_reducible assumption
    | exact covers_trans (by decide) hc
    | with_reducible apply requestRun_within
    | (with_reducible apply foldl_within; rotate_left; (intro _ _ _; try dsimp only))
    | split
    | dsimp only


theorem modAction_within {C : List Comp} {s₀ : State} (k : Nat) (f : Action → Action) {s : State} (h : Within C s₀ s) (hc : covers C [.st] = true) : Within C s₀ (modAction k f s) := by
  unfold modAction
  try dsimp only
  repeat' first
    | with_reducible assumption
    | exact covers_trans (by decide) hc
    | with_reducible apply Within.upd
    | exact .inr (covers_mem hc (by decide))
    | with_reducible exact .inl rfl
    | with_reducible exact List.prefix_refl _
    | with_reducible exact Nat.le_refl _
    | with_reducible exact id


theorem sendAction_within {C : List Comp} {s₀ : State} (t index due : Nat) {s : State} (h : Within C s₀ s) (hc : covers C [.free, .out, .lanes, .st, .ev] = true) : Within C s₀ (sendAction t index due s) := by
  unfold sendAction
  try dsimp only
  repeat' first
    | with_reducible assumption
    | exact covers_trans (by decide) hc
    | with_reducible apply modAction_within
    | with_reducible apply raise_within
    | with_reducible apply sendGvcp_within
    | split
    | with_reducible apply Within.upd
    | exact .inr (covers_mem hc (by decide))
    | with_reducible exact .inl rfl
    | with_reducible exact List.prefix_refl _
    | with_reducible exact Nat.le_refl _
    | with_reducible exact id
    | dsimp only


theorem opStreamPortSet_within {C : List Comp} {s₀ : State}  (c : Cmd) {s : State} (h : Within C s₀ s) (hc : covers C [.eng, .st] = true) : WithinR C s₀ ((opStreamPortSet).act c s) := by
  dsimp only [opStreamPortSet]
  repeat' first
    | dsimp only [withinR_done, withinR_wait, withinR_fail]
    | (with_reducible show WithinR _ _ _; split)
  repeat' first
    | with_reducible assumption
    | exact covers_trans (by decide) hc
    | with_reducible apply bumpPkg_within
    | split
    | with_reducible apply Within.upd
    | exact .inr (covers_mem hc (by decide))
    | with_reducible exact .inl rfl
    | with_reducible exact List.prefix_refl _
    | with_reducible exact Nat.le_refl _
    | with_reducible exact id


theorem execStreamPortSet_within {C : List Comp} {s₀ : State} (c : Cmd) {s : State} (h : Within C s₀ s) (hc : covers C [.out, .eng, .st, .mv, .host, .ev, .boot, .hm] = true) : WithinO C s₀ (execStreamPortSet c s) :=
  runOp_within c (fun h => h) (fun h => opStreamPortSet_within c h (covers_trans (by decide) hc)) h (covers_trans (by decide) hc)

theorem opStreamSourceSet_within {C : List Comp} {s₀ : State}  (c : Cmd) {s : State} (h : Within C s₀ s) (hc : covers C [.eng, .st] = true) : WithinR C s₀ ((opStreamSourceSet).act c s) := by
  dsimp only [opStreamSourceSet]
  repeat' first
    | dsimp only [withinR_done, withinR_wait, withinR_fail]
    | (with_reducible show WithinR _ _ _; split)
  repeat' first
    | with_reducible assumption
    | exact covers_trans (by decide) hc
    | with_reducible apply bumpPkg_within
    | split
    | with_reducible apply Within.upd
    | exact .inr (covers_mem hc (by decide))
    | with_reducible exact .inl rfl
    | with_reducible exact List.prefix_refl _
    | with_reducible exact Nat.le_refl _
    | with_reducible exact id
    | dsimp only


theorem execStreamSourceSet_within {C : List Comp} {s₀ : State} (c : Cmd) {s : State} (h : Within C s₀ s) (hc : covers C [.out, .eng, .st, .mv, .host, .ev, .boot, .hm] = true) : WithinO C s₀ (execStreamSourceSet c s) :=
  runOp_within c (fun h => h) (fun h => opStreamSourceSet_within c h (covers_trans (by decide) hc)) h (covers_trans (by decide) hc)

theorem clearSlot_within {C : List Comp} {s₀ : State} (g : Nat) {s : State} (h : Within C s₀ s) (hc : covers C [.mv, .cd, .ad, .fs] = true) : Within C s₀ (clearSlot g s) := by
  unfold clearSlot
  try dsimp only
  repeat' first
    | with_reducible assumption
    | exact covers_trans (by decide) hc
    | with_reducible apply Within.upd
    | exact .inr (covers_mem hc (by decide))
    | with_reducible exact .inl rfl
    | with_reducible exact List.prefix_refl _
    | with_reducible exact Nat.le_refl _
    | with_reducible exact id


theorem opStreamCreate_within {C : List Comp} {s₀ : State}  (c : Cmd) {s : State} (h : Within C s₀ s) (hc : covers C [.eng, .st, .mv, .ev, .cd, .ad, .fs] = true) : WithinR C s₀ ((opStreamCreate).act c s) := by
  dsimp only [opStreamCreate]
  repeat' first
    | dsimp only [withinR_done, withinR_wait, withinR_fail]
    | (with_reducible show WithinR _ _ _; split)
  repeat' first
    | with_reducible assumption
    | exact covers_trans (by decide) hc
    | with_reducible apply createObj_within
    | with_reducible apply putChannel_within
    | with_reducible apply clearSlot_within
    | with_reducible apply settleRing_within
    | (with_reducible apply getD_map_within; rotate_left; intro _)
    | split
    | dsimp only


theorem execStreamCreate_within {C : List Comp} {s₀ : State} (c : Cmd) {s : State} (h : Within C s₀ s) (hc : covers C [.out, .eng, .st, .mv, .host, .ev, .boot, .cd, .ad, .hm, .fs] = true) : WithinO C s₀ (execStreamCreate c s) :=
  runOp_within c (fun h => h) (fun h => opStreamCreate_within c h (covers_trans (by decide) hc)) h (covers_trans (by decide) hc)

theorem opStreamConfig_within {C : List Comp} {s₀ : State}  (c : Cmd) {s : State} (h : Within C s₀ s) (hc : covers C [.eng, .st] = true) : WithinR C s₀ ((opStreamConfig).act c s) := by
  dsimp only [opStreamConfig]
  repeat' first
    | dsimp only [withinR_done, withinR_wait, withinR_fail]
    | (with_reducible show WithinR _ _ _; split)
  repeat' first
    | with_reducible assumption
    | exact covers_trans (by decide) hc
    | with_reducible apply perFrame_within


theorem execStreamConfig_within {C : List Comp} {s₀ : State} (c : Cmd) {s : State} (h : Within C s₀ s) (hc : covers C [.out, .eng, .st, .mv, .host, .ev, .boot, .hm] = true) : WithinO C s₀ (execStreamConfig c s) :=
  runOp_within c (fun h => h) (fun h => opStreamConfig_within c h (covers_trans (by decide) hc)) h (covers_trans (by decide) hc)

theorem opStreamQuery_within {C : List Comp} {s₀ : State}  (c : Cmd) {s : State} (h : Within C s₀ s) (_hc : covers C [] = true) : WithinR C s₀ ((opStreamQuery).act c s) := by
  dsimp only [opStreamQuery]
  repeat' first
    | dsimp only [withinR_done, withinR_wait, withinR_fail]
    | (with_reducible show WithinR _ _ _; split)
  repeat' first
    | with_reducible assumption


theorem execStreamQuery_within {C : List Comp} {s₀ : State} (c : Cmd) {s : State} (h : Within C s₀ s) (hc : covers C [.out, .eng, .mv, .host, .ev, .boot, .hm] = true) : WithinO C s₀ (execStreamQuery c s) :=
  runOp_within c (fun h => h) (fun h => opStreamQuery_within c h (covers_trans (by decide) hc)) h (covers_trans (by decide) hc)

theorem opActionSet_within {C : List Comp} {s₀ : State}  (c : Cmd) {s : State} (h : Within C s₀ s) (hc : covers C [.eng, .st] = true) : WithinR C s₀ ((opActionSet).act c s) := by
  dsimp only [opActionSet]
  repeat' first
    | dsimp only [withinR_done, withinR_wait, withinR_fail]
    | (with_reducible show WithinR _ _ _; split)
  repeat' first
    | with_reducible assumption
    | exact covers_trans (by decide) hc
    | with_reducible apply bumpPkg_within
    | with_reducible apply modAction_within
    | split
    | dsimp only


theorem execActionSet_within {C : List Comp} {s₀ : State} (c : Cmd) {s : State} (h : Within C s₀ s) (hc : covers C [.out, .eng, .st, .mv, .host, .ev, .boot, .hm] = true) : WithinO C s₀ (execActionSet c s) :=
  runOp_within c (fun h => h) (fun h => opActionSet_within c h (covers_trans (by decide) hc)) h (covers_trans (by decide) hc)

theorem opActionQuery_within {C : List Comp} {s₀ : State}  (c : Cmd) {s : State} (h : Within C s₀ s) (_hc : covers C [] = true) : WithinR C s₀ ((opActionQuery).act c s) := by
  dsimp only [opActionQuery]
  repeat' first
    | dsimp only [withinR_done, withinR_wait, withinR_fail]
    | (with_reducible show WithinR _ _ _; split)
  repeat' first
    | with_reducible assumption


theorem execActionQuery_within {C : List Comp} {s₀ : State} (c : Cmd) {s : State} (h : Within C s₀ s) (hc : covers C [.out, .eng, .mv, .host, .ev, .boot, .hm] = true) : WithinO C s₀ (execActionQuery c s) :=
  runOp_within c (fun h => h) (fun h => opActionQuery_within c h (covers_trans (by decide) hc)) h (covers_trans (by decide) hc)

end Sys2Proof.Machine
end

