-- ==== Sys2Proof/Laws/WithinActivity.lean ====
section
/-!
SUPPORT. The operations of Activity: each keeps what `Within` says.
-/
namespace Sys2Proof.Machine
open Sys2Proof
set_option Elab.async false
set_option linter.all false

theorem overwriteCopy_within {C : List Comp} {s₀ : State} (g n : Nat) (r : Roi) (f : Frame) (x : Place) {s : State} (h : Within C s₀ s) (hc : covers C [.ad] = true) : Within C s₀ (overwriteCopy g n r f x s) := by
  unfold overwriteCopy
  try dsimp only
  repeat' first
    | with_reducible assumption
    | exact covers_trans (by decide) hc
    | with_reducible apply modAdChan_within
    | (with_reducible apply foldl_within; rotate_left; (intro _ _ _; try dsimp only))
    | split
    | with_reducible apply Within.upd
    | exact .inr (covers_mem hc (by decide))
    | with_reducible exact .inl rfl
    | with_reducible exact List.prefix_refl _
    | with_reducible exact Nat.le_refl _
    | with_reducible exact id
    | dsimp only


theorem decideSlice_within {C : List Comp} {s₀ : State} (g n need : Nat) (share whole : RoiStat) (last : Bool) (f : Frame) {s : State} (h : Within C s₀ s) (hc : covers C [.st, .ev, .ad] = true) : Within C s₀ (decideSlice g n need share whole last s f) := by
  unfold decideSlice
  try dsimp only
  repeat' first
    | with_reducible assumption
    | exact covers_trans (by decide) hc
    | with_reducible apply decideRule_within
    | with_reducible apply modFrame_within
    | (with_reducible apply foldl_within; rotate_left; (intro _ _ _; try dsimp only))
    | (with_reducible apply getD_map_within; rotate_left; intro _)
    | split
    | with_reducible apply Within.upd
    | exact .inr (covers_mem hc (by decide))
    | with_reducible exact .inl rfl
    | with_reducible exact List.prefix_refl _
    | with_reducible exact Nat.le_refl _
    | with_reducible exact id
    | dsimp only


theorem takeSlice_within {C : List Comp} {s₀ : State} (g k : Nat) (f : Frame) (x : Place) (nr : Nat × Roi) {s : State} (h : Within C s₀ s) (hc : covers C [.st, .ev, .ad] = true) : Within C s₀ (takeSlice g k f x s nr) := by
  unfold takeSlice
  try dsimp only
  repeat' first
    | with_reducible assumption
    | exact covers_trans (by decide) hc
    | with_reducible apply modFrame_within
    | with_reducible apply modAdChan_within
    | with_reducible apply overwriteCopy_within
    | with_reducible apply decideSlice_within
    | (with_reducible apply getD_map_within; rotate_left; intro _)
    | split
    | with_reducible apply Within.upd
    | exact .inr (covers_mem hc (by decide))
    | with_reducible exact .inl rfl
    | with_reducible exact List.prefix_refl _
    | with_reducible exact Nat.le_refl _
    | with_reducible exact id
    | with_reducible exact fun g => g.of_eq rfl rfl rfl
    | dsimp only


theorem decideFrame_within {C : List Comp} {s₀ : State} (g k : Nat) (f : Frame) {s : State} (h : Within C s₀ s) (hc : covers C [.st, .ev, .ad] = true) : Within C s₀ (decideFrame g k f s) := by
  unfold decideFrame
  try dsimp only
  repeat' first
    | with_reducible assumption
    | exact covers_trans (by decide) hc
    | with_reducible apply frameDecided_within
    | (with_reducible apply getD_map_within; rotate_left; intro _)
    | split
    | dsimp only


theorem detectBand_within {C : List Comp} {s₀ : State} (g k : Nat) (f : Frame) {s : State} (h : Within C s₀ s) (hc : covers C [.st, .ev, .ad] = true) : Within C s₀ (detectBand g k f s) := by
  unfold detectBand
  try dsimp only
  repeat' first
    | with_reducible assumption
    | exact covers_trans (by decide) hc
    | with_reducible apply takeSlice_within
    | with_reducible apply decideFrame_within
    | (with_reducible apply foldl_within; rotate_left; (intro _ _ _; try dsimp only))
    | split
    | dsimp only


theorem modRef_within {C : List Comp} {s₀ : State} (k : Nat) (f : Reference → Reference) {s : State} (h : Within C s₀ s) (hc : covers C [.ad] = true) : Within C s₀ (modRef k f s) := by
  unfold modRef
  try dsimp only
  repeat' first
    | with_reducible assumption
    | exact covers_trans (by decide) hc
    | with_reducible apply modAd_within
    | split
    | with_reducible apply Within.upd
    | exact .inr (covers_mem hc (by decide))
    | with_reducible exact .inl rfl
    | with_reducible exact List.prefix_refl _
    | with_reducible exact Nat.le_refl _
    | with_reducible exact id
    | dsimp only


theorem captureAll_within {C : List Comp} {s₀ : State} (g : Nat) (f : Frame) {s : State} (h : Within C s₀ s) (hc : covers C [.host, .ad] = true) : Within C s₀ (captureAll g f s) := by
  unfold captureAll
  try dsimp only
  repeat' first
    | with_reducible assumption
    | exact covers_trans (by decide) hc
    | with_reducible apply modAd_within
    | with_reducible apply capture_within
    | split
    | with_reducible apply Within.upd
    | exact .inr (covers_mem hc (by decide))
    | with_reducible exact .inl rfl
    | with_reducible exact List.prefix_refl _
    | with_reducible exact Nat.le_refl _
    | with_reducible exact id
    | dsimp only


theorem execRefCaptured_within {C : List Comp} {s₀ : State} (reference : Nat) {s : State} (h : Within C s₀ s) (hc : covers C [.out, .eng, .mv, .host, .ev, .boot, .ad] = true) : WithinO C s₀ (execRefCaptured reference s) := by
  unfold execRefCaptured
  try dsimp only
  repeat' first
    | dsimp only [withinO_next]
    | (with_reducible show WithinO _ _ _; split)
  repeat' first
    | with_reducible assumption
    | exact covers_trans (by decide) hc
    | with_reducible apply capture_within
    | with_reducible apply modRef_within
    | with_reducible apply raise_within
    | with_reducible apply finish_within
    | split
    | with_reducible apply Within.upd
    | exact .inr (covers_mem hc (by decide))
    | with_reducible exact .inl rfl
    | with_reducible exact List.prefix_refl _
    | with_reducible exact Nat.le_refl _
    | with_reducible exact id
    | dsimp only


theorem dropCapture_within {C : List Comp} {s₀ : State} (k : Nat) (a : Option Answer) {s : State} (h : Within C s₀ s) (hc : covers C [.out, .eng, .mv, .host, .boot, .ad] = true) : Within C s₀ (dropCapture k a s) := by
  unfold dropCapture
  try dsimp only
  repeat' first
    | with_reducible assumption
    | exact covers_trans (by decide) hc
    | with_reducible apply capture_within
    | with_reducible apply modRef_within
    | with_reducible apply finish_within
    | with_reducible apply dropWait_within
    | split
    | with_reducible apply Within.upd
    | exact .inr (covers_mem hc (by decide))
    | with_reducible exact .inl rfl
    | with_reducible exact List.prefix_refl _
    | with_reducible exact Nat.le_refl _
    | with_reducible exact id
    | dsimp only


theorem armRule_within {C : List Comp} {s₀ : State} (k : Nat) {s : State} (h : Within C s₀ s) (hc : covers C [.ad] = true) : Within C s₀ (armRule k s) := by
  unfold armRule
  try dsimp only
  repeat' first
    | with_reducible assumption
    | exact covers_trans (by decide) hc
    | with_reducible apply modAd_within
    | (with_reducible apply getD_map_within; rotate_left; intro _)
    | split
    | with_reducible apply Within.upd
    | exact .inr (covers_mem hc (by decide))
    | with_reducible exact .inl rfl
    | with_reducible exact List.prefix_refl _
    | with_reducible exact Nat.le_refl _
    | with_reducible exact id
    | dsimp only


theorem takeArm_within {C : List Comp} {s₀ : State} (channel n : Nat) {s : State} (h : Within C s₀ s) (hc : covers C [.ev, .ad] = true) : Within C s₀ (takeArm channel n s) := by
  unfold takeArm
  try dsimp only
  repeat' first
    | with_reducible assumption
    | exact covers_trans (by decide) hc
    | with_reducible refine takeInput_within ?_ ?_ (by assumption)
    | with_reducible apply armRule_within
    | (with_reducible apply foldl_within; rotate_left; (intro _ _ _; try dsimp only))
    | split
    | dsimp only


theorem execArmInput_within {C : List Comp} {s₀ : State} (channel n : Nat) {s : State} (h : Within C s₀ s) (hc : covers C [.ev, .ad] = true) : WithinO C s₀ (execArmInput channel n s) := by
  unfold execArmInput
  try dsimp only
  repeat' first
    | dsimp only [withinO_next]
    | (with_reducible show WithinO _ _ _; split)
  repeat' first
    | with_reducible assumption
    | exact covers_trans (by decide) hc
    | with_reducible apply takeArm_within


theorem opAdRoiSet_within {C : List Comp} {s₀ : State}  (c : Cmd) {s : State} (h : Within C s₀ s) (hc : covers C [.eng, .st] = true) : WithinR C s₀ ((opAdRoiSet).act c s) := by
  dsimp only [opAdRoiSet]
  repeat' first
    | dsimp only [withinR_done, withinR_wait, withinR_fail]
    | (with_reducible show WithinR _ _ _; split)
  repeat' first
    | with_reducible assumption
    | exact covers_trans (by decide) hc
    | with_reducible apply perFrame_within
    | split
    | dsimp only


theorem execAdRoiSet_within {C : List Comp} {s₀ : State} (c : Cmd) {s : State} (h : Within C s₀ s) (hc : covers C [.out, .eng, .st, .mv, .host, .ev, .boot, .hm] = true) : WithinO C s₀ (execAdRoiSet c s) :=
  runOp_within c (fun h => h) (fun h => opAdRoiSet_within c h (covers_trans (by decide) hc)) h (covers_trans (by decide) hc)

theorem opAdQuery_within {C : List Comp} {s₀ : State}  (c : Cmd) {s : State} (h : Within C s₀ s) (_hc : covers C [] = true) : WithinR C s₀ ((opAdQuery).act c s) := by
  dsimp only [opAdQuery]
  repeat' first
    | dsimp only [withinR_done, withinR_wait, withinR_fail]
    | (with_reducible show WithinR _ _ _; split)
  repeat' first
    | with_reducible assumption


theorem execAdQuery_within {C : List Comp} {s₀ : State} (c : Cmd) {s : State} (h : Within C s₀ s) (hc : covers C [.out, .eng, .mv, .host, .ev, .boot, .hm] = true) : WithinO C s₀ (execAdQuery c s) :=
  runOp_within c (fun h => h) (fun h => opAdQuery_within c h (covers_trans (by decide) hc)) h (covers_trans (by decide) hc)

theorem opAdRuleCreate_within {C : List Comp} {s₀ : State}  (c : Cmd) {s : State} (h : Within C s₀ s) (hc : covers C [.eng, .st, .ad] = true) : WithinR C s₀ ((opAdRuleCreate).act c s) := by
  dsimp only [opAdRuleCreate]
  repeat' first
    | dsimp only [withinR_done, withinR_wait, withinR_fail]
    | (with_reducible show WithinR _ _ _; split)
  repeat' first
    | with_reducible assumption
    | exact covers_trans (by decide) hc
    | with_reducible apply createObj_within
    | with_reducible apply modAd_within
    | with_reducible apply perFrameOn_within
    | (with_reducible apply getD_map_within; rotate_left; intro _)
    | with_reducible apply Within.upd
    | exact .inr (covers_mem hc (by decide))
    | with_reducible exact .inl rfl
    | with_reducible exact List.prefix_refl _
    | with_reducible exact Nat.le_refl _
    | with_reducible exact id
    | dsimp only


theorem execAdRuleCreate_within {C : List Comp} {s₀ : State} (c : Cmd) {s : State} (h : Within C s₀ s) (hc : covers C [.out, .eng, .st, .mv, .host, .ev, .boot, .ad, .hm] = true) : WithinO C s₀ (execAdRuleCreate c s) :=
  runOp_within c (fun h => h) (fun h => opAdRuleCreate_within c h (covers_trans (by decide) hc)) h (covers_trans (by decide) hc)

theorem armFirst_within {C : List Comp} {s₀ : State} (c : Cmd) {s : State} (h : Within C s₀ s) (hc : covers C [.ev, .ad] = true) : Within C s₀ (armFirst c s) := by
  unfold armFirst
  try dsimp only
  repeat' first
    | with_reducible assumption
    | exact covers_trans (by decide) hc
    | with_reducible apply takeArm_within
    | dsimp only


theorem opAdRuleConfig_first_within {C : List Comp} {s₀ : State}  (c : Cmd) {s : State} (h : Within C s₀ s) (hc : covers C [.eng, .st, .ev, .ad] = true) : Within C s₀ ((opAdRuleConfig).first c s) := by
  dsimp only [opAdRuleConfig]
  repeat' first
    | with_reducible assumption
    | exact covers_trans (by decide) hc
    | with_reducible apply armFirst_within
    | with_reducible apply bumpObj_within
    | with_reducible apply perFrameOn_within
    | (with_reducible apply getD_map_within; rotate_left; intro _)
    | split
    | dsimp only


theorem opAdRuleConfig_within {C : List Comp} {s₀ : State}  (c : Cmd) {s : State} (h : Within C s₀ s) (hc : covers C [.eng, .st, .ev, .ad] = true) : WithinR C s₀ ((opAdRuleConfig).act c s) := by
  dsimp only [opAdRuleConfig]
  repeat' first
    | dsimp only [withinR_done, withinR_wait, withinR_fail]
    | (with_reducible show WithinR _ _ _; split)
  repeat' first
    | with_reducible assumption
    | exact covers_trans (by decide) hc
    | with_reducible apply armFirst_within
    | with_reducible apply bumpObj_within
    | with_reducible apply perFrameOn_within
    | (with_reducible apply getD_map_within; rotate_left; intro _)
    | split
    | dsimp only


theorem execAdRuleConfig_within {C : List Comp} {s₀ : State} (c : Cmd) {s : State} (h : Within C s₀ s) (hc : covers C [.out, .eng, .st, .mv, .host, .ev, .boot, .ad, .hm] = true) : WithinO C s₀ (execAdRuleConfig c s) :=
  runOp_within c (fun h => opAdRuleConfig_first_within c h (covers_trans (by decide) hc)) (fun h => opAdRuleConfig_within c h (covers_trans (by decide) hc)) h (covers_trans (by decide) hc)

theorem opAdRuleArm_first_within {C : List Comp} {s₀ : State}  (c : Cmd) {s : State} (h : Within C s₀ s) (hc : covers C [.ev, .ad] = true) : Within C s₀ ((opAdRuleArm).first c s) := by
  dsimp only [opAdRuleArm]
  repeat' first
    | with_reducible assumption
    | exact covers_trans (by decide) hc
    | with_reducible apply armFirst_within
    | with_reducible apply armRule_within
    | (with_reducible apply getD_map_within; rotate_left; intro _)
    | dsimp only


theorem opAdRuleArm_within {C : List Comp} {s₀ : State}  (c : Cmd) {s : State} (h : Within C s₀ s) (hc : covers C [.ev, .ad] = true) : WithinR C s₀ ((opAdRuleArm).act c s) := by
  dsimp only [opAdRuleArm]
  repeat' first
    | dsimp only [withinR_done, withinR_wait, withinR_fail]
    | (with_reducible show WithinR _ _ _; split)
  repeat' first
    | with_reducible assumption
    | exact covers_trans (by decide) hc
    | with_reducible apply armFirst_within
    | with_reducible apply armRule_within
    | (with_reducible apply getD_map_within; rotate_left; intro _)
    | dsimp only


theorem execAdRuleArm_within {C : List Comp} {s₀ : State} (c : Cmd) {s : State} (h : Within C s₀ s) (hc : covers C [.out, .eng, .mv, .host, .ev, .boot, .ad, .hm] = true) : WithinO C s₀ (execAdRuleArm c s) :=
  runOp_within c (fun h => opAdRuleArm_first_within c h (covers_trans (by decide) hc)) (fun h => opAdRuleArm_within c h (covers_trans (by decide) hc)) h (covers_trans (by decide) hc)

theorem opAdRuleQuery_within {C : List Comp} {s₀ : State}  (c : Cmd) {s : State} (h : Within C s₀ s) (_hc : covers C [] = true) : WithinR C s₀ ((opAdRuleQuery).act c s) := by
  dsimp only [opAdRuleQuery]
  repeat' first
    | dsimp only [withinR_done, withinR_wait, withinR_fail]
    | (with_reducible show WithinR _ _ _; split)
  repeat' first
    | with_reducible assumption


theorem execAdRuleQuery_within {C : List Comp} {s₀ : State} (c : Cmd) {s : State} (h : Within C s₀ s) (hc : covers C [.out, .eng, .mv, .host, .ev, .boot, .hm] = true) : WithinO C s₀ (execAdRuleQuery c s) :=
  runOp_within c (fun h => h) (fun h => opAdRuleQuery_within c h (covers_trans (by decide) hc)) h (covers_trans (by decide) hc)

theorem destroyRule_within {C : List Comp} {s₀ : State} (k : Nat) {s : State} (h : Within C s₀ s) (hc : covers C [.eng, .st, .host, .ev, .ad] = true) : Within C s₀ (destroyRule k s) := by
  unfold destroyRule
  try dsimp only
  repeat' first
    | with_reducible assumption
    | exact covers_trans (by decide) hc
    | with_reducible apply dropObj_within
    | with_reducible apply modChannel_within
    | with_reducible apply modAd_within
    | split
    | with_reducible apply Within.upd
    | exact .inr (covers_mem hc (by decide))
    | with_reducible exact .inl rfl
    | with_reducible exact List.prefix_refl _
    | with_reducible exact Nat.le_refl _
    | with_reducible exact id
    | dsimp only


theorem opAdRuleDestroy_first_within {C : List Comp} {s₀ : State}  (c : Cmd) {s : State} (h : Within C s₀ s) (hc : covers C [.eng, .st, .host, .ev, .ad] = true) : Within C s₀ ((opAdRuleDestroy).first c s) := by
  dsimp only [opAdRuleDestroy]
  repeat' first
    | with_reducible assumption
    | exact covers_trans (by decide) hc
    | with_reducible apply armFirst_within
    | with_reducible apply destroyRule_within


theorem opAdRuleDestroy_within {C : List Comp} {s₀ : State}  (c : Cmd) {s : State} (h : Within C s₀ s) (hc : covers C [.eng, .st, .host, .ev, .ad] = true) : WithinR C s₀ ((opAdRuleDestroy).act c s) := by
  dsimp only [opAdRuleDestroy]
  repeat' first
    | dsimp only [withinR_done, withinR_wait, withinR_fail]
    | (with_reducible show WithinR _ _ _; split)
  repeat' first
    | with_reducible assumption
    | exact covers_trans (by decide) hc
    | with_reducible apply armFirst_within
    | with_reducible apply destroyRule_within


theorem execAdRuleDestroy_within {C : List Comp} {s₀ : State} (c : Cmd) {s : State} (h : Within C s₀ s) (hc : covers C [.out, .eng, .st, .mv, .host, .ev, .boot, .ad, .hm] = true) : WithinO C s₀ (execAdRuleDestroy c s) :=
  runOp_within c (fun h => opAdRuleDestroy_first_within c h (covers_trans (by decide) hc)) (fun h => opAdRuleDestroy_within c h (covers_trans (by decide) hc)) h (covers_trans (by decide) hc)

theorem opAdRefCreate_within {C : List Comp} {s₀ : State}  (c : Cmd) {s : State} (h : Within C s₀ s) (hc : covers C [.eng, .ad] = true) : WithinR C s₀ ((opAdRefCreate).act c s) := by
  dsimp only [opAdRefCreate]
  repeat' first
    | dsimp only [withinR_done, withinR_wait, withinR_fail]
    | (with_reducible show WithinR _ _ _; split)
  repeat' first
    | with_reducible assumption
    | exact covers_trans (by decide) hc
    | with_reducible apply createObj_within
    | with_reducible apply modAd_within
    | (with_reducible apply getD_map_within; rotate_left; intro _)
    | split
    | with_reducible apply Within.upd
    | exact .inr (covers_mem hc (by decide))
    | with_reducible exact .inl rfl
    | with_reducible exact List.prefix_refl _
    | exact List.prefix_append _ _
    | with_reducible exact Nat.le_refl _
    | with_reducible exact id
    | dsimp only


theorem execAdRefCreate_within {C : List Comp} {s₀ : State} (c : Cmd) {s : State} (h : Within C s₀ s) (hc : covers C [.out, .eng, .mv, .host, .ev, .boot, .ad, .hm] = true) : WithinO C s₀ (execAdRefCreate c s) :=
  runOp_within c (fun h => h) (fun h => opAdRefCreate_within c h (covers_trans (by decide) hc)) h (covers_trans (by decide) hc)

theorem opAdRefCapture_within {C : List Comp} {s₀ : State}  (c : Cmd) {s : State} (h : Within C s₀ s) (hc : covers C [.eng, .host, .ad] = true) : WithinR C s₀ ((opAdRefCapture).act c s) := by
  dsimp only [opAdRefCapture]
  repeat' first
    | dsimp only [withinR_done, withinR_wait, withinR_fail]
    | (with_reducible show WithinR _ _ _; split)
  repeat' first
    | with_reducible assumption
    | exact covers_trans (by decide) hc
    | with_reducible apply modRef_within
    | with_reducible apply capture_within
    | with_reducible apply addWait_within
    | with_reducible apply Within.upd
    | exact .inr (covers_mem hc (by decide))
    | with_reducible exact .inl rfl
    | with_reducible exact List.prefix_refl _
    | with_reducible exact Nat.le_refl _
    | with_reducible exact id
    | with_reducible exact fun g => g.of_eq rfl rfl rfl
    | dsimp only


theorem execAdRefCapture_within {C : List Comp} {s₀ : State} (c : Cmd) {s : State} (h : Within C s₀ s) (hc : covers C [.out, .eng, .mv, .host, .ev, .boot, .ad, .hm] = true) : WithinO C s₀ (execAdRefCapture c s) :=
  runOp_within c (fun h => h) (fun h => opAdRefCapture_within c h (covers_trans (by decide) hc)) h (covers_trans (by decide) hc)

theorem destroyRef_within {C : List Comp} {s₀ : State} (k : Nat) {s : State} (h : Within C s₀ s) (hc : covers C [.eng, .host, .ev, .ad] = true) : Within C s₀ (destroyRef k s) := by
  unfold destroyRef
  try dsimp only
  repeat' first
    | with_reducible assumption
    | exact covers_trans (by decide) hc
    | with_reducible apply dropObj_within
    | with_reducible apply modAd_within
    | with_reducible apply Within.upd
    | exact .inr (covers_mem hc (by decide))
    | with_reducible exact .inl rfl
    | with_reducible exact List.prefix_refl _
    | with_reducible exact Nat.le_refl _
    | with_reducible exact id
    | dsimp only


theorem opAdRefDestroy_within {C : List Comp} {s₀ : State}  (c : Cmd) {s : State} (h : Within C s₀ s) (hc : covers C [.eng, .host, .ev, .ad] = true) : WithinR C s₀ ((opAdRefDestroy).act c s) := by
  dsimp only [opAdRefDestroy]
  repeat' first
    | dsimp only [withinR_done, withinR_wait, withinR_fail]
    | (with_reducible show WithinR _ _ _; split)
  repeat' first
    | with_reducible assumption
    | exact covers_trans (by decide) hc
    | with_reducible apply destroyRef_within


theorem execAdRefDestroy_within {C : List Comp} {s₀ : State} (c : Cmd) {s : State} (h : Within C s₀ s) (hc : covers C [.out, .eng, .mv, .host, .ev, .boot, .ad, .hm] = true) : WithinO C s₀ (execAdRefDestroy c s) :=
  runOp_within c (fun h => h) (fun h => opAdRefDestroy_within c h (covers_trans (by decide) hc)) h (covers_trans (by decide) hc)

theorem opAdRefQuery_within {C : List Comp} {s₀ : State}  (c : Cmd) {s : State} (h : Within C s₀ s) (_hc : covers C [] = true) : WithinR C s₀ ((opAdRefQuery).act c s) := by
  dsimp only [opAdRefQuery]
  repeat' first
    | dsimp only [withinR_done, withinR_wait, withinR_fail]
    | (with_reducible show WithinR _ _ _; split)
  repeat' first
    | with_reducible assumption


theorem execAdRefQuery_within {C : List Comp} {s₀ : State} (c : Cmd) {s : State} (h : Within C s₀ s) (hc : covers C [.out, .eng, .mv, .host, .ev, .boot, .hm] = true) : WithinO C s₀ (execAdRefQuery c s) :=
  runOp_within c (fun h => h) (fun h => opAdRefQuery_within c h (covers_trans (by decide) hc)) h (covers_trans (by decide) hc)

end Sys2Proof.Machine
end

