-- ==== Sys2Proof/Laws/WithinCodec.lean ====
section
/-!
SUPPORT. The operations of Codec: each keeps what `Within` says.
-/
namespace Sys2Proof.Machine
open Sys2Proof
set_option Elab.async false
set_option linter.all false

theorem modCd_within {C : List Comp} {s₀ : State} (f : CodecState → CodecState) {s : State} (h : Within C s₀ s) (hc : covers C [.cd] = true) : Within C s₀ (modCd s f) := by
  unfold modCd
  try dsimp only
  repeat' first
    | with_reducible assumption
    | exact covers_trans (by decide) hc
    | with_reducible apply Within.upd
    | exact .inr (covers_mem hc (by decide))
    | with_reducible exact .inl rfl
    | with_reducible exact List.prefix_refl _
    | with_reducible exact Nat.le_refl _
    | with_reducible exact id


theorem modCodecChan_within {C : List Comp} {s₀ : State} (g : Nat) (f : CodecChan → CodecChan) {s : State} (h : Within C s₀ s) (hc : covers C [.cd] = true) : Within C s₀ (modCodecChan g f s) := by
  unfold modCodecChan
  try dsimp only
  repeat' first
    | with_reducible assumption
    | exact covers_trans (by decide) hc
    | with_reducible apply modCd_within
    | with_reducible apply Within.upd
    | exact .inr (covers_mem hc (by decide))
    | with_reducible exact .inl rfl
    | with_reducible exact List.prefix_refl _
    | with_reducible exact Nat.le_refl _
    | with_reducible exact id
    | dsimp only


theorem modEngine_within {C : List Comp} {s₀ : State} (k : Nat) (f : CodecEngine → CodecEngine) {s : State} (h : Within C s₀ s) (hc : covers C [.cd] = true) : Within C s₀ (modEngine k f s) := by
  unfold modEngine
  try dsimp only
  repeat' first
    | with_reducible assumption
    | exact covers_trans (by decide) hc
    | with_reducible apply modCd_within
    | with_reducible apply Within.upd
    | exact .inr (covers_mem hc (by decide))
    | with_reducible exact .inl rfl
    | with_reducible exact List.prefix_refl _
    | with_reducible exact Nat.le_refl _
    | with_reducible exact id
    | with_reducible exact fun g => g.of_eq rfl rfl rfl
    | dsimp only


theorem keepSlices_within {C : List Comp} {s₀ : State} (g handle : Nat) {s : State} (h : Within C s₀ s) (hc : covers C [.cd] = true) : Within C s₀ (keepSlices g handle s) := by
  unfold keepSlices
  try dsimp only
  repeat' first
    | with_reducible assumption
    | exact covers_trans (by decide) hc
    | with_reducible apply modCd_within
    | with_reducible apply Within.upd
    | exact .inr (covers_mem hc (by decide))
    | with_reducible exact .inl rfl
    | with_reducible exact List.prefix_refl _
    | with_reducible exact Nat.le_refl _
    | with_reducible exact id
    | with_reducible exact fun g => g.of_eq rfl rfl rfl
    | dsimp only


theorem modSlice_within {C : List Comp} {s₀ : State} (r : SliceRef) (f : Slice → Slice) {s : State} (h : Within C s₀ s) (hc : covers C [.st] = true) : Within C s₀ (modSlice r f s) := by
  unfold modSlice
  try dsimp only
  repeat' first
    | with_reducible assumption
    | exact covers_trans (by decide) hc
    | with_reducible apply modFrame_within
    | with_reducible apply Within.upd
    | exact .inr (covers_mem hc (by decide))
    | with_reducible exact .inl rfl
    | with_reducible exact List.prefix_refl _
    | with_reducible exact Nat.le_refl _
    | with_reducible exact id
    | dsimp only


theorem startSlices_within {C : List Comp} {s₀ : State} (e : Nat) {s : State} (h : Within C s₀ s) (hc : covers C [.st, .ev, .gov, .cd] = true) : Within C s₀ (startSlices e s) := by
  unfold startSlices
  try dsimp only
  repeat' first
    | with_reducible assumption
    | exact covers_trans (by decide) hc
    | with_reducible apply budget_within
    | with_reducible apply modCodecChan_within
    | with_reducible apply modSlice_within
    | (with_reducible apply foldl_within; rotate_left; (intro _ _ _; try dsimp only))
    | split
    | with_reducible apply Within.upd
    | exact .inr (covers_mem hc (by decide))
    | with_reducible exact .inl rfl
    | with_reducible exact List.prefix_refl _
    | with_reducible exact Nat.le_refl _
    | with_reducible exact id
    | with_reducible exact fun g => g.of_eq rfl rfl rfl
    | dsimp only


theorem writeSlice_within {C : List Comp} {s₀ : State} (r : SliceRef) (bytes : List Byte) (escape : Bool) {s : State} (h : Within C s₀ s) (hc : covers C [.eng, .st, .ev, .gov, .cd, .fs] = true) : Within C s₀ (writeSlice r bytes escape s) := by
  unfold writeSlice
  try dsimp only
  repeat' first
    | with_reducible assumption
    | exact covers_trans (by decide) hc
    | with_reducible apply modSlice_within
    | with_reducible apply modCodecChan_within
    | with_reducible apply budget_within
    | with_reducible apply modFrame_within
    | with_reducible apply sweepFrames_within
    | with_reducible apply modChannel_within
    | (with_reducible apply getD_map_within; rotate_left; intro _)
    | split
    | with_reducible apply Within.upd
    | exact .inr (covers_mem hc (by decide))
    | with_reducible exact .inl rfl
    | with_reducible exact List.prefix_refl _
    | with_reducible exact Nat.le_refl _
    | with_reducible exact id
    | with_reducible exact fun g => g.of_eq rfl rfl rfl
    | dsimp only


theorem raiseEscape_within {C : List Comp} {s₀ : State} (g : Nat) {s : State} (h : Within C s₀ s) (hc : covers C [.ev, .cd] = true) : Within C s₀ (raiseEscape g s) := by
  unfold raiseEscape
  try dsimp only
  repeat' first
    | with_reducible assumption
    | exact covers_trans (by decide) hc
    | with_reducible apply modCodecChan_within
    | with_reducible apply raiseChan_within
    | split
    | with_reducible apply Within.upd
    | exact .inr (covers_mem hc (by decide))
    | with_reducible exact .inl rfl
    | with_reducible exact List.prefix_refl _
    | with_reducible exact Nat.le_refl _
    | with_reducible exact id
    | dsimp only


theorem escapeNow_within {C : List Comp} {s₀ : State} (r : SliceRef) {s : State} (h : Within C s₀ s) (hc : covers C [.eng, .st, .ev, .gov, .cd, .fs] = true) : Within C s₀ (escapeNow r s) := by
  unfold escapeNow
  try dsimp only
  repeat' first
    | with_reducible assumption
    | exact covers_trans (by decide) hc
    | with_reducible apply raiseEscape_within
    | with_reducible apply writeSlice_within
    | with_reducible apply modFrame_within
    | split
    | with_reducible apply Within.upd
    | exact .inr (covers_mem hc (by decide))
    | with_reducible exact .inl rfl
    | with_reducible exact List.prefix_refl _
    | with_reducible exact Nat.le_refl _
    | with_reducible exact id
    | dsimp only


theorem dealSlice_within {C : List Comp} {s₀ : State} (r : SliceRef) {s : State} (h : Within C s₀ s) (hc : covers C [.eng, .st, .ev, .gov, .cd, .fs] = true) : Within C s₀ (dealSlice s r) := by
  unfold dealSlice
  try dsimp only
  repeat' first
    | with_reducible assumption
    | exact covers_trans (by decide) hc
    | with_reducible apply escapeNow_within
    | with_reducible apply modEngine_within
    | with_reducible apply startSlices_within
    | split
    | with_reducible apply Within.upd
    | exact .inr (covers_mem hc (by decide))
    | with_reducible exact .inl rfl
    | with_reducible exact List.prefix_refl _
    | with_reducible exact Nat.le_refl _
    | with_reducible exact id
    | with_reducible exact fun g => g.of_eq rfl rfl rfl
    | dsimp only


theorem execCodecBacklogHigh_within {C : List Comp} {s₀ : State} (tile engine : Nat) {s : State} (h : Within C s₀ s) (hc : covers C [.cd] = true) : WithinO C s₀ (execCodecBacklogHigh tile engine s) := by
  unfold execCodecBacklogHigh
  try dsimp only
  repeat' first
    | dsimp only [withinO_next]
    | (with_reducible show WithinO _ _ _; split)
  repeat' first
    | with_reducible assumption
    | exact covers_trans (by decide) hc
    | with_reducible apply modEngine_within
    | split
    | with_reducible apply Within.upd
    | exact .inr (covers_mem hc (by decide))
    | with_reducible exact .inl rfl
    | with_reducible exact List.prefix_refl _
    | with_reducible exact Nat.le_refl _
    | with_reducible exact id
    | with_reducible exact fun g => g.of_eq rfl rfl rfl
    | dsimp only


theorem execCodecBacklogLow_within {C : List Comp} {s₀ : State} (tile engine : Nat) {s : State} (h : Within C s₀ s) (hc : covers C [.cd] = true) : WithinO C s₀ (execCodecBacklogLow tile engine s) := by
  unfold execCodecBacklogLow
  try dsimp only
  repeat' first
    | dsimp only [withinO_next]
    | (with_reducible show WithinO _ _ _; split)
  repeat' first
    | with_reducible assumption
    | exact covers_trans (by decide) hc
    | with_reducible apply modEngine_within
    | split
    | with_reducible apply Within.upd
    | exact .inr (covers_mem hc (by decide))
    | with_reducible exact .inl rfl
    | with_reducible exact List.prefix_refl _
    | with_reducible exact Nat.le_refl _
    | with_reducible exact id
    | with_reducible exact fun g => g.of_eq rfl rfl rfl
    | dsimp only


theorem takeBand_within {C : List Comp} {s₀ : State} (g : Nat) (f : Frame) {s : State} (h : Within C s₀ s) (hc : covers C [.eng, .st, .ev, .gov, .cd, .ad, .fs] = true) : Within C s₀ (takeBand g f s) := by
  unfold takeBand
  try dsimp only
  repeat' first
    | with_reducible assumption
    | exact covers_trans (by decide) hc
    | with_reducible apply modFrame_within
    | with_reducible apply detectBand_within
    | with_reducible apply dealSlice_within
    | (with_reducible apply foldl_within; rotate_left; (intro _ _ _; try dsimp only))
    | split
    | with_reducible apply Within.upd
    | exact .inr (covers_mem hc (by decide))
    | with_reducible exact .inl rfl
    | with_reducible exact List.prefix_refl _
    | exact List.prefix_append _ _
    | with_reducible exact Nat.le_refl _
    | with_reducible exact id
    | with_reducible exact fun g => g.of_eq rfl rfl rfl
    | dsimp only


theorem execBandToCodec_within {C : List Comp} {s₀ : State} (channel : Nat) {s : State} (h : Within C s₀ s) (hc : covers C [.eng, .st, .ev, .gov, .cd, .ad, .fs] = true) : WithinO C s₀ (execBandToCodec channel s) := by
  unfold execBandToCodec
  try dsimp only
  repeat' first
    | dsimp only [withinO_next]
    | (with_reducible show WithinO _ _ _; split)
  repeat' first
    | with_reducible assumption
    | exact covers_trans (by decide) hc
    | with_reducible apply takeBand_within
    | split


theorem failCheck_within {C : List Comp} {s₀ : State} (g e : Nat) (injected : Bool) {s : State} (h : Within C s₀ s) (hc : covers C [.ev, .cd, .hm] = true) : Within C s₀ (failCheck g e injected s) := by
  unfold failCheck
  try dsimp only
  repeat' first
    | with_reducible assumption
    | exact covers_trans (by decide) hc
    | with_reducible apply modEngine_within
    | with_reducible apply modCodecChan_within
    | with_reducible apply raise_within
    | with_reducible apply detectorFires_within
    | split
    | with_reducible apply Within.upd
    | exact .inr (covers_mem hc (by decide))
    | with_reducible exact .inl rfl
    | with_reducible exact List.prefix_refl _
    | with_reducible exact Nat.le_refl _
    | with_reducible exact id
    | dsimp only


theorem finishSlice_within {C : List Comp} {s₀ : State} (tile engine index : Nat) (matches_ sure : Bool) {s : State} (h : Within C s₀ s) (hc : covers C [.free, .eng, .st, .ev, .gov, .cd, .hm, .fs] = true) : Within C s₀ (finishSlice tile engine index matches_ sure s) := by
  unfold finishSlice
  try dsimp only
  repeat' first
    | with_reducible assumption
    | exact covers_trans (by decide) hc
    | with_reducible apply modEngine_within
    | with_reducible apply startSlices_within
    | with_reducible apply useFree_within
    | with_reducible apply consumeInjection_within
    | with_reducible apply failCheck_within
    | with_reducible apply writeSlice_within
    | split
    | with_reducible apply Within.upd
    | exact .inr (covers_mem hc (by decide))
    | with_reducible exact .inl rfl
    | with_reducible exact List.prefix_refl _
    | exact List.prefix_append _ _
    | with_reducible exact Nat.le_refl _
    | with_reducible exact id
    | with_reducible exact fun g => g.of_eq rfl rfl rfl
    | dsimp only


theorem execSliceCoded_within {C : List Comp} {s₀ : State} (tile engine index : Nat) (matches_ : Bool) {s : State} (h : Within C s₀ s) (hc : covers C [.free, .eng, .st, .ev, .gov, .cd, .hm, .fs] = true) : WithinO C s₀ (execSliceCoded tile engine index matches_ s) := by
  unfold execSliceCoded
  try dsimp only
  repeat' first
    | dsimp only [withinO_next]
    | (with_reducible show WithinO _ _ _; split)
  repeat' first
    | with_reducible assumption
    | exact covers_trans (by decide) hc
    | with_reducible apply finishSlice_within


theorem execEngineSuspect_within {C : List Comp} {s₀ : State} (tile engine : Nat) {s : State} (h : Within C s₀ s) (hc : covers C [.eng, .st, .ev, .gov, .cd, .fs] = true) : WithinO C s₀ (execEngineSuspect tile engine s) := by
  unfold execEngineSuspect
  try dsimp only
  repeat' first
    | dsimp only [withinO_next]
    | (with_reducible show WithinO _ _ _; split)
  repeat' first
    | with_reducible assumption
    | exact covers_trans (by decide) hc
    | with_reducible apply modEngine_within
    | with_reducible apply raise_within
    | with_reducible apply dealSlice_within
    | (with_reducible apply foldl_within; rotate_left; (intro _ _ _; try dsimp only))
    | split
    | with_reducible apply Within.upd
    | exact .inr (covers_mem hc (by decide))
    | with_reducible exact .inl rfl
    | with_reducible exact List.prefix_refl _
    | with_reducible exact Nat.le_refl _
    | with_reducible exact id
    | with_reducible exact fun g => g.of_eq rfl rfl rfl
    | dsimp only


theorem execLevelTableBuilt_within {C : List Comp} {s₀ : State} (channel : Nat) {s : State} (h : Within C s₀ s) (hc : covers C [.st] = true) : WithinO C s₀ (execLevelTableBuilt channel s) := by
  unfold execLevelTableBuilt
  try dsimp only
  repeat' first
    | dsimp only [withinO_next]
    | (with_reducible show WithinO _ _ _; split)
  repeat' first
    | with_reducible assumption
    | exact covers_trans (by decide) hc
    | with_reducible apply modChannel_within
    | split
    | with_reducible apply Within.upd
    | exact .inr (covers_mem hc (by decide))
    | with_reducible exact .inl rfl
    | with_reducible exact List.prefix_refl _
    | with_reducible exact Nat.le_refl _
    | with_reducible exact id
    | dsimp only


theorem sampleAll_within {C : List Comp} {s₀ : State} (g : Nat) (f : Frame) {s : State} (h : Within C s₀ s) (hc : covers C [.cd] = true) : Within C s₀ (sampleAll g f s) := by
  unfold sampleAll
  try dsimp only
  repeat' first
    | with_reducible assumption
    | exact covers_trans (by decide) hc
    | with_reducible apply modCodecChan_within
    | with_reducible apply Within.upd
    | exact .inr (covers_mem hc (by decide))
    | with_reducible exact .inl rfl
    | with_reducible exact List.prefix_refl _
    | with_reducible exact Nat.le_refl _
    | with_reducible exact id
    | dsimp only


theorem execCalSampleDone_within {C : List Comp} {s₀ : State} (channel : Nat) {s : State} (h : Within C s₀ s) (hc : covers C [.out, .eng, .mv, .host, .boot, .cd] = true) : WithinO C s₀ (execCalSampleDone channel s) := by
  unfold execCalSampleDone
  try dsimp only
  repeat' first
    | dsimp only [withinO_next]
    | (with_reducible show WithinO _ _ _; split)
  repeat' first
    | with_reducible assumption
    | exact covers_trans (by decide) hc
    | with_reducible apply modCodecChan_within
    | with_reducible apply finish_within
    | split
    | with_reducible apply Within.upd
    | exact .inr (covers_mem hc (by decide))
    | with_reducible exact .inl rfl
    | with_reducible exact List.prefix_refl _
    | with_reducible exact Nat.le_refl _
    | with_reducible exact id
    | with_reducible exact fun g => g.of_eq rfl rfl rfl
    | dsimp only


theorem dropSample_within {C : List Comp} {s₀ : State} (g : Nat) (a : Option Answer) {s : State} (h : Within C s₀ s) (hc : covers C [.out, .eng, .mv, .host, .boot, .cd] = true) : Within C s₀ (dropSample g a s) := by
  unfold dropSample
  try dsimp only
  repeat' first
    | with_reducible assumption
    | exact covers_trans (by decide) hc
    | with_reducible apply modCodecChan_within
    | with_reducible apply finish_within
    | with_reducible apply dropWait_within
    | split
    | with_reducible apply Within.upd
    | exact .inr (covers_mem hc (by decide))
    | with_reducible exact .inl rfl
    | with_reducible exact List.prefix_refl _
    | with_reducible exact Nat.le_refl _
    | with_reducible exact id
    | dsimp only


theorem opCdConfig_within {C : List Comp} {s₀ : State}  (c : Cmd) {s : State} (h : Within C s₀ s) (hc : covers C [.eng, .st] = true) : WithinR C s₀ ((opCdConfig).act c s) := by
  dsimp only [opCdConfig]
  repeat' first
    | dsimp only [withinR_done, withinR_wait, withinR_fail]
    | (with_reducible show WithinR _ _ _; split)
  repeat' first
    | with_reducible assumption
    | exact covers_trans (by decide) hc
    | with_reducible apply perFrame_within
    | split
    | dsimp only


theorem execCdConfig_within {C : List Comp} {s₀ : State} (c : Cmd) {s : State} (h : Within C s₀ s) (hc : covers C [.out, .eng, .st, .mv, .host, .ev, .boot, .hm] = true) : WithinO C s₀ (execCdConfig c s) :=
  runOp_within c (fun h => h) (fun h => opCdConfig_within c h (covers_trans (by decide) hc)) h (covers_trans (by decide) hc)

theorem opCdQuery_within {C : List Comp} {s₀ : State}  (c : Cmd) {s : State} (h : Within C s₀ s) (_hc : covers C [] = true) : WithinR C s₀ ((opCdQuery).act c s) := by
  dsimp only [opCdQuery]
  repeat' first
    | dsimp only [withinR_done, withinR_wait, withinR_fail]
    | (with_reducible show WithinR _ _ _; split)
  repeat' first
    | with_reducible assumption


theorem execCdQuery_within {C : List Comp} {s₀ : State} (c : Cmd) {s : State} (h : Within C s₀ s) (hc : covers C [.out, .eng, .mv, .host, .ev, .boot, .hm] = true) : WithinO C s₀ (execCdQuery c s) :=
  runOp_within c (fun h => h) (fun h => opCdQuery_within c h (covers_trans (by decide) hc)) h (covers_trans (by decide) hc)

theorem assignCal_within {C : List Comp} {s₀ : State} (g : Nat) {s : State} (h : Within C s₀ s) (hc : covers C [.cd] = true) : Within C s₀ (assignCal g s) := by
  unfold assignCal
  try dsimp only
  repeat' first
    | with_reducible assumption
    | exact covers_trans (by decide) hc
    | with_reducible apply modCodecChan_within
    | with_reducible apply Within.upd
    | exact .inr (covers_mem hc (by decide))
    | with_reducible exact .inl rfl
    | with_reducible exact List.prefix_refl _
    | with_reducible exact Nat.le_refl _
    | with_reducible exact id
    | dsimp only


theorem opCdCalSet_within {C : List Comp} {s₀ : State}  (c : Cmd) {s : State} (h : Within C s₀ s) (hc : covers C [.eng, .st, .cd] = true) : WithinR C s₀ ((opCdCalSet).act c s) := by
  dsimp only [opCdCalSet]
  repeat' first
    | dsimp only [withinR_done, withinR_wait, withinR_fail]
    | (with_reducible show WithinR _ _ _; split)
  repeat' first
    | with_reducible assumption
    | exact covers_trans (by decide) hc
    | with_reducible apply perFrame_within
    | with_reducible apply assignCal_within
    | dsimp only


theorem execCdCalSet_within {C : List Comp} {s₀ : State} (c : Cmd) {s : State} (h : Within C s₀ s) (hc : covers C [.out, .eng, .st, .mv, .host, .ev, .boot, .cd, .hm] = true) : WithinO C s₀ (execCdCalSet c s) :=
  runOp_within c (fun h => h) (fun h => opCdCalSet_within c h (covers_trans (by decide) hc)) h (covers_trans (by decide) hc)

theorem opCdCalSample_within {C : List Comp} {s₀ : State}  (c : Cmd) {s : State} (h : Within C s₀ s) (hc : covers C [.eng, .cd] = true) : WithinR C s₀ ((opCdCalSample).act c s) := by
  dsimp only [opCdCalSample]
  repeat' first
    | dsimp only [withinR_done, withinR_wait, withinR_fail]
    | (with_reducible show WithinR _ _ _; split)
  repeat' first
    | with_reducible assumption
    | exact covers_trans (by decide) hc
    | with_reducible apply modCodecChan_within
    | with_reducible apply addWait_within
    | split
    | with_reducible apply Within.upd
    | exact .inr (covers_mem hc (by decide))
    | with_reducible exact .inl rfl
    | with_reducible exact List.prefix_refl _
    | exact List.prefix_append _ _
    | with_reducible exact Nat.le_refl _
    | with_reducible exact id
    | with_reducible exact fun g => g.of_eq rfl rfl rfl
    | dsimp only


theorem execCdCalSample_within {C : List Comp} {s₀ : State} (c : Cmd) {s : State} (h : Within C s₀ s) (hc : covers C [.out, .eng, .mv, .host, .ev, .boot, .cd, .hm] = true) : WithinO C s₀ (execCdCalSample c s) :=
  runOp_within c (fun h => h) (fun h => opCdCalSample_within c h (covers_trans (by decide) hc)) h (covers_trans (by decide) hc)

theorem opCdCalFit_within {C : List Comp} {s₀ : State}  (c : Cmd) {s : State} (h : Within C s₀ s) (hc : covers C [.free, .eng, .st, .cd] = true) : WithinR C s₀ ((opCdCalFit).act c s) := by
  dsimp only [opCdCalFit]
  repeat' first
    | dsimp only [withinR_done, withinR_wait, withinR_fail]
    | (with_reducible show WithinR _ _ _; split)
  repeat' first
    | with_reducible assumption
    | exact covers_trans (by decide) hc
    | with_reducible apply useFree_within
    | with_reducible apply perFrame_within
    | with_reducible apply assignCal_within
    | split
    | with_reducible apply Within.upd
    | exact .inr (covers_mem hc (by decide))
    | with_reducible exact .inl rfl
    | with_reducible exact List.prefix_refl _
    | with_reducible exact Nat.le_refl _
    | with_reducible exact id
    | dsimp only


theorem execCdCalFit_within {C : List Comp} {s₀ : State} (c : Cmd) {s : State} (h : Within C s₀ s) (hc : covers C [.free, .out, .eng, .st, .mv, .host, .ev, .boot, .cd, .hm] = true) : WithinO C s₀ (execCdCalFit c s) :=
  runOp_within c (fun h => h) (fun h => opCdCalFit_within c h (covers_trans (by decide) hc)) h (covers_trans (by decide) hc)

theorem opCdTableRead_within {C : List Comp} {s₀ : State}  (c : Cmd) {s : State} (h : Within C s₀ s) (_hc : covers C [] = true) : WithinR C s₀ ((opCdTableRead).act c s) := by
  dsimp only [opCdTableRead]
  repeat' first
    | dsimp only [withinR_done, withinR_wait, withinR_fail]
    | (with_reducible show WithinR _ _ _; split)
  repeat' first
    | with_reducible assumption
    | split
    | dsimp only


theorem execCdTableRead_within {C : List Comp} {s₀ : State} (c : Cmd) {s : State} (h : Within C s₀ s) (hc : covers C [.out, .eng, .mv, .host, .ev, .boot, .hm] = true) : WithinO C s₀ (execCdTableRead c s) :=
  runOp_within c (fun h => h) (fun h => opCdTableRead_within c h (covers_trans (by decide) hc)) h (covers_trans (by decide) hc)

theorem opCdCheckSet_within {C : List Comp} {s₀ : State}  (c : Cmd) {s : State} (h : Within C s₀ s) (hc : covers C [.eng, .cd] = true) : WithinR C s₀ ((opCdCheckSet).act c s) := by
  dsimp only [opCdCheckSet]
  repeat' first
    | dsimp only [withinR_done, withinR_wait, withinR_fail]
    | (with_reducible show WithinR _ _ _; split)
  repeat' first
    | with_reducible assumption
    | exact covers_trans (by decide) hc
    | with_reducible apply bumpPkg_within
    | with_reducible apply modCd_within
    | split
    | with_reducible apply Within.upd
    | exact .inr (covers_mem hc (by decide))
    | with_reducible exact .inl rfl
    | with_reducible exact List.prefix_refl _
    | with_reducible exact Nat.le_refl _
    | with_reducible exact id
    | dsimp only


theorem execCdCheckSet_within {C : List Comp} {s₀ : State} (c : Cmd) {s : State} (h : Within C s₀ s) (hc : covers C [.out, .eng, .mv, .host, .ev, .boot, .cd, .hm] = true) : WithinO C s₀ (execCdCheckSet c s) :=
  runOp_within c (fun h => h) (fun h => opCdCheckSet_within c h (covers_trans (by decide) hc)) h (covers_trans (by decide) hc)

theorem opCdEngineRestore_within {C : List Comp} {s₀ : State} (pass : Bool) (c : Cmd) {s : State} (h : Within C s₀ s) (hc : covers C [.cd] = true) : WithinR C s₀ ((opCdEngineRestore pass).act c s) := by
  dsimp only [opCdEngineRestore]
  repeat' first
    | dsimp only [withinR_done, withinR_wait, withinR_fail]
    | (with_reducible show WithinR _ _ _; split)
  repeat' first
    | with_reducible assumption
    | exact covers_trans (by decide) hc
    | with_reducible apply modEngine_within
    | split
    | with_reducible apply Within.upd
    | exact .inr (covers_mem hc (by decide))
    | with_reducible exact .inl rfl
    | with_reducible exact List.prefix_refl _
    | with_reducible exact Nat.le_refl _
    | with_reducible exact id
    | with_reducible exact fun g => g.of_eq rfl rfl rfl
    | dsimp only


theorem execCdEngineRestore_within {C : List Comp} {s₀ : State} (c : Cmd) (pass : Bool) {s : State} (h : Within C s₀ s) (hc : covers C [.out, .eng, .mv, .host, .ev, .boot, .cd, .hm] = true) : WithinO C s₀ (execCdEngineRestore c pass s) :=
  runOp_within c (fun h => h) (fun h => opCdEngineRestore_within pass c h (covers_trans (by decide) hc)) h (covers_trans (by decide) hc)

end Sys2Proof.Machine
end

