-- ==== Sys2Proof/Laws/WithinAssembly.lean ====
section
/-!
SUPPORT. The operations of Assembly: each keeps what `Within` says.
-/
namespace Sys2Proof.Machine
open Sys2Proof
set_option Elab.async false
set_option linter.all false

theorem execFrameLeader_within {C : List Comp} {s₀ : State} (channel : Nat) {s : State} (h : Within C s₀ s) (hc : covers C [.free, .eng, .st, .mv, .ev, .gov, .ad, .fs] = true) : WithinO C s₀ (execFrameLeader channel s) := by
  unfold execFrameLeader
  try dsimp only
  repeat' first
    | dsimp only [withinO_next]
    | (with_reducible show WithinO _ _ _; split)
  repeat' first
    | with_reducible assumption
    | exact covers_trans (by decide) hc
    | with_reducible apply noteReady_within
    | with_reducible apply advance_within
    | with_reducible apply takeLeader_within


theorem takePosition_within {C : List Comp} {s₀ : State} (g : Nat) (f : Frame) (n : Nat) {s : State} (h : Within C s₀ s) (hc : covers C [.st, .ev] = true) : Within C s₀ (takePosition g f s n) := by
  unfold takePosition
  try dsimp only
  repeat' first
    | with_reducible assumption
    | exact covers_trans (by decide) hc
    | with_reducible apply modFrame_within
    | with_reducible apply countStale_within
    | split
    | with_reducible apply Within.upd
    | exact .inr (covers_mem hc (by decide))
    | with_reducible exact .inl rfl
    | with_reducible exact List.prefix_refl _
    | with_reducible exact Nat.le_refl _
    | with_reducible exact id
    | dsimp only


theorem execPositionAtMidtime_within {C : List Comp} {s₀ : State} (channel : Nat) {s : State} (h : Within C s₀ s) (hc : covers C [.st, .ev] = true) : WithinO C s₀ (execPositionAtMidtime channel s) := by
  unfold execPositionAtMidtime
  try dsimp only
  repeat' first
    | dsimp only [withinO_next]
    | (with_reducible show WithinO _ _ _; split)
  repeat' first
    | with_reducible assumption
    | exact covers_trans (by decide) hc
    | with_reducible apply takePosition_within
    | (with_reducible apply foldl_within; rotate_left; (intro _ _ _; try dsimp only))
    | split
    | dsimp only


theorem execTagComplete_within {C : List Comp} {s₀ : State} (channel : Nat) {s : State} (h : Within C s₀ s) (hc : covers C [.eng, .st, .host, .ev, .cd, .ad, .fs] = true) : WithinO C s₀ (execTagComplete channel s) := by
  unfold execTagComplete
  try dsimp only
  repeat' first
    | dsimp only [withinO_next]
    | (with_reducible show WithinO _ _ _; split)
  repeat' first
    | with_reducible assumption
    | exact covers_trans (by decide) hc
    | with_reducible apply modFrame_within
    | with_reducible apply countChannel_within
    | with_reducible apply sweepFrames_within
    | with_reducible apply captureAll_within
    | with_reducible apply sampleAll_within
    | split
    | with_reducible apply Within.upd
    | exact .inr (covers_mem hc (by decide))
    | with_reducible exact .inl rfl
    | with_reducible exact List.prefix_refl _
    | with_reducible exact Nat.le_refl _
    | with_reducible exact id
    | dsimp only


theorem applyCommit_within {C : List Comp} {s₀ : State} (g : Nat) (p : PendingCommit) {s : State} (h : Within C s₀ s) (hc : covers C [.out, .eng, .st, .mv, .host, .ev, .boot, .cd, .fs] = true) : Within C s₀ (applyCommit g p s) := by
  unfold applyCommit
  try dsimp only
  repeat' first
    | with_reducible assumption
    | exact covers_trans (by decide) hc
    | with_reducible apply putChannel_within
    | with_reducible apply modCodecChan_within
    | with_reducible apply raiseChan_within
    | with_reducible apply settleRing_within
    | with_reducible apply raise_within
    | with_reducible apply finish_within
    | (with_reducible apply getD_map_within; rotate_left; intro _)
    | split
    | with_reducible apply Within.upd
    | exact .inr (covers_mem hc (by decide))
    | with_reducible exact .inl rfl
    | with_reducible exact List.prefix_refl _
    | with_reducible exact Nat.le_refl _
    | with_reducible exact id
    | dsimp only


theorem execConfigCommitApplied_within {C : List Comp} {s₀ : State} (channel : Nat) {s : State} (h : Within C s₀ s) (hc : covers C [.out, .eng, .st, .mv, .host, .ev, .boot, .cd, .fs] = true) : WithinO C s₀ (execConfigCommitApplied channel s) := by
  unfold execConfigCommitApplied
  try dsimp only
  repeat' first
    | dsimp only [withinO_next]
    | (with_reducible show WithinO _ _ _; split)
  repeat' first
    | with_reducible assumption
    | exact covers_trans (by decide) hc
    | with_reducible apply applyCommit_within
    | split


theorem execStageCommitAt_within {C : List Comp} {s₀ : State} (channel : Nat) {s : State} (h : Within C s₀ s) (hc : covers C [.out, .eng, .st, .mv, .host, .ev, .boot, .cd, .fs] = true) : WithinO C s₀ (execStageCommitAt channel s) := by
  unfold execStageCommitAt
  try dsimp only
  repeat' first
    | dsimp only [withinO_next]
    | (with_reducible show WithinO _ _ _; split)
  repeat' first
    | with_reducible assumption
    | exact covers_trans (by decide) hc
    | with_reducible apply applyCommit_within
    | with_reducible apply modChannel_within
    | split
    | with_reducible apply Within.upd
    | exact .inr (covers_mem hc (by decide))
    | with_reducible exact .inl rfl
    | with_reducible exact List.prefix_refl _
    | with_reducible exact Nat.le_refl _
    | with_reducible exact id
    | dsimp only


theorem abortStage_within {C : List Comp} {s₀ : State} (g : Nat) {s : State} (h : Within C s₀ s) (hc : covers C [.eng, .st] = true) : Within C s₀ (abortStage g s) := by
  unfold abortStage
  try dsimp only
  repeat' first
    | with_reducible assumption
    | exact covers_trans (by decide) hc
    | with_reducible apply bumpObj_within
    | with_reducible apply modChannel_within
    | (with_reducible apply getD_map_within; rotate_left; intro _)
    | split
    | with_reducible apply Within.upd
    | exact .inr (covers_mem hc (by decide))
    | with_reducible exact .inl rfl
    | with_reducible exact List.prefix_refl _
    | with_reducible exact Nat.le_refl _
    | with_reducible exact id
    | dsimp only


theorem opFaConfig_within {C : List Comp} {s₀ : State}  (c : Cmd) {s : State} (h : Within C s₀ s) (hc : covers C [.eng, .st] = true) : WithinR C s₀ ((opFaConfig).act c s) := by
  dsimp only [opFaConfig]
  repeat' first
    | dsimp only [withinR_done, withinR_wait, withinR_fail]
    | (with_reducible show WithinR _ _ _; split)
  repeat' first
    | with_reducible assumption
    | exact covers_trans (by decide) hc
    | with_reducible apply perFrame_within
    | dsimp only


theorem execFaConfig_within {C : List Comp} {s₀ : State} (c : Cmd) {s : State} (h : Within C s₀ s) (hc : covers C [.out, .eng, .st, .mv, .host, .ev, .boot, .hm] = true) : WithinO C s₀ (execFaConfig c s) :=
  runOp_within c (fun h => h) (fun h => opFaConfig_within c h (covers_trans (by decide) hc)) h (covers_trans (by decide) hc)

theorem opFaQuery_within {C : List Comp} {s₀ : State}  (c : Cmd) {s : State} (h : Within C s₀ s) (_hc : covers C [] = true) : WithinR C s₀ ((opFaQuery).act c s) := by
  dsimp only [opFaQuery]
  repeat' first
    | dsimp only [withinR_done, withinR_wait, withinR_fail]
    | (with_reducible show WithinR _ _ _; split)
  repeat' first
    | with_reducible assumption


theorem execFaQuery_within {C : List Comp} {s₀ : State} (c : Cmd) {s : State} (h : Within C s₀ s) (hc : covers C [.out, .eng, .mv, .host, .ev, .boot, .hm] = true) : WithinO C s₀ (execFaQuery c s) :=
  runOp_within c (fun h => h) (fun h => opFaQuery_within c h (covers_trans (by decide) hc)) h (covers_trans (by decide) hc)

theorem opFaStageBegin_within {C : List Comp} {s₀ : State}  (c : Cmd) {s : State} (h : Within C s₀ s) (hc : covers C [.st] = true) : WithinR C s₀ ((opFaStageBegin).act c s) := by
  dsimp only [opFaStageBegin]
  repeat' first
    | dsimp only [withinR_done, withinR_wait, withinR_fail]
    | (with_reducible show WithinR _ _ _; split)
  repeat' first
    | with_reducible assumption
    | exact covers_trans (by decide) hc
    | with_reducible apply modChannel_within
    | with_reducible apply Within.upd
    | exact .inr (covers_mem hc (by decide))
    | with_reducible exact .inl rfl
    | with_reducible exact List.prefix_refl _
    | with_reducible exact Nat.le_refl _
    | with_reducible exact id
    | dsimp only


theorem execFaStageBegin_within {C : List Comp} {s₀ : State} (c : Cmd) {s : State} (h : Within C s₀ s) (hc : covers C [.out, .eng, .st, .mv, .host, .ev, .boot, .hm] = true) : WithinO C s₀ (execFaStageBegin c s) :=
  runOp_within c (fun h => h) (fun h => opFaStageBegin_within c h (covers_trans (by decide) hc)) h (covers_trans (by decide) hc)

theorem opFaStageCommit_within {C : List Comp} {s₀ : State}  (c : Cmd) {s : State} (h : Within C s₀ s) (hc : covers C [.eng, .st] = true) : WithinR C s₀ ((opFaStageCommit).act c s) := by
  dsimp only [opFaStageCommit]
  repeat' first
    | dsimp only [withinR_done, withinR_wait, withinR_fail]
    | (with_reducible show WithinR _ _ _; split)
  repeat' first
    | with_reducible assumption
    | exact covers_trans (by decide) hc
    | with_reducible apply modChannel_within
    | with_reducible apply addWait_within
    | (with_reducible apply getD_map_within; rotate_left; intro _)
    | split
    | with_reducible apply Within.upd
    | exact .inr (covers_mem hc (by decide))
    | with_reducible exact .inl rfl
    | with_reducible exact List.prefix_refl _
    | with_reducible exact Nat.le_refl _
    | with_reducible exact id
    | with_reducible exact fun g => g.of_eq rfl rfl rfl
    | dsimp only


theorem execFaStageCommit_within {C : List Comp} {s₀ : State} (c : Cmd) {s : State} (h : Within C s₀ s) (hc : covers C [.out, .eng, .st, .mv, .host, .ev, .boot, .hm] = true) : WithinO C s₀ (execFaStageCommit c s) :=
  runOp_within c (fun h => h) (fun h => opFaStageCommit_within c h (covers_trans (by decide) hc)) h (covers_trans (by decide) hc)

theorem opFaStageAbort_within {C : List Comp} {s₀ : State}  (c : Cmd) {s : State} (h : Within C s₀ s) (hc : covers C [.eng, .st] = true) : WithinR C s₀ ((opFaStageAbort).act c s) := by
  dsimp only [opFaStageAbort]
  repeat' first
    | dsimp only [withinR_done, withinR_wait, withinR_fail]
    | (with_reducible show WithinR _ _ _; split)
  repeat' first
    | with_reducible assumption
    | exact covers_trans (by decide) hc
    | with_reducible apply abortStage_within
    | split


theorem execFaStageAbort_within {C : List Comp} {s₀ : State} (c : Cmd) {s : State} (h : Within C s₀ s) (hc : covers C [.out, .eng, .st, .mv, .host, .ev, .boot, .hm] = true) : WithinO C s₀ (execFaStageAbort c s) :=
  runOp_within c (fun h => h) (fun h => opFaStageAbort_within c h (covers_trans (by decide) hc)) h (covers_trans (by decide) hc)

theorem opAnchorSet_within {C : List Comp} {s₀ : State}  (c : Cmd) {s : State} (h : Within C s₀ s) (hc : covers C [.eng, .st] = true) : WithinR C s₀ ((opAnchorSet).act c s) := by
  dsimp only [opAnchorSet]
  repeat' first
    | dsimp only [withinR_done, withinR_wait, withinR_fail]
    | (with_reducible show WithinR _ _ _; split)
  repeat' first
    | with_reducible assumption
    | exact covers_trans (by decide) hc
    | with_reducible apply bumpPkg_within
    | split
    | with_reducible apply Within.upd
    | exact .inr (covers_mem hc (by decide))
    | with_reducible exact .inl rfl
    | with_reducible exact List.prefix_refl _
    | with_reducible exact Nat.le_refl _
    | with_reducible exact id
    | dsimp only


theorem execAnchorSet_within {C : List Comp} {s₀ : State} (c : Cmd) {s : State} (h : Within C s₀ s) (hc : covers C [.out, .eng, .st, .mv, .host, .ev, .boot, .hm] = true) : WithinO C s₀ (execAnchorSet c s) :=
  runOp_within c (fun h => h) (fun h => opAnchorSet_within c h (covers_trans (by decide) hc)) h (covers_trans (by decide) hc)

end Sys2Proof.Machine
end

