-- ==== Sys2Proof/Laws/WithinStore.lean ====
section
/-!
SUPPORT. The operations of Store: each keeps what `Within` says.
-/
namespace Sys2Proof.Machine
open Sys2Proof
set_option Elab.async false
set_option linter.all false

theorem raiseLost_within {C : List Comp} {s₀ : State} (g : Nat) (q : U64) {s : State} (h : Within C s₀ s) (hc : covers C [.ev, .fs] = true) : Within C s₀ (raiseLost g q s) := by
  unfold raiseLost
  try dsimp only
  repeat' first
    | with_reducible assumption
    | exact covers_trans (by decide) hc
    | with_reducible apply raise_within
    | with_reducible apply modRing_within
    | split
    | with_reducible apply Within.upd
    | exact .inr (covers_mem hc (by decide))
    | with_reducible exact .inl rfl
    | with_reducible exact List.prefix_refl _
    | with_reducible exact Nat.le_refl _
    | with_reducible exact id
    | dsimp only


theorem loseInRing_within {C : List Comp} {s₀ : State} (g : Nat) (q : U64) (injected : Bool) {s : State} (h : Within C s₀ s) (hc : covers C [.ev, .hm, .fs] = true) : Within C s₀ (loseInRing g q injected s) := by
  unfold loseInRing
  try dsimp only
  repeat' first
    | with_reducible assumption
    | exact covers_trans (by decide) hc
    | with_reducible apply raiseLost_within
    | with_reducible apply trim_within
    | with_reducible apply modRing_within
    | with_reducible apply dropRec_within
    | with_reducible apply detectorFires_within
    | with_reducible apply Within.upd
    | exact .inr (covers_mem hc (by decide))
    | with_reducible exact .inl rfl
    | with_reducible exact List.prefix_refl _
    | with_reducible exact Nat.le_refl _
    | with_reducible exact id
    | dsimp only


theorem modRecs_within {C : List Comp} {s₀ : State} (g : Nat) (q : U64) (f : Rec → Rec) {s : State} (h : Within C s₀ s) (hc : covers C [.fs] = true) : Within C s₀ (modRecs g q f s) := by
  unfold modRecs
  try dsimp only
  repeat' first
    | with_reducible assumption
    | exact covers_trans (by decide) hc
    | with_reducible apply modFs_within
    | with_reducible apply modRing_within
    | split
    | with_reducible apply Within.upd
    | exact .inr (covers_mem hc (by decide))
    | with_reducible exact .inl rfl
    | with_reducible exact List.prefix_refl _
    | with_reducible exact Nat.le_refl _
    | with_reducible exact id
    | dsimp only


theorem loseInSegment_within {C : List Comp} {s₀ : State} (k : Nat) (q : U64) (injected : Bool) {s : State} (h : Within C s₀ s) (hc : covers C [.ev, .hm, .fs] = true) : Within C s₀ (loseInSegment k q injected s) := by
  unfold loseInSegment
  try dsimp only
  repeat' first
    | with_reducible assumption
    | exact covers_trans (by decide) hc
    | with_reducible apply raiseLost_within
    | with_reducible apply modSeg_within
    | with_reducible apply detectorFires_within
    | (with_reducible apply getD_map_within; rotate_left; intro _)
    | with_reducible apply Within.upd
    | exact .inr (covers_mem hc (by decide))
    | with_reducible exact .inl rfl
    | with_reducible exact List.prefix_refl _
    | with_reducible exact Nat.le_refl _
    | with_reducible exact id
    | dsimp only


theorem readRec_within {C : List Comp} {s₀ : State} (k : Nat) (f : Rec) {s : State} (h : Within C s₀ s) (hc : covers C [.ev, .hm, .fs] = true) : Within C s₀ (readRec k s f) := by
  unfold readRec
  try dsimp only
  repeat' first
    | with_reducible assumption
    | exact covers_trans (by decide) hc
    | with_reducible apply modSeg_within
    | with_reducible apply detectorFires_within
    | with_reducible apply loseInSegment_within
    | split
    | with_reducible apply Within.upd
    | exact .inr (covers_mem hc (by decide))
    | with_reducible exact .inl rfl
    | with_reducible exact List.prefix_refl _
    | with_reducible exact Nat.le_refl _
    | with_reducible exact id
    | dsimp only


theorem scrubTile_within {C : List Comp} {s₀ : State} (t : Nat) {s : State} (h : Within C s₀ s) (hc : covers C [.ev, .hm, .fs] = true) : Within C s₀ (scrubTile t s) := by
  unfold scrubTile
  try dsimp only
  repeat' first
    | with_reducible assumption
    | exact covers_trans (by decide) hc
    | with_reducible apply readRec_within
    | with_reducible apply modRing_within
    | with_reducible apply detectorFires_within
    | with_reducible apply loseInRing_within
    | (with_reducible apply foldl_within; rotate_left; (intro _ _ _; try dsimp only))
    | split
    | with_reducible apply Within.upd
    | exact .inr (covers_mem hc (by decide))
    | with_reducible exact .inl rfl
    | with_reducible exact List.prefix_refl _
    | with_reducible exact Nat.le_refl _
    | with_reducible exact id
    | dsimp only


theorem placeError_within {C : List Comp} {s₀ : State} (g : Nat) {s : State} (h : Within C s₀ s) (hc : covers C [.ev, .hm] = true) : Within C s₀ (placeError g s).2 := by
  unfold placeError
  try dsimp only
  repeat' first
    | with_reducible assumption
    | exact covers_trans (by decide) hc
    | with_reducible apply consumeInjection_within
    | split

theorem placeError_within_eq {C : List Comp} {s₀ : State} {g : Nat} {s : State} {x₁} {t₁ : State} (h : Within C s₀ s) (hc : covers C [.ev, .hm] = true) (e : placeError g s = (x₁, t₁)) : Within C s₀ t₁ := by
  have := placeError_within g h hc
  rw [e] at this
  exact this

theorem execFrameRecordValid_within {C : List Comp} {s₀ : State} (channel : Nat) {s : State} (h : Within C s₀ s) (hc : covers C [.eng, .st, .ev, .hm, .fs] = true) : WithinO C s₀ (execFrameRecordValid channel s) := by
  unfold execFrameRecordValid
  try dsimp only
  repeat' first
    | dsimp only [withinO_next]
    | (with_reducible show WithinO _ _ _; split)
  repeat' first
    | with_reducible assumption
    | exact covers_trans (by decide) hc
    | with_reducible apply placeError_within
    | with_reducible refine placeError_within_eq ?_ ?_ (by assumption)
    | with_reducible apply writeRec_within
    | with_reducible apply sweepFrames_within
    | with_reducible apply modFrame_within
    | split
    | with_reducible apply Within.upd
    | exact .inr (covers_mem hc (by decide))
    | with_reducible exact .inl rfl
    | with_reducible exact List.prefix_refl _
    | with_reducible exact Nat.le_refl _
    | with_reducible exact id
    | dsimp only


theorem takeTrigger_within {C : List Comp} {s₀ : State} (channel n : Nat) {s : State} (h : Within C s₀ s) (hc : covers C [.eng, .ev, .fs] = true) : Within C s₀ (takeTrigger channel n s) := by
  unfold takeTrigger
  try dsimp only
  repeat' first
    | with_reducible assumption
    | exact covers_trans (by decide) hc
    | with_reducible refine takeInput_within ?_ ?_ (by assumption)
    | with_reducible apply triggerSegment_within
    | with_reducible apply modRing_within
    | split
    | with_reducible apply Within.upd
    | exact .inr (covers_mem hc (by decide))
    | with_reducible exact .inl rfl
    | with_reducible exact List.prefix_refl _
    | with_reducible exact Nat.le_refl _
    | with_reducible exact id
    | dsimp only


theorem execTriggerInput_within {C : List Comp} {s₀ : State} (channel n : Nat) {s : State} (h : Within C s₀ s) (hc : covers C [.eng, .ev, .fs] = true) : WithinO C s₀ (execTriggerInput channel n s) := by
  unfold execTriggerInput
  try dsimp only
  repeat' first
    | dsimp only [withinO_next]
    | (with_reducible show WithinO _ _ _; split)
  repeat' first
    | with_reducible assumption
    | exact covers_trans (by decide) hc
    | with_reducible apply takeTrigger_within


theorem execPostWaitExpiry_within {C : List Comp} {s₀ : State} (segment : Nat) {s : State} (h : Within C s₀ s) (hc : covers C [.eng, .ev, .fs] = true) : WithinO C s₀ (execPostWaitExpiry segment s) := by
  unfold execPostWaitExpiry
  try dsimp only
  repeat' first
    | dsimp only [withinO_next]
    | (with_reducible show WithinO _ _ _; split)
  repeat' first
    | with_reducible assumption
    | exact covers_trans (by decide) hc
    | with_reducible apply freezeSegment_within
    | (with_reducible apply getD_map_within; rotate_left; intro _)
    | split
    | dsimp only


theorem chargeRead_within {C : List Comp} {s₀ : State} (t len : Nat) {s : State} (h : Within C s₀ s) (hc : covers C [.gov] = true) : Within C s₀ (chargeRead t len s) := by
  unfold chargeRead
  try dsimp only
  repeat' first
    | with_reducible assumption
    | exact covers_trans (by decide) hc
    | with_reducible apply modTileGov_within
    | split
    | with_reducible apply Within.upd
    | exact .inr (covers_mem hc (by decide))
    | with_reducible exact .inl rfl
    | with_reducible exact List.prefix_refl _
    | with_reducible exact Nat.le_refl _
    | with_reducible exact id
    | with_reducible exact fun k => k.of_eq rfl rfl rfl rfl
    | with_reducible exact fun k => k.both rfl rfl rfl
    | exact fun _ => PkgOk.started rfl rfl
    | dsimp only


theorem storeRead_within {C : List Comp} {s₀ : State} (port offset len : Nat) {s : State} (h : Within C s₀ s) (hc : covers C [.out, .ev, .gov, .hm, .fs] = true) : Within C s₀ (storeRead port offset len s) := by
  unfold storeRead
  try dsimp only
  repeat' first
    | with_reducible assumption
    | exact covers_trans (by decide) hc
    | with_reducible apply modFs_within
    | with_reducible apply chargeRead_within
    | with_reducible apply readRec_within
    | with_reducible apply emit_within
    | (with_reducible apply foldl_within; rotate_left; (intro _ _ _; try dsimp only))
    | split
    | with_reducible apply Within.upd
    | exact .inr (covers_mem hc (by decide))
    | with_reducible exact .inl rfl
    | with_reducible exact List.prefix_refl _
    | with_reducible exact Nat.le_refl _
    | with_reducible exact id
    | with_reducible exact fun g => g.of_eq rfl rfl rfl
    | dsimp only


theorem answerUnsupported_within {C : List Comp} {s₀ : State} (port : Nat) (header : List Byte) {s : State} (h : Within C s₀ s) (hc : covers C [.out, .host, .ev, .hm] = true) : Within C s₀ (answerUnsupported port header s) := by
  unfold answerUnsupported
  try dsimp only
  repeat' first
    | with_reducible assumption
    | exact covers_trans (by decide) hc
    | with_reducible apply emit_within
    | with_reducible apply nonFatal_within
    | with_reducible apply modPortCounters_within
    | with_reducible apply Within.upd
    | exact .inr (covers_mem hc (by decide))
    | with_reducible exact .inl rfl
    | with_reducible exact List.prefix_refl _
    | with_reducible exact Nat.le_refl _
    | with_reducible exact id
    | dsimp only


theorem unsupportedRequest_within {C : List Comp} {s₀ : State} (port : Nat) {s : State} (h : Within C s₀ s) (hc : covers C [.free, .out, .host, .ev, .hm] = true) : Within C s₀ (unsupportedRequest port s) := by
  unfold unsupportedRequest
  try dsimp only
  repeat' first
    | with_reducible assumption
    | exact covers_trans (by decide) hc
    | with_reducible apply answerUnsupported_within
    | with_reducible apply useFree_within


theorem refuseMemory_within {C : List Comp} {s₀ : State} (port : Nat) (write : Bool) {s : State} (h : Within C s₀ s) (hc : covers C [.free, .out, .host, .ev, .hm] = true) : Within C s₀ (refuseMemory port write s) := by
  unfold refuseMemory
  try dsimp only
  repeat' first
    | with_reducible assumption
    | exact covers_trans (by decide) hc
    | with_reducible apply correctable_within
    | with_reducible apply unsupportedRequest_within
    | split


theorem execStoreRead_within {C : List Comp} {s₀ : State} (port offset len : Nat) {s : State} (h : Within C s₀ s) (hc : covers C [.free, .out, .host, .ev, .gov, .hm, .fs] = true) : WithinO C s₀ (execStoreRead port offset len s) := by
  unfold execStoreRead
  try dsimp only
  repeat' first
    | dsimp only [withinO_next]
    | (with_reducible show WithinO _ _ _; split)
  repeat' first
    | with_reducible assumption
    | exact covers_trans (by decide) hc
    | with_reducible apply refuseMemory_within
    | with_reducible apply storeRead_within
    | split


theorem setRing_within {C : List Comp} {s₀ : State} (g pages : Nat) {s : State} (h : Within C s₀ s) (hc : covers C [.fs] = true) : Within C s₀ (setRing g pages s) := by
  unfold setRing
  try dsimp only
  repeat' first
    | with_reducible assumption
    | exact covers_trans (by decide) hc
    | with_reducible apply modRing_within
    | with_reducible apply trim_within
    | with_reducible apply Within.upd
    | exact .inr (covers_mem hc (by decide))
    | with_reducible exact .inl rfl
    | with_reducible exact List.prefix_refl _
    | with_reducible exact Nat.le_refl _
    | with_reducible exact id
    | dsimp only


theorem opFsRingSet_within {C : List Comp} {s₀ : State}  (c : Cmd) {s : State} (h : Within C s₀ s) (hc : covers C [.eng, .fs] = true) : WithinR C s₀ ((opFsRingSet).act c s) := by
  dsimp only [opFsRingSet]
  repeat' first
    | dsimp only [withinR_done, withinR_wait, withinR_fail]
    | (with_reducible show WithinR _ _ _; split)
  repeat' first
    | with_reducible assumption
    | exact covers_trans (by decide) hc
    | with_reducible apply setRing_within
    | with_reducible apply bumpObj_within
    | split
    | dsimp only


theorem execFsRingSet_within {C : List Comp} {s₀ : State} (c : Cmd) {s : State} (h : Within C s₀ s) (hc : covers C [.out, .eng, .mv, .host, .ev, .boot, .hm, .fs] = true) : WithinO C s₀ (execFsRingSet c s) :=
  runOp_within c (fun h => h) (fun h => opFsRingSet_within c h (covers_trans (by decide) hc)) h (covers_trans (by decide) hc)

theorem opFsQuery_within {C : List Comp} {s₀ : State}  (c : Cmd) {s : State} (h : Within C s₀ s) (_hc : covers C [] = true) : WithinR C s₀ ((opFsQuery).act c s) := by
  dsimp only [opFsQuery]
  repeat' first
    | dsimp only [withinR_done, withinR_wait, withinR_fail]
    | (with_reducible show WithinR _ _ _; split)
  repeat' first
    | with_reducible assumption
    | dsimp only


theorem execFsQuery_within {C : List Comp} {s₀ : State} (c : Cmd) {s : State} (h : Within C s₀ s) (hc : covers C [.out, .eng, .mv, .host, .ev, .boot, .hm] = true) : WithinO C s₀ (execFsQuery c s) :=
  runOp_within c (fun h => h) (fun h => opFsQuery_within c h (covers_trans (by decide) hc)) h (covers_trans (by decide) hc)

theorem opFsSegArm_first_within {C : List Comp} {s₀ : State}  (c : Cmd) {s : State} (h : Within C s₀ s) (hc : covers C [.eng, .ev, .fs] = true) : Within C s₀ ((opFsSegArm).first c s) := by
  dsimp only [opFsSegArm]
  repeat' first
    | with_reducible assumption
    | exact covers_trans (by decide) hc
    | with_reducible apply takeTrigger_within
    | with_reducible refine armSegment_within ?_ ?_ (by assumption)
    | split
    | with_reducible apply Within.upd
    | exact .inr (covers_mem hc (by decide))
    | with_reducible exact .inl rfl
    | with_reducible exact List.prefix_refl _
    | with_reducible exact Nat.le_refl _
    | with_reducible exact id
    | with_reducible exact fun g => g.of_eq rfl rfl rfl
    | dsimp only


theorem opFsSegArm_within {C : List Comp} {s₀ : State}  (c : Cmd) {s : State} (h : Within C s₀ s) (hc : covers C [.eng, .ev, .fs] = true) : WithinR C s₀ ((opFsSegArm).act c s) := by
  dsimp only [opFsSegArm]
  repeat' first
    | dsimp only [withinR_done, withinR_wait, withinR_fail]
    | (with_reducible show WithinR _ _ _; split)
  repeat' first
    | with_reducible assumption
    | exact covers_trans (by decide) hc
    | with_reducible apply takeTrigger_within
    | with_reducible refine armSegment_within ?_ ?_ (by assumption)
    | split
    | with_reducible apply Within.upd
    | exact .inr (covers_mem hc (by decide))
    | with_reducible exact .inl rfl
    | with_reducible exact List.prefix_refl _
    | with_reducible exact Nat.le_refl _
    | with_reducible exact id
    | with_reducible exact fun g => g.of_eq rfl rfl rfl
    | dsimp only


theorem execFsSegArm_within {C : List Comp} {s₀ : State} (c : Cmd) {s : State} (h : Within C s₀ s) (hc : covers C [.out, .eng, .mv, .host, .ev, .boot, .hm, .fs] = true) : WithinO C s₀ (execFsSegArm c s) :=
  runOp_within c (fun h => opFsSegArm_first_within c h (covers_trans (by decide) hc)) (fun h => opFsSegArm_within c h (covers_trans (by decide) hc)) h (covers_trans (by decide) hc)

theorem triggerFirst_within {C : List Comp} {s₀ : State} (c : Cmd) {s : State} (h : Within C s₀ s) (hc : covers C [.eng, .ev, .fs] = true) : Within C s₀ (triggerFirst c s) := by
  unfold triggerFirst
  try dsimp only
  repeat' first
    | with_reducible assumption
    | exact covers_trans (by decide) hc
    | with_reducible apply takeTrigger_within
    | split


theorem opFsTrigger_first_within {C : List Comp} {s₀ : State}  (c : Cmd) {s : State} (h : Within C s₀ s) (hc : covers C [.eng, .ev, .fs] = true) : Within C s₀ ((opFsTrigger).first c s) := by
  dsimp only [opFsTrigger]
  repeat' first
    | with_reducible assumption
    | exact covers_trans (by decide) hc
    | with_reducible apply triggerFirst_within
    | with_reducible apply triggerSegment_within
    | split
    | dsimp only


theorem opFsTrigger_within {C : List Comp} {s₀ : State}  (c : Cmd) {s : State} (h : Within C s₀ s) (hc : covers C [.eng, .ev, .fs] = true) : WithinR C s₀ ((opFsTrigger).act c s) := by
  dsimp only [opFsTrigger]
  repeat' first
    | dsimp only [withinR_done, withinR_wait, withinR_fail]
    | (with_reducible show WithinR _ _ _; split)
  repeat' first
    | with_reducible assumption
    | exact covers_trans (by decide) hc
    | with_reducible apply triggerFirst_within
    | with_reducible apply triggerSegment_within
    | split
    | dsimp only


theorem execFsTrigger_within {C : List Comp} {s₀ : State} (c : Cmd) {s : State} (h : Within C s₀ s) (hc : covers C [.out, .eng, .mv, .host, .ev, .boot, .hm, .fs] = true) : WithinO C s₀ (execFsTrigger c s) :=
  runOp_within c (fun h => opFsTrigger_first_within c h (covers_trans (by decide) hc)) (fun h => opFsTrigger_within c h (covers_trans (by decide) hc)) h (covers_trans (by decide) hc)

theorem opFsSegRelease_first_within {C : List Comp} {s₀ : State}  (c : Cmd) {s : State} (h : Within C s₀ s) (hc : covers C [.eng, .host, .ev, .fs] = true) : Within C s₀ ((opFsSegRelease).first c s) := by
  dsimp only [opFsSegRelease]
  repeat' first
    | with_reducible assumption
    | exact covers_trans (by decide) hc
    | with_reducible apply triggerFirst_within
    | with_reducible apply dropSegment_within
    | (with_reducible apply getD_map_within; rotate_left; intro _)
    | dsimp only


theorem opFsSegRelease_within {C : List Comp} {s₀ : State}  (c : Cmd) {s : State} (h : Within C s₀ s) (hc : covers C [.eng, .host, .ev, .fs] = true) : WithinR C s₀ ((opFsSegRelease).act c s) := by
  dsimp only [opFsSegRelease]
  repeat' first
    | dsimp only [withinR_done, withinR_wait, withinR_fail]
    | (with_reducible show WithinR _ _ _; split)
  repeat' first
    | with_reducible assumption
    | exact covers_trans (by decide) hc
    | with_reducible apply triggerFirst_within
    | with_reducible apply dropSegment_within
    | (with_reducible apply getD_map_within; rotate_left; intro _)
    | dsimp only


theorem execFsSegRelease_within {C : List Comp} {s₀ : State} (c : Cmd) {s : State} (h : Within C s₀ s) (hc : covers C [.out, .eng, .mv, .host, .ev, .boot, .hm, .fs] = true) : WithinO C s₀ (execFsSegRelease c s) :=
  runOp_within c (fun h => opFsSegRelease_first_within c h (covers_trans (by decide) hc)) (fun h => opFsSegRelease_within c h (covers_trans (by decide) hc)) h (covers_trans (by decide) hc)

theorem opFsFreezeRing_within {C : List Comp} {s₀ : State}  (c : Cmd) {s : State} (h : Within C s₀ s) (hc : covers C [.eng, .ev, .fs] = true) : WithinR C s₀ ((opFsFreezeRing).act c s) := by
  dsimp only [opFsFreezeRing]
  repeat' first
    | dsimp only [withinR_done, withinR_wait, withinR_fail]
    | (with_reducible show WithinR _ _ _; split)
  repeat' first
    | with_reducible assumption
    | exact covers_trans (by decide) hc
    | with_reducible refine armSegment_within ?_ ?_ (by assumption)
    | with_reducible apply freezeSegment_within
    | split
    | with_reducible apply Within.upd
    | exact .inr (covers_mem hc (by decide))
    | with_reducible exact .inl rfl
    | with_reducible exact List.prefix_refl _
    | with_reducible exact Nat.le_refl _
    | with_reducible exact id
    | with_reducible exact fun g => g.of_eq rfl rfl rfl
    | dsimp only


theorem execFsFreezeRing_within {C : List Comp} {s₀ : State} (c : Cmd) {s : State} (h : Within C s₀ s) (hc : covers C [.out, .eng, .mv, .host, .ev, .boot, .hm, .fs] = true) : WithinO C s₀ (execFsFreezeRing c s) :=
  runOp_within c (fun h => h) (fun h => opFsFreezeRing_within c h (covers_trans (by decide) hc)) h (covers_trans (by decide) hc)

theorem opFsSegQuery_within {C : List Comp} {s₀ : State}  (c : Cmd) {s : State} (h : Within C s₀ s) (_hc : covers C [] = true) : WithinR C s₀ ((opFsSegQuery).act c s) := by
  dsimp only [opFsSegQuery]
  repeat' first
    | dsimp only [withinR_done, withinR_wait, withinR_fail]
    | (with_reducible show WithinR _ _ _; split)
  repeat' first
    | with_reducible assumption
    | split
    | with_reducible apply Within.upd
    | with_reducible exact .inl rfl
    | with_reducible exact List.prefix_refl _
    | with_reducible exact Nat.le_refl _
    | with_reducible exact id


theorem execFsSegQuery_within {C : List Comp} {s₀ : State} (c : Cmd) {s : State} (h : Within C s₀ s) (hc : covers C [.out, .eng, .mv, .host, .ev, .boot, .hm] = true) : WithinO C s₀ (execFsSegQuery c s) :=
  runOp_within c (fun h => h) (fun h => opFsSegQuery_within c h (covers_trans (by decide) hc)) h (covers_trans (by decide) hc)

theorem opFsDirRead_within {C : List Comp} {s₀ : State}  (c : Cmd) {s : State} (h : Within C s₀ s) (_hc : covers C [] = true) : WithinR C s₀ ((opFsDirRead).act c s) := by
  dsimp only [opFsDirRead]
  repeat' first
    | dsimp only [withinR_done, withinR_wait, withinR_fail]
    | (with_reducible show WithinR _ _ _; split)
  repeat' first
    | with_reducible assumption
    | (with_reducible apply getD_map_within; rotate_left; intro _)
    | split
    | with_reducible apply Within.upd
    | with_reducible exact .inl rfl
    | with_reducible exact List.prefix_refl _
    | with_reducible exact Nat.le_refl _
    | with_reducible exact id
    | with_reducible exact fun g => g.of_eq rfl rfl rfl
    | dsimp only


theorem execFsDirRead_within {C : List Comp} {s₀ : State} (c : Cmd) {s : State} (h : Within C s₀ s) (hc : covers C [.out, .eng, .mv, .host, .ev, .boot, .hm] = true) : WithinO C s₀ (execFsDirRead c s) :=
  runOp_within c (fun h => h) (fun h => opFsDirRead_within c h (covers_trans (by decide) hc)) h (covers_trans (by decide) hc)

theorem startReadout_within {C : List Comp} {s₀ : State} (c : Cmd) (k chan : Nat) (x : Segment) {s : State} (h : Within C s₀ s) (hc : covers C [.out, .eng, .mv, .host, .ev, .boot, .gov, .fs] = true) : Within C s₀ (startReadout c k chan x s) := by
  unfold startReadout
  try dsimp only
  repeat' first
    | with_reducible assumption
    | exact covers_trans (by decide) hc
    | with_reducible apply addWait_within
    | with_reducible apply modFs_within
    | with_reducible apply modMv_within
    | with_reducible apply nextReadout_within
    | with_reducible apply addJob_within
    | (with_reducible apply getD_map_within; rotate_left; intro _)
    | split
    | with_reducible apply Within.upd
    | exact .inr (covers_mem hc (by decide))
    | with_reducible exact .inl rfl
    | with_reducible exact List.prefix_refl _
    | exact List.prefix_append _ _
    | with_reducible exact Nat.le_refl _
    | with_reducible exact id
    | with_reducible exact fun g => g.of_eq rfl rfl rfl
    | dsimp only


theorem opFsRead_within {C : List Comp} {s₀ : State}  (c : Cmd) {s : State} (h : Within C s₀ s) (hc : covers C [.out, .eng, .mv, .host, .ev, .boot, .gov, .fs] = true) : WithinR C s₀ ((opFsRead).act c s) := by
  dsimp only [opFsRead]
  repeat' first
    | dsimp only [withinR_done, withinR_wait, withinR_fail]
    | (with_reducible show WithinR _ _ _; split)
  repeat' first
    | with_reducible assumption
    | exact covers_trans (by decide) hc
    | with_reducible apply startReadout_within
    | (with_reducible apply getD_map_within; rotate_left; intro _)
    | split
    | dsimp only


theorem execFsRead_within {C : List Comp} {s₀ : State} (c : Cmd) {s : State} (h : Within C s₀ s) (hc : covers C [.out, .eng, .mv, .host, .ev, .boot, .gov, .hm, .fs] = true) : WithinO C s₀ (execFsRead c s) :=
  runOp_within c (fun h => h) (fun h => opFsRead_within c h (covers_trans (by decide) hc)) h (covers_trans (by decide) hc)

theorem chargeB_within {C : List Comp} {s₀ : State} (t n : Nat) {s : State} (h : Within C s₀ s) (hc : covers C [.gov] = true) : Within C s₀ (chargeB t n s) := by
  unfold chargeB
  try dsimp only
  repeat' first
    | with_reducible assumption
    | exact covers_trans (by decide) hc
    | with_reducible apply modTileGov_within
    | with_reducible apply Within.upd
    | exact .inr (covers_mem hc (by decide))
    | with_reducible exact .inl rfl
    | with_reducible exact List.prefix_refl _
    | with_reducible exact Nat.le_refl _
    | with_reducible exact id
    | dsimp only


theorem readRequests_within {C : List Comp} {s₀ : State} (via addr n : Nat) {s : State} (h : Within C s₀ s) (hc : covers C [.out] = true) : Within C s₀ (readRequests via addr n s) := by
  unfold readRequests
  try dsimp only
  repeat' first
    | with_reducible assumption
    | exact covers_trans (by decide) hc
    | with_reducible apply emit_within
    | (with_reducible apply foldl_within; rotate_left; (intro _ _ _; try dsimp only))
    | dsimp only


theorem issueBurst_within {C : List Comp} {s₀ : State} (g : Nat) (source : List Byte) (n : Nat) {s : State} (h : Within C s₀ s) (hc : covers C [.out, .mv, .gov] = true) : Within C s₀ (issueBurst g source n s) := by
  unfold issueBurst
  try dsimp only
  repeat' first
    | with_reducible assumption
    | exact covers_trans (by decide) hc
    | with_reducible apply readRequests_within
    | with_reducible apply emit_within
    | with_reducible apply countBursts_within
    | with_reducible apply modMv_within
    | with_reducible apply chargeB_within
    | with_reducible apply modChan_within
    | (with_reducible apply foldl_within; rotate_left; (intro _ _ _; try dsimp only))
    | split
    | with_reducible apply Within.upd
    | exact .inr (covers_mem hc (by decide))
    | with_reducible exact .inl rfl
    | with_reducible exact List.prefix_refl _
    | with_reducible exact Nat.le_refl _
    | with_reducible exact id
    | with_reducible exact fun g => g.of_eq rfl rfl rfl
    | dsimp only


theorem yieldTo_within {C : List Comp} {s₀ : State} (t n prio : Nat) (steady : Bool) (n₀ : Nat) {s : State} (h : Within C s₀ s) (hc : covers C [.out, .mv, .gov] = true) : Within C s₀ (yieldTo t n prio steady n₀ s) := by
  induction n₀ generalizing s with
  | zero => exact h
  | succ n₀ ih =>
    unfold yieldTo
    try dsimp only
    repeat' first
      | with_reducible assumption
      | with_reducible apply ih
      | exact covers_trans (by decide) hc
      | with_reducible apply issueBurst_within
      | split


theorem displace_within {C : List Comp} {s₀ : State} (t n prio k : Nat) {s : State} (h : Within C s₀ s) (hc : covers C [.free, .mv] = true) : Within C s₀ (displace t n prio k s) := by
  unfold displace
  try dsimp only
  repeat' first
    | with_reducible assumption
    | exact covers_trans (by decide) hc
    | with_reducible apply countDisplaced_within
    | with_reducible apply modChan_within
    | (with_reducible apply foldl_within; rotate_left; (intro _ _ _; try dsimp only))
    | split
    | with_reducible apply Within.upd
    | exact .inr (covers_mem hc (by decide))
    | with_reducible exact .inl rfl
    | with_reducible exact List.prefix_refl _
    | with_reducible exact Nat.le_refl _
    | with_reducible exact id
    | dsimp only


theorem modDelivery_within {C : List Comp} {s₀ : State} (d : Delivery) (f : Delivery → Delivery) {s : State} (h : Within C s₀ s) (hc : covers C [.mv] = true) : Within C s₀ (modDelivery d f s) := by
  unfold modDelivery
  try dsimp only
  repeat' first
    | with_reducible assumption
    | exact covers_trans (by decide) hc
    | with_reducible apply modMv_within
    | split
    | with_reducible apply Within.upd
    | exact .inr (covers_mem hc (by decide))
    | with_reducible exact .inl rfl
    | with_reducible exact List.prefix_refl _
    | with_reducible exact Nat.le_refl _
    | with_reducible exact id
    | dsimp only


theorem chargeDelivery_within {C : List Comp} {s₀ : State} (d : Delivery) (n : Nat) {s : State} (h : Within C s₀ s) (hc : covers C [.mv, .gov, .fs] = true) : Within C s₀ (chargeDelivery d n s) := by
  unfold chargeDelivery
  try dsimp only
  repeat' first
    | with_reducible assumption
    | exact covers_trans (by decide) hc
    | with_reducible apply countBursts_within
    | with_reducible apply chargeB_within
    | with_reducible apply modFs_within
    | split
    | with_reducible apply Within.upd
    | exact .inr (covers_mem hc (by decide))
    | with_reducible exact .inl rfl
    | with_reducible exact List.prefix_refl _
    | exact List.prefix_append _ _
    | with_reducible exact Nat.le_refl _
    | with_reducible exact id
    | dsimp only


theorem payloadBursts_within {C : List Comp} {s₀ : State} (d : Delivery) (prio : Nat) (l : List (Nat × List Byte)) {s : State} (h : Within C s₀ s)
    (hc : covers C [.out, .mv, .gov, .fs] = true) : Within C s₀ (payloadBursts d prio l s) := by
  have sub {M : List Comp} (h : covers [.out, .mv, .gov, .fs] M = true) : covers C M = true := covers_trans h hc
  induction l generalizing s with
  | nil => exact h
  | cons x l ih =>
    unfold payloadBursts
    dsimp only
    split
    · exact ih (chargeDelivery_within _ _ (modDelivery_within _ _
        (modMv_within _ (emit_within _ (yieldTo_within _ _ _ _ _ h (sub rfl)) (sub rfl)) (sub rfl)) (sub rfl)) (sub rfl))
    · exact yieldTo_within _ _ _ _ _ h (sub rfl)


theorem writeTag_within {C : List Comp} {s₀ : State} (d : Delivery) (tag data : List Byte) {s : State} (h : Within C s₀ s) (hc : covers C [.out, .mv, .gov, .fs] = true) : Within C s₀ (writeTag d tag data s) := by
  unfold writeTag
  try dsimp only
  repeat' first
    | with_reducible assumption
    | exact covers_trans (by decide) hc
    | with_reducible apply emit_within
    | with_reducible apply chargeDelivery_within
    | with_reducible apply modDelivery_within
    | split
    | with_reducible apply Within.upd
    | exact .inr (covers_mem hc (by decide))
    | with_reducible exact .inl rfl
    | with_reducible exact List.prefix_refl _
    | with_reducible exact Nat.le_refl _
    | with_reducible exact id
    | with_reducible exact fun g => g.of_eq rfl rfl rfl
    | dsimp only


theorem writeDelivery_within {C : List Comp} {s₀ : State} (d : Delivery) (tag data : List Byte) {s : State} (h : Within C s₀ s) (hc : covers C [.free, .out, .mv, .gov, .fs] = true) : Within C s₀ (writeDelivery d tag data s) := by
  unfold writeDelivery
  try dsimp only
  repeat' first
    | with_reducible assumption
    | exact covers_trans (by decide) hc
    | with_reducible apply payloadBursts_within
    | with_reducible apply displace_within
    | with_reducible apply writeTag_within
    | with_reducible apply countDisplaced_within
    | (with_reducible apply getD_map_within; rotate_left; intro _)
    | split
    | dsimp only


theorem countCut_within {C : List Comp} {s₀ : State} (k : Nat) (f : Rec) {s : State} (h : Within C s₀ s) (hc : covers C [.st, .fs] = true) : Within C s₀ (countCut k f s) := by
  unfold countCut
  try dsimp only
  repeat' first
    | with_reducible assumption
    | exact covers_trans (by decide) hc
    | with_reducible apply modSeg_within
    | with_reducible apply countChannel_within
    | with_reducible apply modFrame_within
    | split
    | with_reducible apply Within.upd
    | exact .inr (covers_mem hc (by decide))
    | with_reducible exact .inl rfl
    | with_reducible exact List.prefix_refl _
    | with_reducible exact Nat.le_refl _
    | with_reducible exact id
    | dsimp only


theorem giveBack_within {C : List Comp} {s₀ : State} (d : Delivery) {s : State} (h : Within C s₀ s) (hc : covers C [.mv] = true) : Within C s₀ (giveBack d s) := by
  unfold giveBack
  try dsimp only
  repeat' first
    | with_reducible assumption
    | exact covers_trans (by decide) hc
    | with_reducible apply modQueue_within
    | with_reducible apply modMv_within
    | with_reducible apply Within.upd
    | exact .inr (covers_mem hc (by decide))
    | with_reducible exact .inl rfl
    | with_reducible exact List.prefix_refl _
    | with_reducible exact Nat.le_refl _
    | with_reducible exact id
    | dsimp only


theorem readoutWritten_within {C : List Comp} {s₀ : State} (k : Nat) (d : Delivery) {s : State} (h : Within C s₀ s) (hc : covers C [.out, .eng, .mv, .host, .ev, .boot, .gov, .fs] = true) : Within C s₀ (readoutWritten k d s) := by
  unfold readoutWritten
  try dsimp only
  repeat' first
    | with_reducible assumption
    | exact covers_trans (by decide) hc
    | with_reducible apply emit_within
    | with_reducible apply offerEntry_within
    | with_reducible apply leaveRoute_within
    | split
    | dsimp only


theorem moveReadout_within {C : List Comp} {s₀ : State} (k : Nat) {s : State} (h : Within C s₀ s) (hc : covers C [.free, .out, .eng, .st, .mv, .host, .ev, .boot, .gov, .hm, .fs] = true) : Within C s₀ (moveReadout k s) := by
  unfold moveReadout
  try dsimp only
  repeat' first
    | with_reducible assumption
    | exact covers_trans (by decide) hc
    | with_reducible apply nextReadout_within
    | with_reducible apply giveBack_within
    | with_reducible apply readRec_within
    | with_reducible apply writeDelivery_within
    | with_reducible apply readoutWritten_within
    | with_reducible apply countCut_within
    | split
    | dsimp only


theorem execReadoutFrameDone_within {C : List Comp} {s₀ : State} (segment : Nat) {s : State} (h : Within C s₀ s) (hc : covers C [.free, .out, .eng, .st, .mv, .host, .ev, .boot, .gov, .hm, .fs] = true) : WithinO C s₀ (execReadoutFrameDone segment s) := by
  unfold execReadoutFrameDone
  try dsimp only
  repeat' first
    | dsimp only [withinO_next]
    | (with_reducible show WithinO _ _ _; split)
  repeat' first
    | with_reducible assumption
    | exact covers_trans (by decide) hc
    | with_reducible apply moveReadout_within


theorem endReadout_within {C : List Comp} {s₀ : State} (k ended : Nat) {s : State} (h : Within C s₀ s) (hc : covers C [.fs] = true) : Within C s₀ (endReadout k ended s) := by
  unfold endReadout
  try dsimp only
  repeat' first
    | with_reducible assumption
    | exact covers_trans (by decide) hc
    | with_reducible apply modFs_within
    | split
    | with_reducible apply Within.upd
    | exact .inr (covers_mem hc (by decide))
    | with_reducible exact .inl rfl
    | with_reducible exact List.prefix_refl _
    | exact List.prefix_append _ _
    | with_reducible exact Nat.le_refl _
    | with_reducible exact id
    | dsimp only


theorem execReadoutEarlyEnd_within {C : List Comp} {s₀ : State} (segment : Nat) {s : State} (h : Within C s₀ s) (hc : covers C [.out, .eng, .mv, .host, .ev, .boot, .gov, .fs] = true) : WithinO C s₀ (execReadoutEarlyEnd segment s) := by
  unfold execReadoutEarlyEnd
  try dsimp only
  repeat' first
    | dsimp only [withinO_next]
    | (with_reducible show WithinO _ _ _; split)
  repeat' first
    | with_reducible assumption
    | exact covers_trans (by decide) hc
    | with_reducible apply dropReadoutDelivery_within
    | with_reducible apply modQueue_within
    | with_reducible apply modFs_within
    | with_reducible apply offerEntry_within
    | with_reducible apply closeReadout_within
    | (with_reducible apply getD_map_within; rotate_left; intro _)
    | split
    | with_reducible apply Within.upd
    | exact .inr (covers_mem hc (by decide))
    | with_reducible exact .inl rfl
    | with_reducible exact List.prefix_refl _
    | exact List.prefix_append _ _
    | with_reducible exact Nat.le_refl _
    | with_reducible exact id
    | dsimp only


theorem opFsReadAbort_within {C : List Comp} {s₀ : State}  (c : Cmd) {s : State} (h : Within C s₀ s) (hc : covers C [.fs] = true) : WithinR C s₀ ((opFsReadAbort).act c s) := by
  dsimp only [opFsReadAbort]
  repeat' first
    | dsimp only [withinR_done, withinR_wait, withinR_fail]
    | (with_reducible show WithinR _ _ _; split)
  repeat' first
    | with_reducible assumption
    | exact covers_trans (by decide) hc
    | with_reducible apply endReadout_within


theorem execFsReadAbort_within {C : List Comp} {s₀ : State} (c : Cmd) {s : State} (h : Within C s₀ s) (hc : covers C [.out, .eng, .mv, .host, .ev, .boot, .hm, .fs] = true) : WithinO C s₀ (execFsReadAbort c s) :=
  runOp_within c (fun h => h) (fun h => opFsReadAbort_within c h (covers_trans (by decide) hc)) h (covers_trans (by decide) hc)

theorem opFsMap_within {C : List Comp} {s₀ : State}  (c : Cmd) {s : State} (h : Within C s₀ s) (hc : covers C [.fs] = true) : WithinR C s₀ ((opFsMap).act c s) := by
  dsimp only [opFsMap]
  repeat' first
    | dsimp only [withinR_done, withinR_wait, withinR_fail]
    | (with_reducible show WithinR _ _ _; split)
  repeat' first
    | with_reducible assumption
    | exact covers_trans (by decide) hc
    | with_reducible apply modFs_within
    | (with_reducible apply getD_map_within; rotate_left; intro _)
    | split
    | with_reducible apply Within.upd
    | exact .inr (covers_mem hc (by decide))
    | with_reducible exact .inl rfl
    | with_reducible exact List.prefix_refl _
    | with_reducible exact Nat.le_refl _
    | with_reducible exact id
    | with_reducible exact fun g => g.of_eq rfl rfl rfl
    | dsimp only


theorem execFsMap_within {C : List Comp} {s₀ : State} (c : Cmd) {s : State} (h : Within C s₀ s) (hc : covers C [.out, .eng, .mv, .host, .ev, .boot, .hm, .fs] = true) : WithinO C s₀ (execFsMap c s) :=
  runOp_within c (fun h => h) (fun h => opFsMap_within c h (covers_trans (by decide) hc)) h (covers_trans (by decide) hc)

theorem opFsUnmap_within {C : List Comp} {s₀ : State}  (c : Cmd) {s : State} (h : Within C s₀ s) (hc : covers C [.fs] = true) : WithinR C s₀ ((opFsUnmap).act c s) := by
  dsimp only [opFsUnmap]
  repeat' first
    | dsimp only [withinR_done, withinR_wait, withinR_fail]
    | (with_reducible show WithinR _ _ _; split)
  repeat' first
    | with_reducible assumption
    | exact covers_trans (by decide) hc
    | with_reducible apply modFs_within
    | with_reducible apply Within.upd
    | exact .inr (covers_mem hc (by decide))
    | with_reducible exact .inl rfl
    | with_reducible exact List.prefix_refl _
    | with_reducible exact Nat.le_refl _
    | with_reducible exact id
    | dsimp only


theorem execFsUnmap_within {C : List Comp} {s₀ : State} (c : Cmd) {s : State} (h : Within C s₀ s) (hc : covers C [.out, .eng, .mv, .host, .ev, .boot, .hm, .fs] = true) : WithinO C s₀ (execFsUnmap c s) :=
  runOp_within c (fun h => h) (fun h => opFsUnmap_within c h (covers_trans (by decide) hc)) h (covers_trans (by decide) hc)

end Sys2Proof.Machine
end

