-- ==== Sys2Proof/Laws/WithinMover.lean ====
section
/-!
SUPPORT. The operations of Mover: each keeps what `Within` says.
-/
namespace Sys2Proof.Machine
open Sys2Proof
set_option Elab.async false
set_option linter.all false

theorem closeRun_within {C : List Comp} {s₀ : State} (g : Nat) (st : Status) (cause residue : Nat) {s : State} (h : Within C s₀ s) (hc : covers C [.out, .eng, .mv, .host, .ev, .boot, .gov, .fs] = true) : Within C s₀ (closeRun g st cause residue s) := by
  unfold closeRun
  try dsimp only
  repeat' first
    | with_reducible assumption
    | exact covers_trans (by decide) hc
    | with_reducible apply leaveRoute_within
    | with_reducible apply putChan_within
    | with_reducible apply offerEntry_within
    | with_reducible apply endRaw_within
    | split
    | with_reducible apply Within.upd
    | exact .inr (covers_mem hc (by decide))
    | with_reducible exact .inl rfl
    | with_reducible exact List.prefix_refl _
    | exact List.prefix_append _ _
    | with_reducible exact Nat.le_refl _
    | with_reducible exact id
    | dsimp only


theorem rejectRun_within {C : List Comp} {s₀ : State} (g : Nat) (st : Status) (hops : Nat) {s : State} (h : Within C s₀ s) (hc : covers C [.out, .eng, .mv, .host, .ev, .boot, .gov, .fs] = true) : Within C s₀ (rejectRun g st hops s) := by
  unfold rejectRun
  try dsimp only
  repeat' first
    | with_reducible assumption
    | exact covers_trans (by decide) hc
    | with_reducible apply closeRun_within
    | with_reducible apply modChan_within
    | with_reducible apply Within.upd
    | exact .inr (covers_mem hc (by decide))
    | with_reducible exact .inl rfl
    | with_reducible exact List.prefix_refl _
    | with_reducible exact Nat.le_refl _
    | with_reducible exact id
    | dsimp only


theorem startRun_within {C : List Comp} {s₀ : State} (g hops : Nat) {s : State} (h : Within C s₀ s) (hc : covers C [.free, .out, .eng, .mv, .host, .ev, .boot, .gov, .fs] = true) : Within C s₀ (startRun g hops s) := by
  unfold startRun
  try dsimp only
  repeat' first
    | with_reducible assumption
    | exact covers_trans (by decide) hc
    | with_reducible apply leaveRoute_within
    | with_reducible apply putChan_within
    | with_reducible apply rejectRun_within
    | with_reducible apply displace_within
    | split
    | with_reducible apply Within.upd
    | exact .inr (covers_mem hc (by decide))
    | with_reducible exact .inl rfl
    | with_reducible exact List.prefix_refl _
    | exact List.prefix_append _ _
    | with_reducible exact Nat.le_refl _
    | with_reducible exact id
    | dsimp only


theorem takeCounted_within {C : List Comp} {s₀ : State} (t index n : Nat) {s : State} (h : Within C s₀ s) (hc : covers C [.ev] = true) : Within C s₀ (takeCounted t index n s).2 := by
  unfold takeCounted
  try dsimp only
  repeat' first
    | with_reducible assumption
    | exact covers_trans (by decide) hc
    | with_reducible apply modEv_within
    | with_reducible apply Within.upd
    | exact .inr (covers_mem hc (by decide))
    | with_reducible exact .inl rfl
    | with_reducible exact List.prefix_refl _
    | with_reducible exact Nat.le_refl _
    | with_reducible exact id
    | with_reducible exact fun g => g.of_eq rfl rfl rfl
    | dsimp only

theorem takeCounted_within_eq {C : List Comp} {s₀ : State} {t index n : Nat} {s : State} {x₁} {t₁ : State} (h : Within C s₀ s) (hc : covers C [.ev] = true) (e : takeCounted t index n s = (x₁, t₁)) : Within C s₀ t₁ := by
  have := takeCounted_within t index n h hc
  rw [e] at this
  exact this

theorem takeGo_within {C : List Comp} {s₀ : State} (chan n : Nat) {s : State} (h : Within C s₀ s) (hc : covers C [.free, .out, .eng, .mv, .host, .ev, .boot, .gov, .fs] = true) : Within C s₀ (takeGo chan n s) := by
  unfold takeGo
  try dsimp only
  repeat' first
    | with_reducible assumption
    | exact covers_trans (by decide) hc
    | with_reducible apply takeCounted_within
    | with_reducible refine takeCounted_within_eq ?_ ?_ (by assumption)
    | with_reducible apply modChan_within
    | with_reducible apply displace_within
    | with_reducible apply modMv_within
    | with_reducible refine takeInput_within ?_ ?_ (by assumption)
    | with_reducible apply startRun_within
    | split
    | with_reducible apply Within.upd
    | exact .inr (covers_mem hc (by decide))
    | with_reducible exact .inl rfl
    | with_reducible exact List.prefix_refl _
    | with_reducible exact Nat.le_refl _
    | with_reducible exact id
    | dsimp only


theorem execGoInput_within {C : List Comp} {s₀ : State} (chan n : Nat) {s : State} (h : Within C s₀ s) (hc : covers C [.free, .out, .eng, .mv, .host, .ev, .boot, .gov, .fs] = true) : WithinO C s₀ (execGoInput chan n s) := by
  unfold execGoInput
  try dsimp only
  repeat' first
    | dsimp only [withinO_next]
    | (with_reducible show WithinO _ _ _; split)
  repeat' first
    | with_reducible assumption
    | exact covers_trans (by decide) hc
    | with_reducible apply takeGo_within


theorem goFirst_within {C : List Comp} {s₀ : State} (g : Nat) {s : State} (h : Within C s₀ s) (hc : covers C [.free, .out, .eng, .mv, .host, .ev, .boot, .gov, .fs] = true) : Within C s₀ (goFirst g s) := by
  unfold goFirst
  try dsimp only
  repeat' first
    | with_reducible assumption
    | exact covers_trans (by decide) hc
    | with_reducible apply takeGo_within


theorem writeStart_within {C : List Comp} {s₀ : State} (port g : Nat) {s : State} (h : Within C s₀ s) (hc : covers C [.free, .out, .eng, .mv, .host, .ev, .boot, .gov, .fs] = true) : Within C s₀ (writeStart port g s) := by
  unfold writeStart
  try dsimp only
  repeat' first
    | with_reducible assumption
    | exact covers_trans (by decide) hc
    | with_reducible apply ignoreWrite_within
    | with_reducible apply goFirst_within
    | with_reducible apply startRun_within
    | split
    | dsimp only


theorem execMvStart_within {C : List Comp} {s₀ : State} (port chan : Nat) {s : State} (h : Within C s₀ s) (hc : covers C [.free, .out, .eng, .mv, .host, .ev, .boot, .gov, .fs] = true) : WithinO C s₀ (execMvStart port chan s) := by
  unfold execMvStart
  try dsimp only
  repeat' first
    | dsimp only [withinO_next]
    | (with_reducible show WithinO _ _ _; split)
  repeat' first
    | with_reducible assumption
    | exact covers_trans (by decide) hc
    | with_reducible apply writeStart_within


theorem abortRun_within {C : List Comp} {s₀ : State} (g cause : Nat) {s : State} (h : Within C s₀ s) (hc : covers C [.mv] = true) : Within C s₀ (abortRun g cause s) := by
  unfold abortRun
  try dsimp only
  repeat' first
    | with_reducible assumption
    | exact covers_trans (by decide) hc
    | with_reducible apply putChan_within
    | split
    | with_reducible apply Within.upd
    | exact .inr (covers_mem hc (by decide))
    | with_reducible exact .inl rfl
    | with_reducible exact List.prefix_refl _
    | with_reducible exact Nat.le_refl _
    | with_reducible exact id
    | dsimp only


theorem writeAbort_within {C : List Comp} {s₀ : State} (port g : Nat) {s : State} (h : Within C s₀ s) (hc : covers C [.free, .out, .eng, .mv, .host, .ev, .boot, .gov, .fs] = true) : Within C s₀ (writeAbort port g s) := by
  unfold writeAbort
  try dsimp only
  repeat' first
    | with_reducible assumption
    | exact covers_trans (by decide) hc
    | with_reducible apply ignoreWrite_within
    | with_reducible apply abortRun_within
    | with_reducible apply goFirst_within
    | split


theorem execMvAbortBit_within {C : List Comp} {s₀ : State} (port chan : Nat) {s : State} (h : Within C s₀ s) (hc : covers C [.free, .out, .eng, .mv, .host, .ev, .boot, .gov, .fs] = true) : WithinO C s₀ (execMvAbortBit port chan s) := by
  unfold execMvAbortBit
  try dsimp only
  repeat' first
    | dsimp only [withinO_next]
    | (with_reducible show WithinO _ _ _; split)
  repeat' first
    | with_reducible assumption
    | exact covers_trans (by decide) hc
    | with_reducible apply writeAbort_within


theorem yieldRun_within {C : List Comp} {s₀ : State} (g : Nat) {s : State} (h : Within C s₀ s) (hc : covers C [.out, .mv, .gov] = true) : Within C s₀ (yieldRun g s) := by
  unfold yieldRun
  try dsimp only
  repeat' first
    | with_reducible assumption
    | exact covers_trans (by decide) hc
    | with_reducible apply yieldTo_within
    | dsimp only


theorem issueAll_within {C : List Comp} {s₀ : State} (g : Nat) (source : List Byte) (n₀ : Nat) {s : State} (h : Within C s₀ s) (hc : covers C [.out, .mv, .gov] = true) : Within C s₀ (issueAll g source n₀ s) := by
  induction n₀ generalizing s with
  | zero => exact h
  | succ n₀ ih =>
    unfold issueAll
    try dsimp only
    repeat' first
      | with_reducible assumption
      | with_reducible apply ih
      | exact covers_trans (by decide) hc
      | with_reducible apply yieldRun_within
      | with_reducible apply issueBurst_within
      | split
      | dsimp only


theorem runDone_within {C : List Comp} {s₀ : State} (g : Nat) (st : Status) (cause : Nat) {s : State} (h : Within C s₀ s) (hc : covers C [.out, .eng, .mv, .host, .ev, .boot, .gov, .fs] = true) : Within C s₀ (runDone g st cause s) := by
  unfold runDone
  try dsimp only
  repeat' first
    | with_reducible assumption
    | exact covers_trans (by decide) hc
    | with_reducible apply emit_within
    | with_reducible apply putChan_within
    | with_reducible apply closeRun_within
    | split
    | with_reducible apply Within.upd
    | exact .inr (covers_mem hc (by decide))
    | with_reducible exact .inl rfl
    | with_reducible exact List.prefix_refl _
    | with_reducible exact Nat.le_refl _
    | with_reducible exact id
    | dsimp only


theorem execMoverRunComplete_within {C : List Comp} {s₀ : State} (chan : Nat) (source : List Byte) {s : State} (h : Within C s₀ s) (hc : covers C [.out, .eng, .mv, .host, .ev, .boot, .gov, .fs] = true) : WithinO C s₀ (execMoverRunComplete chan source s) := by
  unfold execMoverRunComplete
  try dsimp only
  repeat' first
    | dsimp only [withinO_next]
    | (with_reducible show WithinO _ _ _; split)
  repeat' first
    | with_reducible assumption
    | exact covers_trans (by decide) hc
    | with_reducible apply issueAll_within
    | with_reducible apply runDone_within
    | with_reducible apply putChan_within
    | split
    | with_reducible apply Within.upd
    | exact .inr (covers_mem hc (by decide))
    | with_reducible exact .inl rfl
    | with_reducible exact List.prefix_refl _
    | with_reducible exact Nat.le_refl _
    | with_reducible exact id
    | dsimp only


theorem execMoverAbortDone_within {C : List Comp} {s₀ : State} (chan bursts : Nat) (source : List Byte) {s : State} (h : Within C s₀ s) (hc : covers C [.out, .eng, .mv, .host, .ev, .boot, .gov, .fs] = true) : WithinO C s₀ (execMoverAbortDone chan bursts source s) := by
  unfold execMoverAbortDone
  try dsimp only
  repeat' first
    | dsimp only [withinO_next]
    | (with_reducible show WithinO _ _ _; split)
  repeat' first
    | with_reducible assumption
    | exact covers_trans (by decide) hc
    | with_reducible apply issueBurst_within
    | with_reducible apply yieldRun_within
    | with_reducible apply runDone_within
    | with_reducible apply issueAll_within
    | split
    | dsimp only


theorem raiseDropped_within {C : List Comp} {s₀ : State} (g : Nat) {s : State} (h : Within C s₀ s) (hc : covers C [.mv, .ev] = true) : Within C s₀ (raiseDropped g s) := by
  unfold raiseDropped
  try dsimp only
  repeat' first
    | with_reducible assumption
    | exact covers_trans (by decide) hc
    | with_reducible apply modMv_within
    | with_reducible apply raise_within
    | split
    | with_reducible apply Within.upd
    | exact .inr (covers_mem hc (by decide))
    | with_reducible exact .inl rfl
    | with_reducible exact List.prefix_refl _
    | with_reducible exact Nat.le_refl _
    | with_reducible exact id
    | dsimp only


theorem undelivered_within {C : List Comp} {s₀ : State} (g : Nat) (f : Frame) {s : State} (h : Within C s₀ s) (hc : covers C [.eng, .st, .ev, .gov, .fs] = true) : Within C s₀ (undelivered g f s) := by
  unfold undelivered
  try dsimp only
  repeat' first
    | with_reducible assumption
    | exact covers_trans (by decide) hc
    | with_reducible apply sweepFrames_within
    | with_reducible apply modFrame_within
    | with_reducible apply leaveBacklog_within
    | with_reducible apply Within.upd
    | exact .inr (covers_mem hc (by decide))
    | with_reducible exact .inl rfl
    | with_reducible exact List.prefix_refl _
    | with_reducible exact Nat.le_refl _
    | with_reducible exact id
    | dsimp only


theorem noBuffer_within {C : List Comp} {s₀ : State} (g : Nat) (f : Frame) {s : State} (h : Within C s₀ s) (hc : covers C [.eng, .st, .mv, .ev, .gov, .fs] = true) : Within C s₀ (noBuffer g f s) := by
  unfold noBuffer
  try dsimp only
  repeat' first
    | with_reducible assumption
    | exact covers_trans (by decide) hc
    | with_reducible apply modQueue_within
    | with_reducible apply raiseDropped_within
    | with_reducible apply undelivered_within
    | with_reducible apply Within.upd
    | exact .inr (covers_mem hc (by decide))
    | with_reducible exact .inl rfl
    | with_reducible exact List.prefix_refl _
    | exact List.prefix_append _ _
    | with_reducible exact Nat.le_refl _
    | with_reducible exact id
    | dsimp only


theorem enterBacklog_within {C : List Comp} {s₀ : State} (g : Nat) (f : Frame) {s : State} (h : Within C s₀ s) (hc : covers C [.eng, .st, .mv, .ev, .gov, .fs] = true) : Within C s₀ (enterBacklog g s f) := by
  unfold enterBacklog
  try dsimp only
  repeat' first
    | with_reducible assumption
    | exact covers_trans (by decide) hc
    | with_reducible apply modTileGov_within
    | with_reducible apply modFrame_within
    | with_reducible apply noBuffer_within
    | with_reducible apply giveBack_within
    | split
    | with_reducible apply Within.upd
    | exact .inr (covers_mem hc (by decide))
    | with_reducible exact .inl rfl
    | with_reducible exact List.prefix_refl _
    | with_reducible exact Nat.le_refl _
    | with_reducible exact id
    | dsimp only


theorem holdFrames_within {C : List Comp} {s₀ : State} (g : Nat) {s : State} (h : Within C s₀ s) (hc : covers C [.eng, .st, .mv, .ev, .gov, .fs] = true) : Within C s₀ (holdFrames g s) := by
  unfold holdFrames
  try dsimp only
  repeat' first
    | with_reducible assumption
    | exact covers_trans (by decide) hc
    | with_reducible apply enterBacklog_within
    | (with_reducible apply foldl_within; rotate_left; (intro _ _ _; try dsimp only))
    | dsimp only


theorem execFrameDeliveryStart_within {C : List Comp} {s₀ : State} (channel : Nat) {s : State} (h : Within C s₀ s) (hc : covers C [.out, .eng, .st, .mv, .host, .ev, .gov, .fs] = true) : WithinO C s₀ (execFrameDeliveryStart channel s) := by
  unfold execFrameDeliveryStart
  try dsimp only
  repeat' first
    | dsimp only [withinO_next]
    | (with_reducible show WithinO _ _ _; split)
  repeat' first
    | with_reducible assumption
    | exact covers_trans (by decide) hc
    | with_reducible apply undelivered_within
    | with_reducible apply holdFrames_within
    | with_reducible refine takeBuffer_within ?_ ?_ (by assumption)
    | with_reducible apply noBuffer_within
    | with_reducible apply modFrame_within
    | with_reducible apply modMv_within
    | with_reducible apply leaveRoute_within
    | split
    | with_reducible apply Within.upd
    | exact .inr (covers_mem hc (by decide))
    | with_reducible exact .inl rfl
    | with_reducible exact List.prefix_refl _
    | exact List.prefix_append _ _
    | with_reducible exact Nat.le_refl _
    | with_reducible exact id
    | dsimp only


theorem completeLive_within {C : List Comp} {s₀ : State} (g : Nat) (d : Delivery) (st : Status) {s : State} (h : Within C s₀ s) (hc : covers C [.out, .eng, .st, .mv, .host, .ev, .boot, .gov, .fs] = true) : Within C s₀ (completeLive g d st s) := by
  unfold completeLive
  try dsimp only
  repeat' first
    | with_reducible assumption
    | exact covers_trans (by decide) hc
    | with_reducible apply modMv_within
    | with_reducible apply leaveBacklog_within
    | with_reducible apply modFrame_within
    | with_reducible apply sweepFrames_within
    | with_reducible apply offerEntry_within
    | with_reducible apply leaveRoute_within
    | with_reducible apply Within.upd
    | exact .inr (covers_mem hc (by decide))
    | with_reducible exact .inl rfl
    | with_reducible exact List.prefix_refl _
    | exact List.prefix_append _ _
    | with_reducible exact Nat.le_refl _
    | with_reducible exact id
    | dsimp only


theorem markCut_within {C : List Comp} {s₀ : State} (g : Nat) (f : Frame) {s : State} (h : Within C s₀ s) (hc : covers C [.st, .fs] = true) : Within C s₀ (markCut g f s) := by
  unfold markCut
  try dsimp only
  repeat' first
    | with_reducible assumption
    | exact covers_trans (by decide) hc
    | with_reducible apply modRecs_within
    | with_reducible apply modFrame_within
    | with_reducible apply countChannel_within
    | split
    | with_reducible apply Within.upd
    | exact .inr (covers_mem hc (by decide))
    | with_reducible exact .inl rfl
    | with_reducible exact List.prefix_refl _
    | with_reducible exact Nat.le_refl _
    | with_reducible exact id
    | dsimp only


theorem execFrameDeliveryComplete_within {C : List Comp} {s₀ : State} (channel : Nat) {s : State} (h : Within C s₀ s) (hc : covers C [.free, .out, .eng, .st, .mv, .host, .ev, .boot, .gov, .fs] = true) : WithinO C s₀ (execFrameDeliveryComplete channel s) := by
  unfold execFrameDeliveryComplete
  try dsimp only
  repeat' first
    | dsimp only [withinO_next]
    | (with_reducible show WithinO _ _ _; split)
  repeat' first
    | with_reducible assumption
    | exact covers_trans (by decide) hc
    | with_reducible apply writeDelivery_within
    | with_reducible apply holdFrames_within
    | with_reducible apply markCut_within
    | with_reducible apply emit_within
    | with_reducible apply completeLive_within
    | split
    | with_reducible apply Within.upd
    | exact .inr (covers_mem hc (by decide))
    | with_reducible exact .inl rfl
    | with_reducible exact List.prefix_refl _
    | with_reducible exact Nat.le_refl _
    | with_reducible exact id
    | with_reducible exact fun g => g.of_eq rfl rfl rfl
    | dsimp only


theorem flushReadout_within {C : List Comp} {s₀ : State} (g : Nat) (timeout : Bool) {s : State} (h : Within C s₀ s) (hc : covers C [.out, .eng, .mv, .host, .ev, .boot, .gov, .fs] = true) : Within C s₀ (flushReadout g timeout s) := by
  unfold flushReadout
  try dsimp only
  repeat' first
    | with_reducible assumption
    | exact covers_trans (by decide) hc
    | with_reducible apply modDelivery_within
    | with_reducible apply offerEntry_within
    | with_reducible apply leaveRoute_within
    | split
    | with_reducible apply Within.upd
    | exact .inr (covers_mem hc (by decide))
    | with_reducible exact .inl rfl
    | with_reducible exact List.prefix_refl _
    | exact List.prefix_append _ _
    | with_reducible exact Nat.le_refl _
    | with_reducible exact id
    | dsimp only


theorem flushDone_within {C : List Comp} {s₀ : State} (live : Bool) (chan : Nat) (timeout : Bool) {s : State} (h : Within C s₀ s) (hc : covers C [.out, .eng, .st, .mv, .host, .ev, .boot, .gov, .fs] = true) : Within C s₀ (flushDone live chan timeout s) := by
  unfold flushDone
  try dsimp only
  repeat' first
    | with_reducible assumption
    | exact covers_trans (by decide) hc
    | with_reducible apply completeLive_within
    | with_reducible apply closeRun_within
    | with_reducible apply flushReadout_within
    | split
    | dsimp only


theorem execFlushReadDone_within {C : List Comp} {s₀ : State} (live : Bool) (chan : Nat) (timeout : Bool) {s : State} (h : Within C s₀ s) (hc : covers C [.out, .eng, .st, .mv, .host, .ev, .boot, .gov, .fs] = true) : WithinO C s₀ (execFlushReadDone live chan timeout s) := by
  unfold execFlushReadDone
  try dsimp only
  repeat' first
    | dsimp only [withinO_next]
    | (with_reducible show WithinO _ _ _; split)
  repeat' first
    | with_reducible assumption
    | exact covers_trans (by decide) hc
    | with_reducible apply flushDone_within


theorem opMvReserve_within {C : List Comp} {s₀ : State}  (c : Cmd) {s : State} (h : Within C s₀ s) (hc : covers C [.eng, .mv] = true) : WithinR C s₀ ((opMvReserve).act c s) := by
  dsimp only [opMvReserve]
  repeat' first
    | dsimp only [withinR_done, withinR_wait, withinR_fail]
    | (with_reducible show WithinR _ _ _; split)
  repeat' first
    | with_reducible assumption
    | exact covers_trans (by decide) hc
    | with_reducible apply putChan_within
    | with_reducible apply modMv_within
    | with_reducible apply createObj_within
    | (with_reducible apply getD_map_within; rotate_left; intro _)
    | split
    | with_reducible apply Within.upd
    | exact .inr (covers_mem hc (by decide))
    | with_reducible exact .inl rfl
    | with_reducible exact List.prefix_refl _
    | with_reducible exact Nat.le_refl _
    | with_reducible exact id
    | dsimp only


theorem execMvReserve_within {C : List Comp} {s₀ : State} (c : Cmd) {s : State} (h : Within C s₀ s) (hc : covers C [.out, .eng, .mv, .host, .ev, .boot, .hm] = true) : WithinO C s₀ (execMvReserve c s) :=
  runOp_within c (fun h => h) (fun h => opMvReserve_within c h (covers_trans (by decide) hc)) h (covers_trans (by decide) hc)

theorem releaseChan_within {C : List Comp} {s₀ : State} (op : Nat) (c : Cmd) (g : Nat) {s : State} (h : Within C s₀ s) (hc : covers C [.eng, .mv, .host, .ev] = true) : WithinR C s₀ (releaseChan op c g s) := by
  unfold releaseChan
  try dsimp only
  repeat' first
    | dsimp only [withinR_done, withinR_wait, withinR_fail]
    | (with_reducible show WithinR _ _ _; split)
  repeat' first
    | with_reducible assumption
    | exact covers_trans (by decide) hc
    | with_reducible apply addWait_within
    | with_reducible apply modChan_within
    | with_reducible apply abortRun_within
    | with_reducible apply freeReservation_within
    | split
    | with_reducible apply Within.upd
    | exact .inr (covers_mem hc (by decide))
    | with_reducible exact .inl rfl
    | with_reducible exact List.prefix_refl _
    | with_reducible exact Nat.le_refl _
    | with_reducible exact id
    | with_reducible exact fun g => g.of_eq rfl rfl rfl
    | dsimp only


theorem opMvRelease_first_within {C : List Comp} {s₀ : State}  (c : Cmd) {s : State} (h : Within C s₀ s) (hc : covers C [.free, .out, .eng, .mv, .host, .ev, .boot, .gov, .fs] = true) : Within C s₀ ((opMvRelease).first c s) := by
  dsimp only [opMvRelease]
  repeat' first
    | with_reducible assumption
    | exact covers_trans (by decide) hc
    | with_reducible apply goFirst_within
    | with_reducible apply releaseChan_within


theorem opMvRelease_within {C : List Comp} {s₀ : State}  (c : Cmd) {s : State} (h : Within C s₀ s) (hc : covers C [.free, .out, .eng, .mv, .host, .ev, .boot, .gov, .fs] = true) : WithinR C s₀ ((opMvRelease).act c s) := by
  dsimp only [opMvRelease]
  repeat' first
    | dsimp only [withinR_done, withinR_wait, withinR_fail]
    | (with_reducible show WithinR _ _ _; split)
  repeat' first
    | with_reducible assumption
    | exact covers_trans (by decide) hc
    | with_reducible apply goFirst_within
    | with_reducible apply releaseChan_within


theorem execMvRelease_within {C : List Comp} {s₀ : State} (c : Cmd) {s : State} (h : Within C s₀ s) (hc : covers C [.free, .out, .eng, .mv, .host, .ev, .boot, .gov, .hm, .fs] = true) : WithinO C s₀ (execMvRelease c s) :=
  runOp_within c (fun h => opMvRelease_first_within c h (covers_trans (by decide) hc)) (fun h => opMvRelease_within c h (covers_trans (by decide) hc)) h (covers_trans (by decide) hc)

theorem opMvQuery_within {C : List Comp} {s₀ : State}  (c : Cmd) {s : State} (h : Within C s₀ s) (_hc : covers C [] = true) : WithinR C s₀ ((opMvQuery).act c s) := by
  dsimp only [opMvQuery]
  repeat' first
    | dsimp only [withinR_done, withinR_wait, withinR_fail]
    | (with_reducible show WithinR _ _ _; split)
  repeat' first
    | with_reducible assumption


theorem execMvQuery_within {C : List Comp} {s₀ : State} (c : Cmd) {s : State} (h : Within C s₀ s) (hc : covers C [.out, .eng, .mv, .host, .ev, .boot, .hm] = true) : WithinO C s₀ (execMvQuery c s) :=
  runOp_within c (fun h => h) (fun h => opMvQuery_within c h (covers_trans (by decide) hc)) h (covers_trans (by decide) hc)

theorem opMvAbort_first_within {C : List Comp} {s₀ : State}  (c : Cmd) {s : State} (h : Within C s₀ s) (hc : covers C [.free, .out, .eng, .mv, .host, .ev, .boot, .gov, .fs] = true) : Within C s₀ ((opMvAbort).first c s) := by
  dsimp only [opMvAbort]
  repeat' first
    | with_reducible assumption
    | exact covers_trans (by decide) hc
    | with_reducible apply goFirst_within
    | with_reducible apply addWait_within
    | with_reducible apply modChan_within
    | with_reducible apply abortRun_within
    | split
    | with_reducible apply Within.upd
    | exact .inr (covers_mem hc (by decide))
    | with_reducible exact .inl rfl
    | with_reducible exact List.prefix_refl _
    | with_reducible exact Nat.le_refl _
    | with_reducible exact id
    | with_reducible exact fun g => g.of_eq rfl rfl rfl
    | dsimp only


theorem opMvAbort_within {C : List Comp} {s₀ : State}  (c : Cmd) {s : State} (h : Within C s₀ s) (hc : covers C [.free, .out, .eng, .mv, .host, .ev, .boot, .gov, .fs] = true) : WithinR C s₀ ((opMvAbort).act c s) := by
  dsimp only [opMvAbort]
  repeat' first
    | dsimp only [withinR_done, withinR_wait, withinR_fail]
    | (with_reducible show WithinR _ _ _; split)
  repeat' first
    | with_reducible assumption
    | exact covers_trans (by decide) hc
    | with_reducible apply goFirst_within
    | with_reducible apply addWait_within
    | with_reducible apply modChan_within
    | with_reducible apply abortRun_within
    | split
    | with_reducible apply Within.upd
    | exact .inr (covers_mem hc (by decide))
    | with_reducible exact .inl rfl
    | with_reducible exact List.prefix_refl _
    | with_reducible exact Nat.le_refl _
    | with_reducible exact id
    | with_reducible exact fun g => g.of_eq rfl rfl rfl
    | dsimp only


theorem execMvAbort_within {C : List Comp} {s₀ : State} (c : Cmd) {s : State} (h : Within C s₀ s) (hc : covers C [.free, .out, .eng, .mv, .host, .ev, .boot, .gov, .hm, .fs] = true) : WithinO C s₀ (execMvAbort c s) :=
  runOp_within c (fun h => opMvAbort_first_within c h (covers_trans (by decide) hc)) (fun h => opMvAbort_within c h (covers_trans (by decide) hc)) h (covers_trans (by decide) hc)

end Sys2Proof.Machine
end

