-- ==== Sys2Proof/Laws/WithinHost.lean ====
section
/-!
SUPPORT. The operations of Host: each keeps what `Within` says.
-/
namespace Sys2Proof.Machine
open Sys2Proof
set_option Elab.async false
set_option linter.all false

theorem replaySaved_within {C : List Comp} {s₀ : State} (p : Nat) (mine : SavedWrite → Bool) (via : Nat) {s : State} (h : Within C s₀ s) (hc : covers C [.out, .host] = true) : Within C s₀ (replaySaved p mine via s) := by
  unfold replaySaved
  try dsimp only
  repeat' first
    | with_reducible assumption
    | exact covers_trans (by decide) hc
    | with_reducible apply modHost_within
    | with_reducible apply emit_within
    | with_reducible apply modPortCounters_within
    | (with_reducible apply foldl_within; rotate_left; (intro _ _ _; try dsimp only))
    | with_reducible apply Within.upd
    | exact .inr (covers_mem hc (by decide))
    | with_reducible exact .inl rfl
    | with_reducible exact List.prefix_refl _
    | with_reducible exact Nat.le_refl _
    | with_reducible exact id
    | with_reducible exact fun g => g.of_eq rfl rfl rfl
    | dsimp only


theorem reissueSaved_within {C : List Comp} {s₀ : State} (p : Nat) (mine : ReqPurpose → Bool) (via : Nat) {s : State} (h : Within C s₀ s) (hc : covers C [.out, .host] = true) : Within C s₀ (reissueSaved p mine via s) := by
  unfold reissueSaved
  try dsimp only
  repeat' first
    | with_reducible assumption
    | exact covers_trans (by decide) hc
    | with_reducible apply modHost_within
    | with_reducible apply emit_within
    | with_reducible apply readRequests_within
    | with_reducible apply modPortCounters_within
    | (with_reducible apply foldl_within; rotate_left; (intro _ _ _; try dsimp only))
    | split
    | with_reducible apply Within.upd
    | exact .inr (covers_mem hc (by decide))
    | with_reducible exact .inl rfl
    | with_reducible exact List.prefix_refl _
    | with_reducible exact Nat.le_refl _
    | with_reducible exact id
    | with_reducible exact fun g => g.of_eq rfl rfl rfl
    | dsimp only


theorem replayMoved_within {C : List Comp} {s₀ : State} (p t b : Nat) {s : State} (h : Within C s₀ s) (hc : covers C [.out, .host] = true) : Within C s₀ (replayMoved p t b s) := by
  unfold replayMoved
  try dsimp only
  repeat' first
    | with_reducible assumption
    | exact covers_trans (by decide) hc
    | with_reducible apply reissueSaved_within
    | with_reducible apply replaySaved_within
    | (with_reducible apply foldl_within; rotate_left; (intro _ _ _; try dsimp only))
    | split
    | dsimp only


theorem unpin_within {C : List Comp} {s₀ : State} (p : Nat) {s : State} (h : Within C s₀ s) (hc : covers C [.host] = true) : Within C s₀ (unpin p s) := by
  unfold unpin
  try dsimp only
  repeat' first
    | with_reducible assumption
    | exact covers_trans (by decide) hc
    | with_reducible apply modHost_within
    | with_reducible apply Within.upd
    | exact .inr (covers_mem hc (by decide))
    | with_reducible exact .inl rfl
    | with_reducible exact List.prefix_refl _
    | with_reducible exact Nat.le_refl _
    | with_reducible exact id
    | dsimp only


theorem pin_within {C : List Comp} {s₀ : State} (p t old q : Nat) {s : State} (h : Within C s₀ s) (hc : covers C [.host] = true) : Within C s₀ (pin p t old q s) := by
  unfold pin
  try dsimp only
  repeat' first
    | with_reducible assumption
    | exact covers_trans (by decide) hc
    | with_reducible apply modHost_within
    | (with_reducible apply foldl_within; rotate_left; (intro _ _ _; try dsimp only))
    | split
    | with_reducible apply Within.upd
    | exact .inr (covers_mem hc (by decide))
    | with_reducible exact .inl rfl
    | with_reducible exact List.prefix_refl _
    | with_reducible exact Nat.le_refl _
    | with_reducible exact id
    | dsimp only


theorem moveRoute_within {C : List Comp} {s₀ : State} (p t : Nat) (away : Bool) (r : Option Nat) {s : State} (h : Within C s₀ s) (hc : covers C [.host, .ev] = true) : Within C s₀ (moveRoute p t away r s) := by
  unfold moveRoute
  try dsimp only
  repeat' first
    | with_reducible assumption
    | exact covers_trans (by decide) hc
    | with_reducible apply modHost_within
    | with_reducible apply raise_within
    | with_reducible apply modPortCounters_within
    | (with_reducible apply getD_map_within; rotate_left; intro _)
    | split
    | with_reducible apply Within.upd
    | exact .inr (covers_mem hc (by decide))
    | with_reducible exact .inl rfl
    | with_reducible exact List.prefix_refl _
    | exact List.prefix_append _ _
    | with_reducible exact Nat.le_refl _
    | with_reducible exact id
    | dsimp only


theorem rerouteOne_within {C : List Comp} {s₀ : State} (pt : Nat × Nat) {s : State} (h : Within C s₀ s) (hc : covers C [.out, .host, .ev] = true) : Within C s₀ (rerouteOne s pt) := by
  unfold rerouteOne
  try dsimp only
  repeat' first
    | with_reducible assumption
    | exact covers_trans (by decide) hc
    | with_reducible apply modHost_within
    | with_reducible apply replayMoved_within
    | with_reducible apply moveRoute_within
    | split
    | with_reducible apply Within.upd
    | exact .inr (covers_mem hc (by decide))
    | with_reducible exact .inl rfl
    | with_reducible exact List.prefix_refl _
    | exact List.prefix_append _ _
    | with_reducible exact Nat.le_refl _
    | with_reducible exact id
    | dsimp only


theorem reroute_within {C : List Comp} {s₀ : State}  {s : State} (h : Within C s₀ s) (hc : covers C [.out, .host, .ev] = true) : Within C s₀ (reroute s) := by
  unfold reroute
  try dsimp only
  repeat' first
    | with_reducible assumption
    | exact covers_trans (by decide) hc
    | with_reducible apply rerouteOne_within
    | (with_reducible apply foldl_within; rotate_left; (intro _ _ _; try dsimp only))
    | dsimp only


theorem execRouteMoveToward_within {C : List Comp} {s₀ : State} (port tile : Nat) {s : State} (h : Within C s₀ s) (hc : covers C [.host, .ev] = true) : WithinO C s₀ (execRouteMoveToward port tile s) := by
  unfold execRouteMoveToward
  try dsimp only
  repeat' first
    | dsimp only [withinO_next]
    | (with_reducible show WithinO _ _ _; split)
  repeat' first
    | with_reducible assumption
    | exact covers_trans (by decide) hc
    | with_reducible apply moveRoute_within
    | with_reducible apply pin_within
    | split


theorem sendPending_within {C : List Comp} {s₀ : State} (p v : Nat) {s : State} (h : Within C s₀ s) (hc : covers C [.out, .host] = true) : Within C s₀ (sendPending p v s) := by
  unfold sendPending
  try dsimp only
  repeat' first
    | with_reducible assumption
    | exact covers_trans (by decide) hc
    | with_reducible apply emit_within
    | with_reducible apply modHost_within
    | split
    | with_reducible apply Within.upd
    | exact .inr (covers_mem hc (by decide))
    | with_reducible exact .inl rfl
    | with_reducible exact List.prefix_refl _
    | exact List.prefix_append _ _
    | with_reducible exact Nat.le_refl _
    | with_reducible exact id
    | dsimp only


theorem sendAllPending_within {C : List Comp} {s₀ : State} (p : Nat) {s : State} (h : Within C s₀ s) (hc : covers C [.out, .host] = true) : Within C s₀ (sendAllPending p s) := by
  unfold sendAllPending
  try dsimp only
  repeat' first
    | with_reducible assumption
    | exact covers_trans (by decide) hc
    | with_reducible apply sendPending_within
    | (with_reducible apply foldl_within; rotate_left; (intro _ _ _; try dsimp only))
    | dsimp only


theorem resumeQueue_within {C : List Comp} {s₀ : State} (p : Nat) (q : Nat) {s : State} (h : Within C s₀ s) (hc : covers C [.out, .eng, .mv, .host, .ev, .boot, .gov, .fs] = true) : Within C s₀ (resumeQueue p s q) := by
  unfold resumeQueue
  try dsimp only
  repeat' first
    | with_reducible assumption
    | exact covers_trans (by decide) hc
    | with_reducible apply flushQueue_within
    | with_reducible apply signalQueue_within
    | with_reducible apply drain_within
    | split
    | dsimp only


theorem resumePort_within {C : List Comp} {s₀ : State} (p : Nat) {s : State} (h : Within C s₀ s) (hc : covers C [.out, .pkg, .eng, .mv, .host, .ev, .boot, .gov, .fs] = true) : Within C s₀ (resumePort p s) := by
  unfold resumePort
  try dsimp only
  repeat' first
    | with_reducible assumption
    | exact covers_trans (by decide) hc
    | with_reducible apply modPort_within
    | with_reducible apply reissueSaved_within
    | with_reducible apply replaySaved_within
    | with_reducible apply resumeQueue_within
    | (with_reducible apply foldl_within; rotate_left; (intro _ _ _; try dsimp only))
    | split
    | with_reducible apply Within.upd
    | exact .inr (covers_mem hc (by decide))
    | with_reducible exact .inl rfl
    | with_reducible exact List.prefix_refl _
    | with_reducible exact Nat.le_refl _
    | with_reducible exact id
    | with_reducible exact fun g => g.of_eq rfl rfl rfl
    | with_reducible exact fun k => k.of_eq rfl rfl rfl rfl
    | with_reducible exact fun k => k.both rfl rfl rfl
    | exact fun _ => PkgOk.started rfl rfl
    | dsimp only


theorem portChange_within {C : List Comp} {s₀ : State} (p : Nat) {s : State} (h : Within C s₀ s) (hc : covers C [.out, .pkg, .eng, .mv, .host, .ev, .boot, .gov, .fs] = true) : Within C s₀ (portChange p s) := by
  unfold portChange
  try dsimp only
  repeat' first
    | with_reducible assumption
    | exact covers_trans (by decide) hc
    | with_reducible apply reroute_within
    | with_reducible apply unpin_within
    | with_reducible apply sendAllPending_within
    | with_reducible apply resumePort_within
    | (with_reducible apply foldl_within; rotate_left; (intro _ _ _; try dsimp only))
    | split
    | dsimp only


theorem execPortConnectedChange_within {C : List Comp} {s₀ : State} (port : Nat) {s : State} (h : Within C s₀ s) (hc : covers C [.out, .pkg, .eng, .mv, .host, .ev, .boot, .gov, .fs] = true) : WithinO C s₀ (execPortConnectedChange port s) := by
  unfold execPortConnectedChange
  try dsimp only
  repeat' first
    | dsimp only [withinO_next]
    | (with_reducible show WithinO _ _ _; split)
  repeat' first
    | with_reducible assumption
    | exact covers_trans (by decide) hc
    | with_reducible apply portChange_within
    | split


theorem dropMaps_within {C : List Comp} {s₀ : State} (p : Nat) {s : State} (h : Within C s₀ s) (hc : covers C [.fs] = true) : Within C s₀ (dropMaps p s) := by
  unfold dropMaps
  try dsimp only
  repeat' first
    | with_reducible assumption
    | exact covers_trans (by decide) hc
    | with_reducible apply modFs_within
    | with_reducible apply Within.upd
    | exact .inr (covers_mem hc (by decide))
    | with_reducible exact .inl rfl
    | with_reducible exact List.prefix_refl _
    | with_reducible exact Nat.le_refl _
    | with_reducible exact id
    | dsimp only


theorem resetConfig_within {C : List Comp} {s₀ : State} (p : Nat) (sticky : Bool) {s : State} (h : Within C s₀ s) (hc : covers C [.host, .fs] = true) : Within C s₀ (resetConfig p sticky s) := by
  unfold resetConfig
  try dsimp only
  repeat' first
    | with_reducible assumption
    | exact covers_trans (by decide) hc
    | with_reducible apply modPort_within
    | with_reducible apply modHost_within
    | with_reducible apply dropMaps_within
    | split
    | with_reducible apply Within.upd
    | exact .inr (covers_mem hc (by decide))
    | with_reducible exact .inl rfl
    | with_reducible exact List.prefix_refl _
    | exact List.prefix_append _ _
    | with_reducible exact Nat.le_refl _
    | with_reducible exact id
    | dsimp only


theorem lostCompletion_within {C : List Comp} {s₀ : State} (p : Nat) (r : ReqPurpose) {s : State} (h : Within C s₀ s) (hc : covers C [.out, .eng, .st, .mv, .host, .ev, .boot, .gov, .fs] = true) : Within C s₀ (lostCompletion p r s) := by
  unfold lostCompletion
  try dsimp only
  repeat' first
    | with_reducible assumption
    | exact covers_trans (by decide) hc
    | with_reducible apply modPortCounters_within
    | with_reducible apply abortRun_within
    | with_reducible apply modChan_within
    | with_reducible apply flushDone_within
    | split
    | with_reducible apply Within.upd
    | exact .inr (covers_mem hc (by decide))
    | with_reducible exact .inl rfl
    | with_reducible exact List.prefix_refl _
    | exact List.prefix_append _ _
    | with_reducible exact Nat.le_refl _
    | with_reducible exact id
    | dsimp only


theorem timeoutRequest_within {C : List Comp} {s₀ : State} (p : Nat) (r : Option ReqPurpose) {s : State} (h : Within C s₀ s) (hc : covers C [.out, .eng, .st, .mv, .host, .ev, .boot, .gov, .fs] = true) : Within C s₀ (timeoutRequest p r s) := by
  unfold timeoutRequest
  try dsimp only
  repeat' first
    | with_reducible assumption
    | exact covers_trans (by decide) hc
    | with_reducible apply modPortCounters_within
    | with_reducible apply modHost_within
    | with_reducible apply aerUncorrectable_within
    | with_reducible apply raise_within
    | with_reducible apply lostCompletion_within
    | (with_reducible apply getD_map_within; rotate_left; intro _)
    | split
    | with_reducible apply Within.upd
    | exact .inr (covers_mem hc (by decide))
    | with_reducible exact .inl rfl
    | with_reducible exact List.prefix_refl _
    | exact List.prefix_append _ _
    | with_reducible exact Nat.le_refl _
    | with_reducible exact id
    | dsimp only


theorem execCompletionTimeout_within {C : List Comp} {s₀ : State} (port n : Nat) {s : State} (h : Within C s₀ s) (hc : covers C [.out, .eng, .st, .mv, .host, .ev, .boot, .gov, .hm, .fs] = true) : WithinO C s₀ (execCompletionTimeout port n s) := by
  unfold execCompletionTimeout
  try dsimp only
  repeat' first
    | dsimp only [withinO_next]
    | (with_reducible show WithinO _ _ _; split)
  repeat' first
    | with_reducible assumption
    | exact covers_trans (by decide) hc
    | with_reducible apply timeoutRequest_within
    | with_reducible apply detectorFires_within
    | split


theorem execLateCompletion_within {C : List Comp} {s₀ : State} (port : Nat) {s : State} (h : Within C s₀ s) (hc : covers C [.out, .host, .ev, .hm] = true) : WithinO C s₀ (execLateCompletion port s) := by
  unfold execLateCompletion
  try dsimp only
  repeat' first
    | dsimp only [withinO_next]
    | (with_reducible show WithinO _ _ _; split)
  repeat' first
    | with_reducible assumption
    | exact covers_trans (by decide) hc
    | with_reducible apply correctable_within
    | with_reducible apply modPortCounters_within
    | split
    | with_reducible apply Within.upd
    | exact .inr (covers_mem hc (by decide))
    | with_reducible exact .inl rfl
    | with_reducible exact List.prefix_refl _
    | with_reducible exact Nat.le_refl _
    | with_reducible exact id
    | dsimp only


theorem startVacancy_within {C : List Comp} {s₀ : State} (p : Nat) {s : State} (h : Within C s₀ s) (hc : covers C [.pkg] = true) : Within C s₀ (startVacancy p s) := by
  unfold startVacancy
  try dsimp only
  repeat' first
    | with_reducible assumption
    | exact covers_trans (by decide) hc
    | split
    | with_reducible apply Within.upd
    | exact .inr (covers_mem hc (by decide))
    | with_reducible exact .inl rfl
    | with_reducible exact List.prefix_refl _
    | with_reducible exact Nat.le_refl _
    | with_reducible exact id
    | with_reducible exact fun g => g.of_eq rfl rfl rfl
    | with_reducible exact fun k => k.of_eq rfl rfl rfl rfl
    | with_reducible exact fun k => k.both rfl rfl rfl
    | exact fun _ => PkgOk.started rfl rfl


theorem linkLoss_within {C : List Comp} {s₀ : State} (p : Nat) (saved : List SavedWrite) {s : State} (h : Within C s₀ s) (hc : covers C [.out, .pkg, .eng, .mv, .host, .ev, .boot, .gov, .fs] = true) : Within C s₀ (linkLoss p saved s) := by
  unfold linkLoss
  try dsimp only
  repeat' first
    | with_reducible assumption
    | exact covers_trans (by decide) hc
    | with_reducible apply modPort_within
    | with_reducible apply modPortCounters_within
    | with_reducible apply modHost_within
    | with_reducible apply resetConfig_within
    | with_reducible apply portChange_within
    | with_reducible apply startVacancy_within
    | with_reducible apply raise_within
    | split
    | with_reducible apply Within.upd
    | exact .inr (covers_mem hc (by decide))
    | with_reducible exact .inl rfl
    | with_reducible exact List.prefix_refl _
    | with_reducible exact Nat.le_refl _
    | with_reducible exact id
    | with_reducible exact fun g => g.of_eq rfl rfl rfl
    | dsimp only


theorem execPortLinkDown_within {C : List Comp} {s₀ : State} (port : Nat) (saved : List SavedWrite) {s : State} (h : Within C s₀ s) (hc : covers C [.out, .pkg, .eng, .mv, .host, .ev, .boot, .gov, .fs] = true) : WithinO C s₀ (execPortLinkDown port saved s) := by
  unfold execPortLinkDown
  try dsimp only
  repeat' first
    | dsimp only [withinO_next]
    | (with_reducible show WithinO _ _ _; split)
  repeat' first
    | with_reducible assumption
    | exact covers_trans (by decide) hc
    | with_reducible apply linkLoss_within


theorem execPortLinkUp_within {C : List Comp} {s₀ : State} (port : Nat) (flit : Bool) (rate width : Nat) {s : State} (h : Within C s₀ s) (hc : covers C [.out, .pkg, .eng, .mv, .host, .ev, .boot, .gov, .fs] = true) : WithinO C s₀ (execPortLinkUp port flit rate width s) := by
  unfold execPortLinkUp
  try dsimp only
  repeat' first
    | dsimp only [withinO_next]
    | (with_reducible show WithinO _ _ _; split)
  repeat' first
    | with_reducible assumption
    | exact covers_trans (by decide) hc
    | with_reducible apply modPort_within
    | with_reducible apply portChange_within
    | with_reducible apply raise_within
    | split
    | with_reducible apply Within.upd
    | exact .inr (covers_mem hc (by decide))
    | with_reducible exact .inl rfl
    | with_reducible exact List.prefix_refl _
    | with_reducible exact Nat.le_refl _
    | with_reducible exact id
    | with_reducible exact fun k => k.of_eq rfl rfl rfl rfl
    | with_reducible exact fun k => k.both rfl rfl rfl
    | exact fun _ => PkgOk.started rfl rfl
    | dsimp only


theorem execPcieRxError_within {C : List Comp} {s₀ : State} (port : Nat) (error : PcieError) (header : List Byte) {s : State} (h : Within C s₀ s) (hc : covers C [.out, .pkg, .eng, .st, .mv, .host, .ev, .boot, .gov, .hm, .fs] = true) : WithinO C s₀ (execPcieRxError port error header s) := by
  unfold execPcieRxError
  try dsimp only
  repeat' first
    | dsimp only [withinO_next]
    | (with_reducible show WithinO _ _ _; split)
  repeat' first
    | with_reducible assumption
    | exact covers_trans (by decide) hc
    | with_reducible apply correctable_within
    | with_reducible apply markErrors_within
    | with_reducible apply nonFatal_within
    | with_reducible apply lostCompletion_within
    | with_reducible apply answerUnsupported_within
    | with_reducible apply fatal_within
    | with_reducible apply linkLoss_within
    | split
    | dsimp only


theorem badShape_within {C : List Comp} {s₀ : State} (port : Nat) (read : Bool) {s : State} (h : Within C s₀ s) (hc : covers C [.free, .out, .host, .ev, .hm] = true) : Within C s₀ (badShape port read s) := by
  unfold badShape
  try dsimp only
  repeat' first
    | with_reducible assumption
    | exact covers_trans (by decide) hc
    | with_reducible apply emit_within
    | with_reducible apply nonFatal_within
    | with_reducible apply modPortCounters_within
    | with_reducible apply useFree_within
    | with_reducible apply ignoreWrite_within
    | split
    | with_reducible apply Within.upd
    | exact .inr (covers_mem hc (by decide))
    | with_reducible exact .inl rfl
    | with_reducible exact List.prefix_refl _
    | with_reducible exact Nat.le_refl _
    | with_reducible exact id
    | dsimp only


theorem execControlMalformedAccess_within {C : List Comp} {s₀ : State} (port : Nat) (read : Bool) {s : State} (h : Within C s₀ s) (hc : covers C [.free, .out, .host, .ev, .hm] = true) : WithinO C s₀ (execControlMalformedAccess port read s) := by
  unfold execControlMalformedAccess
  try dsimp only
  repeat' first
    | dsimp only [withinO_next]
    | (with_reducible show WithinO _ _ _; split)
  repeat' first
    | with_reducible assumption
    | exact covers_trans (by decide) hc
    | with_reducible apply refuseMemory_within
    | with_reducible apply badShape_within
    | split


theorem resizeStore_within {C : List Comp} {s₀ : State} (port code : Nat) {s : State} (h : Within C s₀ s) (hc : covers C [.host, .fs] = true) : Within C s₀ (resizeStore port code s) := by
  unfold resizeStore
  try dsimp only
  repeat' first
    | with_reducible assumption
    | exact covers_trans (by decide) hc
    | with_reducible apply ignoreWrite_within
    | with_reducible apply dropMaps_within
    | with_reducible apply modPort_within
    | split
    | with_reducible apply Within.upd
    | exact .inr (covers_mem hc (by decide))
    | with_reducible exact .inl rfl
    | with_reducible exact List.prefix_refl _
    | with_reducible exact Nat.le_refl _
    | with_reducible exact id
    | dsimp only


theorem execStoreResize_within {C : List Comp} {s₀ : State} (port code : Nat) {s : State} (h : Within C s₀ s) (hc : covers C [.host, .fs] = true) : WithinO C s₀ (execStoreResize port code s) := by
  unfold execStoreResize
  try dsimp only
  repeat' first
    | dsimp only [withinO_next]
    | (with_reducible show WithinO _ _ _; split)
  repeat' first
    | with_reducible assumption
    | exact covers_trans (by decide) hc
    | with_reducible apply resizeStore_within
    | split


theorem commitCompat_within {C : List Comp} {s₀ : State} (p : Nat) {s : State} (h : Within C s₀ s) (hc : covers C [.host] = true) : Within C s₀ (commitCompat p s) := by
  unfold commitCompat
  try dsimp only
  repeat' first
    | with_reducible assumption
    | exact covers_trans (by decide) hc
    | with_reducible apply modPort_within
    | split
    | with_reducible apply Within.upd
    | exact .inr (covers_mem hc (by decide))
    | with_reducible exact .inl rfl
    | with_reducible exact List.prefix_refl _
    | with_reducible exact Nat.le_refl _
    | with_reducible exact id
    | dsimp only


theorem execCompatCommit_within {C : List Comp} {s₀ : State} (port : Nat) {s : State} (h : Within C s₀ s) (hc : covers C [.host] = true) : WithinO C s₀ (execCompatCommit port s) := by
  unfold execCompatCommit
  try dsimp only
  repeat' first
    | dsimp only [withinO_next]
    | (with_reducible show WithinO _ _ _; split)
  repeat' first
    | with_reducible assumption
    | exact covers_trans (by decide) hc
    | with_reducible apply commitCompat_within
    | split


theorem unmaskVector_within {C : List Comp} {s₀ : State} (p v : Nat) {s : State} (h : Within C s₀ s) (hc : covers C [.out, .host] = true) : Within C s₀ (unmaskVector p v s) := by
  unfold unmaskVector
  try dsimp only
  repeat' first
    | with_reducible assumption
    | exact covers_trans (by decide) hc
    | with_reducible apply sendPending_within
    | with_reducible apply modHost_within
    | with_reducible apply Within.upd
    | exact .inr (covers_mem hc (by decide))
    | with_reducible exact .inl rfl
    | with_reducible exact List.prefix_refl _
    | with_reducible exact Nat.le_refl _
    | with_reducible exact id
    | dsimp only


theorem execMsixUnmask_within {C : List Comp} {s₀ : State} (port vector : Nat) {s : State} (h : Within C s₀ s) (hc : covers C [.out, .host] = true) : WithinO C s₀ (execMsixUnmask port vector s) := by
  unfold execMsixUnmask
  try dsimp only
  repeat' first
    | dsimp only [withinO_next]
    | (with_reducible show WithinO _ _ _; split)
  repeat' first
    | with_reducible assumption
    | exact covers_trans (by decide) hc
    | with_reducible apply unmaskVector_within
    | split


theorem deassertInta_within {C : List Comp} {s₀ : State} (p : Nat) {s : State} (h : Within C s₀ s) (hc : covers C [.out, .host] = true) : Within C s₀ (deassertInta p s) := by
  unfold deassertInta
  try dsimp only
  repeat' first
    | with_reducible assumption
    | exact covers_trans (by decide) hc
    | with_reducible apply emit_within
    | with_reducible apply modPort_within
    | split
    | with_reducible apply Within.upd
    | exact .inr (covers_mem hc (by decide))
    | with_reducible exact .inl rfl
    | with_reducible exact List.prefix_refl _
    | with_reducible exact Nat.le_refl _
    | with_reducible exact id
    | dsimp only


theorem clearIntx_within {C : List Comp} {s₀ : State} (p reg : Nat) (value : U32) {s : State} (h : Within C s₀ s) (hc : covers C [.out, .host] = true) : Within C s₀ (clearIntx p reg value s) := by
  unfold clearIntx
  try dsimp only
  repeat' first
    | with_reducible assumption
    | exact covers_trans (by decide) hc
    | with_reducible apply modHost_within
    | with_reducible apply deassertInta_within
    | split
    | with_reducible apply Within.upd
    | exact .inr (covers_mem hc (by decide))
    | with_reducible exact .inl rfl
    | with_reducible exact List.prefix_refl _
    | with_reducible exact Nat.le_refl _
    | with_reducible exact id
    | dsimp only


theorem execIntxStatusClear_within {C : List Comp} {s₀ : State} (port reg : Nat) (value : U32) {s : State} (h : Within C s₀ s) (hc : covers C [.out, .host] = true) : WithinO C s₀ (execIntxStatusClear port reg value s) := by
  unfold execIntxStatusClear
  try dsimp only
  repeat' first
    | dsimp only [withinO_next]
    | (with_reducible show WithinO _ _ _; split)
  repeat' first
    | with_reducible assumption
    | exact covers_trans (by decide) hc
    | with_reducible apply clearIntx_within
    | split


theorem modPtm_within {C : List Comp} {s₀ : State} (p : Nat) (f : Ptm → Ptm) {s : State} (h : Within C s₀ s) (hc : covers C [.host] = true) : Within C s₀ (modPtm p f s) := by
  unfold modPtm
  try dsimp only
  repeat' first
    | with_reducible assumption
    | exact covers_trans (by decide) hc
    | with_reducible apply modPort_within
    | with_reducible apply Within.upd
    | exact .inr (covers_mem hc (by decide))
    | with_reducible exact .inl rfl
    | with_reducible exact List.prefix_refl _
    | with_reducible exact Nat.le_refl _
    | with_reducible exact id
    | dsimp only


theorem startDialogue_within {C : List Comp} {s₀ : State} (p : Nat) (second : Bool) {s : State} (h : Within C s₀ s) (hc : covers C [.out, .host] = true) : Within C s₀ (startDialogue p second s) := by
  unfold startDialogue
  try dsimp only
  repeat' first
    | with_reducible assumption
    | exact covers_trans (by decide) hc
    | with_reducible apply emit_within
    | with_reducible apply modPtm_within
    | with_reducible apply Within.upd
    | exact .inr (covers_mem hc (by decide))
    | with_reducible exact .inl rfl
    | with_reducible exact List.prefix_refl _
    | with_reducible exact Nat.le_refl _
    | with_reducible exact id
    | dsimp only


theorem startPtm_within {C : List Comp} {s₀ : State} (p : Nat) (byInput : Bool) {s : State} (h : Within C s₀ s) (hc : covers C [.out, .host] = true) : Within C s₀ (startPtm p byInput s) := by
  unfold startPtm
  try dsimp only
  repeat' first
    | with_reducible assumption
    | exact covers_trans (by decide) hc
    | with_reducible apply startDialogue_within
    | with_reducible apply modPtm_within
    | with_reducible apply Within.upd
    | exact .inr (covers_mem hc (by decide))
    | with_reducible exact .inl rfl
    | with_reducible exact List.prefix_refl _
    | with_reducible exact Nat.le_refl _
    | with_reducible exact id
    | dsimp only


theorem execPtmPeriod_within {C : List Comp} {s₀ : State} (port : Nat) {s : State} (h : Within C s₀ s) (hc : covers C [.out, .host] = true) : WithinO C s₀ (execPtmPeriod port s) := by
  unfold execPtmPeriod
  try dsimp only
  repeat' first
    | dsimp only [withinO_next]
    | (with_reducible show WithinO _ _ _; split)
  repeat' first
    | with_reducible assumption
    | exact covers_trans (by decide) hc
    | with_reducible apply startPtm_within
    | with_reducible apply modPtm_within
    | split
    | with_reducible apply Within.upd
    | exact .inr (covers_mem hc (by decide))
    | with_reducible exact .inl rfl
    | with_reducible exact List.prefix_refl _
    | with_reducible exact Nat.le_refl _
    | with_reducible exact id
    | dsimp only


theorem execPtmNow_within {C : List Comp} {s₀ : State} (port n : Nat) {s : State} (h : Within C s₀ s) (hc : covers C [.out, .host, .ev] = true) : WithinO C s₀ (execPtmNow port n s) := by
  unfold execPtmNow
  try dsimp only
  repeat' first
    | dsimp only [withinO_next]
    | (with_reducible show WithinO _ _ _; split)
  repeat' first
    | with_reducible assumption
    | exact covers_trans (by decide) hc
    | with_reducible refine takeInput_within ?_ ?_ (by assumption)
    | with_reducible apply startPtm_within
    | split


theorem execPtmDialogueDone_within {C : List Comp} {s₀ : State} (port : Nat) (master : U64) (propagation : Nat) {s : State} (h : Within C s₀ s) (hc : covers C [.out, .host, .ev] = true) : WithinO C s₀ (execPtmDialogueDone port master propagation s) := by
  unfold execPtmDialogueDone
  try dsimp only
  repeat' first
    | dsimp only [withinO_next]
    | (with_reducible show WithinO _ _ _; split)
  repeat' first
    | with_reducible assumption
    | exact covers_trans (by decide) hc
    | with_reducible apply startDialogue_within
    | with_reducible apply modPtm_within
    | with_reducible apply raise_within
    | split
    | with_reducible apply Within.upd
    | exact .inr (covers_mem hc (by decide))
    | with_reducible exact .inl rfl
    | with_reducible exact List.prefix_refl _
    | with_reducible exact Nat.le_refl _
    | with_reducible exact id
    | dsimp only


theorem execPtmResponseTimeout_within {C : List Comp} {s₀ : State} (port : Nat) {s : State} (h : Within C s₀ s) (hc : covers C [.host] = true) : WithinO C s₀ (execPtmResponseTimeout port s) := by
  unfold execPtmResponseTimeout
  try dsimp only
  repeat' first
    | dsimp only [withinO_next]
    | (with_reducible show WithinO _ _ _; split)
  repeat' first
    | with_reducible assumption
    | exact covers_trans (by decide) hc
    | with_reducible apply modPtm_within
    | split
    | with_reducible apply Within.upd
    | exact .inr (covers_mem hc (by decide))
    | with_reducible exact .inl rfl
    | with_reducible exact List.prefix_refl _
    | with_reducible exact Nat.le_refl _
    | with_reducible exact id
    | dsimp only


theorem readPtm_within {C : List Comp} {s₀ : State} (port tile : Nat) {s : State} (h : Within C s₀ s) (hc : covers C [.out, .host] = true) : Within C s₀ (readPtm port tile s) := by
  unfold readPtm
  try dsimp only
  repeat' first
    | with_reducible assumption
    | exact covers_trans (by decide) hc
    | with_reducible apply capture_within
    | with_reducible apply emit_within
    | (with_reducible apply foldl_within; rotate_left; (intro _ _ _; try dsimp only))
    | dsimp only


theorem execPtmStatusRead_within {C : List Comp} {s₀ : State} (port tile : Nat) {s : State} (h : Within C s₀ s) (hc : covers C [.out, .host] = true) : WithinO C s₀ (execPtmStatusRead port tile s) := by
  unfold execPtmStatusRead
  try dsimp only
  repeat' first
    | dsimp only [withinO_next]
    | (with_reducible show WithinO _ _ _; split)
  repeat' first
    | with_reducible assumption
    | exact covers_trans (by decide) hc
    | with_reducible apply readPtm_within
    | split


end Sys2Proof.Machine
end

