-- ==== Sys2Proof/Laws/WithinImages.lean ====
section
/-!
SUPPORT. The operations of Images: each keeps what `Within` says.
-/
namespace Sys2Proof.Machine
open Sys2Proof
set_option Elab.async false
set_option linter.all false

theorem readArea_within {C : List Comp} {s₀ : State} (slot copy len : Nat) {s : State} (h : Within C s₀ s) (hc : covers C [.out] = true) : Within C s₀ (readArea slot copy len s) := by
  unfold readArea
  try dsimp only
  repeat' first
    | with_reducible assumption
    | exact covers_trans (by decide) hc
    | with_reducible apply emit_within


theorem readImage_within {C : List Comp} {s₀ : State} (slot copy : Nat) (img : Image) {s : State} (h : Within C s₀ s) (hc : covers C [.out] = true) : Within C s₀ (readImage slot copy img s) := by
  unfold readImage
  try dsimp only
  repeat' first
    | with_reducible assumption
    | exact covers_trans (by decide) hc
    | with_reducible apply readArea_within


theorem eraseHeader_within {C : List Comp} {s₀ : State} (slot copy : Nat) {s : State} (h : Within C s₀ s) (hc : covers C [.out] = true) : Within C s₀ (eraseHeader slot copy s) := by
  unfold eraseHeader
  try dsimp only
  repeat' first
    | with_reducible assumption
    | exact covers_trans (by decide) hc
    | with_reducible apply emit_within


theorem programArea_within {C : List Comp} {s₀ : State} (slot copy len : Nat) {s : State} (h : Within C s₀ s) (hc : covers C [.out] = true) : Within C s₀ (programArea slot copy len s) := by
  unfold programArea
  try dsimp only
  repeat' first
    | with_reducible assumption
    | exact covers_trans (by decide) hc
    | with_reducible apply emit_within
    | with_reducible apply readArea_within
    | split
    | dsimp only


theorem modBoot_within {C : List Comp} {s₀ s : State} (f : BootState → BootState) (h : Within C s₀ s) (hc : covers C [.boot] = true)
    (hf : ∀ b, b.rollback ≤ (f b).rollback) (hu : (∀ b, (f b).rollback = b.rollback) ∨ Comp.fuse ∈ C) : Within C s₀ (modBoot s f) :=
  h.trans ⟨rfl, rfl, rfl, List.prefix_refl _, hf _, id, id, fun c m => by
    cases c <;> first | rfl | exact absurd (covers_mem hc rfl) m | exact (hu.resolve_right m) _⟩


theorem noteResult_rollback (n r : Nat) (b : BootState) : (noteResult n r b).rollback = b.rollback := by
  unfold noteResult
  split <;> rfl

theorem setSlot_within {C : List Comp} {s₀ : State} (n : Nat) (e : SlotEntry) {s : State} (h : Within C s₀ s) (hc : covers C [.boot] = true) :
    Within C s₀ (setSlot n e s) :=
  modBoot_within _ h (covers_trans (by decide) hc) (fun b => Nat.le_of_eq (noteResult_rollback n e.result b).symm)
    (.inl fun b => noteResult_rollback n e.result b)


end Sys2Proof.Machine
end

