-- ==== Sys2Proof/Laws/WithinRedundancy.lean ====
section
/-!
SUPPORT. The operations of Redundancy: each keeps what `Within` says.
-/
namespace Sys2Proof.Machine
open Sys2Proof
set_option Elab.async false
set_option linter.all false

theorem modRd_within {C : List Comp} {s₀ : State} (f : RedundState → RedundState) {s : State} (h : Within C s₀ s) (hc : covers C [.rd] = true) : Within C s₀ (modRd s f) := by
  unfold modRd
  try dsimp only
  repeat' first
    | with_reducible assumption
    | exact covers_trans (by decide) hc
    | with_reducible apply Within.upd
    | exact .inr (covers_mem hc (by decide))
    | with_reducible exact .inl rfl
    | with_reducible exact List.prefix_refl _
    | with_reducible exact Nat.le_refl _
    | with_reducible exact id


theorem modCe_within {C : List Comp} {s₀ : State} (e : Nat) (f : CmdEngine → CmdEngine) {s : State} (h : Within C s₀ s) (hc : covers C [.rd] = true) : Within C s₀ (modCe e f s) := by
  unfold modCe
  try dsimp only
  repeat' first
    | with_reducible assumption
    | exact covers_trans (by decide) hc
    | with_reducible apply modRd_within
    | with_reducible apply Within.upd
    | exact .inr (covers_mem hc (by decide))
    | with_reducible exact .inl rfl
    | with_reducible exact List.prefix_refl _
    | with_reducible exact Nat.le_refl _
    | with_reducible exact id
    | with_reducible exact fun g => g.of_eq rfl rfl rfl
    | dsimp only


theorem raiseEngine_within {C : List Comp} {s₀ : State} (e kind cause : Nat) {s : State} (h : Within C s₀ s) (hc : covers C [.ev] = true) : Within C s₀ (raiseEngine e kind cause s) := by
  unfold raiseEngine
  try dsimp only
  repeat' first
    | with_reducible assumption
    | exact covers_trans (by decide) hc
    | with_reducible apply raise_within


theorem holdServo_within {C : List Comp} {s₀ : State}  {s : State} (h : Within C s₀ s) (hc : covers C [.free, .time] = true) : Within C s₀ (holdServo s) := by
  unfold holdServo
  try dsimp only
  repeat' first
    | with_reducible assumption
    | exact covers_trans (by decide) hc
    | with_reducible apply holdFrequency_within
    | split


theorem silence_within {C : List Comp} {s₀ : State}  {s : State} (h : Within C s₀ s) (hc : covers C [.free, .eng, .time] = true) : Within C s₀ (silence s) := by
  unfold silence
  try dsimp only
  repeat' first
    | with_reducible assumption
    | exact covers_trans (by decide) hc
    | with_reducible apply modEng_within
    | with_reducible apply holdServo_within
    | with_reducible apply Within.upd
    | exact .inr (covers_mem hc (by decide))
    | with_reducible exact .inl rfl
    | with_reducible exact List.prefix_refl _
    | with_reducible exact Nat.le_refl _
    | with_reducible exact id
    | with_reducible exact fun _ g => g.of_eq rfl rfl rfl
    | dsimp only


theorem strand_within {C : List Comp} {s₀ : State} (e : Nat) {s : State} (h : Within C s₀ s) (hc : covers C [.rd] = true) : Within C s₀ (strand e s) := by
  unfold strand
  try dsimp only
  repeat' first
    | with_reducible assumption
    | exact covers_trans (by decide) hc
    | with_reducible apply modCe_within
    | split
    | with_reducible apply Within.upd
    | exact .inr (covers_mem hc (by decide))
    | with_reducible exact .inl rfl
    | with_reducible exact List.prefix_refl _
    | with_reducible exact Nat.le_refl _
    | with_reducible exact id
    | dsimp only


theorem haltEngine_within {C : List Comp} {s₀ : State} (e : Nat) {s : State} (h : Within C s₀ s) (hc : covers C [.free, .eng, .time, .rd] = true) : Within C s₀ (haltEngine e s) := by
  unfold haltEngine
  try dsimp only
  repeat' first
    | with_reducible assumption
    | exact covers_trans (by decide) hc
    | with_reducible apply strand_within
    | with_reducible apply silence_within
    | with_reducible apply modCe_within
    | with_reducible apply Within.upd
    | exact .inr (covers_mem hc (by decide))
    | with_reducible exact .inl rfl
    | with_reducible exact List.prefix_refl _
    | with_reducible exact Nat.le_refl _
    | with_reducible exact id
    | dsimp only


theorem requestArb_within {C : List Comp} {s₀ : State} (e cause : Nat) {s : State} (h : Within C s₀ s) (hc : covers C [.out, .ev, .rd] = true) : Within C s₀ (requestArb e cause s) := by
  unfold requestArb
  try dsimp only
  repeat' first
    | with_reducible assumption
    | exact covers_trans (by decide) hc
    | with_reducible apply raiseEngine_within
    | with_reducible apply modRd_within
    | with_reducible apply emit_within
    | split
    | with_reducible apply Within.upd
    | exact .inr (covers_mem hc (by decide))
    | with_reducible exact .inl rfl
    | with_reducible exact List.prefix_refl _
    | with_reducible exact Nat.le_refl _
    | with_reducible exact id
    | dsimp only


theorem clearArb_within {C : List Comp} {s₀ : State}  {s : State} (h : Within C s₀ s) (hc : covers C [.out, .rd] = true) : Within C s₀ (clearArb s) := by
  unfold clearArb
  try dsimp only
  repeat' first
    | with_reducible assumption
    | exact covers_trans (by decide) hc
    | with_reducible apply modRd_within
    | with_reducible apply emit_within
    | (with_reducible apply getD_map_within; rotate_left; intro _)
    | split
    | with_reducible apply Within.upd
    | exact .inr (covers_mem hc (by decide))
    | with_reducible exact .inl rfl
    | with_reducible exact List.prefix_refl _
    | with_reducible exact Nat.le_refl _
    | with_reducible exact id
    | with_reducible exact fun g => g.of_eq rfl rfl rfl
    | dsimp only


theorem endRestart_within {C : List Comp} {s₀ : State} (e : Nat) (a : Answer) {s : State} (h : Within C s₀ s) (hc : covers C [.out, .eng, .mv, .host, .boot, .rd] = true) : Within C s₀ (endRestart e a s) := by
  unfold endRestart
  try dsimp only
  repeat' first
    | with_reducible assumption
    | exact covers_trans (by decide) hc
    | with_reducible apply finish_within
    | with_reducible apply modCe_within
    | split
    | with_reducible apply Within.upd
    | exact .inr (covers_mem hc (by decide))
    | with_reducible exact .inl rfl
    | with_reducible exact List.prefix_refl _
    | with_reducible exact Nat.le_refl _
    | with_reducible exact id
    | with_reducible exact fun g => g.of_eq rfl rfl rfl
    | dsimp only


theorem enterStandby_within {C : List Comp} {s₀ : State} (e : Nat) {s : State} (h : Within C s₀ s) (hc : covers C [.gov, .rd] = true) : Within C s₀ (enterStandby e s) := by
  unfold enterStandby
  try dsimp only
  repeat' first
    | with_reducible assumption
    | exact covers_trans (by decide) hc
    | with_reducible apply addJob_within
    | with_reducible apply modCe_within
    | with_reducible apply Within.upd
    | exact .inr (covers_mem hc (by decide))
    | with_reducible exact .inl rfl
    | with_reducible exact List.prefix_refl _
    | with_reducible exact Nat.le_refl _
    | with_reducible exact id
    | with_reducible exact fun g => g.of_eq rfl rfl rfl
    | dsimp only


theorem loseStandby_within {C : List Comp} {s₀ : State} (e cause : Nat) {s : State} (h : Within C s₀ s) (hc : covers C [.ev, .gov, .rd] = true) : Within C s₀ (loseStandby e cause s) := by
  unfold loseStandby
  try dsimp only
  repeat' first
    | with_reducible assumption
    | exact covers_trans (by decide) hc
    | with_reducible apply raiseEngine_within
    | with_reducible apply modRd_within
    | with_reducible apply dropJob_within
    | split
    | with_reducible apply Within.upd
    | exact .inr (covers_mem hc (by decide))
    | with_reducible exact .inl rfl
    | with_reducible exact List.prefix_refl _
    | with_reducible exact Nat.le_refl _
    | with_reducible exact id
    | with_reducible exact fun g => g.of_eq rfl rfl rfl
    | dsimp only


theorem restartEngine_within {C : List Comp} {s₀ : State} (e : Nat) {s : State} (h : Within C s₀ s) (hc : covers C [.hm, .rd] = true) : Within C s₀ (restartEngine e s) := by
  unfold restartEngine
  try dsimp only
  repeat' first
    | with_reducible assumption
    | exact covers_trans (by decide) hc
    | with_reducible apply modCe_within
    | with_reducible apply modHm_within
    | split
    | with_reducible apply Within.upd
    | exact .inr (covers_mem hc (by decide))
    | with_reducible exact .inl rfl
    | with_reducible exact List.prefix_refl _
    | with_reducible exact Nat.le_refl _
    | with_reducible exact id
    | with_reducible exact fun g => g.of_eq rfl rfl rfl
    | with_reducible exact fun k => k.of_eq rfl rfl rfl rfl
    | with_reducible exact fun k => k.both rfl rfl rfl
    | exact fun _ => PkgOk.started rfl rfl
    | dsimp only


theorem engineFails_within {C : List Comp} {s₀ : State} (e cause : Nat) {s : State} (h : Within C s₀ s) (hc : covers C [.free, .out, .eng, .time, .ev, .gov, .hm, .rd] = true) : Within C s₀ (engineFails e cause s) := by
  unfold engineFails
  try dsimp only
  repeat' first
    | with_reducible assumption
    | exact covers_trans (by decide) hc
    | with_reducible apply requestArb_within
    | with_reducible apply haltEngine_within
    | with_reducible apply modCe_within
    | with_reducible apply restartEngine_within
    | with_reducible apply loseStandby_within
    | split
    | with_reducible apply Within.upd
    | exact .inr (covers_mem hc (by decide))
    | with_reducible exact .inl rfl
    | with_reducible exact List.prefix_refl _
    | with_reducible exact Nat.le_refl _
    | with_reducible exact id
    | with_reducible exact fun g => g.of_eq rfl rfl rfl
    | dsimp only


theorem goSimplex_within {C : List Comp} {s₀ : State} (cause : Nat) {s : State} (h : Within C s₀ s) (hc : covers C [.ev] = true) : Within C s₀ (goSimplex cause s) := by
  unfold goSimplex
  try dsimp only
  repeat' first
    | with_reducible assumption
    | exact covers_trans (by decide) hc
    | with_reducible apply raiseEngine_within
    | split


theorem engineTileOut_within {C : List Comp} {s₀ : State} (e : Nat) {s : State} (h : Within C s₀ s) (hc : covers C [.free, .out, .eng, .mv, .host, .time, .ev, .boot, .gov, .rd] = true) : Within C s₀ (engineTileOut e s) := by
  unfold engineTileOut
  try dsimp only
  repeat' first
    | with_reducible assumption
    | exact covers_trans (by decide) hc
    | with_reducible apply goSimplex_within
    | with_reducible apply loseStandby_within
    | with_reducible apply modCe_within
    | with_reducible apply endRestart_within
    | with_reducible apply strand_within
    | with_reducible apply silence_within
    | split
    | with_reducible apply Within.upd
    | exact .inr (covers_mem hc (by decide))
    | with_reducible exact .inl rfl
    | with_reducible exact List.prefix_refl _
    | with_reducible exact Nat.le_refl _
    | with_reducible exact id
    | with_reducible exact fun g => g.of_eq rfl rfl rfl
    | with_reducible exact fun k => k.of_eq rfl rfl rfl rfl
    | with_reducible exact fun k => k.both rfl rfl rfl
    | exact fun _ => PkgOk.started rfl rfl
    | dsimp only


theorem seekCopy_within {C : List Comp} {s₀ : State} (e : Nat) {s : State} (h : Within C s₀ s) (hc : covers C [.out, .eng, .mv, .host, .boot, .rd] = true) : Within C s₀ (seekCopy e s) := by
  unfold seekCopy
  try dsimp only
  repeat' first
    | with_reducible assumption
    | exact covers_trans (by decide) hc
    | with_reducible apply modCe_within
    | with_reducible apply endRestart_within
    | split
    | with_reducible apply Within.upd
    | exact .inr (covers_mem hc (by decide))
    | with_reducible exact .inl rfl
    | with_reducible exact List.prefix_refl _
    | with_reducible exact Nat.le_refl _
    | with_reducible exact id
    | with_reducible exact fun k => k.of_eq rfl rfl rfl rfl
    | with_reducible exact fun k => k.both rfl rfl rfl
    | exact fun _ => PkgOk.started rfl rfl
    | dsimp only


theorem engineTileBack_within {C : List Comp} {s₀ : State} (e : Nat) {s : State} (h : Within C s₀ s) (hc : covers C [.hm, .rd] = true) : Within C s₀ (engineTileBack e s) := by
  unfold engineTileBack
  try dsimp only
  repeat' first
    | with_reducible assumption
    | exact covers_trans (by decide) hc
    | with_reducible apply restartEngine_within
    | with_reducible apply modCe_within
    | split
    | with_reducible apply Within.upd
    | exact .inr (covers_mem hc (by decide))
    | with_reducible exact .inl rfl
    | with_reducible exact List.prefix_refl _
    | with_reducible exact Nat.le_refl _
    | with_reducible exact id
    | with_reducible exact fun g => g.of_eq rfl rfl rfl
    | dsimp only


theorem startHold_within {C : List Comp} {s₀ : State}  {s : State} (h : Within C s₀ s) (hc : covers C [.rd] = true) : Within C s₀ (startHold s) := by
  unfold startHold
  try dsimp only
  repeat' first
    | with_reducible assumption
    | exact covers_trans (by decide) hc
    | with_reducible apply modRd_within
    | split
    | with_reducible apply Within.upd
    | exact .inr (covers_mem hc (by decide))
    | with_reducible exact .inl rfl
    | with_reducible exact List.prefix_refl _
    | with_reducible exact Nat.le_refl _
    | with_reducible exact id
    | with_reducible exact fun g => g.of_eq rfl rfl rfl
    | dsimp only


theorem execHeartbeatSend_within {C : List Comp} {s₀ : State}  {s : State} (h : Within C s₀ s) (hc : covers C [.out, .rd] = true) : WithinO C s₀ (execHeartbeatSend s) := by
  unfold execHeartbeatSend
  try dsimp only
  repeat' first
    | dsimp only [withinO_next]
    | (with_reducible show WithinO _ _ _; split)
  repeat' first
    | with_reducible assumption
    | exact covers_trans (by decide) hc
    | with_reducible apply modCe_within
    | with_reducible apply modRd_within
    | with_reducible apply clearArb_within
    | split
    | with_reducible apply Within.upd
    | exact .inr (covers_mem hc (by decide))
    | with_reducible exact .inl rfl
    | with_reducible exact List.prefix_refl _
    | with_reducible exact Nat.le_refl _
    | with_reducible exact id
    | with_reducible exact fun g => g.of_eq rfl rfl rfl
    | dsimp only


theorem execHeartbeatLoss_within {C : List Comp} {s₀ : State}  {s : State} (h : Within C s₀ s) (hc : covers C [.out, .ev, .rd] = true) : WithinO C s₀ (execHeartbeatLoss s) := by
  unfold execHeartbeatLoss
  try dsimp only
  repeat' first
    | dsimp only [withinO_next]
    | (with_reducible show WithinO _ _ _; split)
  repeat' first
    | with_reducible assumption
    | exact covers_trans (by decide) hc
    | with_reducible apply requestArb_within
    | with_reducible apply modCe_within
    | (with_reducible apply foldl_within; rotate_left; (intro _ _ _; try dsimp only))
    | split
    | with_reducible apply Within.upd
    | exact .inr (covers_mem hc (by decide))
    | with_reducible exact .inl rfl
    | with_reducible exact List.prefix_refl _
    | with_reducible exact Nat.le_refl _
    | with_reducible exact id
    | dsimp only


theorem execRenew_within {C : List Comp} {s₀ : State}  {s : State} (h : Within C s₀ s) (hc : covers C [.rd] = true) : WithinO C s₀ (execRenew s) := by
  unfold execRenew
  try dsimp only
  repeat' first
    | dsimp only [withinO_next]
    | (with_reducible show WithinO _ _ _; split)
  repeat' first
    | with_reducible assumption
    | exact covers_trans (by decide) hc
    | with_reducible apply modRd_within
    | split
    | with_reducible apply Within.upd
    | exact .inr (covers_mem hc (by decide))
    | with_reducible exact .inl rfl
    | with_reducible exact List.prefix_refl _
    | with_reducible exact Nat.le_refl _
    | with_reducible exact id
    | with_reducible exact fun g => g.of_eq rfl rfl rfl
    | dsimp only


theorem execResign_within {C : List Comp} {s₀ : State}  {s : State} (h : Within C s₀ s) (hc : covers C [.ev, .hm, .rd] = true) : WithinO C s₀ (execResign s) := by
  unfold execResign
  try dsimp only
  repeat' first
    | dsimp only [withinO_next]
    | (with_reducible show WithinO _ _ _; split)
  repeat' first
    | with_reducible assumption
    | exact covers_trans (by decide) hc
    | with_reducible apply modRd_within
    | with_reducible apply restartEngine_within
    | with_reducible apply strand_within
    | with_reducible apply raiseEngine_within
    | split
    | with_reducible apply Within.upd
    | exact .inr (covers_mem hc (by decide))
    | with_reducible exact .inl rfl
    | with_reducible exact List.prefix_refl _
    | with_reducible exact Nat.le_refl _
    | with_reducible exact id
    | with_reducible exact fun g => g.of_eq rfl rfl rfl
    | dsimp only


theorem takeOwner_within {C : List Comp} {s₀ : State} (e kind cause detectedAt : Nat) (detectedNs32 : U32) (dual : Bool) {s : State} (h : Within C s₀ s) (hc : covers C [.free, .out, .eng, .mv, .host, .time, .ev, .boot, .gov, .hm, .rd] = true) : Within C s₀ (takeOwner e kind cause detectedAt detectedNs32 dual s) := by
  unfold takeOwner
  try dsimp only
  repeat' first
    | with_reducible assumption
    | exact covers_trans (by decide) hc
    | with_reducible apply modRd_within
    | with_reducible apply silence_within
    | with_reducible apply modEng_within
    | with_reducible apply modCe_within
    | with_reducible apply dropJob_within
    | with_reducible apply restartEngine_within
    | with_reducible apply startHold_within
    | with_reducible apply enterStandby_within
    | with_reducible apply seekCopy_within
    | with_reducible apply raiseEngine_within
    | split
    | with_reducible apply Within.upd
    | exact .inr (covers_mem hc (by decide))
    | with_reducible exact .inl rfl
    | with_reducible exact List.prefix_refl _
    | with_reducible exact Nat.le_refl _
    | with_reducible exact id
    | with_reducible exact fun g => g.of_eq rfl rfl rfl
    | with_reducible exact fun _ g => g.of_eq rfl rfl rfl
    | dsimp only


theorem execClaim_within {C : List Comp} {s₀ : State}  {s : State} (h : Within C s₀ s) (hc : covers C [.free, .out, .eng, .mv, .host, .time, .ev, .boot, .gov, .hm, .rd] = true) : WithinO C s₀ (execClaim s) := by
  unfold execClaim
  try dsimp only
  repeat' first
    | dsimp only [withinO_next]
    | (with_reducible show WithinO _ _ _; split)
  repeat' first
    | with_reducible assumption
    | exact covers_trans (by decide) hc
    | with_reducible apply takeOwner_within
    | with_reducible apply modCe_within
    | (with_reducible apply getD_map_within; rotate_left; intro _)
    | split
    | with_reducible apply Within.upd
    | exact .inr (covers_mem hc (by decide))
    | with_reducible exact .inl rfl
    | with_reducible exact List.prefix_refl _
    | with_reducible exact Nat.le_refl _
    | with_reducible exact id
    | with_reducible exact fun g => g.of_eq rfl rfl rfl
    | dsimp only


theorem dualChange_within {C : List Comp} {s₀ : State} (e cause : Nat) {s : State} (h : Within C s₀ s) (hc : covers C [.ev, .rd] = true) : Within C s₀ (dualChange e cause s) := by
  unfold dualChange
  try dsimp only
  repeat' first
    | with_reducible assumption
    | exact covers_trans (by decide) hc
    | with_reducible apply raiseEngine_within
    | with_reducible apply modRd_within
    | split
    | with_reducible apply Within.upd
    | exact .inr (covers_mem hc (by decide))
    | with_reducible exact .inl rfl
    | with_reducible exact List.prefix_refl _
    | with_reducible exact Nat.le_refl _
    | with_reducible exact id
    | dsimp only


theorem grant_within {C : List Comp} {s₀ : State} (e : Nat) {s : State} (h : Within C s₀ s) (hc : covers C [.free, .out, .eng, .mv, .host, .time, .ev, .boot, .gov, .hm, .rd] = true) : Within C s₀ (grant e s) := by
  unfold grant
  try dsimp only
  repeat' first
    | with_reducible assumption
    | exact covers_trans (by decide) hc
    | with_reducible apply takeOwner_within
    | with_reducible apply raiseEngine_within
    | with_reducible apply dualChange_within
    | split
    | dsimp only


theorem execGrant_within {C : List Comp} {s₀ : State} (engine : Nat) {s : State} (h : Within C s₀ s) (hc : covers C [.free, .out, .eng, .mv, .host, .time, .ev, .boot, .gov, .hm, .rd] = true) : WithinO C s₀ (execGrant engine s) := by
  unfold execGrant
  try dsimp only
  repeat' first
    | dsimp only [withinO_next]
    | (with_reducible show WithinO _ _ _; split)
  repeat' first
    | with_reducible assumption
    | exact covers_trans (by decide) hc
    | with_reducible apply grant_within


theorem execArbGntChange_within {C : List Comp} {s₀ : State} (level : Bool) {s : State} (h : Within C s₀ s) (hc : covers C [.free, .out, .eng, .mv, .host, .time, .ev, .boot, .gov, .hm, .rd] = true) : WithinO C s₀ (execArbGntChange level s) := by
  unfold execArbGntChange
  try dsimp only
  repeat' first
    | dsimp only [withinO_next]
    | (with_reducible show WithinO _ _ _; split)
  repeat' first
    | with_reducible assumption
    | exact covers_trans (by decide) hc
    | with_reducible apply grant_within
    | with_reducible apply modRd_within
    | split
    | with_reducible apply Within.upd
    | exact .inr (covers_mem hc (by decide))
    | with_reducible exact .inl rfl
    | with_reducible exact List.prefix_refl _
    | with_reducible exact Nat.le_refl _
    | with_reducible exact id
    | dsimp only


theorem execCeBootArbWrite_within {C : List Comp} {s₀ : State} (port : Nat) (value : U32) {s : State} (h : Within C s₀ s) (hc : covers C [.free, .out, .eng, .mv, .host, .time, .ev, .boot, .gov, .hm, .rd] = true) : WithinO C s₀ (execCeBootArbWrite port value s) := by
  unfold execCeBootArbWrite
  try dsimp only
  repeat' first
    | dsimp only [withinO_next]
    | (with_reducible show WithinO _ _ _; split)
  repeat' first
    | with_reducible assumption
    | exact covers_trans (by decide) hc
    | with_reducible apply grant_within
    | with_reducible apply ignoreWrite_within
    | split


theorem execRenewalStaleStop_within {C : List Comp} {s₀ : State}  {s : State} (h : Within C s₀ s) (hc : covers C [.free, .eng, .time, .rd] = true) : WithinO C s₀ (execRenewalStaleStop s) := by
  unfold execRenewalStaleStop
  try dsimp only
  repeat' first
    | dsimp only [withinO_next]
    | (with_reducible show WithinO _ _ _; split)
  repeat' first
    | with_reducible assumption
    | exact covers_trans (by decide) hc
    | with_reducible apply haltEngine_within
    | split


theorem execDualWindowEnd_within {C : List Comp} {s₀ : State}  {s : State} (h : Within C s₀ s) (hc : covers C [.rd] = true) : WithinO C s₀ (execDualWindowEnd s) := by
  unfold execDualWindowEnd
  try dsimp only
  repeat' first
    | dsimp only [withinO_next]
    | (with_reducible show WithinO _ _ _; split)
  repeat' first
    | with_reducible assumption
    | exact covers_trans (by decide) hc
    | with_reducible apply modRd_within
    | split
    | with_reducible apply Within.upd
    | exact .inr (covers_mem hc (by decide))
    | with_reducible exact .inl rfl
    | with_reducible exact List.prefix_refl _
    | with_reducible exact Nat.le_refl _
    | with_reducible exact id
    | dsimp only


theorem journalOne_within {C : List Comp} {s₀ : State} (x : Intent) {s : State} (h : Within C s₀ s) (hc : covers C [.rd] = true) : Within C s₀ (journalOne x s) := by
  unfold journalOne
  try dsimp only
  repeat' first
    | with_reducible assumption
    | exact covers_trans (by decide) hc
    | with_reducible apply modRd_within
    | split
    | with_reducible apply Within.upd
    | exact .inr (covers_mem hc (by decide))
    | with_reducible exact .inl rfl
    | with_reducible exact List.prefix_refl _
    | with_reducible exact Nat.le_refl _
    | with_reducible exact id
    | dsimp only


theorem execSnapshotEpoch_within {C : List Comp} {s₀ : State}  {s : State} (h : Within C s₀ s) (hc : covers C [.rd] = true) : WithinO C s₀ (execSnapshotEpoch s) := by
  unfold execSnapshotEpoch
  try dsimp only
  repeat' first
    | dsimp only [withinO_next]
    | (with_reducible show WithinO _ _ _; split)
  repeat' first
    | with_reducible assumption
    | exact covers_trans (by decide) hc
    | with_reducible apply modRd_within
    | split
    | with_reducible apply Within.upd
    | exact .inr (covers_mem hc (by decide))
    | with_reducible exact .inl rfl
    | with_reducible exact List.prefix_refl _
    | with_reducible exact Nat.le_refl _
    | with_reducible exact id
    | with_reducible exact fun g => g.of_eq rfl rfl rfl
    | dsimp only


theorem completeEpoch_within {C : List Comp} {s₀ : State}  {s : State} (h : Within C s₀ s) (hc : covers C [.rd] = true) : Within C s₀ (completeEpoch s) := by
  unfold completeEpoch
  try dsimp only
  repeat' first
    | with_reducible assumption
    | exact covers_trans (by decide) hc
    | with_reducible apply modRd_within
    | with_reducible apply modCe_within
    | split
    | with_reducible apply Within.upd
    | exact .inr (covers_mem hc (by decide))
    | with_reducible exact .inl rfl
    | with_reducible exact List.prefix_refl _
    | with_reducible exact Nat.le_refl _
    | with_reducible exact id
    | with_reducible exact fun g => g.of_eq rfl rfl rfl
    | dsimp only


theorem execSnapshotEpochComplete_within {C : List Comp} {s₀ : State}  {s : State} (h : Within C s₀ s) (hc : covers C [.rd] = true) : WithinO C s₀ (execSnapshotEpochComplete s) := by
  unfold execSnapshotEpochComplete
  try dsimp only
  repeat' first
    | dsimp only [withinO_next]
    | (with_reducible show WithinO _ _ _; split)
  repeat' first
    | with_reducible assumption
    | exact covers_trans (by decide) hc
    | with_reducible apply completeEpoch_within
    | split
    | dsimp only


theorem execJournalAckTimeout_within {C : List Comp} {s₀ : State}  {s : State} (h : Within C s₀ s) (hc : covers C [.free, .eng, .time, .ev, .gov, .rd] = true) : WithinO C s₀ (execJournalAckTimeout s) := by
  unfold execJournalAckTimeout
  try dsimp only
  repeat' first
    | dsimp only [withinO_next]
    | (with_reducible show WithinO _ _ _; split)
  repeat' first
    | with_reducible assumption
    | exact covers_trans (by decide) hc
    | with_reducible apply loseStandby_within
    | with_reducible apply raiseEngine_within
    | with_reducible apply modCe_within
    | with_reducible apply modRd_within
    | with_reducible apply haltEngine_within
    | split
    | with_reducible apply Within.upd
    | exact .inr (covers_mem hc (by decide))
    | with_reducible exact .inl rfl
    | with_reducible exact List.prefix_refl _
    | with_reducible exact Nat.le_refl _
    | with_reducible exact id
    | with_reducible exact fun g => g.of_eq rfl rfl rfl
    | dsimp only


theorem execHandover_within {C : List Comp} {s₀ : State}  {s : State} (h : Within C s₀ s) (hc : covers C [.free, .out, .eng, .mv, .host, .time, .ev, .boot, .gov, .hm, .rd] = true) : WithinO C s₀ (execHandover s) := by
  unfold execHandover
  try dsimp only
  repeat' first
    | dsimp only [withinO_next]
    | (with_reducible show WithinO _ _ _; split)
  repeat' first
    | with_reducible assumption
    | exact covers_trans (by decide) hc
    | with_reducible apply modRd_within
    | with_reducible apply takeOwner_within
    | with_reducible apply bumpPkg_within
    | with_reducible apply modEng_within
    | with_reducible apply finish_within
    | (with_reducible apply foldl_within; rotate_left; (intro _ _ _; try dsimp only))
    | split
    | with_reducible apply Within.upd
    | exact .inr (covers_mem hc (by decide))
    | with_reducible exact .inl rfl
    | with_reducible exact List.prefix_refl _
    | with_reducible exact Nat.le_refl _
    | with_reducible exact id
    | with_reducible exact fun g => g.of_eq rfl rfl rfl
    | with_reducible exact fun k => k.of_eq rfl rfl rfl rfl
    | with_reducible exact fun k => k.both rfl rfl rfl
    | exact fun _ => PkgOk.started rfl rfl
    | with_reducible exact fun _ g => g.of_eq rfl rfl rfl
    | dsimp only


theorem planChange_within {C : List Comp} {s₀ : State} (kind target : Nat) {s : State} (h : Within C s₀ s) (hc : covers C [.free, .eng, .time, .rd] = true) : Within C s₀ (planChange kind target s) := by
  unfold planChange
  try dsimp only
  repeat' first
    | with_reducible assumption
    | exact covers_trans (by decide) hc
    | with_reducible apply modEng_within
    | with_reducible apply modRd_within
    | with_reducible apply holdServo_within
    | with_reducible apply Within.upd
    | exact .inr (covers_mem hc (by decide))
    | with_reducible exact .inl rfl
    | with_reducible exact List.prefix_refl _
    | with_reducible exact Nat.le_refl _
    | with_reducible exact id
    | with_reducible exact fun _ g => g.of_eq rfl rfl rfl
    | dsimp only


theorem execStandbySelftestDone_within {C : List Comp} {s₀ : State} (engine : Nat) (pass : Bool) {s : State} (h : Within C s₀ s) (hc : covers C [.out, .eng, .mv, .host, .ev, .boot, .rd] = true) : WithinO C s₀ (execStandbySelftestDone engine pass s) := by
  unfold execStandbySelftestDone
  try dsimp only
  repeat' first
    | dsimp only [withinO_next]
    | (with_reducible show WithinO _ _ _; split)
  repeat' first
    | with_reducible assumption
    | exact covers_trans (by decide) hc
    | with_reducible apply seekCopy_within
    | with_reducible apply modCe_within
    | with_reducible apply requestArb_within
    | with_reducible apply endRestart_within
    | split
    | with_reducible apply Within.upd
    | exact .inr (covers_mem hc (by decide))
    | with_reducible exact .inl rfl
    | with_reducible exact List.prefix_refl _
    | with_reducible exact Nat.le_refl _
    | with_reducible exact id
    | with_reducible exact fun g => g.of_eq rfl rfl rfl
    | dsimp only


theorem execStandbyReady_within {C : List Comp} {s₀ : State} (engine : Nat) {s : State} (h : Within C s₀ s) (hc : covers C [.out, .eng, .mv, .host, .ev, .boot, .gov, .rd] = true) : WithinO C s₀ (execStandbyReady engine s) := by
  unfold execStandbyReady
  try dsimp only
  repeat' first
    | dsimp only [withinO_next]
    | (with_reducible show WithinO _ _ _; split)
  repeat' first
    | with_reducible assumption
    | exact covers_trans (by decide) hc
    | with_reducible apply enterStandby_within
    | with_reducible apply raiseEngine_within
    | with_reducible apply startHold_within
    | with_reducible apply endRestart_within
    | split
    | dsimp only


theorem execRevertHoldExpiry_within {C : List Comp} {s₀ : State}  {s : State} (h : Within C s₀ s) (hc : covers C [.free, .eng, .time, .rd] = true) : WithinO C s₀ (execRevertHoldExpiry s) := by
  unfold execRevertHoldExpiry
  try dsimp only
  repeat' first
    | dsimp only [withinO_next]
    | (with_reducible show WithinO _ _ _; split)
  repeat' first
    | with_reducible assumption
    | exact covers_trans (by decide) hc
    | with_reducible apply planChange_within
    | split


theorem opCePairQuery_within {C : List Comp} {s₀ : State}  (c : Cmd) {s : State} (h : Within C s₀ s) (_hc : covers C [] = true) : WithinR C s₀ ((opCePairQuery).act c s) := by
  dsimp only [opCePairQuery]
  repeat' first
    | dsimp only [withinR_done, withinR_wait, withinR_fail]
    | (with_reducible show WithinR _ _ _; split)
  repeat' first
    | with_reducible assumption
    | dsimp only


theorem execCePairQuery_within {C : List Comp} {s₀ : State} (c : Cmd) {s : State} (h : Within C s₀ s) (hc : covers C [.out, .eng, .mv, .host, .ev, .boot, .hm] = true) : WithinO C s₀ (execCePairQuery c s) :=
  runOp_within c (fun h => h) (fun h => opCePairQuery_within c h (covers_trans (by decide) hc)) h (covers_trans (by decide) hc)

theorem opCePairSet_within {C : List Comp} {s₀ : State}  (c : Cmd) {s : State} (h : Within C s₀ s) (hc : covers C [.eng, .rd] = true) : WithinR C s₀ ((opCePairSet).act c s) := by
  dsimp only [opCePairSet]
  repeat' first
    | dsimp only [withinR_done, withinR_wait, withinR_fail]
    | (with_reducible show WithinR _ _ _; split)
  repeat' first
    | with_reducible assumption
    | exact covers_trans (by decide) hc
    | with_reducible apply startHold_within
    | with_reducible apply bumpPkg_within
    | with_reducible apply modRd_within
    | (with_reducible apply getD_map_within; rotate_left; intro _)
    | split
    | with_reducible apply Within.upd
    | exact .inr (covers_mem hc (by decide))
    | with_reducible exact .inl rfl
    | with_reducible exact List.prefix_refl _
    | with_reducible exact Nat.le_refl _
    | with_reducible exact id
    | dsimp only


theorem execCePairSet_within {C : List Comp} {s₀ : State} (c : Cmd) {s : State} (h : Within C s₀ s) (hc : covers C [.out, .eng, .mv, .host, .ev, .boot, .hm, .rd] = true) : WithinO C s₀ (execCePairSet c s) :=
  runOp_within c (fun h => h) (fun h => opCePairSet_within c h (covers_trans (by decide) hc)) h (covers_trans (by decide) hc)

theorem opCeSwitchover_within {C : List Comp} {s₀ : State}  (c : Cmd) {s : State} (h : Within C s₀ s) (hc : covers C [.free, .eng, .time, .rd] = true) : WithinR C s₀ ((opCeSwitchover).act c s) := by
  dsimp only [opCeSwitchover]
  repeat' first
    | dsimp only [withinR_done, withinR_wait, withinR_fail]
    | (with_reducible show WithinR _ _ _; split)
  repeat' first
    | with_reducible assumption
    | exact covers_trans (by decide) hc
    | with_reducible apply planChange_within
    | with_reducible apply addWait_within
    | split


theorem execCeSwitchover_within {C : List Comp} {s₀ : State} (c : Cmd) {s : State} (h : Within C s₀ s) (hc : covers C [.free, .out, .eng, .mv, .host, .time, .ev, .boot, .hm, .rd] = true) : WithinO C s₀ (execCeSwitchover c s) :=
  runOp_within c (fun h => h) (fun h => opCeSwitchover_within c h (covers_trans (by decide) hc)) h (covers_trans (by decide) hc)

theorem opCeStandbyRestart_within {C : List Comp} {s₀ : State} (img : Image) (c : Cmd) {s : State} (h : Within C s₀ s) (hc : covers C [.out, .eng, .ev, .gov, .hm, .rd] = true) : WithinR C s₀ ((opCeStandbyRestart img).act c s) := by
  dsimp only [opCeStandbyRestart]
  repeat' first
    | dsimp only [withinR_done, withinR_wait, withinR_fail]
    | (with_reducible show WithinR _ _ _; split)
  repeat' first
    | with_reducible assumption
    | exact covers_trans (by decide) hc
    | with_reducible apply readImage_within
    | with_reducible apply loseStandby_within
    | with_reducible apply addWait_within
    | with_reducible apply bumpPkg_within
    | with_reducible apply modCe_within
    | with_reducible apply restartEngine_within
    | split
    | with_reducible apply Within.upd
    | exact .inr (covers_mem hc (by decide))
    | with_reducible exact .inl rfl
    | with_reducible exact List.prefix_refl _
    | with_reducible exact Nat.le_refl _
    | with_reducible exact id
    | with_reducible exact fun g => g.of_eq rfl rfl rfl
    | dsimp only


theorem execCeStandbyRestart_within {C : List Comp} {s₀ : State} (c : Cmd) (img : Image) {s : State} (h : Within C s₀ s) (hc : covers C [.out, .eng, .mv, .host, .ev, .boot, .gov, .hm, .rd] = true) : WithinO C s₀ (execCeStandbyRestart c img s) :=
  runOp_within c (fun h => h) (fun h => opCeStandbyRestart_within img c h (covers_trans (by decide) hc)) h (covers_trans (by decide) hc)

end Sys2Proof.Machine
end

