-- ==== Sys2Proof/Laws/WithinHealth.lean ====
section
/-!
SUPPORT. The operations of Health: each keeps what `Within` says.
-/
namespace Sys2Proof.Machine
open Sys2Proof
set_option Elab.async false
set_option linter.all false

theorem startScrub_within {C : List Comp} {s₀ : State} (t : Nat) {s : State} (h : Within C s₀ s) (hc : covers C [.gov] = true) : Within C s₀ (startScrub t s) := by
  unfold startScrub
  try dsimp only
  repeat' first
    | with_reducible assumption
    | exact covers_trans (by decide) hc
    | with_reducible apply addJob_within
    | with_reducible apply dropJob_within


theorem passDone_within {C : List Comp} {s₀ : State} (u since : Nat) {s : State} (h : Within C s₀ s) (hc : covers C [.hm] = true) : Within C s₀ (passDone u since s) := by
  unfold passDone
  try dsimp only
  repeat' first
    | with_reducible assumption
    | exact covers_trans (by decide) hc
    | with_reducible apply modHm_within
    | with_reducible apply Within.upd
    | exact .inr (covers_mem hc (by decide))
    | with_reducible exact .inl rfl
    | with_reducible exact List.prefix_refl _
    | with_reducible exact Nat.le_refl _
    | with_reducible exact id
    | dsimp only


theorem selfTestFails_within {C : List Comp} {s₀ : State} (t e : Nat) (injected : Bool) {s : State} (h : Within C s₀ s) (hc : covers C [.free, .out, .eng, .time, .ev, .gov, .hm, .rd] = true) : Within C s₀ (selfTestFails t e injected s) := by
  unfold selfTestFails
  try dsimp only
  repeat' first
    | with_reducible assumption
    | exact covers_trans (by decide) hc
    | with_reducible apply modHm_within
    | with_reducible apply engineFails_within
    | with_reducible apply detectorFires_within
    | with_reducible apply Within.upd
    | exact .inr (covers_mem hc (by decide))
    | with_reducible exact .inl rfl
    | with_reducible exact List.prefix_refl _
    | with_reducible exact Nat.le_refl _
    | with_reducible exact id
    | with_reducible exact fun g => g.of_eq rfl rfl rfl
    | dsimp only


theorem selfTestBlock_within {C : List Comp} {s₀ : State} (t : Nat) (last : Bool) (since : Nat) {s : State} (h : Within C s₀ s) (hc : covers C [.free, .out, .eng, .time, .ev, .gov, .hm, .rd] = true) : Within C s₀ (selfTestBlock t last since s) := by
  unfold selfTestBlock
  try dsimp only
  repeat' first
    | with_reducible assumption
    | exact covers_trans (by decide) hc
    | with_reducible apply selfTestFails_within
    | with_reducible apply consumeInjection_within
    | with_reducible apply passDone_within
    | with_reducible apply modHm_within
    | with_reducible apply addJob_within
    | split
    | with_reducible apply Within.upd
    | exact .inr (covers_mem hc (by decide))
    | with_reducible exact .inl rfl
    | with_reducible exact List.prefix_refl _
    | with_reducible exact Nat.le_refl _
    | with_reducible exact id
    | with_reducible exact fun g => g.of_eq rfl rfl rfl
    | dsimp only


theorem execClassCQuantumDone_within {C : List Comp} {s₀ : State} (tile index : Nat) {s : State} (h : Within C s₀ s) (hc : covers C [.free, .out, .eng, .lanes, .time, .ev, .gov, .hm, .fs, .rd] = true) : WithinO C s₀ (execClassCQuantumDone tile index s) := by
  unfold execClassCQuantumDone
  try dsimp only
  repeat' first
    | dsimp only [withinO_next]
    | (with_reducible show WithinO _ _ _; split)
  repeat' first
    | with_reducible assumption
    | exact covers_trans (by decide) hc
    | with_reducible apply modTileGov_within
    | with_reducible apply startScrub_within
    | with_reducible apply scrubTile_within
    | with_reducible apply passDone_within
    | with_reducible apply selfTestBlock_within
    | split
    | with_reducible apply Within.upd
    | exact .inr (covers_mem hc (by decide))
    | with_reducible exact .inl rfl
    | with_reducible exact List.prefix_refl _
    | with_reducible exact Nat.le_refl _
    | with_reducible exact id
    | dsimp only


theorem writeReport_within {C : List Comp} {s₀ : State} (p : Nat) (bytes : Nat → List Byte) {s : State} (h : Within C s₀ s) (hc : covers C [.out, .mv, .host, .hm] = true) : Within C s₀ (writeReport p bytes s) := by
  unfold writeReport
  try dsimp only
  repeat' first
    | with_reducible assumption
    | exact covers_trans (by decide) hc
    | with_reducible apply leaveRoute_within
    | with_reducible apply countBursts_within
    | with_reducible apply emit_within
    | with_reducible apply modHm_within
    | with_reducible apply Within.upd
    | exact .inr (covers_mem hc (by decide))
    | with_reducible exact .inl rfl
    | with_reducible exact List.prefix_refl _
    | exact List.prefix_append _ _
    | with_reducible exact Nat.le_refl _
    | with_reducible exact id
    | dsimp only


theorem writeBatch_within {C : List Comp} {s₀ : State} (p : Nat) {s : State} (h : Within C s₀ s) (hc : covers C [.out, .mv, .host, .hm] = true) : Within C s₀ (writeBatch s p) := by
  unfold writeBatch
  try dsimp only
  repeat' first
    | with_reducible assumption
    | exact covers_trans (by decide) hc
    | with_reducible apply writeReport_within
    | with_reducible apply signalVector_within
    | (with_reducible apply foldl_within; rotate_left; (intro _ _ _; try dsimp only))
    | split
    | dsimp only


theorem newPeriod_within {C : List Comp} {s₀ : State}  {s : State} (h : Within C s₀ s) (hc : covers C [.hm] = true) : Within C s₀ (newPeriod s) := by
  unfold newPeriod
  try dsimp only
  repeat' first
    | with_reducible assumption
    | exact covers_trans (by decide) hc
    | with_reducible apply modHm_within
    | split
    | with_reducible apply Within.upd
    | exact .inr (covers_mem hc (by decide))
    | with_reducible exact .inl rfl
    | with_reducible exact List.prefix_refl _
    | with_reducible exact Nat.le_refl _
    | with_reducible exact id
    | with_reducible exact fun g => g.of_eq rfl rfl rfl
    | dsimp only


theorem execHealthReportTimer_within {C : List Comp} {s₀ : State}  {s : State} (h : Within C s₀ s) (hc : covers C [.out, .mv, .host, .hm] = true) : WithinO C s₀ (execHealthReportTimer s) := by
  unfold execHealthReportTimer
  try dsimp only
  repeat' first
    | dsimp only [withinO_next]
    | (with_reducible show WithinO _ _ _; split)
  repeat' first
    | with_reducible assumption
    | exact covers_trans (by decide) hc
    | with_reducible apply newPeriod_within
    | with_reducible apply writeBatch_within
    | (with_reducible apply foldl_within; rotate_left; (intro _ _ _; try dsimp only))
    | split
    | dsimp only


theorem execTestUnlockExpiry_within {C : List Comp} {s₀ : State}  {s : State} (h : Within C s₀ s) (hc : covers C [.hm] = true) : WithinO C s₀ (execTestUnlockExpiry s) := by
  unfold execTestUnlockExpiry
  try dsimp only
  repeat' first
    | dsimp only [withinO_next]
    | (with_reducible show WithinO _ _ _; split)
  repeat' first
    | with_reducible assumption
    | exact covers_trans (by decide) hc
    | with_reducible apply modHm_within
    | split
    | with_reducible apply Within.upd
    | exact .inr (covers_mem hc (by decide))
    | with_reducible exact .inl rfl
    | with_reducible exact List.prefix_refl _
    | with_reducible exact Nat.le_refl _
    | with_reducible exact id
    | dsimp only


theorem discardInjections_within {C : List Comp} {s₀ : State} (which : Nat → Bool) {s : State} (h : Within C s₀ s) (hc : covers C [.hm] = true) : Within C s₀ (discardInjections which s) := by
  unfold discardInjections
  try dsimp only
  repeat' first
    | with_reducible assumption
    | exact covers_trans (by decide) hc
    | with_reducible apply modHm_within
    | split
    | with_reducible apply Within.upd
    | exact .inr (covers_mem hc (by decide))
    | with_reducible exact .inl rfl
    | with_reducible exact List.prefix_refl _
    | with_reducible exact Nat.le_refl _
    | with_reducible exact id
    | dsimp only


theorem opHmQuery_within {C : List Comp} {s₀ : State}  (c : Cmd) {s : State} (h : Within C s₀ s) (_hc : covers C [] = true) : WithinR C s₀ ((opHmQuery).act c s) := by
  dsimp only [opHmQuery]
  repeat' first
    | dsimp only [withinR_done, withinR_wait, withinR_fail]
    | (with_reducible show WithinR _ _ _; split)
  repeat' first
    | with_reducible assumption
    | dsimp only


theorem execHmQuery_within {C : List Comp} {s₀ : State} (c : Cmd) {s : State} (h : Within C s₀ s) (hc : covers C [.out, .eng, .mv, .host, .ev, .boot, .hm] = true) : WithinO C s₀ (execHmQuery c s) :=
  runOp_within c (fun h => h) (fun h => opHmQuery_within c h (covers_trans (by decide) hc)) h (covers_trans (by decide) hc)

theorem opHmThreshSet_within {C : List Comp} {s₀ : State}  (c : Cmd) {s : State} (h : Within C s₀ s) (hc : covers C [.eng, .hm] = true) : WithinR C s₀ ((opHmThreshSet).act c s) := by
  dsimp only [opHmThreshSet]
  repeat' first
    | dsimp only [withinR_done, withinR_wait, withinR_fail]
    | (with_reducible show WithinR _ _ _; split)
  repeat' first
    | with_reducible assumption
    | exact covers_trans (by decide) hc
    | with_reducible apply modDet_within
    | with_reducible apply bumpPkg_within
    | (with_reducible apply foldl_within; rotate_left; (intro _ _ _; try dsimp only))
    | (with_reducible apply getD_map_within; rotate_left; intro _)
    | split
    | with_reducible apply Within.upd
    | exact .inr (covers_mem hc (by decide))
    | with_reducible exact .inl rfl
    | with_reducible exact List.prefix_refl _
    | with_reducible exact Nat.le_refl _
    | with_reducible exact id
    | dsimp only


theorem execHmThreshSet_within {C : List Comp} {s₀ : State} (c : Cmd) {s : State} (h : Within C s₀ s) (hc : covers C [.out, .eng, .mv, .host, .ev, .boot, .hm] = true) : WithinO C s₀ (execHmThreshSet c s) :=
  runOp_within c (fun h => h) (fun h => opHmThreshSet_within c h (covers_trans (by decide) hc)) h (covers_trans (by decide) hc)

theorem opHmReportSet_within {C : List Comp} {s₀ : State}  (c : Cmd) {s : State} (h : Within C s₀ s) (hc : covers C [.hm] = true) : WithinR C s₀ ((opHmReportSet).act c s) := by
  dsimp only [opHmReportSet]
  repeat' first
    | dsimp only [withinR_done, withinR_wait, withinR_fail]
    | (with_reducible show WithinR _ _ _; split)
  repeat' first
    | with_reducible assumption
    | exact covers_trans (by decide) hc
    | with_reducible apply modHm_within
    | with_reducible apply Within.upd
    | exact .inr (covers_mem hc (by decide))
    | with_reducible exact .inl rfl
    | with_reducible exact List.prefix_refl _
    | with_reducible exact Nat.le_refl _
    | with_reducible exact id
    | dsimp only


theorem execHmReportSet_within {C : List Comp} {s₀ : State} (c : Cmd) {s : State} (h : Within C s₀ s) (hc : covers C [.out, .eng, .mv, .host, .ev, .boot, .hm] = true) : WithinO C s₀ (execHmReportSet c s) :=
  runOp_within c (fun h => h) (fun h => opHmReportSet_within c h (covers_trans (by decide) hc)) h (covers_trans (by decide) hc)

theorem opHmTestUnlock_within {C : List Comp} {s₀ : State}  (c : Cmd) {s : State} (h : Within C s₀ s) (hc : covers C [.hm] = true) : WithinR C s₀ ((opHmTestUnlock).act c s) := by
  dsimp only [opHmTestUnlock]
  repeat' first
    | dsimp only [withinR_done, withinR_wait, withinR_fail]
    | (with_reducible show WithinR _ _ _; split)
  repeat' first
    | with_reducible assumption
    | exact covers_trans (by decide) hc
    | with_reducible apply modHm_within
    | with_reducible apply Within.upd
    | exact .inr (covers_mem hc (by decide))
    | with_reducible exact .inl rfl
    | with_reducible exact List.prefix_refl _
    | with_reducible exact Nat.le_refl _
    | with_reducible exact id
    | dsimp only


theorem execHmTestUnlock_within {C : List Comp} {s₀ : State} (c : Cmd) {s : State} (h : Within C s₀ s) (hc : covers C [.out, .eng, .mv, .host, .ev, .boot, .hm] = true) : WithinO C s₀ (execHmTestUnlock c s) :=
  runOp_within c (fun h => h) (fun h => opHmTestUnlock_within c h (covers_trans (by decide) hc)) h (covers_trans (by decide) hc)

theorem opHmInject_within {C : List Comp} {s₀ : State}  (c : Cmd) {s : State} (h : Within C s₀ s) (hc : covers C [.hm] = true) : WithinR C s₀ ((opHmInject).act c s) := by
  dsimp only [opHmInject]
  repeat' first
    | dsimp only [withinR_done, withinR_wait, withinR_fail]
    | (with_reducible show WithinR _ _ _; split)
  repeat' first
    | with_reducible assumption
    | exact covers_trans (by decide) hc
    | with_reducible apply modDet_within
    | split
    | with_reducible apply Within.upd
    | exact .inr (covers_mem hc (by decide))
    | with_reducible exact .inl rfl
    | with_reducible exact List.prefix_refl _
    | with_reducible exact Nat.le_refl _
    | with_reducible exact id
    | dsimp only


theorem execHmInject_within {C : List Comp} {s₀ : State} (c : Cmd) {s : State} (h : Within C s₀ s) (hc : covers C [.out, .eng, .mv, .host, .ev, .boot, .hm] = true) : WithinO C s₀ (execHmInject c s) :=
  runOp_within c (fun h => h) (fun h => opHmInject_within c h (covers_trans (by decide) hc)) h (covers_trans (by decide) hc)

end Sys2Proof.Machine
end

