-- ==== Sys2Proof/Laws/WithinMotion.lean ====
section
/-!
SUPPORT. The operations of Motion: each keeps what `Within` says.
-/
namespace Sys2Proof.Machine
open Sys2Proof
set_option Elab.async false
set_option linter.all false

theorem putAxis_within {C : List Comp} {s₀ : State} (i : Nat) (a : Axis) {s : State} (h : Within C s₀ s) (hc : covers C [.mo] = true) : Within C s₀ (putAxis i a s) := by
  unfold putAxis
  try dsimp only
  repeat' first
    | with_reducible assumption
    | exact covers_trans (by decide) hc
    | with_reducible apply Within.upd
    | exact .inr (covers_mem hc (by decide))
    | with_reducible exact .inl rfl
    | with_reducible exact List.prefix_refl _
    | with_reducible exact Nat.le_refl _
    | with_reducible exact id


theorem modAxis_within {C : List Comp} {s₀ : State} (i : Nat) (f : Axis → Axis) {s : State} (h : Within C s₀ s) (hc : covers C [.mo] = true) : Within C s₀ (modAxis i f s) := by
  unfold modAxis
  try dsimp only
  repeat' first
    | with_reducible assumption
    | exact covers_trans (by decide) hc
    | with_reducible apply putAxis_within
    | with_reducible apply Within.upd
    | exact .inr (covers_mem hc (by decide))
    | with_reducible exact .inl rfl
    | with_reducible exact List.prefix_refl _
    | with_reducible exact Nat.le_refl _
    | with_reducible exact id


theorem raiseMotion_within {C : List Comp} {s₀ : State} (i local_ : Nat) (payload hops : Nat) {s : State} (h : Within C s₀ s) (hc : covers C [.ev] = true) : Within C s₀ (raiseMotion i local_ payload hops s) := by
  unfold raiseMotion
  try dsimp only
  repeat' first
    | with_reducible assumption
    | exact covers_trans (by decide) hc
    | with_reducible apply raiseEv_within


theorem raiseCmp_within {C : List Comp} {s₀ : State} (i : Nat) (entry : Nat) (table late last : Bool) (cycle hops : Nat) {s : State} (h : Within C s₀ s) (hc : covers C [.ev] = true) : Within C s₀ (raiseCmp i entry table late last cycle hops s) := by
  unfold raiseCmp
  try dsimp only
  repeat' first
    | with_reducible assumption
    | exact covers_trans (by decide) hc
    | with_reducible apply raiseMotion_within


theorem raiseAxis_within {C : List Comp} {s₀ : State} (i kind : Nat) (position : U32) (hops : Nat) {s : State} (h : Within C s₀ s) (hc : covers C [.ev] = true) : Within C s₀ (raiseAxis i kind position hops s) := by
  unfold raiseAxis
  try dsimp only
  repeat' first
    | with_reducible assumption
    | exact covers_trans (by decide) hc
    | with_reducible apply raiseMotion_within


theorem raiseMoFault_within {C : List Comp} {s₀ : State} (i : Nat) (overspeed : Bool) {s : State} (h : Within C s₀ s) (hc : covers C [.ev, .mo] = true) : Within C s₀ (raiseMoFault i overspeed s) := by
  unfold raiseMoFault
  try dsimp only
  repeat' first
    | with_reducible assumption
    | exact covers_trans (by decide) hc
    | with_reducible apply raiseMotion_within
    | split
    | with_reducible apply Within.upd
    | exact .inr (covers_mem hc (by decide))
    | with_reducible exact .inl rfl
    | with_reducible exact List.prefix_refl _
    | with_reducible exact Nat.le_refl _
    | with_reducible exact id
    | dsimp only


theorem armUnit_within {C : List Comp} {s₀ : State} (i : Nat) (g : CmpArm) (hops : Nat) {s : State} (h : Within C s₀ s) (hc : covers C [.ev, .mo] = true) : Within C s₀ (armUnit i g hops s) := by
  unfold armUnit
  try dsimp only
  repeat' first
    | with_reducible assumption
    | exact covers_trans (by decide) hc
    | with_reducible apply putAxis_within
    | with_reducible apply raiseAxis_within
    | with_reducible apply raiseCmp_within
    | split
    | with_reducible apply Within.upd
    | exact .inr (covers_mem hc (by decide))
    | with_reducible exact .inl rfl
    | with_reducible exact List.prefix_refl _
    | with_reducible exact Nat.le_refl _
    | with_reducible exact id
    | dsimp only


theorem retestUnit_within {C : List Comp} {s₀ : State} (i hops : Nat) {s : State} (h : Within C s₀ s) (hc : covers C [.ev, .mo] = true) : Within C s₀ (retestUnit i hops s) := by
  unfold retestUnit
  try dsimp only
  repeat' first
    | with_reducible assumption
    | exact covers_trans (by decide) hc
    | with_reducible apply armUnit_within
    | split
    | dsimp only


theorem testTable_within {C : List Comp} {s₀ : State} (i hops : Nat) {s : State} (h : Within C s₀ s) (hc : covers C [.ev, .mo] = true) : Within C s₀ (testTable i hops s) := by
  unfold testTable
  try dsimp only
  repeat' first
    | with_reducible assumption
    | exact covers_trans (by decide) hc
    | with_reducible apply putAxis_within
    | with_reducible apply raiseAxis_within
    | split
    | with_reducible apply Within.upd
    | exact .inr (covers_mem hc (by decide))
    | with_reducible exact .inl rfl
    | with_reducible exact List.prefix_refl _
    | with_reducible exact Nat.le_refl _
    | with_reducible exact id
    | dsimp only


theorem startTable_within {C : List Comp} {s₀ : State} (i : Nat) (g : TblStart) (hops : Nat) {s : State} (h : Within C s₀ s) (hc : covers C [.ev, .mo] = true) : Within C s₀ (startTable i g hops s) := by
  unfold startTable
  try dsimp only
  repeat' first
    | with_reducible assumption
    | exact covers_trans (by decide) hc
    | with_reducible apply testTable_within
    | with_reducible apply putAxis_within
    | split
    | with_reducible apply Within.upd
    | exact .inr (covers_mem hc (by decide))
    | with_reducible exact .inl rfl
    | with_reducible exact List.prefix_refl _
    | with_reducible exact Nat.le_refl _
    | with_reducible exact id
    | dsimp only


theorem crossUnit_within {C : List Comp} {s₀ : State} (i : Nat) (up : Bool) {s : State} (h : Within C s₀ s) (hc : covers C [.ev, .mo] = true) : Within C s₀ (crossUnit i up s) := by
  unfold crossUnit
  try dsimp only
  repeat' first
    | with_reducible assumption
    | exact covers_trans (by decide) hc
    | with_reducible apply raiseCmp_within
    | with_reducible apply putAxis_within
    | split
    | with_reducible apply Within.upd
    | exact .inr (covers_mem hc (by decide))
    | with_reducible exact .inl rfl
    | with_reducible exact List.prefix_refl _
    | with_reducible exact Nat.le_refl _
    | with_reducible exact id
    | dsimp only


theorem crossTable_within {C : List Comp} {s₀ : State} (i : Nat) (up : Bool) {s : State} (h : Within C s₀ s) (hc : covers C [.ev, .mo] = true) : Within C s₀ (crossTable i up s) := by
  unfold crossTable
  try dsimp only
  repeat' first
    | with_reducible assumption
    | exact covers_trans (by decide) hc
    | with_reducible apply raiseCmp_within
    | with_reducible apply putAxis_within
    | split
    | with_reducible apply Within.upd
    | exact .inr (covers_mem hc (by decide))
    | with_reducible exact .inl rfl
    | with_reducible exact List.prefix_refl _
    | with_reducible exact Nat.le_refl _
    | with_reducible exact id
    | dsimp only


theorem oweAnchors_within {C : List Comp} {s₀ : State} (i : Nat) {s : State} (h : Within C s₀ s) (hc : covers C [.mv] = true) : Within C s₀ (oweAnchors i s) := by
  unfold oweAnchors
  try dsimp only
  repeat' first
    | with_reducible assumption
    | exact covers_trans (by decide) hc
    | with_reducible apply modMv_within
    | split
    | with_reducible apply Within.upd
    | exact .inr (covers_mem hc (by decide))
    | with_reducible exact .inl rfl
    | with_reducible exact List.prefix_refl _
    | with_reducible exact Nat.le_refl _
    | with_reducible exact id
    | dsimp only


theorem preset_within {C : List Comp} {s₀ : State} (i : Nat) (value : U32) (hops : Nat) {s : State} (h : Within C s₀ s) (hc : covers C [.free, .mv, .ev, .mo] = true) : Within C s₀ (preset i value hops s) := by
  unfold preset
  try dsimp only
  repeat' first
    | with_reducible assumption
    | exact covers_trans (by decide) hc
    | with_reducible apply oweAnchors_within
    | with_reducible apply modAxis_within
    | with_reducible apply useFree_within
    | with_reducible apply retestUnit_within
    | with_reducible apply testTable_within
    | split
    | with_reducible apply Within.upd
    | exact .inr (covers_mem hc (by decide))
    | with_reducible exact .inl rfl
    | with_reducible exact List.prefix_refl _
    | with_reducible exact Nat.le_refl _
    | with_reducible exact id
    | dsimp only


theorem countEdge_within {C : List Comp} {s₀ : State} (i : Nat) (count : Int) {s : State} (h : Within C s₀ s) (hc : covers C [.free, .ev, .mo] = true) : Within C s₀ (countEdge i count s) := by
  unfold countEdge
  try dsimp only
  repeat' first
    | with_reducible assumption
    | exact covers_trans (by decide) hc
    | with_reducible apply putAxis_within
    | with_reducible apply useFree_within
    | with_reducible apply raiseMoFault_within
    | with_reducible apply crossTable_within
    | with_reducible apply crossUnit_within
    | split
    | with_reducible apply Within.upd
    | exact .inr (covers_mem hc (by decide))
    | with_reducible exact .inl rfl
    | with_reducible exact List.prefix_refl _
    | with_reducible exact Nat.le_refl _
    | with_reducible exact id
    | dsimp only


theorem passThrough_within {C : List Comp} {s₀ : State} (i : Nat) {s : State} (h : Within C s₀ s) (hc : covers C [.out] = true) : Within C s₀ (passThrough i s) := by
  unfold passThrough
  try dsimp only
  repeat' first
    | with_reducible assumption
    | exact covers_trans (by decide) hc
    | with_reducible apply emit_within
    | split


theorem changeOutputs_within {C : List Comp} {s₀ : State} (i : Nat) (was : Bool) {s : State} (h : Within C s₀ s) (hc : covers C [.out] = true) : Within C s₀ (changeOutputs i was s) := by
  unfold changeOutputs
  try dsimp only
  repeat' first
    | with_reducible assumption
    | exact covers_trans (by decide) hc
    | with_reducible apply emit_within
    | with_reducible apply passThrough_within
    | split


theorem releaseOutputs_within {C : List Comp} {s₀ : State} (t : Nat) {s : State} (h : Within C s₀ s) (hc : covers C [.out] = true) : Within C s₀ (releaseOutputs t s) := by
  unfold releaseOutputs
  try dsimp only
  repeat' first
    | with_reducible assumption
    | exact covers_trans (by decide) hc
    | with_reducible apply emit_within
    | (with_reducible apply foldl_within; rotate_left; (intro _ _ _; try dsimp only))
    | split
    | dsimp only


theorem sampleAB_within {C : List Comp} {s₀ : State} (i : Nat) (la lb : BallLevel) {s : State} (h : Within C s₀ s) (hc : covers C [.free, .out, .ev, .mo] = true) : Within C s₀ (sampleAB i la lb s) := by
  unfold sampleAB
  try dsimp only
  repeat' first
    | with_reducible assumption
    | exact covers_trans (by decide) hc
    | with_reducible apply passThrough_within
    | with_reducible apply modAxis_within
    | with_reducible apply raiseMoFault_within
    | with_reducible apply countEdge_within
    | split
    | with_reducible apply Within.upd
    | exact .inr (covers_mem hc (by decide))
    | with_reducible exact .inl rfl
    | with_reducible exact List.prefix_refl _
    | with_reducible exact Nat.le_refl _
    | with_reducible exact id
    | dsimp only


theorem execMotionEdge_within {C : List Comp} {s₀ : State} (mi : Nat) (a b : BallLevel) {s : State} (h : Within C s₀ s) (hc : covers C [.free, .out, .ev, .mo] = true) : WithinO C s₀ (execMotionEdge mi a b s) := by
  unfold execMotionEdge
  try dsimp only
  repeat' first
    | dsimp only [withinO_next]
    | (with_reducible show WithinO _ _ _; split)
  repeat' first
    | with_reducible assumption
    | exact covers_trans (by decide) hc
    | with_reducible apply sampleAB_within


theorem sampleIndex_within {C : List Comp} {s₀ : State} (i : Nat) (level : BallLevel) {s : State} (h : Within C s₀ s) (hc : covers C [.free, .mv, .ev, .mo] = true) : Within C s₀ (sampleIndex i level s) := by
  unfold sampleIndex
  try dsimp only
  repeat' first
    | with_reducible assumption
    | exact covers_trans (by decide) hc
    | with_reducible apply modAxis_within
    | with_reducible apply raiseAxis_within
    | with_reducible apply preset_within
    | split
    | with_reducible apply Within.upd
    | exact .inr (covers_mem hc (by decide))
    | with_reducible exact .inl rfl
    | with_reducible exact List.prefix_refl _
    | with_reducible exact Nat.le_refl _
    | with_reducible exact id
    | dsimp only


theorem execMotionInputLevel_within {C : List Comp} {s₀ : State} (mi : Nat) (a b i : BallLevel) {s : State} (h : Within C s₀ s) (hc : covers C [.free, .out, .mv, .ev, .mo] = true) : WithinO C s₀ (execMotionInputLevel mi a b i s) := by
  unfold execMotionInputLevel
  try dsimp only
  repeat' first
    | dsimp only [withinO_next]
    | (with_reducible show WithinO _ _ _; split)
  repeat' first
    | with_reducible assumption
    | exact covers_trans (by decide) hc
    | with_reducible apply sampleIndex_within
    | with_reducible apply sampleAB_within


theorem execIndexEdge_within {C : List Comp} {s₀ : State} (mi : Nat) (level : BallLevel) {s : State} (h : Within C s₀ s) (hc : covers C [.free, .mv, .ev, .mo] = true) : WithinO C s₀ (execIndexEdge mi level s) := by
  unfold execIndexEdge
  try dsimp only
  repeat' first
    | dsimp only [withinO_next]
    | (with_reducible show WithinO _ _ _; split)
  repeat' first
    | with_reducible assumption
    | exact covers_trans (by decide) hc
    | with_reducible apply sampleIndex_within


theorem execStandstillExpiry_within {C : List Comp} {s₀ : State} (mi : Nat) {s : State} (h : Within C s₀ s) (hc : covers C [.mo] = true) : WithinO C s₀ (execStandstillExpiry mi s) := by
  unfold execStandstillExpiry
  try dsimp only
  repeat' first
    | dsimp only [withinO_next]
    | (with_reducible show WithinO _ _ _; split)
  repeat' first
    | with_reducible assumption
    | exact covers_trans (by decide) hc
    | with_reducible apply putAxis_within
    | split
    | with_reducible apply Within.upd
    | exact .inr (covers_mem hc (by decide))
    | with_reducible exact .inl rfl
    | with_reducible exact List.prefix_refl _
    | with_reducible exact Nat.le_refl _
    | with_reducible exact id
    | dsimp only


theorem execPositionHistoryRecord_within {C : List Comp} {s₀ : State} (mi : Nat) {s : State} (h : Within C s₀ s) (hc : covers C [.mo] = true) : WithinO C s₀ (execPositionHistoryRecord mi s) := by
  unfold execPositionHistoryRecord
  try dsimp only
  repeat' first
    | dsimp only [withinO_next]
    | (with_reducible show WithinO _ _ _; split)
  repeat' first
    | with_reducible assumption
    | exact covers_trans (by decide) hc
    | with_reducible apply putAxis_within
    | split
    | with_reducible apply Within.upd
    | exact .inr (covers_mem hc (by decide))
    | with_reducible exact .inl rfl
    | with_reducible exact List.prefix_refl _
    | with_reducible exact Nat.le_refl _
    | with_reducible exact id
    | dsimp only


theorem motionInput_within {C : List Comp} {s₀ : State} (mi base n : Nat) (act : Ev → State → State) {s : State} (h : Within C s₀ s)
    (hc : covers C [.ev] = true) (ha : ∀ e t, Within C s₀ t → Within C s₀ (act e t)) : Within C s₀ (motionInput mi base n s act) := by
  unfold motionInput
  split
  · split
    · exact h
    · exact ha _ _ (takeInput_within h (covers_trans rfl hc) ‹_›)
  · exact h


theorem takeCmpArm_within {C : List Comp} {s₀ : State} (mi n : Nat) {s : State} (h : Within C s₀ s) (hc : covers C [.ev, .mo] = true) : Within C s₀ (takeCmpArm mi n s) := by
  unfold takeCmpArm
  try dsimp only
  repeat' first
    | with_reducible assumption
    | exact covers_trans (by decide) hc
    | with_reducible apply motionInput_within
    | with_reducible apply armUnit_within
    | split
    | intro _ _ _
    | dsimp only


theorem execCmpArmInput_within {C : List Comp} {s₀ : State} (mi n : Nat) {s : State} (h : Within C s₀ s) (hc : covers C [.ev, .mo] = true) : WithinO C s₀ (execCmpArmInput mi n s) := by
  unfold execCmpArmInput
  try dsimp only
  repeat' first
    | dsimp only [withinO_next]
    | (with_reducible show WithinO _ _ _; split)
  repeat' first
    | with_reducible assumption
    | exact covers_trans (by decide) hc
    | with_reducible apply takeCmpArm_within


theorem takeTableStart_within {C : List Comp} {s₀ : State} (mi n : Nat) {s : State} (h : Within C s₀ s) (hc : covers C [.ev, .mo] = true) : Within C s₀ (takeTableStart mi n s) := by
  unfold takeTableStart
  try dsimp only
  repeat' first
    | with_reducible assumption
    | exact covers_trans (by decide) hc
    | with_reducible apply motionInput_within
    | with_reducible apply startTable_within
    | split
    | intro _ _ _
    | dsimp only


theorem execTableStartInput_within {C : List Comp} {s₀ : State} (mi n : Nat) {s : State} (h : Within C s₀ s) (hc : covers C [.ev, .mo] = true) : WithinO C s₀ (execTableStartInput mi n s) := by
  unfold execTableStartInput
  try dsimp only
  repeat' first
    | dsimp only [withinO_next]
    | (with_reducible show WithinO _ _ _; split)
  repeat' first
    | with_reducible assumption
    | exact covers_trans (by decide) hc
    | with_reducible apply takeTableStart_within


theorem takePreset_within {C : List Comp} {s₀ : State} (mi n : Nat) {s : State} (h : Within C s₀ s) (hc : covers C [.free, .mv, .ev, .mo] = true) : Within C s₀ (takePreset mi n s) := by
  unfold takePreset
  try dsimp only
  repeat' first
    | with_reducible assumption
    | exact covers_trans (by decide) hc
    | with_reducible apply motionInput_within
    | with_reducible apply preset_within
    | intro _ _ _
    | dsimp only


theorem execPresetInput_within {C : List Comp} {s₀ : State} (mi n : Nat) {s : State} (h : Within C s₀ s) (hc : covers C [.free, .mv, .ev, .mo] = true) : WithinO C s₀ (execPresetInput mi n s) := by
  unfold execPresetInput
  try dsimp only
  repeat' first
    | dsimp only [withinO_next]
    | (with_reducible show WithinO _ _ _; split)
  repeat' first
    | with_reducible assumption
    | exact covers_trans (by decide) hc
    | with_reducible apply takePreset_within


theorem execLatchInput_within {C : List Comp} {s₀ : State} (mi n : Nat) {s : State} (h : Within C s₀ s) (hc : covers C [.ev, .mo] = true) : WithinO C s₀ (execLatchInput mi n s) := by
  unfold execLatchInput
  try dsimp only
  repeat' first
    | dsimp only [withinO_next]
    | (with_reducible show WithinO _ _ _; split)
  repeat' first
    | with_reducible assumption
    | exact covers_trans (by decide) hc
    | with_reducible apply motionInput_within
    | with_reducible apply raiseAxis_within
    | with_reducible apply modAxis_within
    | with_reducible apply Within.upd
    | exact .inr (covers_mem hc (by decide))
    | with_reducible exact .inl rfl
    | with_reducible exact List.prefix_refl _
    | with_reducible exact Nat.le_refl _
    | with_reducible exact id
    | intro _ _ _
    | dsimp only


theorem inputsFirst_within {C : List Comp} {s₀ : State} (mi : Nat) {s : State} (h : Within C s₀ s) (hc : covers C [.free, .mv, .ev, .mo] = true) : Within C s₀ (inputsFirst mi s) := by
  unfold inputsFirst
  try dsimp only
  repeat' first
    | with_reducible assumption
    | exact covers_trans (by decide) hc
    | with_reducible apply takeTableStart_within
    | with_reducible apply takeCmpArm_within
    | with_reducible apply takePreset_within
    | dsimp only


theorem execMoPosRead_within {C : List Comp} {s₀ : State} (port mi : Nat) {s : State} (h : Within C s₀ s) (hc : covers C [.out, .host] = true) : WithinO C s₀ (execMoPosRead port mi s) := by
  unfold execMoPosRead
  try dsimp only
  repeat' first
    | dsimp only [withinO_next]
    | (with_reducible show WithinO _ _ _; split)
  repeat' first
    | with_reducible assumption
    | exact covers_trans (by decide) hc
    | with_reducible apply capture_within
    | with_reducible apply emit_within
    | dsimp only


theorem opMoConfig_first_within {C : List Comp} {s₀ : State}  (c : Cmd) {s : State} (h : Within C s₀ s) (hc : covers C [.free, .out, .eng, .mv, .ev, .mo] = true) : Within C s₀ ((opMoConfig).first c s) := by
  dsimp only [opMoConfig]
  repeat' first
    | with_reducible assumption
    | exact covers_trans (by decide) hc
    | with_reducible apply inputsFirst_within
    | with_reducible apply changeOutputs_within
    | with_reducible apply modAxis_within
    | with_reducible apply bumpPkg_within
    | split
    | with_reducible apply Within.upd
    | exact .inr (covers_mem hc (by decide))
    | with_reducible exact .inl rfl
    | with_reducible exact List.prefix_refl _
    | exact List.prefix_append _ _
    | with_reducible exact Nat.le_refl _
    | with_reducible exact id
    | dsimp only


theorem opMoConfig_within {C : List Comp} {s₀ : State}  (c : Cmd) {s : State} (h : Within C s₀ s) (hc : covers C [.free, .out, .eng, .mv, .ev, .mo] = true) : WithinR C s₀ ((opMoConfig).act c s) := by
  dsimp only [opMoConfig]
  repeat' first
    | dsimp only [withinR_done, withinR_wait, withinR_fail]
    | (with_reducible show WithinR _ _ _; split)
  repeat' first
    | with_reducible assumption
    | exact covers_trans (by decide) hc
    | with_reducible apply inputsFirst_within
    | with_reducible apply changeOutputs_within
    | with_reducible apply modAxis_within
    | with_reducible apply bumpPkg_within
    | split
    | with_reducible apply Within.upd
    | exact .inr (covers_mem hc (by decide))
    | with_reducible exact .inl rfl
    | with_reducible exact List.prefix_refl _
    | exact List.prefix_append _ _
    | with_reducible exact Nat.le_refl _
    | with_reducible exact id
    | dsimp only


theorem execMoConfig_within {C : List Comp} {s₀ : State} (c : Cmd) {s : State} (h : Within C s₀ s) (hc : covers C [.free, .out, .eng, .mv, .host, .ev, .boot, .mo, .hm] = true) : WithinO C s₀ (execMoConfig c s) :=
  runOp_within c (fun h => opMoConfig_first_within c h (covers_trans (by decide) hc)) (fun h => opMoConfig_within c h (covers_trans (by decide) hc)) h (covers_trans (by decide) hc)

theorem opMoQuery_within {C : List Comp} {s₀ : State}  (c : Cmd) {s : State} (h : Within C s₀ s) (_hc : covers C [] = true) : WithinR C s₀ ((opMoQuery).act c s) := by
  dsimp only [opMoQuery]
  repeat' first
    | dsimp only [withinR_done, withinR_wait, withinR_fail]
    | (with_reducible show WithinR _ _ _; split)
  repeat' first
    | with_reducible assumption
    | dsimp only


theorem execMoQuery_within {C : List Comp} {s₀ : State} (c : Cmd) {s : State} (h : Within C s₀ s) (hc : covers C [.out, .eng, .mv, .host, .ev, .boot, .hm] = true) : WithinO C s₀ (execMoQuery c s) :=
  runOp_within c (fun h => h) (fun h => opMoQuery_within c h (covers_trans (by decide) hc)) h (covers_trans (by decide) hc)

theorem opMoPreset_first_within {C : List Comp} {s₀ : State}  (c : Cmd) {s : State} (h : Within C s₀ s) (hc : covers C [.free, .eng, .mv, .ev, .mo] = true) : Within C s₀ ((opMoPreset).first c s) := by
  dsimp only [opMoPreset]
  repeat' first
    | with_reducible assumption
    | exact covers_trans (by decide) hc
    | with_reducible apply inputsFirst_within
    | with_reducible apply bumpPkg_within
    | with_reducible apply preset_within
    | dsimp only


theorem opMoPreset_within {C : List Comp} {s₀ : State}  (c : Cmd) {s : State} (h : Within C s₀ s) (hc : covers C [.free, .eng, .mv, .ev, .mo] = true) : WithinR C s₀ ((opMoPreset).act c s) := by
  dsimp only [opMoPreset]
  repeat' first
    | dsimp only [withinR_done, withinR_wait, withinR_fail]
    | (with_reducible show WithinR _ _ _; split)
  repeat' first
    | with_reducible assumption
    | exact covers_trans (by decide) hc
    | with_reducible apply inputsFirst_within
    | with_reducible apply bumpPkg_within
    | with_reducible apply preset_within
    | dsimp only


theorem execMoPreset_within {C : List Comp} {s₀ : State} (c : Cmd) {s : State} (h : Within C s₀ s) (hc : covers C [.free, .out, .eng, .mv, .host, .ev, .boot, .mo, .hm] = true) : WithinO C s₀ (execMoPreset c s) :=
  runOp_within c (fun h => opMoPreset_first_within c h (covers_trans (by decide) hc)) (fun h => opMoPreset_within c h (covers_trans (by decide) hc)) h (covers_trans (by decide) hc)

theorem opMoCmpCreate_within {C : List Comp} {s₀ : State}  (c : Cmd) {s : State} (h : Within C s₀ s) (hc : covers C [.eng, .mo] = true) : WithinR C s₀ ((opMoCmpCreate).act c s) := by
  dsimp only [opMoCmpCreate]
  repeat' first
    | dsimp only [withinR_done, withinR_wait, withinR_fail]
    | (with_reducible show WithinR _ _ _; split)
  repeat' first
    | with_reducible assumption
    | exact covers_trans (by decide) hc
    | with_reducible apply createObj_within
    | (with_reducible apply getD_map_within; rotate_left; intro _)
    | with_reducible apply Within.upd
    | exact .inr (covers_mem hc (by decide))
    | with_reducible exact .inl rfl
    | with_reducible exact List.prefix_refl _
    | with_reducible exact Nat.le_refl _
    | with_reducible exact id
    | dsimp only


theorem execMoCmpCreate_within {C : List Comp} {s₀ : State} (c : Cmd) {s : State} (h : Within C s₀ s) (hc : covers C [.out, .eng, .mv, .host, .ev, .boot, .mo, .hm] = true) : WithinO C s₀ (execMoCmpCreate c s) :=
  runOp_within c (fun h => h) (fun h => opMoCmpCreate_within c h (covers_trans (by decide) hc)) h (covers_trans (by decide) hc)

theorem opMoCmpArm_first_within {C : List Comp} {s₀ : State}  (c : Cmd) {s : State} (h : Within C s₀ s) (hc : covers C [.free, .eng, .mv, .ev, .mo] = true) : Within C s₀ ((opMoCmpArm).first c s) := by
  dsimp only [opMoCmpArm]
  repeat' first
    | with_reducible assumption
    | exact covers_trans (by decide) hc
    | with_reducible apply inputsFirst_within
    | with_reducible apply armUnit_within
    | with_reducible apply modAxis_within
    | with_reducible apply bumpObj_within
    | with_reducible apply Within.upd
    | exact .inr (covers_mem hc (by decide))
    | with_reducible exact .inl rfl
    | with_reducible exact List.prefix_refl _
    | with_reducible exact Nat.le_refl _
    | with_reducible exact id
    | dsimp only


theorem opMoCmpArm_within {C : List Comp} {s₀ : State}  (c : Cmd) {s : State} (h : Within C s₀ s) (hc : covers C [.free, .eng, .mv, .ev, .mo] = true) : WithinR C s₀ ((opMoCmpArm).act c s) := by
  dsimp only [opMoCmpArm]
  repeat' first
    | dsimp only [withinR_done, withinR_wait, withinR_fail]
    | (with_reducible show WithinR _ _ _; split)
  repeat' first
    | with_reducible assumption
    | exact covers_trans (by decide) hc
    | with_reducible apply inputsFirst_within
    | with_reducible apply armUnit_within
    | with_reducible apply modAxis_within
    | with_reducible apply bumpObj_within
    | with_reducible apply Within.upd
    | exact .inr (covers_mem hc (by decide))
    | with_reducible exact .inl rfl
    | with_reducible exact List.prefix_refl _
    | with_reducible exact Nat.le_refl _
    | with_reducible exact id
    | dsimp only


theorem execMoCmpArm_within {C : List Comp} {s₀ : State} (c : Cmd) {s : State} (h : Within C s₀ s) (hc : covers C [.free, .out, .eng, .mv, .host, .ev, .boot, .mo, .hm] = true) : WithinO C s₀ (execMoCmpArm c s) :=
  runOp_within c (fun h => opMoCmpArm_first_within c h (covers_trans (by decide) hc)) (fun h => opMoCmpArm_within c h (covers_trans (by decide) hc)) h (covers_trans (by decide) hc)

theorem opMoCmpDisarm_first_within {C : List Comp} {s₀ : State}  (c : Cmd) {s : State} (h : Within C s₀ s) (hc : covers C [.free, .eng, .mv, .ev, .mo] = true) : Within C s₀ ((opMoCmpDisarm).first c s) := by
  dsimp only [opMoCmpDisarm]
  repeat' first
    | with_reducible assumption
    | exact covers_trans (by decide) hc
    | with_reducible apply inputsFirst_within
    | with_reducible apply bumpObj_within
    | with_reducible apply modAxis_within
    | split
    | with_reducible apply Within.upd
    | exact .inr (covers_mem hc (by decide))
    | with_reducible exact .inl rfl
    | with_reducible exact List.prefix_refl _
    | with_reducible exact Nat.le_refl _
    | with_reducible exact id
    | dsimp only


theorem opMoCmpDisarm_within {C : List Comp} {s₀ : State}  (c : Cmd) {s : State} (h : Within C s₀ s) (hc : covers C [.free, .eng, .mv, .ev, .mo] = true) : WithinR C s₀ ((opMoCmpDisarm).act c s) := by
  dsimp only [opMoCmpDisarm]
  repeat' first
    | dsimp only [withinR_done, withinR_wait, withinR_fail]
    | (with_reducible show WithinR _ _ _; split)
  repeat' first
    | with_reducible assumption
    | exact covers_trans (by decide) hc
    | with_reducible apply inputsFirst_within
    | with_reducible apply bumpObj_within
    | with_reducible apply modAxis_within
    | split
    | with_reducible apply Within.upd
    | exact .inr (covers_mem hc (by decide))
    | with_reducible exact .inl rfl
    | with_reducible exact List.prefix_refl _
    | with_reducible exact Nat.le_refl _
    | with_reducible exact id
    | dsimp only


theorem execMoCmpDisarm_within {C : List Comp} {s₀ : State} (c : Cmd) {s : State} (h : Within C s₀ s) (hc : covers C [.free, .out, .eng, .mv, .host, .ev, .boot, .mo, .hm] = true) : WithinO C s₀ (execMoCmpDisarm c s) :=
  runOp_within c (fun h => opMoCmpDisarm_first_within c h (covers_trans (by decide) hc)) (fun h => opMoCmpDisarm_within c h (covers_trans (by decide) hc)) h (covers_trans (by decide) hc)

theorem opMoTblLoad_first_within {C : List Comp} {s₀ : State}  (c : Cmd) {s : State} (h : Within C s₀ s) (hc : covers C [.free, .eng, .mv, .ev, .mo] = true) : Within C s₀ ((opMoTblLoad).first c s) := by
  dsimp only [opMoTblLoad]
  repeat' first
    | with_reducible assumption
    | exact covers_trans (by decide) hc
    | with_reducible apply inputsFirst_within
    | with_reducible apply modAxis_within
    | with_reducible apply bumpObj_within
    | split
    | with_reducible apply Within.upd
    | exact .inr (covers_mem hc (by decide))
    | with_reducible exact .inl rfl
    | with_reducible exact List.prefix_refl _
    | with_reducible exact Nat.le_refl _
    | with_reducible exact id
    | with_reducible exact fun g => g.of_eq rfl rfl rfl
    | dsimp only


theorem opMoTblLoad_within {C : List Comp} {s₀ : State}  (c : Cmd) {s : State} (h : Within C s₀ s) (hc : covers C [.free, .eng, .mv, .ev, .mo] = true) : WithinR C s₀ ((opMoTblLoad).act c s) := by
  dsimp only [opMoTblLoad]
  repeat' first
    | dsimp only [withinR_done, withinR_wait, withinR_fail]
    | (with_reducible show WithinR _ _ _; split)
  repeat' first
    | with_reducible assumption
    | exact covers_trans (by decide) hc
    | with_reducible apply inputsFirst_within
    | with_reducible apply modAxis_within
    | with_reducible apply bumpObj_within
    | split
    | with_reducible apply Within.upd
    | exact .inr (covers_mem hc (by decide))
    | with_reducible exact .inl rfl
    | with_reducible exact List.prefix_refl _
    | with_reducible exact Nat.le_refl _
    | with_reducible exact id
    | with_reducible exact fun g => g.of_eq rfl rfl rfl
    | dsimp only


theorem execMoTblLoad_within {C : List Comp} {s₀ : State} (c : Cmd) {s : State} (h : Within C s₀ s) (hc : covers C [.free, .out, .eng, .mv, .host, .ev, .boot, .mo, .hm] = true) : WithinO C s₀ (execMoTblLoad c s) :=
  runOp_within c (fun h => opMoTblLoad_first_within c h (covers_trans (by decide) hc)) (fun h => opMoTblLoad_within c h (covers_trans (by decide) hc)) h (covers_trans (by decide) hc)

theorem opMoTblStart_first_within {C : List Comp} {s₀ : State}  (c : Cmd) {s : State} (h : Within C s₀ s) (hc : covers C [.free, .eng, .mv, .ev, .mo] = true) : Within C s₀ ((opMoTblStart).first c s) := by
  dsimp only [opMoTblStart]
  repeat' first
    | with_reducible assumption
    | exact covers_trans (by decide) hc
    | with_reducible apply inputsFirst_within
    | with_reducible apply bumpObj_within
    | with_reducible apply startTable_within
    | split
    | dsimp only


theorem opMoTblStart_within {C : List Comp} {s₀ : State}  (c : Cmd) {s : State} (h : Within C s₀ s) (hc : covers C [.free, .eng, .mv, .ev, .mo] = true) : WithinR C s₀ ((opMoTblStart).act c s) := by
  dsimp only [opMoTblStart]
  repeat' first
    | dsimp only [withinR_done, withinR_wait, withinR_fail]
    | (with_reducible show WithinR _ _ _; split)
  repeat' first
    | with_reducible assumption
    | exact covers_trans (by decide) hc
    | with_reducible apply inputsFirst_within
    | with_reducible apply bumpObj_within
    | with_reducible apply startTable_within
    | split
    | dsimp only


theorem execMoTblStart_within {C : List Comp} {s₀ : State} (c : Cmd) {s : State} (h : Within C s₀ s) (hc : covers C [.free, .out, .eng, .mv, .host, .ev, .boot, .mo, .hm] = true) : WithinO C s₀ (execMoTblStart c s) :=
  runOp_within c (fun h => opMoTblStart_first_within c h (covers_trans (by decide) hc)) (fun h => opMoTblStart_within c h (covers_trans (by decide) hc)) h (covers_trans (by decide) hc)

theorem opMoTblStop_first_within {C : List Comp} {s₀ : State}  (c : Cmd) {s : State} (h : Within C s₀ s) (hc : covers C [.free, .eng, .mv, .ev, .mo] = true) : Within C s₀ ((opMoTblStop).first c s) := by
  dsimp only [opMoTblStop]
  repeat' first
    | with_reducible assumption
    | exact covers_trans (by decide) hc
    | with_reducible apply inputsFirst_within
    | with_reducible apply bumpObj_within
    | with_reducible apply modAxis_within
    | split
    | with_reducible apply Within.upd
    | exact .inr (covers_mem hc (by decide))
    | with_reducible exact .inl rfl
    | with_reducible exact List.prefix_refl _
    | with_reducible exact Nat.le_refl _
    | with_reducible exact id
    | dsimp only


theorem opMoTblStop_within {C : List Comp} {s₀ : State}  (c : Cmd) {s : State} (h : Within C s₀ s) (hc : covers C [.free, .eng, .mv, .ev, .mo] = true) : WithinR C s₀ ((opMoTblStop).act c s) := by
  dsimp only [opMoTblStop]
  repeat' first
    | dsimp only [withinR_done, withinR_wait, withinR_fail]
    | (with_reducible show WithinR _ _ _; split)
  repeat' first
    | with_reducible assumption
    | exact covers_trans (by decide) hc
    | with_reducible apply inputsFirst_within
    | with_reducible apply bumpObj_within
    | with_reducible apply modAxis_within
    | split
    | with_reducible apply Within.upd
    | exact .inr (covers_mem hc (by decide))
    | with_reducible exact .inl rfl
    | with_reducible exact List.prefix_refl _
    | with_reducible exact Nat.le_refl _
    | with_reducible exact id
    | dsimp only


theorem execMoTblStop_within {C : List Comp} {s₀ : State} (c : Cmd) {s : State} (h : Within C s₀ s) (hc : covers C [.free, .out, .eng, .mv, .host, .ev, .boot, .mo, .hm] = true) : WithinO C s₀ (execMoTblStop c s) :=
  runOp_within c (fun h => opMoTblStop_first_within c h (covers_trans (by decide) hc)) (fun h => opMoTblStop_within c h (covers_trans (by decide) hc)) h (covers_trans (by decide) hc)

theorem opMoCmpQuery_within {C : List Comp} {s₀ : State}  (c : Cmd) {s : State} (h : Within C s₀ s) (_hc : covers C [] = true) : WithinR C s₀ ((opMoCmpQuery).act c s) := by
  dsimp only [opMoCmpQuery]
  repeat' first
    | dsimp only [withinR_done, withinR_wait, withinR_fail]
    | (with_reducible show WithinR _ _ _; split)
  repeat' first
    | with_reducible assumption


theorem execMoCmpQuery_within {C : List Comp} {s₀ : State} (c : Cmd) {s : State} (h : Within C s₀ s) (hc : covers C [.out, .eng, .mv, .host, .ev, .boot, .hm] = true) : WithinO C s₀ (execMoCmpQuery c s) :=
  runOp_within c (fun h => h) (fun h => opMoCmpQuery_within c h (covers_trans (by decide) hc)) h (covers_trans (by decide) hc)

theorem clearCompare_within {C : List Comp} {s₀ : State} (k : Nat) {s : State} (h : Within C s₀ s) (hc : covers C [.mo] = true) : Within C s₀ (clearCompare k s) := by
  unfold clearCompare
  try dsimp only
  repeat' first
    | with_reducible assumption
    | exact covers_trans (by decide) hc
    | with_reducible apply modAxis_within
    | with_reducible apply Within.upd
    | exact .inr (covers_mem hc (by decide))
    | with_reducible exact .inl rfl
    | with_reducible exact List.prefix_refl _
    | with_reducible exact Nat.le_refl _
    | with_reducible exact id
    | dsimp only


end Sys2Proof.Machine
end

