-- ==== Sys2Proof/Laws/WithinHandles.lean ====
section
/-!
SUPPORT. The operations of Handles: each keeps what `Within` says.
-/
namespace Sys2Proof.Machine
open Sys2Proof
set_option Elab.async false
set_option linter.all false

theorem abandonFrame_within {C : List Comp} {s₀ : State} (g : Nat) (seq : U64) {s : State} (h : Within C s₀ s) (hc : covers C [.st, .mv, .gov, .fs] = true) : Within C s₀ (abandonFrame g s seq) := by
  unfold abandonFrame
  try dsimp only
  repeat' first
    | with_reducible assumption
    | exact covers_trans (by decide) hc
    | with_reducible apply modFrame_within
    | with_reducible apply abandonLive_within
    | with_reducible apply Within.upd
    | exact .inr (covers_mem hc (by decide))
    | with_reducible exact .inl rfl
    | with_reducible exact List.prefix_refl _
    | with_reducible exact Nat.le_refl _
    | with_reducible exact id
    | dsimp only


theorem endCommits_within {C : List Comp} {s₀ : State} (g : Nat) {s : State} (h : Within C s₀ s) (hc : covers C [.out, .eng, .mv, .host, .boot] = true) : Within C s₀ (endCommits g s) := by
  unfold endCommits
  try dsimp only
  repeat' first
    | with_reducible assumption
    | exact covers_trans (by decide) hc
    | with_reducible apply finish_within
    | (with_reducible apply foldl_within; rotate_left; (intro _ _ _; try dsimp only))
    | (with_reducible apply getD_map_within; rotate_left; intro _)
    | split
    | with_reducible apply Within.upd
    | exact .inr (covers_mem hc (by decide))
    | with_reducible exact .inl rfl
    | with_reducible exact List.prefix_refl _
    | with_reducible exact Nat.le_refl _
    | with_reducible exact id
    | dsimp only


theorem endPairing_within {C : List Comp} {s₀ : State} (g : Nat) {s : State} (h : Within C s₀ s) (hc : covers C [.out, .eng, .mv, .host, .ev, .boot, .gov] = true) : Within C s₀ (endPairing g s) := by
  unfold endPairing
  try dsimp only
  repeat' first
    | with_reducible assumption
    | exact covers_trans (by decide) hc
    | with_reducible apply dropSkew_within
    | with_reducible apply modGov_within
    | (with_reducible apply foldl_within; rotate_left; (intro _ _ _; try dsimp only))
    | split
    | with_reducible apply Within.upd
    | exact .inr (covers_mem hc (by decide))
    | with_reducible exact .inl rfl
    | with_reducible exact List.prefix_refl _
    | with_reducible exact Nat.le_refl _
    | with_reducible exact id
    | with_reducible exact fun k => k.of_eq rfl rfl rfl rfl
    | with_reducible exact fun k => k.both rfl rfl rfl
    | exact fun _ => PkgOk.started rfl rfl
    | dsimp only


theorem destroyChannel_within {C : List Comp} {s₀ : State} (k : Nat) {s : State} (h : Within C s₀ s) (hc : covers C [.out, .eng, .st, .mv, .host, .ev, .boot, .gov, .cd, .fs] = true) : Within C s₀ (destroyChannel k s) := by
  unfold destroyChannel
  try dsimp only
  repeat' first
    | with_reducible assumption
    | exact covers_trans (by decide) hc
    | with_reducible apply raiseChan_within
    | with_reducible apply abandonFrame_within
    | with_reducible apply dropSample_within
    | with_reducible apply endPairing_within
    | with_reducible apply endCommits_within
    | with_reducible apply countChannel_within
    | with_reducible apply modChannel_within
    | with_reducible apply keepSlices_within
    | with_reducible apply modRing_within
    | with_reducible apply dropObj_within
    | with_reducible apply refillShort_within
    | (with_reducible apply foldl_within; rotate_left; (intro _ _ _; try dsimp only))
    | split
    | with_reducible apply Within.upd
    | exact .inr (covers_mem hc (by decide))
    | with_reducible exact .inl rfl
    | with_reducible exact List.prefix_refl _
    | with_reducible exact Nat.le_refl _
    | with_reducible exact id
    | with_reducible exact fun k => k.of_eq rfl rfl rfl rfl
    | with_reducible exact fun k => k.both rfl rfl rfl
    | exact fun _ => PkgOk.started rfl rfl
    | dsimp only


theorem clearQueueRefs_within {C : List Comp} {s₀ : State} (q : Nat) {s : State} (h : Within C s₀ s) (hc : covers C [.lanes, .st, .mv, .ev] = true) : Within C s₀ (clearQueueRefs q s) := by
  unfold clearQueueRefs
  try dsimp only
  repeat' first
    | with_reducible assumption
    | exact covers_trans (by decide) hc
    | with_reducible apply Within.upd
    | exact .inr (covers_mem hc (by decide))
    | with_reducible exact .inl rfl
    | with_reducible exact List.prefix_refl _
    | exact List.prefix_append _ _
    | with_reducible exact Nat.le_refl _
    | with_reducible exact id
    | dsimp only


theorem stopUsers_within {C : List Comp} {s₀ : State} (q : Nat) {s : State} (h : Within C s₀ s) (hc : covers C [.out, .eng, .st, .mv, .host, .ev, .boot, .gov, .fs] = true) : Within C s₀ (stopUsers q s) := by
  unfold stopUsers
  try dsimp only
  repeat' first
    | with_reducible assumption
    | exact covers_trans (by decide) hc
    | with_reducible apply closeReadout_within
    | with_reducible apply endReadout_within
    | with_reducible apply sweepFrames_within
    | with_reducible apply abandonFrame_within
    | with_reducible apply abortRun_within
    | (with_reducible apply foldl_within; rotate_left; (intro _ _ _; try dsimp only))
    | split
    | dsimp only


theorem releaseEntries_within {C : List Comp} {s₀ : State} (q : Nat) {s : State} (h : Within C s₀ s) (hc : covers C [.out, .eng, .mv, .host, .ev, .boot, .gov, .fs] = true) : Within C s₀ (releaseEntries q s) := by
  unfold releaseEntries
  try dsimp only
  repeat' first
    | with_reducible assumption
    | exact covers_trans (by decide) hc
    | with_reducible apply closeReadout_within
    | with_reducible apply afterEntry_within
    | with_reducible apply putQueue_within
    | (with_reducible apply foldl_within; rotate_left; (intro _ _ _; try dsimp only))
    | split
    | with_reducible apply Within.upd
    | exact .inr (covers_mem hc (by decide))
    | with_reducible exact .inl rfl
    | with_reducible exact List.prefix_refl _
    | exact List.prefix_append _ _
    | with_reducible exact Nat.le_refl _
    | with_reducible exact id
    | dsimp only


theorem removeQueue_within {C : List Comp} {s₀ : State} (q : Nat) {s : State} (h : Within C s₀ s) (hc : covers C [.out, .eng, .lanes, .st, .mv, .host, .ev, .boot, .gov, .fs] = true) : Within C s₀ (removeQueue q s) := by
  unfold removeQueue
  try dsimp only
  repeat' first
    | with_reducible assumption
    | exact covers_trans (by decide) hc
    | with_reducible apply releaseEntries_within
    | with_reducible apply stopUsers_within
    | with_reducible apply clearQueueRefs_within
    | with_reducible apply modMv_within
    | with_reducible apply dropObj_within
    | with_reducible apply Within.upd
    | exact .inr (covers_mem hc (by decide))
    | with_reducible exact .inl rfl
    | with_reducible exact List.prefix_refl _
    | with_reducible exact Nat.le_refl _
    | with_reducible exact id
    | dsimp only


theorem destroyQueue_within {C : List Comp} {s₀ : State} (k : Nat) {s : State} (h : Within C s₀ s) (hc : covers C [.out, .eng, .lanes, .st, .mv, .host, .ev, .boot, .gov, .fs] = true) : Within C s₀ (destroyQueue k s) := by
  unfold destroyQueue
  try dsimp only
  repeat' first
    | with_reducible assumption
    | exact covers_trans (by decide) hc
    | with_reducible apply removeQueue_within
    | split
    | dsimp only


theorem destroySched_within {C : List Comp} {s₀ : State} (k : Nat) {s : State} (h : Within C s₀ s) (hc : covers C [.out, .eng, .host, .time, .ev] = true) : Within C s₀ (destroySched k s) := by
  unfold destroySched
  try dsimp only
  repeat' first
    | with_reducible assumption
    | exact covers_trans (by decide) hc
    | with_reducible apply idlePin_within
    | with_reducible apply modPin_within
    | with_reducible apply dropObj_within
    | with_reducible apply modSched_within
    | split
    | with_reducible apply Within.upd
    | exact .inr (covers_mem hc (by decide))
    | with_reducible exact .inl rfl
    | with_reducible exact List.prefix_refl _
    | with_reducible exact Nat.le_refl _
    | with_reducible exact id
    | dsimp only


theorem destroyReservation_within {C : List Comp} {s₀ : State} (k : Nat) {s : State} (h : Within C s₀ s) (hc : covers C [.out, .eng, .mv, .host, .ev, .boot] = true) : Within C s₀ (destroyReservation k s) := by
  unfold destroyReservation
  try dsimp only
  repeat' first
    | with_reducible assumption
    | exact covers_trans (by decide) hc
    | with_reducible apply finishAll_within
    | with_reducible apply finish_within
    | with_reducible apply freeReservation_within
    | (with_reducible apply getD_map_within; rotate_left; intro _)
    | dsimp only


theorem destroyReference_within {C : List Comp} {s₀ : State} (k : Nat) {s : State} (h : Within C s₀ s) (hc : covers C [.out, .eng, .mv, .host, .ev, .boot, .ad] = true) : Within C s₀ (destroyReference k s) := by
  unfold destroyReference
  try dsimp only
  repeat' first
    | with_reducible assumption
    | exact covers_trans (by decide) hc
    | with_reducible apply destroyRef_within
    | with_reducible apply dropCapture_within


theorem destroySegment_within {C : List Comp} {s₀ : State} (k : Nat) {s : State} (h : Within C s₀ s) (hc : covers C [.out, .eng, .mv, .host, .ev, .boot, .gov, .fs] = true) : Within C s₀ (destroySegment k s) := by
  unfold destroySegment
  try dsimp only
  repeat' first
    | with_reducible assumption
    | exact covers_trans (by decide) hc
    | with_reducible apply dropSegment_within
    | with_reducible apply closeReadout_within
    | dsimp only


theorem destroyOne_within {C : List Comp} {s₀ : State} (k : Nat) {s : State} (h : Within C s₀ s) (hc : covers C [.out, .eng, .lanes, .st, .mv, .host, .time, .ev, .boot, .mo, .gov, .cd, .ad, .fs] = true) : Within C s₀ (destroyOne k s) := by
  unfold destroyOne
  try dsimp only
  repeat' first
    | with_reducible assumption
    | exact covers_trans (by decide) hc
    | with_reducible apply destroyChannel_within
    | with_reducible apply destroyQueue_within
    | with_reducible apply destroySegment_within
    | with_reducible apply destroyRoute_within
    | with_reducible apply dropObj_within
    | with_reducible apply clearCompare_within
    | with_reducible apply destroyReservation_within
    | with_reducible apply destroySched_within
    | with_reducible apply destroyRule_within
    | with_reducible apply destroyReference_within
    | split


theorem destroyFirst_within {C : List Comp} {s₀ : State} (c : Cmd) {s : State} (h : Within C s₀ s) (hc : covers C [.free, .out, .eng, .mv, .host, .time, .ev, .boot, .mo, .gov, .ad, .fs] = true) : Within C s₀ (destroyFirst c s) := by
  unfold destroyFirst
  try dsimp only
  repeat' first
    | with_reducible assumption
    | exact covers_trans (by decide) hc
    | with_reducible apply triggerFirst_within
    | with_reducible apply inputsFirst_within
    | with_reducible apply goFirst_within
    | with_reducible apply takeSchedGo_within
    | with_reducible apply armFirst_within
    | split
    | dsimp only


theorem destroyForced_within {C : List Comp} {s₀ : State} (n : Nat) (l : List Nat) (k : Nat) {s : State} (h : Within C s₀ s)
    (hc : covers C [.out, .eng, .lanes, .st, .mv, .host, .time, .ev, .boot, .mo, .gov, .cd, .ad, .fs] = true) : Within C s₀ (destroyForced n l k s) := by
  have sub {M : List Comp} (h : covers [.out, .eng, .lanes, .st, .mv, .host, .time, .ev, .boot, .mo, .gov, .cd, .ad, .fs] M = true) : covers C M = true := covers_trans h hc
  induction n generalizing s l k with
  | zero => exact destroyOne_within _ h (sub rfl)
  | succ n ih =>
    unfold destroyForced
    split
    · exact h
    · split
      · exact destroyOne_within _ h (sub rfl)
      · dsimp only
        have := foldl_within (fun s j => destroyForced n (k :: l) j s)
          ((referrers s k).filter fun j => !l.contains j) h fun t x ht => ih _ _ ht
        split
        · exact this
        · exact destroyOne_within _ this (sub rfl)


theorem destroyAll_within {C : List Comp} {s₀ : State} (which : Nat → Obj → Bool) {s : State} (h : Within C s₀ s) (hc : covers C [.out, .eng, .lanes, .st, .mv, .host, .time, .ev, .boot, .mo, .gov, .cd, .ad, .fs] = true) : Within C s₀ (destroyAll which s) := by
  unfold destroyAll
  try dsimp only
  repeat' first
    | with_reducible assumption
    | exact covers_trans (by decide) hc
    | with_reducible apply destroyForced_within
    | (with_reducible apply foldl_within; rotate_left; (intro _ _ _; try dsimp only))
    | dsimp only


theorem dropStaged_within {C : List Comp} {s₀ : State} (g id : Nat) {s : State} (h : Within C s₀ s) (hc : covers C [.eng, .st] = true) : Within C s₀ (dropStaged g id s) := by
  unfold dropStaged
  try dsimp only
  repeat' first
    | with_reducible assumption
    | exact covers_trans (by decide) hc
    | with_reducible apply dropWait_within
    | with_reducible apply putChannel_within
    | (with_reducible apply getD_map_within; rotate_left; intro _)
    | with_reducible apply Within.upd
    | exact .inr (covers_mem hc (by decide))
    | with_reducible exact .inl rfl
    | with_reducible exact List.prefix_refl _
    | with_reducible exact Nat.le_refl _
    | with_reducible exact id
    | dsimp only


theorem settleWait_within {C : List Comp} {s₀ : State} (w : Waiting) {s : State} (h : Within C s₀ s) (hc : covers C [.out, .eng, .st, .mv, .host, .ev, .boot, .cd, .ad] = true) : Within C s₀ (settleWait s w) := by
  unfold settleWait
  try dsimp only
  repeat' first
    | with_reducible assumption
    | exact covers_trans (by decide) hc
    | with_reducible apply dropSample_within
    | with_reducible apply dropCapture_within
    | with_reducible apply dropSkew_within
    | with_reducible apply modEng_within
    | with_reducible apply dropStaged_within
    | (with_reducible apply foldl_within; rotate_left; (intro _ _ _; try dsimp only))
    | split
    | with_reducible apply Within.upd
    | exact .inr (covers_mem hc (by decide))
    | with_reducible exact .inl rfl
    | with_reducible exact List.prefix_refl _
    | with_reducible exact Nat.le_refl _
    | with_reducible exact id
    | with_reducible exact fun _ g => g.of_eq rfl rfl rfl
    | dsimp only


theorem orphanOne_within {C : List Comp} {s₀ : State} (at_ : Nat) (n : U32) (k : Nat) {s : State} (h : Within C s₀ s) (hc : covers C [.eng, .st] = true) : Within C s₀ (orphanOne at_ n s k) := by
  unfold orphanOne
  try dsimp only
  repeat' first
    | with_reducible assumption
    | exact covers_trans (by decide) hc
    | with_reducible apply modObj_within
    | with_reducible apply abortStage_within
    | split
    | with_reducible apply Within.upd
    | exact .inr (covers_mem hc (by decide))
    | with_reducible exact .inl rfl
    | with_reducible exact List.prefix_refl _
    | with_reducible exact Nat.le_refl _
    | with_reducible exact id
    | exact fun _ g => g
    | exact fun _ _ => nextGen_ne_zero _
    | dsimp only


theorem abortSilent_within {C : List Comp} {s₀ : State} (p : Nat) {s : State} (h : Within C s₀ s) (hc : covers C [.mv] = true) : Within C s₀ (abortSilent p s) := by
  unfold abortSilent
  try dsimp only
  repeat' first
    | with_reducible assumption
    | exact covers_trans (by decide) hc
    | with_reducible apply modChan_within
    | with_reducible apply abortRun_within
    | (with_reducible apply foldl_within; rotate_left; (intro _ _ _; try dsimp only))
    | with_reducible apply Within.upd
    | exact .inr (covers_mem hc (by decide))
    | with_reducible exact .inl rfl
    | with_reducible exact List.prefix_refl _
    | with_reducible exact Nat.le_refl _
    | with_reducible exact id
    | dsimp only


theorem orphanPort_within {C : List Comp} {s₀ : State} (p : Nat) {s : State} (h : Within C s₀ s) (hc : covers C [.out, .eng, .lanes, .st, .mv, .host, .ev, .boot, .gov, .cd, .ad, .hm, .fs] = true) : Within C s₀ (orphanPort p s) := by
  unfold orphanPort
  try dsimp only
  repeat' first
    | with_reducible assumption
    | exact covers_trans (by decide) hc
    | with_reducible apply abortSilent_within
    | with_reducible apply settleWait_within
    | with_reducible apply modEng_within
    | with_reducible apply destroyQueue_within
    | with_reducible apply modHm_within
    | with_reducible apply orphanOne_within
    | (with_reducible apply foldl_within; rotate_left; (intro _ _ _; try dsimp only))
    | split
    | with_reducible apply Within.upd
    | exact .inr (covers_mem hc (by decide))
    | with_reducible exact .inl rfl
    | with_reducible exact List.prefix_refl _
    | with_reducible exact Nat.le_refl _
    | with_reducible exact id
    | with_reducible exact fun g => g.of_eq rfl rfl rfl
    | with_reducible exact fun _ g => g.of_eq rfl rfl rfl
    | dsimp only


theorem execOrphanDeadline_within {C : List Comp} {s₀ : State}  {s : State} (h : Within C s₀ s) (hc : covers C [.out, .eng, .lanes, .st, .mv, .host, .time, .ev, .boot, .mo, .gov, .cd, .ad, .fs] = true) : WithinO C s₀ (execOrphanDeadline s) := by
  unfold execOrphanDeadline
  try dsimp only
  repeat' first
    | dsimp only [withinO_next]
    | (with_reducible show WithinO _ _ _; split)
  repeat' first
    | with_reducible assumption
    | exact covers_trans (by decide) hc
    | with_reducible apply destroyAll_within
    | dsimp only


theorem resetPort_within {C : List Comp} {s₀ : State} (p kind : Nat) {s : State} (h : Within C s₀ s) (hc : covers C [.out, .pkg, .eng, .lanes, .st, .mv, .host, .ev, .boot, .gov, .cd, .ad, .hm, .fs] = true) : Within C s₀ (resetPort p kind s) := by
  unfold resetPort
  try dsimp only
  repeat' first
    | with_reducible assumption
    | exact covers_trans (by decide) hc
    | with_reducible apply startVacancy_within
    | with_reducible apply orphanPort_within
    | with_reducible apply resetConfig_within
    | with_reducible apply modHost_within
    | with_reducible apply modPort_within
    | with_reducible apply raise_within
    | with_reducible apply portChange_within
    | split
    | with_reducible apply Within.upd
    | exact .inr (covers_mem hc (by decide))
    | with_reducible exact .inl rfl
    | with_reducible exact List.prefix_refl _
    | with_reducible exact Nat.le_refl _
    | with_reducible exact id
    | dsimp only


theorem execPerst_within {C : List Comp} {s₀ : State} (port : Nat) {s : State} (h : Within C s₀ s) (hc : covers C [.out, .pkg, .eng, .lanes, .st, .mv, .host, .ev, .boot, .gov, .cd, .ad, .hm, .fs] = true) : WithinO C s₀ (execPerst port s) := by
  unfold execPerst
  try dsimp only
  repeat' first
    | dsimp only [withinO_next]
    | (with_reducible show WithinO _ _ _; split)
  repeat' first
    | with_reducible assumption
    | exact covers_trans (by decide) hc
    | with_reducible apply resetPort_within
    | split


theorem execHotReset_within {C : List Comp} {s₀ : State} (port : Nat) {s : State} (h : Within C s₀ s) (hc : covers C [.out, .pkg, .eng, .lanes, .st, .mv, .host, .ev, .boot, .gov, .cd, .ad, .hm, .fs] = true) : WithinO C s₀ (execHotReset port s) := by
  unfold execHotReset
  try dsimp only
  repeat' first
    | dsimp only [withinO_next]
    | (with_reducible show WithinO _ _ _; split)
  repeat' first
    | with_reducible assumption
    | exact covers_trans (by decide) hc
    | with_reducible apply resetPort_within
    | split


theorem execFunctionLevelReset_within {C : List Comp} {s₀ : State} (port : Nat) {s : State} (h : Within C s₀ s) (hc : covers C [.out, .pkg, .eng, .lanes, .st, .mv, .host, .ev, .boot, .gov, .cd, .ad, .hm, .fs] = true) : WithinO C s₀ (execFunctionLevelReset port s) := by
  unfold execFunctionLevelReset
  try dsimp only
  repeat' first
    | dsimp only [withinO_next]
    | (with_reducible show WithinO _ _ _; split)
  repeat' first
    | with_reducible assumption
    | exact covers_trans (by decide) hc
    | with_reducible apply resetPort_within
    | split


theorem execFlrDone_within {C : List Comp} {s₀ : State} (port : Nat) {s : State} (h : Within C s₀ s) (hc : covers C [.out, .pkg, .eng, .mv, .host, .ev, .boot, .gov, .fs] = true) : WithinO C s₀ (execFlrDone port s) := by
  unfold execFlrDone
  try dsimp only
  repeat' first
    | dsimp only [withinO_next]
    | (with_reducible show WithinO _ _ _; split)
  repeat' first
    | with_reducible assumption
    | exact covers_trans (by decide) hc
    | with_reducible apply portChange_within
    | with_reducible apply modPort_within
    | split
    | with_reducible apply Within.upd
    | exact .inr (covers_mem hc (by decide))
    | with_reducible exact .inl rfl
    | with_reducible exact List.prefix_refl _
    | with_reducible exact Nat.le_refl _
    | with_reducible exact id
    | dsimp only


theorem execHoldDeadline_within {C : List Comp} {s₀ : State} (port : Nat) {s : State} (h : Within C s₀ s) (hc : covers C [.out, .eng, .lanes, .st, .mv, .host, .ev, .boot, .gov, .cd, .ad, .hm, .fs] = true) : WithinO C s₀ (execHoldDeadline port s) := by
  unfold execHoldDeadline
  try dsimp only
  repeat' first
    | dsimp only [withinO_next]
    | (with_reducible show WithinO _ _ _; split)
  repeat' first
    | with_reducible assumption
    | exact covers_trans (by decide) hc
    | with_reducible apply modPort_within
    | with_reducible apply orphanPort_within
    | with_reducible apply modHost_within
    | split
    | with_reducible apply Within.upd
    | exact .inr (covers_mem hc (by decide))
    | with_reducible exact .inl rfl
    | with_reducible exact List.prefix_refl _
    | with_reducible exact Nat.le_refl _
    | with_reducible exact id
    | dsimp only


theorem opStreamDestroy_within {C : List Comp} {s₀ : State}  (c : Cmd) {s : State} (h : Within C s₀ s) (hc : covers C [.out, .eng, .st, .mv, .host, .ev, .boot, .gov, .cd, .fs] = true) : WithinR C s₀ ((opStreamDestroy).act c s) := by
  dsimp only [opStreamDestroy]
  repeat' first
    | dsimp only [withinR_done, withinR_wait, withinR_fail]
    | (with_reducible show WithinR _ _ _; split)
  repeat' first
    | with_reducible assumption
    | exact covers_trans (by decide) hc
    | with_reducible apply destroyChannel_within


theorem execStreamDestroy_within {C : List Comp} {s₀ : State} (c : Cmd) {s : State} (h : Within C s₀ s) (hc : covers C [.out, .eng, .st, .mv, .host, .ev, .boot, .gov, .cd, .hm, .fs] = true) : WithinO C s₀ (execStreamDestroy c s) :=
  runOp_within c (fun h => h) (fun h => opStreamDestroy_within c h (covers_trans (by decide) hc)) h (covers_trans (by decide) hc)

theorem opQueueDestroy_within {C : List Comp} {s₀ : State}  (c : Cmd) {s : State} (h : Within C s₀ s) (hc : covers C [.out, .eng, .lanes, .st, .mv, .host, .ev, .boot, .gov, .fs] = true) : WithinR C s₀ ((opQueueDestroy).act c s) := by
  dsimp only [opQueueDestroy]
  repeat' first
    | dsimp only [withinR_done, withinR_wait, withinR_fail]
    | (with_reducible show WithinR _ _ _; split)
  repeat' first
    | with_reducible assumption
    | exact covers_trans (by decide) hc
    | with_reducible apply destroyQueue_within
    | split


theorem execQueueDestroy_within {C : List Comp} {s₀ : State} (c : Cmd) {s : State} (h : Within C s₀ s) (hc : covers C [.out, .eng, .lanes, .st, .mv, .host, .ev, .boot, .gov, .hm, .fs] = true) : WithinO C s₀ (execQueueDestroy c s) :=
  runOp_within c (fun h => h) (fun h => opQueueDestroy_within c h (covers_trans (by decide) hc)) h (covers_trans (by decide) hc)

theorem opSchedDestroy_first_within {C : List Comp} {s₀ : State}  (c : Cmd) {s : State} (h : Within C s₀ s) (hc : covers C [.free, .out, .eng, .mv, .host, .time, .ev, .boot, .mo, .gov, .ad, .fs] = true) : Within C s₀ ((opSchedDestroy).first c s) := by
  dsimp only [opSchedDestroy]
  repeat' first
    | with_reducible assumption
    | exact covers_trans (by decide) hc
    | with_reducible apply destroyFirst_within
    | with_reducible apply destroySched_within


theorem opSchedDestroy_within {C : List Comp} {s₀ : State}  (c : Cmd) {s : State} (h : Within C s₀ s) (hc : covers C [.free, .out, .eng, .mv, .host, .time, .ev, .boot, .mo, .gov, .ad, .fs] = true) : WithinR C s₀ ((opSchedDestroy).act c s) := by
  dsimp only [opSchedDestroy]
  repeat' first
    | dsimp only [withinR_done, withinR_wait, withinR_fail]
    | (with_reducible show WithinR _ _ _; split)
  repeat' first
    | with_reducible assumption
    | exact covers_trans (by decide) hc
    | with_reducible apply destroyFirst_within
    | with_reducible apply destroySched_within


theorem execSchedDestroy_within {C : List Comp} {s₀ : State} (c : Cmd) {s : State} (h : Within C s₀ s) (hc : covers C [.free, .out, .eng, .mv, .host, .time, .ev, .boot, .mo, .gov, .ad, .hm, .fs] = true) : WithinO C s₀ (execSchedDestroy c s) :=
  runOp_within c (fun h => opSchedDestroy_first_within c h (covers_trans (by decide) hc)) (fun h => opSchedDestroy_within c h (covers_trans (by decide) hc)) h (covers_trans (by decide) hc)

theorem opMoCmpDestroy_first_within {C : List Comp} {s₀ : State}  (c : Cmd) {s : State} (h : Within C s₀ s) (hc : covers C [.free, .out, .eng, .mv, .host, .time, .ev, .boot, .mo, .gov, .ad, .fs] = true) : Within C s₀ ((opMoCmpDestroy).first c s) := by
  dsimp only [opMoCmpDestroy]
  repeat' first
    | with_reducible assumption
    | exact covers_trans (by decide) hc
    | with_reducible apply destroyFirst_within
    | with_reducible apply dropObj_within
    | with_reducible apply clearCompare_within


theorem opMoCmpDestroy_within {C : List Comp} {s₀ : State}  (c : Cmd) {s : State} (h : Within C s₀ s) (hc : covers C [.free, .out, .eng, .mv, .host, .time, .ev, .boot, .mo, .gov, .ad, .fs] = true) : WithinR C s₀ ((opMoCmpDestroy).act c s) := by
  dsimp only [opMoCmpDestroy]
  repeat' first
    | dsimp only [withinR_done, withinR_wait, withinR_fail]
    | (with_reducible show WithinR _ _ _; split)
  repeat' first
    | with_reducible assumption
    | exact covers_trans (by decide) hc
    | with_reducible apply destroyFirst_within
    | with_reducible apply dropObj_within
    | with_reducible apply clearCompare_within


theorem execMoCmpDestroy_within {C : List Comp} {s₀ : State} (c : Cmd) {s : State} (h : Within C s₀ s) (hc : covers C [.free, .out, .eng, .mv, .host, .time, .ev, .boot, .mo, .gov, .ad, .hm, .fs] = true) : WithinO C s₀ (execMoCmpDestroy c s) :=
  runOp_within c (fun h => opMoCmpDestroy_first_within c h (covers_trans (by decide) hc)) (fun h => opMoCmpDestroy_within c h (covers_trans (by decide) hc)) h (covers_trans (by decide) hc)

theorem opHandleQuery_within {C : List Comp} {s₀ : State}  (c : Cmd) {s : State} (h : Within C s₀ s) (_hc : covers C [] = true) : WithinR C s₀ ((opHandleQuery).act c s) := by
  dsimp only [opHandleQuery]
  repeat' first
    | dsimp only [withinR_done, withinR_wait, withinR_fail]
    | (with_reducible show WithinR _ _ _; split)
  repeat' first
    | with_reducible assumption
    | (with_reducible apply getD_map_within; rotate_left; intro _)
    | split
    | dsimp only


theorem execHandleQuery_within {C : List Comp} {s₀ : State} (c : Cmd) {s : State} (h : Within C s₀ s) (hc : covers C [.out, .eng, .mv, .host, .ev, .boot, .hm] = true) : WithinO C s₀ (execHandleQuery c s) :=
  runOp_within c (fun h => h) (fun h => opHandleQuery_within c h (covers_trans (by decide) hc)) h (covers_trans (by decide) hc)

theorem opHandleDestroy_first_within {C : List Comp} {s₀ : State}  (c : Cmd) {s : State} (h : Within C s₀ s) (hc : covers C [.free, .out, .eng, .lanes, .st, .mv, .host, .time, .ev, .boot, .mo, .gov, .cd, .ad, .fs] = true) : Within C s₀ ((opHandleDestroy).first c s) := by
  dsimp only [opHandleDestroy]
  repeat' first
    | with_reducible assumption
    | exact covers_trans (by decide) hc
    | with_reducible apply destroyFirst_within
    | with_reducible apply releaseChan_within
    | with_reducible apply destroyOne_within
    | split


theorem opHandleDestroy_within {C : List Comp} {s₀ : State}  (c : Cmd) {s : State} (h : Within C s₀ s) (hc : covers C [.free, .out, .eng, .lanes, .st, .mv, .host, .time, .ev, .boot, .mo, .gov, .cd, .ad, .fs] = true) : WithinR C s₀ ((opHandleDestroy).act c s) := by
  dsimp only [opHandleDestroy]
  repeat' first
    | dsimp only [withinR_done, withinR_wait, withinR_fail]
    | (with_reducible show WithinR _ _ _; split)
  repeat' first
    | with_reducible assumption
    | exact covers_trans (by decide) hc
    | with_reducible apply destroyFirst_within
    | with_reducible apply releaseChan_within
    | with_reducible apply destroyOne_within
    | split


theorem execHandleDestroy_within {C : List Comp} {s₀ : State} (c : Cmd) {s : State} (h : Within C s₀ s) (hc : covers C [.free, .out, .eng, .lanes, .st, .mv, .host, .time, .ev, .boot, .mo, .gov, .cd, .ad, .hm, .fs] = true) : WithinO C s₀ (execHandleDestroy c s) :=
  runOp_within c (fun h => opHandleDestroy_first_within c h (covers_trans (by decide) hc)) (fun h => opHandleDestroy_within c h (covers_trans (by decide) hc)) h (covers_trans (by decide) hc)

theorem adoptOne_within {C : List Comp} {s₀ : State} (p : Nat) (k : Nat) {s : State} (h : Within C s₀ s) (hc : covers C [.eng, .mv] = true) : Within C s₀ (adoptOne p s k) := by
  unfold adoptOne
  try dsimp only
  repeat' first
    | with_reducible assumption
    | exact covers_trans (by decide) hc
    | with_reducible apply modObj_within
    | with_reducible apply modChan_within
    | split
    | with_reducible apply Within.upd
    | exact .inr (covers_mem hc (by decide))
    | with_reducible exact .inl rfl
    | with_reducible exact List.prefix_refl _
    | with_reducible exact Nat.le_refl _
    | with_reducible exact id
    | exact fun _ g => g
    | exact fun _ _ => nextGen_ne_zero _
    | dsimp only


theorem opAdopt_within {C : List Comp} {s₀ : State}  (c : Cmd) {s : State} (h : Within C s₀ s) (hc : covers C [.eng, .mv] = true) : WithinR C s₀ ((opAdopt).act c s) := by
  dsimp only [opAdopt]
  repeat' first
    | dsimp only [withinR_done, withinR_wait, withinR_fail]
    | (with_reducible show WithinR _ _ _; split)
  repeat' first
    | with_reducible assumption
    | exact covers_trans (by decide) hc
    | with_reducible apply adoptOne_within
    | (with_reducible apply foldl_within; rotate_left; (intro _ _ _; try dsimp only))
    | split
    | dsimp only


theorem execAdopt_within {C : List Comp} {s₀ : State} (c : Cmd) {s : State} (h : Within C s₀ s) (hc : covers C [.out, .eng, .mv, .host, .ev, .boot, .hm] = true) : WithinO C s₀ (execAdopt c s) :=
  runOp_within c (fun h => h) (fun h => opAdopt_within c h (covers_trans (by decide) hc)) h (covers_trans (by decide) hc)

theorem opOrphanGraceSet_within {C : List Comp} {s₀ : State}  (c : Cmd) {s : State} (h : Within C s₀ s) (hc : covers C [.eng] = true) : WithinR C s₀ ((opOrphanGraceSet).act c s) := by
  dsimp only [opOrphanGraceSet]
  repeat' first
    | dsimp only [withinR_done, withinR_wait, withinR_fail]
    | (with_reducible show WithinR _ _ _; split)
  repeat' first
    | with_reducible assumption
    | exact covers_trans (by decide) hc
    | with_reducible apply bumpPkg_within
    | with_reducible apply modEng_within
    | split
    | with_reducible apply Within.upd
    | exact .inr (covers_mem hc (by decide))
    | with_reducible exact .inl rfl
    | with_reducible exact List.prefix_refl _
    | with_reducible exact Nat.le_refl _
    | with_reducible exact id
    | with_reducible exact fun g => g.of_eq rfl rfl rfl
    | with_reducible exact fun _ g => g.of_eq rfl rfl rfl
    | dsimp only


theorem execOrphanGraceSet_within {C : List Comp} {s₀ : State} (c : Cmd) {s : State} (h : Within C s₀ s) (hc : covers C [.out, .eng, .mv, .host, .ev, .boot, .hm] = true) : WithinO C s₀ (execOrphanGraceSet c s) :=
  runOp_within c (fun h => h) (fun h => opOrphanGraceSet_within c h (covers_trans (by decide) hc)) h (covers_trans (by decide) hc)

theorem opHandleList_within {C : List Comp} {s₀ : State}  (c : Cmd) {s : State} (h : Within C s₀ s) (_hc : covers C [] = true) : WithinR C s₀ ((opHandleList).act c s) := by
  dsimp only [opHandleList]
  repeat' first
    | dsimp only [withinR_done, withinR_wait, withinR_fail]
    | (with_reducible show WithinR _ _ _; split)
  repeat' first
    | with_reducible assumption
    | split
    | dsimp only


theorem execHandleList_within {C : List Comp} {s₀ : State} (c : Cmd) {s : State} (h : Within C s₀ s) (hc : covers C [.out, .eng, .mv, .host, .ev, .boot, .hm] = true) : WithinO C s₀ (execHandleList c s) :=
  runOp_within c (fun h => h) (fun h => opHandleList_within c h (covers_trans (by decide) hc)) h (covers_trans (by decide) hc)

end Sys2Proof.Machine
end

