-- ==== Sys2Proof/Laws/WithinReset.lean ====
section
/-!
SUPPORT. The operations of Reset: each keeps what `Within` says.
-/
namespace Sys2Proof.Machine
open Sys2Proof
set_option Elab.async false
set_option linter.all false

theorem modPkg_within {C : List Comp} {s₀ s : State} (f : PkgState → PkgState) (h : Within C s₀ s) (hc : covers C [.pkg] = true)
    (hm : (∀ p, (f p).mode = p.mode) ∨ Comp.mode ∈ C) (hs : (∀ p, (f p).service = p.service) ∨ Comp.service ∈ C)
    (hl : (∀ p, (f p).linkDown = p.linkDown) ∨ Comp.links ∈ C) (hk : PkgOk s.pkg → PkgOk (f s.pkg)) : Within C s₀ (modPkg s f) :=
  h.trans ⟨rfl, rfl, rfl, List.prefix_refl _, Nat.le_refl _, id, hk, fun c m => by
    cases c <;> first
      | rfl
      | exact absurd (covers_mem hc rfl) m
      | exact (hm.resolve_right m) _
      | exact (hs.resolve_right m) _
      | exact (hl.resolve_right m) _⟩


theorem resetState_within {C : List Comp} {s₀ : State} (m : Mode) (cause port : Nat) {s : State} (h : Within C s₀ s) (hc : covers C [.free, .out, .pkg, .eng, .lanes, .st, .mv, .host, .time, .cal, .ev, .boot, .mo, .gov, .cd, .ad, .hm, .fs, .rd, .mode, .service, .links] = true) :
    Within C s₀ (resetState m cause port s) :=
  h.trans ⟨rfl, rfl, rfl, List.prefix_append _ _, Nat.le_refl _, fun _ => generationsOk_reset, fun _ => PkgOk.settled rfl rfl rfl, fun c m => by
    cases c <;> first | rfl | exact absurd (covers_mem hc rfl) m⟩


theorem enterBoot_within {C : List Comp} {s₀ : State}  {s : State} (h : Within C s₀ s) (hc : covers C [.pkg, .time, .boot, .mode] = true) : Within C s₀ (enterBoot s) := by
  unfold enterBoot
  try dsimp only
  repeat' first
    | with_reducible assumption
    | exact covers_trans (by decide) hc
    | split
    | with_reducible apply Within.upd
    | exact .inr (covers_mem hc (by decide))
    | with_reducible exact .inl rfl
    | with_reducible exact List.prefix_refl _
    | with_reducible exact Nat.le_refl _
    | with_reducible exact id
    | with_reducible exact fun k => k.of_eq rfl rfl rfl rfl
    | with_reducible exact fun k => k.both rfl rfl rfl
    | exact fun _ => PkgOk.started rfl rfl


theorem packageReset_within {C : List Comp} {s₀ : State} (cause port : Nat) {s : State} (h : Within C s₀ s) (hc : covers C [.free, .out, .pkg, .eng, .lanes, .st, .mv, .host, .time, .cal, .ev, .boot, .mo, .gov, .cd, .ad, .hm, .fs, .rd, .mode, .service, .links] = true) : Within C s₀ (packageReset cause port s) := by
  unfold packageReset
  try dsimp only
  repeat' first
    | with_reducible assumption
    | exact covers_trans (by decide) hc
    | with_reducible apply enterBoot_within
    | with_reducible apply resetState_within


end Sys2Proof.Machine
end

