-- ==== Sys2Proof/Laws/WithinModes.lean ====
section
/-!
SUPPORT. The operations of Modes: each keeps what `Within` says.
-/
namespace Sys2Proof.Machine
open Sys2Proof
set_option Elab.async false
set_option linter.all false

theorem cutChannel_within {C : List Comp} {s₀ : State} (g : Nat) {s : State} (h : Within C s₀ s) (hc : covers C [.free, .eng, .st, .mv, .ev, .gov, .fs] = true) : Within C s₀ (cutChannel g s).2 := by
  unfold cutChannel
  try dsimp only
  repeat' first
    | with_reducible assumption
    | exact covers_trans (by decide) hc
    | with_reducible apply giveUp_within
    | with_reducible apply modBlock_within
    | with_reducible apply noteReady_within
    | with_reducible apply advance_within
    | (with_reducible apply foldl_within; rotate_left; (intro _ _ _; try dsimp only))
    | split
    | with_reducible apply Within.upd
    | exact .inr (covers_mem hc (by decide))
    | with_reducible exact .inl rfl
    | with_reducible exact List.prefix_refl _
    | with_reducible exact Nat.le_refl _
    | with_reducible exact id
    | with_reducible exact fun g => g.of_eq rfl rfl rfl
    | dsimp only

theorem cutChannel_within_eq {C : List Comp} {s₀ : State} {g : Nat} {s : State} {x₁} {t₁ : State} (h : Within C s₀ s) (hc : covers C [.free, .eng, .st, .mv, .ev, .gov, .fs] = true) (e : cutChannel g s = (x₁, t₁)) : Within C s₀ t₁ := by
  have := cutChannel_within g h hc
  rw [e] at this
  exact this

theorem cutFrames_within {C : List Comp} {s₀ : State} (which : Nat → Bool) {s : State} (h : Within C s₀ s) (hc : covers C [.free, .eng, .st, .mv, .ev, .gov, .fs] = true) :
    Within C s₀ (cutFrames which s).2 := by
  unfold cutFrames
  exact foldl_snd_within _ _ h fun p x hp => cutChannel_within _ hp (covers_trans rfl hc)
theorem cutFrames_within_eq {C : List Comp} {s₀ : State} {which : Nat → Bool} {s : State} {x₁} {t₁ : State} (h : Within C s₀ s)
    (hc : covers C [.free, .eng, .st, .mv, .ev, .gov, .fs] = true) (e : cutFrames which s = (x₁, t₁)) : Within C s₀ t₁ := by
  have := cutFrames_within which h hc
  rw [e] at this
  exact this


theorem newEpoch_within {C : List Comp} {s₀ : State} (t : Nat) {s : State} (h : Within C s₀ s) (hc : covers C [.ad] = true) : Within C s₀ (newEpoch t s) := by
  unfold newEpoch
  try dsimp only
  repeat' first
    | with_reducible assumption
    | exact covers_trans (by decide) hc
    | with_reducible apply modAd_within
    | with_reducible apply Within.upd
    | exact .inr (covers_mem hc (by decide))
    | with_reducible exact .inl rfl
    | with_reducible exact List.prefix_refl _
    | with_reducible exact Nat.le_refl _
    | with_reducible exact id
    | dsimp only


theorem keepMode_within {C : List Comp} {s₀ : State} (t : Nat) {s : State} (h : Within C s₀ s) (hc : covers C [.out, .pkg, .eng, .mv, .host, .ev, .boot, .service] = true) : Within C s₀ (keepMode s t) := by
  unfold keepMode
  try dsimp only
  repeat' first
    | with_reducible assumption
    | exact covers_trans (by decide) hc
    | with_reducible apply quiesced_within
    | with_reducible apply modPkg_within
    | split
    | with_reducible apply Within.upd
    | exact .inr (covers_mem hc (by decide))
    | with_reducible exact .inl rfl
    | with_reducible exact List.prefix_refl _
    | with_reducible exact Nat.le_refl _
    | with_reducible exact id
    | with_reducible exact fun k => k.of_eq rfl rfl rfl rfl
    | with_reducible exact fun k => k.both rfl rfl rfl
    | exact fun _ => PkgOk.started rfl rfl
    | exact .inl fun _ => rfl
    | exact .inr (covers_mem hc (by decide))
    | with_reducible exact fun k => k.of_eq rfl rfl rfl rfl
    | with_reducible exact fun _ => PkgOk.settled rfl rfl rfl
    | with_reducible exact fun k => k.both rfl rfl rfl
    | dsimp only


theorem moveReadouts_within {C : List Comp} {s₀ : State} (old new : Mode) {s : State} (h : Within C s₀ s) (hc : covers C [.gov, .fs] = true) : Within C s₀ (moveReadouts old new s) := by
  unfold moveReadouts
  try dsimp only
  repeat' first
    | with_reducible assumption
    | exact covers_trans (by decide) hc
    | with_reducible apply endReadout_within
    | with_reducible apply dropJob_within
    | with_reducible apply addJob_within
    | with_reducible apply modFs_within
    | (with_reducible apply foldl_within; rotate_left; (intro _ _ _; try dsimp only))
    | (with_reducible apply getD_map_within; rotate_left; intro _)
    | split
    | with_reducible apply Within.upd
    | exact .inr (covers_mem hc (by decide))
    | with_reducible exact .inl rfl
    | with_reducible exact List.prefix_refl _
    | exact List.prefix_append _ _
    | with_reducible exact Nat.le_refl _
    | with_reducible exact id
    | dsimp only


theorem dropCalibration_within {C : List Comp} {s₀ : State}  {s : State} (h : Within C s₀ s) (hc : covers C [.out, .eng, .mv, .host, .ev, .boot, .cd] = true) : Within C s₀ (dropCalibration s) := by
  unfold dropCalibration
  try dsimp only
  repeat' first
    | with_reducible assumption
    | exact covers_trans (by decide) hc
    | with_reducible apply dropSample_within
    | with_reducible apply dropSkew_within
    | (with_reducible apply foldl_within; rotate_left; (intro _ _ _; try dsimp only))
    | dsimp only


theorem dropCaptures_within {C : List Comp} {s₀ : State} (which : Nat → Bool) {s : State} (h : Within C s₀ s) (hc : covers C [.out, .eng, .mv, .host, .boot, .ad] = true) : Within C s₀ (dropCaptures which s) := by
  unfold dropCaptures
  try dsimp only
  repeat' first
    | with_reducible assumption
    | exact covers_trans (by decide) hc
    | with_reducible apply dropCapture_within
    | (with_reducible apply foldl_within; rotate_left; (intro _ _ _; try dsimp only))
    | dsimp only


theorem leaveTest_within {C : List Comp} {s₀ : State}  {s : State} (h : Within C s₀ s) (hc : covers C [.mv, .hm] = true) : Within C s₀ (leaveTest s) := by
  unfold leaveTest
  try dsimp only
  repeat' first
    | with_reducible assumption
    | exact covers_trans (by decide) hc
    | with_reducible apply modHm_within
    | with_reducible apply discardInjections_within
    | with_reducible apply abortRun_within
    | (with_reducible apply foldl_within; rotate_left; (intro _ _ _; try dsimp only))
    | with_reducible apply Within.upd
    | exact .inr (covers_mem hc (by decide))
    | with_reducible exact .inl rfl
    | with_reducible exact List.prefix_refl _
    | with_reducible exact Nat.le_refl _
    | with_reducible exact id
    | dsimp only


theorem endChange_within {C : List Comp} {s₀ : State} (m : ModeChange) {s : State} (h : Within C s₀ s) (hc : covers C [.out, .pkg, .eng, .mv, .host, .boot] = true) : Within C s₀ (endChange m s) := by
  unfold endChange
  try dsimp only
  repeat' first
    | with_reducible assumption
    | exact covers_trans (by decide) hc
    | with_reducible apply modPkg_within
    | with_reducible apply finish_within
    | with_reducible apply Within.upd
    | exact .inr (covers_mem hc (by decide))
    | with_reducible exact .inl rfl
    | with_reducible exact List.prefix_refl _
    | with_reducible exact Nat.le_refl _
    | with_reducible exact id
    | with_reducible exact fun k => k.of_eq rfl rfl rfl rfl
    | with_reducible exact fun k => k.both rfl rfl rfl
    | exact fun _ => PkgOk.started rfl rfl
    | exact .inl fun _ => rfl
    | exact .inr (covers_mem hc (by decide))
    | with_reducible exact fun k => k.of_eq rfl rfl rfl rfl
    | with_reducible exact fun _ => PkgOk.settled rfl rfl rfl
    | with_reducible exact fun k => k.both rfl rfl rfl
    | dsimp only


theorem settleRings_within {C : List Comp} {s₀ : State} (which : Nat → Bool) {s : State} (h : Within C s₀ s) (hc : covers C [.eng, .ev, .fs] = true) : Within C s₀ (settleRings which s) := by
  unfold settleRings
  try dsimp only
  repeat' first
    | with_reducible assumption
    | exact covers_trans (by decide) hc
    | with_reducible apply settleRing_within
    | (with_reducible apply foldl_within; rotate_left; (intro _ _ _; try dsimp only))
    | dsimp only


theorem keepMode_change (l : List Nat) (s : State) : (l.foldl keepMode s).pkg.change = s.pkg.change := by
  induction l generalizing s with
  | nil => rfl
  | cons t l ih =>
    rw [List.foldl_cons, ih]
    unfold keepMode
    split <;> rfl

/-- A change in progress stays one when it takes another record. -/
theorem PkgOk.changed {p : PkgState} (h : PkgOk p) (hp : p.change.isSome = true) (m : Mode) (c q : Nat) (x : ModeChange) :
    PkgOk { p with mode := m, cause := c, causePort := q, change := some x } :=
  .started rfl (h.changing.trans hp)

theorem applyMode_within {C : List Comp} {s₀ : State} (m : ModeChange) {s : State} (h : Within C s₀ s) (hp : s.pkg.change.isSome = true)
    (hc : covers C [.free, .out, .pkg, .eng, .lanes, .mv, .host, .ev, .boot, .gov, .cd, .ad, .hm, .fs, .mode, .service] = true) : Within C s₀ (applyMode m s) := by
  have sub {M : List Comp} (h : covers [.free, .out, .pkg, .eng, .lanes, .mv, .host, .ev, .boot, .gov, .cd, .ad, .hm, .fs, .mode, .service] M = true) : covers C M = true := covers_trans h hc
  unfold applyMode
  extract_lets old new port s₁ s₂ s₃ s₄ s₅ s₆ s₇ s₈ s₉ s₁₀ m'
  have h₁ : Within C s₀ s₁ := foldl_within _ _ h fun t x ht => keepMode_within _ ht (sub rfl)
  have e₁ : s₁.pkg.change = s.pkg.change := keepMode_change _ _
  clear_value s₁
  have w₂ : Within [.ad] s₁ s₂ := foldl_within _ _ (.refl _ _) fun t x ht => newEpoch_within _ ht rfl
  have h₂ : Within C s₀ s₂ := foldl_within _ _ h₁ fun t x ht => newEpoch_within _ ht (sub rfl)
  have e₂ : s₂.pkg.change.isSome = true := by rw [show s₂.pkg = s₁.pkg from w₂.same .pkg (by decide), e₁, hp]
  clear_value s₂
  have h₃ : Within C s₀ s₃ := modPkg_within _ h₂ (sub rfl) (.inr (covers_mem hc (by decide))) (.inl fun _ => rfl) (.inl fun _ => rfl) fun k =>
    .started e₂ (k.changing.trans e₂)
  have e₃ : s₃.pkg.change.isSome = true := e₂
  clear_value s₃
  have later (D : List Comp) (hd : covers D [.free, .out, .eng, .lanes, .mv, .host, .ev, .boot, .gov, .cd, .ad, .hm, .fs] = true) {r : State}
      (w : Within D r s₃) : Within D r s₁₀ := by
    have w₄ : Within D r s₄ := moveReadouts_within _ _ w (covers_trans (by decide) hd)
    clear_value s₄
    have w₅ : Within D r s₅ := by
      unfold s₅; split
      · exact dropCalibration_within w₄ (covers_trans (by decide) hd)
      · exact w₄
    clear_value s₅
    have w₆ : Within D r s₆ := by
      unfold s₆; split
      · exact w₅
      · exact dropCaptures_within _ w₅ (covers_trans (by decide) hd)
    clear_value s₆
    have w₇ : Within D r s₇ := by
      unfold s₇; split
      · exact w₆
      · exact modFs_within _ w₆ (covers_trans (by decide) hd)
    clear_value s₇
    have w₈ : Within D r s₈ := by
      unfold s₈; split
      · exact leaveTest_within w₇ (covers_trans (by decide) hd)
      · exact w₇
    clear_value s₈
    have w₉ : Within D r s₉ := settleRings_within _ w₈ (covers_trans (by decide) hd)
    clear_value s₉
    exact foldl_within _ _ w₉ fun t x ht => refreshLanes_within _ ht (covers_trans (by decide) hd)
  have h₁₀ := later C (sub rfl) h₃
  have e₁₀ : s₁₀.pkg = s₃.pkg := (later [.free, .out, .eng, .lanes, .mv, .host, .ev, .boot, .gov, .cd, .ad, .hm, .fs] rfl (.refl _ _)).same .pkg (by decide)
  split
  · exact endChange_within _ h₁₀ (sub rfl)
  · refine modPkg_within _ h₁₀ (sub rfl) (.inl fun _ => rfl) (.inl fun _ => rfl) (.inl fun _ => rfl) fun k => ?_
    exact .started rfl (k.changing.trans (by rw [e₁₀, e₃]))


theorem execModeCommit_within {C : List Comp} {s₀ s : State} (h : Within C s₀ s) (hc : covers C [.free, .out, .pkg, .eng, .lanes, .mv, .host, .ev, .boot, .gov, .cd, .ad, .hm, .fs, .mode, .service] = true) :
    WithinO C s₀ (execModeCommit s) := by
  unfold execModeCommit
  rw [withinO_next]
  split
  · rename_i e
    split
    · exact h
    · exact applyMode_within _ h (by rw [e]; rfl) (covers_trans (by decide) hc)
  · exact h


theorem execModeDrainComplete_within {C : List Comp} {s₀ : State}  {s : State} (h : Within C s₀ s) (hc : covers C [.out, .pkg, .eng, .mv, .host, .boot] = true) : WithinO C s₀ (execModeDrainComplete s) := by
  unfold execModeDrainComplete
  try dsimp only
  repeat' first
    | dsimp only [withinO_next]
    | (with_reducible show WithinO _ _ _; split)
  repeat' first
    | with_reducible assumption
    | exact covers_trans (by decide) hc
    | with_reducible apply endChange_within
    | split
    | with_reducible exact fun k => k.of_eq rfl rfl rfl rfl
    | with_reducible exact fun k => k.both rfl rfl rfl
    | exact fun _ => PkgOk.started rfl rfl


theorem execModeDrainLimit_within {C : List Comp} {s₀ s : State} (h : Within C s₀ s) (hc : covers C [.free, .pkg, .eng, .st, .mv, .ev, .gov, .fs] = true) :
    WithinO C s₀ (execModeDrainLimit s) := by
  unfold execModeDrainLimit
  rw [withinO_next]
  split
  · rename_i m e
    split
    · dsimp only
      refine modPkg_within _ (cutFrames_within _ h (covers_trans (by decide) hc)) (covers_trans (by decide) hc) (.inl fun _ => rfl) (.inl fun _ => rfl) (.inl fun _ => rfl) fun k => ?_
      have w := cutFrames_within m.tiles.contains (Within.refl [.free, .eng, .st, .mv, .ev, .gov, .fs] s) (by decide)
      have e' : (cutFrames m.tiles.contains s).2.pkg.change.isSome = true := by rw [show (cutFrames m.tiles.contains s).2.pkg = s.pkg from w.same .pkg (by decide), e]; rfl
      exact .started rfl (k.changing.trans e')
    · exact h
  · exact h


theorem opModeSet_within {C : List Comp} {s₀ : State}  (c : Cmd) {s : State} (h : Within C s₀ s) (hc : covers C [.pkg, .eng] = true) : WithinR C s₀ ((opModeSet).act c s) := by
  dsimp only [opModeSet]
  repeat' first
    | dsimp only [withinR_done, withinR_wait, withinR_fail]
    | (with_reducible show WithinR _ _ _; split)
  repeat' first
    | with_reducible assumption
    | exact covers_trans (by decide) hc
    | with_reducible apply modPkg_within
    | with_reducible apply addWait_within
    | with_reducible apply bumpPkg_within
    | (with_reducible apply getD_map_within; rotate_left; intro _)
    | split
    | with_reducible apply Within.upd
    | exact .inr (covers_mem hc (by decide))
    | with_reducible exact .inl rfl
    | with_reducible exact List.prefix_refl _
    | with_reducible exact Nat.le_refl _
    | with_reducible exact id
    | with_reducible exact fun g => g.of_eq rfl rfl rfl
    | with_reducible exact fun k => k.of_eq rfl rfl rfl rfl
    | with_reducible exact fun k => k.both rfl rfl rfl
    | exact fun _ => PkgOk.started rfl rfl
    | exact .inl fun _ => rfl
    | exact .inr (covers_mem hc (by decide))
    | with_reducible exact fun k => k.of_eq rfl rfl rfl rfl
    | with_reducible exact fun _ => PkgOk.settled rfl rfl rfl
    | with_reducible exact fun k => k.both rfl rfl rfl
    | dsimp only


theorem execModeSet_within {C : List Comp} {s₀ : State} (c : Cmd) {s : State} (h : Within C s₀ s) (hc : covers C [.out, .pkg, .eng, .mv, .host, .ev, .boot, .hm] = true) : WithinO C s₀ (execModeSet c s) :=
  runOp_within c (fun h => h) (fun h => opModeSet_within c h (covers_trans (by decide) hc)) h (covers_trans (by decide) hc)

theorem opModeQuery_within {C : List Comp} {s₀ : State}  (c : Cmd) {s : State} (h : Within C s₀ s) (_hc : covers C [] = true) : WithinR C s₀ ((opModeQuery).act c s) := by
  dsimp only [opModeQuery]
  repeat' first
    | dsimp only [withinR_done, withinR_wait, withinR_fail]
    | (with_reducible show WithinR _ _ _; split)
  repeat' first
    | with_reducible assumption


theorem execModeQuery_within {C : List Comp} {s₀ : State} (c : Cmd) {s : State} (h : Within C s₀ s) (hc : covers C [.out, .eng, .mv, .host, .ev, .boot, .hm] = true) : WithinO C s₀ (execModeQuery c s) :=
  runOp_within c (fun h => h) (fun h => opModeQuery_within c h (covers_trans (by decide) hc)) h (covers_trans (by decide) hc)

end Sys2Proof.Machine
end

