-- ==== Sys2Proof/Laws/WithinBootEnd.lean ====
section
/-!
SUPPORT. The operations of BootEnd: each keeps what `Within` says.
-/
namespace Sys2Proof.Machine
open Sys2Proof
set_option Elab.async false
set_option linter.all false

theorem startEngines_within {C : List Comp} {s₀ : State}  {s : State} (h : Within C s₀ s) (hc : covers C [.hm, .rd] = true) : Within C s₀ (startEngines s) := by
  unfold startEngines
  try dsimp only
  repeat' first
    | with_reducible assumption
    | exact covers_trans (by decide) hc
    | with_reducible apply modRd_within
    | with_reducible apply restartEngine_within
    | with_reducible apply modCe_within
    | with_reducible apply Within.upd
    | exact .inr (covers_mem hc (by decide))
    | with_reducible exact .inl rfl
    | with_reducible exact List.prefix_refl _
    | with_reducible exact Nat.le_refl _
    | with_reducible exact id
    | dsimp only


theorem applyConf_within {C : List Comp} {s₀ : State}  {s : State} (h : Within C s₀ s) (hc : covers C [.out, .mo, .gov, .hm] = true) : Within C s₀ (applyConf s) := by
  unfold applyConf
  try dsimp only
  repeat' first
    | with_reducible assumption
    | exact covers_trans (by decide) hc
    | with_reducible apply modGov_within
    | with_reducible apply modHm_within
    | with_reducible apply passThrough_within
    | with_reducible apply modAxis_within
    | (with_reducible apply foldl_within; rotate_left; (intro _ _ _; try dsimp only))
    | with_reducible apply Within.upd
    | exact .inr (covers_mem hc (by decide))
    | with_reducible exact .inl rfl
    | with_reducible exact List.prefix_refl _
    | with_reducible exact Nat.le_refl _
    | with_reducible exact id
    | dsimp only


theorem endBoot_within {C : List Comp} {s₀ : State}  {s : State} (h : Within C s₀ s) (hc : covers C [.free, .out, .pkg, .eng, .lanes, .mv, .host, .ev, .boot, .mo, .gov, .hm, .fs, .rd, .mode] = true) : Within C s₀ (endBoot s) := by
  unfold endBoot
  try dsimp only
  repeat' first
    | with_reducible assumption
    | exact covers_trans (by decide) hc
    | with_reducible apply modPkg_within
    | with_reducible apply modBoot_within
    | with_reducible apply startEngines_within
    | with_reducible apply applyConf_within
    | with_reducible apply startScrub_within
    | with_reducible apply refreshLanes_within
    | with_reducible apply portChange_within
    | (with_reducible apply foldl_within; rotate_left; (intro _ _ _; try dsimp only))
    | split
    | with_reducible apply Within.upd
    | exact .inr (covers_mem hc (by decide))
    | with_reducible exact .inl rfl
    | with_reducible exact List.prefix_refl _
    | with_reducible exact Nat.le_refl _
    | with_reducible exact id
    | with_reducible exact fun g => g.of_eq rfl rfl rfl
    | exact .inl fun _ => rfl
    | exact .inr (covers_mem hc (by decide))
    | with_reducible exact fun k => k.of_eq rfl rfl rfl rfl
    | with_reducible exact fun _ => PkgOk.settled rfl rfl rfl
    | with_reducible exact fun k => k.both rfl rfl rfl
    | exact .inl fun _ => rfl
    | exact .inr (covers_mem hc (by decide))
    | with_reducible exact fun _ => Nat.le_refl _
    | dsimp only


theorem maybeEndBoot_within {C : List Comp} {s₀ : State}  {s : State} (h : Within C s₀ s) (hc : covers C [.free, .out, .pkg, .eng, .lanes, .mv, .host, .ev, .boot, .mo, .gov, .hm, .fs, .rd, .mode] = true) : Within C s₀ (maybeEndBoot s) := by
  unfold maybeEndBoot
  try dsimp only
  repeat' first
    | with_reducible assumption
    | exact covers_trans (by decide) hc
    | with_reducible apply endBoot_within
    | split
    | dsimp only


end Sys2Proof.Machine
end

