-- ==== Sys2Proof/Laws/WithinService.lean ====
section
/-!
SUPPORT. The operations of Service: each keeps what `Within` says.
-/
namespace Sys2Proof.Machine
open Sys2Proof
set_option Elab.async false
set_option linter.all false

theorem modCtl_within {C : List Comp} {s₀ : State} (t : Nat) (f : TileCtl → TileCtl) {s : State} (h : Within C s₀ s) (hc : covers C [.pkg] = true) : Within C s₀ (modCtl t f s) := by
  unfold modCtl
  try dsimp only
  repeat' first
    | with_reducible assumption
    | exact covers_trans (by decide) hc
    | with_reducible apply modPkg_within
    | with_reducible apply Within.upd
    | exact .inr (covers_mem hc (by decide))
    | with_reducible exact .inl rfl
    | with_reducible exact List.prefix_refl _
    | with_reducible exact Nat.le_refl _
    | with_reducible exact id
    | exact .inl fun _ => rfl
    | exact .inr (covers_mem hc (by decide))
    | with_reducible exact fun k => k.of_eq rfl rfl rfl rfl
    | with_reducible exact fun _ => PkgOk.settled rfl rfl rfl
    | with_reducible exact fun k => k.both rfl rfl rfl
    | dsimp only


theorem enterService_within {C : List Comp} {s₀ : State} (t : Nat) (st : Service) {s : State} (h : Within C s₀ s) (hc : covers C [.pkg, .ev, .service] = true) : Within C s₀ (enterService t st s) := by
  unfold enterService
  try dsimp only
  repeat' first
    | with_reducible assumption
    | exact covers_trans (by decide) hc
    | with_reducible apply modPkg_within
    | with_reducible apply modCtl_within
    | with_reducible apply raise_within
    | with_reducible apply Within.upd
    | exact .inr (covers_mem hc (by decide))
    | with_reducible exact .inl rfl
    | with_reducible exact List.prefix_refl _
    | with_reducible exact Nat.le_refl _
    | with_reducible exact id
    | exact .inl fun _ => rfl
    | exact .inr (covers_mem hc (by decide))
    | with_reducible exact fun k => k.of_eq rfl rfl rfl rfl
    | with_reducible exact fun _ => PkgOk.settled rfl rfl rfl
    | with_reducible exact fun k => k.both rfl rfl rfl
    | dsimp only


theorem clearTileEvents_within {C : List Comp} {s₀ : State} (t : Nat) {s : State} (h : Within C s₀ s) (hc : covers C [.out, .eng, .mv, .host, .ev, .boot] = true) : Within C s₀ (clearTileEvents t s) := by
  unfold clearTileEvents
  try dsimp only
  repeat' first
    | with_reducible assumption
    | exact covers_trans (by decide) hc
    | with_reducible apply dropSkew_within
    | with_reducible apply releasePin_within
    | with_reducible apply modEv_within
    | (with_reducible apply foldl_within; rotate_left; (intro _ _ _; try dsimp only))
    | split
    | with_reducible apply Within.upd
    | exact .inr (covers_mem hc (by decide))
    | with_reducible exact .inl rfl
    | with_reducible exact List.prefix_refl _
    | with_reducible exact Nat.le_refl _
    | with_reducible exact id
    | dsimp only


theorem clearTileIslands_within {C : List Comp} {s₀ : State} (t : Nat) {s : State} (h : Within C s₀ s) (hc : covers C [.lanes, .time, .gov, .cd, .hm] = true) : Within C s₀ (clearTileIslands t s) := by
  unfold clearTileIslands
  try dsimp only
  repeat' first
    | with_reducible assumption
    | exact covers_trans (by decide) hc
    | with_reducible apply modTileGov_within
    | with_reducible apply modCd_within
    | with_reducible apply modTime_within
    | with_reducible apply discardInjections_within
    | with_reducible apply modHm_within
    | split
    | with_reducible apply Within.upd
    | exact .inr (covers_mem hc (by decide))
    | with_reducible exact .inl rfl
    | with_reducible exact List.prefix_refl _
    | with_reducible exact Nat.le_refl _
    | with_reducible exact id
    | with_reducible exact fun g => g.of_eq rfl rfl rfl
    | dsimp only


theorem endTileOp_within {C : List Comp} {s₀ : State} (t : Nat) {s : State} (h : Within C s₀ s) (hc : covers C [.out, .pkg, .eng, .mv, .host, .boot] = true) : Within C s₀ (endTileOp t s) := by
  unfold endTileOp
  try dsimp only
  repeat' first
    | with_reducible assumption
    | exact covers_trans (by decide) hc
    | with_reducible apply modPkg_within
    | with_reducible apply finish_within
    | split
    | with_reducible apply Within.upd
    | exact .inr (covers_mem hc (by decide))
    | with_reducible exact .inl rfl
    | with_reducible exact List.prefix_refl _
    | with_reducible exact Nat.le_refl _
    | with_reducible exact id
    | with_reducible exact fun k => k.of_eq rfl rfl rfl rfl
    | with_reducible exact fun k => k.both rfl rfl rfl
    | exact fun _ => PkgOk.started rfl rfl
    | exact .inl fun _ => rfl
    | exact .inr (covers_mem hc (by decide))
    | with_reducible exact fun k => k.of_eq rfl rfl rfl rfl
    | with_reducible exact fun _ => PkgOk.settled rfl rfl rfl
    | with_reducible exact fun k => k.both rfl rfl rfl
    | dsimp only


theorem portOut_within {C : List Comp} {s₀ : State} (t : Nat) {s : State} (h : Within C s₀ s) (hc : covers C [.out, .pkg, .eng, .mv, .host, .ev, .boot, .gov, .fs] = true) : Within C s₀ (portOut t s) := by
  unfold portOut
  try dsimp only
  repeat' first
    | with_reducible assumption
    | exact covers_trans (by decide) hc
    | with_reducible apply modEng_within
    | with_reducible apply linkLoss_within
    | with_reducible apply reroute_within
    | with_reducible apply startVacancy_within
    | split
    | with_reducible apply Within.upd
    | exact .inr (covers_mem hc (by decide))
    | with_reducible exact .inl rfl
    | with_reducible exact List.prefix_refl _
    | exact List.prefix_append _ _
    | with_reducible exact Nat.le_refl _
    | with_reducible exact id
    | with_reducible exact fun _ g => g.of_eq rfl rfl rfl
    | dsimp only


theorem tileOut_within {C : List Comp} {s₀ : State} (t : Nat) (fault : Bool) {s : State} (h : Within C s₀ s) (hc : covers C [.free, .out, .pkg, .eng, .lanes, .st, .mv, .host, .time, .ev, .boot, .mo, .gov, .cd, .ad, .hm, .fs, .rd, .service] = true) : Within C s₀ (tileOut t fault s) := by
  unfold tileOut
  try dsimp only
  repeat' first
    | with_reducible assumption
    | exact covers_trans (by decide) hc
    | with_reducible apply modPkg_within
    | with_reducible apply releaseOutputs_within
    | with_reducible apply enterService_within
    | with_reducible apply destroyAll_within
    | with_reducible apply modFs_within
    | with_reducible apply modCtl_within
    | with_reducible apply refreshLanes_within
    | with_reducible apply clearTileIslands_within
    | with_reducible apply clearTileEvents_within
    | with_reducible apply engineTileOut_within
    | with_reducible apply portOut_within
    | with_reducible apply endTileOp_within
    | (with_reducible apply getD_map_within; rotate_left; intro _)
    | split
    | with_reducible apply Within.upd
    | exact .inr (covers_mem hc (by decide))
    | with_reducible exact .inl rfl
    | with_reducible exact List.prefix_refl _
    | exact List.prefix_append _ _
    | with_reducible exact Nat.le_refl _
    | with_reducible exact id
    | with_reducible exact fun g => g.of_eq rfl rfl rfl
    | exact .inl fun _ => rfl
    | exact .inr (covers_mem hc (by decide))
    | with_reducible exact fun k => k.of_eq rfl rfl rfl rfl
    | with_reducible exact fun _ => PkgOk.settled rfl rfl rfl
    | with_reducible exact fun k => k.both rfl rfl rfl
    | dsimp only


theorem isolate_within {C : List Comp} {s₀ : State}  (n₀ : Nat) {s : State} (h : Within C s₀ s) (hc : covers C [.free, .out, .pkg, .eng, .lanes, .st, .mv, .host, .time, .ev, .boot, .mo, .gov, .cd, .ad, .hm, .fs, .rd, .service] = true) : Within C s₀ (isolate n₀ s) := by
  induction n₀ generalizing s with
  | zero => exact h
  | succ n₀ ih =>
    unfold isolate
    try dsimp only
    repeat' first
      | with_reducible assumption
      | with_reducible apply ih
      | exact covers_trans (by decide) hc
      | with_reducible apply tileOut_within
      | split
      | dsimp only


theorem dropIsolated_within {C : List Comp} {s₀ : State}  {s : State} (h : Within C s₀ s) (hc : covers C [.free, .out, .pkg, .eng, .lanes, .st, .mv, .host, .time, .ev, .boot, .mo, .gov, .cd, .ad, .hm, .fs, .rd, .mode, .service] = true) : Within C s₀ (dropIsolated s) := by
  unfold dropIsolated
  try dsimp only
  repeat' first
    | with_reducible assumption
    | exact covers_trans (by decide) hc
    | with_reducible apply maybeEndBoot_within
    | with_reducible apply isolate_within


theorem tileGone_within {C : List Comp} {s₀ : State} (t : Nat) (fault : Bool) {s : State} (h : Within C s₀ s) (hc : covers C [.free, .out, .pkg, .eng, .lanes, .st, .mv, .host, .time, .cal, .ev, .boot, .mo, .gov, .cd, .ad, .hm, .fs, .rd, .mode, .service, .links] = true) : Within C s₀ (tileGone t fault s) := by
  unfold tileGone
  try dsimp only
  repeat' first
    | with_reducible assumption
    | exact covers_trans (by decide) hc
    | with_reducible apply packageReset_within
    | with_reducible apply dropIsolated_within
    | with_reducible apply tileOut_within
    | split


theorem putTileOp_within {C : List Comp} {s₀ : State} (t : Nat) (o : TileOp) {s : State} (h : Within C s₀ s) (hc : covers C [.pkg] = true) : Within C s₀ (putTileOp t o s) := by
  unfold putTileOp
  try dsimp only
  repeat' first
    | with_reducible assumption
    | exact covers_trans (by decide) hc
    | with_reducible apply modPkg_within
    | with_reducible apply Within.upd
    | exact .inr (covers_mem hc (by decide))
    | with_reducible exact .inl rfl
    | with_reducible exact List.prefix_refl _
    | with_reducible exact Nat.le_refl _
    | with_reducible exact id
    | exact .inl fun _ => rfl
    | exact .inr (covers_mem hc (by decide))
    | with_reducible exact fun k => k.of_eq rfl rfl rfl rfl
    | with_reducible exact fun _ => PkgOk.settled rfl rfl rfl
    | with_reducible exact fun k => k.both rfl rfl rfl
    | dsimp only


theorem endOrder_within {C : List Comp} {s₀ : State} (t : Nat) {s : State} (h : Within C s₀ s) (hc : covers C [.pkg] = true) : Within C s₀ (endOrder t s) := by
  unfold endOrder
  try dsimp only
  repeat' first
    | with_reducible assumption
    | exact covers_trans (by decide) hc
    | with_reducible apply modPkg_within
    | with_reducible apply Within.upd
    | exact .inr (covers_mem hc (by decide))
    | with_reducible exact .inl rfl
    | with_reducible exact List.prefix_refl _
    | with_reducible exact Nat.le_refl _
    | with_reducible exact id
    | exact .inl fun _ => rfl
    | exact .inr (covers_mem hc (by decide))
    | with_reducible exact fun k => k.of_eq rfl rfl rfl rfl
    | with_reducible exact fun _ => PkgOk.settled rfl rfl rfl
    | with_reducible exact fun k => k.both rfl rfl rfl
    | dsimp only


theorem replyOrder_within {C : List Comp} {s₀ : State} (o : TileOp) (result : List Byte) {s : State} (h : Within C s₀ s) (hc : covers C [.out, .eng, .mv, .host, .boot] = true) : Within C s₀ (replyOrder o result s) := by
  unfold replyOrder
  try dsimp only
  repeat' first
    | with_reducible assumption
    | exact covers_trans (by decide) hc
    | with_reducible apply finish_within
    | split
    | with_reducible apply Within.upd
    | exact .inr (covers_mem hc (by decide))
    | with_reducible exact .inl rfl
    | with_reducible exact List.prefix_refl _
    | with_reducible exact Nat.le_refl _
    | with_reducible exact id


theorem execTileQuiesceCommit_within {C : List Comp} {s₀ : State} (tile : Nat) {s : State} (h : Within C s₀ s) (hc : covers C [.pkg, .eng, .ev, .fs] = true) : WithinO C s₀ (execTileQuiesceCommit tile s) := by
  unfold execTileQuiesceCommit
  try dsimp only
  repeat' first
    | dsimp only [withinO_next]
    | (with_reducible show WithinO _ _ _; split)
  repeat' first
    | with_reducible assumption
    | exact covers_trans (by decide) hc
    | with_reducible apply settleRings_within
    | with_reducible apply putTileOp_within
    | split
    | with_reducible apply Within.upd
    | exact .inr (covers_mem hc (by decide))
    | with_reducible exact .inl rfl
    | with_reducible exact List.prefix_refl _
    | with_reducible exact Nat.le_refl _
    | with_reducible exact id


theorem quiesced_within {C : List Comp} {s₀ : State} (t : Nat) (o : TileOp) {s : State} (h : Within C s₀ s) (hc : covers C [.out, .pkg, .eng, .mv, .host, .ev, .boot, .service] = true) : Within C s₀ (quiesced t o s) := by
  unfold quiesced
  try dsimp only
  repeat' first
    | with_reducible assumption
    | exact covers_trans (by decide) hc
    | with_reducible apply endOrder_within
    | with_reducible apply enterService_within
    | with_reducible apply replyOrder_within
    | dsimp only


theorem execTileDrainComplete_within {C : List Comp} {s₀ : State} (tile : Nat) {s : State} (h : Within C s₀ s) (hc : covers C [.out, .pkg, .eng, .mv, .host, .ev, .boot, .service] = true) : WithinO C s₀ (execTileDrainComplete tile s) := by
  unfold execTileDrainComplete
  try dsimp only
  repeat' first
    | dsimp only [withinO_next]
    | (with_reducible show WithinO _ _ _; split)
  repeat' first
    | with_reducible assumption
    | exact covers_trans (by decide) hc
    | with_reducible apply quiesced_within
    | split


theorem execTileDrainLimit_within {C : List Comp} {s₀ : State} (tile : Nat) {s : State} (h : Within C s₀ s) (hc : covers C [.free, .out, .pkg, .eng, .st, .mv, .host, .ev, .boot, .gov, .fs, .service] = true) : WithinO C s₀ (execTileDrainLimit tile s) := by
  unfold execTileDrainLimit
  try dsimp only
  repeat' first
    | dsimp only [withinO_next]
    | (with_reducible show WithinO _ _ _; split)
  repeat' first
    | with_reducible assumption
    | exact covers_trans (by decide) hc
    | with_reducible apply cutFrames_within
    | with_reducible refine cutFrames_within_eq ?_ ?_ (by assumption)
    | with_reducible apply quiesced_within
    | split
    | with_reducible apply Within.upd
    | exact .inr (covers_mem hc (by decide))
    | with_reducible exact .inl rfl
    | with_reducible exact List.prefix_refl _
    | with_reducible exact Nat.le_refl _
    | with_reducible exact id
    | dsimp only


theorem backInService_within {C : List Comp} {s₀ : State} (t : Nat) {s : State} (h : Within C s₀ s) (hc : covers C [.free, .out, .pkg, .eng, .lanes, .mv, .host, .ev, .boot, .gov, .ad, .fs, .service] = true) : Within C s₀ (backInService t s) := by
  unfold backInService
  try dsimp only
  repeat' first
    | with_reducible assumption
    | exact covers_trans (by decide) hc
    | with_reducible apply modPkg_within
    | with_reducible apply reroute_within
    | with_reducible apply refreshLanes_within
    | with_reducible apply settleRings_within
    | with_reducible apply enterService_within
    | with_reducible apply newEpoch_within
    | with_reducible apply passThrough_within
    | with_reducible apply beginDriving_within
    | (with_reducible apply foldl_within; rotate_left; (intro _ _ _; try dsimp only))
    | split
    | with_reducible apply Within.upd
    | exact .inr (covers_mem hc (by decide))
    | with_reducible exact .inl rfl
    | with_reducible exact List.prefix_refl _
    | exact List.prefix_append _ _
    | with_reducible exact Nat.le_refl _
    | with_reducible exact id
    | exact .inl fun _ => rfl
    | exact .inr (covers_mem hc (by decide))
    | with_reducible exact fun k => k.of_eq rfl rfl rfl rfl
    | with_reducible exact fun _ => PkgOk.settled rfl rfl rfl
    | with_reducible exact fun k => k.both rfl rfl rfl
    | dsimp only


theorem execTileResumeCommit_within {C : List Comp} {s₀ : State} (tile : Nat) {s : State} (h : Within C s₀ s) (hc : covers C [.free, .out, .pkg, .eng, .lanes, .mv, .host, .ev, .boot, .gov, .ad, .fs, .service] = true) : WithinO C s₀ (execTileResumeCommit tile s) := by
  unfold execTileResumeCommit
  try dsimp only
  repeat' first
    | dsimp only [withinO_next]
    | (with_reducible show WithinO _ _ _; split)
  repeat' first
    | with_reducible assumption
    | exact covers_trans (by decide) hc
    | with_reducible apply replyOrder_within
    | with_reducible apply backInService_within
    | with_reducible apply endOrder_within
    | split


theorem execTilePowerDownDone_within {C : List Comp} {s₀ : State} (tile : Nat) {s : State} (h : Within C s₀ s) (hc : covers C [.free, .out, .pkg, .eng, .lanes, .st, .mv, .host, .time, .cal, .ev, .boot, .mo, .gov, .cd, .ad, .hm, .fs, .rd, .mode, .service, .links] = true) : WithinO C s₀ (execTilePowerDownDone tile s) := by
  unfold execTilePowerDownDone
  try dsimp only
  repeat' first
    | dsimp only [withinO_next]
    | (with_reducible show WithinO _ _ _; split)
  repeat' first
    | with_reducible assumption
    | exact covers_trans (by decide) hc
    | with_reducible apply tileGone_within
    | with_reducible apply endOrder_within
    | with_reducible apply replyOrder_within
    | split
    | dsimp only


theorem rejoinFails_within {C : List Comp} {s₀ : State} (t step : Nat) {s : State} (h : Within C s₀ s) (hc : covers C [.out, .pkg, .eng, .mv, .host, .ev, .boot, .service] = true) : Within C s₀ (rejoinFails t step s) := by
  unfold rejoinFails
  try dsimp only
  repeat' first
    | with_reducible assumption
    | exact covers_trans (by decide) hc
    | with_reducible apply modCtl_within
    | with_reducible apply modPkg_within
    | with_reducible apply endTileOp_within
    | with_reducible apply enterService_within
    | with_reducible apply Within.upd
    | exact .inr (covers_mem hc (by decide))
    | with_reducible exact .inl rfl
    | with_reducible exact List.prefix_refl _
    | exact List.prefix_append _ _
    | with_reducible exact Nat.le_refl _
    | with_reducible exact id
    | exact .inl fun _ => rfl
    | exact .inr (covers_mem hc (by decide))
    | with_reducible exact fun k => k.of_eq rfl rfl rfl rfl
    | with_reducible exact fun _ => PkgOk.settled rfl rfl rfl
    | with_reducible exact fun k => k.both rfl rfl rfl
    | dsimp only


theorem execTileRejoinPrepared_within {C : List Comp} {s₀ : State} (tile : Nat) (img : Image) (powerUp dram : Bool) {s : State} (h : Within C s₀ s) (hc : covers C [.out, .pkg, .eng, .mv, .host, .ev, .boot, .service] = true) : WithinO C s₀ (execTileRejoinPrepared tile img powerUp dram s) := by
  unfold execTileRejoinPrepared
  try dsimp only
  repeat' first
    | dsimp only [withinO_next]
    | (with_reducible show WithinO _ _ _; split)
  repeat' first
    | with_reducible assumption
    | exact covers_trans (by decide) hc
    | with_reducible apply readImage_within
    | with_reducible apply rejoinFails_within
    | with_reducible apply setSlot_within
    | with_reducible apply modPkg_within
    | with_reducible apply modCtl_within
    | with_reducible apply enterService_within
    | split
    | with_reducible apply Within.upd
    | exact .inr (covers_mem hc (by decide))
    | with_reducible exact .inl rfl
    | with_reducible exact List.prefix_refl _
    | exact List.prefix_append _ _
    | with_reducible exact Nat.le_refl _
    | with_reducible exact id
    | exact .inl fun _ => rfl
    | exact .inr (covers_mem hc (by decide))
    | with_reducible exact fun k => k.of_eq rfl rfl rfl rfl
    | with_reducible exact fun _ => PkgOk.settled rfl rfl rfl
    | with_reducible exact fun k => k.both rfl rfl rfl
    | dsimp only


theorem zeroMotion_within {C : List Comp} {s₀ : State} (t : Nat) {s : State} (h : Within C s₀ s) (hc : covers C [.mv, .mo] = true) : Within C s₀ (zeroMotion t s) := by
  unfold zeroMotion
  try dsimp only
  repeat' first
    | with_reducible assumption
    | exact covers_trans (by decide) hc
    | with_reducible apply oweAnchors_within
    | with_reducible apply modAxis_within
    | (with_reducible apply foldl_within; rotate_left; (intro _ _ _; try dsimp only))
    | with_reducible apply Within.upd
    | exact .inr (covers_mem hc (by decide))
    | with_reducible exact .inl rfl
    | with_reducible exact List.prefix_refl _
    | with_reducible exact Nat.le_refl _
    | with_reducible exact id
    | dsimp only


theorem execTileRejoinLocked_within {C : List Comp} {s₀ : State} (tile : Nat) (links lock : Bool) {s : State} (h : Within C s₀ s) (hc : covers C [.free, .out, .pkg, .eng, .lanes, .mv, .host, .time, .ev, .boot, .mo, .gov, .ad, .hm, .fs, .rd, .service, .links] = true) : WithinO C s₀ (execTileRejoinLocked tile links lock s) := by
  unfold execTileRejoinLocked
  try dsimp only
  repeat' first
    | dsimp only [withinO_next]
    | (with_reducible show WithinO _ _ _; split)
  repeat' first
    | with_reducible assumption
    | exact covers_trans (by decide) hc
    | with_reducible apply rejoinFails_within
    | with_reducible apply modPkg_within
    | with_reducible apply endOrder_within
    | with_reducible apply modTime_within
    | with_reducible apply modCtl_within
    | with_reducible apply zeroMotion_within
    | with_reducible apply startScrub_within
    | with_reducible apply backInService_within
    | with_reducible apply engineTileBack_within
    | with_reducible apply replyOrder_within
    | (with_reducible apply foldl_within; rotate_left; (intro _ _ _; try dsimp only))
    | (with_reducible apply getD_map_within; rotate_left; intro _)
    | split
    | with_reducible apply Within.upd
    | exact .inr (covers_mem hc (by decide))
    | with_reducible exact .inl rfl
    | with_reducible exact List.prefix_refl _
    | with_reducible exact Nat.le_refl _
    | with_reducible exact id
    | with_reducible exact fun g => g.of_eq rfl rfl rfl
    | exact .inl fun _ => rfl
    | exact .inr (covers_mem hc (by decide))
    | with_reducible exact fun k => k.of_eq rfl rfl rfl rfl
    | with_reducible exact fun _ => PkgOk.settled rfl rfl rfl
    | with_reducible exact fun k => k.both rfl rfl rfl
    | dsimp only


theorem order_within {C : List Comp} {s₀ : State} (op room : Nat) (c : Cmd) (o : TileOp) {s : State} (h : Within C s₀ s) (hc : covers C [.pkg, .eng] = true) : Within C s₀ (order op room c o s) := by
  unfold order
  try dsimp only
  repeat' first
    | with_reducible assumption
    | exact covers_trans (by decide) hc
    | with_reducible apply putTileOp_within
    | with_reducible apply addWait_within
    | with_reducible apply bumpPkg_within
    | with_reducible apply Within.upd
    | exact .inr (covers_mem hc (by decide))
    | with_reducible exact .inl rfl
    | with_reducible exact List.prefix_refl _
    | with_reducible exact Nat.le_refl _
    | with_reducible exact id
    | with_reducible exact fun g => g.of_eq rfl rfl rfl


theorem opTileQuiesce_within {C : List Comp} {s₀ : State}  (c : Cmd) {s : State} (h : Within C s₀ s) (hc : covers C [.out, .pkg, .eng, .mv, .host, .ev, .boot, .ad, .hm, .service] = true) : WithinR C s₀ ((opTileQuiesce).act c s) := by
  dsimp only [opTileQuiesce]
  repeat' first
    | dsimp only [withinR_done, withinR_wait, withinR_fail]
    | (with_reducible show WithinR _ _ _; split)
  repeat' first
    | with_reducible assumption
    | exact covers_trans (by decide) hc
    | with_reducible apply quiesced_within
    | with_reducible apply order_within
    | with_reducible apply enterService_within
    | with_reducible apply reroute_within
    | with_reducible apply dropCaptures_within
    | with_reducible apply discardInjections_within
    | split
    | dsimp only


theorem execTileQuiesce_within {C : List Comp} {s₀ : State} (c : Cmd) {s : State} (h : Within C s₀ s) (hc : covers C [.out, .pkg, .eng, .mv, .host, .ev, .boot, .ad, .hm, .service] = true) : WithinO C s₀ (execTileQuiesce c s) :=
  runOp_within c (fun h => h) (fun h => opTileQuiesce_within c h (covers_trans (by decide) hc)) h (covers_trans (by decide) hc)

theorem opTileResume_within {C : List Comp} {s₀ : State}  (c : Cmd) {s : State} (h : Within C s₀ s) (hc : covers C [.out, .pkg, .eng, .mv, .host, .ev, .boot, .service] = true) : WithinR C s₀ ((opTileResume).act c s) := by
  dsimp only [opTileResume]
  repeat' first
    | dsimp only [withinR_done, withinR_wait, withinR_fail]
    | (with_reducible show WithinR _ _ _; split)
  repeat' first
    | with_reducible assumption
    | exact covers_trans (by decide) hc
    | with_reducible apply quiesced_within
    | with_reducible apply order_within
    | split


theorem execTileResume_within {C : List Comp} {s₀ : State} (c : Cmd) {s : State} (h : Within C s₀ s) (hc : covers C [.out, .pkg, .eng, .mv, .host, .ev, .boot, .hm, .service] = true) : WithinO C s₀ (execTileResume c s) :=
  runOp_within c (fun h => h) (fun h => opTileResume_within c h (covers_trans (by decide) hc)) h (covers_trans (by decide) hc)

theorem opTilePowerDown_within {C : List Comp} {s₀ : State}  (c : Cmd) {s : State} (h : Within C s₀ s) (hc : covers C [.out, .pkg, .eng, .mv, .host, .ev, .boot, .service] = true) : WithinR C s₀ ((opTilePowerDown).act c s) := by
  dsimp only [opTilePowerDown]
  repeat' first
    | dsimp only [withinR_done, withinR_wait, withinR_fail]
    | (with_reducible show WithinR _ _ _; split)
  repeat' first
    | with_reducible assumption
    | exact covers_trans (by decide) hc
    | with_reducible apply quiesced_within
    | with_reducible apply order_within
    | split


theorem execTilePowerDown_within {C : List Comp} {s₀ : State} (c : Cmd) {s : State} (h : Within C s₀ s) (hc : covers C [.out, .pkg, .eng, .mv, .host, .ev, .boot, .hm, .service] = true) : WithinO C s₀ (execTilePowerDown c s) :=
  runOp_within c (fun h => h) (fun h => opTilePowerDown_within c h (covers_trans (by decide) hc)) h (covers_trans (by decide) hc)

theorem opTileRejoin_within {C : List Comp} {s₀ : State}  (c : Cmd) {s : State} (h : Within C s₀ s) (hc : covers C [.out, .pkg, .eng, .mv, .host, .ev, .boot, .service] = true) : WithinR C s₀ ((opTileRejoin).act c s) := by
  dsimp only [opTileRejoin]
  repeat' first
    | dsimp only [withinR_done, withinR_wait, withinR_fail]
    | (with_reducible show WithinR _ _ _; split)
  repeat' first
    | with_reducible assumption
    | exact covers_trans (by decide) hc
    | with_reducible apply quiesced_within
    | with_reducible apply modCtl_within
    | with_reducible apply order_within
    | split
    | with_reducible apply Within.upd
    | exact .inr (covers_mem hc (by decide))
    | with_reducible exact .inl rfl
    | with_reducible exact List.prefix_refl _
    | with_reducible exact Nat.le_refl _
    | with_reducible exact id
    | dsimp only


theorem execTileRejoin_within {C : List Comp} {s₀ : State} (c : Cmd) {s : State} (h : Within C s₀ s) (hc : covers C [.out, .pkg, .eng, .mv, .host, .ev, .boot, .hm, .service] = true) : WithinO C s₀ (execTileRejoin c s) :=
  runOp_within c (fun h => h) (fun h => opTileRejoin_within c h (covers_trans (by decide) hc)) h (covers_trans (by decide) hc)

theorem opTileQuery_within {C : List Comp} {s₀ : State}  (c : Cmd) {s : State} (h : Within C s₀ s) (_hc : covers C [] = true) : WithinR C s₀ ((opTileQuery).act c s) := by
  dsimp only [opTileQuery]
  repeat' first
    | dsimp only [withinR_done, withinR_wait, withinR_fail]
    | (with_reducible show WithinR _ _ _; split)
  repeat' first
    | with_reducible assumption


theorem execTileQuery_within {C : List Comp} {s₀ : State} (c : Cmd) {s : State} (h : Within C s₀ s) (hc : covers C [.out, .eng, .mv, .host, .ev, .boot, .hm] = true) : WithinO C s₀ (execTileQuery c s) :=
  runOp_within c (fun h => h) (fun h => opTileQuery_within c h (covers_trans (by decide) hc)) h (covers_trans (by decide) hc)

theorem retryTransfer_within {C : List Comp} {s₀ : State} (t u : Nat) (injected : Bool) {s : State} (h : Within C s₀ s) (hc : covers C [.pkg, .ev, .hm] = true) : Within C s₀ (retryTransfer t u injected s) := by
  unfold retryTransfer
  try dsimp only
  repeat' first
    | with_reducible assumption
    | exact covers_trans (by decide) hc
    | with_reducible apply detectorFires_within
    | with_reducible apply modPkg_within
    | with_reducible apply Within.upd
    | exact .inr (covers_mem hc (by decide))
    | with_reducible exact .inl rfl
    | with_reducible exact List.prefix_refl _
    | with_reducible exact Nat.le_refl _
    | with_reducible exact id
    | exact .inl fun _ => rfl
    | exact .inr (covers_mem hc (by decide))
    | with_reducible exact fun k => k.of_eq rfl rfl rfl rfl
    | with_reducible exact fun _ => PkgOk.settled rfl rfl rfl
    | with_reducible exact fun k => k.both rfl rfl rfl
    | dsimp only


theorem linkFails_within {C : List Comp} {s₀ : State} (t u : Nat) (injected : Bool) {s : State} (h : Within C s₀ s) (hc : covers C [.free, .out, .pkg, .eng, .lanes, .st, .mv, .host, .time, .ev, .boot, .mo, .gov, .cd, .ad, .hm, .fs, .rd, .mode, .service, .links] = true) : Within C s₀ (linkFails t u injected s) := by
  unfold linkFails
  try dsimp only
  repeat' first
    | with_reducible assumption
    | exact covers_trans (by decide) hc
    | with_reducible apply detectorFires_within
    | with_reducible apply modPkg_within
    | with_reducible apply reroute_within
    | with_reducible apply dropIsolated_within
    | split
    | with_reducible apply Within.upd
    | exact .inr (covers_mem hc (by decide))
    | with_reducible exact .inl rfl
    | with_reducible exact List.prefix_refl _
    | exact List.prefix_append _ _
    | with_reducible exact Nat.le_refl _
    | with_reducible exact id
    | exact .inl fun _ => rfl
    | exact .inr (covers_mem hc (by decide))
    | with_reducible exact fun k => k.of_eq rfl rfl rfl rfl
    | with_reducible exact fun _ => PkgOk.settled rfl rfl rfl
    | with_reducible exact fun k => k.both rfl rfl rfl
    | dsimp only


theorem execFabricTransferRetry_within {C : List Comp} {s₀ : State} (tile unit : Nat) (passes : Bool) {s : State} (h : Within C s₀ s) (hc : covers C [.pkg, .ev, .hm] = true) : WithinO C s₀ (execFabricTransferRetry tile unit passes s) := by
  unfold execFabricTransferRetry
  try dsimp only
  repeat' first
    | dsimp only [withinO_next]
    | (with_reducible show WithinO _ _ _; split)
  repeat' first
    | with_reducible assumption
    | exact covers_trans (by decide) hc
    | with_reducible apply retryTransfer_within
    | with_reducible apply modPkg_within
    | split
    | with_reducible apply Within.upd
    | exact .inr (covers_mem hc (by decide))
    | with_reducible exact .inl rfl
    | with_reducible exact List.prefix_refl _
    | with_reducible exact Nat.le_refl _
    | with_reducible exact id
    | exact .inl fun _ => rfl
    | exact .inr (covers_mem hc (by decide))
    | with_reducible exact fun k => k.of_eq rfl rfl rfl rfl
    | with_reducible exact fun _ => PkgOk.settled rfl rfl rfl
    | with_reducible exact fun k => k.both rfl rfl rfl
    | dsimp only


theorem execFabricLinkDown_within {C : List Comp} {s₀ : State} (tile unit : Nat) {s : State} (h : Within C s₀ s) (hc : covers C [.free, .out, .pkg, .eng, .lanes, .st, .mv, .host, .time, .ev, .boot, .mo, .gov, .cd, .ad, .hm, .fs, .rd, .mode, .service, .links] = true) : WithinO C s₀ (execFabricLinkDown tile unit s) := by
  unfold execFabricLinkDown
  try dsimp only
  repeat' first
    | dsimp only [withinO_next]
    | (with_reducible show WithinO _ _ _; split)
  repeat' first
    | with_reducible assumption
    | exact covers_trans (by decide) hc
    | with_reducible apply linkFails_within
    | (with_reducible apply getD_map_within; rotate_left; intro _)
    | split
    | dsimp only


theorem execFabricLinkRestored_within {C : List Comp} {s₀ : State} (link : Nat) {s : State} (h : Within C s₀ s) (hc : covers C [.out, .pkg, .host, .ev, .links] = true) : WithinO C s₀ (execFabricLinkRestored link s) := by
  unfold execFabricLinkRestored
  try dsimp only
  repeat' first
    | dsimp only [withinO_next]
    | (with_reducible show WithinO _ _ _; split)
  repeat' first
    | with_reducible assumption
    | exact covers_trans (by decide) hc
    | with_reducible apply reroute_within
    | with_reducible apply modPkg_within
    | split
    | with_reducible apply Within.upd
    | exact .inr (covers_mem hc (by decide))
    | with_reducible exact .inl rfl
    | with_reducible exact List.prefix_refl _
    | exact List.prefix_append _ _
    | with_reducible exact Nat.le_refl _
    | with_reducible exact id
    | with_reducible exact fun k => k.of_eq rfl rfl rfl rfl
    | with_reducible exact fun k => k.both rfl rfl rfl
    | exact fun _ => PkgOk.started rfl rfl
    | exact .inl fun _ => rfl
    | exact .inr (covers_mem hc (by decide))
    | with_reducible exact fun k => k.of_eq rfl rfl rfl rfl
    | with_reducible exact fun _ => PkgOk.settled rfl rfl rfl
    | with_reducible exact fun k => k.both rfl rfl rfl
    | dsimp only


theorem loseStaged_within {C : List Comp} {s₀ : State} (g id q : Nat) {s : State} (h : Within C s₀ s) (hc : covers C [.free, .eng, .st, .mv, .ev, .gov, .fs] = true) : Within C s₀ (loseStaged g id q s) := by
  unfold loseStaged
  try dsimp only
  repeat' first
    | with_reducible assumption
    | exact covers_trans (by decide) hc
    | with_reducible apply noteReady_within
    | with_reducible apply advance_within
    | with_reducible apply giveUp_within
    | with_reducible apply modBlock_within
    | (with_reducible apply getD_map_within; rotate_left; intro _)
    | split
    | with_reducible apply Within.upd
    | exact .inr (covers_mem hc (by decide))
    | with_reducible exact .inl rfl
    | with_reducible exact List.prefix_refl _
    | with_reducible exact Nat.le_refl _
    | with_reducible exact id
    | dsimp only


theorem loseItem_within {C : List Comp} {s₀ : State} (g : Nat) (x : HitItem) (inj : Bool) {s : State} (h : Within C s₀ s) (hc : covers C [.free, .eng, .st, .mv, .ev, .gov, .hm, .fs] = true) : Within C s₀ (loseItem g x inj s) := by
  unfold loseItem
  try dsimp only
  repeat' first
    | with_reducible assumption
    | exact covers_trans (by decide) hc
    | with_reducible apply detectorFires_within
    | with_reducible apply loseInRing_within
    | with_reducible apply loseInSegment_within
    | with_reducible apply loseStaged_within
    | with_reducible apply raiseDropped_within
    | with_reducible apply undelivered_within
    | (with_reducible apply getD_map_within; rotate_left; intro _)
    | split
    | dsimp only


theorem heatSensor_within {C : List Comp} {s₀ : State} (t : Nat) {s : State} (h : Within C s₀ s) (hc : covers C [.hm] = true) : Within C s₀ (heatSensor t s) := by
  unfold heatSensor
  try dsimp only
  repeat' first
    | with_reducible assumption
    | exact covers_trans (by decide) hc
    | with_reducible apply modHm_within
    | with_reducible apply Within.upd
    | exact .inr (covers_mem hc (by decide))
    | with_reducible exact .inl rfl
    | with_reducible exact List.prefix_refl _
    | with_reducible exact Nat.le_refl _
    | with_reducible exact id
    | dsimp only


theorem loseHostBuffer_within {C : List Comp} {s₀ : State} (t : Nat) (x : HitItem) {s : State} (h : Within C s₀ s) (hc : covers C [.out, .pkg, .eng, .mv, .host, .ev, .boot, .gov, .fs] = true) : Within C s₀ (loseHostBuffer t x s) := by
  unfold loseHostBuffer
  try dsimp only
  repeat' first
    | with_reducible assumption
    | exact covers_trans (by decide) hc
    | with_reducible apply linkLoss_within
    | split


theorem detectorEffect_within {C : List Comp} {s₀ : State} (t d u : Nat) (inj : Bool) (item : HitItem) {s : State} (h : Within C s₀ s) (hc : covers C [.free, .out, .pkg, .eng, .lanes, .st, .mv, .host, .time, .cal, .ev, .boot, .mo, .gov, .cd, .ad, .hm, .fs, .rd, .mode, .service, .links] = true) : Within C s₀ (detectorEffect t d u inj item s) := by
  unfold detectorEffect
  try dsimp only
  repeat' first
    | with_reducible assumption
    | exact covers_trans (by decide) hc
    | with_reducible apply detectorFires_within
    | with_reducible apply aerCorrectable_within
    | with_reducible apply engineFails_within
    | with_reducible apply loseHostBuffer_within
    | with_reducible apply aerUncorrectable_within
    | with_reducible apply tileGone_within
    | with_reducible apply loseItem_within
    | with_reducible apply modDet_within
    | with_reducible apply retryTransfer_within
    | with_reducible apply linkFails_within
    | with_reducible apply selfTestFails_within
    | with_reducible apply useFree_within
    | with_reducible apply countLane_within
    | with_reducible apply uncorrectable_within
    | with_reducible apply modTime_within
    | with_reducible apply finishSlice_within
    | with_reducible apply heatSensor_within
    | with_reducible apply timeoutRequest_within
    | (with_reducible apply foldl_within; rotate_left; (intro _ _ _; try dsimp only))
    | (with_reducible apply getD_map_within; rotate_left; intro _)
    | split
    | with_reducible apply Within.upd
    | exact .inr (covers_mem hc (by decide))
    | with_reducible exact .inl rfl
    | with_reducible exact List.prefix_refl _
    | exact List.prefix_append _ _
    | with_reducible exact Nat.le_refl _
    | with_reducible exact id
    | with_reducible exact fun g => g.of_eq rfl rfl rfl
    | dsimp only


theorem realOccurs_within {C : List Comp} {s₀ : State} (t d u : Nat) (item : HitItem) {s : State} (h : Within C s₀ s) (hc : covers C [.free, .out, .pkg, .eng, .lanes, .st, .mv, .host, .time, .cal, .ev, .boot, .mo, .gov, .cd, .ad, .hm, .fs, .rd, .mode, .service, .links] = true) : Within C s₀ (realOccurs t d u item s) := by
  unfold realOccurs
  try dsimp only
  repeat' first
    | with_reducible assumption
    | exact covers_trans (by decide) hc
    | with_reducible apply detectorEffect_within
    | with_reducible apply detectorFires_within
    | split


theorem injectedOccurs_within {C : List Comp} {s₀ : State} (t d u : Nat) {s : State} (h : Within C s₀ s) (hc : covers C [.free, .out, .pkg, .eng, .lanes, .st, .mv, .host, .time, .cal, .ev, .boot, .mo, .gov, .cd, .ad, .hm, .fs, .rd, .mode, .service, .links] = true) : Within C s₀ (injectedOccurs t d u s) := by
  unfold injectedOccurs
  try dsimp only
  repeat' first
    | with_reducible assumption
    | exact covers_trans (by decide) hc
    | with_reducible apply consumeInjection_within
    | with_reducible apply modDet_within
    | with_reducible apply detectorEffect_within
    | split
    | with_reducible apply Within.upd
    | exact .inr (covers_mem hc (by decide))
    | with_reducible exact .inl rfl
    | with_reducible exact List.prefix_refl _
    | with_reducible exact Nat.le_refl _
    | with_reducible exact id
    | dsimp only


theorem execHwDetectorOccurrence_within {C : List Comp} {s₀ : State} (tile det unit : Nat) (act : DetAct) {s : State} (h : Within C s₀ s) (hc : covers C [.free, .out, .pkg, .eng, .lanes, .st, .mv, .host, .time, .cal, .ev, .boot, .mo, .gov, .cd, .ad, .hm, .fs, .rd, .mode, .service, .links] = true) : WithinO C s₀ (execHwDetectorOccurrence tile det unit act s) := by
  unfold execHwDetectorOccurrence
  try dsimp only
  repeat' first
    | dsimp only [withinO_next]
    | (with_reducible show WithinO _ _ _; split)
  repeat' first
    | with_reducible assumption
    | exact covers_trans (by decide) hc
    | with_reducible apply modDet_within
    | with_reducible apply injectedOccurs_within
    | with_reducible apply realOccurs_within
    | with_reducible apply detectorEffect_within
    | with_reducible apply overwrite_within
    | split
    | with_reducible apply Within.upd
    | exact .inr (covers_mem hc (by decide))
    | with_reducible exact .inl rfl
    | with_reducible exact List.prefix_refl _
    | with_reducible exact Nat.le_refl _
    | with_reducible exact id
    | dsimp only


end Sys2Proof.Machine
end

