-- ==== Sys2Proof/Laws/WithinBoot.lean ====
section
/-!
SUPPORT. The operations of Boot: each keeps what `Within` says.
-/
namespace Sys2Proof.Machine
open Sys2Proof
set_option Elab.async false
set_option linter.all false

theorem installConf_within {C : List Comp} {s₀ : State} (x : BootConf) (error : Bool) {s : State} (h : Within C s₀ s) (hc : covers C [.host, .boot] = true) : Within C s₀ (installConf x error s) := by
  unfold installConf
  try dsimp only
  repeat' first
    | with_reducible assumption
    | exact covers_trans (by decide) hc
    | with_reducible apply modBoot_within
    | with_reducible apply modPort_within
    | (with_reducible apply foldl_within; rotate_left; (intro _ _ _; try dsimp only))
    | with_reducible apply Within.upd
    | exact .inr (covers_mem hc (by decide))
    | with_reducible exact .inl rfl
    | with_reducible exact List.prefix_refl _
    | with_reducible exact Nat.le_refl _
    | with_reducible exact id
    | exact .inl fun _ => rfl
    | exact .inr (covers_mem hc (by decide))
    | with_reducible exact fun _ => Nat.le_refl _
    | dsimp only


theorem loadConf_within {C : List Comp} {s₀ : State} (a b : List Byte) {s : State} (h : Within C s₀ s) (hc : covers C [.host, .boot] = true) : Within C s₀ (loadConf a b s) := by
  unfold loadConf
  try dsimp only
  repeat' first
    | with_reducible assumption
    | exact covers_trans (by decide) hc
    | with_reducible apply setSlot_within
    | with_reducible apply installConf_within
    | with_reducible apply modBoot_within
    | split
    | with_reducible apply Within.upd
    | exact .inr (covers_mem hc (by decide))
    | with_reducible exact .inl rfl
    | with_reducible exact List.prefix_refl _
    | with_reducible exact Nat.le_refl _
    | with_reducible exact id
    | exact .inl fun _ => rfl
    | exact .inr (covers_mem hc (by decide))
    | with_reducible exact fun _ => Nat.le_refl _
    | dsimp only


theorem execBootConfigLoad_within {C : List Comp} {s₀ : State} (copy0 copy1 : List Byte) {s : State} (h : Within C s₀ s) (hc : covers C [.out, .host, .boot] = true) : WithinO C s₀ (execBootConfigLoad copy0 copy1 s) := by
  unfold execBootConfigLoad
  try dsimp only
  repeat' first
    | dsimp only [withinO_next]
    | (with_reducible show WithinO _ _ _; split)
  repeat' first
    | with_reducible assumption
    | exact covers_trans (by decide) hc
    | with_reducible apply loadConf_within
    | with_reducible apply readArea_within
    | with_reducible apply modBoot_within
    | split
    | with_reducible apply Within.upd
    | exact .inr (covers_mem hc (by decide))
    | with_reducible exact .inl rfl
    | with_reducible exact List.prefix_refl _
    | with_reducible exact Nat.le_refl _
    | with_reducible exact id
    | exact .inl fun _ => rfl
    | exact .inr (covers_mem hc (by decide))
    | with_reducible exact fun _ => Nat.le_refl _
    | dsimp only


theorem startLoader_within {C : List Comp} {s₀ : State} (rom : Bool) {s : State} (h : Within C s₀ s) (hc : covers C [.boot] = true) : Within C s₀ (startLoader rom s) := by
  unfold startLoader
  try dsimp only
  repeat' first
    | with_reducible assumption
    | exact covers_trans (by decide) hc
    | with_reducible apply modBoot_within
    | with_reducible apply Within.upd
    | exact .inr (covers_mem hc (by decide))
    | with_reducible exact .inl rfl
    | with_reducible exact List.prefix_refl _
    | with_reducible exact Nat.le_refl _
    | with_reducible exact id
    | exact .inl fun _ => rfl
    | exact .inr (covers_mem hc (by decide))
    | with_reducible exact fun _ => Nat.le_refl _
    | dsimp only


theorem execBootLoaderLoad_within {C : List Comp} {s₀ : State} (copy : Nat) (img : Image) {s : State} (h : Within C s₀ s) (hc : covers C [.out, .boot] = true) : WithinO C s₀ (execBootLoaderLoad copy img s) := by
  unfold execBootLoaderLoad
  try dsimp only
  repeat' first
    | dsimp only [withinO_next]
    | (with_reducible show WithinO _ _ _; split)
  repeat' first
    | with_reducible assumption
    | exact covers_trans (by decide) hc
    | with_reducible apply setSlot_within
    | with_reducible apply readImage_within
    | with_reducible apply startLoader_within
    | with_reducible apply modBoot_within
    | split
    | with_reducible apply Within.upd
    | exact .inr (covers_mem hc (by decide))
    | with_reducible exact .inl rfl
    | with_reducible exact List.prefix_refl _
    | with_reducible exact Nat.le_refl _
    | with_reducible exact id
    | exact .inl fun _ => rfl
    | exact .inr (covers_mem hc (by decide))
    | with_reducible exact fun _ => Nat.le_refl _
    | dsimp only


theorem sendMicrocode_within {C : List Comp} {s₀ : State} (which version : Nat) {s : State} (h : Within C s₀ s) (hc : covers C [.boot] = true) : Within C s₀ (sendMicrocode which version s) := by
  unfold sendMicrocode
  try dsimp only
  repeat' first
    | with_reducible assumption
    | exact covers_trans (by decide) hc
    | with_reducible apply modBoot_within
    | with_reducible apply Within.upd
    | exact .inr (covers_mem hc (by decide))
    | with_reducible exact .inl rfl
    | with_reducible exact List.prefix_refl _
    | with_reducible exact Nat.le_refl _
    | with_reducible exact id
    | exact .inl fun _ => rfl
    | exact .inr (covers_mem hc (by decide))
    | with_reducible exact fun _ => Nat.le_refl _
    | dsimp only


theorem execMicrocodeLoad_within {C : List Comp} {s₀ : State} (slot : Nat) (img : Image) {s : State} (h : Within C s₀ s) (hc : covers C [.out, .boot] = true) : WithinO C s₀ (execMicrocodeLoad slot img s) := by
  unfold execMicrocodeLoad
  try dsimp only
  repeat' first
    | dsimp only [withinO_next]
    | (with_reducible show WithinO _ _ _; split)
  repeat' first
    | with_reducible assumption
    | exact covers_trans (by decide) hc
    | with_reducible apply setSlot_within
    | with_reducible apply readImage_within
    | with_reducible apply modBoot_within
    | with_reducible apply sendMicrocode_within
    | split
    | with_reducible apply Within.upd
    | exact .inr (covers_mem hc (by decide))
    | with_reducible exact .inl rfl
    | with_reducible exact List.prefix_refl _
    | with_reducible exact Nat.le_refl _
    | with_reducible exact id
    | exact .inl fun _ => rfl
    | exact .inr (covers_mem hc (by decide))
    | with_reducible exact fun _ => Nat.le_refl _
    | dsimp only


theorem startAlfel_within {C : List Comp} {s₀ : State} (which : Nat) (e : SlotEntry) {s : State} (h : Within C s₀ s) (hc : covers C [.free, .out, .pkg, .eng, .lanes, .mv, .host, .ev, .boot, .mo, .gov, .hm, .fs, .rd, .mode] = true) : Within C s₀ (startAlfel which e s) := by
  unfold startAlfel
  try dsimp only
  repeat' first
    | with_reducible assumption
    | exact covers_trans (by decide) hc
    | with_reducible apply maybeEndBoot_within
    | with_reducible apply modBoot_within
    | with_reducible apply Within.upd
    | exact .inr (covers_mem hc (by decide))
    | with_reducible exact .inl rfl
    | with_reducible exact List.prefix_refl _
    | with_reducible exact Nat.le_refl _
    | with_reducible exact id
    | exact .inl fun _ => rfl
    | exact .inr (covers_mem hc (by decide))
    | with_reducible exact fun _ => Nat.le_refl _
    | dsimp only


theorem execAlfelLoad_within {C : List Comp} {s₀ : State} (slot : Nat) (img : Image) {s : State} (h : Within C s₀ s) (hc : covers C [.free, .out, .pkg, .eng, .lanes, .mv, .host, .ev, .boot, .mo, .gov, .hm, .fs, .rd, .mode] = true) : WithinO C s₀ (execAlfelLoad slot img s) := by
  unfold execAlfelLoad
  try dsimp only
  repeat' first
    | dsimp only [withinO_next]
    | (with_reducible show WithinO _ _ _; split)
  repeat' first
    | with_reducible assumption
    | exact covers_trans (by decide) hc
    | with_reducible apply setSlot_within
    | with_reducible apply readImage_within
    | with_reducible apply startAlfel_within
    | split
    | dsimp only


theorem execGoldenLoad_within {C : List Comp} {s₀ : State} (outer micro alfel : ImageCheck) {s : State} (h : Within C s₀ s) (hc : covers C [.free, .out, .pkg, .eng, .lanes, .mv, .host, .ev, .boot, .mo, .gov, .hm, .fs, .rd, .mode] = true) : WithinO C s₀ (execGoldenLoad outer micro alfel s) := by
  unfold execGoldenLoad
  try dsimp only
  repeat' first
    | dsimp only [withinO_next]
    | (with_reducible show WithinO _ _ _; split)
  repeat' first
    | with_reducible assumption
    | exact covers_trans (by decide) hc
    | with_reducible apply setSlot_within
    | with_reducible apply readImage_within
    | with_reducible apply startAlfel_within
    | with_reducible apply sendMicrocode_within
    | with_reducible apply modBoot_within
    | split
    | with_reducible apply Within.upd
    | exact .inr (covers_mem hc (by decide))
    | with_reducible exact .inl rfl
    | with_reducible exact List.prefix_refl _
    | exact List.prefix_append _ _
    | with_reducible exact Nat.le_refl _
    | with_reducible exact id
    | exact .inl fun _ => rfl
    | exact .inr (covers_mem hc (by decide))
    | with_reducible exact fun _ => Nat.le_refl _
    | dsimp only


theorem execTileTrained_within {C : List Comp} {s₀ : State} (tile : Nat) {s : State} (h : Within C s₀ s) (hc : covers C [.free, .out, .pkg, .eng, .lanes, .mv, .host, .time, .ev, .boot, .mo, .gov, .hm, .fs, .rd, .mode] = true) : WithinO C s₀ (execTileTrained tile s) := by
  unfold execTileTrained
  try dsimp only
  repeat' first
    | dsimp only [withinO_next]
    | (with_reducible show WithinO _ _ _; split)
  repeat' first
    | with_reducible assumption
    | exact covers_trans (by decide) hc
    | with_reducible apply modBoot_within
    | with_reducible apply modTime_within
    | with_reducible apply maybeEndBoot_within
    | with_reducible apply modCtl_within
    | (with_reducible apply getD_map_within; rotate_left; intro _)
    | split
    | with_reducible apply Within.upd
    | exact .inr (covers_mem hc (by decide))
    | with_reducible exact .inl rfl
    | with_reducible exact List.prefix_refl _
    | with_reducible exact Nat.le_refl _
    | with_reducible exact id
    | exact .inl fun _ => rfl
    | exact .inr (covers_mem hc (by decide))
    | with_reducible exact fun _ => Nat.le_refl _
    | dsimp only


theorem execTileTrainTimeout_within {C : List Comp} {s₀ : State} (tile : Nat) {s : State} (h : Within C s₀ s) (hc : covers C [.free, .out, .pkg, .eng, .lanes, .st, .mv, .host, .time, .ev, .boot, .mo, .gov, .cd, .ad, .hm, .fs, .rd, .mode, .service] = true) : WithinO C s₀ (execTileTrainTimeout tile s) := by
  unfold execTileTrainTimeout
  try dsimp only
  repeat' first
    | dsimp only [withinO_next]
    | (with_reducible show WithinO _ _ _; split)
  repeat' first
    | with_reducible assumption
    | exact covers_trans (by decide) hc
    | with_reducible apply modBoot_within
    | with_reducible apply dropIsolated_within
    | with_reducible apply enterService_within
    | with_reducible apply modPkg_within
    | (with_reducible apply getD_map_within; rotate_left; intro _)
    | split
    | with_reducible apply Within.upd
    | exact .inr (covers_mem hc (by decide))
    | with_reducible exact .inl rfl
    | with_reducible exact List.prefix_refl _
    | exact List.prefix_append _ _
    | with_reducible exact Nat.le_refl _
    | with_reducible exact id
    | exact .inl fun _ => rfl
    | exact .inr (covers_mem hc (by decide))
    | with_reducible exact fun k => k.of_eq rfl rfl rfl rfl
    | with_reducible exact fun _ => PkgOk.settled rfl rfl rfl
    | with_reducible exact fun k => k.both rfl rfl rfl
    | exact .inl fun _ => rfl
    | exact .inr (covers_mem hc (by decide))
    | with_reducible exact fun _ => Nat.le_refl _
    | dsimp only


theorem opFwQuery_within {C : List Comp} {s₀ : State}  (c : Cmd) {s : State} (h : Within C s₀ s) (_hc : covers C [] = true) : WithinR C s₀ ((opFwQuery).act c s) := by
  dsimp only [opFwQuery]
  repeat' first
    | dsimp only [withinR_done, withinR_wait, withinR_fail]
    | (with_reducible show WithinR _ _ _; split)
  repeat' first
    | with_reducible assumption
    | dsimp only


theorem execFwQuery_within {C : List Comp} {s₀ : State} (c : Cmd) {s : State} (h : Within C s₀ s) (hc : covers C [.out, .eng, .mv, .host, .ev, .boot, .hm] = true) : WithinO C s₀ (execFwQuery c s) :=
  runOp_within c (fun h => h) (fun h => opFwQuery_within c h (covers_trans (by decide) hc)) h (covers_trans (by decide) hc)

theorem opFwWrite_within {C : List Comp} {s₀ : State}  (c : Cmd) {s : State} (h : Within C s₀ s) (hc : covers C [.out, .eng, .boot] = true) : WithinR C s₀ ((opFwWrite).act c s) := by
  dsimp only [opFwWrite]
  repeat' first
    | dsimp only [withinR_done, withinR_wait, withinR_fail]
    | (with_reducible show WithinR _ _ _; split)
  repeat' first
    | with_reducible assumption
    | exact covers_trans (by decide) hc
    | with_reducible apply modBoot_within
    | with_reducible apply eraseHeader_within
    | with_reducible apply readRequests_within
    | with_reducible apply addWait_within
    | split
    | with_reducible apply Within.upd
    | exact .inr (covers_mem hc (by decide))
    | with_reducible exact .inl rfl
    | with_reducible exact List.prefix_refl _
    | with_reducible exact Nat.le_refl _
    | with_reducible exact id
    | with_reducible exact fun g => g.of_eq rfl rfl rfl
    | exact .inl fun _ => rfl
    | exact .inr (covers_mem hc (by decide))
    | with_reducible exact fun _ => Nat.le_refl _
    | dsimp only


theorem execFwWrite_within {C : List Comp} {s₀ : State} (c : Cmd) {s : State} (h : Within C s₀ s) (hc : covers C [.out, .eng, .mv, .host, .ev, .boot, .hm] = true) : WithinO C s₀ (execFwWrite c s) :=
  runOp_within c (fun h => h) (fun h => opFwWrite_within c h (covers_trans (by decide) hc)) h (covers_trans (by decide) hc)

theorem mendArea_within {C : List Comp} {s₀ : State} (area : Nat) {s : State} (h : Within C s₀ s) (hc : covers C [.boot] = true) : Within C s₀ (mendArea area s) := by
  unfold mendArea
  try dsimp only
  repeat' first
    | with_reducible assumption
    | exact covers_trans (by decide) hc
    | with_reducible apply modBoot_within
    | with_reducible apply Within.upd
    | exact .inr (covers_mem hc (by decide))
    | with_reducible exact .inl rfl
    | with_reducible exact List.prefix_refl _
    | with_reducible exact Nat.le_refl _
    | with_reducible exact id
    | exact .inl fun _ => rfl
    | exact .inr (covers_mem hc (by decide))
    | with_reducible exact fun _ => Nat.le_refl _
    | dsimp only


theorem storeImage_within {C : List Comp} {s₀ : State} (slot copy : Nat) (img : Image) {s : State} (h : Within C s₀ s) (hc : covers C [.boot] = true) : Within C s₀ (storeImage slot copy img s) := by
  unfold storeImage
  try dsimp only
  repeat' first
    | with_reducible assumption
    | exact covers_trans (by decide) hc
    | with_reducible apply modBoot_within
    | with_reducible apply mendArea_within
    | with_reducible apply Within.upd
    | exact .inr (covers_mem hc (by decide))
    | with_reducible exact .inl rfl
    | with_reducible exact List.prefix_refl _
    | with_reducible exact Nat.le_refl _
    | with_reducible exact id
    | exact .inl fun _ => rfl
    | exact .inr (covers_mem hc (by decide))
    | with_reducible exact fun _ => Nat.le_refl _
    | dsimp only


theorem storeConf_within {C : List Comp} {s₀ : State} (copy : Nat) (conf : List Byte) {s : State} (h : Within C s₀ s) (hc : covers C [.boot] = true) : Within C s₀ (storeConf copy conf s) := by
  unfold storeConf
  try dsimp only
  repeat' first
    | with_reducible assumption
    | exact covers_trans (by decide) hc
    | with_reducible apply modBoot_within
    | with_reducible apply mendArea_within
    | with_reducible apply Within.upd
    | exact .inr (covers_mem hc (by decide))
    | with_reducible exact .inl rfl
    | with_reducible exact List.prefix_refl _
    | with_reducible exact Nat.le_refl _
    | with_reducible exact id
    | exact .inl fun _ => rfl
    | exact .inr (covers_mem hc (by decide))
    | with_reducible exact fun _ => Nat.le_refl _
    | dsimp only


theorem takeCopy_within {C : List Comp} {s₀ : State} (copy seq : Nat) (b : List Byte) {s : State} (h : Within C s₀ s) (hc : covers C [.eng, .boot] = true) : Within C s₀ (takeCopy copy seq b s) := by
  unfold takeCopy
  try dsimp only
  repeat' first
    | with_reducible assumption
    | exact covers_trans (by decide) hc
    | with_reducible apply bumpPkg_within
    | with_reducible apply modBoot_within
    | with_reducible apply Within.upd
    | exact .inr (covers_mem hc (by decide))
    | with_reducible exact .inl rfl
    | with_reducible exact List.prefix_refl _
    | with_reducible exact Nat.le_refl _
    | with_reducible exact id
    | exact .inl fun _ => rfl
    | exact .inr (covers_mem hc (by decide))
    | with_reducible exact fun _ => Nat.le_refl _
    | dsimp only


theorem execFwWriteDone_within {C : List Comp} {s₀ : State} (img : Image) (conf : List Byte) (programmed : Bool) {s : State} (h : Within C s₀ s) (hc : covers C [.out, .eng, .mv, .host, .boot] = true) : WithinO C s₀ (execFwWriteDone img conf programmed s) := by
  unfold execFwWriteDone
  try dsimp only
  repeat' first
    | dsimp only [withinO_next]
    | (with_reducible show WithinO _ _ _; split)
  repeat' first
    | with_reducible assumption
    | exact covers_trans (by decide) hc
    | with_reducible apply modBoot_within
    | with_reducible apply finish_within
    | with_reducible apply setSlot_within
    | with_reducible apply programArea_within
    | with_reducible apply storeConf_within
    | with_reducible apply storeImage_within
    | with_reducible apply takeCopy_within
    | split
    | with_reducible apply Within.upd
    | exact .inr (covers_mem hc (by decide))
    | with_reducible exact .inl rfl
    | with_reducible exact List.prefix_refl _
    | with_reducible exact Nat.le_refl _
    | with_reducible exact id
    | exact .inl fun _ => rfl
    | exact .inr (covers_mem hc (by decide))
    | with_reducible exact fun _ => Nat.le_refl _
    | dsimp only


theorem opFwVerify_within {C : List Comp} {s₀ : State} (img : Image) (conf : List Byte) (c : Cmd) {s : State} (h : Within C s₀ s) (hc : covers C [.out, .boot] = true) : WithinR C s₀ ((opFwVerify img conf).act c s) := by
  dsimp only [opFwVerify]
  repeat' first
    | dsimp only [withinR_done, withinR_wait, withinR_fail]
    | (with_reducible show WithinR _ _ _; split)
  repeat' first
    | with_reducible assumption
    | exact covers_trans (by decide) hc
    | with_reducible apply readArea_within
    | with_reducible apply setSlot_within
    | split
    | dsimp only


theorem execFwVerify_within {C : List Comp} {s₀ : State} (c : Cmd) (img : Image) (conf : List Byte) {s : State} (h : Within C s₀ s) (hc : covers C [.out, .eng, .mv, .host, .ev, .boot, .hm] = true) : WithinO C s₀ (execFwVerify c img conf s) :=
  runOp_within c (fun h => h) (fun h => opFwVerify_within img conf c h (covers_trans (by decide) hc)) h (covers_trans (by decide) hc)

theorem opFwSelect_within {C : List Comp} {s₀ : State}  (c : Cmd) {s : State} (h : Within C s₀ s) (hc : covers C [.out, .eng, .boot] = true) : WithinR C s₀ ((opFwSelect).act c s) := by
  dsimp only [opFwSelect]
  repeat' first
    | dsimp only [withinR_done, withinR_wait, withinR_fail]
    | (with_reducible show WithinR _ _ _; split)
  repeat' first
    | with_reducible assumption
    | exact covers_trans (by decide) hc
    | with_reducible apply programArea_within
    | with_reducible apply eraseHeader_within
    | with_reducible apply setSlot_within
    | with_reducible apply takeCopy_within
    | with_reducible apply storeConf_within
    | with_reducible apply modBoot_within
    | split
    | with_reducible apply Within.upd
    | exact .inr (covers_mem hc (by decide))
    | with_reducible exact .inl rfl
    | with_reducible exact List.prefix_refl _
    | with_reducible exact Nat.le_refl _
    | with_reducible exact id
    | with_reducible exact fun g => g.of_eq rfl rfl rfl
    | exact .inl fun _ => rfl
    | exact .inr (covers_mem hc (by decide))
    | with_reducible exact fun _ => Nat.le_refl _
    | dsimp only


theorem execFwSelect_within {C : List Comp} {s₀ : State} (c : Cmd) {s : State} (h : Within C s₀ s) (hc : covers C [.out, .eng, .mv, .host, .ev, .boot, .hm] = true) : WithinO C s₀ (execFwSelect c s) :=
  runOp_within c (fun h => h) (fun h => opFwSelect_within c h (covers_trans (by decide) hc)) h (covers_trans (by decide) hc)

theorem opFwRollbackAdvance_within {C : List Comp} {s₀ : State} (programmed : Bool) (c : Cmd) {s : State}
    (hb : firstBad ((opFwRollbackAdvance programmed).bad c s) = none) (h : Within C s₀ s) (hc : covers C [.free, .boot, .fuse] = true) :
    WithinR C s₀ ((opFwRollbackAdvance programmed).act c s) := by
  dsimp only [opFwRollbackAdvance, firstBad] at hb ⊢
  split
  · exact h.trans ⟨rfl, rfl, rfl, List.prefix_refl _, Nat.le_add_right _ _, id, id, fun c m => by
      cases c <;> first | rfl | exact absurd (covers_mem hc rfl) m⟩
  · refine h.trans ⟨rfl, rfl, rfl, List.prefix_refl _, ?_, id, id, fun c m => ?_⟩
    · show s.boot.rollback ≤ par c 0 1
      split at hb
      · cases hb
      · rename_i hn
        simp only [Bool.or_eq_true, decide_eq_true_eq, not_or, Nat.not_lt] at hn
        exact hn.2
    · cases c <;> first | rfl | exact absurd (covers_mem hc rfl) m


theorem execFwRollbackAdvance_within {C : List Comp} {s₀ : State} (c : Cmd) (programmed : Bool) {s : State} (h : Within C s₀ s)
    (hc : covers C [.free, .out, .eng, .mv, .host, .ev, .boot, .hm, .fuse] = true) : WithinO C s₀ (execFwRollbackAdvance c programmed s) :=
  runOp_within_of c h (fun ht hk => opFwRollbackAdvance_within programmed c (check_none_bad hk) ht (covers_trans (by decide) hc)) h
    (covers_trans (by decide) hc)


theorem opFwPush_within {C : List Comp} {s₀ : State} (img : Image) (conf : List Byte) (c : Cmd) {s : State} (h : Within C s₀ s) (hc : covers C [.out, .host, .boot] = true) : WithinR C s₀ ((opFwPush img conf).act c s) := by
  dsimp only [opFwPush]
  repeat' first
    | dsimp only [withinR_done, withinR_wait, withinR_fail]
    | (with_reducible show WithinR _ _ _; split)
  repeat' first
    | with_reducible assumption
    | exact covers_trans (by decide) hc
    | with_reducible apply readRequests_within
    | with_reducible apply modBoot_within
    | with_reducible apply sendMicrocode_within
    | with_reducible apply installConf_within
    | split
    | with_reducible apply Within.upd
    | exact .inr (covers_mem hc (by decide))
    | with_reducible exact .inl rfl
    | with_reducible exact List.prefix_refl _
    | with_reducible exact Nat.le_refl _
    | with_reducible exact id
    | exact .inl fun _ => rfl
    | exact .inr (covers_mem hc (by decide))
    | with_reducible exact fun _ => Nat.le_refl _
    | dsimp only


theorem execFwPush_within {C : List Comp} {s₀ : State} (c : Cmd) (img : Image) (conf : List Byte) {s : State} (h : Within C s₀ s) (hc : covers C [.out, .eng, .mv, .host, .ev, .boot, .hm] = true) : WithinO C s₀ (execFwPush c img conf s) :=
  runOp_within c (fun h => h) (fun h => opFwPush_within img conf c h (covers_trans (by decide) hc)) h (covers_trans (by decide) hc)

theorem opFwStart_within {C : List Comp} {s₀ : State}  (c : Cmd) {s : State} (h : Within C s₀ s) (hc : covers C [.free, .out, .pkg, .eng, .lanes, .mv, .host, .ev, .boot, .mo, .gov, .hm, .fs, .rd, .mode] = true) : WithinR C s₀ ((opFwStart).act c s) := by
  dsimp only [opFwStart]
  repeat' first
    | dsimp only [withinR_done, withinR_wait, withinR_fail]
    | (with_reducible show WithinR _ _ _; split)
  repeat' first
    | with_reducible assumption
    | exact covers_trans (by decide) hc
    | with_reducible apply startAlfel_within
    | split


theorem execFwStart_within {C : List Comp} {s₀ : State} (c : Cmd) {s : State} (h : Within C s₀ s) (hc : covers C [.free, .out, .pkg, .eng, .lanes, .mv, .host, .ev, .boot, .mo, .gov, .hm, .fs, .rd, .mode] = true) : WithinO C s₀ (execFwStart c s) :=
  runOp_within c (fun h => h) (fun h => opFwStart_within c h (covers_trans (by decide) hc)) h (covers_trans (by decide) hc)

end Sys2Proof.Machine
end

