-- ==== Sys2Proof/Laws/WithinPackage.lean ====
section
/-!
SUPPORT. The operations of Package: each keeps what `Within` says.
-/
namespace Sys2Proof.Machine
open Sys2Proof
set_option Elab.async false
set_option linter.all false

theorem modBlockOf_within {C : List Comp} {s₀ : State} (p : Nat) (f : BootBlock → BootBlock) {s : State} (h : Within C s₀ s) (hc : covers C [.eng] = true) : Within C s₀ (modBlockOf p f s) := by
  unfold modBlockOf
  try dsimp only
  repeat' first
    | with_reducible assumption
    | exact covers_trans (by decide) hc
    | with_reducible apply modEng_within
    | with_reducible apply Within.upd
    | exact .inr (covers_mem hc (by decide))
    | with_reducible exact .inl rfl
    | with_reducible exact List.prefix_refl _
    | with_reducible exact Nat.le_refl _
    | with_reducible exact id
    | with_reducible exact fun _ g => g.of_eq rfl rfl rfl
    | dsimp only


theorem writeOpen_within {C : List Comp} {s₀ : State} (port block : Nat) {s : State} (h : Within C s₀ s) (hc : covers C [.eng, .host] = true) : Within C s₀ (writeOpen port block s) := by
  unfold writeOpen
  try dsimp only
  repeat' first
    | with_reducible assumption
    | exact covers_trans (by decide) hc
    | with_reducible apply modBlockOf_within
    | with_reducible apply ignoreWrite_within
    | split
    | with_reducible apply Within.upd
    | exact .inr (covers_mem hc (by decide))
    | with_reducible exact .inl rfl
    | with_reducible exact List.prefix_refl _
    | with_reducible exact Nat.le_refl _
    | with_reducible exact id
    | dsimp only


theorem execBootstrapOpen_within {C : List Comp} {s₀ : State} (port block : Nat) {s : State} (h : Within C s₀ s) (hc : covers C [.eng, .host] = true) : WithinO C s₀ (execBootstrapOpen port block s) := by
  unfold execBootstrapOpen
  try dsimp only
  repeat' first
    | dsimp only [withinO_next]
    | (with_reducible show WithinO _ _ _; split)
  repeat' first
    | with_reducible assumption
    | exact covers_trans (by decide) hc
    | with_reducible apply writeOpen_within
    | split


theorem openPair_within {C : List Comp} {s₀ : State} (p : Nat) {s : State} (h : Within C s₀ s) (hc : covers C [.pkg, .eng, .mv] = true) : Within C s₀ (openPair p s) := by
  unfold openPair
  try dsimp only
  repeat' first
    | with_reducible assumption
    | exact covers_trans (by decide) hc
    | with_reducible apply createObj_within
    | with_reducible apply putQueue_within
    | with_reducible apply modBlockOf_within
    | with_reducible apply modPkg_within
    | split
    | with_reducible apply Within.upd
    | exact .inr (covers_mem hc (by decide))
    | with_reducible exact .inl rfl
    | with_reducible exact List.prefix_refl _
    | with_reducible exact Nat.le_refl _
    | with_reducible exact id
    | with_reducible exact fun k => k.of_eq rfl rfl rfl rfl
    | with_reducible exact fun k => k.both rfl rfl rfl
    | exact fun _ => PkgOk.started rfl rfl
    | exact .inl fun _ => rfl
    | exact .inr (covers_mem hc (by decide))
    | with_reducible exact fun k => k.of_eq rfl rfl rfl rfl
    | with_reducible exact fun _ => PkgOk.settled rfl rfl rfl
    | with_reducible exact fun k => k.both rfl rfl rfl
    | dsimp only


theorem execBootstrapOpened_within {C : List Comp} {s₀ : State} (port : Nat) {s : State} (h : Within C s₀ s) (hc : covers C [.pkg, .eng, .mv] = true) : WithinO C s₀ (execBootstrapOpened port s) := by
  unfold execBootstrapOpened
  try dsimp only
  repeat' first
    | dsimp only [withinO_next]
    | (with_reducible show WithinO _ _ _; split)
  repeat' first
    | with_reducible assumption
    | exact covers_trans (by decide) hc
    | with_reducible apply modBlockOf_within
    | with_reducible apply openPair_within
    | split
    | with_reducible apply Within.upd
    | exact .inr (covers_mem hc (by decide))
    | with_reducible exact .inl rfl
    | with_reducible exact List.prefix_refl _
    | with_reducible exact Nat.le_refl _
    | with_reducible exact id
    | with_reducible exact fun k => k.of_eq rfl rfl rfl rfl
    | with_reducible exact fun k => k.both rfl rfl rfl
    | exact fun _ => PkgOk.started rfl rfl
    | dsimp only


theorem execMasterRoleVacant_within {C : List Comp} {s₀ : State}  {s : State} (h : Within C s₀ s) (hc : covers C [.pkg] = true) : WithinO C s₀ (execMasterRoleVacant s) := by
  unfold execMasterRoleVacant
  try dsimp only
  repeat' first
    | dsimp only [withinO_next]
    | (with_reducible show WithinO _ _ _; split)
  repeat' first
    | with_reducible assumption
    | exact covers_trans (by decide) hc
    | with_reducible apply modPkg_within
    | split
    | with_reducible apply Within.upd
    | exact .inr (covers_mem hc (by decide))
    | with_reducible exact .inl rfl
    | with_reducible exact List.prefix_refl _
    | with_reducible exact Nat.le_refl _
    | with_reducible exact id
    | with_reducible exact fun k => k.of_eq rfl rfl rfl rfl
    | with_reducible exact fun k => k.both rfl rfl rfl
    | exact fun _ => PkgOk.started rfl rfl
    | exact .inl fun _ => rfl
    | exact .inr (covers_mem hc (by decide))
    | with_reducible exact fun k => k.of_eq rfl rfl rfl rfl
    | with_reducible exact fun _ => PkgOk.settled rfl rfl rfl
    | with_reducible exact fun k => k.both rfl rfl rfl
    | dsimp only


theorem takeRole_within {C : List Comp} {s₀ : State} (p : Nat) {s : State} (h : Within C s₀ s) (hc : covers C [.pkg, .eng] = true) : Within C s₀ (takeRole p s).1 := by
  unfold takeRole
  try dsimp only
  repeat' first
    | with_reducible assumption
    | exact covers_trans (by decide) hc
    | with_reducible apply bumpPkg_within
    | with_reducible apply modPkg_within
    | split
    | with_reducible apply Within.upd
    | exact .inr (covers_mem hc (by decide))
    | with_reducible exact .inl rfl
    | with_reducible exact List.prefix_refl _
    | with_reducible exact Nat.le_refl _
    | with_reducible exact id
    | with_reducible exact fun k => k.of_eq rfl rfl rfl rfl
    | with_reducible exact fun k => k.both rfl rfl rfl
    | exact fun _ => PkgOk.started rfl rfl
    | exact .inl fun _ => rfl
    | exact .inr (covers_mem hc (by decide))
    | with_reducible exact fun k => k.of_eq rfl rfl rfl rfl
    | with_reducible exact fun _ => PkgOk.settled rfl rfl rfl
    | with_reducible exact fun k => k.both rfl rfl rfl
    | dsimp only

theorem takeRole_within_eq {C : List Comp} {s₀ : State} {p : Nat} {s : State} {x₁} {t₁ : State} (h : Within C s₀ s) (hc : covers C [.pkg, .eng] = true) (e : takeRole p s = (t₁, x₁)) : Within C s₀ t₁ := by
  have := takeRole_within p h hc
  rw [e] at this
  exact this

theorem opMasterSet_within {C : List Comp} {s₀ : State}  (c : Cmd) {s : State} (h : Within C s₀ s) (hc : covers C [.pkg, .eng] = true) : WithinR C s₀ ((opMasterSet).act c s) := by
  dsimp only [opMasterSet]
  repeat' first
    | dsimp only [withinR_done, withinR_wait, withinR_fail]
    | (with_reducible show WithinR _ _ _; split)
  repeat' first
    | with_reducible assumption
    | exact covers_trans (by decide) hc
    | with_reducible apply takeRole_within
    | with_reducible refine takeRole_within_eq ?_ ?_ (by assumption)
    | split


theorem execMasterSet_within {C : List Comp} {s₀ : State} (c : Cmd) {s : State} (h : Within C s₀ s) (hc : covers C [.out, .pkg, .eng, .mv, .host, .ev, .boot, .hm] = true) : WithinO C s₀ (execMasterSet c s) :=
  runOp_within c (fun h => h) (fun h => opMasterSet_within c h (covers_trans (by decide) hc)) h (covers_trans (by decide) hc)

theorem opMasterClaim_within {C : List Comp} {s₀ : State}  (c : Cmd) {s : State} (h : Within C s₀ s) (hc : covers C [.pkg, .eng] = true) : WithinR C s₀ ((opMasterClaim).act c s) := by
  dsimp only [opMasterClaim]
  repeat' first
    | dsimp only [withinR_done, withinR_wait, withinR_fail]
    | (with_reducible show WithinR _ _ _; split)
  repeat' first
    | with_reducible assumption
    | exact covers_trans (by decide) hc
    | with_reducible apply takeRole_within
    | with_reducible refine takeRole_within_eq ?_ ?_ (by assumption)


theorem execMasterClaim_within {C : List Comp} {s₀ : State} (c : Cmd) {s : State} (h : Within C s₀ s) (hc : covers C [.out, .pkg, .eng, .mv, .host, .ev, .boot, .hm] = true) : WithinO C s₀ (execMasterClaim c s) :=
  runOp_within c (fun h => h) (fun h => opMasterClaim_within c h (covers_trans (by decide) hc)) h (covers_trans (by decide) hc)

theorem opNop_within {C : List Comp} {s₀ : State}  (c : Cmd) {s : State} (h : Within C s₀ s) (_hc : covers C [] = true) : WithinR C s₀ ((opNop).act c s) := by
  dsimp only [opNop]
  repeat' first
    | dsimp only [withinR_done, withinR_wait, withinR_fail]
    | (with_reducible show WithinR _ _ _; split)
  repeat' first
    | with_reducible assumption


theorem execNop_within {C : List Comp} {s₀ : State} (c : Cmd) {s : State} (h : Within C s₀ s) (hc : covers C [.out, .eng, .mv, .host, .ev, .boot, .hm] = true) : WithinO C s₀ (execNop c s) :=
  runOp_within c (fun h => h) (fun h => opNop_within c h (covers_trans (by decide) hc)) h (covers_trans (by decide) hc)

theorem opPkgInfo_within {C : List Comp} {s₀ : State}  (c : Cmd) {s : State} (h : Within C s₀ s) (_hc : covers C [] = true) : WithinR C s₀ ((opPkgInfo).act c s) := by
  dsimp only [opPkgInfo]
  repeat' first
    | dsimp only [withinR_done, withinR_wait, withinR_fail]
    | (with_reducible show WithinR _ _ _; split)
  repeat' first
    | with_reducible assumption


theorem execPkgInfo_within {C : List Comp} {s₀ : State} (c : Cmd) {s : State} (h : Within C s₀ s) (hc : covers C [.out, .eng, .mv, .host, .ev, .boot, .hm] = true) : WithinO C s₀ (execPkgInfo c s) :=
  runOp_within c (fun h => h) (fun h => opPkgInfo_within c h (covers_trans (by decide) hc)) h (covers_trans (by decide) hc)

theorem opPkgReset_within {C : List Comp} {s₀ : State}  (c : Cmd) {s : State} (h : Within C s₀ s) (hc : covers C [.free, .out, .pkg, .eng, .lanes, .st, .mv, .host, .time, .cal, .ev, .boot, .mo, .gov, .cd, .ad, .hm, .fs, .rd, .mode, .service, .links] = true) : WithinR C s₀ ((opPkgReset).act c s) := by
  dsimp only [opPkgReset]
  repeat' first
    | dsimp only [withinR_done, withinR_wait, withinR_fail]
    | (with_reducible show WithinR _ _ _; split)
  repeat' first
    | with_reducible assumption
    | exact covers_trans (by decide) hc
    | with_reducible apply packageReset_within
    | with_reducible apply answer_within


theorem execPkgReset_within {C : List Comp} {s₀ : State} (c : Cmd) {s : State} (h : Within C s₀ s) (hc : covers C [.free, .out, .pkg, .eng, .lanes, .st, .mv, .host, .time, .cal, .ev, .boot, .mo, .gov, .cd, .ad, .hm, .fs, .rd, .mode, .service, .links] = true) : WithinO C s₀ (execPkgReset c s) :=
  runOp_within c (fun h => h) (fun h => opPkgReset_within c h (covers_trans (by decide) hc)) h (covers_trans (by decide) hc)

end Sys2Proof.Machine
end

