-- ==== Sys2Proof/Laws/WithinPtp.lean ====
section
/-!
SUPPORT. The operations of Ptp: each keeps what `Within` says.
-/
namespace Sys2Proof.Machine
open Sys2Proof
set_option Elab.async false
set_option linter.all false

theorem modPtp_within {C : List Comp} {s₀ : State} (l : Nat) (f : PtpPort → PtpPort) {s : State} (h : Within C s₀ s) (hc : covers C [.time] = true) : Within C s₀ (modPtp l f s) := by
  unfold modPtp
  try dsimp only
  repeat' first
    | with_reducible assumption
    | exact covers_trans (by decide) hc
    | with_reducible apply modTime_within
    | with_reducible apply Within.upd
    | exact .inr (covers_mem hc (by decide))
    | with_reducible exact .inl rfl
    | with_reducible exact List.prefix_refl _
    | with_reducible exact Nat.le_refl _
    | with_reducible exact id
    | dsimp only


theorem setPortState_within {C : List Comp} {s₀ : State} (l st : Nat) {s : State} (h : Within C s₀ s) (hc : covers C [.time, .ev] = true) : Within C s₀ (setPortState l st s) := by
  unfold setPortState
  try dsimp only
  repeat' first
    | with_reducible assumption
    | exact covers_trans (by decide) hc
    | with_reducible apply modPtp_within
    | with_reducible apply modTime_within
    | with_reducible apply setClock_within
    | split
    | with_reducible apply Within.upd
    | exact .inr (covers_mem hc (by decide))
    | with_reducible exact .inl rfl
    | with_reducible exact List.prefix_refl _
    | with_reducible exact Nat.le_refl _
    | with_reducible exact id
    | dsimp only


theorem restartPorts_within {C : List Comp} {s₀ : State}  {s : State} (h : Within C s₀ s) (hc : covers C [.time] = true) : Within C s₀ (restartPorts s) := by
  unfold restartPorts
  try dsimp only
  repeat' first
    | with_reducible assumption
    | exact covers_trans (by decide) hc
    | with_reducible apply modTime_within
    | split
    | with_reducible apply Within.upd
    | exact .inr (covers_mem hc (by decide))
    | with_reducible exact .inl rfl
    | with_reducible exact List.prefix_refl _
    | with_reducible exact Nat.le_refl _
    | with_reducible exact id
    | dsimp only


theorem adoptParent_within {C : List Comp} {s₀ : State} (m : PtpMaster) {s : State} (h : Within C s₀ s) (hc : covers C [.time] = true) : Within C s₀ (adoptParent m s) := by
  unfold adoptParent
  try dsimp only
  repeat' first
    | with_reducible assumption
    | exact covers_trans (by decide) hc
    | with_reducible apply modTime_within
    | split
    | with_reducible apply Within.upd
    | exact .inr (covers_mem hc (by decide))
    | with_reducible exact .inl rfl
    | with_reducible exact List.prefix_refl _
    | with_reducible exact Nat.le_refl _
    | with_reducible exact id
    | dsimp only


theorem forgetProtocol_within {C : List Comp} {s₀ : State}  {s : State} (h : Within C s₀ s) (hc : covers C [.time] = true) : Within C s₀ (forgetProtocol s) := by
  unfold forgetProtocol
  try dsimp only
  repeat' first
    | with_reducible assumption
    | exact covers_trans (by decide) hc
    | with_reducible apply adoptParent_within
    | with_reducible apply modTime_within
    | with_reducible apply restartPorts_within
    | split
    | with_reducible apply Within.upd
    | exact .inr (covers_mem hc (by decide))
    | with_reducible exact .inl rfl
    | with_reducible exact List.prefix_refl _
    | with_reducible exact Nat.le_refl _
    | with_reducible exact id
    | dsimp only


theorem decideStates_within {C : List Comp} {s₀ : State}  {s : State} (h : Within C s₀ s) (hc : covers C [.free, .time, .ev] = true) : Within C s₀ (decideStates s) := by
  unfold decideStates
  try dsimp only
  repeat' first
    | with_reducible assumption
    | exact covers_trans (by decide) hc
    | with_reducible apply adoptParent_within
    | with_reducible apply setPortState_within
    | with_reducible apply loseMaster_within
    | with_reducible apply modPtp_within
    | (with_reducible apply foldl_within; rotate_left; (intro _ _ _; try dsimp only))
    | split
    | with_reducible apply Within.upd
    | exact .inr (covers_mem hc (by decide))
    | with_reducible exact .inl rfl
    | with_reducible exact List.prefix_refl _
    | with_reducible exact Nat.le_refl _
    | with_reducible exact id
    | dsimp only


theorem sendPtp_within {C : List Comp} {s₀ : State} (l ty flags seq : Nat) (corr : Int) (body : List Byte) {s : State} (h : Within C s₀ s) (hc : covers C [.free, .out, .eng, .lanes, .mv, .host, .time, .ev, .boot, .gov, .fs] = true) : Within C s₀ (sendPtp l ty flags seq corr body s) := by
  unfold sendPtp
  try dsimp only
  repeat' first
    | with_reducible assumption
    | exact covers_trans (by decide) hc
    | with_reducible apply drain_within
    | with_reducible apply modTime_within
    | with_reducible apply stampTx_within
    | with_reducible apply sendFrame_within
    | with_reducible apply useFree_within
    | with_reducible apply Within.upd
    | exact .inr (covers_mem hc (by decide))
    | with_reducible exact .inl rfl
    | with_reducible exact List.prefix_refl _
    | with_reducible exact Nat.le_refl _
    | with_reducible exact id
    | dsimp only


theorem setDelay_within {C : List Comp} {s₀ : State} (l : Nat) (sum : Int) {s : State} (h : Within C s₀ s) (hc : covers C [.free, .time] = true) : Within C s₀ (setDelay l sum s) := by
  unfold setDelay
  try dsimp only
  repeat' first
    | with_reducible assumption
    | exact covers_trans (by decide) hc
    | with_reducible apply modPtp_within
    | with_reducible apply useFree_within
    | with_reducible apply Within.upd
    | exact .inr (covers_mem hc (by decide))
    | with_reducible exact .inl rfl
    | with_reducible exact List.prefix_refl _
    | with_reducible exact Nat.le_refl _
    | with_reducible exact id
    | dsimp only


theorem takeLag_within {C : List Comp} {s₀ : State} (l : Nat) (lag : Int) (o : PtpOutcome) {s : State} (h : Within C s₀ s) (hc : covers C [.free, .time, .ev] = true) : Within C s₀ (takeLag l lag o s) := by
  unfold takeLag
  try dsimp only
  repeat' first
    | with_reducible assumption
    | exact covers_trans (by decide) hc
    | with_reducible apply modPtp_within
    | with_reducible apply servoSample_within
    | with_reducible apply useFree_within
    | with_reducible apply setPortState_within
    | split
    | with_reducible apply Within.upd
    | exact .inr (covers_mem hc (by decide))
    | with_reducible exact .inl rfl
    | with_reducible exact List.prefix_refl _
    | with_reducible exact Nat.le_refl _
    | with_reducible exact id
    | dsimp only


theorem takeSync_within {C : List Comp} {s₀ : State} (l : Nat) (f : RxFrame) (m : List Byte) (o : PtpOutcome) {s : State} (h : Within C s₀ s) (hc : covers C [.free, .time, .ev] = true) : Within C s₀ (takeSync l f m o s) := by
  unfold takeSync
  try dsimp only
  repeat' first
    | with_reducible assumption
    | exact covers_trans (by decide) hc
    | with_reducible apply modPtp_within
    | with_reducible apply takeLag_within
    | split
    | with_reducible apply Within.upd
    | exact .inr (covers_mem hc (by decide))
    | with_reducible exact .inl rfl
    | with_reducible exact List.prefix_refl _
    | with_reducible exact Nat.le_refl _
    | with_reducible exact id
    | dsimp only


theorem takeFollowUp_within {C : List Comp} {s₀ : State} (l : Nat) (m : List Byte) (o : PtpOutcome) {s : State} (h : Within C s₀ s) (hc : covers C [.free, .time, .ev] = true) : Within C s₀ (takeFollowUp l m o s) := by
  unfold takeFollowUp
  try dsimp only
  repeat' first
    | with_reducible assumption
    | exact covers_trans (by decide) hc
    | with_reducible apply takeLag_within
    | split


theorem takeDelayResp_within {C : List Comp} {s₀ : State} (l : Nat) (m : List Byte) {s : State} (h : Within C s₀ s) (hc : covers C [.free, .time] = true) : Within C s₀ (takeDelayResp l m s) := by
  unfold takeDelayResp
  try dsimp only
  repeat' first
    | with_reducible assumption
    | exact covers_trans (by decide) hc
    | with_reducible apply modPtp_within
    | with_reducible apply setDelay_within
    | split
    | with_reducible apply Within.upd
    | exact .inr (covers_mem hc (by decide))
    | with_reducible exact .inl rfl
    | with_reducible exact List.prefix_refl _
    | with_reducible exact Nat.le_refl _
    | with_reducible exact id
    | dsimp only


theorem takePdelayResp_within {C : List Comp} {s₀ : State} (l : Nat) (f : RxFrame) (m : List Byte) {s : State} (h : Within C s₀ s) (hc : covers C [.free, .time] = true) : Within C s₀ (takePdelayResp l f m s) := by
  unfold takePdelayResp
  try dsimp only
  repeat' first
    | with_reducible assumption
    | exact covers_trans (by decide) hc
    | with_reducible apply modPtp_within
    | with_reducible apply setDelay_within
    | split
    | with_reducible apply Within.upd
    | exact .inr (covers_mem hc (by decide))
    | with_reducible exact .inl rfl
    | with_reducible exact List.prefix_refl _
    | with_reducible exact Nat.le_refl _
    | with_reducible exact id
    | dsimp only


theorem takePdelayFollowUp_within {C : List Comp} {s₀ : State} (l : Nat) (m : List Byte) {s : State} (h : Within C s₀ s) (hc : covers C [.free, .time] = true) : Within C s₀ (takePdelayFollowUp l m s) := by
  unfold takePdelayFollowUp
  try dsimp only
  repeat' first
    | with_reducible assumption
    | exact covers_trans (by decide) hc
    | with_reducible apply modPtp_within
    | with_reducible apply setDelay_within
    | split
    | with_reducible apply Within.upd
    | exact .inr (covers_mem hc (by decide))
    | with_reducible exact .inl rfl
    | with_reducible exact List.prefix_refl _
    | with_reducible exact Nat.le_refl _
    | with_reducible exact id
    | dsimp only


theorem takeAnnounce_within {C : List Comp} {s₀ : State} (l : Nat) (m : List Byte) {s : State} (h : Within C s₀ s) (hc : covers C [.free, .time, .ev] = true) : Within C s₀ (takeAnnounce l m s) := by
  unfold takeAnnounce
  try dsimp only
  repeat' first
    | with_reducible assumption
    | exact covers_trans (by decide) hc
    | with_reducible apply decideStates_within
    | with_reducible apply modPtp_within
    | (with_reducible apply getD_map_within; rotate_left; intro _)
    | split
    | with_reducible apply Within.upd
    | exact .inr (covers_mem hc (by decide))
    | with_reducible exact .inl rfl
    | with_reducible exact List.prefix_refl _
    | with_reducible exact Nat.le_refl _
    | with_reducible exact id
    | dsimp only


theorem answerDelay_within {C : List Comp} {s₀ : State} (l : Nat) (f : RxFrame) (m : List Byte) {s : State} (h : Within C s₀ s) (hc : covers C [.free, .out, .eng, .lanes, .mv, .host, .time, .ev, .boot, .gov, .fs] = true) : Within C s₀ (answerDelay l f m s) := by
  unfold answerDelay
  try dsimp only
  repeat' first
    | with_reducible assumption
    | exact covers_trans (by decide) hc
    | with_reducible apply sendPtp_within
    | split
    | dsimp only


theorem answerPdelay_within {C : List Comp} {s₀ : State} (l : Nat) (f : RxFrame) (m : List Byte) {s : State} (h : Within C s₀ s) (hc : covers C [.free, .out, .eng, .lanes, .mv, .host, .time, .ev, .boot, .gov, .fs] = true) : Within C s₀ (answerPdelay l f m s) := by
  unfold answerPdelay
  try dsimp only
  repeat' first
    | with_reducible assumption
    | exact covers_trans (by decide) hc
    | with_reducible apply sendPtp_within
    | split
    | dsimp only


theorem firmware_within {C : List Comp} {s₀ : State} (l : Nat) (f : RxFrame) (o : PtpOutcome) {s : State} (h : Within C s₀ s) (hc : covers C [.free, .out, .eng, .lanes, .mv, .host, .time, .ev, .boot, .gov, .fs] = true) : Within C s₀ (firmware l f o s) := by
  unfold firmware
  try dsimp only
  repeat' first
    | with_reducible assumption
    | exact covers_trans (by decide) hc
    | with_reducible apply takeSync_within
    | with_reducible apply answerDelay_within
    | with_reducible apply answerPdelay_within
    | with_reducible apply takePdelayResp_within
    | with_reducible apply takeFollowUp_within
    | with_reducible apply takeDelayResp_within
    | with_reducible apply takePdelayFollowUp_within
    | with_reducible apply takeAnnounce_within
    | split
    | dsimp only


theorem dropPtp_within {C : List Comp} {s₀ : State} (l : Nat) {s : State} (h : Within C s₀ s) (hc : covers C [.time] = true) : Within C s₀ (dropPtp l s) := by
  unfold dropPtp
  try dsimp only
  repeat' first
    | with_reducible assumption
    | exact covers_trans (by decide) hc
    | with_reducible apply modPtp_within
    | with_reducible apply Within.upd
    | exact .inr (covers_mem hc (by decide))
    | with_reducible exact .inl rfl
    | with_reducible exact List.prefix_refl _
    | with_reducible exact Nat.le_refl _
    | with_reducible exact id
    | dsimp only


theorem execPtpMessageReceive_within {C : List Comp} {s₀ : State} (lane : Nat) (outcome : PtpOutcome) {s : State} (h : Within C s₀ s) (hc : covers C [.free, .out, .eng, .lanes, .mv, .host, .time, .ev, .boot, .gov, .fs] = true) : WithinO C s₀ (execPtpMessageReceive lane outcome s) := by
  unfold execPtpMessageReceive
  try dsimp only
  repeat' first
    | dsimp only [withinO_next]
    | (with_reducible show WithinO _ _ _; split)
  repeat' first
    | with_reducible assumption
    | exact covers_trans (by decide) hc
    | with_reducible apply modLane_within
    | with_reducible apply dropPtp_within
    | with_reducible apply mgmtDeliver_within
    | with_reducible apply firmware_within
    | split
    | with_reducible apply Within.upd
    | exact .inr (covers_mem hc (by decide))
    | with_reducible exact .inl rfl
    | with_reducible exact List.prefix_refl _
    | exact List.prefix_append _ _
    | with_reducible exact Nat.le_refl _
    | with_reducible exact id
    | with_reducible exact fun g => g.of_eq rfl rfl rfl
    | dsimp only


theorem execAnnounceReceiptTimeout_within {C : List Comp} {s₀ : State} (lane : Nat) {s : State} (h : Within C s₀ s) (hc : covers C [.free, .time, .ev] = true) : WithinO C s₀ (execAnnounceReceiptTimeout lane s) := by
  unfold execAnnounceReceiptTimeout
  try dsimp only
  repeat' first
    | dsimp only [withinO_next]
    | (with_reducible show WithinO _ _ _; split)
  repeat' first
    | with_reducible assumption
    | exact covers_trans (by decide) hc
    | with_reducible apply loseMaster_within
    | with_reducible apply decideStates_within
    | with_reducible apply modPtp_within
    | with_reducible apply setPortState_within
    | split
    | with_reducible apply Within.upd
    | exact .inr (covers_mem hc (by decide))
    | with_reducible exact .inl rfl
    | with_reducible exact List.prefix_refl _
    | exact List.prefix_append _ _
    | with_reducible exact Nat.le_refl _
    | with_reducible exact id
    | dsimp only


theorem setServo_within {C : List Comp} {s₀ : State} (host : Bool) {s : State} (h : Within C s₀ s) (hc : covers C [.time, .ev] = true) : Within C s₀ (setServo host s) := by
  unfold setServo
  try dsimp only
  repeat' first
    | with_reducible assumption
    | exact covers_trans (by decide) hc
    | with_reducible apply setClock_within
    | with_reducible apply restartPorts_within
    | split


theorem opTimeServoSet_within {C : List Comp} {s₀ : State}  (c : Cmd) {s : State} (h : Within C s₀ s) (hc : covers C [.eng, .time, .ev] = true) : WithinR C s₀ ((opTimeServoSet).act c s) := by
  dsimp only [opTimeServoSet]
  repeat' first
    | dsimp only [withinR_done, withinR_wait, withinR_fail]
    | (with_reducible show WithinR _ _ _; split)
  repeat' first
    | with_reducible assumption
    | exact covers_trans (by decide) hc
    | with_reducible apply setServo_within
    | with_reducible apply modTime_within
    | with_reducible apply bumpPkg_within
    | split
    | with_reducible apply Within.upd
    | exact .inr (covers_mem hc (by decide))
    | with_reducible exact .inl rfl
    | with_reducible exact List.prefix_refl _
    | with_reducible exact Nat.le_refl _
    | with_reducible exact id
    | dsimp only


theorem execTimeServoSet_within {C : List Comp} {s₀ : State} (c : Cmd) {s : State} (h : Within C s₀ s) (hc : covers C [.out, .eng, .mv, .host, .time, .ev, .boot, .hm] = true) : WithinO C s₀ (execTimeServoSet c s) :=
  runOp_within c (fun h => h) (fun h => opTimeServoSet_within c h (covers_trans (by decide) hc)) h (covers_trans (by decide) hc)

theorem opPtpClockSet_within {C : List Comp} {s₀ : State}  (c : Cmd) {s : State} (h : Within C s₀ s) (hc : covers C [.eng, .time] = true) : WithinR C s₀ ((opPtpClockSet).act c s) := by
  dsimp only [opPtpClockSet]
  repeat' first
    | dsimp only [withinR_done, withinR_wait, withinR_fail]
    | (with_reducible show WithinR _ _ _; split)
  repeat' first
    | with_reducible assumption
    | exact covers_trans (by decide) hc
    | with_reducible apply modTime_within
    | with_reducible apply bumpPkg_within
    | split
    | with_reducible apply Within.upd
    | exact .inr (covers_mem hc (by decide))
    | with_reducible exact .inl rfl
    | with_reducible exact List.prefix_refl _
    | with_reducible exact Nat.le_refl _
    | with_reducible exact id
    | dsimp only


theorem execPtpClockSet_within {C : List Comp} {s₀ : State} (c : Cmd) {s : State} (h : Within C s₀ s) (hc : covers C [.out, .eng, .mv, .host, .time, .ev, .boot, .hm] = true) : WithinO C s₀ (execPtpClockSet c s) :=
  runOp_within c (fun h => h) (fun h => opPtpClockSet_within c h (covers_trans (by decide) hc)) h (covers_trans (by decide) hc)

theorem opPtpPortSet_within {C : List Comp} {s₀ : State}  (c : Cmd) {s : State} (h : Within C s₀ s) (hc : covers C [.free, .eng, .time, .ev] = true) : WithinR C s₀ ((opPtpPortSet).act c s) := by
  dsimp only [opPtpPortSet]
  repeat' first
    | dsimp only [withinR_done, withinR_wait, withinR_fail]
    | (with_reducible show WithinR _ _ _; split)
  repeat' first
    | with_reducible assumption
    | exact covers_trans (by decide) hc
    | with_reducible apply modPtp_within
    | with_reducible apply loseMaster_within
    | with_reducible apply modTime_within
    | with_reducible apply bumpPkg_within
    | split
    | with_reducible apply Within.upd
    | exact .inr (covers_mem hc (by decide))
    | with_reducible exact .inl rfl
    | with_reducible exact List.prefix_refl _
    | with_reducible exact Nat.le_refl _
    | with_reducible exact id
    | dsimp only


theorem execPtpPortSet_within {C : List Comp} {s₀ : State} (c : Cmd) {s : State} (h : Within C s₀ s) (hc : covers C [.free, .out, .eng, .mv, .host, .time, .ev, .boot, .hm] = true) : WithinO C s₀ (execPtpPortSet c s) :=
  runOp_within c (fun h => h) (fun h => opPtpPortSet_within c h (covers_trans (by decide) hc)) h (covers_trans (by decide) hc)

theorem opPtpQuery_within {C : List Comp} {s₀ : State}  (c : Cmd) {s : State} (h : Within C s₀ s) (_hc : covers C [] = true) : WithinR C s₀ ((opPtpQuery).act c s) := by
  dsimp only [opPtpQuery]
  repeat' first
    | dsimp only [withinR_done, withinR_wait, withinR_fail]
    | (with_reducible show WithinR _ _ _; split)
  repeat' first
    | with_reducible assumption
    | split
    | dsimp only


theorem execPtpQuery_within {C : List Comp} {s₀ : State} (c : Cmd) {s : State} (h : Within C s₀ s) (hc : covers C [.out, .eng, .mv, .host, .ev, .boot, .hm] = true) : WithinO C s₀ (execPtpQuery c s) :=
  runOp_within c (fun h => h) (fun h => opPtpQuery_within c h (covers_trans (by decide) hc)) h (covers_trans (by decide) hc)

end Sys2Proof.Machine
end

