-- ==== Sys2Proof/Laws/WithinOpTable.lean ====
section
/-!
SUPPORT. The operations of OpTable: each keeps what `Within` says.
-/
namespace Sys2Proof.Machine
open Sys2Proof
set_option Elab.async false
set_option linter.all false



/-- What running an opcode keeps, once its parameters are good. -/
def OpWithin (o : OpDef) : Prop :=
  ∀ {C : List Comp} {s₀ : State} (c : Cmd) {s : State}, firstBad (o.bad c s) = none → Within C s₀ s → covers C [.free, .out, .pkg, .eng, .lanes, .st, .mv, .host, .time, .cal, .ev, .boot, .mo, .gov, .cd, .ad, .hm, .fs, .rd, .mode, .service, .links, .fuse] = true → WithinR C s₀ (o.act c s)

/-- What the event actions that an opcode takes before it is evaluated keep. -/
def OpFirst (o : OpDef) : Prop :=
  ∀ {C : List Comp} {s₀ : State} (c : Cmd) {s : State}, Within C s₀ s → covers C [.free, .out, .pkg, .eng, .lanes, .st, .mv, .host, .time, .cal, .ev, .boot, .mo, .gov, .cd, .ad, .hm, .fs, .rd, .mode, .service, .links, .fuse] = true → Within C s₀ (o.first c s)

theorem packageOps_within : ∀ o ∈ packageOps, OpWithin o := by
  simp only [packageOps, List.forall_mem_cons, List.not_mem_nil, false_implies, implies_true, and_true]
  exact ⟨fun c _ _ h hc => opNop_within c h (covers_trans (by decide) hc),
    fun c _ _ h hc => opPkgInfo_within c h (covers_trans (by decide) hc),
    fun c _ _ h hc => opMasterSet_within c h (covers_trans (by decide) hc),
    fun c _ _ h hc => opMasterClaim_within c h (covers_trans (by decide) hc),
    fun c _ _ h hc => opPkgReset_within c h (covers_trans (by decide) hc),
    fun c _ _ h hc => opModeSet_within c h (covers_trans (by decide) hc),
    fun c _ _ h hc => opModeQuery_within c h (covers_trans (by decide) hc),
    fun c _ _ h hc => opHandleQuery_within c h (covers_trans (by decide) hc),
    fun c _ _ h hc => opHandleDestroy_within c h (covers_trans (by decide) hc),
    fun c _ _ h hc => opAdopt_within c h (covers_trans (by decide) hc),
    fun c _ _ h hc => opOrphanGraceSet_within c h (covers_trans (by decide) hc),
    fun c _ _ h hc => opHandleList_within c h (covers_trans (by decide) hc)⟩

theorem packageOps_first : ∀ o ∈ packageOps, OpFirst o := by
  simp only [packageOps, List.forall_mem_cons, List.not_mem_nil, false_implies, implies_true, and_true]
  exact ⟨fun _ _ h _ => h,
    fun _ _ h _ => h,
    fun _ _ h _ => h,
    fun _ _ h _ => h,
    fun _ _ h _ => h,
    fun _ _ h _ => h,
    fun _ _ h _ => h,
    fun _ _ h _ => h,
    fun c _ h hc => opHandleDestroy_first_within c h (covers_trans (by decide) hc),
    fun _ _ h _ => h,
    fun _ _ h _ => h,
    fun _ _ h _ => h⟩

theorem laneOps_within : ∀ o ∈ laneOps, OpWithin o := by
  simp only [laneOps, List.forall_mem_cons, List.not_mem_nil, false_implies, implies_true, and_true]
  exact ⟨fun c _ _ h hc => opLanePortSet_within c h (covers_trans (by decide) hc),
    fun c _ _ h hc => opLanePortQuery_within c h (covers_trans (by decide) hc),
    fun c _ _ h hc => opLaneEnable_within c h (covers_trans (by decide) hc),
    fun c _ _ h hc => opLaneErOffer_within c h (covers_trans (by decide) hc),
    fun c _ _ h hc => opLaneMgmtBind_within c h (covers_trans (by decide) hc),
    fun c _ _ h hc => opLaneCountersClear_within c h (covers_trans (by decide) hc),
    fun c _ _ h hc => opLaneEyeScan_within c h (covers_trans (by decide) hc)⟩

theorem laneOps_first : ∀ o ∈ laneOps, OpFirst o := by
  simp only [laneOps, List.forall_mem_cons, List.not_mem_nil, false_implies, implies_true, and_true]
  exact ⟨fun _ _ h _ => h,
    fun _ _ h _ => h,
    fun _ _ h _ => h,
    fun _ _ h _ => h,
    fun _ _ h _ => h,
    fun _ _ h _ => h,
    fun _ _ h _ => h⟩

theorem streamOps_within : ∀ o ∈ streamOps, OpWithin o := by
  simp only [streamOps, List.forall_mem_cons, List.not_mem_nil, false_implies, implies_true, and_true]
  exact ⟨fun c _ _ h hc => opStreamPortSet_within c h (covers_trans (by decide) hc),
    fun c _ _ h hc => opStreamSourceSet_within c h (covers_trans (by decide) hc),
    fun c _ _ h hc => opStreamCreate_within c h (covers_trans (by decide) hc),
    fun c _ _ h hc => opStreamConfig_within c h (covers_trans (by decide) hc),
    fun c _ _ h hc => opStreamDestroy_within c h (covers_trans (by decide) hc),
    fun c _ _ h hc => opStreamQuery_within c h (covers_trans (by decide) hc),
    fun c _ _ h hc => opActionSet_within c h (covers_trans (by decide) hc),
    fun c _ _ h hc => opActionQuery_within c h (covers_trans (by decide) hc)⟩

theorem streamOps_first : ∀ o ∈ streamOps, OpFirst o := by
  simp only [streamOps, List.forall_mem_cons, List.not_mem_nil, false_implies, implies_true, and_true]
  exact ⟨fun _ _ h _ => h,
    fun _ _ h _ => h,
    fun _ _ h _ => h,
    fun _ _ h _ => h,
    fun _ _ h _ => h,
    fun _ _ h _ => h,
    fun _ _ h _ => h,
    fun _ _ h _ => h⟩

theorem assemblyOps_within : ∀ o ∈ assemblyOps, OpWithin o := by
  simp only [assemblyOps, List.forall_mem_cons, List.not_mem_nil, false_implies, implies_true, and_true]
  exact ⟨fun c _ _ h hc => opFaConfig_within c h (covers_trans (by decide) hc),
    fun c _ _ h hc => opFaQuery_within c h (covers_trans (by decide) hc),
    fun c _ _ h hc => opFaStageBegin_within c h (covers_trans (by decide) hc),
    fun c _ _ h hc => opFaStageCommit_within c h (covers_trans (by decide) hc),
    fun c _ _ h hc => opFaStageAbort_within c h (covers_trans (by decide) hc),
    fun c _ _ h hc => opAnchorSet_within c h (covers_trans (by decide) hc)⟩

theorem assemblyOps_first : ∀ o ∈ assemblyOps, OpFirst o := by
  simp only [assemblyOps, List.forall_mem_cons, List.not_mem_nil, false_implies, implies_true, and_true]
  exact ⟨fun _ _ h _ => h,
    fun _ _ h _ => h,
    fun _ _ h _ => h,
    fun _ _ h _ => h,
    fun _ _ h _ => h,
    fun _ _ h _ => h⟩

theorem codecOps_within (programmed : Bool) : ∀ o ∈ codecOps programmed, OpWithin o := by
  simp only [codecOps, List.forall_mem_cons, List.not_mem_nil, false_implies, implies_true, and_true]
  exact ⟨fun c _ _ h hc => opCdConfig_within c h (covers_trans (by decide) hc),
    fun c _ _ h hc => opCdQuery_within c h (covers_trans (by decide) hc),
    fun c _ _ h hc => opCdCalSet_within c h (covers_trans (by decide) hc),
    fun c _ _ h hc => opCdCalSample_within c h (covers_trans (by decide) hc),
    fun c _ _ h hc => opCdCalFit_within c h (covers_trans (by decide) hc),
    fun c _ _ h hc => opCdTableRead_within c h (covers_trans (by decide) hc),
    fun c _ _ h hc => opCdCheckSet_within c h (covers_trans (by decide) hc),
    fun c _ _ h hc => opCdEngineRestore_within programmed c h (covers_trans (by decide) hc)⟩

theorem codecOps_first (programmed : Bool) : ∀ o ∈ codecOps programmed, OpFirst o := by
  simp only [codecOps, List.forall_mem_cons, List.not_mem_nil, false_implies, implies_true, and_true]
  exact ⟨fun _ _ h _ => h,
    fun _ _ h _ => h,
    fun _ _ h _ => h,
    fun _ _ h _ => h,
    fun _ _ h _ => h,
    fun _ _ h _ => h,
    fun _ _ h _ => h,
    fun _ _ h _ => h⟩

theorem storeOps_within : ∀ o ∈ storeOps, OpWithin o := by
  simp only [storeOps, List.forall_mem_cons, List.not_mem_nil, false_implies, implies_true, and_true]
  exact ⟨fun c _ _ h hc => opFsRingSet_within c h (covers_trans (by decide) hc),
    fun c _ _ h hc => opFsQuery_within c h (covers_trans (by decide) hc),
    fun c _ _ h hc => opFsSegArm_within c h (covers_trans (by decide) hc),
    fun c _ _ h hc => opFsTrigger_within c h (covers_trans (by decide) hc),
    fun c _ _ h hc => opFsSegRelease_within c h (covers_trans (by decide) hc),
    fun c _ _ h hc => opFsFreezeRing_within c h (covers_trans (by decide) hc),
    fun c _ _ h hc => opFsSegQuery_within c h (covers_trans (by decide) hc),
    fun c _ _ h hc => opFsDirRead_within c h (covers_trans (by decide) hc),
    fun c _ _ h hc => opFsRead_within c h (covers_trans (by decide) hc),
    fun c _ _ h hc => opFsReadAbort_within c h (covers_trans (by decide) hc),
    fun c _ _ h hc => opFsMap_within c h (covers_trans (by decide) hc),
    fun c _ _ h hc => opFsUnmap_within c h (covers_trans (by decide) hc)⟩

theorem storeOps_first : ∀ o ∈ storeOps, OpFirst o := by
  simp only [storeOps, List.forall_mem_cons, List.not_mem_nil, false_implies, implies_true, and_true]
  exact ⟨fun _ _ h _ => h,
    fun _ _ h _ => h,
    fun c _ h hc => opFsSegArm_first_within c h (covers_trans (by decide) hc),
    fun c _ h hc => opFsTrigger_first_within c h (covers_trans (by decide) hc),
    fun c _ h hc => opFsSegRelease_first_within c h (covers_trans (by decide) hc),
    fun _ _ h _ => h,
    fun _ _ h _ => h,
    fun _ _ h _ => h,
    fun _ _ h _ => h,
    fun _ _ h _ => h,
    fun _ _ h _ => h,
    fun _ _ h _ => h⟩

theorem activityOps_within : ∀ o ∈ activityOps, OpWithin o := by
  simp only [activityOps, List.forall_mem_cons, List.not_mem_nil, false_implies, implies_true, and_true]
  exact ⟨fun c _ _ h hc => opAdRoiSet_within c h (covers_trans (by decide) hc),
    fun c _ _ h hc => opAdQuery_within c h (covers_trans (by decide) hc),
    fun c _ _ h hc => opAdRuleCreate_within c h (covers_trans (by decide) hc),
    fun c _ _ h hc => opAdRuleConfig_within c h (covers_trans (by decide) hc),
    fun c _ _ h hc => opAdRuleArm_within c h (covers_trans (by decide) hc),
    fun c _ _ h hc => opAdRuleQuery_within c h (covers_trans (by decide) hc),
    fun c _ _ h hc => opAdRuleDestroy_within c h (covers_trans (by decide) hc),
    fun c _ _ h hc => opAdRefCreate_within c h (covers_trans (by decide) hc),
    fun c _ _ h hc => opAdRefCapture_within c h (covers_trans (by decide) hc),
    fun c _ _ h hc => opAdRefDestroy_within c h (covers_trans (by decide) hc),
    fun c _ _ h hc => opAdRefQuery_within c h (covers_trans (by decide) hc)⟩

theorem activityOps_first : ∀ o ∈ activityOps, OpFirst o := by
  simp only [activityOps, List.forall_mem_cons, List.not_mem_nil, false_implies, implies_true, and_true]
  exact ⟨fun _ _ h _ => h,
    fun _ _ h _ => h,
    fun _ _ h _ => h,
    fun c _ h hc => opAdRuleConfig_first_within c h (covers_trans (by decide) hc),
    fun c _ h hc => opAdRuleArm_first_within c h (covers_trans (by decide) hc),
    fun _ _ h _ => h,
    fun c _ h hc => opAdRuleDestroy_first_within c h (covers_trans (by decide) hc),
    fun _ _ h _ => h,
    fun _ _ h _ => h,
    fun _ _ h _ => h,
    fun _ _ h _ => h⟩

theorem moverOps_within : ∀ o ∈ moverOps, OpWithin o := by
  simp only [moverOps, List.forall_mem_cons, List.not_mem_nil, false_implies, implies_true, and_true]
  exact ⟨fun c _ _ h hc => opQueueCreate_within c h (covers_trans (by decide) hc),
    fun c _ _ h hc => opQueueConfig_within c h (covers_trans (by decide) hc),
    fun c _ _ h hc => opQueueDestroy_within c h (covers_trans (by decide) hc),
    fun c _ _ h hc => opQueueQuery_within c h (covers_trans (by decide) hc),
    fun c _ _ h hc => opQueueRestart_within c h (covers_trans (by decide) hc),
    fun c _ _ h hc => opMvReserve_within c h (covers_trans (by decide) hc),
    fun c _ _ h hc => opMvRelease_within c h (covers_trans (by decide) hc),
    fun c _ _ h hc => opMvQuery_within c h (covers_trans (by decide) hc),
    fun c _ _ h hc => opMvAbort_within c h (covers_trans (by decide) hc)⟩

theorem moverOps_first : ∀ o ∈ moverOps, OpFirst o := by
  simp only [moverOps, List.forall_mem_cons, List.not_mem_nil, false_implies, implies_true, and_true]
  exact ⟨fun _ _ h _ => h,
    fun _ _ h _ => h,
    fun _ _ h _ => h,
    fun _ _ h _ => h,
    fun _ _ h _ => h,
    fun _ _ h _ => h,
    fun c _ h hc => opMvRelease_first_within c h (covers_trans (by decide) hc),
    fun _ _ h _ => h,
    fun c _ h hc => opMvAbort_first_within c h (covers_trans (by decide) hc)⟩

theorem timeOps_within : ∀ o ∈ timeOps, OpWithin o := by
  simp only [timeOps, List.forall_mem_cons, List.not_mem_nil, false_implies, implies_true, and_true]
  exact ⟨fun c _ _ h hc => opTimeQuery_within c h (covers_trans (by decide) hc),
    fun c _ _ h hc => opTimeSet_within c h (covers_trans (by decide) hc),
    fun c _ _ h hc => opTimeAdjust_within c h (covers_trans (by decide) hc),
    fun c _ _ h hc => opTimeServoSet_within c h (covers_trans (by decide) hc),
    fun c _ _ h hc => opPtpClockSet_within c h (covers_trans (by decide) hc),
    fun c _ _ h hc => opPtpPortSet_within c h (covers_trans (by decide) hc),
    fun c _ _ h hc => opPtpQuery_within c h (covers_trans (by decide) hc),
    fun c _ _ h hc => opSchedCreate_within c h (covers_trans (by decide) hc),
    fun c _ _ h hc => opSchedDestroy_within c h (covers_trans (by decide) hc),
    fun c _ _ h hc => opSchedQuery_within c h (covers_trans (by decide) hc),
    fun c _ _ h hc => opCalSet_within c h (covers_trans (by decide) hc),
    fun c _ _ h hc => opCalQuery_within c h (covers_trans (by decide) hc)⟩

theorem timeOps_first : ∀ o ∈ timeOps, OpFirst o := by
  simp only [timeOps, List.forall_mem_cons, List.not_mem_nil, false_implies, implies_true, and_true]
  exact ⟨fun _ _ h _ => h,
    fun _ _ h _ => h,
    fun _ _ h _ => h,
    fun _ _ h _ => h,
    fun _ _ h _ => h,
    fun _ _ h _ => h,
    fun _ _ h _ => h,
    fun _ _ h _ => h,
    fun c _ h hc => opSchedDestroy_first_within c h (covers_trans (by decide) hc),
    fun _ _ h _ => h,
    fun _ _ h _ => h,
    fun _ _ h _ => h⟩

theorem eventOps_within : ∀ o ∈ eventOps, OpWithin o := by
  simp only [eventOps, List.forall_mem_cons, List.not_mem_nil, false_implies, implies_true, and_true]
  exact ⟨fun c _ _ h hc => opEvRouteCreate_within c h (covers_trans (by decide) hc),
    fun c _ _ h hc => opEvRouteDestroy_within c h (covers_trans (by decide) hc),
    fun c _ _ h hc => opEvRouteQuery_within c h (covers_trans (by decide) hc),
    fun c _ _ h hc => opEvPinSet_within c h (covers_trans (by decide) hc),
    fun c _ _ h hc => opEvPinQuery_within c h (covers_trans (by decide) hc),
    fun c _ _ h hc => opEvGroupSet_within c h (covers_trans (by decide) hc),
    fun c _ _ h hc => opEvStatus_within c h (covers_trans (by decide) hc),
    fun c _ _ h hc => opEvPublish_within c h (covers_trans (by decide) hc),
    fun c _ _ h hc => opEvSkewLearn_within c h (covers_trans (by decide) hc)⟩

theorem eventOps_first : ∀ o ∈ eventOps, OpFirst o := by
  simp only [eventOps, List.forall_mem_cons, List.not_mem_nil, false_implies, implies_true, and_true]
  exact ⟨fun _ _ h _ => h,
    fun _ _ h _ => h,
    fun _ _ h _ => h,
    fun c _ h hc => opEvPinSet_first_within c h (covers_trans (by decide) hc),
    fun _ _ h _ => h,
    fun _ _ h _ => h,
    fun _ _ h _ => h,
    fun _ _ h _ => h,
    fun _ _ h _ => h⟩

theorem motionOps_within : ∀ o ∈ motionOps, OpWithin o := by
  simp only [motionOps, List.forall_mem_cons, List.not_mem_nil, false_implies, implies_true, and_true]
  exact ⟨fun c _ _ h hc => opMoConfig_within c h (covers_trans (by decide) hc),
    fun c _ _ h hc => opMoQuery_within c h (covers_trans (by decide) hc),
    fun c _ _ h hc => opMoPreset_within c h (covers_trans (by decide) hc),
    fun c _ _ h hc => opMoCmpCreate_within c h (covers_trans (by decide) hc),
    fun c _ _ h hc => opMoCmpArm_within c h (covers_trans (by decide) hc),
    fun c _ _ h hc => opMoCmpDisarm_within c h (covers_trans (by decide) hc),
    fun c _ _ h hc => opMoTblLoad_within c h (covers_trans (by decide) hc),
    fun c _ _ h hc => opMoTblStart_within c h (covers_trans (by decide) hc),
    fun c _ _ h hc => opMoTblStop_within c h (covers_trans (by decide) hc),
    fun c _ _ h hc => opMoCmpQuery_within c h (covers_trans (by decide) hc),
    fun c _ _ h hc => opMoCmpDestroy_within c h (covers_trans (by decide) hc)⟩

theorem motionOps_first : ∀ o ∈ motionOps, OpFirst o := by
  simp only [motionOps, List.forall_mem_cons, List.not_mem_nil, false_implies, implies_true, and_true]
  exact ⟨fun c _ h hc => opMoConfig_first_within c h (covers_trans (by decide) hc),
    fun _ _ h _ => h,
    fun c _ h hc => opMoPreset_first_within c h (covers_trans (by decide) hc),
    fun _ _ h _ => h,
    fun c _ h hc => opMoCmpArm_first_within c h (covers_trans (by decide) hc),
    fun c _ h hc => opMoCmpDisarm_first_within c h (covers_trans (by decide) hc),
    fun c _ h hc => opMoTblLoad_first_within c h (covers_trans (by decide) hc),
    fun c _ h hc => opMoTblStart_first_within c h (covers_trans (by decide) hc),
    fun c _ h hc => opMoTblStop_first_within c h (covers_trans (by decide) hc),
    fun _ _ h _ => h,
    fun c _ h hc => opMoCmpDestroy_first_within c h (covers_trans (by decide) hc)⟩

theorem redundancyOps_within (img : Image) : ∀ o ∈ redundancyOps img, OpWithin o := by
  simp only [redundancyOps, List.forall_mem_cons, List.not_mem_nil, false_implies, implies_true, and_true]
  exact ⟨fun c _ _ h hc => opCePairQuery_within c h (covers_trans (by decide) hc),
    fun c _ _ h hc => opCePairSet_within c h (covers_trans (by decide) hc),
    fun c _ _ h hc => opCeSwitchover_within c h (covers_trans (by decide) hc),
    fun c _ _ h hc => opCeStandbyRestart_within img c h (covers_trans (by decide) hc),
    fun c _ _ h hc => opTileQuiesce_within c h (covers_trans (by decide) hc),
    fun c _ _ h hc => opTileResume_within c h (covers_trans (by decide) hc),
    fun c _ _ h hc => opTilePowerDown_within c h (covers_trans (by decide) hc),
    fun c _ _ h hc => opTileRejoin_within c h (covers_trans (by decide) hc),
    fun c _ _ h hc => opTileQuery_within c h (covers_trans (by decide) hc)⟩

theorem redundancyOps_first (img : Image) : ∀ o ∈ redundancyOps img, OpFirst o := by
  simp only [redundancyOps, List.forall_mem_cons, List.not_mem_nil, false_implies, implies_true, and_true]
  exact ⟨fun _ _ h _ => h,
    fun _ _ h _ => h,
    fun _ _ h _ => h,
    fun _ _ h _ => h,
    fun _ _ h _ => h,
    fun _ _ h _ => h,
    fun _ _ h _ => h,
    fun _ _ h _ => h,
    fun _ _ h _ => h⟩

theorem governorOps_within : ∀ o ∈ governorOps, OpWithin o := by
  simp only [governorOps, List.forall_mem_cons, List.not_mem_nil, false_implies, implies_true, and_true]
  exact ⟨fun c _ _ h hc => opPgConfig_within c h (covers_trans (by decide) hc),
    fun c _ _ h hc => opPgQuery_within c h (covers_trans (by decide) hc),
    fun c _ _ h hc => opPgTileQuery_within c h (covers_trans (by decide) hc),
    fun c _ _ h hc => opPgSensorRead_within c h (covers_trans (by decide) hc)⟩

theorem governorOps_first : ∀ o ∈ governorOps, OpFirst o := by
  simp only [governorOps, List.forall_mem_cons, List.not_mem_nil, false_implies, implies_true, and_true]
  exact ⟨fun _ _ h _ => h,
    fun _ _ h _ => h,
    fun _ _ h _ => h,
    fun _ _ h _ => h⟩

theorem healthOps_within : ∀ o ∈ healthOps, OpWithin o := by
  simp only [healthOps, List.forall_mem_cons, List.not_mem_nil, false_implies, implies_true, and_true]
  exact ⟨fun c _ _ h hc => opHmQuery_within c h (covers_trans (by decide) hc),
    fun c _ _ h hc => opHmThreshSet_within c h (covers_trans (by decide) hc),
    fun c _ _ h hc => opHmReportSet_within c h (covers_trans (by decide) hc),
    fun c _ _ h hc => opHmTestUnlock_within c h (covers_trans (by decide) hc),
    fun c _ _ h hc => opHmInject_within c h (covers_trans (by decide) hc)⟩

theorem healthOps_first : ∀ o ∈ healthOps, OpFirst o := by
  simp only [healthOps, List.forall_mem_cons, List.not_mem_nil, false_implies, implies_true, and_true]
  exact ⟨fun _ _ h _ => h,
    fun _ _ h _ => h,
    fun _ _ h _ => h,
    fun _ _ h _ => h,
    fun _ _ h _ => h⟩

theorem bootOps_within (img : Image) (conf : List Byte) (programmed : Bool) : ∀ o ∈ bootOps img conf programmed, OpWithin o := by
  simp only [bootOps, List.forall_mem_cons, List.not_mem_nil, false_implies, implies_true, and_true]
  exact ⟨fun c _ _ h hc => opFwQuery_within c h (covers_trans (by decide) hc),
    fun c _ _ h hc => opFwWrite_within c h (covers_trans (by decide) hc),
    fun c _ _ h hc => opFwVerify_within img conf c h (covers_trans (by decide) hc),
    fun c _ _ h hc => opFwSelect_within c h (covers_trans (by decide) hc),
    fun c _ hb h hc => opFwRollbackAdvance_within programmed c hb h (covers_trans (by decide) hc),
    fun c _ _ h hc => opFwPush_within img conf c h (covers_trans (by decide) hc),
    fun c _ _ h hc => opFwStart_within c h (covers_trans (by decide) hc)⟩

theorem bootOps_first (img : Image) (conf : List Byte) (programmed : Bool) : ∀ o ∈ bootOps img conf programmed, OpFirst o := by
  simp only [bootOps, List.forall_mem_cons, List.not_mem_nil, false_implies, implies_true, and_true]
  exact ⟨fun _ _ h _ => h,
    fun _ _ h _ => h,
    fun _ _ h _ => h,
    fun _ _ h _ => h,
    fun _ _ h _ => h,
    fun _ _ h _ => h,
    fun _ _ h _ => h⟩

theorem opTable_within (img : Image) (conf : List Byte) (programmed : Bool) : ∀ o ∈ opTable img conf programmed, OpWithin o := by
  simp only [opTable, List.forall_mem_append]
  exact ⟨⟨⟨⟨⟨⟨⟨⟨⟨⟨⟨⟨⟨⟨packageOps_within, laneOps_within⟩, streamOps_within⟩, assemblyOps_within⟩, codecOps_within programmed⟩,
    storeOps_within⟩, activityOps_within⟩, moverOps_within⟩, timeOps_within⟩, eventOps_within⟩, motionOps_within⟩,
    redundancyOps_within img⟩, governorOps_within⟩, healthOps_within⟩, bootOps_within img conf programmed⟩

theorem opTable_first (img : Image) (conf : List Byte) (programmed : Bool) : ∀ o ∈ opTable img conf programmed, OpFirst o := by
  simp only [opTable, List.forall_mem_append]
  exact ⟨⟨⟨⟨⟨⟨⟨⟨⟨⟨⟨⟨⟨⟨packageOps_first, laneOps_first⟩, streamOps_first⟩, assemblyOps_first⟩, codecOps_first programmed⟩,
    storeOps_first⟩, activityOps_first⟩, moverOps_first⟩, timeOps_first⟩, eventOps_first⟩, motionOps_first⟩,
    redundancyOps_first img⟩, governorOps_first⟩, healthOps_first⟩, bootOps_first img conf programmed⟩

theorem findOp_within {img : Image} {conf : List Byte} {programmed : Bool} {op : Nat} {o : OpDef}
    (h : findOp img conf programmed op = some o) : OpWithin o :=
  opTable_within img conf programmed o (List.mem_of_find?_eq_some h)

theorem findOp_first_within {img : Image} {conf : List Byte} {programmed : Bool} {op : Nat} {o : OpDef}
    (h : findOp img conf programmed op = some o) : OpFirst o :=
  opTable_first img conf programmed o (List.mem_of_find?_eq_some h)

/-- A row found in the opcode table, run with its checks. -/
theorem runOp_found_within {C : List Comp} {s₀ : State} {img : Image} {conf : List Byte} {programmed : Bool} {op : Nat} {o : OpDef} (c : Cmd)
    {s : State} (ho : findOp img conf programmed op = some o) (h : Within C s₀ s)
    (hc : covers C [.free, .out, .pkg, .eng, .lanes, .st, .mv, .host, .time, .cal, .ev, .boot, .mo, .gov, .cd, .ad, .hm, .fs, .rd, .mode, .service, .links, .fuse] = true) : Within C s₀ (runOp o c s) :=
  runOp_within_of c (findOp_first_within ho c h hc) (fun ht hk => findOp_within ho c (check_none_bad hk) ht hc) h (covers_trans (by decide) hc)

end Sys2Proof.Machine
end

