-- ==== Sys2Proof/Laws/WithinTakeover.lean ====
section
/-!
SUPPORT. The operations of Takeover: each keeps what `Within` says.
-/
namespace Sys2Proof.Machine
open Sys2Proof
set_option Elab.async false
set_option linter.all false

theorem endUnmirrored_within {C : List Comp} {s₀ : State}  {s : State} (h : Within C s₀ s) (hc : covers C [.out, .eng, .mv, .host, .ev, .boot] = true) : Within C s₀ (endUnmirrored s) := by
  unfold endUnmirrored
  try dsimp only
  repeat' first
    | with_reducible assumption
    | exact covers_trans (by decide) hc
    | with_reducible apply dropSkew_within
    | (with_reducible apply foldl_within; rotate_left; (intro _ _ _; try dsimp only))
    | dsimp only


theorem losePoints_within {C : List Comp} {s₀ : State}  {s : State} (h : Within C s₀ s) (hc : covers C [.cd] = true) : Within C s₀ (losePoints s) := by
  unfold losePoints
  try dsimp only
  repeat' first
    | with_reducible assumption
    | exact covers_trans (by decide) hc
    | with_reducible apply Within.upd
    | exact .inr (covers_mem hc (by decide))
    | with_reducible exact .inl rfl
    | with_reducible exact List.prefix_refl _
    | with_reducible exact Nat.le_refl _
    | with_reducible exact id
    | dsimp only


theorem rewriteFlash_within {C : List Comp} {s₀ : State}  {s : State} (h : Within C s₀ s) (hc : covers C [.out] = true) : Within C s₀ (rewriteFlash s) := by
  unfold rewriteFlash
  try dsimp only
  repeat' first
    | with_reducible assumption
    | exact covers_trans (by decide) hc
    | with_reducible apply eraseHeader_within
    | with_reducible apply readRequests_within
    | (with_reducible apply foldl_within; rotate_left; (intro _ _ _; try dsimp only))
    | dsimp only


theorem reexecute_within {C : List Comp} {s₀ : State} (kind : Nat) {s : State} (h : Within C s₀ s) (hc : covers C [.out, .eng, .rd] = true) : Within C s₀ (reexecute kind s) := by
  unfold reexecute
  try dsimp only
  repeat' first
    | with_reducible assumption
    | exact covers_trans (by decide) hc
    | with_reducible apply rewriteFlash_within
    | with_reducible apply modEng_within
    | with_reducible apply modRd_within
    | split
    | with_reducible apply Within.upd
    | exact .inr (covers_mem hc (by decide))
    | with_reducible exact .inl rfl
    | with_reducible exact List.prefix_refl _
    | with_reducible exact Nat.le_refl _
    | with_reducible exact id
    | with_reducible exact fun g => g.of_eq rfl rfl rfl
    | with_reducible exact fun _ g => g.of_eq rfl rfl rfl
    | dsimp only


theorem execTakeover_within {C : List Comp} {s₀ : State}  {s : State} (h : Within C s₀ s) (hc : covers C [.out, .eng, .mv, .host, .time, .ev, .boot, .cd, .rd] = true) : WithinO C s₀ (execTakeover s) := by
  unfold execTakeover
  try dsimp only
  repeat' first
    | dsimp only [withinO_next]
    | (with_reducible show WithinO _ _ _; split)
  repeat' first
    | with_reducible assumption
    | exact covers_trans (by decide) hc
    | with_reducible apply reexecute_within
    | with_reducible apply forgetProtocol_within
    | with_reducible apply losePoints_within
    | with_reducible apply endUnmirrored_within
    | with_reducible apply modRd_within
    | split
    | with_reducible apply Within.upd
    | exact .inr (covers_mem hc (by decide))
    | with_reducible exact .inl rfl
    | with_reducible exact List.prefix_refl _
    | with_reducible exact Nat.le_refl _
    | with_reducible exact id
    | dsimp only


theorem appendReplies_within {C : List Comp} {s₀ : State} (p n : Nat) {s : State} (h : Within C s₀ s) (hc : covers C [.mv] = true) : Within C s₀ (appendReplies p n s) := by
  unfold appendReplies
  try dsimp only
  repeat' first
    | with_reducible assumption
    | exact covers_trans (by decide) hc
    | with_reducible apply modQueue_within
    | with_reducible apply Within.upd
    | exact .inr (covers_mem hc (by decide))
    | with_reducible exact .inl rfl
    | with_reducible exact List.prefix_refl _
    | with_reducible exact Nat.le_refl _
    | with_reducible exact id
    | with_reducible exact fun g => g.of_eq rfl rfl rfl
    | dsimp only


theorem endSwitchover_within {C : List Comp} {s₀ : State} (kind : Nat) {s : State} (h : Within C s₀ s) (hc : covers C [.out, .eng, .mv, .host, .boot] = true) : Within C s₀ (endSwitchover kind s) := by
  unfold endSwitchover
  try dsimp only
  repeat' first
    | with_reducible assumption
    | exact covers_trans (by decide) hc
    | with_reducible apply finish_within
    | (with_reducible apply foldl_within; rotate_left; (intro _ _ _; try dsimp only))
    | split
    | dsimp only


theorem execTakeoverReplies_within {C : List Comp} {s₀ : State}  {s : State} (h : Within C s₀ s) (hc : covers C [.out, .eng, .mv, .host, .ev, .boot, .rd] = true) : WithinO C s₀ (execTakeoverReplies s) := by
  unfold execTakeoverReplies
  try dsimp only
  repeat' first
    | dsimp only [withinO_next]
    | (with_reducible show WithinO _ _ _; split)
  repeat' first
    | with_reducible assumption
    | exact covers_trans (by decide) hc
    | with_reducible apply appendReplies_within
    | with_reducible apply modEng_within
    | with_reducible apply flushQueue_within
    | with_reducible apply modRd_within
    | with_reducible apply endSwitchover_within
    | with_reducible apply raiseEngine_within
    | (with_reducible apply foldl_within; rotate_left; (intro _ _ _; try dsimp only))
    | split
    | with_reducible apply Within.upd
    | exact .inr (covers_mem hc (by decide))
    | with_reducible exact .inl rfl
    | with_reducible exact List.prefix_refl _
    | with_reducible exact Nat.le_refl _
    | with_reducible exact id
    | with_reducible exact fun g => g.of_eq rfl rfl rfl
    | with_reducible exact fun _ g => g.of_eq rfl rfl rfl
    | dsimp only


end Sys2Proof.Machine
end

