-- ==== Sys2Proof/Laws/WithinTestField.lean ====
section
/-!
SUPPORT. The operations of TestField: each keeps what `Within` says.
-/
namespace Sys2Proof.Machine
open Sys2Proof
set_option Elab.async false
set_option linter.all false

theorem muteFrom_within {C : List Comp} {s₀ : State} (id : Nat) {s : State} (h : Within C s₀ s) (hc : covers C [.eng] = true) : Within C s₀ (muteFrom id s) := by
  unfold muteFrom
  try dsimp only
  repeat' first
    | with_reducible assumption
    | exact covers_trans (by decide) hc
    | with_reducible apply modEng_within
    | split
    | with_reducible apply Within.upd
    | exact .inr (covers_mem hc (by decide))
    | with_reducible exact .inl rfl
    | with_reducible exact List.prefix_refl _
    | with_reducible exact Nat.le_refl _
    | with_reducible exact id
    | with_reducible exact fun _ g => g.of_eq rfl rfl rfl
    | dsimp only


theorem runTest_within {C : List Comp} {s₀ : State} {port offset : Nat} {x : TestCmd} {s t₁ : State} (h : Within C s₀ s) (hc : covers C [.free, .out, .pkg, .eng, .lanes, .st, .mv, .host, .time, .cal, .ev, .boot, .mo, .gov, .cd, .ad, .hm, .fs, .rd, .mode, .service, .links, .fuse] = true)
    (e : runTest port offset x s = some t₁) : Within C s₀ t₁ := by
  have sub {M : List Comp} (h : covers [.free, .out, .pkg, .eng, .lanes, .st, .mv, .host, .time, .cal, .ev, .boot, .mo, .gov, .cd, .ad, .hm, .fs, .rd, .mode, .service, .links, .fuse] M = true) : covers C M = true := covers_trans h hc
  unfold runTest at e
  obtain ⟨o, ho, e⟩ := Option.bind_eq_some_iff.mp e
  dsimp only at e
  split at e
  · cases e
  · rename_i hk
    have hb := check_none_bad (Option.not_isSome_iff_eq_none.mp hk)
    have hr := findOp_within ho _ hb (afterEvents_within _ _ h (findOp_first_within ho _ h (sub rfl))) (sub rfl)
    split at e <;> rename_i er
    · rw [er] at hr
      cases e
      exact journalOne_within _ hr (sub rfl)
    · rw [er] at hr
      cases e
      exact journalOne_within _ (muteFrom_within _ hr (sub rfl)) (sub rfl)
    · cases e


theorem writeTest_within {C : List Comp} {s₀ : State} (port offset : Nat) (value : U32) {s : State} (h : Within C s₀ s) (hc : covers C [.free, .out, .pkg, .eng, .lanes, .st, .mv, .host, .time, .cal, .ev, .boot, .mo, .gov, .cd, .ad, .hm, .fs, .rd, .mode, .service, .links, .fuse] = true) :
    Within C s₀ (writeTest port offset value s) := by
  have sub {M : List Comp} (h : covers [.free, .out, .pkg, .eng, .lanes, .st, .mv, .host, .time, .cal, .ev, .boot, .mo, .gov, .cd, .ad, .hm, .fs, .rd, .mode, .service, .links, .fuse] M = true) : covers C M = true := covers_trans h hc
  unfold writeTest
  split
  · split
    · rename_i e
      obtain ⟨x, -, hx⟩ := Option.bind_eq_some_iff.mp e
      exact runTest_within h (sub rfl) hx
    · exact ignoreWrite_within _ h (sub rfl)
  · exact ignoreWrite_within _ h (sub rfl)


theorem execTestFieldWrite_within {C : List Comp} {s₀ : State} (port offset : Nat) (value : U32) {s : State} (h : Within C s₀ s) (hc : covers C [.free, .out, .pkg, .eng, .lanes, .st, .mv, .host, .time, .cal, .ev, .boot, .mo, .gov, .cd, .ad, .hm, .fs, .rd, .mode, .service, .links, .fuse] = true) : WithinO C s₀ (execTestFieldWrite port offset value s) := by
  unfold execTestFieldWrite
  try dsimp only
  repeat' first
    | dsimp only [withinO_next]
    | (with_reducible show WithinO _ _ _; split)
  repeat' first
    | with_reducible assumption
    | exact covers_trans (by decide) hc
    | with_reducible apply writeTest_within
    | with_reducible apply refuseMemory_within
    | split


end Sys2Proof.Machine
end

