-- ==== Sys2Proof/Laws/WithinRegisters.lean ====
section
/-!
SUPPORT. The operations of Registers: each keeps what `Within` says.
-/
namespace Sys2Proof.Machine
open Sys2Proof
set_option Elab.async false
set_option linter.all false

theorem readCaptured_within {C : List Comp} {s₀ : State} (port offset : Nat) (v : U32) {s : State} (h : Within C s₀ s) (hc : covers C [.out, .host] = true) : Within C s₀ (readCaptured port offset v s) := by
  unfold readCaptured
  try dsimp only
  repeat' first
    | with_reducible assumption
    | exact covers_trans (by decide) hc
    | with_reducible apply emit_within
    | with_reducible apply modHost_within
    | (with_reducible apply getD_map_within; rotate_left; intro _)
    | split
    | with_reducible apply Within.upd
    | exact .inr (covers_mem hc (by decide))
    | with_reducible exact .inl rfl
    | with_reducible exact List.prefix_refl _
    | with_reducible exact Nat.le_refl _
    | with_reducible exact id
    | dsimp only


theorem readPlain_within {C : List Comp} {s₀ : State} (port offset : Nat) {s : State} (h : Within C s₀ s) (hc : covers C [.out, .host] = true) : Within C s₀ (readPlain port offset s) := by
  unfold readPlain
  try dsimp only
  repeat' first
    | with_reducible assumption
    | exact covers_trans (by decide) hc
    | with_reducible apply readCaptured_within
    | with_reducible apply emit_within
    | with_reducible apply modHost_within
    | split
    | with_reducible apply Within.upd
    | exact .inr (covers_mem hc (by decide))
    | with_reducible exact .inl rfl
    | with_reducible exact List.prefix_refl _
    | with_reducible exact Nat.le_refl _
    | with_reducible exact id
    | dsimp only


theorem readSchedNext_within {C : List Comp} {s₀ : State} (port offset : Nat) {s : State} (h : Within C s₀ s) (hc : covers C [.out, .host] = true) : Within C s₀ (readSchedNext port offset s) := by
  unfold readSchedNext
  try dsimp only
  repeat' first
    | with_reducible assumption
    | exact covers_trans (by decide) hc
    | with_reducible apply emit_within
    | with_reducible apply capture_within
    | dsimp only


theorem stateAfter_within {C : List Comp} {s₀ : State} (m : Meaning) {s : State} (h : Within C s₀ s) (_hc : covers C [] = true) (hm : WithinO C s₀ m) :
    Within C s₀ (stateAfter m s) := by
  unfold stateAfter
  split
  · exact hm
  · exact h


theorem readTile_within {C : List Comp} {s₀ : State} (port t off offset : Nat) {s : State} (h : Within C s₀ s) (hc : covers C [.out, .host, .time] = true) : Within C s₀ (readTile port t off offset s) := by
  unfold readTile
  try dsimp only
  repeat' first
    | with_reducible assumption
    | exact covers_trans (by decide) hc
    | with_reducible apply readPtm_within
    | with_reducible apply readPlain_within
    | with_reducible apply stateAfter_within
    | with_reducible apply execTxtsPop_within
    | with_reducible apply readSchedNext_within
    | with_reducible apply execMoPosRead_within
    | split
    | dsimp only


theorem readControl_within {C : List Comp} {s₀ : State} (port offset : Nat) {s : State} (h : Within C s₀ s) (hc : covers C [.out, .host, .time] = true) : Within C s₀ (readControl port offset s) := by
  unfold readControl
  try dsimp only
  repeat' first
    | with_reducible assumption
    | exact covers_trans (by decide) hc
    | with_reducible apply stateAfter_within
    | with_reducible apply execPkgTimeRead_within
    | with_reducible apply readTile_within
    | with_reducible apply readPlain_within
    | split
    | dsimp only


theorem execLoReadCapture_within {C : List Comp} {s₀ : State} (port offset : Nat) {s : State} (h : Within C s₀ s) (hc : covers C [.free, .out, .host, .time, .ev, .hm] = true) : WithinO C s₀ (execLoReadCapture port offset s) := by
  unfold execLoReadCapture
  try dsimp only
  repeat' first
    | dsimp only [withinO_next]
    | (with_reducible show WithinO _ _ _; split)
  repeat' first
    | with_reducible assumption
    | exact covers_trans (by decide) hc
    | with_reducible apply refuseMemory_within
    | with_reducible apply readControl_within
    | split


theorem stageLo_within {C : List Comp} {s₀ : State} (port offset : Nat) (value : U32) {s : State} (h : Within C s₀ s) (hc : covers C [.host] = true) : Within C s₀ (stageLo port offset value s) := by
  unfold stageLo
  try dsimp only
  repeat' first
    | with_reducible assumption
    | exact covers_trans (by decide) hc
    | with_reducible apply modHost_within
    | with_reducible apply Within.upd
    | exact .inr (covers_mem hc (by decide))
    | with_reducible exact .inl rfl
    | with_reducible exact List.prefix_refl _
    | with_reducible exact Nat.le_refl _
    | with_reducible exact id
    | dsimp only


theorem unstage_within {C : List Comp} {s₀ : State} (port offset : Nat) {s : State} (h : Within C s₀ s) (hc : covers C [.host] = true) : Within C s₀ (unstage port offset s) := by
  unfold unstage
  try dsimp only
  repeat' first
    | with_reducible assumption
    | exact covers_trans (by decide) hc
    | with_reducible apply modHost_within
    | with_reducible apply Within.upd
    | exact .inr (covers_mem hc (by decide))
    | with_reducible exact .inl rfl
    | with_reducible exact List.prefix_refl _
    | with_reducible exact Nat.le_refl _
    | with_reducible exact id
    | dsimp only


theorem refuseGo_within {C : List Comp} {s₀ : State} (port : Nat) (code : Status) {s : State} (h : Within C s₀ s) (hc : covers C [.boot] = true) : Within C s₀ (refuseGo port code s) := by
  unfold refuseGo
  try dsimp only
  repeat' first
    | with_reducible assumption
    | exact covers_trans (by decide) hc
    | with_reducible apply Within.upd
    | exact .inr (covers_mem hc (by decide))
    | with_reducible exact .inl rfl
    | with_reducible exact List.prefix_refl _
    | with_reducible exact Nat.le_refl _
    | with_reducible exact id
    | dsimp only


theorem writeBootBlock_within {C : List Comp} {s₀ : State} (port w offset : Nat) (value : U32) {s : State} (h : Within C s₀ s) (hc : covers C [.free, .out, .eng, .mv, .host, .time, .ev, .boot, .gov, .hm, .rd] = true) : Within C s₀ (writeBootBlock port w offset value s) := by
  unfold writeBootBlock
  try dsimp only
  repeat' first
    | with_reducible assumption
    | exact covers_trans (by decide) hc
    | with_reducible apply ignoreWrite_within
    | with_reducible apply stageLo_within
    | with_reducible apply unstage_within
    | with_reducible apply modBlockOf_within
    | with_reducible apply writeOpen_within
    | with_reducible apply stateAfter_within
    | with_reducible apply execCeBootArbWrite_within
    | with_reducible apply refuseGo_within
    | split
    | with_reducible apply Within.upd
    | exact .inr (covers_mem hc (by decide))
    | with_reducible exact .inl rfl
    | with_reducible exact List.prefix_refl _
    | with_reducible exact Nat.le_refl _
    | with_reducible exact id
    | dsimp only


theorem writeMsix_within {C : List Comp} {s₀ : State} (port i : Nat) (value : U32) {s : State} (h : Within C s₀ s) (hc : covers C [.out, .host] = true) : Within C s₀ (writeMsix port i value s) := by
  unfold writeMsix
  try dsimp only
  repeat' first
    | with_reducible assumption
    | exact covers_trans (by decide) hc
    | with_reducible apply modHost_within
    | with_reducible apply unmaskVector_within
    | split
    | with_reducible apply Within.upd
    | exact .inr (covers_mem hc (by decide))
    | with_reducible exact .inl rfl
    | with_reducible exact List.prefix_refl _
    | with_reducible exact Nat.le_refl _
    | with_reducible exact id
    | dsimp only


theorem writeHe_within {C : List Comp} {s₀ : State} (port w : Nat) (value : U32) {s : State} (h : Within C s₀ s) (hc : covers C [.out, .host] = true) : Within C s₀ (writeHe port w value s) := by
  unfold writeHe
  try dsimp only
  repeat' first
    | with_reducible assumption
    | exact covers_trans (by decide) hc
    | with_reducible apply clearIntx_within
    | with_reducible apply writeMsix_within
    | with_reducible apply ignoreWrite_within
    | split


theorem writeChan_within {C : List Comp} {s₀ : State} (port g w offset : Nat) (value : U32) {s : State} (h : Within C s₀ s) (hc : covers C [.free, .out, .eng, .mv, .host, .ev, .boot, .gov, .fs] = true) : Within C s₀ (writeChan port g w offset value s) := by
  unfold writeChan
  try dsimp only
  repeat' first
    | with_reducible assumption
    | exact covers_trans (by decide) hc
    | with_reducible apply ignoreWrite_within
    | with_reducible apply stageLo_within
    | with_reducible apply unstage_within
    | with_reducible apply modChan_within
    | with_reducible apply writeAbort_within
    | with_reducible apply writeStart_within
    | split
    | with_reducible apply Within.upd
    | exact .inr (covers_mem hc (by decide))
    | with_reducible exact .inl rfl
    | with_reducible exact List.prefix_refl _
    | with_reducible exact Nat.le_refl _
    | with_reducible exact id
    | dsimp only


theorem writeSelector_within {C : List Comp} {s₀ : State} {t block w v : Nat} {s : State}  {t₁ : State} (h : Within C s₀ s) (hc : covers C [.ev, .gov, .ad, .fs] = true) (e : writeSelector t block w v s = some t₁) : Within C s₀ t₁ := by
  unfold writeSelector at e
  try dsimp only at e
  repeat' split at e
  all_goals cases e
  repeat' first
    | with_reducible assumption
    | exact covers_trans (by decide) hc
    | with_reducible apply modFs_within
    | with_reducible apply modEv_within
    | with_reducible apply modTileGov_within
    | split
    | with_reducible apply Within.upd
    | exact .inr (covers_mem hc (by decide))
    | with_reducible exact .inl rfl
    | with_reducible exact List.prefix_refl _
    | with_reducible exact Nat.le_refl _
    | with_reducible exact id
    | dsimp only


theorem writeTile_within {C : List Comp} {s₀ : State} (port t off offset : Nat) (value : U32) {s : State} (h : Within C s₀ s) (hc : covers C [.free, .out, .pkg, .eng, .lanes, .st, .mv, .host, .time, .cal, .ev, .boot, .mo, .gov, .cd, .ad, .hm, .fs, .rd, .mode, .service, .links, .fuse] = true) : Within C s₀ (writeTile port t off offset value s) := by
  unfold writeTile
  try dsimp only
  repeat' first
    | with_reducible assumption
    | exact covers_trans (by decide) hc
    | with_reducible refine writeSelector_within ?_ ?_ (by assumption)
    | with_reducible apply writeHe_within
    | with_reducible apply writeChan_within
    | with_reducible apply writeTest_within
    | split
    | dsimp only


theorem writeDoorbell_within {C : List Comp} {s₀ : State} (port q w : Nat) (value : U32) {s : State} (h : Within C s₀ s) (hc : covers C [.out, .mv, .host] = true) : Within C s₀ (writeDoorbell port q w value s) := by
  unfold writeDoorbell
  try dsimp only
  repeat' first
    | with_reducible assumption
    | exact covers_trans (by decide) hc
    | with_reducible apply doorbell_within
    | with_reducible apply stateAfter_within
    | with_reducible apply execDbMaskWrite_within
    | with_reducible apply ignoreWrite_within
    | split


theorem writeControl_within {C : List Comp} {s₀ : State} (port offset : Nat) (value : U32) {s : State} (h : Within C s₀ s) (hc : covers C [.free, .out, .pkg, .eng, .lanes, .st, .mv, .host, .time, .cal, .ev, .boot, .mo, .gov, .cd, .ad, .hm, .fs, .rd, .mode, .service, .links, .fuse] = true) : Within C s₀ (writeControl port offset value s) := by
  unfold writeControl
  try dsimp only
  repeat' first
    | with_reducible assumption
    | exact covers_trans (by decide) hc
    | with_reducible apply writeDoorbell_within
    | with_reducible apply ignoreWrite_within
    | with_reducible apply modEng_within
    | with_reducible apply writeBootBlock_within
    | with_reducible apply writeTile_within
    | with_reducible apply writeTest_within
    | split
    | with_reducible apply Within.upd
    | exact .inr (covers_mem hc (by decide))
    | with_reducible exact .inl rfl
    | with_reducible exact List.prefix_refl _
    | with_reducible exact Nat.le_refl _
    | with_reducible exact id
    | with_reducible exact fun _ g => g.of_eq rfl rfl rfl
    | dsimp only


theorem writeBytes_within {C : List Comp} {s₀ : State} (port offset : Nat) (value : U32) (be : BitVec 4) {s : State} (h : Within C s₀ s) (hc : covers C [.free, .out, .pkg, .eng, .lanes, .st, .mv, .host, .time, .cal, .ev, .boot, .mo, .gov, .cd, .ad, .hm, .fs, .rd, .mode, .service, .links, .fuse] = true) : Within C s₀ (writeBytes port offset value be s) := by
  unfold writeBytes
  try dsimp only
  repeat' first
    | with_reducible assumption
    | exact covers_trans (by decide) hc
    | with_reducible apply badShape_within
    | with_reducible apply writeControl_within
    | split
    | dsimp only


theorem writeRegister_within {C : List Comp} {s₀ : State} (port offset : Nat) (value : Dw) {s : State} (h : Within C s₀ s) (hc : covers C [.free, .out, .pkg, .eng, .lanes, .st, .mv, .host, .time, .cal, .ev, .boot, .mo, .gov, .cd, .ad, .hm, .fs, .rd, .mode, .service, .links, .fuse] = true) : Within C s₀ (writeRegister port offset value s) := by
  unfold writeRegister
  try dsimp only
  repeat' first
    | with_reducible assumption
    | exact covers_trans (by decide) hc
    | with_reducible apply writeBytes_within
    | with_reducible apply refuseMemory_within
    | split


theorem execRegisterWrite_within {C : List Comp} {s₀ : State} (port offset : Nat) (value : Dw) {s : State} (h : Within C s₀ s) (hc : covers C [.free, .out, .pkg, .eng, .lanes, .st, .mv, .host, .time, .cal, .ev, .boot, .mo, .gov, .cd, .ad, .hm, .fs, .rd, .mode, .service, .links, .fuse] = true) : WithinO C s₀ (execRegisterWrite port offset value s) := by
  unfold execRegisterWrite
  try dsimp only
  repeat' first
    | dsimp only [withinO_next]
    | (with_reducible show WithinO _ _ _; split)
  repeat' first
    | with_reducible assumption
    | exact covers_trans (by decide) hc
    | with_reducible apply writeRegister_within


theorem execHiWriteCommit_within {C : List Comp} {s₀ : State} (port offset : Nat) (value : Dw) {s : State} (h : Within C s₀ s) (hc : covers C [.free, .out, .pkg, .eng, .lanes, .st, .mv, .host, .time, .cal, .ev, .boot, .mo, .gov, .cd, .ad, .hm, .fs, .rd, .mode, .service, .links, .fuse] = true) : WithinO C s₀ (execHiWriteCommit port offset value s) := by
  unfold execHiWriteCommit
  try dsimp only
  repeat' first
    | dsimp only [withinO_next]
    | (with_reducible show WithinO _ _ _; split)
  repeat' first
    | with_reducible assumption
    | exact covers_trans (by decide) hc
    | with_reducible apply writeRegister_within


theorem countInvalid_within {C : List Comp} {s₀ : State} (port : Nat) {s : State} (h : Within C s₀ s) (hc : covers C [.host] = true) : Within C s₀ (countInvalid port s) := by
  unfold countInvalid
  try dsimp only
  repeat' first
    | with_reducible assumption
    | exact covers_trans (by decide) hc
    | with_reducible apply modPortCounters_within
    | with_reducible apply Within.upd
    | exact .inr (covers_mem hc (by decide))
    | with_reducible exact .inl rfl
    | with_reducible exact List.prefix_refl _
    | with_reducible exact Nat.le_refl _
    | with_reducible exact id
    | dsimp only


theorem readShape_within {C : List Comp} {s₀ : State} (port target len : Nat) {s : State} (h : Within C s₀ s) (hc : covers C [.free, .out, .host, .time, .ev, .hm] = true) : Within C s₀ (readShape port target len s) := by
  unfold readShape
  try dsimp only
  repeat' first
    | with_reducible assumption
    | exact covers_trans (by decide) hc
    | with_reducible apply readControl_within
    | with_reducible apply badShape_within
    | split


theorem compatAccess_within {C : List Comp} {s₀ : State} (port offset : Nat) (tlp : CompatTlp) {s : State} (h : Within C s₀ s) (hc : covers C [.free, .out, .pkg, .eng, .lanes, .st, .mv, .host, .time, .cal, .ev, .boot, .mo, .gov, .cd, .ad, .hm, .fs, .rd, .mode, .service, .links, .fuse] = true) : Within C s₀ (compatAccess port offset tlp s) := by
  unfold compatAccess
  try dsimp only
  repeat' first
    | with_reducible assumption
    | exact covers_trans (by decide) hc
    | with_reducible apply countInvalid_within
    | with_reducible apply emit_within
    | with_reducible apply writeBytes_within
    | with_reducible apply badShape_within
    | with_reducible apply readShape_within
    | with_reducible apply ignoreWrite_within
    | with_reducible apply storeRead_within
    | split
    | with_reducible apply Within.upd
    | exact .inr (covers_mem hc (by decide))
    | with_reducible exact .inl rfl
    | with_reducible exact List.prefix_refl _
    | with_reducible exact Nat.le_refl _
    | with_reducible exact id
    | dsimp only


theorem execCompatAccess_within {C : List Comp} {s₀ : State} (port offset : Nat) (tlp : CompatTlp) {s : State} (h : Within C s₀ s) (hc : covers C [.free, .out, .pkg, .eng, .lanes, .st, .mv, .host, .time, .cal, .ev, .boot, .mo, .gov, .cd, .ad, .hm, .fs, .rd, .mode, .service, .links, .fuse] = true) : WithinO C s₀ (execCompatAccess port offset tlp s) := by
  unfold execCompatAccess
  try dsimp only
  repeat' first
    | dsimp only [withinO_next]
    | (with_reducible show WithinO _ _ _; split)
  repeat' first
    | with_reducible assumption
    | exact covers_trans (by decide) hc
    | with_reducible apply refuseMemory_within
    | with_reducible apply compatAccess_within
    | split


end Sys2Proof.Machine
end

