-- ==== Sys2Proof/Laws/WithinConfigSpace.lean ====
section
/-!
SUPPORT. The operations of ConfigSpace: each keeps what `Within` says.
-/
namespace Sys2Proof.Machine
open Sys2Proof
set_option Elab.async false
set_option linter.all false

theorem afterLinkBits_within {C : List Comp} {s₀ : State} (p : Nat) {old s : State} (h : Within C s₀ s) (hc : covers C [.out, .pkg, .eng, .mv, .host, .ev, .boot, .gov, .fs] = true) :
    Within C s₀ (afterLinkBits p old s) := by
  unfold afterLinkBits
  split
  · exact h
  · exact portChange_within _ h hc


theorem writePlain_within {C : List Comp} {s₀ : State} (p off : Nat) (value : U32) {s : State} (h : Within C s₀ s) (hc : covers C [.host] = true) : Within C s₀ (writePlain p off value s) := by
  unfold writePlain
  try dsimp only
  repeat' first
    | with_reducible assumption
    | exact covers_trans (by decide) hc
    | with_reducible apply modPort_within
    | split
    | with_reducible apply Within.upd
    | exact .inr (covers_mem hc (by decide))
    | with_reducible exact .inl rfl
    | with_reducible exact List.prefix_refl _
    | with_reducible exact Nat.le_refl _
    | with_reducible exact id
    | dsimp only


theorem writeCommand_within {C : List Comp} {s₀ : State} (p v : Nat) {s : State} (h : Within C s₀ s) (hc : covers C [.out, .pkg, .eng, .mv, .host, .ev, .boot, .gov, .fs] = true) : Within C s₀ (writeCommand p v s) := by
  unfold writeCommand
  try dsimp only
  repeat' first
    | with_reducible assumption
    | exact covers_trans (by decide) hc
    | with_reducible apply modPort_within
    | with_reducible apply deassertInta_within
    | with_reducible apply afterLinkBits_within
    | split
    | with_reducible apply Within.upd
    | exact .inr (covers_mem hc (by decide))
    | with_reducible exact .inl rfl
    | with_reducible exact List.prefix_refl _
    | with_reducible exact Nat.le_refl _
    | with_reducible exact id
    | dsimp only


theorem writePower_within {C : List Comp} {s₀ : State} (p v : Nat) {s : State} (h : Within C s₀ s) (hc : covers C [.out, .pkg, .eng, .mv, .host, .ev, .boot, .gov, .fs] = true) : Within C s₀ (writePower p v s) := by
  unfold writePower
  try dsimp only
  repeat' first
    | with_reducible assumption
    | exact covers_trans (by decide) hc
    | with_reducible apply afterLinkBits_within
    | with_reducible apply modPort_within
    | split
    | with_reducible apply Within.upd
    | exact .inr (covers_mem hc (by decide))
    | with_reducible exact .inl rfl
    | with_reducible exact List.prefix_refl _
    | with_reducible exact Nat.le_refl _
    | with_reducible exact id
    | dsimp only


theorem writeMsixControl_within {C : List Comp} {s₀ : State} (p v : Nat) {s : State} (h : Within C s₀ s) (hc : covers C [.out, .host] = true) : Within C s₀ (writeMsixControl p v s) := by
  unfold writeMsixControl
  try dsimp only
  repeat' first
    | with_reducible assumption
    | exact covers_trans (by decide) hc
    | with_reducible apply modPort_within
    | with_reducible apply sendAllPending_within
    | with_reducible apply deassertInta_within
    | split
    | with_reducible apply Within.upd
    | exact .inr (covers_mem hc (by decide))
    | with_reducible exact .inl rfl
    | with_reducible exact List.prefix_refl _
    | with_reducible exact Nat.le_refl _
    | with_reducible exact id
    | dsimp only


theorem writeDevice_within {C : List Comp} {s₀ : State} (p v : Nat) {s : State} (h : Within C s₀ s) (hc : covers C [.out, .pkg, .eng, .lanes, .st, .mv, .host, .ev, .boot, .gov, .cd, .ad, .hm, .fs] = true) : Within C s₀ (writeDevice p v s) := by
  unfold writeDevice
  try dsimp only
  repeat' first
    | with_reducible assumption
    | exact covers_trans (by decide) hc
    | with_reducible apply modPort_within
    | with_reducible apply resetPort_within
    | split
    | with_reducible apply Within.upd
    | exact .inr (covers_mem hc (by decide))
    | with_reducible exact .inl rfl
    | with_reducible exact List.prefix_refl _
    | with_reducible exact Nat.le_refl _
    | with_reducible exact id
    | dsimp only


theorem clearUncor_within {C : List Comp} {s₀ : State} (p : Nat) (value : U32) {s : State} (h : Within C s₀ s) (hc : covers C [.host] = true) : Within C s₀ (clearUncor p value s) := by
  unfold clearUncor
  try dsimp only
  repeat' first
    | with_reducible assumption
    | exact covers_trans (by decide) hc
    | with_reducible apply modPort_within
    | with_reducible apply Within.upd
    | exact .inr (covers_mem hc (by decide))
    | with_reducible exact .inl rfl
    | with_reducible exact List.prefix_refl _
    | with_reducible exact Nat.le_refl _
    | with_reducible exact id
    | dsimp only


theorem writeStage_within {C : List Comp} {s₀ : State} (p off : Nat) (value : U32) {s : State} (h : Within C s₀ s) (hc : covers C [.host] = true) : Within C s₀ (writeStage p off value s) := by
  unfold writeStage
  try dsimp only
  repeat' first
    | with_reducible assumption
    | exact covers_trans (by decide) hc
    | with_reducible apply modHost_within
    | with_reducible apply modPort_within
    | (with_reducible apply getD_map_within; rotate_left; intro _)
    | split
    | with_reducible apply Within.upd
    | exact .inr (covers_mem hc (by decide))
    | with_reducible exact .inl rfl
    | with_reducible exact List.prefix_refl _
    | with_reducible exact Nat.le_refl _
    | with_reducible exact id
    | dsimp only


theorem writeCompat_within {C : List Comp} {s₀ : State} (p off : Nat) (value : U32) {s : State} (h : Within C s₀ s) (hc : covers C [.host] = true) : Within C s₀ (writeCompat p off value s) := by
  unfold writeCompat
  try dsimp only
  repeat' first
    | with_reducible assumption
    | exact covers_trans (by decide) hc
    | with_reducible apply commitCompat_within
    | with_reducible apply writeStage_within
    | split


theorem writeCfg_within {C : List Comp} {s₀ : State} (p off : Nat) (value : U32) {s : State} (h : Within C s₀ s) (hc : covers C [.out, .pkg, .eng, .lanes, .st, .mv, .host, .ev, .boot, .gov, .cd, .ad, .hm, .fs] = true) : Within C s₀ (writeCfg p off value s) := by
  unfold writeCfg
  try dsimp only
  repeat' first
    | with_reducible assumption
    | exact covers_trans (by decide) hc
    | with_reducible apply writePlain_within
    | with_reducible apply writeCommand_within
    | with_reducible apply writePower_within
    | with_reducible apply writeMsixControl_within
    | with_reducible apply writeDevice_within
    | with_reducible apply modPort_within
    | with_reducible apply clearUncor_within
    | with_reducible apply modPtm_within
    | with_reducible apply resizeStore_within
    | with_reducible apply writeCompat_within
    | split
    | with_reducible apply Within.upd
    | exact .inr (covers_mem hc (by decide))
    | with_reducible exact .inl rfl
    | with_reducible exact List.prefix_refl _
    | exact List.prefix_append _ _
    | with_reducible exact Nat.le_refl _
    | with_reducible exact id
    | dsimp only


theorem writeCfgBytes_within {C : List Comp} {s₀ : State} (p off : Nat) (value : U32) (be : BitVec 4) {s : State} (h : Within C s₀ s) (hc : covers C [.out, .pkg, .eng, .lanes, .st, .mv, .host, .ev, .boot, .gov, .cd, .ad, .hm, .fs] = true) : Within C s₀ (writeCfgBytes p off value be s) := by
  unfold writeCfgBytes
  try dsimp only
  repeat' first
    | with_reducible assumption
    | exact covers_trans (by decide) hc
    | with_reducible apply writeCfg_within
    | split
    | dsimp only


theorem readCfg_within {C : List Comp} {s₀ : State} (p off : Nat) {s : State} (h : Within C s₀ s) (hc : covers C [.out, .host] = true) : Within C s₀ (readCfg p off s) := by
  unfold readCfg
  try dsimp only
  repeat' first
    | with_reducible assumption
    | exact covers_trans (by decide) hc
    | with_reducible apply emit_within
    | with_reducible apply modHost_within
    | split
    | with_reducible apply Within.upd
    | exact .inr (covers_mem hc (by decide))
    | with_reducible exact .inl rfl
    | with_reducible exact List.prefix_refl _
    | with_reducible exact Nat.le_refl _
    | with_reducible exact id
    | dsimp only


theorem execConfigRequest_within {C : List Comp} {s₀ : State} (port offset : Nat) (write : Option Dw) {s : State} (h : Within C s₀ s) (hc : covers C [.out, .pkg, .eng, .lanes, .st, .mv, .host, .ev, .boot, .gov, .cd, .ad, .hm, .fs] = true) : WithinO C s₀ (execConfigRequest port offset write s) := by
  unfold execConfigRequest
  try dsimp only
  repeat' first
    | dsimp only [withinO_next]
    | (with_reducible show WithinO _ _ _; split)
  repeat' first
    | with_reducible assumption
    | exact covers_trans (by decide) hc
    | with_reducible apply emit_within
    | with_reducible apply writeCfgBytes_within
    | with_reducible apply readCfg_within
    | split
    | dsimp only


end Sys2Proof.Machine
end

