-- ==== Sys2Proof/Laws/WithinCommandTake.lean ====
section
/-!
SUPPORT. The operations of CommandTake: each keeps what `Within` says.
-/
namespace Sys2Proof.Machine
open Sys2Proof
set_option Elab.async false
set_option linter.all false

theorem undefinedReply_within {C : List Comp} {s₀ : State} (op : Nat) (c : Cmd) {s : State} (h : Within C s₀ s) (hc : covers C [.out, .eng, .mv, .host, .boot] = true) : Within C s₀ (undefinedReply op c s) := by
  unfold undefinedReply
  try dsimp only
  repeat' first
    | with_reducible assumption
    | exact covers_trans (by decide) hc
    | with_reducible apply tooLong_within
    | with_reducible apply answer_within
    | split
    | with_reducible apply Within.upd
    | exact .inr (covers_mem hc (by decide))
    | with_reducible exact .inl rfl
    | with_reducible exact List.prefix_refl _
    | with_reducible exact Nat.le_refl _
    | with_reducible exact id
    | with_reducible exact fun g => g.of_eq rfl rfl rfl


theorem execUndefinedOpcode_within {C : List Comp} {s₀ : State} (op : Nat) (c : Cmd) {s : State} (h : Within C s₀ s) (hc : covers C [.out, .eng, .mv, .host, .boot] = true) : WithinO C s₀ (execUndefinedOpcode op c s) := by
  unfold execUndefinedOpcode
  try dsimp only
  repeat' first
    | dsimp only [withinO_next]
    | (with_reducible show WithinO _ _ _; split)
  repeat' first
    | with_reducible assumption
    | exact covers_trans (by decide) hc
    | with_reducible apply undefinedReply_within
    | split


theorem execCommandTooLong_within {C : List Comp} {s₀ : State} (op len : Nat) (c : Cmd) {s : State} (h : Within C s₀ s) (hc : covers C [.out, .eng, .mv, .host, .boot] = true) : WithinO C s₀ (execCommandTooLong op len c s) := by
  unfold execCommandTooLong
  try dsimp only
  repeat' first
    | dsimp only [withinO_next]
    | (with_reducible show WithinO _ _ _; split)
  repeat' first
    | with_reducible assumption
    | exact covers_trans (by decide) hc
    | with_reducible apply tooLong_within
    | split


theorem runPacket_within {C : List Comp} {s₀ : State} (op len : Nat) (c : Cmd) (img : Image) (conf : List Byte) (programmed : Bool) {s : State}
    (h : Within C s₀ s) (hc : covers C [.free, .out, .pkg, .eng, .lanes, .st, .mv, .host, .time, .cal, .ev, .boot, .mo, .gov, .cd, .ad, .hm, .fs, .rd, .mode, .service, .links, .fuse] = true) : Within C s₀ (runPacket op len c img conf programmed s) := by
  have sub {M : List Comp} (h : covers [.free, .out, .pkg, .eng, .lanes, .st, .mv, .host, .time, .cal, .ev, .boot, .mo, .gov, .cd, .ad, .hm, .fs, .rd, .mode, .service, .links, .fuse] M = true) : covers C M = true := covers_trans h hc
  unfold runPacket
  split
  · exact tooLong_within _ _ h (sub rfl)
  · split
    · exact runOp_found_within c ‹_› h (sub rfl)
    · exact undefinedReply_within _ _ h (sub rfl)


theorem visitQueue_within {C : List Comp} {s₀ : State} (k : Nat) (taken : Bool) {s : State} (h : Within C s₀ s) (hc : covers C [.eng] = true) : Within C s₀ (visitQueue k taken s) := by
  unfold visitQueue
  try dsimp only
  repeat' first
    | with_reducible assumption
    | exact covers_trans (by decide) hc
    | with_reducible apply modEng_within
    | (with_reducible apply getD_map_within; rotate_left; intro _)
    | split
    | with_reducible apply Within.upd
    | exact .inr (covers_mem hc (by decide))
    | with_reducible exact .inl rfl
    | with_reducible exact List.prefix_refl _
    | with_reducible exact Nat.le_refl _
    | with_reducible exact id
    | with_reducible exact fun _ g => g.of_eq rfl rfl rfl
    | dsimp only


theorem execCommandTake_within {C : List Comp} {s₀ : State} (port queue : Nat) (packet : List Byte) (img : Image) (conf : List Byte) (programmed : Bool) {s : State} (h : Within C s₀ s) (hc : covers C [.free, .out, .pkg, .eng, .lanes, .st, .mv, .host, .time, .cal, .ev, .boot, .mo, .gov, .cd, .ad, .hm, .fs, .rd, .mode, .service, .links, .fuse] = true) : WithinO C s₀ (execCommandTake port queue packet img conf programmed s) := by
  unfold execCommandTake
  try dsimp only
  repeat' first
    | dsimp only [withinO_next]
    | (with_reducible show WithinO _ _ _; split)
  repeat' first
    | with_reducible assumption
    | exact covers_trans (by decide) hc
    | with_reducible apply journalOne_within
    | with_reducible apply visitQueue_within
    | with_reducible apply tooLong_within
    | with_reducible apply runPacket_within
    | with_reducible apply putQueue_within
    | split
    | with_reducible apply Within.upd
    | exact .inr (covers_mem hc (by decide))
    | with_reducible exact .inl rfl
    | with_reducible exact List.prefix_refl _
    | with_reducible exact Nat.le_refl _
    | with_reducible exact id
    | dsimp only


theorem execMailboxGo_within {C : List Comp} {s₀ : State} (port block : Nat) (packet : List Byte) (img : Image) (conf : List Byte) {s : State} (h : Within C s₀ s) (hc : covers C [.free, .out, .pkg, .eng, .lanes, .st, .mv, .host, .time, .cal, .ev, .boot, .mo, .gov, .cd, .ad, .hm, .fs, .rd, .mode, .service, .links, .fuse] = true) : WithinO C s₀ (execMailboxGo port block packet img conf s) := by
  unfold execMailboxGo
  try dsimp only
  repeat' first
    | dsimp only [withinO_next]
    | (with_reducible show WithinO _ _ _; split)
  repeat' first
    | with_reducible assumption
    | exact covers_trans (by decide) hc
    | with_reducible apply refuseMemory_within
    | with_reducible apply ignoreWrite_within
    | with_reducible apply refuseGo_within
    | with_reducible apply runPacket_within
    | split
    | with_reducible apply Within.upd
    | exact .inr (covers_mem hc (by decide))
    | with_reducible exact .inl rfl
    | with_reducible exact List.prefix_refl _
    | with_reducible exact Nat.le_refl _
    | with_reducible exact id
    | dsimp only


end Sys2Proof.Machine
end

