-- ==== Sys2Proof/Laws/WithinTransmit.lean ====
section
/-!
SUPPORT. The operations of Transmit: each keeps what `Within` says.
-/
namespace Sys2Proof.Machine
open Sys2Proof
set_option Elab.async false
set_option linter.all false

theorem execMgmtTxFrame_within {C : List Comp} {s₀ : State} (lane : Nat) (bytes : List Byte) {s : State} (h : Within C s₀ s) (hc : covers C [.out, .lanes, .mv, .time, .ev] = true) : WithinO C s₀ (execMgmtTxFrame lane bytes s) := by
  unfold execMgmtTxFrame
  try dsimp only
  repeat' first
    | dsimp only [withinO_next]
    | (with_reducible show WithinO _ _ _; split)
  repeat' first
    | with_reducible assumption
    | exact covers_trans (by decide) hc
    | with_reducible apply putQueue_within
    | with_reducible apply countLane_within
    | with_reducible apply sendFrame_within
    | with_reducible apply stampTx_within
    | with_reducible apply modMv_within
    | split
    | with_reducible apply Within.upd
    | exact .inr (covers_mem hc (by decide))
    | with_reducible exact .inl rfl
    | with_reducible exact List.prefix_refl _
    | with_reducible exact Nat.le_refl _
    | with_reducible exact id
    | dsimp only


theorem execErStabilityExpiry_within {C : List Comp} {s₀ : State} (lane : Nat) {s : State} (h : Within C s₀ s) (hc : covers C [.free, .out, .lanes] = true) : WithinO C s₀ (execErStabilityExpiry lane s) := by
  unfold execErStabilityExpiry
  try dsimp only
  repeat' first
    | dsimp only [withinO_next]
    | (with_reducible show WithinO _ _ _; split)
  repeat' first
    | with_reducible assumption
    | exact covers_trans (by decide) hc
    | with_reducible apply erFirst_within
    | with_reducible apply modEr_within
    | with_reducible apply useFree_within
    | split
    | with_reducible apply Within.upd
    | exact .inr (covers_mem hc (by decide))
    | with_reducible exact .inl rfl
    | with_reducible exact List.prefix_refl _
    | with_reducible exact Nat.le_refl _
    | with_reducible exact id
    | dsimp only


theorem execErOfferRepeat_within {C : List Comp} {s₀ : State} (lane : Nat) {s : State} (h : Within C s₀ s) (hc : covers C [.out, .lanes] = true) : WithinO C s₀ (execErOfferRepeat lane s) := by
  unfold execErOfferRepeat
  try dsimp only
  repeat' first
    | dsimp only [withinO_next]
    | (with_reducible show WithinO _ _ _; split)
  repeat' first
    | with_reducible assumption
    | exact covers_trans (by decide) hc
    | with_reducible apply erRepeat_within
    | split


theorem execErSwitchRepeat_within {C : List Comp} {s₀ : State} (lane : Nat) {s : State} (h : Within C s₀ s) (hc : covers C [.out, .lanes] = true) : WithinO C s₀ (execErSwitchRepeat lane s) := by
  unfold execErSwitchRepeat
  try dsimp only
  repeat' first
    | dsimp only [withinO_next]
    | (with_reducible show WithinO _ _ _; split)
  repeat' first
    | with_reducible assumption
    | exact covers_trans (by decide) hc
    | with_reducible apply erRepeat_within
    | split


theorem execErConfirmRepeat_within {C : List Comp} {s₀ : State} (lane : Nat) {s : State} (h : Within C s₀ s) (hc : covers C [.out, .lanes] = true) : WithinO C s₀ (execErConfirmRepeat lane s) := by
  unfold execErConfirmRepeat
  try dsimp only
  repeat' first
    | dsimp only [withinO_next]
    | (with_reducible show WithinO _ _ _; split)
  repeat' first
    | with_reducible assumption
    | exact covers_trans (by decide) hc
    | with_reducible apply erRepeat_within
    | split


theorem execResendRequest_within {C : List Comp} {s₀ : State} (channel : Nat) {s : State} (h : Within C s₀ s) (hc : covers C [.free, .out, .lanes, .st] = true) : WithinO C s₀ (execResendRequest channel s) := by
  unfold execResendRequest
  try dsimp only
  repeat' first
    | dsimp only [withinO_next]
    | (with_reducible show WithinO _ _ _; split)
  repeat' first
    | with_reducible assumption
    | exact covers_trans (by decide) hc
    | with_reducible apply requestBlock_within
    | (with_reducible apply foldl_within; rotate_left; (intro _ _ _; try dsimp only))
    | split
    | dsimp only


theorem execResendRepeat_within {C : List Comp} {s₀ : State} (channel : Nat) {s : State} (h : Within C s₀ s) (hc : covers C [.free, .out, .lanes, .st] = true) : WithinO C s₀ (execResendRepeat channel s) := by
  unfold execResendRepeat
  try dsimp only
  repeat' first
    | dsimp only [withinO_next]
    | (with_reducible show WithinO _ _ _; split)
  repeat' first
    | with_reducible assumption
    | exact covers_trans (by decide) hc
    | with_reducible apply requestBlock_within
    | (with_reducible apply foldl_within; rotate_left; (intro _ _ _; try dsimp only))
    | split
    | dsimp only


theorem execActionSend_within {C : List Comp} {s₀ : State} (output : Nat) {s : State} (h : Within C s₀ s) (hc : covers C [.free, .out, .lanes, .st, .time, .ev] = true) : WithinO C s₀ (execActionSend output s) := by
  unfold execActionSend
  try dsimp only
  repeat' first
    | dsimp only [withinO_next]
    | (with_reducible show WithinO _ _ _; split)
  repeat' first
    | with_reducible assumption
    | exact covers_trans (by decide) hc
    | with_reducible apply sendAction_within
    | with_reducible apply putSched_within
    | split
    | with_reducible apply Within.upd
    | exact .inr (covers_mem hc (by decide))
    | with_reducible exact .inl rfl
    | with_reducible exact List.prefix_refl _
    | exact List.prefix_append _ _
    | with_reducible exact Nat.le_refl _
    | with_reducible exact id
    | dsimp only


theorem execPtpMessageTimer_within {C : List Comp} {s₀ : State} (lane msgType : Nat) (origin : List Byte) {s : State} (h : Within C s₀ s) (hc : covers C [.free, .out, .eng, .lanes, .mv, .host, .time, .ev, .boot, .gov, .fs] = true) : WithinO C s₀ (execPtpMessageTimer lane msgType origin s) := by
  unfold execPtpMessageTimer
  try dsimp only
  repeat' first
    | dsimp only [withinO_next]
    | (with_reducible show WithinO _ _ _; split)
  repeat' first
    | with_reducible assumption
    | exact covers_trans (by decide) hc
    | with_reducible apply modPtp_within
    | with_reducible apply sendPtp_within
    | split
    | with_reducible apply Within.upd
    | exact .inr (covers_mem hc (by decide))
    | with_reducible exact .inl rfl
    | with_reducible exact List.prefix_refl _
    | with_reducible exact Nat.le_refl _
    | with_reducible exact id
    | dsimp only


end Sys2Proof.Machine
end

