-- ==== Sys2Proof/WellFormed.lean ====
section
/-!
DEFINITION. Which commands are well-formed: every number lies in the range that the manual numbers (Table 0-1, R7), every packet, image
and boot configuration has its size (Table 3-1, Table 18-2, Table 18-1). The machine gives every command a meaning, well-formed or not.
-/
namespace Sys2Proof

def portOk (p : Nat) : Bool := decide (p < 8)
def tileOk (t : Nat) : Bool := decide (t < 8)
/-- Global lanes (Table 0-1). -/
def laneOk (l : Nat) : Bool := decide (l < 64)
/-- Global stream channels: 64 a tile. -/
def channelOk (g : Nat) : Bool := decide (g < 512)
/-- Global mover channels: 512 a tile. -/
def chanOk (g : Nat) : Bool := decide (g < 4096)
/-- Global queues: 2,048 a tile (R208). -/
def queueOk (q : Nat) : Bool := decide (q < 16384)
/-- Command queues of a port (R31). -/
def cmdQueueOk (q : Nat) : Bool := decide (q < 8)
/-- Motion interfaces: two a tile. -/
def motionOk (i : Nat) : Bool := decide (i < 16)
/-- Pins: ten a tile. -/
def pinOk (p : Nat) : Bool := decide (p < 80)
/-- Reference frames: 64 a tile (Table 3-8). -/
def referenceOk (r : Nat) : Bool := decide (r < 512)
/-- Segments: 16,384 a tile (Table 3-8). -/
def segmentOk (k : Nat) : Bool := decide (k < 131072)
/-- Routes: 4,096 a tile (Table 3-8). -/
def routeOk (r : Nat) : Bool := decide (r < 32768)
/-- Schedule outputs: eight a tile (Table 3-8). -/
def outputOk (o : Nat) : Bool := decide (o < 64)
/-- Codec engines: four a tile. -/
def codecEngineOk (e : Nat) : Bool := decide (e < 4)
/-- Task inputs GROUP_ON and GROUP_OFF (R278): 672 to 735. -/
def groupInputOk (i : Nat) : Bool := decide (672 ≤ i) && decide (i ≤ 735)
/-- Microcode slots 2 and 3 (Table 18-1). -/
def microSlotOk (n : Nat) : Bool := decide (2 ≤ n) && decide (n ≤ 3)
/-- Detectors of Table 17-2 and their units. -/
def detectorOk (d : Nat) : Bool := decide (d < 20)
def unitOk (u : Nat) : Bool := decide (u < 256)
/-- MSI-X vectors (R230). -/
def vectorOk (v : Nat) : Bool := decide (v < 2048)
/-- HE_INTX_STATUS registers (R231). -/
def intxOk (r : Nat) : Bool := decide (r < 64)
/-- One of two: command engines, Alfel slots, copies of the boot loader, links of a tile. -/
def bitOk (n : Nat) : Bool := decide (n < 2)
/-- Offsets of CONTROL, STORE, COMPAT and configuration space (Table 11-3). -/
def controlOffsetOk (o : Nat) : Bool := decide (o < 2 ^ 27)
def storeOffsetOk (o : Nat) : Bool := decide (o < 2 ^ 39)
def compatOffsetOk (o : Nat) : Bool := decide (o < 2 ^ 28)
def configOffsetOk (o : Nat) : Bool := decide (o < 4096)
/-- A header of 512 bytes (Table 18-2). -/
def headerOk (i : ImageCheck) : Bool := decide (i.header.length = 512)
def imageOk (i : Image) : Bool := headerOk i.toImageCheck && i.parts.all headerOk
/-- A copy of the boot configuration fits its flash slot (Table 18-1). -/
def confOk (b : List Byte) : Bool := decide (b.length ≤ 65536)
/-- PARAM_LEN is a 16-bit field; queue 8 is the boot mailbox. -/
def cmdOk (c : Cmd) : Bool := portOk c.port && decide (c.queue ≤ 8) && decide (c.params.length < 65536)
/-- A packet has its header. -/
def packetOk (b : List Byte) : Bool := decide (32 ≤ b.length)
/-- At most 128 KiB of saved writes (R241). -/
def savedOk (l : List SavedWrite) : Bool := decide ((l.map fun x => x.bytes.length).foldl (· + ·) 0 ≤ 131072)

def WellFormed (i : Instr) : Bool :=
  match i with
  | .registerWrite port offset _ => portOk port && controlOffsetOk offset
  | .loReadCapture port offset => portOk port && controlOffsetOk offset
  | .hiWriteCommit port offset _ => portOk port && controlOffsetOk offset
  | .testFieldWrite port offset _ => portOk port && controlOffsetOk offset
  | .controlMalformedAccess port _ => portOk port
  | .vbatRise => true
  | .vbatFall => true
  | .mainSuppliesValid => true
  | .mainSupplyLoss => true
  | .vddIoLoss => true
  | .resetNAssert => true
  | .resetNRelease _ bootPort => portOk bootPort
  | .bootLoaderLoad copy img => bitOk copy && imageOk img
  | .bootConfigLoad copy0 copy1 => confOk copy0 && confOk copy1
  | .microcodeLoad slot img => microSlotOk slot && imageOk img
  | .alfelLoad slot img => bitOk slot && imageOk img
  | .goldenLoad outer micro alfel => headerOk outer && headerOk micro && headerOk alfel
  | .tileTrained tile => tileOk tile
  | .tileTrainTimeout tile => tileOk tile
  | .mailboxGo port block packet img conf => portOk port && portOk block && packetOk packet && imageOk img && confOk conf
  | .modeSet c => cmdOk c
  | .modeQuery c => cmdOk c
  | .modeCommit => true
  | .modeDrainComplete => true
  | .modeDrainLimit => true
  | .tileQuiesce c => cmdOk c
  | .tileQuiesceCommit tile => tileOk tile
  | .tileDrainComplete tile => tileOk tile
  | .tileDrainLimit tile => tileOk tile
  | .tileResume c => cmdOk c
  | .tilePowerDown c => cmdOk c
  | .tilePowerDownDone tile => tileOk tile
  | .tileRejoin c => cmdOk c
  | .tileRejoinPrepared tile img _ _ => tileOk tile && imageOk img
  | .tileRejoinLocked tile _ _ => tileOk tile
  | .tileQuery c => cmdOk c
  | .hwDetectorOccurrence tile det unit _ => tileOk tile && detectorOk det && unitOk unit
  | .fabricTransferRetry tile unit _ => tileOk tile && bitOk unit
  | .fabricLinkDown tile unit => tileOk tile && bitOk unit
  | .fabricLinkRestored link => tileOk link
  | .codecBacklogHigh tile engine => tileOk tile && codecEngineOk engine
  | .codecBacklogLow tile engine => tileOk tile && codecEngineOk engine
  | .commandTake port queue packet img conf _ => portOk port && cmdQueueOk queue && packetOk packet && imageOk img && confOk conf
  | .commandTooLong _ _ c => cmdOk c
  | .undefinedOpcode _ c => cmdOk c
  | .cmdQueueDoorbell port queue _ => portOk port && queueOk queue
  | .replyQueueDoorbell port queue _ => portOk port && queueOk queue
  | .chainQueueDoorbell port queue _ => portOk port && queueOk queue
  | .cplQueueDoorbell port queue _ => portOk port && queueOk queue
  | .dbMaskWrite port queue _ => portOk port && queueOk queue
  | .bootstrapOpen port block => portOk port && portOk block
  | .bootstrapOpened port => portOk port
  | .nop c => cmdOk c
  | .pkgInfo c => cmdOk c
  | .masterSet c => cmdOk c
  | .masterClaim c => cmdOk c
  | .pkgReset c => cmdOk c
  | .handleQuery c => cmdOk c
  | .handleDestroy c => cmdOk c
  | .adopt c => cmdOk c
  | .orphanGraceSet c => cmdOk c
  | .handleList c => cmdOk c
  | .orphanDeadline => true
  | .masterRoleVacant => true
  | .lanePortSet c => cmdOk c
  | .lanePortQuery c => cmdOk c
  | .laneEnable c => cmdOk c
  | .laneErOffer c => cmdOk c
  | .laneMgmtBind c => cmdOk c
  | .laneCountersClear c => cmdOk c
  | .laneEyeScan c => cmdOk c
  | .eyeScanComplete lane _ => laneOk lane
  | .anComplete lane => laneOk lane
  | .anTimeout lane => laneOk lane
  | .trainingComplete lane => laneOk lane
  | .trainingTimeout lane => laneOk lane
  | .linkUp lane => laneOk lane
  | .lockTimeout lane => laneOk lane
  | .linkLoss lane _ => laneOk lane
  | .retryWaitExpiry lane => laneOk lane
  | .remoteFaultChange lane _ => laneOk lane
  | .rxFrame lane _ => laneOk lane
  | .mgmtTxFrame lane _ => laneOk lane
  | .mgmtWriteback => true
  | .erFrameReceive lane => laneOk lane
  | .erStabilityExpiry lane => laneOk lane
  | .erOfferRepeat lane => laneOk lane
  | .erNoAnswer lane => laneOk lane
  | .erSwitchRepeat lane => laneOk lane
  | .erSwitchDelayExpiry lane => laneOk lane
  | .erSwitchTimeout lane => laneOk lane
  | .erConfirmRepeat lane => laneOk lane
  | .erConfirmTimeout lane => laneOk lane
  | .erRetrainExhausted lane => laneOk lane
  | .streamPortSet c => cmdOk c
  | .streamSourceSet c => cmdOk c
  | .streamCreate c => cmdOk c
  | .streamConfig c => cmdOk c
  | .streamDestroy c => cmdOk c
  | .streamQuery c => cmdOk c
  | .actionSet c => cmdOk c
  | .actionQuery c => cmdOk c
  | .gvspPacket lane => laneOk lane
  | .resendRequest channel => channelOk channel
  | .resendRepeat channel => channelOk channel
  | .giveUpTimer channel => channelOk channel
  | .quietTimeout channel => channelOk channel
  | .actionSend output => outputOk output
  | .frameLeader channel => channelOk channel
  | .positionAtMidtime channel => channelOk channel
  | .positionHistoryRecord mi => motionOk mi
  | .tagComplete channel => channelOk channel
  | .configCommitApplied channel => channelOk channel
  | .timeAnchorDue queue => queueOk queue
  | .faConfig c => cmdOk c
  | .faQuery c => cmdOk c
  | .faStageBegin c => cmdOk c
  | .faStageCommit c => cmdOk c
  | .stageCommitAt channel => channelOk channel
  | .faStageAbort c => cmdOk c
  | .anchorSet c => cmdOk c
  | .cdConfig c => cmdOk c
  | .cdQuery c => cmdOk c
  | .cdCalSet c => cmdOk c
  | .cdCalSample c => cmdOk c
  | .calSampleDone channel => channelOk channel
  | .cdCalFit c => cmdOk c
  | .cdTableRead c => cmdOk c
  | .cdCheckSet c => cmdOk c
  | .cdEngineRestore c _ => cmdOk c
  | .levelTableBuilt channel => channelOk channel
  | .bandToCodec channel => channelOk channel
  | .sliceCoded tile engine _ _ => tileOk tile && codecEngineOk engine
  | .engineSuspect tile engine => tileOk tile && codecEngineOk engine
  | .frameRecordValid channel => channelOk channel
  | .triggerInput channel _ => channelOk channel
  | .postWaitExpiry segment => segmentOk segment
  | .fsRingSet c => cmdOk c
  | .fsQuery c => cmdOk c
  | .fsSegArm c => cmdOk c
  | .fsTrigger c => cmdOk c
  | .fsSegRelease c => cmdOk c
  | .fsFreezeRing c => cmdOk c
  | .fsSegQuery c => cmdOk c
  | .fsDirRead c => cmdOk c
  | .fsRead c => cmdOk c
  | .readoutFrameDone segment => segmentOk segment
  | .readoutEarlyEnd segment => segmentOk segment
  | .fsReadAbort c => cmdOk c
  | .fsMap c => cmdOk c
  | .fsUnmap c => cmdOk c
  | .storeRead port offset _ => portOk port && storeOffsetOk offset
  | .storeResize port _ => portOk port
  | .armInput channel _ => channelOk channel
  | .adRoiSet c => cmdOk c
  | .adQuery c => cmdOk c
  | .adRuleCreate c => cmdOk c
  | .adRuleConfig c => cmdOk c
  | .adRuleArm c => cmdOk c
  | .adRuleQuery c => cmdOk c
  | .adRuleDestroy c => cmdOk c
  | .adRefCreate c => cmdOk c
  | .adRefCapture c => cmdOk c
  | .refCaptured reference => referenceOk reference
  | .adRefDestroy c => cmdOk c
  | .adRefQuery c => cmdOk c
  | .mvStart port chan => portOk port && chanOk chan
  | .mvAbortBit port chan => portOk port && chanOk chan
  | .goInput chan _ => chanOk chan
  | .moverRunComplete chan _ => chanOk chan
  | .moverAbortDone chan _ _ => chanOk chan
  | .flushReadDone _ chan _ => chanOk chan
  | .descriptorRead queue _ => queueOk queue
  | .frameDeliveryStart channel => channelOk channel
  | .frameDeliveryComplete channel => channelOk channel
  | .pendingEntryWrite queue => queueOk queue
  | .coalesceTimer queue => queueOk queue
  | .queueCreate c => cmdOk c
  | .queueConfig c => cmdOk c
  | .queueDestroy c => cmdOk c
  | .queueQuery c => cmdOk c
  | .queueRestart c => cmdOk c
  | .mvReserve c => cmdOk c
  | .mvRelease c => cmdOk c
  | .mvQuery c => cmdOk c
  | .mvAbort c => cmdOk c
  | .compatAccess port offset _ => portOk port && compatOffsetOk offset
  | .compatCommit port => portOk port
  | .msixUnmask port vector => portOk port && vectorOk vector
  | .intxStatusClear port reg _ => portOk port && intxOk reg
  | .completionTimeout port _ => portOk port
  | .lateCompletion port => portOk port
  | .pcieRxError port _ _ => portOk port
  | .ptmPeriod port => portOk port
  | .ptmNow port _ => portOk port
  | .ptmDialogueDone port _ _ => portOk port
  | .ptmResponseTimeout port => portOk port
  | .ptmStatusRead port tile => portOk port && tileOk tile
  | .perst port => portOk port
  | .hotReset port => portOk port
  | .functionLevelReset port => portOk port
  | .flrDone port => portOk port
  | .portLinkDown port saved => portOk port && savedOk saved
  | .portConnectedChange port => portOk port
  | .holdDeadline port => portOk port
  | .routeMoveToward port tile => portOk port && tileOk tile
  | .timeQuery c => cmdOk c
  | .timeSet c => cmdOk c
  | .timeAdjust c => cmdOk c
  | .timeServoSet c => cmdOk c
  | .timeChangeCommit => true
  | .ptpClockSet c => cmdOk c
  | .ptpPortSet c => cmdOk c
  | .ptpQuery c => cmdOk c
  | .ptpMessageReceive lane _ => laneOk lane
  | .announceReceiptTimeout lane => laneOk lane
  | .ptpMessageTimer lane _ _ => laneOk lane
  | .txtsPop port tile => portOk port && tileOk tile
  | .pkgTimeRead port _ => portOk port
  | .schedCreate c => cmdOk c
  | .schedDestroy c => cmdOk c
  | .schedQuery c => cmdOk c
  | .schedPulseDue output => outputOk output
  | .schedGo output _ => outputOk output
  | .calSet c => cmdOk c
  | .calQuery c => cmdOk c
  | .calendarAlign => true
  | .eventIntake tile => tileOk tile
  | .routeCommit route => routeOk route
  | .groupInput index _ => groupInputOk index
  | .groupCommit => true
  | .pinInputEdge pin _ => pinOk pin
  | .pinAction pin _ => pinOk pin
  | .pinEdgeDue pin => pinOk pin
  | .pinPulseEnd pin => pinOk pin
  | .evRouteCreate c => cmdOk c
  | .evRouteDestroy c => cmdOk c
  | .evRouteQuery c => cmdOk c
  | .evPinSet c => cmdOk c
  | .evPinQuery c => cmdOk c
  | .evGroupSet c => cmdOk c
  | .evStatus c => cmdOk c
  | .evPublish c => cmdOk c
  | .evSkewLearn c => cmdOk c
  | .skewLearnDone pin => pinOk pin
  | .motionEdge mi _ _ => motionOk mi
  | .indexEdge mi _ => motionOk mi
  | .standstillExpiry mi => motionOk mi
  | .cmpArmInput mi _ => motionOk mi
  | .tableStartInput mi _ => motionOk mi
  | .presetInput mi _ => motionOk mi
  | .latchInput mi _ => motionOk mi
  | .moPosRead port mi => portOk port && motionOk mi
  | .moConfig c => cmdOk c
  | .moQuery c => cmdOk c
  | .moPreset c => cmdOk c
  | .moCmpCreate c => cmdOk c
  | .moCmpArm c => cmdOk c
  | .moCmpDisarm c => cmdOk c
  | .moTblLoad c => cmdOk c
  | .moTblStart c => cmdOk c
  | .moTblStop c => cmdOk c
  | .moCmpQuery c => cmdOk c
  | .moCmpDestroy c => cmdOk c
  | .heartbeatSend => true
  | .heartbeatLoss => true
  | .renew => true
  | .resign => true
  | .claim => true
  | .grant engine => bitOk engine
  | .handover => true
  | .renewalStaleStop => true
  | .dualWindowEnd => true
  | .takeover => true
  | .takeoverReplies => true
  | .snapshotEpoch => true
  | .journalAckTimeout => true
  | .standbySelftestDone engine _ => bitOk engine
  | .standbyReady engine => bitOk engine
  | .revertHoldExpiry => true
  | .arbGntChange _ => true
  | .ceBootArbWrite port _ => portOk port
  | .cePairQuery c => cmdOk c
  | .cePairSet c => cmdOk c
  | .ceSwitchover c => cmdOk c
  | .ceStandbyRestart c img => cmdOk c && imageOk img
  | .governorSample _ => true
  | .criticalRepeat => true
  | .cStarved tile => tileOk tile
  | .classCQuantumDone tile _ => tileOk tile
  | .pgConfig c => cmdOk c
  | .pgQuery c => cmdOk c
  | .pgTileQuery c => cmdOk c
  | .pgSensorRead c => cmdOk c
  | .healthReportTimer => true
  | .testUnlockExpiry => true
  | .hmQuery c => cmdOk c
  | .hmThreshSet c => cmdOk c
  | .hmReportSet c => cmdOk c
  | .hmTestUnlock c => cmdOk c
  | .hmInject c => cmdOk c
  | .fwQuery c => cmdOk c
  | .fwWrite c => cmdOk c
  | .fwWriteDone img conf _ => imageOk img && confOk conf
  | .fwVerify c img conf => cmdOk c && imageOk img && confOk conf
  | .fwSelect c => cmdOk c
  | .fwRollbackAdvance c _ => cmdOk c
  | .fwPush c img conf => cmdOk c && imageOk img && confOk conf
  | .fwStart c => cmdOk c
  | .tapInstruction _ => true
  | .tileResumeCommit tile => tileOk tile
  | .snapshotEpochComplete => true
  | .timeLockRestored tile _ => tileOk tile
  | .portLinkUp port _ _ _ => portOk port
  | .configRequest port offset _ => portOk port && configOffsetOk offset
  | .motionInputLevel mi _ _ _ => motionOk mi

end Sys2Proof
end

