-- ==== Sys2Proof/Tests/Slice0.lean ====
section
/-!
SUPPORT. Tests: a command that each well-formedness check refuses, the worked values of the manual, and for every statement with
hypotheses a state and operands that meet them.
-/
namespace Sys2Proof.Tests
open Sys2Proof Sys2Proof.Machine
set_option linter.all false
set_option Elab.async false

/-! ### The small states and packets that the tests are about -/

/-- Parameters of a packet: sizes in bytes and values, in order. -/
def ps (l : List (Nat × Nat)) : List Byte := l.flatMap fun x => leBytes x.1 x.2

/-- A packet of port 0 with a target handle and parameters. -/
def cm (h : Nat) (l : List (Nat × Nat)) : Cmd := { port := 0, seq := 7, target := BitVec.ofNat 32 h, params := ps l }

/-- A port that is up, with its memory space, bus mastering and MSI-X enabled. -/
def upPort : Port := { dlActive := true, rate := 5, width := 16, busMaster := true, memSpace := true, msixEnable := true }

def queueOfType (ty : QType) : Queue := { qtype := ty, size := 256, base := 0x1000, state := .running }

/-- The settings of stream channel 0: Mono8, 64 by 4 pixels, delivered and recorded. -/
def set0 : ChanSet :=
  { layout := { destUdp := 50000, pixelFormat := 0x01080001, width := 64, height := 4, deliver := true, record := true }, gen := 1 }

def chan0 : Channel := { live := true, shadow := set0, active := set0, sent := set0 }

def frozenRec : Rec := { seq := 5, pages := 1, tag := zeros 128, data := zeros 256, expo := 0 }

def frozenSeg : Segment :=
  { channel := 0, chanHandle := 0x10020000, preN := 1, postM := 0, state := .frozen, frames := [frozenRec], pages := 2, t := some 0 }

/-- A package in READY with one object of each kind, all owned by port 0: channel 0, the bootstrap pair, a buffer, a completion, an event
and two management queues, two segments, a route, a compare unit, a mover channel, a scheduled output, a rule and a reference. -/
def on : State := { State.reset with
  clock := 10 ^ 12
  pkg := { mode := .ready, target := .ready, resetReleased := true }
  eng := { objs := [(1048576, { owner := 0 }), (2097152, { owner := 0 }), (2097160, { owner := 0 }), (2097172, { owner := 0 }),
    (2097173, { owner := 0 }), (2097174, { owner := 0 }), (2097175, { owner := 0 }), (2097176, { owner := 0 }), (3145728, { owner := 0 }),
    (3145729, { owner := 0 }), (4194304, { owner := 0 }), (5242880, { owner := 0 }), (6291520, { owner := 0 }), (7340032, { owner := 0 }),
    (8388608, { owner := 0 }), (9437184, { owner := 0 })] }
  lanes := [(0, { primary := true, enabled := true, phy := 1, link := .up, rate := 2, ip := 0x0A000001, mask := 0xFFFFFF00, mac := 0x020000000001 })]
  st := { State.reset.st with sources := [(0, { mac := 0x020000000002, ip := 0x0A000002, valid := true })], channels := [(0, chan0)] }
  mv := { State.reset.mv with
    queues := [(0, queueOfType .command), (8, queueOfType .reply), (20, queueOfType .buffer), (21, queueOfType .completion),
      (22, queueOfType .event), (23, queueOfType .management), (24, queueOfType .management)]
    chans := [(64, { raw := true, state := .idle })] }
  host := { State.reset.host with ports := [(0, upPort), (1, upPort)] }
  time := { State.reset.time with now := 10 ^ 12 * 65536, scheds := [(0, { state := 1, period := 65536 * 10000 })] }
  ev := { State.reset.ev with routes := [(0, { form := .publication 3, channel := 4, from_ := 0 })] }
  mo := { State.reset.mo with handles := [(0, 5242880)] }
  ad := { State.reset.ad with
    rules := [(0, { channel := 0 })]
    refs := [(0, { channel := 0, handle := 0x10020000, x0 := 0, y0 := 0, w := 64, h := 4, planes := 1 })] }
  fs := { State.reset.fs with
    segs := [(0, frozenSeg), (1, { frozenSeg with state := .armed, frames := [], pages := 0, t := none })]
    rings := [(0, { target := 8, pages := 8, frames := [frozenRec] })] }
  rd := { State.reset.rd with engines := [(0, { state := .active }), (1, { state := .standby })] } }

/-- The same package in another mode. -/
def inMode (m : Mode) (s : State) : State := { s with pkg := { s.pkg with mode := m, target := m } }
/-- The same package with a change in the service state of a tile. -/
def withTile (p : Nat) (x : Service) (s : State) : State := { s with pkg := { s.pkg with service := [(p, x)] } }
def withChan (c : Channel) : State := { on with st := { on.st with channels := [(0, c)] } }
def withLane (x : Lane) : State := { on with lanes := [(0, x)] }
def withQueue (q : Nat) (v : Queue) : State := { on with mv := { on.mv with queues := tput on.mv.queues q v } }
def withMover (c : Chan) : State := { on with mv := { on.mv with chans := [(64, c)] } }
def withPort (x : Port) : State := { on with host := { on.host with ports := [(0, x)] } }
def withAxis (a : Axis) : State := { on with mo := { on.mo with axes := [(0, a)] } }
def withPin (x : Pin) : State := { on with ev := { on.ev with pins := [(0, x)] } }
def withEngines (a b : CmdEngine) : State := { on with rd := { on.rd with engines := [(0, a), (1, b)] } }
def withCodec (x : CodecEngine) : State := { on with cd := { on.cd with engines := [(0, x)] } }
def withSched (x : Sched) : State := { on with time := { on.time with scheds := [(0, x)] } }
def withSeg (x : Segment) : State := { on with fs := { on.fs with segs := [(0, x)] } }
def withTileOp (o : TileOp) (x : Service) : State := { on with pkg := { on.pkg with service := [(3, x)], tileOps := [(3, o)] } }
def withChange (m : ModeChange) : State := { on with pkg := { on.pkg with changing := true, target := m.target, change := some m } }

/-- An event of source 3, one microsecond ago. -/
def ev0 : Ev := { source := 3, time := 10 ^ 12 - 1000, payload := 0, hops := 0, seq := 1 }
/-- The state with event ev0 waiting at a task input of tile 0. -/
def atInput (i : Nat) (s : State) : State := { s with ev := { s.ev with inputs := [(i, { waiting := [ev0] })] } }
/-- The state once input i has given that event up. -/
def taken (i : Nat) (s : State) : State := { s with ev := { s.ev with inputs := [(i, { taken := 1 })] } }

def leader0 : Leader :=
  { payloadType := 1, timestamp := 0, pixelFormat := 0x01080001, sizeX := 64, sizeY := 4, offsetX := 0, offsetY := 0, padX := 0, padY := 0
    parts := [4] }
def block0 : Block := { id := 1, leader := some leader0, first := 0 }
def gap0 : Gap := { detected := 0, holdoff := 20, retries := 3, interval := 250 }
/-- A frame of channel 0 that is closed and tagged. -/
def frame0 : Frame :=
  { seq := 5, blockId := 1, set := set0, mode := .record, leader := leader0, leaderAt := 0, first := 0, last := 0, expo := 0
    expoEstimated := false, expoClamped := false, holdover := false, deliver := true, record := true, tagged := true, closed := true }

/-- The signed part of a header of each kind, with the base point of P-384 as its key: the private key is 1 (R351). -/
def signedPart (kind : Nat) : List Byte :=
  leBytes 4 0x5EB71A6E ++ leBytes 1 kind ++ [1] ++ zeros 6 ++ [7] ++ zeros 1 ++ leBytes 2 7 ++ zeros 8 ++ leBytes 8 1000 ++ zeros 48
    ++ beBytes 48 base384.x ++ beBytes 48 base384.y
/-- An image of each kind that passes every check, and one that passes none (R351). -/
def goodImage (kind : Nat) : Image :=
  { header := signedPart kind ++ beBytes 48 base384.x ++ beBytes 48 ((sha384 (signedPart kind) + base384.x) % n384) ++ zeros 240
    payloadOk := true, readOk := true }
def badImage : Image := { header := zeros 512, payloadOk := false, readOk := false }
/-- A boot configuration without records. -/
def goodConf : List Byte := leBytes 4 0x5EB70C0F ++ leBytes 4 16 ++ leBytes 4 1 ++ leBytes 4 0

/-- A package in BOOT. -/
def inBootAt (b : BootState) : State := { inMode .boot on with boot := b }

/-- A command packet as it stands in a queue. -/
def packetBytes (op len : Nat) : List Byte := leBytes 2 op ++ leBytes 14 0 ++ leBytes 2 len ++ zeros 14 ++ zeros len

/-- A received frame that carries a UDP datagram from the camera to channel 0. -/
def datagram (body : List Byte) : RxFrame :=
  { bytes := zeros 14 ++ [0x45, 0] ++ beBytes 2 (28 + body.length) ++ zeros 5 ++ [17] ++ zeros 2 ++ beBytes 4 0x0A000002 ++ beBytes 4 0x0A000001
      ++ beBytes 2 3956 ++ beBytes 2 50000 ++ beBytes 2 (8 + body.length) ++ zeros 2 ++ body
    stamp := 0 }
/-- The leader of block 1. -/
def leaderBytes : List Byte :=
  beBytes 2 0 ++ beBytes 2 1 ++ [1] ++ beBytes 3 0 ++ (beBytes 2 0 ++ beBytes 2 1 ++ zeros 8 ++ beBytes 4 0x01080001 ++ beBytes 4 64 ++ beBytes 4 4 ++ zeros 12)

/-- An extended-rate frame of a type, with SEQ 0, NONCE 0 and RATES bit 1. -/
def erReceived (ty : Nat) : RxFrame :=
  { bytes := zeros 14 ++ beBytes 2 0x5EB7 ++ [1] ++ beBytes 1 ty ++ beBytes 2 0 ++ zeros 2 ++ beBytes 4 2 ++ beBytes 4 0, stamp := 0 }

def acceptedB (o : OpDef) (c : Cmd) (s : State) : Bool :=
  commandsRun s && decide (c.params.length ≤ 4096) && decide (o.first c s = s) && (check o c s).isNone && !parityDue c s
theorem accepted_of {o : OpDef} {c : Cmd} {s : State} (h : acceptedB o c s = true) : Accepted o c s := by
  simp only [acceptedB, Bool.and_eq_true, decide_eq_true_eq, Option.isNone_iff_eq_none, Bool.not_eq_true'] at h
  exact ⟨h.1.1.1.1, h.1.1.1.2, h.1.1.2, h.1.2, h.2⟩
/-- A change from READY to STREAM whose TC has come, without a drain. -/
def change0 : ModeChange := { target := .stream, tc := 10 ^ 12, drainNs := none, previous := .ready, wait := 1 }

theorem onGenerations : GenerationsOk on.eng := ⟨by decide, by decide, by decide, by decide, by decide⟩

/-- Descriptor bytes with FLAGS. -/
def descBytes (flags : Nat) : List Byte := leBytes 8 0x100000 ++ leBytes 4 4096 ++ leBytes 4 flags
def stoppedQueue : Queue := { queueOfType .buffer with state := .stopped, stopCode := .eAlign, stopCause := 1 }
def signalledQueue : Queue := { queueOfType .completion with irqEn := true, unsignalled := 1, mask := false }
def eventEntry : PendEntry := { bytes := zeros 32, tile := 0, kind := .event }
def desc0 : Desc := { position := 0, addr := 0x100000, len := 4096, cookie := 9 }
def mgmtUse : MgmtUse := { queue := 23, desc := desc0, result := 64, status := .ok }
/-- A fill of 4096 bytes. -/
def goodRegs : ChanRegs := { count := 4096, srcSpace := 2, dst := 0x100000 }
/-- A set that delivers to the buffer queue 20 and the completion queue 21. -/
def delivering : ChanSet := { set0 with layout := { set0.layout with bufQueue := 0x20020014, cplQueue := 0x20020015 } }
def liveFrame : Frame := { frame0 with set := delivering }
/-- A frame, a buffer and a completion place are there. -/
def readyState : State := { withQueue 20 { queueOfType .buffer with ready := [desc0] } with
  st := { on.st with channels := [(0, { chan0 with frames := [liveFrame] })] } }
def readyTaken : State := { readyState with
  mv := { readyState.mv with queues := tput (tput readyState.mv.queues 20 (queueOfType .buffer)) 21 { queueOfType .completion with reserved := 1 } } }
def delivery0 : Delivery := { tile := 0, channel := 0, frame := 5, bufQueue := 20, cplQueue := 21, desc := desc0 }
/-- A lane that is up and takes part in the exchange of R69. -/
def erLane (e : Exchange) : Lane := { primary := true, enabled := true, phy := 1, link := .up, rate := 2, erEnable := true, er := e }
def ptpHeader : List Byte := beBytes 6 0xFFFFFFFFFFFF ++ beBytes 6 0x020000000009 ++ beBytes 2 0x88F7 ++ zeros 46
/-- A frame of EtherType 0x88F7 with a right check sequence. -/
def ptpBytes0 : List Byte := ptpHeader ++ leBytes 4 (crc32 ptpHeader)
def txDesc : Desc := { desc0 with len := 64 }
def txQueue : Queue := { queueOfType .management with ready := [txDesc] }
/-- Lane 0 with its transmit queue bound to queue 23, which holds a frame. -/
def txState : State := { withQueue 23 txQueue with lanes := [(0, { primary := true, link := .up, txq := 0x20020017 })] }
/-- The state that a command leaves. -/
def after (i : Instr) (s : State) : State := match exec i s with | .next t => t | _ => s
/-- Channel 0 and the datagrams that wait at its lane. -/
def withStream (c : Channel) (l : List RxFrame) : State := { inMode .stream (withChan c) with
  lanes := [(0, { primary := true, enabled := true, phy := 1, link := .up, rate := 2, ip := 0x0A000001, mask := 0xFFFFFF00, mac := 0x020000000001
                  toStream := l })] }
/-- Block 1 with its leader present. -/
def openBlock0 : Block := { block0 with positions := [(0, .present 0 [] false)] }
/-- Scheduled output 0, which sends action command 0. -/
def actionState (a : Action) : State := { withSched { kind := .action, state := 1, period := 65536 * 10000, trains := [10 ^ 12 * 65536] } with
  st := { on.st with actions := [(0, a)] } }
/-- Frame 0 before its tag. -/
def untagged : Frame := { frame0 with tagged := false, decided := true, lines := [[], [], [], []] }
def withHistory (l : List (Nat × U32)) (f : Frame) : State := { withChan { chan0 with frames := [f] } with mo := { axes := [(0, { history := l })] } }
/-- A slice of a frame of 64 by 4 pixels, uncoded, in the buffer of codec engine 0. -/
def slice0 : Slice := { plane := 0, pixels := [List.range 64] }
def sliced : Frame := { untagged with slices := [slice0] }
def withSlice (x : CodecEngine) : State := { withChan { chan0 with frames := [sliced] } with cd := { on.cd with engines := [(0, x)] } }
def ref0 : SliceRef := { channel := 0, frame := 5, number := 0 }
def withCodecChan (x : CodecChan) : State := { on with cd := { on.cd with chans := [(0, x)] } }
/-- A channel whose committed calibration is 1. -/
def calChan : State := withChan { chan0 with active := { set0 with codec := { set0.codec with cal := some { id := 1, offsetQ4 := 1600, kQ16 := 65536, readQ8 := 256 } } } }
def wide : ChanSet := { set0 with layout := { set0.layout with height := 16 } }
def sample0 : CalSample := { wait := 1, dark := true, x0 := 0, y0 := 0, w := 64, h := 4, from_ := 5, pair := some ([1], [2]) }
/-- No active segment on channel 0. -/
def noActive : State := { on with fs := { on.fs with segs := [(0, frozenSeg)] } }
def activeSegment : Segment := { frozenSeg with state := .armed, frames := [], pages := 0, t := none }
def toRecord : Frame := { frame0 with recorded := false }
def withRing (r : Ring) : State := { withChan { chan0 with frames := [toRecord] } with
  fs := { State.reset.fs with segs := [(0, frozenSeg)], rings := [(0, r)] } }
def triggered : Segment := { frozenSeg with state := .triggered, postWaitMs := 100 }
def readout0 : Readout := { wait := 1, buf := 0x20020014, cpl := 0x20020015, chan := 64, left := [0] }
def readDelivery : Delivery := { delivery0 with segment := 0x30020000 }
def withReadout (r : Readout) (d : List Delivery) : State := { on with
  fs := { on.fs with readouts := [(0, r)] }, mv := { on.mv with deliveries := d } }
def map0 : Mapping := { port := 0, segment := 0, offset := 0, bytes := 65536, dir := [] }
def capture0 : Capture := { wait := 1, frames := 4, from_ := 5, next := 9, got := 4, full := true }
def withRef (p : Capture) : State := { on with ad := { on.ad with
  refs := [(0, { channel := 0, handle := 0x10020000, x0 := 0, y0 := 0, w := 64, h := 4, planes := 1, capture := some p })] } }
def ref1 (p : Option Capture) : Reference := { channel := 0, handle := 0x10020000, x0 := 0, y0 := 0, w := 64, h := 4, planes := 1, capture := p }
def withChanges (l : List (Nat × TimeChange)) : State := { on with time := { on.time with changes := l } }
/-- A PTP port that is on, and a slave on lane 0. -/
def withPtp (p : PtpPort) (l : List RxFrame) : State := { on with
  lanes := [(0, { primary := true, enabled := true, phy := 1, link := .up, rate := 2, toTime := l })]
  time := { on.time with ptpPorts := [(0, p)], slaveLane := some 0 } }
def anyFrame : RxFrame := { bytes := zeros 64, stamp := 0 }
def hostClock (l : List Txts) : State := { on with time := { on.time with clock := .host, txts := [(0, l)] } }
def txts0 : Txts := { seqId := 1, lane := 0, msgType := 0, sec := 1, ns := 2, frac := 3 }
/-- Rule 0 of channel 0 with FIRE = ONCE. -/
def onceCfg : RuleCfg :=
  { roi := 0, stat := 0, slice := false, below := false, thresh := 100, fire := 0, hold := 1, outlet := 1, loBin := 0, hiBin := 0, enable := true }
def once : State := withChan { chan0 with active := { set0 with rules := [(0, onceCfg)] } }
/-- A one-step Sync, and a slave whose parent sends it. -/
def syncFrame : RxFrame :=
  { bytes := beBytes 6 0x011B19000000 ++ beBytes 6 0x020000000009 ++ beBytes 2 0x88F7 ++ ([0, 2] ++ beBytes 2 44 ++ zeros 30 ++ zeros 10)
    stamp := 1000 }
def syncMsg : List Byte := [0, 2] ++ beBytes 2 44 ++ zeros 30 ++ zeros 10
def heardSync : State := withPtp { enabled := true, portState := 9 } [syncFrame]
/-- Port 0 alone is connected. -/
def onePort : State := { on with host := { State.reset.host with ports := [(0, upPort)] } }
theorem otherPort (c : Nat) (h : c ≠ 0) : connected onePort c = false := by
  have e : portOf onePort c = {} := by
    show (tget? [(0, upPort)] c).getD {} = {}
    simp [tget?, Ne.symm h, h]
  rw [connected, e]
  decide
/-- A PN_SKEW_RUN that waits. -/
def wait0 : Waiting := { id := 1, op := 0x0A40, cmd := cm 0 [], keys := [], room := 1 }
/-- An output that fires now. -/
def dueSched : Sched := { state := 1, period := 65536 * 10000, trains := [10 ^ 12 * 65536] }
def startSched : Sched := { eventStart := true, state := 1, period := 65536 * 10000, count := 1 }
/-- Events that wait in the fabric of tile 0, and one route. -/
def withEvents (e : Ev) (r : Route) : State := { on with ev := { on.ev with backlog := [(0, [e])], routes := [(0, r)] } }
def fromSource : Route := { form := .publication 3, channel := 4, from_ := 0 }
def toInput0 : Route := { form := .toInput 512, channel := 4, from_ := 0 }
def published : Ev := { ev0 with publish := some 4 }
def closedGroup : State := { withEvents published toInput0 with ev := { (withEvents published toInput0).ev with
  groupCommits := [{ time := 0, byCommand := true, mask := 1, value := 0 }] } }
def retiredRoute : Route := { fromSource with until_ := some (10 ^ 12) }
def outputPin : Pin := { mode := 2 }
def timedPin : Pin := { mode := 2, timed := true, delayNs := 1050 }
def edge0 : PinEdge := { at_ := 4 * 10 ^ 12, action := 0, widthNs := 1000 }
def skew0 : SkewRun := { wait := 1, channel := 0, frames := 16, install := false, targetQ2 := 0, windowNs := 1000, pairs := List.replicate 16 0 }
def withSkew (r : SkewRun) : State := { withPin { mode := 3 } with ev := { on.ev with skew := [(0, r)] } }
/-- An axis in quadrature with its inputs low, in STREAM. -/
def quad : Axis := { inputMode := 3 }
def moving (a : Axis) : State := inMode .stream (withAxis a)
def arm0 : CmpArm := { position := 100, down := false, fireBehind := false }
def tbl0 : TblStart := { base := 0, period := 100, entries := 1, down := false, skipBehind := false, relative := false, cycles := 0 }
def active0 : CmdEngine := { state := .active }
def standby0 : CmdEngine := { state := .standby, image := { state := 1 } }
/-- The pair with the given redundancy state. -/
def withRd (f : RedundState → RedundState) : State := { on with rd := f on.rd }
def arbitrated (source : Nat) : State := { on with boot := { conf := { arbMode := true, arbSource := source } } }
def change1 : EngineChange := { kind := 0, cause := 1, detectedAt := 0, claimedAt := 0 }
def planned0 : PlannedChange := { kind := 1, target := 1, startedAt := 0, startNs32 := 0 }
def job0 : Job := { kind := .scrub, left := 2, since := 0 }
def withJob (j : Job) : State := { on with gov := { on.gov with tiles := [(0, { jobs := [j] })] } }
/-- A boot block of port 1 that an OPEN was written to. -/
def opened (b : BootBlock) : State := { on with eng := { on.eng with bootBlocks := [(1, { b with opening := true })] } }
/-- The package after supply entry with RESET_N high, and once it has gone low. -/
def suppliesBack (low : Option Nat) : State := { on with pkg := { mode := .reset, resetReleased := false, needsLow := true, lowSince := low } }
def withBoot (b : BootState) : State := { on with boot := b }
/-- The ring of channel 0 with an armed segment, and a page pool of tile 0 that the delivery backlog has used up. -/
def withArmed (r : Ring) : State := { withRing r with fs := { (withRing r).fs with segs := [(1, activeSegment)] } }
def poolUsed (s : State) : State := { s with gov := { s.gov with tiles := [(0, { backlog := 747008 })] } }
def older : Rec := { frozenRec with seq := 4 }
/-- A frame of two pages. -/
def big : Frame := { toRecord with data := zeros 65500 }
def withBig : State := poolUsed { withRing { target := 1, pages := 1 } with st := { on.st with channels := [(0, { chan0 with frames := [big] })] } }
theorem data_length (n : Nat) : (frameData { toRecord with data := zeros n }).length = n := by
  simp [frameData, toRecord, frame0, partTable, leader0, zeros]
theorem big_pages : (recordOf withBig 0 big).pages = 2 := by
  rw [recordOf, big, data_length]
theorem big_recordable : Recordable withBig 0 big :=
  ⟨rfl, rfl, by decide +kernel, by decide +kernel, by decide +kernel⟩
/-- A frame in BOUNDED whose first band waits. -/
def coded : Frame := { frame0 with set := { set0 with codec := { set0.codec with mode := .bounded } } }
/-- A delivery of which nothing is written, in a package without mover channels in use. -/
def delivers : State := { on with mv := { on.mv with chans := [], deliveries := [delivery0] } }
def withDet (k : Nat) (x : Det) : State := { inMode .test on with hm := { on.hm with dets := [(k, x)] } }
/-- A package where no port is connected, with a pending vector. -/
def noPorts : State := { on with host := { State.reset.host with vectors := [(2047, { pending := true })] } }

/-! ### Commands with an operand that the manual does not number (WellFormed refuses each) -/

theorem test_wf_port : WellFormed (.registerWrite 8 0 ⟨0, 15⟩) = false := by decide
theorem test_wf_control_offset : WellFormed (.registerWrite 0 (2 ^ 27) ⟨0, 15⟩) = false := by decide
theorem test_wf_tile : WellFormed (.tileTrained 8) = false := by decide
theorem test_wf_lane : WellFormed (.eyeScanComplete 64 []) = false := by decide
theorem test_wf_channel : WellFormed (.resendRequest 512) = false := by decide
theorem test_wf_mover_channel : WellFormed (.mvStart 0 4096) = false := by decide
theorem test_wf_queue : WellFormed (.cmdQueueDoorbell 0 16384 0) = false := by decide
theorem test_wf_command_queue : WellFormed (.commandTake 0 8 (zeros 32) badImage [] true) = false := by decide
theorem test_wf_packet : WellFormed (.commandTake 0 0 (zeros 31) badImage [] true) = false := by decide
theorem test_wf_motion : WellFormed (.positionHistoryRecord 16) = false := by decide
theorem test_wf_pin : WellFormed (.pinInputEdge 80 ⟨true, 0⟩) = false := by decide
theorem test_wf_reference : WellFormed (.refCaptured 512) = false := by decide
theorem test_wf_segment : WellFormed (.postWaitExpiry 131072) = false := by decide
theorem test_wf_route : WellFormed (.routeCommit 32768) = false := by decide
theorem test_wf_output : WellFormed (.actionSend 64) = false := by decide
theorem test_wf_codec_engine : WellFormed (.codecBacklogHigh 0 4) = false := by decide
theorem test_wf_group_input : WellFormed (.groupInput 671 1) = false ∧ WellFormed (.groupInput 736 1) = false := by decide
theorem test_wf_microcode_slot : WellFormed (.microcodeLoad 4 badImage) = false ∧ WellFormed (.microcodeLoad 1 badImage) = false := by decide
theorem test_wf_detector : WellFormed (.hwDetectorOccurrence 0 20 0 (.act (some .unused))) = false := by decide
theorem test_wf_unit : WellFormed (.hwDetectorOccurrence 0 0 256 (.act (some .unused))) = false := by decide
theorem test_wf_vector : WellFormed (.msixUnmask 0 2048) = false := by decide
theorem test_wf_intx : WellFormed (.intxStatusClear 0 64 0) = false := by decide
theorem test_wf_copy : WellFormed (.bootLoaderLoad 2 badImage) = false := by decide
theorem test_wf_image : WellFormed (.bootLoaderLoad 0 { badImage with header := zeros 511 }) = false := by decide +kernel
theorem test_wf_store_offset : WellFormed (.storeRead 0 (2 ^ 39) 4) = false := by decide
theorem test_wf_compat_offset : WellFormed (.compatAccess 0 (2 ^ 28) ⟨4, none, 15⟩) = false := by decide
theorem test_wf_config_offset : WellFormed (.configRequest 0 4096 none) = false := by decide
/-- The sizes of the operands that are runs of bytes. -/
theorem confOk_zeros (n : Nat) : confOk (zeros n) = decide (n ≤ 65536) := by simp [confOk, zeros]
theorem cmdOk_zeros (n : Nat) : cmdOk { port := 0, params := zeros n } = decide (n < 65536) := by simp [cmdOk, portOk, zeros]
theorem savedOk_zeros (n : Nat) : savedOk [{ tile := 0, addr := 0, bytes := zeros n }] = decide (n ≤ 131072) := by simp [savedOk, zeros]
theorem test_wf_boot_configuration : WellFormed (.bootConfigLoad (zeros 65537) []) = false := by
  rw [WellFormed, confOk_zeros]; decide
theorem test_wf_parameters : WellFormed (.modeSet { port := 0, params := zeros 65536 }) = false := by
  rw [WellFormed, cmdOk_zeros]; decide
theorem test_wf_saved_writes : WellFormed (.portLinkDown 0 [{ tile := 0, addr := 0, bytes := zeros 131073 }]) = false := by
  rw [WellFormed, savedOk_zeros]; decide

/-! ### The manual's own worked values -/

/-- R121: the check value of "123456789". -/
theorem test_crc_check_value : crc32 [0x31, 0x32, 0x33, 0x34, 0x35, 0x36, 0x37, 0x38, 0x39] = 0xCBF43926 := by decide +kernel

/-- Table 7-4: the corner slice of 2 by 4 pixels of 12 bits, BOUNDED with k = 2. -/
theorem test_corner_slice : codeSlice 12 0 { map := .uniform 2, noise := false, param := 2, calId := 0 }
    [[1000, 1003, 1010, 1018], [1001, 1006, 1013, 1040]]
    = (0, [0x10, 0x0C, 0x02, 0x00, 0x00, 0x00, 0x01, 0x03, 0x32, 0x00, 0x84, 0x08, 0x68, 0x00, 0x00, 0x00]) := by decide +kernel

/-- Table 4-5: the OFFER of lane 12. -/
theorem test_offer_frame : erFrame { mac := 0x025EB700000C, er := { nonce := 0x3A6C910E } } erOffer 1 0
    = [0x01, 0x80, 0xC2, 0x00, 0x00, 0x0E, 0x02, 0x5E, 0xB7, 0x00, 0x00, 0x0C, 0x88, 0xB5, 0x5E, 0xB7, 0x01, 0x01, 0x00, 0x01, 0x01, 0x00,
       0x00, 0x00, 0x00, 0x03, 0x3A, 0x6C, 0x91, 0x0E] ++ zeros 30 := by decide +kernel

/-- The ADOPT packet of Table 3-10. -/
def adoptPacket : List Byte :=
  [0x22, 0x01, 0x05, 0x00, 0x31, 0x0A, 0x00, 0x00, 0x05, 0x00, 0x04, 0x12, 0x11, 0x00, 0x00, 0x00, 0x04, 0x00] ++ zeros 46
theorem test_adopt_packet : packetOp adoptPacket = 0x0122 ∧ parsePacket 2 0 adoptPacket
    = { port := 2, queue := 0, flags := 0x0005, seq := 0x00000A31, target := 0x12040005, expectGen := 17, params := zeros 4 } := by decide +kernel

/-- R124: NS32 4,000,000,000 against an anchor at 5 s. -/
theorem test_extend_ns32 : extend32 4000000000 5000000000 = 4000000000 := by decide +kernel

/-- Table 2-10: PKG_TILE_SERVICE at the end of BOOT, on the three parts. -/
theorem test_tile_service : regValue on 0x10C = 0 ∧ regValue { on with part := .fv432 } 0x10C = 0x77770000
    ∧ regValue { on with part := .fv216 } 0x10C = 0x77777700 := by decide +kernel

/-- R372: IDCODE of the three parts. -/
theorem test_idcode : idcode { on with part := .fv216 } = 0x102165E7 ∧ idcode { on with part := .fv432 } = 0x104325E7
    ∧ idcode on = 0x108645E7 := by decide +kernel

/-- Table 13-5: EV_PIN_TRIM of GTIO 0 of tile 2 with the trim −14. -/
theorem test_pin_trim : regValue { on with ev := { on.ev with pins := [(20, { trimQ2 := -14 })] } } 0x1D01014 = 0x0003FFF2 := by decide +kernel

/-- The example of chapter 11: window 5 holds 0x0080_0001 and 0. -/
def window5 : State := { withPort { upPort with compatActive := [(5, compatEntry (leBytes 4 0x00800001 ++ leBytes 4 0) 0)] } with
  boot := { conf := { compatEnable := true } } }
/-- COMPAT offset 0x140_4000 then reads CONTROL offset 0x080_4000, the window of global lane 4. -/
theorem test_compat_window : compatAccess 0 0x1404000 ⟨4, none, 15⟩ window5 = readControl 0 0x804000 window5 := by decide +kernel

/-! ### Every statement with hypotheses: a state and operands that meet them, clause by clause -/

theorem test_witness_EmptyQueueLetsTimePass :
    (∃ (s : State), s.pending = []) :=
  ⟨on, by decide +kernel⟩

theorem test_witness_PackageCommandsComplete :
    (∃ (c : _) (s : State), Accepted opNop c s)
    ∧ (∃ (c : _) (s : State), Accepted opPkgInfo c s)
    ∧ (∃ (c : _) (s : State), Accepted opModeQuery c s)
    ∧ (∃ (c : _) (s : State), Accepted opMasterSet c s)
    ∧ (∃ (c : _) (s : State), Accepted opMasterClaim c s)
    ∧ (∃ (c : _) (s : State), Accepted opPkgReset c s) :=
  ⟨⟨cm 0 [(4, 9)], on, accepted_of (by decide +kernel)⟩,
    ⟨cm 0 [], on, accepted_of (by decide +kernel)⟩,
    ⟨cm 0 [], on, accepted_of (by decide +kernel)⟩,
    ⟨cm 0 [(1, 1), (3, 0)], on, accepted_of (by decide +kernel)⟩,
    ⟨cm 0 [], on, accepted_of (by decide +kernel)⟩,
    ⟨cm 0 [(4, 0x5EB7)], on, accepted_of (by decide +kernel)⟩⟩

theorem test_witness_BootstrapPairsOpen :
    (∃ (p : _) (s : State), p < tiles s)
    ∧ (∃ (p : _) (b : _) (s : State), p < tiles s ∧ p ≠ b)
    ∧ (∃ (p : _) (s : State), (blockOfPort s p).opening = true ∧ 4 ≤ modeCode s.pkg.mode ∧ (blockOfPort s p).state ≠ 1 ∧ badLog2 (blockOfPort s
      p).cqLog2 = false ∧ badLog2 (blockOfPort s p).rqLog2 = false)
    ∧ (∃ (p : _) (s : State), (blockOfPort s p).opening = true ∧ modeCode s.pkg.mode < 4)
    ∧ (∃ (p : _) (s : State), (blockOfPort s p).opening = true ∧ 4 ≤ modeCode s.pkg.mode ∧ (blockOfPort s p).state = 1)
    ∧ (∃ (p : _) (s : State), (blockOfPort s p).opening = true ∧ 4 ≤ modeCode s.pkg.mode ∧ (blockOfPort s p).state ≠ 1 ∧ (badLog2 (blockOfPort s
      p).cqLog2 = true ∨ badLog2 (blockOfPort s p).rqLog2 = true))
    ∧ (∃ (s : State) (n : _), s.pkg.vacancyAt = some n ∧ n ≤ s.clock) :=
  ⟨⟨7, on, by decide +kernel⟩,
    ⟨7, 0, on, by decide +kernel⟩,
    ⟨1, { on with eng := { on.eng with bootBlocks := [(1, { opening := true })] } }, by decide +kernel⟩,
    ⟨1, { inMode .boot on with eng := { on.eng with bootBlocks := [(1, { opening := true })] } }, by decide +kernel⟩,
    ⟨1, opened { state := 1 }, by decide +kernel⟩,
    ⟨1, opened { cqLog2 := 7 }, by decide +kernel, by decide +kernel, by decide +kernel, Or.inl (by decide)⟩,
    ⟨{ on with pkg := { on.pkg with vacancyAt := some (10 ^ 12) } }, 10 ^ 12, by decide +kernel⟩⟩

theorem test_witness_RefusedCommandChangesNothing :
    (∃ (i : Instr) (s : State) (o : OpDef) (c : Cmd), opRow i = some (o, c) ∧ commandsRun s = true ∧ c.params.length ≤ 4096)
    ∧ (∃ (i : Instr) (s : State) (o : OpDef) (c : Cmd) (f : Fail), opRow i = some (o, c) ∧ commandsRun s = true ∧ c.params.length ≤ 4096 ∧ check o
      c (afterEvents o c s) = some f) :=
  ⟨⟨.modeSet (cm 0 [(1, 2), (7, 0)]), on, opModeSet, cm 0 [(1, 2), (7, 0)], rfl, by decide +kernel⟩,
    ⟨.modeSet (cm 0 [(1, 2), (7, 0)]), on, opModeSet, cm 0 [(1, 2), (7, 0)], { status := .eParam, detail := 32 }, rfl, by decide +kernel⟩⟩

theorem test_witness_TooLongPacketIsDiscarded :
    (∃ (i : Instr) (s : State) (o : OpDef) (c : Cmd), opRow i = some (o, c) ∧ commandsRun s = true ∧ 4096 < c.params.length)
    ∧ (∃ (len : _) (s : State), commandsRun s = true ∧ 4096 < len)
    ∧ (∃ (c : Cmd) (s : State) (v : _), queue? s (cmdQueue c.port c.queue) = some v) :=
  ⟨⟨.nop { port := 0, params := zeros 4097 }, on, opNop, { port := 0, params := zeros 4097 }, rfl, by decide +kernel⟩,
    ⟨4097, on, by decide +kernel⟩,
    ⟨cm 0 [], on, queueOfType .command, by decide +kernel⟩⟩

theorem test_witness_UndefinedOpcodeAnswersEOpcode :
    (∃ (op : _) (o : _), opOf op = some o)
    ∧ (∃ (op : _), (op / 256 = 0 ∨ 15 < op / 256))
    ∧ (∃ (op : _) (c : _) (s : State), commandsRun s = true ∧ opOf op = none ∧ c.params.length ≤ 4096 ∧ headerBad c = none)
    ∧ (∃ (op : _) (c : _) (s : State) (off : _), commandsRun s = true ∧ opOf op = none ∧ c.params.length ≤ 4096 ∧ headerBad c = some off) :=
  ⟨⟨0x0F11, opFwStart, rfl⟩,
    ⟨0x1000, by decide +kernel⟩,
    ⟨0x01FF, cm 0 [], on, by decide +kernel⟩,
    ⟨0x01FF, { port := 0, flags := 0x10 }, on, 2, by decide +kernel⟩⟩

theorem test_witness_ReplyIsWrittenToItsQueue :
    (∃ (c : Cmd) (a : Answer) (s : State) (v : Queue), c.queue < 8 ∧ s.eng.quiet = false ∧ connected s c.port = true ∧ queue? s (replyQueue
      c.port c.queue) = some v ∧ v.heldReplies = [] ∧ (v.dev - v.host).toNat + slotsFor a.result.length ≤ v.size ∧ bit c.flags.toNat 2 =
      false) :=
  ⟨cm 0 [], {}, on, queueOfType .reply, by decide +kernel⟩

theorem test_witness_QuietEngineHoldsReplies :
    (∃ (s : State), s.eng.quiet = true) :=
  ⟨{ on with eng := { on.eng with quiet := true } }, by decide +kernel⟩

theorem test_witness_CommandsChangeOnlyTheirParts :
    (∃ (i : Instr) (s : State) (t : State), exec i s = .next t) :=
  ⟨.vddIoLoss, on, after .vddIoLoss on, rfl⟩

theorem test_witness_OutputIsOnlyAppended :
    (∃ (i : Instr) (s : State) (t : State), exec i s = .next t) :=
  ⟨.vddIoLoss, on, after .vddIoLoss on, rfl⟩

theorem test_witness_RollbackCounterNeverFalls :
    (∃ (s : State) (t : State), step s = .next t) :=
  ⟨{ on with pending := [.vddIoLoss] }, after .vddIoLoss on, rfl⟩

theorem test_witness_StepsKeepGenerations :
    (∃ (s : State) (t : State), GenerationsOk s.eng ∧ step s = .next t) :=
  ⟨{ on with pending := [.vddIoLoss] }, after .vddIoLoss on, onGenerations, rfl⟩

theorem test_witness_HandlesReadAsTheirFields :
    (∃ (kind : _) (tile : _) (gen : _) (index : _), kind < 2 ^ 4 ∧ tile < 2 ^ 3 ∧ gen < 2 ^ 8 ∧ index < 2 ^ 17)
    ∧ (∃ (h : _), h < 2 ^ 32)
    ∧ (∃ (s : State) (h : Nat), GenerationsOk s.eng ∧ handleLive s h = true) :=
  ⟨⟨2, 5, 3, 64, by decide +kernel⟩,
    ⟨0x2A060040, by decide +kernel⟩,
    ⟨on, 0x10020000, onGenerations, by decide +kernel⟩⟩

theorem test_witness_StepsKeepModeFields :
    (∃ (s : State) (t : State), PkgOk s.pkg ∧ step s = .next t) :=
  ⟨{ on with pending := [.vddIoLoss] }, after .vddIoLoss on, ⟨by decide, by decide⟩, rfl⟩

theorem test_witness_ModeSetStartsAChange :
    (∃ (c : _) (s : State), Accepted opModeSet c s ∧ par c 0 1 = modeCode s.pkg.mode)
    ∧ (∃ (c : _) (s : State) (m : _), Accepted opModeSet c s ∧ modeOfCode (par c 0 1) = some m ∧ m ≠ s.pkg.mode) :=
  ⟨⟨cm 0 [(1, 5), (7, 0)], on, accepted_of (by decide +kernel), by decide +kernel⟩,
    ⟨cm 0 [(1, 6), (7, 0)], on, .stream, accepted_of (by decide +kernel), by decide +kernel⟩⟩

theorem test_witness_ModeChangesCommitAndEnd :
    (∃ (s : State) (m : _), s.pkg.change = some m ∧ m.committed = false ∧ m.tc ≤ ns s)
    ∧ (∃ (s : State) (m : _), s.pkg.change = some m ∧ m.committed = false ∧ m.tc ≤ ns s ∧ m.drainNs = none)
    ∧ (∃ (s : State) (m : _), s.pkg.change = some m ∧ ns s < m.tc)
    ∧ (∃ (s : State) (m : _), s.pkg.change = some m ∧ m.committed = true ∧ drained s m.tiles.contains = true)
    ∧ (∃ (s : State) (m : _) (n : _), s.pkg.change = some m ∧ m.committed = true ∧ m.drainNs = some n ∧ m.committedAt + n ≤ s.clock) :=
  ⟨⟨withChange change0, change0, by decide +kernel⟩,
    ⟨withChange change0, change0, by decide +kernel⟩,
    ⟨withChange { change0 with tc := 10 ^ 12 + 1 }, { change0 with tc := 10 ^ 12 + 1 }, by decide +kernel⟩,
    ⟨withChange { change0 with committed := true }, { change0 with committed := true }, by decide +kernel⟩,
    ⟨withChange { change0 with committed := true, drainNs := some (10 ^ 12) }, { change0 with committed := true, drainNs := some (10 ^ 12) }, 10
      ^ 12, by decide +kernel⟩⟩

theorem test_witness_TilesQuiesceAndResume :
    (∃ (c : _) (s : State), Accepted opTileQuiesce c s ∧ service s (par c 0 1) = .quiesced)
    ∧ (∃ (c : _) (s : State), Accepted opTileQuiesce c s ∧ service s (par c 0 1) ≠ .quiesced)
    ∧ (∃ (p : _) (s : State) (o : _), tileOp s p = some o ∧ o.kind = .quiesce ∧ o.committed = false ∧ o.tc ≤ ns s)
    ∧ (∃ (p : _) (s : State) (o : _), tsorted 0 s.pkg.tileOps = true ∧ tileOp s p = some o ∧ o.kind = .quiesce ∧ o.committed = true ∧ drained s (·
      == p) = true)
    ∧ (∃ (p : _) (s : State) (o : _), tsorted 0 s.pkg.tileOps = true ∧ tileOp s p = some o ∧ o.kind = .quiesce ∧ o.committed = true ∧
      o.committedAt + o.drainNs ≤ s.clock)
    ∧ (∃ (c : _) (s : State), Accepted opTileResume c s ∧ service s (par c 0 1) = .inService)
    ∧ (∃ (c : _) (s : State), Accepted opTileResume c s ∧ service s (par c 0 1) ≠ .inService)
    ∧ (∃ (p : _) (s : State) (o : _), tileOp s p = some o ∧ o.kind = .resume ∧ o.tc ≤ ns s) :=
  ⟨⟨cm 0 [(1, 3), (7, 0)], withTile 3 .quiesced on, accepted_of (by decide +kernel), by decide +kernel⟩,
    ⟨cm 0 [(1, 3), (7, 0)], on, accepted_of (by decide +kernel), by decide +kernel⟩,
    ⟨3, withTileOp { kind := .quiesce, tc := 10 ^ 12, wait := some 1 } .draining, { kind := .quiesce, tc := 10 ^ 12, wait := some 1 },
      by decide +kernel⟩,
    ⟨3, withTileOp { kind := .quiesce, committed := true, wait := some 1 } .draining, { kind := .quiesce, committed := true, wait := some 1 },
      by decide +kernel⟩,
    ⟨3, withTileOp { kind := .quiesce, committed := true, drainNs := 10 ^ 12, wait := some 1 } .draining,
      { kind := .quiesce, committed := true, drainNs := 10 ^ 12, wait := some 1 }, by decide +kernel⟩,
    ⟨cm 0 [(1, 3), (3, 0)], on, accepted_of (by decide +kernel), by decide +kernel⟩,
    ⟨cm 0 [(1, 3), (3, 0)], withTile 3 .quiesced on, accepted_of (by decide +kernel), by decide +kernel⟩,
    ⟨3, withTileOp { kind := .resume, tc := 10 ^ 12, wait := some 1 } .quiesced, { kind := .resume, tc := 10 ^ 12, wait := some 1 },
      by decide +kernel⟩⟩

theorem test_witness_TilesPowerDownAndRejoin :
    (∃ (c : _) (s : State), Accepted opTilePowerDown c s ∧ service s (par c 0 1) = .outOfService)
    ∧ (∃ (c : _) (s : State), Accepted opTilePowerDown c s ∧ service s (par c 0 1) ≠ .outOfService)
    ∧ (∃ (p : _) (s : State) (o : _), p ≠ 0 ∧ tileOp s p = some o ∧ o.kind = .powerDown)
    ∧ (∃ (c : _) (s : State), Accepted { opTilePowerDown with wrong := fun _ _ => false } c s ∧ service s (par c 0 1) ≠ .outOfService ∧ (service s
      (par c 0 1) ≠ .quiesced ∨ par c 0 1 = 0 ∨ par c 0 1 = engineTile s s.eng.active ∨ par c 0 1 = s.pkg.masterPort))
    ∧ (∃ (c : _) (s : State), Accepted opTileRejoin c s ∧ service s (par c 0 1) = .inService)
    ∧ (∃ (c : _) (s : State), Accepted opTileRejoin c s ∧ service s (par c 0 1) ≠ .inService)
    ∧ (∃ (p : _) (s : State) (o : _), tileOp s p = some o ∧ o.kind = .rejoin ∧ service s p = .outOfService)
    ∧ (∃ (p : _) (img : _) (s : State) (o : _), tileOp s p = some o ∧ o.kind = .rejoin ∧ service s p = .outOfService ∧ flashResult s (if
      s.boot.conf.microcode1 then 3 else 2) 0 img = 1)
    ∧ (∃ (p : _) (s : State) (o : _), tileOp s p = some o ∧ o.kind = .rejoin ∧ service s p = .rejoining)
    ∧ (∃ (p : _) (s : State) (o : _), tileOp s p = some o ∧ o.kind = .rejoin ∧ service s p = .rejoining)
    ∧ (∃ (c : _) (s : State), Accepted opTileQuery c s) :=
  ⟨⟨cm 0 [(1, 3), (3, 0)], withTile 3 .outOfService on, accepted_of (by decide +kernel), by decide +kernel⟩,
    ⟨cm 0 [(1, 3), (3, 0)], withTile 3 .quiesced on, accepted_of (by decide +kernel), by decide +kernel⟩,
    ⟨3, withTileOp { kind := .powerDown, wait := some 1 } .quiesced, { kind := .powerDown, wait := some 1 }, by decide +kernel⟩,
    ⟨cm 0 [(1, 3), (3, 0)], on, accepted_of (by decide +kernel), by decide +kernel⟩,
    ⟨cm 0 [(1, 3), (3, 0)], on, accepted_of (by decide +kernel), by decide +kernel⟩,
    ⟨cm 0 [(1, 3), (3, 0)], withTile 3 .outOfService on, accepted_of (by decide +kernel), by decide +kernel⟩,
    ⟨3, withTileOp { kind := .rejoin, wait := some 1 } .outOfService, { kind := .rejoin, wait := some 1 }, by decide +kernel⟩,
    ⟨3, goodImage 3, withTileOp { kind := .rejoin, wait := some 1 } .outOfService, { kind := .rejoin, wait := some 1 }, by decide +kernel⟩,
    ⟨3, withTileOp { kind := .rejoin, wait := some 1 } .rejoining, { kind := .rejoin, wait := some 1 }, by decide +kernel⟩,
    ⟨3, withTileOp { kind := .rejoin, wait := some 1 } .rejoining, { kind := .rejoin, wait := some 1 }, by decide +kernel⟩,
    ⟨cm 0 [(1, 3), (3, 0)], on, accepted_of (by decide +kernel)⟩⟩

theorem test_witness_FabricLinksFailAndReturn :
    (∃ (p : _) (u : _) (s : State), serving s p = true ∧ (linkNumber s p u).isSome = true)
    ∧ (∃ (p : _) (u : _) (s : State), serving s p = true ∧ (linkNumber s p u).isSome = true)
    ∧ (∃ (p : _) (u : _) (l : _) (s : State), serving s p = true ∧ 16 ≤ tget 0 s.pkg.linkRetries (p * 2 + u) ∧ linkNumber s p u = some l ∧ tget
      false s.pkg.linkDown l = false)
    ∧ (∃ (l : _) (s : State), tget false s.pkg.linkDown l = true) :=
  ⟨⟨7, 1, on, by decide +kernel⟩,
    ⟨0, 0, on, by decide +kernel⟩,
    ⟨2, 1, 1, { on with pkg := { on.pkg with linkRetries := [(5, 16)] } }, by decide +kernel⟩,
    ⟨1, { on with pkg := { on.pkg with linkDown := [(1, true)] } }, by decide +kernel⟩⟩

theorem test_witness_SuppliesMoveThePackage :
    (∃ (s : State), s.pkg.mode = .off)
    ∧ (∃ (s : State), s.pkg.mode ≠ .off)
    ∧ (∃ (s : State), s.pkg.vddIo = true ∧ s.pkg.mode = .backup)
    ∧ (∃ (s : State), s.pkg.vddIo = true ∧ s.pkg.mode ≠ .backup)
    ∧ (∃ (s : State), s.pkg.vddIo = false ∧ s.pkg.mode = .backup)
    ∧ (∃ (s : State), s.pkg.vddIo = false ∧ s.pkg.mode ≠ .backup)
    ∧ (∃ (s : State), modeCode s.pkg.mode < 2)
    ∧ (∃ (s : State), 2 ≤ modeCode s.pkg.mode)
    ∧ (∃ (s : State), s.pkg.mainOk = true ∧ modeCode s.pkg.mode < 2)
    ∧ (∃ (s : State), s.pkg.mainOk = true ∧ 2 ≤ modeCode s.pkg.mode)
    ∧ (∃ (s : State), s.pkg.mainOk = false)
    ∧ (∃ (s : State), s.pkg.vbat = false)
    ∧ (∃ (s : State), s.pkg.vbat = true)
    ∧ (∃ (s : State), 2 ≤ modeCode s.pkg.mode) :=
  ⟨⟨inMode .off on, by decide +kernel⟩,
    ⟨on, by decide +kernel⟩,
    ⟨inMode .backup on, by decide +kernel⟩,
    ⟨on, by decide +kernel⟩,
    ⟨{ on with pkg := { mode := .backup, vddIo := false } }, by decide +kernel⟩,
    ⟨{ on with pkg := { mode := .reset, vddIo := false } }, by decide +kernel⟩,
    ⟨inMode .backup on, by decide +kernel⟩,
    ⟨inMode .reset on, by decide +kernel⟩,
    ⟨inMode .backup on, by decide +kernel⟩,
    ⟨on, by decide +kernel⟩,
    ⟨{ on with pkg := { on.pkg with mainOk := false } }, by decide +kernel⟩,
    ⟨{ on with pkg := { on.pkg with vbat := false } }, by decide +kernel⟩,
    ⟨{ on with pkg := { on.pkg with vbat := true } }, by decide +kernel⟩,
    ⟨on, by decide +kernel⟩⟩

theorem test_witness_ResetBallAndTap :
    (∃ (s : State), 2 ≤ modeCode s.pkg.mode)
    ∧ (∃ (s : State), s.pkg.resetReleased = false ∧ s.pkg.mode = .reset ∧ s.pkg.mainOk = true ∧ (s.pkg.needsLow = false ∨ (∃ n, s.pkg.lowSince =
      some n ∧ n + 10000 ≤ s.clock)))
    ∧ (∃ (s : State), s.pkg.resetReleased = false ∧ s.pkg.needsLow = true ∧ (∀ n, s.pkg.lowSince = some n → s.clock < n + 10000) ∧ s.boot.tap ≠
      .other)
    ∧ (∃ (s : State), modeCode s.pkg.mode < 2)
    ∧ (∃ (s : State), s.pkg.resetReleased = true)
    ∧ (∃ (s : State), s.boot.tapDrives = false)
    ∧ (∃ (s : State), s.boot.tapDrives = false)
    ∧ (∃ (s : State), s.boot.tapDrives = false ∧ s.pkg.resetReleased = true)
    ∧ (∃ (s : State), s.boot.tapDrives = false ∧ s.pkg.resetReleased = false)
    ∧ (∃ (s : State) (r : TapInstr), s.boot.tapDrives = true ∧ (r = .bypass ∨ r = .reset)) :=
  ⟨⟨inMode .reset on, by decide +kernel⟩,
    ⟨suppliesBack (some (10 ^ 12 - 10000)), by decide +kernel, by decide +kernel, by decide +kernel, Or.inr ⟨10 ^ 12 - 10000, rfl, by decide⟩⟩,
    ⟨suppliesBack (some (10 ^ 12 - 9999)), by decide +kernel, by decide +kernel, fun n h => Option.some.inj h ▸ by decide, by decide +kernel⟩,
    ⟨inMode .backup on, by decide +kernel⟩,
    ⟨on, by decide +kernel⟩,
    ⟨on, by decide +kernel⟩,
    ⟨on, by decide +kernel⟩,
    ⟨on, by decide +kernel⟩,
    ⟨{ on with pkg := { mode := .reset, resetReleased := false } }, by decide +kernel⟩,
    ⟨withBoot { tapDrives := true }, TapInstr.bypass, by decide +kernel⟩⟩

theorem test_witness_BootLoadsLoaderAndMicrocode :
    (∃ (copy : _) (img : _) (s : State), inBoot s = true ∧ s.boot.stage = 0 ∧ copy = b2n s.boot.loaderFailed ∧ flashResult s 5 copy img = 1)
    ∧ (∃ (img : _) (s : State), inBoot s = true ∧ s.boot.stage = 0 ∧ s.boot.loaderFailed = false ∧ flashResult s 5 0 img ≠ 1)
    ∧ (∃ (img : _) (s : State), inBoot s = true ∧ s.boot.stage = 0 ∧ s.boot.loaderFailed = true ∧ flashResult s 5 1 img ≠ 1)
    ∧ (∃ (s : State), inBoot s = true ∧ s.boot.confRead = false ∧ s.boot.stage = 1)
    ∧ (∃ (slot : _) (img : _) (s : State), inBoot s = true ∧ s.boot.stage = 2 ∧ (nextSlot s.boot.conf.microcode1 s.boot.m0Result
      s.boot.m1Result).map (2 + ·) = some slot ∧ flashResult s slot 0 img = 1)
    ∧ (∃ (slot : _) (img : _) (s : State), inBoot s = true ∧ s.boot.stage = 2 ∧ (nextSlot s.boot.conf.microcode1 s.boot.m0Result
      s.boot.m1Result).map (2 + ·) = some slot ∧ flashResult s slot 0 img ≠ 1) :=
  ⟨⟨1, goodImage 1, inBootAt { loaderFailed := true }, by decide +kernel⟩,
    ⟨badImage, inBootAt {}, by decide +kernel⟩,
    ⟨badImage, inBootAt { loaderFailed := true }, by decide +kernel⟩,
    ⟨inBootAt { stage := 1 }, by decide +kernel⟩,
    ⟨3, goodImage 3, inBootAt { stage := 2, m0Result := 5 }, by decide +kernel⟩,
    ⟨2, badImage, inBootAt { stage := 2 }, by decide +kernel⟩⟩

theorem test_witness_BootStartsAlfelAndEnds :
    (∃ (slot : _) (img : _) (s : State), inBoot s = true ∧ s.boot.stage = 3 ∧ nextSlot s.boot.conf.primaryB s.boot.aResult s.boot.bResult = some
      slot ∧ isTrained s 0 = false ∧ flashResult s slot 0 img = 1)
    ∧ (∃ (slot : _) (img : _) (s : State), inBoot s = true ∧ s.boot.stage = 3 ∧ nextSlot s.boot.conf.primaryB s.boot.aResult s.boot.bResult = some
      slot ∧ flashResult s slot 0 img ≠ 1)
    ∧ (∃ (o : ImageCheck) (m : ImageCheck) (a : ImageCheck) (s : State), goldenDue s = true ∧ flashResult s 4 0 { o with parts := [m, a] } = 1)
    ∧ (∃ (o : ImageCheck) (m : ImageCheck) (a : ImageCheck) (s : State), goldenDue s = true ∧ flashResult s 4 0 { o with parts := [m, a] } ≠ 1)
    ∧ (∃ (p : _) (n : _) (s : State), inBoot s = true ∧ s.boot.microcodeSent = some n ∧ s.clock < n + 850 * ms ∧ serving s p = true ∧ isTrained s
      p = false ∧ s.boot.stage ≠ 7 ∧ s.boot.alfelStarted = false)
    ∧ (∃ (n : _) (s : State), inBoot s = true ∧ s.boot.microcodeSent = some n ∧ s.clock < n + 850 * ms ∧ serving s 0 = true ∧ isTrained s 0 =
      false ∧ s.boot.stage ≠ 7 ∧ s.boot.alfelStarted = true ∧ (∀ p, p ≠ 0 → p < tiles s → isTrained s p = true ∨ service s p =
      .outOfService))
    ∧ (∃ (n : _) (s : State), inBoot s = true ∧ s.boot.microcodeSent = some n ∧ n + 850 * ms ≤ s.clock ∧ serving s 0 = true ∧ isTrained s 0 =
      false)
    ∧ (∃ (p : _) (n : _) (s : State), p ≠ 0 ∧ inBoot s = true ∧ s.boot.microcodeSent = some n ∧ n + 850 * ms ≤ s.clock ∧ serving s p = true ∧
      isTrained s p = false) :=
  ⟨⟨1, goodImage 2, inBootAt { stage := 3, aResult := 5 }, by decide +kernel⟩,
    ⟨0, badImage, inBootAt { stage := 3 }, by decide +kernel⟩,
    ⟨(goodImage 4).toImageCheck, (goodImage 3).toImageCheck, (goodImage 2).toImageCheck, inBootAt { stage := 2, m0Result := 5, m1Result := 5 },
      by decide +kernel⟩,
    ⟨(goodImage 4).toImageCheck, badImage.toImageCheck, (goodImage 2).toImageCheck, inBootAt { stage := 3, aResult := 5, bResult := 5 },
      by decide +kernel⟩,
    ⟨7, 10 ^ 12, inBootAt { stage := 3, microcodeSent := some (10 ^ 12) }, by decide +kernel⟩,
    ⟨10 ^ 12, { inBootAt { stage := 4, microcodeSent := some (10 ^ 12), alfelStarted := true, trained := [(1, true)] } with part := .fv216 },
      by decide +kernel, by decide +kernel, by decide +kernel, by decide +kernel, by decide +kernel, by decide +kernel, by decide +kernel,
      fun p h0 h1 => by have h : p = 1 := by { have : p < 2 := h1; omega }; subst h; exact .inl (by decide +kernel)⟩,
    ⟨0, inBootAt { stage := 3, microcodeSent := some 0 }, by decide +kernel⟩,
    ⟨7, 0, inBootAt { stage := 3, microcodeSent := some 0 }, by decide +kernel⟩⟩

theorem test_witness_FirmwareCommandsComplete :
    (∃ (c : _) (s : State), Accepted opFwQuery c s)
    ∧ (∃ (c : _) (s : State), Accepted opFwWrite c s)
    ∧ (∃ (s : State) (slot : _) (id : _), s.boot.flashWrite = some (slot, id))
    ∧ (∃ (s : State) (slot : _) (id : _), s.boot.flashWrite = some (slot, id))
    ∧ (∃ (c : _) (img : _) (conf : _) (s : State), Accepted (opFwVerify img conf) c s ∧ (checkSlot s (par c 0 1) (usedCopy s (par c 0 1)) img
      conf).1 = 1)
    ∧ (∃ (c : _) (img : _) (conf : _) (s : State), Accepted (opFwVerify img conf) c s ∧ (checkSlot s (par c 0 1) (usedCopy s (par c 0 1)) img
      conf).1 ≠ 1)
    ∧ (∃ (c : _) (s : State), Accepted opFwSelect c s)
    ∧ (∃ (c : _) (ok : _) (s : State), Accepted (opFwRollbackAdvance ok) c s ∧ (par c 0 1 = s.boot.rollback ∨ ok = true))
    ∧ (∃ (c : _) (s : State), Accepted (opFwRollbackAdvance false) c s ∧ par c 0 1 ≠ s.boot.rollback)
    ∧ (∃ (slot : _) (copy : _), slot ≤ 6 ∧ copy ≤ 1) :=
  ⟨⟨cm 0 [], on, accepted_of (by decide +kernel)⟩,
    ⟨cm 0 [(1, 1), (3, 0), (4, 4096), (8, 0x100000), (8, 0)], on, accepted_of (by decide +kernel)⟩,
    ⟨{ on with boot := { flashWrite := some (1, 1) } }, 1, 1, by decide +kernel⟩,
    ⟨withBoot { flashWrite := some (5, 1) }, 5, 1, by decide +kernel⟩,
    ⟨cm 0 [(1, 1), (3, 0)], goodImage 2, goodConf, on, accepted_of (by decide +kernel), by decide +kernel⟩,
    ⟨cm 0 [(1, 1), (3, 0)], badImage, goodConf, on, accepted_of (by decide +kernel), by decide +kernel⟩,
    ⟨cm 0 [(1, 1), (1, 0), (2, 0)], { on with boot := { slots := [(1, { state := 1 }), (2, { state := 1 })] } },
      accepted_of (by decide +kernel)⟩,
    ⟨cm 0 [(1, 0), (3, 0), (4, 0x5EB7)], false, on, accepted_of (by decide +kernel), by decide +kernel⟩,
    ⟨cm 0 [(1, 63), (3, 0), (4, 0x5EB7)], { on with boot := { slots := (List.range 5).map fun n => (n, { state := 1, security := 63 }) } },
      accepted_of (by decide +kernel), by decide +kernel⟩,
    ⟨6, 1, by decide +kernel⟩⟩

theorem test_witness_HostBootTakesImages :
    (∃ (p : _) (s : State), p < tiles s ∧ memoryServed (portOf s p) = true ∧ goRefusal s p = none)
    ∧ (∃ (p : _) (s : State) (code : _), p < tiles s ∧ memoryServed (portOf s p) = true ∧ goRefusal s p = some code)
    ∧ (∃ (p : _) (b : _) (s : State), p < tiles s ∧ memoryServed (portOf s p) = true ∧ p ≠ b)
    ∧ (∃ (c : _) (img : _) (conf : _) (s : State), Accepted (opFwPush img conf) c s ∧ par c 0 1 = 2 ∧ imageResult s 2 (pushBytes 2)
      img.toImageCheck = 1)
    ∧ (∃ (c : _) (img : _) (conf : _) (s : State), Accepted (opFwPush img conf) c s ∧ par c 0 1 = 3 ∧ imageResult s 3 (pushBytes 3)
      img.toImageCheck = 1)
    ∧ (∃ (c : _) (img : _) (conf : _) (s : State), Accepted (opFwPush img conf) c s ∧ par c 0 1 ≠ 5 ∧ imageResult s (par c 0 1) (pushBytes (par c
      0 1)) img.toImageCheck ≠ 1)
    ∧ (∃ (c : _) (img : _) (conf : _) (s : State), Accepted (opFwPush img conf) c s ∧ par c 0 1 = 5 ∧ confResult conf = 1)
    ∧ (∃ (c : _) (img : _) (conf : _) (s : State), Accepted (opFwPush img conf) c s ∧ par c 0 1 = 5 ∧ confResult conf ≠ 1)
    ∧ (∃ (c : _) (s : State), Accepted opFwStart c s ∧ isTrained s 0 = false) :=
  ⟨⟨0, inBootAt {}, by decide +kernel⟩,
    ⟨0, on, .eState, by decide +kernel⟩,
    ⟨0, 1, on, by decide +kernel⟩,
    ⟨cm 0 [(1, 2), (3, 0), (4, 4096), (8, 0x100000), (8, 0)], goodImage 2, [], inBootAt { stage := 6 }, accepted_of (by decide +kernel),
      by decide +kernel⟩,
    ⟨cm 0 [(1, 3), (3, 0), (4, 4096), (8, 0x100000), (8, 0)], goodImage 3, [], inBootAt { stage := 6 }, accepted_of (by decide +kernel),
      by decide +kernel⟩,
    ⟨cm 0 [(1, 2), (3, 0), (4, 4096), (8, 0x100000), (8, 0)], badImage, [], inBootAt { stage := 6 }, accepted_of (by decide +kernel),
      by decide +kernel⟩,
    ⟨cm 0 [(1, 5), (3, 0), (4, 4096), (8, 0x100000), (8, 0)], badImage, goodConf, inBootAt { stage := 6 }, accepted_of (by decide +kernel),
      by decide +kernel⟩,
    ⟨cm 0 [(1, 5), (3, 0), (4, 4096), (8, 0x100000), (8, 0)], badImage, [], inBootAt { stage := 6 }, accepted_of (by decide +kernel),
      by decide +kernel⟩,
    ⟨cm 0 [], inBootAt { stage := 6, pushedMicro := true, pushedAlfel := true }, accepted_of (by decide +kernel), by decide +kernel⟩⟩

theorem test_witness_HostAccessesReachRegisters :
    (∃ (p : _) (s : State), p < tiles s ∧ memoryServed (portOf s p) = true)
    ∧ (∃ (p : _) (off : _) (s : State), p < tiles s ∧ memoryServed (portOf s p) = true ∧ 0x8000000 ≤ off)
    ∧ (∃ (p : _) (s : State), p < tiles s ∧ memoryServed (portOf s p) = true)
    ∧ (∃ (p : _) (be : _) (s : State), p < tiles s ∧ memoryServed (portOf s p) = true ∧ contiguous be = false)
    ∧ (∃ (p : _) (be : _) (s : State), p < tiles s ∧ memoryServed (portOf s p) = true ∧ contiguous be = true ∧ be ≠ 0 ∧ be ≠ 15 ∧ tget?
      s.host.stagedLo (portKey p 0x200010) = none)
    ∧ (∃ (p : _) (s : State), p < tiles s ∧ memoryServed (portOf s p) = true ∧ (blockOfPort s p).state ≠ 1)
    ∧ (∃ (p : _) (lo : _) (s : State), p < tiles s ∧ memoryServed (portOf s p) = true ∧ (blockOfPort s p).state ≠ 1 ∧ tget? s.host.stagedLo
      (portKey p (0x200100 + 0x40 * p)) = some lo)
    ∧ (∃ (p : _) (off : _) (s : State), p < tiles s ∧ memoryServed (portOf s p) = true ∧ off % 4 = 0 ∧ off < 0x4800000 ∧ isLo s off = true ∧ tget?
      s.host.captured (portKey p off) = none)
    ∧ (∃ (p : _) (off : _) (v : _) (s : State), p < tiles s ∧ memoryServed (portOf s p) = true ∧ off % 4 = 0 ∧ off < 0x800000 ∧ isLo s off = false
      ∧ tget? s.host.captured (portKey p off) = none ∧ tget? s.host.capturedHi (portKey p off) = some v)
    ∧ (∃ (p : _) (v : U32) (s : State), p < tiles s ∧ memoryServed (portOf s p) = true ∧ s.pkg.mode = .test ∧ isMaster s p = true ∧ commandsRun s
      = true ∧ v.toNat ≤ 60000)
    ∧ (∃ (p : _) (s : State), p < tiles s ∧ memoryServed (portOf s p) = true ∧ s.pkg.mode ≠ .test)
    ∧ (∃ (p : _) (s : State), p < tiles s ∧ memoryServed (portOf s p) = true)
    ∧ (∃ (p : _) (s : State), p < tiles s ∧ memoryServed (portOf s p) = true)
    ∧ (∃ (p : _) (off : _) (s : State), p < tiles s ∧ off < 0x10000000 ∧ memoryServed (portOf s p) = true ∧ s.boot.conf.compatEnable = true ∧
      (tget {} (portOf s p).compatActive (off / 0x400000)).valid = true ∧ (tget {} (portOf s p).compatActive (off / 0x400000)).store =
      false)
    ∧ (∃ (p : _) (off : _) (s : State), p < tiles s ∧ off < 0x10000000 ∧ memoryServed (portOf s p) = true ∧ s.boot.conf.compatEnable = true ∧
      (tget {} (portOf s p).compatActive (off / 0x400000)).valid = false)
    ∧ (∃ (p : _) (off : _) (s : State), p < tiles s ∧ off < 0x10000000 ∧ memoryServed (portOf s p) = true ∧ s.boot.conf.compatEnable = true ∧
      (tget {} (portOf s p).compatActive (off / 0x400000)).valid = true ∧ (tget {} (portOf s p).compatActive (off / 0x400000)).store = true)
    ∧ (∃ (p : _) (off : _) (s : State), p < tiles s ∧ off < 0x10000000 ∧ memoryServed (portOf s p) = true ∧ s.boot.conf.compatEnable = true ∧
      (tget {} (portOf s p).compatActive (off / 0x400000)).valid = true ∧ (tget {} (portOf s p).compatActive (off / 0x400000)).store = true) :=
  ⟨⟨0, on, by decide +kernel⟩,
    ⟨0, 0x8000000, on, by decide +kernel⟩,
    ⟨1, on, by decide +kernel⟩,
    ⟨1, 5, { on with host := { on.host with stagedLo := [(portKey 1 0x200140, 5)] } }, by decide +kernel⟩,
    ⟨0, 6, on, by decide +kernel⟩,
    ⟨0, on, by decide +kernel⟩,
    ⟨0, 5, { on with host := { on.host with stagedLo := [(portKey 0 0x200100, 5)] } }, by decide +kernel⟩,
    ⟨0, 0x200100, on, by decide +kernel⟩,
    ⟨0, 0x200104, 5, { on with host := { on.host with capturedHi := [(portKey 0 0x200104, 5)] } }, by decide +kernel⟩,
    ⟨0, 60000, inMode .test on, by decide +kernel⟩,
    ⟨0, on, by decide +kernel⟩,
    ⟨0, on, by decide +kernel⟩,
    ⟨0, on, by decide +kernel⟩,
    ⟨0, 0x1400000,
      { withPort { upPort with compatActive := [(5, { valid := true, offset := 0x1404000 })] } with boot := { conf := { compatEnable := true } } },
      by decide +kernel⟩,
    ⟨0, 0xFFFFFFC, { on with boot := { conf := { compatEnable := true } } }, by decide +kernel⟩,
    ⟨0, 0x1400000,
      { withPort { upPort with compatActive := [(5, { valid := true, store := true, offset := 0 })] } with boot := { conf := { compatEnable := true } } },
      by decide +kernel⟩,
    ⟨0, 0x17FFFFC,
      { withPort { upPort with compatActive := [(5, { valid := true, store := true, offset := 0 })] } with boot := { conf := { compatEnable := true } } },
      by decide +kernel⟩⟩

theorem test_witness_QueuesCarryCommands :
    (∃ (p : _) (n : _) (packet : _) (img : _) (conf : _) (ok : _) (s : State) (v : _) (o : _), n ≤ 7 ∧ slotReaches (p * 8 + n) s = true ∧ queue?
      s (cmdQueue p n) = some v ∧ mayTake s p n v packet = true ∧ packetLen packet ≤ 4096 ∧ findOp img conf ok (packetOp packet) = some o)
    ∧ (∃ (p : _) (n : _) (packet : _) (img : _) (conf : _) (ok : _) (s : State) (v : _), n ≤ 7 ∧ slotReaches (p * 8 + n) s = true ∧ queue? s
      (cmdQueue p n) = some v ∧ mayTake s p n v packet = true ∧ packetLen packet ≤ 4096 ∧ findOp img conf ok (packetOp packet) = none ∧
      headerBad (parsePacket p n packet) = none)
    ∧ (∃ (p : _) (n : _) (s : State), (commandsRun s = false ∨ slotReaches (p * 8 + n) s = false))
    ∧ (∃ (p : _) (q : _) (s : State) (v : _), ownsQueue s p q = true ∧ queue? s q = some v ∧ v.qtype = .command)
    ∧ (∃ (p : _) (q : _) (n : _) (s : State) (v : _), ownsQueue s p q = true ∧ queue? s q = some v ∧ v.qtype = .reply ∧ (n - v.dev).toInt ≤ 0)
    ∧ (∃ (p : _) (q : _) (n : _) (s : State) (v : _), ownsQueue s p q = true ∧ queue? s q = some v ∧ v.qtype = .reply ∧ 0 < (n - v.dev).toInt)
    ∧ (∃ (p : _) (q : _) (n : _) (s : State) (v : _), ownsQueue s p q = true ∧ queue? s q = some v ∧ (v.qtype = .completion ∨ v.qtype = .event) ∧
      (n - v.dev).toInt ≤ 0)
    ∧ (∃ (p : _) (q : _) (n : _) (s : State) (v : _), ownsQueue s p q = true ∧ queue? s q = some v ∧ (v.qtype = .completion ∨ v.qtype = .event) ∧
      0 < (n - v.dev).toInt)
    ∧ (∃ (p : _) (q : _) (s : State) (v : _), ownsQueue s p q = true ∧ queue? s q = some v ∧ (v.qtype = .buffer ∨ v.qtype = .management))
    ∧ (∃ (p : _) (q : _) (s : State), ownsQueue s p q = false)
    ∧ (∃ (p : _) (q : _) (s : State) (v : _), ownsQueue s p q = true ∧ queue? s q = some v)
    ∧ (∃ (p : _) (q : _) (s : State) (v : _), ownsQueue s p q = true ∧ queue? s q = some v ∧ v.mask = false)
    ∧ (∃ (p : _) (q : _) (s : State) (v : _), ownsQueue s p q = true ∧ queue? s q = some v ∧ v.mask = true ∧ v.heldMessage = false ∧ (v.irqEn =
      false ∨ v.unsignalled = 0))
    ∧ (∃ (p : _) (q : _) (s : State) (v : _), ownsQueue s p q = true ∧ queue? s q = some v ∧ v.mask = true ∧ v.heldMessage = true ∧ v.qtype =
      .reply) :=
  ⟨⟨0, 0, packetBytes 0x0100 0, badImage, [], false, withQueue 0 { queueOfType .command with host := 1 },
      { queueOfType .command with host := 1 }, opNop, by decide +kernel, by decide +kernel, by decide +kernel, by decide +kernel,
      by decide +kernel, rfl⟩,
    ⟨0, 0, packetBytes 0x01FF 4096, badImage, [], false, withQueue 0 { queueOfType .command with host := 129 },
      { queueOfType .command with host := 129 }, by decide +kernel⟩,
    ⟨0, 0, { on with eng := { on.eng with stopped := true } }, by decide +kernel⟩,
    ⟨0, 0, on, queueOfType .command, by decide +kernel⟩,
    ⟨0, 8, 0, on, queueOfType .reply, by decide +kernel⟩,
    ⟨0, 8, 1, on, queueOfType .reply, by decide +kernel⟩,
    ⟨0, 21, 0, on, queueOfType .completion, by decide +kernel⟩,
    ⟨0, 22, 1, on, queueOfType .event, by decide +kernel⟩,
    ⟨0, 20, on, queueOfType .buffer, by decide +kernel⟩,
    ⟨1, 20, on, by decide +kernel⟩,
    ⟨0, 20, on, queueOfType .buffer, by decide +kernel⟩,
    ⟨0, 20, withQueue 20 { queueOfType .buffer with mask := false }, { queueOfType .buffer with mask := false }, by decide +kernel⟩,
    ⟨0, 20, withQueue 20 { queueOfType .buffer with mask := true }, { queueOfType .buffer with mask := true }, by decide +kernel⟩,
    ⟨0, 8, withQueue 8 { queueOfType .reply with mask := true, heldMessage := true },
      { queueOfType .reply with mask := true, heldMessage := true }, by decide +kernel⟩⟩

theorem test_witness_HandlesAreKept :
    (∃ (s : State), tsorted 0 s.eng.objs = true)
    ∧ (∃ (c : _) (s : State) (o : _), Accepted opHandleQuery c s ∧ obj? s (tslot c) = some o)
    ∧ (∃ (c : _) (s : State), Accepted opHandleDestroy c s ∧ slotKind (tslot c) ≠ 6)
    ∧ (∃ (c : _) (s : State), Accepted opHandleDestroy c s ∧ slotKind (tslot c) = 6 ∧ running (chanOf s (targetChan c)) = false)
    ∧ (∃ (c : _) (s : State) (o : _), Accepted opAdopt c s ∧ par c 0 1 = 0 ∧ obj? s (tslot c) = some o ∧ slotKind (tslot c) ≠ 6)
    ∧ (∃ (c : _) (s : State), Accepted opAdopt c s ∧ par c 0 1 = 1)
    ∧ (∃ (c : _) (s : State), Accepted opOrphanGraceSet c s)
    ∧ (∃ (c : _) (s : State), Accepted opHandleList c s)
    ∧ (∃ (s : State), (∀ k o, (k, o) ∈ s.eng.objs → o.orphaned = false ∨ s.clock < o.deadline)) :=
  ⟨⟨on, by decide +kernel⟩,
    ⟨cm 0x10020000 [], on, { owner := 0 }, accepted_of (by decide +kernel), by decide +kernel⟩,
    ⟨cm 0x40020000 [], on, accepted_of (by decide +kernel), by decide +kernel⟩,
    ⟨cm 0x60020040 [], on, accepted_of (by decide +kernel), by decide +kernel⟩,
    ⟨cm 0x40020000 [(1, 0), (3, 0)], on, { owner := 0 }, accepted_of (by decide +kernel), by decide +kernel⟩,
    ⟨cm 0 [(1, 1), (1, 1), (2, 0)], on, accepted_of (by decide +kernel), by decide +kernel⟩,
    ⟨cm 0 [(4, 60000)], on, accepted_of (by decide +kernel)⟩,
    ⟨cm 0 [(1, 0), (7, 0)], on, accepted_of (by decide +kernel)⟩,
    ⟨on, fun k o h => (by decide +kernel : ∀ x ∈ on.eng.objs, x.2.orphaned = false ∨ on.clock < x.2.deadline) (k, o) h⟩⟩

theorem test_witness_HostSettingsTakeEffect :
    (∃ (p : _) (s : State), p < tiles s ∧ s.boot.conf.compatEnable = true ∧ (∀ n, n < 64 → compatFits s p (tget {} (portOf s p).compatStage n) =
      true))
    ∧ (∃ (p : _) (n : _) (s : State), p < tiles s ∧ s.boot.conf.compatEnable = true ∧ n < 64 ∧ compatFits s p (tget {} (portOf s p).compatStage n)
      = false ∧ (∀ m, m < n → compatFits s p (tget {} (portOf s p).compatStage m) = true))
    ∧ (∃ (p : _) (code : _) (s : State), p < tiles s ∧ (portOf s p).memSpace = false ∧ 10 ≤ code ∧ code ≤ 19)
    ∧ (∃ (p : _) (s : State), p < tiles s ∧ (portOf s p).memSpace = true)
    ∧ (∃ (p : _) (off : _) (n : _) (s : State), memoryServed (portOf s p) = true ∧ off + n ≤ storeSize s p ∧ 0 < n ∧ (∀ m ∈ s.fs.maps, m.port ≠
      p))
    ∧ (∃ (p : _) (off : _) (n : _) (s : State), (memoryServed (portOf s p) = false ∨ storeSize s p < off + n))
    ∧ (∃ (p : _) (s : State), p < tiles s ∧ (portOf s p).dlActive = true ∧ cfgReady s p = true)
    ∧ (∃ (p : _) (off : _) (s : State), p < tiles s ∧ off < 4096 ∧ (portOf s p).dlActive = true ∧ cfgReady s p = false)
    ∧ (∃ (p : _) (s : State), p < tiles s ∧ (portOf s p).dlActive = true ∧ cfgReady s p = true)
    ∧ (∃ (p : _) (s : State), p < tiles s ∧ cfgReady s p = true)
    ∧ (∃ (p : _) (v : _) (s : State), p < tiles s ∧ v < 2048 ∧ (portOf s p).msixEnable = true ∧ (portOf s p).functionMask = false ∧ (tget {}
      s.host.vectors (p * 2048 + v)).pending = true ∧ connected s (tget {} s.host.vectors (p * 2048 + v)).via = true)
    ∧ (∃ (p : _) (v : _) (s : State), p < tiles s ∧ v < 2048 ∧ connected s (tget {} s.host.vectors (p * 2048 + v)).via = false ∧ bestRoute s p p =
      none)
    ∧ (∃ (p : _) (v : _) (s : State), p < tiles s ∧ v < 2048 ∧ (tget {} s.host.vectors (p * 2048 + v)).pending = false)
    ∧ (∃ (p : _) (r : _) (s : State), p < tiles s ∧ r < 64) :=
  ⟨⟨0, { on with boot := { conf := { compatEnable := true } } }, by decide +kernel⟩,
    ⟨0, 63,
      { withPort { upPort with compatStage := [(63, { valid := true, offset := 0x7C00001 })] } with boot := { conf := { compatEnable := true } } },
      by decide +kernel⟩,
    ⟨0, 19, withPort { upPort with memSpace := false }, by decide +kernel⟩,
    ⟨0, on, by decide +kernel⟩,
    ⟨0, 0x3FFFFF80, 128, on, by decide +kernel⟩,
    ⟨0, 0x3FFFFF80, 129, on, by decide +kernel⟩,
    ⟨0, on, by decide +kernel⟩,
    ⟨0, 4095, withPort { upPort with flrSince := some 0 }, by decide +kernel⟩,
    ⟨0, on, by decide +kernel⟩,
    ⟨0, on, by decide +kernel⟩,
    ⟨0, 2047, { on with host := { on.host with vectors := [(2047, { pending := true })] } }, by decide +kernel⟩,
    ⟨0, 2047, noPorts, by decide +kernel⟩,
    ⟨0, 2047, on, by decide +kernel⟩,
    ⟨0, 63, on, by decide +kernel⟩⟩

theorem test_witness_HostLinksFailAndReturn :
    (∃ (p : _) (flit : _) (rate : _) (width : _) (s : State), p < tiles s ∧ serving s p = true ∧ 3 ≤ modeCode s.pkg.mode ∧ (portOf s p).dlActive
      = false ∧ 1 ≤ rate ∧ rate ≤ 6 ∧ width ∈ [1, 4, 8, 16] ∧ (rate = 6 → flit = true))
    ∧ (∃ (p : _) (s : State), p < tiles s ∧ (portOf s p).dlActive = true)
    ∧ (∃ (p : _) (s : State), p < tiles s ∧ (portOf s p).dlActive = true ∧ (∀ c, c ≠ p → connected s c = false))
    ∧ (∃ (p : _) (s : State), (portOf s p).dlActive = false)
    ∧ (∃ (p : _) (s : State), p < tiles s ∧ connected s p = false)
    ∧ (∃ (p : _) (s : State), p < tiles s ∧ connected s p = true)
    ∧ (∃ (p : _) (s : State), (portOf s p).lost = true ∧ (portOf s p).holdDeadline ≤ s.clock ∧ connected s p = false ∧ tsorted 0 s.host.saved =
      true)
    ∧ (∃ (p : _) (s : State), s.clock < (portOf s p).holdDeadline)
    ∧ (∃ (p : _) (s : State), p < tiles s)
    ∧ (∃ (p : _) (s : State), p < tiles s)
    ∧ (∃ (p : _) (s : State), p < tiles s)
    ∧ (∃ (p : _) (s : State), (portOf s p).flrSince.isSome = true)
    ∧ (∃ (p : _) (t₀ : _) (q : _) (s : State), tget? s.host.routesDue (p * 8 + t₀) = some q) :=
  ⟨⟨7, true, 6, 16, on, by decide +kernel⟩,
    ⟨0, on, by decide +kernel⟩,
    ⟨0, onePort, by decide +kernel, by decide +kernel, fun c h => otherPort c h⟩,
    ⟨7, on, by decide +kernel⟩,
    ⟨7, on, by decide +kernel⟩,
    ⟨0, on, by decide +kernel⟩,
    ⟨0, withPort { lost := true, holdDeadline := 10 ^ 12 }, by decide +kernel⟩,
    ⟨0, withPort { lost := true, holdDeadline := 10 ^ 12 + 1 }, by decide +kernel⟩,
    ⟨0, on, by decide +kernel⟩,
    ⟨0, on, by decide +kernel⟩,
    ⟨0, on, by decide +kernel⟩,
    ⟨0, withPort { upPort with flrSince := some 0 }, by decide +kernel⟩,
    ⟨0, 1, 1, { on with host := { on.host with routesDue := [(1, 1)] } }, by decide +kernel⟩⟩

theorem test_witness_HostErrorsAndTimeMeasurement :
    (∃ (p : Nat) (n : Nat) (q : Nat) (s : State), (requestsOut s p)[n]? = some (.command q))
    ∧ (∃ (p : _) (s : State), p < tiles s)
    ∧ (∃ (p : _) (e : _) (b : _) (s : State), p < tiles s ∧ (e, b) ∈ correctableErrors)
    ∧ (∃ (p : _) (e : _) (d : _) (b : _) (s : State), p < tiles s ∧ (e, d, b) ∈ uncorrectableErrors ∧ (e = .ecrc → (tget 0 (portOf s p).otherCfg
      0x118).getLsbD 8 = true))
    ∧ (∃ (p : _) (s : State), (tget 0 (portOf s p).otherCfg 0x118).getLsbD 8 = false)
    ∧ (∃ (p : _) (s : State), ptmRuns s p = true ∧ (portOf s p).ptm.busy = false ∧ (portOf s p).ptm.lastPeriod + 10 * ms ≤ s.clock)
    ∧ (∃ (p : _) (n : _) (e : _) (u : _) (s : State), serving s p = true ∧ ptmRuns s p = true ∧ takeInput p 648 n s = some (e, u))
    ∧ (∃ (p : _) (s : State), ptmRuns s p = true ∧ (portOf s p).ptm.busy = true ∧ (portOf s p).ptm.second = false ∧ s.clock ≤ (portOf s
      p).ptm.startedAt + 10 * us)
    ∧ (∃ (p : _) (k : _) (d : _) (s : State), ptmRuns s p = true ∧ (portOf s p).ptm.busy = true ∧ (portOf s p).ptm.second = true ∧ linkDelay
      (portOf s p).ptm.roundTrip k = d ∧ s.clock ≤ (portOf s p).ptm.startedAt + 10 * us)
    ∧ (∃ (p : _) (s : State), (portOf s p).ptm.busy = true ∧ (portOf s p).ptm.startedAt + 10 * us ≤ s.clock)
    ∧ (∃ (q : _) (s : State), q < tiles s) :=
  ⟨⟨0, (0 : Nat), 0, withQueue 0 { queueOfType .command with host := 1 }, by decide +kernel⟩,
    ⟨7, on, by decide +kernel⟩,
    ⟨0, .correctedInternal, 14, on, by decide +kernel⟩,
    ⟨0, .uncorrectableInternal none, 0x13, 22, on, by decide +kernel⟩,
    ⟨0, on, by decide +kernel⟩,
    ⟨0, withPort { upPort with ptm := { enabled := true } }, by decide +kernel⟩,
    ⟨0, 1, ev0, taken 648 (withPort { upPort with ptm := { enabled := true } }), atInput 648 (withPort
      { upPort with ptm := { enabled := true } }), by decide +kernel⟩,
    ⟨0, withPort { upPort with ptm := { enabled := true, busy := true, startedAt := 10 ^ 12 - 10000 } }, by decide +kernel⟩,
    ⟨0, 20, 490, withPort
      { upPort with ptm := { enabled := true, busy := true, second := true, roundTrip := 1000 * 65536, startedAt := 10 ^ 12 - 10000 } },
      by decide +kernel⟩,
    ⟨0, withPort { upPort with ptm := { enabled := true, busy := true, startedAt := 10 ^ 12 - 10000 } }, by decide +kernel⟩,
    ⟨7, on, by decide +kernel⟩⟩

theorem test_witness_QueuesServeTheirOwners :
    (∃ (c : _) (s : State), Accepted opQueueCreate c s)
    ∧ (∃ (c : _) (s : State) (v : _), Accepted opQueueConfig c s ∧ queue? s (queueOfHandle (tgt c)) = some v)
    ∧ (∃ (c : _) (s : State), Accepted opQueueDestroy c s)
    ∧ (∃ (c : _) (s : State) (v : _), Accepted opQueueQuery c s ∧ queue? s (queueOfHandle (tgt c)) = some v)
    ∧ (∃ (c : _) (s : State) (v : _), Accepted opQueueRestart c s ∧ queue? s (queueOfHandle (tgt c)) = some v)
    ∧ (∃ (q : _) (b : _) (s : State) (v : _) (x : _), queue? s q = some v ∧ mayRead s q v = some x ∧ v.state ≠ .parked ∧ badDescriptor s q v (le b
      0 8) (le b 8 4) = none ∧ bit (le b 12 2) 0 = true)
    ∧ (∃ (q : _) (b : _) (s : State) (v : _) (x : _), queue? s q = some v ∧ mayRead s q v = some x ∧ v.state ≠ .parked ∧ badDescriptor s q v (le b
      0 8) (le b 8 4) = none ∧ bit (le b 12 2) 0 = false ∧ signed 32 (x + 1 + 2 ^ 32 - v.host.toNat) < v.size)
    ∧ (∃ (q : _) (b : _) (s : State) (v : _) (x : _) (code : _), queue? s q = some v ∧ mayRead s q v = some x ∧ v.state ≠ .parked ∧ badDescriptor
      s q v (le b 0 8) (le b 8 4) = some code ∧ queueLive s v.notify .completion = false)
    ∧ (∃ (q : _) (s : State) (v : _), queue? s q = some v ∧ held s q = false ∧ v.irqEn = true ∧ 0 < v.unsignalled ∧ v.unsigSince + v.coalUs * us ≤
      s.clock ∧ v.mask = false)
    ∧ (∃ (q : _) (s : State), held s q = true)
    ∧ (∃ (q : _) (s : State) (v : _) (e : _), queue? s q = some v ∧ (v.qtype = .completion ∨ v.qtype = .event) ∧ held s q = false ∧ timeAnchorDue
      s v = false ∧ positionDue s q v = none ∧ v.pendingEntries = [e] ∧ e.kind = .event ∧ e.after = .nothing ∧ spare s q < unreserved v)
    ∧ (∃ (q : _) (s : State) (v : _), queue? s q = some v ∧ (v.qtype = .completion ∨ v.qtype = .event) ∧ held s q = false ∧ v.anchorDue ≤ s.clock
      ∧ 0 < unreserved v ∧ queueInterfaces s q = [] ∧ v.pendingEntries = [])
    ∧ (∃ (s : State) (u : _) (rest : _) (v : _), s.mv.mgmt = u :: rest ∧ queue? s u.queue = some v ∧ held s u.queue = false) :=
  ⟨⟨cm 0 [(1,0),(1,0),(1,0),(1,0),(4,256),(8,0x100000),(2,0),(2,0),(4,0),(2,0),(2,0),(4,0)], on, accepted_of (by decide +kernel)⟩,
    ⟨cm 0x20020015 [(2,0),(2,1),(2,1),(2,10),(1,0),(7,0)], on, queueOfType .completion, accepted_of (by decide +kernel), by decide +kernel⟩,
    ⟨cm 0x20020015 [], { on with st := {}, ad := {}, fs := {} }, accepted_of (by decide +kernel)⟩,
    ⟨cm 0x20020015 [], on, queueOfType .completion, accepted_of (by decide +kernel), by decide +kernel⟩,
    ⟨cm 0x20020014 [(4, 0)], withQueue 20 stoppedQueue, stoppedQueue, accepted_of (by decide +kernel), by decide +kernel⟩,
    ⟨20, descBytes 1, withQueue 20 { queueOfType .buffer with host := 1 }, { queueOfType .buffer with host := 1 }, 0, by decide +kernel⟩,
    ⟨20, descBytes 0, withQueue 20 { queueOfType .buffer with host := 1 }, { queueOfType .buffer with host := 1 }, 0, by decide +kernel⟩,
    ⟨20, [], withQueue 20 { queueOfType .buffer with host := 1 }, { queueOfType .buffer with host := 1 }, 0, .eParam, by decide +kernel⟩,
    ⟨21, withQueue 21 signalledQueue, signalledQueue, by decide +kernel⟩,
    ⟨21, withPort {}, by decide +kernel⟩,
    ⟨22, withQueue 22 { queueOfType .event with anchored := true, anchorDue := 2 * 10 ^ 12, pendingEntries := [eventEntry] },
      { queueOfType .event with anchored := true, anchorDue := 2 * 10 ^ 12, pendingEntries := [eventEntry] }, eventEntry, by decide +kernel⟩,
    ⟨21, on, queueOfType .completion, by decide +kernel⟩,
    ⟨{ on with mv := { on.mv with mgmt := [mgmtUse] } }, mgmtUse, [], queueOfType .management, by decide +kernel⟩⟩

theorem test_witness_MoverRunsAndReservations :
    (∃ (c : _) (s : State), Accepted opMvReserve c s)
    ∧ (∃ (c : _) (s : State), Accepted opMvRelease c s ∧ running (chanOf s (targetChan c)) = false)
    ∧ (∃ (c : _) (s : State), Accepted opMvRelease c s ∧ running (chanOf s (targetChan c)) = true)
    ∧ (∃ (c : _) (s : State), Accepted opMvQuery c s)
    ∧ (∃ (c : _) (s : State), Accepted opMvAbort c s ∧ running (chanOf s (targetChan c)) = false)
    ∧ (∃ (c : _) (s : State), Accepted opMvAbort c s ∧ running (chanOf s (targetChan c)) = true)
    ∧ (∃ (p : _) (g : _) (s : State), ownsChan s p g = true ∧ goFirst g s = s ∧ running (chanOf s g) = false ∧ startFail s (chanOf s g) (chanOf s
      g).regs = none)
    ∧ (∃ (p : _) (g : _) (s : State) (st : _), ownsChan s p g = true ∧ goFirst g s = s ∧ running (chanOf s g) = false ∧ startFail s (chanOf s g)
      (chanOf s g).regs = some st ∧ (chanOf s g).regs.statusEn = false ∧ (chanOf s g).release = none)
    ∧ (∃ (p : _) (g : _) (s : State), ownsChan s p g = false)
    ∧ (∃ (p : _) (g : _) (s : State), ownsChan s p g = true ∧ goFirst g s = s ∧ running (chanOf s g) = true ∧ (chanOf s g).abort = none ∧ (chanOf
      s g).state ≠ .ending)
    ∧ (∃ (g : _) (n : _) (s : State) (e : _) (u : _), serving s (g / 512) = true ∧ (chanOf s g).state = .idle ∧ (chanOf s g).raw = true ∧ (chanOf
      s g).regs.pace = false ∧ takeInput (g / 512) (g % 512) n s = some (e, u) ∧ startFail s (chanOf s g) (chanOf s g).regs = none)
    ∧ (∃ (g : _) (s : State), serving s (g / 512) = true ∧ (chanOf s g).state = .waiting ∧ (chanOf s g).raw = true ∧ (chanOf s g).run.pace = true
      ∧ (tget {} s.ev.inputs (inputKey (g / 512) (g % 512))).waiting ≠ [])
    ∧ (∃ (g : _) (s : State), (chanOf s g).raw = true ∧ (chanOf s g).state = .issuing ∧ connected s (runVia s g) = true ∧ (chanOf s g).run.pace =
      false ∧ runCovered s g (chanOf s g) = true ∧ tget? s.host.behind (chanProducer g) = none ∧ nextBurst (chanOf s g) = (chanOf s
      g).run.count - (chanOf s g).moved ∧ runAhead s (g / 512) (turnKey s (g / 512) (g % 512) (chanOf s g).run.prio (chanOf s g).steady) =
      none ∧ (chanOf s g).abort = none ∧ (chanOf s g).run.pack = false ∧ (chanOf s g).moved < (chanOf s g).run.count ∧ (chanOf s
      g).run.srcSpace = 2 ∧ (chanOf s g).run.flushRead = false ∧ (chanOf s g).run.statusEn = false ∧ (chanOf s g).release = none ∧ (chanOf s
      g).waits = [])
    ∧ (∃ (g : _) (s : State) (cause : _), (chanOf s g).abort = some cause ∧ (chanOf s g).run.statusEn = false ∧ (chanOf s g).release = none ∧
      (chanOf s g).state ≠ .displaced ∧ ((chanOf s g).run.flushRead = false ∨ (chanOf s g).moved = 0))
    ∧ (∃ (g : _) (s : State), (chanOf s g).raw = true ∧ (chanOf s g).flushing = true ∧ (chanOf s g).run.statusEn = false ∧ (chanOf s g).release =
      none)
    ∧ (∃ (g : _) (f : _) (d : _) (u : _) (s : State), (channelOf s g).frames.find? (fun f => f.deliver && !f.dropped && !f.delivering &&
      !f.delivered) = some f ∧ f.tagged = true ∧ serving s (g / 64) = true ∧ queueLive s f.set.layout.bufQueue .buffer = true ∧ queueLive s
      f.set.layout.cplQueue .completion = true ∧ creditCovers s (g / 64) (firstBurst f) = true ∧ takeBuffer s f.set.layout.bufQueue
      f.set.layout.cplQueue = some (d, u))
    ∧ (∃ (g : _) (f : _) (d : _) (s : State), liveDelivery s g = some d ∧ frameOf s g d.frame = some f ∧ f.tagged = true ∧ d.tagWritten = false ∧
      (frameData f).length ≤ d.desc.len - 128)
    ∧ (∃ (d : _) (s : State), s.mv.deliveries.find? (sameDelivery d) = some d ∧ d.bytes = 0 ∧ d.segment = 0 ∧ held s d.bufQueue = false ∧
      connected s (deliveryVia s d) = true ∧ creditBinds s d.tile = false ∧ (∀ g c, (g, c) ∈ s.mv.chans → c.raw = false)) :=
  ⟨⟨cm 0 [(1,0),(1,0),(2,0),(4,0)], on, accepted_of (by decide +kernel)⟩,
    ⟨cm 0x60020040 [], on, accepted_of (by decide +kernel), by decide +kernel⟩,
    ⟨cm 0x60020040 [], withMover { raw := true, state := .issuing }, accepted_of (by decide +kernel), by decide +kernel⟩,
    ⟨cm 0x60020040 [], on, accepted_of (by decide +kernel)⟩,
    ⟨cm 0x60020040 [], on, accepted_of (by decide +kernel), by decide +kernel⟩,
    ⟨cm 0x60020040 [], withMover { raw := true, state := .issuing }, accepted_of (by decide +kernel), by decide +kernel⟩,
    ⟨0, 64, withMover { raw := true, state := .idle, regs := goodRegs }, by decide +kernel⟩,
    ⟨0, 64, on, .eParam, by decide +kernel⟩,
    ⟨7, 64, on, by decide +kernel⟩,
    ⟨0, 64, withMover { raw := true, state := .issuing }, by decide +kernel⟩,
    ⟨64, 0, atInput 64 (withMover { raw := true, state := .idle, regs := goodRegs }), ev0, taken 64 (withMover
      { raw := true, state := .idle, regs := goodRegs }), by decide +kernel⟩,
    ⟨64, atInput 64 (withMover { raw := true, state := .waiting, run := { goodRegs with pace := true } }), by decide +kernel⟩,
    ⟨64, withMover { raw := true, state := .issuing, run := goodRegs }, by decide +kernel⟩,
    ⟨64, withMover { raw := true, state := .issuing, abort := some 3 }, 3, by decide +kernel⟩,
    ⟨64, withMover { raw := true, state := .ending, flushing := true }, by decide +kernel⟩,
    ⟨0, liveFrame, desc0, readyTaken, readyState, by decide +kernel⟩,
    ⟨0, frame0, delivery0, { withChan { chan0 with frames := [frame0] } with mv := { on.mv with deliveries := [delivery0] } },
      by decide +kernel⟩,
    ⟨delivery0, delivers, by decide +kernel, by decide +kernel, by decide +kernel, by decide +kernel, by decide +kernel, by decide +kernel, fun
      _ _ h => nomatch h⟩⟩

theorem test_witness_LaneCommandsComplete :
    (∃ (c : _) (s : State), Accepted opLanePortSet c s)
    ∧ (∃ (c : _) (s : State), Accepted opLanePortQuery c s)
    ∧ (∃ (c : _) (s : State), Accepted opLaneEnable c s ∧ par c 1 1 = 1 ∧ (laneOf s (par c 0 1)).enabled = false ∧ linkAllowed s (par c 0 1 / 8) =
      true)
    ∧ (∃ (c : _) (s : State), Accepted opLaneEnable c s ∧ par c 1 1 = 0 ∧ (laneOf s (par c 0 1)).enabled = true)
    ∧ (∃ (c : _) (s : State), Accepted opLaneEnable c s ∧ (par c 1 1 = 1 ↔ (laneOf s (par c 0 1)).enabled = true))
    ∧ (∃ (c : _) (s : State), Accepted opLaneErOffer c s ∧ (laneOf s (par c 0 1)).er.state = .agreed)
    ∧ (∃ (c : _) (s : State), Accepted opLaneErOffer c s ∧ (laneOf s (par c 0 1)).er.state ≠ .agreed)
    ∧ (∃ (c : _) (s : State), Accepted opLaneMgmtBind c s)
    ∧ (∃ (c : _) (s : State), Accepted opLaneCountersClear c s)
    ∧ (∃ (c : _) (s : State), Accepted opLaneEyeScan c s)
    ∧ (∃ (l : _) (s : State) (e : _), (laneOf s l).eye = some e ∧ e.done = true) :=
  ⟨⟨cm 0 [(1,8),(1,2),(1,6),(1,2),(1,0),(1,0),(2,0),(6,0x010000000002),(2,0),(4,0x0A000001),(4,0xFFFFFF00),(8,0)], on,
      accepted_of (by decide +kernel)⟩,
    ⟨cm 0 [(1,0),(3,0)], on, accepted_of (by decide +kernel)⟩,
    ⟨cm 0 [(1,0),(1,1),(2,0)], withLane { primary := true, phy := 1 }, accepted_of (by decide +kernel), by decide +kernel⟩,
    ⟨cm 0 [(1,0),(1,0),(2,0)], on, accepted_of (by decide +kernel), by decide +kernel⟩,
    ⟨cm 0 [(1,0),(1,1),(2,0)], on, accepted_of (by decide +kernel), by decide +kernel⟩,
    ⟨cm 0 [(1,0),(3,0)], withLane (erLane { state := .agreed }), accepted_of (by decide +kernel), by decide +kernel⟩,
    ⟨cm 0 [(1,0),(3,0)], withLane (erLane {}), accepted_of (by decide +kernel), by decide +kernel⟩,
    ⟨cm 0 [(1,0),(3,0),(4,0x20020017),(4,0x20020018)], on, accepted_of (by decide +kernel)⟩,
    ⟨cm 0 [(1,0),(3,0)], on, accepted_of (by decide +kernel)⟩,
    ⟨cm 0 [(1,0),(1,0),(1,6),(5,0)], on, accepted_of (by decide +kernel)⟩,
    ⟨0, withLane { primary := true, link := .up, eye := some { wait := 1, eye := 0, dwell := 6, startNs32 := 0, done := true } },
      { wait := 1, eye := 0, dwell := 6, startNs32 := 0, done := true }, by decide +kernel⟩⟩

theorem test_witness_LinksComeUpAndCarryFrames :
    (∃ (l : _) (s : State), (laneOf s l).primary = true ∧ (laneOf s l).link = .an ∧ (laneOf s l).since ≤ s.clock)
    ∧ (∃ (l : _) (s : State), (laneOf s l).primary = true ∧ (laneOf s l).link = .an ∧ (laneOf s l).since + 2000 * ms ≤ s.clock)
    ∧ (∃ (l : _) (s : State), s.clock < (laneOf s l).since + 2000 * ms)
    ∧ (∃ (l : _) (s : State), (laneOf s l).primary = true ∧ (laneOf s l).link = .training ∧ (laneOf s l).since ≤ s.clock)
    ∧ (∃ (l : _) (s : State), (laneOf s l).primary = true ∧ (laneOf s l).link = .training ∧ (laneOf s l).since ≤ s.clock)
    ∧ (∃ (l : _) (s : State), (laneOf s l).primary = true ∧ (laneOf s l).link = .locking ∧ (laneOf s l).since + 50 * ms ≤ s.clock)
    ∧ (∃ (l : _) (s : State), (laneOf s l).primary = true ∧ (laneOf s l).link = .locking ∧ (laneOf s l).since + 10 * ms ≤ s.clock)
    ∧ (∃ (l : _) (s : State), (laneOf s l).primary = true ∧ (laneOf s l).link = .up)
    ∧ (∃ (l : _) (s : State), (laneOf s l).primary = true ∧ (laneOf s l).link = .retryWait ∧ (laneOf s l).since + 1000 * ms ≤ s.clock)
    ∧ (∃ (l : _) (s : State), (laneOf s l).link = .up)
    ∧ (∃ (l : _) (b : List Byte) (s : State), (laneOf s l).primary = true ∧ (laneOf s l).link = .up ∧ b.length < 64)
    ∧ (∃ (l : _) (b : List Byte) (s : State), (laneOf s l).primary = true ∧ (laneOf s l).link = .up ∧ 9600 < b.length)
    ∧ (∃ (l : _) (b : _) (s : State), (laneOf s l).primary = true ∧ (laneOf s l).link = .up ∧ 64 ≤ b.length ∧ b.length ≤ 9600 ∧ crc32 (b.take
      (b.length - 4)) = le b (b.length - 4) 4 ∧ be b 12 2 = 0x88F7 ∧ acceptsMac s l (be b 0 6) = true)
    ∧ (∃ (l : _) (s : State) (v : _) (d : _) (rest : _), queue? s (queueOfHandle (laneOf s l).txq) = some v ∧ queueLive s (laneOf s l).txq
      .management = true ∧ held s (queueOfHandle (laneOf s l).txq) = false ∧ (laneOf s l).link = .up ∧ yields s l 6 = false ∧ v.ready = d ::
      rest ∧ 14 ≤ d.len ∧ d.len ≤ 9596) :=
  ⟨⟨0, withLane { primary := true, link := .an }, by decide +kernel⟩,
    ⟨0, withLane { primary := true, link := .an }, by decide +kernel⟩,
    ⟨0, withLane { primary := true, link := .an, since := 10 ^ 12 }, by decide +kernel⟩,
    ⟨0, withLane { primary := true, link := .training }, by decide +kernel⟩,
    ⟨0, withLane { primary := true, link := .training, since := 10 ^ 12 }, by decide +kernel⟩,
    ⟨0, withLane { primary := true, link := .locking }, by decide +kernel⟩,
    ⟨0, withLane { primary := true, link := .locking }, by decide +kernel⟩,
    ⟨0, on, by decide +kernel⟩,
    ⟨0, withLane { primary := true, link := .retryWait }, by decide +kernel⟩,
    ⟨0, on, by decide +kernel⟩,
    ⟨0, zeros 63, on, by decide +kernel⟩,
    ⟨0, zeros 9601, on, by decide +kernel⟩,
    ⟨0, ptpBytes0, on, by decide +kernel⟩,
    ⟨0, txState, txQueue, txDesc, [], by decide +kernel⟩⟩

theorem test_witness_ExtendedRateExchange :
    (∃ (l : _) (s : State), (laneOf s l).er.state = .pending ∧ (laneOf s l).link = .up ∧ (laneOf s l).fast = false ∧ yields s l 2 = false ∧ max
      (laneOf s l).since (laneOf s l).dirtyAt + 100 * ms ≤ s.clock)
    ∧ (∃ (l : _) (s : State), (laneOf s l).link = .up ∧ yields s l 2 = false ∧ (laneOf s l).er.state = .offered ∧ (laneOf s l).er.sent < 10 ∧
      (laneOf s l).er.lastSent + 10 * ms ≤ s.clock)
    ∧ (∃ (l : _) (s : State), (laneOf s l).link = .up ∧ yields s l 2 = false ∧ (laneOf s l).er.state = .switching ∧ (laneOf s l).er.sent < 3 ∧
      (laneOf s l).er.lastSent + 100 * us ≤ s.clock)
    ∧ (∃ (l : _) (s : State), (laneOf s l).link = .up ∧ yields s l 2 = false ∧ (laneOf s l).er.state = .confirming ∧ (laneOf s l).er.sent < 10 ∧
      (laneOf s l).er.lastSent + 10 * ms ≤ s.clock)
    ∧ (∃ (l : _) (s : State), (laneOf s l).er.state = .offered ∧ 10 ≤ (laneOf s l).er.sent ∧ (laneOf s l).er.lastSent + 10 * ms ≤ s.clock)
    ∧ (∃ (l : _) (s : State) (f : _) (rest : _), (laneOf s l).toExchange = f :: rest ∧ (laneOf s l).er.state = .offered ∧ be f.bytes 14 2 = 0x5EB7
      ∧ be f.bytes 16 1 = 1 ∧ be f.bytes 17 1 = 2 ∧ be f.bytes 18 2 = (laneOf s l).er.seq.toNat ∧ be f.bytes 26 4 = (laneOf s
      l).er.nonce.toNat ∧ bit (be f.bytes 22 4) 1 = true)
    ∧ (∃ (l : _) (s : State) (f : _) (rest : _), (laneOf s l).toExchange = f :: rest ∧ (laneOf s l).er.state = .confirming ∧ be f.bytes 14 2 =
      0x5EB7 ∧ be f.bytes 16 1 = 1 ∧ be f.bytes 17 1 = 5 ∧ be f.bytes 18 2 = (laneOf s l).er.seq.toNat ∧ be f.bytes 26 4 = (laneOf s
      l).er.nonce.toNat)
    ∧ (∃ (l : _) (s : State) (f : _) (rest : _), (laneOf s l).toExchange = f :: rest ∧ be f.bytes 14 2 ≠ 0x5EB7)
    ∧ (∃ (l : _) (s : State), (laneOf s l).er.state = .switching ∧ (laneOf s l).fast = false ∧ 0 < (laneOf s l).er.sent ∧ (laneOf s
      l).er.firstSent + 1000 * us ≤ s.clock)
    ∧ (∃ (l : _) (s : State), (laneOf s l).er.state = .switching ∧ (laneOf s l).fast = true ∧ (laneOf s l).link ≠ .up ∧ (laneOf s l).er.retrainAt
      + 500 * ms ≤ s.clock)
    ∧ (∃ (l : _) (s : State), (laneOf s l).er.state = .confirming ∧ (laneOf s l).er.firstSent + 100 * ms ≤ s.clock)
    ∧ (∃ (l : _) (s : State), (laneOf s l).er.state = .agreed ∧ 3 ≤ (laneOf s l).er.failedRetrains) :=
  ⟨⟨0, withLane (erLane { state := .pending }), by decide +kernel⟩,
    ⟨0, withLane (erLane { state := .offered, sent := 9 }), by decide +kernel⟩,
    ⟨0, withLane (erLane { state := .switching, sent := 2 }), by decide +kernel⟩,
    ⟨0, withLane (erLane { state := .confirming, sent := 9 }), by decide +kernel⟩,
    ⟨0, withLane (erLane { state := .offered, sent := 10 }), by decide +kernel⟩,
    ⟨0, withLane { erLane { state := .offered } with toExchange := [erReceived 2] }, erReceived 2, [], by decide +kernel⟩,
    ⟨0, withLane { erLane { state := .confirming } with toExchange := [erReceived 5] }, erReceived 5, [], by decide +kernel⟩,
    ⟨0, withLane { erLane {} with toExchange := [⟨zeros 64, 0, none, 0⟩] }, ⟨zeros 64, 0, none, 0⟩, [], by decide +kernel⟩,
    ⟨0, withLane (erLane { state := .switching, sent := 1 }), by decide +kernel⟩,
    ⟨0, withLane { erLane { state := .switching } with fast := true, link := .training }, by decide +kernel⟩,
    ⟨0, withLane (erLane { state := .confirming }), by decide +kernel⟩,
    ⟨0, withLane (erLane { state := .agreed, failedRetrains := 3 }), by decide +kernel⟩⟩

theorem test_witness_StreamCommandsComplete :
    (∃ (c : _) (s : State), Accepted opStreamPortSet c s)
    ∧ (∃ (c : _) (s : State), Accepted opStreamSourceSet c s)
    ∧ (∃ (c : _) (s : State), Accepted opStreamCreate c s)
    ∧ (∃ (c : _) (s : State), Accepted opStreamConfig c s)
    ∧ (∃ (c : _) (s : State), Accepted opStreamDestroy c s)
    ∧ (∃ (c : _) (s : State), Accepted opStreamQuery c s)
    ∧ (∃ (c : _) (s : State), Accepted opActionSet c s)
    ∧ (∃ (c : _) (s : State), Accepted opActionQuery c s) :=
  ⟨⟨cm 0 [(1,0),(1,0),(2,50000)], on, accepted_of (by decide +kernel)⟩,
    ⟨cm 0 [(1,0),(1,1),(1,1),(1,0),(6,0x030000000002),(2,3956),(4,0x0A000003)], on, accepted_of (by decide +kernel)⟩,
    ⟨cm 0
      [(1,0),(1,0),(2,0),(2,0),(2,50001),(4,0),(4,0x01080001),(2,64),(2,4),(1,1),(1,0),(2,0),(4,0),(4,1000),(4,0),(4,0),(2,20),(1,3),(1,0),(4,250),(4,5000),(4,10000),(8,0)],
      on, accepted_of (by decide +kernel)⟩,
    ⟨cm 0x10020000
      [(1,0),(1,0),(2,0),(2,0),(2,50000),(4,0),(4,0x01080001),(2,64),(2,4),(1,1),(1,0),(2,0),(4,0),(4,1000),(4,0),(4,0),(2,20),(1,3),(1,0),(4,250),(4,5000),(4,10000),(8,0)],
      on, accepted_of (by decide +kernel)⟩,
    ⟨cm 0x10020000 [], { on with ad := {}, fs := {}, eng := { objs := [(1048576, { owner := 0 })] } }, accepted_of (by decide +kernel)⟩,
    ⟨cm 0x10020000 [], on, accepted_of (by decide +kernel)⟩,
    ⟨cm 0 [(1,0),(1,0),(1,0),(1,0),(1,2),(3,0),(4,1),(4,2),(4,3),(4,100000)], on, accepted_of (by decide +kernel)⟩,
    ⟨cm 0 [(1,0),(1,0),(2,0)], on, accepted_of (by decide +kernel)⟩⟩

theorem test_witness_PacketsAndGaps :
    (∃ (l : _) (s : State), (laneOf s l).toStream = [])
    ∧ (∃ (l : _) (s : State) (f : _) (rest : _) (g : _), (laneOf s l).toStream = f :: rest ∧ claimant s l (ipOf (f.bytes.drop 14)) = some g ∧
      gvspOf f = none)
    ∧ (∃ (l : _) (s : State) (f : _) (rest : _) (g : _) (p : _) (id : _), (laneOf s l).toStream = f :: rest ∧ claimant s l (ipOf (f.bytes.drop
      14)) = some g ∧ gvspOf f = some p ∧ malformed (channelOf s g).active.layout.id64 p = false ∧ extendId (channelOf s g) p = some id ∧
      (channelOf s g).blocks = [] ∧ (channelOf s g).mismatched ≠ some id ∧ (channelOf s g).dropped.contains id = false ∧ (∀ k, (channelOf s
      g).lastClosed = some k → k < id) ∧ (∀ k, (channelOf s g).lastOpened = some k → k < id) ∧ opening s (g / 64) = true ∧ p.format = 1 ∧
      p.status = 0 ∧ leaderOk (channelOf s g).active.layout p.body = true)
    ∧ (∃ (l : _) (s : State) (f : _) (rest : _) (g : _) (p : _) (id : _) (b : _) (x : _) (y : _) (z : _), (laneOf s l).toStream = f :: rest ∧
      claimant s l (ipOf (f.bytes.drop 14)) = some g ∧ gvspOf f = some p ∧ malformed (channelOf s g).active.layout.id64 p = false ∧ extendId
      (channelOf s g) p = some id ∧ b ∈ (channelOf s g).blocks ∧ blockOf s g id = some b ∧ b.trailer = none ∧ (∀ k, (channelOf s
      g).lastClosed = some k → k < id) ∧ heldPackets (channelOf s g) < 4096 ∧ p.status = 0 ∧ tget? b.positions p.pid = some (.present x y
      z))
    ∧ (∃ (g : _) (s : State) (b : _) (q : _) (x : _), (channelOf s g).blocks = [b] ∧ b.gaps = [(q, x)] ∧ dueRequest s true x = true ∧ caughtUp s g
      s.clock = true ∧ yields s (channelOf s g).active.layout.lane 5 = false ∧ isUp s (channelOf s g).active.layout.lane = true)
    ∧ (∃ (g : _) (s : State) (b : _) (q : _) (x : _), (channelOf s g).blocks = [b] ∧ b.gaps = [(q, x)] ∧ dueRequest s false x = true ∧ caughtUp s
      g s.clock = true ∧ yields s (channelOf s g).active.layout.lane 5 = false ∧ isUp s (channelOf s g).active.layout.lane = true)
    ∧ (∃ (g : _) (s : State) (b : _) (q : _) (at_ : _), (channelOf s g).blocks = [b] ∧ spentGaps s g b = [(q, at_)])
    ∧ (∃ (g : _) (s : State) (b : _), (channelOf s g).blocks = [b] ∧ trailerOf (blockSet (channelOf s g) b) b = none ∧ caughtUp s g s.clock = true
      ∧ (channelOf s g).lastPacket + (channelOf s g).active.layout.quietUs * us ≤ s.clock)
    ∧ (∃ (n : _) (s : State) (due : _), nextSend (schedOf s n) = some due ∧ (schedOf s n).kind = .action ∧ (schedOf s n).state ≠ 0 ∧ serving s (n
      / 8) = true ∧ due ≤ s.time.now + leadOf s n (schedOf s n) ∧ yields s (tget {} s.st.actions (n / 8 * 16 + (schedOf s n).index)).lane 4
      = false ∧ (tget {} s.st.actions (n / 8 * 16 + (schedOf s n).index)).valid = true ∧ ((tget {} s.st.actions (n / 8 * 16 + (schedOf s
      n).index)).dest = 16 ∨ (tget {} s.st.sources ((tget {} s.st.actions (n / 8 * 16 + (schedOf s n).index)).lane * 16 + (tget {}
      s.st.actions (n / 8 * 16 + (schedOf s n).index)).dest)).valid = true) ∧ isUp s (tget {} s.st.actions (n / 8 * 16 + (schedOf s
      n).index)).lane = true)
    ∧ (∃ (n : _) (s : State) (due : _), nextSend (schedOf s n) = some due ∧ (schedOf s n).kind = .action ∧ (schedOf s n).state ≠ 0 ∧ serving s (n
      / 8) = true ∧ due ≤ s.time.now + leadOf s n (schedOf s n) ∧ yields s (tget {} s.st.actions (n / 8 * 16 + (schedOf s n).index)).lane 4
      = false ∧ ((tget {} s.st.actions (n / 8 * 16 + (schedOf s n).index)).valid = false ∨ isUp s (tget {} s.st.actions (n / 8 * 16 +
      (schedOf s n).index)).lane = false ∨ ((tget {} s.st.actions (n / 8 * 16 + (schedOf s n).index)).dest ≠ 16 ∧ (tget {} s.st.sources
      ((tget {} s.st.actions (n / 8 * 16 + (schedOf s n).index)).lane * 16 + (tget {} s.st.actions (n / 8 * 16 + (schedOf s
      n).index)).dest)).valid = false))) :=
  ⟨⟨0, on, by decide +kernel⟩,
    ⟨0, withStream chan0 [datagram []], datagram [], [], 0, by decide +kernel⟩,
    ⟨0, withStream chan0 [datagram leaderBytes], datagram leaderBytes, [], 0, (gvspOf (datagram leaderBytes)).get (by decide +kernel), 1,
      by decide +kernel, by decide +kernel, by decide +kernel, by decide +kernel, by decide +kernel, by decide +kernel, by decide +kernel,
      by decide +kernel, (fun k h => nomatch (show (none : Option Nat) = some k from h)), (fun k h => nomatch (show (none : Option Nat) =
      some k from h)), by decide +kernel⟩,
    ⟨0, withStream { chan0 with blocks := [openBlock0] } [datagram leaderBytes], datagram leaderBytes, [], 0, (gvspOf (datagram
      leaderBytes)).get (by decide +kernel), 1, openBlock0, 0, [], false, by decide +kernel, by decide +kernel, by decide +kernel,
      by decide +kernel, by decide +kernel, by decide +kernel, by decide +kernel, by decide +kernel, (fun k h => nomatch (show (none :
      Option Nat) = some k from h)), by decide +kernel⟩,
    ⟨0, withStream { chan0 with blocks := [{ block0 with gaps := [(1, gap0)] }] } [], { block0 with gaps := [(1, gap0)] }, 1, gap0,
      by decide +kernel⟩,
    ⟨0, withStream { chan0 with blocks := [{ block0 with gaps := [(1, { gap0 with requests := 1 })] }] } [],
      { block0 with gaps := [(1, { gap0 with requests := 1 })] }, 1, { gap0 with requests := 1 }, by decide +kernel⟩,
    ⟨0, withStream { chan0 with blocks := [{ block0 with gaps := [(1, gap0)] }] } [], { block0 with gaps := [(1, gap0)] }, 1, 770,
      by decide +kernel⟩,
    ⟨0, withStream { chan0 with blocks := [block0] } [], block0, by decide +kernel⟩,
    ⟨0, actionState { valid := true, dest := 16 }, 10 ^ 12 * 65536, by decide +kernel⟩,
    ⟨0, actionState { valid := true, dest := 1 }, 10 ^ 12 * 65536, by decide +kernel⟩⟩

theorem test_witness_FramesAndCommitsComplete :
    (∃ (g : _) (s : State) (b : _) (l : _) (rest : _), (channelOf s g).blocks = b :: rest ∧ b.frame = none ∧ b.leader = some l ∧ opening s (g /
      64) = true)
    ∧ (∃ (g : _) (s : State) (b : _) (l : _), (channelOf s g).blocks = [b] ∧ b.frame = none ∧ b.leader = some l ∧ opening s (g / 64) = false)
    ∧ (∃ (g : _) (s : State), (channelOf s g).blocks = [] ∧ (channelOf s g).frames = [])
    ∧ (∃ (g : _) (s : State) (f : _) (n : _) (p : _), (channelOf s g).frames = [f] ∧ f.posWaiting = [n] ∧ midTime f.expo f.set ≤ (ns s : Int) ∧
      service s (slotMi f.set n / 2) = .inService ∧ positionAt s (slotMi f.set n) (midTime f.expo f.set) = some p)
    ∧ (∃ (g : _) (s : State) (f : _) (n : _), (channelOf s g).frames = [f] ∧ f.posWaiting = [n] ∧ midTime f.expo f.set ≤ (ns s : Int) ∧ service s
      (slotMi f.set n / 2) = .inService ∧ positionAt s (slotMi f.set n) (midTime f.expo f.set) = none)
    ∧ (∃ (g : _) (s : State) (f : _), (channelOf s g).frames.find? (fun f => !f.dropped && !f.tagged) = some f ∧ tagReady f = true)
    ∧ (∃ (g : _) (s : State) (f : _), (channelOf s g).frames.find? (fun f => !f.dropped && !f.tagged) = some f ∧ tagReady f = false)
    ∧ (∃ (g : _) (s : State) (p : _) (rest : _), (channelOf s g).commits = p :: rest ∧ p.at_ = none ∧ p.building = false ∧ serving s (g / 64) =
      true)
    ∧ (∃ (g : _) (s : State) (p : _) (rest : _) (a : _), (channelOf s g).commits = p :: rest ∧ p.at_ = some a ∧ p.building = false ∧ serving s (g
      / 64) = true ∧ a ≤ s.time.now)
    ∧ (∃ (g : _) (s : State) (p : _) (rest : _) (a : _), (channelOf s g).commits = p :: rest ∧ p.at_ = some a ∧ s.time.now < a) :=
  ⟨⟨0, withStream { chan0 with blocks := [block0] } [], block0, leader0, [], by decide +kernel⟩,
    ⟨0, withChan { chan0 with blocks := [block0] }, block0, leader0, by decide +kernel⟩,
    ⟨0, on, by decide +kernel⟩,
    ⟨0, withHistory [(0, 5)] { frame0 with posWaiting := [0] }, { frame0 with posWaiting := [0] }, 0, 5, by decide +kernel⟩,
    ⟨0, withHistory [] { frame0 with posWaiting := [0] }, { frame0 with posWaiting := [0] }, 0, by decide +kernel⟩,
    ⟨0, withChan { chan0 with frames := [untagged] }, untagged, by decide +kernel⟩,
    ⟨0, withChan { chan0 with frames := [{ untagged with decided := false }] }, { untagged with decided := false }, by decide +kernel⟩,
    ⟨0, withChan { chan0 with commits := [{ set := set0, wait := none }] }, { set := set0, wait := none }, [], by decide +kernel⟩,
    ⟨0, withChan { chan0 with commits := [{ set := set0, wait := none, at_ := some (10 ^ 12 * 65536) }] },
      { set := set0, wait := none, at_ := some (10 ^ 12 * 65536) }, [], 10 ^ 12 * 65536, by decide +kernel⟩,
    ⟨0, withChan { chan0 with commits := [{ set := set0, wait := none, at_ := some (10 ^ 12 * 65536 + 1) }] },
      { set := set0, wait := none, at_ := some (10 ^ 12 * 65536 + 1) }, [], 10 ^ 12 * 65536 + 1, by decide +kernel⟩⟩

theorem test_witness_AssemblyCommandsComplete :
    (∃ (c : _) (s : State), Accepted opFaConfig c s)
    ∧ (∃ (c : _) (s : State), Accepted opFaQuery c s)
    ∧ (∃ (c : _) (s : State), Accepted opFaStageBegin c s)
    ∧ (∃ (c : _) (s : State), Accepted opFaStageCommit c s ∧ stageAt c = none)
    ∧ (∃ (c : _) (s : State) (a : _), Accepted opFaStageCommit c s ∧ stageAt c = some a ∧ s.time.now ≤ a)
    ∧ (∃ (c : _) (s : State) (o : _), Accepted opFaStageAbort c s ∧ obj? s (chanSlot (chanOfHandle (tgt c))) = some o)
    ∧ (∃ (c : _) (s : State), Accepted opAnchorSet c s) :=
  ⟨⟨cm 0x10020000 [(1,0),(1,0),(2,0),(4,1000),(4,0),(4,0),(8,0)], on, accepted_of (by decide +kernel)⟩,
    ⟨cm 0x10020000 [], on, accepted_of (by decide +kernel)⟩,
    ⟨cm 0x10020000 [], on, accepted_of (by decide +kernel)⟩,
    ⟨cm 0x10020000 [(16,0)], withChan { chan0 with staging := true }, accepted_of (by decide +kernel), by decide +kernel⟩,
    ⟨cm 0x10020000 [(6,1060),(10,0)], withChan { chan0 with staging := true }, 1060 * 10 ^ 9 * 65536, accepted_of (by decide +kernel),
      by decide +kernel⟩,
    ⟨cm 0x10020000 [], withChan { chan0 with staging := true }, { owner := 0 }, accepted_of (by decide +kernel), by decide +kernel⟩,
    ⟨cm 0 [(4,100)], on, accepted_of (by decide +kernel)⟩⟩

theorem test_witness_CodecCommandsComplete :
    (∃ (c : _) (s : State), Accepted opCdConfig c s)
    ∧ (∃ (c : _) (s : State), Accepted opCdQuery c s)
    ∧ (∃ (c : _) (s : State), Accepted opCdCalSet c s)
    ∧ (∃ (c : _) (s : State), Accepted opCdCalSample c s)
    ∧ (∃ (c : _) (s : State), Accepted opCdCalFit c s)
    ∧ (∃ (c : _) (s : State), Accepted opCdTableRead c s)
    ∧ (∃ (c : _) (s : State), Accepted opCdCheckSet c s)
    ∧ (∃ (c : _) (s : State), Accepted (opCdEngineRestore true) c s)
    ∧ (∃ (c : _) (s : State), Accepted (opCdEngineRestore false) c s) :=
  ⟨⟨cm 0x10020000 [(1,1),(1,0),(1,0),(1,0),(1,0),(1,0),(2,0),(8,0)], on, accepted_of (by decide +kernel)⟩,
    ⟨cm 0x10020000 [], on, accepted_of (by decide +kernel)⟩,
    ⟨cm 0x10020000 [(4,1600),(4,65536),(2,256),(2,0)], on, accepted_of (by decide +kernel)⟩,
    ⟨cm 0x10020000 [(1,1),(1,0),(2,0),(2,0),(2,64),(2,16),(6,0)], inMode .calibrate (withChan
      { chan0 with shadow := wide, active := wide, sent := wide }), accepted_of (by decide +kernel)⟩,
    ⟨cm 0x10020000 [(1,0),(3,0)], inMode .calibrate (withCodecChan
      { points := [⟨true, 4, 400, 0, 12⟩, ⟨false, 4, 800, 0, 16⟩, ⟨false, 4, 1200, 0, 20⟩] }), accepted_of (by decide +kernel)⟩,
    ⟨cm 0x10020000 [(1,0),(1,1),(2,0),(4,0)], calChan, accepted_of (by decide +kernel)⟩,
    ⟨cm 0 [(2,32),(2,0)], on, accepted_of (by decide +kernel)⟩,
    ⟨cm 0 [(1,0),(1,0),(2,0)], withCodec { suspect := true }, accepted_of (by decide +kernel)⟩,
    ⟨cm 0 [(1,0),(1,0),(2,0)], withCodec { suspect := true }, accepted_of (by decide +kernel)⟩⟩

theorem test_witness_SlicesPassTheCodec :
    (∃ (g : _) (s : State), nextToDeal (channelOf s g).frames = none)
    ∧ (∃ (g : _) (s : State) (f : _), nextToDeal (channelOf s g).frames = some f ∧ bandsReady s g f ≤ f.dealt)
    ∧ (∃ (g : _) (s : State) (f : _), (channelOf s g).frames = [f] ∧ f.dropped = false ∧ f.lines.length < frameHeight f.leader ∧ f.dealt <
      bandsReady s g f ∧ f.set.codec.mode = .off ∧ f.set.rois = [])
    ∧ (∃ (g : _) (s : State) (f : _), (channelOf s g).frames = [f] ∧ f.dropped = false ∧ f.lines.length < frameHeight f.leader ∧ f.dealt <
      bandsReady s g f ∧ f.set.codec.mode ≠ .off ∧ f.set.rois = [] ∧ (∀ e, e < 4 → (engineOf s (g / 64 * 4 + e)).suspect = false ∧ (engineOf
      s (g / 64 * 4 + e)).escaping = false ∧ (engineOf s (g / 64 * 4 + e)).buffer.length + (placesOf f f.dealt).length ≤ 256))
    ∧ (∃ (s : State) (tile : _) (e : _), pickEngine s tile = some e)
    ∧ (∃ (tile : Nat) (e : Nat) (n : Nat) (s : State) (r : _) (f : _) (x : _), ((engineOf s (tile * 4 + e)).buffer.take 16)[n]? = some r ∧ sliceAt
      s r = some (f, x) ∧ (engineOf s (tile * 4 + e)).sampled = true)
    ∧ (∃ (tile : Nat) (e : Nat) (n : Nat) (s : State) (r : _) (f : _) (x : _), ((engineOf s (tile * 4 + e)).buffer.take 16)[n]? = some r ∧ sliceAt
      s r = some (f, x) ∧ (engineOf s (tile * 4 + e)).sampled = false ∧ s.cd.sampleN ≤ (engineOf s (tile * 4 + e)).sinceCheck + 1 ∧
      (codeSlice (frameFmt f).bits x.plane (codingOf f.set x.k) x.pixels).1 ≠ 1 ∧ injectionDue s tile 0x0E e = false ∧ r.channel / 64 =
      tile)
    ∧ (∃ (tile : _) (e : _) (s : State) (a : _) (b : _) (c : _), (engineOf s (tile * 4 + e)).suspect = false ∧ (engineOf s (tile * 4 +
      e)).mismatchAt = [a, b, c] ∧ a ≤ c + 1000 * ms)
    ∧ (∃ (tile : _) (e : _) (s : State), 192 < (engineOf s (tile * 4 + e)).buffer.length)
    ∧ (∃ (tile : _) (e : _) (s : State), (engineOf s (tile * 4 + e)).buffer.length ≤ 192)
    ∧ (∃ (tile : _) (e : _) (s : State), (engineOf s (tile * 4 + e)).buffer.length < 64)
    ∧ (∃ (tile : _) (e : _) (s : State), 64 ≤ (engineOf s (tile * 4 + e)).buffer.length)
    ∧ (∃ (g : _) (s : State) (p : _) (rest : _), (channelOf s g).commits = p :: rest ∧ p.building = true)
    ∧ (∃ (g : _) (s : State) (k : _) (x : _) (y : _), (codecChan s g).sample = some k ∧ k.pair = some (x, y)) :=
  ⟨⟨0, on, by decide +kernel⟩,
    ⟨0, withChan { chan0 with frames := [{ untagged with lines := [], closed := false }] }, { untagged with lines := [], closed := false },
      by decide +kernel⟩,
    ⟨0, withChan { chan0 with frames := [{ untagged with lines := [] }] }, { untagged with lines := [] }, by decide +kernel⟩,
    ⟨0, withChan { chan0 with frames := [coded] }, coded, by decide +kernel⟩,
    ⟨on, 0, 0, by decide +kernel⟩,
    ⟨0, 0, 0, withSlice { buffer := [ref0], sinceCheck := 1, sampled := true }, ref0, sliced, slice0, by decide +kernel⟩,
    ⟨0, 0, 0, withSlice { buffer := [ref0], sinceCheck := 63 }, ref0, sliced, slice0, by decide +kernel⟩,
    ⟨0, 0, withCodec { mismatchAt := [10 ^ 9, 10 ^ 9, 0] }, 10 ^ 9, 10 ^ 9, 0, by decide +kernel⟩,
    ⟨0, 0, withCodec { buffer := List.replicate 193 ref0 }, by decide +kernel⟩,
    ⟨0, 0, withCodec { buffer := List.replicate 192 ref0 }, by decide +kernel⟩,
    ⟨0, 0, withCodec { buffer := List.replicate 63 ref0 }, by decide +kernel⟩,
    ⟨0, 0, withCodec { buffer := List.replicate 64 ref0 }, by decide +kernel⟩,
    ⟨0, withChan { chan0 with commits := [{ set := set0, wait := none, building := true }] }, { set := set0, wait := none, building := true },
      [], by decide +kernel⟩,
    ⟨0, withCodecChan { sample := some sample0 }, sample0, [1], [2], by decide +kernel⟩⟩

theorem test_witness_RingAndSegmentCommands :
    (∃ (c : _) (s : State), Accepted opFsRingSet c s)
    ∧ (∃ (c : _) (s : State), Accepted opFsQuery c s)
    ∧ (∃ (c : _) (s : State), Accepted opFsSegArm c s)
    ∧ (∃ (c : _) (s : State) (x : _), Accepted opFsTrigger c s ∧ segOfTarget c s = some x)
    ∧ (∃ (c : _) (s : State) (x : _), Accepted opFsSegRelease c s ∧ segOfTarget c s = some x)
    ∧ (∃ (c : _) (s : State), Accepted opFsFreezeRing c s)
    ∧ (∃ (c : _) (s : State) (x : _), Accepted opFsSegQuery c s ∧ segOfTarget c s = some x)
    ∧ (∃ (c : _) (s : State) (x : _), Accepted opFsDirRead c s ∧ segOfTarget c s = some x) :=
  ⟨⟨cm 0x10020000 [(4,16)], on, accepted_of (by decide +kernel)⟩,
    ⟨cm 0 [(1,0),(3,0)], on, accepted_of (by decide +kernel)⟩,
    ⟨cm 0 [(4,0x10020000),(2,1),(2,1),(4,0),(4,0),(1,0),(7,0)], noActive, accepted_of (by decide +kernel)⟩,
    ⟨cm 0x30020001 [(16,0)], inMode .record on, activeSegment, accepted_of (by decide +kernel), by decide +kernel⟩,
    ⟨cm 0x30020000 [], on, frozenSeg, accepted_of (by decide +kernel), by decide +kernel⟩,
    ⟨cm 0x10020000 [], noActive, accepted_of (by decide +kernel)⟩,
    ⟨cm 0x30020000 [], on, frozenSeg, accepted_of (by decide +kernel), by decide +kernel⟩,
    ⟨cm 0x30020000 [(4,0),(4,0)], on, frozenSeg, accepted_of (by decide +kernel), by decide +kernel⟩⟩

theorem test_witness_RecordsAndTriggers :
    (∃ (g : _) (s : State) (f : _), Recordable s g f ∧ (ringOf s g).target ≠ 0 ∧ (ringOf s g).pages ≤ (ringOf s g).target ∧ (recordOf s g
      f).pages ≤ unusedPages (ringOf s g) ∧ indexUsed s (g / 64) < indexTotal ∧ activeSeg s g = none)
    ∧ (∃ (g : _) (s : State) (f : _), Recordable s g f ∧ indexUsed s (g / 64) < indexTotal ∧ activeSeg s g = none ∧ usedPages (ringOf s g) ≤
      (ringOf s g).pages ∧ unusedPages (ringOf s g) < (recordOf s g f).pages ∧ (ringOf s g).pages + ((recordOf s g f).pages - unusedPages
      (ringOf s g)) ≤ (ringOf s g).target ∧ (recordOf s g f).pages - unusedPages (ringOf s g) ≤ poolFree s (g / 64))
    ∧ (∃ (g : _) (s : State) (f : _) (x : _) (rest : _), Recordable s g f ∧ indexUsed s (g / 64) < indexTotal ∧ activeSeg s g = none ∧ (ringOf s
      g).pages = (ringOf s g).target ∧ (ringOf s g).target ≠ 0 ∧ (ringOf s g).frames = x :: rest ∧ (∀ y ∈ rest, y.seq ≠ x.seq) ∧ usedPages
      (ringOf s g) ≤ (ringOf s g).pages ∧ unusedPages (ringOf s g) < (recordOf s g f).pages ∧ (recordOf s g f).pages ≤ unusedPages (ringOf s
      g) + x.pages)
    ∧ (∃ (g : _) (s : State) (f : _) (k : _) (x : _), Recordable s g f ∧ indexUsed s (g / 64) < indexTotal ∧ activeSeg s g = some (k, x) ∧ x.state
      = .armed ∧ (ringOf s g).pages = (ringOf s g).target ∧ (ringOf s g).target ≠ 0 ∧ oldestFree s g = none ∧ usedPages (ringOf s g) ≤
      (ringOf s g).pages ∧ unusedPages (ringOf s g) < (recordOf s g f).pages ∧ (recordOf s g f).pages - unusedPages (ringOf s g) ≤ poolFree
      s (g / 64))
    ∧ (∃ (g : _) (s : State) (f : _) (k : _) (x : _) (y : _) (rest : _), Recordable s g f ∧ indexUsed s (g / 64) < indexTotal ∧ activeSeg s g =
      some (k, x) ∧ x.state = .armed ∧ (ringOf s g).pages = (ringOf s g).target ∧ (ringOf s g).target ≠ 0 ∧ oldestFree s g = none ∧ (ringOf
      s g).frames = y :: rest ∧ (∀ z ∈ rest, z.seq ≠ y.seq) ∧ usedPages (ringOf s g) ≤ (ringOf s g).pages ∧ unusedPages (ringOf s g) <
      (recordOf s g f).pages ∧ poolFree s (g / 64) < (recordOf s g f).pages - unusedPages (ringOf s g) ∧ (recordOf s g f).pages ≤
      unusedPages (ringOf s g) + y.pages)
    ∧ (∃ (g : _) (s : State) (f : _), Recordable s g f ∧ activeSeg s g = none ∧ (ringOf s g).pages = (ringOf s g).target ∧ (ringOf s g).target ≠ 0
      ∧ (ringOf s g).frames = [] ∧ (ringOf s g).pages < (recordOf s g f).pages ∧ poolFree s (g / 64) < (recordOf s g f).pages - (ringOf s
      g).pages)
    ∧ (∃ (g : _) (s : State) (f : _), Recordable s g f ∧ (ringOf s g).target = 0 ∧ activeSeg s g = none)
    ∧ (∃ (g : _) (s : State) (f : _), (channelOf s g).frames.find? (fun f => f.record && !f.recorded && !f.dropped) = some f ∧ f.tagged = false)
    ∧ (∃ (g : _) (n : _) (s : State) (e : _) (s' : _), serving s (g / 64) = true ∧ takeInput (g / 64) (512 + g % 64) n s = some (e, s') ∧
      activeSeg s g = none)
    ∧ (∃ (g : _) (n : _) (s : State) (e : _) (s' : _) (k : _) (x : _), serving s (g / 64) = true ∧ takeInput (g / 64) (512 + g % 64) n s = some
      (e, s') ∧ activeSeg s g = some (k, x) ∧ x.state = .armed ∧ k < 131072 ∧ tget? s.fs.segs k = some x ∧ (obj? s (segSlot k)).isSome =
      true)
    ∧ (∃ (k : _) (s : State) (x : _), tget? s.fs.segs k = some x ∧ x.state = .triggered ∧ k < 131072 ∧ (obj? s (segSlot k)).isSome = true ∧
      x.postWaitMs ≠ 0 ∧ x.acceptedAt + x.postWaitMs * ms ≤ s.clock ∧ x.t.getD 0 + (x.postWaitMs * ms * 65536 : Nat) ≤ (s.time.now : Int))
    ∧ (∃ (k : _) (s : State) (x : _), tget? s.fs.segs k = some x ∧ x.postWaitMs = 0) :=
  ⟨⟨0, withRing { target := 8, pages := 8 }, toRecord, by unfold Recordable; decide +kernel, by decide +kernel⟩,
    ⟨0, withRing { target := 1 }, toRecord, by unfold Recordable; decide +kernel, by decide +kernel⟩,
    ⟨0, withRing { target := 1, pages := 1, frames := [older] }, toRecord, older, [], by unfold Recordable; decide +kernel, by decide +kernel⟩,
    ⟨0, withArmed { target := 1, pages := 1, frames := [older] }, toRecord, 1, activeSegment, by unfold Recordable; decide +kernel,
      by decide +kernel⟩,
    ⟨0, poolUsed (withArmed { target := 1, pages := 1, frames := [older] }), toRecord, 1, activeSegment, older, [],
      by unfold Recordable; decide +kernel, by decide +kernel⟩,
    ⟨0, withBig, big, big_recordable, by decide +kernel, by decide +kernel, by decide +kernel, by decide +kernel,
      by rw [big_pages]; decide +kernel, by rw [big_pages]; decide +kernel⟩,
    ⟨0, withRing {}, toRecord, by unfold Recordable; decide +kernel, by decide +kernel⟩,
    ⟨0, withChan { chan0 with frames := [{ toRecord with tagged := false }] }, { toRecord with tagged := false }, by decide +kernel⟩,
    ⟨0, 0, atInput 512 noActive, ev0, taken 512 noActive, by decide +kernel⟩,
    ⟨0, 0, atInput 512 on, ev0, taken 512 on, 1, activeSegment, by decide +kernel⟩,
    ⟨0, withSeg triggered, triggered, by decide +kernel⟩,
    ⟨0, on, frozenSeg, by decide +kernel⟩⟩

theorem test_witness_ReadoutsAndMappings :
    (∃ (c : _) (s : State) (x : _), Accepted opFsRead c s ∧ segOfTarget c s = some x ∧ ((readoutFrames x (par c 8 4) (par c 12 4)).filter fun i
      => !badFrame s (segNumber (tgt c)) i) ≠ [])
    ∧ (∃ (k : _) (s : State) (r : _) (x : _) (d : _) (f : _), tget? s.fs.readouts k = some r ∧ tget? s.fs.segs k = some x ∧ readoutDelivery s k =
      some d ∧ x.frames.find? (fun f => decide (f.seq = d.frame)) = some f ∧ r.ending = none ∧ d.tagWritten = false ∧ f.bad = false ∧ f.err
      = 0)
    ∧ (∃ (k : _) (s : State) (r : _) (e : _) (x : _), tget? s.fs.readouts k = some r ∧ r.ending = some e ∧ r.recording = false ∧ readoutDelivery s
      k = none ∧ queueLive s r.cpl .completion = false ∧ tget? s.fs.segs k = some x)
    ∧ (∃ (k : _) (s : State) (r : _), tget? s.fs.readouts k = some r ∧ r.ending = none)
    ∧ (∃ (c : _) (s : State) (r : _), Accepted opFsReadAbort c s ∧ tget? s.fs.readouts (segNumber (par c 0 4)) = some r ∧ r.ending = none)
    ∧ (∃ (c : _) (s : State), Accepted opFsReadAbort c s ∧ tget? s.fs.readouts (segNumber (par c 0 4)) = none)
    ∧ (∃ (c : _) (s : State), Accepted opFsMap c s ∧ ownMapping c s = none)
    ∧ (∃ (c : _) (s : State) (m : _), Accepted opFsMap c s ∧ ownMapping c s = some m)
    ∧ (∃ (c : _) (s : State), Accepted opFsUnmap c s) :=
  ⟨⟨cm 0x30020000 [(4,0x20020014),(4,0x20020015),(4,0),(4,0),(8,0)], inMode .review on, frozenSeg, accepted_of (by decide +kernel),
      by decide +kernel⟩,
    ⟨0, withReadout readout0 [readDelivery], readout0, frozenSeg, readDelivery, frozenRec, by decide +kernel⟩,
    ⟨0, withReadout { readout0 with ending := some 1, cpl := 0 } [], { readout0 with ending := some 1, cpl := 0 }, 1, frozenSeg,
      by decide +kernel⟩,
    ⟨0, withReadout readout0 [], readout0, by decide +kernel⟩,
    ⟨cm 0 [(4,0x30020000)], withReadout readout0 [], readout0, accepted_of (by decide +kernel), by decide +kernel⟩,
    ⟨cm 0 [(4,0x30020000)], on, accepted_of (by decide +kernel), by decide +kernel⟩,
    ⟨cm 0x30020000 [(8,0)], inMode .review on, accepted_of (by decide +kernel), by decide +kernel⟩,
    ⟨cm 0x30020000 [(8,0)], inMode .review { on with fs := { on.fs with maps := [map0] } }, map0, accepted_of (by decide +kernel),
      by decide +kernel⟩,
    ⟨cm 0x30020000 [], { on with fs := { on.fs with maps := [map0] } }, accepted_of (by decide +kernel)⟩⟩

theorem test_witness_DetectorCommandsComplete :
    (∃ (c : _) (s : State), Accepted opAdRoiSet c s)
    ∧ (∃ (c : _) (s : State), Accepted opAdQuery c s)
    ∧ (∃ (c : _) (s : State), Accepted opAdRuleCreate c s)
    ∧ (∃ (c : _) (s : State), Accepted opAdRuleConfig c s)
    ∧ (∃ (c : _) (s : State) (r : _), Accepted opAdRuleArm c s ∧ tget? s.ad.rules (ruleNumber (tgt c)) = some r)
    ∧ (∃ (c : _) (s : State), Accepted opAdRuleQuery c s)
    ∧ (∃ (c : _) (s : State), Accepted opAdRuleDestroy c s)
    ∧ (∃ (c : _) (s : State), Accepted opAdRefCreate c s)
    ∧ (∃ (c : _) (s : State) (r : _), Accepted opAdRefCapture c s ∧ refOf s (tgt c) = some r)
    ∧ (∃ (c : _) (s : State), Accepted opAdRefDestroy c s)
    ∧ (∃ (c : _) (s : State), Accepted opAdRefQuery c s)
    ∧ (∃ (g : _) (n : _) (s : State) (e : _) (s' : _) (k : _) (r : _), serving s (g / 64) = true ∧ takeInput (g / 64) (576 + g % 64) n s = some
      (e, s') ∧ tget? s.ad.rules k = some r ∧ r.channel = g ∧ onceRule s k r = true)
    ∧ (∃ (g : _) (n : _) (s : State) (e : _) (s' : _) (k : _) (r : _), serving s (g / 64) = true ∧ takeInput (g / 64) (576 + g % 64) n s = some
      (e, s') ∧ tsorted 0 s.ad.rules = true ∧ tget? s.ad.rules k = some r ∧ (r.channel ≠ g ∨ onceRule s k r = false))
    ∧ (∃ (g : _) (n : _) (s : State), (serving s (g / 64) = false ∨ takeInput (g / 64) (576 + g % 64) n s = none))
    ∧ (∃ (k : _) (s : State) (r : _) (p : _), tget? s.ad.refs k = some r ∧ r.capture = some p ∧ p.full = true)
    ∧ (∃ (k : _) (s : State) (r : _) (p : _), tget? s.ad.refs k = some r ∧ r.capture = some p ∧ p.full = false) :=
  ⟨⟨cm 0x10020000 [(1,0),(1,1),(1,1),(1,0),(2,0),(2,0),(2,64),(2,4),(4,0),(8,0)], on, accepted_of (by decide +kernel)⟩,
    ⟨cm 0x10020000 [(1,0),(3,0)], on, accepted_of (by decide +kernel)⟩,
    ⟨cm 0 [(4,0x10020000),(1,0),(1,0),(1,0),(1,0),(8,100),(1,1),(1,1),(1,0),(1,0),(1,0),(1,1),(10,0)], on, accepted_of (by decide +kernel)⟩,
    ⟨cm 0x80020000 [(4,0x10020000),(1,0),(1,0),(1,0),(1,0),(8,100),(1,1),(1,1),(1,0),(1,0),(1,0),(1,1),(10,0)], on,
      accepted_of (by decide +kernel)⟩,
    ⟨cm 0x80020000 [], on, { channel := 0 }, accepted_of (by decide +kernel), by decide +kernel⟩,
    ⟨cm 0x80020000 [], on, accepted_of (by decide +kernel)⟩,
    ⟨cm 0x80020000 [], on, accepted_of (by decide +kernel)⟩,
    ⟨cm 0 [(4,0x10020000),(2,0),(2,0),(2,64),(2,4),(1,1),(3,0)], on, accepted_of (by decide +kernel)⟩,
    ⟨cm 0x90020000 [(1,4),(3,0)], on, ref1 none, accepted_of (by decide +kernel), by decide +kernel⟩,
    ⟨cm 0x90020000 [], on, accepted_of (by decide +kernel)⟩,
    ⟨cm 0x90020000 [], on, accepted_of (by decide +kernel)⟩,
    ⟨0, 0, atInput 576 once, ev0, taken 576 once, 0, { channel := 0 }, by decide +kernel⟩,
    ⟨0, 0, atInput 576 on, ev0, taken 576 on, 0, { channel := 0 }, by decide +kernel⟩,
    ⟨0, 0, on, by decide +kernel⟩,
    ⟨0, withRef capture0, ref1 (some capture0), capture0, by decide +kernel⟩,
    ⟨0, withRef { capture0 with full := false }, ref1 (some { capture0 with full := false }), { capture0 with full := false },
      by decide +kernel⟩⟩

theorem test_witness_PackageTimeCommands :
    (∃ (c : _) (s : State), Accepted opTimeQuery c s)
    ∧ (∃ (c : _) (s : State), Accepted opTimeSet c s)
    ∧ (∃ (c : _) (s : State), Accepted opTimeAdjust c s)
    ∧ (∃ (c : _) (s : State), Accepted opTimeServoSet c s ∧ (par c 0 1 = 1 ↔ s.time.clock = .host))
    ∧ (∃ (c : _) (s : State), Accepted opTimeServoSet c s ∧ ¬(par c 0 1 = 1 ↔ s.time.clock = .host))
    ∧ (∃ (s : State) (tc : _) (a : _) (rest : _), s.time.changes = (tc, .freq a) :: rest ∧ tc ≤ s.time.now)
    ∧ (∃ (s : State) (tc : _) (u : _) (rest : _), s.time.changes = (tc, .slew u) :: rest ∧ tc ≤ s.time.now)
    ∧ (∃ (s : State) (tc : _) (d : _) (b : _) (rest : _), s.time.changes = (tc, .step d b) :: rest ∧ tc ≤ s.time.now)
    ∧ (∃ (s : State) (tc : _) (x : _) (rest : _), s.time.changes = (tc, x) :: rest ∧ s.time.now < tc)
    ∧ (∃ (tile : _) (s : State) (e : _), serving s tile = true ∧ Int.natAbs e ≤ 8)
    ∧ (∃ (c : _) (s : State), Accepted opCalSet c s ∧ par c 0 1 = 0)
    ∧ (∃ (c : _) (s : State), Accepted opCalSet c s ∧ par c 0 1 ≠ 0)
    ∧ (∃ (c : _) (s : State), Accepted opCalQuery c s)
    ∧ (∃ (s : State), (s.time.clock = .locked ∨ s.time.setByHost = true) ∧ (∀ a, s.cal.alignedAt = some a → a + 1000 * ms ≤ s.clock)) :=
  ⟨⟨cm 0 [], on, accepted_of (by decide +kernel)⟩,
    ⟨cm 0 [(6,2000),(4,5),(2,0),(4,0)], { on with time := { on.time with clock := .freeRun } }, accepted_of (by decide +kernel)⟩,
    ⟨cm 0 [(1,0),(1,0),(2,0),(4,100),(8,0)], { on with time := { on.time with clock := .host } }, accepted_of (by decide +kernel)⟩,
    ⟨cm 0 [(1,0),(1,8),(2,100),(4,10000),(2,50),(6,0)], on, accepted_of (by decide +kernel), by decide +kernel⟩,
    ⟨cm 0 [(1,1),(1,8),(2,100),(4,10000),(2,50),(6,0)], on, accepted_of (by decide +kernel), by decide +kernel⟩,
    ⟨withChanges [(10 ^ 12 * 65536, .freq 100)], 10 ^ 12 * 65536, 100, [], by decide +kernel⟩,
    ⟨withChanges [(10 ^ 12 * 65536, .slew (-100))], 10 ^ 12 * 65536, -100, [], by decide +kernel⟩,
    ⟨withChanges [(10 ^ 12 * 65536, .step (-100) true)], 10 ^ 12 * 65536, -100, true, [], by decide +kernel⟩,
    ⟨withChanges [(10 ^ 12 * 65536 + 1, .freq 1)], 10 ^ 12 * 65536 + 1, .freq 1, [], by decide +kernel⟩,
    ⟨7, on, -8, by decide +kernel⟩,
    ⟨cm 0 [(1,0),(1,0),(2,0),(6,0),(6,0)], { on with time := { on.time with setByHost := true } }, accepted_of (by decide +kernel),
      by decide +kernel⟩,
    ⟨cm 0 [(1,1),(1,0),(2,5),(6,100),(6,0)], on, accepted_of (by decide +kernel), by decide +kernel⟩,
    ⟨cm 0 [], on, accepted_of (by decide +kernel)⟩,
    ⟨{ on with time := { on.time with setByHost := true } }, by decide +kernel, (fun a h => nomatch (show (none : Option Nat) = some a from h))⟩⟩

theorem test_witness_NetworkTimeCommands :
    (∃ (c : _) (s : State), Accepted opPtpClockSet c s)
    ∧ (∃ (c : _) (s : State), Accepted opPtpPortSet c s)
    ∧ (∃ (c : _) (s : State), Accepted opPtpQuery c s)
    ∧ (∃ (l : _) (s : State), (laneOf s l).toTime = [])
    ∧ (∃ (s : State), s.time.clock ≠ .host ∧ s.eng.stopped = true)
    ∧ (∃ (l : _) (o : PtpOutcome) (s : State) (f : _) (rest : _), (laneOf s l).toTime = f :: rest ∧ (s.time.clock = .host ∨ s.eng.stopped = false)
      ∧ ((ptpPort s l).enabled = false ∨ o.malformed = true ∨ ptpMalformed (ptpBytes f) = true))
    ∧ (∃ (l : _) (o : PtpOutcome) (s : State) (f : _) (rest : _) (m : _), (laneOf s l).toTime = f :: rest ∧ m = ptpBytes f ∧ (ptpPort s l).enabled
      = true ∧ o.malformed = false ∧ ptpMalformed m = false ∧ firmwareRuns s = true ∧ be m 4 1 = s.time.clockDs.domain ∧ (be f.bytes 12 2 =
      0x88F7 ↔ (ptpPort s l).udp = false) ∧ be m 0 1 % 16 = 0 ∧ bit (be m 6 2) 9 = false ∧ ourSdo m = true ∧ (ptpPort s l).portState =
      slaveState ∧ fromParent s m = true)
    ∧ (∃ (l : _) (s : State), (ptpPort s l).enabled = true ∧ firmwareRuns s = true ∧ (ptpPort s l).portState = slaveState ∧ s.time.slaveLane =
      some l ∧ (ptpPort s l).lastAnnounce + (ptpPort s l).announceTimeout * logInterval (ptpPort s l).logAnnounce ≤ s.clock)
    ∧ (∃ (l : _) (s : State), (ptpPort s l).enabled = true ∧ firmwareRuns s = true ∧ isUp s l = true ∧ mayTransmit (ptpPort s l) 11 = true ∧
      intervalPassed s (ptpPort s l) 11 = true ∧ yields s l 5 = false)
    ∧ (∃ (l : _) (s : State), (ptpPort s l).enabled = true ∧ firmwareRuns s = true ∧ isUp s l = true ∧ mayTransmit (ptpPort s l) 0 = true ∧
      intervalPassed s (ptpPort s l) 0 = true)
    ∧ (∃ (l : _) (ty : _) (s : State), (ty = 1 ∨ ty = 2) ∧ (ptpPort s l).enabled = true ∧ firmwareRuns s = true ∧ isUp s l = true ∧ mayTransmit
      (ptpPort s l) ty = true ∧ intervalPassed s (ptpPort s l) ty = true)
    ∧ (∃ (l : _) (ty : _) (s : State), (firmwareRuns s = false ∨ mayTransmit (ptpPort s l) ty = false ∨ intervalPassed s (ptpPort s l) ty =
      false))
    ∧ (∃ (p : _) (tile : _) (s : State) (e : _) (rest : _), s.time.clock = .host ∧ isMaster s p = true ∧ tget [] s.time.txts tile = e :: rest)
    ∧ (∃ (p : _) (tile : _) (s : State), (s.time.clock ≠ .host ∨ isMaster s p = false ∨ tget [] s.time.txts tile = [])) :=
  ⟨⟨cm 0 [(1,0),(1,0),(1,128),(1,128),(1,248),(1,0xFE),(2,0xFFFF),(1,0),(1,0),(2,37),(8,1),(12,0)], on, accepted_of (by decide +kernel)⟩,
    ⟨cm 0 [(1,0),(1,0),(1,0),(1,1),(1,0),(1,3),(2,0),(4,0),(4,0),(4,0),(4,0)], on, accepted_of (by decide +kernel)⟩,
    ⟨cm 0 [(1,0),(3,0)], on, accepted_of (by decide +kernel)⟩,
    ⟨0, on, by decide +kernel⟩,
    ⟨{ on with eng := { on.eng with stopped := true } }, by decide +kernel⟩,
    ⟨0, {}, withPtp {} [anyFrame], anyFrame, [], by decide +kernel⟩,
    ⟨0, {}, heardSync, syncFrame, [], syncMsg, by decide +kernel⟩,
    ⟨0, withPtp { enabled := true, portState := 9 } [], by decide +kernel⟩,
    ⟨0, withPtp { enabled := true, portState := 6, sentAt := [(0, 10 ^ 12)] } [], by decide +kernel⟩,
    ⟨0, withPtp { enabled := true, portState := 6 } [], by decide +kernel⟩,
    ⟨0, 1, withPtp { enabled := true, portState := 9 } [], by decide +kernel⟩,
    ⟨0, 0, on, by decide +kernel⟩,
    ⟨0, 0, hostClock [txts0], txts0, [], by decide +kernel⟩,
    ⟨0, 0, hostClock [], by decide +kernel⟩⟩

theorem test_witness_ScheduledOutputsFire :
    (∃ (c : _) (s : State), Accepted opSchedCreate c s)
    ∧ (∃ (c : _) (s : State), Accepted opSchedDestroy c s)
    ∧ (∃ (c : _) (s : State), Accepted opSchedQuery c s)
    ∧ (∃ (k : _) (s : State) (n : _) (due : _), nextPulse (schedOf s k) = some (n, due) ∧ (schedOf s k).state ≠ 0 ∧ due ≤ s.time.now ∧ serving s
      (k / 8) = true ∧ (schedPin k (schedOf s k) = none ∨ (schedOf s k).pinUntil ≤ due))
    ∧ (∃ (k : _) (s : State) (n : _) (due : _), nextPulse (schedOf s k) = some (n, due) ∧ s.time.now < due)
    ∧ (∃ (k : _) (n : _) (s : State) (e : _) (s' : _), serving s (k / 8) = true ∧ takeInput (k / 8) (640 + k % 8) n s = some (e, s') ∧ (schedOf s
      k).state ≠ 0 ∧ (schedOf s k).eventStart = true ∧ passedOf s k (schedOf s k) (trainStart s k e) = 0)
    ∧ (∃ (k : _) (n : _) (s : State) (e : _) (s' : _), serving s (k / 8) = true ∧ takeInput (k / 8) (640 + k % 8) n s = some (e, s') ∧ (schedOf s
      k).state ≠ 0 ∧ (schedOf s k).eventStart = true ∧ passedOf s k (schedOf s k) (trainStart s k e) ≠ 0 ∧ (schedOf s k).lateReject = true)
    ∧ (∃ (k : _) (n : _) (s : State) (e : _) (s' : _), serving s (k / 8) = true ∧ takeInput (k / 8) (640 + k % 8) n s = some (e, s') ∧ (schedOf s
      k).state ≠ 0 ∧ (schedOf s k).eventStart = true ∧ passedOf s k (schedOf s k) (trainStart s k e) ≠ 0 ∧ (schedOf s k).lateReject = false) :=
  ⟨⟨cm 0 [(1,0),(1,0),(1,0),(1,0),(6,2000),(4,0),(2,0),(4,0),(2,0),(2,0),(4,1),(4,0)], on, accepted_of (by decide +kernel)⟩,
    ⟨cm 0x70020000 [], on, accepted_of (by decide +kernel)⟩,
    ⟨cm 0x70020000 [], on, accepted_of (by decide +kernel)⟩,
    ⟨0, withSched dueSched, 0, 10 ^ 12 * 65536, by decide +kernel⟩,
    ⟨0, withSched { dueSched with firedTo := some (10 ^ 12 * 65536) }, 1, 10 ^ 12 * 65536 + 65536 * 10000, by decide +kernel⟩,
    ⟨0, 0, atInput 640 (withSched { startSched with delay := 2001 * 65536 }), ev0, taken 640 (withSched
      { startSched with delay := 2001 * 65536 }), by decide +kernel⟩,
    ⟨0, 0, atInput 640 (withSched { startSched with lateReject := true }), ev0, taken 640 (withSched { startSched with lateReject := true }),
      by decide +kernel⟩,
    ⟨0, 0, atInput 640 (withSched startSched), ev0, taken 640 (withSched startSched), by decide +kernel⟩⟩

theorem test_witness_EventsAreRouted :
    (∃ (t : _) (s : State), (tget [] s.ev.backlog t = [] ∨ serving s t = false))
    ∧ (∃ (t : _) (s : State) (e : _) (rest : _) (k : _) (r : _), tget [] s.ev.backlog t = e :: rest ∧ serving s t = true ∧ e.publish = none ∧
      s.ev.routes = [(k, r)] ∧ s.ev.retired = [] ∧ r.form = .publication e.source ∧ k / 4096 = t ∧ actsOn r e.time = true ∧ r.cleared =
      false ∧ e.hops < 8 ∧ (groupsAt s e.time).getLsbD (r.channel / 8) = true)
    ∧ (∃ (t : _) (s : State) (e : _) (rest : _) (c : _) (k : _) (r : _) (i : _), tget [] s.ev.backlog t = e :: rest ∧ serving s t = true ∧
      e.publish = some c ∧ s.ev.routes = [(k, r)] ∧ s.ev.retired = [] ∧ r.form = .toInput i ∧ r.channel = c ∧ actsOn r e.time = true ∧
      r.cleared = false ∧ serving s (k / 4096) = true ∧ e.hops < 8 ∧ (groupsAt s e.time).getLsbD (c / 8) = true)
    ∧ (∃ (t : _) (s : State) (e : _) (rest : _) (c : _), tget [] s.ev.backlog t = e :: rest ∧ serving s t = true ∧ e.publish = some c ∧ (groupsAt
      s e.time).getLsbD (c / 8) = false)
    ∧ (∃ (t : _) (s : State) (e : _) (rest : _) (c : _), tget [] s.ev.backlog t = e :: rest ∧ serving s t = true ∧ e.publish = some c ∧ 8 ≤ e.hops
      ∧ (groupsAt s e.time).getLsbD (c / 8) = true)
    ∧ (∃ (s : State) (k : _) (r : _) (c : _), s.ev.retired = [(k, r)] ∧ r.until_ = some c)
    ∧ (∃ (i : _) (n : _) (s : State) (e : _) (s' : _), 672 ≤ i ∧ i ≤ 735 ∧ serving s 0 = true ∧ takeInput 0 i n s = some (e, s'))
    ∧ (∃ (s : State) (g : _) (rest : _), s.ev.groupCommits = g :: rest ∧ g.time ≤ ns s)
    ∧ (∃ (s : State) (g : _) (rest : _), s.ev.groupCommits = g :: rest ∧ ns s < g.time) :=
  ⟨⟨0, on, by decide +kernel⟩,
    ⟨0, withEvents { ev0 with hops := 7 } fromSource, { ev0 with hops := 7 }, [], 0, fromSource, by decide +kernel⟩,
    ⟨0, withEvents published toInput0, published, [], 4, 0, toInput0, 512, by decide +kernel⟩,
    ⟨0, closedGroup, published, [], 4, by decide +kernel⟩,
    ⟨0, withEvents { published with hops := 8 } toInput0, { published with hops := 8 }, [], 4, by decide +kernel⟩,
    ⟨{ on with ev := { on.ev with retired := [(0, retiredRoute)] } }, 0, retiredRoute, 10 ^ 12, by decide +kernel⟩,
    ⟨735, 0, atInput 735 on, ev0, taken 735 on, by decide +kernel⟩,
    ⟨{ on with ev := { on.ev with groupCommits := [⟨10 ^ 12, true, 1, 0⟩] } }, ⟨10 ^ 12, true, 1, 0⟩, [], by decide +kernel⟩,
    ⟨{ on with ev := { on.ev with groupCommits := [⟨10 ^ 12 + 1, true, 1, 0⟩] } }, ⟨10 ^ 12 + 1, true, 1, 0⟩, [], by decide +kernel⟩⟩

theorem test_witness_PinsDriveAndSense :
    (∃ (p : _) (rising : Bool) (k : Nat) (s : State), (pinOf s p).mode = 1 ∧ serving s (p / 10) = true ∧ (pinOf s p).filterNs ≤ k ∧ ((pinOf s
      p).edge = 3 ∨ (pinOf s p).edge = (if rising then 1 else 2)) ∧ (pinOf s p).level ≠ rising ∧ (pinOf s p).lastEdge = none)
    ∧ (∃ (p : _) (rising : Bool) (k : Nat) (s : State) (a : _), (pinOf s p).mode = 1 ∧ serving s (p / 10) = true ∧ (pinOf s p).filterNs ≤ k ∧
      ((pinOf s p).edge = 3 ∨ (pinOf s p).edge = (if rising then 1 else 2)) ∧ (pinOf s p).level ≠ rising ∧ (pinOf s p).lastEdge = some a ∧
      s.clock < a + (pinOf s p).minGapNs)
    ∧ (∃ (p : _) (rising : Bool) (k : Nat) (s : State), ((pinOf s p).mode ≠ 1 ∨ serving s (p / 10) = false ∨ k < (pinOf s p).filterNs ∨ (pinOf s
      p).level = rising))
    ∧ (∃ (p : _) (n : _) (s : State) (e : _) (s' : _), serving s (p / 10) = true ∧ takeInput (p / 10) (656 + p % 10) n s = some (e, s') ∧ (pinOf s
      p).mode = 2 ∧ (pinOf s p).driver = none ∧ (pinOf s p).timed = false)
    ∧ (∃ (p : _) (n : _) (s : State) (e : _) (s' : _), serving s (p / 10) = true ∧ takeInput (p / 10) (656 + p % 10) n s = some (e, s') ∧ (pinOf s
      p).mode = 2 ∧ (pinOf s p).timed = true ∧ (nowQ s : Int) + 200 ≤ timedAt s p e)
    ∧ (∃ (p : _) (s : State) (g : _), serving s (p / 10) = true ∧ (pinOf s p).mode = 2 ∧ (pinOf s p).driver = none ∧ (pinOf s p).sched = [g])
    ∧ (∃ (p : _) (s : State) (e : _), (pinOf s p).pulseEnd = some e)
    ∧ (∃ (p : _) (s : State) (r : _), tget? s.ev.skew p = some r ∧ r.frames ≤ r.pairs.length)
    ∧ (∃ (p : _) (s : State) (r : _), tget? s.ev.skew p = some r ∧ r.pairs.length < r.frames) :=
  ⟨⟨0, true, 1000000, withPin { mode := 1 }, by decide +kernel⟩,
    ⟨0, true, 1000000, withPin { mode := 1, lastEdge := some (10 ^ 12 - 999) }, 10 ^ 12 - 999, by decide +kernel⟩,
    ⟨0, true, 0, on, Or.inl (by decide)⟩,
    ⟨0, 0, atInput 656 (withPin outputPin), ev0, taken 656 (withPin outputPin), by decide +kernel⟩,
    ⟨0, 0, atInput 656 (withPin timedPin), ev0, taken 656 (withPin timedPin), by decide +kernel⟩,
    ⟨0, withPin { outputPin with sched := [edge0] }, edge0, by decide +kernel⟩,
    ⟨0, withPin { outputPin with pulseEnd := some (4 * 10 ^ 12) }, 4 * 10 ^ 12, by decide +kernel⟩,
    ⟨0, withSkew skew0, skew0, by decide +kernel⟩,
    ⟨0, withSkew { skew0 with frames := 17 }, { skew0 with frames := 17 }, by decide +kernel⟩⟩

theorem test_witness_EventCommandsComplete :
    (∃ (c : _) (s : State), Accepted opEvRouteCreate c s)
    ∧ (∃ (c : _) (s : State) (r : _), Accepted opEvRouteDestroy c s ∧ tget? s.ev.routes (slotTile (tslot c) * 4096 + slotIndex (tslot c)) = some
      r)
    ∧ (∃ (c : _) (s : State), Accepted opEvRouteQuery c s)
    ∧ (∃ (c : _) (s : State), Accepted opEvPinSet c s)
    ∧ (∃ (c : _) (s : State), Accepted opEvPinQuery c s)
    ∧ (∃ (c : _) (s : State), Accepted opEvGroupSet c s ∧ par c 0 4 = 0)
    ∧ (∃ (c : _) (s : State), Accepted opEvGroupSet c s ∧ par c 0 4 ≠ 0)
    ∧ (∃ (c : _) (s : State), Accepted opEvStatus c s)
    ∧ (∃ (c : _) (s : State), Accepted opEvPublish c s ∧ serving s 0 = true ∧ (tget [] s.ev.backlog 0).length < 4096)
    ∧ (∃ (c : _) (s : State), Accepted opEvPublish c s ∧ serving s 0 = false)
    ∧ (∃ (c : _) (s : State), Accepted opEvSkewLearn c s) :=
  ⟨⟨cm 0 [(1,1),(1,4),(2,0),(2,0),(1,0),(1,0),(2,672),(2,0),(4,0)], on, accepted_of (by decide +kernel)⟩,
    ⟨cm 0x40020000 [], on, { form := .publication 3, channel := 4, from_ := 0 }, accepted_of (by decide +kernel), by decide +kernel⟩,
    ⟨cm 0x40020000 [], on, accepted_of (by decide +kernel)⟩,
    ⟨cm 0 [(1,0),(1,0),(1,2),(1,1),(1,0),(1,0),(2,0),(4,0),(4,1000),(4,1000),(4,1000),(4,0),(4,0)], on, accepted_of (by decide +kernel)⟩,
    ⟨cm 0 [(1,0),(1,0),(2,0)], on, accepted_of (by decide +kernel)⟩,
    ⟨cm 0 [(4,0),(4,0)], on, accepted_of (by decide +kernel), by decide +kernel⟩,
    ⟨cm 0 [(4,1),(4,1)], on, accepted_of (by decide +kernel), by decide +kernel⟩,
    ⟨cm 0 [], on, accepted_of (by decide +kernel)⟩,
    ⟨cm 0 [(1,4),(3,0),(4,9)], on, accepted_of (by decide +kernel), by decide +kernel⟩,
    ⟨cm 0 [(1,4),(3,0),(4,9)], withTile 0 .outOfService on, accepted_of (by decide +kernel), by decide +kernel⟩,
    ⟨cm 0 [(1,0),(1,0),(2,0),(4,0x10020000),(2,16),(1,0),(1,0),(4,0),(4,1000),(4,0)], inMode .calibrate (withPin { mode := 3 }),
      accepted_of (by decide +kernel)⟩⟩

theorem test_witness_MotionCountsAndCompares :
    (∃ (i : _) (a : _) (b : _) (s : State) (x : _), x = axis s i ∧ counts s i = true ∧ quadError x.inputMode x.levelA x.levelB (filtered x
      x.levelA a) (filtered x x.levelB b) = false ∧ sampleCount x.inputMode x.levelA x.levelB (filtered x x.levelA a) (filtered x x.levelB
      b) ≠ 0)
    ∧ (∃ (i : _) (a : _) (b : _) (s : State) (x : _), x = axis s i ∧ counts s i = true ∧ quadError x.inputMode x.levelA x.levelB (filtered x
      x.levelA a) (filtered x x.levelB b) = true)
    ∧ (∃ (i : _) (s : State) (x : _), x = axis s i ∧ counts s i = false)
    ∧ (∃ (i : _) (a : BallLevel) (b : BallLevel) (s : State), accepted (axis s i) a.lasted = false ∧ accepted (axis s i) b.lasted = false)
    ∧ (∃ (i : _) (a : BallLevel) (b : BallLevel) (l : BallLevel) (s : State) (x : _), x = axis s i ∧ accepted x l.lasted = true ∧ (x.indexEn =
      false ∨ x.levelI = l.high) ∧ sampleCount x.inputMode x.levelA x.levelB (filtered x x.levelA a) (filtered x x.levelB b) = 0)
    ∧ (∃ (i : _) (a : BallLevel) (b : BallLevel) (l : BallLevel) (s : State) (x : _), x = axis s i ∧ accepted x a.lasted = false ∧ accepted x
      b.lasted = false ∧ accepted x l.lasted = false)
    ∧ (∃ (i : _) (l : BallLevel) (s : State), accepted (axis s i) l.lasted = false)
    ∧ (∃ (i : _) (l : BallLevel) (s : State), counts s i = true ∧ accepted (axis s i) l.lasted = true ∧ (axis s i).indexEn = true ∧ (axis s
      i).levelI ≠ l.high ∧ (axis s i).indexPol ≠ l.high)
    ∧ (∃ (i : _) (s : State) (e : _), (axis s i).lastEdge = some e ∧ e + (axis s i).standstillUs * us ≤ s.clock)
    ∧ (∃ (i : _) (n : _) (s : State) (e : _) (s' : _) (g : _) (k : _), serving s (i / 2) = true ∧ takeInput (i / 2) (768 + i % 2) n s = some (e,
      s') ∧ (axis s i).cmp.given = some g ∧ cmpSlot? s i = some k)
    ∧ (∃ (i : _) (n : _) (s : State) (e : _) (s' : _) (g : _) (k : _), serving s (i / 2) = true ∧ takeInput (i / 2) (770 + i % 2) n s = some (e,
      s') ∧ (axis s i).tbl.given = some g ∧ cmpSlot? s i = some k)
    ∧ (∃ (i : _) (n : _) (s : State) (e : _) (s' : _), serving s (i / 2) = true ∧ takeInput (i / 2) (772 + i % 2) n s = some (e, s'))
    ∧ (∃ (i : _) (n : _) (s : State) (e : _) (s' : _), serving s (i / 2) = true ∧ takeInput (i / 2) (774 + i % 2) n s = some (e, s'))
    ∧ (∃ (i : _) (s : State), counts s i = true ∧ (∀ x, (axis s i).history.head? = some x → x.1 ≠ ns s / 64 * 64))
    ∧ (∃ (c : _) (s : State), Accepted opMoConfig c s)
    ∧ (∃ (c : _) (s : State), Accepted opMoQuery c s)
    ∧ (∃ (c : _) (s : State), Accepted opMoPreset c s)
    ∧ (∃ (c : _) (s : State), Accepted opMoCmpCreate c s)
    ∧ (∃ (c : _) (s : State), Accepted opMoCmpArm c s)
    ∧ (∃ (c : _) (s : State), Accepted opMoCmpDisarm c s)
    ∧ (∃ (c : _) (s : State), Accepted opMoTblLoad c s)
    ∧ (∃ (c : _) (s : State), Accepted opMoTblStart c s)
    ∧ (∃ (c : _) (s : State), Accepted opMoTblStop c s)
    ∧ (∃ (c : _) (s : State), Accepted opMoCmpQuery c s)
    ∧ (∃ (c : _) (s : State), Accepted opMoCmpDestroy c s) :=
  ⟨⟨0, ⟨true, 1000000⟩, ⟨false, 1000000⟩, moving quad, quad, by decide +kernel⟩,
    ⟨0, ⟨true, 1000000⟩, ⟨true, 1000000⟩, moving quad, quad, by decide +kernel⟩,
    ⟨0, inMode .boot on, axis (inMode .boot on) 0, by decide +kernel⟩,
    ⟨0, ⟨true, 19⟩, ⟨true, 19⟩, moving { quad with filterQ2 := 40 }, by decide +kernel⟩,
    ⟨0, ⟨false, 0⟩, ⟨false, 0⟩, ⟨true, 1000000⟩, moving quad, quad, by decide +kernel⟩,
    ⟨0, ⟨true, 19⟩, ⟨true, 19⟩, ⟨true, 19⟩, moving { quad with filterQ2 := 40 }, { quad with filterQ2 := 40 }, by decide +kernel⟩,
    ⟨0, ⟨true, 19⟩, moving { quad with filterQ2 := 40 }, by decide +kernel⟩,
    ⟨0, ⟨true, 1000000⟩, moving { quad with indexEn := true }, by decide +kernel⟩,
    ⟨0, moving { quad with lastEdge := some 0 }, 0, by decide +kernel⟩,
    ⟨0, 0, atInput 768 (withAxis { quad with cmp := { given := some arm0 } }), ev0, taken 768 (withAxis
      { quad with cmp := { given := some arm0 } }), arm0, 5242880, by decide +kernel⟩,
    ⟨0, 0, atInput 770 (withAxis { quad with tbl := { given := some tbl0 } }), ev0, taken 770 (withAxis
      { quad with tbl := { given := some tbl0 } }), tbl0, 5242880, by decide +kernel⟩,
    ⟨0, 0, atInput 772 on, ev0, taken 772 on, by decide +kernel⟩,
    ⟨0, 0, atInput 774 on, ev0, taken 774 on, by decide +kernel⟩,
    ⟨0, moving quad, by decide +kernel, (fun x h => nomatch (show (none : Option (Nat × U32)) = some x from h))⟩,
    ⟨cm 0 [(1,0),(1,4),(1,0),(1,0),(2,0),(2,16),(4,10000),(4,0),(8,0)], on, accepted_of (by decide +kernel)⟩,
    ⟨cm 0 [(1,0),(3,0)], on, accepted_of (by decide +kernel)⟩,
    ⟨cm 0 [(1,0),(3,0),(4,100)], on, accepted_of (by decide +kernel)⟩,
    ⟨cm 0 [(1,1),(3,0)], on, accepted_of (by decide +kernel)⟩,
    ⟨cm 0x50020000 [(4,100),(1,0),(3,0)], withAxis quad, accepted_of (by decide +kernel)⟩,
    ⟨cm 0x50020000 [], withAxis quad, accepted_of (by decide +kernel)⟩,
    ⟨cm 0x50020000 [(2,0),(2,2),(4,0),(4,10),(4,20)], withAxis quad, accepted_of (by decide +kernel)⟩,
    ⟨cm 0x50020000 [(4,0),(4,0),(2,1),(1,0),(1,0),(4,0),(8,0)], withAxis quad, accepted_of (by decide +kernel)⟩,
    ⟨cm 0x50020000 [], withAxis quad, accepted_of (by decide +kernel)⟩,
    ⟨cm 0x50020000 [], withAxis quad, accepted_of (by decide +kernel)⟩,
    ⟨cm 0x50020000 [], on, accepted_of (by decide +kernel)⟩⟩

theorem test_witness_EnginesKeepOneOwner :
    (∃ (s : State), s.rd.beatSent + 25 * us ≤ s.clock ∧ engineRuns s 0 = true ∧ engineRuns s 1 = true)
    ∧ (∃ (s : State), s.clock < s.rd.beatSent + 25 * us)
    ∧ (∃ (s : State) (e : _), e < 2 ∧ beatMissed s e = true)
    ∧ (∃ (s : State), beatMissed s 0 = false ∧ beatMissed s 1 = false)
    ∧ (∃ (s : State), activeRuns s = true ∧ s.rd.renewedAt + 20 * us ≤ s.clock)
    ∧ (∃ (s : State), (engOf s s.eng.active).state = .active ∧ (engOf s s.eng.active).healthy = false ∧ s.rd.owner = some s.eng.active ∧ arbMode s
      = false)
    ∧ (∃ (s : State) (e : _), (List.range 2).find? (claimDue s) = some e ∧ claimOpen s = true)
    ∧ (∃ (s : State) (e : _), (List.range 2).find? (claimDue s) = some e ∧ claimOpen s = false)
    ∧ (∃ (s : State), (List.range 2).find? (claimDue s) = none)
    ∧ (∃ (s : State) (e : _), arbMode s = true ∧ e ≤ 1 ∧ (engOf s e).state = .standby)
    ∧ (∃ (s : State) (e : _), (arbMode s = false ∨ 1 < e))
    ∧ (∃ (s : State) (e : _), arbMode s = true ∧ e ≤ 1 ∧ (engOf s e).state ≠ .standby ∧ s.rd.owner = some e)
    ∧ (∃ (s : State) (e : _) (o : _), arbMode s = true ∧ e ≤ 1 ∧ (engOf s e).state ≠ .standby ∧ s.rd.owner = some o ∧ o ≠ e)
    ∧ (∃ (s : State) (l : Bool), arbBalls s = true ∧ s.rd.gnt ≠ l ∧ (engOf s (if l then 0 else 1)).state = .standby)
    ∧ (∃ (s : State) (l : Bool), (arbBalls s = false ∨ s.rd.gnt = l))
    ∧ (∃ (s : State) (p : _) (v : U32), isMaster s p = true ∧ arbMode s = true ∧ s.boot.conf.arbSource = 0 ∧ BitVec.toNat v / 65536 = 0x5EB7 ∧
      (engOf s (BitVec.toNat v % 2)).state = .standby)
    ∧ (∃ (s : State) (p : _) (v : U32), (isMaster s p = false ∨ arbMode s = false ∨ s.boot.conf.arbSource ≠ 0 ∨ BitVec.toNat v / 65536 ≠ 0x5EB7))
    ∧ (∃ (s : State), activeRuns s = true ∧ (s.rd.renewFailed = true ∨ s.rd.renewedAt + 200 * us ≤ s.clock))
    ∧ (∃ (s : State) (d : _), s.rd.dualUntil = some d) :=
  ⟨⟨on, by decide +kernel⟩,
    ⟨withRd fun r => { r with beatSent := 10 ^ 12 }, by decide +kernel⟩,
    ⟨withEngines { active0 with beat := some 0 } standby0, 0, by decide +kernel⟩,
    ⟨on, by decide +kernel⟩,
    ⟨on, by decide +kernel⟩,
    ⟨withEngines { active0 with healthy := false } standby0, by decide +kernel⟩,
    ⟨withRd fun r => { r with owner := none }, 1, by decide +kernel⟩,
    ⟨{ withEngines active0 { standby0 with lost := some 0 } with rd := { (withEngines active0 { standby0 with lost := some 0 }).rd with renewedAt := 10 ^ 12 } },
      1, by decide +kernel⟩,
    ⟨on, by decide +kernel⟩,
    ⟨arbitrated 0, 1, by decide +kernel⟩,
    ⟨on, 1, by decide +kernel⟩,
    ⟨{ arbitrated 0 with rd := { on.rd with owner := some 0 } }, 0, by decide +kernel⟩,
    ⟨{ arbitrated 0 with rd := { on.rd with owner := some 1 } }, 0, 1, by decide +kernel⟩,
    ⟨arbitrated 1, false, by decide +kernel⟩,
    ⟨on, true, by decide +kernel⟩,
    ⟨arbitrated 0, 0, 0x5EB70001, by decide +kernel⟩,
    ⟨arbitrated 1, 0, 0x5EB70001, by decide +kernel⟩,
    ⟨withRd fun r => { r with renewFailed := true }, by decide +kernel⟩,
    ⟨withRd fun r => { r with dualUntil := some (10 ^ 12) }, 10 ^ 12, by decide +kernel⟩⟩

theorem test_witness_EnginesChangeAndRecover :
    (∃ (s : State), activeRuns s = true ∧ s.eng.stopped = false ∧ mirrored s = true ∧ s.rd.copyingSince = none ∧ s.rd.lastStart + ms ≤ s.clock)
    ∧ (∃ (s : State) (x : _), s.rd.copyingSince = some x ∧ mirrored s = true)
    ∧ (∃ (s : State), activeRuns s = true ∧ mirrored s = true)
    ∧ (∃ (s : State) (p : _), s.rd.planned = some p ∧ (engOf s p.target).state = .standby ∧ activeRuns s = true ∧ unmirroredRuns s = false)
    ∧ (∃ (s : State) (p : _), s.rd.planned = some p ∧ (engOf s p.target).state = .standby ∧ (activeRuns s = false ∨ unmirroredRuns s = true))
    ∧ (∃ (s : State) (p : _), s.rd.planned = some p ∧ (engOf s p.target).state ≠ .standby)
    ∧ (∃ (s : State) (c : _), changeToRestore s = some c)
    ∧ (∃ (s : State) (c : _), changeToEnd s = some c)
    ∧ (∃ (s : State), changeToEnd s = none)
    ∧ (∃ (s : State) (e : _), (engOf s e).state = .testing)
    ∧ (∃ (s : State) (e : _), (engOf s e).state = .testing ∧ (engOf s e).fails < 2)
    ∧ (∃ (s : State) (e : _), (engOf s e).state = .testing ∧ 2 ≤ (engOf s e).fails)
    ∧ (∃ (s : State) (e : _), (engOf s e).state = .copying ∧ (engOf s e).copied = true ∧ activeRuns s = true)
    ∧ (∃ (s : State) (h : _), s.rd.holdSince = some h ∧ h + s.rd.holdS * 1000 * ms ≤ s.clock ∧ activeRuns s = true ∧ s.rd.planned = none ∧
      s.rd.change = none ∧ (engOf s s.rd.preferred).state = .standby ∧ s.eng.active ≠ s.rd.preferred)
    ∧ (∃ (c : _) (s : State), Accepted opCePairQuery c s)
    ∧ (∃ (c : _) (s : State), Accepted opCePairSet c s)
    ∧ (∃ (c : _) (s : State), Accepted opCeSwitchover c s ∧ par c 0 1 = s.eng.active)
    ∧ (∃ (c : _) (s : State), Accepted opCeSwitchover c s ∧ par c 0 1 ≠ s.eng.active)
    ∧ (∃ (c : _) (img : _) (s : State), Accepted (opCeStandbyRestart img) c s ∧ par c 0 1 = 2)
    ∧ (∃ (c : _) (img : _) (s : State), Accepted (opCeStandbyRestart img) c s ∧ par c 0 1 ≠ 2 ∧ flashResult s (par c 0 1) 0 img = 1)
    ∧ (∃ (c : _) (img : _) (s : State), Accepted (opCeStandbyRestart img) c s ∧ par c 0 1 ≠ 2 ∧ flashResult s (par c 0 1) 0 img ≠ 1) :=
  ⟨⟨on, by decide +kernel⟩,
    ⟨withRd fun r => { r with copyingSince := some 0 }, 0, by decide +kernel⟩,
    ⟨on, by decide +kernel⟩,
    ⟨withRd fun r => { r with planned := some planned0 }, planned0, by decide +kernel⟩,
    ⟨{ withRd fun r => { r with planned := some planned0 } with eng := { on.eng with waiting := [wait0] } }, planned0, by decide +kernel⟩,
    ⟨withRd fun r => { r with planned := some { planned0 with target := 0 } }, { planned0 with target := 0 }, by decide +kernel⟩,
    ⟨withRd fun r => { r with change := some change1 }, change1, by decide +kernel⟩,
    ⟨withRd fun r => { r with change := some { change1 with restored := true, claimedAt := 10 ^ 12 - 80000 } },
      { change1 with restored := true, claimedAt := 10 ^ 12 - 80000 }, by decide +kernel⟩,
    ⟨on, by decide +kernel⟩,
    ⟨withEngines active0 { state := .testing }, 1, by decide +kernel⟩,
    ⟨withEngines active0 { state := .testing, fails := 1 }, 1, by decide +kernel⟩,
    ⟨withEngines active0 { state := .testing, fails := 2 }, 1, by decide +kernel⟩,
    ⟨withEngines active0 { state := .copying, copied := true }, 1, by decide +kernel⟩,
    ⟨withRd fun r => { r with holdSince := some (990 * 10 ^ 9), preferred := 1 }, 990 * 10 ^ 9, by decide +kernel⟩,
    ⟨cm 0 [], on, accepted_of (by decide +kernel)⟩,
    ⟨cm 0 [(2,10),(1,0),(1,0)], on, accepted_of (by decide +kernel)⟩,
    ⟨cm 0 [(1,0),(3,0)], on, accepted_of (by decide +kernel), by decide +kernel⟩,
    ⟨cm 0 [(1,1),(3,0)], on, accepted_of (by decide +kernel), by decide +kernel⟩,
    ⟨cm 0 [(1,2),(3,0)], goodImage 3, on, accepted_of (by decide +kernel), by decide +kernel⟩,
    ⟨cm 0 [(1,1),(3,0)], goodImage 2, on, accepted_of (by decide +kernel), by decide +kernel⟩,
    ⟨cm 0 [(1,0),(3,0)], badImage, on, accepted_of (by decide +kernel), by decide +kernel⟩⟩

theorem test_witness_GovernorAndHealthComplete :
    (∃ (s : State) (x : TileSample), s.gov.lastSample + 100 * us ≤ s.clock ∧ s.gov.next = none ∧ x.tile < tiles s ∧ service s x.tile ≠
      .outOfService ∧ tget? s.hm.hot x.tile = none)
    ∧ (∃ (s : State), s.clock < s.gov.lastSample + 100 * us)
    ∧ (∃ (s : State), s.gov.critical = true ∧ s.gov.lastCritEvent + 100 * ms ≤ s.clock)
    ∧ (∃ (s : State), s.gov.critical = false)
    ∧ (∃ (s : State) (k : _) (j : _), (govTile s k).jobs = [j] ∧ j.running = false ∧ j.starved = false ∧ j.admittedAt.getD j.since + 60000 * ms ≤
      s.clock)
    ∧ (∃ (s : State) (k : _), (govTile s k).jobs = [])
    ∧ (∃ (s : State) (k : Nat) (n : Nat) (j : Job), (govTile s k).jobs[n]? = some j ∧ j.running = true ∧ 2 ≤ j.left ∧ j.kind ≠ .selfTest)
    ∧ (∃ (s : State) (k : Nat) (n : Nat) (j : Job) (l : Nat), (govTile s k).jobs[n]? = some j ∧ j.running = true ∧ j.left = 1 ∧ j.endless = false
      ∧ j.kind = .eye l)
    ∧ (∃ (s : State) (k : Nat) (n : Nat) (j : Job), (govTile s k).jobs[n]? = some j ∧ j.running = false)
    ∧ (∃ (c : _) (s : State), Accepted opPgConfig c s)
    ∧ (∃ (c : _) (s : State), Accepted opPgQuery c s)
    ∧ (∃ (c : _) (s : State), Accepted opPgTileQuery c s)
    ∧ (∃ (c : _) (s : State), Accepted opPgSensorRead c s)
    ∧ (∃ (s : State), s.hm.lastReport + 100 * ms ≤ s.clock)
    ∧ (∃ (s : State), s.clock < s.hm.lastReport + 100 * ms)
    ∧ (∃ (s : State) (u : _) (d : _), s.hm.unlock = some (u, d))
    ∧ (∃ (c : _) (s : State), Accepted opHmQuery c s)
    ∧ (∃ (c : _) (s : State), Accepted opHmThreshSet c s)
    ∧ (∃ (c : _) (s : State), Accepted opHmReportSet c s)
    ∧ (∃ (c : _) (s : State), Accepted opHmTestUnlock c s)
    ∧ (∃ (c : _) (s : State), Accepted opHmInject c s)
    ∧ (∃ (s : State) (k : _) (d : _) (u : _), serving s k = true ∧ (d = 0x02 ∨ d = 0x0F) ∧ u < unitCount s k d ∧ injectionDue s k d u = false)
    ∧ (∃ (s : State) (k : _) (u : _), serving s k = true ∧ u = 0 ∧ injectionDue s k 0x0D u = false)
    ∧ (∃ (s : State) (k : _) (u : _), serving s k = true ∧ u < unitCount s k 0x00 ∧ u ≠ 9 ∧ injectionDue s k 0x00 u = true)
    ∧ (∃ (s : State) (k : _) (u : _), serving s k = true ∧ u < unitCount s k 0x00 ∧ u ≠ 9 ∧ u ∈ (detOf s k 0x00).sram)
    ∧ (∃ (s : State) (k : _), serving s k = false) :=
  ⟨⟨on, { tile := 7, powerDw := 300, classADw := 100, temps := [], waiting := 0 }, by decide +kernel⟩,
    ⟨{ on with gov := { on.gov with lastSample := 10 ^ 12 } }, by decide +kernel⟩,
    ⟨{ on with gov := { on.gov with critical := true } }, by decide +kernel⟩,
    ⟨on, by decide +kernel⟩,
    ⟨withJob job0, 0, job0, by decide +kernel⟩,
    ⟨on, 0, by decide +kernel⟩,
    ⟨withJob { job0 with running := true }, 0, 0, { job0 with running := true }, by decide +kernel⟩,
    ⟨withJob { job0 with kind := .eye 0, left := 1, running := true }, 0, 0, { job0 with kind := .eye 0, left := 1, running := true }, 0,
      by decide +kernel⟩,
    ⟨withJob job0, 0, 0, job0, by decide +kernel⟩,
    ⟨cm 0 [(2,300),(1,3),(1,2),(2,180),(2,50),(4,16384),(8,0),(4,0)], on, accepted_of (by decide +kernel)⟩,
    ⟨cm 0 [], on, accepted_of (by decide +kernel)⟩,
    ⟨cm 0 [(1,0),(3,0)], on, accepted_of (by decide +kernel)⟩,
    ⟨cm 0 [(1,0),(3,0)], on, accepted_of (by decide +kernel)⟩,
    ⟨on, by decide +kernel⟩,
    ⟨{ on with hm := { lastReport := 10 ^ 12 } }, by decide +kernel⟩,
    ⟨{ on with hm := { unlock := some (7, 10 ^ 12) } }, 7, 10 ^ 12, by decide +kernel⟩,
    ⟨cm 0 [(1,0),(1,2),(2,0)], on, accepted_of (by decide +kernel)⟩,
    ⟨cm 0 [(1,0),(1,2),(2,100),(4,0)], on, accepted_of (by decide +kernel)⟩,
    ⟨cm 0 [(8,0x10000),(2,256),(1,1),(1,0),(2,1),(2,0)], on, accepted_of (by decide +kernel)⟩,
    ⟨cm 0 [(4,0x7E575EB7)], on, accepted_of (by decide +kernel)⟩,
    ⟨cm 0 [(1,0),(1,2),(2,1),(1,0),(3,0),(2,0),(2,0),(4,0)], { inMode .test on with hm := { unlock := some (0, 10 ^ 13) } },
      accepted_of (by decide +kernel)⟩,
    ⟨on, 7, 0x0F, 0, by decide +kernel⟩,
    ⟨on, 7, 0, by decide +kernel⟩,
    ⟨withDet 0 { pending := 1, unit := 0 }, 0, 0, by decide +kernel⟩,
    ⟨withDet 0 { sram := [0] }, 0, 0, by decide +kernel⟩,
    ⟨withTile 7 .outOfService on, 7, by decide +kernel⟩⟩

end Sys2Proof.Tests
end

section
/-!
PROOF. The opcodes of the package and the answer to one that is not defined (R9, Table 3-7).
-/
namespace Sys2Proof.Machine
open Sys2Proof

/-- Table 0-4: the upper byte of each range, and the opcodes defined in it. -/
def opRanges (img : Image) (conf : List Byte) (programmed : Bool) : List (Nat × List OpDef) :=
  [(0x01, packageOps), (0x02, laneOps), (0x03, streamOps), (0x04, assemblyOps), (0x05, codecOps programmed), (0x06, storeOps),
   (0x07, activityOps), (0x08, moverOps), (0x09, timeOps), (0x0A, eventOps), (0x0B, motionOps), (0x0C, redundancyOps img),
   (0x0D, governorOps), (0x0E, healthOps), (0x0F, bootOps img conf programmed)]

section
variable (img : Image) (conf : List Byte) (programmed : Bool)

theorem opCdEngineRestore_code : (opCdEngineRestore programmed).code = 0x0531 := rfl
theorem opCeStandbyRestart_code : (opCeStandbyRestart img).code = 0x0C04 := rfl
theorem opFwVerify_code : (opFwVerify img conf).code = 0x0F03 := rfl
theorem opFwRollbackAdvance_code : (opFwRollbackAdvance programmed).code = 0x0F05 := rfl
theorem opFwPush_code : (opFwPush img conf).code = 0x0F10 := rfl

theorem opTable_eq_flatMap_opRanges : opTable img conf programmed = (opRanges img conf programmed).flatMap Prod.snd := by
  simp [opTable, opRanges]

/-- The rows that take an argument are opened here: their opcode does not depend on it, and each range is then closed. -/
theorem opRanges_upperByte : ∀ r ∈ opRanges img conf programmed, ∀ o ∈ r.2, o.code / 256 = r.1 := by
  simp only [opRanges, codecOps, redundancyOps, bootOps, opCdEngineRestore_code, opCeStandbyRestart_code, opFwVerify_code,
    opFwRollbackAdvance_code, opFwPush_code, List.forall_mem_cons, List.not_mem_nil, false_implies, implies_true, and_true]
  and_intros <;> decide

theorem opRanges_listed : ∀ r ∈ opRanges img conf programmed, 1 ≤ r.1 ∧ r.1 ≤ 15 := by
  simp [opRanges]

/-- Whatever reaches the engine from outside, each row of the opcode table has one of the fifteen listed upper bytes. -/
theorem opTable_upperByte : ∀ o ∈ opTable img conf programmed, 1 ≤ o.code / 256 ∧ o.code / 256 ≤ 15 := by
  intro o ho
  rw [opTable_eq_flatMap_opRanges] at ho
  obtain ⟨r, hr, hor⟩ := List.mem_flatMap.mp ho
  exact opRanges_upperByte img conf programmed r hr o hor ▸ opRanges_listed img conf programmed r hr

end

theorem findOp_code {img : Image} {conf : List Byte} {programmed : Bool} {op : Nat} {o : OpDef}
    (h : findOp img conf programmed op = some o) : o.code = op := by
  simpa using List.find?_some h

theorem findOp_upperByte {img : Image} {conf : List Byte} {programmed : Bool} {op : Nat} {o : OpDef}
    (h : findOp img conf programmed op = some o) : 1 ≤ op / 256 ∧ op / 256 ≤ 15 :=
  findOp_code h ▸ opTable_upperByte img conf programmed o (List.mem_of_find?_eq_some h)

theorem findOp_eq_none_of_upperByte (img : Image) (conf : List Byte) (programmed : Bool) {op : Nat}
    (h : op / 256 = 0 ∨ 15 < op / 256) : findOp img conf programmed op = none := by
  cases ho : findOp img conf programmed op with
  | none => rfl
  | some o =>
    have := findOp_upperByte ho
    omega

/-- While commands run, the packet of an undefined opcode has its reply and no other effect. -/
theorem exec_undefinedOpcode {op : Nat} (c : Cmd) {s : State} (hr : commandsRun s = true) (ho : opOf op = none) :
    exec (.undefinedOpcode op c) s = .next (undefinedReply op c s) := by
  simp [exec, execUndefinedOpcode, hr, ho]

/-- Check step 3 of Table 3-7: header and length pass, the opcode does not. -/
theorem undefinedReply_of_headerOk (op : Nat) {c : Cmd} (s : State) (hl : c.params.length ≤ 4096) (hb : headerBad c = none) :
    undefinedReply op c s = answer op c { status := .eOpcode } s := by
  simp [undefinedReply, Nat.not_lt.mpr hl, hb]

/-- Check step 2 of Table 3-7 comes before the opcode. -/
theorem undefinedReply_of_headerBad (op : Nat) {c : Cmd} (s : State) {off : Nat} (hl : c.params.length ≤ 4096)
    (hb : headerBad c = some off) : undefinedReply op c s = answer op c { status := .eParam, detail := off } s := by
  simp [undefinedReply, Nat.not_lt.mpr hl, hb]

/-- Settles O7: the range by the opcode table, the answers by the order of the checks. -/
theorem undefinedOpcodeAnswersEOpcode : Obligations.UndefinedOpcodeAnswersEOpcode := by
  refine ⟨fun op o h => ⟨findOp_code h, findOp_upperByte h⟩, fun op h => findOp_eq_none_of_upperByte _ _ _ h, ?_, ?_⟩
  · intro op c s hr ho hl hb
    exact ⟨_, exec_undefinedOpcode c hr ho, undefinedReply_of_headerOk op s hl hb⟩
  · intro op c s off hr ho hl hb
    exact ⟨_, exec_undefinedOpcode c hr ho, undefinedReply_of_headerBad op s hl hb⟩

end Sys2Proof.Machine
end

section
/-!
PROOF. Handles: their fields (R8) and the generations of live ones (R45).
-/
namespace Sys2Proof.Machine
open Sys2Proof

/-! ### The fields, as quotients and remainders -/

theorem handleKind_eq {h : Nat} (hh : h < 2 ^ 32) : handleKind h = h / 2 ^ 28 := by
  simp only [handleKind, bits]; omega

theorem handleTile_eq (h : Nat) : handleTile h = h / 2 ^ 25 % 2 ^ 3 := rfl

theorem handleGen_eq (h : Nat) : handleGen h = h / 2 ^ 17 % 2 ^ 8 := rfl

theorem handleIndex_eq (h : Nat) : handleIndex h = h % 2 ^ 17 := by simp [handleIndex, bits]

/-! ### Building and reading -/

section
variable {kind tile gen index : Nat} (hk : kind < 2 ^ 4) (ht : tile < 2 ^ 3) (hg : gen < 2 ^ 8) (hi : index < 2 ^ 17)
include hk ht hg hi

theorem makeHandle_lt : makeHandle kind tile gen index < 2 ^ 32 := by
  simp only [makeHandle]; omega

theorem handleKind_makeHandle : handleKind (makeHandle kind tile gen index) = kind := by
  rw [handleKind_eq (makeHandle_lt hk ht hg hi), makeHandle]; omega

omit hk in
theorem handleTile_makeHandle : handleTile (makeHandle kind tile gen index) = tile := by
  rw [handleTile_eq, makeHandle]; omega

omit hk ht in
theorem handleGen_makeHandle : handleGen (makeHandle kind tile gen index) = gen := by
  rw [handleGen_eq, makeHandle]; omega

omit hk ht hg in
theorem handleIndex_makeHandle : handleIndex (makeHandle kind tile gen index) = index := by
  rw [handleIndex_eq, makeHandle]; omega

end

/-- The four fields are the whole of a 32-bit handle. -/
theorem makeHandle_fields {h : Nat} (hh : h < 2 ^ 32) :
    makeHandle (handleKind h) (handleTile h) (handleGen h) (handleIndex h) = h := by
  rw [handleKind_eq hh, handleTile_eq, handleGen_eq, handleIndex_eq, makeHandle]; omega

/-! ### Generations -/

/-- R45: every slot's present generation is from 1 to 255, also that of a slot the table does not list. -/
theorem GenerationsOk.genOf_range {s : State} (g : GenerationsOk s.eng) (k : Nat) : 1 ≤ genOf s k ∧ genOf s k ≤ 255 := by
  rw [genOf, tget]
  cases hk : tget? s.eng.gens k with
  | none => simp
  | some v => exact g.slots _ (mem_of_tget? hk)

theorem genOf_of_handleLive {s : State} {h : Nat} (hl : handleLive s h = true) : genOf s (handleSlot h) = handleGen h := by
  simp only [handleLive, Bool.and_eq_true, decide_eq_true_eq] at hl
  obtain ⟨⟨-, hgen⟩, -⟩ := hl
  exact hgen

theorem handleGen_range_of_live {s : State} {h : Nat} (g : GenerationsOk s.eng) (hl : handleLive s h = true) :
    1 ≤ handleGen h ∧ handleGen h ≤ 255 :=
  genOf_of_handleLive hl ▸ g.genOf_range (handleSlot h)

theorem ne_zero_of_handleGen_pos {h : Nat} (hg : 1 ≤ handleGen h) : h ≠ 0 := by
  rintro rfl
  exact absurd hg (by decide)

/-- Settles O16: the fields by arithmetic, the live handles by the range of their slot's generation. -/
theorem handlesReadAsTheirFields : Obligations.HandlesReadAsTheirFields := by
  refine ⟨fun kind tile gen index hk ht hg hi => ?_, fun h hh => ?_, fun s h g hl => ?_⟩
  · exact ⟨handleKind_makeHandle hk ht hg hi, handleTile_makeHandle ht hg hi, handleGen_makeHandle hg hi,
      handleIndex_makeHandle hi, makeHandle_lt hk ht hg hi⟩
  · exact ⟨makeHandle_fields hh, handleKind_eq hh, handleTile_eq h, handleGen_eq h, handleIndex_eq h⟩
  · obtain ⟨hpos, hle⟩ := handleGen_range_of_live g hl
    exact ⟨hpos, hle, ne_zero_of_handleGen_pos hpos⟩

end Sys2Proof.Machine
end

section
/-!
PROOF. A packet whose PARAM_LEN exceeds 4,096 bytes (R37): the slots discarded behind it, and the reply to it.
-/
namespace Sys2Proof.Machine
open Sys2Proof

@[simp] theorem queue?_putQueue_same (q : Nat) (v : Queue) (s : State) : queue? (putQueue q v s) q = some v :=
  tget?_tput_same s.mv.queues q v

/-- Writing a queue is a change of the mover unit's state alone. -/
theorem putQueue_eq_with_mv (q : Nat) (v : Queue) (s : State) : putQueue q v s = { s with mv := (putQueue q v s).mv } := rfl

/-- The one thing R37's discarding does to a queue that exists: the count of slots taken moves on, by at least one slot. -/
theorem discardSlots_of_queue {c : Cmd} {s : State} {v : Queue} (hv : queue? s (cmdQueue c.port c.queue) = some v) :
    discardSlots c s = (max 1 (v.host - v.dev).toNat,
      putQueue (cmdQueue c.port c.queue) { v with dev := v.dev + BitVec.ofNat 32 (max 1 (v.host - v.dev).toNat) } s) := by
  simp [discardSlots, hv]

theorem tooLong_eq (op : Nat) (c : Cmd) (s : State) :
    tooLong op c s
      = answer op c { status := .eTooLong, detail := ((discardSlots c s).1 - 1) % 65536 } (discardSlots c s).2 := rfl

/-- A packet that declares too much, of any opcode value, has the reply of R37 and no check of Table 3-7. -/
theorem exec_commandTooLong (op : Nat) {len : Nat} (c : Cmd) {s : State} (hr : commandsRun s = true) (hl : 4096 < len) :
    exec (.commandTooLong op len c) s = .next (tooLong op c s) := by
  simp [exec, execCommandTooLong, hr, hl]

/-- Settles O6: defined and other opcodes reach the same refusal, and its discarding is one write of the command queue. -/
theorem tooLongPacketIsDiscarded : Obligations.TooLongPacketIsDiscarded := by
  refine ⟨fun i s o c hi hr hl => ?_, fun op len c s hr hl => ?_, fun c s v hv => ?_⟩
  · rw [exec_opRow i s o c hi, runOp_tooLong hr hl, tooLong_eq]
  · exact ⟨_, exec_commandTooLong op c hr hl, tooLong_eq op c s⟩
  · rw [discardSlots_of_queue hv]
    exact ⟨rfl, queue?_putQueue_same _ _ s, putQueue_eq_with_mv _ _ s⟩

end Sys2Proof.Machine
end

section
/-!
PROOF. What every command and every step keep: the parts outside those listed for the command, the record of what has left the package,
the fuses, generations and the mode fields. Each comes from one fact about each command, `exec_within`.
-/
namespace Sys2Proof.Machine
open Sys2Proof

/-- Every command follows its state by an effect on the parts listed for it alone. -/
theorem exec_within (i : Instr) (s : State) : WithinO (mayChange i) s (exec i s) := by
  cases i with
  | registerWrite port offset value => exact execRegisterWrite_within port offset value (.refl _ s) rfl
  | loReadCapture port offset => exact execLoReadCapture_within port offset (.refl _ s) rfl
  | hiWriteCommit port offset value => exact execHiWriteCommit_within port offset value (.refl _ s) rfl
  | testFieldWrite port offset value => exact execTestFieldWrite_within port offset value (.refl _ s) rfl
  | controlMalformedAccess port read => exact execControlMalformedAccess_within port read (.refl _ s) rfl
  | vbatRise => exact execVbatRise_within (.refl _ s) rfl
  | vbatFall => exact execVbatFall_within (.refl _ s) rfl
  | mainSuppliesValid => exact execMainSuppliesValid_within (.refl _ s) rfl
  | mainSupplyLoss => exact execMainSupplyLoss_within (.refl _ s) rfl
  | vddIoLoss => exact execVddIoLoss_within (.refl _ s) rfl
  | resetNAssert => exact execResetNAssert_within (.refl _ s) rfl
  | resetNRelease bootSrc bootPort => exact execResetNRelease_within bootSrc bootPort (.refl _ s) rfl
  | bootLoaderLoad copy img => exact execBootLoaderLoad_within copy img (.refl _ s) rfl
  | bootConfigLoad copy0 copy1 => exact execBootConfigLoad_within copy0 copy1 (.refl _ s) rfl
  | microcodeLoad slot img => exact execMicrocodeLoad_within slot img (.refl _ s) rfl
  | alfelLoad slot img => exact execAlfelLoad_within slot img (.refl _ s) rfl
  | goldenLoad outer micro alfel => exact execGoldenLoad_within outer micro alfel (.refl _ s) rfl
  | tileTrained tile => exact execTileTrained_within tile (.refl _ s) rfl
  | tileTrainTimeout tile => exact execTileTrainTimeout_within tile (.refl _ s) rfl
  | mailboxGo port block packet img conf => exact execMailboxGo_within port block packet img conf (.refl _ s) rfl
  | modeSet c => exact execModeSet_within c (.refl _ s) rfl
  | modeQuery c => exact execModeQuery_within c (.refl _ s) rfl
  | modeCommit => exact execModeCommit_within (.refl _ s) rfl
  | modeDrainComplete => exact execModeDrainComplete_within (.refl _ s) rfl
  | modeDrainLimit => exact execModeDrainLimit_within (.refl _ s) rfl
  | tileQuiesce c => exact execTileQuiesce_within c (.refl _ s) rfl
  | tileQuiesceCommit tile => exact execTileQuiesceCommit_within tile (.refl _ s) rfl
  | tileDrainComplete tile => exact execTileDrainComplete_within tile (.refl _ s) rfl
  | tileDrainLimit tile => exact execTileDrainLimit_within tile (.refl _ s) rfl
  | tileResume c => exact execTileResume_within c (.refl _ s) rfl
  | tilePowerDown c => exact execTilePowerDown_within c (.refl _ s) rfl
  | tilePowerDownDone tile => exact execTilePowerDownDone_within tile (.refl _ s) rfl
  | tileRejoin c => exact execTileRejoin_within c (.refl _ s) rfl
  | tileRejoinPrepared tile img powerUp dram => exact execTileRejoinPrepared_within tile img powerUp dram (.refl _ s) rfl
  | tileRejoinLocked tile links lock => exact execTileRejoinLocked_within tile links lock (.refl _ s) rfl
  | tileQuery c => exact execTileQuery_within c (.refl _ s) rfl
  | hwDetectorOccurrence tile det unit real => exact execHwDetectorOccurrence_within tile det unit real (.refl _ s) rfl
  | fabricTransferRetry tile unit passes => exact execFabricTransferRetry_within tile unit passes (.refl _ s) rfl
  | fabricLinkDown tile unit => exact execFabricLinkDown_within tile unit (.refl _ s) rfl
  | fabricLinkRestored link => exact execFabricLinkRestored_within link (.refl _ s) rfl
  | codecBacklogHigh tile engine => exact execCodecBacklogHigh_within tile engine (.refl _ s) rfl
  | codecBacklogLow tile engine => exact execCodecBacklogLow_within tile engine (.refl _ s) rfl
  | commandTake port queue packet img conf programmed => exact execCommandTake_within port queue packet img conf programmed (.refl _ s) rfl
  | commandTooLong op len c => exact execCommandTooLong_within op len c (.refl _ s) rfl
  | undefinedOpcode op c => exact execUndefinedOpcode_within op c (.refl _ s) rfl
  | cmdQueueDoorbell port queue count => exact execCmdQueueDoorbell_within port queue count (.refl _ s) rfl
  | replyQueueDoorbell port queue count => exact execReplyQueueDoorbell_within port queue count (.refl _ s) rfl
  | chainQueueDoorbell port queue count => exact execChainQueueDoorbell_within port queue count (.refl _ s) rfl
  | cplQueueDoorbell port queue count => exact execCplQueueDoorbell_within port queue count (.refl _ s) rfl
  | dbMaskWrite port queue mask => exact execDbMaskWrite_within port queue mask (.refl _ s) rfl
  | bootstrapOpen port block => exact execBootstrapOpen_within port block (.refl _ s) rfl
  | bootstrapOpened port => exact execBootstrapOpened_within port (.refl _ s) rfl
  | nop c => exact execNop_within c (.refl _ s) rfl
  | pkgInfo c => exact execPkgInfo_within c (.refl _ s) rfl
  | masterSet c => exact execMasterSet_within c (.refl _ s) rfl
  | masterClaim c => exact execMasterClaim_within c (.refl _ s) rfl
  | pkgReset c => exact execPkgReset_within c (.refl _ s) rfl
  | handleQuery c => exact execHandleQuery_within c (.refl _ s) rfl
  | handleDestroy c => exact execHandleDestroy_within c (.refl _ s) rfl
  | adopt c => exact execAdopt_within c (.refl _ s) rfl
  | orphanGraceSet c => exact execOrphanGraceSet_within c (.refl _ s) rfl
  | handleList c => exact execHandleList_within c (.refl _ s) rfl
  | orphanDeadline => exact execOrphanDeadline_within (.refl _ s) rfl
  | masterRoleVacant => exact execMasterRoleVacant_within (.refl _ s) rfl
  | lanePortSet c => exact execLanePortSet_within c (.refl _ s) rfl
  | lanePortQuery c => exact execLanePortQuery_within c (.refl _ s) rfl
  | laneEnable c => exact execLaneEnable_within c (.refl _ s) rfl
  | laneErOffer c => exact execLaneErOffer_within c (.refl _ s) rfl
  | laneMgmtBind c => exact execLaneMgmtBind_within c (.refl _ s) rfl
  | laneCountersClear c => exact execLaneCountersClear_within c (.refl _ s) rfl
  | laneEyeScan c => exact execLaneEyeScan_within c (.refl _ s) rfl
  | eyeScanComplete lane cells => exact execEyeScanComplete_within lane cells (.refl _ s) rfl
  | anComplete lane => exact execAnComplete_within lane (.refl _ s) rfl
  | anTimeout lane => exact execAnTimeout_within lane (.refl _ s) rfl
  | trainingComplete lane => exact execTrainingComplete_within lane (.refl _ s) rfl
  | trainingTimeout lane => exact execTrainingTimeout_within lane (.refl _ s) rfl
  | linkUp lane => exact execLinkUp_within lane (.refl _ s) rfl
  | lockTimeout lane => exact execLockTimeout_within lane (.refl _ s) rfl
  | linkLoss lane partialFrame => exact execLinkLoss_within lane partialFrame (.refl _ s) rfl
  | retryWaitExpiry lane => exact execRetryWaitExpiry_within lane (.refl _ s) rfl
  | remoteFaultChange lane on => exact execRemoteFaultChange_within lane on (.refl _ s) rfl
  | rxFrame lane bytes => exact execRxFrame_within lane bytes (.refl _ s) rfl
  | mgmtTxFrame lane bytes => exact execMgmtTxFrame_within lane bytes (.refl _ s) rfl
  | mgmtWriteback => exact execMgmtWriteback_within (.refl _ s) rfl
  | erFrameReceive lane => exact execErFrameReceive_within lane (.refl _ s) rfl
  | erStabilityExpiry lane => exact execErStabilityExpiry_within lane (.refl _ s) rfl
  | erOfferRepeat lane => exact execErOfferRepeat_within lane (.refl _ s) rfl
  | erNoAnswer lane => exact execErNoAnswer_within lane (.refl _ s) rfl
  | erSwitchRepeat lane => exact execErSwitchRepeat_within lane (.refl _ s) rfl
  | erSwitchDelayExpiry lane => exact execErSwitchDelayExpiry_within lane (.refl _ s) rfl
  | erSwitchTimeout lane => exact execErSwitchTimeout_within lane (.refl _ s) rfl
  | erConfirmRepeat lane => exact execErConfirmRepeat_within lane (.refl _ s) rfl
  | erConfirmTimeout lane => exact execErConfirmTimeout_within lane (.refl _ s) rfl
  | erRetrainExhausted lane => exact execErRetrainExhausted_within lane (.refl _ s) rfl
  | streamPortSet c => exact execStreamPortSet_within c (.refl _ s) rfl
  | streamSourceSet c => exact execStreamSourceSet_within c (.refl _ s) rfl
  | streamCreate c => exact execStreamCreate_within c (.refl _ s) rfl
  | streamConfig c => exact execStreamConfig_within c (.refl _ s) rfl
  | streamDestroy c => exact execStreamDestroy_within c (.refl _ s) rfl
  | streamQuery c => exact execStreamQuery_within c (.refl _ s) rfl
  | actionSet c => exact execActionSet_within c (.refl _ s) rfl
  | actionQuery c => exact execActionQuery_within c (.refl _ s) rfl
  | gvspPacket lane => exact execGvspPacket_within lane (.refl _ s) rfl
  | resendRequest channel => exact execResendRequest_within channel (.refl _ s) rfl
  | resendRepeat channel => exact execResendRepeat_within channel (.refl _ s) rfl
  | giveUpTimer channel => exact execGiveUpTimer_within channel (.refl _ s) rfl
  | quietTimeout channel => exact execQuietTimeout_within channel (.refl _ s) rfl
  | actionSend output => exact execActionSend_within output (.refl _ s) rfl
  | frameLeader channel => exact execFrameLeader_within channel (.refl _ s) rfl
  | positionAtMidtime channel => exact execPositionAtMidtime_within channel (.refl _ s) rfl
  | positionHistoryRecord mi => exact execPositionHistoryRecord_within mi (.refl _ s) rfl
  | tagComplete channel => exact execTagComplete_within channel (.refl _ s) rfl
  | configCommitApplied channel => exact execConfigCommitApplied_within channel (.refl _ s) rfl
  | timeAnchorDue queue => exact execTimeAnchorDue_within queue (.refl _ s) rfl
  | faConfig c => exact execFaConfig_within c (.refl _ s) rfl
  | faQuery c => exact execFaQuery_within c (.refl _ s) rfl
  | faStageBegin c => exact execFaStageBegin_within c (.refl _ s) rfl
  | faStageCommit c => exact execFaStageCommit_within c (.refl _ s) rfl
  | stageCommitAt channel => exact execStageCommitAt_within channel (.refl _ s) rfl
  | faStageAbort c => exact execFaStageAbort_within c (.refl _ s) rfl
  | anchorSet c => exact execAnchorSet_within c (.refl _ s) rfl
  | cdConfig c => exact execCdConfig_within c (.refl _ s) rfl
  | cdQuery c => exact execCdQuery_within c (.refl _ s) rfl
  | cdCalSet c => exact execCdCalSet_within c (.refl _ s) rfl
  | cdCalSample c => exact execCdCalSample_within c (.refl _ s) rfl
  | calSampleDone channel => exact execCalSampleDone_within channel (.refl _ s) rfl
  | cdCalFit c => exact execCdCalFit_within c (.refl _ s) rfl
  | cdTableRead c => exact execCdTableRead_within c (.refl _ s) rfl
  | cdCheckSet c => exact execCdCheckSet_within c (.refl _ s) rfl
  | cdEngineRestore c pass => exact execCdEngineRestore_within c pass (.refl _ s) rfl
  | levelTableBuilt channel => exact execLevelTableBuilt_within channel (.refl _ s) rfl
  | bandToCodec channel => exact execBandToCodec_within channel (.refl _ s) rfl
  | sliceCoded tile engine index matches_ => exact execSliceCoded_within tile engine index matches_ (.refl _ s) rfl
  | engineSuspect tile engine => exact execEngineSuspect_within tile engine (.refl _ s) rfl
  | frameRecordValid channel => exact execFrameRecordValid_within channel (.refl _ s) rfl
  | triggerInput channel n => exact execTriggerInput_within channel n (.refl _ s) rfl
  | postWaitExpiry segment => exact execPostWaitExpiry_within segment (.refl _ s) rfl
  | fsRingSet c => exact execFsRingSet_within c (.refl _ s) rfl
  | fsQuery c => exact execFsQuery_within c (.refl _ s) rfl
  | fsSegArm c => exact execFsSegArm_within c (.refl _ s) rfl
  | fsTrigger c => exact execFsTrigger_within c (.refl _ s) rfl
  | fsSegRelease c => exact execFsSegRelease_within c (.refl _ s) rfl
  | fsFreezeRing c => exact execFsFreezeRing_within c (.refl _ s) rfl
  | fsSegQuery c => exact execFsSegQuery_within c (.refl _ s) rfl
  | fsDirRead c => exact execFsDirRead_within c (.refl _ s) rfl
  | fsRead c => exact execFsRead_within c (.refl _ s) rfl
  | readoutFrameDone segment => exact execReadoutFrameDone_within segment (.refl _ s) rfl
  | readoutEarlyEnd segment => exact execReadoutEarlyEnd_within segment (.refl _ s) rfl
  | fsReadAbort c => exact execFsReadAbort_within c (.refl _ s) rfl
  | fsMap c => exact execFsMap_within c (.refl _ s) rfl
  | fsUnmap c => exact execFsUnmap_within c (.refl _ s) rfl
  | storeRead port offset len => exact execStoreRead_within port offset len (.refl _ s) rfl
  | storeResize port code => exact execStoreResize_within port code (.refl _ s) rfl
  | armInput channel n => exact execArmInput_within channel n (.refl _ s) rfl
  | adRoiSet c => exact execAdRoiSet_within c (.refl _ s) rfl
  | adQuery c => exact execAdQuery_within c (.refl _ s) rfl
  | adRuleCreate c => exact execAdRuleCreate_within c (.refl _ s) rfl
  | adRuleConfig c => exact execAdRuleConfig_within c (.refl _ s) rfl
  | adRuleArm c => exact execAdRuleArm_within c (.refl _ s) rfl
  | adRuleQuery c => exact execAdRuleQuery_within c (.refl _ s) rfl
  | adRuleDestroy c => exact execAdRuleDestroy_within c (.refl _ s) rfl
  | adRefCreate c => exact execAdRefCreate_within c (.refl _ s) rfl
  | adRefCapture c => exact execAdRefCapture_within c (.refl _ s) rfl
  | refCaptured reference => exact execRefCaptured_within reference (.refl _ s) rfl
  | adRefDestroy c => exact execAdRefDestroy_within c (.refl _ s) rfl
  | adRefQuery c => exact execAdRefQuery_within c (.refl _ s) rfl
  | mvStart port chan => exact execMvStart_within port chan (.refl _ s) rfl
  | mvAbortBit port chan => exact execMvAbortBit_within port chan (.refl _ s) rfl
  | goInput chan n => exact execGoInput_within chan n (.refl _ s) rfl
  | moverRunComplete chan source => exact execMoverRunComplete_within chan source (.refl _ s) rfl
  | moverAbortDone chan bursts source => exact execMoverAbortDone_within chan bursts source (.refl _ s) rfl
  | flushReadDone live chan timeout => exact execFlushReadDone_within live chan timeout (.refl _ s) rfl
  | descriptorRead queue bytes => exact execDescriptorRead_within queue bytes (.refl _ s) rfl
  | frameDeliveryStart channel => exact execFrameDeliveryStart_within channel (.refl _ s) rfl
  | frameDeliveryComplete channel => exact execFrameDeliveryComplete_within channel (.refl _ s) rfl
  | pendingEntryWrite queue => exact execPendingEntryWrite_within queue (.refl _ s) rfl
  | coalesceTimer queue => exact execCoalesceTimer_within queue (.refl _ s) rfl
  | queueCreate c => exact execQueueCreate_within c (.refl _ s) rfl
  | queueConfig c => exact execQueueConfig_within c (.refl _ s) rfl
  | queueDestroy c => exact execQueueDestroy_within c (.refl _ s) rfl
  | queueQuery c => exact execQueueQuery_within c (.refl _ s) rfl
  | queueRestart c => exact execQueueRestart_within c (.refl _ s) rfl
  | mvReserve c => exact execMvReserve_within c (.refl _ s) rfl
  | mvRelease c => exact execMvRelease_within c (.refl _ s) rfl
  | mvQuery c => exact execMvQuery_within c (.refl _ s) rfl
  | mvAbort c => exact execMvAbort_within c (.refl _ s) rfl
  | compatAccess port offset tlp => exact execCompatAccess_within port offset tlp (.refl _ s) rfl
  | compatCommit port => exact execCompatCommit_within port (.refl _ s) rfl
  | msixUnmask port vector => exact execMsixUnmask_within port vector (.refl _ s) rfl
  | intxStatusClear port reg value => exact execIntxStatusClear_within port reg value (.refl _ s) rfl
  | completionTimeout port n => exact execCompletionTimeout_within port n (.refl _ s) rfl
  | lateCompletion port => exact execLateCompletion_within port (.refl _ s) rfl
  | pcieRxError port error header => exact execPcieRxError_within port error header (.refl _ s) rfl
  | ptmPeriod port => exact execPtmPeriod_within port (.refl _ s) rfl
  | ptmNow port n => exact execPtmNow_within port n (.refl _ s) rfl
  | ptmDialogueDone port master propagation => exact execPtmDialogueDone_within port master propagation (.refl _ s) rfl
  | ptmResponseTimeout port => exact execPtmResponseTimeout_within port (.refl _ s) rfl
  | ptmStatusRead port tile => exact execPtmStatusRead_within port tile (.refl _ s) rfl
  | perst port => exact execPerst_within port (.refl _ s) rfl
  | hotReset port => exact execHotReset_within port (.refl _ s) rfl
  | functionLevelReset port => exact execFunctionLevelReset_within port (.refl _ s) rfl
  | flrDone port => exact execFlrDone_within port (.refl _ s) rfl
  | portLinkDown port saved => exact execPortLinkDown_within port saved (.refl _ s) rfl
  | portConnectedChange port => exact execPortConnectedChange_within port (.refl _ s) rfl
  | holdDeadline port => exact execHoldDeadline_within port (.refl _ s) rfl
  | routeMoveToward port tile => exact execRouteMoveToward_within port tile (.refl _ s) rfl
  | timeQuery c => exact execTimeQuery_within c (.refl _ s) rfl
  | timeSet c => exact execTimeSet_within c (.refl _ s) rfl
  | timeAdjust c => exact execTimeAdjust_within c (.refl _ s) rfl
  | timeServoSet c => exact execTimeServoSet_within c (.refl _ s) rfl
  | timeChangeCommit => exact execTimeChangeCommit_within (.refl _ s) rfl
  | ptpClockSet c => exact execPtpClockSet_within c (.refl _ s) rfl
  | ptpPortSet c => exact execPtpPortSet_within c (.refl _ s) rfl
  | ptpQuery c => exact execPtpQuery_within c (.refl _ s) rfl
  | ptpMessageReceive lane outcome => exact execPtpMessageReceive_within lane outcome (.refl _ s) rfl
  | announceReceiptTimeout lane => exact execAnnounceReceiptTimeout_within lane (.refl _ s) rfl
  | ptpMessageTimer lane msgType origin => exact execPtpMessageTimer_within lane msgType origin (.refl _ s) rfl
  | txtsPop port tile => exact execTxtsPop_within port tile (.refl _ s) rfl
  | pkgTimeRead port calendar => exact execPkgTimeRead_within port calendar (.refl _ s) rfl
  | schedCreate c => exact execSchedCreate_within c (.refl _ s) rfl
  | schedDestroy c => exact execSchedDestroy_within c (.refl _ s) rfl
  | schedQuery c => exact execSchedQuery_within c (.refl _ s) rfl
  | schedPulseDue output => exact execSchedPulseDue_within output (.refl _ s) rfl
  | schedGo output n => exact execSchedGo_within output n (.refl _ s) rfl
  | calSet c => exact execCalSet_within c (.refl _ s) rfl
  | calQuery c => exact execCalQuery_within c (.refl _ s) rfl
  | calendarAlign => exact execCalendarAlign_within (.refl _ s) rfl
  | eventIntake tile => exact execEventIntake_within tile (.refl _ s) rfl
  | routeCommit route => exact execRouteCommit_within route (.refl _ s) rfl
  | groupInput index n => exact execGroupInput_within index n (.refl _ s) rfl
  | groupCommit => exact execGroupCommit_within (.refl _ s) rfl
  | pinInputEdge pin level => exact execPinInputEdge_within pin level (.refl _ s) rfl
  | pinAction pin n => exact execPinAction_within pin n (.refl _ s) rfl
  | pinEdgeDue pin => exact execPinEdgeDue_within pin (.refl _ s) rfl
  | pinPulseEnd pin => exact execPinPulseEnd_within pin (.refl _ s) rfl
  | evRouteCreate c => exact execEvRouteCreate_within c (.refl _ s) rfl
  | evRouteDestroy c => exact execEvRouteDestroy_within c (.refl _ s) rfl
  | evRouteQuery c => exact execEvRouteQuery_within c (.refl _ s) rfl
  | evPinSet c => exact execEvPinSet_within c (.refl _ s) rfl
  | evPinQuery c => exact execEvPinQuery_within c (.refl _ s) rfl
  | evGroupSet c => exact execEvGroupSet_within c (.refl _ s) rfl
  | evStatus c => exact execEvStatus_within c (.refl _ s) rfl
  | evPublish c => exact execEvPublish_within c (.refl _ s) rfl
  | evSkewLearn c => exact execEvSkewLearn_within c (.refl _ s) rfl
  | skewLearnDone pin => exact execSkewLearnDone_within pin (.refl _ s) rfl
  | motionEdge mi a b => exact execMotionEdge_within mi a b (.refl _ s) rfl
  | indexEdge mi level => exact execIndexEdge_within mi level (.refl _ s) rfl
  | standstillExpiry mi => exact execStandstillExpiry_within mi (.refl _ s) rfl
  | cmpArmInput mi n => exact execCmpArmInput_within mi n (.refl _ s) rfl
  | tableStartInput mi n => exact execTableStartInput_within mi n (.refl _ s) rfl
  | presetInput mi n => exact execPresetInput_within mi n (.refl _ s) rfl
  | latchInput mi n => exact execLatchInput_within mi n (.refl _ s) rfl
  | moPosRead port mi => exact execMoPosRead_within port mi (.refl _ s) rfl
  | moConfig c => exact execMoConfig_within c (.refl _ s) rfl
  | moQuery c => exact execMoQuery_within c (.refl _ s) rfl
  | moPreset c => exact execMoPreset_within c (.refl _ s) rfl
  | moCmpCreate c => exact execMoCmpCreate_within c (.refl _ s) rfl
  | moCmpArm c => exact execMoCmpArm_within c (.refl _ s) rfl
  | moCmpDisarm c => exact execMoCmpDisarm_within c (.refl _ s) rfl
  | moTblLoad c => exact execMoTblLoad_within c (.refl _ s) rfl
  | moTblStart c => exact execMoTblStart_within c (.refl _ s) rfl
  | moTblStop c => exact execMoTblStop_within c (.refl _ s) rfl
  | moCmpQuery c => exact execMoCmpQuery_within c (.refl _ s) rfl
  | moCmpDestroy c => exact execMoCmpDestroy_within c (.refl _ s) rfl
  | heartbeatSend => exact execHeartbeatSend_within (.refl _ s) rfl
  | heartbeatLoss => exact execHeartbeatLoss_within (.refl _ s) rfl
  | renew => exact execRenew_within (.refl _ s) rfl
  | resign => exact execResign_within (.refl _ s) rfl
  | claim => exact execClaim_within (.refl _ s) rfl
  | grant engine => exact execGrant_within engine (.refl _ s) rfl
  | handover => exact execHandover_within (.refl _ s) rfl
  | renewalStaleStop => exact execRenewalStaleStop_within (.refl _ s) rfl
  | dualWindowEnd => exact execDualWindowEnd_within (.refl _ s) rfl
  | takeover => exact execTakeover_within (.refl _ s) rfl
  | takeoverReplies => exact execTakeoverReplies_within (.refl _ s) rfl
  | snapshotEpoch => exact execSnapshotEpoch_within (.refl _ s) rfl
  | journalAckTimeout => exact execJournalAckTimeout_within (.refl _ s) rfl
  | standbySelftestDone engine pass => exact execStandbySelftestDone_within engine pass (.refl _ s) rfl
  | standbyReady engine => exact execStandbyReady_within engine (.refl _ s) rfl
  | revertHoldExpiry => exact execRevertHoldExpiry_within (.refl _ s) rfl
  | arbGntChange level => exact execArbGntChange_within level (.refl _ s) rfl
  | ceBootArbWrite port value => exact execCeBootArbWrite_within port value (.refl _ s) rfl
  | cePairQuery c => exact execCePairQuery_within c (.refl _ s) rfl
  | cePairSet c => exact execCePairSet_within c (.refl _ s) rfl
  | ceSwitchover c => exact execCeSwitchover_within c (.refl _ s) rfl
  | ceStandbyRestart c img => exact execCeStandbyRestart_within c img (.refl _ s) rfl
  | governorSample samples => exact execGovernorSample_within samples (.refl _ s) rfl
  | criticalRepeat => exact execCriticalRepeat_within (.refl _ s) rfl
  | cStarved tile => exact execCStarved_within tile (.refl _ s) rfl
  | classCQuantumDone tile index => exact execClassCQuantumDone_within tile index (.refl _ s) rfl
  | pgConfig c => exact execPgConfig_within c (.refl _ s) rfl
  | pgQuery c => exact execPgQuery_within c (.refl _ s) rfl
  | pgTileQuery c => exact execPgTileQuery_within c (.refl _ s) rfl
  | pgSensorRead c => exact execPgSensorRead_within c (.refl _ s) rfl
  | healthReportTimer => exact execHealthReportTimer_within (.refl _ s) rfl
  | testUnlockExpiry => exact execTestUnlockExpiry_within (.refl _ s) rfl
  | hmQuery c => exact execHmQuery_within c (.refl _ s) rfl
  | hmThreshSet c => exact execHmThreshSet_within c (.refl _ s) rfl
  | hmReportSet c => exact execHmReportSet_within c (.refl _ s) rfl
  | hmTestUnlock c => exact execHmTestUnlock_within c (.refl _ s) rfl
  | hmInject c => exact execHmInject_within c (.refl _ s) rfl
  | fwQuery c => exact execFwQuery_within c (.refl _ s) rfl
  | fwWrite c => exact execFwWrite_within c (.refl _ s) rfl
  | fwWriteDone img conf programmed => exact execFwWriteDone_within img conf programmed (.refl _ s) rfl
  | fwVerify c img conf => exact execFwVerify_within c img conf (.refl _ s) rfl
  | fwSelect c => exact execFwSelect_within c (.refl _ s) rfl
  | fwRollbackAdvance c programmed => exact execFwRollbackAdvance_within c programmed (.refl _ s) rfl
  | fwPush c img conf => exact execFwPush_within c img conf (.refl _ s) rfl
  | fwStart c => exact execFwStart_within c (.refl _ s) rfl
  | tapInstruction instr => exact execTapInstruction_within instr (.refl _ s) rfl
  | tileResumeCommit tile => exact execTileResumeCommit_within tile (.refl _ s) rfl
  | snapshotEpochComplete => exact execSnapshotEpochComplete_within (.refl _ s) rfl
  | timeLockRestored tile error => exact execTimeLockRestored_within tile error (.refl _ s) rfl
  | portLinkUp port flit rate width => exact execPortLinkUp_within port flit rate width (.refl _ s) rfl
  | configRequest port offset write => exact execConfigRequest_within port offset write (.refl _ s) rfl
  | motionInputLevel mi a b index => exact execMotionInputLevel_within mi a b index (.refl _ s) rfl

theorem exec_next_within {i : Instr} {s t : State} (h : exec i s = .next t) : Within (mayChange i) s t := by
  have hw := exec_within i s
  rwa [h] at hw

/-- Settles O11: the part of `exec_within` that speaks of unlisted parts. -/
theorem commandsChangeOnlyTheirParts : Obligations.CommandsChangeOnlyTheirParts := fun _ _ _ h =>
  have hw := exec_next_within h
  ⟨hw.pending, hw.part, hw.clock, hw.same⟩

/-- Settles O12: the part of `exec_within` that speaks of what has left the package. -/
theorem outputIsOnlyAppended : Obligations.OutputIsOnlyAppended := fun _ _ _ h => (exec_next_within h).added

theorem step_nil {s : State} (h : s.pending = []) : step s = .next (tick s) := by
  unfold step; rw [h]

theorem step_cons (c : Instr) (rest : List Instr) (s : State) : step { s with pending := c :: rest } = exec c { s with pending := rest } := rfl

/-- A step is a tick of the clock, or a command with the queue's rest behind it. -/
theorem step_next_cases {s t : State} (h : step s = .next t) :
    (s.pending = [] ∧ t = tick s) ∨ ∃ c rest, s.pending = c :: rest ∧ exec c { s with pending := rest } = .next t := by
  cases hp : s.pending with
  | nil => rw [step_nil hp] at h; cases h; exact .inl ⟨rfl, rfl⟩
  | cons c rest => unfold step at h; rw [hp] at h; exact .inr ⟨c, rest, rfl, h⟩

/-- A tick moves the running clock by one, and of the package at most package time and the calendar. -/
theorem tick_eq (s : State) : tick s = { s with clock := s.clock + 1, time := (tick s).time, cal := (tick s).cal } := by
  have hadvance : advanceTime s = { s with time := (advanceTime s).time } := by unfold advanceTime; split <;> rfl
  have hcalendar (u : State) : calendarTick u = { u with cal := (calendarTick u).cal } := by
    unfold calendarTick; dsimp only; split <;> rfl
  unfold tick
  rw [hcalendar, hadvance]

theorem tick_eng (s : State) : (tick s).eng = s.eng := by rw [tick_eq]
theorem tick_pkg (s : State) : (tick s).pkg = s.pkg := by rw [tick_eq]
theorem tick_clock (s : State) : (tick s).clock = s.clock + 1 := by rw [tick_eq]
theorem tick_boot (s : State) : (tick s).boot = s.boot := by rw [tick_eq]

/-- Settles O13: a tick leaves the fuses, and no command lowers them. -/
theorem rollbackCounterNeverFalls : Obligations.RollbackCounterNeverFalls := fun s t h => by
  obtain ⟨-, rfl⟩ | ⟨c, rest, -, hc⟩ := step_next_cases h
  · exact Nat.le_of_eq (congrArg (·.rollback) (tick_boot s)).symm
  · exact (exec_next_within hc).rollback

/-- Settles O14: a tick leaves the engine, and every command keeps the invariant. -/
theorem stepsKeepGenerations : Obligations.StepsKeepGenerations := fun s t g h => by
  obtain ⟨-, rfl⟩ | ⟨c, rest, -, hc⟩ := step_next_cases h
  · rwa [tick_eng]
  · exact (exec_next_within hc).gens g

/-- Settles O17: a tick leaves the mode fields, and every command keeps the invariant. -/
theorem stepsKeepModeFields : Obligations.StepsKeepModeFields := fun s t g h => by
  obtain ⟨-, rfl⟩ | ⟨c, rest, -, hc⟩ := step_next_cases h
  · rwa [tick_pkg]
  · exact (exec_next_within hc).modes g

/-- Settles O15: the engine after reset is the one that `generationsOk_reset` speaks of. -/
theorem resetHasGenerations : Obligations.ResetHasGenerations := generationsOk_reset

/-- Settles O18: after reset no change is in progress, and TARGET is MODE. -/
theorem resetHasModeFields : Obligations.ResetHasModeFields := PkgOk.settled rfl rfl rfl

/-- Settles O1: by the definition of a step on a queue that is not empty. -/
theorem stepRunsFrontCommand : Obligations.StepRunsFrontCommand := step_cons

/-- Settles O2: the step on an empty queue is the tick, and `tick_eq` says what it moves. -/
theorem emptyQueueLetsTimePass : Obligations.EmptyQueueLetsTimePass := fun s h =>
  ⟨tick s, step_nil h, tick_clock s, tick_eq s⟩

end Sys2Proof.Machine
end

section
/-!
PROOF. Replies and refusals (R10, R35, R36, R42, R55, R315): what answering a command touches and writes.
-/
namespace Sys2Proof.Machine
open Sys2Proof

/-- Settles O10: a quiet engine appends the reply to those deferred. -/
theorem quietEngineHoldsReplies : Obligations.QuietEngineHoldsReplies := fun op c a s hq => by
  simp [answer, writeReply, hq, modEng]

theorem answer_of_not_quiet {op : Nat} {c : Cmd} {a : Answer} {s : State} (hq : s.eng.quiet = false) :
    answer op c a s = sendReply c (mkReply s op c a false) s := by
  simp [answer, writeReply, hq]

/-- Settles O9: a deferred reply changes `deferred` alone, any other keeps to the path of its queue. -/
theorem replyTouchesOnlyItsPath : Obligations.ReplyTouchesOnlyItsPath := fun op c a s => by
  by_cases hq : s.eng.quiet = true
  · rw [quietEngineHoldsReplies op c a s hq]
    exact ⟨rfl, fun _ _ => rfl, List.prefix_refl _⟩
  · rw [answer_of_not_quiet (by simpa using hq)]
    obtain ⟨heq, hqueues, hout⟩ := onPath_sendReply c (mkReply s op c a false) s
    exact ⟨by rw [heq], hqueues, hout⟩

/-- Settles O5: every opcode row runs `runOp`, whose first two tests pass. -/
theorem refusedCommandChangesNothing : Obligations.RefusedCommandChangesNothing := by
  have hrun : ∀ (i : Instr) (s : State) (o : OpDef) (c : Cmd), opRow i = some (o, c) → commandsRun s = true →
      c.params.length ≤ 4096 → exec i s = .next (runChecked o c (afterEvents o c s)) := fun i s o c hi hr hl => by
    rw [exec_opRow i s o c hi, runOp]
    simp [hr, Nat.not_lt.mpr hl]
  refine ⟨hrun, fun i s o c f hi hr hl hf => ?_⟩
  rw [hrun i s o c hi hr hl, runChecked, hf]

@[simp] theorem queue?_emit (q : Nat) (o : Out) (s : State) : queue? (emit o s) q = queue? s q := rfl

/-- A reply that fits, of a command without FLAGS.IRQ, is written when it is the only one that waits. -/
theorem flushReplies_one {p n : Nat} {r : Reply} {v : Queue} {s : State} (hv : queue? s (replyQueue p n) = some v)
    (hheld : v.heldReplies = [(r, false)]) (hroom : (v.dev - v.host).toNat + slotsFor r.result.length ≤ v.size) :
    flushReplies p n 1 s = putReply p n r false (putQueue (replyQueue p n) { v with heldReplies := [] } s) := by
  simp only [flushReplies, hv, hheld, if_pos hroom]

/-- The reply as it leaves with the phase of the queue's present lap. -/
theorem putReply_quiet {p n : Nat} {r : Reply} {v : Queue} {s : State} (hv : queue? s (replyQueue p n) = some v) :
    putReply p n r false s
      = putQueue (replyQueue p n)
          { v with
            dev := v.dev + BitVec.ofNat 32 (slotsFor r.result.length), state := .running
            sent := v.sent ++ [(v.dev + BitVec.ofNat 32 (slotsFor r.result.length), { r with phase := phaseOf v }, false)] }
          (emit (.reply p n (v.dev.toNat % v.size) { r with phase := phaseOf v }) s) := by
  simp [putReply, hv]

/-- Settles O8: the reply waits alone, fits, and is written at the device count. -/
theorem replyIsWrittenToItsQueue : Obligations.ReplyIsWrittenToItsQueue := fun op c a s v hc hq hconn hv hheld hroom hirq => by
  let r := mkReply s op c a false
  let u := putQueue (replyQueue c.port c.queue) { v with heldReplies := [(r, false)] } s
  have hwait : modQueue (replyQueue c.port c.queue) (fun v => { v with heldReplies := v.heldReplies ++ [(r, bit c.flags.toNat 2)] }) s = u := by
    simp [modQueue, hv, hheld, hirq, u]
  have hu : queue? u (replyQueue c.port c.queue) = some { v with heldReplies := [(r, false)] } := queue?_putQueue_same _ _ s
  have hsend : answer op c a s
      = putReply c.port c.queue r false (putQueue (replyQueue c.port c.queue) { v with heldReplies := [] } u) := by
    have hconn' : connected u c.port = true := hconn
    have hq' : u.eng.quiet = false := hq
    rw [answer_of_not_quiet hq, sendReply, if_neg (Nat.ne_of_lt hc), hwait, flushQueue, hconn', hq', hu]
    exact flushReplies_one (v := { v with heldReplies := [(r, false)] }) hu rfl hroom
  rw [hsend, putReply_quiet (queue?_putQueue_same _ _ u)]
  exact ⟨rfl, _, queue?_putQueue_same _ _ _, rfl, rfl, rfl, rfl⟩

end Sys2Proof.Machine
end

section
/-!
PROOF. The package commands (Table 3-12), the master role (R48, R52) and the bootstrap pairs (R31, R58).
-/
namespace Sys2Proof.Machine
open Sys2Proof

/-! ### States that differ in listed parts -/

/-- The state s with the parts in C taken from t. -/
def overlay (C : List Comp) (s t : State) : State :=
  { s with
    free := if C.contains .free then t.free else s.free
    out := if C.contains .out then t.out else s.out
    pkg := if C.contains .pkg then t.pkg else s.pkg
    eng := if C.contains .eng then t.eng else s.eng
    lanes := if C.contains .lanes then t.lanes else s.lanes
    st := if C.contains .st then t.st else s.st
    mv := if C.contains .mv then t.mv else s.mv
    host := if C.contains .host then t.host else s.host
    time := if C.contains .time then t.time else s.time
    cal := if C.contains .cal then t.cal else s.cal
    ev := if C.contains .ev then t.ev else s.ev
    boot := if C.contains .boot then t.boot else s.boot
    mo := if C.contains .mo then t.mo else s.mo
    gov := if C.contains .gov then t.gov else s.gov
    cd := if C.contains .cd then t.cd else s.cd
    ad := if C.contains .ad then t.ad else s.ad
    hm := if C.contains .hm then t.hm else s.hm
    fs := if C.contains .fs then t.fs else s.fs
    rd := if C.contains .rd then t.rd else s.rd }

/-- A state that follows another within C differs from it in the parts in C alone. -/
theorem Within.eq_overlay {C : List Comp} {s t : State} (h : Within C s t) : t = overlay C s t := by
  have hpart {α : Type} {c : Comp} {x y : α} (hc : c ∉ C → x = y) : x = if C.contains c then x else y := by
    split
    · rfl
    · next hn => exact hc (by simpa using hn)
  unfold overlay
  rw [← h.pending, ← h.part, ← h.clock, ← hpart (h.same .free), ← hpart (h.same .out), ← hpart (h.same .pkg), ← hpart (h.same .eng), ← hpart (h.same .lanes), ← hpart (h.same .st), ← hpart (h.same .mv), ← hpart (h.same .host), ← hpart (h.same .time), ← hpart (h.same .cal), ← hpart (h.same .ev), ← hpart (h.same .boot), ← hpart (h.same .mo), ← hpart (h.same .gov), ← hpart (h.same .cd), ← hpart (h.same .ad), ← hpart (h.same .hm), ← hpart (h.same .fs), ← hpart (h.same .rd)]

/-- A command that answers a next state runs to it. -/
theorem runs_next {i : Instr} {s t : State} {P : State → Prop} (h : exec i s = .next t) (hp : P t) : Runs i s P := ⟨t, h, hp⟩

/-! ### Fields of results -/

/-- A field past a run of zeros. -/
theorem le_skip_zeros (n k m : Nat) (r : List Byte) (h : n ≤ k) : le (zeros n ++ r) k m = le r (k - n) m := by
  rw [le_append_right _ _ _ _ (by simpa using h), zeros_length]

theorem partDevice_lt (p : Part) : partDevice p < 65536 := by cases p <;> decide

theorem tiles_le (s : State) : tiles s ≤ 8 := by unfold tiles; cases s.part <;> decide

/-! ### The master role -/

theorem takeRole_held {p : Nat} {s : State} (h : s.pkg.masterPort = p ∧ s.pkg.vacant = false) : (takeRole p s).1 = s := by
  simp [takeRole, h]

theorem takeRole_taken {p : Nat} {s : State} (h : ¬(s.pkg.masterPort = p ∧ s.pkg.vacant = false)) :
    (takeRole p s).1 = { s with
      pkg := { s.pkg with masterPort := p, vacant := false, vacancyAt := none, masterGen := s.pkg.masterGen + 1 }
      eng := { s.eng with configGen := nextGen s.eng.configGen } } := by
  simp only [takeRole, if_neg h]; rfl

/-- Whoever takes the role has it, and nothing but the role and CE_CONFIG_GEN moves. -/
theorem takeRole_spec (p : Nat) (s : State) :
    (takeRole p s).1.pkg.masterPort = p ∧ (takeRole p s).1.pkg.vacant = false
      ∧ (takeRole p s).1 = { s with pkg := (takeRole p s).1.pkg, eng := { s.eng with configGen := (takeRole p s).1.eng.configGen } } := by
  by_cases h : s.pkg.masterPort = p ∧ s.pkg.vacant = false
  · rw [takeRole_held h]; exact ⟨h.1, h.2, rfl⟩
  · rw [takeRole_taken h]; exact ⟨rfl, rfl, rfl⟩

theorem le_takeRole_result (p : Nat) (s : State) : le (takeRole p s).2.result 0 1 = s.pkg.masterPort % 256 := by
  simp [takeRole, List.append_assoc, le_leBytes_append]

/-! ### PKG_INFO and MODE_QUERY -/

/-- The queries of the package complete with what their result's fields show. -/
theorem pkgInfo_answers {c : Cmd} {s : State} (h : Accepted opPkgInfo c s) : Answers (.pkgInfo c) 0x0101 c s fun a t =>
    t = s ∧ a.result.length = 24 ∧ le a.result 0 2 = partDevice s.part ∧ le a.result 2 1 = 0x10 ∧ le a.result 3 1 = tiles s
      ∧ le a.result 20 4 = s.eng.configGen.toNat := by
  have hdevice : partDevice s.part % 65536 = partDevice s.part := Nat.mod_eq_of_lt (partDevice_lt _)
  have htiles : tiles s % 256 = tiles s := Nat.mod_eq_of_lt (by have := tiles_le s; omega)
  have hgen : s.eng.configGen.toNat % 4294967296 = s.eng.configGen.toNat := Nat.mod_eq_of_lt s.eng.configGen.isLt
  refine answers_of_act (o := opPkgInfo) rfl h ⟨rfl, rfl, ?_⟩
  simp [List.append_assoc, le_leBytes_append, le_skip, le_skip_zeros, le_leBytes, hdevice, htiles, hgen, revision]

theorem modeQuery_answers {c : Cmd} {s : State} (h : Accepted opModeQuery c s) : Answers (.modeQuery c) 0x0111 c s fun a t =>
    t = s ∧ a.result.length = 16 ∧ le a.result 0 4 = pkgMode s % 2 ^ 32 := by
  refine answers_of_act (o := opModeQuery) rfl h ⟨rfl, rfl, ?_⟩
  simp [List.append_assoc, le_leBytes_append]

/-- Settles O3: each command's action, read off; the role by `takeRole_held` and `takeRole_taken`. -/
theorem packageCommandsComplete : Obligations.PackageCommandsComplete := by
  refine ⟨fun c s h => ?_, fun c s h => pkgInfo_answers h, fun c s h => modeQuery_answers h, fun c s h => ?_, fun c s h => ?_,
    fun c s h => ?_⟩
  · exact answers_of_act (o := opNop) rfl h ⟨rfl, rfl, rfl⟩
  · obtain ⟨hport, hvacant, -⟩ := takeRole_spec (par c 0 1) s
    exact answers_of_act (o := opMasterSet) rfl h
      ⟨rfl, hport, hvacant, le_takeRole_result _ s, fun hh => takeRole_held hh, fun hh => takeRole_taken hh⟩
  · obtain ⟨hport, hvacant, heq⟩ := takeRole_spec c.port s
    exact answers_of_act (o := opMasterClaim) rfl h
      ⟨rfl, hport, hvacant, heq.trans (by rw [heq]), by rw [heq]⟩
  · exact runs_of_act (o := opPkgReset) rfl h ⟨rfl, rfl, rfl, rfl, rfl, rfl, rfl, rfl⟩

/-! ### Bootstrap pairs -/

@[simp] theorem blockOfPort_modBlockOf (p : Nat) (f : BootBlock → BootBlock) (s : State) :
    blockOfPort (modBlockOf p f s) p = f (blockOfPort s p) := tget_tmod_same _ _ _ _

@[simp] theorem queue?_createObj (q k owner : Nat) (s : State) : queue? (createObj k owner s) q = queue? s q := rfl
@[simp] theorem queue?_modBlockOf (q p : Nat) (f : BootBlock → BootBlock) (s : State) : queue? (modBlockOf p f s) q = queue? s q := rfl
@[simp] theorem queue?_modPkg (q : Nat) (f : PkgState → PkgState) (s : State) : queue? (modPkg s f) q = queue? s q := rfl
@[simp] theorem blockOfPort_createObj (p k owner : Nat) (s : State) : blockOfPort (createObj k owner s) p = blockOfPort s p := rfl
@[simp] theorem blockOfPort_putQueue (p q : Nat) (v : Queue) (s : State) : blockOfPort (putQueue q v s) p = blockOfPort s p := rfl
@[simp] theorem blockOfPort_modPkg (p : Nat) (f : PkgState → PkgState) (s : State) : blockOfPort (modPkg s f) p = blockOfPort s p := rfl

theorem queue?_putQueue_other {q k : Nat} (v : Queue) (s : State) (h : k ≠ q) : queue? (putQueue q v s) k = queue? s k :=
  tget?_tput_other _ _ h

theorem queue?_ite_modPkg (q : Nat) (P : Prop) [Decidable P] (f : PkgState → PkgState) (s : State) :
    queue? (if P then modPkg s f else s) q = queue? s q := by split <;> rfl

theorem blockOfPort_ite_modPkg (p : Nat) (P : Prop) [Decidable P] (f : PkgState → PkgState) (s : State) :
    blockOfPort (if P then modPkg s f else s) p = blockOfPort s p := by split <;> rfl

theorem openPair_cmdQueue (p : Nat) (s : State) :
    queue? (openPair p s) (cmdQueue p 0) = some (bootQueue .command (blockOfPort s p).cqBase (blockOfPort s p).cqLog2 0) := by
  have hne : cmdQueue p 0 ≠ replyQueue p 0 := by simp only [cmdQueue, replyQueue]; omega
  rw [openPair, queue?_ite_modPkg, queue?_modBlockOf, queue?_createObj, queue?_putQueue_other _ _ hne, queue?_createObj,
    queue?_putQueue_same]

theorem openPair_replyQueue (p : Nat) (s : State) :
    queue? (openPair p s) (replyQueue p 0)
      = some (bootQueue .reply (blockOfPort s p).rqBase (blockOfPort s p).rqLog2 (blockOfPort s p).vector) := by
  rw [openPair, queue?_ite_modPkg, queue?_modBlockOf, queue?_createObj, queue?_putQueue_same]

theorem openPair_block (p : Nat) (s : State) : blockOfPort (openPair p s) p = { blockOfPort s p with state := 1, code := .ok } := by
  rw [openPair, blockOfPort_ite_modPkg, blockOfPort_modBlockOf]; rfl

/-- Opening a pair writes its queues, their objects, its block and the wait of R52. -/
theorem openPair_eq (p : Nat) (s : State) :
    openPair p s = { s with eng := (openPair p s).eng, mv := (openPair p s).mv, pkg := (openPair p s).pkg } := by
  exact (openPair_within p (.refl [.pkg, .eng, .mv] s) rfl).eq_overlay

/-- OPEN as it takes effect, once the block has taken note of it (R58, log entry 77). -/
theorem execBootstrapOpened_opening {p : Nat} {s : State} (h : (blockOfPort s p).opening = true) :
    execBootstrapOpened p s = .next (
      let u := modBlockOf p (fun b => { b with opening := false }) s
      if modeCode s.pkg.mode < 4 then modBlockOf p (fun b => { b with state := 2, code := .eState }) u
      else if (blockOfPort s p).state = 1 then modBlockOf p (fun b => { b with code := .eBusy }) u
      else if badLog2 (blockOfPort s p).cqLog2 || badLog2 (blockOfPort s p).rqLog2 then
        modBlockOf p (fun b => { b with state := 2, code := .eParam }) u
      else openPair p u) := by
  simp only [execBootstrapOpened, h]; rfl

/-- Settles O4: OPEN by its writing port, and the four outcomes of `execBootstrapOpened_opening`. -/
theorem bootstrapPairsOpen : Obligations.BootstrapPairsOpen := by
  refine ⟨fun p s hp => ?_, fun p b s hp hb => ?_, fun p s ho hm hs hc hr => ?_, fun p s ho hm => ?_, fun p s ho hm hs => ?_,
    fun p s ho hm hs hbad => ?_, fun s n hv hn => ?_⟩
  · refine runs_next (t := writeOpen p p s) (by simp [exec, execBootstrapOpen, hp]) ?_
    rw [writeOpen, if_pos rfl, blockOfPort_modBlockOf]
    exact ⟨rfl, rfl⟩
  · exact runs_next (by simp [exec, execBootstrapOpen, hp, writeOpen, hb]) rfl
  · refine runs_next (execBootstrapOpened_opening ho) ?_
    simp only [if_neg (Nat.not_lt.mpr hm), if_neg hs, hc, hr, Bool.or_self, if_neg Bool.false_ne_true]
    refine ⟨⟨_, openPair_cmdQueue _ _, rfl, ?_, ?_⟩, ⟨_, openPair_replyQueue _ _, rfl, ?_, ?_, ?_⟩, ?_, ?_, openPair_eq _ _⟩
    all_goals simp [bootQueue, openPair_block]
  · exact runs_next (execBootstrapOpened_opening ho) ⟨by simp [hm], by simp [hm], by simp only [if_pos hm]; rfl⟩
  · refine runs_next (execBootstrapOpened_opening ho) ?_
    simp only [if_neg (Nat.not_lt.mpr hm), if_pos hs, blockOfPort_modBlockOf]
    exact ⟨hs, trivial, trivial, rfl⟩
  · refine runs_next (execBootstrapOpened_opening ho) ?_
    simp only [if_neg (Nat.not_lt.mpr hm), if_neg hs, Bool.or_eq_true, if_pos hbad, blockOfPort_modBlockOf]
    exact ⟨trivial, trivial, trivial, rfl⟩
  · exact runs_next (by simp only [exec, execMasterRoleVacant, hv, if_pos hn]; rfl) rfl

end Sys2Proof.Machine
end

section
/-!
PROOF. Package modes (R20 to R23): MODE_SET, the commit at TC, the end of a drain and the drain limit.
-/
namespace Sys2Proof.Machine
open Sys2Proof

/-! ### Parts that an operation leaves -/

/-- Every part of the state but one, for an operation of which only that one part matters. -/
def allBut (c : Comp) : List Comp := (.fuse :: everyPart).filter (· ≠ c)

theorem Within.keeps {c : Comp} {s t : State} (h : Within (allBut c) s t) : sameComp s t c := h.same c (by simp [allBut])

@[simp] theorem finish_pkg (id : Nat) (a : Answer) (s : State) : (finish id a s).pkg = s.pkg :=
  (finish_within id a (.refl (allBut .pkg) s) rfl).keeps

/-! ### MODE_SET -/

theorem modeOfCode_modeCode (m : Mode) : modeOfCode (modeCode m) = some m := by cases m <;> rfl

theorem modeCode_lt (m : Mode) : modeCode m < 256 := by cases m <;> decide

/-- Settles O19: the action of MODE_SET by whether the mode asked for is the present one. -/
theorem modeSetStartsAChange : Obligations.ModeSetStartsAChange := by
  refine ⟨fun c s h hm => ?_, fun c s m h hm hne => ?_⟩
  · have hsame : (modeOfCode (par c 0 1)).getD s.pkg.mode = s.pkg.mode := by rw [hm, modeOfCode_modeCode]; rfl
    have hlt := Nat.mod_eq_of_lt (modeCode_lt s.pkg.mode)
    refine answers_of_act (o := opModeSet) rfl h ?_
    simp only [opModeSet, hsame, if_true]
    refine ⟨rfl, rfl, ?_⟩
    simp [List.append_assoc, le_leBytes_append, le_skip, hlt]
  · have hnew : (modeOfCode (par c 0 1)).getD s.pkg.mode = m := by rw [hm]; rfl
    refine runs_of_act (o := opModeSet) rfl h ?_
    simp only [opModeSet, hnew, if_neg hne]
    exact ⟨rfl, rfl, rfl, rfl, ⟨_, rfl, rfl, rfl, rfl, rfl, rfl⟩, rfl, _, rfl, rfl, rfl, by simp⟩

/-! ### The commit and the end of a change -/

theorem endChange_pkg (m : ModeChange) (s : State) : (endChange m s).pkg =
    { s.pkg with change := none, changing := false, target := s.pkg.mode, modeGen := s.pkg.modeGen + 1, doneNs32 := ns32 s } := by
  rw [endChange, finish_pkg]; rfl

/-- What a commit does after it has set the mode leaves the package's own part alone, so the commit ends in one of two ways from a state
in which the mode is the target and the cause is 0. -/
theorem applyMode_cases (m : ModeChange) (s : State) : ∃ (u : State) (m' : ModeChange), u.pkg.mode = m.target ∧ u.pkg.cause = 0
    ∧ applyMode m s = if m.drainNs.isNone then endChange m' u else modPkg u fun p => { p with change := some m' } := by
  unfold applyMode
  extract_lets old new port s₁ s₂ s₃ s₄ s₅ s₆ s₇ s₈ s₉ s₁₀ m'
  have w₄ : Within (allBut .pkg) s₃ s₄ := moveReadouts_within _ _ (.refl _ _) rfl
  have w₅ : Within (allBut .pkg) s₃ s₅ := by
    unfold s₅; split
    · exact dropCalibration_within w₄ rfl
    · exact w₄
  have w₆ : Within (allBut .pkg) s₃ s₆ := by
    unfold s₆; split
    · exact w₅
    · exact dropCaptures_within _ w₅ rfl
  have w₇ : Within (allBut .pkg) s₃ s₇ := by
    unfold s₇; split
    · exact w₆
    · exact modFs_within _ w₆ rfl
  have w₈ : Within (allBut .pkg) s₃ s₈ := by
    unfold s₈; split
    · exact leaveTest_within w₇ rfl
    · exact w₇
  have w₁₀ : Within (allBut .pkg) s₃ s₁₀ :=
    foldl_within _ _ (settleRings_within _ w₈ rfl) fun t x ht => refreshLanes_within _ ht rfl
  have hpkg : s₁₀.pkg = s₃.pkg := w₁₀.keeps
  exact ⟨s₁₀, m', by rw [hpkg]; rfl, by rw [hpkg]; rfl, rfl⟩

theorem execModeCommit_due {s : State} {m : ModeChange} (hm : s.pkg.change = some m) (hc : m.committed = false) (ht : m.tc ≤ ns s) :
    exec .modeCommit s = .next (applyMode m s) := by
  simp [exec, execModeCommit, hm, hc, Nat.not_lt.mpr ht]

/-- Settles O20: at TC by `applyMode_cases`, afterwards by `endChange_pkg` and the cut that leaves the package's part. -/
theorem modeChangesCommitAndEnd : Obligations.ModeChangesCommitAndEnd := by
  refine ⟨fun s m hm hc ht => ?_, fun s m hm hc ht hd => ?_, fun s m hm ht => ?_, fun s m hm hc hd => ?_, fun s m n hm hc hn hl => ?_⟩
  · refine runs_next (execModeCommit_due hm hc ht) ?_
    obtain ⟨u, m', hmode, -, heq⟩ := applyMode_cases m s
    rw [heq]
    split
    · rw [endChange_pkg]; exact hmode
    · exact hmode
  · refine runs_next (execModeCommit_due hm hc ht) ?_
    obtain ⟨u, m', hmode, hcause, heq⟩ := applyMode_cases m s
    rw [heq, hd, Option.isNone_none, if_pos rfl, endChange_pkg]
    exact ⟨hmode, hmode, rfl, rfl, hcause⟩
  · exact runs_next (by simp [exec, execModeCommit, hm, ht]) rfl
  · exact runs_next (by simp [exec, execModeDrainComplete, hm, hc, hd]) (endChange_pkg m s)
  · have hpkg : (cutFrames m.tiles.contains s).2.pkg = s.pkg := (cutFrames_within _ (.refl (allBut .pkg) s) rfl).keeps
    refine runs_next (t := modPkg (cutFrames m.tiles.contains s).2 fun p =>
      { p with change := some { m with cut := m.cut + (cutFrames m.tiles.contains s).1, drainNs := none } }) ?_ ?_
    · simp [exec, execModeDrainLimit, hm, hc, hn, hl]
    · rw [modPkg_pkg, hpkg]

end Sys2Proof.Machine
end

section
/-!
PROOF. Tile service (R26, R27, R30, R320 to R322) and the Praline fabric (R15): what orders, a tile that goes out and one that returns do to
the package's own part.
-/
namespace Sys2Proof.Machine
open Sys2Proof

/-- What every step of a fold leaves, the fold leaves. -/
theorem foldl_keeps {α β : Type} (g : State → β) (f : State → α → State) (l : List α) (s : State) (hf : ∀ t x, g (f t x) = g t) :
    g (l.foldl f s) = g s := by
  induction l generalizing s with
  | nil => rfl
  | cons x l ih => rw [List.foldl_cons, ih, hf]

/-! ### The package's part through host, queue and router operations -/

@[simp] theorem raise_pkg (t l n : Nat) (s : State) : (raise t l n s).pkg = s.pkg := (raise_within t l n (.refl (allBut .pkg) s) rfl).keeps
@[simp] theorem reroute_pkg (s : State) : (reroute s).pkg = s.pkg := (reroute_within (.refl (allBut .pkg) s) rfl).keeps
@[simp] theorem settleRings_pkg (which : Nat → Bool) (s : State) : (settleRings which s).pkg = s.pkg :=
  (settleRings_within which (.refl (allBut .pkg) s) rfl).keeps
@[simp] theorem refreshLanes_pkg (t : Nat) (s : State) : (refreshLanes t s).pkg = s.pkg :=
  (refreshLanes_within t (.refl (allBut .pkg) s) rfl).keeps
@[simp] theorem dropCaptures_pkg (which : Nat → Bool) (s : State) : (dropCaptures which s).pkg = s.pkg :=
  (dropCaptures_within which (.refl (allBut .pkg) s) rfl).keeps
@[simp] theorem discardInjections_pkg (which : Nat → Bool) (s : State) : (discardInjections which s).pkg = s.pkg :=
  (discardInjections_within which (.refl (allBut .pkg) s) rfl).keeps
@[simp] theorem replyOrder_pkg (o : TileOp) (r : List Byte) (s : State) : (replyOrder o r s).pkg = s.pkg :=
  (replyOrder_within o r (.refl (allBut .pkg) s) rfl).keeps
@[simp] theorem cutFrames_pkg (which : Nat → Bool) (s : State) : (cutFrames which s).2.pkg = s.pkg :=
  (cutFrames_within which (.refl (allBut .pkg) s) rfl).keeps
@[simp] theorem detectorFires_pkg (t k : Nat) (b : Bool) (s : State) : (detectorFires t k b s).pkg = s.pkg :=
  (detectorFires_within t k b (.refl (allBut .pkg) s) rfl).keeps

/-- The package's part apart from the wait of R52. -/
def withoutVacancyWait (k : PkgState) : PkgState := { k with vacancyAt := none }

/-- A port that is connected again ends at most the wait of R52. -/
theorem resumePort_pkg (p : Nat) (s : State) : withoutVacancyWait (resumePort p s).pkg = withoutVacancyWait s.pkg := by
  unfold resumePort
  extract_lets s₁ k s₂ s₃
  have hlater : ((portQueues s₃ p).foldl (resumeQueue p) s₃).pkg = s₂.pkg :=
    (foldl_within _ _ (reissueSaved_within _ _ _ (replaySaved_within _ _ _ (.refl (allBut .pkg) s₂) rfl) rfl)
      fun _ _ h => resumeQueue_within _ _ h rfl).keeps
  rw [hlater]
  unfold s₂; split <;> rfl

theorem portChange_pkg (p : Nat) (s : State) : withoutVacancyWait (portChange p s).pkg = withoutVacancyWait s.pkg := by
  unfold portChange
  extract_lets s₁
  have h₁ : s₁.pkg = s.pkg := by
    show (reroute _).pkg = s.pkg
    rw [reroute_pkg]; split <;> rfl
  have hlater (l : List Nat) (u : State) : (l.foldl (fun s o => sendAllPending o s) u).pkg = u.pkg :=
    foldl_keeps (·.pkg) _ _ u fun t o => (sendAllPending_within o (.refl (allBut .pkg) t) rfl).keeps
  split
  · rw [hlater, resumePort_pkg, h₁]
  · rw [hlater, h₁]

theorem startVacancy_pkg (p : Nat) (s : State) : withoutVacancyWait (startVacancy p s).pkg = withoutVacancyWait s.pkg := by
  unfold startVacancy; split <;> rfl

theorem linkLoss_pkg (p : Nat) (l : List SavedWrite) (s : State) : withoutVacancyWait (linkLoss p l s).pkg = withoutVacancyWait s.pkg := by
  unfold linkLoss
  split
  · rfl
  · extract_lets reads at_ s₁ s₂ s₃ s₄
    have h₄ : s₄.pkg = s.pkg := (resetConfig_within p false (.refl (allBut .pkg) s₃) rfl).keeps
    rw [portChange_pkg, startVacancy_pkg, raise_pkg, h₄]

/-! ### A tile enters a service state -/

theorem enterService_pkg (t : Nat) (st : Service) (s : State) : (enterService t st s).pkg =
    { s.pkg with service := tput s.pkg.service t st, tc := tmod {} s.pkg.tc t fun c => { c with stampNs32 := ns32 s } } := by
  rw [enterService, raise_pkg]; rfl

@[simp] theorem service_enterService (t : Nat) (st : Service) (s : State) : service (enterService t st s) t = st := by
  rw [service, enterService_pkg]; exact tget_tput_same _ _ _ _

theorem service_of_pkg {s t : State} (h : t.pkg = s.pkg) (p : Nat) : service t p = service s p := by rw [service, h]; rfl
theorem tileOp_of_pkg {s t : State} (h : t.pkg = s.pkg) (p : Nat) : tileOp t p = tileOp s p := by rw [tileOp, h]; rfl

@[simp] theorem tileOp_enterService (t p : Nat) (st : Service) (s : State) : tileOp (enterService t st s) p = tileOp s p := by
  rw [tileOp, enterService_pkg]; rfl

@[simp] theorem tileOp_putTileOp (p : Nat) (o : TileOp) (s : State) : tileOp (putTileOp p o s) p = some o := tget?_tput_same _ _ _

/-- An order that is accepted stands at its tile, with the command that waits for it. -/
@[simp] theorem tileOp_order (op room : Nat) (c : Cmd) (o : TileOp) (s : State) :
    tileOp (order op room c o s) (par c 0 1) = some { o with wait := some s.eng.nextWait, startedAt := s.clock } := tileOp_putTileOp _ _ _

/-- A tile that is drained is QUIESCED, and its order is gone. -/
theorem quiesced_spec {p : Nat} {o : TileOp} {s : State} (hs : tsorted 0 s.pkg.tileOps = true) :
    service (quiesced p o s) p = .quiesced ∧ tileOp (quiesced p o s) p = none := by
  have hpkg : (quiesced p o s).pkg = (endOrder p (enterService p .quiesced s)).pkg := replyOrder_pkg _ _ _
  refine ⟨(service_of_pkg hpkg p).trans (service_enterService p .quiesced s), (tileOp_of_pkg hpkg p).trans ?_⟩
  show tget? (tdel (enterService p .quiesced s).pkg.tileOps p) p = none
  rw [enterService_pkg]
  exact tget?_tdel_same _ _ hs

/-- A tile that returns takes its service state, drops its kept mode, and of the package's part nothing else moves. -/
theorem backInService_pkg (t : Nat) (s : State) :
    (backInService t s).pkg =
      (enterService t .inService (newEpoch t (modPkg s fun p => { p with tileMode := tdel p.tileMode t }))).pkg := by
  unfold backInService
  extract_lets s₁ out s₂
  have hs₂ : s₂.pkg = (enterService t .inService (newEpoch t s₁)).pkg := by
    show (reroute _).pkg = _
    rw [reroute_pkg, refreshLanes_pkg, settleRings_pkg]
  split
  · refine Eq.trans ?_ hs₂
    exact (passThrough_within _ (passThrough_within _
      (foldl_within _ _ (.refl (allBut .pkg) s₂) fun _ _ h => beginDriving_within _ h rfl) rfl) rfl).keeps
  · exact hs₂

/-- Settles O21: the orders as `order` puts them, their ends by `quiesced_spec` and `backInService_pkg`. -/
theorem tilesQuiesceAndResume : Obligations.TilesQuiesceAndResume := by
  refine ⟨fun c s h hq => ?_, fun c s h hq => ?_, fun p s o ho hk hc ht => ?_, fun p s o hs ho hk hc hd => ?_,
    fun p s o hs ho hk hc hl => ?_, fun c s h hi => ?_, fun c s h hi => ?_, fun p s o ho hk ht => ?_⟩
  · refine answers_of_act (o := opTileQuiesce) rfl h ?_
    simp only [opTileQuiesce, hq, if_true]
    exact ⟨rfl, rfl⟩
  · refine runs_of_act (o := opTileQuiesce) rfl h ?_
    simp only [opTileQuiesce, if_neg hq, WaitsIn]
    have hpkg (u : State) : (reroute (dropCaptures (· == par c 0 1) (discardInjections (· == par c 0 1) u))).pkg = u.pkg := by
      rw [reroute_pkg, dropCaptures_pkg, discardInjections_pkg]
    refine ⟨?_, _, (tileOp_of_pkg (hpkg _) _).trans ((tileOp_enterService _ _ _ _).trans (tileOp_order _ _ _ _ _)), rfl, rfl, rfl, rfl⟩
    rw [service_of_pkg (hpkg _), service_enterService]
  · refine runs_next (by simp [exec, execTileQuiesceCommit, ho, hk, hc, ht]; rfl) ⟨?_, ?_⟩
    · rw [tileOp_of_pkg (settleRings_pkg _ _), tileOp_putTileOp, hk]
    · exact service_of_pkg (settleRings_pkg _ _) p
  · exact runs_next (by simp [exec, execTileDrainComplete, ho, hk, hc, hd]; rfl) (quiesced_spec hs)
  · refine runs_next (by simp [exec, execTileDrainLimit, ho, hk, hc, hl]; rfl) (quiesced_spec ?_)
    rw [cutFrames_pkg]; exact hs
  · refine answers_of_act (o := opTileResume) rfl h ?_
    simp only [opTileResume, namedService, hi, if_true]
    exact ⟨rfl, rfl, rfl⟩
  · refine runs_of_act (o := opTileResume) rfl h ?_
    simp only [opTileResume, namedService, hi, if_false]
    exact ⟨_, tileOp_order _ _ _ _ _, rfl, rfl, rfl⟩
  · refine runs_next (by simp [exec, execTileResumeCommit, ho, hk, ht]; rfl) ?_
    rw [service_of_pkg ((replyOrder_pkg _ _ _).trans (backInService_pkg p _)), service_enterService]

end Sys2Proof.Machine
end

section
/-!
PROOF. What it says of a command that it passes the checks of Table 3-7 (R42), and a command that only its state test refuses.
-/
namespace Sys2Proof.Machine
open Sys2Proof

/-- The checks of Table 3-7 in their order, each passed. -/
structure ChecksPass (o : OpDef) (c : Cmd) (s : State) : Prop where
  header : headerBad c = none
  present : o.present s = true
  mode : bit o.modes (modeCode s.pkg.mode) = true
  cond : (isCond c && (!o.cond || (o.orZero && decide (tgt c = 0)))) = false
  target : targetOk o c s = true
  live : (tgt c ≠ 0 && !handleLive s (tgt c)) = false
  owner : ownerFail o c s = none
  unlocked : o.locked c s = false
  gen : (isCond c && decide (c.expectGen ≠ condGen c s)) = false
  len : (o.len.any (· ≠ c.params.length) || o.lenBad c) = false
  params : ((paramFail o c s).or (refFail o c s)).or (o.more c s) = none
  state : ((targetFaulted c s && !o.query && !o.faultOk) || o.wrong c s) = false
  free : (!o.query && ((tgt c ≠ 0 && heldKey s (tslot c)) || (o.keys c s).any (heldKey s) || o.busy c s)) = false
  room : o.short c s = false

theorem check_eq_none {o : OpDef} {c : Cmd} {s : State} (h : check o c s = none) : ChecksPass o c s := by
  unfold check at h
  split at h
  · cases h
  next hheader =>
  split at h
  · cases h
  next hpresent =>
  split at h
  · cases h
  next hmode =>
  split at h
  · cases h
  next hcond =>
  split at h
  · cases h
  next htarget =>
  split at h
  · cases h
  next hlive =>
  split at h
  · cases h
  next howner =>
  split at h
  · cases h
  next hlocked =>
  split at h
  · cases h
  next hgen =>
  split at h
  · cases h
  next hlen =>
  split at h
  · cases h
  next hparams =>
  split at h
  · cases h
  next hstate =>
  split at h
  · cases h
  next hfree =>
  split at h
  · cases h
  next hroom =>
  exact ⟨hheader, by simpa using hpresent, by simpa using hmode, eq_false_of_ne_true hcond, by simpa using htarget,
    eq_false_of_ne_true hlive, howner, eq_false_of_ne_true hlocked, eq_false_of_ne_true hgen, eq_false_of_ne_true hlen, hparams,
    eq_false_of_ne_true hstate, eq_false_of_ne_true hfree, eq_false_of_ne_true hroom⟩

theorem Accepted.checks {o : OpDef} {c : Cmd} {s : State} (h : Accepted o c s) : ChecksPass o c s := check_eq_none h.2.2.2.1

/-- A command that only its own state test refuses fails with E_STATE (check step 12). -/
theorem check_of_wrong {o : OpDef} {c : Cmd} {s : State} (h : ChecksPass { o with wrong := fun _ _ => false } c s)
    (hw : o.wrong c s = true) : check o c s = some (eState s (namedTile o c s)) := by
  have howner : ownerFail o c s = none := h.owner
  have htarget : targetOk o c s = true := h.target
  have hparams : ((paramFail o c s).or (refFail o c s)).or (o.more c s) = none := h.params
  have hpresent : o.present s = true := h.present
  have hmode : bit o.modes (modeCode s.pkg.mode) = true := h.mode
  have hcond : (isCond c && (!o.cond || (o.orZero && decide (tgt c = 0)))) = false := h.cond
  have hlen : (o.len.any (· ≠ c.params.length) || o.lenBad c) = false := h.len
  have hlocked : o.locked c s = false := h.unlocked
  unfold check
  rw [h.header, hpresent, hmode, hcond, htarget, h.live, howner, hlocked, h.gen, hlen, hparams, hw, Bool.or_true]
  rfl

end Sys2Proof.Machine
end

section
/-!
PROOF. Tiles that power down, go out and rejoin (R27, R30, R321, R322), and the links of the fabric (R15).
-/
namespace Sys2Proof.Machine
open Sys2Proof

/-! ### The end of BOOT, as a tile that goes out can bring it -/

/-- BOOT ends in READY, or in SAFE with the golden image; of the package's part only the mode, its cause and the master role move. -/
theorem endBoot_pkg (s : State) : withoutVacancyWait (endBoot s).pkg = withoutVacancyWait
    { s.pkg with
      mode := if s.boot.image = 2 then .safe else .ready, target := if s.boot.image = 2 then .safe else .ready
      fallback := decide (s.boot.image = 2), cause := if s.boot.image = 2 then 2 else 1, causePort := 0
      masterPort := s.boot.conf.masterPort, vacant := false } := by
  have hports (l : List Nat) (u : State) :
      withoutVacancyWait (l.foldl (fun s p => portChange p s) u).pkg = withoutVacancyWait u.pkg :=
    foldl_keeps (fun s => withoutVacancyWait s.pkg) _ _ u fun t p => portChange_pkg p t
  have hscrub (l : List Nat) (u : State) : (l.foldl (fun s t => startScrub t s) u).pkg = u.pkg :=
    foldl_keeps (·.pkg) _ _ u fun t p => (startScrub_within p (.refl (allBut .pkg) t) rfl).keeps
  have hlanes (l : List Nat) (u : State) : (l.foldl (fun s t => refreshLanes t s) u).pkg = u.pkg :=
    foldl_keeps (·.pkg) _ _ u fun t p => refreshLanes_pkg p t
  have hengines (u : State) : (startEngines (applyConf u)).pkg = u.pkg :=
    (startEngines_within (applyConf_within (.refl (allBut .pkg) u) rfl) rfl).keeps
  simp only [endBoot, hports, hscrub, hlanes, hengines, modBoot_pkg, modPkg_pkg, decide_eq_true_eq]
  rfl

/-- Where BOOT may end, service states and fault flags stand. -/
theorem maybeEndBoot_tiles (s : State) :
    (maybeEndBoot s).pkg.service = s.pkg.service ∧ (maybeEndBoot s).pkg.fault = s.pkg.fault := by
  unfold maybeEndBoot
  split
  · have h := endBoot_pkg s
    have hservice := congrArg PkgState.service h
    have hfault := congrArg PkgState.fault h
    exact ⟨by simpa only [withoutVacancyWait] using hservice, by simpa only [withoutVacancyWait] using hfault⟩
  · exact ⟨rfl, rfl⟩

/-! ### A tile goes out -/

@[simp] theorem endTileOp_fault (t : Nat) (s : State) : (endTileOp t s).pkg.fault = s.pkg.fault := by
  unfold endTileOp
  split
  · rfl
  · dsimp only; split
    · rw [finish_pkg]; rfl
    · rfl

@[simp] theorem endTileOp_service (t : Nat) (s : State) : (endTileOp t s).pkg.service = s.pkg.service :=
  (endTileOp_within t (.refl (allBut .service) s) rfl).keeps

theorem portOut_pkg (t : Nat) (s : State) : withoutVacancyWait (portOut t s).pkg = withoutVacancyWait s.pkg := by
  unfold portOut
  dsimp only
  split
  · rw [linkLoss_pkg]; rfl
  · rw [reroute_pkg, startVacancy_pkg]; rfl

/-- A tile that goes out is OUT_OF_SERVICE with the fault flag given; the other tiles keep theirs. -/
theorem tileOut_tiles (t : Nat) (fault : Bool) (s : State) :
    (tileOut t fault s).pkg.service = tput s.pkg.service t .outOfService ∧ (tileOut t fault s).pkg.fault = tput s.pkg.fault t fault := by
  unfold tileOut
  extract_lets s₁ s₂ s₃ s₄ s₅ s₆
  have w₄ : Within (allBut .pkg) s₂ s₄ := modFs_within _ (destroyAll_within _ (.refl _ _) rfl) rfl
  have h₄ : s₄.pkg = s₂.pkg := w₄.keeps
  have w (u : State) : Within (allBut .pkg) u (refreshLanes t (clearTileIslands t (clearTileEvents t u))) :=
    refreshLanes_within _ (clearTileIslands_within _ (clearTileEvents_within _ (.refl _ u) rfl) rfl) rfl
  have h₅ : s₅.pkg = (modCtl t (fun c => { c with microcode := 0 }) s₂).pkg := by
    show (modPkg _ _).pkg = (modPkg _ _).pkg
    rw [modPkg_pkg, modPkg_pkg, (w s₄).keeps (c := .pkg), h₄]
  have h₆ : s₆.pkg = s₅.pkg :=
    (getD_map_within _ _ (.refl (allBut .pkg) s₅) fun e => engineTileOut_within e (.refl _ s₅) rfl).keeps
  have h₂ : s₂.pkg.service = tput s.pkg.service t .outOfService ∧ s₂.pkg.fault = tput s.pkg.fault t fault := by
    have hr : (releaseOutputs t s).pkg = s.pkg := (releaseOutputs_within t (.refl (allBut .pkg) s) rfl).keeps
    show (enterService _ _ _).pkg.service = _ ∧ (enterService _ _ _).pkg.fault = _
    rw [enterService_pkg]
    simp only [s₁, modPkg_pkg, hr, and_self]
  have hend : (if fault then endTileOp t s₆ else s₆).pkg.service = s₂.pkg.service
      ∧ (if fault then endTileOp t s₆ else s₆).pkg.fault = s₂.pkg.fault := by
    have h₂₆ : s₆.pkg.service = s₂.pkg.service ∧ s₆.pkg.fault = s₂.pkg.fault := by rw [h₆, h₅]; exact ⟨rfl, rfl⟩
    split
    · rw [endTileOp_service, endTileOp_fault]; exact h₂₆
    · exact h₂₆
  have hport := portOut_pkg t (if fault then endTileOp t s₆ else s₆)
  exact ⟨(congrArg PkgState.service hport).trans (hend.1.trans h₂.1), (congrArg PkgState.fault hport).trans (hend.2.trans h₂.2)⟩

theorem service_of_serving {s : State} {t : Nat} (h : serving s t = true) : service s t ≠ .outOfService := by
  intro hs
  simp [serving, hs] at h

/-- A tile that is out stays so, with its fault flag, while others go out. -/
theorem isolate_tiles (n : Nat) {s : State} {p : Nat} (hp : service s p = .outOfService) :
    service (isolate n s) p = .outOfService ∧ tileFault (isolate n s) p = tileFault s p := by
  induction n generalizing s with
  | zero => exact ⟨hp, rfl⟩
  | succ n ih =>
    unfold isolate
    split
    · next t ht =>
      have hne : p ≠ t := by
        rintro rfl
        have hserving := List.find?_some ht
        simp only [Bool.and_eq_true] at hserving
        exact service_of_serving hserving.1.2 hp
      obtain ⟨hservice, hfault⟩ := tileOut_tiles t true s
      have hp' : service (tileOut t true s) p = .outOfService := by
        rw [service, hservice, tget_tput_other _ _ _ hne]; exact hp
      obtain ⟨h1, h2⟩ := ih hp'
      refine ⟨h1, h2.trans ?_⟩
      rw [tileFault, hfault, tget_tput_other _ _ _ hne]; rfl
    · exact ⟨hp, rfl⟩

theorem tileGone_tiles {t : Nat} (h0 : t ≠ 0) (fault : Bool) (s : State) :
    service (tileGone t fault s) t = .outOfService ∧ tileFault (tileGone t fault s) t = fault := by
  obtain ⟨hservice, hfault⟩ := tileOut_tiles t fault s
  have hout : service (tileOut t fault s) t = .outOfService := by rw [service, hservice, tget_tput_same]
  obtain ⟨h1, h2⟩ := isolate_tiles 8 hout
  obtain ⟨h3, h4⟩ := maybeEndBoot_tiles (isolate 8 (tileOut t fault s))
  rw [tileGone, if_neg h0, dropIsolated]
  refine ⟨?_, ?_⟩
  · rw [service, h3]; exact h1
  · rw [tileFault, h4]
    refine h2.trans ?_
    rw [tileFault, hfault, tget_tput_same]

end Sys2Proof.Machine
end

section
/-!
PROOF. The orders of tile service that power down and rejoin a tile (R27, R30, R322), and the links of the fabric (R15).
-/
namespace Sys2Proof.Machine
open Sys2Proof

@[simp] theorem ctlOf_modCtl (t : Nat) (f : TileCtl → TileCtl) (s : State) : ctlOf (modCtl t f s) t = f (ctlOf s t) :=
  tget_tmod_same _ _ _ _

theorem ctlOf_of_pkg {s t : State} (h : t.pkg = s.pkg) (p : Nat) : ctlOf t p = ctlOf s p := by rw [ctlOf, h]; rfl
theorem tileFault_of_pkg {s t : State} (h : t.pkg = s.pkg) (p : Nat) : tileFault t p = tileFault s p := by rw [tileFault, h]; rfl

theorem tileFault_enterService (t p : Nat) (st : Service) (s : State) : tileFault (enterService t st s) p = tileFault s p := by
  rw [tileFault, enterService_pkg]; rfl

/-- A step of a rejoin that fails leaves the tile out, with FAULT. -/
theorem rejoinFails_tile (t step : Nat) (s : State) :
    service (rejoinFails t step s) t = .outOfService ∧ tileFault (rejoinFails t step s) t = true := by
  unfold rejoinFails
  dsimp only
  refine ⟨?_, ?_⟩
  · rw [service, endTileOp_service]; exact service_enterService _ _ _
  · rw [tileFault, endTileOp_fault]
    exact (tileFault_enterService _ _ _ _).trans (tget_tput_same _ _ _ _)

/-- Of a rejoin whose preparation has ended: the tile that has a step failed is out, the one that passes is REJOINING. -/
theorem preparedRejoin_passes {p : Nat} {img : Image} {s : State} {o : TileOp} (ho : tileOp s p = some o) (hk : o.kind = .rejoin)
    (hs : service s p = .outOfService) (hf : flashResult s (if s.boot.conf.microcode1 then 3 else 2) 0 img = 1) :
    Runs (.tileRejoinPrepared p img true true) s fun t => service t p = .rejoining ∧ tileFault t p = false := by
  refine runs_next (by simp only [exec, execTileRejoinPrepared, ho, hk, hs, and_self, if_true, hf]; rfl) ⟨service_enterService _ _ _, ?_⟩
  exact (tileFault_enterService _ _ _ _).trans (tget_tput_same _ _ _ _)

theorem tget_foldl_tput (d : Bool) (l : List Nat) (v : Bool) (x : Tab Bool) {k : Nat} (hk : k ∈ l ∨ tget d x k = v) :
    tget d (l.foldl (fun d l => tput d l v) x) k = v := by
  induction l generalizing x with
  | nil => exact hk.resolve_left (by simp)
  | cons j l ih =>
    refine ih _ ?_
    by_cases hj : k = j
    · exact .inr (by rw [hj, tget_tput_same])
    · refine hk.imp (fun h => (List.mem_cons.mp h).resolve_left hj) fun h => ?_
      rw [tget_tput_other _ _ _ hj, h]

/-- A rejoining tile whose links are trained and whose time is locked, before it serves (R322, steps 4 and 5). -/
def linkedTile (p : Nat) (s : State) : State :=
  modCtl p (fun c => { c with step := 0 })
    (zeroMotion p
      (modTime
        (modPkg (endOrder p s) fun k => { k with
          linkDown := (tileLinks (endOrder p s) p).foldl (fun d l => tput d l false) k.linkDown
          linkRetries := k.linkRetries.filter fun (k, _) => decide (k / 2 ≠ p) })
        fun v => { v with locked := tput v.locked p true }))

/-- The tile back in service, with its scrubber and, where it carries one, its engine. -/
def rejoinedTile (p : Nat) (s : State) : State :=
  ((engineOnTile (startScrub p (backInService p (linkedTile p s))) p).map
    fun e => engineTileBack e (startScrub p (backInService p (linkedTile p s)))).getD (startScrub p (backInService p (linkedTile p s)))

theorem linkedTile_linkDown (p : Nat) (s : State) :
    (linkedTile p s).pkg.linkDown = (tileLinks s p).foldl (fun d l => tput d l false) s.pkg.linkDown := by
  have h (u : State) : (zeroMotion p u).pkg = u.pkg := (zeroMotion_within p (.refl (allBut .pkg) u) rfl).keeps
  show (zeroMotion p _).pkg.linkDown = _
  rw [h]; rfl

theorem linkedTile_locked (p : Nat) (s : State) : tget false (linkedTile p s).time.locked p = true := by
  have h (u : State) : (modCtl p (fun c => { c with step := 0 }) (zeroMotion p u)).time = u.time :=
    (modCtl_within p _ (zeroMotion_within p (.refl (allBut .time) u) rfl) rfl).keeps
  rw [linkedTile, h]
  exact tget_tput_same _ _ _ _

theorem rejoinedTile_pkg (p : Nat) (s : State) : (rejoinedTile p s).pkg = (backInService p (linkedTile p s)).pkg :=
  have h := startScrub_within p (.refl (allBut .pkg) (backInService p (linkedTile p s))) rfl
  (getD_map_within _ _ h fun _ => engineTileBack_within _ h rfl).keeps

theorem rejoinedTile_time (p : Nat) (s : State) : (rejoinedTile p s).time = (linkedTile p s).time :=
  have h := startScrub_within p (backInService_within p (.refl (allBut .time) (linkedTile p s)) rfl) rfl
  (getD_map_within _ _ h fun _ => engineTileBack_within _ h rfl).keeps

/-- A tile that is locked is back: in service, locked in time, at no step, its links up. -/
theorem lockedRejoin_passes {p : Nat} {s : State} {o : TileOp} (ho : tileOp s p = some o) (hk : o.kind = .rejoin)
    (hs : service s p = .rejoining) : Runs (.tileRejoinLocked p true true) s fun t =>
      service t p = .inService ∧ tget false t.time.locked p = true ∧ (ctlOf t p).step = 0
        ∧ ∀ l ∈ tileLinks s p, tget false t.pkg.linkDown l = false := by
  have hexec : exec (.tileRejoinLocked p true true) s = .next (replyOrder o
      (leBytes 4 (ns32 (rejoinedTile p s)).toNat ++ leBytes 4 (ctlOf (rejoinedTile p s) p).microcode) (rejoinedTile p s)) := by
    simp only [exec, execTileRejoinLocked, ho, hk, hs, and_self, if_true, Bool.true_eq_false, if_false]
    rfl
  have hpkg := (replyOrder_pkg o (leBytes 4 (ns32 (rejoinedTile p s)).toNat ++ leBytes 4 (ctlOf (rejoinedTile p s) p).microcode)
    (rejoinedTile p s)).trans ((rejoinedTile_pkg p s).trans (backInService_pkg p (linkedTile p s)))
  refine runs_next hexec ⟨?_, ?_, ?_, fun l hl => ?_⟩
  · rw [service_of_pkg hpkg, service_enterService]
  · rw [(replyOrder_within _ _ (.refl (allBut .time) (rejoinedTile p s)) rfl).keeps (c := .time), rejoinedTile_time]
    exact linkedTile_locked p s
  · rw [ctlOf_of_pkg hpkg, ctlOf, enterService_pkg, tget_tmod_same]
    exact congrArg TileCtl.step (ctlOf_modCtl p (fun c => { c with step := 0 }) _)
  · rw [hpkg, enterService_pkg]
    show tget false (linkedTile p s).pkg.linkDown l = false
    rw [linkedTile_linkDown]
    exact tget_foldl_tput _ _ _ _ (.inl hl)

/-- Settles O22: each order as its command puts it; a tile that goes out by `tileGone_tiles`, one that fails to return by
`rejoinFails_tile`, one that returns by `preparedRejoin_passes` and `lockedRejoin_passes`. -/
theorem tilesPowerDownAndRejoin : Obligations.TilesPowerDownAndRejoin := by
  refine ⟨fun c s h hs => ?_, fun c s h hs => ?_, fun p s o h0 ho hk => ?_, fun c s h hs hno => ?_, fun c s h hs => ?_,
    fun c s h hs => ?_, fun p img dram s o ho hk hs => ?_, fun p img s o ho hk hs hf => preparedRejoin_passes ho hk hs hf,
    fun p lock s o ho hk hs => ?_, fun p s o ho hk hs => lockedRejoin_passes ho hk hs, fun c s h => ?_⟩
  · refine answers_of_act (o := opTilePowerDown) rfl h ?_
    simp only [opTilePowerDown, namedService, hs, if_true]
    exact ⟨rfl, rfl⟩
  · refine runs_of_act (o := opTilePowerDown) rfl h ?_
    have hq : service s (par c 0 1) = .quiesced := by
      have hw := (Bool.or_eq_false_iff.mp h.checks.state).2
      have hs' : namedService c s ≠ .outOfService := hs
      simp only [opTilePowerDown, hs', ne_eq, not_false_eq_true, decide_true, Bool.true_and, Bool.or_eq_false_iff,
        decide_eq_false_iff_not, Classical.not_not] at hw
      exact hw.1
    simp only [opTilePowerDown, namedService, hs, if_false]
    exact ⟨hq, _, tileOp_order _ _ _ _ _, rfl, rfl⟩
  · refine runs_next (by simp only [exec, execTilePowerDownDone, ho, hk, if_true]; rfl) ?_
    obtain ⟨hservice, hfault⟩ := tileGone_tiles h0 false (endOrder p s)
    exact ⟨(service_of_pkg (replyOrder_pkg _ _ _) p).trans hservice, (tileFault_of_pkg (replyOrder_pkg _ _ _) p).trans hfault, rfl⟩
  · obtain ⟨hrun, hlen, -, hcheck, -⟩ := h
    have hw : opTilePowerDown.wrong c s = true := by
      have hs' : namedService c s ≠ .outOfService := hs
      have hno' : namedService c s ≠ .quiesced ∨ needed c s = true := by
        simpa [needed, or_assoc, namedService] using hno
      simpa [opTilePowerDown, hs'] using hno'
    have hfail := check_of_wrong (check_eq_none hcheck) hw
    exact ⟨_, (exec_opRow (.tilePowerDown c) s opTilePowerDown c rfl).trans
      (congrArg _ (runOp_refused hrun hlen (afterEvents_same rfl) hfail)), (eState s (namedTile opTilePowerDown c s)).detail, rfl⟩
  · refine answers_of_act (o := opTileRejoin) rfl h ?_
    simp only [opTileRejoin, hs, if_true]
    exact ⟨rfl, rfl⟩
  · refine runs_of_act (o := opTileRejoin) rfl h ?_
    simp only [opTileRejoin, hs, if_false]
    exact ⟨congrArg TileCtl.step (ctlOf_modCtl _ _ _), _, tileOp_order _ _ _ _ _, rfl, rfl⟩
  · exact runs_next (by simp only [exec, execTileRejoinPrepared, ho, hk, hs, and_self, if_true]; rfl) (rejoinFails_tile p 1 s)
  · exact runs_next (by simp only [exec, execTileRejoinLocked, ho, hk, hs, and_self, if_true]) (rejoinFails_tile p 4 s)
  · exact answers_of_act (o := opTileQuery) rfl h ⟨rfl, rfl, rfl⟩

/-! ### The fabric -/

/-- A transfer that fails is counted against its link. -/
theorem retryTransfer_retries (p u : Nat) (injected : Bool) (s : State) :
    (retryTransfer p u injected s).pkg.linkRetries = tmod 0 s.pkg.linkRetries (p * 2 + u) (· + 1) := by
  show tmod 0 (detectorFires p 0x05 injected s).pkg.linkRetries _ _ = _
  rw [detectorFires_pkg]

/-- A link that fails is down, whatever tiles go out with it. -/
theorem linkFails_linkDown {p u l : Nat} {s : State} (injected : Bool) (hl : linkNumber s p u = some l) :
    tget false (linkFails p u injected s).pkg.linkDown l = true := by
  simp only [linkFails, hl, reroute_pkg]
  rw [(dropIsolated_within (.refl (allBut .links) _) rfl).keeps (c := .links)]
  exact tget_tput_same _ _ _ _

/-- Settles O23: retries by `retryTransfer_retries`, a link's failure by `linkFails_linkDown`. -/
theorem fabricLinksFailAndReturn : Obligations.FabricLinksFailAndReturn := by
  refine ⟨fun p u s hs hl => ?_, fun p u s hs hl => ?_, fun p u l s hs hn hl hd => ?_, fun l s hd => ?_⟩
  · refine runs_next (t := retryTransfer p u false s) (by simp [exec, execFabricTransferRetry, hs, hl]) ?_
    rw [retryTransfer_retries, tget_tmod_same]
  · refine runs_next (by simp only [exec, execFabricTransferRetry, hs, hl, Bool.and_self, if_true]; rfl) ?_
    exact tget_tput_same _ _ _ _
  · exact runs_next (by simp [exec, execFabricLinkDown, hs, hn, hl, hd]) (linkFails_linkDown false hl)
  · refine runs_next (by simp only [exec, execFabricLinkRestored, hd, if_true]; rfl) ?_
    rw [reroute_pkg]
    exact tget_tput_same _ _ _ _

end Sys2Proof.Machine
end

section
/-!
PROOF. Supplies, the reset ball and the TAP (R18, R265, R348, R349, R365, R366, R372).
-/
namespace Sys2Proof.Machine
open Sys2Proof

/-! ### Supplies -/

theorem powered_iff (s : State) : powered s = true ↔ 2 ≤ modeCode s.pkg.mode := by simp [powered]
theorem powered_of_le {s : State} (h : 2 ≤ modeCode s.pkg.mode) : powered s = true := (powered_iff s).mpr h
theorem powered_of_lt {s : State} (h : modeCode s.pkg.mode < 2) : powered s = false := by simp [powered]; omega

theorem islandPower_held {s : State} (h : (s.pkg.vddIo || s.pkg.vbat) = true) : islandPower s = s := by rw [islandPower, if_pos h]

theorem islandPower_lost {s : State} (h : (s.pkg.vddIo || s.pkg.vbat) = false) :
    islandPower s = { s with cal := {}, pkg := { s.pkg with cause := 0, causePort := 0 } } := by
  rw [islandPower, if_neg (by rw [h]; decide)]

/-- What follows a loss of the main supplies: BACKUP while VBAT holds, OFF otherwise; the supplies, the cause and the fuses stand, and the
calendar keeps its time. -/
theorem powerLost_spec (s : State) :
    (powerLost s).pkg.mode = (if s.pkg.vbat then .backup else .off) ∧ (powerLost s).pkg.target = (if s.pkg.vbat then .backup else .off)
      ∧ (powerLost s).pkg.mainOk = s.pkg.mainOk ∧ (powerLost s).pkg.vddIo = s.pkg.vddIo ∧ (powerLost s).pkg.vbat = s.pkg.vbat
      ∧ (powerLost s).pkg.cause = s.pkg.cause ∧ (powerLost s).pkg.causePort = s.pkg.causePort
      ∧ (powerLost s).boot.rollback = s.boot.rollback ∧ (powerLost s).cal.seconds = s.cal.seconds
      ∧ (powerLost s).cal.valid = s.cal.valid := by
  unfold powerLost
  dsimp only
  split <;> exact ⟨rfl, rfl, rfl, rfl, rfl, rfl, rfl, rfl, rfl, rfl⟩

/-- A package that was powered loses every register of its islands with the main supplies. -/
theorem powerLost_islands {s : State} (h : 2 ≤ modeCode s.pkg.mode) :
    (powerLost s).eng = {} ∧ (powerLost s).lanes = [] ∧ (powerLost s).st = {} ∧ (powerLost s).mv = {} ∧ (powerLost s).host = {}
      ∧ (powerLost s).fs = {} := by
  unfold powerLost
  dsimp only
  rw [if_pos (powered_of_le h)]
  exact ⟨rfl, rfl, rfl, rfl, rfl, rfl⟩

/-- VBAT falls in BACKUP, and in another mode. -/
theorem exec_vbatFall_backup {s : State} (h : s.pkg.mode = .backup) : exec .vbatFall s =
    .next (islandPower (modPkg s fun p => { p with vbat := false, mode := .off, target := .off })) := by
  simp only [exec, execVbatFall, h, if_true]

theorem exec_vbatFall_other {s : State} (h : s.pkg.mode ≠ .backup) : exec .vbatFall s =
    .next (islandPower (modPkg s fun p => { p with vbat := false })) := by
  simp only [exec, execVbatFall, h, if_false]

/-- Settles O24: each supply event by the mode it meets; what VDD_IO and VBAT hold by `islandPower_held` and `islandPower_lost`. -/
theorem suppliesMoveThePackage : Obligations.SuppliesMoveThePackage := by
  refine ⟨fun s h => ?_, fun s h => ?_, fun s hv h => ?_, fun s hv h => ?_, fun s hv h => ?_, fun s hv h => ?_, fun s h => ?_,
    fun s h => ?_, fun s hm h => ?_, fun s hm h => ?_, fun s h => ?_, fun s h => ?_, fun s h => ?_, fun s h => ?_⟩
  · exact runs_next (by simp only [exec, execVbatRise, modPkg_pkg, h, if_true]; rfl) rfl
  · exact runs_next (by simp only [exec, execVbatRise, modPkg_pkg, h, if_false]; rfl) rfl
  · refine runs_next (exec_vbatFall_backup h) ?_
    rw [islandPower_held (by simp [hv])]; rfl
  · refine runs_next (exec_vbatFall_other h) ?_
    rw [islandPower_held (by simp [hv])]; rfl
  · refine runs_next (exec_vbatFall_backup h) ?_
    rw [islandPower_lost (by simp [hv])]; rfl
  · refine runs_next (exec_vbatFall_other h) ?_
    rw [islandPower_lost (by simp [hv])]; rfl
  · have hp : powered (modPkg s fun p => { p with mainOk := true, vddIo := true }) = false := powered_of_lt h
    refine runs_next (by simp only [exec, execMainSuppliesValid, hp, Bool.false_eq_true, if_false]; rfl) ?_
    exact ⟨rfl, rfl, rfl, rfl, rfl, rfl, rfl, rfl, rfl, rfl, rfl, rfl, rfl, rfl, rfl⟩
  · have hp : powered (modPkg s fun p => { p with mainOk := true, vddIo := true }) = true := powered_of_le h
    exact runs_next (by simp only [exec, execMainSuppliesValid, hp, if_true]; rfl) rfl
  · refine runs_next (t := powerLost (modPkg s fun p => { p with mainOk := false })) (by simp only [exec, execMainSupplyLoss, hm, if_true]) ?_
    have hp : powered (modPkg s fun p => { p with mainOk := false }) = false := powered_of_lt h
    simp only [powerLost, hp, Bool.false_eq_true, if_false]
    rfl
  · refine runs_next (t := powerLost (modPkg s fun p => { p with mainOk := false })) (by simp only [exec, execMainSupplyLoss, hm, if_true]) ?_
    obtain ⟨hmode, htarget, hmain, hvdd, -, hcause, hport, hfuse, hsec, hvalid⟩ := powerLost_spec (modPkg s fun p => { p with mainOk := false })
    exact ⟨hmode, htarget.trans hmode.symm, hmain, hvdd, hcause, hport, hfuse, hsec, hvalid, powerLost_islands h⟩
  · exact runs_next (by simp only [exec, execMainSupplyLoss, h, Bool.false_eq_true, if_false]) rfl
  · obtain ⟨hmode, htarget, hmain, hvdd, hvbat, -, -, hfuse, -, -⟩ := powerLost_spec (modPkg s fun p => { p with mainOk := false, vddIo := false })
    simp only [modPkg_pkg, h, Bool.false_eq_true, if_false] at hmode htarget hmain hvdd hvbat
    refine runs_next rfl ?_
    rw [islandPower_lost (by rw [hvdd, hvbat]; rfl)]
    exact ⟨hmode, htarget, hmain, hvdd, rfl, rfl, rfl, hfuse⟩
  · obtain ⟨hmode, htarget, hmain, hvdd, hvbat, hcause, hport, hfuse, hsec, hvalid⟩ :=
      powerLost_spec (modPkg s fun p => { p with mainOk := false, vddIo := false })
    simp only [modPkg_pkg, h, if_true] at hmode htarget hmain hvdd hvbat
    refine runs_next rfl ?_
    rw [islandPower_held (by rw [hvbat, Bool.or_true])]
    exact ⟨hmode, htarget, hmain, hvdd, hsec, hvalid, hcause, hport, hfuse⟩
  · refine runs_next rfl ?_
    have hislands := powerLost_islands (s := modPkg s fun p => { p with mainOk := false, vddIo := false }) h
    unfold islandPower
    split <;> exact hislands

/-! ### The reset ball -/

theorem lowLongEnough_of {s : State} (h : s.pkg.needsLow = false ∨ ∃ n, s.pkg.lowSince = some n ∧ n + 10000 ≤ s.clock) :
    lowLongEnough s = true := by
  obtain h | ⟨n, hn, hle⟩ := h
  · simp [lowLongEnough, h]
  · simp [lowLongEnough, hn, us, hle]

theorem lowLongEnough_short {s : State} (h : s.pkg.needsLow = true) (hl : ∀ n, s.pkg.lowSince = some n → s.clock < n + 10000) :
    lowLongEnough s = false := by
  cases hn : s.pkg.lowSince with
  | none => simp [lowLongEnough, h, hn]
  | some n =>
    have hshort : decide (n + 10 * us ≤ s.clock) = false := decide_eq_false (Nat.not_le.mpr (hl n hn))
    simp [lowLongEnough, h, hn, hshort]

/-- A release of RESET_N ends at most what drives the balls, before it may enter BOOT. -/
theorem release_tap (s : State) : ∃ b o, (if s.boot.tap = .other then setTap .bypass s else s) = { s with boot := b, out := o } := by
  unfold setTap
  split
  · dsimp only; split <;> exact ⟨_, _, rfl⟩
  · exact ⟨_, _, rfl⟩

theorem setTap_quiet {r : TapReg} {s : State} (h : s.boot.tapDrives = false) :
    setTap r s = { s with boot := { s.boot with tap := r } } := by
  simp [setTap, h]

/-- Settles O25: the ball's fall by `resetState`, its release by how long it was low, and the TAP's instructions. -/
theorem resetBallAndTap : Obligations.ResetBallAndTap := by
  refine ⟨fun s h => ?_, fun s src p hr hm hok hl => ?_, fun s src p hr hn hl ht => ?_, fun s h => ?_, fun s src p hr => ?_, fun s hd => ?_,
    fun s sample preload hd => ?_, fun s drives hd hr => ?_, fun s hd hr => ?_, fun s r hd hr => ?_⟩
  · refine runs_next rfl ?_
    have hp : powered (modPkg s fun p => { p with
        resetReleased := false, lowSince := if p.resetReleased then some s.clock else p.lowSince }) = true := powered_of_le h
    simp only [hp, if_true]
    exact ⟨rfl, rfl, rfl, rfl, rfl, rfl, rfl, rfl, rfl, rfl, rfl, rfl, rfl, rfl, rfl, rfl, rfl, rfl, rfl⟩
  · obtain ⟨b, o, htap⟩ := release_tap (modPkg s fun k => { k with resetReleased := true, needsLow := !true })
    refine runs_next (by
      simp only [exec, execResetNRelease, hr, Bool.false_eq_true, if_false, lowLongEnough_of hl, htap, modPkg_pkg, hm, hok, and_self, if_true]
      rfl) ?_
    refine ⟨rfl, rfl, rfl, rfl, rfl, rfl, rfl, fun hc => ?_, fun hc => ?_⟩
    · simp only [enterBoot, modPkg_cal, hc, if_true]
      exact ⟨rfl, trivial⟩
    · simp only [enterBoot, modPkg_cal, hc, Bool.false_eq_true, if_false]
      rfl
  · refine runs_next (by
      simp only [exec, execResetNRelease, hr, Bool.false_eq_true, if_false, lowLongEnough_short hn hl, modPkg_boot, ht, and_false]
      rfl) rfl
  · have hp : powered (modPkg s fun p => { p with mainOk := true, vddIo := true }) = false := powered_of_lt h
    exact runs_next (by simp only [exec, execMainSuppliesValid, hp, Bool.false_eq_true, if_false]; rfl) rfl
  · exact runs_next (by simp only [exec, execResetNRelease, hr, if_true]) rfl
  · exact runs_next (t := emit (.tdo (idcode s)) (setTap .idcode s)) rfl (by rw [setTap_quiet hd]; rfl)
  · refine runs_next rfl ?_
    simp only [setTap_quiet hd]
    rfl
  · exact runs_next (by simp only [exec, execTapInstruction, hr, if_true]) (setTap_quiet hd)
  · exact runs_next
      (t := { s with boot := { s.boot with tap := .other, tapDrives := true }, out := s.out ++ [.boundaryDrives s.boot.boundary] })
      (by simp only [exec, execTapInstruction, hr, Bool.false_eq_true, if_false, setTap_quiet hd, if_true]; rfl) rfl
  · obtain rfl | rfl := hr
    all_goals
      refine runs_next rfl ?_
      simp [setTap, hd, emit]

end Sys2Proof.Machine
end

section
/-!
PROOF. The boot sequence (R29, R352 to R355): the loader, the configuration, microcode, Alfel and the golden image, and the end of BOOT.
-/
namespace Sys2Proof.Machine
open Sys2Proof

/-! ### Slots of the flash -/

@[simp] theorem slotOfFlash_setSlot (n : Nat) (e : SlotEntry) (s : State) : slotOfFlash (setSlot n e s) n = e := tget_tput_same _ _ _ _

/-! ### The boot loader -/

/-- A slot as the loader leaves it once it has read and checked an image there. -/
def checkedImage (slot copy : Nat) (img : Image) (s : State) : State :=
  setSlot slot (imageEntry (flashResult s slot copy img) (areaImage s slot copy img).toImageCheck)
    (readImage slot copy (areaImage s slot copy img) s)

theorem exec_bootLoaderLoad {copy : Nat} {img : Image} {s : State} (hb : inBoot s = true) (hs : s.boot.stage = 0)
    (hc : copy = b2n s.boot.loaderFailed) : exec (.bootLoaderLoad copy img) s = .next (
      if flashResult s 5 copy img = 1 then startLoader false (checkedImage 5 copy img s)
      else if copy = 0 then modBoot (checkedImage 5 copy img s) fun b => { b with loaderFailed := true }
      else startLoader true (checkedImage 5 copy img s)) := by
  simp only [exec, execBootLoaderLoad, hb, hs, hc, beq_self_eq_true, Bool.and_self, if_true]
  rfl

theorem slot_checkedImage (slot copy : Nat) (img : Image) (s : State) :
    slotOfFlash (checkedImage slot copy img s) slot
      = imageEntry (flashResult s slot copy img) (areaImage s slot copy img).toImageCheck := slotOfFlash_setSlot _ _ _

theorem imageEntry_state_one {r : Nat} (h : r = 1) (img : ImageCheck) : (imageEntry r img).state = 1 := by simp [imageEntry, h]
theorem imageEntry_state_two {r : Nat} (h : r ≠ 1) (img : ImageCheck) : (imageEntry r img).state = 2 := by simp [imageEntry, h]

/-! ### The configuration -/

theorem installConf_boot (x : BootConf) (error : Bool) (s : State) :
    (installConf x error s).boot = { s.boot with conf := x, recordError := error, confRead := true } :=
  foldl_keeps (·.boot) _ _ _ fun _ _ => rfl

/-- Which copy of the configuration is taken, by the copies that pass (R355). -/
theorem loadConf_none {a b : List Byte} {s : State} (ha : copyPasses s 0 a = false) (hb : copyPasses s 1 b = false) :
    (loadConf a b s).boot.conf = {} ∧ (loadConf a b s).boot.configDefault = true := by
  simp only [loadConf, ha, hb, Bool.or_self, Bool.false_eq_true, if_false, installConf_boot]
  exact ⟨trivial, rfl⟩

theorem loadConf_first {a b : List Byte} {s : State} (ha : copyPasses s 0 a = true) (hb : copyPasses s 1 b = false) :
    (loadConf a b s).boot.configCopy = 0 ∧ (loadConf a b s).boot.confSeq = confSeqOf a := by
  simp only [loadConf, ha, hb, Bool.false_and, Bool.or_false, Bool.false_eq_true, if_false, if_true, installConf_boot]
  exact ⟨rfl, rfl⟩

theorem loadConf_second {a b : List Byte} {s : State} (ha : copyPasses s 0 a = false) (hb : copyPasses s 1 b = true) :
    (loadConf a b s).boot.configCopy = 1 ∧ (loadConf a b s).boot.confSeq = confSeqOf b := by
  simp only [loadConf, ha, hb, Bool.not_false, Bool.true_or, Bool.and_self, Bool.or_true, if_true, installConf_boot]
  exact ⟨rfl, rfl⟩

theorem loadConf_stage (a b : List Byte) (s : State) :
    (loadConf a b s).boot.stage = s.boot.stage ∧ (loadConf a b s).boot.confRead = true := by
  unfold loadConf
  extract_lets pa pb newer useB x s₁
  split
  all_goals
    rw [installConf_boot]
    exact ⟨rfl, rfl⟩

theorem exec_bootConfigLoad {a b : List Byte} {s : State} (hb : inBoot s = true) (hr : s.boot.confRead = false) (hs : s.boot.stage = 1) :
    exec (.bootConfigLoad a b) s = .next (modBoot
      (loadConf (areaConf s 0 a) (areaConf s 1 b) (readArea 6 1 flashBlock (readArea 6 0 flashBlock s))) fun b => { b with stage := 2 }) := by
  have hstage := (loadConf_stage (areaConf s 0 a) (areaConf s 1 b) (readArea 6 1 flashBlock (readArea 6 0 flashBlock s))).1.trans hs
  simp [exec, execBootConfigLoad, hb, hr, hs, hstage]

/-! ### Microcode -/

/-- The slot to try next is one of the two. -/
theorem nextSlot_lt {second : Bool} {r0 r1 k : Nat} (h : nextSlot second r0 r1 = some k) : k = 0 ∨ k = 1 := by
  cases second <;> simp only [nextSlot, b2n, Bool.false_eq_true, if_true, if_false] at h <;> grind

theorem exec_microcodeLoad {slot : Nat} {img : Image} {s : State} (hb : inBoot s = true) (hs : s.boot.stage = 2)
    (hn : (nextSlot s.boot.conf.microcode1 s.boot.m0Result s.boot.m1Result).map (2 + ·) = some slot) :
    exec (.microcodeLoad slot img) s = .next (if flashResult s slot 0 img = 1 then
      modBoot (sendMicrocode (slot - 2) (le (areaImage s slot 0 img).header 8 4) (checkedImage slot 0 img s)) fun b => { b with stage := 3 }
      else checkedImage slot 0 img s) := by
  simp only [exec, execMicrocodeLoad, hb, hs, hn, beq_self_eq_true, Bool.and_self, if_true]
  rfl

/-- Settles O26: the loader's copies, the configuration's copies and the microcode slots, each by the result of its check. -/
theorem bootLoadsLoaderAndMicrocode : Obligations.BootLoadsLoaderAndMicrocode := by
  refine ⟨fun copy img s hb hs hc hf => ?_, fun img s hb hs hl hf => ?_, fun img s hb hs hl hf => ?_, fun a b s hb hr hs => ?_,
    fun slot img s hb hs hn hf => ?_, fun slot img s hb hs hn hf => ?_⟩
  · refine runs_next (exec_bootLoaderLoad hb hs hc) ?_
    rw [if_pos hf]
    exact ⟨rfl, rfl, (congrArg SlotEntry.state (slot_checkedImage 5 copy img s)).trans (imageEntry_state_one hf _)⟩
  · refine runs_next (exec_bootLoaderLoad hb hs (by rw [hl]; rfl)) ?_
    rw [if_neg hf, if_pos rfl]
    exact ⟨hs, rfl, (congrArg SlotEntry.state (slot_checkedImage 5 0 img s)).trans (imageEntry_state_two hf _)⟩
  · refine runs_next (exec_bootLoaderLoad hb hs (by rw [hl]; rfl)) ?_
    rw [if_neg hf, if_neg Nat.one_ne_zero]
    exact ⟨rfl, rfl⟩
  · refine runs_next (exec_bootConfigLoad hb hr hs) ⟨rfl, (loadConf_stage _ _ _).2, ?_, ?_, ?_⟩
    · exact fun ha hb => loadConf_none (s := readArea 6 1 flashBlock (readArea 6 0 flashBlock s)) ha hb
    · exact fun ha hb => loadConf_first (s := readArea 6 1 flashBlock (readArea 6 0 flashBlock s)) ha hb
    · exact fun ha hb => loadConf_second (s := readArea 6 1 flashBlock (readArea 6 0 flashBlock s)) ha hb
  · refine runs_next (exec_microcodeLoad hb hs hn) ?_
    rw [if_pos hf]
    exact ⟨rfl, rfl, rfl, rfl⟩
  · refine runs_next (exec_microcodeLoad hb hs hn) ?_
    rw [if_neg hf]
    obtain ⟨k, hk, rfl⟩ := Option.map_eq_some_iff.mp hn
    obtain rfl | rfl := nextSlot_lt hk
    · exact ⟨hs, rfl⟩
    · exact ⟨hs, rfl⟩

end Sys2Proof.Machine
end

section
/-!
PROOF. Alfel, the golden image, the training of tiles and the end of BOOT (R29, R352, R354).
-/
namespace Sys2Proof.Machine
open Sys2Proof

/-! ### When BOOT does not end, and when it does -/

theorem maybeEndBoot_untrained {s : State} (h : isTrained s 0 = false) : maybeEndBoot s = s := by simp [maybeEndBoot, h]

theorem maybeEndBoot_notStarted {s : State} (h : s.boot.alfelStarted = false) : maybeEndBoot s = s := by simp [maybeEndBoot, h]

theorem maybeEndBoot_ends {s : State} (hb : inBoot s = true) (ha : s.boot.alfelStarted = true) (hs : s.boot.stage ≠ 7)
    (ht : isTrained s 0 = true) (hall : ∀ t, t < tiles s → isTrained s t = true ∨ service s t = .outOfService) :
    maybeEndBoot s = endBoot s := by
  have hall' : ((partTileList s).all fun t => isTrained s t || decide (service s t = .outOfService)) = true := by
    simpa [partTileList] using hall
  simp [maybeEndBoot, hb, ha, hs, ht, hall']

theorem endBoot_mode (s : State) : (endBoot s).pkg.mode = if s.boot.image = 2 then .safe else .ready := by
  have h := congrArg PkgState.mode (endBoot_pkg s)
  simpa only [withoutVacancyWait] using h

/-- Alfel starts, and BOOT goes on as long as tile 0 is not trained. -/
theorem startAlfel_untrained {which : Nat} {e : SlotEntry} {s : State} (h : isTrained s 0 = false) :
    startAlfel which e s = modBoot s fun b => { b with image := which, alfel := e, alfelStarted := true, stage := 4 } :=
  maybeEndBoot_untrained h

/-! ### Alfel and the golden image -/

theorem exec_alfelLoad {slot : Nat} {img : Image} {s : State} (hb : inBoot s = true) (hs : s.boot.stage = 3)
    (hn : nextSlot s.boot.conf.primaryB s.boot.aResult s.boot.bResult = some slot) : exec (.alfelLoad slot img) s = .next (
      if flashResult s slot 0 img = 1 then
        startAlfel slot (imageEntry (flashResult s slot 0 img) (areaImage s slot 0 img).toImageCheck) (checkedImage slot 0 img s)
      else checkedImage slot 0 img s) := by
  simp only [exec, execAlfelLoad, hb, hs, hn, beq_self_eq_true, Bool.and_self, if_true]
  rfl

/-- The check of an Alfel slot leaves what has been trained. -/
theorem isTrained_checkedImage {slot : Nat} (h : slot = 0 ∨ slot = 1) (img : Image) (s : State) (t : Nat) :
    isTrained (checkedImage slot 0 img s) t = isTrained s t := by
  obtain rfl | rfl := h <;> rfl

/-- A golden image that passes holds two images. -/
theorem goldenResult_parts {s : State} {o : ImageCheck} {l : List ImageCheck} (h : goldenResult s o l = 1) : ∃ m a, l = [m, a] := by
  have hother (r : Nat) : (if r ≠ 1 then r else 3) ≠ 1 := by split <;> omega
  match l, h with
  | [m, a], _ => exact ⟨m, a, rfl⟩
  | [], h => exact absurd h (hother _)
  | [_], h => exact absurd h (hother _)
  | _ :: _ :: _ :: _, h => exact absurd h (hother _)

theorem golden_parts {img : Image} {s : State} (h : flashResult s 4 0 img = 1) : ∃ m a, (areaImage s 4 0 img).parts = [m, a] := by
  unfold flashResult at h
  dsimp only at h
  split at h
  · cases h
  · rw [if_pos rfl] at h
    exact goldenResult_parts h

theorem exec_goldenLoad {o m a : ImageCheck} {s : State} (hd : goldenDue s = true) : exec (.goldenLoad o m a) s = .next (
    match (if flashResult s 4 0 { o with parts := [m, a] } = 1 then (areaImage s 4 0 { o with parts := [m, a] }).parts else []) with
    | [m', a'] => startAlfel 2 (imageEntry 1 a') (sendMicrocode 2 (le m'.header 8 4) (checkedImage 4 0 { o with parts := [m, a] } s))
    | _ => modBoot (checkedImage 4 0 { o with parts := [m, a] } s) fun b => { b with stage := 6 }) := by
  simp only [exec, execGoldenLoad, hd, if_true]
  rfl

theorem golden_runs_passed {o m a : ImageCheck} {s : State} (hd : goldenDue s = true)
    (hf : flashResult s 4 0 { o with parts := [m, a] } = 1) : Runs (.goldenLoad o m a) s fun t =>
      t.boot.stage = 4 ∧ t.boot.image = 2 ∧ t.boot.microcode = 2 ∧ t.boot.goldenResult = 1 := by
  obtain ⟨m', a', hp⟩ := golden_parts hf
  refine runs_next (exec_goldenLoad hd) ?_
  simp only [hf, if_true, hp]
  rw [startAlfel_untrained rfl]
  exact ⟨rfl, rfl, rfl, hf⟩

theorem golden_runs_failed {o m a : ImageCheck} {s : State} (hd : goldenDue s = true)
    (hf : flashResult s 4 0 { o with parts := [m, a] } ≠ 1) : Runs (.goldenLoad o m a) s fun t =>
      t.boot.stage = 6 ∧ t.boot.goldenResult = flashResult s 4 0 { o with parts := [m, a] } := by
  refine runs_next (exec_goldenLoad hd) ?_
  simp only [hf, if_false]
  exact ⟨rfl, rfl⟩

/-! ### Tiles that train -/

/-- A tile that has trained in time: noted, locked in time, with the microcode that was sent. -/
def trainedTile (p : Nat) (s : State) : State :=
  modCtl p (fun c => { c with microcode := s.boot.microcodeVersion })
    (modTime (modBoot s fun b => { b with trained := tput b.trained p true }) fun v => { v with locked := tput v.locked p true })

theorem exec_tileTrained {p n : Nat} {s : State} (hb : inBoot s = true) (hm : s.boot.microcodeSent = some n)
    (hc : s.clock < n + 850 * ms) (hs : serving s p = true) (ht : isTrained s p = false) (h7 : s.boot.stage ≠ 7) :
    exec (.tileTrained p) s = .next (maybeEndBoot (trainedTile p s)) := by
  simp only [exec, execTileTrained, hb, hm, hc, hs, ht, h7, Option.map_some, Option.getD_some, decide_true, Bool.not_false, Bool.and_self,
    ne_eq, not_false_eq_true, if_true]
  rfl

theorem isTrained_trainedTile (p : Nat) (s : State) : isTrained (trainedTile p s) p = true := tget_tput_same _ _ _ _

theorem isTrained_trainedTile_other {p t : Nat} (s : State) (h : t ≠ p) : isTrained (trainedTile p s) t = isTrained s t :=
  tget_tput_other _ _ _ h

theorem exec_tileTrainTimeout {p n : Nat} {s : State} (hb : inBoot s = true) (hm : s.boot.microcodeSent = some n)
    (hc : n + 850 * ms ≤ s.clock) (hs : serving s p = true) (ht : isTrained s p = false) : exec (.tileTrainTimeout p) s = .next (
      if p = 0 then modBoot s fun b => { b with stage := 7 }
      else dropIsolated (enterService p .outOfService (modPkg s fun k => { k with fault := tput k.fault p true }))) := by
  simp only [exec, execTileTrainTimeout, hb, hm, hc, hs, ht, Option.map_some, Option.getD_some, decide_true, Bool.not_false, Bool.and_self,
    if_true]

/-- A tile that is out stays out while tiles without a path follow it and BOOT ends. -/
theorem service_dropIsolated {s : State} {p : Nat} (h : service s p = .outOfService) : service (dropIsolated s) p = .outOfService := by
  rw [dropIsolated, service, (maybeEndBoot_tiles _).1]
  exact (isolate_tiles 8 h).1

/-- Settles O27: the images by their results, tiles by `trainedTile`, and the end of BOOT by `maybeEndBoot_ends`. -/
theorem bootStartsAlfelAndEnds : Obligations.BootStartsAlfelAndEnds := by
  refine ⟨fun slot img s hb hs hn ht hf => ?_, fun slot img s hb hs hn hf => ?_, fun o m a s hd hf => golden_runs_passed hd hf,
    fun o m a s hd hf => golden_runs_failed hd hf, fun p n s hb hm hc hs ht h7 ha => ?_, fun n s hb hm hc hs ht h7 ha hall => ?_,
    fun n s hb hm hc hs ht => ?_, fun p n s h0 hb hm hc hs ht => ?_⟩
  · refine runs_next (exec_alfelLoad hb hs hn) ?_
    rw [if_pos hf, startAlfel_untrained ((isTrained_checkedImage (nextSlot_lt hn) img s 0).trans ht)]
    exact ⟨rfl, rfl, rfl⟩
  · refine runs_next (exec_alfelLoad hb hs hn) ?_
    rw [if_neg hf]
    obtain rfl | rfl := nextSlot_lt hn
    · exact ⟨hs, rfl⟩
    · exact ⟨hs, rfl⟩
  · refine runs_next (exec_tileTrained hb hm hc hs ht h7) ?_
    rw [maybeEndBoot_notStarted (s := trainedTile p s) ha]
    exact ⟨isTrained_trainedTile p s, tget_tput_same _ _ _ _, of_decide_eq_true hb⟩
  · refine runs_next (exec_tileTrained hb hm hc hs ht h7) ?_
    rw [maybeEndBoot_ends (s := trainedTile 0 s) hb ha h7 (isTrained_trainedTile 0 s), endBoot_mode]
    · rfl
    · intro t htl
      by_cases h0 : t = 0
      · exact .inl (h0 ▸ isTrained_trainedTile 0 s)
      · rw [isTrained_trainedTile_other s h0]
        exact hall t h0 htl
  · refine runs_next (exec_tileTrainTimeout hb hm hc hs ht) ?_
    rw [if_pos rfl]; rfl
  · refine runs_next (exec_tileTrainTimeout hb hm hc hs ht) ?_
    rw [if_neg h0]
    exact service_dropIsolated (service_enterService _ _ _)

end Sys2Proof.Machine
end

section
/-!
PROOF. What the parameter checks of an accepted command say, and what replies leave of the boot state.
-/
namespace Sys2Proof.Machine
open Sys2Proof

/-! ### Parameters that pass (check step 11) -/

theorem firstBad_eq_none {l : List (Nat × Bool)} : firstBad l = none ↔ ∀ x ∈ l, x.2 = false := by
  induction l with
  | nil => simp [firstBad]
  | cons x l ih =>
    obtain ⟨off, b⟩ := x
    cases b <;> simp [firstBad, ih]

theorem lowerOf_eq_none {a b : Option (Nat × Status)} : lowerOf a b = none ↔ a = none ∧ b = none := by
  cases a <;> cases b <;> simp [lowerOf]
  split <;> simp

/-- The parameters of a command that passes are in range, aligned and not in the past, and the objects that they name are the sender's. -/
theorem ChecksPass.params_ok {o : OpDef} {c : Cmd} {s : State} (h : ChecksPass o c s) :
    (∀ x ∈ o.bad c s, x.2 = false) ∧ (∀ x ∈ o.align c s, x.2 = false) ∧ (∀ x ∈ o.past c s, x.2 = false)
      ∧ refFail o c s = none ∧ o.more c s = none := by
  obtain ⟨h12, hmore⟩ := Option.or_eq_none_iff.mp h.params
  obtain ⟨hparam, href⟩ := Option.or_eq_none_iff.mp h12
  simp only [paramFail, Option.map_eq_none_iff, lowerOf_eq_none, firstBad_eq_none] at hparam
  obtain ⟨⟨hbad, halign⟩, hpast⟩ := hparam
  exact ⟨hbad, halign, hpast, href, hmore⟩

/-! ### The boot state through replies -/

/-- The boot state apart from the mailbox. -/
def withoutMailbox (b : BootState) : BootState := { b with mailbox := [] }

theorem writeReply_boot (c : Cmd) (r : Reply) (s : State) : withoutMailbox (writeReply c r s).boot = withoutMailbox s.boot := by
  unfold writeReply
  split
  · rfl
  · obtain ⟨heq, -, -⟩ := onPath_sendReply c r s
    rw [heq]; rfl

theorem finish_boot (id : Nat) (a : Answer) (s : State) : withoutMailbox (finish id a s).boot = withoutMailbox s.boot := by
  unfold finish
  split
  · rfl
  · dsimp only; split
    · rw [writeReply_boot]; rfl
    · rfl

theorem finish_out (id : Nat) (a : Answer) (s : State) : s.out <+: (finish id a s).out :=
  (finish_within id a (.refl (allBut .pkg) s) rfl).added

end Sys2Proof.Machine
end

section
/-!
PROOF. The firmware commands (R350, R353, R358 to R360).
-/
namespace Sys2Proof.Machine
open Sys2Proof

/-! ### Reads of host memory -/

/-- Reads that are issued are appended to what has left the package; nothing else moves. -/
theorem readRequests_eq (via addr n : Nat) (s : State) : readRequests via addr n s = { s with
    out := s.out ++ (aligned (readLimit (portOf s via)) addr (zeros n)).map fun x => .read via x.1 x.2.length } := by
  have h (l : List (Nat × List Byte)) (u : State) : l.foldl (fun s x => emit (.read via x.1 x.2.length) s) u
      = { u with out := u.out ++ l.map fun x => .read via x.1 x.2.length } := by
    induction l generalizing u with
    | nil => simp
    | cons x l ih => rw [List.foldl_cons, ih]; simp [emit]
  exact h _ s

/-! ### Writes of the flash -/

theorem programArea_eq (slot copy len : Nat) (s : State) : programArea slot copy len s = { s with out := (programArea slot copy len s).out } :=
  (programArea_within slot copy len (.refl [.out] s) rfl).eq_overlay

theorem programArea_erased (slot copy len : Nat) (s : State) :
    ∃ o, programArea slot copy len (eraseHeader slot copy s) = { s with out := o } :=
  ⟨_, (programArea_eq slot copy len (eraseHeader slot copy s)).trans rfl⟩

/-- The header sector is programmed. -/
theorem programArea_program (slot copy len : Nat) (s : State) :
    Out.flashProgram (areaOffset slot copy) (min len flashBlock) ∈ (programArea slot copy len s).out := by
  have h : ∃ u o, (programArea slot copy len s).out = (u ++ [.flashProgram (areaOffset slot copy) (min len flashBlock)]) ++ [o] := ⟨_, _, rfl⟩
  obtain ⟨u, o, h⟩ := h
  simp [h]

section
variable {s t : State} (hb : t.boot = s.boot) (hp : t.part = s.part)
include hb

theorem areaImage_congr : areaImage t = areaImage s := by funext; unfold areaImage; rw [hb]
theorem areaConf_congr : areaConf t = areaConf s := by funext; unfold areaConf; rw [hb]
theorem copyResult_congr : copyResult t = copyResult s := by funext; unfold copyResult; rw [hb]

include hp
theorem imageResult_congr : imageResult t = imageResult s := by funext; unfold imageResult; rw [hb, hp]
theorem goldenResult_congr : goldenResult t = goldenResult s := by funext; unfold goldenResult; rw [imageResult_congr hb hp]
theorem flashResult_congr : flashResult t = flashResult s := by
  funext; unfold flashResult; rw [hb, areaImage_congr hb, goldenResult_congr hb hp, imageResult_congr hb hp]

/-- The check of a slot reads the flash, the fuses and the part. -/
theorem checkSlot_congr : checkSlot t = checkSlot s := by
  funext; unfold checkSlot; rw [areaConf_congr hb, copyResult_congr hb, flashResult_congr hb hp, areaImage_congr hb]

end

/-- The write that was under way has ended. -/
def writeEnded (s : State) : State := modBoot s fun b => { b with flashWrite := none }

/-- What a write that has ended leaves in the flash, before its check: for slot 6 the configuration with its new SEQ. -/
def storedArea (slot : Nat) (img : Image) (conf : List Byte) (s : State) : State :=
  if slot = 6 then storeConf (writtenCopy s slot) (withSeq (nextSeq s) conf) (writeEnded s)
  else storeImage slot (writtenCopy s slot) img (writeEnded s)

/-- The same with a record of what has left the package. -/
def programmedArea (slot : Nat) (img : Image) (conf : List Byte) (s : State) (o : List Out) : State :=
  { storedArea slot img conf s with out := o }

/-- The check of the area just written. -/
def writtenCheck (slot : Nat) (img : Image) (conf : List Byte) (s : State) : Nat × SlotEntry :=
  checkSlot (storedArea slot img conf s) slot (writtenCopy s slot) img conf

/-- The slot as it stands after the check, the current copy of the configuration with it when it passes. -/
def checkedArea (slot : Nat) (img : Image) (conf : List Byte) (s : State) (o : List Out) : State :=
  if (writtenCheck slot img conf s).1 = 1 ∧ slot = 6 then
    takeCopy (writtenCopy s slot) (nextSeq s) (withSeq (nextSeq s) conf)
      (setSlot slot (writtenCheck slot img conf s).2 (programmedArea slot img conf s o))
  else setSlot slot (writtenCheck slot img conf s).2 (programmedArea slot img conf s o)

/-- What has left the package when the area is programmed. -/
def programOut (slot : Nat) (s : State) : List Out := (programArea slot (writtenCopy s slot) s.boot.flashLen (writeEnded s)).out

theorem storeConf_out (copy : Nat) (b : List Byte) (u : State) (o : List Out) :
    storeConf copy b { u with out := o } = { storeConf copy b u with out := o } := rfl
theorem storeImage_out (slot copy : Nat) (img : Image) (u : State) (o : List Out) :
    storeImage slot copy img { u with out := o } = { storeImage slot copy img u with out := o } := rfl

theorem stored_programArea (slot : Nat) (img : Image) (conf : List Byte) (s : State) :
    (if slot = 6 then storeConf (writtenCopy s slot) (withSeq (nextSeq s) conf)
        (programArea slot (writtenCopy s slot) s.boot.flashLen (writeEnded s))
      else storeImage slot (writtenCopy s slot) img (programArea slot (writtenCopy s slot) s.boot.flashLen (writeEnded s)))
      = programmedArea slot img conf s (programOut slot s) := by
  rw [programmedArea, storedArea, programArea_eq, programOut]
  split
  · exact storeConf_out _ _ _ _
  · exact storeImage_out _ _ _ _ _

theorem checkSlot_programmedArea (slot : Nat) (img : Image) (conf : List Byte) (s : State) (o : List Out) :
    checkSlot (programmedArea slot img conf s o) slot (writtenCopy s slot) img conf = writtenCheck slot img conf s := by
  rw [writtenCheck, checkSlot_congr (s := storedArea slot img conf s) (t := programmedArea slot img conf s o) rfl rfl]

/-- The copy of the configuration just written is the one that a read of the area gives. -/
theorem areaConf_storedArea (img : Image) (conf b : List Byte) (s : State) :
    areaConf (storedArea 6 img conf s) (writtenCopy s 6) b = withSeq (nextSeq s) conf := by
  have h (u : State) (c : Nat) (x : List Byte) : areaConf (storeConf c x u) c b = x := tget_tput_same _ _ _ _
  rw [storedArea, if_pos rfl, h]

theorem areaConf_checked (img : Image) (conf : List Byte) (s : State) (o : List Out) (e : SlotEntry) :
    areaConf (setSlot 6 e (programmedArea 6 img conf s o)) (writtenCopy s 6) conf = withSeq (nextSeq s) conf :=
  areaConf_storedArea img conf conf s

/-- The check of the area ends the command, with the entry or with the status of the check that failed. -/
theorem exec_fwWriteDone {img : Image} {conf : List Byte} {s : State} {slot id : Nat} (h : s.boot.flashWrite = some (slot, id)) :
    ∃ a, exec (.fwWriteDone img conf true) s = .next (finish id a (checkedArea slot img conf s (programOut slot s))) := by
  have hexec : exec (.fwWriteDone img conf true) s = .next (
      let u := setSlot slot (writtenCheck slot img conf s).2 (programmedArea slot img conf s (programOut slot s))
      if (writtenCheck slot img conf s).1 = 1 then
        finish id { result := entryBytes (writtenCheck slot img conf s).2 }
          (if slot = 6 then takeCopy (writtenCopy s slot) (nextSeq s) (areaConf u (writtenCopy s slot) conf) u else u)
      else finish id { status := imageStatus (writtenCheck slot img conf s).1 } u) := by
    rw [← checkSlot_programmedArea slot img conf s (programOut slot s), ← stored_programArea]
    simp only [exec, execFwWriteDone, h]
    rfl
  rw [hexec]
  generalize programOut slot s = o
  unfold checkedArea
  by_cases hr : (writtenCheck slot img conf s).1 = 1
  · by_cases h6 : slot = 6
    · subst h6
      simp only [hr, if_true, areaConf_checked, and_self]
      exact ⟨_, rfl⟩
    · simp only [hr, h6, if_true, if_false, and_false]
      exact ⟨_, rfl⟩
  · simp only [hr, if_false, false_and]
    exact ⟨_, rfl⟩

/-! ### What stands in the area after a write -/

theorem slotOfFlash_of_boot {s t : State} (h : withoutMailbox t.boot = withoutMailbox s.boot) (n : Nat) : slotOfFlash t n = slotOfFlash s n := by
  have hslots := congrArg BootState.slots h
  exact congrArg (fun x : Tab SlotEntry => tget ({} : SlotEntry) x n) hslots

theorem slotOfFlash_checkedArea (slot : Nat) (img : Image) (conf : List Byte) (s : State) (o : List Out) :
    slotOfFlash (checkedArea slot img conf s o) slot = (writtenCheck slot img conf s).2 := by
  have htake (c n : Nat) (b : List Byte) (u : State) : slotOfFlash (takeCopy c n b u) slot = slotOfFlash u slot := rfl
  unfold checkedArea
  split
  · rw [htake, slotOfFlash_setSlot]
  · rw [slotOfFlash_setSlot]

/-- No write is under way after its end, and the area is whole. -/
theorem checkedArea_written (slot : Nat) (img : Image) (conf : List Byte) (s : State) (o : List Out) :
    (checkedArea slot img conf s o).boot.flashWrite = none ∧ writtenArea s slot ∉ (checkedArea slot img conf s o).boot.torn
      ∧ (checkedArea slot img conf s o).out = o := by
  have hnote (n r : Nat) (b : BootState) : (noteResult n r b).flashWrite = b.flashWrite ∧ (noteResult n r b).torn = b.torn := by
    unfold noteResult; split <;> exact ⟨rfl, rfl⟩
  have hstored : (storedArea slot img conf s).boot.flashWrite = none ∧ writtenArea s slot ∉ (storedArea slot img conf s).boot.torn := by
    unfold storedArea
    split
    · next h6 => subst h6; exact ⟨rfl, by simp [storeConf, mendArea, writtenArea, modBoot]⟩
    · exact ⟨rfl, by simp [storeImage, mendArea, writtenArea, modBoot]⟩
  obtain ⟨h1, h2⟩ := hnote slot (writtenCheck slot img conf s).2.result (storedArea slot img conf s).boot
  have hset : (setSlot slot (writtenCheck slot img conf s).2 (programmedArea slot img conf s o)).boot.flashWrite = none
      ∧ writtenArea s slot ∉ (setSlot slot (writtenCheck slot img conf s).2 (programmedArea slot img conf s o)).boot.torn
      ∧ (setSlot slot (writtenCheck slot img conf s).2 (programmedArea slot img conf s o)).out = o :=
    ⟨h1.trans hstored.1, fun h => hstored.2 (h2 ▸ h), rfl⟩
  unfold checkedArea
  split
  · exact hset
  · exact hset

/-- A configuration that passes is taken: its SEQ and its copy are the current ones. -/
theorem checkedArea_takes {img : Image} {conf : List Byte} {s : State} (o : List Out) (h : confResult (withSeq (nextSeq s) conf) = 1) :
    (checkedArea 6 img conf s o).boot.confSeq = nextSeq s ∧ (checkedArea 6 img conf s o).boot.flashConf = writtenCopy s 6 := by
  have hcheck : (writtenCheck 6 img conf s).1 = 1 := by
    have hwhole : (storedArea 6 img conf s).boot.torn.contains (12 + writtenCopy s 6) = false := by
      simp [storedArea, storeConf, mendArea, modBoot]
    show copyResult (storedArea 6 img conf s) (writtenCopy s 6) (areaConf (storedArea 6 img conf s) (writtenCopy s 6) conf) = 1
    rw [areaConf_storedArea, copyResult, hwhole]
    exact h
  rw [checkedArea, if_pos ⟨hcheck, rfl⟩]
  exact ⟨rfl, rfl⟩

/-! ### The commands -/

/-- Settles O28's clause on a write that ends well. -/
theorem fwWriteDone_programmed {img : Image} {conf : List Byte} {s : State} {slot id : Nat} (h : s.boot.flashWrite = some (slot, id)) :
    Runs (.fwWriteDone img conf true) s fun t =>
      t.boot.flashWrite = none ∧ (writtenArea s slot ∉ t.boot.torn)
        ∧ Out.flashProgram (areaOffset slot (writtenCopy s slot)) (min s.boot.flashLen flashBlock) ∈ t.out
        ∧ slotOfFlash t slot = (writtenCheck slot img conf s).2
        ∧ (slot = 6 → confResult (withSeq (nextSeq s) conf) = 1 → t.boot.confSeq = nextSeq s ∧ t.boot.flashConf = writtenCopy s slot) := by
  obtain ⟨a, hexec⟩ := exec_fwWriteDone (img := img) (conf := conf) h
  have hprogram : Out.flashProgram (areaOffset slot (writtenCopy s slot)) (min s.boot.flashLen flashBlock) ∈ programOut slot s :=
    programArea_program _ _ _ _
  generalize programOut slot s = o at hexec hprogram
  obtain ⟨hnone, hwhole, hout⟩ := checkedArea_written slot img conf s o
  have hboot := finish_boot id a (checkedArea slot img conf s o)
  have hadded := finish_out id a (checkedArea slot img conf s o)
  refine runs_next hexec ⟨?_, ?_, ?_, ?_, fun h6 hr => ?_⟩
  · exact (congrArg BootState.flashWrite hboot).trans hnone
  · have htorn := congrArg BootState.torn hboot
    exact fun h => hwhole (htorn ▸ h)
  · exact hadded.subset (hout.symm ▸ hprogram)
  · rw [slotOfFlash_of_boot hboot, slotOfFlash_checkedArea]
  · subst h6
    obtain ⟨hseq, hcopy⟩ := checkedArea_takes o hr
    exact ⟨(congrArg BootState.confSeq hboot).trans hseq, (congrArg BootState.flashConf hboot).trans hcopy⟩

/-- A slot whose programming failed: its entry says so, and its area fails verification until it is written again. -/
theorem fwWriteDone_failed {img : Image} {conf : List Byte} {s : State} {slot id : Nat} (h : s.boot.flashWrite = some (slot, id)) :
    Runs (.fwWriteDone img conf false) s fun t => t.boot.flashWrite = none ∧ (slotOfFlash t slot).state = 2
      ∧ (slotOfFlash t slot).result = 2 ∧ writtenArea s slot ∈ t.boot.torn := by
  refine runs_next (by simp only [exec, execFwWriteDone, h, Bool.not_false, if_true]; rfl) ?_
  have hnote (n r : Nat) (b : BootState) : (noteResult n r b).flashWrite = b.flashWrite ∧ (noteResult n r b).torn = b.torn := by
    unfold noteResult; split <;> exact ⟨rfl, rfl⟩
  generalize hu : modBoot (modBoot s fun b => { b with flashWrite := none }) _ = u
  have hboot := finish_boot id { status := .eHwFault } (setSlot slot { state := 2, result := 2 } u)
  have hslot := slotOfFlash_of_boot hboot slot
  rw [slotOfFlash_setSlot] at hslot
  obtain ⟨h1, h2⟩ := hnote slot 2 u.boot
  refine ⟨(congrArg BootState.flashWrite hboot).trans (h1.trans ?_), by rw [hslot], by rw [hslot], ?_⟩
  · rw [← hu]; rfl
  · have htorn := (congrArg BootState.torn hboot).trans h2
    have hmem : writtenArea s slot ∈ u.boot.torn := by rw [← hu]; exact List.mem_cons_self
    exact htorn ▸ hmem

theorem fwSelect_answers {c : Cmd} {s : State} (h : Accepted opFwSelect c s) : Answers (.fwSelect c) 0x0F04 c s fun a t =>
    t = { s with boot := t.boot, eng := t.eng, out := t.out } ∧ t.boot.conf.primaryB = decide (par c 0 1 = 1)
      ∧ t.boot.conf.microcode1 = decide (par c 1 1 = 1) ∧ t.boot.confSeq = (s.boot.confSeq + 1) % 2 ^ 32
      ∧ t.boot.flashConf = writtenCopy s 6
      ∧ areaConf t (writtenCopy s 6) [] = selectConf s.boot.confBytes (nextSeq s) (par c 0 1) (par c 1 1)
      ∧ a.result = leBytes 4 ((s.boot.confSeq + 1) % 2 ^ 32) ∧ t.eng.configGen = nextGen s.eng.configGen := by
  refine answers_of_act (o := opFwSelect) rfl h ?_
  dsimp only [opFwSelect]
  obtain ⟨o, ho⟩ := programArea_erased 6 (writtenCopy s 6) (selectConf s.boot.confBytes (nextSeq s) (par c 0 1) (par c 1 1)).length s
  rw [ho]
  exact ⟨rfl, rfl, rfl, rfl, rfl, rfl, tget_tput_same _ _ _ _, rfl, rfl⟩

/-- A check that passes leaves the entry of its slot; one that fails answers its status and leaves everything. -/
theorem fwVerify_passes {c : Cmd} {img : Image} {conf : List Byte} {s : State} (h : Accepted (opFwVerify img conf) c s)
    (hr : (checkSlot s (par c 0 1) (usedCopy s (par c 0 1)) img conf).1 = 1) : Answers (.fwVerify c img conf) 0x0F03 c s fun a t =>
      t = { s with boot := t.boot, out := t.out }
        ∧ t.boot = (setSlot (par c 0 1) (checkSlot s (par c 0 1) (usedCopy s (par c 0 1)) img conf).2 s).boot
        ∧ a.result = entryBytes (checkSlot s (par c 0 1) (usedCopy s (par c 0 1)) img conf).2 := by
  refine answers_of_act (o := opFwVerify img conf) rfl h ?_
  simp only [opFwVerify, hr, if_true]
  exact ⟨rfl, rfl, rfl, rfl⟩

theorem fwVerify_fails {c : Cmd} {img : Image} {conf : List Byte} {s : State} (h : Accepted (opFwVerify img conf) c s)
    (hr : (checkSlot s (par c 0 1) (usedCopy s (par c 0 1)) img conf).1 ≠ 1) : Runs (.fwVerify c img conf) s fun t =>
      t = answer 0x0F03 c { status := imageStatus (checkSlot s (par c 0 1) (usedCopy s (par c 0 1)) img conf).1 } s := by
  have hact : (opFwVerify img conf).act c s
      = .fail { status := imageStatus (checkSlot s (par c 0 1) (usedCopy s (par c 0 1)) img conf).1 } := by
    simp only [opFwVerify, hr, if_false]
  exact runs_next ((exec_opRow (.fwVerify c img conf) s (opFwVerify img conf) c rfl).trans (congrArg _ (runOp_fail h hact))) rfl

/-- The counter asked for is not below the fuses. -/
theorem rollback_le_of_accepted {c : Cmd} {ok : Bool} {s : State} (h : Accepted (opFwRollbackAdvance ok) c s) :
    s.boot.rollback ≤ par c 0 1 := by
  have hbad := h.checks.params_ok.1 (0, decide (63 < par c 0 1) || decide (par c 0 1 < s.boot.rollback)) List.mem_cons_self
  simp only [Bool.or_eq_false_iff, decide_eq_false_iff_not, Nat.not_lt] at hbad
  exact hbad.2

/-- Settles O28: FW_WRITE and its ends through `checkedArea`, FW_VERIFY by the check's result, the rest by their actions. -/
theorem firmwareCommandsComplete : Obligations.FirmwareCommandsComplete := by
  refine ⟨fun c s h => ?_, fun c s h => ?_, fun img conf s slot id hw => fwWriteDone_failed hw, fun img conf s slot id hw => ?_,
    fun c img conf s h hr => fwVerify_passes h hr, fun c img conf s h hr => fwVerify_fails h hr, fun c s h => fwSelect_answers h,
    fun c ok s h hok => ?_, fun c s h hne => ?_, fun slot copy hs hc => ?_⟩
  · refine answers_of_act (o := opFwQuery) rfl h ⟨rfl, rfl, ?_, ?_⟩
    all_goals simp [List.append_assoc, le_leBytes_append, le_skip]
  · refine runs_of_act (o := opFwWrite) rfl h ?_
    simp only [opFwWrite, readRequests_eq, WaitsIn]
    exact ⟨rfl, rfl, _, rfl, rfl, List.mem_cons_self⟩
  · obtain ⟨t, hexec, hnone, hwhole, hprogram, hslot, hconf⟩ := fwWriteDone_programmed (img := img) (conf := conf) hw
    refine ⟨t, hexec, hnone, hwhole, hprogram, fun h6 => ?_, fun h6 => ⟨?_, hconf h6⟩⟩
    · rw [hslot, writtenCheck, storedArea, if_neg h6]; rfl
    · rw [hslot, writtenCheck, storedArea, if_pos h6]; rfl
  · refine answers_of_act (o := opFwRollbackAdvance ok) rfl h ?_
    have hc : ¬(par c 0 1 ≠ s.boot.rollback ∧ ok = false) := by
      rintro ⟨h1, h2⟩
      exact hok.elim h1 (by simp [h2])
    simp only [opFwRollbackAdvance, if_neg hc]
    refine ⟨rfl, rfl, ?_, rollback_le_of_accepted h⟩
    simp [le_leBytes_append]
  · have hlt : s.boot.rollback < par c 0 1 := Nat.lt_of_le_of_ne (rollback_le_of_accepted h) (Ne.symm hne)
    have hact : (opFwRollbackAdvance false).act c s = .done (useFree (modBoot s fun b =>
        { b with rollback := b.rollback + Config.freeFuses s.free % (par c 0 1 - b.rollback) })) { status := .eHwFault } := by
      simp only [opFwRollbackAdvance]
      exact if_pos ⟨hne, trivial⟩
    refine runs_next ((exec_opRow (.fwRollbackAdvance c false) s (opFwRollbackAdvance false) c rfl).trans (congrArg _ (runOp_done h hact)))
      ⟨_, Nat.le_add_right _ _, ?_, rfl⟩
    have := Nat.mod_lt (Config.freeFuses s.free) (Nat.sub_pos_of_lt hlt)
    omega
  · obtain rfl | rfl | rfl | rfl | rfl | rfl | rfl : slot = 0 ∨ slot = 1 ∨ slot = 2 ∨ slot = 3 ∨ slot = 4 ∨ slot = 5 ∨ slot = 6 := by omega
    all_goals
      simp only [areaOffset, slotBytes]
      omega

end Sys2Proof.Machine
end

section
/-!
PROOF. Host boot: the mailbox, FW_PUSH and FW_START (R356, R357).
-/
namespace Sys2Proof.Machine
open Sys2Proof

theorem exec_mailboxGo {p b : Nat} {packet : List Byte} {img : Image} {conf : List Byte} {s : State} (hp : p < tiles s)
    (hm : memoryServed (portOf s p) = true) : exec (.mailboxGo p b packet img conf) s = .next (
      if p ≠ b then ignoreWrite p s
      else match goRefusal s p with
      | some code => refuseGo p code s
      | none => runPacket (packetOp packet) (packetLen packet) (parsePacket p 8 packet) img conf true
          { s with boot := { s.boot with mailbox := tmod {} s.boot.mailbox p fun b => { b with state := 1, code := .ok } } }) := by
  simp only [exec, execMailboxGo, hp, hm, decide_true, Bool.not_true, Bool.false_eq_true, if_false] <;> (split <;> rfl)

/-! ### The settings of a configuration depend on the part alone -/

section
variable {s t : State} (hp : t.part = s.part)
include hp

theorem tiles_congr : tiles t = tiles s := by unfold tiles; rw [hp]

theorem record_congr : record t = record s := by
  have hgroups : groupsOk t = groupsOk s := by funext v; unfold groupsOk; rw [tiles_congr hp]
  have hlimit : limitMin t = limitMin s := by unfold limitMin; rw [hp]
  have haxis : axisBad t = axisBad s := by funext v; unfold axisBad noAxis; rw [tiles_congr hp]
  funext store tag v x
  unfold record
  rw [tiles_congr hp, hgroups, hlimit, haxis, hp]

theorem records_congr (store k : Nat) (b : List Byte) (x : BootConf) (e : Bool) : records t store k b x e = records s store k b x e := by
  induction k generalizing b x e with
  | zero => rfl
  | succ k ih => simp only [records, record_congr hp, ih]

theorem confOf_congr (b : List Byte) : confOf t b = confOf s b := by
  unfold confOf; rw [records_congr hp, records_congr hp]

end

/-! ### FW_PUSH -/

/-- The result and the entry of what FW_PUSH reads. -/
def pushResult (c : Cmd) (img : Image) (conf : List Byte) (s : State) : Nat :=
  if par c 0 1 = 5 then confResult conf else imageResult s (par c 0 1) (pushBytes (par c 0 1)) img.toImageCheck

theorem pushResult_conf {c : Cmd} {img : Image} {conf : List Byte} {s : State} (h5 : par c 0 1 = 5) :
    pushResult c img conf s = confResult conf := if_pos h5

theorem pushResult_image {c : Cmd} {img : Image} {conf : List Byte} {s : State} (h5 : par c 0 1 ≠ 5) :
    pushResult c img conf s = imageResult s (par c 0 1) (pushBytes (par c 0 1)) img.toImageCheck := if_neg h5

/-- A push that fails its check answers with the check's status once the image is read. -/
theorem fwPush_fails {c : Cmd} {img : Image} {conf : List Byte} {s : State} (h : Accepted (opFwPush img conf) c s)
    (hr : pushResult c img conf s ≠ 1) : Runs (.fwPush c img conf) s fun t =>
      t = answer 0x0F10 c { status := imageStatus (pushResult c img conf s) } (readRequests c.port (par c 8 8) (par c 4 4) s) := by
  have hact : (opFwPush img conf).act c s = .done (readRequests c.port (par c 8 8) (par c 4 4) s)
      { status := imageStatus (pushResult c img conf s) } := by
    have hresult : (if par c 0 1 = 5 then confResult conf
        else imageResult (readRequests c.port (par c 8 8) (par c 4 4) s) (par c 0 1) (pushBytes (par c 0 1)) img.toImageCheck)
        = pushResult c img conf s := by
      rw [imageResult_congr (s := s) (by rw [readRequests_eq]) (by rw [readRequests_eq])]
      rfl
    dsimp only [opFwPush]
    rw [hresult, if_pos hr]
  exact runs_next ((exec_opRow (.fwPush c img conf) s (opFwPush img conf) c rfl).trans (congrArg _ (runOp_done h hact))) rfl

/-- A push that passes takes what it has read. -/
theorem fwPush_passes {c : Cmd} {img : Image} {conf : List Byte} {s : State} {P : Answer → State → Prop} (h : Accepted (opFwPush img conf) c s)
    (hr : pushResult c img conf s = 1)
    (hp : ∀ e u, e = (if par c 0 1 = 5 then confEntry 1 (confSeqOf conf) (confLen conf) else imageEntry 1 img.toImageCheck) →
      u = readRequests c.port (par c 8 8) (par c 4 4) s → P { result := entryBytes e }
        (if par c 0 1 = 2 then modBoot u fun b => { b with pushedAlfel := true, alfel := e }
        else if par c 0 1 = 3 then modBoot (sendMicrocode 3 e.version u) fun b => { b with pushedMicro := true }
        else installConf (confOf u conf).1 (confOf u conf).2 (modBoot u fun b => { b with configDefault := false }))) :
    Answers (.fwPush c img conf) 0x0F10 c s P := by
  refine answers_of_act (o := opFwPush img conf) rfl h ?_
  have hresult : (if par c 0 1 = 5 then confResult conf
      else imageResult (readRequests c.port (par c 8 8) (par c 4 4) s) (par c 0 1) (pushBytes (par c 0 1)) img.toImageCheck) = 1 := by
    rw [imageResult_congr (s := s) (by rw [readRequests_eq]) (by rw [readRequests_eq])]
    exact hr
  dsimp only [opFwPush]
  rw [hresult, if_neg (fun h => h rfl)]
  exact ⟨rfl, hp _ _ rfl rfl⟩

/-- Settles O29: the mailbox by `exec_mailboxGo`, pushes by `fwPush_passes` and `fwPush_fails`. -/
theorem hostBootTakesImages : Obligations.HostBootTakesImages := by
  refine ⟨fun p packet img conf s hp hm hg => ?_, fun p packet img conf s code hp hm hg => ?_, fun p b packet img conf s hp hm hb => ?_,
    fun c img conf s h hk hr => ?_, fun c img conf s h hk hr => ?_, fun c img conf s h hk hr => ?_, fun c img conf s h hk hr => ?_,
    fun c img conf s h hk hr => ?_, fun c s h ht => ?_⟩
  · exact runs_next (exec_mailboxGo hp hm) (by rw [if_neg (fun h => h rfl), hg])
  · exact runs_next (exec_mailboxGo hp hm) (by rw [if_neg (fun h => h rfl), hg])
  · exact runs_next (exec_mailboxGo hp hm) (by rw [if_pos hb])
  · refine fwPush_passes h ((pushResult_image (by omega)).trans (by rw [hk]; exact hr)) fun e u he hu => ?_
    rw [if_neg (by omega)] at he
    rw [if_pos hk, hu, readRequests_eq, he]
    exact ⟨rfl, rfl⟩
  · refine fwPush_passes h ((pushResult_image (by omega)).trans (by rw [hk]; exact hr)) fun e u he hu => ?_
    rw [if_neg (by omega), if_pos hk, hu, readRequests_eq]
    exact ⟨rfl, rfl, rfl⟩
  · obtain ⟨t, hexec, ht⟩ := fwPush_fails h (by rw [pushResult_image hk]; exact hr)
    exact ⟨t, hexec, by rw [ht, pushResult_image hk]⟩
  · refine fwPush_passes h ((pushResult_conf hk).trans hr) fun e u he hu => ?_
    rw [if_pos hk] at he
    rw [if_neg (by omega), if_neg (by omega), installConf_boot, he, confOf_congr (s := s) (by rw [hu, readRequests_eq]), hu,
      readRequests_eq]
    exact ⟨rfl, rfl, rfl, rfl, rfl, rfl, rfl⟩
  · obtain ⟨t, hexec, ht⟩ := fwPush_fails h (by rw [pushResult_conf hk]; exact hr)
    exact ⟨t, hexec, by rw [ht, pushResult_conf hk]⟩
  · refine answers_of_act (o := opFwStart) rfl h ⟨rfl, ?_⟩
    rw [startAlfel_untrained ht]; rfl

end Sys2Proof.Machine
end

section
/-!
PROOF. Queues of commands and their doorbells (O31).
-/
namespace Sys2Proof.Machine
open Sys2Proof

/-! ### Doorbells -/

theorem signed_toNat (x : U32) : signed 32 x.toNat = x.toInt := by
  rw [BitVec.toInt_eq_toNat_cond, signed, Nat.mod_eq_of_lt x.isLt]
  split <;> split <;> omega

theorem aheadCount_eq (v : Queue) (n : U32) : aheadCount v n = decide (0 < (n - v.dev).toInt) := by
  rw [aheadCount, signed_toNat]

theorem parsePacket_params_length (p n : Nat) (b : List Byte) : (parsePacket p n b).params.length = packetLen b := by
  simp [parsePacket]; omega

theorem chainDoorbell_host (n : U32) (v : Queue) : (chainDoorbell n v).host = n := by
  unfold chainDoorbell
  dsimp only
  split
  · split <;> rfl
  · split <;> rfl
  · rfl

section
variable {p q : Nat} {n : U32} {s : State} {v : Queue}

theorem doorbell_notOwned (h : ownsQueue s p q = false) : doorbell p q n s = ignoreWrite p s := by
  simp [doorbell, h]

variable (ho : ownsQueue s p q = true) (hq : queue? s q = some v)
include ho hq

theorem doorbell_command (ht : v.qtype = .command) :
    doorbell p q n s = putQueue q { v with host := n, state := .running } s := by
  simp [doorbell, ho, hq, ht]

theorem doorbell_reply (ht : v.qtype = .reply) : doorbell p q n s =
    if 0 < (n - v.dev).toInt then putQueue q { v with dbRejects := v.dbRejects + 1 } s
    else flushQueue p (q % 2048 - 8) (putQueue q (consume n v) s) := by
  simp [doorbell, ho, hq, ht, aheadCount_eq]

theorem doorbell_completion (ht : v.qtype = .completion ∨ v.qtype = .event) : doorbell p q n s =
    if 0 < (n - v.dev).toInt then putQueue q { v with dbRejects := v.dbRejects + 1 } s else putQueue q { v with host := n } s := by
  rcases ht with ht | ht <;> simp [doorbell, ho, hq, ht, aheadCount_eq]

theorem doorbell_chain (ht : v.qtype = .buffer ∨ v.qtype = .management) :
    doorbell p q n s = putQueue q (chainDoorbell n v) s := by
  rcases ht with ht | ht <;> simp [doorbell, ho, hq, ht]

end

/-! ### Masks -/

section
variable {p q : Nat} {s : State} {v : Queue}

theorem exec_dbMaskWrite_notOwned {m : Bool} (h : ownsQueue s p q = false) : exec (.dbMaskWrite p q m) s = .next (ignoreWrite p s) := by
  simp [exec, execDbMaskWrite, h]

theorem exec_dbMaskWrite_set (h : ownsQueue s p q = true) (hq : queue? s q = some v) :
    exec (.dbMaskWrite p q true) s = .next (putQueue q { v with mask := true } s) := by
  simp [exec, execDbMaskWrite, h, modQueue, hq]

theorem exec_dbMaskWrite_clear (h : ownsQueue s p q = true) :
    exec (.dbMaskWrite p q false) s = .next (unmaskQueue q s) := by
  simp [exec, execDbMaskWrite, h]

variable (hq : queue? s q = some v)
include hq

theorem unmaskQueue_clear (hm : v.mask = false) : unmaskQueue q s = s := by
  simp [unmaskQueue, hq, hm]

theorem unmaskQueue_nothingHeld (hm : v.mask = true) (hh : v.heldMessage = false) (hu : v.irqEn = false ∨ v.unsignalled = 0) :
    unmaskQueue q s = putQueue q { v with mask := false } s := by
  rcases hu with hu | hu <;> simp [unmaskQueue, hq, hm, hh, hu]

theorem unmaskQueue_reply (hm : v.mask = true) (hh : v.heldMessage = true) (ht : v.qtype = .reply) :
    unmaskQueue q s = signalVector (queueOwner s q) (queueOwner s q) v.vector
      (putQueue q { v with unsignalled := 0, heldMessage := false, mask := false } s) := by
  simp [unmaskQueue, hq, hm, hh, ht]

end

/-! ### Taking a packet -/

section
variable {p n : Nat} {packet : List Byte} {img : Image} {conf : List Byte} {ok : Bool} {s : State} {v : Queue}

/-- The engine takes a packet of legal length: its slots are consumed and its opcode is run. -/
theorem exec_commandTake (hn : n ≤ 7) (hr : slotReaches (p * 8 + n) s = true) (hq : queue? s (cmdQueue p n) = some v)
    (hm : mayTake s p n v packet = true) (hl : packetLen packet ≤ 4096) : exec (.commandTake p n packet img conf ok) s =
      .next (runPacket (packetOp packet) (packetLen packet) (parsePacket p n packet) img conf ok (taken p n packet v s)) := by
  have hc : commandsRun s = true := by
    simp only [mayTake, Bool.and_eq_true] at hm
    obtain ⟨⟨⟨⟨⟨⟨hrun, -⟩, -⟩, -⟩, -⟩, -⟩, -⟩ := hm
    exact hrun
  simp [exec, execCommandTake, Nat.not_lt.mpr hn, hc, hr, hq, hm, Nat.not_lt.mpr hl, taken]

theorem exec_commandTake_notReached (h : commandsRun s = false ∨ slotReaches (p * 8 + n) s = false) :
    exec (.commandTake p n packet img conf ok) s = .next s := by
  rcases h with h | h <;> simp [exec, execCommandTake, h]

theorem runPacket_some {o : OpDef} (hl : packetLen packet ≤ 4096) (ho : findOp img conf ok (packetOp packet) = some o) :
    runPacket (packetOp packet) (packetLen packet) (parsePacket p n packet) img conf ok s = runOp o (parsePacket p n packet) s := by
  simp [runPacket, Nat.not_lt.mpr hl, ho]

theorem runPacket_none (hl : packetLen packet ≤ 4096) (ho : findOp img conf ok (packetOp packet) = none) :
    runPacket (packetOp packet) (packetLen packet) (parsePacket p n packet) img conf ok s =
      undefinedReply (packetOp packet) (parsePacket p n packet) s := by
  simp [runPacket, Nat.not_lt.mpr hl, ho]

end

/-- Settles O31: the packet at the head by what `runPacket` does with it, each doorbell and mask by the queue's type. -/
theorem queuesCarryCommands : Obligations.QueuesCarryCommands := by
  refine ⟨?take, ?undefined, ?notReached, ?command, ?reply, ?replyAhead, ?completion, ?completionAhead, ?chain, ?notOwned, ?mask,
    ?unmasked, ?unmaskQuiet, ?unmaskReply⟩
  case take =>
    intro p n packet img conf ok s v o hn hr hq hm hl ho
    exact runs_next (exec_commandTake hn hr hq hm hl) (runPacket_some hl ho)
  case undefined =>
    intro p n packet img conf ok s v hn hr hq hm hl ho hb
    refine runs_next (exec_commandTake hn hr hq hm hl) ?_
    rw [runPacket_none hl ho, undefinedReply_of_headerOk _ _ (by rwa [parsePacket_params_length]) hb]
  case notReached => exact fun p n packet img conf ok s h => runs_next (exec_commandTake_notReached h) rfl
  case command => exact fun p q n s v ho hq ht => runs_next rfl (doorbell_command ho hq ht)
  case reply =>
    intro p q n s v ho hq ht hn
    exact runs_next rfl (by rw [doorbell_reply ho hq ht, if_neg (Int.not_lt.mpr hn)])
  case replyAhead =>
    intro p q n s v ho hq ht hn
    exact runs_next rfl (by rw [doorbell_reply ho hq ht, if_pos hn])
  case completion =>
    intro p q n s v ho hq ht hn
    exact runs_next rfl (by rw [doorbell_completion ho hq ht, if_neg (Int.not_lt.mpr hn)])
  case completionAhead =>
    intro p q n s v ho hq ht hn
    exact runs_next rfl (by rw [doorbell_completion ho hq ht, if_pos hn])
  case chain =>
    intro p q n s v ho hq ht
    refine runs_next rfl ?_
    rw [doorbell_chain ho hq ht]
    exact ⟨rfl, chainDoorbell_host n v, rfl⟩
  case notOwned =>
    intro p q n s h
    exact ⟨runs_next rfl (doorbell_notOwned h), runs_next rfl (doorbell_notOwned h), runs_next rfl (doorbell_notOwned h),
      runs_next rfl (doorbell_notOwned h), runs_next (exec_dbMaskWrite_notOwned h) rfl⟩
  case mask => exact fun p q s v ho hq => runs_next (exec_dbMaskWrite_set ho hq) rfl
  case unmasked => exact fun p q s v ho hq hm => runs_next (exec_dbMaskWrite_clear ho) (unmaskQueue_clear hq hm)
  case unmaskQuiet => exact fun p q s v ho hq hm hh hu => runs_next (exec_dbMaskWrite_clear ho) (unmaskQueue_nothingHeld hq hm hh hu)
  case unmaskReply => exact fun p q s v ho hq hm hh ht => runs_next (exec_dbMaskWrite_clear ho) (unmaskQueue_reply hq hm hh ht)

end Sys2Proof.Machine
end

section
/-!
PROOF. Handles are kept, listed, adopted and destroyed (O32).
-/
namespace Sys2Proof.Machine
open Sys2Proof

/-- The generation of an object that is asked for from its tables. -/
theorem dropObj_eng (k : Nat) (s : State) :
    (dropObj k s).eng = { s.eng with objs := tdel s.eng.objs k, gens := tput s.eng.gens k (nextHandleGen (genOf s k)) } := by
  have h : ∀ u : State, (raiseGone (handleOf u k) u).eng = u.eng := fun u =>
    (raiseGone_within (handleOf u k) (.refl (allBut .eng) u) rfl).keeps (c := .eng)
  simp [dropObj, h, genOf]

theorem obj?_dropObj_same {k : Nat} {s : State} (h : tsorted 0 s.eng.objs = true) : obj? (dropObj k s) k = none := by
  simp [obj?, dropObj_eng, tget?_tdel_same _ _ h]

theorem obj?_dropObj_other {j k : Nat} (s : State) (h : j ≠ k) : obj? (dropObj k s) j = obj? s j := by
  simp [obj?, dropObj_eng, tget?_tdel_other _ h]

theorem genOf_dropObj_same (k : Nat) (s : State) : genOf (dropObj k s) k = nextHandleGen (genOf s k) := by
  simp [genOf, dropObj_eng]

theorem genOf_dropObj_other {j k : Nat} (s : State) (h : j ≠ k) : genOf (dropObj k s) j = genOf s j := by
  simp [genOf, dropObj_eng, tget_tput_other _ _ _ h]

/-- An object that is no reservation passes to a port as its entry in the table says. -/
theorem adoptOne_obj {p k : Nat} {s : State} {o : Obj} (h : obj? s k = some o) (hk : slotKind k ≠ 6) :
    adoptOne p s k = { s with eng := { s.eng with
      objs := tput s.eng.objs k { o with owner := p, orphaned := false, deadline := 0, deadlineNs32 := 0 } } } := by
  simp [adoptOne, modObj, h, modEng, hk]

theorem foldl_fixed {α β : Type} {f : β → α → β} {b : β} (h : ∀ a, f b a = b) : ∀ l : List α, l.foldl f b = b
  | [] => rfl
  | a :: l => by rw [List.foldl_cons, h a, foldl_fixed h l]

/-- Nothing is destroyed when no object is named. -/
theorem destroyAll_none {which : Nat → Obj → Bool} {s : State} (h : ∀ k o, (k, o) ∈ s.eng.objs → which k o = false) :
    destroyAll which s = s := by
  have hf : ∀ i, (s.eng.objs.filter fun x => decide (slotKind x.1 = 9 - i) && which x.1 x.2) = [] := fun i =>
    List.filter_eq_nil_iff.mpr fun x hx => by simp [h x.1 x.2 hx]
  exact foldl_fixed (fun i => by simp only [hf, List.map_nil, List.foldl_nil]) _

/-- Settles O32: each command by its effect, the deadline by which objects it names. -/
theorem handlesAreKept : Obligations.HandlesAreKept := by
  refine ⟨?drop, ?query, ?destroy, ?destroyIdle, ?adopt, ?adoptAll, ?grace, ?list, ?early, ?due⟩
  case drop =>
    exact fun k s hs => ⟨obj?_dropObj_same hs, genOf_dropObj_same k s, fun j hj => ⟨obj?_dropObj_other s hj, genOf_dropObj_other s hj⟩⟩
  case query =>
    intro c s o h ho
    refine answers_of_act (o := opHandleQuery) rfl h ⟨rfl, rfl, ?_⟩
    simp [List.append_assoc, le_leBytes_append, le_skip, ho, o.gen.isLt]
  case destroy =>
    intro c s h hk
    refine answers_of_act (o := opHandleDestroy) rfl h ?_
    simp only [opHandleDestroy, hk, if_false]
    exact ⟨rfl, rfl, rfl⟩
  case destroyIdle =>
    intro c s h hk hr
    refine answers_of_act (o := opHandleDestroy) rfl h ?_
    simp only [opHandleDestroy, hk, if_true, releaseChan, hr, Bool.false_eq_true, if_false]
    exact ⟨rfl, rfl⟩
  case adopt =>
    intro c s o h hp ho hk
    refine answers_of_act (o := opAdopt) rfl h ⟨rfl, ?_⟩
    simp [hp, adoptOne_obj ho hk]
  case adoptAll =>
    intro c s h hp
    refine answers_of_act (o := opAdopt) rfl h ⟨rfl, ?_⟩
    simp [hp, le_leBytes_append]
  case grace =>
    intro c s h
    refine answers_of_act (o := opOrphanGraceSet) rfl h ?_
    by_cases he : s.eng.orphanGraceMs = par c 0 4
    · simp only [opOrphanGraceSet, he, if_true]
      exact ⟨rfl, he, rfl, rfl, rfl⟩
    · simp only [opOrphanGraceSet, he, if_false]
      exact ⟨rfl, rfl, rfl, rfl, rfl⟩
  case list =>
    intro c s h
    refine answers_of_act (o := opHandleList) rfl h ⟨rfl, rfl, ?_⟩
    rw [List.append_assoc, le_leBytes_append, List.length_take]
    exact Nat.mod_eq_of_lt (by omega)
  case early =>
    intro s h
    refine runs_next rfl (destroyAll_none fun k o hk => ?_)
    rcases h k o hk with h | h
    · simp [h]
    · simp [Nat.not_le.mpr h]
  case due => exact fun s => runs_next rfl rfl

end Sys2Proof.Machine
end

section
/-!
PROOF. What replies, the entries of queues and the end of a port's objects leave of the host block and of the boot state: of a port only
INTA moves, of the other host registers the vectors, the INTx status and the producers behind their routes, of boot only the mailbox.
-/
namespace Sys2Proof.Machine
open Sys2Proof

/-! ### Ports after an update -/

theorem portOf_modPort_same (p : Nat) (f : Port → Port) (s : State) : portOf (modPort p f s) p = f (portOf s p) := by
  simp [portOf, modPort]

theorem portOf_modPort_other {p k : Nat} (f : Port → Port) (s : State) (h : k ≠ p) : portOf (modPort p f s) k = portOf s k := by
  simp [portOf, modPort, tget_tput_other _ _ _ h]

@[simp] theorem portOf_emit (o : Out) (s : State) (p : Nat) : portOf (emit o s) p = portOf s p := rfl
@[simp] theorem portOf_modPortCounters (k : Nat) (f : PortCounters → PortCounters) (s : State) (p : Nat) :
    portOf (modPortCounters k f s) p = portOf s p := rfl

theorem portOf_congr {s t : State} (h : t.host = s.host) (p : Nat) : portOf t p = portOf s p := by rw [portOf, portOf, h]

/-- Every port of the package satisfies a relation to itself when one port is updated so. -/
theorem portOf_modPort_all {β : Type} {g : Port → β} {f : Port → Port} (h : ∀ q, g (f q) = g q) (p : Nat) (s : State) (k : Nat) :
    g (portOf (modPort p f s) k) = g (portOf s k) := by
  by_cases hk : k = p
  · subst hk; rw [portOf_modPort_same, h]
  · rw [portOf_modPort_other _ _ hk]

/-! ### Mild steps -/

/-- The parts of the state other than the host block and boot. -/
def mildParts : List Comp := (.fuse :: everyPart).filter fun c => c ≠ .host ∧ c ≠ .boot

/-- A port apart from its INTA. -/
def calm (q : Port) : Port := { q with intaAsserted := false }

/-- The host block apart from its ports, vectors, INTx status and the producers behind their routes. -/
def hostRest (h : HostState) : HostState := { h with ports := [], vectors := [], intx := [], behind := [] }

structure Mild (s t : State) : Prop where
  port : ∀ p, calm (portOf t p) = calm (portOf s p)
  host : hostRest t.host = hostRest s.host
  boot : withoutMailbox t.boot = withoutMailbox s.boot

namespace Mild

theorem refl (s : State) : Mild s s := ⟨fun _ => rfl, rfl, rfl⟩

theorem of_eq {s t : State} (hh : t.host = s.host) (hb : t.boot = s.boot) : Mild s t :=
  ⟨fun p => by rw [portOf_congr hh], by rw [hh], by rw [hb]⟩

theorem trans {s t u : State} (h : Mild s t) (g : Mild t u) : Mild s u :=
  ⟨fun p => (g.port p).trans (h.port p), g.host.trans h.host, g.boot.trans h.boot⟩

/-- What changes neither the host block nor boot is mild. -/
theorem of_within {s t : State} (h : Within mildParts s t) : Mild s t :=
  of_eq (h.same .host (by decide)) (h.same .boot (by decide))

theorem foldl {α : Type} {f : State → α → State} (hf : ∀ s x, Mild s (f s x)) (l : List α) (s : State) : Mild s (l.foldl f s) := by
  induction l generalizing s with
  | nil => exact refl s
  | cons x l ih => exact (hf s x).trans (ih _)

section
variable {s t : State} (h : Mild s t)
include h

theorem saved : t.host.saved = s.host.saved := by
  have := congrArg HostState.saved h.host
  exact this

theorem savedReads : t.host.savedReads = s.host.savedReads := by
  have := congrArg HostState.savedReads h.host
  exact this

theorem counters : t.host.counters = s.host.counters := by
  have := congrArg HostState.counters h.host
  exact this

theorem conf : t.boot.conf = s.boot.conf := by
  have := congrArg BootState.conf h.boot
  exact this

end

end Mild

/-! ### Signals and entries -/

theorem mild_emit (o : Out) (s : State) : Mild s (emit o s) := .of_eq rfl rfl
theorem mild_modMv (s : State) (f : MoverState → MoverState) : Mild s (modMv s f) := .of_eq rfl rfl
theorem mild_modFs (s : State) (f : StoreState → StoreState) : Mild s (modFs s f) := .of_eq rfl rfl
theorem mild_modEng (s : State) (f : EngState → EngState) : Mild s (modEng s f) := .of_eq rfl rfl
theorem mild_putQueue (q : Nat) (v : Queue) (s : State) : Mild s (putQueue q v s) := .of_eq rfl rfl
theorem mild_modQueue (q : Nat) (f : Queue → Queue) (s : State) : Mild s (modQueue q f s) := by
  unfold modQueue; split
  · exact mild_putQueue _ _ _
  · exact .refl _

theorem mild_leaveRoute (k : Nat) (s : State) : Mild s (leaveRoute k s) := by
  unfold leaveRoute; split
  · exact .refl _
  · exact ⟨fun _ => rfl, rfl, rfl⟩

theorem mild_inta (p : Nat) (s : State) : Mild s (modPort p (fun q => { q with intaAsserted := true }) s) :=
  ⟨portOf_modPort_all (f := fun q => { q with intaAsserted := true }) (g := calm) (fun _ => rfl) p s, rfl, rfl⟩

/-- An update of the vectors, the INTx status or the producers. -/
theorem mild_modHost {f : HostState → HostState} (s : State) (hp : (f s.host).ports = s.host.ports)
    (hr : hostRest (f s.host) = hostRest s.host) : Mild s (modHost s f) :=
  ⟨fun p => by simp [portOf, hp], hr, rfl⟩

theorem mild_signalVector (via p v : Nat) (s : State) : Mild s (signalVector via p v s) := by
  unfold signalVector; dsimp only
  split
  · split
    · exact ⟨fun _ => rfl, rfl, rfl⟩
    · exact mild_emit _ _
  · split
    · exact mild_modHost _ rfl rfl
    · exact ((mild_modHost _ rfl rfl).trans (mild_inta _ _)).trans (mild_emit _ _)

theorem mild_signalQueue (q : Nat) (s : State) : Mild s (signalQueue q s) := by
  unfold signalQueue; split
  · exact .refl _
  · split
    · split
      · exact .refl _
      · exact (mild_putQueue _ _ _).trans (mild_signalVector _ _ _ _)
    · exact .refl _

theorem mild_putEntry (q tile : Nat) (body : List Byte) (s : State) : Mild s (putEntry q tile body s) := by
  unfold putEntry; split
  · exact .refl _
  · dsimp only
    refine .trans (.trans ?_ (mild_putQueue _ _ _)) (mild_signalQueue _ _)
    split
    · exact (mild_leaveRoute q s).trans (mild_emit _ _)
    · exact ((mild_leaveRoute q s).trans (mild_emit _ _)).trans (mild_modMv _ _)

/-! ### Replies -/

theorem mild_putReply (p n : Nat) (r : Reply) (irq : Bool) (s : State) : Mild s (putReply p n r irq s) := by
  unfold putReply; split
  · exact .refl _
  · dsimp only
    split
    · exact ((mild_emit _ _).trans (mild_putQueue _ _ _)).trans (mild_signalVector _ _ _ _)
    · exact (mild_emit _ _).trans (mild_putQueue _ _ _)

theorem mild_flushReplies (p n k : Nat) (s : State) : Mild s (flushReplies p n k s) := by
  induction k generalizing s with
  | zero => exact .refl _
  | succ k ih =>
    unfold flushReplies; split
    · exact .refl _
    · split
      · exact .refl _
      · split
        · exact .trans (.trans (mild_putQueue _ _ _) (mild_putReply _ _ _ _ _)) (ih _)
        · exact .refl _

theorem mild_flushQueue (p n : Nat) (s : State) : Mild s (flushQueue p n s) := by
  unfold flushQueue; split
  · exact mild_flushReplies _ _ _ _
  · exact .refl _

theorem mild_sendReply (c : Cmd) (r : Reply) (s : State) : Mild s (sendReply c r s) := by
  unfold sendReply; split
  · exact ⟨fun _ => rfl, rfl, rfl⟩
  · exact (mild_modQueue _ _ _).trans (mild_flushQueue _ _ _)

theorem mild_writeReply (c : Cmd) (r : Reply) (s : State) : Mild s (writeReply c r s) := by
  unfold writeReply; split
  · exact .of_eq rfl rfl
  · exact mild_sendReply _ _ _

theorem mild_finish (id : Nat) (a : Answer) (s : State) : Mild s (finish id a s) := by
  unfold finish; split
  · exact .refl _
  · dsimp only; split
    · exact (mild_modEng _ _).trans (mild_writeReply _ _ _)
    · exact mild_modEng _ _

theorem mild_finishAll (ids : List Nat) (a : Answer) (s : State) : Mild s (finishAll ids a s) := .foldl (fun _ _ => mild_finish _ _ _) _ _

theorem mild_dropWait (id : Nat) (s : State) : Mild s (dropWait id s) := .of_eq rfl rfl

theorem mild_raiseEv (t source time : Nat) (payload : U32) (hops : Nat) (s : State) : Mild s (raiseEv t source time payload hops s) :=
  .of_within (raiseEv_within _ _ _ _ _ (.refl _ _) rfl)

theorem mild_raise (t l payload : Nat) (s : State) : Mild s (raise t l payload s) := mild_raiseEv _ _ _ _ _ _

/-! ### Runs, readouts and the entries that end them -/

theorem mild_dropObj (k : Nat) (s : State) : Mild s (dropObj k s) := by
  unfold dropObj raiseGone
  exact .trans (.trans (mild_modHost _ rfl rfl) (mild_raiseEv _ _ _ _ _ _)) (mild_modEng _ _)

theorem mild_freeReservation (k : Nat) (s : State) : Mild s (freeReservation k s) := (mild_dropObj k s).trans (.of_eq rfl rfl)

theorem mild_endRaw (g : Nat) (s : State) : Mild s (endRaw g s) := by
  unfold endRaw; dsimp only
  split
  · exact .trans (.trans (mild_raiseEv _ _ _ _ _ _) (mild_modMv _ _)) (mild_finishAll _ _ _)
  · exact .trans (.trans (.trans (.trans (mild_raiseEv _ _ _ _ _ _) (mild_modMv _ _)) (mild_finishAll _ _ _))
      (mild_freeReservation _ _)) (mild_finish _ _ _)

theorem mild_dropJob (t : Nat) (k : JobKind) (s : State) : Mild s (dropJob t k s) := .of_within (dropJob_within _ _ (.refl _ _) rfl)

theorem mild_closeReadout (k ended : Nat) (s : State) : Mild s (closeReadout k ended s) := by
  unfold closeReadout; split
  · exact .refl _
  · next r hr =>
    dsimp only
    refine .trans (.trans ?_ (.trans (mild_dropJob _ _ _) (mild_raise _ _ _ _))) (mild_finish _ _ _)
    split
    · exact .trans (.trans (.trans (mild_modMv _ _) (mild_modFs _ _)) (mild_modMv _ _)) (mild_modHost _ rfl rfl)
    · exact .trans (.trans (.trans (.trans (mild_modMv _ _) (mild_modFs _ _)) (mild_modMv _ _)) (mild_modHost _ rfl rfl))
        (mild_raise _ _ _ _)

theorem mild_takeBuffer {s t : State} {b c : Nat} {d : Desc} (h : takeBuffer s b c = some (d, t)) : Mild s t := by
  unfold takeBuffer at h
  split at h
  · split at h
    · simp at h
    · dsimp only at h
      split at h
      · simp only [Option.some.injEq, Prod.mk.injEq] at h
        obtain ⟨-, rfl⟩ := h
        exact (mild_putQueue _ _ _).trans (mild_modQueue _ _ _)
      · simp at h
  · simp at h

theorem mild_nextReadout (k : Nat) (s : State) : Mild s (nextReadout k s) := by
  unfold nextReadout; split
  · split
    · exact .refl _
    · dsimp only
      split
      · exact (mild_modFs _ _).trans (mild_closeReadout _ _ _)
      · split
        · next hd hx => exact .trans (.trans ((mild_modFs _ _).trans (mild_takeBuffer hd)) (mild_leaveRoute _ _)) (mild_modMv _ _)
        · exact mild_modFs _ _
  · exact .refl _

theorem mild_readoutSent (k : Nat) (s : State) : Mild s (readoutSent k s) := by
  unfold readoutSent; split
  · exact .refl _
  · exact .trans (.trans (mild_modFs _ _) (mild_modMv _ _)) (mild_nextReadout _ _)

theorem mild_afterEntry (a : After) (s : State) : Mild s (afterEntry a s) := by
  cases a with
  | nothing => exact .refl _
  | queue q => exact mild_modQueue _ _ _
  | raw g => exact mild_endRaw _ _
  | readout k => exact mild_closeReadout _ _ _
  | delivered k => exact mild_readoutSent _ _

theorem mild_drainQueue (q n : Nat) (s : State) : Mild s (drainQueue q n s) := by
  induction n generalizing s with
  | zero => exact .refl _
  | succ n ih =>
    unfold drainQueue; split
    · exact .refl _
    · split
      · exact .refl _
      · split
        · split
          · exact .trans ((mild_putEntry _ _ _ _).trans (mild_modQueue _ _ _)) (ih _)
          · exact .refl _
        · split
          · split
            · exact .trans ((mild_putEntry _ _ _ _).trans (mild_modQueue _ _ _)) (ih _)
            · exact .refl _
          · split
            · exact .refl _
            · split
              · exact .trans (.trans ((mild_modQueue _ _ _).trans (mild_putEntry _ _ _ _)) (mild_afterEntry _ _)) (ih _)
              · exact .refl _

theorem mild_drain (q : Nat) (s : State) : Mild s (drain q s) := by
  unfold drain; split
  · exact .refl _
  · exact mild_drainQueue _ _ _

theorem mild_resumeQueue (p : Nat) (s : State) (q : Nat) : Mild s (resumeQueue p s q) := by
  unfold resumeQueue; split
  · exact .refl _
  · split
    · exact mild_flushQueue _ _ _
    · exact (mild_drain _ _).trans (mild_signalQueue _ _)
    · exact (mild_drain _ _).trans (mild_signalQueue _ _)
    · exact .refl _

end Sys2Proof.Machine
end

section
/-!
PROOF. Queues that end and ports whose objects are orphaned: all of it is mild.
-/
namespace Sys2Proof.Machine
open Sys2Proof

theorem mild_abortRun (g cause : Nat) (s : State) : Mild s (abortRun g cause s) := .of_within (abortRun_within _ _ (.refl _ _) rfl)
theorem mild_endReadout (k n : Nat) (s : State) : Mild s (endReadout k n s) := .of_within (endReadout_within _ _ (.refl _ _) rfl)
theorem mild_sweepFrames (g : Nat) (s : State) : Mild s (sweepFrames g s) := .of_within (sweepFrames_within _ (.refl _ _) rfl)
theorem mild_abandonFrame (g : Nat) (s : State) (seq : U64) : Mild s (abandonFrame g s seq) :=
  .of_within (abandonFrame_within _ _ (.refl _ _) rfl)
theorem mild_modChan (g : Nat) (f : Chan → Chan) (s : State) : Mild s (modChan g f s) := .of_eq rfl rfl
theorem mild_modHm (s : State) (f : HealthState → HealthState) : Mild s (modHm s f) := .of_eq rfl rfl
theorem mild_mailbox (s : State) (m : Tab Mailbox) : Mild s { s with boot := { s.boot with mailbox := m } } :=
  ⟨fun _ => rfl, rfl, rfl⟩
theorem mild_clearQueueRefs (q : Nat) (s : State) : Mild s (clearQueueRefs q s) := .of_eq rfl rfl

theorem mild_stopUsers (q : Nat) (s : State) : Mild s (stopUsers q s) := by
  unfold stopUsers; dsimp only
  refine .trans (.trans (.foldl (fun s x => ?_) _ _) (.foldl (fun s d => ?_) _ _)) (.foldl (fun s x => mild_abortRun _ _ _) _ _)
  · split
    · exact mild_closeReadout _ _ _
    · split
      · exact mild_endReadout _ _ _
      · exact .refl _
  · exact (mild_abandonFrame _ _ _).trans (mild_sweepFrames _ _)

theorem mild_releaseEntries (q : Nat) (s : State) : Mild s (releaseEntries q s) := by
  unfold releaseEntries; split
  · exact .refl _
  · refine .trans (mild_putQueue _ _ _) (.foldl (fun s e => ?_) _ _)
    split
    · exact mild_closeReadout _ _ _
    · exact mild_afterEntry _ _

theorem mild_removeQueue (q : Nat) (s : State) : Mild s (removeQueue q s) := by
  unfold removeQueue; dsimp only
  exact .trans (.trans (.trans (.trans (mild_stopUsers _ _) (mild_releaseEntries _ _)) (mild_clearQueueRefs _ _)) (mild_modMv _ _))
    (mild_dropObj _ _)

theorem mild_destroyQueue (k : Nat) (s : State) : Mild s (destroyQueue k s) := by
  unfold destroyQueue; dsimp only; split
  · exact (mild_removeQueue _ _).trans (mild_removeQueue _ _)
  · exact mild_removeQueue _ _

theorem mild_dropSkew (p : Nat) (a : Option Answer) (s : State) : Mild s (dropSkew p a s) := by
  unfold dropSkew; split
  · exact .refl _
  · dsimp only; split
    · exact .trans (t := modEv s _) (.of_eq rfl rfl) (mild_finish _ _ _)
    · exact .of_eq rfl rfl

theorem mild_dropCapture (k : Nat) (a : Option Answer) (s : State) : Mild s (dropCapture k a s) := by
  unfold dropCapture; split
  · exact .refl _
  · dsimp only; split
    · exact .trans (.of_within (modRef_within _ _ (.refl _ _) rfl)) (mild_finish _ _ _)
    · exact .trans (.of_within (modRef_within _ _ (.refl _ _) rfl)) (mild_dropWait _ _)

theorem mild_dropSample (g : Nat) (a : Option Answer) (s : State) : Mild s (dropSample g a s) := by
  unfold dropSample; split
  · exact .refl _
  · dsimp only; split
    · exact .trans (.of_within (modCodecChan_within _ _ (.refl _ _) rfl)) (mild_finish _ _ _)
    · exact .trans (.of_within (modCodecChan_within _ _ (.refl _ _) rfl)) (mild_dropWait _ _)

theorem mild_settleWait (s : State) (w : Waiting) : Mild s (settleWait s w) := by
  unfold settleWait; split
  · exact mild_dropSample _ _ _
  · exact mild_dropCapture _ _ _
  · exact .foldl (fun s x => mild_dropSkew _ _ _) _ _
  · split
    · exact mild_modEng _ _
    · exact .of_within (dropStaged_within _ _ (.refl _ _) rfl)
  · exact mild_modEng _ _

theorem mild_abortSilent (p : Nat) (s : State) : Mild s (abortSilent p s) :=
  .foldl (fun _ _ => (mild_abortRun _ _ _).trans (mild_modChan _ _ _)) _ _

theorem mild_orphanPort (p : Nat) (s : State) : Mild s (orphanPort p s) := by
  have hqueue (s : State) (k : Nat) : Mild s (if (obj? s k).isSome then destroyQueue k s else s) := by
    split
    · exact mild_destroyQueue _ _
    · exact .refl _
  unfold orphanPort; dsimp only
  refine .trans ?_ (.foldl (fun s k => .of_within (orphanOne_within _ _ _ (.refl _ _) rfl)) _ _)
  refine .trans ?_ (mild_mailbox _ _)
  refine .trans ?_ (mild_modHm _ _)
  refine .trans ?_ (mild_modEng _ _)
  refine .trans ?_ (.foldl hqueue _ _)
  exact .trans (.trans (mild_abortSilent _ _) (.foldl mild_settleWait _ _)) (mild_modEng _ _)

end Sys2Proof.Machine
end

section
/-!
PROOF. Routes, and the change of a port's connection.
-/
namespace Sys2Proof.Machine
open Sys2Proof

/-! ### The ports stand while routes are computed -/

structure PortsStand (s t : State) : Prop where
  ports : t.host.ports = s.host.ports
  losses : ∀ p, (tget {} t.host.counters p).linkLosses = (tget {} s.host.counters p).linkLosses

namespace PortsStand

theorem refl (s : State) : PortsStand s s := ⟨rfl, fun _ => rfl⟩

theorem trans {s t u : State} (h : PortsStand s t) (g : PortsStand t u) : PortsStand s u :=
  ⟨g.ports.trans h.ports, fun p => (g.losses p).trans (h.losses p)⟩

theorem of_host {s t : State} (h : t.host = s.host) : PortsStand s t := ⟨by rw [h], fun p => by rw [h]⟩

theorem of_parts {s t : State} (hp : t.host.ports = s.host.ports) (hc : t.host.counters = s.host.counters) : PortsStand s t :=
  ⟨hp, fun p => by rw [hc]⟩

theorem foldl {α : Type} {f : State → α → State} (hf : ∀ s x, PortsStand s (f s x)) (l : List α) (s : State) :
    PortsStand s (l.foldl f s) := by
  induction l generalizing s with
  | nil => exact refl s
  | cons x l ih => exact (hf s x).trans (ih _)

theorem portOf {s t : State} (h : PortsStand s t) (p : Nat) : portOf t p = Machine.portOf s p := by
  rw [Machine.portOf, Machine.portOf, h.ports]

theorem connected {s t : State} (h : PortsStand s t) (p : Nat) : connected t p = Machine.connected s p := by
  rw [Machine.connected, Machine.connected, h.portOf]

end PortsStand

theorem portsStand_modHost {f : HostState → HostState} (s : State) (hp : (f s.host).ports = s.host.ports)
    (hc : (f s.host).counters = s.host.counters) : PortsStand s (modHost s f) := .of_parts hp hc

theorem portsStand_emit (o : Out) (s : State) : PortsStand s (emit o s) := .of_host rfl

theorem portsStand_counters {f : PortCounters → PortCounters} (p : Nat) (s : State) (hf : ∀ c, (f c).linkLosses = c.linkLosses) :
    PortsStand s (modPortCounters p f s) := by
  refine ⟨rfl, fun k => ?_⟩
  by_cases hk : k = p
  · subst hk; simp [modPortCounters, hf]
  · simp [modPortCounters, tget_tput_other _ _ _ hk]

theorem portsStand_raise (t l payload : Nat) (s : State) : PortsStand s (raise t l payload s) :=
  .of_host (raise_within t l payload (.refl (allBut .host) s) rfl).keeps

theorem portsStand_readRequests (via addr n : Nat) (s : State) : PortsStand s (readRequests via addr n s) := by
  rw [readRequests_eq]; exact .of_host rfl

theorem portsStand_replaySaved (p : Nat) (mine : SavedWrite → Bool) (via : Nat) (s : State) : PortsStand s (replaySaved p mine via s) := by
  unfold replaySaved; dsimp only
  refine .trans ?_ (portsStand_counters _ _ fun _ => rfl)
  refine .trans ?_ (.foldl (fun s w => portsStand_emit _ _) _ _)
  exact portsStand_modHost _ rfl rfl

theorem portsStand_reissueSaved (p : Nat) (mine : ReqPurpose → Bool) (via : Nat) (s : State) : PortsStand s (reissueSaved p mine via s) := by
  unfold reissueSaved; dsimp only
  refine .trans ?_ (portsStand_counters _ _ fun _ => rfl)
  refine .trans ?_ (.foldl (fun s r => ?_) _ _)
  · exact portsStand_modHost _ rfl rfl
  · split
    · exact portsStand_emit _ _
    · exact portsStand_readRequests _ _ _ _

theorem portsStand_replayMoved (p t b : Nat) (s : State) : PortsStand s (replayMoved p t b s) := by
  refine .foldl (fun s c => ?_) _ _
  split
  · exact .refl _
  · exact (portsStand_replaySaved _ _ _ _).trans (portsStand_reissueSaved _ _ _ _)

theorem portsStand_unpin (p : Nat) (s : State) : PortsStand s (unpin p s) := .of_parts rfl rfl

theorem portsStand_moveRoute (p t : Nat) (away : Bool) (r : Option Nat) (s : State) : PortsStand s (moveRoute p t away r s) := by
  unfold moveRoute
  extract_lets u _q
  have hu : PortsStand s u := portsStand_modHost _ rfl rfl
  split
  · refine (hu.trans (portsStand_counters _ _ ?_)).trans (portsStand_raise _ _ _ _)
    exact fun _ => rfl
  · exact hu

theorem portsStand_rerouteOne (s : State) (x : Nat × Nat) : PortsStand s (rerouteOne s x) := by
  obtain ⟨p, t⟩ := x
  unfold rerouteOne
  dsimp only
  generalize (if serving s t = true then bestRoute s p t else none) = best
  split
  · split
    · exact (portsStand_modHost _ rfl rfl).trans (portsStand_replayMoved _ _ _ _)
    · exact portsStand_modHost _ rfl rfl
  · split
    · split
      · exact portsStand_modHost _ rfl rfl
      · exact (portsStand_moveRoute _ _ _ _ _).trans (portsStand_replayMoved _ _ _ _)
    · exact portsStand_moveRoute _ _ _ _ _
    · exact (portsStand_moveRoute _ _ _ _ _).trans (portsStand_replayMoved _ _ _ _)
    · exact .refl _

theorem portsStand_reroute (s : State) : PortsStand s (reroute s) := .foldl portsStand_rerouteOne _ _

theorem portsStand_sendPending (p v : Nat) (s : State) : PortsStand s (sendPending p v s) := by
  unfold sendPending; dsimp only
  split
  · exact .refl _
  · split
    · exact (portsStand_modHost _ rfl rfl).trans (portsStand_emit _ _)
    · exact .refl _

theorem portsStand_sendAllPending (p : Nat) (s : State) : PortsStand s (sendAllPending p s) :=
  .foldl (fun _ _ => portsStand_sendPending _ _ _) _ _

/-! ### What is saved of a port -/

theorem sendAllPending_saved (p : Nat) (s : State) :
    (sendAllPending p s).host.saved = s.host.saved ∧ (sendAllPending p s).host.savedReads = s.host.savedReads := by
  have hone (v : Nat) (s : State) : (sendPending p v s).host.saved = s.host.saved ∧ (sendPending p v s).host.savedReads = s.host.savedReads := by
    unfold sendPending; dsimp only
    split
    · exact ⟨rfl, rfl⟩
    · split <;> exact ⟨rfl, rfl⟩
  exact ⟨foldl_keeps (·.host.saved) _ _ _ fun _ _ => (hone _ _).1, foldl_keeps (·.host.savedReads) _ _ _ fun _ _ => (hone _ _).2⟩

/-- With no port connected a route has nowhere to go, and nothing saved is sent again. -/
theorem bestRoute_none {s : State} (h : ∀ c, connected s c = false) (p t : Nat) : bestRoute s p t = none := by
  have hl : ((groupPorts s p).filterMap fun q => if connected s q then (hops s t q).map fun h => (h, q) else none) = [] :=
    List.filterMap_eq_nil_iff.mpr fun q _ => by simp [h q]
  simp only [bestRoute, hl, List.foldl_nil, Option.map_none]

theorem moveRoute_saved (p t : Nat) (away : Bool) (r : Option Nat) (s : State) :
    (moveRoute p t away r s).host.saved = s.host.saved ∧ (moveRoute p t away r s).host.savedReads = s.host.savedReads := by
  have hraise (t l n : Nat) (s : State) : (raise t l n s).host = s.host := (raise_within t l n (.refl (allBut .host) s) rfl).keeps
  unfold moveRoute
  extract_lets u _q
  split
  · rw [hraise]; exact ⟨rfl, rfl⟩
  · exact ⟨rfl, rfl⟩

theorem rerouteOne_saved {s : State} (h : ∀ c, connected s c = false) (x : Nat × Nat) :
    (rerouteOne s x).host.saved = s.host.saved ∧ (rerouteOne s x).host.savedReads = s.host.savedReads := by
  obtain ⟨p, t⟩ := x
  simp only [rerouteOne, bestRoute_none h, ite_self]
  split
  · exact ⟨rfl, rfl⟩
  · split
    · next hb => simp at hb
    · exact moveRoute_saved _ _ _ _ _
    · next hb => simp at hb
    · exact ⟨rfl, rfl⟩

theorem reroute_saved {s : State} (h : ∀ c, connected s c = false) :
    (reroute s).host.saved = s.host.saved ∧ (reroute s).host.savedReads = s.host.savedReads := by
  unfold reroute
  generalize (List.range (tiles s)).flatMap (fun p => (List.range (tiles s)).map fun t => (p, t)) = l
  induction l generalizing s with
  | nil => exact ⟨rfl, rfl⟩
  | cons x l ih =>
    obtain ⟨hsaved, hreads⟩ := rerouteOne_saved h x
    obtain ⟨hs, hr⟩ := ih fun c => ((portsStand_rerouteOne s x).connected c).trans (h c)
    exact ⟨hs.trans hsaved, hr.trans hreads⟩

end Sys2Proof.Machine
end

section
/-!
PROOF. A change of a port's connection: which fields of a port it leaves.
-/
namespace Sys2Proof.Machine
open Sys2Proof

/-- A port apart from its INTA and its hold. -/
def settled (q : Port) : Port := { q with lost := false, holdDeadline := 0, holdDeadlineNs32 := 0, intaAsserted := false }

theorem settled_of_calm {q r : Port} (h : calm q = calm r) : settled q = settled r := by
  have := congrArg settled h
  exact this

theorem lost_of_calm {q r : Port} (h : calm q = calm r) : q.lost = r.lost := by
  have := congrArg Port.lost h
  exact this

theorem Mild.settled {s t : State} (h : Mild s t) (k : Nat) : settled (portOf t k) = Machine.settled (portOf s k) :=
  settled_of_calm (h.port k)

theorem PortsStand.settled {s t : State} (h : PortsStand s t) (k : Nat) :
    settled (Machine.portOf t k) = Machine.settled (Machine.portOf s k) := by
  rw [h.portOf]

/-- The state after the routes are computed for a change of port p. -/
def rerouted (p : Nat) (s : State) : State := reroute (if connected s p then s else unpin p s)

theorem portsStand_rerouted (p : Nat) (s : State) : PortsStand s (rerouted p s) := by
  unfold rerouted; split
  · exact portsStand_reroute _
  · exact (portsStand_unpin _ _).trans (portsStand_reroute _)

theorem portsStand_sendGroup (l : List Nat) (s : State) : PortsStand s (l.foldl (fun s o => sendAllPending o s) s) :=
  .foldl (fun _ _ => portsStand_sendAllPending _ _) _ _

theorem portChange_eq (p : Nat) (s : State) : portChange p s = (groupPorts (rerouted p s) p).foldl (fun s o => sendAllPending o s)
    (if connected s p then resumePort p (rerouted p s) else rerouted p s) := by
  rw [portChange, ← rerouted]
  simp only [(portsStand_rerouted p s).connected]

/-- A port that is not connected keeps every register while its routes are given up. -/
theorem portsStand_portChange {p : Nat} {s : State} (h : connected s p = false) : PortsStand s (portChange p s) := by
  rw [portChange_eq]
  simp only [h, Bool.false_eq_true, if_false]
  exact (portsStand_rerouted p s).trans (portsStand_sendGroup _ _)

/-- The hold of a port ends. -/
def endHold (p : Nat) (s : State) : State := modPort p (fun q => { q with lost := false, holdDeadline := 0, holdDeadlineNs32 := 0 }) s

/-- The master port with its bootstrap pair keeps its role. -/
def keepRole (p : Nat) (s : State) : State :=
  if s.pkg.masterPort = p ∧ (tget {} s.eng.bootBlocks p).state = 1 then { s with pkg := { s.pkg with vacancyAt := none } } else s

theorem keepRole_host (p : Nat) (s : State) : (keepRole p s).host = s.host := by unfold keepRole; split <;> rfl

/-- The port is connected again: the hold ends and what was saved of it is sent. -/
def replayAll (p : Nat) (s : State) : State :=
  reissueSaved p (fun _ => true) p (replaySaved p (fun _ => true) p (keepRole p (endHold p s)))

theorem resumePort_eq (p : Nat) (s : State) : resumePort p s = (portQueues (replayAll p s) p).foldl (resumeQueue p) (replayAll p s) := rfl

theorem mild_resumeQueues (p : Nat) (l : List Nat) (s : State) : Mild s (l.foldl (resumeQueue p) s) := .foldl (mild_resumeQueue p) _ _

theorem portOf_replayAll (p : Nat) (s : State) (k : Nat) : portOf (replayAll p s) k =
    if k = p then { portOf s p with lost := false, holdDeadline := 0, holdDeadlineNs32 := 0 } else portOf s k := by
  rw [replayAll, ((portsStand_replaySaved _ _ _ _).trans (portsStand_reissueSaved _ _ _ _)).portOf, portOf_congr (keepRole_host _ _)]
  split
  · next hk => subst hk; exact portOf_modPort_same _ _ _
  · next hk => exact portOf_modPort_other _ _ hk

theorem replayAll_saved (p : Nat) (s : State) :
    tget [] (replayAll p s).host.saved p = [] ∧ tget [] (replayAll p s).host.savedReads p = [] := by
  have hreads (l : List ReqPurpose) (u : State) : (l.foldl (fun s r =>
      let (addr, n) := requestRead s r
      if n = 0 then emit (.read p addr 0) s else readRequests p addr n s) u).host = u.host :=
    foldl_keeps (·.host) _ _ _ fun s r => by
      dsimp only; split
      · rfl
      · rw [readRequests_eq]
  have hwrites (l : List SavedWrite) (u : State) : (l.foldl (fun s w => emit (.write p w.addr w.relaxed w.bytes) s) u).host = u.host :=
    foldl_keeps (·.host) _ _ _ fun _ _ => rfl
  unfold replayAll reissueSaved replaySaved
  dsimp only
  simp [modPortCounters, hreads, hwrites]

theorem portOf_portChange_settled (p : Nat) (s : State) (k : Nat) : settled (portOf (portChange p s) k) = settled (portOf s k) := by
  rw [portChange_eq, (portsStand_sendGroup _ _).settled]
  split
  · rw [resumePort_eq, (mild_resumeQueues _ _ _).settled, portOf_replayAll, (portsStand_rerouted p s).portOf,
      (portsStand_rerouted p s).portOf]
    split
    · next hk => subst hk; rfl
    · rfl
  · exact (portsStand_rerouted p s).settled k

/-- A field that the hold and INTA are no part of stands while a port's connection changes. -/
theorem portChange_field {β : Type} {g : Port → β} (hg : ∀ q, g (settled q) = g q) (p : Nat) (s : State) (k : Nat) :
    g (portOf (portChange p s) k) = g (portOf s k) := by
  rw [← hg, portOf_portChange_settled, hg]

theorem portChange_connected {p : Nat} {s : State} (h : connected s p = true) : (portOf (portChange p s) p).lost = false
    ∧ tget [] (portChange p s).host.saved p = [] ∧ tget [] (portChange p s).host.savedReads p = [] := by
  rw [portChange_eq]
  simp only [h, if_true, resumePort_eq]
  have hsent (l : List Nat) (u : State) : (l.foldl (fun s o => sendAllPending o s) u).host.saved = u.host.saved
      ∧ (l.foldl (fun s o => sendAllPending o s) u).host.savedReads = u.host.savedReads :=
    ⟨foldl_keeps (·.host.saved) _ _ _ fun _ _ => (sendAllPending_saved _ _).1,
      foldl_keeps (·.host.savedReads) _ _ _ fun _ _ => (sendAllPending_saved _ _).2⟩
  rw [(portsStand_sendGroup _ _).portOf, (hsent _ _).1, (hsent _ _).2]
  have hm := mild_resumeQueues p (portQueues (replayAll p (rerouted p s)) p) (replayAll p (rerouted p s))
  have hlost := lost_of_calm (hm.port p)
  rw [hm.saved, hm.savedReads]
  refine ⟨?_, replayAll_saved p _⟩
  rw [portOf_replayAll, if_pos rfl] at hlost
  exact hlost

end Sys2Proof.Machine
end

section
/-!
PROOF. Settings of the host ports (O33).
-/
namespace Sys2Proof.Machine
open Sys2Proof

/-! ### COMPAT and the size of STORE -/

section
variable {p : Nat} {s : State} (hp : p < tiles s)
include hp

theorem exec_compatCommit (hc : s.boot.conf.compatEnable = true) : exec (.compatCommit p) s = .next (commitCompat p s) := by
  simp [exec, execCompatCommit, hp, hc]

theorem exec_storeResize (code : Nat) : exec (.storeResize p code) s = .next (resizeStore p code s) := by
  simp [exec, execStoreResize, hp]

end

theorem commitCompat_fits {p : Nat} {s : State} (h : ∀ n, n < 64 → compatFits s p (tget {} (portOf s p).compatStage n) = true) :
    commitCompat p s =
      modPort p (fun q => { q with refused := false, compatActive := q.compatStage, commits := q.commits + 1 }) s := by
  have hn : (List.range 64).find? (fun n => !compatFits s p (tget {} (portOf s p).compatStage n)) = none := by
    simpa [List.find?_eq_none] using h
  simp only [commitCompat, hn]

theorem commitCompat_refused {p n : Nat} {s : State} (hn : n < 64) (h : compatFits s p (tget {} (portOf s p).compatStage n) = false)
    (hb : ∀ m, m < n → compatFits s p (tget {} (portOf s p).compatStage m) = true) :
    commitCompat p s = modPort p (fun q => { q with refused := true, badIndex := n }) s := by
  have hf : (List.range 64).find? (fun n => !compatFits s p (tget {} (portOf s p).compatStage n)) = some n := by
    rw [List.find?_range_eq_some]
    exact ⟨by simp [h], by simpa using hn, fun m hm => by simp [hb m hm]⟩
  simp only [commitCompat, hf]

theorem portOf_dropMaps (p : Nat) (s : State) (k : Nat) : portOf (dropMaps p s) k = portOf s k := rfl

theorem resizeStore_same {p code : Nat} {s : State} (hm : (portOf s p).memSpace = false) (h1 : 10 ≤ code) (h2 : code ≤ 19)
    (hc : (portOf s p).barSize = code) : resizeStore p code s = s := by
  simp [resizeStore, hm, hc, between, h1, h2]

/-- A STORE region of another size has no mapping left. -/
theorem resizeStore_other {p code : Nat} {s : State} (hm : (portOf s p).memSpace = false) (h1 : 10 ≤ code) (h2 : code ≤ 19)
    (hc : (portOf s p).barSize ≠ code) :
    (portOf (resizeStore p code s) p).barSize = code ∧ ∀ m ∈ (resizeStore p code s).fs.maps, m.port ≠ p := by
  have hb : between 10 19 code = true := by simp [between, h1, h2]
  simp only [resizeStore, hm, hb, hc, Bool.not_true, Bool.or_self, Bool.false_eq_true, if_false]
  refine ⟨?_, fun m hmem => ?_⟩
  · rw [portOf_dropMaps, portOf_modPort_same]
  · simp only [dropMaps, modFs, List.mem_filter, decide_eq_true_eq] at hmem
    exact hmem.2

/-! ### Reads of STORE -/

section
variable {p off n : Nat} {s : State}

theorem exec_storeRead_served (hm : memoryServed (portOf s p) = true) (hn : off + n ≤ storeSize s p) :
    exec (.storeRead p off n) s = .next (storeRead p off n s) := by
  simp [exec, execStoreRead, hm, Nat.not_lt.mpr hn]

theorem exec_storeRead_refused (h : memoryServed (portOf s p) = false ∨ storeSize s p < off + n) :
    exec (.storeRead p off n) s = .next (if (portOf s p).dlActive then unsupportedRequest p s else s) := by
  have hc : (!memoryServed (portOf s p) || decide (storeSize s p < off + n)) = true := by
    rcases h with h | h <;> simp [h]
  cases hd : (portOf s p).dlActive <;> simp [exec, execStoreRead, hc, refuseMemory, hd]

variable (hmaps : ∀ m ∈ s.fs.maps, m.port ≠ p)
include hmaps

theorem portMaps_nil : portMaps s p = [] := by
  simpa [portMaps, List.filter_eq_nil_iff] using hmaps

/-- A read that no mapping covers is counted and answered with zeros. -/
theorem storeRead_unmapped (hn : 0 < n) : storeRead p off n s = (aligned 128 off (zeros n)).foldl (fun s x => emit (.readData p x.2) s)
    { s with fs := { s.fs with unmapped := tmod 0 s.fs.unmapped p (· + 1) } } := by
  have hat (a : Nat) : mappingAt s p a = none := by simp [mappingAt, portMaps_nil hmaps]
  have hbytes : storeBytes s p off n = zeros n := by
    simp only [storeBytes, hat]
    exact List.map_const'.trans (congrArg (List.replicate · 0) List.length_range)
  have hcovered : (List.range n).filterMap (fun i => mappingAt s p (off + i)) = [] := by simp [hat]
  simp only [storeRead, hcovered, hbytes, portMaps_nil hmaps, List.length_nil, hn, if_true, List.flatMap_nil, List.foldl_nil]
  rfl

end

/-! ### Configuration requests -/

section
variable {p : Nat} {s : State}

theorem exec_configRequest {off : Nat} {w : Option Dw} (hp : p < tiles s) (hd : (portOf s p).dlActive = true) (ho : off < 4096)
    (hr : cfgReady s p = true) : exec (.configRequest p off w) s = .next (match w with
      | some v => writeCfgBytes p (off / 4 * 4) v.value v.be s
      | none => readCfg p (off / 4 * 4) s) := by
  simp [exec, execConfigRequest, hp, hd, Nat.not_le.mpr ho, hr] <;> rfl

theorem exec_configRequest_retry {off : Nat} {w : Option Dw} (hp : p < tiles s) (hd : (portOf s p).dlActive = true) (ho : off < 4096)
    (hr : cfgReady s p = false) : exec (.configRequest p off w) s = .next (emit (.retry p) s) := by
  simp [exec, execConfigRequest, hp, hd, Nat.not_le.mpr ho, hr]

theorem readCfg_id (p : Nat) (s : State) : readCfg p 0 s = emit (.completion p (0xD5E7 + 65536 * partDevice s.part)) s := by
  simp [readCfg, cfgValue, headerReg, plainCfg, cfgMask, stickyMask]

/-- A write of a whole double word is the value that is written. -/
theorem writeCfgBytes_whole (p off : Nat) (v : U32) (s : State) : writeCfgBytes p off v 15 s = writeCfg p off v s := by
  have hm : enabledBits 15 = BitVec.allOnes 32 := by decide
  rw [writeCfgBytes, if_neg (by decide), hm]
  dsimp only
  rw [BitVec.and_allOnes, BitVec.not_allOnes, BitVec.and_zero, BitVec.zero_and, BitVec.or_zero]

/-- The bits of a port that its Command register holds. -/
def commandBits (q : Port) : Bool × Bool × Bool := (q.memSpace, q.busMaster, q.intDisable)

theorem commandBits_settled (q : Port) : commandBits (settled q) = commandBits q := rfl

theorem commandBits_deassertInta (p : Nat) (s : State) : commandBits (portOf (deassertInta p s) p) = commandBits (portOf s p) := by
  unfold deassertInta; split
  · rw [portOf_emit, portOf_modPort_same]; rfl
  · rfl

theorem commandBits_afterLinkBits (p : Nat) (old s : State) :
    commandBits (portOf (afterLinkBits p old s) p) = commandBits (portOf s p) := by
  unfold afterLinkBits; split
  · rfl
  · exact portChange_field commandBits_settled _ _ _

theorem writeCommand_bits (p v : Nat) (s : State) : commandBits (portOf (writeCommand p v s) p) = (bit v 1, bit v 2, bit v 10) := by
  unfold writeCommand; dsimp only
  rw [commandBits_afterLinkBits]
  split
  · rw [commandBits_deassertInta, portOf_modPort_same]; rfl
  · rw [portOf_modPort_same]; rfl

end

/-! ### Vectors and INTx -/

theorem serving_congr {s t : State} (hp : t.part = s.part) (hk : t.pkg = s.pkg) : serving t = serving s := by
  funext u; unfold serving service tiles; rw [hp, hk]

theorem linkOk_congr {s t : State} (hp : t.part = s.part) (hk : t.pkg = s.pkg) : linkOk t = linkOk s := by
  funext l; unfold linkOk tiles; rw [hp, hk]

section
variable {s t : State} (hp : t.part = s.part) (hk : t.pkg = s.pkg)
include hp hk

theorem hopsUp_congr (b n a : Nat) : hopsUp t b n a = hopsUp s b n a := by
  induction n generalizing a with
  | zero => rfl
  | succ n ih => simp only [hopsUp, ih, serving_congr hp hk, linkOk_congr hp hk, tiles_congr hp]

theorem hopsDown_congr (b n a : Nat) : hopsDown t b n a = hopsDown s b n a := by
  induction n generalizing a with
  | zero => rfl
  | succ n ih => simp only [hopsDown, ih, serving_congr hp hk, linkOk_congr hp hk, tiles_congr hp]

end

/-- The best route depends on the fabric, the groups and the ports that are connected. -/
theorem bestRoute_congr {s t : State} (hp : t.part = s.part) (hk : t.pkg = s.pkg) (hc : t.boot.conf = s.boot.conf)
    (hh : t.host.ports = s.host.ports) (p u : Nat) : bestRoute t p u = bestRoute s p u := by
  have hops_eq (a b : Nat) : hops t a b = hops s a b := by simp only [hops, hopsUp_congr hp hk, hopsDown_congr hp hk]
  have hconnected (q : Nat) : connected t q = connected s q := by simp only [connected, portOf, hh]
  have hgroup : groupPorts t p = groupPorts s p := by simp only [groupPorts, groupMask, tiles, hp, hc]
  simp only [bestRoute, hops_eq, hconnected, hgroup]

/-- The state with a vector's mask cleared. -/
def unmasked (p v : Nat) (s : State) : State :=
  modHost s fun h => { h with vectors := tmod {} h.vectors (p * 2048 + v) fun x => { x with masked := false } }

theorem unmasked_vector (p v : Nat) (s : State) : tget {} (unmasked p v s).host.vectors (p * 2048 + v) =
    { tget {} s.host.vectors (p * 2048 + v) with masked := false } := by
  simp [unmasked]

theorem exec_msixUnmask {p v : Nat} {s : State} (hp : p < tiles s) (hv : v < 2048) :
    exec (.msixUnmask p v) s = .next (sendPending p v (unmasked p v s)) := by
  simp [exec, execMsixUnmask, hp, hv, unmaskVector, unmasked]

theorem sendPending_nowhere {p v : Nat} {s : State} (hc : connected s (tget {} s.host.vectors (p * 2048 + v)).via = false)
    (hb : bestRoute s p p = none) : sendPending p v s = s := by
  simp [sendPending, hc, hb]

theorem sendPending_notPending {p v : Nat} {s : State} (h : (tget {} s.host.vectors (p * 2048 + v)).pending = false) :
    sendPending p v s = s := by
  simp only [sendPending, h, Bool.false_and, Bool.false_eq_true, if_false]
  split <;> rfl

theorem deassertInta_inta (p : Nat) (s : State) : (portOf (deassertInta p s) p).intaAsserted = false := by
  unfold deassertInta; split
  · rw [portOf_emit, portOf_modPort_same]
  · next h => exact Bool.eq_false_iff.mpr h

theorem deassertInta_intx (p : Nat) (s : State) : (deassertInta p s).host.intx = s.host.intx := by
  unfold deassertInta; split <;> rfl

theorem deassertInta_idle {p : Nat} {s : State} (h : (portOf s p).intaAsserted = false) : deassertInta p s = s := by
  simp [deassertInta, h]

/-- Settles O33: each clause by what the request is read as. -/
theorem hostSettingsTakeEffect : Obligations.HostSettingsTakeEffect := by
  refine ⟨?commit, ?refused, ?resize, ?resizeOn, ?readUnmapped, ?readRefused, ?cfgId, ?cfgRetry, ?cfgCommand, ?cfgNothing, ?unmask,
    ?unmaskHeld, ?unmaskIdle, ?intx⟩
  case commit =>
    intro p s hp hc h
    exact runs_next (exec_compatCommit hp hc) (by rw [commitCompat_fits h, portOf_modPort_same])
  case refused =>
    intro p n s hp hc hn h hb
    exact runs_next (exec_compatCommit hp hc) (by rw [commitCompat_refused hn h hb, portOf_modPort_same])
  case resize =>
    intro p code s hp hm h1 h2
    refine runs_next (exec_storeResize hp code) ?_
    by_cases hc : (portOf s p).barSize = code
    · rw [resizeStore_same hm h1 h2 hc]
      exact ⟨hc, fun h => absurd hc h, fun _ => rfl⟩
    · obtain ⟨hsize, hmaps⟩ := resizeStore_other hm h1 h2 hc
      exact ⟨hsize, fun _ => hmaps, fun h => absurd h hc⟩
  case resizeOn =>
    intro p code s hp hm
    exact runs_next (exec_storeResize hp code) (by simp [resizeStore, hm])
  case readUnmapped =>
    intro p off n s hm hn hpos hmaps
    exact runs_next (exec_storeRead_served hm hn) (storeRead_unmapped hmaps hpos)
  case readRefused => exact fun p off n s h => runs_next (exec_storeRead_refused h) rfl
  case cfgId =>
    intro p s hp hd hr
    exact runs_next (exec_configRequest hp hd (by decide) hr) (readCfg_id p s)
  case cfgRetry =>
    intro p off w s hp ho hd hr
    exact runs_next (exec_configRequest_retry hp hd ho hr) rfl
  case cfgCommand =>
    intro p v s hp hd hr
    refine runs_next (exec_configRequest hp hd (by decide) hr) ?_
    have hbits := writeCommand_bits p v.toNat (writePlain p 4 v s)
    simp only [commandBits, Prod.mk.injEq] at hbits
    dsimp only
    rw [writeCfgBytes_whole]
    exact hbits
  case cfgNothing =>
    intro p off v s hp hr
    by_cases hd : (portOf s p).dlActive = true ∧ off < 4096
    · exact runs_next (exec_configRequest hp hd.1 hd.2 hr) (by simp [writeCfgBytes])
    · refine runs_next (t := s) ?_ rfl
      by_cases hactive : (portOf s p).dlActive = true
      · have hoff : 4096 ≤ off := Nat.not_lt.mp fun hlt => hd ⟨hactive, hlt⟩
        simp [exec, execConfigRequest, hoff]
      · simp [exec, execConfigRequest, hactive]
  case unmask =>
    intro p v s hp hv hen hmask hpend hc
    refine runs_next (exec_msixUnmask hp hv) ?_
    have hport : portOf (unmasked p v s) p = portOf s p := rfl
    have hvia : connected (unmasked p v s) (tget {} s.host.vectors (p * 2048 + v)).via = true := hc
    simp only [sendPending, unmasked_vector, hvia, hport, hen, hmask, hpend, if_true, Bool.not_false, Bool.and_self]
    refine ⟨rfl, ?_⟩
    simp [emit]
  case unmaskHeld =>
    intro p v s hp hv hc hb
    refine runs_next (exec_msixUnmask hp hv) ?_
    have hvia : connected (unmasked p v s) (tget {} (unmasked p v s).host.vectors (p * 2048 + v)).via = false := by
      rw [unmasked_vector]; exact hc
    rw [sendPending_nowhere hvia ((bestRoute_congr (s := s) (t := unmasked p v s) rfl rfl rfl rfl p p).trans hb)]
    exact ⟨rfl, unmasked_vector p v s⟩
  case unmaskIdle =>
    intro p v s hp hv hpend
    refine runs_next (exec_msixUnmask hp hv) ?_
    rw [sendPending_notPending (by rw [unmasked_vector]; exact hpend)]
    exact ⟨rfl, unmasked_vector p v s⟩
  case intx =>
    intro p r v s hp hr
    refine runs_next (t := clearIntx p r v s) (by simp [exec, execIntxStatusClear, hp, hr]) ?_
    unfold clearIntx
    extract_lets u
    have hu : tget 0 u.host.intx (p * 64 + r) = tget 0 s.host.intx (p * 64 + r) &&& ~~~v := by simp [u]
    split
    · next hpend => exact ⟨hu, fun h => absurd hpend (by simp [h]), fun _ => rfl⟩
    · refine ⟨by rw [deassertInta_intx, hu], fun _ => deassertInta_inta p u, fun hi => ?_⟩
      rw [deassertInta_idle (s := u) hi]; rfl

end Sys2Proof.Machine
end

section
/-!
PROOF. Links of host ports: training, loss and hold, resets and routes (O34).
-/
namespace Sys2Proof.Machine
open Sys2Proof

/-! ### Fields of a port through resets of its configuration -/

theorem portOf_modHost {f : HostState → HostState} {s : State} (k : Nat) (h : (f s.host).ports = s.host.ports) :
    portOf (modHost s f) k = portOf s k := by simp [portOf, h]

theorem raise_host (t l n : Nat) (s : State) : (raise t l n s).host = s.host := (raise_within t l n (.refl (allBut .host) s) rfl).keeps
theorem raise_eng (t l n : Nat) (s : State) : (raise t l n s).eng = s.eng :=
  (raise_within t l n (.refl (allBut .eng) s) rfl).keeps (c := .eng)
theorem raise_out (t l n : Nat) (s : State) : (raise t l n s).out = s.out :=
  (raise_within t l n (.refl (allBut .out) s) rfl).keeps (c := .out)

@[simp] theorem portOf_raise (t l n : Nat) (s : State) (k : Nat) : portOf (raise t l n s) k = portOf s k := portOf_congr (raise_host t l n s) k

theorem startVacancy_host (p : Nat) (s : State) : (startVacancy p s).host = s.host := by unfold startVacancy; split <;> rfl
theorem startVacancy_eng (p : Nat) (s : State) : (startVacancy p s).eng = s.eng := by unfold startVacancy; split <;> rfl
theorem startVacancy_boot (p : Nat) (s : State) : (startVacancy p s).boot = s.boot := by unfold startVacancy; split <;> rfl

/-- The registers of a port that Table 11-10 resets, as `resetConfig` leaves them. -/
def configReset (sticky : Bool) (conf : BootConf) (q : Port) : Port :=
  let fresh : Port := {}
  let q := { q with
    d3hot := false, busMaster := false, memSpace := false, intDisable := false, msixEnable := false, functionMask := false
    relaxedEnable := true, cplTimeoutValue := 0, barSize := conf.storeCode, compatStage := conf.compat, compatActive := conf.compat
    badIndex := 0, refused := false, commits := 0, intaAsserted := false, otherRw := [], devErrors := 0, cfgErrors := 0
    ptm := { q.ptm with enabled := false, busy := false } }
  if sticky then { q with
    aerCor := 0, aerUncor := 0, aerCorMask := fresh.aerCorMask, aerUncorMask := fresh.aerUncorMask, aerSeverity := fresh.aerSeverity
    aerFirst := none, aerHeader := [], aerFlit := false, otherCfg := [] }
  else q

section
variable (sticky : Bool) (conf : BootConf) (q : Port)

@[simp] theorem configReset_dlActive : (configReset sticky conf q).dlActive = q.dlActive := by cases sticky <;> rfl
@[simp] theorem configReset_lost : (configReset sticky conf q).lost = q.lost := by cases sticky <;> rfl
@[simp] theorem configReset_holdDeadline : (configReset sticky conf q).holdDeadline = q.holdDeadline := by cases sticky <;> rfl
@[simp] theorem configReset_flrSince : (configReset sticky conf q).flrSince = q.flrSince := by cases sticky <;> rfl
@[simp] theorem configReset_busMaster : (configReset sticky conf q).busMaster = false := by cases sticky <;> rfl
@[simp] theorem configReset_memSpace : (configReset sticky conf q).memSpace = false := by cases sticky <;> rfl
@[simp] theorem configReset_barSize : (configReset sticky conf q).barSize = conf.storeCode := by cases sticky <;> rfl
@[simp] theorem configReset_aerCor : (configReset sticky conf q).aerCor = if sticky then 0 else q.aerCor := by cases sticky <;> rfl
@[simp] theorem configReset_aerUncor : (configReset sticky conf q).aerUncor = if sticky then 0 else q.aerUncor := by cases sticky <;> rfl

end

theorem portOf_resetConfig (p : Nat) (sticky : Bool) (s : State) :
    portOf (resetConfig p sticky s) p = configReset sticky s.boot.conf (portOf s p) := by
  unfold resetConfig
  extract_lets fresh boot code u v
  have hv : portOf (dropMaps p v) p = portOf u p := rfl
  rw [hv, portOf_modPort_same]
  rfl

theorem portOf_resetConfig_other {p c : Nat} (sticky : Bool) (s : State) (h : c ≠ p) : portOf (resetConfig p sticky s) c = portOf s c := by
  unfold resetConfig
  extract_lets fresh boot code u v
  have hv : portOf (dropMaps p v) c = portOf u c := rfl
  rw [hv, portOf_modPort_other _ _ h]

theorem connectedPort_down {q : Port} (h : q.dlActive = false) : connectedPort q = false := by simp [connectedPort, h]

theorem resetConfig_clock (p : Nat) (sticky : Bool) (s : State) : (resetConfig p sticky s).clock = s.clock := rfl
theorem resetConfig_eng (p : Nat) (sticky : Bool) (s : State) : (resetConfig p sticky s).eng = s.eng := rfl

/-! ### Link up and link loss -/

/-- What training sets of a port. -/
def linkFields (q : Port) : Bool × Bool × Nat × Nat := (q.dlActive, q.flit, q.rate, q.width)

section
variable {p rate width : Nat} {flit : Bool} {s : State}

theorem exec_portLinkUp (hp : p < tiles s) (hs : serving s p = true) (hm : 3 ≤ modeCode s.pkg.mode) (hd : (portOf s p).dlActive = false)
    (h1 : 1 ≤ rate) (h6 : rate ≤ 6) (hw : width ∈ [1, 4, 8, 16]) (hf : rate = 6 → flit = true) :
    exec (.portLinkUp p flit rate width) s = .next (portChange p (raise p 89 (rate + 2 ^ 4 * width + 2 ^ 9 * b2n flit)
      (modPort p (fun q => { q with dlActive := true, flit := flit, rate := rate, width := width }) s))) := by
  have hflit : (rate == 6 && !flit) = false := by
    by_cases h : rate = 6
    · simp [hf h]
    · simp [h]
  have hrate : between 1 6 rate = true := by simp [between, h1, h6]
  simp only [exec, execPortLinkUp, hp, hs, hd, hrate, hflit, List.contains_iff_mem.mpr hw, Nat.not_lt.mpr hm, decide_true, decide_false,
    Bool.not_true, Bool.or_self, Bool.false_eq_true, if_false]

end

/-- The state of a port whose link is lost, before the routes are computed again. -/
def unlinked (p : Nat) (saved : List SavedWrite) (s : State) : State :=
  let reads := requestsOut s p
  let at_ := s.clock + s.eng.orphanGraceMs * ms
  let s := modPort p (fun q => { q with
    dlActive := false, flit := false, rate := 0, width := 0, lost := true, downNs32 := ns32 s
    holdDeadline := if q.lost then q.holdDeadline else at_
    holdDeadlineNs32 := if q.lost then q.holdDeadlineNs32 else ns32Of (ns s + s.eng.orphanGraceMs * ms) }) s
  let s := modPortCounters p (fun c => { c with linkLosses := c.linkLosses + 1 }) s
  let s := modHost s fun h => { h with
    saved := tput h.saved p (within128k 131072 (tget [] h.saved p ++ saved)), savedReads := tput h.savedReads p (tget [] h.savedReads p ++ reads) }
  startVacancy p (raise p 90 1 (resetConfig p false s))

theorem linkLoss_up {p : Nat} {saved : List SavedWrite} {s : State} (h : (portOf s p).dlActive = true) :
    linkLoss p saved s = portChange p (unlinked p saved s) := by
  simp only [linkLoss, h, Bool.not_true, Bool.false_eq_true, if_false]; rfl

theorem linkLoss_down {p : Nat} {saved : List SavedWrite} {s : State} (h : (portOf s p).dlActive = false) : linkLoss p saved s = s := by
  simp [linkLoss, h]

section
variable (p : Nat) (saved : List SavedWrite) (s : State)

theorem portOf_unlinked : portOf (unlinked p saved s) p = configReset false s.boot.conf { portOf s p with
    dlActive := false, flit := false, rate := 0, width := 0, lost := true, downNs32 := ns32 s
    holdDeadline := if (portOf s p).lost then (portOf s p).holdDeadline else s.clock + s.eng.orphanGraceMs * ms
    holdDeadlineNs32 := if (portOf s p).lost then (portOf s p).holdDeadlineNs32 else ns32Of (ns s + s.eng.orphanGraceMs * ms) } := by
  unfold unlinked
  extract_lets reads at_ u v w
  rw [portOf_congr (startVacancy_host _ _), portOf_raise, portOf_resetConfig]
  have hw : portOf w p = portOf u p := rfl
  rw [hw, portOf_modPort_same]
  rfl

theorem portOf_unlinked_other {c : Nat} (h : c ≠ p) : portOf (unlinked p saved s) c = portOf s c := by
  unfold unlinked
  extract_lets reads at_ u v w
  rw [portOf_congr (startVacancy_host _ _), portOf_raise]
  have hw : portOf w c = portOf u c := rfl
  rw [portOf_resetConfig_other _ _ h, hw, portOf_modPort_other _ _ h]

theorem unlinked_host : (unlinked p saved s).host.counters = tput s.host.counters p
      { tget {} s.host.counters p with linkLosses := (tget {} s.host.counters p).linkLosses + 1 }
    ∧ (unlinked p saved s).host.saved = tput s.host.saved p (within128k 131072 (tget [] s.host.saved p ++ saved))
    ∧ (unlinked p saved s).host.savedReads = tput s.host.savedReads p (tget [] s.host.savedReads p ++ requestsOut s p) := by
  unfold unlinked
  extract_lets reads at_ u v w
  rw [startVacancy_host, raise_host]
  exact ⟨rfl, rfl, rfl⟩

theorem unlinked_eng : (unlinked p saved s).eng = s.eng := by
  unfold unlinked
  extract_lets reads at_ u v w
  rw [startVacancy_eng, raise_eng, resetConfig_eng]
  simp only [w, v, u, modPort, modPortCounters, modHost_eng]

theorem unlinked_notConnected : connected (unlinked p saved s) p = false := by
  rw [connected, portOf_unlinked]
  exact connectedPort_down (configReset_dlActive _ _ _)

end

/-- What a port that is not connected leaves of the engine and of what is saved. -/
theorem portChange_eng {p : Nat} {s : State} (h : connected s p = false) : (portChange p s).eng = s.eng := by
  have hsend (s : State) (o : Nat) : (sendAllPending o s).eng = s.eng :=
    (sendAllPending_within o (.refl (allBut .eng) s) rfl).keeps (c := .eng)
  have hroute (s : State) : (reroute s).eng = s.eng := (reroute_within (.refl (allBut .eng) s) rfl).keeps (c := .eng)
  rw [portChange_eq]
  simp only [h, Bool.false_eq_true, if_false]
  rw [foldl_keeps (·.eng) _ _ _ fun _ _ => hsend _ _, rerouted]
  simp only [h, Bool.false_eq_true, if_false]
  exact hroute _

theorem portChange_saved {p : Nat} {s : State} (h : ∀ c, connected s c = false) :
    (portChange p s).host.saved = s.host.saved ∧ (portChange p s).host.savedReads = s.host.savedReads := by
  have hroute := reroute_saved (s := unpin p s) fun c => ((portsStand_unpin p s).connected c).trans (h c)
  rw [portChange_eq]
  simp only [rerouted, h, Bool.false_eq_true, if_false]
  rw [foldl_keeps (·.host.saved) _ _ _ fun _ _ => (sendAllPending_saved _ _).1,
    foldl_keeps (·.host.savedReads) _ _ _ fun _ _ => (sendAllPending_saved _ _).2]
  exact hroute

theorem endHold_saved (p : Nat) (s : State) : (endHold p s).host.saved = s.host.saved := rfl

theorem exec_holdDeadline {p : Nat} {s : State} (hl : (portOf s p).lost = true) (hd : (portOf s p).holdDeadline ≤ s.clock)
    (hc : connected s p = false) : exec (.holdDeadline p) s = .next (modHost (endHold p (orphanPort p s)) fun h => { h with
      saved := tdel h.saved p, savedReads := tdel h.savedReads p }) := by
  simp [exec, execHoldDeadline, hl, hd, hc, endHold]

/-! ### Resets -/

/-- A port whose objects are orphaned and whose role may run out, before its configuration is reset. -/
theorem portOf_orphaned (p : Nat) (s : State) : calm (portOf (startVacancy p (orphanPort p s)) p) = calm (portOf s p) := by
  rw [portOf_congr (startVacancy_host _ _)]
  exact (mild_orphanPort p s).port p

/-- The state of a reset port, before its links and routes. -/
def cleared (p : Nat) (sticky : Bool) (s : State) : State :=
  let s := resetConfig p sticky (startVacancy p (orphanPort p s))
  let s := modHost s fun h => { h with
    saved := tdel h.saved p, savedReads := tdel h.savedReads p, stagedLo := h.stagedLo.filter fun x => decide (x.1 / 2 ^ 27 ≠ p) }
  modPort p (fun q => { q with lost := false, holdDeadline := 0, holdDeadlineNs32 := 0 }) s

theorem portOf_cleared (p : Nat) (sticky : Bool) (s : State) : ∃ q, calm q = calm (portOf s p) ∧ portOf (cleared p sticky s) p =
    { configReset sticky s.boot.conf q with lost := false, holdDeadline := 0, holdDeadlineNs32 := 0 } := by
  refine ⟨portOf (startVacancy p (orphanPort p s)) p, portOf_orphaned p s, ?_⟩
  have hconf : (startVacancy p (orphanPort p s)).boot.conf = s.boot.conf := by
    rw [startVacancy_boot]; exact (mild_orphanPort p s).conf
  unfold cleared
  dsimp only
  rw [portOf_modPort_same, portOf_modHost _ rfl, portOf_resetConfig, hconf]

/-- A port without its link. -/
def linkless (q : Port) : Port := { q with dlActive := false, flit := false, rate := 0, width := 0, flrSince := none }

theorem resetPort_link {p kind : Nat} {s : State} (h : kind < 2) : ∃ u : State, portOf u p = linkless (portOf (cleared p true s) p)
    ∧ resetPort p kind s = portChange p u := by
  have hk : kind ≠ 2 := by omega
  simp only [resetPort, h, hk, decide_true, if_false]
  split
  · exact ⟨_, by rw [portOf_raise, portOf_raise, portOf_modPort_same]; rfl, rfl⟩
  · exact ⟨_, by rw [portOf_raise, portOf_modPort_same]; rfl, rfl⟩

theorem resetPort_function (p : Nat) (s : State) : resetPort p 2 s =
    portChange p (raise p 93 2 (modPort p (fun q => { q with flrSince := some (cleared p false s).clock }) (cleared p false s))) := by
  simp only [resetPort, Nat.lt_irrefl, decide_false, if_true]; rfl

theorem cleared_clock (p : Nat) (sticky : Bool) (s : State) : (cleared p sticky s).clock = s.clock := by
  have h := (startVacancy_within p (orphanPort_within p (.refl (.fuse :: everyPart) s) rfl) rfl).clock
  simp only [cleared, modPort, modHost_clock, resetConfig_clock, h]

/-- The registers that a fundamental or hot reset sets. -/
def resetFields (q : Port) : Bool × Bool × U32 × U32 × Nat := (q.dlActive, q.busMaster, q.aerCor, q.aerUncor, q.barSize)

/-- The registers that a function-level reset is about. -/
def functionFields (q : Port) : Bool × Option Nat × Bool × U32 × U32 := (q.dlActive, q.flrSince, q.busMaster, q.aerCor, q.aerUncor)

theorem functionFields_of_calm {q r : Port} (h : calm q = calm r) : functionFields q = functionFields r := by
  have := congrArg functionFields h
  exact this

/-- A reset with the link: kind 0 and 1. -/
theorem resetPort_fields {p kind : Nat} {s : State} (h : kind < 2) : resetFields (portOf (resetPort p kind s) p) =
    (false, false, 0, 0, s.boot.conf.storeCode) ∧ (portOf (resetPort p kind s) p).lost = false := by
  obtain ⟨u, hu, he⟩ := resetPort_link (p := p) (s := s) h
  obtain ⟨q, -, hq⟩ := portOf_cleared p true s
  have hdown : connected u p = false := by rw [connected, hu]; exact connectedPort_down rfl
  rw [he, (portsStand_portChange hdown).portOf, hu, hq]
  simp [resetFields, linkless]

/-! ### A route that moves -/

/-- Where a producer writes once its route has moved. -/
def pinOne (old q : Nat) (b : Tab Nat) (k : Nat) : Tab Nat :=
  match tget? b k with
  | some o => if o = q then tdel b k else b
  | none => tput b k old

theorem pin_behind (p t old q : Nat) (s : State) : (pin p t old q s).host.behind = (producersOf s p t).foldl (pinOne old q) s.host.behind := rfl

theorem pinOne_other {old q k j : Nat} (b : Tab Nat) (h : k ≠ j) : tget? (pinOne old q b j) k = tget? b k := by
  unfold pinOne; split
  · split
    · exact tget?_tdel_other _ h
    · rfl
  · exact tget?_tput_other _ _ h

theorem pinOne_pinned {old q k : Nat} {b : Tab Nat} (ho : old ≠ q) (h : tget? b k = none ∨ tget? b k = some old) :
    tget? (pinOne old q b k) k = some old := by
  rcases h with h | h <;> simp [pinOne, h, ho]

/-- A producer that is at no earlier port is pinned to the old one, however often it is listed. -/
theorem foldl_pinOne {old q k : Nat} (ho : old ≠ q) (l : List Nat) (b : Tab Nat)
    (h : (k ∈ l ∧ tget? b k = none) ∨ tget? b k = some old) : tget? (l.foldl (pinOne old q) b) k = some old := by
  induction l generalizing b with
  | nil => simpa using h
  | cons j l ih =>
    refine ih _ ?_
    by_cases hj : k = j
    · subst hj
      exact .inr (pinOne_pinned ho (h.imp (·.2) id))
    · rw [pinOne_other b hj]
      simpa [hj] using h

theorem moveRoute_host (p t : Nat) (away : Bool) (r : Nat) (s : State) : routeOf (moveRoute p t away (some r) s) p t = r
    ∧ (moveRoute p t away (some r) s).host.behind = s.host.behind ∧ (moveRoute p t away (some r) s).out = s.out := by
  unfold moveRoute
  extract_lets u q
  have hr : routeOf u p t = r := by simp [u, routeOf]
  split
  · simp only [routeOf, raise_host, raise_out]
    exact ⟨hr, rfl, rfl⟩
  · exact ⟨hr, rfl, rfl⟩

theorem leaveRoute_behind {k o : Nat} {s : State} (h : tget? s.host.behind k = some o) : (leaveRoute k s).out = s.out ++ [.read o 0 0] := by
  simp [leaveRoute, h, emit]

/-- Settles O34: link, hold, resets and routes, each by what it leaves of the port. -/
theorem hostLinksFailAndReturn : Obligations.HostLinksFailAndReturn := by
  refine ⟨?up, ?down, ?downSaved, ?downAgain, ?apart, ?back, ?expired, ?early, ?perst, ?hot, ?function, ?flrDone, ?route⟩
  case up =>
    intro p flit rate width s hp hs hm hd h1 h6 hw hf
    refine runs_next (exec_portLinkUp hp hs hm hd h1 h6 hw hf) ?_
    have h := portChange_field (g := linkFields) (fun _ => rfl) p (raise p 89 (rate + 2 ^ 4 * width + 2 ^ 9 * b2n flit)
      (modPort p (fun q => { q with dlActive := true, flit := flit, rate := rate, width := width }) s)) p
    rw [portOf_raise, portOf_modPort_same] at h
    simpa only [linkFields, Prod.mk.injEq] using h
  case down =>
    intro p saved s hp hd
    refine runs_next (t := portChange p (unlinked p saved s)) (by simp only [exec, execPortLinkDown, linkLoss_up hd]) ?_
    have hstand := portsStand_portChange (unlinked_notConnected p saved s)
    rw [hstand.portOf, hstand.losses, portChange_eng (unlinked_notConnected p saved s), unlinked_eng, portOf_unlinked,
      (unlinked_host p saved s).1, tget_tput_same]
    simp
  case downSaved =>
    intro p saved s hp hd hc
    refine runs_next (t := portChange p (unlinked p saved s)) (by simp only [exec, execPortLinkDown, linkLoss_up hd]) ?_
    have hnone (c : Nat) : connected (unlinked p saved s) c = false := by
      by_cases h : c = p
      · subst h; exact unlinked_notConnected _ _ _
      · rw [connected, portOf_unlinked_other _ _ _ h]; exact hc c h
    obtain ⟨-, hsaved, hreads⟩ := unlinked_host p saved s
    rw [(portChange_saved hnone).1, (portChange_saved hnone).2, hsaved, hreads, tget_tput_same, tget_tput_same]
    exact ⟨rfl, rfl⟩
  case downAgain => exact fun p saved s hd => runs_next rfl (linkLoss_down hd)
  case apart =>
    intro p s hp hc
    refine runs_next (t := portChange p s) (by simp only [exec, execPortConnectedChange, hp, if_true]) ⟨portChange_eng hc, ?_⟩
    rw [portChange_eq]
    simp only [rerouted, hc, Bool.false_eq_true, if_false]
  case back =>
    exact fun p s hp hc => runs_next (t := portChange p s) (by simp only [exec, execPortConnectedChange, hp, if_true]) (portChange_connected hc)
  case expired =>
    intro p s hl hd hc hsorted
    refine runs_next (exec_holdDeadline hl hd hc) ⟨?_, ?_⟩
    · rw [portOf_modHost _ rfl, endHold, portOf_modPort_same]
    · have hsaved : (endHold p (orphanPort p s)).host.saved = s.host.saved :=
        (endHold_saved p _).trans (mild_orphanPort p s).saved
      rw [modHost_host, hsaved]
      exact tget?_tdel_same _ _ hsorted
  case early => exact fun p s h => runs_next (t := s) (by simp [exec, execHoldDeadline, Nat.not_le.mpr h]) rfl
  case perst =>
    intro p s hp
    refine runs_next (t := resetPort p 0 s) (by simp only [exec, execPerst, hp, if_true]) ?_
    obtain ⟨hf, hl⟩ := resetPort_fields (p := p) (s := s) (kind := 0) (by decide)
    simp only [resetFields, Prod.mk.injEq] at hf
    obtain ⟨hd, hb, hcor, huncor, hsize⟩ := hf
    exact ⟨hd, hb, hl, hcor, huncor, hsize⟩
  case hot =>
    intro p s hp
    refine runs_next (t := resetPort p 1 s) (by simp only [exec, execHotReset, hp, if_true]) ?_
    obtain ⟨hf, hl⟩ := resetPort_fields (p := p) (s := s) (kind := 1) (by decide)
    simp only [resetFields, Prod.mk.injEq] at hf
    obtain ⟨hd, hb, hcor, huncor, hsize⟩ := hf
    exact ⟨hd, hb, hl, hcor, huncor, hsize⟩
  case function =>
    intro p s hp
    refine runs_next (t := resetPort p 2 s) (by simp only [exec, execFunctionLevelReset, hp, if_true]) ?_
    obtain ⟨q, hcalm, hq⟩ := portOf_cleared p false s
    have h := portChange_field (g := functionFields) (fun _ => rfl) p (raise p 93 2
      (modPort p (fun q => { q with flrSince := some (cleared p false s).clock }) (cleared p false s))) p
    have hs := functionFields_of_calm hcalm
    rw [← resetPort_function, portOf_raise, portOf_modPort_same, hq, cleared_clock] at h
    simp only [functionFields, Prod.mk.injEq, configReset_dlActive, configReset_busMaster, configReset_aerCor, configReset_aerUncor,
      Bool.false_eq_true, if_false] at h hs
    obtain ⟨hd, hf, hb, hcor, huncor⟩ := h
    obtain ⟨hqd, -, -, hqcor, hquncor⟩ := hs
    exact ⟨hd.trans hqd, hf, hb, hcor.trans hqcor, huncor.trans hquncor⟩
  case flrDone =>
    intro p s hf
    refine runs_next (t := portChange p (modPort p (fun q => { q with flrSince := none }) s)) (by simp only [exec, execFlrDone, hf, if_true]) ?_
    have h := portChange_field (g := functionFields) (fun _ => rfl) p (modPort p (fun q => { q with flrSince := none }) s) p
    rw [portOf_modPort_same] at h
    simp only [functionFields, Prod.mk.injEq] at h
    exact ⟨h.2.1, h.1⟩
  case route =>
    intro p t₀ q s hq
    refine runs_next (t := moveRoute p t₀ false (some q) (pin p t₀ (routeOf s p t₀) q s))
      (by simp only [exec, execRouteMoveToward, hq]) ?_
    obtain ⟨hroute, hbehind, hout⟩ := moveRoute_host p t₀ false q (pin p t₀ (routeOf s p t₀) q s)
    refine ⟨hroute, hout, fun hne k hk hnone => ?_⟩
    have hpinned : tget? (moveRoute p t₀ false (some q) (pin p t₀ (routeOf s p t₀) q s)).host.behind k = some (routeOf s p t₀) := by
      rw [hbehind, pin_behind]
      exact foldl_pinOne hne _ _ (.inl ⟨hk, hnone⟩)
    exact ⟨hpinned, by rw [leaveRoute_behind hpinned, hout]; rfl⟩

end Sys2Proof.Machine
end

section
/-!
PROOF. Errors of the host ports and their detectors, and Precision Time Measurement (O35).
-/
namespace Sys2Proof.Machine
open Sys2Proof

/-! ### Detectors -/

section
variable (t d : Nat) (inj : Bool) (s : State)

@[simp] theorem detectorFires_host : (detectorFires t d inj s).host = s.host :=
  (detectorFires_within t d inj (.refl (allBut .host) s) rfl).keeps
@[simp] theorem detectorFires_out : (detectorFires t d inj s).out = s.out :=
  (detectorFires_within t d inj (.refl (allBut .out) s) rfl).keeps (c := .out)
@[simp] theorem detectorFires_mv : (detectorFires t d inj s).mv = s.mv :=
  (detectorFires_within t d inj (.refl (allBut .mv) s) rfl).keeps (c := .mv)
@[simp] theorem portOf_detectorFires (k : Nat) : portOf (detectorFires t d inj s) k = portOf s k :=
  portOf_congr (detectorFires_host t d inj s) k

end

theorem detOf_congr {s t : State} (h : t.hm = s.hm) (u d : Nat) : detOf t u d = detOf s u d := by rw [detOf, detOf, h]

theorem detOf_modDet (t d : Nat) (f : Det → Det) (s : State) : detOf (modDet t d f s) t d = f (detOf s t d) := by
  simp [detOf, modDet, modHm]

theorem raise_hm (t l n : Nat) (s : State) : (raise t l n s).hm = s.hm :=
  (raise_within t l n (.refl (allBut .hm) s) rfl).keeps (c := .hm)

/-- A detector that fires has counted its occurrence. -/
theorem detectorFires_count (t d : Nat) (inj : Bool) (s : State) : (detOf (detectorFires t d inj s) t d).count = (detOf s t d).count + 1 := by
  unfold detectorFires
  extract_lets limit u v x
  have hv : (detOf v t d).count = (detOf s t d).count + 1 := by
    have huv : detOf v t d = detOf u t d := rfl
    rw [huv, detOf_modDet]
  split
  · rw [detOf_congr (raise_hm _ _ _ _), detOf_modDet]; exact hv
  · exact hv

/-! ### Errors of a port -/

section
variable (p b : Nat) (s : State)

theorem markErrors_portOf (dev cfg : Nat) : portOf (markErrors p dev cfg s) p =
    { portOf s p with devErrors := (portOf s p).devErrors ||| dev, cfgErrors := (portOf s p).cfgErrors ||| cfg } :=
  portOf_modPort_same _ _ _

theorem aerCorrectable_portOf : (portOf (aerCorrectable p b s) p).aerCor = (portOf s p).aerCor ||| BitVec.ofNat 32 (2 ^ b) := by
  unfold aerCorrectable; dsimp only
  split
  · rw [portOf_modPort_same, markErrors_portOf]
  · rw [portOf_emit, portOf_modPort_same, markErrors_portOf]

theorem aerCorrectable_out : (aerCorrectable p b s).out =
    s.out ++ (if (portOf s p).aerCorMask.getLsbD b || !reports (portOf s p) 0 false then [] else [.errMessage p 0 (32 + b)]) := by
  unfold aerCorrectable; dsimp only
  split
  · exact (List.append_nil _).symm
  · rfl

theorem aerUncorrectable_portOf (header : List Byte) :
    (portOf (aerUncorrectable p b header s) p).aerUncor = (portOf s p).aerUncor ||| BitVec.ofNat 32 (2 ^ b) := by
  unfold aerUncorrectable
  extract_lets q severity masked first sends u v
  have hv : (portOf v p).aerUncor = (portOf s p).aerUncor ||| BitVec.ofNat 32 (2 ^ b) := by
    simp only [v, u]
    rw [portOf_modPort_same, markErrors_portOf]
  split <;> exact hv

theorem aerUncorrectable_out (header : List Byte) :
    (aerUncorrectable p b header s).out = s.out ++ errorMessages (portOf s p) p b := by
  unfold aerUncorrectable
  extract_lets q severity masked first sends u v
  have he : errorMessages (portOf s p) p b = if sends then [.errMessage p severity b] else [] := rfl
  rw [he]
  split
  · rfl
  · exact (List.append_nil _).symm

theorem aerCorrectable_hm : (aerCorrectable p b s).hm = s.hm :=
  (aerCorrectable_within p b (.refl (allBut .hm) s) rfl).keeps (c := .hm)
theorem aerUncorrectable_hm (header : List Byte) : (aerUncorrectable p b header s).hm = s.hm :=
  (aerUncorrectable_within p b header (.refl (allBut .hm) s) rfl).keeps (c := .hm)
theorem aerUncorrectable_mv (header : List Byte) : (aerUncorrectable p b header s).mv = s.mv :=
  (aerUncorrectable_within p b header (.refl (allBut .mv) s) rfl).keeps (c := .mv)

theorem aerCorrectable_counters : (aerCorrectable p b s).host.counters = s.host.counters := by
  unfold aerCorrectable; dsimp only; split <;> rfl
theorem aerUncorrectable_counters (header : List Byte) : (aerUncorrectable p b header s).host.counters = s.host.counters := by
  unfold aerUncorrectable
  extract_lets q severity masked first sends u v
  split <;> rfl

end

/-- What a correctable error of AER bit b does: its status bit, detector 0x11, and its message unless it is masked. -/
def CorrectableError (p b : Nat) (s t : State) : Prop :=
  (portOf t p).aerCor = (portOf s p).aerCor ||| BitVec.ofNat 32 (2 ^ b) ∧ (detOf t p 0x11).count = (detOf s p 0x11).count + 1
    ∧ t.out = s.out ++ (if (portOf s p).aerCorMask.getLsbD b || !reports (portOf s p) 0 false then [] else [.errMessage p 0 (32 + b)])

theorem correctableError (p b : Nat) (s : State) : CorrectableError p b s (correctable p b s) := by
  refine ⟨?_, ?_, ?_⟩
  · rw [correctable, portOf_detectorFires, aerCorrectable_portOf]
  · rw [correctable, detectorFires_count, detOf_congr (aerCorrectable_hm _ _ _)]
  · rw [correctable, detectorFires_out, aerCorrectable_out]

/-- What an uncorrectable error does: its status bit, its detector, and its message unless it is masked. -/
def UncorrectableError (p d b : Nat) (s t : State) : Prop :=
  (portOf t p).aerUncor = (portOf s p).aerUncor ||| BitVec.ofNat 32 (2 ^ b) ∧ (detOf t p d).count = (detOf s p d).count + 1
    ∧ t.out = s.out ++ errorMessages (portOf s p) p b

theorem uncorrectableError (p d b : Nat) (header : List Byte) (s : State) :
    UncorrectableError p d b s (detectorFires p d false (aerUncorrectable p b header s)) := by
  refine ⟨?_, ?_, ?_⟩
  · rw [portOf_detectorFires, aerUncorrectable_portOf]
  · rw [detectorFires_count, detOf_congr (aerUncorrectable_hm _ _ _ _)]
  · rw [detectorFires_out, aerUncorrectable_out]

/-- An unsupported request in a posted write marks Device Status first, which no message depends on. -/
theorem correctableError_marked (p b dev cfg : Nat) (s : State) : CorrectableError p b s (correctable p b (markErrors p dev cfg s)) := by
  obtain ⟨hcor, hdet, hout⟩ := correctableError p b (markErrors p dev cfg s)
  rw [markErrors_portOf] at hcor hout
  exact ⟨hcor, hdet, hout⟩

section
variable {p : Nat} {h : List Byte} {s : State} (hp : p < tiles s)
include hp

theorem runs_correctable {e : PcieError} {b : Nat} (he : (e, b) ∈ correctableErrors) :
    Runs (.pcieRxError p e h) s (CorrectableError p b s) := by
  simp only [correctableErrors, List.mem_cons, Prod.mk.injEq, List.not_mem_nil, or_false] at he
  rcases he with ⟨rfl, rfl⟩ | ⟨rfl, rfl⟩ | ⟨rfl, rfl⟩ | ⟨rfl, rfl⟩ | ⟨rfl, rfl⟩ | ⟨rfl, rfl⟩ | ⟨rfl, rfl⟩
  case inr.inr.inr.inr.inr.inl =>
    exact runs_next (by simp only [exec, execPcieRxError, hp, decide_true, Bool.not_true, Bool.false_eq_true, if_false])
      (correctableError_marked p 13 8 0 s)
  all_goals
    exact runs_next (by simp only [exec, execPcieRxError, hp, decide_true, Bool.not_true, Bool.false_eq_true, if_false])
      (correctableError p _ s)

theorem runs_uncorrectable {e : PcieError} {d b : Nat} (he : (e, d, b) ∈ uncorrectableErrors)
    (hecrc : e = .ecrc → (tget 0 (portOf s p).otherCfg 0x118).getLsbD 8 = true) :
    Runs (.pcieRxError p e h) s (UncorrectableError p d b s) := by
  simp only [uncorrectableErrors, List.mem_cons, Prod.mk.injEq, List.not_mem_nil, or_false] at he
  rcases he with ⟨rfl, rfl, rfl⟩ | ⟨rfl, rfl, rfl⟩ | ⟨rfl, rfl, rfl⟩ | ⟨rfl, rfl, rfl⟩ | ⟨rfl, rfl, rfl⟩ | ⟨rfl, rfl, rfl⟩
    | ⟨rfl, rfl, rfl⟩ | ⟨rfl, rfl, rfl⟩
  case inr.inl =>
    have hon := hecrc rfl
    exact runs_next (by simp only [exec, execPcieRxError, nonFatal, hp, hon, decide_true, Bool.not_true, Bool.false_eq_true, if_false, if_true])
      (uncorrectableError p _ _ h s)
  all_goals
    exact runs_next (by simp only [exec, execPcieRxError, nonFatal, fatal, hp, decide_true, Bool.not_true, Bool.false_eq_true, if_false])
      (uncorrectableError p _ _ h s)

end

/-! ### Completions that time out or come late -/

theorem counters_modPortCounters (p : Nat) (f : PortCounters → PortCounters) (s : State) :
    tget {} (modPortCounters p f s).host.counters p = f (tget {} s.host.counters p) := by simp [modPortCounters]

/-- A timed-out read of a command queue is counted and tried again. -/
theorem timeoutRequest_command (p q : Nat) (s : State) :
    (tget {} (timeoutRequest p (some (.command q)) s).host.counters p).cplTimeouts = (tget {} s.host.counters p).cplTimeouts + 1
    ∧ (tget {} (timeoutRequest p (some (.command q)) s).host.counters p).descRetries = (tget {} s.host.counters p).descRetries + 1
    ∧ (timeoutRequest p (some (.command q)) s).hm = s.hm ∧ (timeoutRequest p (some (.command q)) s).mv = s.mv := by
  unfold timeoutRequest
  extract_lets until_ u v w x
  have hw : w.host.counters = u.host.counters ∧ w.hm = u.hm ∧ w.mv = u.mv :=
    ⟨aerUncorrectable_counters _ _ _ _, aerUncorrectable_hm _ _ _ _, aerUncorrectable_mv _ _ _ _⟩
  have hx : x.host.counters = w.host.counters ∧ x.hm = w.hm ∧ x.mv = w.mv := by
    have hmv (t l n : Nat) (s : State) : (raise t l n s).mv = s.mv :=
      (raise_within t l n (.refl (allBut .mv) s) rfl).keeps (c := .mv)
    simp only [x]
    split
    · rw [raise_host, raise_hm, hmv]; exact ⟨rfl, rfl, rfl⟩
    · exact ⟨rfl, rfl, rfl⟩
  have hu : tget {} u.host.counters p = { tget {} s.host.counters p with cplTimeouts := (tget {} s.host.counters p).cplTimeouts + 1 } :=
    counters_modPortCounters p _ s
  dsimp only [lostCompletion]
  rw [counters_modPortCounters, hx.1, hw.1, hu]
  exact ⟨rfl, rfl, hx.2.1.trans hw.2.1, hx.2.2.trans hw.2.2⟩

theorem exec_completionTimeout {p n : Nat} {r : ReqPurpose} {s : State} (h : (requestsOut s p)[n]? = some r) :
    exec (.completionTimeout p n) s = .next (timeoutRequest p (some r) (detectorFires p 0x12 false s)) := by
  simp only [exec, execCompletionTimeout, h]

/-! ### Precision Time Measurement -/

theorem portOf_modPtm (p : Nat) (f : Ptm → Ptm) (s : State) :
    portOf (modPtm p f s) p = { portOf s p with ptm := f (portOf s p).ptm } := portOf_modPort_same _ _ _

theorem startDialogue_ptm (p : Nat) (second : Bool) (s : State) : (portOf (startDialogue p second s) p).ptm =
    { (portOf s p).ptm with busy := true, second := second, t1 := s.time.now, startedAt := s.clock } := by
  rw [startDialogue, portOf_emit, portOf_modPtm]

theorem startPtm_ptm (p : Nat) (byInput : Bool) (s : State) : (portOf (startPtm p byInput s) p).ptm =
    { (portOf s p).ptm with busy := true, second := false, t1 := s.time.now, startedAt := s.clock, byInput := byInput } := by
  rw [startPtm, startDialogue_ptm, portOf_modPtm]; rfl

theorem exec_ptmDialogueDone_second {p k d : Nat} {h : U64} {s : State} (hr : ptmRuns s p = true) (hb : (portOf s p).ptm.busy = true)
    (hs : (portOf s p).ptm.second = true) (hd : linkDelay (portOf s p).ptm.roundTrip k = d)
    (ht : s.clock ≤ (portOf s p).ptm.startedAt + 10 * us) : exec (.ptmDialogueDone p h k) s = .next (
      let x := (portOf s p).ptm
      let q := x.t1 + d * 65536
      let u := modPtm p (fun x => { x with
        busy := false, valid := true, seq := x.seq + 1, pSec := timeSec q, pNs := timeNs q, pFrac := timeFrac q, h := h.toNat, d := d }) s
      if x.byInput then raise p 94 (x.seq + 1).toNat u else u) := by
  simp only [exec, execPtmDialogueDone, hr, hb, hs, hd, Nat.not_lt.mpr ht, decide_false, Bool.not_true, Bool.or_self,
    Bool.false_eq_true, if_false]

/-- What a taken input leaves: only the events of the tile move. -/
theorem takeInput_keeps {t i n : Nat} {s u : State} {e : Ev} (h : takeInput t i n s = some (e, u)) :
    u.host = s.host ∧ u.time = s.time ∧ u.clock = s.clock ∧ u.part = s.part :=
  ⟨(takeInput_within (.refl (allBut .host) s) rfl h).keeps (c := .host), (takeInput_within (.refl (allBut .time) s) rfl h).keeps (c := .time),
    (takeInput_within (.refl (allBut .time) s) rfl h).clock, (takeInput_within (.refl (allBut .time) s) rfl h).part⟩

/-- A value captured for one register stands while others are captured. -/
theorem captured_other {p off k v : Nat} (s : State) (h : k ≠ portKey p off) : tget? (capture p off v s).host.captured k = tget? s.host.captured k :=
  tget?_tput_other _ _ h

theorem captured_same (p off v : Nat) (s : State) : tget? (capture p off v s).host.captured (portKey p off) = some (word v) :=
  tget?_tput_same _ _ _

theorem capture_out (p off v : Nat) (s : State) : (capture p off v s).out = s.out := rfl

theorem ptmReg_capture (p off v : Nat) (s : State) (q i : Nat) : ptmReg (capture p off v s) q i = ptmReg s q i := rfl

theorem readPtm_out (p q : Nat) (s : State) : (readPtm p q s).out = s.out ++ [.completion p (ptmReg s q 0)] := by
  simp only [readPtm, List.foldl_cons, List.foldl_nil, emit, capture_out, ptmReg_capture]

theorem readPtm_captured (p q : Nat) (s : State) :
    tget? (readPtm p q s).host.captured (portKey p (heBlock q + 0x204)) = some (word (portOf s q).ptm.pNs) := by
  have hne (n : Nat) (h : n ≠ 0x204) : portKey p (heBlock q + 0x204) ≠ portKey p (heBlock q + n) := by simp [portKey, h.symm]
  simp only [readPtm, List.foldl_cons, List.foldl_nil, emit, Nat.add_assoc, ptmReg_capture]
  rw [captured_other _ (hne _ (by decide)), captured_other _ (hne _ (by decide)), captured_other _ (hne _ (by decide)),
    captured_other _ (hne _ (by decide)), captured_other _ (hne _ (by decide)), captured_same]
  rfl

/-- Settles O35: errors by what each detector does, measurements by their two dialogues. -/
theorem hostErrorsAndTimeMeasurement : Obligations.HostErrorsAndTimeMeasurement := by
  refine ⟨?timeout, ?late, ?correctable, ?uncorrectable, ?ecrcOff, ?period, ?now, ?first, ?second, ?noResponse, ?status⟩
  case timeout =>
    intro p n q s h
    refine runs_next (exec_completionTimeout h) ?_
    obtain ⟨hcpl, hdesc, hhm, hmv⟩ := timeoutRequest_command p q (detectorFires p 0x12 false s)
    rw [hcpl, hdesc, detOf_congr hhm, hmv, detectorFires_host, detectorFires_count, detectorFires_mv]
    exact ⟨rfl, rfl, rfl, rfl⟩
  case late =>
    intro p s hp
    refine runs_next (t := correctable p 13 (modPortCounters p (fun c => { c with lateCompletions := c.lateCompletions + 1 }) s))
      (by simp only [exec, execLateCompletion, hp, if_true]) ?_
    refine ⟨?_, (correctableError p 13 _).1⟩
    rw [correctable, detectorFires_host, aerCorrectable_counters, counters_modPortCounters]
  case correctable => exact fun p e b h s hp he => runs_correctable hp he
  case uncorrectable => exact fun p e d b h s hp he hecrc => runs_uncorrectable hp he hecrc
  case ecrcOff =>
    intro p h s ho
    refine runs_next (t := s) ?_ rfl
    by_cases hp : p < tiles s <;> simp only [exec, execPcieRxError, hp, ho, decide_true, decide_false, Bool.not_true, Bool.not_false,
      Bool.false_eq_true, if_true, if_false]
  case period =>
    intro p s hr hb hl
    refine runs_next (t := startPtm p false (modPtm p (fun x => { x with lastPeriod := s.clock }) s))
      (by simp [exec, execPtmPeriod, hr, hb, hl]) ⟨?_, rfl⟩
    rw [startPtm_ptm, portOf_modPtm]; rfl
  case now =>
    intro p n e u s hs hr hi
    obtain ⟨hhost, htime, hclock, hpart⟩ := takeInput_keeps hi
    have hru : ptmRuns u p = true := by rw [← hr, ptmRuns, ptmRuns, portOf_congr hhost, tiles_congr hpart]
    refine runs_next (t := startPtm p true u) (by simp [exec, execPtmNow, hs, hi, hru]) ⟨?_, rfl⟩
    rw [startPtm_ptm, portOf_congr hhost, htime, hclock]
  case first =>
    intro p h k s hr hb hs ht
    refine runs_next (t := startDialogue p true (modPtm p (fun y => { y with roundTrip := s.time.now - (portOf s p).ptm.t1 }) s))
      (by simp [exec, execPtmDialogueDone, hr, hb, hs, Nat.not_lt.mpr ht]) ⟨?_, rfl⟩
    rw [startDialogue_ptm, portOf_modPtm]
    simp only [hb]
    rfl
  case second =>
    intro p h k d s hr hb hs hd ht
    refine runs_next (exec_ptmDialogueDone_second hr hb hs hd ht) ?_
    have hsame (b : Bool) (v : State) (n : Nat) : portOf (if b then raise p 94 n v else v) p = portOf v p := by
      cases b
      · rfl
      · exact portOf_raise _ _ _ _ _
    rw [hsame, portOf_modPtm]
    exact ⟨rfl, rfl, rfl, rfl, rfl, rfl, rfl⟩
  case noResponse =>
    intro p s hb ht
    refine runs_next (t := modPtm p (fun x => { x with busy := false }) s) (by simp [exec, execPtmResponseTimeout, hb, ht]) ?_
    exact portOf_modPtm _ _ _
  case status =>
    intro p q s hq
    exact runs_next (t := readPtm p q s) (by simp only [exec, execPtmStatusRead, hq, if_true]) ⟨readPtm_out p q s, readPtm_captured p q s⟩

end Sys2Proof.Machine
end

section
/-!
PROOF. Two statements about queues and the mover that a state refutes (O36, O37).
-/
namespace Sys2Proof.Machine
open Sys2Proof

/-! ### Time anchors with an interval of 0 -/

/-- A completion queue with two places, whose time anchor is due at once. -/
def anchorQueue : Queue := { qtype := .completion, size := 2, base := 0, state := .running }

/-- The reset state with that queue, its port connected, and ANCHOR_INTERVAL_MS 0: an anchor that is written is due again at once. -/
def zeroInterval : State := { State.reset with
  st := { State.reset.st with anchorMs := 0 }
  mv := { State.reset.mv with queues := [(21, anchorQueue)] }
  host := { State.reset.host with ports := [(0, { dlActive := true, busMaster := true })] } }

theorem exec_timeAnchorDue {q : Nat} {s : State} {v : Queue} (hq : queue? s q = some v) (ht : v.qtype = .completion) :
    exec (.timeAnchorDue q) s = .next (drain q s) := by
  simp only [exec, execTimeAnchorDue, hq, ht, true_or, if_true]

theorem drain_zeroInterval : (queue? (drain 21 zeroInterval) 21).map (·.anchorSeq) = some 2 := rfl

/-- Refutes O36: with ANCHOR_INTERVAL_MS 0 one write of what is due writes an anchor into every free place, so ANCHOR_SEQ rises by more
than 1. -/
theorem not_queuesServeTheirOwners : ¬ Obligations.QueuesServeTheirOwners := by
  rintro ⟨-, -, -, -, -, -, -, -, -, -, -, hanchor, -⟩
  obtain ⟨t, ht, w, hw, hseq, -⟩ := hanchor 21 zeroInterval anchorQueue rfl (.inl rfl) rfl (Nat.le_refl 0) (by decide) rfl rfl
  rw [exec_timeAnchorDue (v := anchorQueue) rfl rfl] at ht
  cases ht
  have h := drain_zeroInterval
  rw [hw, Option.map_some, hseq] at h
  exact absurd h (by decide)

/-! ### A start that displaces another run -/

/-- A run of a pattern of 64 bytes. -/
def patternRun (prio : Nat) : ChanRegs := { count := 64, srcSpace := 2, prio := prio }

/-- The reset state with raw channels 64, idle with a run of PRIO 1 in its registers, and 65, issuing a run of PRIO 0. -/
def twoRuns : State := { State.reset with
  eng := { State.reset.eng with objs := [(chanObjSlot 64, { owner := 0 })] }
  mv := { State.reset.mv with chans := [(64, { raw := true, state := .idle, regs := patternRun 1 }),
    (65, { raw := true, state := .issuing, run := patternRun 0 })] } }

theorem exec_mvStart_twoRuns : exec (.mvStart 0 64) twoRuns = .next (writeStart 0 64 twoRuns) := rfl

/-- The state once channel 64 has latched its registers. -/
def twoRunsStarted : State :=
  leaveRoute (chanProducer 64) (putChan 64 { raw := true, state := .issuing, regs := patternRun 1, run := patternRun 1 } twoRuns)

theorem writeStart_twoRuns : writeStart 0 64 twoRuns = displace 0 64 1 1 twoRunsStarted := rfl

theorem displace_twoRuns_free : (displace 0 64 1 1 twoRunsStarted).free = twoRuns.free + 1 := by
  unfold displace
  dsimp only
  split
  · next hnone => exact absurd hnone (by decide)
  · simp only [countDisplaced, useFree, modMv_free]
    split <;> rfl

/-- Refutes O37: a start that comes before a run of lower PRIO takes a free value for whether that is displaced in mid-burst, so more than
the mover, the host block and the output changes. -/
theorem not_moverRunsAndReservations : ¬ Obligations.MoverRunsAndReservations := by
  rintro ⟨-, -, -, -, -, -, hstart, -⟩
  obtain ⟨t, ht, -, hframe, -⟩ := hstart 0 64 twoRuns rfl rfl rfl rfl
  rw [exec_mvStart_twoRuns] at ht
  cases ht
  have hfree := congrArg State.free hframe
  rw [writeStart_twoRuns] at hfree
  exact absurd (displace_twoRuns_free.symm.trans hfree) (Nat.succ_ne_self _)

end Sys2Proof.Machine
end

section
/-!
PROOF. Lanes: what an update of a lane, a reply, a scan that fails and a reception that is cut leave of every lane.
-/
namespace Sys2Proof.Machine
open Sys2Proof

/-! ### Lanes after an update -/

@[simp] theorem laneOf_putLane_same (l : Nat) (x : Lane) (s : State) : laneOf (putLane l x s) l = x := by simp [laneOf, putLane]

theorem laneOf_putLane_other {l k : Nat} (x : Lane) (s : State) (h : k ≠ l) : laneOf (putLane l x s) k = laneOf s k := by
  simp [laneOf, putLane, tget_tput_other _ _ _ h]

@[simp] theorem laneOf_modLane_same (l : Nat) (f : Lane → Lane) (s : State) : laneOf (modLane l f s) l = f (laneOf s l) :=
  laneOf_putLane_same _ _ _

theorem laneOf_modLane_other {l k : Nat} (f : Lane → Lane) (s : State) (h : k ≠ l) : laneOf (modLane l f s) k = laneOf s k :=
  laneOf_putLane_other _ _ h

theorem laneOf_congr {s t : State} (h : t.lanes = s.lanes) (k : Nat) : laneOf t k = laneOf s k := by rw [laneOf, laneOf, h]

@[simp] theorem laneOf_emit (o : Out) (s : State) (k : Nat) : laneOf (emit o s) k = laneOf s k := rfl
@[simp] theorem laneOf_modMv (s : State) (f : MoverState → MoverState) (k : Nat) : laneOf (modMv s f) k = laneOf s k := rfl
@[simp] theorem laneOf_modEng (s : State) (f : EngState → EngState) (k : Nat) : laneOf (modEng s f) k = laneOf s k := rfl
@[simp] theorem laneOf_useFree (s : State) (k : Nat) : laneOf (useFree s) k = laneOf s k := rfl
@[simp] theorem laneOf_bumpPkg (s : State) (k : Nat) : laneOf (bumpPkg s) k = laneOf s k := rfl
@[simp] theorem laneOf_addWait (op : Nat) (c : Cmd) (keys : List Nat) (room : Nat) (s : State) (k : Nat) :
    laneOf (addWait op c keys room s) k = laneOf s k := rfl

section
variable (s : State) (k : Nat)

@[simp] theorem laneOf_finish (id : Nat) (a : Answer) : laneOf (finish id a s) k = laneOf s k :=
  laneOf_congr ((finish_within id a (.refl (allBut .lanes) s) rfl).keeps (c := .lanes)) k
@[simp] theorem laneOf_dropJob (t : Nat) (j : JobKind) : laneOf (dropJob t j s) k = laneOf s k :=
  laneOf_congr ((dropJob_within t j (.refl (allBut .lanes) s) rfl).keeps (c := .lanes)) k
@[simp] theorem laneOf_addJob (t : Nat) (j : JobKind) (n : Nat) : laneOf (addJob t j n s) k = laneOf s k :=
  laneOf_congr ((addJob_within t j n (.refl (allBut .lanes) s) rfl).keeps (c := .lanes)) k
@[simp] theorem laneOf_raiseLane (l e v : Nat) : laneOf (raiseLane l e v s) k = laneOf s k :=
  laneOf_congr ((raiseLane_within l e v (.refl (allBut .lanes) s) rfl).keeps (c := .lanes)) k
@[simp] theorem laneOf_stampTx (l : Nat) (b : List Byte) : laneOf (stampTx l b s) k = laneOf s k :=
  laneOf_congr ((stampTx_within l b (.refl (allBut .lanes) s) rfl).keeps (c := .lanes)) k

end

/-- A fold whose steps change nothing. -/
theorem foldl_eq_self {α β : Type} {f : β → α → β} {l : List α} {s : β} (h : ∀ x ∈ l, f s x = s) : l.foldl f s = s := by
  induction l with
  | nil => rfl
  | cons x l ih => rw [List.foldl_cons, h x (by simp)]; exact ih fun y hy => h y (by simp [hy])

/-! ### Lanes alike but for some fields -/

/-- Every lane has the same value of g before and after. -/
def LanesKeep {β : Type} (g : Lane → β) (s t : State) : Prop := ∀ k, g (laneOf t k) = g (laneOf s k)

namespace LanesKeep

variable {β γ : Type} {g : Lane → β}

theorem refl (s : State) : LanesKeep g s s := fun _ => rfl

theorem trans {s t u : State} (h : LanesKeep g s t) (h' : LanesKeep g t u) : LanesKeep g s u := fun k => (h' k).trans (h k)

theorem of_lanes {s t : State} (h : ∀ k, laneOf t k = laneOf s k) : LanesKeep g s t := fun k => by rw [h]

theorem modLane {f : Lane → Lane} {l : Nat} {s : State} (h : ∀ x, g (f x) = g x := by intro; rfl) : LanesKeep g s (modLane l f s) := by
  intro k
  by_cases hk : k = l
  · subst hk; rw [laneOf_modLane_same, h]
  · rw [laneOf_modLane_other _ _ hk]

theorem foldl {α : Type} {f : State → α → State} (hf : ∀ s x, LanesKeep g s (f s x)) (l : List α) (s : State) :
    LanesKeep g s (l.foldl f s) := by
  induction l generalizing s with
  | nil => exact refl s
  | cons x l ih => exact (hf s x).trans (ih _)

/-- A coarser view of the lanes is kept with a finer one. -/
theorem coarser {h : β → γ} {s t : State} (hg : LanesKeep g s t) : LanesKeep (fun x => h (g x)) s t := fun k => congrArg h (hg k)

end LanesKeep

/-- A lane apart from its locks, its eye scan and its counters. -/
def laneCore (x : Lane) : Lane := { x with fecLock := false, amLock := false, eye := none, counters := {} }

/-- The settings of a lane, apart from what its link, its exchange and its reception do. -/
def laneShape (x : Lane) : Lane := { x with
  fecLock := false, amLock := false, eye := none, counters := {}, link := .held, since := 0, rate := 0, fast := false, er := {}, remoteFault := false
  enabled := false }

theorem LanesKeep.shape {s t : State} (h : LanesKeep laneCore s t) : LanesKeep laneShape s t := h.coarser (h := laneShape)

theorem setLocks_keeps {β : Type} {g : Lane → β} (h : ∀ (x : Lane) (b : Bool), g { x with fecLock := b, amLock := b } = g x) (l : Nat) (on : Bool)
    (s : State) : LanesKeep g s (setLocks l on s) :=
  .foldl (fun _ _ => .modLane (fun x => h x on)) _ _

theorem failScans_keeps {β : Type} {g : Lane → β} (h : ∀ x : Lane, g { x with eye := none } = g x) (l : Nat) (s : State) :
    LanesKeep g s (failScans l s) := by
  refine .foldl (fun s k => ?_) _ _
  split
  · next e _ =>
    exact .trans (t := modLane k (fun x => { x with eye := none }) s) (.modLane h)
      (.of_lanes fun j => (laneOf_finish _ j _ _).trans (laneOf_dropJob _ j _ _))
  · exact .refl _

theorem countLane_keeps {β : Type} {g : Lane → β} {f : LaneCounters → LaneCounters} (h : ∀ x : Lane, g { x with counters := f x.counters } = g x)
    (l : Nat) (s : State) : LanesKeep g s (countLane l f s) := .modLane h

theorem cutReception_keeps {β : Type} {g : Lane → β}
    (h : ∀ x : Lane, g { x with counters := { x.counters with rxFcsError := x.counters.rxFcsError + 1 } } = g x) (l : Nat) (s : State) :
    LanesKeep g s (cutReception l s) := by
  unfold cutReception; dsimp only
  split
  · refine .trans ?_ (.of_lanes fun k => laneOf_useFree _ k)
    split
    · exact countLane_keeps h _ _
    · exact .refl _
  · exact .refl _

theorem sendFrame_keeps {β : Type} {g : Lane → β} (h : ∀ (x : Lane) (c : LaneCounters), g { x with counters := c } = g x) (l : Nat) (b : List Byte)
    (s : State) : LanesKeep g s (sendFrame l b s) := by
  unfold sendFrame
  exact .trans (countLane_keeps (fun x => h x _) _ _) (.of_lanes fun k => laneOf_emit _ _ k)

end Sys2Proof.Machine
end

section
/-!
PROOF. The lane commands (O38).
-/
namespace Sys2Proof.Machine
open Sys2Proof

/-! ### LANE_PORT_SET -/

theorem retrain_shape (l : Nat) (fast : Bool) (s : State) : LanesKeep laneShape s (retrain l fast s) := by
  unfold retrain; dsimp only
  refine .trans (t := modLane l (fun x => { x with fast := fast, er := { x.er with retrainAt := s.clock } }) s)
    (.modLane) ?_
  split
  · exact .refl _
  · refine .trans (.trans (.trans (failScans_keeps (fun _ => rfl) _ _) (cutReception_keeps (fun _ => rfl) _ _))
      (setLocks_keeps (fun _ _ => rfl) _ _ _)) (.modLane)

theorem restartExchange_shape (l : Nat) (s : State) : LanesKeep laneShape s (restartExchange l s) := by
  unfold restartExchange; dsimp only
  refine .trans (t := modLane l (fun x => { x with er := { x.er with
    state := if x.erEnable then .pending else .disabled, revertDue := false, failedRetrains := 0 } }) s) (.modLane) ?_
  split
  · split
    · exact retrain_shape _ _ _
    · exact .modLane
  · exact .refl _

theorem enterLink_shape (l : Nat) (s : State) : LanesKeep laneShape s (enterLink l s) := by
  unfold enterLink; dsimp only
  split
  · exact .modLane (g := laneShape) (f := fun x => { x with link := .held, since := s.clock, rate := 0, fecLock := false, amLock := false, remoteFault := false })
  · split
    · exact .modLane (g := laneShape) (f := startLink s)
    · exact .modLane (g := laneShape) (f := fun x => { x with link := .disabled, since := s.clock, rate := 0, fecLock := false, amLock := false, remoteFault := false })
  
/-- Lane l stays when the ports that overlap its new one give up their lanes. -/
theorem laneOf_dissolve (l w : Nat) (s : State) : laneOf (dissolve l w s) l = laneOf s l := by
  refine foldl_keeps (laneOf · l) _ _ _ fun t i => ?_
  dsimp only
  split
  · rfl
  · refine foldl_keeps (laneOf · l) _ _ _ fun u k => ?_
    split
    · rfl
    · next hk => exact laneOf_modLane_other _ _ (Ne.symm hk)

/-- A port of the same width that has its lanes keeps them. -/
theorem dissolve_same {l w : Nat} {s : State} (hw : (laneOf s l).width = w) (h : ∀ j, j < w → primaryOf s (l + j) = l) :
    dissolve l w s = s :=
  foldl_eq_self fun i hi => by simp [h i (List.mem_range.mp hi), hw]

theorem laneOf_takeMembers_first (l w : Nat) (s : State) : laneOf (takeMembers l w s) l = laneOf s l :=
  foldl_keeps (laneOf · l) _ _ _ fun _ i => laneOf_modLane_other _ _ (by omega)

/-- The lanes behind the first become members. -/
theorem laneOf_takeMembers {l w i : Nat} (s : State) (h0 : 0 < i) (hi : i < w) :
    (laneOf (takeMembers l w s) (l + i)).member = true ∧ (laneOf (takeMembers l w s) (l + i)).primary = false := by
  have h (n : Nat) (t : State) : i ≤ n → (laneOf ((List.range n).foldl (fun s i => modLane (l + i + 1)
      (fun x => { unconfigured s (l + i + 1) x with member := true }) s) t) (l + i)).member = true
      ∧ (laneOf ((List.range n).foldl (fun s i => modLane (l + i + 1)
      (fun x => { unconfigured s (l + i + 1) x with member := true }) s) t) (l + i)).primary = false := by
    induction n with
    | zero => omega
    | succ n ih =>
      intro hle
      rw [List.range_succ, List.foldl_append, List.foldl_cons, List.foldl_nil]
      by_cases hn : i = n + 1
      · subst hn
        rw [Nat.add_assoc, laneOf_modLane_same]
        exact ⟨rfl, rfl⟩
      · rw [laneOf_modLane_other _ _ (by omega)]
        exact ih (by omega)
  exact h (w - 1) s (by omega)

/-- The lanes of the port with its settings in place, before its exchange and its link start again. -/
def portPlaced (c : Cmd) (s : State) : State :=
  let l := par c 0 1
  let w := par c 1 1
  let t := modLane l (portSettings c s) (dissolve l w s)
  if (laneOf s l).primary && decide ((laneOf s l).width = w) then t else takeMembers l w t

theorem setPort_shape (c : Cmd) (s : State) : LanesKeep laneShape (portPlaced c s) (setPort c s) := by
  unfold setPort
  extract_lets l w same t u
  have hu : LanesKeep laneShape (portPlaced c s) u := restartExchange_shape _ _
  split
  · exact hu.trans (enterLink_shape _ _)
  · exact hu

theorem laneOf_portPlaced (c : Cmd) (s : State) : laneOf (portPlaced c s) (par c 0 1) = portSettings c s (laneOf s (par c 0 1)) := by
  unfold portPlaced
  extract_lets l w t
  have ht : laneOf t l = portSettings c s (laneOf s l) := by rw [laneOf_modLane_same, laneOf_dissolve]
  split
  · exact ht
  · exact (laneOf_takeMembers_first _ _ _).trans ht

theorem portPlaced_member {c : Cmd} {s : State} {i : Nat} (h0 : 0 < i) (hi : i < par c 1 1)
    (h : (laneOf s (par c 0 1)).primary = true → (laneOf s (par c 0 1)).width = par c 1 1 → ∀ j, j < par c 1 1 →
      primaryOf s (par c 0 1 + j) = par c 0 1 ∧ (0 < j → (laneOf s (par c 0 1 + j)).member = true ∧ (laneOf s (par c 0 1 + j)).primary = false)) :
    (laneOf (portPlaced c s) (par c 0 1 + i)).member = true ∧ (laneOf (portPlaced c s) (par c 0 1 + i)).primary = false := by
  unfold portPlaced
  extract_lets l w t
  split
  · next hsame =>
    simp only [Bool.and_eq_true, decide_eq_true_eq] at hsame
    obtain ⟨hp, hw⟩ := hsame
    have hlanes := h hp hw
    have ht : laneOf t (l + i) = laneOf s (l + i) := by
      rw [laneOf_modLane_other _ _ (by omega), dissolve_same hw fun j hj => (hlanes j hj).1]
    rw [ht]
    exact (hlanes i hi).2 h0
  · exact laneOf_takeMembers _ h0 hi

/-- What LANE_PORT_SET makes of the lanes, whether it counts as a change or not. -/
theorem lanePortSet_lanes (c : Cmd) (s : State) : ∃ t, opLanePortSet.act c s = .done t {} ∧ ∀ k, laneOf t k = laneOf (setPort c s) k := by
  simp only [opLanePortSet]
  split
  · exact ⟨_, rfl, fun _ => rfl⟩
  · exact ⟨_, rfl, fun _ => rfl⟩

/-! ### LANE_ENABLE -/

theorem enterLink_up {l : Nat} {s : State} (hl : linkAllowed s (l / 8) = true) (he : (laneOf s l).enabled = true) :
    enterLink l s = putLane l (startLink s (laneOf s l)) s := by
  simp [enterLink, hl, he]

theorem erEnd_lane (l : Nat) (st : ErState) (s : State) :
    laneOf (erEnd l st s) l = { laneOf s l with er := { (laneOf s l).er with state := st, wait := none } } := by
  unfold erEnd; dsimp only
  split
  · rw [laneOf_finish]; exact laneOf_modLane_same _ _ _
  · exact laneOf_modLane_same _ _ _

/-- A lane whose port is taken down. -/
theorem disablePort_lane (l : Nat) (s : State) : (laneOf (disablePort l s) l).enabled = false ∧ (laneOf (disablePort l s) l).fast = false
    ∧ (laneOf (disablePort l s) l).rate = 0
    ∧ (laneOf (disablePort l s) l).link = (if (laneOf s l).link = .held then .held else .disabled) := by
  unfold disablePort
  extract_lets x u v w
  have hv : LanesKeep (·.link) s v := by
    refine .trans (t := u) (.trans (failScans_keeps (fun _ => rfl) _ _) (cutReception_keeps (fun _ => rfl) _ _)) ?_
    simp only [v]
    split
    · exact .of_lanes fun k => laneOf_raiseLane _ _ _ _ _
    · exact .refl _
  have hlink := (hv.trans (setLocks_keeps (fun _ _ => rfl) l false v)) l
  rw [erEnd_lane]
  simp only [w, laneOf_modLane_same, true_and]
  rw [hlink]

/-! ### Counters and scans -/

/-- The counters of the listed lanes are cleared, and of no other. -/
theorem laneOf_clearCounters (l : List Nat) (s : State) (k : Nat) : laneOf (l.foldl (fun s k => countLane k (fun _ => {}) s) s) k =
    if k ∈ l then { laneOf s k with counters := {} } else laneOf s k := by
  induction l generalizing s with
  | nil => simp
  | cons j l ih =>
    rw [List.foldl_cons, ih]
    by_cases hj : k = j
    · subst hj; simp [countLane]
    · simp [countLane, laneOf_modLane_other _ _ hj, hj]

theorem exec_eyeScanComplete {l : Nat} {cells : List Byte} {s : State} {e : EyeScan} (he : (laneOf s l).eye = some e) (hd : e.done = true) :
    ∃ a, exec (.eyeScanComplete l cells) s = .next (finish e.wait a (modLane l (fun x => { x with eye := none }) s)) := by
  simp only [exec, execEyeScanComplete, he, hd, Bool.not_true, Bool.false_eq_true, if_false]
  exact ⟨_, rfl⟩

theorem finish_none {id : Nat} {s : State} (a : Answer) (h : findWait s id = none) : finish id a s = s := by simp [finish, h]

theorem heldKey_addWait {op : Nat} {c : Cmd} {keys : List Nat} {room k : Nat} (s : State) (h : k ∈ keys) :
    heldKey (addWait op c keys room s) k = true := by
  simp [heldKey, addWait, h]

/-- Settles O38: LANE_PORT_SET by the lanes it places, LANE_ENABLE by the link it starts or takes down, the others by their one effect. -/
theorem laneCommandsComplete : Obligations.LaneCommandsComplete := by
  refine ⟨?set, ?query, ?up, ?down, ?same, ?agreed, ?offer, ?bind, ?clear, ?scan, ?scanned⟩
  case set =>
    intro c s h
    obtain ⟨t, hact, ht⟩ := lanePortSet_lanes c s
    refine answers_of_act (o := opLanePortSet) rfl h ?_
    rw [hact]
    have hshape := setPort_shape c s
    have hl := hshape (par c 0 1)
    rw [← ht, laneOf_portPlaced] at hl
    refine ⟨rfl, congrArg Lane.width hl, congrArg Lane.phy hl, congrArg Lane.fec hl, congrArg Lane.vlanId hl, congrArg Lane.ip hl,
      congrArg Lane.mask hl, congrArg Lane.primary hl, congrArg Lane.member hl, fun hm i h0 hi => ?_⟩
    obtain ⟨hmember, hprimary⟩ := portPlaced_member h0 hi hm
    have hk := hshape (par c 0 1 + i)
    rw [← ht] at hk
    exact ⟨(congrArg Lane.member hk).trans hmember, (congrArg Lane.primary hk).trans hprimary⟩
  case query =>
    intro c s h
    refine answers_of_act (o := opLanePortQuery) rfl h ⟨rfl, rfl, ?_⟩
    simp [List.append_assoc, le_leBytes_append, le_skip]
  case up =>
    intro c s h hp he hl
    refine answers_of_act (o := opLaneEnable) rfl h ⟨rfl, ?_⟩
    have hu : linkAllowed (modLane (par c 0 1) (fun x => { x with enabled := true }) s) (par c 0 1 / 8) = true := hl
    simp only [hp, he, beq_self_eq_true, Bool.true_eq_false, if_false, if_true, beq_iff_eq, enterLink_up hu (by rw [laneOf_modLane_same]), laneOf_bumpPkg, laneOf_putLane_same, laneOf_modLane_same]
    exact ⟨rfl, rfl⟩
  case down =>
    intro c s h hp he
    refine answers_of_act (o := opLaneEnable) rfl h ⟨rfl, ?_⟩
    have hne : (par c 1 1 == 1) = false := by simp [hp]
    simp only [hne, he, Bool.false_eq_true, beq_iff_eq, if_false, laneOf_bumpPkg]
    exact disablePort_lane _ _
  case same =>
    intro c s h hp
    have hsame : (par c 1 1 == 1) = (laneOf s (par c 0 1)).enabled := by
      rw [Bool.eq_iff_iff, beq_iff_eq]
      exact hp
    refine answers_of_act (o := opLaneEnable) rfl h ⟨rfl, ?_⟩
    simp only [hsame, beq_self_eq_true, if_true, true_and]
    cases (laneOf s (par c 0 1)).link <;> rfl
  case agreed =>
    intro c s h he
    refine answers_of_act (o := opLaneErOffer) rfl h ?_
    simp only [opLaneErOffer, he, if_true]
    exact ⟨rfl, rfl, rfl⟩
  case offer =>
    intro c s h he
    refine runs_of_act (o := opLaneErOffer) rfl h ?_
    simp only [opLaneErOffer, he, if_false, WaitsIn]
    exact ⟨by rw [modEr, laneOf_modLane_same, laneOf_addWait], heldKey_addWait s (List.mem_singleton.mpr rfl)⟩
  case bind =>
    intro c s h
    refine answers_of_act (o := opLaneMgmtBind) rfl h ?_
    simp only [opLaneMgmtBind]
    split
    · next hsame => exact ⟨rfl, hsame.1, hsame.2, rfl⟩
    · refine ⟨rfl, ?_, ?_, rfl⟩ <;> rw [laneOf_bumpPkg, laneOf_putLane_same]
  case clear =>
    intro c s h
    refine answers_of_act (o := opLaneCountersClear) rfl h ⟨rfl, fun k hk => ?_, fun k hk => ?_, rfl⟩
    · rw [laneOf_clearCounters, if_pos hk]
    · rw [laneOf_clearCounters, if_neg hk]
  case scan =>
    intro c s h
    refine runs_of_act (o := opLaneEyeScan) rfl h ?_
    simp only [opLaneEyeScan, WaitsIn]
    refine ⟨?_, rfl⟩
    rw [laneOf_addJob, laneOf_modLane_same]
  case scanned =>
    intro l cells s e he hd
    obtain ⟨a, hexec⟩ := exec_eyeScanComplete (cells := cells) he hd
    refine runs_next hexec ⟨?_, fun hn => ?_⟩
    · rw [laneOf_finish, laneOf_modLane_same]
    · rw [finish_none]
      · rfl
      · exact hn

end Sys2Proof.Machine
end

section
/-!
PROOF. The link state machine (O39) and the extended-rate exchange (O40).
-/
namespace Sys2Proof.Machine
open Sys2Proof

/-! ### Steps of the link state machine -/

theorem linkStep_taken {l wait : Nat} {st : LinkState} {s : State} (f : Lane → Lane) (hp : (laneOf s l).primary = true)
    (hst : (laneOf s l).link = st) (ht : (laneOf s l).since + wait ≤ s.clock) :
    linkStep l st wait s f = putLane l { f (laneOf s l) with since := s.clock } s := by
  simp [linkStep, hp, hst, ht]

/-- An attempt that fails leaves the lane waiting, counted. -/
theorem linkStep_failAttempt {l wait : Nat} {st : LinkState} {s : State} (hp : (laneOf s l).primary = true)
    (hst : (laneOf s l).link = st) (ht : (laneOf s l).since + wait ≤ s.clock) :
    (laneOf (linkStep l st wait s failAttempt) l).link = .retryWait
      ∧ (laneOf (linkStep l st wait s failAttempt) l).attempts = min 255 ((laneOf s l).attempts + 1)
      ∧ (laneOf (linkStep l st wait s failAttempt) l).since = s.clock := by
  rw [linkStep_taken _ hp hst ht, laneOf_putLane_same]
  exact ⟨rfl, rfl, rfl⟩

/-! ### UP and its loss -/

/-- What the link state machine keeps of a lane. -/
def linkView (x : Lane) : LinkState × Nat × Nat × Nat := (x.link, x.rate, x.attempts, x.since)

theorem erSend_keeps {β : Type} {g : Lane → β} (h : ∀ (x : Lane) (c : LaneCounters), g { x with counters := c } = g x) (l type delay : Nat)
    (s : State) : LanesKeep g s (erSend l type delay s) := by
  unfold erSend; dsimp only
  split
  · exact sendFrame_keeps h _ _ _
  · exact .refl _

theorem erFirst_keeps {β : Type} {g : Lane → β} (hc : ∀ (x : Lane) (c : LaneCounters), g { x with counters := c } = g x)
    (he : ∀ (x : Lane) (e : Exchange), g { x with er := e } = g x) (l type delay : Nat) (s : State) : LanesKeep g s (erFirst l type delay s) := by
  unfold erFirst
  split
  · exact .trans (t := modEr l (fun e => { e with seq := e.seq + 1, sent := 1, lastSent := s.clock, firstSent := s.clock }) s)
      (.modLane fun x => he x _) (erSend_keeps hc _ _ _ _)
  · exact .modLane fun x => he x _

theorem exec_linkUp {l : Nat} {s : State} (hp : (laneOf s l).primary = true) (hst : (laneOf s l).link = .locking)
    (ht : (laneOf s l).since + 10 * ms ≤ s.clock) : ∃ t, exec (.linkUp l) s = .next t ∧ linkView (laneOf t l) =
      (.up, rateCode (laneOf s l), 0, s.clock) := by
  refine ⟨_, rfl, ?_⟩
  simp only [hp, hst, ht, decide_true, Bool.and_true, Bool.not_true, Bool.false_eq_true, if_false]
  generalize hu : putLane l _ s = u
  have hlane : linkView (laneOf u l) = (.up, rateCode (laneOf s l), 0, s.clock) := by rw [← hu, laneOf_putLane_same]; rfl
  have hlocks : LanesKeep linkView u (raiseLane l 0 (rateCode (laneOf s l)) { setLocks l true u with
      st := { (setLocks l true u).st with reqId := tput (setLocks l true u).st.reqId l 0 } }) :=
    (setLocks_keeps (fun _ _ => rfl) l true u).trans (.of_lanes fun k => laneOf_raiseLane _ k _ _ _)
  refine .trans ?_ hlane
  refine (LanesKeep.trans hlocks ?_) l
  generalize raiseLane l 0 _ _ = v
  have herr (f : Exchange → Exchange) (type : Nat) : LanesKeep linkView v (erFirst l type 0 (modEr l f v)) :=
    .trans (t := modEr l f v) (.modLane fun _ => rfl) (erFirst_keeps (fun _ _ => rfl) (fun _ _ => rfl) _ _ _ _)
  have hend (w : State) (hw : LanesKeep linkView v w) :
      LanesKeep linkView v (if (laneOf s l).gratArp then gratuitousArp l (laneOf s l) w else w) := by
    split
    · exact hw.trans (sendFrame_keeps (fun _ _ => rfl) _ _ _)
    · exact hw
  refine hend _ ?_
  split
  · exact herr _ _
  · split
    · exact herr _ _
    · exact .refl _

/-- Each listed lane is counted once, and no other. -/
theorem laneOf_countLanes {f : LaneCounters → LaneCounters} (l : List Nat) (hl : l.Nodup) (s : State) (k : Nat) :
    laneOf (l.foldl (fun s k => countLane k f s) s) k =
      if k ∈ l then { laneOf s k with counters := f (laneOf s k).counters } else laneOf s k := by
  induction l generalizing s with
  | nil => simp
  | cons j l ih =>
    rw [List.nodup_cons] at hl
    rw [List.foldl_cons, ih hl.2]
    by_cases hj : k = j
    · subst hj; simp [countLane, hl.1]
    · simp [countLane, laneOf_modLane_other _ _ hj, hj]

theorem portLanes_nodup (s : State) (l : Nat) : (portLanes s l).Nodup :=
  List.pairwise_map.mpr (List.nodup_range.imp fun h heq => h (Nat.add_left_cancel heq))

theorem exec_linkLoss {l : Nat} {s : State} (hp : (laneOf s l).primary = true) (hst : (laneOf s l).link = .up) :
    ∃ t, exec (.linkLoss l false) s = .next t ∧ (laneOf t l).link = .retryWait ∧ (laneOf t l).rate = 0
      ∧ ∀ k ∈ portLanes s l, (laneOf t k).counters.linkLosses = (laneOf s k).counters.linkLosses + 1 := by
  refine ⟨_, rfl, ?_⟩
  simp only [hp, hst, decide_true, Bool.and_true, Bool.not_true, Bool.false_eq_true, if_false, laneOf_raiseLane]
  generalize hu : setLocks l false (failScans l s) = u
  have hkeep : LanesKeep (fun x => (x.width, x.counters)) s u := by
    rw [← hu]
    exact (failScans_keeps (fun _ => rfl) l s).trans (setLocks_keeps (fun _ _ => rfl) _ _ _)
  generalize hv : modLane l _ u = v
  have hv' : LanesKeep (fun x => (x.width, x.counters)) u v := by rw [← hv]; exact .modLane
  have hsv := hkeep.trans hv'
  have hlane : (laneOf v l).link = .retryWait ∧ (laneOf v l).rate = 0 := by rw [← hv, laneOf_modLane_same]; exact ⟨rfl, rfl⟩
  have hwidth : (laneOf v l).width = (laneOf s l).width := congrArg Prod.fst (hsv l)
  have hlanes : portLanes v l = portLanes s l := by rw [portLanes, portLanes, hwidth]
  have hcount := laneOf_countLanes (f := fun c => { c with linkLosses := c.linkLosses + 1 }) _ (portLanes_nodup v l) v
  refine ⟨?_, ?_, fun k hk => ?_⟩
  · rw [hcount]; split <;> exact hlane.1
  · rw [hcount]; split <;> exact hlane.2
  · rw [hcount, if_pos (hlanes ▸ hk)]
    exact congrArg (fun y => y.2.linkLosses + 1) (hsv k)

/-! ### Frames -/

/-- A PTP event frame at layer 2 goes to package time. -/
theorem exec_rxFrame_ptp {l : Nat} {b : List Byte} {s : State} (hp : (laneOf s l).primary = true) (hst : (laneOf s l).link = .up)
    (hmin : 64 ≤ b.length) (hmax : b.length ≤ 9600) (hcrc : crc32 (b.take (b.length - 4)) = le b (b.length - 4) 4)
    (hty : be b 12 2 = 0x88F7) (hmac : acceptsMac s l (be b 0 6) = true) : exec (.rxFrame l b) s = .next
      (modLane l (fun x => { x with toTime := x.toTime ++ [{ bytes := b.take (b.length - 4), stamp := rxStamp s l, at_ := s.clock }] })
        (countLane l (fun c => { c with rxFrames := c.rxFrames + 1, rxBytes := c.rxBytes + BitVec.ofNat 64 b.length }) s)) := by
  have hbe (i n : Nat) (h : i + n ≤ b.length - 4) : be (b.take (b.length - 4)) i n = be b i n := by
    simp only [be, List.drop_take, List.take_take]
    congr 3; omega
  simp only [exec, execRxFrame, hp, hst, decide_true, Bool.and_true, Bool.not_true, Bool.false_eq_true, if_false,
    Nat.not_lt.mpr hmin, Nat.not_lt.mpr hmax, hcrc, ne_eq, not_true_eq_false, hbe 12 2 (by omega), hbe 0 6 (by omega), hty, hmac]
  simp [removeTag, isTagType, hbe 12 2 (by omega), hty, classify]

/-- The frame at the head of a management transmit queue is sent. -/
theorem exec_mgmtTxFrame {l : Nat} {b : List Byte} {s : State} {v : Queue} {d : Desc} {rest : List Desc}
    (hq : queue? s (queueOfHandle (laneOf s l).txq) = some v) (hlive : queueLive s (laneOf s l).txq .management = true)
    (hheld : held s (queueOfHandle (laneOf s l).txq) = false) (hst : (laneOf s l).link = .up) (hy : yields s l 6 = false)
    (hv : v.ready = d :: rest) (hmin : 14 ≤ d.len) (hmax : d.len ≤ 9596) : ∃ t, exec (.mgmtTxFrame l b) s = .next t
      ∧ t.mv.mgmt = s.mv.mgmt ++ [{ queue := queueOfHandle (laneOf s l).txq, desc := d, result := d.len, status := .ok }]
      ∧ (laneOf t l).counters.txFrames = (laneOf s l).counters.txFrames + 1 := by
  refine ⟨_, rfl, ?_⟩
  simp only [hq, hlive, hheld, isUp, hst, hy, hv, Nat.not_lt.mpr hmin, Nat.not_lt.mpr hmax, decide_true, decide_false, Bool.not_true,
    Bool.or_self, Bool.false_eq_true, if_false]
  generalize tagFrame _ _ = frame
  have hstamp (u : State) : (stampTx l frame u).mv = u.mv :=
    (stampTx_within l frame (.refl (allBut .mv) u) rfl).keeps (c := .mv)
  have hsent : (laneOf (sendFrame l frame (putQueue (queueOfHandle (laneOf s l).txq) { v with ready := rest, inUse := v.inUse + 1 } s)) l).counters.txFrames
      = (laneOf s l).counters.txFrames + 1 := by
    unfold sendFrame
    rw [laneOf_emit, countLane, laneOf_modLane_same]
    rfl
  rw [laneOf_modMv]
  split
  · exact ⟨by rw [modMv]; simp only [hstamp]; rfl, by rw [laneOf_stampTx]; exact hsent⟩
  · exact ⟨rfl, hsent⟩

/-- Settles O39: the rows of Table 4-2 are linkStep's; UP, its loss and the frames have an equation each. -/
theorem linksComeUpAndCarryFrames : Obligations.LinksComeUpAndCarryFrames := by
  refine ⟨?negotiated, ?anFails, ?anWaits, ?trained, ?trainFails, ?lockFails, ?up, ?loss, ?retry, ?fault, ?runt, ?oversize, ?ptp, ?mgmt⟩
  case negotiated =>
    intro l s hp hst ht
    exact runs_next rfl (linkStep_taken _ hp hst ht)
  case anFails =>
    intro l s hp hst ht
    exact runs_next rfl (linkStep_failAttempt hp hst ht)
  case anWaits =>
    intro l s ht
    refine runs_next rfl ?_
    simp only [linkStep, Nat.not_le.mpr ht, decide_false, Bool.and_false, Bool.false_eq_true, if_false]
  case trained =>
    intro l s hp hst ht
    exact runs_next rfl (linkStep_taken _ hp hst ht)
  case trainFails =>
    intro l s hp hst ht
    obtain ⟨hlink, hattempts, -⟩ := linkStep_failAttempt (wait := 0) hp hst ht
    exact runs_next rfl ⟨hlink, hattempts⟩
  case lockFails =>
    intro l s hp hst ht
    obtain ⟨hlink, hattempts, -⟩ := linkStep_failAttempt hp hst ht
    exact runs_next rfl ⟨hlink, hattempts⟩
  case up =>
    intro l s hp hst ht
    obtain ⟨t, hexec, hview⟩ := exec_linkUp hp hst ht
    simp only [linkView, Prod.mk.injEq] at hview
    exact runs_next hexec hview
  case loss =>
    intro l s hp hst
    obtain ⟨t, hexec, hloss⟩ := exec_linkLoss hp hst
    exact runs_next hexec hloss
  case retry =>
    intro l s hp hst ht
    exact runs_next rfl (linkStep_taken _ hp hst ht)
  case fault =>
    intro l on s hst
    exact runs_next (t := modLane l (fun x => { x with remoteFault := on }) s) (by simp only [exec, execRemoteFaultChange, isUp, hst, decide_true,
      if_true]) rfl
  case runt =>
    intro l b s hp hst hn
    exact runs_next (by simp only [exec, execRxFrame, hp, hst, hn, decide_true, Bool.and_true, Bool.not_true, Bool.false_eq_true, if_false,
      if_true]) rfl
  case oversize =>
    intro l b s hp hst hn
    have hmin : ¬ b.length < 64 := by omega
    exact runs_next (by simp only [exec, execRxFrame, hp, hst, hn, hmin, decide_true, Bool.and_true, Bool.not_true, Bool.false_eq_true, if_false,
      if_true]) rfl
  case ptp =>
    intro l b s hp hst hmin hmax hcrc hty hmac
    refine runs_next (exec_rxFrame_ptp hp hst hmin hmax hcrc hty hmac) ?_
    simp only [countLane, laneOf_modLane_same, and_self]
  case mgmt =>
    intro l b s v d rest hq hlive hheld hst hy hv hmin hmax
    obtain ⟨t, hexec, hsent⟩ := exec_mgmtTxFrame hq hlive hheld hst hy hv hmin hmax
    exact runs_next hexec hsent

/-! ### A repeat of an OFFER that is not yet sent -/

/-- Lane 0 is UP, and its OFFER fell due while it was not: none is sent. -/
def offerHeld : State := { State.reset with clock := 10 * ms, lanes := [(0, { link := .up, er := { state := .offered } })] }

theorem exec_erOfferRepeat_offerHeld : exec (.erOfferRepeat 0) offerHeld = .next (erFirst 0 erOffer 0 offerHeld) := rfl

theorem seq_erFirst_offerHeld : (laneOf (erFirst 0 erOffer 0 offerHeld) 0).er.seq = 1 := rfl

/-- Refutes O40: a repeat of an OFFER of which none is sent yet is its first frame, and takes the next SEQ. -/
theorem not_extendedRateExchange : ¬ Obligations.ExtendedRateExchange := by
  rintro ⟨-, hrepeat, -⟩
  obtain ⟨t, hexec, her⟩ := hrepeat 0 offerHeld rfl rfl rfl (by decide) (by decide)
  rw [exec_erOfferRepeat_offerHeld] at hexec
  cases hexec
  have hseq := congrArg Exchange.seq her
  rw [seq_erFirst_offerHeld] at hseq
  exact absurd hseq (by decide)

end Sys2Proof.Machine
end

section
/-!
PROOF. The stream commands (O41) and received packets (O42).
-/
namespace Sys2Proof.Machine
open Sys2Proof

@[simp] theorem channelOf_putChannel_same (g : Nat) (c : Channel) (s : State) : channelOf (putChannel g c s) g = c := by
  simp [channelOf, putChannel]

@[simp] theorem channelOf_modChannel_same (g : Nat) (f : Channel → Channel) (s : State) : channelOf (modChannel g f s) g = f (channelOf s g) :=
  channelOf_putChannel_same _ _ _

theorem channelOf_putChannel_other {g k : Nat} (c : Channel) (s : State) (h : k ≠ g) : channelOf (putChannel g c s) k = channelOf s k := by
  simp [channelOf, putChannel, tget_tput_other _ _ _ h]

theorem channelOf_congr {s t : State} (h : t.st = s.st) (g : Nat) : channelOf t g = channelOf s g := by rw [channelOf, channelOf, h]

/-! ### A new shadow set -/

/-- The commit that perFrame sends for a set. -/
def sentCommit (s : State) (g : Nat) (set : ChanSet) (build : Bool) (result : List Byte) : PendingCommit where
  set := alignRois (channelOf s g).sent { set with gen := genAfter s g set }
  wait := some s.eng.nextWait
  building := build
  result := result

/-- A command that gives its channel a set through perFrame, from a state with the same channels and objects, settles PerFrame. -/
theorem perFrame_of_act_from {i : Instr} {o : OpDef} {c : Cmd} {s s' : State} {op room : Nat} {set : ChanSet} {build : Bool}
    {result : List Byte} (hi : opRow i = some (o, c)) (h : Accepted o c s) (hst : s'.st = s.st) (heng : s'.eng = s.eng)
    (ha : o.act c s = perFrame op c room set build result s') : PerFrame i o.code c s (chanOfHandle (tgt c)) set := by
  have hchan : channelOf s' (chanOfHandle (tgt c)) = channelOf s (chanOfHandle (tgt c)) := channelOf_congr hst _
  have hgen : genAfter s' (chanOfHandle (tgt c)) set = genAfter s (chanOfHandle (tgt c)) set := by
    simp only [genAfter, hchan, obj?, heng]
  have hobj (f : Obj → Obj) : channelOf (modObj (chanSlot (chanOfHandle (tgt c))) f s') (chanOfHandle (tgt c))
      = channelOf s (chanOfHandle (tgt c)) := by
    refine .trans ?_ hchan
    unfold modObj
    split <;> rfl
  have hwait (f : Obj → Obj) : channelOf (addWait op c [] room (modObj (chanSlot (chanOfHandle (tgt c))) f s')) (chanOfHandle (tgt c))
      = channelOf s (chanOfHandle (tgt c)) := hobj f
  have hnext (f : Obj → Obj) : (modObj (chanSlot (chanOfHandle (tgt c))) f s').eng.nextWait = s.eng.nextWait := by
    rw [← heng]
    unfold modObj
    split <;> rfl
  constructor
  · intro hstaging
    refine answers_of_act hi h ?_
    rw [ha]
    simp only [perFrame, perFrameOn, hchan, hgen, hstaging, if_true]
    refine ⟨rfl, (channelOf_modChannel_same _ _ _).trans ?_⟩
    simp only [hobj, hstaging]
  · intro hstaging
    refine runs_of_act hi h ?_
    rw [ha]
    simp only [perFrame, perFrameOn, hchan, hgen, hstaging, Bool.false_eq_true, if_false, hobj, hnext]
    refine ⟨sentCommit s (chanOfHandle (tgt c)) set build result, rfl, rfl, rfl, (channelOf_modChannel_same _ _ _).trans ?_⟩
    simp only [hwait, hstaging, sentCommit]

/-- A command that gives its channel a set through perFrame settles PerFrame. -/
theorem perFrame_of_act {i : Instr} {o : OpDef} {c : Cmd} {s : State} {op room : Nat} {set : ChanSet} {build : Bool} {result : List Byte}
    (hi : opRow i = some (o, c)) (h : Accepted o c s) (ha : o.act c s = perFrame op c room set build result s) :
    PerFrame i o.code c s (chanOfHandle (tgt c)) set :=
  perFrame_of_act_from hi h rfl rfl ha

/-! ### STREAM_CREATE -/

/-- An object of a kind below that of segments. -/
theorem armSegment_obj {g j : Nat} {x : Segment} {o : Obj} {s : State} {r : Nat × State} (hj : j < slotOf 3 0 0)
    (h : armSegment g x o s = some r) : obj? r.2 j = obj? s j := by
  unfold armSegment at h
  split at h
  · cases h
  · obtain ⟨i, -, rfl⟩ := Option.map_eq_some_iff.mp h
    refine tget?_tput_other _ _ ?_
    simp only [slotOf, segSlot] at hj ⊢
    omega

theorem freezeSegment_obj {k j : Nat} {by_ : FreezeBy} {s : State} (hj : j < slotOf 3 0 0) : obj? (freezeSegment k by_ s) j = obj? s j := by
  unfold freezeSegment
  split
  · rfl
  next x _ =>
  extract_lets g t r pre post mine frames pages x' u v w lack y z fresh next y'
  have hw : w.eng = s.eng := (refillRing_within g (.refl (allBut .eng) v) rfl).keeps (c := .eng)
  have hy : y.eng = w.eng := by
    simp only [y]
    split
    · rfl
    · exact raise_eng _ _ _ _
  have hz : z.eng = y.eng := (trim_within g (.refl (allBut .eng) y) rfl).keeps (c := .eng)
  have hzs : obj? z j = obj? s j := by rw [obj?, obj?, hz, hy, hw]
  have hy' : obj? y' j = obj? z j := by
    simp only [y']
    cases hn : next with
    | none => rfl
    | some r =>
      simp only [next] at hn
      split at hn
      · exact armSegment_obj hj hn
      · cases hn
  rw [obj?, raise_eng]
  exact hy'.trans hzs

theorem settleRing_obj {g j : Nat} {s : State} (hj : j < slotOf 3 0 0) : obj? (settleRing g s) j = obj? s j := by
  unfold settleRing
  extract_lets now t
  split
  · rfl
  · split
    · split
      · exact freezeSegment_obj hj
      · rfl
    · rfl

theorem settleRing_st (g : Nat) (s : State) : (settleRing g s).st = s.st :=
  (settleRing_within g (.refl (allBut .st) s) rfl).keeps (c := .st)

/-- A lane that stands for a port belongs to a tile of the package. -/
theorem laneTile_lt {c : Cmd} {s : State} (h : Accepted opStreamCreate c s) : par c 0 1 / 8 < 8 := by
  have hbad := h.checks.params_ok.1 (0, !isPrimary s (par c 0 1)) List.mem_cons_self
  have hlane : par c 0 1 < tiles s * 8 := by
    simp only [isPrimary, Bool.not_eq_false', Bool.and_eq_true, decide_eq_true_eq] at hbad
    exact hbad.1
  have := tiles_le s
  omega

theorem lowestFree_lt {used : List Nat} {lo n i : Nat} (h : lowestFree used lo n = some i) : i < lo + n := by
  induction n generalizing lo with
  | zero => cases h
  | succ n ih =>
    unfold lowestFree at h
    split at h
    · have := ih h; omega
    · cases h; omega

/-! ### STREAM_DESTROY -/

theorem dropObj_st (k : Nat) (s : State) : (dropObj k s).st = s.st := (dropObj_within k (.refl (allBut .st) s) rfl).keeps (c := .st)
theorem refillShort_st (t : Nat) (s : State) : (refillShort t s).st = s.st := (refillShort_within t (.refl (allBut .st) s) rfl).keeps (c := .st)

/-- A channel that ends stays so while its ring and its object go. -/
theorem endedChannel (g k n : Nat) (f : Ring → Ring) (u : State) :
    (channelOf (dropObj k (refillShort n (modRing g f (modChannel g (fun c => { c with
      live := false, blocks := [], frames := [], commits := [], staging := false }) u)))) g).live = false
    ∧ (channelOf (dropObj k (refillShort n (modRing g f (modChannel g (fun c => { c with
      live := false, blocks := [], frames := [], commits := [], staging := false }) u)))) g).blocks = [] := by
  have hring (v : State) : channelOf (modRing g f v) g = channelOf v g := rfl
  rw [channelOf_congr (dropObj_st _ _), channelOf_congr (refillShort_st _ _), hring, channelOf_modChannel_same]
  exact ⟨rfl, rfl⟩

/-- A channel that is destroyed is not live and has no open block. -/
theorem channelOf_destroyChannel (k : Nat) (s : State) : (channelOf (destroyChannel k s) (slotTile k * 64 + slotIndex k)).live = false
    ∧ (channelOf (destroyChannel k s) (slotTile k * 64 + slotIndex k)).blocks = [] := by
  unfold destroyChannel
  exact endedChannel _ _ _ _ _

theorem layoutBytes_length (y : Layout) : (layoutBytes y).length = 64 := by
  unfold layoutBytes
  simp only [zeros, List.length_append, leBytes_length, List.length_replicate]
  rfl

/-- Settles O41: the actions of the commands; STREAM_CONFIG by perFrame, STREAM_CREATE by what settling its ring leaves. -/
theorem streamCommandsComplete : Obligations.StreamCommandsComplete := by
  refine ⟨?port, ?source, ?create, fun c s h => perFrame_of_act (o := opStreamConfig) rfl h rfl, ?destroy, ?query, ?action, ?actionQuery⟩
  case port =>
    intro c s h
    refine answers_of_act (o := opStreamPortSet) rfl h ?_
    simp only [opStreamPortSet]
    split
    · next hsame => exact ⟨rfl, hsame, rfl, rfl⟩
    · exact ⟨rfl, tget_tput_same _ _ _ _, rfl, rfl⟩
  case source =>
    intro c s h
    refine answers_of_act (o := opStreamSourceSet) rfl h ?_
    simp only [opStreamSourceSet]
    split
    · next hsame => exact ⟨rfl, hsame, rfl, rfl⟩
    · exact ⟨rfl, tget_tput_same _ _ _ _, rfl, rfl⟩
  case create =>
    intro c s h
    have hroom := h.checks.room
    simp only [opStreamCreate, Bool.or_eq_false_iff, Option.isNone_eq_false_iff, Option.isSome_iff_exists] at hroom
    obtain ⟨⟨i, hi⟩, -⟩ := hroom
    have hi64 : i < 0 + 64 := lowestFree_lt hi
    have htile := laneTile_lt h
    refine ⟨i, hi, answers_of_act (o := opStreamCreate) rfl h ?_⟩
    simp only [opStreamCreate, hi, Option.getD_some]
    refine ⟨rfl, rfl, ?_, ?_⟩
    · rw [settleRing_obj (by simp only [slotOf]; omega)]
      exact tget?_tput_same _ _ _
    · exact (channelOf_congr (settleRing_st _ _) _).trans (tget_tput_same _ _ _ _)
  case destroy =>
    intro c s h
    exact answers_of_act (o := opStreamDestroy) rfl h ⟨rfl, rfl, rfl, channelOf_destroyChannel _ _⟩
  case query =>
    intro c s h
    refine answers_of_act (o := opStreamQuery) rfl h ⟨rfl, rfl, ?_⟩
    simp only [streamView, List.append_assoc]
    exact List.take_left' (layoutBytes_length _)
  case action =>
    intro c s h
    refine answers_of_act (o := opActionSet) rfl h ?_
    simp only [opActionSet]
    split
    · next hsame => exact ⟨rfl, hsame.symm⟩
    · exact ⟨rfl, tget_tmod_same _ _ _ _⟩
  case actionQuery =>
    intro c s h
    exact answers_of_act (o := opActionQuery) rfl h ⟨rfl, rfl, rfl⟩

/-! ### A channel that holds a block twice -/

/-- A datagram from address 0.0.0.0 and port 0 with a GVSP data packet: block 1, position 2. -/
def dataFrame : RxFrame := { bytes := zeros 14 ++ [0x45, 0, 0, 36, 0, 0, 0, 0, 0, 17] ++ zeros 10 ++ [0, 0, 0, 0, 0, 16, 0, 0]
  ++ [0, 0, 0, 1, 3, 0, 0, 2], stamp := 0 }

def dataPacket : Gvsp := { status := 0, ei := false, block := 1, format := 3, pid := 2, body := [] }

/-- A block that has position 2 and no trailer. -/
def openedBlock : Block := { id := 1, positions := [(2, .present 0 [] false)], first := 0 }

/-- Channel 0 holds block 1 twice: the second has its trailer at position 1. -/
def blockTwice : State := { State.reset with
  lanes := [(0, { toStream := [dataFrame] })]
  st := { State.reset.st with channels := [(0, { live := true, blocks := [openedBlock, { id := 1, trailer := some 1, first := 0 }] })] } }

theorem duplicates_blockTwice : ∃ t, exec (.gvspPacket 0) blockTwice = .next t ∧ (channelOf t 0).counters.packetsDuplicate = 0 := ⟨_, rfl, rfl⟩

/-- Refutes O42: a channel that holds a block twice drops a data packet beyond the trailer of the second as malformed, though the first has
no trailer and holds its position. -/
theorem not_packetsAndGaps : ¬ Obligations.PacketsAndGaps := by
  rintro ⟨-, -, -, hdup, -⟩
  obtain ⟨t, hexec, hcount⟩ := hdup 0 blockTwice dataFrame [] 0 dataPacket 1 openedBlock 0 [] false rfl rfl rfl rfl rfl
    List.mem_cons_self rfl rfl (fun k hk => by cases hk) (by decide) rfl rfl
  obtain ⟨u, hexec', hzero⟩ := duplicates_blockTwice
  rw [hexec'] at hexec
  cases hexec
  rw [hzero] at hcount
  exact absurd hcount (by decide)

end Sys2Proof.Machine
end

section
/-!
PROOF. Channels: what the closing of blocks, the assembler's counts and a reply leave of every channel.
-/
namespace Sys2Proof.Machine
open Sys2Proof

section
variable (s : State)

theorem raiseChan_st (g l n : Nat) : (raiseChan g l n s).st = s.st := (raiseChan_within g l n (.refl (allBut .st) s) rfl).keeps (c := .st)
theorem raise_st (t l n : Nat) : (raise t l n s).st = s.st := (raise_within t l n (.refl (allBut .st) s) rfl).keeps (c := .st)
theorem finish_st (id : Nat) (a : Answer) : (finish id a s).st = s.st := (finish_within id a (.refl (allBut .st) s) rfl).keeps (c := .st)
theorem pairClosed_st (g : Nat) (f : Frame) : (pairClosed g f s).st = s.st := (pairClosed_within g f (.refl (allBut .st) s) rfl).keeps (c := .st)
theorem requestSkew_st (g : Nat) (q : U64) : (requestSkew g q s).st = s.st := (requestSkew_within g q (.refl (allBut .st) s) rfl).keeps (c := .st)
theorem decideRule_st (g idx : Nat) (c : RuleCfg) (f : Frame) (need : Nat) (met : Bool) : (decideRule g idx c f need met s).st = s.st :=
  (decideRule_within g idx c f need met (.refl (allBut .st) s) rfl).keeps (c := .st)
theorem captureAll_st (g : Nat) (f : Frame) : (captureAll g f s).st = s.st := (captureAll_within g f (.refl (allBut .st) s) rfl).keeps (c := .st)
theorem modQueue_st (q : Nat) (f : Queue → Queue) : (modQueue q f s).st = s.st := (modQueue_within q f (.refl (allBut .st) s) rfl).keeps (c := .st)

end

/-- Every channel has the same value of h before and after. -/
def ChansKeep {β : Type} (h : Channel → β) (s t : State) : Prop := ∀ g, h (channelOf t g) = h (channelOf s g)

namespace ChansKeep

variable {β : Type} {h : Channel → β}

theorem refl (s : State) : ChansKeep h s s := fun _ => rfl

theorem trans {s t u : State} (a : ChansKeep h s t) (b : ChansKeep h t u) : ChansKeep h s u := fun g => (b g).trans (a g)

theorem of_st {s t : State} (e : t.st = s.st) : ChansKeep h s t := fun g => congrArg h (channelOf_congr e g)

theorem putChannel {g : Nat} {c : Channel} {s : State} (e : h c = h (channelOf s g)) : ChansKeep h s (putChannel g c s) := by
  intro k
  by_cases hk : k = g
  · subst hk; rw [channelOf_putChannel_same, e]
  · rw [channelOf_putChannel_other _ _ hk]

theorem modChannel {f : Channel → Channel} {g : Nat} {s : State} (e : h (f (channelOf s g)) = h (channelOf s g)) :
    ChansKeep h s (modChannel g f s) := putChannel e

theorem foldl {α : Type} {f : State → α → State} (hf : ∀ s x, ChansKeep h s (f s x)) (l : List α) (s : State) :
    ChansKeep h s (l.foldl f s) := by
  induction l generalizing s with
  | nil => exact refl s
  | cons x l ih => exact (hf s x).trans (ih _)

end ChansKeep

/-- The number that the next frame of a channel takes; only a frame that is opened moves it. -/
def frameNumber (c : Channel) : U64 := c.nextFrame

section
variable (g : Nat) (s : State)

theorem modFrame_number (q : U64) (f : Frame → Frame) : ChansKeep frameNumber s (modFrame g q f s) := .modChannel rfl
theorem countChannel_number (f : ChanCounters → ChanCounters) : ChansKeep frameNumber s (countChannel g f s) := .modChannel rfl

theorem raiseIncomplete_number (n : Nat) : ChansKeep frameNumber s (raiseIncomplete g n s) := by
  unfold raiseIncomplete
  split
  · exact .trans (t := modChannel g (fun c => { c with incompleteAt := some s.clock }) s) (.modChannel rfl) (.of_st (raiseChan_st _ _ _ _))
  · exact .refl _

theorem sweepFrames_number : ChansKeep frameNumber s (sweepFrames g s) := by
  unfold sweepFrames
  exact .trans (t := modChannel g (fun c => { c with frames := c.frames.filter fun f => !frameDone f }) s) (.modChannel rfl)
    (.of_st (settleRing_st _ _))

theorem leaveBacklog_number (q : U64) : ChansKeep frameNumber s (leaveBacklog g q s) := by
  unfold leaveBacklog
  dsimp only
  split
  · exact .refl _
  · exact .trans (modFrame_number g s q fun f => { f with backlog := 0 }) (.of_st (refillShort_st _ _))

theorem abandonLive_number (q : U64) : ChansKeep frameNumber s (abandonLive g q s) := by
  unfold abandonLive
  extract_lets mine t u
  have hu : ChansKeep frameNumber t u := .foldl (fun v d => .of_st (modQueue_st v _ _)) _ _
  exact ((leaveBacklog_number g s q).trans hu).trans (.of_st rfl)

theorem dropFrame_number (q : U64) : ChansKeep frameNumber s (dropFrame g q s) := by
  unfold dropFrame
  exact (((abandonLive_number g s q).trans (modFrame_number g _ q _)).trans (countChannel_number g _ _)).trans (sweepFrames_number g _)

theorem missTrailer_number : ChansKeep frameNumber s (missTrailer g s) := by
  unfold missTrailer
  split
  · exact .refl _
  · split
    · exact .refl _
    · exact .trans (t := modHead g _ s) (.modChannel rfl) (countChannel_number g _ _)

theorem closeHead_number : ChansKeep frameNumber s (closeHead g s) := by
  unfold closeHead
  split
  · exact .refl _
  next b rest _ =>
  extract_lets n t drop
  have ht : ChansKeep frameNumber s t := .modChannel rfl
  have hdrop (u : State) : ChansKeep frameNumber u (drop u) := (countChannel_number g u _).trans (raiseIncomplete_number g _ n)
  split
  · exact ht.trans (hdrop _)
  next f _ =>
  split
  · exact ht.trans (((ChansKeep.of_st (pairClosed_st _ _ _)).trans (dropFrame_number g _ _)).trans (hdrop _))
  · extract_lets f' u v
    have hu : ChansKeep frameNumber t u := by
      refine .trans ?_ (modFrame_number g _ _ _)
      refine .of_st ((pairClosed_st _ _ _).trans ?_)
      split <;> rfl
    have hv : ChansKeep frameNumber u v := countChannel_number g _ _
    split
    · exact (ht.trans hu).trans hv
    · exact ((ht.trans hu).trans hv).trans (raiseIncomplete_number g _ n)

theorem advance_number (n : Nat) : ChansKeep frameNumber s (advance g n s) := by
  induction n generalizing s with
  | zero => exact .refl _
  | succ n ih =>
    unfold advance
    dsimp only
    split
    · exact .refl _
    · split
      · exact .refl _
      · split
        · exact ((missTrailer_number g s).trans (closeHead_number g _)).trans (ih _)
        · exact .refl _

theorem noteReady_number (a : Nat) : ChansKeep frameNumber s (noteReady g a s) := .modChannel rfl

theorem countStale_number (n : Nat) : ChansKeep frameNumber s (countStale g n s) := by
  unfold countStale
  split
  · exact .refl _
  · extract_lets t c
    have ht : ChansKeep frameNumber s t := .modChannel rfl
    split
    · refine ht.trans (.trans (t := putChannel g { c with staleCount := 0, staleAt := some s.clock } t) (.putChannel rfl) (.of_st (raiseChan_st _ _ _ _)))
    · exact ht

theorem countClamped_number : ChansKeep frameNumber s (countClamped g s) := by
  unfold countClamped
  extract_lets t c
  have ht : ChansKeep frameNumber s t := .modChannel rfl
  split
  · refine ht.trans (.trans (t := putChannel g { c with clampedCount := 0, clampedAt := some s.clock } t) (.putChannel rfl) (.of_st (raiseChan_st _ _ _ _)))
  · exact ht

theorem frameDecided_number (f : Frame) (roi energy : Nat) (idle : Tab RuleCfg) : ChansKeep frameNumber s (frameDecided g f roi energy idle s) := by
  unfold frameDecided
  refine .trans ?_ (.foldl (fun u r => .of_st (decideRule_st u _ _ _ _ _ _)) _ _)
  exact (modFrame_number g s f.seq _).trans (.of_st rfl)

/-- A frame that is opened takes the next number. -/
theorem openFrame_number (b : Block) (l : Leader) : frameNumber (channelOf (openFrame g b l s) g) = frameNumber (channelOf s g) + 1 := by
  unfold openFrame
  extract_lets c set slots mode
  split
  next e est clamped _ =>
  extract_lets m fr stale t u v w x
  have htu : ChansKeep frameNumber t u := .modChannel rfl
  have huv : ChansKeep frameNumber u v := .of_st (requestSkew_st _ _ _)
  have hvw : ChansKeep frameNumber v w := by
    simp only [w]
    split
    · exact countClamped_number g v
    · exact .refl _
  have htx : ChansKeep frameNumber t x := ((htu.trans huv).trans hvw).trans (countStale_number g w stale)
  have ht : frameNumber (channelOf t g) = frameNumber (channelOf s g) + 1 := by rw [channelOf_putChannel_same]; rfl
  split
  · exact ((htx.trans (frameDecided_number g x _ _ _ _)) g).trans ht
  · exact (htx g).trans ht

end

end Sys2Proof.Machine
end

section
/-!
PROOF. Frames and commits (O43) and the commands of the frame assembler (O44).
-/
namespace Sys2Proof.Machine
open Sys2Proof

/-! ### Leaders -/

theorem takeLeader_leader {g : Nat} {s : State} {b : Block} {l : Leader} {rest : List Block} (hb : (channelOf s g).blocks = b :: rest)
    (hf : b.frame = none) (hl : b.leader = some l) :
    takeLeader g s = if opening s (g / 64) then openFrame g b l s else discardHead g s := by
  simp only [takeLeader, hb, hf, hl]

theorem advance_empty {g : Nat} {s : State} (n : Nat) (h : (channelOf s g).blocks = []) : advance g n s = s := by
  cases n with
  | zero => rfl
  | succ n => simp only [advance, h]

theorem channelOf_noteReady (g a : Nat) (s : State) : channelOf (noteReady g a s) g = { channelOf s g with
    frames := (channelOf (noteReady g a s) g).frames } := by
  unfold noteReady
  rw [channelOf_modChannel_same]

theorem channelOf_discardHead {g : Nat} {s : State} {b : Block} {rest : List Block} (hb : (channelOf s g).blocks = b :: rest) :
    channelOf (discardHead g s) g = { channelOf s g with
      blocks := rest, dropped := b.id :: (channelOf s g).dropped, gone := keepGone (channelOf s g) [b]
      counters := { (channelOf s g).counters with framesDropped := (channelOf s g).counters.framesDropped + 1 } } := by
  unfold discardHead
  rw [channelOf_modChannel_same, hb]

/-- A channel with neither block nor frame stays as it is. -/
theorem frameLeader_empty {g : Nat} {s : State} (hb : (channelOf s g).blocks = []) (hf : (channelOf s g).frames = []) :
    channelOf (noteReady g (ns s) (advance g 8 (takeLeader g s))) g = channelOf s g := by
  have ht : takeLeader g s = s := by simp only [takeLeader, hb]
  rw [ht, advance_empty 8 hb, noteReady, channelOf_modChannel_same, hf]
  rw [List.map_nil, ← hf]

/-! ### Positions -/

theorem frames_modFrame_single {g : Nat} {s : State} {f : Frame} (F : Frame → Frame) (h : (channelOf s g).frames = [f]) :
    (channelOf (modFrame g f.seq F s) g).frames = [F f] := by
  unfold modFrame
  rw [channelOf_modChannel_same]
  simp [h]

theorem exec_positionAtMidtime {g : Nat} {s : State} {f : Frame} {n : Nat} (hf : (channelOf s g).frames = [f]) (hn : f.posWaiting = [n])
    (hm : midTime f.expo f.set ≤ (ns s : Int)) : exec (.positionAtMidtime g) s = .next (takePosition g f s n) := by
  simp [exec, execPositionAtMidtime, hf, hn, hm]

theorem positionAt_modFrame (g : Nat) (q : U64) (F : Frame → Frame) (s : State) (i : Nat) (m : Int) :
    positionAt (modFrame g q F s) i m = positionAt s i m := rfl

theorem service_modFrame (g : Nat) (q : U64) (F : Frame → Frame) (s : State) (t : Nat) : service (modFrame g q F s) t = service s t := rfl

theorem countStale_one (g : Nat) (s : State) : (channelOf (countStale g 1 s) g).frames = (channelOf s g).frames
    ∧ (channelOf (countStale g 1 s) g).counters.posStale = (channelOf s g).counters.posStale + 1 := by
  unfold countStale
  rw [if_neg Nat.one_ne_zero]
  extract_lets t c
  have ht : channelOf t g = { channelOf s g with
      staleCount := (channelOf s g).staleCount + 1, counters := { (channelOf s g).counters with
        posStale := (channelOf s g).counters.posStale + BitVec.ofNat 64 1 } } := channelOf_modChannel_same _ _ _
  have hc : c.frames = (channelOf s g).frames ∧ c.counters.posStale = (channelOf s g).counters.posStale + 1 := by
    have h := congrArg (fun c : Channel => (c.frames, c.counters.posStale)) ht
    exact Prod.mk.injEq .. ▸ h
  split
  · rw [channelOf_congr (raiseChan_st _ _ _ _), channelOf_putChannel_same]
    exact hc
  · exact hc

/-! ### Tags and commits -/

/-- The counters of a channel stand while frames of which nothing is left go. -/
theorem sweepFrames_counters (g : Nat) (s : State) : (channelOf (sweepFrames g s) g).counters = (channelOf s g).counters := by
  unfold sweepFrames
  rw [channelOf_congr (settleRing_st _ _), channelOf_modChannel_same]

theorem exec_tagComplete {g : Nat} {s : State} {f : Frame} (hf : (channelOf s g).frames.find? (fun f => !f.dropped && !f.tagged) = some f)
    (ht : tagReady f = true) : ∃ t, exec (.tagComplete g) s = .next t
      ∧ (channelOf t g).counters.framesTagged = (channelOf s g).counters.framesTagged + 1 := by
  simp only [exec, execTagComplete, hf, ht, if_true]
  refine ⟨_, rfl, ?_⟩
  have hsample (u : State) : (sampleAll g f u).st = u.st := rfl
  rw [sweepFrames_counters, channelOf_congr (captureAll_st _ _ _), channelOf_congr (hsample _), countChannel, channelOf_modChannel_same,
    modFrame, channelOf_modChannel_same]

/-- A commit leaves its channel with its set active and the commit gone. -/
theorem channelOf_applyCommit (g : Nat) (p : PendingCommit) (s : State) : channelOf (applyCommit g p s) g = { channelOf s g with
    active := p.set, commits := (channelOf s g).commits.drop 1, commitNs32 := ns32 s
    counters := { (channelOf s g).counters with commits := (channelOf s g).counters.commits + 1 } } := by
  unfold applyCommit
  extract_lets c cs t u v w x
  have ht : channelOf t g = { channelOf s g with
      active := p.set, commits := (channelOf s g).commits.drop 1, commitNs32 := ns32 s
      counters := { (channelOf s g).counters with commits := (channelOf s g).counters.commits + 1 } } := channelOf_putChannel_same _ _ _
  have hu : u.st = t.st := by
    simp only [u]
    split <;> rfl
  have hw : w.st = u.st := (settleRing_st _ _).trans (raiseChan_st _ _ _ _)
  have hx : x.st = t.st := by
    simp only [x]
    split
    · exact hw.trans hu
    · exact (raise_st _ _ _ _).trans (hw.trans hu)
  split
  · exact (channelOf_congr hx g).trans ht
  · exact (channelOf_congr ((finish_st _ _ _).trans hx) g).trans ht

/-- Settles O43: leaders by the number that only openFrame moves, commits by channelOf_applyCommit. -/
theorem framesAndCommitsComplete : Obligations.FramesAndCommitsComplete := by
  refine ⟨?opened, ?discarded, ?nothing, ?taken, ?stale, ?tagged, ?waits, ?commit, ?staged, ?early⟩
  case opened =>
    intro g s b l rest hb hf hl ho
    refine runs_next rfl ?_
    rw [takeLeader_leader hb hf hl, ho, if_pos rfl]
    exact (((advance_number g _ 8).trans (noteReady_number g _ _)) g).trans (openFrame_number g s b l)
  case discarded =>
    intro g s b l hb hf hl ho
    refine runs_next rfl ?_
    rw [takeLeader_leader hb hf hl, ho, if_neg Bool.false_ne_true, advance_empty 8 (by rw [channelOf_discardHead hb]), channelOf_noteReady,
      channelOf_discardHead hb]
    exact ⟨rfl, rfl, rfl⟩
  case nothing =>
    intro g s hb hf
    exact runs_next rfl (frameLeader_empty hb hf)
  case taken =>
    intro g s f n p hf hn hm hservice hp
    refine runs_next (exec_positionAtMidtime hf hn hm) ?_
    have h1 := frames_modFrame_single (fun f => { f with posWaiting := f.posWaiting.filter (· ≠ n) }) hf
    simp only [takePosition, positionAt_modFrame, service_modFrame, hservice, hp, ne_eq, not_true_eq_false, if_false]
    refine (frames_modFrame_single (fun f => { f with positions := tput f.positions n p }) h1).trans ?_
    simp [hn]
  case stale =>
    intro g s f n hf hn hm hservice hp
    refine runs_next (exec_positionAtMidtime hf hn hm) ?_
    have h1 := frames_modFrame_single (fun f => { f with posWaiting := f.posWaiting.filter (· ≠ n) }) hf
    simp only [takePosition, positionAt_modFrame, service_modFrame, hservice, hp, ne_eq, not_true_eq_false, if_false]
    obtain ⟨hframes, hcount⟩ := countStale_one g (modFrame g f.seq (fun f => { f with posWaiting := f.posWaiting.filter (· ≠ n) }) s)
    refine ⟨(hframes.trans h1).trans (by simp [hn]), hcount.trans ?_⟩
    rw [modFrame, channelOf_modChannel_same]
  case tagged =>
    intro g s f hf ht
    obtain ⟨t, hexec, hcount⟩ := exec_tagComplete hf ht
    exact runs_next hexec hcount
  case waits =>
    intro g s f hf ht
    exact runs_next (by simp only [exec, execTagComplete, hf, ht, Bool.false_eq_true, if_false]) rfl
  case commit =>
    intro g s p rest hc ha hb hs
    refine runs_next (t := applyCommit g p s) (by simp only [exec, execConfigCommitApplied, hc, ha, hb, hs, Option.isSome_none, Bool.not_true,
      Bool.or_self, Bool.false_eq_true, if_false]) ?_
    rw [channelOf_applyCommit, hc]
    exact ⟨rfl, rfl, rfl, rfl, rfl⟩
  case staged =>
    intro g s p rest a hc ha hb hs ht
    refine runs_next (t := applyCommit g p (modChannel g (fun x => { x with staging := false }) s)) (by
      simp only [exec, execStageCommitAt, hc, ha, hb, hs, Nat.not_lt.mpr ht, decide_false, Bool.not_true, Bool.or_self, Bool.false_eq_true,
        if_false]) ?_
    rw [channelOf_applyCommit, channelOf_modChannel_same, hc]
    exact ⟨rfl, rfl, rfl⟩
  case early =>
    intro g s p rest a hc ha ht
    exact runs_next (by simp only [exec, execStageCommitAt, hc, ha, ht, decide_true, Bool.true_or, if_true]) rfl

/-! ### The FA commands -/

theorem abortStage_staging {g : Nat} {s : State} {o : Obj} (h : (channelOf s g).staging = true) (ho : obj? s (chanSlot g) = some o) :
    channelOf (abortStage g s) g = { channelOf s g with staging := false, shadow := { (channelOf s g).sent with gen := nextGen o.gen } }
      ∧ obj? (abortStage g s) (chanSlot g) = some { o with gen := nextGen o.gen } := by
  have hbump : bumpObj (chanSlot g) s = modEng s fun e => { e with objs := tput e.objs (chanSlot g) { o with gen := nextGen o.gen } } := by
    simp only [bumpObj, modObj, ho]
  have hobj : obj? (bumpObj (chanSlot g) s) (chanSlot g) = some { o with gen := nextGen o.gen } := by
    rw [hbump]
    exact tget?_tput_same _ _ _
  have hchan : channelOf (bumpObj (chanSlot g) s) g = channelOf s g := by rw [hbump]; rfl
  simp only [abortStage, h, if_true, hobj]
  refine ⟨?_, hobj⟩
  rw [channelOf_modChannel_same, hchan]
  rfl

theorem faStageAbort_staging {c : Cmd} {s : State} (h : Accepted opFaStageAbort c s) : (channelOf s (chanOfHandle (tgt c))).staging = true := by
  have hstate := h.checks.state
  simp only [opFaStageAbort, Bool.or_eq_false_iff, Bool.not_eq_false'] at hstate
  exact hstate.2.2

/-- Settles O44: the actions of the commands; FA_CONFIG by perFrame. -/
theorem assemblyCommandsComplete : Obligations.AssemblyCommandsComplete := by
  refine ⟨fun c s h => perFrame_of_act (o := opFaConfig) rfl h rfl, ?query, ?begin, ?atOnce, ?timed, ?abort, ?anchor⟩
  case query =>
    intro c s h
    exact answers_of_act (o := opFaQuery) rfl h ⟨rfl, rfl, rfl⟩
  case begin =>
    intro c s h
    exact answers_of_act (o := opFaStageBegin) rfl h ⟨rfl, rfl⟩
  case atOnce =>
    intro c s h ha
    refine runs_of_act (o := opFaStageCommit) rfl h ?_
    have hlate : stageLate c s = false := by simp only [stageLate, ha, Option.map_none, Option.getD_none]
    simp only [opFaStageCommit, hlate, ha, WaitsIn, Bool.false_eq_true, if_false, channelOf_modChannel_same]
    exact ⟨rfl, trivial, _, rfl, rfl, rfl, rfl⟩
  case timed =>
    intro c s a h ha ht
    refine runs_of_act (o := opFaStageCommit) rfl h ?_
    have hlate : stageLate c s = false := by
      simp only [stageLate, ha, Option.map_some, Option.getD_some, Nat.not_lt.mpr ht, decide_false]
    simp only [opFaStageCommit, hlate, ha, WaitsIn, Bool.false_eq_true, if_false, Option.isSome_some, if_true, channelOf_modChannel_same]
    exact ⟨trivial, heldKey_addWait s (List.mem_singleton.mpr rfl), _, rfl, rfl, rfl, rfl⟩
  case abort =>
    intro c s o h ho
    exact answers_of_act (o := opFaStageAbort) rfl h ⟨rfl, abortStage_staging (faStageAbort_staging h) ho⟩
  case anchor =>
    intro c s h
    refine answers_of_act (o := opAnchorSet) rfl h ?_
    simp only [opAnchorSet]
    split
    · next hsame => exact ⟨rfl, by rw [← hsame], rfl, rfl⟩
    · exact ⟨rfl, rfl, rfl, rfl⟩

end Sys2Proof.Machine
end

section
/-!
PROOF. The codec commands (O45).
-/
namespace Sys2Proof.Machine
open Sys2Proof

/-- An opcode whose effect fails answers with the failure and changes nothing else. -/
theorem runs_of_fail {i : Instr} {o : OpDef} {c : Cmd} {s : State} {f : Fail} {P : State → Prop} (hi : opRow i = some (o, c))
    (h : Accepted o c s) (ha : o.act c s = .fail f) (hp : P (answer o.code c { status := f.status, detail := f.detail } s)) : Runs i s P :=
  ⟨_, by rw [exec_opRow i s o c hi, runOp_fail h ha], hp⟩

@[simp] theorem codecChan_modCodecChan_same (g : Nat) (f : CodecChan → CodecChan) (s : State) :
    codecChan (modCodecChan g f s) g = f (codecChan s g) := tget_tmod_same _ _ _ _

@[simp] theorem engineOf_modEngine_same (k : Nat) (f : CodecEngine → CodecEngine) (s : State) :
    engineOf (modEngine k f s) k = f (engineOf s k) := tget_tmod_same _ _ _ _

theorem codecChan_congr {s t : State} (h : t.cd = s.cd) (g : Nat) : codecChan t g = codecChan s g := by rw [codecChan, codecChan, h]

/-- CD_CAL_FIT is accepted only when the points give a fit within its limits. -/
theorem cdCalFit_fit {c : Cmd} {s : State} (h : Accepted opCdCalFit c s) : ∃ x cal, fitResult c s = some (x, cal) := by
  have hstate := h.checks.state
  simp only [opCdCalFit, Bool.or_eq_false_iff, Option.isNone_eq_false_iff, Option.isSome_iff_exists] at hstate
  obtain ⟨-, -, ⟨x, cal⟩, hfit⟩ := hstate
  exact ⟨x, cal, hfit⟩

/-- With INSTALL set, CD_CAL_FIT gives the channel its fit as calibration. -/
theorem cdCalFit_installs {c : Cmd} {s : State} {x : Fit} {cal : Cal} (hfit : fitResult c s = some (x, cal)) (h : par c 0 1 ≠ 0) :
    opCdCalFit.act c s = perFrame 0x0512 c 20 (installSet s (chanOfHandle (tgt c)) cal)
      (newTable (channelOf s (chanOfHandle (tgt c))) (installSet s (chanOfHandle (tgt c)) cal))
      (fitView s.free x cal (calId (installSet s (chanOfHandle (tgt c)) cal).codec.cal) (codecChan s (chanOfHandle (tgt c))).points)
      (assignCal (chanOfHandle (tgt c)) (useFree s)) := by
  simp only [opCdCalFit, hfit, h, if_false]

/-- Settles O45: the actions of the commands; those that give the channel a set by perFrame, once CAL_ID is assigned. -/
theorem codecCommandsComplete : Obligations.CodecCommandsComplete := by
  refine ⟨fun c s h => perFrame_of_act (o := opCdConfig) rfl h rfl, ?query, ?set,
    ?sample, ?fit, ?table, ?check, ?restored, ?failed⟩
  case query =>
    intro c s h
    exact answers_of_act (o := opCdQuery) rfl h ⟨rfl, rfl, rfl⟩
  case set =>
    intro c s h
    exact perFrame_of_act_from (o := opCdCalSet) (s' := assignCal (chanOfHandle (tgt c)) s) rfl h rfl rfl rfl
  case sample =>
    intro c s h
    refine runs_of_act (o := opCdCalSample) rfl h ?_
    simp only [opCdCalSample, WaitsIn, codecChan_modCodecChan_same]
    exact ⟨rfl, trivial⟩
  case fit =>
    intro c s h
    obtain ⟨x, cal, hfit⟩ := cdCalFit_fit h
    refine ⟨x, cal, hfit, fun hread => ?_, fun hinstall => ?_⟩
    · refine answers_of_act (o := opCdCalFit) rfl h ?_
      simp only [opCdCalFit, hfit, hread, if_true]
      exact ⟨rfl, rfl, rfl⟩
    · exact perFrame_of_act_from (o := opCdCalFit) (s' := assignCal (chanOfHandle (tgt c)) (useFree s)) rfl h rfl rfl (cdCalFit_installs hfit hinstall)
  case table =>
    intro c s h
    refine answers_of_act (o := opCdTableRead) rfl h ⟨rfl, rfl, ?_⟩
    exact List.take_left' rfl
  case check =>
    intro c s h
    refine answers_of_act (o := opCdCheckSet) rfl h ?_
    simp only [opCdCheckSet]
    split
    · next hsame => exact ⟨rfl, by rw [← hsame], rfl, rfl⟩
    · exact ⟨rfl, rfl, rfl, rfl⟩
  case restored =>
    intro c s h
    refine answers_of_act (o := opCdEngineRestore true) rfl h ?_
    simp only [opCdEngineRestore, if_true]
    refine ⟨rfl, ?_, ?_, rfl, rfl⟩ <;> rw [engineOf_modEngine_same]
  case failed =>
    intro c s h
    exact runs_of_fail (o := opCdEngineRestore false) rfl h rfl rfl

end Sys2Proof.Machine
end

section
/-!
PROOF. Slices in the codec island (O46).
-/
namespace Sys2Proof.Machine
open Sys2Proof

/-! ### What engines and channels keep -/

section
variable (s : State)

theorem sweepFrames_cd (g : Nat) : (sweepFrames g s).cd = s.cd := (sweepFrames_within g (.refl (allBut .cd) s) rfl).keeps (c := .cd)
theorem detectBand_cd (g k : Nat) (f : Frame) : (detectBand g k f s).cd = s.cd := (detectBand_within g k f (.refl (allBut .cd) s) rfl).keeps (c := .cd)
theorem detectorFires_cd (t d : Nat) (inj : Bool) : (detectorFires t d inj s).cd = s.cd :=
  (detectorFires_within t d inj (.refl (allBut .cd) s) rfl).keeps (c := .cd)
theorem raise_cd (t l n : Nat) : (raise t l n s).cd = s.cd := (raise_within t l n (.refl (allBut .cd) s) rfl).keeps (c := .cd)
theorem failCheck_st (g e : Nat) (inj : Bool) : (failCheck g e inj s).st = s.st := (failCheck_within g e inj (.refl (allBut .st) s) rfl).keeps (c := .st)
theorem finish_cd (id : Nat) (a : Answer) : (finish id a s).cd = s.cd := (finish_within id a (.refl (allBut .cd) s) rfl).keeps (c := .cd)

end

theorem engineOf_congr {s t : State} (h : t.cd.engines = s.cd.engines) (k : Nat) : engineOf t k = engineOf s k := by rw [engineOf, engineOf, h]

theorem engineOf_modEngine_other {k j : Nat} (f : CodecEngine → CodecEngine) (s : State) (h : j ≠ k) : engineOf (modEngine k f s) j = engineOf s j :=
  tget_tmod_other _ _ _ _ h

theorem sliceAt_congr {s t : State} (h : t.st = s.st) (r : SliceRef) : sliceAt t r = sliceAt s r := by
  simp only [sliceAt, frameOf, channelOf_congr h]

/-- A change of the frames of a number that a view of frames does not see. -/
theorem modFrame_keeps {β : Type} {v : Frame → β} (g : Nat) (q : U64) {F : Frame → Frame} (h : ∀ f, v (F f) = v f) (s : State) :
    ChansKeep (fun c => c.frames.map v) s (modFrame g q F s) := by
  refine .modChannel ?_
  simp only [List.map_map]
  refine List.map_congr_left fun f _ => ?_
  simp only [Function.comp_apply]
  split
  · exact h f
  · rfl

/-- Starting slices changes their k only. -/
theorem startSlices_keeps {β : Type} {v : Frame → β} (h : ∀ (f : Frame) (n : Nat) (F : Slice → Slice), v { f with slices := f.slices.modify n F } = v f)
    (e : Nat) (s : State) : ChansKeep (fun c => c.frames.map v) s (startSlices e s) := by
  refine .foldl (fun u r => ?_) _ _
  split
  · exact .refl _
  · split
    · exact (modFrame_keeps r.channel r.frame (fun f => h f _ _) u).trans (.of_st rfl)
    · exact .refl _

theorem startSlices_engines (e : Nat) (s : State) : (startSlices e s).cd.engines = s.cd.engines :=
  foldl_keeps (·.cd.engines) _ _ _ fun u r => by
    split
    · rfl
    · split <;> rfl

/-- The counters of a channel's codec. -/
def codecCounts (c : CodecChan) : U64 × U64 × U64 × U64 := (c.rawBytes, c.codedBytes, c.slices, c.slicesEscaped)

theorem codecCounts_modCodecChan {g : Nat} {f : CodecChan → CodecChan} (s : State) (k : Nat)
    (h : ∀ c, codecCounts (f c) = codecCounts c := by intro; rfl) :
    codecCounts (codecChan (modCodecChan g f s) k) = codecCounts (codecChan s k) := by
  by_cases hk : k = g
  · subst hk; rw [codecChan_modCodecChan_same, h]
  · exact congrArg codecCounts (tget_tmod_other _ _ _ _ hk)

theorem startSlices_counts (e : Nat) (s : State) (k : Nat) : codecCounts (codecChan (startSlices e s) k) = codecCounts (codecChan s k) :=
  foldl_keeps (fun u => codecCounts (codecChan u k)) _ _ _ fun u r => by
    dsimp only
    split
    · rfl
    · split
      · exact codecCounts_modCodecChan _ k
      · rfl

/-! ### The engine with the fewest slices -/

/-- The one of two engines with fewer slices, the first on a tie. -/
def shorter (len : Nat → Nat) (b : Option Nat) (e : Nat) : Option Nat :=
  match b with
  | none => some e
  | some x => if len e < len x then some e else some x

/-- Of engines in ascending order the fold keeps one with the fewest slices, the lowest of those. -/
theorem foldl_shorter {len : Nat → Nat} (l : List Nat) (x : Nat) (hl : (x :: l).Pairwise (· < ·)) :
    ∃ e, l.foldl (shorter len) (some x) = some e ∧ e ∈ x :: l
      ∧ ∀ e' ∈ x :: l, len e < len e' ∨ (len e = len e' ∧ e ≤ e') := by
  induction l generalizing x with
  | nil => exact ⟨x, rfl, List.mem_cons_self, fun e' h => by rw [List.mem_singleton] at h; subst h; exact .inr ⟨rfl, Nat.le_refl _⟩⟩
  | cons y l ih =>
    rw [List.pairwise_cons, List.pairwise_cons] at hl
    obtain ⟨hx, hy, hl⟩ := hl
    have hxy : x < y := hx y List.mem_cons_self
    by_cases hlen : len y < len x
    · obtain ⟨e, hfold, hmem, hmin⟩ := ih y (List.pairwise_cons.mpr ⟨hy, hl⟩)
      refine ⟨e, by simpa [shorter, hlen] using hfold, List.mem_cons_of_mem _ hmem, fun e' he' => ?_⟩
      rcases List.mem_cons.mp he' with rfl | he'
      · rcases hmin y List.mem_cons_self with h | h
        · exact .inl (by omega)
        · exact .inl (by omega)
      · exact hmin e' he'
    · obtain ⟨e, hfold, hmem, hmin⟩ := ih x (List.pairwise_cons.mpr ⟨fun z hz => hx z (List.mem_cons_of_mem _ hz), hl⟩)
      refine ⟨e, by simpa [shorter, hlen] using hfold, ?_, fun e' he' => ?_⟩
      · rcases List.mem_cons.mp hmem with rfl | hmem
        · exact List.mem_cons_self
        · exact List.mem_cons_of_mem _ (List.mem_cons_of_mem _ hmem)
      · rcases List.mem_cons.mp he' with rfl | he'
        · exact hmin e' List.mem_cons_self
        · rcases List.mem_cons.mp he' with rfl | he'
          · rcases hmin x List.mem_cons_self with h | h
            · exact .inl (by omega)
            · rcases Nat.lt_or_ge (len e) (len e') with hlt | hge
              · exact .inl hlt
              · exact .inr ⟨by omega, by omega⟩
          · exact hmin e' (List.mem_cons_of_mem _ he')

/-- The engines in use of a tile. -/
def usable (s : State) (t : Nat) : List Nat := (List.range 4).filter fun e => !(engineOf s (t * 4 + e)).suspect

theorem mem_usable {s : State} {t e : Nat} : e ∈ usable s t ↔ e < 4 ∧ (engineOf s (t * 4 + e)).suspect = false := by
  simp [usable]

theorem pickEngine_eq (s : State) (t : Nat) : pickEngine s t = (usable s t).foldl (shorter fun e => (engineOf s (t * 4 + e)).buffer.length) none := rfl

/-- An engine in use is found when there is one, and it has the fewest slices. -/
theorem pickEngine_cases (s : State) (t : Nat) : (usable s t = [] ∧ pickEngine s t = none) ∨ ∃ e, pickEngine s t = some e ∧ e ∈ usable s t
    ∧ ∀ e' ∈ usable s t, (engineOf s (t * 4 + e)).buffer.length < (engineOf s (t * 4 + e')).buffer.length
      ∨ ((engineOf s (t * 4 + e)).buffer.length = (engineOf s (t * 4 + e')).buffer.length ∧ e ≤ e') := by
  have hsorted : (usable s t).Pairwise (· < ·) := List.pairwise_lt_range.filter _
  rw [pickEngine_eq]
  cases hu : usable s t with
  | nil => exact .inl ⟨rfl, rfl⟩
  | cons x l => rw [hu] at hsorted; exact .inr (foldl_shorter l x hsorted)

/-! ### Dealing -/

/-- Every engine of a tile is in use, does not escape and has room for n slices more. -/
def Roomy (s : State) (t n : Nat) : Prop := ∀ e, e < 4 → (engineOf s (t * 4 + e)).suspect = false
  ∧ (engineOf s (t * 4 + e)).escaping = false ∧ (engineOf s (t * 4 + e)).buffer.length + n ≤ 256

/-- What is dealt stays in the engines' buffers, and of a frame only the k of its slices moves. -/
structure DealtOn (s t : State) : Prop where
  buffers : ∀ k, ∀ r ∈ (engineOf s k).buffer, r ∈ (engineOf t k).buffer
  frames : ChansKeep (fun c => c.frames.map fun f => (f.seq, f.dealt, f.data, f.slices.length)) s t

theorem DealtOn.refl (s : State) : DealtOn s s := ⟨fun _ _ h => h, .refl s⟩

theorem DealtOn.trans {s t u : State} (a : DealtOn s t) (b : DealtOn t u) : DealtOn s u :=
  ⟨fun k r h => b.buffers k r (a.buffers k r h), a.frames.trans b.frames⟩

/-- A slice that is dealt to engines with room is in the buffer of one of them. -/
theorem dealSlice_roomy {s : State} {r : SliceRef} {n : Nat} (h : Roomy s (r.channel / 64) (n + 1)) : DealtOn s (dealSlice s r)
    ∧ Roomy (dealSlice s r) (r.channel / 64) n ∧ ∃ e, e < 4 ∧ r ∈ (engineOf (dealSlice s r) (r.channel / 64 * 4 + e)).buffer := by
  have hzero : 0 ∈ usable s (r.channel / 64) := mem_usable.mpr ⟨by omega, (h 0 (by omega)).1⟩
  rcases pickEngine_cases s (r.channel / 64) with ⟨hnil, -⟩ | ⟨e, hpick, he, -⟩
  · rw [hnil] at hzero; cases hzero
  obtain ⟨he4, -⟩ := mem_usable.mp he
  obtain ⟨-, hescaping, hroom⟩ := h e he4
  have hfull : ¬ 256 ≤ (engineOf s (r.channel / 64 * 4 + e)).buffer.length := by omega
  have hdeal : dealSlice s r = startSlices (r.channel / 64 * 4 + e) (modEngine (r.channel / 64 * 4 + e) (fun x => { x with
      buffer := x.buffer ++ [r], peak := max x.peak (x.buffer.length + 1) }) s) := by
    simp only [dealSlice, hpick, hescaping, Bool.false_eq_true, hfull, or_self, if_false]
  have hsame : engineOf (dealSlice s r) (r.channel / 64 * 4 + e) = { engineOf s (r.channel / 64 * 4 + e) with
      buffer := (engineOf s (r.channel / 64 * 4 + e)).buffer ++ [r]
      peak := max (engineOf s (r.channel / 64 * 4 + e)).peak ((engineOf s (r.channel / 64 * 4 + e)).buffer.length + 1) } := by
    rw [hdeal, engineOf_congr (startSlices_engines _ _), engineOf_modEngine_same]
  have hother (k : Nat) (hk : k ≠ r.channel / 64 * 4 + e) : engineOf (dealSlice s r) k = engineOf s k := by
    rw [hdeal, engineOf_congr (startSlices_engines _ _), engineOf_modEngine_other _ _ hk]
  refine ⟨⟨fun k x hx => ?_, ?_⟩, fun e' he' => ?_, e, he4, ?_⟩
  · by_cases hk : k = r.channel / 64 * 4 + e
    · subst hk; rw [hsame]; exact List.mem_append_left _ hx
    · rw [hother k hk]; exact hx
  · rw [hdeal]
    exact .trans (.of_st rfl) (startSlices_keeps (fun f n F => by simp) _ _)
  · obtain ⟨h1, h2, h3⟩ := h e' he'
    by_cases hk : e' = e
    · subst hk; rw [hsame]
      refine ⟨h1, h2, ?_⟩
      rw [List.length_append, List.length_singleton]; omega
    · rw [hother _ (by omega)]
      exact ⟨h1, h2, by omega⟩
  · rw [hsame]; simp

/-- Slices that are dealt to engines with room for all are each in the buffer of one of them. -/
theorem deal_roomy {t : Nat} (ref : Nat → SliceRef) (hch : ∀ i, (ref i).channel / 64 = t) (l : List Nat) (s : State) (h : Roomy s t l.length) :
    DealtOn s (l.foldl (fun s i => dealSlice s (ref i)) s)
      ∧ ∀ i ∈ l, ∃ e, e < 4 ∧ ref i ∈ (engineOf (l.foldl (fun s i => dealSlice s (ref i)) s) (t * 4 + e)).buffer := by
  induction l generalizing s with
  | nil => exact ⟨.refl s, fun i hi => by cases hi⟩
  | cons j l ih =>
    obtain ⟨hdealt, hroomy, e, he, hmem⟩ := dealSlice_roomy (r := ref j) (n := l.length) (by rw [hch]; exact h)
    rw [hch] at hroomy hmem
    obtain ⟨hrest, hall⟩ := ih _ hroomy
    refine ⟨hdealt.trans hrest, fun i hi => ?_⟩
    rcases List.mem_cons.mp hi with rfl | hi
    · exact ⟨e, he, hrest.buffers _ _ hmem⟩
    · exact hall i hi

/-! ### A band -/

theorem nextToDeal_single {f : Frame} (hd : f.dropped = false) (hl : f.lines.length < frameHeight f.leader) : nextToDeal [f] = some f := by
  have hl' : ¬ frameHeight f.leader ≤ f.lines.length := by omega
  simp [nextToDeal, hd, hl']

/-- The decision of the detector on a frame is seen only in its decision. -/
theorem frameDecided_keeps {β : Type} {v : Frame → β} (h : ∀ (f : Frame) (a b : Nat), v { f with decided := true, actRoi := a, actEnergy := b } = v f)
    (g : Nat) (f : Frame) (roi energy : Nat) (idle : Tab RuleCfg) (s : State) :
    ChansKeep (fun c => c.frames.map v) s (frameDecided g f roi energy idle s) := by
  unfold frameDecided
  refine .trans ?_ (.foldl (fun u r => .of_st (decideRule_st u _ _ _ _ _ _)) _ _)
  exact (modFrame_keeps g f.seq (fun y => h y roi energy) s).trans (.of_st rfl)

theorem detectBand_keeps {β : Type} {v : Frame → β} (h : ∀ (f : Frame) (a b : Nat), v { f with decided := true, actRoi := a, actEnergy := b } = v f)
    (g k : Nat) {f : Frame} (hr : f.set.rois = []) (s : State) : ChansKeep (fun c => c.frames.map v) s (detectBand g k f s) := by
  have hnone : enabledRois f.set = [] := by simp [enabledRois, hr]
  unfold detectBand
  rw [hnone, foldl_eq_self (fun _ _ => rfl)]
  dsimp only
  split
  · exact .refl _
  · unfold decideFrame
    split
    · exact .refl _
    · exact frameDecided_keeps h _ _ _ _ _ _

/-- A channel whose frames look like one frame has one frame. -/
theorem frames_single {β : Type} {v : Frame → β} {l : List Frame} {b : β} (h : l.map v = [b]) : ∃ f, l = [f] ∧ v f = b := by
  rw [List.map_eq_singleton_iff] at h
  exact h

/-- The frame as a band that enters the codec island leaves it: the band dealt, its lines and pixels taken. -/
def withBand (g : Nat) (f : Frame) (s : State) : Frame :=
  let maps := ((leaderLines f.leader).drop (f.dealt * bandLines f)).take (bandLines f)
  let lines := maps.map (imageLine (frameFmt f) (frameWidth f) f.set.layout.fillValue (framePayload s g f))
  { f with
    dealt := f.dealt + 1, lines := f.lines ++ lines
    pixels := f.pixels ++ List.zipWith (linePixels (frameFmt f) (frameWidth f) (framePayload s g f)) maps lines }

/-- The lines of that band. -/
def bandOf (g : Nat) (f : Frame) (s : State) : List (List Byte) :=
  (((leaderLines f.leader).drop (f.dealt * bandLines f)).take (bandLines f)).map
    (imageLine (frameFmt f) (frameWidth f) f.set.layout.fillValue (framePayload s g f))

/-- Without a codec a band passes raw. -/
theorem takeBand_raw {g : Nat} {f : Frame} {s : State} (h : f.set.codec.mode = .off) : takeBand g f s = detectBand g f.dealt (withBand g f s)
    (modFrame g f.seq (fun _ => { withBand g f s with
      slices := f.slices ++ [], data := f.data ++ (bandOf g f s).flatten }) s) := by
  have hset : (withBand g f s).set.codec.mode = .off := h
  simp only [takeBand, h, ne_eq, not_true_eq_false, decide_false, Bool.false_eq_true, if_false]
  rfl

/-- With a codec its slices are dealt. -/
theorem takeBand_coded {g : Nat} {f : Frame} {s : State} (h : f.set.codec.mode ≠ .off) : takeBand g f s =
    (List.range (placesOf f f.dealt).length).foldl
      (fun s i => dealSlice s { channel := g, frame := f.seq, number := f.slicesLeft + f.slices.length + i })
      (detectBand g f.dealt (withBand g f s) (modFrame g f.seq (fun _ => { withBand g f s with
        slices := f.slices ++ (placesOf f f.dealt).map fun x => { plane := x.plane, pixels := slicePixels (withBand g f s) x } }) s)) := by
  have hplaces : placesOf (withBand g f s) f.dealt = placesOf f f.dealt := rfl
  simp only [takeBand, h, ne_eq, not_false_eq_true, decide_true, if_true]
  rw [← List.length_map (as := placesOf f f.dealt)
    (f := fun x => ({ plane := x.plane, pixels := slicePixels (withBand g f s) x } : Slice))]
  rfl

theorem exec_bandToCodec {g : Nat} {s : State} {f : Frame} (hf : (channelOf s g).frames = [f]) (hd : f.dropped = false)
    (hl : f.lines.length < frameHeight f.leader) (hb : f.dealt < bandsReady s g f) : exec (.bandToCodec g) s = .next (takeBand g f s) := by
  simp only [exec, execBandToCodec, hf, nextToDeal_single hd hl, hb, if_true]

/-! ### A slice is finished -/

theorem writeSlice_engines (r : SliceRef) (b : List Byte) (esc : Bool) (s : State) : (writeSlice r b esc s).cd.engines = s.cd.engines := by
  unfold writeSlice
  split
  · rfl
  · dsimp only
    rw [sweepFrames_cd]
    rfl

/-- A slice that is written is counted with its bytes. -/
theorem writeSlice_counts {r : SliceRef} {s : State} {f : Frame} {x : Slice} (h : sliceAt s r = some (f, x)) (b : List Byte) (esc : Bool) :
    (codecChan (writeSlice r b esc s) r.channel).slices = (codecChan s r.channel).slices + 1
      ∧ (codecChan (writeSlice r b esc s) r.channel).codedBytes = (codecChan s r.channel).codedBytes + BitVec.ofNat 64 b.length
      ∧ (codecChan (writeSlice r b esc s) r.channel).slicesEscaped
        = if esc then (codecChan s r.channel).slicesEscaped + 1 else (codecChan s r.channel).slicesEscaped := by
  unfold writeSlice
  rw [h]
  dsimp only
  rw [codecChan_congr (sweepFrames_cd _ _)]
  have hrest (u : State) (q : Channel → Channel) (F : Frame → Frame) :
      codecChan (modChannel r.channel q (modFrame r.channel r.frame F u)) r.channel = codecChan u r.channel := rfl
  rw [hrest, codecChan_modCodecChan_same]
  exact ⟨rfl, rfl, rfl⟩

theorem failCheck_engine (g e : Nat) (inj : Bool) (s : State) : engineOf (failCheck g e inj s) (g / 64 * 4 + e) =
    { engineOf s (g / 64 * 4 + e) with
      mismatches := (engineOf s (g / 64 * 4 + e)).mismatches + 1
      mismatchAt := (s.clock :: (engineOf s (g / 64 * 4 + e)).mismatchAt).take 3 } := by
  unfold failCheck
  extract_lets t u v c w
  have hu : engineOf u (g / 64 * 4 + e) = { engineOf s (g / 64 * 4 + e) with
      mismatches := (engineOf s (g / 64 * 4 + e)).mismatches + 1
      mismatchAt := (s.clock :: (engineOf s (g / 64 * 4 + e)).mismatchAt).take 3 } := engineOf_modEngine_same _ _ _
  have hw : w.cd.engines = v.cd.engines := by
    simp only [w]
    split
    · rw [raise_cd]; rfl
    · rfl
  rw [engineOf_congr (t := detectorFires _ _ _ _) (congrArg CodecState.engines (detectorFires_cd _ _ _ _)), engineOf_congr hw]
  exact hu

theorem failCheck_counts (g e : Nat) (inj : Bool) (s : State) (k : Nat) :
    codecCounts (codecChan (failCheck g e inj s) k) = codecCounts (codecChan s k) := by
  unfold failCheck
  extract_lets t u v c w
  have hv : codecCounts (codecChan v k) = codecCounts (codecChan u k) := codecCounts_modCodecChan _ k
  have hw : codecCounts (codecChan w k) = codecCounts (codecChan v k) := by
    simp only [w]
    split
    · rw [codecChan_congr (raise_cd _ _ _ _)]
      exact codecCounts_modCodecChan _ k
    · rfl
  rw [codecChan_congr (detectorFires_cd _ _ _ _), hw, hv]
  rfl

section
variable {tile e n : Nat} {s : State} {r : SliceRef} {f : Frame} {x : Slice}

/-- The engine without the slice it finishes. -/
def withoutSlice (k n : Nat) (s : State) : State := modEngine k (fun x => { x with buffer := x.buffer.eraseIdx n }) s

theorem sliceWork_withoutSlice (k : Nat) (h : sliceAt s r = some (f, x)) : sliceWork (withoutSlice k n s) r = some (f.set, x) := by
  have hgone : r.gone = none := by
    simp only [sliceAt] at h
    split at h
    · cases h
    · next hg => exact Option.not_isSome_iff_eq_none.mp hg
  have hat : sliceAt (withoutSlice k n s) r = some (f, x) := (sliceAt_congr rfl r).trans h
  simp only [sliceWork, hgone, hat, Option.map_some]

/-- A slice that is not checked is written as it is coded. -/
theorem finishSlice_unchecked {m : Bool} (hr : ((engineOf s (tile * 4 + e)).buffer.take 16)[n]? = some r) (hx : sliceAt s r = some (f, x))
    (hs : (engineOf s (tile * 4 + e)).sampled = true) : ∃ G : CodecEngine → CodecEngine,
      (∀ y, (G y).buffer = y.buffer ∧ (G y).slices = y.slices + 1 ∧ (G y).checks = y.checks)
      ∧ exec (.sliceCoded tile e n m) s = .next (startSlices (tile * 4 + e)
        (writeSlice r (codeSlice (frameFmt f).bits x.plane (codingOf f.set x.k) x.pixels).2
          ((codeSlice (frameFmt f).bits x.plane (codingOf f.set x.k) x.pixels).1 == 1)
          (modEngine (tile * 4 + e) G (useFree (withoutSlice (tile * 4 + e) n s))))) := by
  have hsampled : (engineOf (withoutSlice (tile * 4 + e) n s) (tile * 4 + e)).sampled = true := by
    rw [withoutSlice, engineOf_modEngine_same]
    exact hs
  have hwork := sliceWork_withoutSlice (n := n) (tile * 4 + e) hx
  rw [withoutSlice] at hwork hsampled
  simp only [exec, execSliceCoded, finishSlice, hr, hwork, hsampled, Bool.not_true, Bool.and_false, Bool.false_and, Bool.false_eq_true,
    if_false, Bool.not_false, Bool.false_or, Bool.or_false]
  refine ⟨_, ?_, rfl⟩
  exact fun y => ⟨rfl, rfl, rfl⟩

/-- The last of SAMPLE_N slices is checked when no other was; a check that fails makes it written in escape form. -/
theorem finishSlice_failed (hr : ((engineOf s (tile * 4 + e)).buffer.take 16)[n]? = some r) (hx : sliceAt s r = some (f, x))
    (hs : (engineOf s (tile * 4 + e)).sampled = false) (hl : s.cd.sampleN ≤ (engineOf s (tile * 4 + e)).sinceCheck + 1)
    (hform : (codeSlice (frameFmt f).bits x.plane (codingOf f.set x.k) x.pixels).1 ≠ 1) (hi : injectionDue s tile 0x0E e = false) :
    ∃ G : CodecEngine → CodecEngine,
      (∀ y, (G y).mismatches = y.mismatches ∧ (G y).sinceCheck = 0 ∧ (G y).checks = y.checks + 1)
      ∧ exec (.sliceCoded tile e n false) s = .next (startSlices (tile * 4 + e)
        (writeSlice r (escapeSlice (frameFmt f).bits x.plane x.pixels) true (failCheck r.channel e false
          (modEngine (tile * 4 + e) G (useFree (withoutSlice (tile * 4 + e) n s)))))) := by
  have hengine : engineOf (withoutSlice (tile * 4 + e) n s) (tile * 4 + e) = { engineOf s (tile * 4 + e) with
      buffer := (engineOf s (tile * 4 + e)).buffer.eraseIdx n } := engineOf_modEngine_same _ _ _
  have hsampled : (engineOf (withoutSlice (tile * 4 + e) n s) (tile * 4 + e)).sampled = false := by rw [hengine]; exact hs
  have hsince : (withoutSlice (tile * 4 + e) n s).cd.sampleN ≤ (engineOf (withoutSlice (tile * 4 + e) n s) (tile * 4 + e)).sinceCheck + 1 := by
    rw [hengine]; exact hl
  have hinject : injectionDue (withoutSlice (tile * 4 + e) n s) tile 0x0E e = false := hi
  have hwork := sliceWork_withoutSlice (n := n) (tile * 4 + e) hx
  have hform' : (codeSlice (pixFmt f.set.layout.pixelFormat).bits x.plane (codingOf f.set x.k) x.pixels).1 ≠ 1 := hform
  rw [withoutSlice] at hwork hsampled hsince hinject
  simp only [exec, execSliceCoded, finishSlice, hr, hwork, hsampled, hsince, hinject, hform', ne_eq, not_false_eq_true, decide_true, Bool.not_false,
    Bool.true_or, Bool.and_self, Bool.and_false, Bool.false_or, Bool.false_eq_true, if_false, if_true]
  refine ⟨_, ?_, rfl⟩
  exact fun y => ⟨rfl, rfl, rfl⟩

end

/-! ### An engine that is suspect -/

/-- Slices are never dealt to a suspect engine. -/
theorem dealSlice_suspect {k : Nat} {s : State} (r : SliceRef) (h : (engineOf s k).suspect = true) : engineOf (dealSlice s r) k = engineOf s k := by
  have hescape (u : State) : (escapeNow r u).cd.engines = u.cd.engines := by
    unfold escapeNow
    split
    · rfl
    · have hraise (v : State) : (raiseEscape r.channel v).cd.engines = v.cd.engines := by
        unfold raiseEscape
        dsimp only
        split
        · rw [raiseChan, raise_cd]; rfl
        · rfl
      rw [hraise, writeSlice_engines]
      rfl
  unfold dealSlice
  dsimp only
  rcases pickEngine_cases s (r.channel / 64) with ⟨-, hpick⟩ | ⟨e, hpick, he, -⟩
  · rw [hpick]
    exact engineOf_congr (hescape s) k
  · rw [hpick]
    have hne : k ≠ r.channel / 64 * 4 + e := by
      rintro rfl
      rw [(mem_usable.mp he).2] at h
      cases h
    dsimp only
    split
    · rw [engineOf_congr (hescape _), engineOf_modEngine_other _ _ hne]
    · rw [engineOf_congr (startSlices_engines _ _), engineOf_modEngine_other _ _ hne]

theorem dealAll_suspect {k : Nat} (l : List SliceRef) (s : State) (h : (engineOf s k).suspect = true) :
    engineOf (l.foldl dealSlice s) k = engineOf s k := by
  induction l generalizing s with
  | nil => rfl
  | cons r l ih =>
    have hr := dealSlice_suspect r h
    rw [List.foldl_cons, ih _ (by rw [hr]; exact h), hr]

theorem engineSuspect_engine {tile e : Nat} {s : State} {a b c : Nat} (hs : (engineOf s (tile * 4 + e)).suspect = false)
    (hm : (engineOf s (tile * 4 + e)).mismatchAt = [a, b, c]) (ht : a ≤ c + 1000 * ms) : Runs (.engineSuspect tile e) s fun t =>
      (engineOf t (tile * 4 + e)).suspect = true ∧ (engineOf t (tile * 4 + e)).buffer = [] := by
  refine runs_next rfl ?_
  simp only [hs, hm, ht, decide_true, Bool.not_true, Bool.or_self, Bool.false_eq_true, if_false]
  generalize hu : raise tile 59 _ _ = u
  have hengine : engineOf u (tile * 4 + e) = { engineOf s (tile * 4 + e) with suspect := true, buffer := [], mismatchAt := [] } := by
    rw [← hu, engineOf_congr (congrArg CodecState.engines (raise_cd _ _ _ _)), engineOf_modEngine_same]
  rw [dealAll_suspect _ _ (by rw [hengine]), hengine]
  exact ⟨rfl, rfl⟩

/-- Settles O46: a band by takeBand, dealt slices by the room in the engines, a finished slice by finishSlice. -/
theorem slicesPassTheCodec : Obligations.SlicesPassTheCodec := by
  refine ⟨?nothing, ?waits, ?raw, ?coded, ?pick, ?unchecked, ?failed, fun tile e s a b c hs hm ht => engineSuspect_engine hs hm ht, ?high, ?notHigh, ?low,
    ?notLow, ?built, ?sampled⟩
  case nothing =>
    intro g s h
    exact runs_next (by simp only [exec, execBandToCodec, h]) rfl
  case waits =>
    intro g s f h hb
    exact runs_next (by simp only [exec, execBandToCodec, h, Nat.not_lt.mpr hb, if_false]) rfl
  case raw =>
    intro g s f hf hd hl hb hmode hrois
    refine runs_next (exec_bandToCodec hf hd hl hb) ?_
    rw [takeBand_raw hmode]
    have hkeep := detectBand_keeps (v := fun f => (f.seq, f.dealt, f.lines, f.data, f.slices)) (fun _ _ _ => rfl) g f.dealt
      (f := withBand g f s) hrois (modFrame g f.seq (fun _ => { withBand g f s with
        slices := f.slices ++ [], data := f.data ++ (bandOf g f s).flatten }) s) g
    simp only [frames_modFrame_single _ hf, List.map_cons, List.map_nil] at hkeep
    obtain ⟨f', hf', hview⟩ := frames_single hkeep
    simp only [Prod.mk.injEq] at hview
    obtain ⟨hseq, hdealt, hlines, hdata, hslices⟩ := hview
    exact ⟨f', bandOf g f s, hf', hseq, hdealt, hlines, hdata, hslices.trans (List.append_nil _)⟩
  case coded =>
    intro g s f hf hd hl hb hmode hrois hengines
    refine runs_next (exec_bandToCodec hf hd hl hb) ?_
    rw [takeBand_coded hmode]
    generalize hu : modFrame g f.seq _ s = u
    have hu' := frames_modFrame_single (fun _ => { withBand g f s with
      slices := f.slices ++ (placesOf f f.dealt).map fun x => { plane := x.plane, pixels := slicePixels (withBand g f s) x } }) hf
    rw [hu] at hu'
    have hdetect := detectBand_keeps (v := fun f => (f.seq, f.dealt, f.data, f.slices.length)) (fun _ _ _ => rfl) g f.dealt
      (f := withBand g f s) hrois u g
    have hroomy : Roomy (detectBand g f.dealt (withBand g f s) u) (g / 64) (List.range (placesOf f f.dealt).length).length := by
      intro e he
      rw [List.length_range, engineOf_congr (congrArg CodecState.engines (detectBand_cd _ _ _ _)), ← hu]
      exact hengines e he
    obtain ⟨hdealt, hall⟩ := deal_roomy (t := g / 64) (fun i => { channel := g, frame := f.seq, number := f.slicesLeft + f.slices.length + i })
      (fun _ => rfl) _ _ hroomy
    have hkeep := (hdealt.frames g).trans hdetect
    simp only [hu', List.map_cons, List.map_nil] at hkeep
    obtain ⟨f', hf', hview⟩ := frames_single hkeep
    simp only [Prod.mk.injEq, List.length_append, List.length_map] at hview
    obtain ⟨hseq, hd', hdata, hslices⟩ := hview
    refine ⟨f', hf', hseq, hd', hdata, hslices, fun i hi => ?_⟩
    obtain ⟨e, he, hmem⟩ := hall i (List.mem_range.mpr hi)
    exact ⟨e, he, _, hmem, rfl, rfl, rfl⟩
  case pick =>
    intro s tile e h
    rcases pickEngine_cases s tile with ⟨-, hnone⟩ | ⟨e', hpick, he, hmin⟩
    · rw [hnone] at h; cases h
    · rw [hpick] at h
      cases h
      obtain ⟨he4, hsus⟩ := mem_usable.mp he
      exact ⟨he4, hsus, fun e' he' hs' => hmin e' (mem_usable.mpr ⟨he', hs'⟩)⟩
  case unchecked =>
    intro tile e n m s r f x hr hx hs
    obtain ⟨G, hG, hexec⟩ := finishSlice_unchecked (m := m) hr hx hs
    refine runs_next hexec ?_
    generalize hu : modEngine (tile * 4 + e) G (useFree (withoutSlice (tile * 4 + e) n s)) = u
    have hengine : engineOf u (tile * 4 + e) = G { engineOf s (tile * 4 + e) with buffer := (engineOf s (tile * 4 + e)).buffer.eraseIdx n } := by
      rw [← hu, engineOf_modEngine_same]
      exact congrArg G (engineOf_modEngine_same _ _ _)
    have hxu : sliceAt u r = some (f, x) := by rw [← hu]; exact hx
    obtain ⟨hslices, hcoded, -⟩ := writeSlice_counts hxu (codeSlice (frameFmt f).bits x.plane (codingOf f.set x.k) x.pixels).2
      ((codeSlice (frameFmt f).bits x.plane (codingOf f.set x.k) x.pixels).1 == 1)
    have hchan : codecChan u r.channel = codecChan s r.channel := by rw [← hu]; rfl
    rw [hchan] at hslices hcoded
    obtain ⟨hbuf, hn, hchecks⟩ := hG { engineOf s (tile * 4 + e) with buffer := (engineOf s (tile * 4 + e)).buffer.eraseIdx n }
    have hcounts := startSlices_counts (tile * 4 + e) (writeSlice r (codeSlice (frameFmt f).bits x.plane (codingOf f.set x.k) x.pixels).2
      ((codeSlice (frameFmt f).bits x.plane (codingOf f.set x.k) x.pixels).1 == 1) u) r.channel
    simp only [codecCounts, Prod.mk.injEq] at hcounts
    obtain ⟨-, hbytes, hcount, -⟩ := hcounts
    rw [engineOf_congr (startSlices_engines _ _), engineOf_congr (writeSlice_engines _ _ _ _), hengine]
    exact ⟨hbuf, hn, hchecks, hcount.trans hslices, hbytes.trans hcoded⟩
  case failed =>
    intro tile e n s r f x hr hx hs hl hform hi hch
    obtain ⟨G, hG, hexec⟩ := finishSlice_failed hr hx hs hl hform hi
    refine runs_next hexec ?_
    generalize hu : modEngine (tile * 4 + e) G (useFree (withoutSlice (tile * 4 + e) n s)) = u
    have hengine : engineOf u (tile * 4 + e) = G { engineOf s (tile * 4 + e) with buffer := (engineOf s (tile * 4 + e)).buffer.eraseIdx n } := by
      rw [← hu, engineOf_modEngine_same]
      exact congrArg G (engineOf_modEngine_same _ _ _)
    have hchan : codecChan u r.channel = codecChan s r.channel := by rw [← hu]; rfl
    have hxu : sliceAt (failCheck r.channel e false u) r = some (f, x) := by
      rw [sliceAt_congr (failCheck_st _ _ _ _), ← hu]
      exact hx
    obtain ⟨-, hcoded, hescaped⟩ := writeSlice_counts hxu (escapeSlice (frameFmt f).bits x.plane x.pixels) true
    have hfail := failCheck_counts r.channel e false u r.channel
    rw [hchan] at hfail
    simp only [codecCounts, Prod.mk.injEq] at hfail
    obtain ⟨-, hfb, -, hfe⟩ := hfail
    have hcounts := startSlices_counts (tile * 4 + e) (writeSlice r (escapeSlice (frameFmt f).bits x.plane x.pixels) true
      (failCheck r.channel e false u)) r.channel
    simp only [codecCounts, Prod.mk.injEq] at hcounts
    obtain ⟨-, hbytes, -, hesc⟩ := hcounts
    obtain ⟨hmis, hsince, hchecks⟩ := hG { engineOf s (tile * 4 + e) with buffer := (engineOf s (tile * 4 + e)).buffer.eraseIdx n }
    have hfailed := failCheck_engine r.channel e false u
    rw [hch, hengine] at hfailed
    rw [engineOf_congr (startSlices_engines _ _), engineOf_congr (writeSlice_engines _ _ _ _), hfailed]
    refine ⟨hchecks, hsince, congrArg (· + 1) hmis, ?_, ?_⟩
    · rw [hesc, hescaped, hfe, if_pos rfl]
    · rw [hbytes, hcoded, hfb]
  case high =>
    intro tile e s h
    exact runs_next (t := modEngine (tile * 4 + e) (fun x => { x with escaping := true }) s) (by simp only [exec, execCodecBacklogHigh, h, if_true])
      (engineOf_modEngine_same _ _ _)
  case notHigh =>
    intro tile e s h
    exact runs_next (by simp only [exec, execCodecBacklogHigh, Nat.not_lt.mpr h, if_false]) rfl
  case low =>
    intro tile e s h
    exact runs_next (t := modEngine (tile * 4 + e) (fun x => { x with escaping := false }) s) (by simp only [exec, execCodecBacklogLow, h, if_true])
      (engineOf_modEngine_same _ _ _)
  case notLow =>
    intro tile e s h
    exact runs_next (by simp only [exec, execCodecBacklogLow, Nat.not_lt.mpr h, if_false]) rfl
  case built =>
    intro g s p rest hc hb
    refine runs_next rfl ?_
    rw [channelOf_modChannel_same]
    simp only [hc, buildFirst, hb, if_true]
  case sampled =>
    intro g s k x y hk hp
    refine runs_next rfl ?_
    simp only [hk, hp]
    rw [codecChan_congr (finish_cd _ _ _), codecChan_modCodecChan_same]
    exact ⟨rfl, rfl⟩

end Sys2Proof.Machine
end

section
/-!
PROOF. Room in a ring (O48).
-/
namespace Sys2Proof.Machine
open Sys2Proof

/-! ### Table 8-2, rows that a full ring reaches -/

section
variable {g p n : Nat} {s : State}

/-- A full ring overwrites its oldest free frame until the frame has room and an index entry. -/
theorem ringRoom_overwrites {f : Rec} (hp : (ringOf s g).target ≤ (ringOf s g).pages)
    (hfull : (decide (indexUsed s (g / 64) < indexTotal) && decide (p ≤ unusedPages (ringOf s g))) = false)
    (hf : oldestFree s g = some f) : ringRoom g p (n + 1) s = ringRoom g p n (overwrite g f s) := by
  simp only [ringRoom, Nat.not_lt.mpr hp, and_false, if_false, hfull, Bool.false_eq_true, hf]

theorem ringRoom_fits (hp : (ringOf s g).target ≤ (ringOf s g).pages)
    (hroom : (decide (indexUsed s (g / 64) < indexTotal) && decide (p ≤ unusedPages (ringOf s g))) = true) :
    ringRoom g p (n + 1) s = (true, s) := by
  simp only [ringRoom, Nat.not_lt.mpr hp, and_false, if_false, hroom, if_true]

end

/-! ### A table of rings out of order -/

/-- A frame of channel 0 with its tag. -/
def taggedFrame : Frame where
  seq := 5
  blockId := 1
  set := {}
  mode := .record
  leader := { payloadType := 1, timestamp := 0, pixelFormat := 0, sizeX := 0, sizeY := 0, offsetX := 0, offsetY := 0, padX := 0, padY := 0
              parts := [] }
  leaderAt := 0
  first := 0
  last := 0
  expo := 0
  expoEstimated := false
  expoClamped := false
  holdover := false
  deliver := false
  record := true
  tagged := true

/-- A frame record of one page. -/
def pageRec (q : U64) : Rec := { seq := q, pages := 1, tag := [], data := [], expo := 0 }

/-- A ring of two pages, both with a frame. -/
def ringTwo : Ring := { target := 2, pages := 2, frames := [pageRec 1, pageRec 2] }

/-- A ring of n frames. -/
def ringOfLength (n : Nat) : Ring := { frames := List.replicate n (pageRec 0) }

/-- The table lists ring 1, with n frames, before ring 0: an update of ring 0 is listed in front of it and leaves the old one behind. -/
def unsortedRings (n : Nat) : State := { State.reset with
  pkg := { mode := .ready, target := .ready }
  st := { State.reset.st with channels := [(0, { frames := [taggedFrame] })] }
  fs := { State.reset.fs with rings := [(1, ringOfLength n), (0, ringTwo)] } }

def unsortedRings1 (n : Nat) : State := overwrite 0 (pageRec 1) (unsortedRings n)
def unsortedRings2 (n : Nat) : State := overwrite 0 (pageRec 2) (unsortedRings1 n)

theorem indexUsed_unsortedRings (n : Nat) : indexUsed (unsortedRings n) 0 = n + 2 := by
  simp [indexUsed, tileRings, tileSegs, sumOver, unsortedRings, ringOfLength, ringTwo, State.reset]

theorem rings_unsortedRings1 (n : Nat) : (unsortedRings1 n).fs.rings =
    [(0, { ringTwo with frames := [pageRec 2], overwritten := 1 }), (1, ringOfLength n), (0, ringTwo)] := rfl

theorem rings_unsortedRings2 (n : Nat) : (unsortedRings2 n).fs.rings =
    [(0, { ringTwo with frames := [], overwritten := 2 }), (1, ringOfLength n), (0, ringTwo)] := rfl

theorem indexUsed_unsortedRings1 (n : Nat) : indexUsed (unsortedRings1 n) 0 = n + 3 := by
  have hsegs : (unsortedRings1 n).fs.segs = [] := rfl
  simp only [indexUsed, tileRings, tileSegs, sumOver, rings_unsortedRings1, hsegs]
  simp [ringOfLength, ringTwo]
  omega

theorem indexUsed_unsortedRings2 (n : Nat) : indexUsed (unsortedRings2 n) 0 = n + 2 := by
  have hsegs : (unsortedRings2 n).fs.segs = [] := rfl
  simp only [indexUsed, tileRings, tileSegs, sumOver, rings_unsortedRings2, hsegs]
  simp [ringOfLength, ringTwo]

/-- With one index entry left the first overwrite takes it for the new listing of the ring, so a second follows. -/
theorem ringRoom_unsortedRings : ringRoom 0 1 12 (unsortedRings 4194301) = (true, unsortedRings2 4194301) := by
  have h1 : ringRoom 0 1 12 (unsortedRings 4194301) = ringRoom 0 1 11 (unsortedRings1 4194301) :=
    ringRoom_overwrites (f := pageRec 1) (Nat.le_refl 2) (Bool.and_eq_false_iff.mpr (.inr rfl)) rfl
  have h2 : ringRoom 0 1 11 (unsortedRings1 4194301) = ringRoom 0 1 10 (unsortedRings2 4194301) :=
    ringRoom_overwrites (f := pageRec 2) (Nat.le_refl 2)
      (by rw [Bool.and_eq_false_iff, Nat.zero_div, indexUsed_unsortedRings1]; exact .inl (by decide)) rfl
  have h3 : ringRoom 0 1 10 (unsortedRings2 4194301) = (true, unsortedRings2 4194301) :=
    ringRoom_fits (Nat.le_refl 2) (by rw [Bool.and_eq_true, Nat.zero_div, indexUsed_unsortedRings2]; exact ⟨by decide, rfl⟩)
  rw [h1, h2, h3]

theorem exec_frameRecordValid {g : Nat} {s : State} {f : Frame} (h : Recordable s g f) : exec (.frameRecordValid g) s =
    .next (sweepFrames g (modFrame g f.seq (fun f => { f with recorded := true }) (writeRec g (recordOf s g f) s))) := by
  obtain ⟨hf, ht, hs, h3, h2⟩ := h
  have herr : placeError g s = (0, s) := by simp only [placeError, h3, h2, Bool.false_eq_true, if_false]
  simp only [exec, execFrameRecordValid, hf, ht, hs, herr, Bool.and_self, if_true]
  rfl

theorem recordOf_unsortedRings (n : Nat) : (recordOf (unsortedRings n) 0 taggedFrame).pages = 1 := rfl

/-- Both frames of ring 0 are gone when the new one is written. -/
theorem writeRec_unsortedRings {n : Nat} (h : ringRoom 0 1 12 (unsortedRings n) = (true, unsortedRings2 n)) :
    (ringOf (writeRec 0 (recordOf (unsortedRings n) 0 taggedFrame) (unsortedRings n)) 0).overwritten = 2 := by
  have htarget : (ringOf (unsortedRings n) 0).target = 2 := rfl
  have hpos : (2 = 0) = False := eq_false (by decide)
  have hfuel : 2 * (ringOf (unsortedRings n) 0).frames.length + 8 = 12 := rfl
  simp only [writeRec, htarget, recordOf_unsortedRings, hfuel, h, hpos, if_false, if_true]
  rfl

theorem settleRing_overwritten {g : Nat} {s : State} (h : activeSeg s g = none) :
    (ringOf (settleRing g s) g).overwritten = (ringOf s g).overwritten := by
  unfold settleRing
  extract_lets now t
  split
  · rfl
  · have ht : activeSeg t g = none := h
    rw [ht]
    simp only [t, ringOf, modRing, modFs, tget_tmod_same]

theorem sweepFrames_overwritten {g : Nat} {s : State} (q : U64) (F : Frame → Frame) (h : activeSeg s g = none) :
    (ringOf (sweepFrames g (modFrame g q F s)) g).overwritten = (ringOf s g).overwritten := by
  unfold sweepFrames
  exact settleRing_overwritten (s := modChannel g _ (modFrame g q F s)) h

/-- The frame is recorded over both frames of ring 0. -/
theorem overwritten_unsortedRings {n : Nat} (h : ringRoom 0 1 12 (unsortedRings n) = (true, unsortedRings2 n)) :
    ∃ t, exec (.frameRecordValid 0) (unsortedRings n) = .next t ∧ (ringOf t 0).overwritten = 2 := by
  refine ⟨_, exec_frameRecordValid ⟨rfl, rfl, rfl, rfl, rfl⟩, ?_⟩
  refine .trans ?_ (writeRec_unsortedRings h)
  have hactive : activeSeg (writeRec 0 (recordOf (unsortedRings n) 0 taggedFrame) (unsortedRings n)) 0 = none := by
    have htarget : (ringOf (unsortedRings n) 0).target = 2 := rfl
    have hpos : (2 = 0) = False := eq_false (by decide)
    have hfuel : 2 * (ringOf (unsortedRings n) 0).frames.length + 8 = 12 := rfl
    simp only [writeRec, htarget, recordOf_unsortedRings, hfuel, h, hpos, if_false, if_true]
    rfl
  exact sweepFrames_overwritten _ _ hactive

/-- Refutes O48: in a table of rings out of order an update is listed a second time, so that room for a frame runs out of index entries and
both frames of the ring are overwritten. -/
theorem not_recordsAndTriggers : ¬ Obligations.RecordsAndTriggers := by
  rintro ⟨-, -, hover, -⟩
  have hfalse (n : Nat) (hidx : indexUsed (unsortedRings n) 0 < indexTotal)
      (hroom : ringRoom 0 1 12 (unsortedRings n) = (true, unsortedRings2 n)) : False := by
    obtain ⟨t, hexec, -, hcount, -⟩ := hover 0 (unsortedRings n) taggedFrame (pageRec 1) [pageRec 2] ⟨rfl, rfl, rfl, rfl, rfl⟩ hidx rfl rfl
      (Nat.succ_ne_zero 1) rfl (by decide) (Nat.le_refl 2) Nat.zero_lt_one (Nat.le_refl 1)
    obtain ⟨u, hexec', htwo⟩ := overwritten_unsortedRings hroom
    rw [hexec'] at hexec
    cases hexec
    have hzero : (ringOf (unsortedRings n) 0).overwritten = 0 := rfl
    rw [htwo, hzero] at hcount
    exact absurd hcount (by decide)
  exact hfalse 4194301 (by rw [indexUsed_unsortedRings]; decide) ringRoom_unsortedRings

end Sys2Proof.Machine
end

section
/-!
PROOF. Rings, segments and readouts (O47, O49).
-/
namespace Sys2Proof.Machine
open Sys2Proof

/-! ### Rings that give back or take pages -/

/-- Of the frame store only the rings differ. -/
def RingsOnly (s t : State) : Prop := t.fs = { s.fs with rings := t.fs.rings }

namespace RingsOnly

theorem refl (s : State) : RingsOnly s s := rfl

theorem trans {s t u : State} (h : RingsOnly s t) (h' : RingsOnly t u) : RingsOnly s u := by
  unfold RingsOnly at *
  rw [h', h]

theorem modRing (g : Nat) (f : Ring → Ring) (s : State) : RingsOnly s (modRing g f s) := rfl

theorem of_fs {s t : State} (h : t.fs = s.fs) : RingsOnly s t := by unfold RingsOnly; rw [h]

theorem segs {s t : State} (h : RingsOnly s t) : t.fs.segs = s.fs.segs := by rw [h]
theorem maps {s t : State} (h : RingsOnly s t) : t.fs.maps = s.fs.maps := by rw [h]

theorem foldl {α : Type} {f : State → α → State} (hf : ∀ s x, RingsOnly s (f s x)) (l : List α) (s : State) :
    RingsOnly s (l.foldl f s) := by
  induction l generalizing s with
  | nil => exact refl s
  | cons x l ih => exact (hf s x).trans (ih _)

end RingsOnly

theorem trimRing_rings (g n : Nat) (s : State) : RingsOnly s (trimRing g n s) := by
  induction n generalizing s with
  | zero => exact .refl s
  | succ n ih =>
    unfold trimRing
    extract_lets r
    split
    · exact .modRing _ _ _
    · split
      · exact (RingsOnly.modRing _ _ _).trans (ih _)
      · split
        · exact (RingsOnly.modRing _ _ _).trans (ih _)
        · exact .modRing _ _ _

theorem trim_rings (g : Nat) (s : State) : RingsOnly s (trim g s) := trimRing_rings _ _ _

theorem refillRing_rings (g : Nat) (s : State) : RingsOnly s (refillRing g s) := .modRing _ _ _

theorem refillShort_rings (t : Nat) (s : State) : RingsOnly s (refillShort t s) := RingsOnly.foldl (fun s (x : Nat × Ring) => refillRing_rings x.1 s) _ _

@[simp] theorem ringOf_modRing_same (g : Nat) (f : Ring → Ring) (s : State) : ringOf (modRing g f s) g = f (ringOf s g) := by
  simp only [ringOf, modRing, modFs, tget_tmod_same]

/-- A ring that is trimmed keeps its target, and loses frames at most. -/
theorem trimRing_ring (g n : Nat) (s : State) : (ringOf (trimRing g n s) g).target = (ringOf s g).target
    ∧ (ringOf (trimRing g n s) g).frames.Sublist (ringOf s g).frames := by
  induction n generalizing s with
  | zero => exact ⟨rfl, .refl _⟩
  | succ n ih =>
    unfold trimRing
    extract_lets r
    split
    · rw [ringOf_modRing_same]; exact ⟨rfl, .refl _⟩
    · split
      · obtain ⟨ht, hf⟩ := ih (modRing g (fun r => { r with pages := r.pages - min (unusedPages r) (r.pages - r.target) }) s)
        rw [ringOf_modRing_same] at ht hf
        exact ⟨ht, hf⟩
      · split
        next f _ =>
          obtain ⟨ht, hf⟩ := ih (dropRec g f.seq s)
          rw [dropRec, ringOf_modRing_same] at ht hf
          exact ⟨ht, hf.trans List.filter_sublist⟩
        · rw [ringOf_modRing_same]; exact ⟨rfl, .refl _⟩

theorem trim_ring (g : Nat) (s : State) : (ringOf (trim g s) g).target = (ringOf s g).target
    ∧ (ringOf (trim g s) g).frames.Sublist (ringOf s g).frames := trimRing_ring _ _ _

theorem ringOf_congr {s t : State} (h : t.fs = s.fs) (g : Nat) : ringOf t g = ringOf s g := by rw [ringOf, ringOf, h]

theorem setRing_ring (g n : Nat) (s : State) : (ringOf (setRing g n s) g).target = n
    ∧ (ringOf (setRing g n s) g).frames.length ≤ (ringOf s g).frames.length := by
  unfold setRing
  extract_lets r take u v
  obtain ⟨ht, hf⟩ := trim_ring g u
  have hu : ringOf u g = { ringOf s g with target := n, pages := (ringOf s g).pages + take } := ringOf_modRing_same _ _ _
  rw [hu] at ht hf
  rw [ringOf_modRing_same]
  exact ⟨ht, hf.length_le⟩

theorem raise_fs (t l n : Nat) (s : State) : (raise t l n s).fs = s.fs := (raise_within t l n (.refl (allBut .fs) s) rfl).keeps (c := .fs)
theorem raiseEv_fs (t src at_ : Nat) (w : U32) (h : Nat) (s : State) : (raiseEv t src at_ w h s).fs = s.fs :=
  (raiseEv_within t src at_ w h (.refl (allBut .fs) s) rfl).keeps (c := .fs)
theorem finish_fs (id : Nat) (a : Answer) (s : State) : (finish id a s).fs = s.fs := (finish_within id a (.refl (allBut .fs) s) rfl).keeps (c := .fs)
theorem dropObj_fs (k : Nat) (s : State) : (dropObj k s).fs = s.fs := (dropObj_within k (.refl (allBut .fs) s) rfl).keeps (c := .fs)

/-- A segment that ends goes from the table, with its mappings. -/
theorem dropSegment_fs {k : Nat} {s : State} {x : Segment} (h : tget? s.fs.segs k = some x) :
    (dropSegment k s).fs.segs = tdel s.fs.segs k ∧ (dropSegment k s).fs.maps = s.fs.maps.filter fun m => decide (m.segment ≠ k) := by
  have hrings (live : Bool) (u : State) : RingsOnly u (if live then trim x.channel u else refillShort (k / 16384) u) := by
    cases live
    · exact refillShort_rings _ _
    · exact trim_rings _ _
  simp only [dropSegment, h]
  exact ⟨by rw [(hrings _ _).segs, dropObj_fs]; rfl, by rw [(hrings _ _).maps, dropObj_fs]; rfl⟩

/-! ### Segments that arm and freeze -/

theorem lowestFree_not_mem {used : List Nat} {lo n i : Nat} (h : lowestFree used lo n = some i) : i ∉ used := by
  induction n generalizing lo with
  | zero => cases h
  | succ n ih =>
    unfold lowestFree at h
    split at h
    · exact ih h
    next hlo => cases h; simpa using hlo

theorem mem_keys_of_tget? {α : Type} {t : Tab α} {k : Nat} (h : (tget? t k).isSome = true) : k ∈ t.map (·.1) := by
  induction t with
  | nil => cases h
  | cons p t ih =>
    obtain ⟨j, a⟩ := p
    rw [List.map_cons, List.mem_cons]
    by_cases hj : j = k
    · exact .inl hj.symm
    · rw [tget?, if_neg hj] at h
      exact .inr (ih h)

/-- A segment is armed under a number that no object has. -/
theorem armSegment_some {g : Nat} {x : Segment} {o : Obj} {s : State} {r : Nat × State} (h : armSegment g x o s = some r) :
    ∃ i, freeSegment s (g / 64) = some i ∧ r.1 = g / 64 * 16384 + i ∧ r.2.fs = { s.fs with segs := tput s.fs.segs r.1 x }
      ∧ r.2.eng.gens = s.eng.gens ∧ ∀ k, k < 131072 → (obj? s (segSlot k)).isSome = true → k ≠ r.1 := by
  unfold armSegment at h
  split at h
  · cases h
  · obtain ⟨i, hi, rfl⟩ := Option.map_eq_some_iff.mp h
    refine ⟨i, hi, rfl, rfl, rfl, fun k hk hobj hki => ?_⟩
    have hlt : i < 0 + 16384 := lowestFree_lt hi
    refine lowestFree_not_mem hi (List.mem_filterMap.mpr ⟨segSlot k, mem_keys_of_tget? hobj, ?_⟩)
    subst hki
    replace hk : g / 64 * 16384 + i < 131072 := hk
    have h1 : slotKind (segSlot (g / 64 * 16384 + i)) = 3 := by simp only [slotKind, segSlot, slotOf]; omega
    have h2 : slotTile (segSlot (g / 64 * 16384 + i)) = g / 64 := by simp only [slotTile, segSlot, slotOf]; omega
    have h3 : slotIndex (segSlot (g / 64 * 16384 + i)) = i := by simp only [slotIndex, segSlot, slotOf]; omega
    rw [h1, h2, h3, if_pos ⟨rfl, rfl⟩]

/-- What the arming of segment k changes. -/
def withSegment (k : Nat) (x : Segment) (o : Obj) (s : State) : State :=
  modFs (modEng s fun e => { e with objs := tput e.objs (segSlot k) { o with gen := 1, faulted := false } })
    fun f => { f with segs := tput f.segs k x }

theorem armSegment_free {g i : Nat} {x : Segment} {o : Obj} {s : State} (hfew : (chanSegs s g).length < 256)
    (hi : freeSegment s (g / 64) = some i) :
    armSegment g x o s = some (g / 64 * 16384 + i, withSegment (g / 64 * 16384 + i) x o s) := by
  simp only [armSegment, Nat.not_le.mpr hfew, if_false, hi, Option.map_some]
  rfl

/-- The frames of a ring that pass to a segment that freezes. -/
def passes (x : Segment) (r : Ring) (f : Rec) : Bool :=
  ((preSet x r).filter fun q => r.frames.any fun f => decide (f.seq = q)).contains f.seq
    || (x.post.filter fun q => r.frames.any fun f => decide (f.seq = q)).contains f.seq

/-- What a segment is, from the moment it freezes on (R167). -/
structure Froze (s : State) (x : Segment) (by_ : FreezeBy) (y : Segment) : Prop where
  state : y.state = .frozen
  cut : y.cut = decide (by_ = .cut)
  t : y.t = x.t
  accepted : y.acceptedAt = x.acceptedAt
  post : y.post = x.post.filter fun q => (ringOf s x.channel).frames.any fun f => decide (f.seq = q)
  frames : y.frames.map (·.seq) = ((ringOf s x.channel).frames.filter (passes x (ringOf s x.channel))).map (·.seq)

/-- A segment freezes; what passed to it has left its ring, and the handles stand. -/
theorem freezeSegment_some {k : Nat} {by_ : FreezeBy} {s : State} {x : Segment} (h : tget? s.fs.segs k = some x) (hk : k < 131072)
    (hobj : (obj? s (segSlot k)).isSome = true) :
    (∃ y, tget? (freezeSegment k by_ s).fs.segs k = some y ∧ Froze s x by_ y)
      ∧ (ringOf (freezeSegment k by_ s) x.channel).frames.Sublist ((ringOf s x.channel).frames.filter fun f => !passes x (ringOf s x.channel) f)
      ∧ (freezeSegment k by_ s).eng.gens = s.eng.gens := by
  unfold freezeSegment
  split
  next hn => rw [h] at hn; cases hn
  next x₀ hx₀ =>
  obtain rfl : x = x₀ := Option.some.inj (h.symm.trans hx₀)
  extract_lets g t r pre post mine frames pages x' u v w lack y z fresh next y'
  have hv : v.fs.segs = tput s.fs.segs k x' := rfl
  have hvr : ringOf v g = { ringOf s g with
      frames := (ringOf s g).frames.filter fun f => !mine f, pages := (ringOf s g).pages - pages } := ringOf_modRing_same _ _ _
  have hyw : y.fs = w.fs ∧ y.eng = w.eng := by
    simp only [y]
    split
    · exact ⟨rfl, rfl⟩
    · exact ⟨raise_fs _ _ _ _, raise_eng _ _ _ _⟩
  have hzr : RingsOnly v z := (refillRing_rings _ _).trans ((RingsOnly.of_fs hyw.1).trans (trim_rings _ _))
  have hze : z.eng = s.eng := by
    have h1 : z.eng = y.eng := (trim_within _ (.refl (allBut .eng) y) rfl).keeps (c := .eng)
    have h2 : w.eng = v.eng := (refillRing_within _ (.refl (allBut .eng) v) rfl).keeps (c := .eng)
    rw [h1, hyw.2, h2]
    rfl
  have hzf : (ringOf z g).frames.Sublist ((ringOf s g).frames.filter fun f => !mine f) := by
    have h1 := (trim_ring g y).2
    have h2 : ringOf y g = ringOf w g := ringOf_congr hyw.1 _
    have h3 : (ringOf w g).frames = (ringOf v g).frames := by
      simp only [w, refillRing, ringOf_modRing_same, ringFlags]
    rw [h2, h3, hvr] at h1
    exact h1
  have hy' : y'.fs.rings = z.fs.rings ∧ tget? y'.fs.segs k = some x' ∧ y'.eng.gens = s.eng.gens := by
    have hzk : tget? z.fs.segs k = some x' := by rw [hzr.segs, hv, tget?_tput_same]
    simp only [y']
    cases hn : next with
    | none => exact ⟨rfl, hzk, by rw [Option.map_none, Option.getD_none, hze]⟩
    | some r =>
      have hr : armSegment g fresh (successorObj z g k) z = some r := by
        simp only [next] at hn
        split at hn
        · exact hn
        · cases hn
      obtain ⟨i, -, -, hfs, hgens, hne⟩ := armSegment_some hr
      have hkr : k ≠ r.1 := hne k hk (by rw [obj?, hze]; exact hobj)
      rw [Option.map_some, Option.getD_some, hfs, hgens, hze, tget?_tput_other _ _ hkr]
      exact ⟨rfl, hzk, rfl⟩
  obtain ⟨hrings, hseg, hgens⟩ := hy'
  refine ⟨⟨x', by rw [raise_fs]; exact hseg, rfl, rfl, rfl, rfl, rfl, ?_⟩, ?_, by rw [raise_eng]; exact hgens⟩
  · simp only [x', frames, List.map_map]
    rfl
  · rw [ringOf_congr (raise_fs _ _ _ _), ringOf, hrings]
    exact hzf

/-- A segment that is triggered has T and the time of acceptance; it waits for its frames or is frozen. -/
theorem triggerSegment_some {k : Nat} {at_ : Int} {hops : Nat} {s : State} {x : Segment} (h : tget? s.fs.segs k = some x) (hk : k < 131072)
    (hobj : (obj? s (segSlot k)).isSome = true) :
    ∃ y, tget? (triggerSegment k at_ hops s).fs.segs k = some y ∧ y.t = some at_ ∧ y.acceptedAt = s.clock
      ∧ (y.state = .triggered ∨ y.state = .frozen) := by
  have hcheck (u : State) (z : Segment) (g : Nat) (hz : tget? u.fs.segs k = some z) (hu : u.eng = s.eng) (ht : z.t = some at_)
      (hc : z.acceptedAt = s.clock) (hs : z.state = .triggered) : ∃ y, tget? (trim g (checkSegment k u)).fs.segs k = some y
      ∧ y.t = some at_ ∧ y.acceptedAt = s.clock ∧ (y.state = .triggered ∨ y.state = .frozen) := by
    rw [(trim_rings _ _).segs]
    simp only [checkSegment, hz]
    split
    · obtain ⟨⟨y, hy, hf⟩, -, -⟩ := freezeSegment_some (by_ := .complete) hz hk (by rw [obj?, hu]; exact hobj)
      exact ⟨y, hy, hf.t.trans ht, hf.accepted.trans hc, .inr hf.state⟩
    · exact ⟨z, hz, ht, hc, .inl hs⟩
  unfold triggerSegment
  split
  next hn => rw [h] at hn; cases hn
  next x₀ hx₀ =>
  obtain rfl : x = x₀ := Option.some.inj (h.symm.trans hx₀)
  extract_lets r after y z u
  refine hcheck _ z _ ?_ ?_ ?_ ?_ ?_
  · rw [raiseEv_fs]
    exact tget?_tput_same _ _ _
  · exact (raiseEv_within _ _ _ _ _ (.refl (allBut .eng) _) rfl).keeps (c := .eng)
  all_goals simp only [z]; split <;> rfl

/-! ### The handle of TARGET -/

/-- TARGET of a command that acts on a segment names one of the tiles, and an object that lives. -/
theorem Accepted.segment {o : OpDef} {c : Cmd} {s : State} (h : Accepted o c s) (hk : o.kinds = [3]) (hz : o.orZero = false) :
    segSlot (segNumber (tgt c)) = tslot c ∧ segNumber (tgt c) < 131072 ∧ (obj? s (tslot c)).isSome = true := by
  have htarget := h.checks.target
  have hlive := h.checks.live
  unfold targetOk at htarget
  split at htarget
  · rw [hk, hz] at htarget; cases htarget
  next hne =>
  simp only [hk, List.contains_cons, List.contains_nil, Bool.or_false, Bool.and_eq_true, beq_iff_eq, decide_eq_true_eq] at htarget
  obtain ⟨⟨hkind, htile⟩, hindex⟩ := htarget
  rw [hkind] at hindex
  have hindex' : handleIndex (tgt c) < 16384 := hindex
  have htiles := tiles_le s
  refine ⟨?_, by simp only [segNumber]; omega, ?_⟩
  · simp only [segSlot, segNumber, tslot, handleSlot, hkind]
    congr 1 <;> omega
  · have hl : handleLive s (tgt c) = true := by simpa [hne] using hlive
    simp only [handleLive, Bool.and_eq_true] at hl
    exact hl.1.1

theorem Accepted.channelTile {o : OpDef} {c : Cmd} {s : State} (h : Accepted o c s) (hk : o.kinds = [1]) (hz : o.orZero = false) :
    chanOfHandle (tgt c) / 64 = handleTile (tgt c) ∧ handleTile (tgt c) < 8 := by
  have htarget := h.checks.target
  unfold targetOk at htarget
  split at htarget
  · rw [hk, hz] at htarget; cases htarget
  simp only [hk, List.contains_cons, List.contains_nil, Bool.or_false, Bool.and_eq_true, beq_iff_eq, decide_eq_true_eq] at htarget
  obtain ⟨⟨hkind, htile⟩, hindex⟩ := htarget
  rw [hkind] at hindex
  have hindex' : handleIndex (tgt c) < 64 := hindex
  have htiles := tiles_le s
  exact ⟨by simp only [chanOfHandle]; omega, by omega⟩

theorem segHandle_congr {s t : State} (h : t.eng.gens = s.eng.gens) (k : Nat) : segHandle t k = segHandle s k := by
  simp only [segHandle, handleOf, genOf, h]

/-- All frames of a ring pass to a segment that was armed with them as its pre frames. -/
theorem passes_of_pre {x : Segment} {r : Ring} (h : x.pre = some (r.frames.map (·.seq))) {f : Rec} (hf : f ∈ r.frames) : passes x r f = true := by
  simp only [passes, preSet, h, Bool.or_eq_true]
  refine .inl (List.contains_iff_mem.mpr (List.mem_filter.mpr ⟨List.mem_map_of_mem hf, ?_⟩))
  exact List.any_eq_true.mpr ⟨f, hf, decide_eq_true rfl⟩

/-- FS_FREEZE_RING: a segment armed with all frames of a ring freezes at once, and the ring is empty (Table 8-12). -/
theorem freezeRing_some {g i : Nat} {s : State} {o : Obj} {x : Segment} (hi : freeSegment s (g / 64) = some i) (hg : g / 64 < 8)
    (hpre : x.pre = some ((ringOf s g).frames.map (·.seq))) (hch : x.channel = g) (hpost : x.post = []) :
    segHandle (freezeSegment (g / 64 * 16384 + i) .complete (withSegment (g / 64 * 16384 + i) x o s)) (g / 64 * 16384 + i)
        = segHandle s (g / 64 * 16384 + i)
      ∧ (ringOf (freezeSegment (g / 64 * 16384 + i) .complete (withSegment (g / 64 * 16384 + i) x o s)) g).frames = []
      ∧ ∃ y, tget? (freezeSegment (g / 64 * 16384 + i) .complete (withSegment (g / 64 * 16384 + i) x o s)).fs.segs (g / 64 * 16384 + i) = some y
        ∧ y.state = .frozen ∧ y.t = x.t ∧ y.post = [] ∧ y.frames.map (·.seq) = (ringOf s g).frames.map (·.seq) := by
  have hlt : i < 0 + 16384 := lowestFree_lt hi
  obtain ⟨⟨y, hy, hf⟩, hring, hgens⟩ := freezeSegment_some (k := g / 64 * 16384 + i) (by_ := .complete) (s := withSegment (g / 64 * 16384 + i) x o s)
    (tget?_tput_same _ _ _) (by omega) (by rw [obj?]; exact congrArg Option.isSome (tget?_tput_same _ _ _))
  have hsame : ringOf (withSegment (g / 64 * 16384 + i) x o s) g = ringOf s g := rfl
  have hall := fun f (hf : f ∈ (ringOf s g).frames) => passes_of_pre hpre hf
  have hframes := hf.frames
  have hpost' := hf.post
  rw [hch, hsame] at hring hframes
  rw [hpost, List.filter_nil] at hpost'
  rw [List.filter_eq_self.mpr hall] at hframes
  rw [List.filter_eq_nil_iff.mpr (fun f hf => by rw [hall f hf]; decide)] at hring
  exact ⟨segHandle_congr hgens _, List.sublist_nil.mp hring, y, hy, hf.state, hf.t, hpost', hframes⟩

/-- Settles O47: what segments and rings hold follows from their rules, and an armed segment has a number that no object has. -/
theorem ringAndSegmentCommands : Obligations.RingAndSegmentCommands := by
  unfold Obligations.RingAndSegmentCommands
  refine ⟨fun c s h => ?_, fun c s h => answers_of_act (o := opFsQuery) rfl h ⟨rfl, rfl, rfl⟩, fun c s h => ?_, fun c s x h hx => ?_,
    fun c s x h hx => ?_, fun c s h => ?_, fun c s x h hx => ?_, fun c s x h hx => ?_⟩
  · obtain ⟨htarget, hlen⟩ := setRing_ring (chanOfHandle (tgt c)) (par c 0 4) s
    refine answers_of_act (o := opFsRingSet) rfl h ⟨rfl, ?_⟩
    have hfs : (if par c 0 4 = (ringOf s (chanOfHandle (tgt c))).target then setRing (chanOfHandle (tgt c)) (par c 0 4) s
        else bumpObj (tslot c) (setRing (chanOfHandle (tgt c)) (par c 0 4) s)).fs = (setRing (chanOfHandle (tgt c)) (par c 0 4) s).fs := by
      split
      · rfl
      · exact (bumpObj_within _ (.refl (allBut .fs) _) rfl).keeps (c := .fs)
    have hring : ringOf (if par c 0 4 = (ringOf s (chanOfHandle (tgt c))).target then setRing (chanOfHandle (tgt c)) (par c 0 4) s
        else bumpObj (tslot c) (setRing (chanOfHandle (tgt c)) (par c 0 4) s)) (chanOfHandle (tgt c))
        = ringOf (setRing (chanOfHandle (tgt c)) (par c 0 4) s) (chanOfHandle (tgt c)) := ringOf_congr hfs _
    exact ⟨(congrArg Ring.target hring).trans htarget, Nat.le_trans (Nat.le_of_eq (congrArg (·.frames.length) hring)) hlen, rfl⟩
  · have hshort := h.checks.room
    simp only [opFsSegArm, Bool.or_eq_false_iff, decide_eq_false_iff_not, Option.isNone_eq_false_iff] at hshort
    obtain ⟨hfew, hfree⟩ := hshort
    obtain ⟨i, hi⟩ := Option.isSome_iff_exists.mp hfree
    have hbad := h.checks.params_ok.1 (0, kindBad s 1 (par c 0 4)) List.mem_cons_self
    simp only [kindBad, Bool.or_eq_false_iff, decide_eq_false_iff_not, indexLimit] at hbad
    have htile : chanOfHandle (par c 0 4) / 64 = handleTile (par c 0 4) := by simp only [chanOfHandle]; omega
    have hfree' : freeSegment s (chanOfHandle (par c 0 4) / 64) = some i := by rw [htile]; exact hi
    refine ⟨i, hi, ?_⟩
    refine answers_of_act (o := opFsSegArm) rfl h ?_
    simp only [opFsSegArm, armSegment_free (Nat.not_le.mp hfew) hfree', htile]
    exact ⟨rfl, rfl, tget?_tput_same _ _ _, tget?_tput_same _ _ _⟩
  · obtain ⟨hslot, hk, hobj⟩ := h.segment rfl rfl
    obtain ⟨y, hy, ht, hc, hst⟩ := triggerSegment_some (at_ := triggerTime c s) (hops := 0) hx hk (hslot ▸ hobj)
    exact answers_of_act (o := opFsTrigger) rfl h ⟨rfl, rfl, y, hy, ht, hc, hst⟩
  · obtain ⟨hsegs, hmaps⟩ := dropSegment_fs hx
    refine answers_of_act (o := opFsSegRelease) rfl h ⟨rfl, hsegs, ?_, hmaps⟩
    rw [hx]
    rfl
  · obtain ⟨htile, hlt⟩ := h.channelTile rfl rfl
    have hshort := h.checks.room
    simp only [opFsFreezeRing, Bool.or_eq_false_iff, decide_eq_false_iff_not, Option.isNone_eq_false_iff] at hshort
    obtain ⟨hfew, hfree⟩ := hshort
    obtain ⟨i, hi⟩ := Option.isSome_iff_exists.mp hfree
    rw [← htile] at hi
    refine ⟨i, hi, ?_⟩
    refine answers_of_act (o := opFsFreezeRing) rfl h ?_
    simp only [opFsFreezeRing, armSegment_free (Nat.not_le.mp hfew) hi]
    obtain ⟨hhandle, hring, y, hy, hstate, ht, hpost, hframes⟩ := freezeRing_some (o := { owner := c.port }) (x := {
      channel := chanOfHandle (tgt c), chanHandle := tgt c, preN := (ringOf s (chanOfHandle (tgt c))).frames.length, postM := 0
      state := .triggered, t := some (s.time.now : Int), acceptedAt := s.clock
      pre := some ((ringOf s (chanOfHandle (tgt c))).frames.map (·.seq)) }) hi (by omega) rfl rfl rfl
    exact ⟨rfl, congrArg some hhandle, hring, y, hy, hstate, ht, hpost, hframes⟩
  · refine answers_of_act (o := opFsSegQuery) rfl h ?_
    simp only [opFsSegQuery, hx]
    exact ⟨rfl, rfl, rfl⟩
  · refine answers_of_act (o := opFsDirRead) rfl h ?_
    simp only [opFsDirRead, hx]
    exact ⟨rfl, rfl, rfl⟩

end Sys2Proof.Machine
end

section
/-!
PROOF. Readouts and mappings (O49).
-/
namespace Sys2Proof.Machine
open Sys2Proof

/-! ### Readouts that start and end -/

theorem takeBuffer_fs {s t : State} {b q : Nat} {d : Desc} (h : takeBuffer s b q = some (d, t)) : t.fs = s.fs := by
  unfold takeBuffer at h
  split at h
  · split at h
    · cases h
    · split at h
      · cases h
        exact (modQueue_within _ _ (.refl (allBut .fs) _) rfl).keeps (c := .fs)
      · cases h
  · cases h

theorem leaveRoute_fs (k : Nat) (s : State) : (leaveRoute k s).fs = s.fs := (leaveRoute_within k (.refl (allBut .fs) s) rfl).keeps (c := .fs)

theorem dropWhile_nil {α : Type} {p : α → Bool} {l : List α} (h : l.dropWhile p = []) : ∀ a ∈ l, p a = true := by
  induction l with
  | nil => exact fun a ha => nomatch ha
  | cons b l ih =>
    rw [List.dropWhile_cons] at h
    split at h
    · next hb => exact List.forall_mem_cons.mpr ⟨hb, ih h⟩
    · cases h

/-- A readout that has a good frame left goes on: of the frame store at most what it skips changes. -/
theorem nextReadout_fs {k : Nat} {s : State} {r : Readout} {x : Segment} (hr : tget? s.fs.readouts k = some r) (hx : tget? s.fs.segs k = some x)
    (hleft : (r.left.filter fun i => !badFrame s k i) ≠ []) :
    (nextReadout k s).fs = s.fs ∨ (nextReadout k s).fs = { s.fs with readouts := tput s.fs.readouts k (skipBad s k r) } := by
  have hrest : (skipBad s k r).left ≠ [] := by
    intro hnil
    apply hleft
    rw [List.filter_eq_nil_iff]
    intro i hi
    have hbad := dropWhile_nil hnil i hi
    simp [hbad]
  unfold nextReadout
  rw [hr, hx]
  dsimp only
  split
  · exact .inl rfl
  · right
    split
    · contradiction
    · split
      next d t f htake _ =>
        have h1 := takeBuffer_fs htake
        have h2 := leaveRoute_fs (chanProducer (k / 16384 * 512 + (skipBad s k r).chan)) t
        exact h2.trans h1
      · rfl

theorem filter_dropWhile_not {α : Type} (p : α → Bool) (l : List α) : (l.dropWhile p).filter (fun a => !p a) = l.filter fun a => !p a := by
  induction l with
  | nil => rfl
  | cons a l ih =>
    rw [List.dropWhile_cons, List.filter_cons]
    split
    next h => simp [h, ih]
    next h => simp [h]

theorem badFrame_congr {s t : State} {k : Nat} {x y : Segment} (hx : tget? s.fs.segs k = some x) (hy : tget? t.fs.segs k = some y)
    (h : y.frames = x.frames) (i : Nat) : badFrame t k i = badFrame s k i := by
  simp only [badFrame, hx, hy, Option.bind_some, h]

/-- FS_READ: the segment is READING, and the readout has its good frames to deliver (R171). -/
theorem startReadout_some {c : Cmd} {k n : Nat} {x : Segment} {s : State} (hx : tget? s.fs.segs k = some x)
    (hgood : ((readoutFrames x (par c 8 4) (par c 12 4)).filter fun i => !badFrame s k i) ≠ []) :
    (∃ y, tget? (startReadout c k n x s).fs.segs k = some y ∧ y = { x with state := .reading })
      ∧ ∃ r, tget? (startReadout c k n x s).fs.readouts k = some r ∧ r.wait = s.eng.nextWait ∧ r.sent = 0 ∧ r.ending = none
        ∧ r.buf = par c 0 4 ∧ r.cpl = par c 4 4 ∧ readoutTotal (startReadout c k n x s) k r
          = ((readoutFrames x (par c 8 4) (par c 12 4)).filter fun i => !badFrame s k i).length := by
  unfold startReadout
  extract_lets l bytes r u v w
  have hjob : (if readsClassC w then addJob (k / 16384) (.readout k) ((bytes + 1048575) / 1048576) w else w).fs = w.fs := by
    split <;> rfl
  generalize (if readsClassC w then addJob (k / 16384) (.readout k) ((bytes + 1048575) / 1048576) w else w) = z at hjob
  have hz : z.fs = w.fs := hjob
  have hzr : tget? z.fs.readouts k = some r := by rw [hz]; exact tget?_tput_same _ _ _
  have hzx : tget? z.fs.segs k = some { x with state := .reading } := by rw [hz]; exact tget?_tput_same _ _ _
  have hbad (t : State) (ht : tget? t.fs.segs k = some { x with state := .reading }) : badFrame t k = badFrame s k :=
    funext fun i => badFrame_congr hx ht rfl i
  have hleft : (r.left.filter fun i => !badFrame z k i) ≠ [] := by rw [hbad z hzx]; exact hgood
  rcases nextReadout_fs hzr hzx hleft with hfs | hfs
  · refine ⟨⟨_, by rw [hfs]; exact hzx, rfl⟩, r, by rw [hfs]; exact hzr, rfl, rfl, rfl, rfl, rfl, ?_⟩
    rw [readoutTotal, hbad _ (by rw [hfs]; exact hzx)]
    exact Nat.zero_add _
  · refine ⟨⟨_, by rw [hfs]; exact hzx, rfl⟩, skipBad z k r, by rw [hfs]; exact tget?_tput_same _ _ _, rfl, rfl, rfl, rfl, rfl, ?_⟩
    have hskip : (skipBad z k r).left = r.left.dropWhile (badFrame s k) := by rw [skipBad, hbad z hzx]
    rw [readoutTotal, hbad _ (by rw [hfs]; exact hzx), hskip, filter_dropWhile_not]
    exact Nat.zero_add _

/-- A readout that is over frees its segment. -/
theorem closeReadout_fs {k e : Nat} {s : State} {r : Readout} {x : Segment} (hr : tget? s.fs.readouts k = some r)
    (hx : tget? s.fs.segs k = some x) : (closeReadout k e s).fs.readouts = tdel s.fs.readouts k
      ∧ (closeReadout k e s).fs.segs = tput s.fs.segs k { x with state := .frozen } := by
  unfold closeReadout
  split
  next hn => rw [hr] at hn; cases hn
  next r₀ hr₀ =>
  extract_lets t u v w y z a
  have hv : v.fs.readouts = tdel s.fs.readouts k ∧ v.fs.segs = tput s.fs.segs k { x with state := .frozen } := by
    refine ⟨rfl, ?_⟩
    have : u.fs.segs = s.fs.segs := rfl
    simp only [v, modFs, this, hx]
  have hz : z.fs = v.fs := by
    simp only [z]
    split
    · rfl
    · rw [raise_fs]; rfl
  have ha : a.fs = v.fs := by
    simp only [a]
    rw [raise_fs]
    exact hz
  rw [finish_fs, ha]
  exact hv

/-! ### The frame of a readout -/

/-- What follows the tag of a readout's frame only adds to what has left the package. -/
theorem readoutDone_out (k n : Nat) (f : Rec) (u : State) : u.out <+: (match readoutDelivery u k with
    | some d => if d.tagWritten then readoutWritten k d (if n < storedOf f then countCut k f u else u) else u
    | none => u).out := by
  have hcut : Within [.out, .eng, .mv, .host, .ev, .boot, .gov, .fs, .st] u (if n < storedOf f then countCut k f u else u) := by
    split
    · exact countCut_within k f (.refl _ u) rfl
    · exact .refl _ u
  split
  next d _ =>
    split
    · exact (readoutWritten_within k d hcut rfl).added
    · exact List.prefix_refl _
  · exact List.prefix_refl _

/-- Settles O49: a readout and a mapping change what their rules name; a frame that is under way is not begun again. -/
theorem readoutsAndMappings : Obligations.ReadoutsAndMappings := by
  unfold Obligations.ReadoutsAndMappings
  refine ⟨fun c s x h hx hgood => ?_, fun k s r x d f hr hx hd hf he htag hbad herr => ?_, fun k s r e x hr he hrec hd hq hx => ?_,
    fun k s r hr he => ?_, fun c s r h hr he => ?_, fun c s h hr => ?_, fun c s h hm => ?_, fun c s m h hm => ?_, fun c s h => ?_⟩
  · have hroom := h.checks.room
    simp only [opFsRead, Option.isNone_eq_false_iff] at hroom
    obtain ⟨n, hn⟩ := Option.isSome_iff_exists.mp hroom
    refine runs_of_act (o := opFsRead) rfl h ?_
    simp only [opFsRead, hx, hn, WaitsIn]
    exact startReadout_some hx hgood
  · have hnext : nextReadout k s = s := by simp only [nextReadout, hr, hx, hd, Option.isSome_some, Bool.or_true, if_true]
    have hread : readRec k s f = s := by simp only [readRec, herr]
    have hlive : (f.bad = true ∨ 2 ≤ f.err) = False := by rw [hbad, herr]; simp
    have hlen : (f.data.take (min (storedOf f) (d.desc.len - 128))).length = min (storedOf f) (d.desc.len - 128) := by
      rw [List.length_take, storedOf]; omega
    by_cases ha : deliveryAllowed s d (deliveryBurst d (min (storedOf f) (d.desc.len - 128))) = true
    · refine runs_next (by simp only [exec, execReadoutFrameDone, moveReadout, hnext, hr, hx, hd, hf, he, htag, ha, hread, hlive, Option.isSome_none,
        Bool.or_false, Bool.not_true, Bool.false_eq_true, if_false]; rfl) ?_
      obtain ⟨l, hl⟩ := readoutDone_out k (min (storedOf f) (d.desc.len - 128)) f _
      exact ⟨l, hl.symm⟩
    · refine runs_next (t := s) (by simp only [exec, execReadoutFrameDone, moveReadout, hnext, hr, hx, hd, hf, eq_false_of_ne_true ha, Bool.not_false,
        Bool.or_true, if_true]) ⟨[], ?_⟩
      rw [writeDelivery, hlen, if_neg ha, List.append_nil]
  · refine runs_next (t := closeReadout k e s) ?_ ?_
    · simp only [exec, execReadoutEarlyEnd, hr, he, hrec, hd, hq, Option.map_none, Option.getD_none, Bool.or_false, Bool.false_eq_true, if_false]
    · obtain ⟨hreadouts, hsegs⟩ := closeReadout_fs (e := e) hr hx
      exact ⟨hreadouts, by rw [hsegs, tget?_tput_same]⟩
  · refine runs_next (t := s) ?_ rfl
    simp only [exec, execReadoutEarlyEnd, hr, he]
  · refine answers_of_act (o := opFsReadAbort) rfl h ?_
    simp only [opFsReadAbort, endReadout, hr, he]
    exact ⟨rfl, tget?_tput_same _ _ _, rfl⟩
  · refine answers_of_act (o := opFsReadAbort) rfl h ?_
    simp only [opFsReadAbort, endReadout, hr]
    exact ⟨rfl, rfl⟩
  · have hroom := h.checks.room
    simp only [opFsMap, hm, Option.isNone_none, Bool.true_and, Bool.or_eq_false_iff, Option.isNone_eq_false_iff] at hroom
    obtain ⟨off, hoff⟩ := Option.isSome_iff_exists.mp hroom.2
    refine ⟨off, hoff, ?_⟩
    refine answers_of_act (o := opFsMap) rfl h ?_
    simp only [opFsMap, hm, hoff, Option.getD_some]
    exact ⟨rfl, rfl, rfl⟩
  · refine answers_of_act (o := opFsMap) rfl h ?_
    simp only [opFsMap, hm]
    exact ⟨rfl, rfl, rfl⟩
  · refine answers_of_act (o := opFsUnmap) rfl h ⟨rfl, rfl, fun m => ?_⟩
    refine List.mem_filter.trans (and_congr_right fun _ => ?_)
    by_cases hport : m.port = c.port <;> simp [hport]

end Sys2Proof.Machine
end

section
/-!
PROOF. A rule whose channel has no handle of its own (O50).
-/
namespace Sys2Proof.Machine
open Sys2Proof

/-- The reset state in READY with rule 0 of tile 0, on channel 3584 of a tile 56 that no package has: the slot number of that channel is
the one of the rule. -/
def strayRule : State := { State.reset with
  pkg := { mode := .ready, target := .ready }
  eng := { State.reset.eng with objs := [(slotOf 8 0 0, { owner := 0 })] }
  ad := { State.reset.ad with rules := [(0, { channel := 3584 })] } }

/-- AD_RULE_CONFIG of that rule, with an enabled rule that fires every frame. -/
def strayConfig : Cmd where
  port := 0
  seq := 1
  target := 0x80020000
  params := leBytes 4 0x80020000 ++ zeros 4 ++ leBytes 8 100 ++ [1, 1, 0, 0, 0, 1] ++ zeros 10

theorem strayConfig_accepted : Accepted opAdRuleConfig strayConfig strayRule := ⟨rfl, by decide, rfl, rfl, rfl⟩

theorem shadowGen_strayConfig : ∃ t, exec (.adRuleConfig strayConfig) strayRule = .next t ∧ (channelOf t 3584).shadow.gen = 3 := ⟨_, rfl, rfl⟩

theorem genAfter_strayConfig : genAfter strayRule 3584 { (channelOf strayRule 3584).shadow with
    rules := tput (channelOf strayRule 3584).shadow.rules 0 (ruleParam strayConfig) } = 2 := rfl

/-- Refutes O50: AD_RULE_CONFIG counts CONFIG_GEN of the rule, and then that of the rule's channel; where both have one slot the set that is
sent has the third value, not the second. -/
theorem not_detectorCommandsComplete : ¬ Obligations.DetectorCommandsComplete := by
  rintro ⟨-, -, -, hconfig, -⟩
  obtain ⟨t, ht, p, hset, -, -, hchan⟩ := (hconfig strayConfig strayRule strayConfig_accepted).2 rfl
  obtain ⟨u, hu, hthree⟩ := shadowGen_strayConfig
  obtain rfl : u = t := Host.Outcome.next.inj (hu.symm.trans ht)
  have htwo : (channelOf u 3584).shadow.gen = 2 := (congrArg (·.shadow.gen) hchan).trans ((congrArg ChanSet.gen hset).trans genAfter_strayConfig)
  exact absurd (htwo.symm.trans hthree) (by decide)

end Sys2Proof.Machine
end

section
/-!
PROOF. Package time and the calendar (O51).
-/
namespace Sys2Proof.Machine
open Sys2Proof

/-! ### Scheduled outputs that a step passes -/

/-- Of package time only the scheduled outputs differ. -/
def SchedsOnly (s t : State) : Prop := t.time = { s.time with scheds := t.time.scheds }

namespace SchedsOnly

theorem refl (s : State) : SchedsOnly s s := rfl

theorem trans {s t u : State} (h : SchedsOnly s t) (h' : SchedsOnly t u) : SchedsOnly s u := by
  unfold SchedsOnly at *
  rw [h', h]

theorem putSched (k : Nat) (o : Sched) (s : State) : SchedsOnly s (putSched k o s) := rfl

theorem of_time {s t : State} (h : t.time = s.time) : SchedsOnly s t := by unfold SchedsOnly; rw [h]

theorem foldl {α : Type} {f : State → α → State} (hf : ∀ s x, SchedsOnly s (f s x)) (l : List α) (s : State) :
    SchedsOnly s (l.foldl f s) := by
  induction l generalizing s with
  | nil => exact refl s
  | cons x l ih => exact (hf s x).trans (ih _)

end SchedsOnly

theorem raise_time (t l n : Nat) (s : State) : (raise t l n s).time = s.time := (raise_within t l n (.refl (allBut .time) s) rfl).keeps (c := .time)
theorem keepEdges_time (k : Nat) (o : Sched) (p : Nat → Bool) (s : State) : (keepEdges k o p s).time = s.time :=
  (keepEdges_within k o p (.refl (allBut .time) s) rfl).keeps (c := .time)
theorem raiseSched_time (k n m : Nat) (l : Bool) (t : Nat) (s : State) : (raiseSched k n m l t s).time = s.time :=
  (raiseSched_within k n m l t (.refl (allBut .time) s) rfl).keeps (c := .time)
theorem driveEdge_time (p : Nat) (g : PinEdge) (s : State) : (driveEdge p g s).time = s.time :=
  (driveEdge_within p g (.refl (allBut .time) s) rfl).keeps (c := .time)

theorem rearm_scheds (k : Nat) (s : State) : SchedsOnly s (rearm k s) := by
  unfold rearm
  extract_lets o
  split
  · exact .refl s
  · exact (SchedsOnly.of_time (keepEdges_time _ _ _ _)).trans (.putSched _ _ _)

theorem fireLate_scheds (k n m last : Nat) (send : Bool) (s : State) : SchedsOnly s (fireLate k n m last send s) := by
  unfold fireLate
  extract_lets o u o' t
  have ht : SchedsOnly s t := (SchedsOnly.putSched k o' s).trans (.of_time (raiseSched_time _ _ _ _ _ _))
  split
  · exact ht.trans (.of_time (driveEdge_time _ _ _))
  · exact ht

theorem stepOutput_scheds (s : State) (k : Nat) : SchedsOnly s (stepOutput s k) := by
  unfold stepOutput
  extract_lets x m t
  split
  · exact .refl s
  next last n _ =>
    have ht : SchedsOnly s t := (rearm_scheds k s).trans (.putSched _ _ _)
    split
    · exact ht.trans (.putSched _ _ _)
    · exact ht.trans (fireLate_scheds _ _ _ _ _ _)

/-! ### Package time -/

theorem time96_length (n : Nat) : (time96 n).length = 12 := by
  simp only [time96, List.length_append, leBytes_length]

/-- A change that is due is applied and leaves the list. -/
theorem exec_timeChangeCommit {s : State} {tc : Nat} {x : TimeChange} {rest : List (Nat × TimeChange)} (h : s.time.changes = (tc, x) :: rest)
    (hd : tc ≤ s.time.now) : exec .timeChangeCommit s = .next (match x with
      | .freq a => { s with time := { s.time with changes := rest, freqAdj := a } }
      | .slew u => { s with time := { s.time with changes := rest, slewLeft := s.time.slewLeft + u } }
      | .step d b =>
        if 0 < d then ((applyStep tc d b { s with time := { s.time with changes := rest } }).time.scheds.map (·.1)).foldl stepOutput
          (applyStep tc d b { s with time := { s.time with changes := rest } })
        else applyStep tc d b { s with time := { s.time with changes := rest } }) := by
  simp only [exec, execTimeChangeCommit, h, Nat.not_lt.mpr hd, if_false]
  cases x <;> rfl

theorem applyStep_time (tc : Nat) (d : Int) (b : Bool) (s : State) : (applyStep tc d b s).time = { s.time with
    now := shiftTime s.time.now d, steps := s.time.steps + 1, stepNs32 := ns32Of (shiftTime tc d / 65536)
    changes := s.time.changes.map fun (t, c) => (shiftTime t d, c)
    setByHost := b || (s.time.setByHost && decide (s.time.clock = .host)) } := by
  simp only [applyStep, raise_time]
  rfl

theorem setClock_time (c : ClockState) (s : State) : (setClock c s).time = { s.time with clock := c } := by
  unfold setClock
  split
  next h => rw [← h]
  · rw [raise_time]; rfl

/-- A step that is due moves package time, and the commit times that wait with it. -/
theorem exec_stepCommit {s : State} {tc : Nat} {d : Int} {b : Bool} {rest : List (Nat × TimeChange)}
    (h : s.time.changes = (tc, .step d b) :: rest) (hd : tc ≤ s.time.now) : Runs .timeChangeCommit s fun t =>
      t.time.now = shiftTime s.time.now d ∧ t.time.steps = s.time.steps + 1 ∧ t.time.stepNs32 = ns32Of (shiftTime tc d / 65536)
        ∧ t.time.changes = rest.map fun (t, c) => (shiftTime t d, c) := by
  refine runs_next (exec_timeChangeCommit h hd) ?_
  have happly := applyStep_time tc d b { s with time := { s.time with changes := rest } }
  dsimp only
  split
  · have hscheds := SchedsOnly.foldl stepOutput_scheds
      ((applyStep tc d b { s with time := { s.time with changes := rest } }).time.scheds.map (·.1))
      (applyStep tc d b { s with time := { s.time with changes := rest } })
    rw [hscheds, happly]
    exact ⟨rfl, rfl, rfl, rfl⟩
  · rw [happly]
    exact ⟨rfl, rfl, rfl, rfl⟩

/-- A read captures a word for its port, and the word of the register that follows it. -/
theorem captured_pair (p off lo hi : Nat) (x : Nat) (s : State) :
    tget? (emit (.completion p x) (capture p (off + 4) lo (captureHi p (off + 8) hi s))).host.captured (portKey p (off + 4)) = some (word lo)
      ∧ tget? (emit (.completion p x) (capture p (off + 4) lo (captureHi p (off + 8) hi s))).host.captured (portKey p (off + 8)) = some (word hi) := by
  refine ⟨captured_same p _ lo _, ?_⟩
  have hne : portKey p (off + 8) ≠ portKey p (off + 4) := by simp only [portKey]; omega
  exact (captured_other _ hne).trans (captured_same p _ hi s)

/-! ### The servo mode -/

theorem servoSet_time (b : Bool) (s : State) : (if b then s else bumpPkg s).time = s.time := by
  split <;> rfl

/-- A servo mode that stands. -/
theorem setServo_same {host : Bool} {s : State} (h : host = true ↔ s.time.clock = .host) : setServo host s = s := by
  have : (host == decide (s.time.clock = .host)) = true := by
    rw [beq_iff_eq, Bool.eq_iff_iff, decide_eq_true_eq]; exact h
  simp only [setServo, this, if_true]

/-- A new servo mode: the clock state, and every enabled PTP port at its start. -/
theorem setServo_other {host : Bool} {s : State} (h : ¬(host = true ↔ s.time.clock = .host)) :
    (setServo host s).time = { (restartPorts s).time with clock := if host then .host else .freeRun } := by
  have : (host == decide (s.time.clock = .host)) = false := by
    rw [beq_eq_false_iff_ne, ne_eq, Bool.eq_iff_iff, decide_eq_true_eq]; exact h
  simp only [setServo, this, Bool.false_eq_true, if_false, setClock_time]

theorem restartPorts_started {s : State} {l : Nat} {p : PtpPort} (h : (l, p) ∈ (restartPorts s).time.ptpPorts) (he : p.enabled = true) :
    p.portState = startState p := by
  obtain ⟨⟨k, q⟩, -, heq⟩ := List.mem_map.mp h
  simp only [Prod.mk.injEq] at heq
  obtain ⟨-, rfl⟩ := heq
  split at he
  next hq => simp only [hq, if_true]; rfl
  next hq => exact absurd he hq

/-- The state that a new servo mode leaves, field by field. -/
theorem servoFields {s t : State} {k : ClockState} (h : t.time = { (restartPorts s).time with clock := k }) :
    t.time.clock = k ∧ t.time.slaveLane = none ∧ (t.time.consistent, t.time.pathStepNs, t.time.stepMinNs, t.time.lockNs, t.time.now)
        = (s.time.consistent, s.time.pathStepNs, s.time.stepMinNs, s.time.lockNs, s.time.now)
      ∧ ∀ l p, (l, p) ∈ t.time.ptpPorts → p.enabled = true → p.portState = startState p := by
  rw [h]
  exact ⟨rfl, rfl, rfl, fun l p hp he => restartPorts_started hp he⟩

/-- The mode before: the other of the two. -/
theorem servoResult {n : Nat} {c : ClockState} (h : ¬(n = 1 ↔ c = .host)) :
    [BitVec.ofNat 8 (b2n (decide (c = .host))), 0, 0, 0] = leBytes 4 (if n = 1 then 0 else 1) := by
  by_cases hc : c = .host
  · have : n ≠ 1 := fun h1 => h ⟨fun _ => hc, fun _ => h1⟩
    simp only [hc, this, decide_true, if_false]
    rfl
  · have : n = 1 := Decidable.byContradiction fun h1 => h ⟨fun h2 => absurd h2 h1, fun h2 => absurd h2 hc⟩
    simp only [hc, this, decide_false, if_true]
    rfl

/-- Settles O51: each command and each due change moves the fields of package time that it names; a step moves besides them only the
scheduled outputs. -/
theorem packageTimeCommands : Obligations.PackageTimeCommands := by
  unfold Obligations.PackageTimeCommands
  refine ⟨?query, ?set, ?adjust, ?same, ?servo, fun s tc a rest h hd => runs_next (exec_timeChangeCommit h hd) rfl,
    fun s tc u rest h hd => runs_next (exec_timeChangeCommit h hd) rfl, ?step, ?early, ?time, ?calendar, ?lock, ?calNow, ?calGiven,
    fun c s h => answers_of_act (o := opCalQuery) rfl h ⟨rfl, rfl, rfl⟩, ?align⟩
  case query =>
    intro c s h
    refine answers_of_act (o := opTimeQuery) rfl h ⟨rfl, rfl, ?_⟩
    simp only [timeView, List.append_assoc]
    exact List.take_left' (time96_length _)
  case set =>
    intro c s h
    refine answers_of_act (o := opTimeSet) rfl h ⟨rfl, rfl, rfl, ?_⟩
    simp only [List.append_assoc]
    exact List.drop_left' (leBytes_length _ _)
  case adjust => exact fun c s h => answers_of_act (o := opTimeAdjust) rfl h ⟨rfl, rfl, rfl, rfl⟩
  case same =>
    intro c s h hsame
    refine answers_of_act (o := opTimeServoSet) rfl h ⟨rfl, (servoSet_time _ _).trans ?_⟩
    rw [setServo_same (by simpa using hsame)]
    rfl
  case servo =>
    intro c s h hnot
    refine answers_of_act (o := opTimeServoSet) rfl h ⟨rfl, ?_⟩
    have htime := (servoSet_time (b2n (decide (s.time.clock = .host)) == par c 0 1 && s.time.consistent == par c 1 1
      && s.time.pathStepNs == par c 2 2 && s.time.stepMinNs == par c 4 4 && s.time.lockNs == par c 8 2) _).trans
      (setServo_other (host := par c 0 1 == 1) (s := modTime s fun v => { v with
        consistent := par c 1 1, pathStepNs := par c 2 2, stepMinNs := par c 4 4, lockNs := par c 8 2 }) (by simpa using hnot))
    obtain ⟨hclock, hlane, hset, hports⟩ := servoFields htime
    exact ⟨by simpa using hclock, hlane, congrArg (·.1) hset, congrArg (·.2.1) hset, congrArg (·.2.2.1) hset, congrArg (·.2.2.2.1) hset,
      congrArg (·.2.2.2.2) hset, hports, servoResult hnot⟩
  case step =>
    exact fun s tc d b rest h hd => exec_stepCommit h hd
  case early =>
    intro s tc x rest h hlt
    exact runs_next (t := s) (by simp only [exec, execTimeChangeCommit, h, hlt, if_true]) rfl
  case time =>
    intro p s
    exact ⟨_, rfl, rfl, rfl, captured_pair p timeBlock _ _ _ s⟩
  case calendar =>
    intro p s
    exact ⟨_, rfl, rfl, rfl, captured_pair p (timeBlock + 0x100) _ _ _ s⟩
  case lock =>
    intro tile s e hs he
    refine runs_next (by simp only [exec, execTimeLockRestored, hs, he, decide_true, Bool.and_self, if_true]; rfl) ?_
    exact ⟨tget?_tput_same _ _ _, tget?_tput_same _ _ _⟩
  case calNow =>
    intro c s h h0
    refine answers_of_act (o := opCalSet) rfl h ?_
    simp only [opCalSet, h0, if_true]
    exact ⟨rfl, rfl⟩
  case calGiven =>
    intro c s h h0
    refine answers_of_act (o := opCalSet) rfl h ?_
    simp only [opCalSet, h0, if_false]
    exact ⟨rfl, rfl⟩
  case align =>
    intro s hclock hpast
    have hdue : ((decide (s.time.clock = .locked) || s.time.setByHost)
        && (s.cal.alignedAt.map fun t => decide (t + 1000 * ms ≤ s.clock)).getD true) = true := by
      rw [Bool.and_eq_true, Bool.or_eq_true, decide_eq_true_eq]
      refine ⟨hclock, ?_⟩
      cases ha : s.cal.alignedAt with
      | none => rfl
      | some a =>
        rw [Option.map_some, Option.getD_some]
        exact decide_eq_true (hpast a ha)
    refine runs_next (by simp only [exec, execCalendarAlign, hdue, if_true, setCalendar]; rfl) ?_
    have hns (k : Calendar) : ns32 { s with cal := k } = ns32 s := rfl
    rw [hns]

end Sys2Proof.Machine
end

section
/-!
PROOF. A disabled PTP port that is listed in a portState (O52).
-/
namespace Sys2Proof.Machine
open Sys2Proof

/-- The reset state in READY; the PTP port of lane 0 is disabled, and in LISTENING all the same. -/
def idleListener : State := { State.reset with
  pkg := { mode := .ready, target := .ready }
  lanes := [(0, { primary := true })]
  time := { State.reset.time with ptpPorts := [(0, { portState := listening })] } }

/-- PTP_PORT_SET with the settings that this port has. -/
def repeatSettings : Cmd where
  port := 0
  seq := 1
  target := 0
  params := [0, 0, 0, 1, 0, 3] ++ zeros 18

theorem repeatSettings_accepted : Accepted opPtpPortSet repeatSettings idleListener := ⟨rfl, by decide, rfl, rfl, rfl⟩

theorem portState_repeatSettings : ∃ t, exec (.ptpPortSet repeatSettings) idleListener = .next t ∧ (ptpPort t 0).portState = listening := ⟨_, rfl, rfl⟩

/-- Refutes O52: PTP_PORT_SET with the settings that a disabled port has changes nothing, so a portState that it should not have stays. -/
theorem not_networkTimeCommands : ¬ Obligations.NetworkTimeCommands := by
  rintro ⟨-, hport, -⟩
  obtain ⟨a, t, -, ⟨hset, -⟩, ht⟩ := hport repeatSettings idleListener repeatSettings_accepted
  obtain ⟨u, hu, hstate⟩ := portState_repeatSettings
  have htu : answer 0x0911 repeatSettings a t = u := Host.Outcome.next.inj (ht.symm.trans hu)
  have htime : u.time = t.time := by
    rw [← htu]
    exact (answer_within _ _ _ (.refl (allBut .time) t) rfl).keeps (c := .time)
  have hstate' : (ptpPort t 0).portState = listening := by rw [ptpPort, ← htime]; exact hstate
  have hoff : (ptpPort t 0).portState = 0 := congrArg (·.portState) hset
  exact absurd (hoff.symm.trans hstate') (by decide)

end Sys2Proof.Machine
end

section
/-!
PROOF. Scheduled outputs (O53).
-/
namespace Sys2Proof.Machine
open Sys2Proof

@[simp] theorem schedOf_putSched_same (k : Nat) (o : Sched) (s : State) : schedOf (putSched k o s) k = o := tget_tput_same _ _ _ _

theorem schedOf_putSched_other {k j : Nat} (o : Sched) (s : State) (h : j ≠ k) : schedOf (putSched k o s) j = schedOf s j := tget_tput_other _ _ _ h

@[simp] theorem schedOf_modSched_same (k : Nat) (f : Sched → Sched) (s : State) : schedOf (modSched k f s) k = f (schedOf s k) :=
  schedOf_putSched_same _ _ _

theorem schedOf_congr {s t : State} (h : t.time = s.time) (k : Nat) : schedOf t k = schedOf s k := by rw [schedOf, schedOf, h]

/-! ### What an output keeps while edges of pins are scheduled and driven -/

/-- What g shows of each output stands. -/
def SchedsKeep {β : Type} (g : Sched → β) (s t : State) : Prop := ∀ k, g (schedOf t k) = g (schedOf s k)

namespace SchedsKeep

variable {β : Type} {g : Sched → β}

theorem refl (s : State) : SchedsKeep g s s := fun _ => rfl

theorem trans {s t u : State} (h : SchedsKeep g s t) (h' : SchedsKeep g t u) : SchedsKeep g s u := fun k => (h' k).trans (h k)

theorem of_time {s t : State} (h : t.time = s.time) : SchedsKeep g s t := fun k => by rw [schedOf_congr h]

theorem putSched {k : Nat} {o : Sched} {s : State} (h : g o = g (schedOf s k)) : SchedsKeep g s (putSched k o s) := by
  intro j
  by_cases hj : j = k
  · subst hj; rw [schedOf_putSched_same, h]
  · rw [schedOf_putSched_other _ _ hj]

end SchedsKeep

/-- What has become of an output's pulses. -/
def pulseCounts (o : Sched) : U32 × Option Nat × U32 × U32 × U32 := (o.fired, o.firedTo, o.lastNs32, o.merged, o.rejected)

theorem armEdges_pulses (p n : Nat) (s : State) : SchedsKeep pulseCounts s (armEdges p n s) ∧ (armEdges p n s).ev.srcSeq = s.ev.srcSeq := by
  induction n generalizing s with
  | zero => exact ⟨.refl s, rfl⟩
  | succ n ih =>
    unfold armEdges
    extract_lets x
    split
    · exact ⟨.refl s, rfl⟩
    next d _ =>
    extract_lets k o
    split
    · exact ⟨.refl s, rfl⟩
    next due _ =>
    split
    · exact ⟨.refl s, rfl⟩
    · split
      · obtain ⟨h1, h2⟩ := ih (putSched k { o with armedTo := some due } s)
        exact ⟨(SchedsKeep.putSched (by rfl)).trans h1, h2⟩
      · extract_lets q late e t
        obtain ⟨h1, h2⟩ := ih (putPin p { x with sched := x.sched ++ [e], late := if late then x.late + 1 else x.late } t)
        exact ⟨(SchedsKeep.putSched (s := s) (by rfl)).trans h1, h2⟩

theorem enqueueEv_srcSeq (t : Nat) (e : Ev) (s : State) : (enqueueEv t e s).ev.srcSeq = s.ev.srcSeq := by
  unfold enqueueEv
  extract_lets b
  split <;> rfl

/-- SRC_SEQ counts an event of a tile that serves. -/
theorem srcSeq_raiseEv {t src time hops : Nat} {w : U32} {s : State} (hs : serving s t = true) :
    tget 0 (raiseEv t src time w hops s).ev.srcSeq src = tget 0 s.ev.srcSeq src + 1 := by
  simp only [raiseEv, hs, if_true, enqueueEv_srcSeq]
  exact tget_tput_same _ _ _ _

theorem driveLevel_srcSeq (p : Nat) (l : Bool) (a : Nat) (s : State) : (driveLevel p l a s).ev.srcSeq = s.ev.srcSeq := by
  unfold driveLevel
  extract_lets x
  split <;> rfl

theorem driveEdge_srcSeq (p : Nat) (e : PinEdge) (s : State) : (driveEdge p e s).ev.srcSeq = s.ev.srcSeq := by
  unfold driveEdge
  extract_lets t x active
  split
  · exact driveLevel_srcSeq p active e.at_ t
  all_goals exact driveLevel_srcSeq p _ e.at_ t

theorem driveDue_srcSeq (p : Nat) (l : List PinEdge) (s : State) : (driveDue p l s).ev.srcSeq = s.ev.srcSeq := by
  induction l generalizing s with
  | nil => rfl
  | cons e l ih =>
    unfold driveDue
    split
    · exact (ih _).trans (driveEdge_srcSeq p e s)
    · exact ih _

theorem driveDue_time (p : Nat) (l : List PinEdge) (s : State) : (driveDue p l s).time = s.time :=
  (driveDue_within p l (.refl (allBut .time) s) rfl).keeps (c := .time)

/-- Edges of a pin that leave count no pulse and raise no event. -/
theorem servePin_pulses (p : Nat) (s : State) : SchedsKeep pulseCounts s (servePin p s) ∧ (servePin p s).ev.srcSeq = s.ev.srcSeq := by
  unfold servePin
  extract_lets t l
  have ht : SchedsKeep pulseCounts s t ∧ t.ev.srcSeq = s.ev.srcSeq := by
    simp only [t]
    split
    · exact armEdges_pulses p 64 s
    · exact ⟨.refl s, rfl⟩
  exact ⟨ht.1.trans (.of_time (driveDue_time p l _)), (driveDue_srcSeq p l _).trans ht.2⟩

/-! ### Pulses -/

theorem keepEdges_keeps {β : Type} {g : Sched → β} (k : Nat) (o : Sched) (p : Nat → Bool) (s : State) : SchedsKeep g s (keepEdges k o p s) :=
  .of_time (keepEdges_time _ _ _ _)

/-- The fields of an output that schedule its pulses, with what has become of them. -/
def schedNow (o : Sched) : List Nat × Bool × Nat × U32 × U32 × U32 := (o.trains, o.lateReject, o.period, o.fired, o.merged, o.rejected)

theorem rearm_keeps (k : Nat) (s : State) : SchedsKeep schedNow s (rearm k s) := by
  unfold rearm
  extract_lets o
  split
  · exact .refl s
  next d _ =>
    refine (keepEdges_keeps k o (hasFired o) s).trans (.putSched ?_)
    rw [schedOf_congr (keepEdges_time _ _ _ _)]
    rfl

/-- A late pulse is one that fires, with those merged into it. -/
theorem fireLate_output (k n m last : Nat) (send : Bool) (s : State) : (schedOf (fireLate k n m last send s) k).fired = (schedOf s k).fired + 1
    ∧ (schedOf (fireLate k n m last send s) k).merged = (schedOf s k).merged + BitVec.ofNat 32 m
    ∧ (schedOf (fireLate k n m last send s) k).rejected = (schedOf s k).rejected := by
  unfold fireLate
  extract_lets o u o' t
  have ht : schedOf t k = o' := (schedOf_congr (raiseSched_time _ _ _ _ _ _) k).trans (schedOf_putSched_same _ _ _)
  split
  · rw [schedOf_congr (driveEdge_time _ _ _), ht]
    exact ⟨rfl, rfl, rfl⟩
  · rw [ht]
    exact ⟨rfl, rfl, rfl⟩

theorem startLate_output (k start m : Nat) (s : State) : (schedOf (startLate k start m s) k).fired = (schedOf s k).fired + 1
    ∧ (schedOf (startLate k start m s) k).merged = (schedOf s k).merged + BitVec.ofNat 32 m
    ∧ (schedOf (startLate k start m s) k).rejected = (schedOf s k).rejected := by
  unfold startLate
  extract_lets u last
  have hu : schedNow (schedOf u k) = schedNow (schedOf s k) := rearm_keeps k s k
  obtain ⟨hf, hm, hr⟩ := fireLate_output k (m - 1) m last true (modSched k (fun o => { o with passed := o.passed ++ [(start, last)] }) u)
  rw [schedOf_modSched_same] at hf hm hr
  have hfired : (schedOf u k).fired = (schedOf s k).fired := congrArg (·.2.2.2.1) hu
  have hmerged : (schedOf u k).merged = (schedOf s k).merged := congrArg (·.2.2.2.2.1) hu
  have hrejected : (schedOf u k).rejected = (schedOf s k).rejected := congrArg (·.2.2.2.2.2) hu
  exact ⟨by rw [hf, ← hfired], by rw [hm, ← hmerged], by rw [hr, ← hrejected]⟩

theorem addTrain_output (k start : Nat) (s : State) : (schedOf (addTrain k start s) k).trains = (schedOf s k).trains.filter (· < start) ++ [start]
    ∧ (schedOf (addTrain k start s) k).fired = (schedOf s k).fired ∧ (schedOf (addTrain k start s) k).merged = (schedOf s k).merged
    ∧ (schedOf (addTrain k start s) k).rejected = (schedOf s k).rejected := by
  unfold addTrain
  extract_lets o u clip
  rw [schedOf_putSched_same]
  exact ⟨rfl, rfl, rfl, rfl⟩

/-! ### Commands -/

theorem takePin_keeps {β : Type} {g : Sched → β} (k : Nat) (o : Sched) (s : State) : SchedsKeep g s (takePin k o s) :=
  .of_time ((takePin_within k o (.refl (allBut .time) s) rfl).keeps (c := .time))

theorem takePin_eng (k : Nat) (o : Sched) (s : State) : (takePin k o s).eng = s.eng := (takePin_within k o (.refl (allBut .eng) s) rfl).keeps (c := .eng)
theorem startLate_eng (k start m : Nat) (s : State) : (startLate k start m s).eng = s.eng :=
  (startLate_within k start m (.refl (allBut .eng) s) rfl).keeps (c := .eng)

theorem takePin_time (k : Nat) (o : Sched) (s : State) : (takePin k o s).time = s.time :=
  (takePin_within k o (.refl (allBut .time) s) rfl).keeps (c := .time)
theorem takePin_st (k : Nat) (o : Sched) (s : State) : (takePin k o s).st = s.st := (takePin_within k o (.refl (allBut .st) s) rfl).keeps (c := .st)

theorem schedPassed_congr {c : Cmd} {s t : State} (hnow : t.time.now = s.time.now) (hst : t.st = s.st) : schedPassed c t = schedPassed c s := by
  rw [schedPassed, schedPassed, passedOf, passedOf, leadOf, leadOf, hnow, hst]

theorem destroySched_output (k : Nat) (s : State) : (schedOf (destroySched k s) (schedNumber k)).state = 0
    ∧ (schedOf (destroySched k s) (schedNumber k)).trains = [] ∧ (destroySched k s).eng.objs = tdel s.eng.objs k := by
  unfold destroySched
  extract_lets n o u
  have hu : u.eng = s.eng := by
    simp only [u]
    split
    · exact (idlePin_within _ (.refl (allBut .eng) _) rfl).keeps (c := .eng)
    · rfl
  have htime (v : State) : (dropObj k v).time = v.time := (dropObj_within k (.refl (allBut .time) v) rfl).keeps (c := .time)
  have hsched : schedOf (dropObj k (modSched n (fun o => { o with state := 0, trains := [] }) u)) n
      = { schedOf u n with state := 0, trains := [] } := (schedOf_congr (htime _) n).trans (schedOf_modSched_same _ _ _)
  refine ⟨congrArg (·.state) hsched, congrArg (·.trains) hsched, ?_⟩
  rw [dropObj_eng]
  exact congrArg (fun e => tdel e.objs k) hu

/-- An event that starts a train: what is passed by then decides (R261, R262). -/
theorem exec_schedGo {k n : Nat} {s s' : State} {e : Ev} (hs : serving s (k / 8) = true) (hi : takeInput (k / 8) (640 + k % 8) n s = some (e, s'))
    (hst : (schedOf s k).state ≠ 0) (he : (schedOf s k).eventStart = true) : exec (.schedGo k n) s = .next (
      if passedOf s k (schedOf s k) (trainStart s k e) = 0 then addTrain k (trainStart s k e) s'
      else if (schedOf s k).lateReject then putSched k { schedOf s k with rejected := (schedOf s k).rejected + 1 } s'
      else startLate k (trainStart s k e) (passedOf s k (schedOf s k) (trainStart s k e)) (addTrain k (trainStart s k e) s')) := by
  have htime := (takeInput_keeps hi).2.1
  have hst' : s'.st = s.st := (takeInput_within (.refl (allBut .st) s) rfl hi).keeps (c := .st)
  have hsched : schedOf s' k = schedOf s k := schedOf_congr htime k
  have hns : ns s' = ns s := by rw [ns, ns, htime]
  have hpassed (b : Nat) : passedOf s' k (schedOf s k) b = passedOf s k (schedOf s k) b := by rw [passedOf, passedOf, leadOf, leadOf, htime, hst']
  simp only [exec, execSchedGo, takeSchedGo, hs, hi, hsched, hst, he, hns, hpassed, Bool.not_true, Bool.false_eq_true, decide_false, Bool.or_self,
    if_false, trainStart]

/-- The event of a pulse, and the edges that its pin has to drive, leave the output as the pulse has left it. -/
theorem pulse_fires {k n due : Nat} {s t : State} {o : Sched} (hs : serving s (k / 8) = true)
    (ht : t = raiseSched k n 0 false due (putSched k o s) ∨ ∃ p, t = servePin p (raiseSched k n 0 false due (putSched k o s))) :
    (schedOf t k).fired = o.fired ∧ (schedOf t k).firedTo = o.firedTo ∧ (schedOf t k).lastNs32 = o.lastNs32
      ∧ tget 0 t.ev.srcSeq (tileSource (k / 8) (95 + k % 8)) = tget 0 s.ev.srcSeq (tileSource (k / 8) (95 + k % 8)) + 1 := by
  have hserve : SchedsKeep pulseCounts (raiseSched k n 0 false due (putSched k o s)) t
      ∧ t.ev.srcSeq = (raiseSched k n 0 false due (putSched k o s)).ev.srcSeq := by
    rcases ht with rfl | ⟨p, rfl⟩
    · exact ⟨.refl _, rfl⟩
    · exact servePin_pulses _ _
  have hcounts : pulseCounts (schedOf t k) = pulseCounts o := by
    rw [hserve.1 k, schedOf_congr (raiseSched_time _ _ _ _ _ _), schedOf_putSched_same]
  refine ⟨congrArg (·.1) hcounts, congrArg (·.2.1) hcounts, congrArg (·.2.2.1) hcounts, ?_⟩
  rw [hserve.2, raiseSched]
  exact srcSeq_raiseEv (s := putSched k o s) hs

/-- A pulse that is due fires. -/
theorem schedPulseDue_fires {k n due : Nat} {s : State} (hn : nextPulse (schedOf s k) = some (n, due)) (hst : (schedOf s k).state ≠ 0)
    (hdue : due ≤ s.time.now) (hs : serving s (k / 8) = true) (hpin : schedPin k (schedOf s k) = none ∨ (schedOf s k).pinUntil ≤ due) :
    Runs (.schedPulseDue k) s fun t => (schedOf t k).fired = (schedOf s k).fired + 1 ∧ (schedOf t k).firedTo = some due
      ∧ (schedOf t k).lastNs32 = ns32Of (due / 65536)
      ∧ tget 0 t.ev.srcSeq (tileSource (k / 8) (95 + k % 8)) = tget 0 s.ev.srcSeq (tileSource (k / 8) (95 + k % 8)) + 1 := by
  have hfree : ((schedPin k (schedOf s k)).isSome && decide (due < (schedOf s k).pinUntil)) = false := by
    rcases hpin with h | h
    · rw [h]; rfl
    · rw [decide_eq_false (Nat.not_lt.mpr h), Bool.and_false]
  refine ⟨_, rfl, ?_⟩
  simp only [hn, hst, hs, hfree, Nat.not_lt.mpr hdue, decide_false, Bool.not_true, Bool.or_self, Bool.false_eq_true, if_false]
  split
  · exact pulse_fires hs (.inr ⟨_, rfl⟩)
  · exact pulse_fires hs (.inl rfl)

/-- Settles O53: an output's fields through its creation, its pulses and its starts; what its pin does counts no pulse. -/
theorem scheduledOutputsFire : Obligations.ScheduledOutputsFire := by
  unfold Obligations.ScheduledOutputsFire
  refine ⟨?create, ?destroy, fun c s h => answers_of_act (o := opSchedQuery) rfl h ⟨rfl, rfl, rfl⟩, ?due, ?early, ?start, ?rejected, ?late⟩
  case create =>
    intro c s h
    have hshort := h.checks.room
    simp only [opSchedCreate, decide_eq_false_iff_not] at hshort
    have hfree : ∃ i, freeIndex s 7 (par c 0 1) 0 8 = some i := by
      cases hi : freeIndex s 7 (par c 0 1) 0 8 with
      | none => exact absurd (by rw [freeSched, hi]; rfl) hshort
      | some i => exact ⟨i, rfl⟩
    obtain ⟨i, hi⟩ := hfree
    have hslot : freeSched c s = i := by rw [freeSched, hi]; rfl
    refine ⟨i, hi, ?_⟩
    refine answers_of_act (o := opSchedCreate) rfl h ?_
    simp only [opSchedCreate, hslot, AnswersIn]
    have hnew := (takePin_keeps (g := id) (par c 0 1 * 8 + i) (schedOfParams c)
      (putSched (par c 0 1 * 8 + i) (schedOfParams c) (createObj (slotOf 7 (par c 0 1) i) c.port s)) (par c 0 1 * 8 + i)).trans
      (schedOf_putSched_same _ _ _)
    have heng : (takePin (par c 0 1 * 8 + i) (schedOfParams c)
      (putSched (par c 0 1 * 8 + i) (schedOfParams c) (createObj (slotOf 7 (par c 0 1) i) c.port s))).eng
      = (createObj (slotOf 7 (par c 0 1) i) c.port s).eng := takePin_eng _ _ _
    have hpassed : schedPassed c (takePin (par c 0 1 * 8 + i) (schedOfParams c)
        (putSched (par c 0 1 * 8 + i) (schedOfParams c) (createObj (slotOf 7 (par c 0 1) i) c.port s))) = schedPassed c s :=
      schedPassed_congr (congrArg (·.now) (takePin_time _ _ _)) (takePin_st _ _ _)
    generalize takePin (par c 0 1 * 8 + i) (schedOfParams c)
      (putSched (par c 0 1 * 8 + i) (schedOfParams c) (createObj (slotOf 7 (par c 0 1) i) c.port s)) = u at hnew heng hpassed
    rw [hpassed]
    have hobj (t : State) (ht : t.eng = u.eng) : handleOf t (slotOf 7 (par c 0 1) i) = handleOf s (slotOf 7 (par c 0 1) i)
        ∧ obj? t (slotOf 7 (par c 0 1) i) = some { owner := c.port } := by
      rw [handleOf, genOf, obj?, ht, heng]
      exact ⟨rfl, tget?_tput_same _ _ _⟩
    have heng' : (if schedPassed c s = 0 then u else startLate (par c 0 1 * 8 + i) (timeParam c 4) (schedPassed c s) u).eng = u.eng := by
      split
      · rfl
      · exact startLate_eng _ _ _ _
    obtain ⟨hhandle, hown⟩ := hobj _ heng'
    refine ⟨trivial, congrArg some hhandle, hown, fun hm => ?_, fun hm => ?_⟩
    · rw [if_pos hm, hm]
      exact ⟨rfl, hnew⟩
    · rw [if_neg hm]
      obtain ⟨hf, hg, -⟩ := startLate_output (par c 0 1 * 8 + i) (timeParam c 4) (schedPassed c s) u
      have hnew' : schedOf u (par c 0 1 * 8 + i) = schedOfParams c := hnew
      rw [hnew'] at hf hg
      exact ⟨decide_eq_true (Nat.pos_of_ne_zero hm), hf, hg.trans (BitVec.zero_add _)⟩
  case destroy =>
    intro c s h
    obtain ⟨hstate, htrains, hobjs⟩ := destroySched_output (tslot c) s
    exact answers_of_act (o := opSchedDestroy) rfl h ⟨rfl, hstate, htrains, hobjs, rfl⟩
  case due =>
    exact fun k s n due hn hst hdue hs hpin => schedPulseDue_fires hn hst hdue hs hpin
  case early =>
    intro k s n due hn hlt
    refine runs_next (t := s) ?_ rfl
    simp only [exec, execSchedPulseDue, hn, hlt, decide_true, Bool.or_true, Bool.true_or, if_true]
  case start =>
    intro k n s e s' hs hi hst he hm
    refine runs_next (exec_schedGo hs hi hst he) ?_
    rw [if_pos hm, (addTrain_output _ _ _).1, schedOf_congr (takeInput_keeps hi).2.1]
  case rejected =>
    intro k n s e s' hs hi hst he hm hr
    refine runs_next (exec_schedGo hs hi hst he) ?_
    rw [if_neg hm, if_pos hr, schedOf_putSched_same]
  case late =>
    intro k n s e s' hs hi hst he hm hr
    refine runs_next (exec_schedGo hs hi hst he) ?_
    rw [if_neg hm, if_neg (by rw [hr]; exact Bool.false_ne_true)]
    obtain ⟨hf, hg, hj⟩ := startLate_output k (trainStart s k e) (passedOf s k (schedOf s k) (trainStart s k e)) (addTrain k (trainStart s k e) s')
    obtain ⟨-, hf', hg', hj'⟩ := addTrain_output k (trainStart s k e) s'
    rw [schedOf_congr (takeInput_keeps hi).2.1] at hf' hg' hj'
    exact ⟨by rw [hf, hf'], by rw [hg, hg'], by rw [hj, hj']⟩

end Sys2Proof.Machine
end

section
/-!
PROOF. Events and their routes (O54).
-/
namespace Sys2Proof.Machine
open Sys2Proof

/-! ### Publication -/

theorem countRoute_single {k : Nat} {r : Route} {s : State} (h : s.ev.routes = [(k, r)]) :
    (countRoute k r s).ev = { s.ev with routes := [(k, { r with delivered := r.delivered + 1 })] } := by
  have hget : tget? s.ev.routes k = some r := by rw [h, tget?, if_pos rfl]
  rw [countRoute, if_pos hget]
  simp only [modEv, h, tput, Nat.lt_irrefl, if_true, if_false]

theorem countRoute_inputs (k : Nat) (r : Route) (s : State) : (countRoute k r s).ev.inputs = s.ev.inputs := by
  unfold countRoute
  split <;> rfl

theorem groupsAt_congr {s t : State} (hlog : t.ev.groupLog = s.ev.groupLog) (hcommits : t.ev.groupCommits = s.ev.groupCommits) (n : Nat) :
    groupsAt t n = groupsAt s n := by
  simp only [groupsAt, hlog, hcommits]

/-- An event that its group lets through and that has a hop left goes to the subscriptions of the channel. -/
theorem publish_passes {t c : Nat} {e : Ev} {s : State} (hg : (groupsAt s e.time).getLsbD (c / 8) = true) (hh : e.hops < 8) :
    publish t c e s = (allRoutes s).foldl (deliverTo { e with hops := e.hops + 1, overrun := tget false s.ev.overrunMark t } c
      (tget false s.ev.overrunMark t)) (modEv s fun v => { v with
        overrunMark := tput v.overrunMark t false, published := tmod 0 v.published (chanKey t c) (· + 1) }) := by
  simp only [publish, hg, Nat.not_le.mpr hh, Bool.not_true, Bool.false_eq_true, if_false]
  rfl

theorem publish_blocked {t c : Nat} {e : Ev} {s : State} (hg : (groupsAt s e.time).getLsbD (c / 8) = false) :
    publish t c e s = modEv s fun v => { v with blocked := tmod 0 v.blocked (chanKey t c) (· + 1) } := by
  simp only [publish, hg, Bool.not_false, if_true]

theorem publish_looping {t c : Nat} {e : Ev} {s : State} (hg : (groupsAt s e.time).getLsbD (c / 8) = true) (hh : 8 ≤ e.hops) :
    publish t c e s = dropLoop t c e s := by
  simp only [publish, hg, hh, Bool.not_true, Bool.false_eq_true, if_false, if_true]

theorem deliverTo_publication {e : Ev} {c : Nat} {o : Bool} {s : State} {k src : Nat} {r : Route} (h : r.form = .publication src) :
    deliverTo e c o s (k, r) = s := by
  simp only [deliverTo, h, ite_self]

theorem enqueueEv_kept (n : Nat) (e : Ev) (s : State) : (enqueueEv n e s).ev.inputs = s.ev.inputs
    ∧ (enqueueEv n e s).ev.loopDropped = s.ev.loopDropped := by
  unfold enqueueEv
  extract_lets b
  split <;> exact ⟨rfl, rfl⟩

theorem raise_kept (t l n : Nat) (s : State) : (raise t l n s).ev.inputs = s.ev.inputs ∧ (raise t l n s).ev.loopDropped = s.ev.loopDropped := by
  unfold raise raiseEv
  split
  · exact enqueueEv_kept _ _ _
  · exact ⟨rfl, rfl⟩

theorem dropLoop_counts (t c : Nat) (e : Ev) (s : State) : tget 0 (dropLoop t c e s).ev.loopDropped t = tget 0 s.ev.loopDropped t + 1
    ∧ (dropLoop t c e s).ev.inputs = s.ev.inputs ∧ (dropLoop t c e s).mv = s.mv := by
  refine ⟨?_, ?_, (dropLoop_within t c e (.refl (allBut .mv) s) rfl).keeps (c := .mv)⟩
  · unfold dropLoop
    extract_lets n u
    split
    · rw [(raise_kept _ _ _ _).2]
      exact tget_tmod_same 0 s.ev.loopDropped t (· + 1)
    · exact tget_tmod_same 0 s.ev.loopDropped t (· + 1)
  · unfold dropLoop
    extract_lets n u
    split
    · rw [(raise_kept _ _ _ _).1]
      rfl
    · rfl

/-! ### Intake -/

/-- The state once the router has taken the event in front. -/
def routerTakes (t : Nat) (rest : List Ev) (s : State) : State := modEv s fun v => { v with backlog := tput v.backlog t rest }

theorem exec_eventIntake {t : Nat} {s : State} {e : Ev} {rest : List Ev} (hb : tget [] s.ev.backlog t = e :: rest) (hs : serving s t = true) :
    exec (.eventIntake t) s = .next (match e.publish with
      | some c => publish t c e (routerTakes t rest s)
      | none => (allRoutes (routerTakes t rest s)).foldl (publishVia t e) (routerTakes t rest s)) := by
  simp only [exec, execEventIntake, hb, hs, if_true]
  rfl

/-- Of the event block a taken input changes only the inputs. -/
theorem takeInput_inputs {t i n : Nat} {s u : State} {e : Ev} (h : takeInput t i n s = some (e, u)) :
    u = { s with ev := { s.ev with inputs := u.ev.inputs } } := by
  unfold takeInput at h
  extract_lets x at h
  split at h
  · cases h
  · cases h
    rfl

/-- Settles O54: one event at a router with one route, and the commits of routes and groups. -/
theorem eventsAreRouted : Obligations.EventsAreRouted := by
  unfold Obligations.EventsAreRouted
  refine ⟨?idle, ?published, ?delivered, ?blocked, ?loop, ?route, ?group, ?commit, ?early⟩
  case idle =>
    intro t s h
    refine runs_next (t := s) ?_ rfl
    rcases h with h | h
    · simp only [exec, execEventIntake, h]
    · cases hb : tget [] s.ev.backlog t with
      | nil => simp only [exec, execEventIntake, hb]
      | cons e rest => simp only [exec, execEventIntake, hb, h, Bool.false_eq_true, if_false]
  case published =>
    intro t s e rest k r hb hs hp hroutes hretired hform hk hacts hcleared hhops hgroup
    refine runs_next (exec_eventIntake hb hs) ?_
    have hall : allRoutes (routerTakes t rest s) = [(k, r)] := by
      rw [allRoutes]
      exact (congr (congrArg (· ++ ·) hroutes) hretired)
    have hcount := countRoute_single (s := routerTakes t rest s) hroutes
    have hgroup' : (groupsAt (countRoute k r (routerTakes t rest s)) e.time).getLsbD (r.channel / 8) = true := by
      rw [groupsAt_congr (s := s) (by rw [hcount]; rfl) (by rw [hcount]; rfl)]
      exact hgroup
    have hvia : publishVia t e (routerTakes t rest s) (k, r) = publish t r.channel e (countRoute k r (routerTakes t rest s)) := by
      simp only [publishVia, hform, hk, hacts, hcleared, beq_self_eq_true, decide_true, Bool.not_false, Bool.and_self, if_true]
    have hroutes' : allRoutes (countRoute k r (routerTakes t rest s)) = [(k, { r with delivered := r.delivered + 1 })] := by
      rw [allRoutes, hcount]
      exact congrArg (_ ++ ·) hretired
    rw [hp]
    dsimp only
    rw [hall, List.foldl_cons, List.foldl_nil, hvia, publish_passes hgroup' hhops, hroutes', List.foldl_cons, List.foldl_nil,
      deliverTo_publication (r := { r with delivered := r.delivered + 1 }) (src := e.source) hform]
    simp only [modEv, hcount]
    exact ⟨tget_tput_same _ _ _ _, tget_tmod_same _ _ _ _, trivial⟩
  case delivered =>
    intro t s e rest c k r i hb hs hp hroutes hretired hform hc hacts hcleared hsk hhops hgroup
    refine runs_next (exec_eventIntake hb hs) ?_
    have hall : allRoutes (routerTakes t rest s) = [(k, r)] := by
      rw [allRoutes]
      exact (congr (congrArg (· ++ ·) hroutes) hretired)
    rw [hp]
    dsimp only
    rw [publish_passes (s := routerTakes t rest s) hgroup hhops, hall, List.foldl_cons, List.foldl_nil]
    have hsk' (v : EventState) : serving { s with ev := v } (k / 4096) = true := hsk
    simp only [deliverTo, hc, hacts, hcleared, hform, routerTakes, modEv, hsk', decide_true, Bool.not_false, Bool.and_self, if_true, countRoute_inputs]
    rw [tget_tmod_same, hp]
  case blocked =>
    intro t s e rest c hb hs hp hg
    refine runs_next (exec_eventIntake hb hs) ?_
    rw [hp]
    exact publish_blocked (s := routerTakes t rest s) hg
  case loop =>
    intro t s e rest c hb hs hp hh hg
    refine runs_next (exec_eventIntake hb hs) ?_
    rw [hp]
    dsimp only
    rw [publish_looping (s := routerTakes t rest s) hg hh]
    exact dropLoop_counts t c e (routerTakes t rest s)
  case route =>
    intro n s k r c hret hu
    refine ⟨_, rfl, fun hn hc hb => ?_, fun hlt => ?_, fun hn => ?_⟩
    · simp [modEv, hret, hu, hn, hb, hc]
    · simp [modEv, hret, hu, hlt]
    · simp [modEv, hret, hn.symm]
  case group =>
    intro i n s e s' hlo hhi hs hi
    refine runs_next (by simp only [exec, execGroupInput, hlo, hhi, hs, and_self, if_true, hi]; rfl) ?_
    have hs' := takeInput_inputs hi
    rw [hs']
    rfl
  case commit =>
    intro s g rest h hg
    exact runs_next (by simp only [exec, execGroupCommit, h, hg, if_true]; rfl) ⟨rfl, rfl, rfl⟩
  case early =>
    intro s g rest h hg
    exact runs_next (t := s) (by simp only [exec, execGroupCommit, h, Nat.not_le.mpr hg, if_false]) rfl

end Sys2Proof.Machine
end

section
/-!
PROOF. Trigger pins (O55).
-/
namespace Sys2Proof.Machine
open Sys2Proof

@[simp] theorem pinOf_putPin_same (p : Nat) (x : Pin) (s : State) : pinOf (putPin p x s) p = x := tget_tput_same _ _ _ _

@[simp] theorem pinOf_modPin_same (p : Nat) (f : Pin → Pin) (s : State) : pinOf (modPin p f s) p = f (pinOf s p) := pinOf_putPin_same _ _ _

theorem pinOf_congr {s t : State} (h : t.ev.pins = s.ev.pins) (p : Nat) : pinOf t p = pinOf s p := by rw [pinOf, pinOf, h]

theorem raise_pins (t l n : Nat) (s : State) : (raise t l n s).ev.pins = s.ev.pins := by
  unfold raise raiseEv
  split
  · unfold enqueueEv
    extract_lets b
    split <;> rfl
  · rfl

/-- What a pin that drives a level shows: the level, and whatever else it had but for the count and the time of an edge. -/
theorem driveLevel_pin (p : Nat) (l : Bool) (a : Nat) (s : State) : pinOf (driveLevel p l a s) p = { pinOf s p with
    level := l, edges := (pinOf (driveLevel p l a s) p).edges, lastNs32 := (pinOf (driveLevel p l a s) p).lastNs32 } := by
  unfold driveLevel
  extract_lets x
  split
  next h => rw [← h]
  next h =>
    have hp : pinOf (emit (.pin (p / 10) (p % 10) l a) (putPin p { x with level := l, edges := x.edges + 1, lastNs32 := ns32Of (a / 4) } s)) p
        = { x with level := l, edges := x.edges + 1, lastNs32 := ns32Of (a / 4) } := pinOf_putPin_same _ _ _
    rw [hp]

theorem idleLevel_free {s : State} {p : Nat} (h : (pinOf s p).driver = none) : idleLevel s p = (pinOf s p).invert := by
  simp only [idleLevel, h]

/-- An edge of a pin that no output drives (R282). -/
theorem driveEdge_pin {p : Nat} {g : PinEdge} {s : State} (h : (pinOf s p).driver = none) :
    (pinOf (driveEdge p g s) p).sched = (pinOf s p).sched
      ∧ (g.action = 0 → (pinOf (driveEdge p g s) p).level = (!(pinOf s p).invert)
        ∧ (pinOf (driveEdge p g s) p).pulseEnd = some (g.at_ + g.widthNs * 4))
      ∧ (g.action = 1 → (pinOf (driveEdge p g s) p).level = !(pinOf s p).invert)
      ∧ (g.action = 2 → (pinOf (driveEdge p g s) p).level = (pinOf s p).invert)
      ∧ (g.action = 3 → (pinOf (driveEdge p g s) p).level = !(pinOf s p).level) := by
  unfold driveEdge
  extract_lets t x active
  have hx : pinOf t p = { pinOf s p with dueTimes := (pinOf t p).dueTimes } := by
    have hdue : pinOf t p = { pinOf s p with dueTimes := match g.due with
      | some d => (d :: (pinOf s p).dueTimes).take 64
      | none => (pinOf s p).dueTimes } := pinOf_modPin_same _ _ _
    rw [hdue]
  have hactive : active = !(pinOf s p).invert := by
    simp only [active]
    rw [idleLevel_free (by rw [hx]; exact h), hx]
  have hlevel (l : Bool) : (pinOf (driveLevel p l g.at_ t) p).sched = (pinOf s p).sched ∧ (pinOf (driveLevel p l g.at_ t) p).level = l := by
    rw [driveLevel_pin, hx]
    exact ⟨rfl, rfl⟩
  obtain ⟨hsched, hon⟩ := hlevel active
  replace hon := hon.trans hactive
  split
  next h0 =>
    rw [pinOf_modPin_same]
    exact ⟨hsched, fun _ => ⟨hon, rfl⟩, by simp [h0], by simp [h0], by simp [h0]⟩
  next h1 => exact ⟨hsched, by simp [h1], fun _ => hon, by simp [h1], by simp [h1]⟩
  next h2 =>
    obtain ⟨hsched', hoff⟩ := hlevel (!active)
    exact ⟨hsched', by simp [h2], by simp [h2], fun _ => by rw [hoff, hactive, Bool.not_not], by simp [h2]⟩
  next h0 h1 h2 =>
    obtain ⟨hsched', hflip⟩ := hlevel (!x.level)
    exact ⟨hsched', fun h => absurd h h0, fun h => absurd h h1, fun h => absurd h h2, fun _ => by rw [hflip]; simp only [x]; rw [hx]⟩

theorem takeInput_ev {t i n : Nat} {s u : State} {e : Ev} (h : takeInput t i n s = some (e, u)) :
    u.ev.pins = s.ev.pins ∧ nowQ u = nowQ s := by
  refine ⟨by rw [takeInput_inputs h], by rw [nowQ, nowQ, (takeInput_keeps h).2.1]⟩

theorem finish_ev (id : Nat) (a : Answer) (s : State) : (finish id a s).ev = s.ev := (finish_within id a (.refl (allBut .ev) s) rfl).keeps (c := .ev)

/-! ### An edge at an input pin -/

/-- An edge that the settings of the pin select. -/
theorem edgeSelected {e : Nat} {rising : Bool} (h : e = 3 ∨ e = (if rising then 1 else 2)) : (!(e == 3 || (e == 1) == rising)) = false := by
  rcases h with rfl | rfl
  · rfl
  · cases rising <;> rfl

/-- A level that lasts at an input pin is an edge, unless one has come just before. -/
theorem exec_pinInputEdge {p k : Nat} {rising : Bool} {s : State} (hm : (pinOf s p).mode = 1) (hs : serving s (p / 10) = true)
    (hf : (pinOf s p).filterNs ≤ k) (he : (pinOf s p).edge = 3 ∨ (pinOf s p).edge = (if rising then 1 else 2)) (hl : (pinOf s p).level ≠ rising) :
    exec (.pinInputEdge p ⟨rising, k⟩) s = .next (
      let u := modPin p (fun x => { x with ball := rising }) s
      let x := { pinOf s p with ball := rising, level := rising }
      if (x.lastEdge.map fun t => decide (s.clock < t + x.minGapNs)).getD false then putPin p { x with suppressed := x.suppressed + 1 } u
      else
        let y := { x with edges := x.edges + 1, lastNs32 := ns32 s, lastEdge := some s.clock }
        raise (p / 10) (107 + p % 10) (b2n rising + 2 * b2n rising + 2 ^ 8 * (y.edges.toNat % 2 ^ 24)) (putPin p y u)) := by
  have hs' (f : Pin → Pin) : serving (modPin p f s) (p / 10) = true := hs
  simp only [exec, execPinInputEdge, pinOf_modPin_same, hm, hs', Nat.not_lt.mpr hf, edgeSelected he, beq_eq_false_iff_ne.mpr hl,
    Bool.not_true, decide_false, Bool.false_eq_true, if_false]
  rfl

/-! ### The trim that a learning run installs -/

theorem setTrim_trimQ2 (now : Nat) (q : Int) (x : Pin) : (setTrim now q x).trimQ2 = q := by
  unfold setTrim
  split
  next h => exact h
  · rfl

/-- A new TRIM acts on edges due 40 µs later, on earlier ones the old one (R283). -/
theorem trimOf_setTrim {now : Nat} {q : Int} {x : Pin} (h : q ≠ x.trimQ2) (due : Nat) :
    (now + 40 * usUnits ≤ due → trimOf (setTrim now q x) due = q) ∧ (due < now + 40 * usUnits → trimOf (setTrim now q x) due = trimOf x due) := by
  have hset : setTrim now q x = { x with trimQ2 := q, trims := (now + 40 * usUnits, q) :: x.trims } := if_neg h.symm
  rw [hset, trimOf, trimOf]
  generalize now + 40 * usUnits = n
  refine ⟨fun hle => ?_, fun hlt => ?_⟩
  · rw [List.find?_cons_of_pos (by exact decide_eq_true hle)]
    rfl
  · rw [List.find?_cons_of_neg (by simpa using hlt)]

/-- Settles O55: edges, actions, pulses and learning runs by what the pin shows before and after. -/
theorem pinsDriveAndSense : Obligations.PinsDriveAndSense := by
  unfold Obligations.PinsDriveAndSense
  refine ⟨?edge, ?close, ?still, ?action, ?timed, ?due, ?pulse, ?learned, ?learning⟩
  case edge =>
    intro p rising k s hm hs hf he hl hlast
    refine runs_next (exec_pinInputEdge hm hs hf he hl) ?_
    simp only [hlast, Option.map_none, Option.getD_none, Bool.false_eq_true, if_false]
    exact ⟨(pinOf_congr (raise_pins _ _ _ _) p).trans (pinOf_putPin_same _ _ _), srcSeq_raiseEv (s := putPin p _ _) hs⟩
  case close =>
    intro p rising k s a hm hs hf he hl hlast hgap
    refine runs_next (exec_pinInputEdge hm hs hf he hl) ?_
    simp only [hlast, Option.map_some, Option.getD_some, decide_eq_true hgap, if_true]
    exact ⟨pinOf_putPin_same _ _ _, rfl⟩
  case still =>
    intro p rising k s h
    have hcond : (decide ((pinOf s p).mode ≠ 1) || !serving s (p / 10) || decide (k < (pinOf s p).filterNs) || (pinOf s p).level == rising) = true := by
      rcases h with h | h | h | h <;> simp [h]
    refine runs_next (t := modPin p (fun x => { x with ball := rising }) s) ?_ ⟨pinOf_modPin_same _ _ _, rfl⟩
    have hs' (f : Pin → Pin) : serving (modPin p f s) (p / 10) = serving s (p / 10) := rfl
    simp only [exec, execPinInputEdge, pinOf_modPin_same, hs']
    exact congrArg _ (if_pos (by simpa [bne] using hcond))
  case action =>
    intro p n s e s' hs hi hm hd ht
    obtain ⟨hpins, hnow⟩ := takeInput_ev hi
    have hpin : pinOf s' p = pinOf s p := pinOf_congr hpins p
    refine runs_next (t := driveEdge p { at_ := nowQ s, action := (pinOf s p).action, widthNs := (pinOf s p).widthNs } s') ?_ ?_
    · simp only [exec, execPinAction, takePinAction, hs, hi, hpin, hm, ht, hnow, Bool.not_true, Bool.false_eq_true, if_false, ne_eq,
        not_true_eq_false]
    · obtain ⟨-, h0, h1, h2, h3⟩ := driveEdge_pin (p := p) (s := s') (g := { at_ := nowQ s, action := (pinOf s p).action, widthNs := (pinOf s p).widthNs })
        (by rw [hpin]; exact hd)
      rw [hpin] at h0 h1 h2 h3
      exact ⟨h0, h1, h2, h3⟩
  case timed =>
    intro p n s e s' hs hi hm ht hq
    obtain ⟨hpins, hnow⟩ := takeInput_ev hi
    have hpin : pinOf s' p = pinOf s p := pinOf_congr hpins p
    have hlate : ¬ timedAt s p e < (nowQ s : Int) + 200 := Int.not_lt.mpr hq
    refine runs_next (t := if (pinOf s p).action = 0 ∧ (pinOf s p).pulseEnd.isSome then
        putPin p { pinOf s p with pulseEnd := some ((timedAt s p e).toNat + (pinOf s p).widthNs * 4) } s'
      else putPin p { pinOf s p with sched := (pinOf s p).sched ++
        [{ at_ := (timedAt s p e).toNat, action := (pinOf s p).action, widthNs := (pinOf s p).widthNs }] } s') ?_ ⟨fun h => ?_, fun h0 hsome => ?_⟩
    · unfold timedAt at hlate
      simp only [exec, execPinAction, takePinAction, hs, hi, hpin, hm, ht, hnow, hlate, Bool.not_true, Bool.false_eq_true, if_false, if_true, ne_eq,
        not_true_eq_false, timedAt]
    · have hno : ¬((pinOf s p).action = 0 ∧ (pinOf s p).pulseEnd.isSome = true) := by
        rintro ⟨h0, hsome⟩
        rcases h with h | h
        · exact h h0
        · rw [h] at hsome; cases hsome
      rw [if_neg hno, pinOf_putPin_same]
    · rw [if_pos ⟨h0, hsome⟩, pinOf_putPin_same]
  case due =>
    intro p s g hs hm hd hg
    have hmode : ¬ (pinOf s p).mode = 3 := by rw [hm]; decide
    have hexec : exec (.pinEdgeDue p) s = .next (driveDue p [g] (modPin p (fun x => { x with sched := [] }) s)) := by
      simp only [exec, execPinEdgeDue, hs, if_true, servePin, hmode, if_false, hg]
    have hnow : nowQ (modPin p (fun x => { x with sched := [] }) s) = nowQ s := rfl
    refine runs_next hexec ⟨fun hdue => ?_, fun hlt => ?_⟩
    · obtain ⟨hsched, -, h1, -, -⟩ := driveEdge_pin (p := p) (g := g) (s := modPin p (fun x => { x with sched := [] }) s)
        (by rw [pinOf_modPin_same]; exact hd)
      rw [pinOf_modPin_same] at hsched h1
      simp only [driveDue, hnow, hdue, if_true]
      exact ⟨hsched, h1⟩
    · simp only [driveDue, hnow, Nat.not_le.mpr hlt, if_false, pinOf_modPin_same, List.nil_append]
      rw [← hg]
  case pulse =>
    intro p s e he
    refine ⟨_, rfl, fun hdue => ?_, fun hlt => ?_⟩
    · simp only [he, hdue, if_true]
      rw [driveLevel_pin, pinOf_putPin_same]
      exact ⟨rfl, rfl⟩
    · simp only [he, Nat.not_le.mpr hlt, if_false]
  case learned =>
    intro p s r hr hn
    refine ⟨_, rfl, ?_⟩
    simp only [hr, Nat.not_lt.mpr hn, if_false]
    cases r.install with
    | false =>
      simp only [Bool.false_eq_true, if_false, pinOf, finish_ev]
      exact ⟨rfl, fun _ => rfl, False.elim⟩
    | true =>
      simp only [if_true, pinOf_congr (congrArg (·.pins) (finish_ev _ _ _)), finish_ev]
      have hpin (now : Nat) (q : Int) (u : State) : pinOf (bumpPkg (putPin p (setTrim now q (pinOf s p)) u)) p = setTrim now q (pinOf s p) :=
        pinOf_putPin_same _ _ _
      rw [hpin, setTrim_trimQ2]
      exact ⟨rfl, False.elim ∘ Bool.noConfusion, fun _ => ⟨Int.le_max_left _ _, Int.max_le.mpr ⟨by decide, Int.min_le_left _ _⟩, fun hne due => trimOf_setTrim hne due⟩⟩
  case learning =>
    intro p s r hr hn
    exact runs_next (t := s) (by simp only [exec, execSkewLearnDone, hr, hn, if_true]) rfl

end Sys2Proof.Machine
end

section
/-!
PROOF. The commands of the router and the pins (O56).
-/
namespace Sys2Proof.Machine
open Sys2Proof

theorem dropObj_routes (k : Nat) (s : State) : (dropObj k s).ev.routes = s.ev.routes ∧ (dropObj k s).ev.retired = s.ev.retired := by
  have hgone (n : Nat) (u : State) : (raiseGone n u).ev.routes = u.ev.routes ∧ (raiseGone n u).ev.retired = u.ev.retired := by
    unfold raiseGone raiseEv
    split
    · unfold enqueueEv
      extract_lets b
      split <;> exact ⟨rfl, rfl⟩
    · exact ⟨rfl, rfl⟩
  exact hgone _ _

theorem raisePublish_backlog {p c : Nat} {w : U32} {s : State} (hs : serving s 0 = true) (hl : (tget [] s.ev.backlog 0).length < 4096) :
    tget [] (raisePublish p c w s).ev.backlog 0 = insertEv {
      source := hostSource p, time := ns s, payload := w, hops := 0, edge := s.clock, seq := tget 0 s.ev.srcSeq (hostSource p) + 1
      publish := some c } (tget [] s.ev.backlog 0) := by
  have hroom : ¬ (tget [] s.ev.backlog 0).length ≥ 4096 := Nat.not_le.mpr hl
  simp only [raisePublish, hs, if_true, enqueueEv, modEv, hroom, if_false]
  exact tget_tput_same _ _ _ _

/-! ### EV_PIN_SET -/

/-- The settings of EV_PIN_SET, and the ball. -/
def pinConfig (x : Pin) : Nat × Nat × Nat × Bool × Bool × Nat × Nat × Nat × Nat × Int × Bool :=
  (x.mode, x.edge, x.action, x.timed, x.invert, x.filterNs, x.minGapNs, x.widthNs, x.delayNs, x.trimQ2, x.ball)

theorem pinSettings_eq {c : Cmd} {x y : Pin} (h : pinConfig y = pinConfig (pinSettings c x)) : pinSettings c y = y := by
  simp only [pinConfig, pinSettings, Prod.mk.injEq] at h
  obtain ⟨h1, h2, h3, h4, h5, h6, h7, h8, h9, h10, -⟩ := h
  rw [pinSettings, ← h1, ← h2, ← h3, ← h4, ← h5, ← h6, ← h7, ← h8, ← h9, ← h10]

theorem idlePin_pin {p : Nat} {s : State} (h : (pinOf s p).driver = none) : pinConfig (pinOf (idlePin p s) p) = pinConfig (pinOf s p)
    ∧ (pinOf (idlePin p s) p).level = (pinOf s p).invert ∧ (pinOf (idlePin p s) p).sched = [] := by
  unfold idlePin
  rw [pinOf_modPin_same, driveLevel_pin, idleLevel_free h]
  exact ⟨rfl, rfl, rfl⟩

theorem beginDriving_pin {p : Nat} {s : State} (h : (pinOf s p).driver = none) : pinConfig (pinOf (beginDriving p s) p) = pinConfig (pinOf s p)
    ∧ (pinOf (beginDriving p s) p).level = (pinOf s p).invert ∧ (pinOf (beginDriving p s) p).sched = [] := by
  have hp : pinOf (beginDriving p s) p = { pinOf s p with sched := [], pulseEnd := none, level := idleLevel s p } :=
    pinOf_modPin_same p (fun x => { x with sched := [], pulseEnd := none, level := idleLevel s p }) s
  rw [hp, idleLevel_free h]
  exact ⟨rfl, rfl, rfl⟩

/-- A pin with new settings: driving at its idle level, or as an input at the level of its ball (R280). -/
theorem setPin_pin {p : Nat} {x : Pin} {s : State} (hball : x.ball = (pinOf s p).ball) (hdriver : x.driver = (pinOf s p).driver)
    (hfree : x.mode ≠ (pinOf s p).mode → (pinOf s p).driver = none) : pinConfig (pinOf (setPin p x s) p) = pinConfig x
      ∧ (x.mode ≠ (pinOf s p).mode → (drives x = true → (pinOf (setPin p x s) p).level = x.invert ∧ (pinOf (setPin p x s) p).sched = [])
        ∧ (x.mode = 1 → (pinOf (setPin p x s) p).level = (pinOf s p).ball)) := by
  unfold setPin
  extract_lets old u v
  have hu : pinOf u p = setTrim s.time.now x.trimQ2 { x with trimQ2 := old.trimQ2 } := pinOf_putPin_same _ _ _
  have hcfg : pinConfig (pinOf u p) = pinConfig x := by
    rw [hu, setTrim]
    split
    next h => simp only [pinConfig, ← h]
    · rfl
  have hdrv : (pinOf u p).driver = old.driver := by
    rw [hu, setTrim]
    split <;> exact hdriver
  have hinv : (pinOf u p).invert = x.invert := congrArg (·.2.2.2.2.1) hcfg
  split
  next hmode => exact ⟨hcfg, fun h => absurd hmode h⟩
  next hmode =>
  have hnone : (pinOf u p).driver = none := hdrv.trans (hfree hmode)
  split
  next hd =>
    have h1 : x.mode ≠ 1 := by rintro h; simp [drives, h] at hd
    split
    · obtain ⟨hc, hl, hs⟩ := idlePin_pin hnone
      exact ⟨hc.trans hcfg, fun _ => ⟨fun _ => ⟨hl.trans hinv, hs⟩, fun h => absurd h h1⟩⟩
    · obtain ⟨hc, hl, hs⟩ := beginDriving_pin hnone
      exact ⟨hc.trans hcfg, fun _ => ⟨fun _ => ⟨hl.trans hinv, hs⟩, fun h => absurd h h1⟩⟩
  next hd =>
    have hrel : pinConfig (pinOf (if drives old then releasePin p u else u) p) = pinConfig x := by
      split
      · exact .trans (congrArg pinConfig (pinOf_modPin_same p (fun x => { x with sched := [], pulseEnd := none, level := idleLevel u p }) u)) hcfg
      · exact hcfg
    have hb : (pinOf (if drives old then releasePin p u else u) p).ball = old.ball := (congrArg (·.2.2.2.2.2.2.2.2.2.2) hrel).trans hball
    split
    · rw [pinOf_modPin_same]
      exact ⟨hrel, fun _ => ⟨fun h => absurd h hd, fun _ => hb⟩⟩
    next h1 => exact ⟨hrel, fun _ => ⟨fun h => absurd h hd, fun h => absurd h h1⟩⟩

/-- Settles O56: each command changes the route, the pin, the group commits or the run that it names. -/
theorem eventCommandsComplete : Obligations.EventCommandsComplete := by
  unfold Obligations.EventCommandsComplete
  refine ⟨?create, ?destroy, ?query, ?pin, fun c s h => answers_of_act (o := opEvPinQuery) rfl h ⟨rfl, rfl, rfl⟩, ?noGroup, ?group,
    fun c s h => answers_of_act (o := opEvStatus) rfl h ⟨rfl, rfl, rfl⟩, ?publish, ?idle, ?learn⟩
  case create =>
    intro c s h
    have hshort := h.checks.room
    simp only [opEvRouteCreate, Option.isNone_eq_false_iff] at hshort
    obtain ⟨i, hi⟩ := Option.isSome_iff_exists.mp hshort
    refine ⟨i, hi, ?_⟩
    refine answers_of_act (o := opEvRouteCreate) rfl h ?_
    simp only [opEvRouteCreate, hi, Option.getD_some]
    exact ⟨rfl, rfl, tget?_tput_same _ _ _, tget?_tput_same _ _ _, rfl⟩
  case destroy =>
    intro c s r h hr
    refine answers_of_act (o := opEvRouteDestroy) rfl h ?_
    simp only [opEvRouteDestroy, destroyRoute, hr]
    exact ⟨rfl, congrArg (·.objs) (dropObj_eng _ _), (dropObj_routes _ _).1, (dropObj_routes _ _).2, rfl⟩
  case query =>
    intro c s h
    refine answers_of_act (o := opEvRouteQuery) rfl h ⟨rfl, rfl, fun r hr => ?_⟩
    simp only [tget, hr, Option.getD_some]
  case pin =>
    intro c s h
    have hbusy : ((pinOf s (pinParam c)).driver.isSome && decide (par c 2 1 ≠ (pinOf s (pinParam c)).mode)) = false := by
      have hfree := h.checks.free
      simp only [opEvPinSet, Bool.not_false, Bool.true_and, Bool.or_eq_false_iff] at hfree
      exact hfree.2
    refine answers_of_act (o := opEvPinSet) rfl h ?_
    simp only [opEvPinSet]
    split
    next hsame => exact ⟨rfl, hsame, fun hne => absurd (congrArg (·.mode) hsame) hne⟩
    · obtain ⟨hcfg, hlevel⟩ := setPin_pin (p := pinParam c) (x := pinSettings c (pinOf s (pinParam c))) (s := s) rfl rfl (fun hne => by
        have hne' : par c 2 1 ≠ (pinOf s (pinParam c)).mode := hne
        simpa [hne'] using hbusy)
      have hmode : (pinOf (setPin (pinParam c) (pinSettings c (pinOf s (pinParam c))) s) (pinParam c)).mode = par c 2 1 := congrArg (·.1) hcfg
      refine ⟨rfl, pinSettings_eq hcfg, fun hne => ⟨fun hd => (hlevel hne).1 ?_, (hlevel hne).2⟩⟩
      have hd' : drives (pinOf (setPin (pinParam c) (pinSettings c (pinOf s (pinParam c))) s) (pinParam c)) = true := hd
      rw [drives, hmode] at hd'
      exact hd'
  case noGroup =>
    intro c s h h0
    refine answers_of_act (o := opEvGroupSet) rfl h ?_
    simp only [opEvGroupSet, h0, if_true]
    exact ⟨rfl, rfl, rfl⟩
  case group =>
    intro c s h h0
    refine answers_of_act (o := opEvGroupSet) rfl h ?_
    simp only [opEvGroupSet, h0, if_false]
    exact ⟨rfl, rfl, rfl, rfl⟩
  case publish =>
    intro c s h hs hl
    exact answers_of_act (o := opEvPublish) rfl h ⟨rfl, rfl, raisePublish_backlog hs hl⟩
  case idle =>
    intro c s h hs
    refine answers_of_act (o := opEvPublish) rfl h ⟨rfl, ?_⟩
    simp only [raisePublish, hs, Bool.false_eq_true, if_false]
  case learn =>
    intro c s h
    exact runs_of_act (o := opEvSkewLearn) rfl h (tget?_tput_same _ _ _)

end Sys2Proof.Machine
end

section
/-!
PROOF. The motion interfaces (O57).
-/
namespace Sys2Proof.Machine
open Sys2Proof

theorem axis_congr {s t : State} (h : t.mo.axes = s.mo.axes) (i : Nat) : axis t i = axis s i := by rw [axis, axis, h]

@[simp] theorem axis_putAxis_same (i : Nat) (x : Axis) (s : State) : axis (putAxis i x s) i = x := tget_tput_same _ _ _ _

@[simp] theorem axis_modAxis_same (i : Nat) (f : Axis → Axis) (s : State) : axis (modAxis i f s) i = f (axis s i) := axis_putAxis_same _ _ _

/-! ### Events of an interface leave the axes -/

theorem raiseMotion_mo (i l n h : Nat) (s : State) : (raiseMotion i l n h s).mo = s.mo :=
  (raiseMotion_within i l n h (.refl (allBut .mo) s) rfl).keeps (c := .mo)

@[simp] theorem axis_raiseAxis (i k : Nat) (p : U32) (h : Nat) (s : State) (j : Nat) : axis (raiseAxis i k p h s) j = axis s j :=
  axis_congr (congrArg MotionState.axes (raiseMotion_mo _ _ _ _ _)) j

@[simp] theorem axis_raiseCmp (i e : Nat) (b l z : Bool) (n h : Nat) (s : State) (j : Nat) : axis (raiseCmp i e b l z n h s) j = axis s j :=
  axis_congr (congrArg MotionState.axes (raiseMotion_mo _ _ _ _ _)) j

@[simp] theorem axis_raiseMoFault (i : Nat) (b : Bool) (s : State) (j : Nat) : axis (raiseMoFault i b s) j = axis s j := by
  unfold raiseMoFault
  extract_lets n
  split
  · exact axis_congr (congrArg MotionState.axes (raiseMotion_mo _ _ _ _ _)) j
  · rfl

@[simp] theorem axis_oweAnchors (i : Nat) (s : State) (j : Nat) : axis (oweAnchors i s) j = axis s j := rfl

/-! ### The compare unit and table -/

/-- An interface without its compare unit and table. -/
def beside (x : Axis) : Axis := { x with cmp := {}, tbl := {}, tblSkipped := 0 }

/-- What a test of the table leaves of a run. -/
def tableRun (x : Axis) : Option TblStart × U32 × U32 × Nat × Tab Nat := (x.tbl.given, x.tbl.fires, x.tbl.base, x.tbl.entries, x.tbl.offsets)

theorem counter_of_beside {x y : Axis} (h : beside x = beside y) : counter x = counter y := by
  have he : (beside x).ext = (beside y).ext := congrArg Axis.ext h
  exact congrArg (BitVec.ofInt 32) he

/-- The state that a unit takes when it is armed (R298). -/
def armedState (g : CmpArm) (p : U32) : Nat := if aheadOf g.position p g.down then 1 else if g.fireBehind then 3 else 2

theorem armUnit_axis (i : Nat) (g : CmpArm) (h : Nat) (s : State) : ∃ last, axis (armUnit i g h s) i = { axis s i with
    cmp := { (axis s i).cmp with position := g.position, down := g.down, fireBehind := g.fireBehind,
                                 state := armedState g (counter (axis s i)), last := last } } := by
  unfold armUnit armedState
  dsimp only
  split
  · rw [axis_putAxis_same]; exact ⟨_, rfl⟩
  · split
    · rw [axis_raiseCmp, axis_putAxis_same]; exact ⟨_, rfl⟩
    · rw [axis_putAxis_same]; exact ⟨_, rfl⟩

theorem retestUnit_axis (i h : Nat) (s : State) :
    beside (axis (retestUnit i h s) i) = beside (axis s i) ∧ (axis (retestUnit i h s) i).tbl = (axis s i).tbl := by
  unfold retestUnit
  extract_lets u
  split
  · obtain ⟨last, ha⟩ := armUnit_axis i { position := u.position, down := u.down, fireBehind := u.fireBehind } h s
    rw [ha]; exact ⟨rfl, rfl⟩
  · exact ⟨rfl, rfl⟩

theorem testTable_axis (i h : Nat) (s : State) :
    beside (axis (testTable i h s) i) = beside (axis s i) ∧ tableRun (axis (testTable i h s) i) = tableRun (axis s i) := by
  unfold testTable
  extract_lets x t r
  split
  · rw [axis_putAxis_same]; exact ⟨rfl, rfl⟩
  · split
    · split
      next next n _ =>
        extract_lets y
        split <;> (rw [axis_putAxis_same]; exact ⟨rfl, rfl⟩)
    · rw [axis_putAxis_same]; exact ⟨rfl, rfl⟩

theorem crossUnit_axis (i : Nat) (up : Bool) (s : State) : beside (axis (crossUnit i up s) i) = beside (axis s i) := by
  unfold crossUnit
  extract_lets x u
  split
  · split
    · rw [axis_raiseCmp, axis_putAxis_same]; rfl
    · rw [axis_putAxis_same]; rfl
  · rfl

theorem crossTable_axis (i : Nat) (up : Bool) (s : State) : beside (axis (crossTable i up s) i) = beside (axis s i) := by
  unfold crossTable
  extract_lets x t
  split
  · split
    · split <;> (rw [axis_raiseCmp, axis_putAxis_same]; rfl)
    · rw [axis_putAxis_same]; rfl
  · rfl

theorem startTable_axis (i : Nat) (g : TblStart) (h : Nat) (s : State) :
    (axis (startTable i g h s) i).tbl.given = some g ∧ (axis (startTable i g h s) i).tbl.fires = 0
      ∧ (axis (startTable i g h s) i).tbl.base = (if g.relative then g.base + counter (axis s i) else g.base)
      ∧ (axis (startTable i g h s) i).tbl.entries = g.entries := by
  have hr : tableRun (axis (startTable i g h s) i)
      = (some g, 0, if g.relative then g.base + counter (axis s i) else g.base, g.entries, (axis s i).tbl.offsets) := by
    rw [startTable, (testTable_axis _ _ _).2, axis_putAxis_same]; rfl
  simp only [tableRun, Prod.mk.injEq] at hr
  obtain ⟨hgiven, hfires, hbase, hentries, -⟩ := hr
  exact ⟨hgiven, hfires, hbase, hentries⟩

/-! ### Presets -/

theorem ofInt_low (v : U32) (k : Int) : BitVec.ofInt 32 ((v.toNat : Int) + k * 2 ^ 32) = v := by
  apply BitVec.eq_of_toNat_eq
  rw [BitVec.toNat_ofInt]
  have hv := v.isLt
  omega

theorem preset_axis (i : Nat) (v : U32) (h : Nat) (s : State) : counter (axis (preset i v h s) i) = v
    ∧ ∃ e, beside (axis (preset i v h s) i) = beside { axis s i with ext := e } := by
  unfold preset
  extract_lets high s1 s2
  have h1 : axis s1 i = { axis s i with ext := (v.toNat : Int) + high * 2 ^ 32 } := by
    rw [axis_oweAnchors, axis_modAxis_same]; rfl
  have h2 : beside (axis s2 i) = beside (axis s1 i) := (retestUnit_axis i h s1).1
  have key : ∀ t, beside (axis t i) = beside (axis s2 i) → counter (axis t i) = v ∧ ∃ e, beside (axis t i) = beside { axis s i with ext := e } := by
    intro t ht
    have hb := ht.trans (h2.trans (congrArg beside h1))
    exact ⟨(counter_of_beside hb).trans (ofInt_low v high), _, hb⟩
  split
  · exact key _ (testTable_axis i h s2).1
  · exact key _ rfl

/-! ### Samples of A, B and I -/

/-- The settings of an interface with the levels at its balls A and B. -/
def withBalls (a b : BallLevel) (x : Axis) : Axis := { x with ballA := a.high, ballB := b.high }

/-- The levels of A and B once those that last long enough are accepted. -/
def withLevels (a b : BallLevel) (x : Axis) : Axis :=
  { x with ballA := a.high, ballB := b.high, levelA := filtered x x.levelA a, levelB := filtered x x.levelB b }

/-- The state in which new levels of A and B stand and nothing is counted yet. -/
def crossed (i : Nat) (a b : BallLevel) (s : State) : State :=
  modAxis i (fun x => { x with levelA := filtered (axis s i) (axis s i).levelA a, levelB := filtered (axis s i) (axis s i).levelB b })
    (passThrough i (modAxis i (withBalls a b) s))

theorem sampleAB_crossed (i : Nat) (a b : BallLevel) (s : State) : sampleAB i a b s =
    if !counts (crossed i a b s) i then crossed i a b s
    else if quadError (axis s i).inputMode (axis s i).levelA (axis s i).levelB (filtered (axis s i) (axis s i).levelA a)
        (filtered (axis s i) (axis s i).levelB b) then
      raiseMoFault i false (modAxis i (fun x => { x with quadErrors := x.quadErrors + 1 }) (crossed i a b s))
    else if sampleCount (axis s i).inputMode (axis s i).levelA (axis s i).levelB (filtered (axis s i) (axis s i).levelA a)
        (filtered (axis s i) (axis s i).levelB b) = 0 then crossed i a b s
    else countEdge i (sampleCount (axis s i).inputMode (axis s i).levelA (axis s i).levelB (filtered (axis s i) (axis s i).levelA a)
        (filtered (axis s i) (axis s i).levelB b)) (crossed i a b s) := rfl

theorem passThrough_eq (i : Nat) (s : State) :
    passThrough i s = { s with out := s.out ++ (if outputsDrive s i then [.motionOut i (axis s i).ballA (axis s i).ballB] else []) } := by
  unfold passThrough
  split
  · rfl
  · rw [List.append_nil]

theorem axis_passThrough (i : Nat) (s : State) (j : Nat) : axis (passThrough i s) j = axis s j := by rw [passThrough_eq]; rfl

theorem crossed_axis (i : Nat) (a b : BallLevel) (s : State) : axis (crossed i a b s) i = withLevels a b (axis s i) := by
  rw [crossed, axis_modAxis_same, axis_passThrough, axis_modAxis_same]; rfl

theorem crossed_counts (i : Nat) (a b : BallLevel) (s : State) : counts (crossed i a b s) i = counts s i := by
  rw [crossed, passThrough_eq]; rfl

theorem crossed_out (i : Nat) (a b : BallLevel) (s : State) :
    (crossed i a b s).out = s.out ++ (if outputsDrive s i then [.motionOut i a.high b.high] else []) := by
  have hd : outputsDrive (modAxis i (withBalls a b) s) i = outputsDrive s i := by
    simp only [outputsDrive, axis_modAxis_same]; rfl
  rw [crossed, passThrough_eq, hd, axis_modAxis_same]
  rfl

theorem sampleCount_self (m : Nat) (a b : Bool) : sampleCount m a b a b = 0 := by
  unfold sampleCount
  split <;> simp

theorem quadError_self (m : Nat) (a b : Bool) : quadError m a b a b = false := by simp [quadError]

theorem filtered_short {x : Axis} {l : BallLevel} (h : accepted x l.lasted = false) (before : Bool) : filtered x before l = before := by
  simp [filtered, h]

/-- Levels that no filter accepts are only repeated. -/
theorem sampleAB_short {i : Nat} {a b : BallLevel} {s : State} (ha : accepted (axis s i) a.lasted = false)
    (hb : accepted (axis s i) b.lasted = false) : sampleAB i a b s = crossed i a b s := by
  rw [sampleAB_crossed, filtered_short ha, filtered_short hb, quadError_self, sampleCount_self]
  split <;> rfl

/-- A sample that counts nothing. -/
theorem sampleAB_uncounted {i : Nat} {a b : BallLevel} {s : State}
    (h : sampleCount (axis s i).inputMode (axis s i).levelA (axis s i).levelB (filtered (axis s i) (axis s i).levelA a)
      (filtered (axis s i) (axis s i).levelB b) = 0) :
    ∃ q, axis (sampleAB i a b s) i = { withLevels a b (axis s i) with quadErrors := q } := by
  rw [sampleAB_crossed]
  split
  · exact ⟨_, crossed_axis i a b s⟩
  · split
    · rw [axis_raiseMoFault, axis_modAxis_same, crossed_axis]; exact ⟨_, rfl⟩
    · exact ⟨_, crossed_axis i a b s⟩

theorem sampleAB_idle {i : Nat} {a b : BallLevel} {s : State} (hc : counts s i = false) : sampleAB i a b s = crossed i a b s := by
  rw [sampleAB_crossed, crossed_counts, hc, Bool.not_false, if_pos rfl]

theorem sampleAB_error {i : Nat} {a b : BallLevel} {s : State} (hc : counts s i = true)
    (hq : quadError (axis s i).inputMode (axis s i).levelA (axis s i).levelB (filtered (axis s i) (axis s i).levelA a)
      (filtered (axis s i) (axis s i).levelB b) = true) :
    sampleAB i a b s = raiseMoFault i false (modAxis i (fun x => { x with quadErrors := x.quadErrors + 1 }) (crossed i a b s)) := by
  rw [sampleAB_crossed, crossed_counts, hc, hq, if_neg (by decide), if_pos rfl]

theorem sampleAB_counted {i : Nat} {a b : BallLevel} {s : State} (hc : counts s i = true)
    (hq : quadError (axis s i).inputMode (axis s i).levelA (axis s i).levelB (filtered (axis s i) (axis s i).levelA a)
      (filtered (axis s i) (axis s i).levelB b) = false)
    (hn : sampleCount (axis s i).inputMode (axis s i).levelA (axis s i).levelB (filtered (axis s i) (axis s i).levelA a)
      (filtered (axis s i) (axis s i).levelB b) ≠ 0) :
    sampleAB i a b s = countEdge i (sampleCount (axis s i).inputMode (axis s i).levelA (axis s i).levelB
      (filtered (axis s i) (axis s i).levelA a) (filtered (axis s i) (axis s i).levelB b)) (crossed i a b s) := by
  rw [sampleAB_crossed, crossed_counts, hc, hq, if_neg (by decide), if_neg Bool.false_ne_true, if_neg hn]

/-- What a counted edge makes of an interface besides its speed. -/
theorem countEdge_axis (i : Nat) (n : Int) (s : State) : ∃ x, beside (axis (countEdge i n s) i) = beside x
    ∧ x.edges = (axis s i).edges + 1 ∧ x.levelA = (axis s i).levelA ∧ x.levelB = (axis s i).levelB
    ∧ x.ext = (axis s i).ext + (if decide (0 < n) != (axis s i).invertDir then 1 else -1) := by
  unfold countEdge
  extract_lets x up reversal fast times x' s1 s2
  have h2 : axis s2 i = x' := by
    simp only [s2]
    split
    · rw [axis_raiseMoFault, axis_putAxis_same]
    · rw [axis_putAxis_same]
  exact ⟨x', (crossTable_axis i up _).trans ((crossUnit_axis i up s2).trans (congrArg beside h2)), rfl, rfl, rfl, rfl⟩

theorem beside_fields {x y : Axis} (h : beside x = beside y) : x.edges = y.edges ∧ x.levelA = y.levelA ∧ x.levelB = y.levelB ∧ x.ext = y.ext
    ∧ x.idxPos = y.idxPos ∧ x.idxNs32 = y.idxNs32 := by
  simp only [beside, Axis.mk.injEq] at h
  simp only [h, and_self]

/-- A level of I that no filter accepts only stands at its ball. -/
theorem sampleIndex_short {i : Nat} {l : BallLevel} {s : State} (h : accepted (axis s i) l.lasted = false) :
    sampleIndex i l s = modAxis i (fun x => { x with ballI := l.high }) s := by
  simp only [sampleIndex, h, Bool.not_false, if_true]

/-- An accepted level of I that is no index edge. -/
theorem sampleIndex_level {i : Nat} {l : BallLevel} {s : State} (h : accepted (axis s i) l.lasted = true)
    (hn : (axis s i).indexEn = false ∨ (axis s i).levelI = l.high) :
    axis (sampleIndex i l s) i = { axis s i with ballI := l.high, levelI := l.high } := by
  unfold sampleIndex
  extract_lets x s1 s2 s3
  have h2 : axis s2 i = { axis s i with ballI := l.high, levelI := l.high } := by rw [axis_modAxis_same, axis_modAxis_same]
  rw [if_neg (by simp [x, h]), if_pos]
  · exact h2
  · obtain hn | hn := hn <;> simp [x, hn]

/-- An index edge copies the counter and its time (R293). -/
def atIndex (s : State) (level : Bool) (x : Axis) : Axis :=
  { x with ballI := level, levelI := level, idxPos := counter x, idxNs32 := ns32 s }

theorem sampleIndex_edge {i : Nat} {l : BallLevel} {s : State} (hc : counts s i = true) (h : accepted (axis s i) l.lasted = true)
    (he : (axis s i).indexEn = true) (hl : (axis s i).levelI ≠ l.high) (hp : (axis s i).indexPol ≠ l.high) :
    ∃ t, axis t i = atIndex s l.high (axis s i) ∧ sampleIndex i l s =
      if (axis s i).indexAction = 2 then preset i (axis s i).presetValue 0 t
      else if (axis s i).indexAction = 1 && (axis s i).idxArmed then
        modAxis i (fun x => { x with idxArmed := false }) (preset i (axis s i).presetValue 0 t)
      else t := by
  have hcond : ∀ u : State, counts u i = true → (!counts u i || !(axis s i).indexEn || (axis s i).levelI == l.high
      || l.high == (axis s i).indexPol) = false := by
    intro u hu
    simp [hu, he, hl, Ne.symm hp]
  have h2 : axis (modAxis i (fun x => { x with levelI := l.high }) (modAxis i (fun x => { x with ballI := l.high }) s)) i
      = { axis s i with ballI := l.high, levelI := l.high } := by rw [axis_modAxis_same, axis_modAxis_same]
  unfold sampleIndex
  extract_lets x s1 s2 s3
  rw [if_neg (by simp [x, h]), if_neg (by rw [hcond s2 hc]; decide)]
  refine ⟨s3, ?_, rfl⟩
  rw [axis_raiseAxis, axis_modAxis_same, h2]
  rfl

/-- The values that a read of a position captures (R304). -/
def capturePosition (p b v w x y z : Nat) (s : State) : State :=
  capture p (b + 0x14) z (capture p (b + 0x24) y (capture p (b + 0x20) x (capture p (b + 0x1C) w (capture p (b + 0x18) v s))))

theorem captured_position (p b v w x y z : Nat) (s : State) :
    tget? (capturePosition p b v w x y z s).host.captured (p * 2 ^ 27 + (b + 0x18)) = some (word v)
      ∧ tget? (capturePosition p b v w x y z s).host.captured (p * 2 ^ 27 + (b + 0x1C)) = some (word w)
      ∧ tget? (capturePosition p b v w x y z s).host.captured (p * 2 ^ 27 + (b + 0x24)) = some (word y) := by
  have hne (m n : Nat) (h : m ≠ n) : portKey p (b + m) ≠ portKey p (b + n) := by simp [portKey, h]
  rw [← portKey, ← portKey, ← portKey, capturePosition]
  refine ⟨?_, ?_, ?_⟩
  · rw [captured_other _ (hne _ _ (by decide)), captured_other _ (hne _ _ (by decide)), captured_other _ (hne _ _ (by decide)),
      captured_other _ (hne _ _ (by decide)), captured_same]
  · rw [captured_other _ (hne _ _ (by decide)), captured_other _ (hne _ _ (by decide)), captured_other _ (hne _ _ (by decide)), captured_same]
  · rw [captured_other _ (hne _ _ (by decide)), captured_same]

theorem exec_moPosRead (p i : Nat) (s : State) : exec (.moPosRead p i) s = .next (emit (.completion p (counter (axis s i)).toNat)
    (capturePosition p (moBlock i) (ns32 s).toNat (unsigned 64 (reportedSpeed s (axis s i)))
      (unsigned 64 (reportedSpeed s (axis s i)) / 2 ^ 32) (axisStatus s (axis s i)) (counter (axis s i)).toNat s)) := by
  rw [exec, execMoPosRead]
  rfl

theorem capture_mo (p off v : Nat) (s : State) : (capture p off v s).mo = s.mo := rfl

theorem capturePosition_kept (p b v w x y z : Nat) (s : State) :
    (capturePosition p b v w x y z s).out = s.out ∧ (capturePosition p b v w x y z s).mo = s.mo := by
  simp only [capturePosition, capture_out, capture_mo, and_self]

@[simp] theorem axis_bumpObj (k : Nat) (s : State) (j : Nat) : axis (bumpObj k s) j = axis s j :=
  axis_congr (congrArg MotionState.axes ((bumpObj_within k (.refl (allBut .mo) s) rfl).keeps (c := .mo))) j

theorem axis_changeOutputs (i : Nat) (b : Bool) (s : State) (j : Nat) : axis (changeOutputs i b s) j = axis s j :=
  axis_congr (congrArg MotionState.axes ((changeOutputs_within i b (.refl (allBut .mo) s) rfl).keeps (c := .mo))) j

theorem preset_eng (i : Nat) (v : U32) (h : Nat) (s : State) : (preset i v h s).eng = s.eng :=
  (preset_within i v h (.refl (allBut .eng) s) rfl).keeps (c := .eng)

/-- What MO_CMP_ARM asks for. -/
def armOf (c : Cmd) : CmpArm := { position := word (par c 0 4), down := bit (par c 4 1) 0, fireBehind := bit (par c 4 1) 1 }

/-- An interface once its compare handle is destroyed (R296). -/
def clearedCompare (x : Axis) : Axis :=
  { x with cmp := { x.cmp with state := 0, given := none }, tbl := { x.tbl with state := 0, given := none } }

theorem offsets_load (p : List Byte) (first k : Nat) : ∀ (n : Nat) (t : Tab Nat), tget 0 (loadOffsets p first n t) k
    = if first ≤ k ∧ k < first + n then le p (8 + 4 * (k - first)) 4 else tget 0 t k
  | 0, t => by rw [loadOffsets, if_neg (by omega)]
  | n + 1, t => by
    rw [loadOffsets, offsets_load p first k n]
    by_cases hk : k = first + n
    · subst hk
      rw [if_neg (by omega), if_pos (by omega), tget_tput_same, Nat.add_sub_cancel_left]
    · rw [tget_tput_other _ _ _ hk]
      have hlast : (first ≤ k ∧ k < first + n) ↔ first ≤ k ∧ k < first + (n + 1) := by omega
      simp only [hlast]

/-- An input of an interface that takes an event acts in a state with the same interfaces, time and handles. -/
theorem motionInput_taken {i b n : Nat} {s s' : State} {e : Ev} {act : Ev → State → State} (hs : serving s (i / 2) = true)
    (hi : takeInput (i / 2) (b + i % 2) n s = some (e, s')) : motionInput i b n s act = act e s' ∧ s'.mo = s.mo ∧ s'.time = s.time := by
  refine ⟨by simp only [motionInput, hs, if_true, hi], ?_, ?_⟩ <;> rw [takeInput_inputs hi]

/-- Settles O57: samples by what they count, the compare unit and table by what a test leaves of them. -/
theorem motionCountsAndCompares : Obligations.MotionCountsAndCompares := by
  refine ⟨?edge, ?error, ?idle, ?short, ?level, ?levelShort, ?indexShort, ?index, ?still, ?armInput, ?startInput, ?presetInput, ?latch,
    ?read, ?history, ?config, ?query, ?preset, ?create, ?arm, ?disarm, ?load, ?start, ?stop, ?cmpQuery, ?destroy⟩
  case edge =>
    intro i a b s x hx hc hq hn
    subst hx
    refine runs_next (congrArg Host.Outcome.next (sampleAB_counted hc hq hn)) ?_
    obtain ⟨y, hy, hedges, hA, hB, hext⟩ := countEdge_axis i _ (crossed i a b s)
    obtain ⟨h1, h2, h3, h4, -⟩ := beside_fields hy
    rw [crossed_axis] at hedges hA hB hext
    exact ⟨h1.trans hedges, h2.trans hA, h3.trans hB, h4.trans hext⟩
  case error =>
    intro i a b s x hx hc hq
    subst hx
    refine runs_next (congrArg Host.Outcome.next (sampleAB_error hc hq)) ?_
    rw [axis_raiseMoFault, axis_modAxis_same, crossed_axis]
    exact ⟨rfl, rfl⟩
  case idle =>
    intro i a b s x hx hc
    subst hx
    exact runs_next (congrArg Host.Outcome.next (sampleAB_idle hc)) (crossed_axis i a b s)
  case short =>
    intro i a b s ha hb
    refine runs_next (congrArg Host.Outcome.next (sampleAB_short ha hb)) ?_
    rw [crossed_axis, withLevels, filtered_short ha, filtered_short hb]
    exact ⟨rfl, crossed_out i a b s⟩
  case level =>
    intro i a b l s x hx hl hi hn
    subst hx
    obtain ⟨q, hq⟩ := sampleAB_uncounted hn
    refine runs_next rfl ?_
    rw [sampleIndex_level (by rw [hq]; exact hl) (by rw [hq]; exact hi), hq]
    exact ⟨rfl, rfl, rfl, rfl⟩
  case levelShort =>
    intro i a b l s x hx ha hb hl
    subst hx
    refine runs_next rfl ?_
    have h : axis (sampleAB i a b s) i = withBalls a b (axis s i) := by
      rw [sampleAB_short ha hb, crossed_axis, withLevels, filtered_short ha, filtered_short hb]
      rfl
    rw [sampleIndex_short (by rw [h]; exact hl), axis_modAxis_same, h]
    rfl
  case indexShort =>
    intro i l s hl
    refine runs_next (congrArg Host.Outcome.next (sampleIndex_short hl)) ?_
    rw [axis_modAxis_same]
  case index =>
    intro i l s hc hl he hne hp
    obtain ⟨t, ht, hsample⟩ := sampleIndex_edge hc hl he hne hp
    refine runs_next (congrArg Host.Outcome.next hsample) ?_
    obtain ⟨hcounter, e, hb⟩ := preset_axis i (axis s i).presetValue 0 t
    obtain ⟨-, -, -, -, hpos, hns⟩ := beside_fields hb
    rw [ht] at hpos hns
    split
    next h2 => exact ⟨hpos, hns, fun h => absurd (h.symm.trans h2) (by decide), fun _ => hcounter, fun h => absurd (h.symm.trans h2) (by decide)⟩
    next h2 =>
      split
      next h1 =>
        simp only [Bool.and_eq_true, decide_eq_true_eq] at h1
        rw [axis_modAxis_same]
        generalize axis (preset i (axis s i).presetValue 0 t) i = y at hcounter hpos hns
        exact ⟨hpos, hns, fun h => absurd (h.symm.trans h1.1) (by decide), fun h => absurd h h2, fun _ _ => ⟨hcounter, rfl⟩⟩
      next h1 =>
        rw [ht]
        exact ⟨rfl, rfl, fun _ => rfl, fun h => absurd h h2, fun h h' => absurd (by simp [h, h']) h1⟩
  case still =>
    intro i s e he hd
    generalize hy : (axis s i).standstillUs * us = y at hd
    refine runs_next (by simp only [exec, execStandstillExpiry, he, hy, hd, if_true]; rfl) (axis_putAxis_same _ _ _)
  case armInput =>
    intro i n s e s' g k hs hi hg hk
    obtain ⟨hin, hmo, -⟩ := motionInput_taken hs hi
    have hx : axis s' i = axis s i := by rw [axis, axis, hmo]
    refine runs_next (t := armUnit i g e.hops s') (congrArg Host.Outcome.next (hin.trans ?_)) ?_
    · rw [hx, cmpSlot?, hmo]
      simp only [cmpSlot?] at hk
      simp only [hg, hk]
    · obtain ⟨last, ha⟩ := armUnit_axis i g e.hops s'
      rw [ha, hx]
      exact ⟨rfl, rfl⟩
  case startInput =>
    intro i n s e s' g k hs hi hg hk
    obtain ⟨hin, hmo, -⟩ := motionInput_taken hs hi
    have hx : axis s' i = axis s i := by rw [axis, axis, hmo]
    refine runs_next (t := startTable i g e.hops s') (congrArg Host.Outcome.next (hin.trans ?_)) ?_
    · rw [hx, cmpSlot?, hmo]
      simp only [cmpSlot?] at hk
      simp only [hg, hk]
    · rw [← hx]
      exact startTable_axis i g e.hops s'
  case presetInput =>
    intro i n s e s' hs hi
    obtain ⟨hin, hmo, -⟩ := motionInput_taken hs hi
    refine runs_next (congrArg Host.Outcome.next hin) ?_
    rw [(preset_axis _ _ _ _).1, axis, axis, hmo]
  case latch =>
    intro i n s e s' hs hi
    obtain ⟨hin, hmo, htime⟩ := motionInput_taken hs hi
    have hx : axis s' i = axis s i := by rw [axis, axis, hmo]
    have hn : ns32 s' = ns32 s := by simp only [ns32, ns, htime]
    refine runs_next (congrArg Host.Outcome.next hin) ?_
    rw [axis_raiseAxis, axis_modAxis_same, hx, hn]
  case read =>
    intro p i s
    have hexec := exec_moPosRead p i s
    have hkept := capturePosition_kept p (moBlock i) (ns32 s).toNat (unsigned 64 (reportedSpeed s (axis s i)))
      (unsigned 64 (reportedSpeed s (axis s i)) / 2 ^ 32) (axisStatus s (axis s i)) (counter (axis s i)).toNat s
    have hread := captured_position p (moBlock i) (ns32 s).toNat (unsigned 64 (reportedSpeed s (axis s i)))
      (unsigned 64 (reportedSpeed s (axis s i)) / 2 ^ 32) (axisStatus s (axis s i)) (counter (axis s i)).toNat s
    generalize capturePosition p (moBlock i) (ns32 s).toNat (unsigned 64 (reportedSpeed s (axis s i)))
      (unsigned 64 (reportedSpeed s (axis s i)) / 2 ^ 32) (axisStatus s (axis s i)) (counter (axis s i)).toNat s = u at hexec hkept hread
    obtain ⟨hout, hmo⟩ := hkept
    exact runs_next hexec ⟨congrArg (· ++ _) hout, (emit_mo _ _).trans hmo, hread⟩
  case history =>
    intro i s hc hne
    have hlast : (axis s i).history.head?.map (·.1) ≠ some (ns s / 64 * 64) := by
      intro he
      obtain ⟨x, hx, hn⟩ := Option.map_eq_some_iff.mp he
      exact hne x hx hn
    exact runs_next (by simp only [exec, execPositionHistoryRecord, hc, hlast, ne_eq, not_false_eq_true, decide_true, Bool.and_self, if_true]; rfl)
      (axis_putAxis_same _ _ _)
  case config =>
    intro c s h
    refine answers_of_act (o := opMoConfig) rfl h ?_
    have hset : axis (changeOutputs (par c 0 1) (outputsDrive s (par c 0 1)) (modAxis (par c 0 1) (axisSet c.params) s)) (par c 0 1)
        = axisSet c.params (axis s (par c 0 1)) := (axis_changeOutputs _ _ _ _).trans (axis_modAxis_same _ _ _)
    refine ⟨rfl, Eq.trans ?_ hset⟩
    simp only
    split <;> rfl
  case query =>
    intro c s h
    exact answers_of_act (o := opMoQuery) rfl h ⟨rfl, rfl, rfl⟩
  case preset =>
    intro c s h
    refine answers_of_act (o := opMoPreset) rfl h ⟨rfl, (preset_axis _ _ _ _).1, ?_, rfl⟩
    exact congrArg (fun e => nextGen (EngState.configGen e)) (preset_eng _ _ _ _)
  case create =>
    intro c s h
    have hshort := h.checks.room
    simp only [opMoCmpCreate, Option.isNone_eq_false_iff] at hshort
    obtain ⟨n, hn⟩ := Option.isSome_iff_exists.mp hshort
    refine ⟨n, hn, ?_⟩
    refine answers_of_act (o := opMoCmpCreate) rfl h ?_
    simp only [opMoCmpCreate, hn, Option.getD_some]
    exact ⟨rfl, rfl, tget?_tput_same _ _ _, tget?_tput_same _ _ _, rfl⟩
  case arm =>
    intro c s h
    refine answers_of_act (o := opMoCmpArm) rfl h ⟨rfl, ?_⟩
    obtain ⟨last, ha⟩ := armUnit_axis (cmpAxis s (tslot c)) (armOf c) 0 (modAxis (cmpAxis s (tslot c))
      (fun x => { x with cmp := { x.cmp with given := some (armOf c) } }) s)
    rw [axis_modAxis_same] at ha
    rw [← axis_bumpObj (tslot c)] at ha
    exact ⟨congrArg (·.cmp.position) ha, congrArg (·.cmp.state) ha,
      congrArg (_ ++ ·) (congrArg (fun v : U32 => leBytes 4 v.toNat) ((congrArg counter ha).trans rfl))⟩
  case disarm =>
    intro c s h
    refine answers_of_act (o := opMoCmpDisarm) rfl h ?_
    simp only [opMoCmpDisarm]
    split
    next hr =>
      have hx := (axis_bumpObj (tslot c) (modAxis (cmpAxis s (tslot c)) (fun x => { x with cmp := { x.cmp with state := 0 } }) s)
        (cmpAxis s (tslot c))).trans (axis_modAxis_same _ _ _)
      exact ⟨rfl, congrArg (·.cmp.state) hx, congrArg (·.ext) hx⟩
    next hr => exact ⟨rfl, rfl, rfl⟩
  case load =>
    intro c s h
    refine answers_of_act (o := opMoTblLoad) rfl h ⟨rfl, ?_⟩
    intro n
    have hload : axis (modAxis (cmpAxis s (tslot c)) (fun x => { x with tbl := { x.tbl with
        offsets := loadOffsets c.params (par c 0 2) (par c 2 2) (axis s (cmpAxis s (tslot c))).tbl.offsets } }) s) (cmpAxis s (tslot c)) = _ :=
      axis_modAxis_same _ _ _
    refine (congrArg (fun x : Axis => tget 0 x.tbl.offsets n) (Eq.trans ?_ hload)).trans (offsets_load _ _ _ _ _)
    simp only
    split
    · rfl
    · exact axis_bumpObj _ _ _
  case start =>
    intro c s h
    obtain ⟨hgiven, hfires, hbase, hentries⟩ := startTable_axis (cmpAxis s (tslot c)) (tblStartOf c) 0 s
    have hx := axis_bumpObj (tslot c) (startTable (cmpAxis s (tslot c)) (tblStartOf c) 0 s) (cmpAxis s (tslot c))
    exact answers_of_act (o := opMoTblStart) rfl h ⟨rfl, (congrArg (·.tbl.given) hx).trans hgiven, (congrArg (·.tbl.fires) hx).trans hfires,
      (congrArg (·.tbl.entries) hx).trans hentries, (congrArg (·.tbl.base) hx).trans hbase,
      (congrArg (List.take 4) (List.append_assoc _ _ _)).trans (List.take_left' (leBytes_length _ _))⟩
  case stop =>
    intro c s h
    refine answers_of_act (o := opMoTblStop) rfl h ?_
    simp only [opMoTblStop]
    split
    next hr =>
      have hx := (axis_bumpObj (tslot c) (modAxis (cmpAxis s (tslot c)) (fun x => { x with tbl := { x.tbl with state := 0 } }) s)
        (cmpAxis s (tslot c))).trans (axis_modAxis_same _ _ _)
      exact ⟨rfl, congrArg (fun x : Axis => tblRuns x.tbl) hx, rfl⟩
    next hr => exact ⟨rfl, by simpa using hr, rfl⟩
  case cmpQuery =>
    intro c s h
    exact answers_of_act (o := opMoCmpQuery) rfl h ⟨rfl, rfl, rfl⟩
  case destroy =>
    intro c s h
    have hmo : (dropObj (tslot c) (clearCompare (tslot c) s)).mo = (clearCompare (tslot c) s).mo :=
      (dropObj_within _ (.refl (allBut .mo) _) rfl).keeps (c := .mo)
    have hx : axis (dropObj (tslot c) (clearCompare (tslot c) s)) (cmpAxis s (tslot c)) = clearedCompare (axis s (cmpAxis s (tslot c))) :=
      (axis_congr (congrArg MotionState.axes hmo) _).trans (axis_modAxis_same (cmpAxis s (tslot c)) clearedCompare s)
    exact answers_of_act (o := opMoCmpDestroy) rfl h ⟨rfl, congrArg (·.objs) (dropObj_eng _ _), congrArg MotionState.handles hmo,
      congrArg (·.cmp.state) hx, congrArg (·.tbl.state) hx, rfl⟩

end Sys2Proof.Machine
end

section
/-!
PROOF. Heartbeats, the claim register and arbitration of the pair of command engines (O58).
-/
namespace Sys2Proof.Machine
open Sys2Proof

theorem engOf_congr {s t : State} (h : t.rd.engines = s.rd.engines) (e : Nat) : engOf t e = engOf s e := by rw [engOf, engOf, h]

theorem engOf_of_rd {s t : State} (h : t.rd = s.rd) (e : Nat) : engOf t e = engOf s e := by rw [engOf, engOf, h]

@[simp] theorem engOf_modCe_same (e : Nat) (f : CmdEngine → CmdEngine) (s : State) : engOf (modCe e f s) e = f (engOf s e) :=
  tget_tmod_same _ _ _ _

theorem engOf_modCe_other {e j : Nat} (f : CmdEngine → CmdEngine) (s : State) (h : j ≠ e) : engOf (modCe e f s) j = engOf s j :=
  tget_tmod_other _ _ _ _ h

theorem peer_ne (e : Nat) : e ≠ peer e := by rw [peer]; omega

/-! ### What the pair's helpers leave -/

theorem raiseEngine_rd (e k c : Nat) (s : State) : (raiseEngine e k c s).rd = s.rd := (raiseEngine_within e k c (.refl (allBut .rd) s) rfl).keeps (c := .rd)
theorem raiseEngine_eng (e k c : Nat) (s : State) : (raiseEngine e k c s).eng = s.eng :=
  (raiseEngine_within e k c (.refl (allBut .eng) s) rfl).keeps (c := .eng)
theorem raiseEngine_clock (e k c : Nat) (s : State) : (raiseEngine e k c s).clock = s.clock :=
  (raiseEngine_within e k c (.refl everyPart s) rfl).clock

theorem holdServo_eng (s : State) : (holdServo s).eng = s.eng := (holdServo_within (.refl (allBut .eng) s) rfl).keeps (c := .eng)
theorem holdServo_rd (s : State) : (holdServo s).rd = s.rd := (holdServo_within (.refl (allBut .rd) s) rfl).keeps (c := .rd)

theorem silence_eng (s : State) : (silence s).eng = { s.eng with stopped := true, quiet := true } := by
  rw [← holdServo_eng s]; rfl
theorem silence_rd (s : State) : (silence s).rd = s.rd := holdServo_rd s

theorem strand_engOf (e : Nat) (s : State) : engOf (strand e s) e = engOf s e := engOf_modCe_other _ _ (peer_ne e)

theorem haltEngine_eng (e : Nat) (s : State) : (haltEngine e s).eng = { s.eng with stopped := true, quiet := true } := silence_eng _

theorem haltEngine_engOf (e : Nat) (s : State) : engOf (haltEngine e s) e = { engOf s e with halted := true } := by
  rw [haltEngine, strand_engOf, engOf_of_rd (silence_rd _), engOf_modCe_same]

/-- Who the engine that serves commands is, and whether it takes commands and writes replies. -/
def role (g : EngState) : Nat × Bool × Bool := (g.active, g.stopped, g.quiet)

theorem finish_role (id : Nat) (a : Answer) (s : State) : role (finish id a s).eng = role s.eng := by
  unfold finish
  split
  · rfl
  next w _ =>
    extract_lets u
    split
    · unfold writeReply
      split
      · rfl
      · rw [(sendReply_within _ _ (.refl (allBut .eng) u) rfl).keeps (c := .eng)]; rfl
    · rfl

theorem finish_rd (id : Nat) (a : Answer) (s : State) : (finish id a s).rd = s.rd := (finish_within id a (.refl (allBut .rd) s) rfl).keeps (c := .rd)

/-- OWNER and the changes under way. -/
def tenure (r : RedundState) : Option Nat × U16 × Option Nat × Option EngineChange × Option PlannedChange × U32 × Bool :=
  (r.owner, r.epoch, r.dualUntil, r.change, r.planned, r.snapshot, r.gnt)

/-- The tenure, the roles, and the state of one engine. -/
def holding (e : Nat) (s : State) : (Option Nat × U16 × Option Nat × Option EngineChange × Option PlannedChange × U32 × Bool)
    × (Nat × Bool × Bool) × EngineState := (tenure s.rd, role s.eng, (engOf s e).state)

theorem holding_of_rd {e : Nat} {s t : State} (hrd : t.rd = s.rd) (heng : role t.eng = role s.eng) : holding e t = holding e s := by
  rw [holding, holding, hrd, heng, engOf_of_rd hrd]

theorem holding_modCe {e j : Nat} (f : CmdEngine → CmdEngine) (s : State) (h : e ≠ j) : holding e (modCe j f s) = holding e s := by
  rw [holding, holding, engOf_modCe_other _ _ h]; rfl

theorem holding_restartEngine {e j : Nat} (s : State) (h : e ≠ j) : holding e (restartEngine j s) = holding e s := by
  rw [restartEngine]
  exact (holding_of_rd rfl rfl).trans (holding_modCe _ s h)

theorem holding_endRestart {e j : Nat} (a : Answer) (s : State) (h : e ≠ j) : holding e (endRestart j a s) = holding e s := by
  unfold endRestart
  split
  · rfl
  · exact (holding_of_rd (finish_rd _ _ _) (finish_role _ _ _)).trans (holding_modCe _ s h)

theorem holding_enterStandby {e j : Nat} (s : State) (h : e ≠ j) : holding e (enterStandby j s) = holding e s :=
  (holding_of_rd ((addJob_within _ _ _ (.refl (allBut .rd) _) rfl).keeps (c := .rd))
    (congrArg role ((addJob_within _ _ _ (.refl (allBut .eng) _) rfl).keeps (c := .eng)))).trans (holding_modCe _ s h)

theorem holding_startHold (e : Nat) (s : State) : holding e (startHold s) = holding e s := by
  unfold startHold
  extract_lets p
  split <;> rfl

theorem holding_seekCopy {e j : Nat} (s : State) (h : e ≠ j) : holding e (seekCopy j s) = holding e s := by
  unfold seekCopy
  split
  · exact holding_modCe _ s h
  · extract_lets u
    have hu : holding e u = holding e s := holding_modCe _ s h
    split
    · exact (holding_endRestart _ u h).trans hu
    · exact hu

theorem holding_raiseEngine (e j k c : Nat) (s : State) : holding e (raiseEngine j k c s) = holding e s :=
  holding_of_rd (raiseEngine_rd _ _ _ _) (congrArg role (raiseEngine_eng _ _ _ _))

/-- An engine that takes OWNER holds it, is the active one, and writes no reply yet (R310, R315). -/
theorem takeOwner_holding (e kind cause d : Nat) (n : U32) (dual : Bool) (s : State) : holding e (takeOwner e kind cause d n dual s) =
    ((some e, s.rd.epoch + 1, if dual then some (s.clock + 80 * us) else none,
      some { kind := kind, cause := cause, detectedAt := d, claimedAt := s.clock }, none, s.rd.snapshot, s.rd.gnt),
      (e, true, true), .active) := by
  unfold takeOwner
  extract_lets old s1 s2 s3 s4
  have h2 : holding e s2 = ((some e, s.rd.epoch + 1, if dual then some (s.clock + 80 * us) else none,
      some { kind := kind, cause := cause, detectedAt := d, claimedAt := s.clock }, none, s.rd.snapshot, s.rd.gnt),
      (e, true, true), .active) := by
    rw [holding, silence_rd, silence_eng, engOf_of_rd (silence_rd _)]
    exact congrArg (fun x : CmdEngine => ((_, _, x.state) : _ × _ × EngineState)) (engOf_modCe_same e _ s1)
  have h3 : holding e s3 = holding e s2 := holding_of_rd ((dropJob_within _ _ (.refl (allBut .rd) _) rfl).keeps (c := .rd))
    (congrArg role ((dropJob_within _ _ (.refl (allBut .eng) _) rfl).keeps (c := .eng)))
  have h4 : holding e s4 = holding e s3 := by
    simp only [s4]
    split
    · rfl
    next ho =>
      have ho : e ≠ old := fun h => ho h.symm
      split
      · split
        · exact holding_restartEngine s3 ho
        · exact (holding_startHold e _).trans (holding_enterStandby s3 ho)
      · split
        · exact holding_seekCopy s3 ho
        · rfl
  refine Eq.trans ?_ (h4.trans (h3.trans h2))
  split
  · exact holding_raiseEngine e e 6 cause s4
  · rfl

/-- What a new owner's tenure says, field by field. -/
theorem takeOwner_takes (e kind cause d : Nat) (n : U32) (dual : Bool) (s : State) :
    (takeOwner e kind cause d n dual s).rd.owner = some e ∧ (takeOwner e kind cause d n dual s).rd.epoch = s.rd.epoch + 1
      ∧ (takeOwner e kind cause d n dual s).rd.dualUntil = (if dual then some (s.clock + 80 * us) else none)
      ∧ (takeOwner e kind cause d n dual s).rd.change = some { kind := kind, cause := cause, detectedAt := d, claimedAt := s.clock }
      ∧ (takeOwner e kind cause d n dual s).rd.planned = none ∧ (takeOwner e kind cause d n dual s).rd.snapshot = s.rd.snapshot
      ∧ (takeOwner e kind cause d n dual s).rd.gnt = s.rd.gnt ∧ (takeOwner e kind cause d n dual s).eng.active = e
      ∧ (takeOwner e kind cause d n dual s).eng.quiet = true ∧ (engOf (takeOwner e kind cause d n dual s) e).state = .active := by
  have h := takeOwner_holding e kind cause d n dual s
  simp only [holding, tenure, role, Prod.mk.injEq] at h
  obtain ⟨⟨howner, hepoch, hdual, hchange, hplanned, hsnapshot, hgnt⟩, ⟨hactive, -, hquiet⟩, hstate⟩ := h
  exact ⟨howner, hepoch, hdual, hchange, hplanned, hsnapshot, hgnt, hactive, hquiet, hstate⟩

/-! ### Heartbeats -/

theorem requestArb_engines (e c : Nat) (s : State) : (requestArb e c s).rd.engines = s.rd.engines := by
  unfold requestArb
  split
  · rfl
  · extract_lets u
    have hu : u.rd.engines = s.rd.engines := (congrArg RedundState.engines (raiseEngine_rd e 7 c _)).trans rfl
    split <;> exact hu

theorem clearArb_rd (s : State) : (clearArb s).rd.beatSent = s.rd.beatSent ∧ (clearArb s).rd.engines = s.rd.engines := by
  unfold clearArb
  extract_lets ok u
  split
  · split <;> exact ⟨rfl, rfl⟩
  · exact ⟨rfl, rfl⟩

/-- Whether an engine has missed its peer's heartbeats depends on that engine alone. -/
theorem beatMissed_congr {s t : State} {e : Nat} (hpart : t.part = s.part) (hpkg : t.pkg = s.pkg) (hclock : t.clock = s.clock)
    (he : engOf t e = engOf s e) : beatMissed t e = beatMissed s e := by
  have htile : engineTile t e = engineTile s e := by rw [engineTile, engineTile, tiles, tiles, hpart]
  simp only [beatMissed, engineRuns, he, serving_congr hpart hpkg, hclock, htile]

/-- An engine that has missed its peer's heartbeats declares them lost (R307). -/
def declareLoss (e : Nat) (s : State) : State :=
  if beatMissed s e then requestArb e 4 (modCe e (fun x => { x with lost := some s.clock }) s) else s

theorem declareLoss_keeps (e : Nat) (s : State) : (declareLoss e s).part = s.part ∧ (declareLoss e s).pkg = s.pkg
    ∧ (declareLoss e s).clock = s.clock := by
  unfold declareLoss
  split
  · exact ⟨(requestArb_within e 4 (.refl everyPart _) rfl).part, (requestArb_within e 4 (.refl (allBut .pkg) _) rfl).keeps (c := .pkg),
      (requestArb_within e 4 (.refl everyPart _) rfl).clock⟩
  · exact ⟨rfl, rfl, rfl⟩

theorem declareLoss_same {e : Nat} {s : State} (h : beatMissed s e = true) : (engOf (declareLoss e s) e).lost = some s.clock := by
  rw [declareLoss, if_pos h, engOf_congr (requestArb_engines _ _ _), engOf_modCe_same]

theorem declareLoss_other {e j : Nat} (s : State) (h : j ≠ e) : engOf (declareLoss e s) j = engOf s j := by
  unfold declareLoss
  split
  · rw [engOf_congr (requestArb_engines _ _ _), engOf_modCe_other _ _ h]
  · rfl

theorem exec_heartbeatLoss (s : State) : exec .heartbeatLoss s = .next (declareLoss 1 (declareLoss 0 s)) := rfl

/-- An engine hears its peer (R307). -/
def hear (e : Nat) (s : State) : State := modCe e (fun x => { x with beat := some s.clock, lost := none, lastTry := none }) s

/-- Both engines hear each other. -/
def bothHear (s : State) : State := clearArb (hear 1 (hear 0 (modRd s fun r => { r with beatSent := s.clock })))

/-! ### Resignation -/

theorem strand_rd (e : Nat) (s : State) : (strand e s).rd = { s.rd with engines := (strand e s).rd.engines } := rfl

theorem restartEngine_rd (e : Nat) (s : State) : (restartEngine e s).rd = { s.rd with engines := (restartEngine e s).rd.engines } := rfl

theorem restartEngine_engOf (e : Nat) (s : State) : engOf (restartEngine e s) e = { engOf s e with
    state := if serving s (engineTile s e) && decide (4 < modeCode s.pkg.mode) then .testing else .absent
    healthy := true, halted := false, copied := false, fails := 0, beat := none, lost := none, lastTry := none } :=
  engOf_modCe_same _ _ _

/-! ### Grants -/

theorem dualChange_rd (e c : Nat) (s : State) : (dualChange e c s).rd.owner = s.rd.owner ∧ (dualChange e c s).rd.epoch = s.rd.epoch + 1
    ∧ (dualChange e c s).rd.dualUntil = some (s.clock + 80 * us) ∧ (dualChange e c s).rd.engines = s.rd.engines
    ∧ (dualChange e c s).eng = s.eng ∧ (dualChange e c s).clock = s.clock := by
  refine ⟨?_, ?_, ?_, ?_, raiseEngine_eng _ _ _ _, raiseEngine_clock _ _ _ _⟩ <;> rw [dualChange, raiseEngine_rd] <;> rfl

theorem grant_standby {e : Nat} {s : State} (ha : arbMode s = true) (he : e ≤ 1) (hs : (engOf s e).state = .standby) :
    grant e s = takeOwner e 0 5 s.clock (ns32 s) true s := by
  rw [grant, ha, decide_eq_false (by omega), if_neg (by decide), if_pos hs]

theorem grant_refused {e o : Nat} {s : State} (ha : arbMode s = true) (he : e ≤ 1) (hs : (engOf s e).state ≠ .standby)
    (ho : s.rd.owner = some o) :
    grant e s = if o = e then raiseEngine e 8 5 s else dualChange o 5 (dualChange e 5 (raiseEngine e 8 5 s)) := by
  rw [grant, ha, decide_eq_false (by omega), if_neg (by decide), if_neg hs]
  simp only [raiseEngine_rd, ho]

/-- Settles O58: a change of OWNER by what it leaves of the tenure and the roles. -/
theorem enginesKeepOneOwner : Obligations.EnginesKeepOneOwner := by
  refine ⟨?beat, ?beatEarly, ?loss, ?noLoss, ?renew, ?resign, ?claim, ?claimClosed, ?noClaim, ?grant, ?noGrant, ?grantOwner, ?grantOther,
    ?ball, ?noBall, ?arb, ?noArb, ?stale, ?dual⟩
  case beat =>
    intro s hd h0 h1
    generalize hn : s.rd.beatSent + 25 * us = n at hd
    refine runs_next (t := bothHear s) (by
      simp only [exec, execHeartbeatSend, hn, if_neg (Nat.not_lt.mpr hd), h0, h1, Bool.and_self, if_true]; rfl) ?_
    obtain ⟨hsent, hengines⟩ := clearArb_rd (hear 1 (hear 0 (modRd s fun r => { r with beatSent := s.clock })))
    have e0 : engOf (bothHear s) 0 = _ := (engOf_congr hengines 0).trans ((engOf_modCe_other _ _ (by decide)).trans (engOf_modCe_same _ _ _))
    have e1 : engOf (bothHear s) 1 = _ := (engOf_congr hengines 1).trans (engOf_modCe_same _ _ _)
    rw [e0, e1]
    exact ⟨hsent, rfl, rfl, rfl, rfl⟩
  case beatEarly =>
    intro s hd
    generalize hn : s.rd.beatSent + 25 * us = n at hd
    exact runs_next (by simp only [exec, execHeartbeatSend, hn, if_pos hd]) rfl
  case loss =>
    intro s e he hm
    refine runs_next (exec_heartbeatLoss s) ?_
    obtain rfl | rfl : e = 0 ∨ e = 1 := by omega
    · rw [declareLoss_other _ (by decide), declareLoss_same hm]
    · obtain ⟨hpart, hpkg, hclock⟩ := declareLoss_keeps 0 s
      rw [declareLoss_same ((beatMissed_congr hpart hpkg hclock (declareLoss_other s (by decide))).trans hm), hclock]
  case noLoss =>
    intro s h0 h1
    refine runs_next (exec_heartbeatLoss s) ?_
    simp only [declareLoss, h0, h1, Bool.false_eq_true, if_false]
  case renew =>
    intro s ha hd
    generalize hn : s.rd.renewedAt + 20 * us = n at hd
    by_cases ho : s.rd.owner = some s.eng.active
    · refine runs_next (t := modRd s fun r => { r with renewedAt := s.clock, renewFailed := false }) ?_ ⟨fun _ => ⟨rfl, rfl⟩, fun h => absurd ho h⟩
      simp only [exec, execRenew, ha, hn, decide_eq_false (Nat.not_lt.mpr hd), Bool.not_true, Bool.or_self, Bool.false_eq_true, if_false, if_pos ho]
    · refine runs_next (t := modRd s fun r => { r with renewFailed := true }) ?_ ⟨fun h => absurd h ho, fun _ => ⟨rfl, rfl⟩⟩
      simp only [exec, execRenew, ha, hn, decide_eq_false (Nat.not_lt.mpr hd), Bool.not_true, Bool.or_self, Bool.false_eq_true, if_false, if_neg ho]
  case resign =>
    intro s hstate hhealth howner harb
    refine runs_next (by simp only [exec, execResign, hstate, hhealth, howner, harb, and_self, if_true]; rfl) ?_
    rw [restartEngine_rd, strand_rd, raiseEngine_rd, restartEngine_engOf]
    exact ⟨rfl, rfl, rfl, by split <;> exact EngineState.noConfusion⟩
  case claim =>
    intro s e hf ho
    refine runs_next (by simp only [exec, execClaim, hf, ho, if_true]; rfl) ?_
    obtain ⟨howner, hepoch, -, hchange, -, -, -, hactive, hquiet, hstate⟩ := takeOwner_takes e 0 _ _ _ s.rd.owner.isSome s
    exact ⟨howner, hactive, hstate, hepoch, hquiet, _, hchange, rfl, rfl, rfl⟩
  case claimClosed =>
    intro s e hf ho
    refine runs_next (by simp only [exec, execClaim, hf, ho, Bool.false_eq_true, if_false]; rfl) ?_
    exact ⟨rfl, rfl, congrArg CmdEngine.lastTry (engOf_modCe_same _ _ _)⟩
  case noClaim =>
    intro s hf
    exact runs_next (by simp only [exec, execClaim, hf]) rfl
  case grant =>
    intro s e ha he hs
    obtain ⟨howner, -, hdual, -, -, -, -, hactive, -, hstate⟩ := takeOwner_takes e 0 5 s.clock (ns32 s) true s
    exact runs_next (congrArg Host.Outcome.next (grant_standby ha he hs)) ⟨howner, hactive, hstate, hdual⟩
  case noGrant =>
    intro s e h
    refine runs_next (t := s) (congrArg Host.Outcome.next ?_) rfl
    rw [grant, if_pos]
    obtain h | h := h <;> simp [h]
  case grantOwner =>
    intro s e ha he hs ho
    exact runs_next (congrArg Host.Outcome.next ((grant_refused ha he hs ho).trans (if_pos rfl))) rfl
  case grantOther =>
    intro s e o ha he hs ho hne
    refine runs_next (congrArg Host.Outcome.next ((grant_refused ha he hs ho).trans (if_neg hne))) ?_
    obtain ⟨ho1, hp1, -, he1, hg1, hc1⟩ := dualChange_rd e 5 (raiseEngine e 8 5 s)
    obtain ⟨ho2, hp2, hd2, he2, hg2, -⟩ := dualChange_rd o 5 (dualChange e 5 (raiseEngine e 8 5 s))
    rw [ho2, hp2, hd2, he2, hg2, ho1, hp1, he1, hg1, hc1, raiseEngine_rd, raiseEngine_eng, raiseEngine_clock]
    exact ⟨ho, by rw [BitVec.add_assoc]; rfl, rfl, rfl, rfl⟩
  case ball =>
    intro s l hb hg hs
    have ha : arbMode s = true := (Bool.and_eq_true_iff.mp hb).1
    obtain ⟨howner, -, -, -, -, -, hgnt, -⟩ := takeOwner_takes (if l then 0 else 1) 0 5 s.clock (ns32 s) true (modRd s fun r => { r with gnt := l })
    have hgrant := grant_standby (s := modRd s fun r => { r with gnt := l }) (e := if l then 0 else 1) ha (by split <;> omega) hs
    refine runs_next (t := grant (if l then 0 else 1) (modRd s fun r => { r with gnt := l })) ?_ ?_
    · simp only [exec, execArbGntChange, hb, Bool.not_true, Bool.false_or, beq_iff_eq, if_neg hg]
    · rw [hgrant]
      exact ⟨hgnt, howner⟩
  case noBall =>
    intro s l h
    refine runs_next (t := s) (congrArg Host.Outcome.next (if_pos ?_)) rfl
    obtain h | h := h <;> simp [h]
  case arb =>
    intro s p v hm ha hsrc hk hs
    obtain ⟨howner, -, -, -, -, -, -, hactive, -⟩ := takeOwner_takes (v.toNat % 2) 0 5 s.clock (ns32 s) true s
    refine runs_next (t := grant (v.toNat % 2) s) (congrArg Host.Outcome.next (if_pos (by simp only [hm, ha, hsrc, hk, decide_true, Bool.and_self]))) ?_
    rw [grant_standby ha (by omega) hs]
    exact ⟨howner, hactive⟩
  case noArb =>
    intro s p v h
    refine runs_next (t := ignoreWrite p s) (congrArg Host.Outcome.next (if_neg ?_)) ⟨rfl, ?_⟩
    · obtain h | h | h | h := h <;> simp [h]
    · rw [ignoreWrite, counters_modPortCounters]
  case stale =>
    intro s ha h
    generalize hn : s.rd.renewedAt + 200 * us = n at h
    refine runs_next (t := haltEngine s.eng.active s) ?_ ?_
    · have hc : (s.rd.renewFailed || decide (n ≤ s.clock)) = true := by simpa using h
      simp only [exec, execRenewalStaleStop, ha, hn, hc, Bool.and_self, if_true]
    · rw [haltEngine_engOf, haltEngine_eng]
      exact ⟨rfl, rfl, rfl⟩
  case dual =>
    intro s d hd
    by_cases h : d ≤ s.clock
    · refine runs_next (t := modRd s fun r => { r with dualUntil := none }) ?_ ⟨fun _ => rfl, fun hlt => absurd h (Nat.not_le.mpr hlt)⟩
      simp only [exec, execDualWindowEnd, hd, if_pos h]
    · refine runs_next (t := s) ?_ ⟨fun hle => absurd hle h, fun _ => rfl⟩
      simp only [exec, execDualWindowEnd, hd, if_neg h]

end Sys2Proof.Machine
end

section
/-!
PROOF. Mirroring, changes of the active engine and recovery (O59).
-/
namespace Sys2Proof.Machine
open Sys2Proof

theorem finishAll_role (ids : List Nat) (a : State → Answer) (s : State) :
    role (ids.foldl (fun s id => finish id (a s) s) s).eng = role s.eng :=
  foldl_keeps (fun s => role s.eng) (fun s id => finish id (a s) s) ids s fun t id => finish_role id (a t) t

theorem finishAll_rd (ids : List Nat) (a : State → Answer) (s : State) : (ids.foldl (fun s id => finish id (a s) s) s).rd = s.rd :=
  foldl_keeps (fun s => s.rd) (fun s id => finish id (a s) s) ids s fun t id => finish_rd id (a t) t

theorem loseStandby_eng (e c : Nat) (s : State) : (loseStandby e c s).eng = s.eng := (loseStandby_within e c (.refl (allBut .eng) s) rfl).keeps (c := .eng)

/-- The command that restarted an engine ends with its wait cleared. -/
theorem endRestart_engOf (e : Nat) (a : Answer) (s : State) : engOf (endRestart e a s) e = { engOf s e with wait := none } := by
  unfold endRestart
  split
  next hw => rw [← hw]
  · rw [engOf_of_rd (finish_rd _ _ _), engOf_modCe_same]

theorem seekCopy_state (e : Nat) (s : State) :
    (engOf (seekCopy e s) e).state = if activeRuns s && mirrorFits s e then .copying else .waiting := by
  unfold seekCopy
  split
  · rw [engOf_modCe_same]
  · extract_lets u
    split
    · rw [endRestart_engOf, engOf_modCe_same]
    · rw [engOf_modCe_same]

theorem requestArb_engOf (e c : Nat) (s : State) (j : Nat) : engOf (requestArb e c s) j = engOf s j := engOf_congr (requestArb_engines e c s) j

theorem startHold_engOf (s : State) (j : Nat) : engOf (startHold s) j = engOf s j := by
  unfold startHold
  extract_lets p
  split <;> rfl

theorem enterStandby_engOf (e : Nat) (s : State) : engOf (enterStandby e s) e = { engOf s e with state := .standby } := by
  rw [enterStandby, engOf_of_rd ((addJob_within _ _ _ (.refl (allBut .rd) _) rfl).keeps (c := .rd)), engOf_modCe_same]

theorem planChange_rd (k e : Nat) (s : State) : (planChange k e s).rd.planned
    = some { kind := k, target := e, startedAt := s.clock, startNs32 := ns32 s } := rfl

theorem planChange_eng (k e : Nat) (s : State) : (planChange k e s).eng = { s.eng with stopped := true } := by
  rw [← holdServo_eng s]; rfl

/-- The owner that hands over has completed a snapshot epoch (R316). -/
def handingOver (s : State) : State :=
  modRd s fun r => { r with snapshot := r.snapshot + 1, copyingSince := none, journal := [], journalNew := 0 }

/-- A planned change that is given up: the active engine takes commands again. -/
def droppedPlan (s : State) : State :=
  if activeRuns (modRd s fun r => { r with planned := none }) then
    modEng (modRd s fun r => { r with planned := none }) fun e => { e with stopped := false }
  else modRd s fun r => { r with planned := none }

theorem droppedPlan_leaves (s : State) : (droppedPlan s).rd.planned = none ∧ (droppedPlan s).rd.owner = s.rd.owner
    ∧ (droppedPlan s).eng.active = s.eng.active := by
  unfold droppedPlan
  split <;> exact ⟨rfl, rfl, rfl⟩

/-- The answer E_STATE of a command whose change is given up. -/
def stateRefusal (s : State) : Answer := { status := .eState, detail := modeCode s.pkg.mode }

theorem activeRuns_modCe {e : Nat} (f : CmdEngine → CmdEngine) (s : State) (hf : ∀ x, (f x).state = x.state ∧ (f x).halted = x.halted) :
    activeRuns (modCe e f s) = activeRuns s := by
  have hx : (engOf (modCe e f s) s.eng.active).state = (engOf s s.eng.active).state
      ∧ (engOf (modCe e f s) s.eng.active).halted = (engOf s s.eng.active).halted := by
    by_cases h : s.eng.active = e
    · rw [h, engOf_modCe_same]; exact hf _
    · rw [engOf_modCe_other _ _ h]; exact ⟨rfl, rfl⟩
  change (decide ((engOf (modCe e f s) s.eng.active).state = .active) && !(engOf (modCe e f s) s.eng.active).halted) = _
  rw [hx.1, hx.2]
  rfl

theorem mirrorFits_modCe {e : Nat} (f : CmdEngine → CmdEngine) (s : State) (j : Nat) (hf : ∀ x, (f x).image = x.image) :
    mirrorFits (modCe e f s) j = mirrorFits s j := by
  have hx (i : Nat) : (engOf (modCe e f s) i).image = (engOf s i).image := by
    by_cases h : i = e
    · rw [h, engOf_modCe_same]; exact hf _
    · rw [engOf_modCe_other _ _ h]
  simp only [mirrorFits, hx]
  rfl

theorem startHold_settings (s : State) : (startHold s).rd.holdS = s.rd.holdS ∧ (startHold s).rd.preferred = s.rd.preferred := by
  unfold startHold
  extract_lets p
  split <;> exact ⟨rfl, rfl⟩

/-! ### The end of a takeover -/

theorem endSwitchover_rd (k : Nat) (s : State) : (endSwitchover k s).rd = s.rd := finishAll_rd _ (fun _ => _) s

theorem endSwitchover_role (k : Nat) (s : State) : role (endSwitchover k s).eng = role s.eng := finishAll_role _ (fun _ => _) s

/-- The new engine has written the replies that were due (R315). -/
def repliesWritten (s : State) : State :=
  replyQueues.foldl (fun s q => flushQueue q.1 q.2 s)
    (modEng (replyQueues.foldl (fun s q => appendReplies q.1 q.2 s) s) fun e => { e with stopped := false, quiet := false, deferred := [] })

/-- The change of the active engine is complete. -/
def changeEnded (c : EngineChange) (s : State) : State :=
  modRd s fun r => { r with durationUs := (s.clock - c.detectedAt) / 1000, change := none }

theorem flushQueues_kept (l : List (Nat × Nat)) (s : State) : (l.foldl (fun s q => flushQueue q.1 q.2 s) s).eng = s.eng :=
  foldl_keeps (fun s => s.eng) _ l s fun t q => (flushQueue_within q.1 q.2 (.refl (allBut .eng) t) rfl).keeps (c := .eng)

theorem flushQueues_clock (l : List (Nat × Nat)) (s : State) : (l.foldl (fun s q => flushQueue q.1 q.2 s) s).clock = s.clock :=
  foldl_keeps (fun s => s.clock) _ l s fun t q => (flushQueue_within q.1 q.2 (.refl everyPart t) rfl).clock

theorem appendAll_clock (l : List (Nat × Nat)) (s : State) : (l.foldl (fun s q => appendReplies q.1 q.2 s) s).clock = s.clock :=
  foldl_keeps (fun s => s.clock) _ l s fun t q => (appendReplies_within q.1 q.2 (.refl everyPart t) rfl).clock

theorem repliesWritten_leaves (s : State) : role (repliesWritten s).eng = ((repliesWritten s).eng.active, false, false)
    ∧ (repliesWritten s).clock = s.clock := by
  unfold repliesWritten
  generalize replyQueues = l
  rw [flushQueues_kept, flushQueues_clock]
  exact ⟨rfl, appendAll_clock l s⟩

theorem changeEnded_rd (c : EngineChange) (s : State) :
    (changeEnded c s).rd = { s.rd with durationUs := (s.clock - c.detectedAt) / 1000, change := none } := rfl

theorem changeEnded_eng (c : EngineChange) (s : State) : (changeEnded c s).eng = s.eng := rfl

theorem exec_takeoverReplies {s : State} {c : EngineChange} (h : changeToEnd s = some c) : exec .takeoverReplies s = .next
    (endSwitchover c.kind (raiseEngine (repliesWritten s).eng.active c.kind c.cause (changeEnded c (repliesWritten s)))) := by
  simp only [exec, execTakeoverReplies, h, repliesWritten, changeEnded]
  generalize replyQueues = l
  rfl

/-- Settles O59: each change by what it leaves of the engines, the tenure and the roles. -/
theorem enginesChangeAndRecover : Obligations.EnginesChangeAndRecover := by
  refine ⟨?epoch, ?complete, ?ack, ?handover, ?handoverWaits, ?handoverDropped, ?takeover, ?replies, ?noReplies, ?testPass, ?testAgain, ?testFail,
    ?ready, ?revert, ?query, ?set, ?switchSame, ?switch, ?restart, ?restartFrom, ?restartRefused⟩
  case epoch =>
    intro s ha hs hm hc hd
    generalize hn : s.rd.lastStart + ms = n at hd
    refine runs_next (t := modRd s fun r => { r with copyingSince := some s.clock, lastStart := s.clock, journalNew := 0 }) ?_ ⟨rfl, rfl, rfl⟩
    simp only [exec, execSnapshotEpoch, ha, hs, hm, hc, hn, hd, Bool.not_false, Option.isNone_none, decide_true, Bool.and_self, if_true]
  case complete =>
    intro s x hx hm
    refine runs_next (t := completeEpoch s) ?_ ⟨rfl, rfl, rfl, fun hc => ?_⟩
    · simp only [exec, execSnapshotEpochComplete, hx, hm, Option.isSome_some, Bool.and_self, if_true]
    · refine (congrArg CmdEngine.copied (engOf_modCe_same _ _ _)).trans ?_
      exact (congrArg (fun x => _ || decide (x = EngineState.copying)) hc).trans (Bool.or_true _)
  case ack =>
    intro s ha hm
    by_cases ho : s.rd.owner = some s.eng.active
    · refine runs_next (by simp only [exec, execJournalAckTimeout, ha, hm, ho, Bool.not_true, Bool.or_self, Bool.false_eq_true, if_false, if_true]; rfl)
        ⟨fun _ => ?_, fun h => absurd ho h⟩
      exact ⟨congrArg CmdEngine.state (engOf_modCe_same _ _ _), congrArg CmdEngine.copied (engOf_modCe_same _ _ _)⟩
    · refine runs_next (t := haltEngine s.eng.active s) ?_ ⟨fun h => absurd h ho, fun _ => ?_⟩
      · simp only [exec, execJournalAckTimeout, ha, hm, ho, Bool.not_true, Bool.or_self, Bool.false_eq_true, if_false]
      · rw [haltEngine_engOf, haltEngine_eng]
        exact ⟨rfl, rfl⟩
  case handover =>
    intro s p hp hs ha hu
    refine runs_next (by simp only [exec, execHandover, hp, hs, ha, hu, Bool.not_false, Bool.and_self, if_true]; rfl) ?_
    obtain ⟨howner, -, -, -, hplanned, hsnapshot, -, hactive, -⟩ := takeOwner_takes p.target p.kind 0 p.startedAt p.startNs32 false
      (if p.kind = 1 then bumpPkg (handingOver s) else handingOver s)
    refine ⟨howner, hactive, hplanned, hsnapshot.trans ?_⟩
    split <;> rfl
  case handoverWaits =>
    intro s p hp hs h
    refine runs_next (t := s) ?_ rfl
    have hc : (activeRuns s && !unmirroredRuns s) = false := by
      obtain h | h := h <;> simp [h]
    simp only [exec, execHandover, hp, hs, hc, Bool.false_eq_true, if_true, if_false]
  case handoverDropped =>
    intro s p hp hs
    obtain ⟨hplanned, howner, hactive⟩ := droppedPlan_leaves s
    have hrd := finishAll_rd (switchWaits (droppedPlan s)) stateRefusal (droppedPlan s)
    have hrole := finishAll_role (switchWaits (droppedPlan s)) stateRefusal (droppedPlan s)
    refine runs_next (t := (switchWaits (droppedPlan s)).foldl (fun s id => finish id (stateRefusal s) s) (droppedPlan s))
      (by simp only [exec, execHandover, hp, hs, if_false]; rfl) ?_
    exact ⟨(congrArg RedundState.planned hrd).trans hplanned, (congrArg RedundState.owner hrd).trans howner,
      (congrArg Prod.fst hrole).trans hactive⟩
  case takeover =>
    intro s c hc
    exact runs_next (by simp only [exec, execTakeover, hc]; rfl) ⟨rfl, rfl⟩
  case replies =>
    intro s c hc
    refine runs_next (exec_takeoverReplies hc) ?_
    obtain ⟨hrole, hclock⟩ := repliesWritten_leaves s
    have hrd := endSwitchover_rd c.kind (raiseEngine (repliesWritten s).eng.active c.kind c.cause (changeEnded c (repliesWritten s)))
    have hend := endSwitchover_role c.kind (raiseEngine (repliesWritten s).eng.active c.kind c.cause (changeEnded c (repliesWritten s)))
    rw [raiseEngine_rd, changeEnded_rd, hclock] at hrd
    rw [raiseEngine_eng, changeEnded_eng, hrole, role, Prod.mk.injEq, Prod.mk.injEq] at hend
    exact ⟨congrArg RedundState.change hrd, hend.2.1, hend.2.2, congrArg RedundState.durationUs hrd⟩
  case noReplies =>
    intro s hc
    exact runs_next (by simp only [exec, execTakeoverReplies, hc]) rfl
  case testPass =>
    intro s e hs
    refine runs_next (by simp only [exec, execStandbySelftestDone, hs, ne_eq, not_true_eq_false, if_false, if_true]; rfl) ?_
    rw [seekCopy_state, activeRuns_modCe (fun x => { x with fails := 0 }) s (fun _ => ⟨rfl, rfl⟩),
      mirrorFits_modCe (fun x => { x with fails := 0 }) s e (fun _ => rfl)]
  case testAgain =>
    intro s e hs hf
    refine runs_next (by simp only [exec, execStandbySelftestDone, hs, ne_eq, not_true_eq_false, if_false, hf, if_true, Bool.false_eq_true]; rfl) ?_
    rw [engOf_modCe_same, requestArb_engOf]
    exact ⟨rfl, hs⟩
  case testFail =>
    intro s e hs hf
    refine runs_next (by simp only [exec, execStandbySelftestDone, hs, ne_eq, not_true_eq_false, if_false, if_neg (Nat.not_lt.mpr hf),
      Bool.false_eq_true]; rfl) ?_
    rw [endRestart_engOf, engOf_modCe_same]
  case ready =>
    intro s e hs hc ha
    refine runs_next (by simp only [exec, execStandbyReady, hs, hc, ha, ne_eq, not_true_eq_false, Bool.true_eq_false, or_self, if_false]; rfl) ?_
    have hstate (u : State) (hu : engOf u e = { engOf s e with state := .standby }) (p : Prop) [Decidable p] :
        engOf (if p then startHold u else u) e = { engOf s e with state := .standby } := by
      split
      · rw [startHold_engOf, hu]
      · exact hu
    rw [endRestart_engOf, hstate _ ((engOf_of_rd (raiseEngine_rd _ _ _ _) e).trans (enterStandby_engOf e s))]
    exact ⟨rfl, rfl⟩
  case revert =>
    intro s h hh hd ha hp hc hs hne
    generalize hn : h + s.rd.holdS * 1000 * ms = n at hd
    refine runs_next (t := planChange 2 s.rd.preferred s) ?_ ⟨planChange_rd _ _ _, by rw [planChange_eng]⟩
    simp only [exec, execRevertHoldExpiry, hh, hn, hd, ha, hp, hc, hs, ne_eq, hne, Option.isNone_none, not_false_eq_true, and_self, if_true]
  case query =>
    intro c s h
    refine answers_of_act (o := opCePairQuery) rfl h ⟨rfl, rfl, ?_⟩
    refine (congrArg (List.take 8) (List.append_assoc (leBytes 4 (ceOwner s)) (leBytes 4 (pairReg s 0)) _).symm).trans (List.take_left' ?_)
    rw [List.length_append, leBytes_length, leBytes_length]
  case set =>
    intro c s h
    refine answers_of_act (o := opCePairSet) rfl h ?_
    simp only [opCePairSet]
    split
    next he => exact ⟨rfl, he.1, he.2, rfl⟩
    next he =>
      obtain ⟨hhold, hpreferred⟩ := startHold_settings (bumpPkg (modRd s fun d => { d with holdS := par c 0 2, preferred := par c 2 1 }))
      split <;> exact ⟨rfl, hhold, hpreferred, rfl⟩
  case switchSame =>
    intro c s h he
    refine answers_of_act (o := opCeSwitchover) rfl h ?_
    simp only [opCeSwitchover, if_pos he]
    exact ⟨rfl, rfl, rfl⟩
  case switch =>
    intro c s h he
    refine runs_of_act (o := opCeSwitchover) rfl h ?_
    simp only [opCeSwitchover, if_neg he, WaitsIn]
    refine ⟨by rw [planChange_eng], planChange_rd _ _ _, ?_⟩
    rw [heldKey, planChange_eng]
    exact heldKey_addWait s (List.mem_singleton.mpr rfl)
  case restart =>
    intro c img s h hp
    refine runs_of_act (o := opCeStandbyRestart img) rfl h ?_
    simp only [opCeStandbyRestart, if_pos hp, WaitsIn, ne_eq, not_true_eq_false, if_false]
    rw [restartEngine_engOf, engOf_modCe_same, loseStandby_eng]
    exact ⟨rfl, rfl, rfl, rfl⟩
  case restartFrom =>
    intro c img s h hp hf
    refine runs_of_act (o := opCeStandbyRestart img) rfl h ?_
    simp only [opCeStandbyRestart, if_neg hp, WaitsIn, ne_eq, hf, not_true_eq_false, if_false]
    rw [restartEngine_engOf, engOf_modCe_same, loseStandby_eng]
    exact ⟨rfl, rfl, rfl, rfl⟩
  case restartRefused =>
    intro c img s h hp hf
    refine runs_of_fail (o := opCeStandbyRestart img) (f := { status := imageStatus (flashResult s (par c 0 1) 0 img) }) rfl h ?_ rfl
    simp only [opCeStandbyRestart, if_neg hp, ne_eq, hf, not_false_eq_true, if_true]

end Sys2Proof.Machine
end

section
/-!
PROOF. The governor and the health monitor (O60).
-/
namespace Sys2Proof.Machine
open Sys2Proof

theorem govTile_congr {s t : State} (h : t.gov.tiles = s.gov.tiles) (k : Nat) : govTile t k = govTile s k := by rw [govTile, govTile, h]

@[simp] theorem govTile_modTileGov_same (k : Nat) (f : TileGov → TileGov) (s : State) : govTile (modTileGov k f s) k = f (govTile s k) :=
  tget_tput_same _ _ _ _

theorem govTile_modTileGov_other {k j : Nat} (f : TileGov → TileGov) (s : State) (h : j ≠ k) : govTile (modTileGov k f s) j = govTile s j :=
  tget_tput_other _ _ _ h

theorem govTile_modLane (l : Nat) (f : Lane → Lane) (s : State) (k : Nat) : govTile (modLane l f s) k = govTile s k := rfl

theorem raise_gov (t l n : Nat) (s : State) : (raise t l n s).gov = s.gov := (raise_within t l n (.refl (allBut .gov) s) rfl).keeps (c := .gov)

/-- PG_EVENT leaves the governor but for the time of the event. -/
theorem raisePg_gov (t k v : Nat) (s : State) : (raisePg t k v s).gov = { s.gov with eventAt := (raisePg t k v s).gov.eventAt } := by
  unfold raisePg
  split
  · rw [raise_gov]; rfl
  · rfl

theorem raisePg_tiles (t k v : Nat) (s : State) : (raisePg t k v s).gov.tiles = s.gov.tiles := by rw [raisePg_gov]

/-! ### Samples -/

/-- What a sample gives of the package and of one tile. -/
def sampleView (k : Nat) (s : State) : (Nat × Nat × Nat × GovConf) × Nat × List Int × Nat :=
  ((s.gov.lastSample, s.gov.powerDw, s.gov.classADw, s.gov.conf), (govTile s k).powerDw, (govTile s k).temps, (govTile s k).thermal)

theorem sampleView_raisePg (k t n v : Nat) (s : State) : sampleView k (raisePg t n v s) = sampleView k s := by
  rw [sampleView, sampleView, govTile, raisePg_gov]; rfl

theorem sampleView_modTileGov {k t : Nat} {f : TileGov → TileGov} (s : State)
    (hf : ∀ g, (f g).powerDw = g.powerDw ∧ (f g).temps = g.temps ∧ (f g).thermal = g.thermal) :
    sampleView k (modTileGov t f s) = sampleView k s := by
  by_cases h : k = t
  · subst h
    obtain ⟨hp, ht, hth⟩ := hf (govTile s k)
    rw [sampleView, govTile_modTileGov_same, hp, ht, hth]
    rfl
  · rw [sampleView, govTile_modTileGov_other _ _ h]; rfl

theorem sampleView_applyCredits (k t : Nat) (b : Bool) (s : State) : sampleView k (applyCredits t b s) = sampleView k s :=
  sampleView_modTileGov s fun _ => ⟨rfl, rfl, rfl⟩

theorem sampleView_admitJobs (k t : Nat) (s : State) : sampleView k (admitJobs t s) = sampleView k s := by
  unfold admitJobs
  extract_lets g
  split
  · split
    exact sampleView_modTileGov s fun _ => ⟨rfl, rfl, rfl⟩
  · rfl

theorem sampleView_budget (k : Nat) (l : List TileSample) (s : State) : sampleView k (budget l s) = sampleView k s := by
  unfold budget
  extract_lets unmet u short v
  have hu : sampleView k u = sampleView k s := by
    refine foldl_keeps (sampleView k) _ l s fun t x => ?_
    split
    · exact sampleView_modTileGov t fun _ => ⟨rfl, rfl, rfl⟩
    · rfl
  have hv : sampleView k v = sampleView k s := hu
  split
  · exact (sampleView_raisePg _ _ _ _ _).trans hv
  · split
    · exact (sampleView_raisePg _ _ _ _ _).trans hv
    · exact hv

theorem sampleView_criticality (k : Nat) (l : List TileSample) (s : State) : sampleView k (criticality l s) = sampleView k s := by
  unfold criticality
  extract_lets isOver n cond calm u
  have hu : sampleView k u = sampleView k s := rfl
  split
  · exact (sampleView_raisePg _ _ _ _ _).trans hu
  · split
    · exact (sampleView_raisePg _ _ _ _ _).trans hu
    · exact hu

theorem sampleView_computeGrants (k : Nat) (l : List TileSample) (s : State) : sampleView k (computeGrants l s) = sampleView k s := by
  unfold computeGrants
  extract_lets headroom energy bytes floors waitAll grants used left costs
  exact foldl_keeps (sampleView k) _ grants s fun t x => sampleView_modTileGov t fun _ => ⟨rfl, rfl, rfl⟩

/-- The sample's readings are felt: an injected temperature cools down, and TEMPERATURE fires above 105 °C (R374). -/
def feel (x : TileSample) (s : State) : State :=
  if overheated x.temps then detectorFires x.tile 0x10 false (coolDown x.tile s) else coolDown x.tile s

theorem feel_gov (x : TileSample) (s : State) : (feel x s).gov = s.gov ∧ (feel x s).part = s.part := by
  have hc : (coolDown x.tile s).gov = s.gov := (coolDown_within x.tile (.refl (allBut .gov) s) rfl).keeps (c := .gov)
  have hp : (coolDown x.tile s).part = s.part := (coolDown_within x.tile (.refl everyPart s) rfl).part
  unfold feel
  split
  · exact ⟨((detectorFires_within _ _ _ (.refl (allBut .gov) _) rfl).keeps (c := .gov)).trans hc,
      (detectorFires_within _ _ _ (.refl everyPart _) rfl).part.trans hp⟩
  · exact ⟨hc, hp⟩

theorem feel_count {x : TileSample} {s : State} (h : tget? s.hm.hot x.tile = none) :
    (detOf (feel x s) x.tile 0x10).count = (detOf s x.tile 0x10).count + (if overheated x.temps then 1 else 0) := by
  have hc : detOf (coolDown x.tile s) x.tile 0x10 = detOf s x.tile 0x10 := by rw [coolDown, h]; rfl
  unfold feel
  split
  · rw [detectorFires_count, hc]
  · rw [hc]; exact (BitVec.add_zero _).symm

/-- A tile's governor with the readings of a sample. -/
def withReadings (x : TileSample) (i : Nat) (q3 : Int) (th clock : Nat) (g : TileGov) : TileGov :=
  { g with powerDw := x.powerDw, classADw := x.classADw, temps := x.temps, peaks := maxPeaks g.peaks x.temps, maxQ3 := q3, hottest := i
           thermal := th, hotSince := if th = 2 then some (g.hotSince.getD clock) else none }

/-- A tile with the readings of a sample and its next thermal state. -/
def readingsTaken (x : TileSample) (s : State) : State :=
  modTileGov x.tile (withReadings x (hottestOf x.temps 0 (0, x.temps.headD 0)).1 (hottestOf x.temps 0 (0, x.temps.headD 0)).2
    (thermalNext (ceilOf (feel x s) x.tile) (govTile (feel x s) x.tile).thermal (hottestOf x.temps 0 (0, x.temps.headD 0)).2) (feel x s).clock)
    (feel x s)

theorem takeReadings_cases {x : TileSample} {s : State} (h : tget? s.hm.hot x.tile = none) :
    takeReadings x s = readingsTaken x s ∨ ∃ k v, takeReadings x s = raisePg x.tile k v (readingsTaken x s) := by
  have ht : heldTemps s x = x.temps := by simp only [heldTemps, h]
  have heq : ∃ k v, takeReadings x s = if thermalNext (ceilOf (feel x s) x.tile) (govTile (feel x s) x.tile).thermal
      (hottestOf x.temps 0 (0, x.temps.headD 0)).2 = (govTile (feel x s) x.tile).thermal then readingsTaken x s
      else raisePg x.tile k v (readingsTaken x s) := by
    unfold takeReadings
    rw [ht]
    exact ⟨_, _, rfl⟩
  obtain ⟨k, v, heq⟩ := heq
  rw [heq]
  split
  · exact .inl rfl
  · exact .inr ⟨k, v, rfl⟩

/-- The readings of a tile whose temperature is not injected. -/
theorem takeReadings_view {x : TileSample} {s : State} (h : tget? s.hm.hot x.tile = none) : sampleView x.tile (takeReadings x s) =
    ((s.gov.lastSample, s.gov.powerDw, s.gov.classADw, s.gov.conf), x.powerDw, x.temps,
      thermalNext (ceilOf s x.tile) (govTile s x.tile).thermal (hottestOf x.temps 0 (0, x.temps.headD 0)).2)
    ∧ (detOf (takeReadings x s) x.tile 0x10).count = (detOf s x.tile 0x10).count + (if overheated x.temps then 1 else 0) := by
  obtain ⟨hgov, -⟩ := feel_gov x s
  have htile : govTile (feel x s) x.tile = govTile s x.tile := govTile_congr (congrArg GovState.tiles hgov) _
  have hceil : ceilOf (feel x s) x.tile = ceilOf s x.tile := by rw [ceilOf, ceilOf, hgov]
  have hview : sampleView x.tile (readingsTaken x s) =
      ((s.gov.lastSample, s.gov.powerDw, s.gov.classADw, s.gov.conf), x.powerDw, x.temps,
        thermalNext (ceilOf s x.tile) (govTile s x.tile).thermal (hottestOf x.temps 0 (0, x.temps.headD 0)).2) := by
    rw [← hceil, ← htile, ← hgov, sampleView, readingsTaken, govTile_modTileGov_same]
    rfl
  obtain heq | ⟨k, v, heq⟩ := takeReadings_cases h
  · rw [heq]
    exact ⟨hview, feel_count h⟩
  · rw [heq, sampleView_raisePg, detOf_congr ((raisePg_within _ _ _ (.refl (allBut .hm) _) rfl).keeps (c := .hm))]
    exact ⟨hview, feel_count h⟩

/-- A sample begins: the settings given since the last one apply (R326). -/
def beginSample (s : State) : State := modGov s fun g => { g with lastSample := s.clock, conf := g.next.getD g.conf, next := none }

/-- The power of a sample's tiles. -/
def samplePower (l : List TileSample) (s : State) : State := modGov s fun g => { g with powerDw := total (·.powerDw) l, classADw := total (·.classADw) l }

/-- A sample in the CRITICAL state is counted. -/
def countCritical (l : List TileSample) (s : State) : State :=
  if s.gov.critical then l.foldl (fun s x => modTileGov x.tile (fun g => { g with criticalSamples := g.criticalSamples + 1 }) s) s else s

theorem sampleView_countCritical (k : Nat) (l : List TileSample) (s : State) : sampleView k (countCritical l s) = sampleView k s := by
  unfold countCritical
  split
  · exact foldl_keeps (sampleView k) _ l s fun t x => sampleView_modTileGov t fun _ => ⟨rfl, rfl, rfl⟩
  · rfl

/-- What a sample does after its readings. -/
def endSample (l : List TileSample) (s : State) : State := computeGrants l (countCritical l (criticality l (budget l (samplePower l s))))

theorem sampleView_endSample (k : Nat) (l : List TileSample) (s : State) : sampleView k (endSample l s) = sampleView k (samplePower l s) :=
  (sampleView_computeGrants k l _).trans ((sampleView_countCritical k l _).trans
    ((sampleView_criticality k l _).trans (sampleView_budget k l _)))

theorem countCritical_hm (l : List TileSample) (s : State) : (countCritical l s).hm = s.hm := by
  unfold countCritical
  split
  · exact foldl_keeps (fun s => s.hm) _ l s fun _ _ => rfl
  · rfl

theorem endSample_hm (l : List TileSample) (s : State) : (endSample l s).hm = s.hm :=
  ((computeGrants_within l (.refl (allBut .hm) _) rfl).keeps (c := .hm)).trans ((countCritical_hm l _).trans
    (((criticality_within l (.refl (allBut .hm) _) rfl).keeps (c := .hm)).trans ((budget_within l (.refl (allBut .hm) _) rfl).keeps (c := .hm))))

/-- Credits and admissions leave the readings and the detectors. -/
theorem admitted_view (k t : Nat) (b : Bool) (s : State) :
    sampleView k (admitJobs t (applyCredits t b (beginSample s))) = sampleView k (beginSample s)
      ∧ (admitJobs t (applyCredits t b (beginSample s))).hm = s.hm :=
  ⟨(sampleView_admitJobs k t _).trans (sampleView_applyCredits k t b _),
    (admitJobs_within t (applyCredits_within t b (.refl (allBut .hm) (beginSample s)) rfl) rfl).keeps (c := .hm)⟩

/-- A tile whose sample counts. -/
def sampledTile (s : State) (x : TileSample) : Bool := decide (x.tile < tiles s) && decide (service s x.tile ≠ .outOfService)

/-- A whole sample (R326 to R334). -/
def sampled (l : List TileSample) (s : State) : State :=
  endSample l (l.foldl (fun s x => takeReadings x s) (l.foldl (fun s x => admitJobs x.tile (applyCredits x.tile x.update s)) (beginSample s)))

theorem exec_governorSample {s : State} {x : TileSample} (hd : s.gov.lastSample + 100 * us ≤ s.clock) (ht : x.tile < tiles s)
    (hs : service s x.tile ≠ .outOfService) : exec (.governorSample [x]) s = .next
      (endSample [x] (takeReadings x (admitJobs x.tile (applyCredits x.tile x.update (beginSample s))))) := by
  have hl : [x].filter (sampledTile s) = [x] := List.filter_eq_self.mpr fun y hy => by
    obtain rfl := List.mem_singleton.mp hy
    simp only [sampledTile, Bool.and_eq_true, decide_eq_true_eq]
    exact ⟨ht, hs⟩
  generalize hn : s.gov.lastSample + 100 * us = n at hd
  have he : exec (.governorSample [x]) s = .next (sampled ([x].filter (sampledTile s)) s) := by
    simp only [exec, execGovernorSample, hn, if_neg (Nat.not_lt.mpr hd)]
    rfl
  rw [he, hl]
  rfl

/-! ### Settings of detectors -/

theorem detOf_modDet_other {t d k e : Nat} (f : Det → Det) (s : State) (h : detKey k e ≠ detKey t d) : detOf (modDet t d f s) k e = detOf s k e :=
  tget_tmod_other _ _ _ _ h

theorem detKey_ne {t k : Nat} (d : Nat) (h : k ≠ t) : detKey k d ≠ detKey t d := by
  unfold detKey; omega

/-- Thresholds set on a list of tiles. -/
theorem perS_setAll (d v : Nat) : ∀ (l : List Nat) (s : State) (k : Nat), k ∈ l ∨ (detOf s k d).perS = some v →
    (detOf (l.foldl (fun s t => modDet t d (fun x => { x with perS := some v }) s) s) k d).perS = some v
  | [], s, k, h => h.resolve_left List.not_mem_nil
  | t :: l, s, k, h => by
    rw [List.foldl_cons]
    refine perS_setAll d v l _ k ?_
    by_cases hk : k = t
    · subst hk
      exact .inr (by rw [detOf_modDet])
    · rw [detOf_modDet_other _ _ (detKey_ne d hk)]
      exact h.imp_left fun h => (List.mem_cons.mp h).resolve_left hk

/-! ### Occurrences -/

/-- A detector that fires stamps its occurrence and is the last of its tile. -/
theorem detectorFires_stamp (t d : Nat) (inj : Bool) (s : State) : (detOf (detectorFires t d inj s) t d).stampNs32 = ns32 s
    ∧ tget? (detectorFires t d inj s).hm.last t = some { det := d, injected := inj, stampNs32 := ns32 s }
    ∧ (detOf (detectorFires t d inj s) t d).sram = (detOf s t d).sram := by
  unfold detectorFires
  extract_lets limit u v x
  have hu : detOf v t d = detOf u t d := rfl
  have hv : (detOf v t d).stampNs32 = ns32 s ∧ (detOf v t d).sram = (detOf s t d).sram := by
    rw [hu, detOf_modDet]; exact ⟨rfl, rfl⟩
  have hlast : tget? v.hm.last t = some { det := d, injected := inj, stampNs32 := ns32 s } := tget?_tput_same _ _ _
  split
  · rw [detOf_congr (raise_hm _ _ _ _), detOf_modDet, raise_hm]
    exact ⟨hv.1, hlast, hv.2⟩
  · exact ⟨hv.1, hlast, hv.2⟩

/-- The error that comes at the act of a unit with no injection due. -/
theorem exec_realOccurs {k d u : Nat} {x : HitItem} {s : State} (hs : serving s k = true) (ha : detAbsent s k d = false) (hu : u < unitCount s k d)
    (hl : d ≠ 0x05 ∧ d ≠ 0x06) (hi : injectionDue s k d u = false) :
    exec (.hwDetectorOccurrence k d u (.act (some x))) s = .next (detectorEffect k d u false x s) := by
  obtain ⟨h5, h6⟩ := hl
  simp only [exec, execHwDetectorOccurrence, hs, ha, hi, decide_eq_false (Nat.not_le.mpr hu), beq_eq_false_iff_ne.mpr h5,
    beq_eq_false_iff_ne.mpr h6, Bool.not_true, Bool.or_self, Bool.false_and, Bool.false_eq_true, if_false, realOccurs, if_true]

theorem sramPresent (s : State) (k : Nat) : detAbsent s k 0x00 = false := rfl

/-! ### Reports -/

/-- What a batch of reports leaves: who reports, the clock, and whether a port is connected. -/
structure ReportersStand (s t : State) : Prop where
  linked : ∀ p, connected t p = connected s p
  part : t.part = s.part
  pkg : t.pkg = s.pkg
  rd : t.rd = s.rd
  clock : t.clock = s.clock

namespace ReportersStand

theorem refl (s : State) : ReportersStand s s := ⟨fun _ => rfl, rfl, rfl, rfl, rfl⟩

theorem trans {s t u : State} (h : ReportersStand s t) (h' : ReportersStand t u) : ReportersStand s u :=
  ⟨fun p => (h'.linked p).trans (h.linked p), h'.part.trans h.part, h'.pkg.trans h.pkg, h'.rd.trans h.rd, h'.clock.trans h.clock⟩

theorem foldl {α : Type} {f : State → α → State} (hf : ∀ s x, ReportersStand s (f s x)) (l : List α) (s : State) :
    ReportersStand s (l.foldl f s) := by
  induction l generalizing s with
  | nil => exact .refl s
  | cons x l ih => exact (hf s x).trans (ih _)

theorem serving {s t : State} (h : ReportersStand s t) : serving t = serving s := serving_congr h.part h.pkg

theorem tiles {s t : State} (h : ReportersStand s t) : tiles t = tiles s := by rw [Machine.tiles, Machine.tiles, h.part]

theorem writeReport (p : Nat) (b : Nat → List Byte) (s : State) : ReportersStand s (writeReport p b s) := by
  refine ⟨fun q => ?_, (writeReport_within p b (.refl everyPart s) rfl).part, (writeReport_within p b (.refl (allBut .pkg) s) rfl).keeps (c := .pkg),
    (writeReport_within p b (.refl (allBut .rd) s) rfl).keeps (c := .rd), (writeReport_within p b (.refl everyPart s) rfl).clock⟩
  have hp : portOf (Machine.writeReport p b s) q = portOf (leaveRoute (reportProducer p) s) q := rfl
  have hl : portOf (leaveRoute (reportProducer p) s) q = portOf s q := by
    unfold leaveRoute
    split <;> rfl
  rw [connected, connected, hp, hl]

theorem signalVector (via p v : Nat) (s : State) : ReportersStand s (signalVector via p v s) := by
  refine ⟨fun q => ?_, (signalVector_within via p v (.refl everyPart s) rfl).part,
    (signalVector_within via p v (.refl (allBut .pkg) s) rfl).keeps (c := .pkg),
    (signalVector_within via p v (.refl (allBut .rd) s) rfl).keeps (c := .rd), (signalVector_within via p v (.refl everyPart s) rfl).clock⟩
  unfold Machine.signalVector
  extract_lets x y k u
  split
  · split <;> rfl
  · split
    · rfl
    · exact portOf_modPort_all (g := connectedPort) (f := fun q => { q with intaAsserted := true }) (fun _ => rfl) p u q

end ReportersStand

/-- A ring after n more reports. -/
def advanced (n : Nat) (r : ReportRing) : ReportRing := { r with seq := r.seq + BitVec.ofNat 32 n }

theorem leaveRoute_hm (k : Nat) (s : State) : (leaveRoute k s).hm = s.hm := (leaveRoute_within k (.refl (allBut .hm) s) rfl).keeps (c := .hm)

theorem writeReport_rings (p : Nat) (b : Nat → List Byte) (s : State) :
    (writeReport p b s).hm.rings = tput s.hm.rings p (advanced 1 (tget {} s.hm.rings p)) := by
  have h : (writeReport p b s).hm.rings = tput (leaveRoute (reportProducer p) s).hm.rings p (advanced 1 (tget {} s.hm.rings p)) := rfl
  rw [h, leaveRoute_hm]

theorem advanced_advanced (m n : Nat) (r : ReportRing) : advanced m (advanced n r) = advanced (n + m) r := by
  simp only [advanced, BitVec.add_assoc, BitVec.ofNat_add]

/-- Reports of a list of units advance the ring of their port by as many. -/
theorem writeReports_same (p : Nat) (b : State → Nat → Nat → List Byte) : ∀ (l : List Nat) (s : State),
    tget {} (l.foldl (fun s x => writeReport p (b s x) s) s).hm.rings p = advanced l.length (tget {} s.hm.rings p)
  | [], s => by simp [advanced]
  | x :: l, s => by
    rw [List.foldl_cons, writeReports_same p b l, writeReport_rings, tget_tput_same, advanced_advanced, List.length_cons, Nat.add_comm]

theorem writeReports_other {p q : Nat} (b : State → Nat → Nat → List Byte) (h : q ≠ p) (l : List Nat) (s : State) :
    tget {} (l.foldl (fun s x => writeReport p (b s x) s) s).hm.rings q = tget {} s.hm.rings q :=
  foldl_keeps (fun s => tget {} s.hm.rings q) _ l s fun t x => by rw [writeReport_rings, tget_tput_other _ _ _ h]

theorem signalVector_hm (via p v : Nat) (s : State) : (signalVector via p v s).hm = s.hm :=
  (signalVector_within via p v (.refl (allBut .hm) s) rfl).keeps (c := .hm)

/-- How many reports a batch holds. -/
def reporters (s : State) : Nat :=
  ((List.range (tiles s)).filter (serving s)).length + ((List.range 2).filter fun e => decide ((engOf s e).state ≠ .absent)).length

theorem reporters_stand {s t : State} (h : ReportersStand s t) : reporters t = reporters s := by
  have he : engOf t = engOf s := funext fun e => engOf_of_rd h.rd e
  rw [reporters, reporters, h.tiles, h.serving, he]

/-- The reports of the tiles, then of the engines. -/
def batchTiles (p : Nat) (s : State) : State := ((List.range (tiles s)).filter (serving s)).foldl (fun s t => writeReport p (tileReport s t) s) s

def batchEngines (p : Nat) (s : State) : State :=
  ((List.range 2).filter fun e => decide ((engOf s e).state ≠ .absent)).foldl (fun s e => writeReport p (engineReport s e) s) s

theorem writeBatch_eq (s : State) (p : Nat) : writeBatch s p = if (tget {} s.hm.rings p).enabled && connected s p then
    (if (tget {} s.hm.rings p).irqEn then
      signalVector (routeOf (batchEngines p (batchTiles p s)) p p) p (tget {} s.hm.rings p).vector (batchEngines p (batchTiles p s))
    else batchEngines p (batchTiles p s)) else s := rfl

theorem batch_stand (p : Nat) (s : State) : ReportersStand s (batchTiles p s) ∧ ReportersStand s (batchEngines p (batchTiles p s)) := by
  have h : ReportersStand s (batchTiles p s) := .foldl (fun t x => .writeReport p (tileReport t x) t) _ s
  exact ⟨h, h.trans (.foldl (fun t x => .writeReport p (engineReport t x) t) _ _)⟩

theorem writeBatch_stand (s : State) (p : Nat) : ReportersStand s (writeBatch s p) := by
  rw [writeBatch_eq]
  split
  · split
    · exact (batch_stand p s).2.trans (.signalVector _ _ _ _)
    · exact (batch_stand p s).2
  · exact .refl s

theorem writeBatch_other {p q : Nat} (s : State) (h : q ≠ p) : tget {} (writeBatch s p).hm.rings q = tget {} s.hm.rings q := by
  have hb : tget {} (batchEngines p (batchTiles p s)).hm.rings q = tget {} s.hm.rings q :=
    (writeReports_other engineReport h _ _).trans (writeReports_other tileReport h _ s)
  rw [writeBatch_eq]
  split
  · split
    · rw [signalVector_hm, hb]
    · exact hb
  · rfl

theorem writeBatch_same {p : Nat} {s : State} (he : (tget {} s.hm.rings p).enabled = true) (hc : connected s p = true) :
    tget {} (writeBatch s p).hm.rings p = advanced (reporters s) (tget {} s.hm.rings p) := by
  have hengines : engOf (batchTiles p s) = engOf s := funext fun e => engOf_of_rd (batch_stand p s).1.rd e
  have hb : tget {} (batchEngines p (batchTiles p s)).hm.rings p = advanced (reporters s) (tget {} s.hm.rings p) := by
    rw [batchEngines, writeReports_same p engineReport, batchTiles, writeReports_same p tileReport, ← batchTiles, advanced_advanced, hengines]
    rfl
  rw [writeBatch_eq, he, hc, Bool.and_self, if_pos rfl]
  split
  · rw [signalVector_hm, hb]
  · exact hb

theorem writeBatches_other {p : Nat} : ∀ (l : List Nat) (s : State), p ∉ l →
    tget {} (l.foldl writeBatch s).hm.rings p = tget {} s.hm.rings p
  | [], _, _ => rfl
  | q :: l, s, h => by
    obtain ⟨hq, hl⟩ := not_or.mp (mt List.mem_cons.mpr h)
    rw [List.foldl_cons, writeBatches_other l _ hl, writeBatch_other s hq]

/-- Every port's ring gets its batch once. -/
theorem writeBatches_ring {p n : Nat} {s : State} (hp : p < n) (he : (tget {} s.hm.rings p).enabled = true) (hc : connected s p = true) :
    tget {} ((List.range n).foldl writeBatch s).hm.rings p = advanced (reporters s) (tget {} s.hm.rings p) := by
  induction n with
  | zero => exact absurd hp (Nat.not_lt_zero p)
  | succ n ih =>
    rw [List.range_succ, List.foldl_append, List.foldl_cons, List.foldl_nil]
    have hstand : ReportersStand s ((List.range n).foldl writeBatch s) := .foldl writeBatch_stand _ s
    by_cases h : p = n
    · subst h
      have hring : tget {} ((List.range p).foldl writeBatch s).hm.rings p = tget {} s.hm.rings p := writeBatches_other _ s (by simp)
      rw [writeBatch_same (by rw [hring]; exact he) ((hstand.linked p).trans hc), hring, reporters_stand hstand]
    · rw [writeBatch_other _ h, ih (by omega)]

theorem tget?_mapTab {α : Type} (f : Nat → α → α) (k : Nat) : ∀ t : Tab α, tget? (t.map fun (j, x) => (j, f j x)) k = (tget? t k).map (f k)
  | [] => rfl
  | (j, x) :: t => by
    rw [List.map_cons, tget?, tget?, tget?_mapTab f k t]
    split
    next h => rw [h]; rfl
    · rfl

/-- A detector's count for its period, once it was reported. -/
def reported (s : State) (k : Nat) (x : Det) : Det := if serving s (k / 32) then { x with period := 0, enginePeriod := 0 } else x

theorem newPeriod_det {s : State} {k d : Nat} (hd : d < 32) (hk : serving s k = true) : (detOf (newPeriod s) k d).period = 0 := by
  have h : (newPeriod s).hm.dets = s.hm.dets.map fun (j, x) => (j, reported s j x) := rfl
  have hkey : detKey k d / 32 = k := by unfold detKey; omega
  rw [detOf, tget, h, tget?_mapTab]
  cases tget? s.hm.dets (detKey k d) with
  | none => rfl
  | some x => rw [Option.map_some, Option.getD_some, reported, hkey, if_pos hk]

theorem newPeriod_kept (s : State) : (newPeriod s).hm.lastReport = s.clock ∧ (newPeriod s).hm.rings = s.hm.rings := ⟨rfl, rfl⟩

/-- Settles O60: the sample by what each of its steps leaves of the readings. -/
theorem governorAndHealthComplete : Obligations.GovernorAndHealthComplete := by
  refine ⟨?sample, ?early, ?critical, ?calm, ?starved, ?idle, ?quantum, ?eye, ?notRunning, ?config, ?query, ?tileQuery, ?sensors,
    ?report, ?reportEarly, ?lock, ?hmQuery, ?thresh, ?ring, ?unlock, ?inject, ?fires, ?clockLost, ?place, ?found, ?out⟩
  case sample =>
    intro s x hd hn ht hs hh
    refine runs_next (exec_governorSample hd ht hs) ?_
    obtain ⟨hu, hhm⟩ := admitted_view x.tile x.tile x.update s
    generalize admitJobs x.tile (applyCredits x.tile x.update (beginSample s)) = u at hu hhm
    obtain ⟨hv, hcount⟩ := takeReadings_view (x := x) (s := u) (by rw [hhm]; exact hh)
    generalize takeReadings x u = v at hv hcount
    have hend := sampleView_endSample x.tile [x] v
    have hdet : detOf (endSample [x] v) x.tile 0x10 = detOf v x.tile 0x10 := detOf_congr (endSample_hm [x] v) _ _
    have hudet : detOf u x.tile 0x10 = detOf s x.tile 0x10 := detOf_congr hhm _ _
    simp only [sampleView, Prod.mk.injEq, beginSample, modGov, hn, Option.getD_none] at hu hv
    obtain ⟨⟨hlast, -, -, hconf⟩, -, -, hthermal⟩ := hu
    obtain ⟨⟨hlast', -, -, -⟩, hpower, htemps, hth⟩ := hv
    simp only [sampleView, Prod.mk.injEq] at hend
    obtain ⟨⟨elast, epower, eclassA, -⟩, etpower, ettemps, etth⟩ := hend
    have hceil : ceilOf u x.tile = ceilOf s x.tile := by rw [ceilOf, ceilOf, hconf]
    refine ⟨elast.trans (hlast'.trans hlast), epower.trans (Nat.zero_add _), eclassA.trans (Nat.zero_add _), etpower.trans hpower,
      ettemps.trans htemps, etth.trans (hth.trans ?_), ?_⟩
    · rw [hceil, hthermal]; rfl
    · rw [hdet, hcount, hudet]
  case early =>
    intro s l hd
    generalize hn : s.gov.lastSample + 100 * us = n at hd
    exact runs_next (by simp only [exec, execGovernorSample, hn, if_pos hd]) rfl
  case critical =>
    intro s hc hd
    generalize hn : s.gov.lastCritEvent + 100 * ms = n at hd
    refine runs_next (by simp only [exec, execCriticalRepeat, hc, hn, hd, decide_true, Bool.and_self, if_true]; rfl) ?_
    rw [raisePg_gov]
    exact ⟨rfl, hc⟩
  case calm =>
    intro s hc
    exact runs_next (by simp only [exec, execCriticalRepeat, hc, Bool.false_and, Bool.false_eq_true, if_false]) rfl
  case starved =>
    intro s k j hj hr hst hd
    generalize hn : j.admittedAt.getD j.since + 60000 * ms = n at hd
    refine runs_next (by simp only [exec, execCStarved, hj, List.any_cons, List.any_nil, hr, hst, hn, hd, Bool.not_false, decide_true, Bool.and_self,
      Bool.or_false, if_true]; rfl) ?_
    rw [govTile_congr (raisePg_tiles _ _ _ _), govTile_modTileGov_same, hj]
    simp only [List.map_cons, List.map_nil, hr, hst, hn, hd, Bool.not_false, decide_true, Bool.and_self, if_true]
  case idle =>
    intro s k hj
    exact runs_next (by simp only [exec, execCStarved, hj, List.any_nil, Bool.false_eq_true, if_false]) rfl
  case quantum =>
    intro s k n j hj hr hl hk
    refine runs_next (t := modTileGov k (fun g => { g with jobs := g.jobs.set n { j with running := false, left := j.left - 1 } }) s) ?_
      (congrArg TileGov.jobs (govTile_modTileGov_same _ _ _))
    have hlast : (!j.endless && decide (j.left ≤ 1)) = false := by simp; omega
    simp only [exec, execClassCQuantumDone, hj, hr, hlast, Bool.not_true, Bool.false_eq_true, if_false]
    cases hkind : j.kind with
    | selfTest => exact absurd hkind hk
    | _ => rfl
  case eye =>
    intro s k n j l hj hr hl he hk
    refine runs_next (t := modLane l (fun x => { x with eye := x.eye.map fun e => { e with done := true } })
      (modTileGov k (fun g => { g with jobs := g.jobs.eraseIdx n }) s)) ?_
      ⟨congrArg TileGov.jobs ((govTile_modLane _ _ _ _).trans (govTile_modTileGov_same _ _ _)), congrArg Lane.eye (laneOf_modLane_same _ _ _)⟩
    simp only [exec, execClassCQuantumDone, hj, hr, hl, he, hk, Bool.not_true, Bool.not_false, Nat.le_refl, decide_true, Bool.and_self,
      Bool.false_eq_true, if_false, if_true]
    rfl
  case notRunning =>
    intro s k n j hj hr
    exact runs_next (by simp only [exec, execClassCQuantumDone, hj, hr, Bool.not_false, if_true]) rfl
  case config =>
    intro c s h
    refine answers_of_act (o := opPgConfig) rfl h ?_
    simp only [opPgConfig]
    split
    next hsame => exact ⟨rfl, hsame.symm, rfl, rfl⟩
    next hsame => exact ⟨rfl, rfl, rfl, rfl⟩
  case query => exact fun c s h => answers_of_act (o := opPgQuery) rfl h ⟨rfl, rfl, rfl⟩
  case tileQuery => exact fun c s h => answers_of_act (o := opPgTileQuery) rfl h ⟨rfl, rfl, rfl⟩
  case sensors => exact fun c s h => answers_of_act (o := opPgSensorRead) rfl h ⟨rfl, rfl, rfl⟩
  case report =>
    intro s hd
    generalize hn : s.hm.lastReport + 100 * ms = n at hd
    have hstand : ReportersStand s ((List.range (tiles s)).foldl writeBatch s) := .foldl writeBatch_stand _ s
    refine runs_next (t := newPeriod ((List.range (tiles s)).foldl writeBatch s))
      (by simp only [exec, execHealthReportTimer, hn, if_neg (Nat.not_lt.mpr hd)]) ?_
    obtain ⟨hlast, hrings⟩ := newPeriod_kept ((List.range (tiles s)).foldl writeBatch s)
    refine ⟨hlast.trans hstand.clock, fun k d hd32 hk => newPeriod_det hd32 (by rw [hstand.serving]; exact hk), fun p hp he hc => ?_⟩
    rw [hrings, writeBatches_ring hp he hc]
    rfl
  case reportEarly =>
    intro s hd
    generalize hn : s.hm.lastReport + 100 * ms = n at hd
    exact runs_next (by simp only [exec, execHealthReportTimer, hn, if_pos hd]) rfl
  case lock =>
    intro s u d hu
    by_cases h : d ≤ s.clock
    · refine runs_next (t := modHm s fun h => { h with unlock := none }) ?_ ⟨fun _ => rfl, fun hlt => absurd h (Nat.not_le.mpr hlt)⟩
      simp only [exec, execTestUnlockExpiry, hu, if_pos h]
    · refine runs_next (t := s) ?_ ⟨fun hle => absurd hle h, fun _ => rfl⟩
      simp only [exec, execTestUnlockExpiry, hu, if_neg h]
  case hmQuery =>
    intro c s h
    refine answers_of_act (o := opHmQuery) rfl h ⟨rfl, rfl, ?_⟩
    simp only [List.append_assoc]
    rw [← List.append_assoc, List.take_left' (by rw [List.length_append, leBytes_length, leBytes_length])]
  case thresh =>
    intro c s h
    refine answers_of_act (o := opHmThreshSet) rfl h ⟨rfl, ?_⟩
    intro k hk ha
    have hmem : k ∈ (namedTiles s (par c 0 1)).filter fun t => !detAbsent s t (par c 1 1) := List.mem_filter.mpr ⟨hk, by rw [ha]; rfl⟩
    split
    next hall => exact of_decide_eq_true (List.all_eq_true.mp hall k hmem)
    next => exact congrArg (Option.getD · _) (perS_setAll (par c 1 1) (par c 2 2) _ s k (.inl hmem))
  case ring => exact fun c s h => answers_of_act (o := opHmReportSet) rfl h ⟨rfl, tget_tput_same _ _ _ _, rfl⟩
  case unlock => exact fun c s h => answers_of_act (o := opHmTestUnlock) rfl h ⟨rfl, rfl, rfl⟩
  case inject => exact fun c s h => answers_of_act (o := opHmInject) rfl h ⟨rfl, detOf_modDet _ _ _ _, rfl⟩
  case fires =>
    intro s k d u x hs hd hu hi
    have ha : detAbsent s k d = false := by obtain rfl | rfl := hd <;> rfl
    have heffect : detectorEffect k d u false x s = detectorFires k d false s := by obtain rfl | rfl := hd <;> rfl
    refine runs_next ((exec_realOccurs hs ha hu (by omega) hi).trans (congrArg _ heffect)) ?_
    obtain ⟨hstamp, hlast, -⟩ := detectorFires_stamp k d false s
    exact ⟨detectorFires_count k d false s, hstamp, hlast⟩
  case clockLost =>
    intro s k u x hs hu hi
    subst hu
    refine runs_next (exec_realOccurs hs rfl (by simp [unitCount]) (by decide) hi) ?_
    exact ⟨detectorFires_count k 0x0D false s, tget?_tput_same _ _ _⟩
  case place =>
    intro s k u hs hu h9 hi
    refine runs_next (t := injectedOccurs k 0x00 u s) ?_ ?_
    · simp only [exec, execHwDetectorOccurrence, hs, sramPresent, hi, decide_eq_false (Nat.not_le.mpr hu), Bool.not_true, Bool.or_self]
      rfl
    · have hkept : detOf (consumeInjection k 0x00 s) k 0x00 = { detOf s k 0x00 with pending := (detOf s k 0x00).pending - 1 } := by
        rw [consumeInjection, detOf_congr (raise_hm _ _ _ _), detOf_modDet]
      have hdet : detOf (injectedOccurs k 0x00 u s) k 0x00 = { detOf (consumeInjection k 0x00 s) k 0x00 with
          sram := u :: (detOf (consumeInjection k 0x00 s) k 0x00).sram } := detOf_modDet _ _ _ _
      rw [hdet, hkept]
      exact ⟨List.mem_cons_self, rfl⟩
  case found =>
    intro s k u x hs hu h9 hm
    refine runs_next (t := detectorFires k 0x00 true (modDet k 0x00 (fun y => { y with sram := y.sram.erase u }) s)) ?_ ?_
    · simp only [exec, execHwDetectorOccurrence, hs, sramPresent, decide_eq_false (Nat.not_le.mpr hu), List.contains_iff_mem.mpr hm,
        Bool.not_true, Bool.or_self, Bool.false_eq_true, if_false, if_true, detectorEffect, h9]
      rfl
    · obtain ⟨-, -, hsram⟩ := detectorFires_stamp k 0x00 true (modDet k 0x00 (fun y => { y with sram := y.sram.erase u }) s)
      rw [hsram, detectorFires_count, detOf_modDet]
      exact ⟨rfl, rfl⟩
  case out =>
    intro s k d u r hs
    exact runs_next (by simp only [exec, execHwDetectorOccurrence, hs, Bool.not_false, Bool.true_or, if_true]) rfl

end Sys2Proof.Machine
end
